-- ==== Sys2Proof/Word.lean ====
section
/-! DEFINITION. Word types of the model and their plainest arithmetic. -/
namespace Sys2Proof

/-- A byte. -/
abbrev Byte := BitVec 8
/-- A 64-bit register value (Table 2.1). -/
abbrev Word := BitVec 64
/-- One Aelxel instruction word (R46). -/
abbrev IWord := BitVec 32
/-- A physical address, 44 bits (R19). -/
abbrev PA := BitVec 44
/-- A 64-byte line (Table 6.1), byte 0 in the least significant bits (R7). -/
abbrev Line := BitVec 512

/-- Size of a line in bytes (Table 6.1). -/
def lineBytes : Nat := 64

end Sys2Proof
end

