-- ==== Sys2Proof/Syntax.lean ====
section
/-! DEFINITION. The commands of the block: one constructor of `Instr` per row of spec/opcode_table.json,
in the table's order, with the operand types they use. -/
namespace Sys2Proof

/-- The core that executes: A-core c, or the T-core in slot k of island i (R40, R265). -/
inductive CoreId where
  | a (c : Fin 32)
  | t (i : Fin 4) (k : Fin 4)
  deriving DecidableEq, Repr

/-- A master on the mesh (Table 10.1, R325). -/
inductive Master where
  | core (c : Fin 32)
  | island (i : Fin 4)
  | smc
  | gateway (v : Fin 256)
  | flowEngine
  | dm (n : Fin 32)
  | pcie (k : Fin 2)
  | debug (secure : Bool) (part : Option (Fin 64))
  deriving DecidableEq, Repr

/-- Memory types (Table 5.5). -/
inductive MemType where
  | wb | wbNwa | wt | nc | devS | devP
  deriving DecidableEq, Repr

/-- Kinds of access of a translation (R179). -/
inductive Acc where
  | read | write | exec
  deriving DecidableEq, Repr

/-- Mesh error responses (Table 1.4). -/
inductive Resp where
  | decerr | wlderr | typerr | offerr | sizerr
  deriving DecidableEq, Repr

/-- How a local requester reaches the dictionary: the window, or a mailbox page (R439, R442). -/
inductive Path where
  | window | mailbox (page : Fin 64)
  deriving DecidableEq, Repr

/-- Who asks the dictionary agent (R436): a local master by a path, or a DAP node under a key slot. -/
inductive Req where
  | loc (p : Path) (m : Master)
  | dap (node : Nat) (key : Fin 8)
  deriving DecidableEq, Repr

/-- What an array read meets (R200 to R203): nothing, an L1 CRC mismatch, a single-bit error, an
uncorrectable data error, or an uncorrectable tag or filter error; or, whatever the read meets, that one bit of an island's
memory word (R276) or of an L1 copy of a line (R200) flips, which a later read finds. -/
inductive ArrayEvent where
  | good | l1Crc | single | multi | tag
  | upset (pa : Nat)
  | upsetL1 (c : Fin 32) (instr : Bool) (line : Nat)
  deriving DecidableEq, Repr

/-- An interrupt source by the register that holds it (Table 4.10, Table 4.13). -/
inductive SrcRef where
  | wired (n : Fin 1024)
  | msi (m : Fin 2048)
  | priv (c : Fin 32) (k : Fin 32)
  deriving DecidableEq, Repr

/-- How IRQ_ACK or VIRQ_ACK is read (R545): 8 bytes, the low 4 bytes, or the 4 bytes at + 0x004. -/
inductive AckAcc where
  | full | low | high
  deriving DecidableEq, Repr

/-- Atomic operations of Table 2.7 that read and write. -/
inductive AmoOp where
  | swap | add | and | or | xor | min | max | minu | maxu | cas
  deriving DecidableEq, Repr

/-- What a PCIe device asks of memory (R207). -/
inductive PcieOp where
  | read | write | atomic (op : AmoOp)
  deriving DecidableEq, Repr

/-- Who sends a home agent a non-caching request (Table 6.4). -/
inductive Requester where
  | pod (p : Fin 8)
  | master (m : Master)
  deriving DecidableEq, Repr

/-- An eviction leaves the L2 into an eviction buffer, or its notice reaches the home (R217). -/
inductive EvPhase where
  | leave | arrive
  deriving DecidableEq, Repr

/-- On-die severity report of a read (R252). -/
inductive Severity where
  | none | corrected | uncorrected
  deriving DecidableEq, Repr

/-- What a read of HBM meets: the errors of the stored symbols, each a symbol's place and its pattern (R249), and the on-die
severity report (R252). -/
structure ReadMeets where
  errs : List (Nat × Byte)
  sev : Severity
  deriving DecidableEq, Repr

/-- Outcome of PHY training of a stack (R260). -/
inductive TrainResult where
  | seeded | full | failed
  deriving DecidableEq, Repr

/-- CAN and LIN formats of a bus frame (Tables 12.1 and 12.4). -/
inductive BusFmt where
  | cc | fd | xl | lin
  deriving DecidableEq, Repr

/-- A frame on a CAN bus, or a LIN response as a bus frame (Tables 12.3 and 12.4). -/
structure BusFrame where
  fmt : BusFmt
  ext : Bool
  id : BitVec 29
  rtr : Bool
  brs : Bool
  esi : Bool
  classic : Bool
  dlc : Nat
  sdt : Byte
  vcid : Byte
  af : BitVec 32
  data : List Byte
  deriving DecidableEq, Repr

/-- A valid frame on a CAN channel, and the device time at the sample point of its SOF bit (R392). -/
structure CanRx where
  fr : BusFrame
  sof : Nat
  deriving DecidableEq, Repr

/-- How a transmission attempt on CAN ends (R413). -/
inductive CanEnd where
  | ok | error | errorLastEof | lost
  deriving DecidableEq, Repr

/-- How much an error seen while receiving raises REC, by ISO 11898-1 (Table 12.1). -/
inductive RecError where
  | one | eight
  deriving DecidableEq, Repr

/-- An 802.1AS message received on a port, with its domain number (R358): a Sync and the offset that it shows, or an Announce
and its priority vector, of which the lesser is the better. -/
inductive GptpEvent where
  | sync (n : Fin 24) (domain : Byte) (offset : Int)
  | announce (n : Fin 24) (domain : Byte) (vector : Nat)
  deriving DecidableEq, Repr

/-- The 802.1AS timers of an instance (R358): a Sync is due, or no Announce has come on a port for too long. -/
inductive GptpTimer where
  | syncDue
  | announceLost (n : Fin 24)
  deriving DecidableEq, Repr

/-- The boot directory in flash: whether its first 4 KiB can be read, and their bytes (R493, Table 16.6). -/
structure BootDir where
  readOk : Bool
  bytes : List Byte
  deriving DecidableEq, Repr

/-- What the board, the fuses and the seed store present when PORST_N rises (R37, R349, R465, R493, R533, R539); `keyDigest`
holds the fused key digest of each slot; the uncorrectable items of the seed store are given as index × 256 + subindex. -/
structure Board where
  testEn : Bool
  g2 : Bool
  uid : BitVec 128
  bifur : Bool
  keyState : Vector (Fin 3) 4
  keyDigest : Vector (BitVec 384) 4
  secMin : Vector Nat 7
  seedBad : List Nat
  dir : BootDir
  deriving DecidableEq, Repr

/-- The header of an image: whether the image can be read, and its first 0x1600 bytes (Table 10.7, R348). -/
structure ImageHeader where
  readOk : Bool
  bytes : List Byte
  deriving DecidableEq, Repr

/-- The transport that carried a DAP PDU (Table 14.5). -/
inductive Transport where
  | canFd (ch : Fin 24) | canXl (ch : Fin 24) | udp
  deriving DecidableEq, Repr

/-- A flow-command slot: a VI's, or the Secure slot (R378). -/
inductive FlowSlot where
  | vi (v : Fin 256)
  | secure
  deriving DecidableEq, Repr

/-- A bus channel: CAN or LIN (R389, R391). -/
inductive BusChan where
  | can (n : Fin 24)
  | lin (m : Fin 12)
  deriving DecidableEq, Repr

/-- The commands. One constructor per row of spec/opcode_table.json; an instruction row carries the
executing core and the instruction word that its fetch delivered (R46). -/
inductive Instr where
  | integerOp (c : CoreId) (w : IWord)
  | multiply (c : CoreId) (w : IWord)
  | divide (c : CoreId) (w : IWord)
  | load (c : CoreId) (w : IWord) (ev : ArrayEvent)
  | store (c : CoreId) (w : IWord)
  | floatOp (c : CoreId) (w : IWord)
  | conditionalBranch (c : CoreId) (w : IWord)
  | jump (c : CoreId) (w : IWord)
  | registerJump (c : CoreId) (w : IWord)
  | amo (c : CoreId) (w : IWord)
  | cas (c : CoreId) (w : IWord)
  | lda (c : CoreId) (w : IWord)
  | stl (c : CoreId) (w : IWord)
  | bcopy (c : CoreId) (w : IWord) (units : Nat)
  | bfill (c : CoreId) (w : IWord) (units : Nat)
  | bcrc (c : CoreId) (w : IWord) (units : Nat)
  | bcrcE (c : CoreId) (w : IWord) (units : Nat)
  | ldm (c : CoreId) (w : IWord) (units : Nat)
  | stm (c : CoreId) (w : IWord) (units : Nat)
  | mfs (c : CoreId) (w : IWord)
  | mts (c : CoreId) (w : IWord)
  | eret (c : Fin 32) (w : IWord)
  | tEret (i : Fin 4) (k : Fin 4) (w : IWord)
  | gate (c : CoreId) (w : IWord)
  | gret (c : CoreId) (w : IWord)
  | fence (c : CoreId) (w : IWord)
  | fenceI (c : CoreId) (w : IWord)
  | fenceD (c : CoreId) (w : IWord)
  | fenceT (c : CoreId) (w : IWord)
  | spb (c : CoreId) (w : IWord)
  | prflush (c : CoreId) (w : IWord)
  | prbar (c : CoreId) (w : IWord)
  | wfi (c : CoreId) (w : IWord)
  | brk (c : CoreId) (w : IWord)
  | nop (c : CoreId) (w : IWord)
  | chkpt (c : CoreId) (w : IWord)
  | tlbiva (c : CoreId) (w : IWord)
  | tlbivaa (c : CoreId) (w : IWord)
  | tlbipcid (c : CoreId) (w : IWord)
  | tlbipart (c : CoreId) (w : IWord)
  | tlbiipa (c : CoreId) (w : IWord)
  | tlbis2 (c : CoreId) (w : IWord)
  | tlbiall (c : CoreId) (w : IWord)
  | tlbiRemoteEffect (dst : Fin 32)
  | dcc (c : CoreId) (w : IWord)
  | dcci (c : CoreId) (w : IWord)
  | dci (c : CoreId) (w : IWord)
  | ici (c : CoreId) (w : IWord)
  | zline (c : CoreId) (w : IWord)
  | loop (c : CoreId) (w : IWord)
  | cmove (c : CoreId) (w : IWord)
  | cincb (c : CoreId) (w : IWord)
  | csetl (c : CoreId) (w : IWord)
  | candp (c : CoreId) (w : IWord)
  | cseal (c : CoreId) (w : IWord)
  | cunseal (c : CoreId) (w : IWord)
  | cclrt (c : CoreId) (w : IWord)
  | cgetb (c : CoreId) (w : IWord)
  | cgetl (c : CoreId) (w : IWord)
  | cgetp (c : CoreId) (w : IWord)
  | cgett (c : CoreId) (w : IWord)
  | cgetg (c : CoreId) (w : IWord)
  | ccall (c : CoreId) (w : IWord)
  | cret (c : CoreId) (w : IWord)
  | cmfc (c : CoreId) (w : IWord)
  | cmtc (c : CoreId) (w : IWord)
  | clc (c : CoreId) (w : IWord)
  | csc (c : CoreId) (w : IWord)
  | storeBufferDrain (c : Fin 32)
  | partialOverlapReissue (c : Fin 32)
  | l1dMissFill (c : Fin 32) (line : PA)
  | prefetchIssue (c : Fin 32) (va : Word)
  | tableWalk (c : Fin 32) (va : Word) (kind : Acc)
  | adUpdate (c : Fin 32) (va : Word) (stage2 : Bool) (ea : PA) (seen : Word) (write : Bool)
  | interruptTake (c : Fin 32)
  | irqInputAssert (src : SrcRef) (level : Bool)
  | irqPulse (src : SrcRef)
  | irqAck (m : Master) (c : Fin 32) (acc : AckAcc)
  | irqEoi (m : Master) (c : Fin 32) (v : Word)
  | irqSgi (m : Master) (c : Fin 32) (v : Word)
  | setpend (m : Master) (src : SrcRef) (v : Word)
  | clrpend (m : Master) (src : SrcRef) (v : Word)
  | virqInj (m : Master) (p : Fin 64) (v : Word)
  | virqAck (m : Master) (p : Fin 64) (acc : AckAcc)
  | virqEoi (m : Master) (p : Fin 64) (v : Word)
  | msiDoorbell (k : Fin 2) (size : Nat) (v : BitVec 32)
  | registerWrite (m : Master) (t : MemType) (addr : PA) (size : Nat) (v : Word)
  | tcmMeshWrite (m : Master) (t : MemType) (addr : PA) (size : Nat) (v : Word)
  | pcieInboundRequest (k : Fin 2) (op : PcieOp) (addr : PA) (data : List Byte) (len : Nat)
  | rdShare (p : Fin 8) (line : PA) (tc : Fin 4) (ev : ArrayEvent)
  | rdOwn (p : Fin 8) (line : PA) (tc : Fin 4)
  | rdPeek (r : Requester) (line : PA) (tc : Fin 4) (ev : ArrayEvent)
  | wrPush (r : Requester) (addr : PA) (data : List Byte) (tc : Fin 4)
  | haAtomic (r : Requester) (op : AmoOp) (addr : PA) (size : Nat) (v : Word) (cmp : Word) (tc : Fin 4)
  | evClean (p : Fin 8) (line : PA) (ph : EvPhase)
  | evDirty (p : Fin 8) (line : PA) (ph : EvPhase)
  | snShare (p : Fin 8) (line : PA)
  | snTake (p : Fin 8) (line : PA)
  | snPeek (p : Fin 8) (line : PA)
  | snoopAnswer (p : Fin 8) (line : PA) (ev : ArrayEvent)
  | evictionAck (p : Fin 8) (line : PA)
  | snoopTimeout (line : PA)
  | fatalGraceExpiry
  | cleanWays (q : Req) (v : BitVec 16)
  | cleanWaysDone
  | suspectClear (q : Req) (v : BitVec 32)
  | hbmCommand (p : Fin 64) (m : ReadMeets) (wrong : Option PA)
  | hbmCorrectionWriteback (p : Fin 64)
  | hbmVerifyRead (p : Fin 64) (m : ReadMeets)
  | hbmRefresh (p : Fin 64) (sid : Fin 3) (bank : Fin 16)
  | hbmRfm (p : Fin 64) (sid : Fin 3) (bank : Fin 16)
  | patrolScrubRead (p : Fin 64) (m : ReadMeets)
  | rowRepair (p : Fin 64) (spareLeft : Bool)
  | migrationChunkDone (p : Fin 64)
  | hbmRetraining (p : Fin 64)
  | hbmRetrainingDone (p : Fin 64) (persist : Bool)
  | hbmTrainingDone (stack : Fin 2) (r : TrainResult)
  | hbmFillDone
  | islandInterruptOffer (i : Fin 4)
  | tInterruptEntry (i : Fin 4) (k : Fin 4)
  | farLoadData (i : Fin 4) (n : Nat)
  | tStoreBufferDrain (i : Fin 4) (k : Fin 4) (ev : ArrayEvent)
  | islEoi (i : Fin 4) (id : BitVec 12)
  | doorbell (m : Master) (i : Fin 4) (d : Fin 16) (v : Word)
  | spiData (i : Fin 4) (k : Fin 2) (v : BitVec 32)
  | spiTransferDone (i : Fin 4) (k : Fin 2) (rx : BitVec 32)
  | captureInputEdge (i : Fin 4) (n : Fin 16) (level : Bool)
  | pennantWindowClose (i : Fin 4) (k : Fin 4)
  | pennantComparison (i : Fin 4) (k : Fin 4)
  | pennantSkewTimeout (i : Fin 4)
  | outputQueueComparison (i : Fin 4) (k : Fin 4)
  | outputSkewTimeout (i : Fin 4)
  | writeRelease (i : Fin 4) (ev : ArrayEvent)
  | votedWriteResponse (i : Fin 4) (resp : Resp)
  | selfTestDone (i : Fin 4) (k : Fin 4) (pass : Bool)
  | injectionTestDone (i : Fin 4) (failed : BitVec 11)
  | rejoinCopyDone (i : Fin 4)
  | voterRestartHold (q : Req) (i : Fin 4)
  | voterRestartRelease (q : Req) (i : Fin 4)
  | hsRelease (q : Req) (i : Fin 4) (v : Word)
  | huskClaim (q : Req) (h : Fin 1024)
  | huskSeal (q : Req) (h : Fin 1024)
  | huskDestroy (q : Req) (h : Fin 1024)
  | huskSealingDone (h : Fin 1024)
  | huskClearingDone (h : Fin 1024)
  | debugHaltRequest (c : CoreId)
  | powerReq (q : Req) (d : Fin 64) (v : Byte)
  | powerHold (q : Req) (d : Fin 64) (v : Byte)
  | domainTransitionDone (d : Fin 64)
  | deviceReqSuspend (q : Req)
  | deviceReqSleep (q : Req)
  | deviceReqActive (q : Req)
  | suspendCoresIdle
  | suspendWaitExpiry
  | suspendToSleepExpiry
  | wakePatternMatch (ch : Fin 8) (fr : BusFrame)
  | wakeInDebounceExpiry (n : Fin 8)
  | wakeTimer
  | podMhz (q : Req) (p : Fin 8) (v : BitVec 16)
  | podPllRelockDone (p : Fin 8)
  | thermalThrottle (sensor : Fin 16) (raw : Int)
  | thermalUnthrottle (sensor : Fin 16) (raw : Int)
  | porstN (b : Board)
  | bootImageVerify (h : ImageHeader) (unit : Nat) (body : List Byte)
  | islandImageStage (i : Fin 4)
  | bootCoreRelease
  | sysrstN
  | sysreset (q : Req) (v : BitVec 32)
  | smcWdt (q : Req) (v : BitVec 16)
  | smcWatchdogExpiry
  | voltageMonitorTrip (m : Fin 8)
  | pmicStatusPoll (st : Byte) (late : Bool)
  | pmicPowerUpRetry
  | pmicInt
  | frameReceive (n : Fin 24) (fr : List Byte) (fcsOk : Bool) (rxTime : Nat)
  | carveOutReadDone (poison : Bool)
  | rxDescriptorFill (v : Fin 256) (qp : Fin 16)
  | txTail (m : Master) (v : Fin 256) (qp : Fin 16) (val : Word)
  | rxTail (m : Master) (v : Fin 256) (qp : Fin 16) (val : Word)
  | txDescriptorReadDone (v : Fin 256) (qp : Fin 16)
  | frameTransmitStart (n : Fin 24) (q : Fin 8)
  | frameTransmitEnd (n : Fin 24)
  | launchTimeReached (n : Fin 24) (q : Fin 8)
  | gateControlIntervalEnd (n : Fin 24)
  | gclApply (q : Req) (n : Fin 24) (v : Word)
  | gclSwitch (n : Fin 24)
  | sglApply (q : Req) (g : Fin 64) (v : Word)
  | sglSwitch (g : Fin 64)
  | streamGateIntervalEnd (g : Fin 64)
  | preemptVerifyResponse (n : Fin 24) (ok : Bool)
  | gptpMessage (k : Fin 4) (e : GptpEvent)
  | flowInsert (sl : FlowSlot) (v : Fin 256) (key : List Byte) (ctx : List Byte)
  | flowRemove (sl : FlowSlot) (handle : Fin 1048576)
  | flowRead (sl : FlowSlot) (handle : Fin 1048576)
  | flowFind (sl : FlowSlot) (key : List Byte)
  | flowUpdate (sl : FlowSlot) (handle : Fin 1048576) (ctx : List Byte)
  | flowClear (sl : FlowSlot) (handle : Fin 1048576)
  | flowBulk (v : Fin 256) (recs : List (List Byte × List Byte))
  | viIrqStat (m : Master) (v : Fin 256) (val : Word)
  | irqModExpiry (v : Fin 256)
  | qpEnable (q : Req) (v : Fin 256) (qp : Fin 16) (val : Word)
  | microcodeLoad
  | microcodeWatchdogExpiry
  | canFrameReceive (n : Fin 24) (fr : CanRx)
  | encapWindowTimeout (s : Fin 64)
  | acfFrameBuild (s : Fin 64)
  | canArbitrationAttempt (n : Fin 24)
  | canAttemptEnd (n : Fin 24) (e : CanEnd) (dur : Nat)
  | canBusoffRecovery (n : Fin 24)
  | canRestart (q : Req) (n : Fin 24) (v : Word)
  | channelEnableOff (q : Req) (ch : BusChan)
  | loadHoldEnd (n : Fin 24)
  | linHeader (m : Fin 12) (id : Fin 64)
  | linResponseReceive (m : Fin 12) (data : List Byte) (sum : Byte)
  | linResponseTimeout (m : Fin 12)
  | linScheduleSlot (m : Fin 12)
  | schedRun (q : Req) (m : Fin 12) (v : Word)
  | pwmPeriodStart (i : Fin 4) (n : Fin 16)
  | envViolStat (m : Master) (v : Word)
  | dictWindowRead (m : Master) (index : BitVec 16) (sub : Byte)
  | dictWindowWrite (m : Master) (index : BitVec 16) (sub : Byte) (v : Word)
  | mbRead (m : Master) (page : Fin 64)
  | mbWrite (m : Master) (page : Fin 64)
  | seedStoreWriteDone (ok : Bool)
  | dapPduReceive (tr : Transport) (pdu : List Byte)
  | dapRead
  | dapWrite
  | dapSubscribe
  | dapUnsubscribe
  | dapNotify (sub : Fin 256)
  | dapPing
  | broadcastPingDelay
  | dapEnsignClaim
  | dapEnsignRelease
  | ensignClaim (q : Req) (e : BitVec 32)
  | ensignWindowClose
  | ensignLeaseExpiry
  | dapAck
  | dapAbort
  | dapSegment
  | dapTransactionTimeout (n : Nat)
  | calUnlock (q : Req) (v : BitVec 32)
  | calEntryWrite (q : Req) (index : BitVec 16) (sub : Byte) (v : List Byte)
  | selfcalVmon (q : Req) (m : Fin 8)
  | selfcalClock (q : Req) (c : Fin 4)
  | selfcalSerdes (q : Req) (n : Fin 24)
  | selfcalHbmSeed (q : Req) (s : Fin 2)
  | selfcalDone (result : Option (List Byte))
  | keyRevoke (q : Req) (v : Byte)
  | retireClear (q : Req) (v : BitVec 32)
  | fbPop (m : Master) (b : Fin 49) (v : Word)
  | ledgerTail (q : Req) (v : BitVec 32)
  | dmTail (m : Master) (n : Fin 32) (v : Word)
  | dmDescriptorStart (n : Fin 32)
  | dmDescriptorComplete (n : Fin 32)
  | dmError (n : Fin 32) (dst : Bool) (good : BitVec 32)
  | dmAbort (m : Master) (n : Fin 32) (v : Word)
  | dmAbortAll (m : Master) (n : Fin 32) (v : Word)
  | dmEnable (q : Req) (n : Fin 32) (v : Word)
  | gpioEdge (n : Fin 32) (level : Bool)
  | gpioIrqStat (m : Master) (v : Word) (edges : BitVec 32)
  | portLinkChange (n : Fin 24) (up : Bool)
  | porstNLow
  | canIntegrationEnd (n : Fin 24)
  | canErrorDetected (n : Fin 24) (e : RecError)
  | gptpTimer (k : Fin 4) (e : GptpTimer)
  | pllLock
  | sramFillDone
  | debugResume (c : CoreId) (single : Bool)
  | pciePerstNRise (k : Fin 2)
  | shaperCreditRecovered (n : Fin 24) (q : Fin 8)
  | rejoinCaptureDone (i : Fin 4)
  deriving DecidableEq, Repr

end Sys2Proof
end

