-- ==== Sys2Proof/Decode.lean ====
section
/-! DEFINITION. The opcode table gives the rows no bits, so no word spells a command; the instruction words of
the Aelxel rows are decoded and encoded by Tables 2.3 to 2.11. -/
namespace Sys2Proof

/-- The command that a word spells by the table's bits: the table gives no row any bits. -/
def decodeTableWord (_nbits _w : Nat) : Option Instr := none

/-- Two-source operations of group 0x01 (Table 2.5). -/
inductive Alu2 where
  | add | sub | and | or | xor | andn | orn | shl | shr | sar | ror | slt | sltu | min | max | minu | maxu
  deriving DecidableEq, Repr

/-- One-source operations of group 0x01 (Table 2.5). -/
inductive Alu1 where
  | clz | ctz | popc | bswap | sextb | sexth | zextw
  deriving DecidableEq, Repr

/-- Immediate arithmetic (Table 2.4). -/
inductive AluI where
  | addi | andi | ori | xori | slti | sltui
  deriving DecidableEq, Repr

/-- Shift-immediate operations (Table 2.5). -/
inductive ShOp where
  | shl | shr | sar | ror
  deriving DecidableEq, Repr

/-- Multiplications (Table 2.5). -/
inductive MulOp where
  | mul | mulh | mulhu | mulhsu
  deriving DecidableEq, Repr

/-- Divisions (Table 2.5). -/
inductive DivOp where
  | div | divu | rem | remu
  deriving DecidableEq, Repr

/-- Loads (Table 2.4). -/
inductive LdOp where
  | lb | lh | lw | ld | lbu | lhu | lwu | flw | fld
  deriving DecidableEq, Repr

/-- Stores (Table 2.4). -/
inductive StOp where
  | sb | sh | sw | sd | fsw | fsd
  deriving DecidableEq, Repr

/-- Conditions of a branch (Table 2.4). -/
inductive Cond where
  | eq | ne | lt | ge | ltu | geu
  deriving DecidableEq, Repr

/-- Floating-point operations (Table 2.6). -/
inductive FpOp where
  | add | sub | mul | div | sqrt | mac | min | max | sgnj | sgnjn | sgnjx | eq | lt | le | class_
  | cvtFI | cvtFU | cvtIF | cvtUF | cvtP | mvFG | mvGF
  deriving DecidableEq, Repr

/-- Block operations (Table 2.8). -/
inductive BlkOp where
  | bcopy | bfill | bcrc | bcrcE | ldm | stm
  deriving DecidableEq, Repr

/-- TLB operations (Table 2.10). -/
inductive TlbiOp where
  | va | vaAll | pcid | part | ipa | s2 | all
  deriving DecidableEq, Repr

/-- Cache operations (Table 2.10). -/
inductive CacheOp where
  | dcc | dcci | dci | ici | zline
  deriving DecidableEq, Repr

/-- What a CGET instruction reads (Table 2.11). -/
inductive CapField where
  | base | len | perms | otype | tag
  deriving DecidableEq, Repr

/-- Kinds of FENCE (R73, R74). -/
inductive FenceOp where
  | order (mask : BitVec 4) | i | d | t
  deriving DecidableEq, Repr

/-- Register numbers. -/
abbrev Reg := Fin 32

/-- An Aelxel instruction with its operand fields (Tables 2.3 to 2.11). Fields that no table requires to be zero
and no operation uses are kept, so that every word has one reading. -/
inductive Aelxel where
  | alu2 (op : Alu2) (w : Bool) (rd rs1 rs2 : Reg)
  | alu1 (op : Alu1) (w : Bool) (rd rs1 : Reg)
  | aluI (op : AluI) (rd rs1 : Reg) (imm : BitVec 16)
  | shI (op : ShOp) (w : Bool) (rd rs1 : Reg) (sh : Fin 64)
  | lui (rd : Reg) (imm : BitVec 21)
  | auipc (rd : Reg) (imm : BitVec 21)
  | mul (op : MulOp) (w : Bool) (rd rs1 rs2 : Reg)
  | div (op : DivOp) (w : Bool) (rd rs1 rs2 : Reg)
  | load (op : LdOp) (rd rs1 : Reg) (imm : BitVec 16)
  | store (op : StOp) (rt rs1 : Reg) (imm : BitVec 16)
  | branch (c : Cond) (rs1 rs2 : Reg) (a : Bool) (off : BitVec 15)
  | jmp (link : Bool) (a : Bool) (off : BitVec 25)
  | jr (a : Bool) (rs1 : Reg)
  | jalr (a : Bool) (rd rs1 : Reg)
  | fp (op : FpOp) (single : Bool) (rm : Fin 8) (rd rs1 rs2 : Reg)
  | amo (op : AmoOp) (aq rl dbl : Bool) (rd rs1 rs2 : Reg)
  | lda (dbl : Bool) (rd rs1 : Reg)
  | stl (dbl : Bool) (rs1 rs2 : Reg)
  | block (op : BlkOp) (rd rs1 rs2 : Reg)
  | mfs (rd : Reg) (sr : BitVec 12)
  | mts (sr : BitVec 12) (rs1 : Reg)
  | eret
  | gret
  | fence (k : FenceOp)
  | spb
  | prflush (scope : Bool)
  | prbar (b : Bool)
  | wfi
  | brk (code : BitVec 12)
  | nop
  | chkpt
  | gate (n : BitVec 16)
  | tlbi (op : TlbiOp) (p : Bool) (rs1 : Reg)
  | cache (op : CacheOp) (rs1 : Reg)
  | loop (l : Fin 2) (imm : Bool) (len : BitVec 10) (cnt : BitVec 14)
  | cmove (cd cs : Fin 16) (rs2 : Reg)
  | cincb (cd cs : Fin 16) (rs2 : Reg)
  | csetl (cd cs : Fin 16) (rs2 : Reg)
  | candp (cd cs : Fin 16) (rs2 : Reg)
  | cseal (cd cs ct : Fin 16)
  | cunseal (cd cs ct : Fin 16)
  | cclrt (cd cs : Fin 16) (rs2 : Reg)
  | cget (f : CapField) (rd : Reg) (cs : Fin 16) (rs2 : Reg)
  | ccall (cs ct : Fin 16)
  | cret (cs ct : Fin 16)
  | cmfc (cd : Fin 16) (n : Fin 2)
  | cmtc (cs : Fin 16)
  | clc (cd : Fin 16) (rs1 : Reg) (imm : BitVec 16)
  | csc (cs : Fin 16) (rs1 : Reg) (imm : BitVec 16)
  deriving DecidableEq, Repr

/-! ## Fields and tables -/

/-- A field of a word: n bits from bit lo on (Table 2.3). -/
def fld (w : IWord) (lo n : Nat) : Nat := (w.toNat >>> lo) % 2 ^ n

/-- A register field. -/
def regF (w : IWord) (lo : Nat) : Reg := ⟨(w.toNat >>> lo) % 2 ^ 5, Nat.mod_lt _ (by decide)⟩

/-- A capability-register field; bit 4 set makes the encoding illegal (R47). -/
def capF (w : IWord) (lo : Nat) : Option (Fin 16) :=
  if h : fld w lo 5 < 16 then some ⟨fld w lo 5, h⟩ else none

/-- Function values of group 0x01 with two sources. -/
def alu2Tab : List (Nat × Alu2) :=
  [(0x00, .add), (0x01, .sub), (0x02, .and), (0x03, .or), (0x04, .xor), (0x05, .andn), (0x06, .orn),
   (0x08, .shl), (0x09, .shr), (0x0A, .sar), (0x0B, .ror), (0x10, .slt), (0x11, .sltu), (0x12, .min),
   (0x13, .max), (0x14, .minu), (0x15, .maxu)]
/-- Function values of group 0x01 with one source. -/
def alu1Tab : List (Nat × Alu1) :=
  [(0x18, .clz), (0x19, .ctz), (0x1A, .popc), (0x1B, .bswap), (0x1C, .sextb), (0x1D, .sexth), (0x1E, .zextw)]
/-- Function values of multiplications. -/
def mulTab : List (Nat × MulOp) := [(0, .mul), (1, .mulh), (2, .mulhu), (3, .mulhsu)]
/-- Function values of divisions. -/
def divTab : List (Nat × DivOp) := [(4, .div), (5, .divu), (6, .rem), (7, .remu)]
/-- Major opcodes of immediate arithmetic. -/
def aluITab : List (Nat × AluI) :=
  [(0x03, .addi), (0x04, .andi), (0x05, .ori), (0x06, .xori), (0x08, .slti), (0x09, .sltui)]
/-- Function values of shifts by an immediate. -/
def shTab : List (Nat × ShOp × Bool) :=
  [(0x000, .shl, false), (0x001, .shr, false), (0x002, .sar, false), (0x003, .ror, false),
   (0x100, .shl, true), (0x101, .shr, true), (0x102, .sar, true), (0x103, .ror, true)]
/-- Major opcodes of loads. -/
def ldTab : List (Nat × LdOp) :=
  [(0x10, .lb), (0x11, .lh), (0x12, .lw), (0x13, .ld), (0x14, .lbu), (0x15, .lhu), (0x16, .lwu),
   (0x1C, .flw), (0x1D, .fld)]
/-- Major opcodes of stores. -/
def stTab : List (Nat × StOp) :=
  [(0x18, .sb), (0x19, .sh), (0x1A, .sw), (0x1B, .sd), (0x1E, .fsw), (0x1F, .fsd)]
/-- Major opcodes of conditional branches. -/
def condTab : List (Nat × Cond) :=
  [(0x20, .eq), (0x21, .ne), (0x22, .lt), (0x23, .ge), (0x24, .ltu), (0x25, .geu)]
/-- Function values of the floating-point group, fn[10:4]. -/
def fpTab : List (Nat × FpOp) :=
  [(0x00, .add), (0x01, .sub), (0x02, .mul), (0x03, .div), (0x04, .sqrt), (0x05, .mac), (0x06, .min),
   (0x07, .max), (0x08, .sgnj), (0x09, .sgnjn), (0x0A, .sgnjx), (0x10, .eq), (0x11, .lt), (0x12, .le),
   (0x13, .class_), (0x18, .cvtFI), (0x19, .cvtFU), (0x1A, .cvtIF), (0x1B, .cvtUF), (0x1C, .cvtP),
   (0x1D, .mvFG), (0x1E, .mvGF)]
/-- Function values of the atomic group, fn[4:0], apart from LDA and STL. -/
def amoTab : List (Nat × AmoOp) :=
  [(0, .swap), (1, .add), (2, .and), (3, .or), (4, .xor), (5, .min), (6, .max), (7, .minu), (8, .maxu), (9, .cas)]
/-- Function values of the block group. -/
def blkTab : List (Nat × BlkOp) := [(0, .bcopy), (1, .bfill), (2, .bcrc), (3, .bcrcE), (4, .ldm), (5, .stm)]
/-- Function values of TLB operations. -/
def tlbiTab : List (Nat × TlbiOp) := [(0, .va), (1, .vaAll), (2, .pcid), (3, .part), (4, .ipa), (5, .s2), (6, .all)]
/-- Function values of cache operations. -/
def cacheTab : List (Nat × CacheOp) := [(0x10, .dcc), (0x11, .dcci), (0x12, .dci), (0x13, .ici), (0x14, .zline)]
/-- Function values of the CGET instructions. -/
def cgetTab : List (Nat × CapField) := [(8, .base), (9, .len), (0xA, .perms), (0xB, .otype), (0xC, .tag)]

/-- The entry of a table at a function value. -/
def look {α : Type} : List (Nat × α) → Nat → Option α
  | [], _ => none
  | (k, v) :: r, n => if n = k then some v else look r n

/-- The function value of an entry of a table. -/
def code {α : Type} [DecidableEq α] : List (Nat × α) → α → Nat
  | [], _ => 0
  | (k, v) :: r, x => if x = v then k else code r x

/-- Operations of group 0x01 that have a W form (Table 2.5, R50). -/
def Alu2.hasW : Alu2 → Bool
  | .add | .sub | .shl | .shr | .sar | .ror => true
  | _ => false
/-- One-source operations that have a W form. -/
def Alu1.hasW : Alu1 → Bool
  | .clz | .ctz | .popc | .bswap => true
  | _ => false
/-- Floating-point operations whose fn[2:0] is zero (Table 2.6). -/
def FpOp.noRm : FpOp → Bool
  | .sgnj | .sgnjn | .sgnjx | .eq | .lt | .le => true
  | _ => false

/-! ## Decoding, group by group -/

/-- Group 0x01 (Table 2.5). -/
def decInt (w : IWord) : Option Aelxel :=
  if fld w 6 4 ≠ 0 then none else
  match look alu2Tab (fld w 0 6) with
  | some op => if w.getLsbD 10 && !op.hasW then none else some (.alu2 op (w.getLsbD 10) (regF w 21) (regF w 16) (regF w 11))
  | none => match look alu1Tab (fld w 0 6) with
    | some op => if (w.getLsbD 10 && !op.hasW) || fld w 11 5 ≠ 0 then none
        else some (.alu1 op (w.getLsbD 10) (regF w 21) (regF w 16))
    | none => none

/-- Group 0x02 (Table 2.5). -/
def decMul (w : IWord) : Option Aelxel :=
  if fld w 6 4 ≠ 0 then none else
  match look mulTab (fld w 0 6) with
  | some op => if w.getLsbD 10 && decide (op ≠ .mul) then none
      else some (.mul op (w.getLsbD 10) (regF w 21) (regF w 16) (regF w 11))
  | none => (look divTab (fld w 0 6)).map fun op => .div op (w.getLsbD 10) (regF w 21) (regF w 16) (regF w 11)

/-- Group 0x07 (Table 2.5). -/
def decSh (w : IWord) : Option Aelxel :=
  match look shTab (fld w 0 10) with
  | some (op, W) => if W && w.getLsbD 15 then none
      else some (.shI op W (regF w 21) (regF w 16) ⟨fld w 10 6, Nat.mod_lt _ (by decide)⟩)
  | none => none

/-- Group 0x28 (Table 2.5). -/
def decRj (w : IWord) : Option Aelxel :=
  if fld w 2 14 ≠ 0 then none
  else if w.getLsbD 1 then some (.jalr (w.getLsbD 0) (regF w 21) (regF w 16))
  else if fld w 21 5 ≠ 0 then none else some (.jr (w.getLsbD 0) (regF w 16))

/-- Group 0x29 (Table 2.6, R45). -/
def decFp (w : IWord) : Option Aelxel :=
  match look fpTab (fld w 4 7) with
  | some op =>
    if op.noRm && decide (fld w 0 3 ≠ 0) then none
    else if fld w 0 3 = 5 ∨ fld w 0 3 = 6 then none
    else if op = .sqrt ∧ fld w 11 5 ≠ 0 then none
    else some (.fp op (w.getLsbD 3) ⟨fld w 0 3, Nat.mod_lt _ (by decide)⟩ (regF w 21) (regF w 16) (regF w 11))
  | none => none

/-- Group 0x2B (Table 2.7). -/
def decAmo (w : IWord) : Option Aelxel :=
  if fld w 5 3 ≠ 0 then none
  else if fld w 0 5 = 0x10 then
    if fld w 9 2 = 2 ∧ fld w 11 5 = 0 then some (.lda (w.getLsbD 8) (regF w 21) (regF w 16)) else none
  else if fld w 0 5 = 0x11 then
    if fld w 9 2 = 1 ∧ fld w 21 5 = 0 then some (.stl (w.getLsbD 8) (regF w 16) (regF w 11)) else none
  else (look amoTab (fld w 0 5)).map fun op =>
    .amo op (w.getLsbD 10) (w.getLsbD 9) (w.getLsbD 8) (regF w 21) (regF w 16) (regF w 11)

/-- Group 0x2C (Table 2.8). -/
def decBlk (w : IWord) : Option Aelxel :=
  match look blkTab (fld w 0 11) with
  | some op => if (op = .ldm ∨ op = .stm) ∧ fld w 21 5 ≠ 0 then none
      else some (.block op (regF w 21) (regF w 16) (regF w 11))
  | none => none

/-- The kinds of FENCE (R73, R74). -/
def decFence (sr : Nat) : Option Aelxel :=
  if sr < 16 then some (.fence (.order (BitVec.ofNat 4 sr)))
  else if sr = 0x10 then some (.fence .i)
  else if sr = 0x20 then some (.fence .d)
  else if sr = 0x30 then some (.fence .t) else none

/-- Group 0x2D (Table 2.9). -/
def decSys (w : IWord) : Option Aelxel :=
  let fn := fld w 0 4
  let sr := fld w 4 12
  if fn = 0 then if fld w 16 5 = 0 then some (.mfs (regF w 21) (BitVec.ofNat 12 sr)) else none
  else if fn = 1 then if fld w 21 5 = 0 then some (.mts (BitVec.ofNat 12 sr) (regF w 16)) else none
  else if fld w 16 10 ≠ 0 then none
  else if fn = 4 then decFence sr
  else if fn = 6 then if sr < 2 then some (.prflush (w.getLsbD 4)) else none
  else if fn = 7 then if sr < 2 then some (.prbar (w.getLsbD 4)) else none
  else if fn = 9 then some (.brk (BitVec.ofNat 12 sr))
  else if sr ≠ 0 then none
  else if fn = 2 then some .eret else if fn = 3 then some .gret else if fn = 5 then some .spb
  else if fn = 8 then some .wfi else if fn = 0xA then some .nop else if fn = 0xB then some .chkpt else none

/-- Group 0x2F (Table 2.10). -/
def decMaint (w : IWord) : Option Aelxel :=
  if fld w 6 4 ≠ 0 ∨ fld w 21 5 ≠ 0 ∨ fld w 11 5 ≠ 0 then none else
  match look tlbiTab (fld w 0 6) with
  | some op => some (.tlbi op (w.getLsbD 10) (regF w 16))
  | none => match look cacheTab (fld w 0 6) with
    | some op => if w.getLsbD 10 then none else some (.cache op (regF w 16))
    | none => none

/-- LOOP (Table 2.3, R84). -/
def decLoop (w : IWord) : Option Aelxel :=
  if w.getLsbD 24 = false ∧ fld w 0 9 ≠ 0 then none
  else if fld w 14 10 = 0 then none
  else some (.loop ⟨fld w 25 1, Nat.mod_lt _ (by decide)⟩ (w.getLsbD 24) (BitVec.ofNat 10 (fld w 14 10)) (BitVec.ofNat 14 (fld w 0 14)))

/-- Group 0x31 with a capability destination and source (Table 2.11). -/
def decCap2 (w : IWord) (f : Fin 16 → Fin 16 → Option Aelxel) : Option Aelxel :=
  match capF w 21, capF w 16 with
  | some cd, some cs => f cd cs
  | _, _ => none

/-- Group 0x31 (Table 2.11, R47). -/
def decCap (w : IWord) : Option Aelxel :=
  let fn := fld w 0 11
  let r2 := regF w 11
  if fn = 0x00 then decCap2 w fun cd cs => some (.cmove cd cs r2)
  else if fn = 0x01 then decCap2 w fun cd cs => some (.cincb cd cs r2)
  else if fn = 0x02 then decCap2 w fun cd cs => some (.csetl cd cs r2)
  else if fn = 0x03 then decCap2 w fun cd cs => some (.candp cd cs r2)
  else if fn = 0x04 then decCap2 w fun cd cs => (capF w 11).map fun ct => .cseal cd cs ct
  else if fn = 0x05 then decCap2 w fun cd cs => (capF w 11).map fun ct => .cunseal cd cs ct
  else if fn = 0x06 then decCap2 w fun cd cs => some (.cclrt cd cs r2)
  else if fn = 0x10 then if fld w 21 5 ≠ 0 then none else decCap2 w fun _ cs => (capF w 11).map fun ct => .ccall cs ct
  else if fn = 0x11 then if fld w 21 5 ≠ 0 then none else decCap2 w fun _ cs => (capF w 11).map fun ct => .cret cs ct
  else if fn = 0x14 then if fld w 16 5 ≠ 0 then none else
    decCap2 w fun cd _ => if h : fld w 11 5 < 2 then some (.cmfc cd ⟨fld w 11 5, h⟩) else none
  else if fn = 0x15 then if fld w 21 5 ≠ 0 ∨ fld w 11 5 ≠ 0 then none else decCap2 w fun _ cs => some (.cmtc cs)
  else match look cgetTab fn with
    | some f => (capF w 16).map fun cs => .cget f (regF w 21) cs r2
    | none => none

/-- The instruction that a word encodes (Table 2.4); none where the encoding is illegal on every core (R47). -/
def decodeWord (w : IWord) : Option Aelxel :=
  let op := fld w 26 6
  if op = 0x01 then decInt w
  else if op = 0x02 then decMul w
  else if op = 0x07 then decSh w
  else if op = 0x0A then some (.lui (regF w 21) (w.extractLsb' 0 21))
  else if op = 0x0B then some (.auipc (regF w 21) (w.extractLsb' 0 21))
  else if op = 0x26 then some (.jmp false (w.getLsbD 25) (w.extractLsb' 0 25))
  else if op = 0x27 then some (.jmp true (w.getLsbD 25) (w.extractLsb' 0 25))
  else if op = 0x28 then decRj w
  else if op = 0x29 then decFp w
  else if op = 0x2B then decAmo w
  else if op = 0x2C then decBlk w
  else if op = 0x2D then decSys w
  else if op = 0x2E then if fld w 16 10 = 0 then some (.gate (w.extractLsb' 0 16)) else none
  else if op = 0x2F then decMaint w
  else if op = 0x30 then decLoop w
  else if op = 0x31 then decCap w
  else if op = 0x32 then (capF w 21).map fun cd => .clc cd (regF w 16) (w.extractLsb' 0 16)
  else if op = 0x33 then (capF w 21).map fun cs => .csc cs (regF w 16) (w.extractLsb' 0 16)
  else match look aluITab op with
    | some o => some (.aluI o (regF w 21) (regF w 16) (w.extractLsb' 0 16))
    | none => match look ldTab op with
      | some o => some (.load o (regF w 21) (regF w 16) (w.extractLsb' 0 16))
      | none => match look stTab op with
        | some o => some (.store o (regF w 21) (regF w 16) (w.extractLsb' 0 16))
        | none => (look condTab op).map fun c =>
            .branch c (regF w 21) (regF w 16) (w.getLsbD 15) (w.extractLsb' 0 15)

/-! ## Encoding (Tables 2.3 to 2.11) -/

/-- A word of the R format. -/
def encR (op rd rs1 rs2 fn : Nat) : IWord :=
  BitVec.ofNat 32 (op * 2 ^ 26 + rd * 2 ^ 21 + rs1 * 2 ^ 16 + rs2 * 2 ^ 11 + fn)

/-- A word of the I format. -/
def encI (op rd rs1 imm : Nat) : IWord := BitVec.ofNat 32 (op * 2 ^ 26 + rd * 2 ^ 21 + rs1 * 2 ^ 16 + imm)

/-- A word of the S format. -/
def encS (rd rs1 sr fn : Nat) : IWord := encI 0x2D rd rs1 (sr * 16 + fn)

/-- The word of an instruction. -/
def encodeWord : Aelxel → IWord
  | .alu2 op w rd r1 r2 => encR 0x01 rd r1 r2 (w.toNat * 1024 + code alu2Tab op)
  | .alu1 op w rd r1 => encR 0x01 rd r1 0 (w.toNat * 1024 + code alu1Tab op)
  | .aluI op rd r1 imm => encI (code aluITab op) rd r1 imm.toNat
  | .shI op w rd r1 sh => encI 0x07 rd r1 (sh * 1024 + w.toNat * 256 + code shTab (op, w) % 256)
  | .lui rd imm => BitVec.ofNat 32 (0x0A * 2 ^ 26 + rd * 2 ^ 21 + imm.toNat)
  | .auipc rd imm => BitVec.ofNat 32 (0x0B * 2 ^ 26 + rd * 2 ^ 21 + imm.toNat)
  | .mul op w rd r1 r2 => encR 0x02 rd r1 r2 (w.toNat * 1024 + code mulTab op)
  | .div op w rd r1 r2 => encR 0x02 rd r1 r2 (w.toNat * 1024 + code divTab op)
  | .load op rd r1 imm => encI (code ldTab op) rd r1 imm.toNat
  | .store op rt r1 imm => encI (code stTab op) rt r1 imm.toNat
  | .branch c r1 r2 a off => encI (code condTab c) r1 r2 (a.toNat * 2 ^ 15 + off.toNat)
  | .jmp link a off => BitVec.ofNat 32 ((0x26 + link.toNat) * 2 ^ 26 + a.toNat * 2 ^ 25 + off.toNat)
  | .jr a r1 => encR 0x28 0 r1 0 a.toNat
  | .jalr a rd r1 => encR 0x28 rd r1 0 (2 + a.toNat)
  | .fp op s rm rd r1 r2 => encR 0x29 rd r1 r2 (code fpTab op * 16 + s.toNat * 8 + rm)
  | .amo op aq rl d rd r1 r2 => encR 0x2B rd r1 r2 (aq.toNat * 1024 + rl.toNat * 512 + d.toNat * 256 + code amoTab op)
  | .lda d rd r1 => encR 0x2B rd r1 0 (1024 + d.toNat * 256 + 0x10)
  | .stl d r1 r2 => encR 0x2B 0 r1 r2 (512 + d.toNat * 256 + 0x11)
  | .block op rd r1 r2 => encR 0x2C rd r1 r2 (code blkTab op)
  | .mfs rd sr => encS rd 0 sr.toNat 0
  | .mts sr r1 => encS 0 r1 sr.toNat 1
  | .eret => encS 0 0 0 2
  | .gret => encS 0 0 0 3
  | .fence (.order m) => encS 0 0 m.toNat 4
  | .fence .i => encS 0 0 0x10 4
  | .fence .d => encS 0 0 0x20 4
  | .fence .t => encS 0 0 0x30 4
  | .spb => encS 0 0 0 5
  | .prflush b => encS 0 0 b.toNat 6
  | .prbar b => encS 0 0 b.toNat 7
  | .wfi => encS 0 0 0 8
  | .brk c => encS 0 0 c.toNat 9
  | .nop => encS 0 0 0 0xA
  | .chkpt => encS 0 0 0 0xB
  | .gate n => encI 0x2E 0 0 n.toNat
  | .tlbi op p r1 => encR 0x2F 0 r1 0 (p.toNat * 1024 + code tlbiTab op)
  | .cache op r1 => encR 0x2F 0 r1 0 (code cacheTab op)
  | .loop l i len cnt => BitVec.ofNat 32 (0x30 * 2 ^ 26 + l * 2 ^ 25 + i.toNat * 2 ^ 24 + len.toNat * 2 ^ 14 + cnt.toNat)
  | .cmove cd cs r2 => encR 0x31 cd cs r2 0x00
  | .cincb cd cs r2 => encR 0x31 cd cs r2 0x01
  | .csetl cd cs r2 => encR 0x31 cd cs r2 0x02
  | .candp cd cs r2 => encR 0x31 cd cs r2 0x03
  | .cseal cd cs ct => encR 0x31 cd cs ct 0x04
  | .cunseal cd cs ct => encR 0x31 cd cs ct 0x05
  | .cclrt cd cs r2 => encR 0x31 cd cs r2 0x06
  | .cget f rd cs r2 => encR 0x31 rd cs r2 (code cgetTab f)
  | .ccall cs ct => encR 0x31 0 cs ct 0x10
  | .cret cs ct => encR 0x31 0 cs ct 0x11
  | .cmfc cd n => encR 0x31 cd 0 n 0x14
  | .cmtc cs => encR 0x31 0 cs 0 0x15
  | .clc cd r1 imm => encI 0x32 cd r1 imm.toNat
  | .csc cs r1 imm => encI 0x33 cs r1 imm.toNat

/-- The operand values that the encoding admits (R45, R47, R50, R84). -/
def Aelxel.wf : Aelxel → Bool
  | .alu2 op w _ _ _ => !w || op.hasW
  | .alu1 op w _ _ => !w || op.hasW
  | .shI _ w _ _ sh => !w || decide (sh.val < 32)
  | .mul op w _ _ _ => !w || decide (op = .mul)
  | .fp op _ rm _ _ r2 => decide (rm.val ≠ 5 ∧ rm.val ≠ 6) && (!op.noRm || decide (rm.val = 0)) && decide (op = .sqrt → r2 = 0)
  | .block op rd _ _ => decide ((op = .ldm ∨ op = .stm) → rd = 0)
  | .loop _ i len cnt => decide (len ≠ 0) && (i || decide (cnt.toNat % 512 = 0))
  | _ => true

/-- The row of the opcode table an instruction belongs to. -/
def Aelxel.row : Aelxel → String
  | .alu2 .. | .alu1 .. | .aluI .. | .shI .. | .lui .. | .auipc .. => "INTEGER_OP"
  | .mul .. => "MULTIPLY"
  | .div .. => "DIVIDE"
  | .load .. => "LOAD"
  | .store .. => "STORE"
  | .branch .. => "CONDITIONAL_BRANCH"
  | .jmp .. => "JUMP"
  | .jr .. | .jalr .. => "REGISTER_JUMP"
  | .fp .. => "FLOAT_OP"
  | .amo .cas .. => "CAS"
  | .amo .. => "AMO"
  | .lda .. => "LDA"
  | .stl .. => "STL"
  | .block .bcopy .. => "BCOPY"
  | .block .bfill .. => "BFILL"
  | .block .bcrc .. => "BCRC"
  | .block .bcrcE .. => "BCRC_E"
  | .block .ldm .. => "LDM"
  | .block .stm .. => "STM"
  | .mfs .. => "MFS"
  | .mts .. => "MTS"
  | .eret => "ERET"
  | .gret => "GRET"
  | .gate .. => "GATE"
  | .fence (.order _) => "FENCE"
  | .fence .i => "FENCE_I"
  | .fence .d => "FENCE_D"
  | .fence .t => "FENCE_T"
  | .spb => "SPB"
  | .prflush .. => "PRFLUSH"
  | .prbar .. => "PRBAR"
  | .wfi => "WFI"
  | .brk .. => "BRK"
  | .nop => "NOP"
  | .chkpt => "CHKPT"
  | .tlbi .va .. => "TLBIVA"
  | .tlbi .vaAll .. => "TLBIVAA"
  | .tlbi .pcid .. => "TLBIPCID"
  | .tlbi .part .. => "TLBIPART"
  | .tlbi .ipa .. => "TLBIIPA"
  | .tlbi .s2 .. => "TLBIS2"
  | .tlbi .all .. => "TLBIALL"
  | .cache .dcc _ => "DCC"
  | .cache .dcci _ => "DCCI"
  | .cache .dci _ => "DCI"
  | .cache .ici _ => "ICI"
  | .cache .zline _ => "ZLINE"
  | .loop .. => "LOOP"
  | .cmove .. => "CMOVE"
  | .cincb .. => "CINCB"
  | .csetl .. => "CSETL"
  | .candp .. => "CANDP"
  | .cseal .. => "CSEAL"
  | .cunseal .. => "CUNSEAL"
  | .cclrt .. => "CCLRT"
  | .cget .base .. => "CGETB"
  | .cget .len .. => "CGETL"
  | .cget .perms .. => "CGETP"
  | .cget .otype .. => "CGETT"
  | .cget .tag .. => "CGETG"
  | .ccall .. => "CCALL"
  | .cret .. => "CRET"
  | .cmfc .. => "CMFC"
  | .cmtc .. => "CMTC"
  | .clc .. => "CLC"
  | .csc .. => "CSC"

end Sys2Proof
end

