-- ==== Sys2Proof/Config.lean ====
section
/-! DEFINITION. What the spec fixes for every device, and the free values: constants without a body that stand
for every value the spec leaves open (log entry 2). The state's counter `fresh` selects a new one at each use. -/
namespace Sys2Proof.Config

/-- A free 64-bit value (log entry 2). -/
opaque freeWord : Nat → Word
/-- A free Boolean (log entry 2). -/
opaque freeBool : Nat → Bool
/-- A free natural number (log entry 2). -/
opaque freeNat : Nat → Nat
/-- A free list of bytes (log entry 2). -/
opaque freeBytes : Nat → List Byte

/-- Whether an ECDSA P-384 signature of a digest verifies under a public key: R349 names the algorithm and does not restate
it (log entry 83). -/
opaque ecdsaVerify (key digest sig : List Byte) : Bool
/-- Whether an ML-DSA-65 signature of a message with empty context verifies under a public key (R349, log entry 83). -/
opaque mldsaVerify (key message sig : List Byte) : Bool

/-- The priority vector of the device itself as grandmaster of an 802.1AS instance, which the spec does not give (log entry 84). -/
opaque gptpOwn : Nat → Nat

/-- JTAG IDCODE and SMC_DEVID.IDCODE (R38, Table 1.5). -/
def idcode : Nat := 0x17480CBB

/-- First byte of the flow carve-out (Table 1.2). -/
def carveOut : Nat := 0x00B9C000000
/-- First byte of the channel-spare region (Table 1.2). -/
def spareBase : Nat := 0x00BA0000000
/-- One past the last byte of HBM (Table 1.2). -/
def hbmEnd : Nat := 0x00C00000000
/-- First byte of the island windows (Table 1.2). -/
def islandBase : Nat := 0x0E000000000
/-- First byte of the device register space (Table 1.2). -/
def regBase : Nat := 0x0F000000000
/-- First byte of the secure SRAM that holds the ledger (Table 1.2). -/
def secureSram : Nat := 0x0E800200000

end Sys2Proof.Config
end

