-- ==== Sys2Proof/Machine/State.lean ====
section
/-! DEFINITION. The state of the Miluitra as plain data, the reasons a command can be stopped for, and the
state after reset. Sparse tables are lists of (key, value) pairs in rising key order that never list a
default value. -/
namespace Sys2Proof.Machine

/-- A sparse table keyed by a number; see `KV.get` and `KV.set` in Machine/Base.lean. -/
abbrev KV (α : Type) := List (Nat × α)

/-! ## A-cores -/

/-- The run state of an A-core (Table 3.10, R153); whether it is gated stands in its power domain (R476). -/
inductive Run where
  | off | running | wfi | halted | retired | hardStop
  deriving DecidableEq, Repr

/-- An open delay slot: the branch's address and where execution continues after the slot (R56). -/
structure Delay where
  branch : Word
  next : Word
  deriving DecidableEq, Repr

/-- Saved PC, saved STAT, syndrome and fault address of one position (Table 4.2). -/
structure Saved where
  xpc : Word
  xst : Word
  xsy : Word
  xva : Word
  deriving DecidableEq, Repr

/-- The hidden husk record of an A-core (R340). -/
structure HuskRec where
  husk : Nat
  ring : Nat
  stat : Word
  sp : Word
  gate : Word
  frame : Word
  index : Nat
  deriving DecidableEq, Repr

/-- A part of a store within one line: its address, memory type and bytes. -/
structure StorePart where
  addr : Nat
  type : MemType
  data : List Byte
  deriving DecidableEq, Repr

/-- A store in the committed store buffer: its line parts not yet written, lower line first, the husk it was made in, and
the address of its instruction (R113, R117, R119). -/
structure StoreEnt where
  parts : List StorePart
  husk : Option Nat
  pc : Word
  deriving DecidableEq, Repr

/-- An active L1D miss register: its line and the loads merged into it (R122). -/
structure MissReg where
  line : Nat
  merged : Nat
  deriving DecidableEq, Repr

/-- A constant-stride stream of the L1D prefetcher (R124). -/
structure Stream where
  last : Nat
  stride : Int
  trained : Bool
  deriving DecidableEq, Repr

/-- Prediction structures of an A-core apart from the return stack (Table 3.4). -/
inductive PredKind where
  | direction | target | indirect | dependence
  deriving DecidableEq, Repr

/-- The context tag of a predictor entry (R104). -/
structure Ctx where
  world : Bool
  h : Bool
  pcid : BitVec 10
  deriving DecidableEq, Repr

/-- A predictor entry with its tag; indirect-target entries also carry the husk (R104). It is indexed by the branch's address
and, by its kind, by the global history or the targets of the last taken branches (Table 3.4). -/
structure PredEnt where
  kind : PredKind
  ctx : Ctx
  husk : Option Nat
  addr : Word
  hist : List Bool
  path : List Word
  target : Word
  taken : Bool
  deriving DecidableEq, Repr

/-- Which translation structure holds an entry (Table 5.8). -/
inductive TlbWhere where
  | itlb | dtlb | l2
  deriving DecidableEq, Repr

/-- A combined translation, or a stage-2 translation of a stage-1 table page (R186). -/
structure TlbEnt where
  wher : TlbWhere
  stage2 : Bool
  world : Bool
  part : Option Nat
  pcid : BitVec 10
  global : Bool
  va : Nat
  bits : Nat
  pa : Nat
  ipa : Option Nat
  attr : Option (BitVec 3)
  s2type : Option (BitVec 3)
  rdb : Nat
  wrb : Nat
  exb : Nat
  rdb2 : Nat
  wrb2 : Nat
  exb2 : Nat
  dirty : Bool
  deriving DecidableEq, Repr

/-- A walk-cache entry: a table entry of levels 0 to 2 of one stage (R186). -/
structure WalkEnt where
  stage2 : Bool
  world : Bool
  part : Option Nat
  pcid : BitVec 10
  level : Nat
  tag : Nat
  entry : Word
  deriving DecidableEq, Repr

/-- The architectural state and the buffers of one A-core. -/
structure ACore where
  run : Run
  g : Vector Word 31
  sp : Vector Word 5
  f : Vector Word 32
  fsr : BitVec 32
  pc : Word
  delay : Option Delay
  stat : Word
  x0 : Saved
  xh : Saved
  vtb0 : Word
  vtbh : Word
  esp0 : Word
  esph : Word
  gtb : Word
  pcid : BitVec 10
  part : BitVec 6
  tcr : Word
  mat : Word
  ttb0 : Word
  ttb1 : Word
  ttbh : Word
  cycle : Word
  instret : Word
  pmevt : Vector Word 8
  pmcnt : Vector Word 8
  husk : Option HuskRec
  sb : List StoreEnt
  wait : Option IWord
  miss : List MissReg
  l1d : List Nat
  l1i : List Nat
  streams : List Stream
  pred : List PredEnt
  ret : List (Ctx × Word)
  tlb : List TlbEnt
  walk : List WalkEnt
  hist : List Bool
  path : List Word
  split : Option (Nat × List Byte)
  posted : List StorePart
  crc : List (Bool × Nat)
  evs : List Nat
  longOwed : Bool
  haltReq : Bool
  step1 : Bool
  forced : Bool
  deriving DecidableEq, Repr

/-- A TLB operation of Table 5.9 with what it selects (R188). -/
inductive TlbOp where
  | va (va : Word) (pcid : BitVec 10) | vaAll (va : Word) | pcid (p : BitVec 10) | part
  | ipa (a : Word) | s2 (p : Nat) | all
  deriving DecidableEq, Repr

/-- A TLB operation on its way to another core (R189). -/
structure TlbPend where
  src : Fin 32
  dst : Fin 32
  world : Bool
  part : Option Nat
  op : TlbOp
  pbit : Bool
  deriving DecidableEq, Repr

/-! ## Caches and home agents -/

/-- Line states of an L2 (Table 6.3); I is the absence of the line. -/
inductive L2St where
  | m | o | e | s
  deriving DecidableEq, Repr

/-- A line held in a pod's L2 (R212), with the type that decides how its eviction is written (R208). -/
structure L2Line where
  way : Nat
  st : L2St
  data : Line
  poison : Bool
  type : MemType
  deriving DecidableEq, Repr

/-- An eviction buffer of an L2 (R217). -/
structure EvBuf where
  line : Nat
  dirty : Bool
  data : Line
  poison : Bool
  type : MemType
  crossed : Bool
  arrived : Bool
  acked : Bool
  deriving DecidableEq, Repr

/-- The part of a pod outside its cores. -/
structure Pod where
  lines : KV L2Line
  ev : List EvBuf
  deriving DecidableEq, Repr

/-- A line held in a slice (R208). -/
structure SlcLine where
  way : Nat
  cls : Nat
  dirty : Bool
  data : Line
  poison : Bool
  deriving DecidableEq, Repr

/-- Requests to a home agent, and eviction notices that wait behind one (Table 6.4, R215). -/
inductive HomeReq where
  | share | own | peek | push (off : Nat) (data : List Byte)
  | atomic (op : AmoOp) (off size : Nat) (v cmp : Word)
  | evict (p : Fin 8)
  deriving DecidableEq, Repr

/-- What a transaction waits for: its turn, answers or crossed evictions, or a read of HBM. -/
inductive TxnPhase where
  | queued | snoop | hbm
  deriving DecidableEq, Repr

/-- A transaction of a home agent (R215); `force` marks one that completes with its line poisoned (R218). -/
structure Txn where
  line : Nat
  req : HomeReq
  from_ : Requester
  tc : Nat
  cls : Nat
  phase : TxnPhase
  awaiting : List (Fin 8)
  got : Option (Line × Bool)
  joined : List Requester
  force : Bool
  deriving DecidableEq, Repr

/-- Snoops (Table 6.5). -/
inductive SnoopKind where
  | share | take | peek
  deriving DecidableEq, Repr

/-- A snoop on its way to a pod. -/
structure SnoopMsg where
  line : Nat
  pod : Fin 8
  kind : SnoopKind
  tc0 : Bool
  deriving DecidableEq, Repr

/-- Answers to a snoop (R214). -/
inductive Answer where
  | data (l : Line) (poison : Bool) (way : Nat) | ack | notHeld (crossed : Bool)
  deriving DecidableEq, Repr

/-- An answer on its way to the home, with its class: TC0 to a TC0 snoop, else TC1 (R239). -/
structure AnswerMsg where
  line : Nat
  pod : Fin 8
  ans : Answer
  tc : Nat
  deriving DecidableEq, Repr

/-- A slice: SLC, its part of the snoop filter and its home agent (R13), with the requests that wait for an entry (R215). -/
structure Home where
  slc : KV SlcLine
  filt : KV L2St
  txns : List Txn
  waiting : List Txn
  snoops : List SnoopMsg
  answers : List AnswerMsg
  lateAns : List (Nat × Nat)
  deriving DecidableEq, Repr

/-! ## HBM -/

/-- A command waiting at a pseudo-channel controller (R240). -/
structure HbmCmd where
  tc : Nat
  write : Bool
  line : Nat
  data : Line
  poison : Bool
  deriving DecidableEq, Repr

/-- State of a pseudo-channel (Table 7.5, PC_STATE). -/
inductive PcState where
  | normal | migrating | retired | failed | hosting
  deriving DecidableEq, Repr

/-- A pseudo-channel and its part of a controller (R240 to R261); `corr` lists the corrected lines to write back and `verify`
those to read once more, the oldest first (R250). -/
structure PseudoChannel where
  q : List HbmCmd
  slot8 : Nat
  slot64 : Nat
  st : PcState
  corr : List Nat
  verify : List Nat
  hard : KV Nat
  repair : List Nat
  unrepairable : Nat
  retraining : Bool
  retrained : Bool
  scrub : Nat
  refreshes : Nat
  rfms : Nat
  deriving DecidableEq, Repr

/-- One move of a retirement: chunk of a pseudo-channel to a host's spare area (R256). -/
structure Move where
  src : Nat
  chunk : Nat
  host : Nat
  done : Bool
  deriving DecidableEq, Repr

/-- A retirement of a pseudo-channel (R256, R258). -/
structure Retirement where
  pc : Nat
  moves : List Move
  deriving DecidableEq, Repr

/-- Training state of a stack (TRAIN_STATE of Table 7.5). -/
inductive Train where
  | untrained | seeded | full | failed | selfRefresh
  deriving DecidableEq, Repr

/-- State of the power-on fill (FILL_STATE of Table 7.5). -/
inductive Fill where
  | notStarted | running | done | failed
  deriving DecidableEq, Repr

/-- The memory system apart from the pseudo-channels. -/
structure Hbm where
  spare : Bool
  fill : Fill
  fillStart : Nat
  train : Vector Train 2
  keptTrain : Vector Train 2
  ret : List Retirement
  errs : KV (List (Nat × Byte))
  deriving DecidableEq, Repr

/-! ## Islands -/

/-- A capability with its tag (Table 2.1 and the layout of R90). -/
structure Cap where
  base : Word
  len : BitVec 48
  perms : Byte
  otype : Byte
  tag : Bool
  deriving DecidableEq, Repr

/-- Roles of a core slot (R265). -/
inductive Role where
  | active | spare | fenced | retired
  deriving DecidableEq, Repr

/-- Run state of a T-core. -/
inductive TRun where
  | held | running | wfi | stopped | halted
  deriving DecidableEq, Repr

/-- A store-buffer or output-queue entry of a T-core (R279, R302). -/
structure TStore where
  addr : Nat
  size : Nat
  data : BitVec 128
  tag : Bool
  pos : Nat
  deriving DecidableEq, Repr

/-- What a waiting T-core access does with its data. -/
inductive FarKind where
  | load | lda | amo (op : AmoOp) (v cmp : Word) | stl (v : Word) | clc
  deriving DecidableEq, Repr

/-- An access of a T-core at the island port, awaiting its data (R270 to R273). -/
structure FarWait where
  pos : Word
  entries : Nat
  addr : Nat
  size : Nat
  kind : FarKind
  w : IWord
  deriving DecidableEq, Repr

/-- What a load at the island port receives: data, whether it is poisoned, or an error response with the offset of the
first byte that is refused (R275, R542). -/
structure PortData where
  data : BitVec 128
  poison : Bool
  resp : Option (Resp × Nat)
  deriving DecidableEq, Repr

/-- The parked-load buffer (R285): the load as it was issued, the position at which ERET makes it due again, and its
data. -/
structure Parked where
  pos : Word
  entries : Nat
  addr : Nat
  size : Nat
  replay : Option Word
  got : Option PortData
  deriving DecidableEq, Repr

/-- A closed pennant (R299). -/
structure Pennant where
  seq : BitVec 32
  value : BitVec 64
  deriving DecidableEq, Repr

/-- One T-core with its buffers. -/
structure TCore where
  role : Role
  run : TRun
  g : Vector Word 32
  f : Vector Word 32
  fsr : BitVec 32
  c : Vector Cap 16
  pcc : Cap
  xpcc : Cap
  tvb : Cap
  pc : Word
  delay : Option Delay
  slotClears : Bool
  tstat : Word
  x : Saved
  lc : Vector (BitVec 32) 2
  ls : Vector Word 2
  le : Vector Word 2
  xlc : Vector (BitVec 32) 2
  xls : Vector Word 2
  xle : Vector Word 2
  cycle : Word
  instret : Word
  entries : Nat
  sb : List TStore
  outq : List TStore
  qpos : Nat
  joinPos : Nat
  far : Option FarWait
  parked : Option Parked
  pen : BitVec 64
  winCount : Nat
  seq : BitVec 32
  uncompared : List Pennant
  sent : Nat
  waited : Bool
  haltReq : Bool
  step1 : Bool
  deriving DecidableEq, Repr

/-- Voter states (Table 9.4). -/
inductive VState where
  | held | test | triplex | rejoinTest | rejoinLoad | rejoinWait | duplex | safe | notReleased
  deriving DecidableEq, Repr

/-- An access of the island port that the active cores match (R270, R271), or one that no core matches any more; `lower` holds
what the transaction of the lower line has brought (R273). -/
structure PortTxn where
  pos : Word
  entries : Nat
  addr : Nat
  size : Nat
  kind : FarKind
  cores : List (Fin 4)
  issued : Bool
  dropped : Bool
  lower : Option PortData
  deriving DecidableEq, Repr

/-- An access already answered by the port, kept for the cores that have not issued it yet; `unit_` marks a unit load of a
long instruction, which is matched by its address (R270). -/
structure PortDone where
  pos : Word
  entries : Nat
  addr : Nat
  size : Nat
  kind : FarKind
  unit_ : Bool
  got : PortData
  cores : List (Fin 4)
  deriving DecidableEq, Repr

/-- The arrivals of one pennant comparison (R300). -/
structure PenCmp where
  seq : BitVec 32
  at_ : Nat
  arrivals : List (Fin 4 × BitVec 64)
  deriving DecidableEq, Repr

/-- The arrivals at one queue position, and whether the write is already agreed (R303). -/
structure OutCmp where
  pos : Nat
  arrivals : List (Fin 4 × TStore)
  agreed : Bool
  deriving DecidableEq, Repr

/-- A released write on its way (Table 9.3) with the slot that is its source (R275). -/
structure Released where
  w : TStore
  slot : Fin 4
  deriving DecidableEq, Repr

/-- An agreed boundary (R282): the INSTRET value, the claimed interrupt with its vector and priority, and the cores that
have reached it. -/
structure Bound where
  pos : Word
  id : Nat
  vec : Nat
  prio : Nat
  reached : List (Fin 4)
  deriving DecidableEq, Repr

/-- What an island pin does. -/
inductive Drive where
  | low | high | z | pwm (period high : Nat)
  deriving DecidableEq, Repr

/-- One island output with its registers (Table 8.10, R426). -/
structure OutPin where
  ctl : BitVec 3
  per : BitVec 24
  duty : BitVec 24
  drive : Drive
  prev : Nat
  running : Bool
  deriving DecidableEq, Repr

/-- One capture input (Table 8.10). -/
structure CapIn where
  time : Nat
  level : Bool
  rise : Bool
  edges : BitVec 16
  deriving DecidableEq, Repr

/-- One island SPI controller (Table 8.10). -/
structure Spi where
  ctl : BitVec 12
  tx : BitVec 32
  rx : BitVec 32
  busy : Bool
  cs : Option (BitVec 2)
  deriving DecidableEq, Repr

/-- A safety island (Table 8.1). -/
structure Island where
  slots : Vector TCore 4
  st : VState
  penCmp : List PenCmp
  outCmp : List OutCmp
  rel : List Released
  issued : List Released
  port : List PortTxn
  done : List PortDone
  bounds : List Bound
  claimed : List Nat
  testing : Option (Fin 4)
  good : BitVec 4
  tested : BitVec 4
  injecting : Bool
  joining : Option (Fin 4)
  joinIsSpare : Bool
  capturing : Bool
  sourceStopped : Bool
  mismatchAt : Nat
  mismatchSeq : Nat
  transients : Vector (List Nat) 4
  pins : Vector OutPin 16
  caps : Vector CapIn 16
  spi : Vector Spi 2
  released : Bool
  deriving DecidableEq, Repr

/-! ## Interrupt distributor -/

/-- Which interface claimed a source (R162). -/
inductive Claimer where
  | core (c : Fin 32) | virt (p : Fin 64) | island (i : Fin 4)
  deriving DecidableEq, Repr

/-- One interrupt source: its configuration and state (Tables 4.11 and 4.12); `next` is a configuration written while the source is
active, which applies after its end (R163). -/
structure IrqSrc where
  cfg : Word
  next : Option Word
  pend : Bool
  active : Bool
  by_ : Option Claimer
  line : Bool
  setp : Bool
  deriving DecidableEq, Repr

/-- The interrupt distributor (Table 4.10). -/
structure Irq where
  src : KV IrqSrc
  virqCtl : Vector (BitVec 6) 64
  hadVirt : List Nat
  deriving DecidableEq, Repr

/-! ## Husks -/

/-- States of a husk (Table 10.3). -/
inductive HuskSt where
  | free | loading | sealing | valid | clearing
  deriving DecidableEq, Repr

/-- One husk (Table 10.10). -/
structure Husk where
  st : HuskSt
  owner : Byte
  range : Vector Word 4
  stack : Word
  stackLog2 : Byte
  save : Word
  entry : Vector Word 8
  ring : Byte
  flags : Byte
  measure : BitVec 384
  deriving DecidableEq, Repr

/-- A verified DAP request waiting for its service (R446), or a body under assembly. -/
structure Pdu where
  key : Fin 8
  service : Nat
  dst : Nat
  src : Nat
  txn : Nat
  seg : Nat
  more : Bool
  fresh : Nat
  body : List Byte
  resp : Bool
  tr : Transport
  deriving DecidableEq, Repr

/-- Who waits for the outcome of a dictionary request: the requester, and over DAP the request to answer. -/
structure Asker where
  q : Req
  pdu : Option Pdu
  deriving DecidableEq, Repr

/-! ## Frame gateway -/

/-- A flow context (Table 11.3); the key bytes and the words at 0x18 to 0x38. -/
structure FlowCtx where
  key : List Byte
  action : Word
  seqs : Word
  meter : Word
  template : Word
  counts : Word
  deriving DecidableEq, Repr

/-- Where a frame that a VI posted must report its completion. -/
structure TxRef where
  vi : Nat
  qp : Nat
  idx : Nat
  ts : Bool
  bus : Bool
  deriving DecidableEq, Repr

/-- A frame in an egress queue (R356, R382). -/
structure EgFrame where
  bytes : List Byte
  vid : Nat
  prio : Nat
  launch : Option Nat
  ref : Option TxRef
  deriving DecidableEq, Repr

/-- The frame a port is sending: its bytes on the wire without the FCS, the octets that are still to be sent from the time
`startAt` on (R363, R367). -/
structure Sending where
  q : Nat
  fr : EgFrame
  octets : Nat
  startAt : Nat
  wire : List Byte
  deriving DecidableEq, Repr

/-- One Ethernet port (R354 to R363); `headAt` is the time at which the frame at the head of each egress queue got there (R382). -/
structure Port where
  link : Bool
  queues : Vector (List EgFrame) 8
  headAt : Vector Nat 8
  sending : Option Sending
  paused : Option Sending
  gclIdx : Nat
  gates : Byte
  gclPending : Bool
  gclAt : Nat
  gclT : Nat
  credit : Vector Int 8
  creditAt : Nat
  preempt : Bool
  bucket : Nat
  bucketAt : Nat
  deriving DecidableEq, Repr

/-- One stream gate (R364). -/
structure SGate where
  idx : Nat
  isOpen : Bool
  pending : Bool
  at_ : Nat
  switchAt : Nat
  deriving DecidableEq, Repr

/-- A frame or record waiting for a receive descriptor (R383, R396). -/
structure RxItem where
  bytes : List Byte
  port : Nat
  kind : Nat
  handle : Nat
  time : Nat
  bus : Bool
  deriving DecidableEq, Repr

/-- A transmit descriptor whose frame is in egress queues or in a bus queue: copies in all, copies that have not
ended, whether one has begun, and the code of a copy that was discarded (R385). -/
structure TxProg where
  idx : Nat
  total : Nat
  left : Nat
  begun : Bool
  bad : Option Nat
  time : Nat
  deriving DecidableEq, Repr

/-- One queue pair of a VI (Table 11.7). -/
structure Qp where
  txTail : BitVec 16
  txHead : BitVec 16
  rxTail : BitVec 16
  rxHead : BitVec 16
  fetched : BitVec 16
  prog : List TxProg
  done : List Nat
  rxDone : List Nat
  rx : List RxItem
  stopBy : Option (List Asker)
  deriving DecidableEq, Repr

/-- One virtual interface (R381). -/
structure Vi where
  qps : Vector Qp 16
  stat : BitVec 35
  en : BitVec 35
  modArmed : Bool
  modOpen : Bool
  deriving DecidableEq, Repr

/-- An Ethernet frame of a port, or a bus frame of a bus of Table 12.3, that is looked up. -/
inductive Looked where
  | eth (n : Fin 24) (bytes : List Byte)
  | bus (b : Nat) (fr : BusFrame)
  deriving DecidableEq, Repr

/-- A frame that waits for a carve-out read of its key (R373, R374). -/
structure MissFrame where
  item : Looked
  key : List Byte
  rest : List (List Byte)
  time : Nat
  deriving DecidableEq, Repr

/-- A bus frame in a channel's transmit queue, with its origin (R408, R413). -/
structure TxBus where
  fr : BusFrame
  ref : Option TxRef
  launch : Option Nat
  errors : Nat
  lastEof : Bool
  checked : Bool
  heldOnce : Bool
  deriving DecidableEq, Repr

/-- States of a CAN channel (Table 12.9). -/
inductive CanSt where
  | stopped | active | passive | busOff | integrating
  deriving DecidableEq, Repr

/-- One CAN channel. -/
structure Can where
  st : CanSt
  tec : Nat
  rec_ : Nat
  q : List TxBus
  attempt : Option TxBus
  attemptAt : Nat
  stopping : Bool
  stopBy : Option Asker
  recovering : Bool
  hold : Bool
  busy : List (Nat × Nat)
  deriving DecidableEq, Repr

/-- One LIN channel. -/
structure Lin where
  running : Bool
  bufs : KV (List Byte × Option TxRef)
  idx : Nat
  header : Option (Fin 64)
  headerAt : Nat
  newList : Bool
  active : List Byte
  stopping : Bool
  stopBy : Option Asker
  deriving DecidableEq, Repr

/-- The open window of an encapsulation stream, and a closed one awaiting its frame (R404, R405). -/
structure Window where
  openAt : Option Nat
  msgs : List (List Byte)
  built : List (Nat × List (List Byte))
  deriving DecidableEq, Repr

/-- The microcode engine (R387). -/
inductive Ucode where
  | none | running | failed
  deriving DecidableEq, Repr

/-- An 802.1AS instance (R358): the priority vector last announced on each port, and whether a Sync of the present grandmaster
has come. -/
structure Gptp where
  heard : Vector (Option Nat) 24
  synced : Bool
  deriving DecidableEq, Repr

/-- The frame gateway; the flow table itself stands in the carve-out of HBM (R369). -/
structure Gateway where
  ports : Vector Port 24
  sgates : Vector SGate 64
  vi : KV Vi
  cache : KV (List (Nat × FlowCtx))
  miss : List MissFrame
  can : Vector Can 24
  lin : Vector Lin 12
  win : Vector Window 64
  ucode : Ucode
  gptp : Vector Gptp 4
  deriving DecidableEq, Repr

/-! ## Envelope, dictionary, DAP -/

/-- The locked envelope (Table 13.1) and its block's registers (Table 13.4). -/
structure Env where
  locked : Bool
  id : BitVec 32
  secVersion : Nat
  digest : BitVec 384
  ports : Vector Word 24
  can : Vector Word 24
  outs : Vector (Word × Word) 64
  allow : List Word
  buckets : KV (Nat × Nat)
  stat : BitVec 6
  en : BitVec 6
  first : Word
  firstTime : Nat
  deriving DecidableEq, Repr

/-- One mailbox page (Table 14.3); `writing` says that its owner's last window access is a write whose outcome is open (R441). -/
structure MailPage where
  entry : BitVec 24
  len : BitVec 17
  busy : Bool
  done : Bool
  status : Byte
  irqEn : Bool
  win : Word
  writing : Bool
  data : KV Byte
  deriving DecidableEq, Repr

/-- An open segmented transaction (R449, R450). -/
structure DapTxn where
  src : Nat
  txn : Nat
  key : Fin 8
  tr : Transport
  service : Nat
  nextSeg : Nat
  body : List Byte
  isResp : Bool
  at_ : Nat
  deriving DecidableEq, Repr

/-- A subscription (R451). -/
structure Sub where
  id : Nat
  src : Nat
  key : Fin 8
  tr : Transport
  entry : Nat
  periodic : Bool
  period : Nat
  lastAt : Nat
  lastVal : Nat
  deriving DecidableEq, Repr

/-- A message the DAP agent sent, by transport (R447). -/
structure DapOut where
  tr : Transport
  bytes : List Byte
  deriving DecidableEq, Repr

/-- Ensign holders (R455). -/
inductive Holder where
  | local_ | remote | hazel
  deriving DecidableEq, Repr

/-- A value of an entry: a scalar, or the bytes of a STRING, OCTETS or DOMAIN (Table 14.1). -/
inductive DVal where
  | num (n : Nat) | oct (l : List Byte)
  deriving DecidableEq, Repr

/-- A claim in the open window (R457); `none` is the local claimant. -/
structure Claim where
  node : Option Nat
  epoch : Nat
  by_ : Asker
  deriving DecidableEq, Repr

/-- The DAP agent and the ensign. -/
structure Dap where
  txFresh : Vector Nat 8
  txEnd : Vector Nat 8
  rx : KV Nat
  rxStored : KV Nat
  ready : List Pdu
  pings : List Pdu
  txns : List DapTxn
  subs : List Sub
  out : List DapOut
  holder : Holder
  node : Nat
  prev : Holder
  window : List Claim
  leaseAt : Nat
  deriving DecidableEq, Repr

/-- A seed-store write on its way through the journal (R433, R464). -/
structure Journal where
  by_ : Asker
  key : Nat
  val : DVal
  deriving DecidableEq, Repr

/-- The value of a write as it is given: 64 bits through the window, bytes through a mailbox or DAP. -/
inductive WVal where
  | win (v : Word) | bytes (l : List Byte)
  deriving DecidableEq, Repr

/-- An access that waits behind a seed-store write of its entry (R437): a write, a mailbox page's read, or a DAP READ. -/
inductive DictWait where
  | write (a : Asker) (key : Nat) (w : WVal) | mail (m : Master) (p : Fin 64) | dap (p : Pdu)
  deriving DecidableEq, Repr

/-- The seed store apart from the entry values, which are in `State.ent` and `State.entB` (Table 15.3). -/
structure Seed where
  journal : List Journal
  waits : List DictWait
  armed : Option (Nat × Nat)
  retire : List Word
  selfcal : Option (Nat × Nat)
  deriving DecidableEq, Repr

/-! ## Hazel, power, boot -/

/-- Power states of a domain (Table 16.8). -/
inductive PState where
  | off | gated | on
  deriving DecidableEq, Repr

/-- One power domain (Tables 16.1 and 16.8). -/
structure Domain where
  req : PState
  cur : PState
  changing : Option PState
  hold : Bool
  pending : Option PState
  pendBy : Bool
  outS : Byte
  outN : Byte
  holdBy : Option Asker
  deriving DecidableEq, Repr

/-- A power request at the controller: the one being served first, then those that wait (R346). -/
structure PowerJob where
  by_ : Asker
  dom : Fin 64
  target : PState
  deriving DecidableEq, Repr

/-- A change of a pod's frequency: its requester, the new and the old value, and whether it still waits for the supply
or already for the PLL (R486). -/
structure PodJob where
  by_ : Asker
  target : Nat
  old : Nat
  supply : Bool
  deriving DecidableEq, Repr

/-- Device states (Table 16.8). -/
inductive DevSt where
  | active | suspend | sleep | toSuspend | toSleep | waking | unpowered
  deriving DecidableEq, Repr

/-- Hazel: sequencer, wake logic and boot progress (R472 to R496). -/
structure Hazel where
  mode : Nat
  dev : DevSt
  from_ : DevSt
  doms : Vector Domain 64
  wakeHeld : Option Nat
  stopped : Bool
  board : Option Board
  bootAt : Nat
  booting : Bool
  pllOk : Bool
  pmicWait : Bool
  images : KV (List Byte)
  powerQ : List PowerJob
  islandsOn : BitVec 4
  coresOn : BitVec 32
  graceAt : Option Nat
  resetCode : Nat
  podJob : Vector (Option PodJob) 8
  podActual : Vector Nat 8
  throttled : Bool
  temps : Vector Int 16
  perst : Vector Bool 2
  bifur : Bool
  pmicOut : List (List Byte)
  porst : Bool
  deriving DecidableEq, Repr

/-! ## Data Mover, faults, ledger -/

/-- One Data Mover channel (Table 17.1). -/
structure DmChan where
  tail : BitVec 16
  head : BitVec 16
  abortRes : BitVec 2
  stat : BitVec 2
  en : BitVec 2
  running : Bool
  retired : Bool
  cur : Option (BitVec 16)
  done : List Nat
  deriving DecidableEq, Repr

/-- A fault record (Table 17.6). -/
structure FaultRec where
  code : Byte
  cls : Fin 4
  unit : Byte
  unit2 : Byte
  repeat_ : BitVec 16
  addr : Word
  info : Word
  time : Nat
  deriving DecidableEq, Repr

/-- A fault bank (Table 17.5). -/
structure FaultBank where
  recs : List FaultRec
  ovf : Bool
  en : BitVec 4
  fatal : Bool
  deriving DecidableEq, Repr

/-- The in-flight ledger's counters (R512). -/
structure Ledger where
  head : BitVec 32
  tail : BitVec 32
  event : BitVec 16
  deriving DecidableEq, Repr

/-- The GPIO block (Table 18.8). -/
structure Gpio where
  in_ : BitVec 32
  out : BitVec 32
  oe : BitVec 32
  en : BitVec 32
  edge : BitVec 32
  stat : BitVec 32
  deriving DecidableEq, Repr

/-- Transients counted at a resource, by retirement kind and ID (R510). -/
abbrev Transients := KV (List Nat)

/-- What the block last answered: a value or an error response to a register access, a dictionary status (Table 14.2),
a line or the old value of an atomic from a home agent (the line goes to its requester and to those that joined its
transaction, R242), or the bytes a flow command or a read returned. -/
inductive Reply where
  | none
  | value (v : Word)
  | error (r : Resp)
  | status (st : Nat)
  | bytes (l : List Byte) (poison : Bool)
  | line (dst : Requester) (joined : List Requester) (line : Nat) (d : Line) (poison : Bool)
  deriving DecidableEq, Repr

/-- A request that the root complex issues at a PCIe link (R23): to a configuration register by bus, device, function and register,
or to a memory address; with its length, and the bytes of a write. -/
inductive LinkReq where
  | cfg (bus dev fn reg n : Nat) (data : Option (List Byte))
  | mem (addr n : Nat) (data : Option (List Byte))
  deriving DecidableEq, Repr

/-- The whole machine. `held` is the model's own: within a command, a request of it that cannot be served yet waits (log entry
22); between commands it is false. -/
structure State where
  pending : List Instr
  time : Nat
  fresh : Nat
  held : Bool
  reply : Reply
  mem : List Host.Cell
  poison : List Nat
  tags : List Nat
  ecc : KV Bool
  ent : KV Nat
  entB : KV (List Byte)
  acore : Vector ACore 32
  tlbPend : List TlbPend
  pod : Vector Pod 8
  home : Vector Home 16
  pc : Vector PseudoChannel 64
  hbm : Hbm
  sent : KV Nat
  island : Vector Island 4
  safeN : Bool
  irq : Irq
  husk : KV Husk
  gw : Gateway
  env : Env
  mail : Vector MailPage 64
  dap : Dap
  seed : Seed
  hazel : Hazel
  dm : Vector DmChan 32
  fb : Vector FaultBank 49
  ledger : Ledger
  trans : Transients
  retired : List Word
  gpio : Gpio
  pcieOut : Option LinkReq
  deriving DecidableEq, Repr

/-! ## The state after reset: every VOL entry at its default, no command pending (log entry 3 names every value
that the spec does not state) -/

/-- Saved registers at reset (log entry 3; XSY is zero by Table 4.3). -/
def Saved.init : Saved := ⟨0, 0, 0, 0⟩

/-- STAT at reset: ML 0xF, level H in PARTITION and BOTH modes, the world of the pod (Table 4.1). -/
def statReset (hLevel secure : Bool) : Word :=
  0xF0 ||| (if hLevel then 4 else 0) ||| (if secure then 8 else 0)

/-- An A-core whose domain is off, with the registers it will leave reset with (Table 4.1, log entry 3). -/
def ACore.init : ACore where
  run := .off
  g := Vector.replicate 31 0
  sp := Vector.replicate 5 0
  f := Vector.replicate 32 0
  fsr := 0
  pc := 0
  delay := none
  stat := statReset true false
  x0 := Saved.init
  xh := Saved.init
  vtb0 := 0
  vtbh := 0
  esp0 := 0
  esph := 0
  gtb := 0
  pcid := 0
  part := 0
  tcr := 0
  mat := 0
  ttb0 := 0
  ttb1 := 0
  ttbh := 0
  cycle := 0
  instret := 0
  pmevt := Vector.replicate 8 0
  pmcnt := Vector.replicate 8 0
  husk := none
  sb := []
  wait := none
  miss := []
  l1d := []
  l1i := []
  streams := []
  pred := []
  ret := []
  tlb := []
  walk := []
  hist := []
  path := []
  split := none
  posted := []
  crc := []
  evs := []
  longOwed := false
  haltReq := false
  step1 := false
  forced := false

/-- A pod with an empty L2. -/
def Pod.init : Pod := ⟨[], []⟩
/-- A slice with an empty SLC and filter and an idle home agent. -/
def Home.init : Home := ⟨[], [], [], [], [], [], []⟩
/-- A pseudo-channel at reset. -/
def PseudoChannel.init : PseudoChannel := ⟨[], 0, 0, .normal, [], [], [], [], 0, false, false, 0, 0, 0⟩
/-- The memory system at reset: no stack trained, no fill started (Table 7.5). -/
def Hbm.init : Hbm := ⟨false, .notStarted, 0, Vector.replicate 2 .untrained, Vector.replicate 2 .untrained, [], []⟩

/-- A capability of zeros without a tag. -/
def Cap.zero : Cap := ⟨0, 0, 0, 0, false⟩
/-- The root data capability (R290). -/
def Cap.rootData : Cap := ⟨0, 0xFFFFFFFFFFFF, 0x9B, 0, true⟩
/-- The root code capability (R290). -/
def Cap.rootCode : Cap := ⟨0, 0x40000, 0x85, 0, true⟩
/-- The root seal capability (R290). -/
def Cap.rootSeal : Cap := ⟨0, 0x100, 0x60, 0, true⟩
/-- c0 to c15 at the release from reset (R290). -/
def capsReset : Vector Cap 16 :=
  (((Vector.replicate 16 Cap.zero).set 0 Cap.rootData).set 1 Cap.rootCode).set 2 Cap.rootSeal

/-- A T-core at the release from reset (R290) in a role; XPC, XST, XVA and the saved PCC are of log entry 3. -/
def TCore.init (r : Role) : TCore where
  role := r
  run := .held
  g := Vector.replicate 32 0
  f := Vector.replicate 32 0
  fsr := 0
  c := capsReset
  pcc := Cap.rootCode
  xpcc := Cap.zero
  tvb := Cap.zero
  pc := 0
  delay := none
  slotClears := false
  tstat := 0xF0
  x := Saved.init
  lc := Vector.replicate 2 0
  ls := Vector.replicate 2 0
  le := Vector.replicate 2 0
  xlc := Vector.replicate 2 0
  xls := Vector.replicate 2 0
  xle := Vector.replicate 2 0
  cycle := 0
  instret := 0
  entries := 0
  sb := []
  outq := []
  qpos := 0
  joinPos := 0
  far := none
  parked := none
  pen := 0xFFFFFFFFFFFFFFFF
  winCount := 0
  seq := 1
  uncompared := []
  sent := 0
  waited := false
  haltReq := false
  step1 := false

/-- An island output at reset (Table 8.10, R317): no waveform, the pin driven low. -/
def OutPin.init : OutPin := ⟨0, 0, 0, .low, 0, false⟩
/-- A capture input at reset (Table 8.10). -/
def CapIn.init : CapIn := ⟨0, false, false, 0⟩
/-- An SPI controller at reset (Table 8.10). -/
def Spi.init : Spi := ⟨0x00B, 0, 0, false, none⟩

/-- An island at reset: the voter HELD, slots 0 to 2 active and slot 3 the spare (SLOT_ROLE 0x40, Table 8.11). -/
def Island.init : Island where
  slots := (Vector.replicate 4 (TCore.init .active)).set 3 (TCore.init .spare)
  st := .held
  penCmp := []
  outCmp := []
  rel := []
  issued := []
  port := []
  done := []
  bounds := []
  claimed := []
  testing := none
  good := 0
  tested := 0
  injecting := false
  joining := none
  joinIsSpare := false
  capturing := false
  sourceStopped := false
  mismatchAt := 0
  mismatchSeq := 0
  transients := Vector.replicate 4 []
  pins := Vector.replicate 16 OutPin.init
  caps := Vector.replicate 16 CapIn.init
  spi := Vector.replicate 2 Spi.init
  released := false

/-- A source at reset (Tables 4.11 and 4.12). -/
def IrqSrc.init : IrqSrc := ⟨0x2000, none, false, false, none, false, false⟩
/-- The distributor at reset. -/
def Irq.init : Irq := ⟨[], Vector.replicate 64 0, []⟩
/-- A free husk (Table 10.10). -/
def Husk.init : Husk := ⟨.free, 0, Vector.replicate 4 0, 0, 12, 0, Vector.replicate 8 0, 2, 0, 0⟩

/-- An Ethernet port at reset: link down, all gates open (Table 11.11, R359). -/
def Port.init : Port where
  link := false
  queues := Vector.replicate 8 []
  headAt := Vector.replicate 8 0
  sending := none
  paused := none
  gclIdx := 0
  gates := 0xFF
  gclPending := false
  gclAt := 0
  gclT := 0
  credit := Vector.replicate 8 0
  creditAt := 0
  preempt := false
  bucket := 0
  bucketAt := 0

/-- A stream gate at reset: open (R364). -/
def SGate.init : SGate := ⟨0, true, false, 0, 0⟩
/-- A queue pair at reset (Table 11.7). -/
def Qp.init : Qp := ⟨0, 0, 0, 0, 0, [], [], [], [], none⟩
/-- A VI at reset (Table 11.7). -/
def Vi.init : Vi := ⟨Vector.replicate 16 Qp.init, 0, 0, false, false⟩
/-- A CAN channel at reset: stopped (Table 12.9). -/
def Can.init : Can := ⟨.stopped, 0, 0, [], none, 0, false, none, false, false, []⟩
/-- A LIN channel at reset: stopped. -/
def Lin.init : Lin := ⟨false, [], 0, none, 0, false, [], false, none⟩
/-- An encapsulation stream at reset. -/
def Window.init : Window := ⟨none, [], []⟩

/-- An 802.1AS instance that has heard nothing. -/
def Gptp.init : Gptp := ⟨Vector.replicate 24 none, false⟩

/-- The gateway at reset. -/
def Gateway.init : Gateway where
  ports := Vector.replicate 24 Port.init
  sgates := Vector.replicate 64 SGate.init
  vi := []
  cache := []
  miss := []
  can := Vector.replicate 24 Can.init
  lin := Vector.replicate 12 Lin.init
  win := Vector.replicate 64 Window.init
  ucode := .none
  gptp := Vector.replicate 4 Gptp.init

/-- The envelope before it is locked (Table 13.4, R421). -/
def Env.init : Env where
  locked := false
  id := 0
  secVersion := 0
  digest := 0
  ports := Vector.replicate 24 0
  can := Vector.replicate 24 0
  outs := Vector.replicate 64 (0, 0)
  allow := []
  buckets := []
  stat := 0
  en := 0
  first := 0
  firstTime := 0

/-- A mailbox page at reset (Table 14.3). -/
def MailPage.init : MailPage := ⟨0, 0, false, false, 0, false, 0, false, []⟩

/-- The DAP agent and the ensign at reset: LOCAL holds it (R458). -/
def Dap.init : Dap where
  txFresh := Vector.replicate 8 0
  txEnd := Vector.replicate 8 0
  rx := []
  rxStored := []
  ready := []
  pings := []
  txns := []
  subs := []
  out := []
  holder := .local_
  node := 0
  prev := .local_
  window := []
  leaseAt := 0

/-- The seed store with nothing written. -/
def Seed.init : Seed := ⟨[], [], none, [], none⟩

/-- Boot value of a domain (Table 16.1). -/
def bootValue (d : Nat) : PState := if d < 40 ∨ d = 55 ∨ d = 58 then .off else .on

/-- A domain at its boot value (Table 16.1). -/
def Domain.boot (d : Nat) : Domain := ⟨bootValue d, bootValue d, none, false, none, false, 0, 0, none⟩

/-- Hazel at reset. -/
def Hazel.init : Hazel where
  mode := 1
  dev := .active
  from_ := .active
  doms := Vector.ofFn fun d => Domain.boot d.val
  wakeHeld := none
  stopped := false
  board := none
  bootAt := 0
  booting := false
  pllOk := false
  pmicWait := false
  images := []
  powerQ := []
  islandsOn := 0
  coresOn := 0
  graceAt := none
  resetCode := 1
  podJob := Vector.replicate 8 none
  podActual := Vector.replicate 8 0
  throttled := false
  temps := Vector.replicate 16 0
  perst := Vector.replicate 2 false
  bifur := false
  pmicOut := []
  porst := false

/-- A Data Mover channel at reset (Table 17.1). -/
def DmChan.init : DmChan := ⟨0, 0, 0, 0, 0, false, false, none, []⟩
/-- A fault bank at reset (Table 17.5). -/
def FaultBank.init : FaultBank := ⟨[], false, 0b1110, false⟩
/-- The GPIO block at reset (Table 18.8). -/
def Gpio.init : Gpio := ⟨0, 0, 0, 0, 0, 0⟩

/-- The machine right after reset, with no command waiting. -/
def State.reset : State where
  pending := []
  time := 0
  fresh := 0
  held := false
  reply := .none
  mem := []
  poison := []
  tags := []
  ecc := []
  ent := []
  entB := []
  acore := Vector.replicate 32 ACore.init
  tlbPend := []
  pod := Vector.replicate 8 Pod.init
  home := Vector.replicate 16 Home.init
  pc := Vector.replicate 64 PseudoChannel.init
  hbm := Hbm.init
  sent := []
  island := Vector.replicate 4 Island.init
  safeN := true
  irq := Irq.init
  husk := []
  gw := Gateway.init
  env := Env.init
  mail := Vector.replicate 64 MailPage.init
  dap := Dap.init
  seed := Seed.init
  hazel := Hazel.init
  dm := Vector.replicate 32 DmChan.init
  fb := Vector.replicate 49 FaultBank.init
  ledger := ⟨0, 0, 0⟩
  trans := []
  retired := []
  gpio := Gpio.init
  pcieOut := none

/-- Why the machine stops. No rule of the spec stops the block: this reason is never raised today
and stands for an internal state no rule describes. Safe. -/
inductive Fault where
  /-- Raised by no command of this model. Safe. -/
  | stuck (why : String)
  deriving DecidableEq, Repr

/-- Why a command is refused. -/
inductive Refusal where
  /-- Raised by an arm of `exec` whose command has no meaning yet. Safe. -/
  | notModelled (mnemonic : String)
  /-- Raised by an instruction row whose word encodes an instruction of another row, or an ERET row whose core
  is of the other kind: such a command is not of the table. Safe. -/
  | illFormed (mnemonic : String)
  deriving DecidableEq, Repr

end Sys2Proof.Machine
end

