-- ==== Sys2Proof/Machine/Base.lean ====
section
/-! DEFINITION. Sparse tables, arrays, byte strings and the memory of bytes. -/
namespace Sys2Proof.Machine

/-! ## Sparse tables: keys strictly rise -/

/-- The value listed at a key. -/
def kvGet? {α : Type} : KV α → Nat → Option α
  | [], _ => none
  | (k, v) :: r, n => if n = k then some v else if n < k then none else kvGet? r n

/-- The value at a key, with the value an unlisted key has. -/
def kvGet {α : Type} (d : α) (t : KV α) (n : Nat) : α := (kvGet? t n).getD d

/-- List a value at a key, keeping the keys in order. -/
def kvPut {α : Type} (n : Nat) (v : α) : KV α → KV α
  | [] => [(n, v)]
  | (k, w) :: r => if n = k then (n, v) :: r else if n < k then (n, v) :: (k, w) :: r else (k, w) :: kvPut n v r

/-- Remove a key. -/
def kvDel {α : Type} (n : Nat) : KV α → KV α
  | [] => []
  | (k, w) :: r => if n = k then r else if n < k then (k, w) :: r else (k, w) :: kvDel n r

/-- Give a key a value; the value that an unlisted key has is not listed. -/
def kvSet {α : Type} [DecidableEq α] (d : α) (n : Nat) (v : α) (t : KV α) : KV α :=
  if v = d then kvDel n t else kvPut n v t

/-- The canonical form: keys strictly rise. -/
def kvSorted {α : Type} : KV α → Bool
  | [] => true
  | [_] => true
  | (a, _) :: (b, w) :: r => decide (a < b) && kvSorted ((b, w) :: r)

/-- No listed value is the one that an unlisted key has. -/
def kvNoDefault {α : Type} [DecidableEq α] (d : α) (t : KV α) : Bool := t.all (fun p => decide (p.2 ≠ d))

/-! ## Sorted sets of numbers -/

/-- Put a number into a sorted list. -/
def setIns (n : Nat) : List Nat → List Nat
  | [] => [n]
  | k :: r => if n = k then k :: r else if n < k then n :: k :: r else k :: setIns n r

/-- Put a number into a sorted list, or take it out. -/
def setPut (n : Nat) (b : Bool) (l : List Nat) : List Nat := if b then setIns n l else l.filter (· ≠ n)

/-! ## Arrays -/

/-- Replace one element of an array. -/
def vset {α : Type} {n : Nat} (v : Vector α n) (i : Fin n) (x : α) : Vector α n := v.set i.val x i.isLt

/-- Change one element of an array. -/
def vmod {α : Type} {n : Nat} (v : Vector α n) (i : Fin n) (f : α → α) : Vector α n := vset v i (f (v.get i))

/-- All indices of an array, in order. -/
def allFin (n : Nat) : List (Fin n) := List.finRange n

/-- An index from a number, the excess over the size taken off. -/
def fin (n k : Nat) : Fin (n + 1) := ⟨k % (n + 1), Nat.mod_lt _ (Nat.succ_pos n)⟩

/-! ## Bits and bytes, little-endian (R7) -/

/-- Bits [hi:lo] of a number. -/
def bits (v : Nat) (hi lo : Nat) : Nat := (v >>> lo) % 2 ^ (hi + 1 - lo)

/-- Bit i of a number. -/
def bit (v i : Nat) : Bool := v.testBit i

/-- One bit as a number. -/
def b2n (b : Bool) : Nat := if b then 1 else 0

/-- A number with bits [hi:lo] replaced. -/
def putBits (v hi lo x : Nat) : Nat :=
  v - (bits v hi lo) * 2 ^ lo + (x % 2 ^ (hi + 1 - lo)) * 2 ^ lo

/-- The n low bytes of a number, least significant first (R7). -/
def toBytes : Nat → Nat → List Byte
  | 0, _ => []
  | n + 1, v => BitVec.ofNat 8 v :: toBytes n (v / 256)

/-- The number that bytes hold, least significant first (R7). -/
def ofBytes : List Byte → Nat
  | [] => 0
  | b :: r => b.toNat + 256 * ofBytes r

/-- The n low bytes of a number, most significant first (network order). -/
def toBytesBE (n v : Nat) : List Byte := (toBytes n v).reverse

/-- The number that bytes hold, most significant first. -/
def ofBytesBE (l : List Byte) : Nat := ofBytes l.reverse

/-- Bytes [off, off + n) of a byte string, zeros beyond its end. -/
def slice (l : List Byte) (off n : Nat) : List Byte :=
  let p := (l.drop off).take n
  p ++ List.replicate (n - p.length) 0

/-- A byte string with bytes from off on replaced by d, within its length. -/
def patch (l : List Byte) (off : Nat) (d : List Byte) : List Byte :=
  l.take off ++ d.take (l.length - off) ++ l.drop (off + d.length)

/-- A number of bytes in steps of n. -/
def chunks (n : Nat) : Nat → List Byte → List (List Byte)
  | 0, _ => []
  | k + 1, l => l.take n :: chunks n k (l.drop n)

/-- Sign-extend the low n bits of a number to 64 bits. -/
def sext (n v : Nat) : Word := (BitVec.ofNat n v).signExtend 64

/-- A word from a number. -/
def word (v : Nat) : Word := BitVec.ofNat 64 v

/-! ## Memory of bytes by physical address -/

/-- What an address that lists no byte reads as (log entry 4). -/
def unlisted : Byte := 0

/-- One byte of memory. -/
def Memory.get (m : List Host.Cell) (a : Nat) : Byte := kvGet unlisted m a

/-- Write one byte of memory. -/
def Memory.set (m : List Host.Cell) (a : Nat) (b : Byte) : List Host.Cell := kvSet unlisted a b m

/-- The canonical form: addresses strictly rise and no entry equals what an unlisted address reads as. -/
def Memory.wf (m : List Host.Cell) : Bool := kvSorted m && kvNoDefault unlisted m

/-- n bytes of memory from an address on. -/
def Memory.read (m : List Host.Cell) (a : Nat) : Nat → List Byte
  | 0 => []
  | n + 1 => Memory.get m a :: Memory.read m (a + 1) n

/-- Write bytes from an address on. -/
def Memory.write (m : List Host.Cell) (a : Nat) : List Byte → List Host.Cell
  | [] => m
  | b :: r => Memory.write (Memory.set m a b) (a + 1) r

/-- The canonical form of the machine's tables: equal contents are equal data. -/
def State.canon (s : State) : Prop :=
  Memory.wf s.mem = true ∧ kvSorted s.ent = true ∧ kvSorted s.entB = true ∧ kvSorted s.husk = true ∧ kvSorted s.irq.src = true ∧
  kvSorted s.ecc = true

/-! ## Free values -/

/-- The index of the next free value, and the state that has used it (log entry 2). -/
def State.draw (s : State) : State × Nat := ({ s with fresh := s.fresh + 1 }, s.fresh)

end Sys2Proof.Machine
end

