-- ==== Sys2Proof/Machine/Crypto.lean ====
section
/-! DEFINITION. The codes and digests the spec names: CRC-32C and CRC-32 (R67), the pennant's CRC-64 (R297), CRC-16,
the Reed-Solomon code of HBM lines (R248, R249), AES-128-CMAC (R444) and SHA-384 (R337). -/
namespace Sys2Proof.Machine

/-! ## CRCs -/

/-- Eight steps of a reflected CRC of width 32, least significant bit first (R67). -/
def crcSteps (poly : BitVec 32) : Nat → BitVec 32 → BitVec 32
  | 0, c => c
  | n + 1, c => crcSteps poly n (if c.getLsbD 0 then (c >>> 1) ^^^ poly else c >>> 1)

/-- Fold one byte into a reflected CRC of width 32, with no inversion (R67). -/
def crc32Byte (poly : BitVec 32) (c : BitVec 32) (b : Byte) : BitVec 32 :=
  crcSteps poly 8 (c ^^^ b.setWidth 32)

/-- The CRC-32C polynomial, reflected (R67). -/
def polyC : BitVec 32 := 0x82F63B78
/-- The polynomial of IEEE 802.3, reflected (R67). -/
def polyE : BitVec 32 := 0xEDB88320

/-- Fold bytes into a reflected CRC. -/
def crc32 (poly c : BitVec 32) (l : List Byte) : BitVec 32 := l.foldl (crc32Byte poly) c

/-- Eight steps of the pennant's CRC-64, most significant bit first (R297). -/
def crc64Steps : Nat → BitVec 64 → BitVec 64
  | 0, c => c
  | n + 1, c => crc64Steps n (if c.getLsbD 63 then (c <<< 1) ^^^ 0x42F0E1EBA9EA3693 else c <<< 1)

/-- Fold bytes into the pennant (R297). -/
def crc64 (c : BitVec 64) (l : List Byte) : BitVec 64 :=
  l.foldl (fun c b => crc64Steps 8 (c ^^^ BitVec.shiftLeft (b.setWidth 64) 56)) c

/-! ## GF(2^8) and the Reed-Solomon code of HBM lines (R248) -/

/-- The product of two polynomials over GF(2) modulo x^8 + the low bits of poly, n bits of the multiplier. -/
def gfMulAux (poly : Byte) : Nat → Byte → Byte → Byte
  | 0, _, _ => 0
  | n + 1, a, b =>
    (if b.getLsbD 0 then a else 0) ^^^
      gfMulAux poly n (if a.getLsbD 7 then (a <<< 1) ^^^ poly else a <<< 1) (b >>> 1)

/-- The product in the field of R248, x^8 + x^4 + x^3 + x^2 + 1. -/
def rsMul (a b : Byte) : Byte := gfMulAux 0x1D 8 a b

/-- α^n in the field of R248. -/
def rsPow : Nat → Byte
  | 0 => 1
  | n + 1 => rsMul 2 (rsPow n)

/-- The coefficients g_0 to g_7 of the generator (x − α^0) … (x − α^7), whose leading coefficient is 1 (R248). -/
def rsGen : List Byte :=
  ((List.range 8).foldl (fun g j => (List.range 9).map fun k =>
    (if k = 0 then 0 else g.getD (k - 1) 0) ^^^ rsMul (rsPow j) (g.getD k 0)) [1]).take 8

/-- One step of the division by g(x): the remainder so far, times x, with the next coefficient of the message times x^8. -/
def rsStep (r : List Byte) (m : Byte) : List Byte :=
  let top := r.getD 7 0 ^^^ m
  (List.range 8).map fun k => (if k = 0 then 0 else r.getD (k - 1) 0) ^^^ rsMul top (rsGen.getD k 0)

/-- The message of a line: its 64 data bytes and the five bytes of PA[43:6] (R248). -/
def rsMessage (data : List Byte) (line : Nat) : List Byte := data ++ toBytes 5 (line % 2 ^ 38)

/-- The check bytes C0 to C7 of a line: the coefficients of m(x) mod g(x) (R248). -/
def rsCheck (data : List Byte) (line : Nat) : List Byte := (rsMessage data line).reverse.foldl rsStep (List.replicate 8 0)

/-- The 77 symbols by which a line is checked: check bytes, data, and the address symbols, which are not stored (R248). -/
def rsWord (data : List Byte) (line : Nat) : List Byte := rsCheck data line ++ rsMessage data line

/-- What reading the word of one line at the address of another looks like: errors of the address symbols (R248). -/
def rsWrong (line got : Nat) : List (Nat × Byte) :=
  (((toBytes 5 ((line ^^^ got) % 2 ^ 38)).zipIdx).filter fun b => b.1 != 0).map fun b => (72 + b.2, b.1)

/-- Syndrome j of a pattern of symbol errors (position, value): the sum of v × α^(j × position) (R249). -/
def rsSyndrome (errs : List (Nat × Byte)) (j : Nat) : Byte :=
  errs.foldl (fun a e => a ^^^ rsMul e.2 (rsPow (e.1 * j % 255))) 0

/-- The syndromes S_0 to S_7 of an error pattern. The code is linear and the syndromes of `rsWord` are zero, so those of a word
are those of its errors, whatever the line's data. -/
def rsSyndromes (errs : List (Nat × Byte)) : List Byte := (List.range 8).map (rsSyndrome errs)

/-- The symbol and value of a single error with these syndromes, among the 77 symbols. -/
def rsSingle (syn : List Byte) : Option (Nat × Byte) :=
  match syn with
  | [] => none
  | v :: _ => if v = 0 then none
    else ((List.range 77).find? (fun p => rsSyndromes [(p, v)] == syn)).map fun p => (p, v)

/-- The pattern that marks a poisoned line: C0 to C3 XORed with 0xA5 (R249). -/
def rsPoison : List (Nat × Byte) := [(0, 0xA5), (1, 0xA5), (2, 0xA5), (3, 0xA5)]

/-- How a read of an HBM line is classified (R249): symbol k of the data is position k + 8, the address symbols are
positions 72 to 76. -/
inductive RsClass where
  | clean | poisoned | corrected (pos : Nat) (v : Byte) | poisonedCorrected (pos : Nat) (v : Byte) | address
  | uncorrectable
  deriving DecidableEq, Repr

/-- The classification of R249 from the symbol errors of the stored word, the poison pattern included where the line
was written poisoned. -/
def rsClassify (errs : List (Nat × Byte)) : RsClass :=
  let syn := rsSyndromes errs
  let rel := rsSyndromes (errs ++ rsPoison)
  if syn.all (· == 0) then .clean
  else if rel.all (· == 0) then .poisoned
  else match rsSingle syn with
    | some (p, v) => if p < 72 then .corrected p v else .address
    | none => match rsSingle rel with
      | some (p, v) => if p < 72 then .poisonedCorrected p v else .uncorrectable
      | none => .uncorrectable

/-! ## AES-128-CMAC (R444) -/

/-- The product in the field of AES, x^8 + x^4 + x^3 + x + 1. -/
def aesMul (a b : Byte) : Byte := gfMulAux 0x1B 8 a b

/-- a^(2^n) in the field of AES. -/
def aesSq : Nat → Byte → Byte
  | 0, a => a
  | n + 1, a => aesSq n (aesMul a a)

/-- The AES S-box: the inverse a^254 and an affine map (FIPS 197). -/
def aesSub (a : Byte) : Byte :=
  let i := (List.range 7).foldl (fun x k => aesMul x (aesSq (k + 1) a)) 1
  i ^^^ i.rotateLeft 1 ^^^ i.rotateLeft 2 ^^^ i.rotateLeft 3 ^^^ i.rotateLeft 4 ^^^ 0x63

/-- XOR of two byte strings. -/
def xorBytes (a b : List Byte) : List Byte := List.zipWith (· ^^^ ·) a b

/-- The next round key from the last one and a round constant (FIPS 197). -/
def aesNextKey (k : List Byte) (rc : Byte) : List Byte :=
  let w (i : Nat) := (k.drop (4 * i)).take 4
  let t := ((w 3).drop 1 ++ (w 3).take 1).map aesSub
  let t := xorBytes t [rc, 0, 0, 0]
  let w0 := xorBytes (w 0) t
  let w1 := xorBytes (w 1) w0
  let w2 := xorBytes (w 2) w1
  w0 ++ w1 ++ w2 ++ xorBytes (w 3) w2

/-- ShiftRows of FIPS 197. -/
def aesShift (s : List Byte) : List Byte :=
  (List.range 16).map fun i => s.getD ((i + 4 * (i % 4)) % 16) 0

/-- One column of MixColumns of FIPS 197. -/
def aesMixCol (c : List Byte) : List Byte :=
  (List.range 4).map fun i =>
    aesMul 2 (c.getD i 0) ^^^ aesMul 3 (c.getD ((i + 1) % 4) 0) ^^^ c.getD ((i + 2) % 4) 0 ^^^ c.getD ((i + 3) % 4) 0

/-- MixColumns of FIPS 197. -/
def aesMix (s : List Byte) : List Byte := (chunks 4 4 s).flatMap aesMixCol

/-- The rounds of AES-128 from a round constant on, n of them, the last without MixColumns. -/
def aesRounds : Nat → Byte → List Byte → List Byte → List Byte
  | 0, _, _, s => s
  | n + 1, rc, k, s =>
    let k' := aesNextKey k rc
    let s' := aesShift (s.map aesSub)
    aesRounds n (aesMul 2 rc) k' (xorBytes (if n = 0 then s' else aesMix s') k')

/-- AES-128 of one block. -/
def aes128 (key block : List Byte) : List Byte := aesRounds 10 1 key (xorBytes block key)

/-- Doubling in GF(2^128), for the subkeys of CMAC. -/
def cmacDbl (b : List Byte) : List Byte :=
  let v := ofBytesBE b
  toBytesBE 16 (if v.testBit 127 then (v * 2 % 2 ^ 128) ^^^ 0x87 else v * 2)

/-- CBC chaining over all blocks but the last. -/
def cmacChain (key : List Byte) : List (List Byte) → List Byte → List Byte
  | [], x => x
  | b :: r, x => cmacChain key r (aes128 key (xorBytes x b))

/-- AES-128-CMAC of a message (NIST SP 800-38B). -/
def cmac (key msg : List Byte) : List Byte :=
  let k1 := cmacDbl (aes128 key (List.replicate 16 0))
  let n := (msg.length + 15) / 16
  let n := if n = 0 then 1 else n
  let last := msg.drop (16 * (n - 1))
  let last' := if last.length = 16 then xorBytes last k1
    else xorBytes (slice (last ++ [0x80]) 0 16) (cmacDbl k1)
  aes128 key (xorBytes (cmacChain key (chunks 16 (n - 1) msg) (List.replicate 16 0)) last')

/-! ## SHA-384 (R337, R349) -/

/-- Round constants of SHA-512 and SHA-384, part 1 (FIPS 180-4). -/
def shaK1 : List Word :=
  [0x428A2F98D728AE22, 0x7137449123EF65CD, 0xB5C0FBCFEC4D3B2F, 0xE9B5DBA58189DBBC,
   0x3956C25BF348B538, 0x59F111F1B605D019, 0x923F82A4AF194F9B, 0xAB1C5ED5DA6D8118,
   0xD807AA98A3030242, 0x12835B0145706FBE, 0x243185BE4EE4B28C, 0x550C7DC3D5FFB4E2,
   0x72BE5D74F27B896F, 0x80DEB1FE3B1696B1, 0x9BDC06A725C71235, 0xC19BF174CF692694]
/-- Round constants of SHA-512 and SHA-384, part 2 (FIPS 180-4). -/
def shaK2 : List Word :=
  [0xE49B69C19EF14AD2, 0xEFBE4786384F25E3, 0x0FC19DC68B8CD5B5, 0x240CA1CC77AC9C65,
   0x2DE92C6F592B0275, 0x4A7484AA6EA6E483, 0x5CB0A9DCBD41FBD4, 0x76F988DA831153B5,
   0x983E5152EE66DFAB, 0xA831C66D2DB43210, 0xB00327C898FB213F, 0xBF597FC7BEEF0EE4,
   0xC6E00BF33DA88FC2, 0xD5A79147930AA725, 0x06CA6351E003826F, 0x142929670A0E6E70]
/-- Round constants of SHA-512 and SHA-384, part 3 (FIPS 180-4). -/
def shaK3 : List Word :=
  [0x27B70A8546D22FFC, 0x2E1B21385C26C926, 0x4D2C6DFC5AC42AED, 0x53380D139D95B3DF,
   0x650A73548BAF63DE, 0x766A0ABB3C77B2A8, 0x81C2C92E47EDAEE6, 0x92722C851482353B,
   0xA2BFE8A14CF10364, 0xA81A664BBC423001, 0xC24B8B70D0F89791, 0xC76C51A30654BE30,
   0xD192E819D6EF5218, 0xD69906245565A910, 0xF40E35855771202A, 0x106AA07032BBD1B8]
/-- Round constants of SHA-512 and SHA-384, part 4 (FIPS 180-4). -/
def shaK4 : List Word :=
  [0x19A4C116B8D2D0C8, 0x1E376C085141AB53, 0x2748774CDF8EEB99, 0x34B0BCB5E19B48A8,
   0x391C0CB3C5C95A63, 0x4ED8AA4AE3418ACB, 0x5B9CCA4F7763E373, 0x682E6FF3D6B2B8A3,
   0x748F82EE5DEFB2FC, 0x78A5636F43172F60, 0x84C87814A1F0AB72, 0x8CC702081A6439EC,
   0x90BEFFFA23631E28, 0xA4506CEBDE82BDE9, 0xBEF9A3F7B2C67915, 0xC67178F2E372532B]
/-- Round constants of SHA-512 and SHA-384, part 5 (FIPS 180-4). -/
def shaK5 : List Word :=
  [0xCA273ECEEA26619C, 0xD186B8C721C0C207, 0xEADA7DD6CDE0EB1E, 0xF57D4F7FEE6ED178,
   0x06F067AA72176FBA, 0x0A637DC5A2C898A6, 0x113F9804BEF90DAE, 0x1B710B35131C471B,
   0x28DB77F523047D84, 0x32CAAB7B40C72493, 0x3C9EBE0A15C9BEBC, 0x431D67C49C100D4C,
   0x4CC5D4BECB3E42B6, 0x597F299CFC657E2A, 0x5FCB6FAB3AD6FAEC, 0x6C44198C4A475817]

/-- All 80 round constants. -/
def shaK : List Word := shaK1 ++ shaK2 ++ shaK3 ++ shaK4 ++ shaK5

/-- The initial value of SHA-384 (FIPS 180-4). -/
def sha384Init : List Word :=
  [0xCBBB9D5DC1059ED8, 0x629A292A367CD507, 0x9159015A3070DD17, 0x152FECD8F70E5939,
   0x67332667FFC00B31, 0x8EB44A8768581511, 0xDB0C2E0D64F98FA7, 0x47B5481DBEFA4FA4]

/-- The message schedule, kept as the last sixteen words, newest last, with the rounds run beside it. -/
def shaRounds : List Word → List Word → List Word → List Word
  | [], _, h => h
  | k :: ks, w, h =>
    let g (i : Nat) := h.getD i 0
    let e := g 4
    let a := g 0
    let t1 := g 7 + (e.rotateRight 14 ^^^ e.rotateRight 18 ^^^ e.rotateRight 41) + ((e &&& g 5) ^^^ (~~~e &&& g 6)) + k + w.getD 0 0
    let t2 := (a.rotateRight 28 ^^^ a.rotateRight 34 ^^^ a.rotateRight 39) + ((a &&& g 1) ^^^ (a &&& g 2) ^^^ (g 1 &&& g 2))
    let w1 := w.getD 1 0
    let w14 := w.getD 14 0
    let nw := (w14.rotateRight 19 ^^^ w14.rotateRight 61 ^^^ (w14 >>> 6)) + w.getD 9 0 + (w1.rotateRight 1 ^^^ w1.rotateRight 8 ^^^ (w1 >>> 7)) + w.getD 0 0
    shaRounds ks (w.drop 1 ++ [nw]) [t1 + t2, a, g 1, g 2, g 3 + t1, e, g 5, g 6]

/-- One 128-byte block. -/
def shaBlock (h : List Word) (b : List Byte) : List Word :=
  let w := (chunks 8 16 b).map fun x => word (ofBytesBE x)
  List.zipWith (· + ·) h (shaRounds shaK w h)

/-- Padding of FIPS 180-4. -/
def shaPad (m : List Byte) : List Byte :=
  let z := (239 - m.length % 128) % 128
  m ++ [0x80] ++ List.replicate z 0 ++ toBytesBE 16 (8 * m.length)

/-- The SHA-384 digest of a message, 48 bytes. -/
def sha384 (m : List Byte) : List Byte :=
  let p := shaPad m
  let h := (chunks 128 (p.length / 128) p).foldl shaBlock sha384Init
  (h.take 6).flatMap fun w => toBytesBE 8 w.toNat

end Sys2Proof.Machine
end

