-- ==== Sys2Proof/Machine/Catalogue.lean ====
section
/-! DEFINITION. The catalogue of the dictionary: every entry with its type, access code, persistence, default, the
values it admits and who may use it, by the entry tables of the chapters (R9, R10, R430 to R432). -/
namespace Sys2Proof.Machine

/-- Types of entries (Table 14.1). -/
inductive DTy where
  | bool | u8 | u16 | u32 | u64 | i8 | i16 | i32 | i64 | f32 | f64 | string | octets (n : Nat) | domain | time | enum8
  deriving DecidableEq, Repr

/-- Type code (Table 14.1). -/
def DTy.code : DTy → Nat
  | .bool => 0x01 | .u8 => 0x02 | .u16 => 0x03 | .u32 => 0x04 | .u64 => 0x05 | .i8 => 0x06 | .i16 => 0x07
  | .i32 => 0x08 | .i64 => 0x09 | .f32 => 0x0A | .f64 => 0x0B | .string => 0x0C | .octets _ => 0x0D
  | .domain => 0x0E | .time => 0x0F | .enum8 => 0x10

/-- Size in bytes of a scalar type, and of OCTETS; none for STRING and DOMAIN (Table 14.1). -/
def DTy.size : DTy → Option Nat
  | .bool | .u8 | .i8 | .enum8 => some 1
  | .u16 | .i16 => some 2
  | .u32 | .i32 | .f32 => some 4
  | .u64 | .i64 | .f64 | .time => some 8
  | .octets n => some n
  | .string | .domain => none

/-- Types that the window carries (Table 14.1). -/
def DTy.scalar : DTy → Bool
  | .string | .octets _ | .domain => false
  | _ => true

/-- Types that the window sign-extends. -/
def DTy.isSigned : DTy → Bool
  | .i8 | .i16 | .i32 | .i64 => true
  | _ => false

/-- Bits of a scalar value. -/
def DTy.width (t : DTy) : Nat := 8 * t.size.getD 8

/-- Access codes (R431). -/
inductive DAcc where
  | const | ro | rw | wo | rws
  deriving DecidableEq, Repr

/-- Persistence classes (R432). -/
inductive Pers where
  | vol | stored | cal
  deriving DecidableEq, Repr

/-- The values that an entry admits, apart from rules that relate it to other state. -/
inductive Rng where
  | any | le (hi : Nat) | btw (lo hi : Nat) | mask (m : Nat) | oneOf (l : List Nat) | pow2 (lo hi : Nat)
  | aligned (n : Nat) | leOr (hi other : Nat) | btwOr (lo hi other : Nat)
  deriving DecidableEq, Repr

/-- Who may read and write: `pub` both worlds read and the Secure world writes; `sec` the Secure world alone;
`part` the Normal world reads a Normal partition's; `husk` R351; `vi`, `viSec`, `dm` the holder beside the Secure
world (R388, R515); `busQp`, `busCh` R418 and R438; `power` POWER_REQ; `hold` POWER_HOLD (R497); `key` written by
the Secure world and read by no one (R460). -/
inductive Rights where
  | pub | sec | part | husk | vi | viSec | busQp | busCh | dm | power | hold | key
  deriving DecidableEq, Repr

/-- A family of entries: indices idx to idx + n - 1, and in each the subindices sub + stride × j + i for i < w
and j < m. -/
structure EntRow where
  idx : Nat
  n : Nat
  sub : Nat
  w : Nat
  m : Nat
  stride : Nat
  ty : DTy
  acc : DAcc
  pers : Pers
  dflt : Nat
  rng : Rng
  rights : Rights
  deriving DecidableEq, Repr

/-- Entries: identity. -/
def catIdentity : List EntRow :=
  [⟨0x1000, 1, 0x1, 1, 1, 1, .string, .const, .vol, 0x0, .any, .pub⟩,
   ⟨0x1000, 1, 0x2, 1, 1, 1, .string, .const, .vol, 0x0, .any, .pub⟩,
   ⟨0x1000, 1, 0x3, 1, 1, 1, .string, .ro, .vol, 0x0, .any, .pub⟩,
   ⟨0x1000, 1, 0x4, 1, 1, 1, .enum8, .ro, .vol, 0x0, .any, .pub⟩,
   ⟨0x1000, 1, 0x5, 1, 1, 1, .u32, .const, .vol, 0x17480CBB, .any, .pub⟩,
   ⟨0x1000, 1, 0x6, 1, 1, 1, .string, .const, .vol, 0x0, .any, .pub⟩,
   ⟨0x1000, 1, 0x7, 1, 1, 1, .octets 16, .ro, .vol, 0x0, .any, .pub⟩,
   ⟨0x1000, 1, 0x8, 1, 1, 1, .u16, .const, .vol, 0x1, .any, .pub⟩,
   ⟨0x1000, 1, 0x9, 2, 1, 1, .u32, .ro, .vol, 0x0, .any, .pub⟩,
   ⟨0x1000, 1, 0x10, 1, 1, 1, .string, .rw, .stored, 0x0, .any, .pub⟩,
   ⟨0x1001, 1, 0x1, 2, 1, 1, .u32, .ro, .stored, 0x0, .any, .pub⟩,
   ⟨0x1001, 1, 0x3, 1, 1, 1, .octets 48, .ro, .stored, 0x0, .any, .pub⟩,
   ⟨0x1002, 1, 0x1, 1, 1, 1, .u32, .ro, .vol, 0x0, .any, .pub⟩,
   ⟨0x1002, 1, 0x2, 1, 1, 1, .u64, .ro, .stored, 0x0, .any, .pub⟩,
   ⟨0x1002, 1, 0x3, 1, 1, 1, .u32, .ro, .vol, 0x0, .any, .pub⟩,
   ⟨0x1003, 1, 0x1, 15, 1, 1, .domain, .ro, .vol, 0x0, .any, .pub⟩]

/-- Entries: power. -/
def catPower : List EntRow :=
  [⟨0x2000, 1, 0x1, 64, 1, 1, .enum8, .rw, .vol, 0x0, .le 2, .power⟩,
   ⟨0x2001, 1, 0x1, 64, 1, 1, .enum8, .ro, .vol, 0x0, .any, .pub⟩,
   ⟨0x2002, 1, 0x1, 64, 1, 1, .bool, .rw, .vol, 0x0, .any, .hold⟩,
   ⟨0x2003, 1, 0x1, 64, 1, 1, .enum8, .ro, .vol, 0x0, .any, .pub⟩,
   ⟨0x2004, 1, 0x1, 1, 1, 1, .enum8, .ro, .vol, 0x0, .any, .pub⟩,
   ⟨0x2004, 1, 0x2, 1, 1, 1, .enum8, .wo, .vol, 0x0, .btw 1 3, .pub⟩,
   ⟨0x2004, 1, 0x3, 1, 1, 1, .u16, .rw, .stored, 0x64, .btw 1 10000, .pub⟩,
   ⟨0x2004, 1, 0x4, 1, 1, 1, .u32, .rw, .stored, 0x0, .any, .pub⟩,
   ⟨0x2004, 1, 0x5, 1, 1, 1, .u32, .ro, .vol, 0x0, .any, .pub⟩,
   ⟨0x2004, 1, 0x6, 1, 1, 1, .time, .ro, .vol, 0x0, .any, .pub⟩,
   ⟨0x2100, 1, 0x1, 8, 1, 1, .u16, .rw, .stored, 0x7D0, .any, .pub⟩,
   ⟨0x2101, 1, 0x1, 8, 1, 1, .u16, .ro, .vol, 0x0, .any, .pub⟩,
   ⟨0x2102, 1, 0x1, 1, 1, 1, .i16, .rw, .stored, 0x73, .any, .pub⟩,
   ⟨0x2102, 1, 0x2, 1, 1, 1, .u32, .ro, .vol, 0x0, .any, .pub⟩,
   ⟨0x2103, 1, 0x1, 16, 1, 1, .i16, .ro, .vol, 0x0, .any, .pub⟩,
   ⟨0x2104, 1, 0x1, 1, 1, 1, .u32, .const, .vol, 0x77359400, .any, .pub⟩,
   ⟨0x2104, 1, 0x2, 1, 1, 1, .u16, .ro, .vol, 0x0, .any, .pub⟩,
   ⟨0x2200, 1, 0x1, 1, 1, 1, .u32, .rw, .stored, 0x2000000, .mask 0x03FFFFFF, .pub⟩,
   ⟨0x2200, 1, 0x2, 1, 1, 1, .time, .rw, .vol, 0x0, .any, .pub⟩,
   ⟨0x2200, 1, 0x3, 1, 1, 1, .u8, .rw, .stored, 0x0, .any, .pub⟩,
   ⟨0x2200, 1, 0x4, 1, 1, 1, .u16, .rw, .stored, 0x64, .le 10000, .pub⟩,
   ⟨0x2200, 1, 0x5, 1, 1, 1, .enum8, .ro, .vol, 0x0, .any, .pub⟩,
   ⟨0x2200, 1, 0x6, 1, 1, 1, .u32, .ro, .vol, 0x0, .any, .pub⟩,
   ⟨0x2210, 16, 0x1, 1, 1, 1, .u8, .rw, .stored, 0x0, .any, .pub⟩,
   ⟨0x2210, 16, 0x2, 2, 1, 1, .u32, .rw, .stored, 0x0, .mask 0x3FFFFFFF, .pub⟩,
   ⟨0x2210, 16, 0x4, 2, 1, 1, .u64, .rw, .stored, 0x0, .any, .pub⟩,
   ⟨0x2210, 16, 0x6, 1, 1, 1, .u32, .ro, .vol, 0x0, .any, .pub⟩,
   ⟨0x2300, 1, 0x1, 1, 1, 1, .enum8, .ro, .vol, 0x1, .any, .pub⟩,
   ⟨0x2300, 1, 0x2, 1, 1, 1, .u32, .wo, .vol, 0x0, .oneOf [0x53595352], .pub⟩,
   ⟨0x2300, 1, 0x3, 1, 1, 1, .enum8, .ro, .vol, 0x0, .any, .pub⟩,
   ⟨0x2300, 1, 0x4, 1, 1, 1, .u32, .ro, .vol, 0x0, .any, .pub⟩,
   ⟨0x2300, 1, 0x5, 1, 1, 1, .u64, .rw, .vol, 0x0, .any, .pub⟩,
   ⟨0x2300, 1, 0x6, 1, 1, 1, .u8, .rw, .stored, 0x0, .le 31, .pub⟩,
   ⟨0x2300, 1, 0x7, 1, 1, 1, .u16, .rw, .vol, 0x3E8, .btw 10 60000, .pub⟩,
   ⟨0x2300, 1, 0x8, 1, 1, 1, .u64, .rw, .vol, 0x0, .any, .pub⟩,
   ⟨0x2300, 1, 0x9, 1, 1, 1, .u32, .ro, .vol, 0x0, .any, .pub⟩]

/-- Entries: isolation. -/
def catIsolation : List EntRow :=
  [⟨0x3000, 1, 0x1, 1, 1, 1, .enum8, .ro, .stored, 0x1, .btw 1 3, .pub⟩,
   ⟨0x3000, 1, 0x2, 1, 1, 1, .u8, .rws, .stored, 0x0, .any, .pub⟩,
   ⟨0x3000, 1, 0x10, 8, 1, 1, .u64, .rw, .stored, 0x0, .mask 0xFFFFFFFFFFFF0003, .sec⟩,
   ⟨0x3000, 1, 0x20, 4, 1, 1, .enum8, .ro, .vol, 0x0, .any, .pub⟩,
   ⟨0x3000, 1, 0x24, 1, 1, 1, .u8, .wo, .vol, 0x0, .le 3, .sec⟩,
   ⟨0x3000, 1, 0x31, 7, 1, 1, .u32, .rw, .vol, 0x0, .le 64, .pub⟩,
   ⟨0x3100, 64, 0x1, 1, 1, 1, .bool, .rw, .stored, 0x0, .any, .part⟩,
   ⟨0x3100, 64, 0x2, 1, 1, 1, .bool, .rw, .stored, 0x0, .any, .part⟩,
   ⟨0x3100, 64, 0x3, 1, 1, 1, .u8, .rw, .stored, 0x0, .any, .part⟩,
   ⟨0x3100, 64, 0x4, 1, 1, 1, .bool, .rw, .stored, 0x0, .any, .part⟩,
   ⟨0x3100, 64, 0x5, 2, 1, 1, .u16, .rw, .stored, 0x0, .mask 0x3FF, .part⟩,
   ⟨0x3100, 64, 0x7, 1, 1, 1, .u32, .rw, .stored, 0x0, .any, .part⟩,
   ⟨0x3100, 64, 0x8, 4, 1, 1, .u64, .rw, .stored, 0x0, .any, .part⟩,
   ⟨0x3100, 64, 0xC, 1, 1, 1, .u8, .rw, .stored, 0x0, .mask 3, .part⟩,
   ⟨0x3100, 64, 0x10, 8, 1, 1, .u64, .rw, .stored, 0x0, .mask 0xFFFFFFFFFFFF0003, .part⟩,
   ⟨0x3200, 1, 0x1, 1, 1, 1, .u16, .ro, .vol, 0x0, .any, .sec⟩,
   ⟨0x3210, 128, 0x1, 1, 8, 32, .enum8, .ro, .vol, 0x0, .any, .husk⟩,
   ⟨0x3210, 128, 0x2, 1, 8, 32, .enum8, .wo, .vol, 0x0, .btw 1 3, .husk⟩,
   ⟨0x3210, 128, 0x3, 1, 8, 32, .u8, .ro, .vol, 0x0, .any, .husk⟩,
   ⟨0x3210, 128, 0x4, 4, 8, 32, .u64, .rw, .vol, 0x0, .mask 0xFFFFFFFFFFFF0003, .husk⟩,
   ⟨0x3210, 128, 0x8, 1, 8, 32, .u64, .rw, .vol, 0x0, .any, .husk⟩,
   ⟨0x3210, 128, 0x9, 1, 8, 32, .u8, .rw, .vol, 0xC, .btw 12 20, .husk⟩,
   ⟨0x3210, 128, 0xA, 1, 8, 32, .u64, .rw, .vol, 0x0, .any, .husk⟩,
   ⟨0x3210, 128, 0xB, 8, 8, 32, .u64, .rw, .vol, 0x0, .any, .husk⟩,
   ⟨0x3210, 128, 0x13, 1, 8, 32, .u8, .rw, .vol, 0x2, .btw 1 2, .husk⟩,
   ⟨0x3210, 128, 0x14, 1, 8, 32, .u8, .rw, .vol, 0x0, .any, .husk⟩,
   ⟨0x3210, 128, 0x15, 1, 8, 32, .u32, .ro, .vol, 0x0, .any, .husk⟩,
   ⟨0x3210, 128, 0x16, 1, 8, 32, .octets 48, .ro, .vol, 0x0, .any, .husk⟩,
   ⟨0x3300, 1, 0x1, 4, 1, 1, .bool, .rw, .stored, 0x0, .any, .sec⟩,
   ⟨0x3300, 1, 0x5, 2, 1, 1, .u64, .rw, .stored, 0x0, .any, .sec⟩]

/-- Entries: memory. -/
def catMemory : List EntRow :=
  [⟨0x4000, 1, 0x1, 1, 1, 1, .bool, .ro, .vol, 0x0, .any, .pub⟩,
   ⟨0x4000, 1, 0x2, 1, 1, 1, .bool, .rw, .stored, 0x0, .any, .pub⟩,
   ⟨0x4000, 1, 0x3, 1, 1, 1, .u64, .ro, .vol, 0x0, .any, .pub⟩,
   ⟨0x4000, 1, 0x4, 1, 1, 1, .enum8, .ro, .vol, 0x0, .any, .pub⟩,
   ⟨0x4000, 1, 0x5, 1, 1, 1, .u32, .ro, .vol, 0x0, .any, .pub⟩,
   ⟨0x4000, 1, 0x6, 2, 1, 1, .enum8, .ro, .vol, 0x0, .any, .pub⟩,
   ⟨0x4000, 1, 0x10, 1, 1, 1, .u16, .rw, .stored, 0x18, .btw 1 168, .pub⟩,
   ⟨0x4000, 1, 0x11, 1, 1, 1, .u32, .ro, .vol, 0x0, .any, .pub⟩,
   ⟨0x4000, 1, 0x12, 1, 1, 1, .u8, .rw, .stored, 0x2, .btw 1 8, .pub⟩,
   ⟨0x4000, 1, 0x13, 1, 1, 1, .u16, .rw, .stored, 0x40, .btw 1 1024, .pub⟩,
   ⟨0x4000, 1, 0x14, 1, 1, 1, .u8, .ro, .vol, 0x0, .any, .pub⟩,
   ⟨0x4001, 1, 0x1, 64, 1, 1, .enum8, .ro, .vol, 0x0, .any, .pub⟩,
   ⟨0x4002, 1, 0x1, 64, 1, 1, .u32, .ro, .vol, 0x0, .any, .pub⟩,
   ⟨0x4003, 1, 0x1, 64, 1, 1, .u16, .ro, .vol, 0x0, .any, .pub⟩,
   ⟨0x4004, 1, 0x1, 64, 1, 1, .u32, .ro, .vol, 0x0, .any, .pub⟩,
   ⟨0x4100, 1, 0x1, 1, 1, 1, .u16, .rw, .stored, 0x14, .btw 1 500, .pub⟩,
   ⟨0x4100, 1, 0x2, 1, 1, 1, .u32, .ro, .vol, 0x0, .any, .pub⟩,
   ⟨0x4100, 1, 0x3, 1, 1, 1, .u32, .wo, .vol, 0x0, .any, .pub⟩,
   ⟨0x4100, 1, 0x4, 1, 1, 1, .u16, .wo, .vol, 0x0, .any, .pub⟩,
   ⟨0x4100, 1, 0x5, 1, 1, 1, .bool, .ro, .vol, 0x0, .any, .pub⟩,
   ⟨0x4100, 1, 0x6, 1, 1, 1, .u32, .const, .vol, 0x3C, .any, .pub⟩,
   ⟨0x4100, 1, 0x7, 1, 1, 1, .u32, .const, .vol, 0x320, .any, .pub⟩,
   ⟨0x4104, 8, 0x1, 1, 1, 1, .u16, .rw, .stored, 0xFFFF, .any, .pub⟩,
   ⟨0x4104, 8, 0x2, 1, 1, 1, .bool, .rw, .stored, 0x1, .any, .pub⟩,
   ⟨0x4104, 8, 0x3, 2, 1, 1, .u32, .ro, .vol, 0x0, .any, .pub⟩,
   ⟨0x4110, 1, 0x1, 64, 1, 1, .u8, .rw, .stored, 0x0, .le 7, .pub⟩,
   ⟨0x4111, 1, 0x1, 9, 1, 1, .u8, .rw, .stored, 0x0, .le 7, .pub⟩,
   ⟨0x4112, 1, 0x1, 8, 1, 1, .bool, .rw, .stored, 0x1, .any, .pub⟩,
   ⟨0x4200, 1, 0x1, 64, 1, 1, .enum8, .rw, .stored, 0x3, .oneOf [2, 3], .pub⟩,
   ⟨0x4201, 1, 0x1, 1, 1, 1, .enum8, .rw, .stored, 0x3, .oneOf [2, 3], .pub⟩,
   ⟨0x4201, 1, 0x2, 1, 1, 1, .u8, .rw, .stored, 0x8, .btw 1 32, .pub⟩,
   ⟨0x4201, 1, 0x3, 1, 1, 1, .u8, .rw, .stored, 0x4, .btw 1 32, .pub⟩,
   ⟨0x4201, 1, 0x4, 1, 1, 1, .u8, .rw, .stored, 0x1, .btw 1 32, .pub⟩,
   ⟨0x4201, 1, 0x5, 1, 1, 1, .bool, .ro, .vol, 0x1, .any, .pub⟩,
   ⟨0x4202, 1, 0x1, 1, 1, 1, .u32, .const, .vol, 0x5A, .any, .pub⟩,
   ⟨0x4202, 1, 0x2, 1, 1, 1, .u32, .const, .vol, 0x280, .any, .pub⟩,
   ⟨0x4202, 1, 0x3, 1, 1, 1, .u32, .const, .vol, 0x44C, .any, .pub⟩,
   ⟨0x4202, 1, 0x4, 1, 1, 1, .u32, .const, .vol, 0x960, .any, .pub⟩,
   ⟨0x4203, 1, 0x1, 3, 1, 1, .u32, .rw, .vol, 0x0, .le 0, .pub⟩,
   ⟨0x4210, 32, 0x1, 4, 1, 1, .u64, .ro, .vol, 0x0, .any, .pub⟩,
   ⟨0x4300, 8, 0x1, 1, 1, 1, .u8, .ro, .vol, 0xF, .any, .pub⟩,
   ⟨0x4300, 8, 0x2, 1, 1, 1, .bool, .rw, .stored, 0x0, .any, .pub⟩,
   ⟨0x4300, 8, 0x3, 1, 1, 1, .bool, .rw, .stored, 0x1, .any, .pub⟩,
   ⟨0x4300, 8, 0x4, 1, 1, 1, .u8, .rws, .stored, 0x10, .le 16, .pub⟩,
   ⟨0x4300, 8, 0x5, 1, 1, 1, .bool, .rw, .stored, 0x0, .any, .pub⟩,
   ⟨0x4300, 8, 0x10, 4, 1, 1, .enum8, .ro, .vol, 0x0, .any, .pub⟩]

/-- Entries: island. -/
def catIsland : List EntRow :=
  [⟨0x5000, 4, 0x1, 1, 1, 1, .enum8, .ro, .vol, 0x0, .any, .pub⟩,
   ⟨0x5000, 4, 0x2, 1, 1, 1, .u8, .ro, .vol, 0x40, .any, .pub⟩,
   ⟨0x5000, 4, 0x3, 1, 1, 1, .u8, .rws, .stored, 0x0, .le 32, .pub⟩,
   ⟨0x5000, 4, 0x4, 1, 1, 1, .u32, .rw, .vol, 0x0, .le 0, .pub⟩,
   ⟨0x5000, 4, 0x5, 2, 1, 1, .u32, .ro, .vol, 0x0, .any, .pub⟩,
   ⟨0x5004, 1, 0x1, 1, 1, 1, .u32, .const, .vol, 0x47868C00, .any, .pub⟩,
   ⟨0x5004, 1, 0x2, 1, 1, 1, .u8, .const, .vol, 0x10, .any, .pub⟩,
   ⟨0x5004, 1, 0x3, 1, 1, 1, .u8, .const, .vol, 0x4, .any, .pub⟩,
   ⟨0x5100, 4, 0x1, 1, 1, 1, .enum8, .ro, .vol, 0x0, .any, .pub⟩,
   ⟨0x5100, 4, 0x2, 1, 1, 1, .u8, .ro, .vol, 0xFF, .any, .pub⟩,
   ⟨0x5100, 4, 0x3, 1, 1, 1, .u32, .ro, .vol, 0x0, .any, .pub⟩,
   ⟨0x5100, 4, 0x4, 1, 1, 1, .enum8, .ro, .vol, 0x0, .any, .pub⟩,
   ⟨0x5100, 4, 0x5, 1, 1, 1, .u32, .ro, .vol, 0x0, .any, .pub⟩,
   ⟨0x5100, 4, 0x6, 1, 1, 1, .u32, .rw, .vol, 0x0, .le 0, .pub⟩,
   ⟨0x5100, 4, 0x7, 1, 1, 1, .u8, .rw, .vol, 0x0, .le 0, .pub⟩,
   ⟨0x5100, 4, 0x8, 1, 1, 1, .u32, .ro, .vol, 0x0, .any, .pub⟩,
   ⟨0x5100, 4, 0x9, 1, 1, 1, .u16, .ro, .vol, 0x0, .any, .pub⟩,
   ⟨0x5100, 4, 0xA, 1, 1, 1, .bool, .wo, .vol, 0x0, .any, .pub⟩,
   ⟨0x5100, 4, 0xB, 1, 1, 1, .enum8, .wo, .vol, 0x0, .btw 1 2, .pub⟩,
   ⟨0x5100, 4, 0xC, 1, 1, 1, .u8, .ro, .vol, 0x0, .any, .pub⟩,
   ⟨0x5100, 4, 0xD, 1, 1, 1, .u16, .ro, .vol, 0x0, .any, .pub⟩,
   ⟨0x5100, 4, 0x10, 4, 1, 1, .u8, .ro, .vol, 0x0, .any, .pub⟩,
   ⟨0x5104, 1, 0x1, 1, 1, 1, .u8, .rw, .stored, 0x3, .btw 1 15, .pub⟩,
   ⟨0x5104, 1, 0x2, 1, 1, 1, .u32, .rw, .stored, 0x15180, .btw 60 2592000, .pub⟩,
   ⟨0x5104, 1, 0x3, 1, 1, 1, .u8, .rw, .stored, 0xF, .mask 0x0F, .pub⟩,
   ⟨0x5104, 1, 0x4, 1, 1, 1, .u32, .const, .vol, 0x7D0, .any, .pub⟩,
   ⟨0x5104, 1, 0x5, 1, 1, 1, .u32, .const, .vol, 0x640, .any, .pub⟩,
   ⟨0x5104, 1, 0x6, 1, 1, 1, .u16, .const, .vol, 0x400, .any, .pub⟩,
   ⟨0x5104, 1, 0x7, 1, 1, 1, .u64, .const, .vol, 0x42F0E1EBA9EA3693, .any, .pub⟩,
   ⟨0x5104, 1, 0x8, 1, 1, 1, .bool, .ro, .vol, 0x1, .any, .pub⟩]

/-- Entries: ports. -/
def catPorts : List EntRow :=
  [⟨0x6000, 24, 0x1, 1, 1, 1, .bool, .rw, .stored, 0x0, .any, .pub⟩,
   ⟨0x6000, 24, 0x2, 1, 1, 1, .enum8, .const, .vol, 0x0, .any, .pub⟩,
   ⟨0x6000, 4, 0x3, 1, 1, 1, .enum8, .rws, .stored, 0x2, .le 2, .pub⟩,
   ⟨0x6004, 20, 0x3, 1, 1, 1, .enum8, .rws, .stored, 0x0, .le 0, .pub⟩,
   ⟨0x6000, 24, 0x4, 1, 1, 1, .enum8, .ro, .vol, 0x0, .any, .pub⟩,
   ⟨0x600C, 12, 0x5, 1, 1, 1, .bool, .rws, .stored, 0x1, .any, .pub⟩,
   ⟨0x6000, 24, 0x6, 1, 1, 1, .u16, .rws, .stored, 0x5F2, .btw 64 9216, .pub⟩,
   ⟨0x6000, 24, 0x7, 1, 1, 1, .u16, .rw, .stored, 0x1, .btw 1 4094, .pub⟩,
   ⟨0x6000, 24, 0x8, 1, 1, 1, .u16, .rw, .stored, 0x0, .any, .pub⟩,
   ⟨0x6000, 24, 0x9, 1, 1, 1, .u8, .rw, .stored, 0x0, .le 63, .pub⟩,
   ⟨0x6000, 24, 0xA, 1, 1, 1, .u8, .rw, .stored, 0xF, .mask 0x0F, .pub⟩,
   ⟨0x6000, 24, 0xB, 1, 1, 1, .enum8, .rw, .stored, 0x0, .le 1, .pub⟩,
   ⟨0x6000, 24, 0xC, 1, 1, 1, .u8, .rw, .stored, 0x0, .any, .pub⟩,
   ⟨0x6000, 24, 0xD, 1, 1, 1, .u8, .rw, .stored, 0x0, .le 15, .pub⟩,
   ⟨0x6000, 24, 0xE, 1, 1, 1, .u32, .rw, .stored, 0xFAC681, .mask 0xFFFFFF, .pub⟩,
   ⟨0x6000, 24, 0x10, 2, 1, 1, .u64, .ro, .vol, 0x0, .any, .pub⟩,
   ⟨0x6000, 24, 0x12, 4, 1, 1, .u32, .ro, .vol, 0x0, .any, .pub⟩,
   ⟨0x6000, 24, 0x16, 2, 1, 1, .u64, .ro, .vol, 0x0, .any, .pub⟩,
   ⟨0x6000, 24, 0x18, 3, 1, 1, .u32, .ro, .vol, 0x0, .any, .pub⟩,
   ⟨0x6000, 24, 0x40, 1, 1, 1, .bool, .rws, .stored, 0x0, .any, .pub⟩,
   ⟨0x6000, 24, 0x41, 1, 1, 1, .enum8, .rws, .stored, 0x0, .le 3, .pub⟩,
   ⟨0x6000, 24, 0x42, 1, 1, 1, .enum8, .rw, .stored, 0x2, .le 2, .pub⟩,
   ⟨0x6000, 24, 0x43, 1, 1, 1, .u8, .rw, .stored, 0x0, .oneOf [0, 30, 50], .pub⟩,
   ⟨0x6000, 24, 0x44, 1, 1, 1, .u32, .rw, .stored, 0x0, .any, .pub⟩,
   ⟨0x6000, 24, 0x45, 1, 1, 1, .u64, .rw, .stored, 0x0, .any, .pub⟩,
   ⟨0x6000, 24, 0x46, 1, 1, 1, .u8, .rw, .vol, 0x0, .le 3, .pub⟩,
   ⟨0x6000, 24, 0x47, 1, 1, 1, .u64, .rw, .stored, 0xC0000000, .any, .pub⟩,
   ⟨0x6000, 24, 0x48, 4, 1, 1, .octets 48, .wo, .vol, 0x0, .any, .pub⟩,
   ⟨0x6000, 24, 0x4C, 4, 1, 1, .u64, .rw, .vol, 0x1, .any, .pub⟩,
   ⟨0x6000, 24, 0x50, 4, 1, 1, .u64, .rw, .stored, 0x0, .any, .pub⟩,
   ⟨0x6000, 24, 0x54, 1, 1, 1, .u16, .rw, .vol, 0x0, .any, .pub⟩,
   ⟨0x6000, 24, 0x60, 16, 1, 1, .octets 48, .wo, .vol, 0x0, .any, .pub⟩,
   ⟨0x6000, 24, 0x70, 16, 1, 1, .u64, .rw, .vol, 0x1, .any, .pub⟩,
   ⟨0x6018, 1, 0x1, 1, 1, 1, .enum8, .ro, .vol, 0x0, .any, .pub⟩,
   ⟨0x6018, 1, 0x2, 1, 1, 1, .u32, .ro, .vol, 0x0, .any, .pub⟩,
   ⟨0x6100, 1, 0x1, 1, 1, 1, .u8, .rw, .stored, 0x0, .oneOf [0, 1, 2, 3, 0xFF], .pub⟩,
   ⟨0x6100, 1, 0x2, 1, 1, 1, .u16, .rw, .stored, 0x7D0, .btw 1 60000, .pub⟩,
   ⟨0x6100, 1, 0x3, 1, 1, 1, .u32, .rw, .stored, 0x2710, .any, .pub⟩,
   ⟨0x6100, 1, 0x4, 1, 1, 1, .u8, .rw, .stored, 0x0, .any, .pub⟩,
   ⟨0x6100, 1, 0x5, 3, 1, 1, .u8, .rw, .stored, 0xFF, .any, .pub⟩,
   ⟨0x6100, 1, 0x8, 4, 1, 1, .u32, .rw, .stored, 0x0, .any, .pub⟩,
   ⟨0x6100, 1, 0xC, 2, 1, 1, .u8, .rw, .stored, 0x0, .any, .pub⟩,
   ⟨0x6100, 1, 0x10, 4, 1, 1, .u8, .rw, .stored, 0xFF, .any, .pub⟩,
   ⟨0x6100, 1, 0x14, 1, 1, 1, .i64, .ro, .vol, 0x0, .any, .pub⟩,
   ⟨0x6100, 1, 0x15, 1, 1, 1, .bool, .ro, .vol, 0x0, .any, .pub⟩,
   ⟨0x6101, 24, 0x1, 1, 1, 1, .domain, .rw, .stored, 0x0, .any, .pub⟩,
   ⟨0x6101, 24, 0x2, 1, 1, 1, .time, .rw, .stored, 0x0, .any, .pub⟩,
   ⟨0x6101, 24, 0x3, 1, 1, 1, .bool, .wo, .vol, 0x0, .any, .pub⟩,
   ⟨0x6101, 24, 0x4, 1, 1, 1, .bool, .ro, .vol, 0x0, .any, .pub⟩,
   ⟨0x6101, 24, 0x5, 1, 1, 1, .domain, .ro, .vol, 0x0, .any, .pub⟩,
   ⟨0x6101, 24, 0x8, 8, 1, 1, .u32, .rw, .stored, 0x0, .any, .pub⟩,
   ⟨0x6101, 24, 0x10, 1, 1, 1, .u8, .rws, .stored, 0x0, .any, .pub⟩,
   ⟨0x6101, 24, 0x11, 1, 1, 1, .u8, .rws, .stored, 0x0, .le 3, .pub⟩,
   ⟨0x6101, 24, 0x12, 1, 1, 1, .bool, .rws, .stored, 0x1, .any, .pub⟩,
   ⟨0x6101, 24, 0x13, 1, 1, 1, .bool, .ro, .vol, 0x0, .any, .pub⟩,
   ⟨0x6120, 1, 0x1, 128, 1, 1, .u32, .rw, .stored, 0x0, .any, .pub⟩,
   ⟨0x6121, 1, 0x1, 128, 1, 1, .u32, .rw, .stored, 0x0, .le 16777215, .pub⟩,
   ⟨0x6130, 64, 0x1, 1, 1, 1, .domain, .rw, .stored, 0x0, .any, .pub⟩,
   ⟨0x6130, 64, 0x2, 1, 1, 1, .time, .rw, .stored, 0x0, .any, .pub⟩,
   ⟨0x6130, 64, 0x3, 1, 1, 1, .bool, .wo, .vol, 0x0, .any, .pub⟩,
   ⟨0x6130, 64, 0x4, 1, 1, 1, .bool, .ro, .vol, 0x0, .any, .pub⟩,
   ⟨0x6130, 64, 0x5, 1, 1, 1, .domain, .ro, .vol, 0x0, .any, .pub⟩,
   ⟨0x6130, 64, 0x6, 1, 1, 1, .u32, .ro, .vol, 0x0, .any, .pub⟩]

/-- Entries: flows. -/
def catFlows : List EntRow :=
  [⟨0x6200, 1, 0x1, 1, 1, 1, .u32, .ro, .vol, 0x0, .any, .pub⟩,
   ⟨0x6200, 1, 0x2, 1, 1, 1, .u32, .const, .vol, 0x100000, .any, .pub⟩,
   ⟨0x6200, 1, 0x3, 2, 1, 1, .u64, .ro, .vol, 0x0, .any, .pub⟩,
   ⟨0x6200, 1, 0x5, 2, 1, 1, .u32, .ro, .vol, 0x0, .any, .pub⟩,
   ⟨0x6201, 1, 0x1, 1, 1, 1, .octets 96, .wo, .vol, 0x0, .any, .pub⟩,
   ⟨0x6201, 1, 0x2, 1, 1, 1, .octets 72, .ro, .vol, 0x0, .any, .pub⟩,
   ⟨0x6201, 1, 0x3, 1, 1, 1, .bool, .ro, .vol, 0x0, .any, .pub⟩,
   ⟨0x6201, 1, 0x4, 1, 1, 1, .domain, .wo, .vol, 0x0, .any, .pub⟩,
   ⟨0x6201, 1, 0x5, 1, 1, 1, .u64, .ro, .vol, 0x0, .any, .pub⟩,
   ⟨0x6202, 1, 0x1, 16, 1, 1, .u64, .rw, .stored, 0x0, .any, .pub⟩,
   ⟨0x6300, 256, 0x1, 1, 1, 1, .bool, .rw, .stored, 0x0, .any, .viSec⟩,
   ⟨0x6300, 256, 0x2, 1, 1, 1, .u32, .rw, .stored, 0x0, .any, .viSec⟩,
   ⟨0x6300, 256, 0x3, 1, 1, 1, .u32, .rw, .stored, 0x0, .le 1048576, .viSec⟩,
   ⟨0x6300, 256, 0x4, 1, 1, 1, .u32, .ro, .vol, 0x0, .any, .vi⟩,
   ⟨0x6300, 256, 0x6, 1, 1, 1, .octets 96, .wo, .vol, 0x0, .any, .vi⟩,
   ⟨0x6300, 256, 0x7, 1, 1, 1, .octets 72, .ro, .vol, 0x0, .any, .vi⟩,
   ⟨0x6300, 256, 0x8, 1, 1, 1, .bool, .ro, .vol, 0x0, .any, .vi⟩,
   ⟨0x6300, 256, 0x9, 2, 1, 1, .u64, .ro, .vol, 0x0, .any, .vi⟩,
   ⟨0x6300, 256, 0xB, 2, 1, 1, .u32, .ro, .vol, 0x0, .any, .vi⟩,
   ⟨0x6300, 256, 0x10, 1, 16, 8, .u64, .rws, .vol, 0x0, .aligned 4096, .vi⟩,
   ⟨0x6300, 256, 0x11, 1, 16, 8, .u16, .rws, .vol, 0x10, .pow2 16 4096, .vi⟩,
   ⟨0x6300, 256, 0x12, 1, 16, 8, .u64, .rws, .vol, 0x0, .aligned 4096, .vi⟩,
   ⟨0x6300, 256, 0x13, 1, 16, 8, .u16, .rws, .vol, 0x10, .pow2 16 4096, .vi⟩,
   ⟨0x6300, 256, 0x14, 1, 16, 8, .bool, .rw, .vol, 0x0, .any, .vi⟩,
   ⟨0x6300, 256, 0x15, 1, 16, 8, .u16, .rw, .vol, 0x0, .any, .vi⟩]

/-- Entries: buses. -/
def catBuses : List EntRow :=
  [⟨0x6400, 24, 0x1, 1, 1, 1, .bool, .rw, .stored, 0x0, .any, .pub⟩,
   ⟨0x6400, 24, 0x2, 1, 1, 1, .enum8, .rws, .stored, 0x1, .le 2, .pub⟩,
   ⟨0x6400, 24, 0x3, 1, 1, 1, .u32, .rws, .stored, 0x10103F01, .any, .pub⟩,
   ⟨0x6400, 24, 0x4, 1, 1, 1, .u32, .rws, .stored, 0x8081F00, .any, .pub⟩,
   ⟨0x6400, 24, 0x5, 1, 1, 1, .u32, .rws, .stored, 0x2020500, .any, .pub⟩,
   ⟨0x6400, 24, 0x6, 1, 1, 1, .u16, .rws, .stored, 0x120, .mask 0x1FF, .pub⟩,
   ⟨0x6400, 24, 0x7, 1, 1, 1, .bool, .rws, .stored, 0x0, .any, .pub⟩,
   ⟨0x6400, 24, 0x8, 1, 1, 1, .bool, .rws, .stored, 0x0, .any, .pub⟩,
   ⟨0x6400, 24, 0x9, 1, 1, 1, .u8, .rw, .stored, 0x0, .any, .pub⟩,
   ⟨0x6400, 24, 0xA, 1, 1, 1, .enum8, .rw, .stored, 0x1, .le 1, .pub⟩,
   ⟨0x6400, 24, 0xB, 1, 1, 1, .bool, .wo, .vol, 0x0, .any, .pub⟩,
   ⟨0x6400, 24, 0xC, 1, 1, 1, .u8, .rw, .stored, 0x0, .le 1, .pub⟩,
   ⟨0x6400, 24, 0xD, 1, 1, 1, .u8, .rw, .stored, 0x0, .any, .pub⟩,
   ⟨0x6400, 24, 0xE, 1, 1, 1, .u8, .rw, .stored, 0x0, .le 15, .pub⟩,
   ⟨0x6400, 24, 0x10, 1, 1, 1, .enum8, .ro, .vol, 0x0, .any, .pub⟩,
   ⟨0x6400, 24, 0x11, 2, 1, 1, .u16, .ro, .vol, 0x0, .any, .pub⟩,
   ⟨0x6400, 24, 0x13, 2, 1, 1, .u64, .ro, .vol, 0x0, .any, .pub⟩,
   ⟨0x6400, 24, 0x15, 5, 1, 1, .u32, .ro, .vol, 0x0, .any, .pub⟩,
   ⟨0x6400, 24, 0x1A, 1, 1, 1, .u8, .ro, .vol, 0x0, .any, .pub⟩,
   ⟨0x6418, 12, 0x1, 1, 1, 1, .bool, .rw, .stored, 0x0, .any, .pub⟩,
   ⟨0x6418, 12, 0x2, 1, 1, 1, .enum8, .rws, .stored, 0x0, .le 1, .pub⟩,
   ⟨0x6418, 12, 0x3, 1, 1, 1, .u16, .rws, .stored, 0x4B00, .btw 1000 20000, .pub⟩,
   ⟨0x6418, 12, 0x4, 1, 1, 1, .domain, .rw, .stored, 0x0, .any, .pub⟩,
   ⟨0x6418, 12, 0x5, 1, 1, 1, .bool, .rw, .stored, 0x0, .any, .pub⟩,
   ⟨0x6418, 12, 0x6, 1, 1, 1, .u64, .rw, .stored, 0xCFFFFFFFFFFFFFFF, .any, .pub⟩,
   ⟨0x6418, 12, 0x7, 1, 1, 1, .u64, .rw, .stored, 0x0, .any, .pub⟩,
   ⟨0x6418, 12, 0x8, 1, 1, 1, .u8, .rw, .stored, 0x0, .le 1, .pub⟩,
   ⟨0x6418, 12, 0x9, 1, 1, 1, .u8, .rw, .stored, 0x0, .any, .pub⟩,
   ⟨0x6418, 12, 0xA, 1, 1, 1, .u8, .rw, .stored, 0x0, .le 15, .pub⟩,
   ⟨0x6418, 12, 0x10, 1, 1, 1, .enum8, .ro, .vol, 0x0, .any, .pub⟩,
   ⟨0x6418, 12, 0x11, 2, 1, 1, .u64, .ro, .vol, 0x0, .any, .pub⟩,
   ⟨0x6418, 12, 0x13, 2, 1, 1, .u32, .ro, .vol, 0x0, .any, .pub⟩,
   ⟨0x6500, 1, 0x1, 4, 1, 1, .u64, .ro, .vol, 0x0, .any, .pub⟩,
   ⟨0x6500, 1, 0x5, 5, 1, 1, .u32, .ro, .vol, 0x0, .any, .pub⟩,
   ⟨0x6560, 16, 0x1, 1, 16, 16, .u16, .rw, .vol, 0x0, .any, .busQp⟩,
   ⟨0x6560, 16, 0x2, 1, 16, 16, .u64, .rw, .stored, 0x0, .mask 0x00000FFF00FFFFFF, .busCh⟩,
   ⟨0x6510, 64, 0x1, 1, 1, 1, .bool, .rw, .stored, 0x0, .any, .pub⟩,
   ⟨0x6510, 64, 0x2, 1, 1, 1, .enum8, .rw, .stored, 0x0, .le 1, .pub⟩,
   ⟨0x6510, 64, 0x3, 1, 1, 1, .u64, .rw, .stored, 0x0, .any, .pub⟩,
   ⟨0x6510, 64, 0x4, 2, 1, 1, .u64, .rw, .stored, 0x0, .mask 0xFFFFFFFFFFFF, .pub⟩,
   ⟨0x6510, 64, 0x6, 1, 1, 1, .u16, .rw, .stored, 0x0, .any, .pub⟩,
   ⟨0x6510, 64, 0x7, 1, 1, 1, .u32, .rw, .stored, 0x0, .mask 0xFFFFF, .pub⟩,
   ⟨0x6510, 64, 0x8, 1, 1, 1, .u8, .rw, .stored, 0x10, .btw 1 64, .pub⟩,
   ⟨0x6510, 64, 0x9, 1, 1, 1, .u16, .rw, .stored, 0x400, .btw 64 1476, .pub⟩,
   ⟨0x6510, 64, 0xA, 1, 1, 1, .u32, .rw, .stored, 0x186A0, .btw 1000 100000000, .pub⟩,
   ⟨0x6510, 64, 0xB, 1, 1, 1, .bool, .rw, .stored, 0x1, .any, .pub⟩,
   ⟨0x6510, 64, 0xC, 1, 1, 1, .u32, .rw, .stored, 0x1E8480, .any, .pub⟩,
   ⟨0x6510, 64, 0xD, 1, 1, 1, .u8, .rw, .stored, 0x0, .any, .pub⟩,
   ⟨0x6510, 64, 0xE, 1, 1, 1, .u8, .ro, .vol, 0x0, .any, .pub⟩]

/-- Entries: envelope. -/
def catEnvelope : List EntRow :=
  [⟨0x7000, 1, 0x1, 1, 1, 1, .bool, .ro, .vol, 0x0, .any, .pub⟩,
   ⟨0x7000, 1, 0x2, 2, 1, 1, .u32, .ro, .vol, 0x0, .any, .pub⟩,
   ⟨0x7000, 1, 0x4, 1, 1, 1, .octets 48, .ro, .vol, 0x0, .any, .pub⟩,
   ⟨0x7001, 1, 0x1, 24, 1, 1, .u64, .ro, .vol, 0x0, .any, .pub⟩,
   ⟨0x7002, 1, 0x1, 24, 1, 1, .u32, .ro, .vol, 0x0, .any, .pub⟩,
   ⟨0x7003, 1, 0x1, 24, 1, 1, .u64, .ro, .vol, 0x0, .any, .pub⟩,
   ⟨0x7004, 1, 0x1, 1, 1, 1, .domain, .ro, .vol, 0x0, .any, .pub⟩,
   ⟨0x7005, 3, 0x1, 24, 1, 1, .u32, .ro, .vol, 0x0, .any, .pub⟩,
   ⟨0x7010, 4, 0x1, 16, 1, 1, .octets 16, .ro, .vol, 0x0, .any, .pub⟩,
   ⟨0x7014, 8, 0x1, 16, 1, 1, .u32, .ro, .vol, 0x0, .any, .pub⟩]

/-- Entries: calibration. -/
def catCalibration : List EntRow :=
  [⟨0x8000, 1, 0x1, 1, 1, 1, .enum8, .ro, .vol, 0x1, .any, .pub⟩,
   ⟨0x8000, 1, 0x2, 1, 1, 1, .u8, .ro, .stored, 0x0, .any, .pub⟩,
   ⟨0x8000, 1, 0x3, 1, 1, 1, .u32, .wo, .vol, 0x0, .any, .pub⟩,
   ⟨0x8001, 1, 0x1, 16, 1, 1, .i16, .rw, .cal, 0x0, .any, .pub⟩,
   ⟨0x8002, 1, 0x1, 8, 1, 1, .u16, .rw, .cal, 0x0, .any, .pub⟩,
   ⟨0x8003, 1, 0x1, 4, 1, 1, .u16, .rw, .cal, 0x0, .any, .pub⟩,
   ⟨0x8004, 1, 0x1, 24, 1, 1, .u64, .rw, .cal, 0x0, .any, .pub⟩,
   ⟨0x8005, 1, 0x1, 2, 1, 1, .domain, .rw, .cal, 0x0, .any, .pub⟩,
   ⟨0x8006, 1, 0x1, 1, 1, 1, .enum8, .wo, .vol, 0x0, .any, .pub⟩,
   ⟨0x8006, 1, 0x2, 1, 1, 1, .enum8, .ro, .stored, 0x0, .any, .pub⟩,
   ⟨0x8006, 1, 0x3, 1, 1, 1, .domain, .ro, .stored, 0x0, .any, .pub⟩]

/-- Entries: faults. -/
def catFaults : List EntRow :=
  [⟨0x9000, 1, 0x1, 1, 1, 1, .u8, .rw, .stored, 0x8, .btw 1 255, .sec⟩,
   ⟨0x9000, 1, 0x2, 1, 1, 1, .u32, .rw, .stored, 0x15180, .btw 60 2592000, .sec⟩,
   ⟨0x9000, 1, 0x3, 1, 1, 1, .u16, .rw, .stored, 0x64, .btw 10 10000, .sec⟩,
   ⟨0x9000, 1, 0x4, 1, 1, 1, .u16, .ro, .stored, 0x0, .any, .sec⟩,
   ⟨0x9000, 1, 0x5, 1, 1, 1, .domain, .ro, .stored, 0x0, .any, .sec⟩,
   ⟨0x9000, 1, 0x6, 1, 1, 1, .u32, .wo, .stored, 0x0, .any, .sec⟩,
   ⟨0x9010, 49, 0x1, 5, 1, 1, .u32, .ro, .vol, 0x0, .any, .sec⟩,
   ⟨0x9100, 1, 0x1, 1, 1, 1, .u32, .ro, .vol, 0x0, .any, .sec⟩,
   ⟨0x9100, 1, 0x2, 1, 1, 1, .u32, .rw, .vol, 0x0, .any, .sec⟩,
   ⟨0x9100, 1, 0x3, 1, 1, 1, .u32, .ro, .vol, 0x0, .any, .sec⟩,
   ⟨0x9100, 1, 0x4, 1, 1, 1, .u16, .ro, .vol, 0x0, .any, .sec⟩,
   ⟨0x9100, 1, 0x5, 1, 1, 1, .u64, .const, .vol, 0xE800200000, .any, .sec⟩,
   ⟨0x9200, 32, 0x1, 1, 1, 1, .u64, .rws, .vol, 0x0, .aligned 4096, .dm⟩,
   ⟨0x9200, 32, 0x2, 1, 1, 1, .u16, .rws, .vol, 0x10, .pow2 16 4096, .dm⟩,
   ⟨0x9200, 32, 0x3, 1, 1, 1, .bool, .rw, .vol, 0x0, .any, .dm⟩,
   ⟨0x9200, 32, 0x4, 1, 1, 1, .enum8, .ro, .vol, 0x0, .any, .dm⟩,
   ⟨0x9200, 32, 0x5, 2, 1, 1, .u64, .ro, .vol, 0x0, .any, .dm⟩,
   ⟨0x9200, 32, 0x7, 1, 1, 1, .u32, .ro, .vol, 0x0, .any, .dm⟩]

/-- Entries: domain. -/
def catDomain : List EntRow :=
  [⟨0xA000, 1, 0x1, 1, 1, 1, .u16, .rw, .stored, 0x0, .le 1024, .pub⟩,
   ⟨0xA000, 1, 0x2, 1, 1, 1, .u16, .rw, .stored, 0x0, .any, .pub⟩,
   ⟨0xA000, 1, 0x3, 1, 1, 1, .u32, .rw, .stored, 0x0, .mask 0xFFFFFF, .pub⟩,
   ⟨0xA000, 1, 0x4, 1, 1, 1, .u8, .rw, .stored, 0x1A, .le 0x7F, .pub⟩,
   ⟨0xA000, 1, 0x5, 1, 1, 1, .u16, .rw, .stored, 0x1A0, .le 0x7FF, .pub⟩,
   ⟨0xA000, 1, 0x6, 1, 1, 1, .u8, .rw, .stored, 0x10, .any, .pub⟩,
   ⟨0xA000, 1, 0x7, 1, 1, 1, .u16, .rw, .stored, 0xC03A, .btw 1024 65535, .pub⟩,
   ⟨0xA000, 1, 0x8, 1, 1, 1, .u8, .rw, .stored, 0xFF, .any, .pub⟩,
   ⟨0xA000, 1, 0x9, 2, 1, 1, .u32, .ro, .vol, 0x0, .any, .pub⟩,
   ⟨0xA000, 1, 0xB, 1, 1, 1, .u64, .ro, .vol, 0x0, .any, .pub⟩,
   ⟨0xA000, 1, 0xC, 1, 1, 1, .u16, .ro, .vol, 0x0, .any, .pub⟩,
   ⟨0xA000, 1, 0xD, 1, 1, 1, .u32, .ro, .vol, 0x0, .any, .pub⟩,
   ⟨0xA001, 1, 0x1, 8, 1, 1, .octets 16, .wo, .stored, 0x0, .any, .key⟩,
   ⟨0xA002, 1, 0x1, 8, 1, 1, .enum8, .rw, .stored, 0x0, .le 4, .pub⟩,
   ⟨0xA003, 1, 0x1, 8, 1, 1, .u8, .rw, .stored, 0xFF, .leOr 63 0xFF, .pub⟩,
   ⟨0xA004, 1, 0x1, 8, 1, 1, .u32, .ro, .stored, 0x0, .any, .pub⟩,
   ⟨0xA010, 1, 0x1, 1, 1, 1, .enum8, .ro, .vol, 0x1, .any, .pub⟩,
   ⟨0xA010, 1, 0x2, 1, 1, 1, .u16, .ro, .vol, 0x0, .any, .pub⟩,
   ⟨0xA010, 1, 0x3, 1, 1, 1, .u32, .ro, .stored, 0x0, .any, .pub⟩,
   ⟨0xA010, 1, 0x4, 1, 1, 1, .u32, .wo, .vol, 0x0, .any, .pub⟩,
   ⟨0xA010, 1, 0x5, 1, 1, 1, .u32, .rw, .stored, 0x1388, .btwOr 100 600000 0, .pub⟩,
   ⟨0xA010, 1, 0x6, 1, 1, 1, .u32, .ro, .vol, 0x0, .any, .pub⟩,
   ⟨0xA010, 1, 0x7, 1, 1, 1, .u64, .ro, .vol, 0x0, .any, .pub⟩]

/-- Every entry of the dictionary, by the tables of the chapters (R9, R430). -/
def catTab : List EntRow :=
  catIdentity ++ catPower ++ catIsolation ++ catMemory ++ catIsland ++ catPorts ++ catFlows ++ catBuses ++ catEnvelope ++ catCalibration ++ catFaults ++ catDomain

/-- The key of an entry: index × 256 + subindex. -/
def ek (idx sub : Nat) : Nat := idx * 256 + sub

/-- Whether a row holds an entry. -/
def EntRow.has (r : EntRow) (key : Nat) : Bool :=
  let i := key / 256
  let s := key % 256
  decide (r.idx ≤ i ∧ i < r.idx + r.n ∧ r.sub ≤ s ∧ (s - r.sub) / r.stride < r.m ∧ (s - r.sub) % r.stride < r.w) ||
  decide (r.m = 1 ∧ r.idx ≤ i ∧ i < r.idx + r.n ∧ r.sub ≤ s ∧ s < r.sub + r.w)

/-- The row of an entry; none where the entry is reserved or closed (R10, R11). -/
def catRow (key : Nat) : Option EntRow := catTab.find? (·.has key)

/-- Whether a value is one that the entry admits. -/
def Rng.ok (g : Rng) (v : Nat) : Bool :=
  match g with
  | .any => true
  | .le hi => decide (v ≤ hi)
  | .btw lo hi => decide (lo ≤ v ∧ v ≤ hi)
  | .mask m => decide (v &&& m = v)
  | .oneOf l => l.contains v
  | .pow2 lo hi => decide (lo ≤ v ∧ v ≤ hi ∧ 2 ^ Nat.log2 v = v)
  | .aligned n => decide (v % n = 0)
  | .leOr hi o => decide (v ≤ hi ∨ v = o)
  | .btwOr lo hi o => decide ((lo ≤ v ∧ v ≤ hi) ∨ v = o)

/-- The default of an entry; SRC_GROUP and SPEED differ per port (Table 11.11), and THERMAL_LIMIT is the G1 value
until a grade is read (Table 16.9). -/
def entDefault (key : Nat) : Nat :=
  let i := key / 256
  let s := key % 256
  if 0x6000 ≤ i ∧ i < 0x6018 ∧ s = 9 then i - 0x6000
  else if 0x6000 ≤ i ∧ i < 0x6018 ∧ s = 2 then (if i < 0x6004 then 0x19 else if i < 0x600C then 0x0A else 0x01)
  else match catRow key with
    | some r => r.dflt
    | none => 0

/-- Whether the device is an MZ7480-G2; a device whose fuses have not been read counts as G1 (log entry 3). -/
def State.isG2 (s : State) : Bool := (s.hazel.board.map (·.g2)).getD false

/-- The default of an entry on this device: THERMAL_LIMIT depends on the grade (Table 16.9). -/
def State.dflt (s : State) (key : Nat) : Nat := if key = ek 0x2102 1 ∧ s.isG2 = true then 95 else entDefault key

/-- The stored value of a scalar entry. -/
def State.ev (s : State) (idx sub : Nat) : Nat := kvGet (s.dflt (ek idx sub)) s.ent (ek idx sub)

/-- Store a scalar entry's value; a value equal to the default is not listed. -/
def State.setE (s : State) (idx sub v : Nat) : State :=
  { s with ent := kvSet (s.dflt (ek idx sub)) (ek idx sub) v s.ent }

/-- Add to a counter entry of w bits; past its largest value the spec states no result, and the counter takes a
free value (log entry 2). -/
def State.addE (s : State) (idx sub w k : Nat) : State :=
  let v := s.ev idx sub + k
  if k = 0 then s
  else if v < 2 ^ w then s.setE idx sub v
  else ({ s with fresh := s.fresh + 1 }).setE idx sub (Config.freeNat s.fresh % 2 ^ w)

/-- The value of an entry of STRING, OCTETS or DOMAIN type: empty, or zeros, until written. -/
def State.eb (s : State) (idx sub : Nat) : List Byte :=
  (kvGet? s.entB (ek idx sub)).getD (match catRow (ek idx sub) with
    | some r => match r.ty with
      | .octets n => List.replicate n 0
      | _ => []
    | none => [])

/-- Store a wide entry's value. -/
def State.setB (s : State) (idx sub : Nat) (v : List Byte) : State :=
  { s with entB := kvPut (ek idx sub) v s.entB }

end Sys2Proof.Machine
end

