-- ==== Sys2Proof/Machine/Faults.lean ====
section
/-! DEFINITION. The inputs of the interrupt distributor (R158 to R164, R544), the fault banks (R506, R507), transients
and retirement (R510) and the writing of ledger records (R512, R513). -/
namespace Sys2Proof.Machine

/-! ## Modes and positions of the A-cores -/

/-- The isolation mode in force (Table 10.2). -/
def State.mode (s : State) : Nat := s.hazel.mode
/-- Level H exists in PARTITION and BOTH modes (R132). -/
def State.hasH (s : State) : Bool := s.mode != 2
/-- Husks exist in HUSK and BOTH modes (Table 10.2). -/
def State.hasHusks (s : State) : Bool := s.mode != 1

/-- STAT.RING (Table 4.1). -/
def ACore.ring (c : ACore) : Nat := bits c.stat.toNat 1 0
/-- STAT.LH. -/
def ACore.lh (c : ACore) : Bool := c.stat.getLsbD 2
/-- STAT.W. -/
def ACore.secure (c : ACore) : Bool := c.stat.getLsbD 3
/-- STAT.ML. -/
def ACore.ml (c : ACore) : Nat := bits c.stat.toNat 7 4
/-- STAT.XM. -/
def ACore.xm (c : ACore) : Bool := c.stat.getLsbD 8
/-- STAT.PB. -/
def ACore.pb (c : ACore) : Bool := c.stat.getLsbD 10
/-- STAT.HK. -/
def ACore.hk (c : ACore) : Bool := c.stat.getLsbD 11

/-- Whether an A-core is powered and has not been retired: running, in WFI, halted or hard-stopped. -/
def ACore.powered (c : ACore) : Bool := c.run != .off && c.run != .retired

/-- The partition an A-core executes: PART at rings 0 to 3 where level H exists (Table 4.2). -/
def State.corePart (s : State) (c : Fin 32) : Option Nat :=
  let a := s.acore.get c
  if s.hasH && !a.lh && a.powered then some a.part.toNat else none

/-- The cores that execute partition p at rings 0 to 3. -/
def State.coresOf (s : State) (p : Nat) : List (Fin 32) :=
  (allFin 32).filter fun c => s.corePart c == some p

/-! ## Interrupt sources -/

/-- The key of a source in the distributor's table: its ID, and 4,096 + 32 × core + k for a private one. -/
def privKey (c k : Nat) : Nat := 4096 + 32 * c + k

/-- IDs of wired sources that Table 4.9 reserves; they are never pending. -/
def reservedWired (n : Nat) : Bool :=
  decide (n < 32 ∨ (60 ≤ n ∧ n ≤ 95) ∨ (141 ≤ n ∧ n ≤ 191) ∨ (609 ≤ n ∧ n ≤ 639) ∨ (645 ≤ n ∧ n ≤ 1023))

/-- Whether a key names a source that can become pending (Table 4.9, R158). -/
def srcExists (k : Nat) : Bool :=
  if k < 1024 then !reservedWired k
  else if k < 3072 then true
  else decide (4096 ≤ k ∧ k < 5120 ∧ (k - 4096) % 32 < 19)

/-- One source. -/
def State.src (s : State) (k : Nat) : IrqSrc := (kvGet? s.irq.src k).getD IrqSrc.init

/-- Whether a source is edge-triggered; MSI sources and SGIs always are (Table 4.11). -/
def srcEdge (k : Nat) (x : IrqSrc) : Bool :=
  decide (1024 ≤ k ∧ k < 3072) || decide (4096 ≤ k ∧ (k - 4096) % 32 < 16) || x.cfg.getLsbD 5

/-- PEND of a source (R162). -/
def srcPend (k : Nat) (x : IrqSrc) : Bool :=
  if srcEdge k x then x.pend else !x.active && (x.line || x.setp)

/-- PRIO of a source. -/
def IrqSrc.prio (x : IrqSrc) : Nat := bits x.cfg.toNat 3 0
/-- EN of a source. -/
def IrqSrc.en (x : IrqSrc) : Bool := x.cfg.getLsbD 4
/-- VEC of a source. -/
def IrqSrc.vec (x : IrqSrc) : Nat := bits x.cfg.toNat 15 8
/-- TARGET of a source. -/
def IrqSrc.target (x : IrqSrc) : Nat := bits x.cfg.toNat 21 16
/-- WORLD of a source. -/
def IrqSrc.secure (x : IrqSrc) : Bool := x.cfg.getLsbD 22
/-- KIND of a source; private sources have none. -/
def srcKind (k : Nat) (x : IrqSrc) : Nat := if 4096 ≤ k then 0 else bits x.cfg.toNat 7 6
/-- The ID of a source (R158). -/
def srcId (k : Nat) : Nat := if 4096 ≤ k then (k - 4096) % 32 else k

/-- Write one source. -/
def State.putSrc (s : State) (k : Nat) (x : IrqSrc) : State :=
  { s with irq := { s.irq with src := kvSet IrqSrc.init k x s.irq.src } }

/-- An assertion or a SETPEND of a source (R162, R544): an edge source becomes pending on each, and what arrives while it is
pending or active is held as the one event that PEND shows. -/
def IrqSrc.assert (k : Nat) (x : IrqSrc) : IrqSrc :=
  if srcEdge k x then { x with pend := true }
  else if x.active || x.line then x else { x with setp := true }

/-- Whether partition p has a pending virtual interrupt (R164). -/
def State.virtPending (s : State) (p : Nat) : Bool :=
  s.irq.src.any fun e => srcPend e.1 e.2 && srcKind e.1 e.2 == 1 && e.2.target == p

/-- Raise source 18 on the HOME core of partition p when it comes to have a pending virtual interrupt that no core
executing p can take (R164). -/
def State.virtNotify (s : State) (p : Fin 64) : State :=
  let now := s.virtPending p.val
  if now && !s.irq.hadVirt.contains p.val then
    let s1 := { s with irq := { s.irq with hadVirt := setIns p.val s.irq.hadVirt } }
    let ctl := s.irq.virqCtl.get p
    if ctl.getLsbD 5 && (s.coresOf p.val).isEmpty && s.hasH then
      let k := privKey (ctl.toNat % 32) 18
      s1.putSrc k ((s1.src k).assert k)
    else s1
  else if !now then { s with irq := { s.irq with hadVirt := setPut p.val false s.irq.hadVirt } }
  else s

/-- Write one source and notify for the partition that a virtual source targets. -/
def State.setSrc (s : State) (k : Nat) (x : IrqSrc) : State :=
  let old := s.src k
  let s1 := s.putSrc k x
  let s2 := if srcKind k x = 1 then s1.virtNotify (fin 63 x.target) else s1
  if srcKind k old = 1 ∧ ¬(srcKind k x = 1 ∧ x.target = old.target) then s2.virtNotify (fin 63 old.target) else s2

/-- A pulse at a source (R544). -/
def State.pulse (s : State) (k : Nat) : State :=
  if srcExists k then s.setSrc k ((s.src k).assert k) else s

/-- The level at a source's input (R162). -/
def State.setLine (s : State) (k : Nat) (lvl : Bool) : State :=
  let x := s.src k
  if srcExists k && x.line != lvl then
    s.setSrc k { (if lvl && srcEdge k x then x.assert k else x) with line := lvl }
  else s

/-! ## Fault banks -/

/-- The source of a bank (Table 17.4). -/
def bankSource (b : Nat) : Nat :=
  if b < 16 then 96 + b else if b < 32 then 96 + b else if b < 40 then 96 + b else if b < 44 then 96 + b
  else if b = 44 then 32 else if b = 45 then 508 else if b = 46 then 608 else if b = 47 then 644 else 32

/-- Whether a bank holds a record of an enabled class (R507). -/
def FaultBank.level (f : FaultBank) : Bool := f.recs.any fun r => f.en.getLsbD r.cls.val

/-- Drive the source that a bank shares or owns; source 608 is also asserted while any channel's ERR bit is set
(R499, Table 17.4). -/
def State.bankLine (s : State) (b : Nat) : State :=
  let src := bankSource b
  let lvl := (allFin 49).any fun k => bankSource k.val == src && (s.fb.get k).level
  s.setLine src (lvl || (src == 608 && s.dm.toList.any (·.stat.getLsbD 1)))

/-- Whether two records merge (R507). -/
def FaultRec.same (a b : FaultRec) : Bool :=
  a.code == b.code && a.unit == b.unit && a.unit2 == b.unit2 && a.addr == b.addr

/-- Remove the oldest CORR record of a list; none where there is none. -/
def dropOldestCorr : List FaultRec → Option (List FaultRec)
  | [] => none
  | r :: l => if r.cls = 0 then some l else (dropOldestCorr l).map (r :: ·)

/-- Store, merge or lose a record; whether one was lost is the second part (R507). -/
def FaultBank.add (f : FaultBank) (r : FaultRec) : FaultBank × Bool :=
  match f.recs.getLast? with
  | some l =>
    if l.same r then
      ({ f with recs := f.recs.dropLast ++ [{ l with repeat_ := if l.repeat_ = 0xFFFF then l.repeat_ else l.repeat_ + 1 }] }, false)
    else if f.recs.length < 16 then ({ f with recs := f.recs ++ [r] }, false)
    else if r.cls = 0 then ({ f with ovf := true }, true)
    else match dropOldestCorr f.recs with
      | some l' => ({ f with recs := l' ++ [r], ovf := true }, true)
      | none => ({ f with ovf := true }, true)
  | none => ({ f with recs := [r] }, false)

/-- Class of a record code (Table 17.7). -/
def codeClass (code : Nat) : Fin 4 :=
  if code < 0x10 then 0 else if code < 0x20 then 1 else if code < 0x30 then 2 else 3

/-- Record a detected error in a bank (R507, Tables 17.6 and 17.7, entries 0x9010 + b): one that is stored or
merged counts by its class, one that is lost in LOST. -/
def State.record (s : State) (b : Fin 49) (code unit unit2 addr info : Nat) : State :=
  let r : FaultRec := ⟨BitVec.ofNat 8 code, codeClass code, BitVec.ofNat 8 unit, BitVec.ofNat 8 unit2, 1,
    word addr, word info, s.time⟩
  let (f, lost) := (s.fb.get b).add r
  let s1 := { s with fb := vset s.fb b f }
  let stored := !lost || (r.cls != 0 && (s.fb.get b).recs.any (·.cls == 0))
  let s2 := if stored then s1.addE (0x9010 + b.val) ((codeClass code).val + 1) 32 1 else s1
  let s3 := if lost then s2.addE (0x9010 + b.val) 5 32 1 else s2
  s3.bankLine b.val

/-- The bank of HBM controller s, pod p, island i, slice s (Table 17.4). -/
def bankSlice (i : Fin 16) : Fin 49 := ⟨i.val, by omega⟩
/-- The bank of a pod (Table 17.4). -/
def bankPod (p : Fin 8) : Fin 49 := ⟨32 + p.val, by omega⟩
/-- The bank of an island (Table 17.4). -/
def bankIsland (i : Fin 4) : Fin 49 := ⟨40 + i.val, by omega⟩
/-- The bank of the HBM controller that owns a pseudo-channel (Table 17.4, R234). -/
def bankHbm (p : Fin 64) : Fin 49 := ⟨16 + p.val / 4, by omega⟩
/-- The mesh bank. -/
def bankMesh : Fin 49 := 44
/-- The frame gateway's bank. -/
def bankGw : Fin 49 := 45
/-- The Data Mover's bank. -/
def bankDm : Fin 49 := 46
/-- The PCIe bank. -/
def bankPcie : Fin 49 := 47
/-- The bank of the SMC, the seed store and crypto. -/
def bankSmc : Fin 49 := 48

/-- The eight words of a record as FB_REC_k shows them, 32 bytes (Table 17.6). -/
def FaultRec.bytes (r : FaultRec) : List Byte :=
  toBytes 8 (r.code.toNat + r.cls.val * 256 + r.unit.toNat * 2 ^ 16 + r.unit2.toNat * 2 ^ 24 + r.repeat_.toNat * 2 ^ 32)
    ++ toBytes 8 r.addr.toNat ++ toBytes 8 r.info.toNat ++ toBytes 8 r.time

/-! ## Retirement list and transients -/

/-- An entry of the retirement list (R510). -/
def retireWord (kind reason id : Nat) : Word := word (kind + reason * 256 + id % 2 ^ 32 * 2 ^ 16)

/-- Retire a resource: an entry of the retirement list, and code 0x2F in bank 48; a full list takes no entry, and the
resource is retired all the same (R510). -/
def State.retireEntry (s : State) (kind reason id : Nat) : State :=
  let w := retireWord kind reason id
  let s := { s with retired := s.retired ++ [w] }
  if s.seed.retire.length < 1024 then
    { s with seed := { s.seed with retire := s.seed.retire ++ [w] } }.record bankSmc 0x2F kind 0 0 id
  else s.record bankSmc 0x2F 0xFF 0 0 id

/-- Whether a word of the retirement list names a resource. -/
def retiresRes (kind id : Nat) (w : Word) : Bool := bits w.toNat 7 0 == kind && bits w.toNat 47 16 == id

/-- Whether a resource is out of service: retired since the last power-on reset, or on the list then (R510, R511). -/
def State.retiredRes (s : State) (kind id : Nat) : Bool := s.retired.any (retiresRes kind id)

/-- Count a transient at a resource; true where FAULT_LIMIT of them fall within FAULT_WINDOW (R510). -/
def State.transient (s : State) (kind id : Nat) : State × Bool :=
  let key := kind * 2 ^ 32 + id
  let win := s.ev 0x9000 2 * 1000000000
  let l := ((kvGet? s.trans key).getD []).filter (fun t => s.time < t + win) ++ [s.time]
  ({ s with trans := kvPut key l s.trans }, decide (s.ev 0x9000 1 ≤ l.length))

/-! ## The in-flight ledger -/

/-- Source 140 is asserted while HEAD differs from TAIL (R512). -/
def State.ledgerLine (s : State) : State := s.setLine 140 (s.ledger.head != s.ledger.tail)

/-- An operation as a ledger record states it (Table 17.10). -/
structure LedgerOp where
  kind : Nat
  state : Nat
  reason : Nat
  unit : Nat
  index : Nat
  done : Nat
  total : Nat
  addr : Nat
  tag : Nat
  deriving DecidableEq, Repr

/-- The 64 bytes of a record (Table 17.10). -/
def LedgerOp.bytes (o : LedgerOp) (event bank time : Nat) : List Byte :=
  toBytes 8 (event % 2 ^ 16 + o.kind * 2 ^ 16 + o.state * 2 ^ 24 + o.reason * 2 ^ 32 + bank * 2 ^ 40)
    ++ toBytes 8 o.unit ++ toBytes 8 o.index ++ toBytes 8 o.done ++ toBytes 8 o.total ++ toBytes 8 o.addr
    ++ toBytes 8 time ++ toBytes 8 o.tag

/-- Write one record, or drop it where HEAD − TAIL would exceed 8,192 (R512). -/
def State.ledgerRecord (s : State) (b : List Byte) : State :=
  if 8192 ≤ (s.ledger.head - s.ledger.tail).toNat then s.addE 0x9100 3 32 1
  else
    { s with mem := Memory.write s.mem (Config.secureSram + 64 * (s.ledger.head.toNat % 8192)) b,
             ledger := { s.ledger with head := s.ledger.head + 1 } }

/-- An event of the ledger: a header record and one record for each operation (R513). -/
def State.ledgerEvent (s : State) (bank addr tag : Nat) (ops : List LedgerOp) : State :=
  let ev := s.ledger.event + 1
  let s0 := { s with ledger := { s.ledger with event := ev } }
  let hdr : LedgerOp := ⟨0, 0, 0, ops.length, 0, 0, 0, addr, tag⟩
  ((hdr :: ops).foldl (fun s o => s.ledgerRecord (o.bytes ev.toNat bank s.time)) s0).ledgerLine

end Sys2Proof.Machine
end

