-- ==== Sys2Proof/Machine/Hbm.lean ====
section
/-! DEFINITION. HBM: where an address lives (R235, R256), the controllers' queues (R240), check data and correction
(R248 to R253), row repair, retirement, training and fill (R254 to R262). -/
namespace Sys2Proof.Machine

/-! ## Where an address lives -/

/-- XOR of n four-bit groups of a number from the lowest. -/
def xorNibbles : Nat → Nat → Nat
  | 0, _ => 0
  | n + 1, v => (v % 16) ^^^ xorNibbles n (v / 16)

/-- The home slice of a physical address (R196). -/
def sliceOf (pa : Nat) : Nat := xorNibbles 9 (pa / 256 % 2 ^ 36)

/-- The home slice of a line as an index. -/
def homeIdx (line : Nat) : Fin 16 := fin 15 (sliceOf (line * 64))

/-- Location of an address: pseudo-channel, stack ID, bank, row, column (R235). -/
structure Loc where
  p : Nat
  l : Nat
  sid : Nat
  bank : Nat
  row : Nat
  col : Nat
  deriving DecidableEq, Repr

/-- The local address' parts (R235). -/
def locOf (p l : Nat) : Loc := ⟨p, l, bits l 29 28, bits l 13 10 ^^^ bits l 17 14, bits l 27 14, bits l 9 6⟩

/-- R235. -/
def locate (pa : Nat) : Loc :=
  let s := sliceOf pa
  let q := bits pa 13 12 ^^^ bits pa 15 14
  locOf (32 * (s / 8) + 4 * (s % 8) + q) (bits pa 35 14 * 256 + bits pa 7 0)

/-- The address at a local address of a pseudo-channel, the inverse of R235 (R236). -/
def unlocate (p l : Nat) : Nat :=
  let s := 8 * (p / 32) + p % 32 / 4
  let q := p % 4
  let hi := l / 256 * 2 ^ 14
  let mid := (q ^^^ bits hi 15 14) * 2 ^ 12
  let base := hi + mid + l % 256
  base + (s ^^^ sliceOf base) * 256

/-- Chunk of a local address within the live range (R256). -/
def chunkOf (l : Nat) : Option Nat := if l < 0x2E800000 then some (l / 0x1800000) else none

/-- The pseudo-channel that serves a pseudo-channel's chunk: a host once its copy is complete (R256, R258). -/
def State.hostOf (s : State) (p l : Nat) : Nat × Nat :=
  match chunkOf l with
  | none => (p, l)
  | some j =>
    match (s.hbm.ret.flatMap (·.moves)).reverse.find? (fun m => m.src == p && m.chunk == j && m.done) with
    | some m => (m.host, 0x2E800000 + l % 0x1800000)
    | none => (p, l)

/-- Location that serves a line, redirections included. -/
def State.place (s : State) (line : Nat) : Loc :=
  let a := locate (line * 64)
  let h := s.hostOf a.p a.l
  locOf h.1 h.2

/-- The pseudo-channel that serves a line. -/
def State.pcOf (s : State) (line : Nat) : Fin 64 := fin 63 (s.place line).p

/-- Whether a line lies in HBM (Table 1.2). -/
def inHbm (pa : Nat) : Bool := decide (pa < Config.hbmEnd)

/-- Change a pseudo-channel. -/
def State.modPc (s : State) (p : Fin 64) (f : PseudoChannel → PseudoChannel) : State := { s with pc := vmod s.pc p f }

/-! ## The contents of lines -/

/-- 64 bytes as a line, byte 0 in the least significant bits (R7). -/
def lineOf (l : List Byte) : Line := BitVec.ofNat 512 (ofBytes l)
/-- The 64 bytes of a line. -/
def lineBytesOf (l : Line) : List Byte := toBytes 64 l.toNat

/-- The line as last written in the stack, errors struck since apart. -/
def State.stored (s : State) (line : Nat) : Line := lineOf (Memory.read s.mem (line * 64) 64)

/-- Whether the line was last written in poison form (R249). -/
def State.storedPoison (s : State) (line : Nat) : Bool := s.poison.contains line

/-- Write a line into the stack with the check bytes of R248, or in poison form (R249); errors there are gone. -/
def State.storeLine (s : State) (line : Nat) (d : Line) (poison : Bool) : State :=
  { s with mem := Memory.write s.mem (line * 64) (lineBytesOf d),
           poison := setPut line poison s.poison,
           hbm := { s.hbm with errs := kvDel line s.hbm.errs } }

/-- Data with symbol errors applied: data byte k is symbol k + 8 (R248). -/
def applyErrs (d : Line) (errs : List (Nat × Byte)) : Line :=
  errs.foldl (fun d e => if 8 ≤ e.1 ∧ e.1 < 72 then
    d ^^^ BitVec.ofNat 512 (e.2.toNat * 2 ^ (8 * (e.1 - 8))) else d) d

/-- Newest queued write of a line at a controller. -/
def queuedWrite (q : List HbmCmd) (line : Nat) : Option HbmCmd :=
  q.reverse.find? (fun c => c.write && c.line == line)

/-! ## Rows and hard errors -/

/-- Key of a row within a pseudo-channel: [7:6] SID, [11:8] bank, [25:12] row, as Table 17.8 places them. -/
def Loc.rowKey (a : Loc) : Nat := a.sid * 2 ^ 6 + a.bank * 2 ^ 8 + a.row * 2 ^ 12

/-- Ask for a row's repair once; bit 26 marks a row asked for by an uncorrectable error (R254). -/
def PseudoChannel.askRepair (x : PseudoChannel) (row : Nat) (unc : Bool) : PseudoChannel :=
  if x.repair.any fun r => r % 2 ^ 26 == row then x else { x with repair := x.repair ++ [row + b2n unc * 2 ^ 26] }

/-- Count a hard error of a row; at ROW_REPAIR_THRESHOLD the row is to be repaired (R254). -/
def State.hardError (s : State) (a : Loc) : State :=
  let i := fin 63 a.p
  let x := s.pc.get i
  let k := kvGet 0 x.hard a.rowKey + 1
  let x1 := { x with hard := kvPut a.rowKey k x.hard }
  { s with pc := vset s.pc i (if s.ev 0x4000 0x12 ≤ k then x1.askRepair a.rowKey false else x1) }

/-- The symbol errors of the word that a line's read returns: those of the stored word, those of this read, and, where the word
is that of another line, those of its address symbols (R248). -/
def State.readErrs (s : State) (line : Nat) (errs : List (Nat × Byte)) (wrong : Option Nat) : List (Nat × Byte) :=
  match wrong with
  | none => (kvGet? s.hbm.errs line).getD [] ++ errs
  | some g => (kvGet? s.hbm.errs g).getD [] ++ errs ++ rsWrong line g

/-- A read of a line from its stack, decoded and classified (R249), with what the read leaves behind: a correction to
write back (R250), a record, or the poison form (R249). `scrub` is 1 for a patrol read; `wrong` is the line whose word the stack
returns where it is not this one (R248). -/
def State.hbmRead (s : State) (line : Nat) (errs : List (Nat × Byte)) (sev : Severity) (scrub : Nat) (wrong : Option Nat) :
    State × Line × Bool :=
  let a := s.place line
  let i := fin 63 a.p
  let all := s.readErrs line errs wrong
  let s := { s with hbm := { s.hbm with errs := if all.isEmpty || wrong.isSome then s.hbm.errs else kvPut line all s.hbm.errs } }
  let s := if sev = .none then s else s.addE 0x4004 (1 + a.p) 32 1
  let pois := s.storedPoison (wrong.getD line)
  let d := applyErrs (s.stored (wrong.getD line)) all
  match rsClassify ((if pois then rsPoison else []) ++ all) with
  | .clean => (s, d, false)
  | .poisoned => (s, d, true)
  | .corrected pos v =>
    let s := if sev = .uncorrected then s.hardError a else s
    ({ s with pc := vmod s.pc i fun x => { x with corr := if x.corr.contains line then x.corr else x.corr ++ [line] } }, applyErrs d [(pos, v)], false)
  | .poisonedCorrected pos v => (s, applyErrs d [(pos, v)], true)
  | .address => (s.record (bankHbm i) 0x23 a.p 0 (line * 64) 0, d, true)
  | .uncorrectable =>
    let s := (s.storeLine line d true).record (bankHbm i) 0x11 a.p 0 (line * 64) scrub
    ({ s with pc := vmod s.pc i fun x => x.askRepair a.rowKey true }, d, true)

/-- The HBM copy of a line as every path returns it: the newest write accepted by the line's controller (R222), else
a read of the stack. -/
def State.hbmCopy (s : State) (line : Nat) : State × Line × Bool :=
  match queuedWrite (s.pc.get (s.pcOf line)).q line with
  | some c => (s, c.data, c.poison)
  | none => s.hbmRead line [] .none 0 none

/-! ## Controller queues (R240, R247) -/

/-- Table 7.3's limit of a class at one bank. -/
def bankLimit (tc : Nat) : Option Nat :=
  if tc = 0 then some 4 else if tc = 1 then some 8 else if tc = 2 then some 16 else none

/-- Admit a command to its controller; beyond the bank limit of its class BANK_OVER counts (R247). -/
def State.enqueue (s : State) (c : HbmCmd) : State :=
  let a := s.place c.line
  let i := s.pcOf c.line
  let x := s.pc.get i
  let here := (x.q.filter fun k => k.tc == c.tc && (s.place k.line).sid == a.sid && (s.place k.line).bank == a.bank).length
  let s := match bankLimit c.tc with
    | some n => if n ≤ here then s.addE 0x4203 (1 + c.tc) 32 1 else s
    | none => s
  { s with pc := vset s.pc i { x with q := x.q ++ [c] } }

/-- Write a line into HBM: accepted by the line's controller (R222). -/
def State.hbmWrite (s : State) (line : Nat) (d : Line) (poison : Bool) (tc : Nat) : State :=
  s.enqueue ⟨tc, true, line, d, poison⟩

/-- Whether requests to HBM are served: the stack of the line is trained and its fill has ended (R259). -/
def State.hbmReady (s : State) : Bool := s.hbm.fill == .done

/-- Training state of a pseudo-channel's stack. -/
def State.trainOf (s : State) (p : Fin 64) : Train := s.hbm.train.get (fin 1 (p.val / 32))

/-- Whether a pseudo-channel's controller serves commands: its stack is trained and out of self-refresh, the fill has
ended and no retraining runs (R259 to R262). -/
def State.serving (s : State) (p : Fin 64) : Bool :=
  s.hbmReady && (s.trainOf p == .seeded || s.trainOf p == .full || s.trainOf p == .failed) && !(s.pc.get p).retraining

/-- Effective class of the k-th command: the highest class among it and younger commands to its line, since commands to
one address are carried out in order (R240). -/
def effTc (q : List HbmCmd) (k : Nat) (c : HbmCmd) : Nat :=
  (q.drop k).foldl (fun t d => if d.line = c.line then min t d.tc else t) c.tc

/-- Indices of the commands that may be issued next: no older command to the line waits, nor an older one of the class
to the bank (R240), and the line waits for no correction (R250). -/
def State.eligible (s : State) (x : PseudoChannel) : List (Nat × Nat) :=
  let idx := x.q.zipIdx
  idx.filterMap fun (c, k) =>
    let a := s.place c.line
    let t := effTc x.q k c
    let older := idx.take k
    if older.any (fun (d, j) => d.line == c.line ||
        (effTc x.q j d == t && (s.place d.line).bank == a.bank && (s.place d.line).sid == a.sid)) then none
    else if x.corr.contains c.line || x.verify.contains c.line then none
    else some (k, t)

/-- The class that the next command slot serves: TC0 first, one slot in 8 reserved for it, and at least one slot in 64
for a waiting TC3 (R240). -/
def slotClass (x : PseudoChannel) (el : List (Nat × Nat)) : Option Nat :=
  let waits (t : Nat) : Bool := el.any (fun e => e.2 == t)
  let reserved := x.slot8 = 7 ∧ waits 0 = true
  if waits 3 ∧ 62 ≤ x.slot64 ∧ ¬ reserved then some 3
  else if waits 0 then some 0 else if waits 1 then some 1 else if waits 2 then some 2
  else if waits 3 then some 3 else none

/-- Counters of the reserved slots after a slot that served class t. -/
def slotStep (x : PseudoChannel) (t : Nat) (tc3Waits : Bool) : PseudoChannel :=
  { x with slot8 := (x.slot8 + 1) % 8, slot64 := if t = 3 ∨ ¬ tc3Waits then 0 else x.slot64 + 1 }

/-- One of several, by a free value; of one, that one. -/
def oneOf (n : Nat) : List Nat → Nat
  | [k] => k
  | l => l.getD (n % l.length) 0

/-- Choose and remove the next command of a pseudo-channel; among banks of one class the choice is open and free
(R240, log entry 2). -/
def State.nextCmd (s : State) (p : Fin 64) : Option (HbmCmd × State) :=
  let x := s.pc.get p
  let el := s.eligible x
  match slotClass x el with
  | none => none
  | some t =>
    let cand := (el.filter (·.2 == t)).map (·.1)
    let pick := oneOf (Config.freeNat s.fresh) cand
    match x.q[pick]? with
    | none => none
    | some c =>
      let x' := slotStep { x with q := x.q.eraseIdx pick } t (el.any (·.2 == 3) || !x.corr.isEmpty || !x.verify.isEmpty)
      some (c, { s with fresh := s.fresh + 1, pc := vset s.pc p x' })

/-- The slot of a TC3 command of the controller's own, a write-back, a verify read or a patrol read (Table 7.2), where the order
of R240 leaves it one. -/
def State.ownSlot (s : State) (p : Fin 64) : Option State :=
  let x := s.pc.get p
  if s.serving p && slotClass x (s.eligible x ++ [(x.q.length, 3)]) == some 3 then
    some { s with pc := vset s.pc p (slotStep x 3 true) }
  else none

/-! ## Failure and retirement of pseudo-channels (R255 to R258) -/

/-- The moves of retirement 0 or 1 of pseudo-channel r (R256). -/
def retireMoves (r : Nat) (earlier : Option Retirement) : List Move :=
  let chunks := (List.range 31).map fun j => (r, j)
  match earlier with
  | none =>
    let hosts := (List.range 64).filter (· ≠ r)
    (chunks.zip hosts).map fun ((p, j), h) => ⟨p, j, h, false⟩
  | some e =>
    let hosted := (e.moves.filter (·.host == r)).map fun m => (m.src, m.chunk)
    let busy := e.moves.map (·.host)
    let hosts := (List.range 64).filter fun h => h ≠ r ∧ h ≠ e.pc ∧ !busy.contains h
    ((chunks ++ hosted).zip hosts).map fun ((p, j), h) => ⟨p, j, h, false⟩

/-- Operations of an HBM failure's ledger event: writes accepted by the controller and not yet written (R513). -/
def State.hbmOps (s : State) (p : Fin 64) : List LedgerOp :=
  ((s.pc.get p).q.filter (·.write)).map fun c => (⟨5, 0, 0, p.val, 0, 0, 1, c.line * 64, 0⟩ : LedgerOp)

/-- A pseudo-channel fails permanently: retired into spare areas, or kept in service as failed (R255, R256, R257). The
ledger records its writes (R513); `ops` are the Data Mover's descriptors that the event names beside them, `reason`
the code of the record that caused it. -/
def State.pcFail (s : State) (p : Fin 64) (reason : Nat) (ops : List LedgerOp) : State :=
  let x := s.pc.get p
  if x.st = .retired ∨ x.st = .failed ∨ x.st = .migrating then s
  else
    let w := s.hbmOps p ++ ops
    if s.hbm.spare = true ∧ s.hbm.ret.length < 2 then
      let k := s.hbm.ret.length
      let s := { s with hbm := { s.hbm with ret := s.hbm.ret ++ [(⟨p.val, retireMoves p.val s.hbm.ret.head?⟩ : Retirement)] },
                        pc := vset s.pc p { x with st := .migrating } }
      (s.retireEntry 0x03 reason (p.val + 64 * k)).ledgerEvent (16 + p.val / 4) 0 0 w
    else
      let s := { s with pc := vset s.pc p { x with st := .failed } }
      let s := s.retireEntry 0x04 0x24 p.val
      let s := s.record (bankHbm p) 0x24 p.val 0 0 0
      s.ledgerEvent (16 + p.val / 4) 0 (0x24 + 2 * 256 + p.val * 2 ^ 16) w

end Sys2Proof.Machine
end

