-- ==== Sys2Proof/Machine/Lines.lean ====
section
/-! DEFINITION. Where lines stand in the caches (R196 to R199), stops, allocation and traffic classes (Table 6.8,
Table 7.2), and the newest contents of a line (R212, R222). -/
namespace Sys2Proof.Machine

/-! ## Stops (Table 1.1) -/

/-- Stop of a pod. -/
def stopPod (p : Fin 8) : Nat := [0, 1, 6, 7, 24, 25, 30, 31].getD p.val 0
/-- Stop of an island. -/
def stopIsland (i : Fin 4) : Nat := [2, 3, 26, 27].getD i.val 0
/-- Stop of a slice. -/
def stopSlice (h : Nat) : Nat := if h < 4 then 8 + h else if h < 8 then 12 + h else if h < 12 then 4 + h else 8 + h
/-- The pod of a core (R40). -/
def podOf (c : Fin 32) : Fin 8 := ⟨c.val / 4, by omega⟩
/-- Stop of a master (Table 1.1). -/
def stopOf : Master → Nat
  | .core c => stopPod (podOf c)
  | .island i => stopIsland i
  | .gateway _ => 4
  | .flowEngine => 4
  | .dm _ => 28
  | .pcie _ => 5
  | .smc => 29
  | .debug _ _ => 29

/-- Bytes that a packet adds to its data, which the spec does not state: free (log entry 2). -/
def packetBytes : Nat := Config.freeNat 0

/-- A stop sends a packet with n bytes of data in a class (STOP_BYTES, Table 7.6). -/
def State.send (s : State) (stop tc n : Nat) : State :=
  let k := stop * 4 + tc % 4
  { s with sent := kvSet 0 k ((kvGet 0 s.sent k + n + packetBytes) % 2 ^ 64) s.sent }

/-- Stop of a requester. -/
def stopOfReq : Requester → Nat
  | .pod p => stopPod p
  | .master m => stopOf m

/-! ## Classes -/

/-- A core at rings 0 to 3 of a partition (R132). -/
def State.inPart (s : State) (c : Fin 32) : Bool := s.hasH && !(s.acore.get c).lh

/-- Allocation class of a core (PART_CLASS, HOST_CLASS of Table 6.8). -/
def State.coreClass (s : State) (c : Fin 32) : Nat :=
  if s.inPart c then s.ev 0x4110 (1 + (s.acore.get c).part.toNat) else s.ev 0x4111 9

/-- Traffic class of a core (Table 7.2). -/
def State.coreTc (s : State) (c : Fin 32) : Nat :=
  if s.inPart c then s.ev 0x4200 (1 + (s.acore.get c).part.toNat) else s.ev 0x4201 1

/-- The core on whose behalf an L2's own requests count: the lowest-numbered powered core of the pod (log entry 20). -/
def State.podCore (s : State) (p : Fin 8) : Fin 32 :=
  let base : Fin 32 := ⟨4 * p.val, by omega⟩
  (((allFin 32).filter fun c => podOf c == p && (s.acore.get c).powered).head?).getD base

/-- Allocation class of a master (Table 6.8); a debug access takes class 0 (log entry 20). -/
def State.masterClass (s : State) : Master → Nat
  | .core c => s.coreClass c
  | .island i => s.ev 0x4111 (1 + i.val)
  | .gateway _ | .flowEngine => s.ev 0x4111 5
  | .dm _ => s.ev 0x4111 6
  | .pcie _ => s.ev 0x4111 7
  | .smc => s.ev 0x4111 8
  | .debug _ _ => 0

/-- Traffic class of a master (Table 7.2). -/
def State.masterTc (s : State) : Master → Nat
  | .core c => s.coreTc c
  | .island _ => 0
  | .gateway _ | .flowEngine => 1
  | .dm _ | .pcie _ | .smc | .debug _ _ => 3

/-- Allocation class of a requester. -/
def State.reqClass (s : State) : Requester → Nat
  | .pod p => s.coreClass (s.podCore p)
  | .master m => s.masterClass m

/-- Whether a request of a class may come from a requester: its own class, and for a pod that of a core of the pod (Table 7.2). -/
def State.tcFits (s : State) (r : Requester) (tc : Nat) : Bool :=
  match r with
  | .pod p => (allFin 32).any fun c => podOf c == p && s.coreTc c == tc
  | .master m => s.masterTc m == tc

/-- Whether a class allocates (R210). -/
def State.allocates (s : State) (cls : Nat) : Bool := s.ev (0x4104 + cls % 8) 2 != 0

/-- Ways in which a class allocates, the retired ways of the slice apart (R208, Table 17.8). -/
def State.slcWays (s : State) (h : Fin 16) (cls : Nat) : List Nat :=
  (List.range 16).filter fun w => bit (s.ev (0x4104 + cls % 8) 1) w && !s.retiredRes 0x08 (h.val + 16 * w)

/-- Ways of a pod's L2 that are in service (Table 17.8). -/
def State.l2Ways (s : State) (p : Fin 8) : List Nat :=
  (List.range 16).filter fun w => !s.retiredRes 0x07 (p.val + 16 * w)

/-! ## Sets -/

/-- SLC set of a line (R197). -/
def slcSet (line : Nat) : Nat :=
  let pa := line * 64
  bits pa 17 6 ^^^ bits pa 29 18 ^^^ bits pa 41 30 ^^^ bits pa 43 42

/-- L2 set of a line (R198). -/
def l2Set (line : Nat) : Nat :=
  let pa := line * 64
  256 * sliceOf pa + (bits pa 13 6 ^^^ bits pa 21 14)

/-! ## Access to the arrays -/

/-- Change a pod. -/
def State.modPod (s : State) (p : Fin 8) (f : Pod → Pod) : State := { s with pod := vmod s.pod p f }
/-- Change a home agent. -/
def State.modHome (s : State) (h : Fin 16) (f : Home → Home) : State := { s with home := vmod s.home h f }
/-- The line in an L2. -/
def State.l2? (s : State) (p : Fin 8) (line : Nat) : Option L2Line := kvGet? (s.pod.get p).lines line
/-- The line in the SLC. -/
def State.slc? (s : State) (line : Nat) : Option SlcLine := kvGet? (s.home.get (homeIdx line)).slc line
/-- Put a line into an L2's array. -/
def State.putL2 (s : State) (p : Fin 8) (line : Nat) (x : L2Line) : State :=
  s.modPod p fun q => { q with lines := kvPut line x q.lines }
/-- The eviction buffer of a line that the home has not acknowledged. -/
def State.evBuf? (s : State) (p : Fin 8) (line : Nat) : Option EvBuf :=
  (s.pod.get p).ev.find? fun b => b.line == line && !b.acked

/-- Key of a filter entry. -/
def filtKey (line : Nat) (p : Fin 8) : Nat := line * 8 + p.val
/-- What the filter shows of a pod (R199). -/
def State.filt? (s : State) (line : Nat) (p : Fin 8) : Option L2St :=
  kvGet? (s.home.get (homeIdx line)).filt (filtKey line p)
/-- Set or remove a filter entry. -/
def State.setFilt (s : State) (line : Nat) (p : Fin 8) (st : Option L2St) : State :=
  s.modHome (homeIdx line) fun h => { h with filt := match st with
    | some x => kvPut (filtKey line p) x h.filt
    | none => kvDel (filtKey line p) h.filt }
/-- Pods that the filter shows holding a line. -/
def State.holders (s : State) (line : Nat) : List (Fin 8 × L2St) :=
  (allFin 8).filterMap fun p => (s.filt? line p).map fun st => (p, st)

/-- Remove a line from every L1 of a pod (R194). -/
def State.dropL1 (s : State) (p : Fin 8) (line : Nat) : State :=
  { s with acore := Vector.ofFn fun c =>
      let a := s.acore.get c
      if podOf c = p then { a with l1d := setPut line false a.l1d, l1i := setPut line false a.l1i } else a }

/-- Remove a line from an L2 and the L1s above it (R194). -/
def State.dropL2 (s : State) (p : Fin 8) (line : Nat) : State :=
  (s.dropL1 p line).modPod p fun q => { q with lines := kvDel line q.lines }

/-! ## The newest contents of a line -/

/-- Run what a command does; where a request of it cannot be served yet — the home agent has no entry (R215), or the controller of
its line retrains, is not trained or has not been filled (R259, R261) — the request waits and the command has no effect: it is
carried out when it is commanded again (log entry 22). -/
def State.served (s : State) (f : State → State) : State :=
  let t := f { s with held := false }
  if t.held then s else { t with held := s.held }

/-- The newest contents of a line, read without any effect: a holder's copy, an eviction on its way, data gathered by
a transaction in progress, the SLC copy, or the HBM copy. -/
def State.peekLine (s : State) (line : Nat) : Line × Bool :=
  match (allFin 8).filterMap (fun p => s.l2? p line) with
  | x :: _ => (x.data, x.poison)
  | [] =>
    match ((allFin 8).filterMap (fun p => s.evBuf? p line)).filter (·.dirty) with
    | b :: _ => (b.data, b.poison)
    | [] =>
      match (s.home.get (homeIdx line)).txns.filterMap (fun t => if t.line = line then t.got else none) with
      | d :: _ => d
      | [] =>
        match s.slc? line with
        | some x => (x.data, x.poison)
        | none => (s.hbmCopy line).2

/-- Bytes of memory as any master would read them, without any effect; TCM, shared SRAM and secure SRAM have no
cached copies. -/
def State.peekByte (s : State) (a : Nat) : Byte :=
  if inHbm a then (lineBytesOf (s.peekLine (a / 64)).1).getD (a % 64) 0 else Memory.get s.mem a

/-- n bytes from an address on. -/
def State.peekBytes (s : State) (a n : Nat) : List Byte := (List.range n).map fun k => s.peekByte (a + k)

/-- Eight bytes as a number. -/
def State.peekWord (s : State) (a : Nat) : Nat := ofBytes (s.peekBytes a 8)

end Sys2Proof.Machine
end

