-- ==== Sys2Proof/Machine/Ledger.lean ====
section
/-! DEFINITION. The operations in flight that a ledger event records (Tables 17.9 and 17.10), FATAL events (R509) and
transients of caches (R510). -/
namespace Sys2Proof.Machine

/-- Ring indices from HEAD to TAIL − 1. -/
def ringIdx (head tail : BitVec 16) : List Nat := (List.range (tail - head).toNat).map fun k => (head.toNat + k) % 65536

/-! ## Data Mover descriptors -/

/-- Address of descriptor idx of a Data Mover channel (R381, R499). -/
def State.dmAddr (s : State) (n : Fin 32) (idx : Nat) : Nat :=
  s.ev (0x9200 + n.val) 1 + 32 * (idx % s.ev (0x9200 + n.val) 2)

/-- Descriptors of a channel without a final status. -/
def State.dmOpen (s : State) (n : Fin 32) : List Nat :=
  let d := s.dm.get n
  (ringIdx d.head d.tail).filter fun i => !d.done.contains i

/-- The record of a descriptor; what a started one has moved at the snapshot is free (log entry 21). -/
def State.dmOp (s : State) (n : Fin 32) (idx : Nat) : LedgerOp :=
  let a := s.dmAddr n idx
  let len := bits (s.peekWord (a + 0x10)) 31 0
  if (s.dm.get n).cur = some (BitVec.ofNat 16 idx) then
    ⟨1, 1, 0, n.val, idx, Config.freeNat s.fresh % (len + 1), len, a, 0⟩
  else ⟨1, 0, 0, n.val, idx, 0, len, a, 0⟩

/-- Descriptors of one channel. -/
def State.dmOps (s : State) (n : Fin 32) : List LedgerOp := (s.dmOpen n).map (s.dmOp n)

/-- Whether a range of addresses holds a granule that a pseudo-channel serves. -/
def State.rangeOnPc (s : State) (p : Fin 64) (a len : Nat) : Bool :=
  (List.range (len / 256 + 2)).any fun k =>
    let b := (a / 256 + k) * 256
    decide (b < a + len ∧ a < b + 256) && inHbm b && decide (s.pcOf (b / 64) = p)

/-- Data Mover descriptors whose range a pseudo-channel holds (Table 17.9). -/
def State.dmOpsOn (s : State) (p : Fin 64) : List LedgerOp :=
  (allFin 32).flatMap fun n => ((s.dmOpen n).filter fun i =>
    let a := s.dmAddr n i
    let w := s.peekWord (a + 0x10)
    (!bit w 32 && s.rangeOnPc p (s.peekWord a) (bits w 31 0)) || s.rangeOnPc p (s.peekWord (a + 8)) (bits w 31 0)).map
      (s.dmOp n)

/-! ## Transmit descriptors and bus records of the gateway -/

/-- A VI. -/
def State.vi (s : State) (v : Nat) : Vi := (kvGet? s.gw.vi v).getD Vi.init
/-- Write a VI. -/
def State.putVi (s : State) (v : Nat) (x : Vi) : State := { s with gw := { s.gw with vi := kvSet Vi.init v x s.gw.vi } }
/-- Change a queue pair. -/
def State.modQp (s : State) (v : Nat) (q : Fin 16) (f : Qp → Qp) : State :=
  let x := s.vi v
  s.putVi v { x with qps := vmod x.qps q f }

/-- Entry of queue pair q of VI v (Table 11.14). -/
def State.qpEnt (s : State) (v : Nat) (q : Fin 16) (k : Nat) : Nat := s.ev (0x6300 + v) (0x10 + 8 * q.val + k)
/-- Address of a transmit descriptor. -/
def State.txAddr (s : State) (v : Nat) (q : Fin 16) (idx : Nat) : Nat :=
  s.qpEnt v q 0 + 32 * (idx % s.qpEnt v q 1)
/-- Address of a receive descriptor. -/
def State.rxAddr (s : State) (v : Nat) (q : Fin 16) (idx : Nat) : Nat :=
  s.qpEnt v q 2 + 32 * (idx % s.qpEnt v q 3)
/-- Whether a queue pair is in bus mode (R396). -/
def State.busMode (s : State) (v : Nat) (q : Fin 16) : Bool :=
  bit (s.ev (0x6560 + v / 16) (0x10 * (v % 16) + 1)) q.val

/-- Number of set bits of a port set. -/
def portCount (m : Nat) : Nat := ((List.range 24).filter (bit m)).length

/-- A context from 64 bytes (Table 11.3). -/
def flowOfBytes (b : List Byte) : FlowCtx :=
  let w (off : Nat) : Word := word (ofBytes (slice b off 8))
  ⟨slice b 0 24, w 0x18, w 0x20, w 0x28, w 0x30, w 0x38⟩

/-- Where the context of a handle lies in the carve-out (R369). -/
def ctxPa (h : Nat) : Nat := Config.carveOut + 64 * h

/-- The flow context at a handle (Table 11.3): the cached copy, else the carve-out's, which is one line of HBM. -/
def State.flowAt (s : State) (h : Nat) : FlowCtx :=
  match (s.gw.cache.flatMap (·.2)).find? (·.1 == h) with
  | some e => e.2
  | none => flowOfBytes (lineBytesOf (s.peekLine (ctxPa h / 64)).1)

/-- Whether an attempt for a VI's record is on a bus, and whether its last attempt failed in the last bit of EOF. -/
def State.busProgress (s : State) (v q idx : Nat) : Bool × Bool :=
  let hit (t : TxBus) : Bool := match t.ref with
    | some r => r.vi == v && r.qp == q && r.idx == idx
    | none => false
  ((allFin 24).any fun n => match (s.gw.can.get n).attempt with
      | some t => hit t
      | none => false,
   (allFin 24).any fun n => (s.gw.can.get n).q.any fun t => hit t && t.lastEof)

/-- The record of a transmit descriptor or bus record (Tables 12.8 and 17.10). -/
def State.txOp (s : State) (powerLost : Bool) (v : Nat) (q : Fin 16) (idx : Nat) : LedgerOp :=
  let a := s.txAddr v q idx
  let cookie := s.peekWord (a + 0x18)
  let unit := v * 16 + q.val
  if s.busMode v q then
    let (onBus, lastEof) := s.busProgress v q.val idx
    if onBus && powerLost then ⟨3, 3, 1, unit, idx, 0, 1, a, cookie⟩
    else if lastEof then ⟨3, 3, 2, unit, idx, 0, 1, a, cookie⟩
    else ⟨3, 0, 0, unit, idx, 0, 1, a, cookie⟩
  else
    match (s.vi v).qps.get q |>.prog.find? (·.idx == idx) with
    | some p =>
      let st := if p.begun ∨ p.left < p.total then 1 else 0
      ⟨2, st, 0, unit, idx, p.total - p.left, p.total, a, cookie⟩
    | none =>
      let w := s.peekWord (a + 8)
      let total := if bit w 18 then
          portCount (bits (s.flowAt (bits w 51 32)).action.toNat 31 8)
        else 1
      ⟨2, 0, 0, unit, idx, 0, total, a, cookie⟩

/-- Transmit descriptors and bus records without a final status (Table 17.9). -/
def State.txOps (s : State) (powerLost : Bool) : List LedgerOp :=
  s.gw.vi.flatMap fun e => (allFin 16).flatMap fun q =>
    let x := e.2.qps.get q
    ((ringIdx x.txHead x.txTail).filter fun i => !x.done.contains i).map (s.txOp powerLost e.1 q)

/-! ## Voted writes -/

/-- Whether a T-core address is SPI_DATA_k of the island registers (Tables 8.2 and 8.10). -/
def isSpiData (a : Nat) : Bool := a == 0xC00608 || a == 0xC00648

/-- The record of a voted write. -/
def votedOp (i : Fin 4) (slot : Nat) (issued : Bool) (free : Nat) (w : TStore) : LedgerOp :=
  ⟨4, if issued then 3 else 0, if issued then 3 else 0, 4 * i.val + slot, w.pos,
    if issued && isSpiData w.addr then free % 33 else 0, if isSpiData w.addr then 32 else 1, w.addr, w.data.toNat⟩

/-- Queue positions that the active cores' output queues hold, each with the lowest slot that holds it. -/
def Island.queued (x : Island) : List (Fin 4 × TStore) :=
  (allFin 4).foldl (fun acc k =>
    if (x.slots.get k).role = .active then
      acc ++ (((x.slots.get k).outq.filter fun w => !acc.any (fun e => e.2.pos == w.pos)).map fun w => (k, w))
    else acc) []

/-- An island's voted writes: released and not completed, and queued (Table 17.9). -/
def State.votedOps (s : State) (i : Fin 4) : List LedgerOp :=
  let x := s.island.get i
  (x.rel.map fun r => votedOp i r.slot.val false 0 r.w) ++
  (x.issued.map fun r => votedOp i r.slot.val true (Config.freeNat s.fresh) r.w) ++
  (x.queued.map fun e => votedOp i e.1.val false 0 e.2)

/-! ## Dictionary writes, and everything in flight -/

/-- Path and stop, or node, of a requester (Table 17.10). -/
def reqUnit : Req → Nat
  | .loc .window m => stopOf m
  | .loc (.mailbox _) m => 2 ^ 16 + stopOf m
  | .dap n _ => 2 * 2 ^ 16 + n

/-- Seed-store writes in progress (R514). -/
def State.dictOps (s : State) : List LedgerOp :=
  s.seed.journal.map fun j => (⟨6, 3, 4, reqUnit j.by_.q, 0, 0, 1, 0, j.key⟩ : LedgerOp)

/-- Every operation of Table 17.10 that is in flight. -/
def State.allOps (s : State) : List LedgerOp :=
  (allFin 32).flatMap s.dmOps ++ s.txOps false ++ (allFin 4).flatMap s.votedOps ++
    (allFin 64).flatMap s.hbmOps ++ s.dictOps

/-! ## FATAL events (R509) -/

/-- Start the grace time where none runs; the cause is the one RESET_CAUSE will read. -/
def State.startGrace (s : State) (cause : Nat) : State :=
  match s.hazel.graceAt with
  | some _ => s
  | none => { s with hazel := { s.hazel with graceAt := some (s.time + s.ev 0x9000 3 * 1000000), resetCode := cause } }

/-- An uncorrectable tag or filter error (R203, R509). -/
def State.fatalEvent (s : State) (b : Fin 49) (unit way setNo arr : Nat) : State :=
  let first := !(s.fb.get b).fatal
  let s := s.record b 0x30 unit way setNo arr
  if first then
    let s := { s with fb := vmod s.fb b fun f => { f with fatal := true } }
    let word0 := 0x30 + 3 * 256 + unit * 2 ^ 16 + way * 2 ^ 24 + 2 ^ 32
    (s.ledgerEvent b.val setNo word0 s.allOps).startGrace 3
  else s

/-! ## Transients at caches -/

/-- The class of an eviction or of an L2's own requests. -/
def State.podClass (s : State) (p : Fin 8) : Nat := s.coreClass (s.podCore p)

end Sys2Proof.Machine
end

