-- ==== Sys2Proof/Machine/Operands.lean ====
section
/-! DEFINITION. What the integer, multiply, divide, branch and atomic operations compute from their operands
(Tables 2.4, 2.5 and 2.7), and how each access names its size. -/
namespace Sys2Proof.Machine

/-- Number of leading zeros of the low n bits. -/
def clz (n v : Nat) : Nat := if v % 2 ^ n = 0 then n else n - 1 - Nat.log2 (v % 2 ^ n)

/-- Number of trailing zeros of the low n bits. -/
def ctz : Nat → Nat → Nat
  | 0, _ => 0
  | n + 1, v => if v % 2 = 1 then 0 else 1 + ctz n (v / 2)

/-- Number of set bits among the low n bits. -/
def popc : Nat → Nat → Nat
  | 0, _ => 0
  | n + 1, v => v % 2 + popc n (v / 2)

/-- A W form works on bits [31:0] and sign-extends its result (R50); otherwise all 64 bits. -/
def wForm (w : Bool) (f : {n : Nat} → BitVec n → BitVec n → BitVec n) (x y : Word) : Word :=
  if w then (f (x.setWidth 32) (y.setWidth 32)).signExtend 64 else f x y

/-- A shift amount: rs2[5:0], or rs2[4:0] in a W form. -/
def shAmount (n : Nat) (y : BitVec n) : Nat := y.toNat % n

/-- The value of a relation. -/
def relWord (b : Bool) : Word := if b then 1 else 0

/-- Two-source integer operations (Table 2.5). -/
def alu2 (op : Alu2) (w : Bool) (x y : Word) : Word :=
  match op with
  | .add => wForm w (fun a b => a + b) x y
  | .sub => wForm w (fun a b => a - b) x y
  | .and => x &&& y
  | .or => x ||| y
  | .xor => x ^^^ y
  | .andn => x &&& ~~~y
  | .orn => x ||| ~~~y
  | .shl => wForm w (fun {n} a b => a <<< shAmount n b) x y
  | .shr => wForm w (fun {n} a b => a >>> shAmount n b) x y
  | .sar => wForm w (fun {n} a b => a.sshiftRight (shAmount n b)) x y
  | .ror => wForm w (fun {n} a b => a.rotateRight (shAmount n b)) x y
  | .slt => relWord (x.slt y)
  | .sltu => relWord (x.ult y)
  | .min => if x.slt y then x else y
  | .max => if x.slt y then y else x
  | .minu => if x.ult y then x else y
  | .maxu => if x.ult y then y else x

/-- One-source integer operations (Table 2.5, R50). -/
def alu1 (op : Alu1) (w : Bool) (x : Word) : Word :=
  let n := if w then 32 else 64
  match op with
  | .clz => word (clz n x.toNat)
  | .ctz => word (ctz n x.toNat)
  | .popc => word (popc n x.toNat)
  | .bswap => if w then sext 32 (ofBytesBE (toBytes 4 x.toNat)) else word (ofBytesBE (toBytes 8 x.toNat))
  | .sextb => sext 8 x.toNat
  | .sexth => sext 16 x.toNat
  | .zextw => word (x.toNat % 2 ^ 32)

/-- Immediate arithmetic; the immediate of ANDI, ORI and XORI is zero-extended, the others' sign-extended (R48). -/
def aluI (op : AluI) (x : Word) (imm : BitVec 16) : Word :=
  match op with
  | .addi => x + imm.signExtend 64
  | .andi => x &&& imm.setWidth 64
  | .ori => x ||| imm.setWidth 64
  | .xori => x ^^^ imm.setWidth 64
  | .slti => relWord (x.slt (imm.signExtend 64))
  | .sltui => relWord (x.ult (imm.signExtend 64))

/-- The register operation of a shift by an immediate (Table 2.5). -/
def ShOp.alu2 : ShOp → Alu2
  | .shl => .shl
  | .shr => .shr
  | .sar => .sar
  | .ror => .ror

/-- imm21 × 4,096 (Table 2.4). -/
def immU (imm : BitVec 21) : Word := imm.signExtend 64 * 4096

/-- Multiplications (Table 2.5). -/
def mulOp (op : MulOp) (w : Bool) (x y : Word) : Word :=
  match op with
  | .mul => wForm w (fun a b => a * b) x y
  | .mulh => BitVec.ofInt 64 ((x.toInt * y.toInt) / 2 ^ 64)
  | .mulhu => word ((x.toNat * y.toNat) / 2 ^ 64)
  | .mulhsu => BitVec.ofInt 64 ((x.toInt * (y.toNat : Int)) / 2 ^ 64)

/-- Divisions rounded toward zero; division by zero gives all ones and the dividend, and the most negative
value by −1 gives the dividend and zero (R51). -/
def divOp (op : DivOp) (w : Bool) (x y : Word) : Word :=
  match op with
  | .div => wForm w (fun a b => if b = 0 then BitVec.allOnes _ else BitVec.ofInt _ (a.toInt.tdiv b.toInt)) x y
  | .divu => wForm w (fun a b => if b = 0 then BitVec.allOnes _ else BitVec.ofNat _ (a.toNat / b.toNat)) x y
  | .rem => wForm w (fun a b => if b = 0 then a else BitVec.ofInt _ (a.toInt.tmod b.toInt)) x y
  | .remu => wForm w (fun a b => if b = 0 then a else BitVec.ofNat _ (a.toNat % b.toNat)) x y

/-- Whether a conditional branch is taken (Table 2.4). -/
def condHolds (c : Cond) (x y : Word) : Bool :=
  match c with
  | .eq => x == y
  | .ne => x != y
  | .lt => x.slt y
  | .ge => !x.slt y
  | .ltu => x.ult y
  | .geu => !x.ult y

/-- The new contents of an atomic operation's location, at a size of n bits; CAS compares with cmp (Table 2.7). -/
def amoNew (op : AmoOp) {n : Nat} (old v cmp : BitVec n) : BitVec n :=
  match op with
  | .swap => v
  | .add => old + v
  | .and => old &&& v
  | .or => old ||| v
  | .xor => old ^^^ v
  | .min => if old.slt v then old else v
  | .max => if old.slt v then v else old
  | .minu => if old.ult v then old else v
  | .maxu => if old.ult v then v else old
  | .cas => if old = cmp then v else old

/-- The bytes an atomic operation writes over old bytes, 4 or 8 of them (Table 2.7). -/
def amoBytes (op : AmoOp) (old : List Byte) (v cmp : Word) : List Byte :=
  if old.length = 4 then
    toBytes 4 (amoNew (n := 32) op (BitVec.ofNat 32 (ofBytes old)) (v.setWidth 32) (cmp.setWidth 32)).toNat
  else toBytes 8 (amoNew (n := 64) op (BitVec.ofNat 64 (ofBytes old)) v cmp).toNat

/-- The old value of an atomic operation as rd receives it: sign-extended at 4 bytes (Table 2.7). -/
def amoOld (old : List Byte) : Word :=
  if old.length = 4 then sext 32 (ofBytes old) else word (ofBytes old)

/-- Bytes a load reads (Table 2.4). -/
def LdOp.size : LdOp → Nat
  | .lb | .lbu => 1
  | .lh | .lhu => 2
  | .lw | .lwu | .flw => 4
  | .ld | .fld => 8

/-- Whether a load writes an f register. -/
def LdOp.float : LdOp → Bool
  | .flw | .fld => true
  | _ => false

/-- A binary32 value in an f register: bits [63:32] are ones (R42). -/
def nanBox (v : Nat) : Word := word (v % 2 ^ 32 + (2 ^ 32 - 1) * 2 ^ 32)

/-- The register value of loaded bytes (Table 2.4). -/
def LdOp.value (op : LdOp) (v : Nat) : Word :=
  match op with
  | .lb => sext 8 v
  | .lh => sext 16 v
  | .lw => sext 32 v
  | .flw => nanBox v
  | _ => word v

/-- Bytes a store writes (Table 2.4). -/
def StOp.size : StOp → Nat
  | .sb => 1
  | .sh => 2
  | .sw | .fsw => 4
  | .sd | .fsd => 8

/-- Whether a store reads an f register. -/
def StOp.float : StOp → Bool
  | .fsw | .fsd => true
  | _ => false

/-- The address of a load or store, modulo 2^64 (R52). -/
def eaI (base : Word) (imm : BitVec 16) : Word := base + imm.signExtend 64

/-- The target of a branch or jump: PC plus a word offset (R48, R55). -/
def targetOf {n : Nat} (pc : Word) (off : BitVec n) : Word := pc + off.signExtend 64 * 4

/-- Lowest set bit of a mask at or above k, among n bits (R68). -/
def lowestBit (v : Nat) : Nat → Nat → Option Nat
  | 0, _ => none
  | n + 1, k => if v.testBit k then some k else lowestBit v n (k + 1)

end Sys2Proof.Machine
end

