-- ==== Sys2Proof/Machine/Coherence.lean ====
section
/-! DEFINITION. The home agents: requests, snoops, evictions, timeouts (R201 to R221), the writing of lines (R208),
maintenance operations (R222, R223) and the requests that cores and other masters make (Table 6.2, R207). -/
namespace Sys2Proof.Machine

/-! ## Lines in the SLC and evictions from an L2 -/

/-- A free pick from a list. -/
def State.pick {α : Type} (s : State) (l : List α) : Option α × State :=
  (l[Config.freeNat s.fresh % l.length]?, { s with fresh := s.fresh + 1 })

/-- Take a line out of the SLC; a dirty one is written into HBM at TC3 (R208, Table 7.2). -/
def State.slcEvict (s : State) (h : Fin 16) (line : Nat) : State :=
  match kvGet? (s.home.get h).slc line with
  | none => s
  | some x =>
    let s := s.modHome h fun y => { y with slc := kvDel line y.slc }
    if x.dirty then s.hbmWrite line x.data x.poison 3 else s

/-- Put a line into the SLC for a class: in the way it stands in, else in a free way of the class, else in the place of
a victim that the slice chooses (R208; the choice is free, log entry 2). -/
def State.slcPut (s : State) (line cls : Nat) (dirty : Bool) (d : Line) (poison : Bool) : State :=
  let h := homeIdx line
  match s.slc? line with
  | some x => s.modHome h fun y => { y with slc := kvPut line { x with dirty := dirty, data := d, poison := poison } y.slc }
  | none =>
    let ways := s.slcWays h cls
    let inSet := ((s.home.get h).slc).filter fun e => slcSet e.1 == slcSet line
    let used := inSet.map (·.2.way)
    match ways.find? (fun w => !used.contains w) with
    | some w => s.modHome h fun y => { y with slc := kvPut line ⟨w, cls, dirty, d, poison⟩ y.slc }
    | none =>
      match s.pick (inSet.filter fun e => ways.contains e.2.way) with
      | (some v, s) =>
        (s.slcEvict h v.1).modHome h fun y => { y with slc := kvPut line ⟨v.2.way, cls, dirty, d, poison⟩ y.slc }
      | (none, s) => if dirty then s.hbmWrite line d poison 3 else s

/-- Whether a slice or a pod answers by R509 step 2. -/
def State.fatalBank (s : State) (b : Fin 49) : Bool := (s.fb.get b).fatal

/-- Write a whole line at its home (R208 step 3): into the SLC, dirty, where it stands there or the class allocates,
else into HBM. -/
def State.writeHome (s : State) (line cls tc : Nat) (d : Line) (poison : Bool) : State :=
  if (s.slc? line).isSome || s.allocates cls then s.slcPut line cls true d poison
  else s.hbmWrite line d poison tc

/-- The data of an EV_DIRTY (R208): a WB line is written as a WR_PUSH is; a WB-NWA or WT line into HBM, with an SLC copy,
where there is one, brought up to date. A slice under R509 step 2 writes nothing. -/
def State.absorb (s : State) (p : Fin 8) (line : Nat) (d : Line) (poison : Bool) (type : MemType) : State :=
  if s.fatalBank (bankSlice (homeIdx line)) then s
  else if type = .wb then s.writeHome line (s.podClass p) (s.coreTc (s.podCore p)) d poison
  else
    let s := if (s.slc? line).isSome then s.slcPut line (s.podClass p) false d poison else s
    s.hbmWrite line d poison (s.coreTc (s.podCore p))

/-- Whether an L2 state is dirty (Table 6.3). -/
def L2St.dirty : L2St → Bool
  | .m | .o => true
  | .e | .s => false

/-- An eviction carried out in one step: EV_CLEAN or EV_DIRTY, served and acknowledged (R211, Table 6.4). -/
def State.evictNow (s : State) (p : Fin 8) (line : Nat) : State :=
  match s.l2? p line with
  | none => s
  | some x =>
    let s := (s.dropL2 p line).setFilt line p none
    if x.st.dirty then s.absorb p line x.data x.poison x.type else s

/-- Whether a transaction of a line is at its home. -/
def State.txnOn (s : State) (line : Nat) : Bool := (s.home.get (homeIdx line)).txns.any (·.line == line)

/-- Put a line into an L2 (R194, R198): in the place of its copy, in a free way, or of a victim (the choice is free); the
filter follows (R199). -/
def State.l2Install (s : State) (p : Fin 8) (line : Nat) (st : L2St) (d : Line) (poison : Bool) (type : MemType) :
    State :=
  match s.l2? p line with
  | some x => (s.putL2 p line { x with st := st, data := d, poison := poison, type := type }).setFilt line p (some st)
  | none =>
    let ways := s.l2Ways p
    let inSet := (s.pod.get p).lines.filter fun e => l2Set e.1 == l2Set line
    let used := inSet.map (·.2.way)
    match ways.find? (fun w => !used.contains w) with
    | some w => (s.putL2 p line ⟨w, st, d, poison, type⟩).setFilt line p (some st)
    | none =>
      let quiet := inSet.filter fun e => ways.contains e.2.way && !s.txnOn e.1
      match s.pick (if quiet.isEmpty then inSet.filter fun e => ways.contains e.2.way else quiet) with
      | (some v, s) => ((s.evictNow p v.1).putL2 p line ⟨v.2.way, st, d, poison, type⟩).setFilt line p (some st)
      | (none, s) => if st.dirty then (s.absorb p line d poison type).setFilt line p none else s.setFilt line p none

/-! ## Errors in the arrays (R200 to R203, R510) -/

/-- Stop an A-core that has failed permanently (Table 17.8, KIND 0x01): as a power-off, CORE_STATE 0x04; its committed
stores still drain. -/
def State.coreFail (s : State) (c : Fin 32) : State :=
  { s with
    acore := vmod s.acore c fun a => { ACore.init with run := .retired, sb := a.sb, posted := a.posted },
    hazel := { s.hazel with doms := vmod s.hazel.doms ⟨c.val, by omega⟩ fun d =>
      { d with req := .off, cur := .off, changing := none, pending := none } } }

/-- Retire a cache way or an A-core that reached FAULT_LIMIT transients (R510, Table 17.8). -/
def State.retireNow (s : State) (kind id reason : Nat) : State :=
  let s := s.retireEntry kind reason id
  if kind = 0x07 then
    let p := fin 7 (id % 8)
    ((s.pod.get p).lines.filter fun e => e.2.way == id / 16).foldl (fun s e => s.evictNow p e.1) s
  else if kind = 0x08 then
    let h := fin 15 (id % 16)
    ((s.home.get h).slc.filter fun e => e.2.way == id / 16).foldl (fun s e => s.slcEvict h e.1) s
  else if kind = 0x01 then s.coreFail (fin 31 id)
  else s

/-- A transient at a resource of Table 17.8, with the code of its record. -/
def State.transientAt (s : State) (kind id reason : Nat) : State :=
  if s.retiredRes kind id then s
  else
    let (s, full) := s.transient kind id
    if full then s.retireNow kind id reason else s

/-- What an array read yields: the data as it is, nothing (a clean line is fetched again), or the line poisoned. -/
inductive ArrayOut where
  | keep | refetch | poisoned
  deriving DecidableEq, Repr

/-- One bit of an L1 copy of a line flips: its CRC no longer matches (R200). -/
def State.strike (s : State) (ev : ArrayEvent) : State :=
  match ev with
  | .upsetL1 c i l => { s with acore := vmod s.acore c fun a =>
      if (if i then a.l1i else a.l1d).contains l && !a.crc.contains (i, l) then { a with crc := a.crc ++ [(i, l)] } else a }
  | _ => s

/-- An array read that meets an event: `b` the bank, `unit` the pod or slice, `arr` 0 for an L2 and 1 for the SLC, `kind`
the retirement kind of its ways (R201 to R203, Table 17.7). -/
def State.arrayRead (s : State) (ev : ArrayEvent) (b : Fin 49) (unit way line setNo arr kind : Nat) (dirty : Bool) :
    State × ArrayOut :=
  match ev with
  | .good | .l1Crc | .upset _ | .upsetL1 _ _ _ => (s, .keep)
  | .single => ((s.record b 0x02 unit way (line * 64) arr).transientAt kind (unit + 16 * way) 0x02, .keep)
  | .multi =>
    if dirty then (s.record b 0x10 unit way (line * 64) arr, .poisoned)
    else ((s.record b 0x03 unit way (line * 64) arr).transientAt kind (unit + 16 * way) 0x03, .refetch)
  | .tag => (s.fatalEvent b unit way setNo arr, .poisoned)

/-- Read a line from the SLC, which holds it as x; a clean line with an uncorrectable error is discarded and nothing is
returned (R201, R202). -/
def State.slcRead (s : State) (line : Nat) (x : SlcLine) (ev : ArrayEvent) : State × Option (Line × Bool) :=
  let h := homeIdx line
  match s.arrayRead ev (bankSlice h) h.val x.way line (slcSet line) 1 0x08 x.dirty with
  | (s, .keep) => (s, some (x.data, x.poison))
  | (s, .refetch) => (s.modHome h fun y => { y with slc := kvDel line y.slc }, none)
  | (s, .poisoned) =>
    (s.modHome h fun y => { y with slc := match kvGet? y.slc line with
      | some z => kvPut line { z with poison := true } y.slc
      | none => y.slc }, some (x.data, true))

/-! ## Transactions of a home agent -/

/-- Transactions of a line in arrival order. -/
def State.txnsOf (s : State) (line : Nat) : List Txn := (s.home.get (homeIdx line)).txns.filter (·.line == line)
/-- The transaction in progress, or next, for a line (R215). -/
def State.headTxn (s : State) (line : Nat) : Option Txn := (s.txnsOf line).head?

/-- Replace the first element that meets a condition. -/
def replaceFirst {α : Type} (f : α → Bool) (x : α) : List α → List α
  | [] => []
  | y :: r => if f y then x :: r else y :: replaceFirst f x r

/-- Remove the first element that meets a condition. -/
def removeFirst {α : Type} (f : α → Bool) : List α → List α
  | [] => []
  | y :: r => if f y then r else y :: removeFirst f r

/-- Write the head transaction of a line. -/
def State.putTxn (s : State) (t : Txn) : State :=
  s.modHome (homeIdx t.line) fun h => { h with txns := replaceFirst (·.line == t.line) t h.txns }

/-- The pod that sends a request. -/
def Txn.pod? (t : Txn) : Option (Fin 8) :=
  match t.from_ with
  | .pod p => some p
  | .master _ => none

/-- Pods that a request snoops (Table 6.4): M, O and E holders for RD_SHARE and RD_PEEK, every other holder for RD_OWN,
every holder for WR_PUSH and HA_ATOMIC. RD_PEEK also observes the requester's own copy (R206). -/
def State.targets (s : State) (t : Txn) : List (Fin 8) :=
  let hs := s.holders t.line
  match t.req with
  | .share => (hs.filter fun e => e.2 != .s && some e.1 != t.pod?).map (·.1)
  | .peek => (hs.filter fun e => e.2 != .s).map (·.1)
  | .own => (hs.filter fun e => some e.1 != t.pod?).map (·.1)
  | .push _ _ | .atomic _ _ _ _ _ => hs.map (·.1)
  | .evict _ => []

/-- The snoop that a request sends. -/
def snoopOf : HomeReq → SnoopKind
  | .share => .share
  | .peek => .peek
  | _ => .take

/-- Whether a request needs the line's contents: not a write of all 64 bytes, nor an RD_OWN by a holder (R216). -/
def State.needsData (s : State) (t : Txn) : Bool :=
  match t.req with
  | .push _ d => decide (d.length < 64)
  | .own => match t.pod? with
    | some p => (s.filt? t.line p).isNone
    | none => true
  | _ => true

/-- Acknowledge the evictions of a line that a transaction has used (R217 step 5). -/
def State.ackCrossed (s : State) (line : Nat) : State :=
  { s with pod := Vector.ofFn fun p =>
      let x := s.pod.get p
      { x with ev := x.ev.map fun b => if b.line = line ∧ b.crossed ∧ b.arrived then { b with acked := true } else b } }

/-- A fill from HBM on a read allocates in the SLC where the class does (R208). -/
def State.fillSlc (s : State) (line cls : Nat) (fromHbm : Bool) (d : Line) (poison : Bool) : State :=
  if fromHbm && s.allocates cls then s.slcPut line cls false d poison else s

/-- The merged bytes of an HA_ATOMIC and its old bytes; one that reads poison writes nothing (R71). -/
def atomicLine (d : Line) (op : AmoOp) (off size : Nat) (v cmp : Word) : Line × List Byte :=
  let b := lineBytesOf d
  let old := slice b off size
  (lineOf (patch b off (amoBytes op old v cmp)), old)

/-- The home of a line sends its line or old bytes to every requester of a transaction (R242). -/
def State.sendReply (s : State) (t : Txn) (n : Nat) : State :=
  (t.from_ :: t.joined).foldl (fun s _ => s.send (stopSlice (homeIdx t.line).val) t.tc n) s

/-- Bytes of data in the answer to a request. -/
def HomeReq.replyBytes : HomeReq → Nat
  | .share | .own | .peek => 64
  | .atomic _ _ n _ _ => n
  | .push _ _ | .evict _ => 0

/-- Poison that the SMC receives with data that it asked for (R508, code 0x13). -/
def State.smcPoison (s : State) (t : Txn) (poison : Bool) : State :=
  if poison ∧ (t.from_ = .master .smc ∨ t.joined.contains (.master .smc) = true) then s.record bankSmc 0x13 29 0 (t.line * 64) 0 else s

/-- Complete the transaction at the head of a line with the line's contents (Table 6.4). `fromHbm` says that they came
from HBM, `force` that the line is poisoned by R218 or R221. A TC0 RD_PEEK that joined receives the same data (R242). -/
def State.finish (s : State) (t : Txn) (d : Line) (poison fromHbm force : Bool) : State :=
  let s := s.modHome (homeIdx t.line) fun h => { h with txns := removeFirst (·.line == t.line) h.txns }
  let s := s.sendReply t t.req.replyBytes
  let s := match t.req with
    | .share =>
      let s := s.fillSlc t.line t.cls fromHbm d poison
      match t.pod? with
      | some p =>
        let st : L2St := if (s.holders t.line).any (fun e => e.1 != p) then .s else .e
        { s.l2Install p t.line st d poison .wb with reply := .line t.from_ [] t.line d poison }
      | none => s
    | .own =>
      let s := s.fillSlc t.line t.cls fromHbm d poison
      match t.pod? with
      | some p =>
        match s.l2? p t.line with
        | some x => { s.l2Install p t.line .m (if force then d else x.data) (x.poison || force) x.type with reply := .line t.from_ [] t.line x.data (x.poison || force) }
        | none => { s.l2Install p t.line .m d poison .wb with reply := .line t.from_ [] t.line d poison }
      | none => s
    | .peek => { (s.fillSlc t.line t.cls fromHbm d poison).smcPoison t poison with reply := .line t.from_ t.joined t.line d poison }
    | .push off b =>
      let m := lineOf (patch (lineBytesOf d) off b)
      s.writeHome t.line t.cls t.tc m (if b.length < 64 then poison else force)
    | .atomic op off size v cmp =>
      let (m, old) := atomicLine d op off size v cmp
      { (s.writeHome t.line t.cls t.tc (if poison then d else m) poison).smcPoison t poison with reply := .bytes old poison }
    | .evict _ => s
  s.ackCrossed t.line

/-- Serve an eviction notice in its turn: acknowledged as DONE (R217). -/
def State.serveEvict (s : State) (p : Fin 8) (line : Nat) : State :=
  match (s.pod.get p).ev.find? fun b => b.line == line && !b.acked with
  | none => s
  | some b =>
    let shown := (s.filt? line p).isSome
    let s := s.setFilt line p none
    let s := if b.dirty && shown then s.absorb p line b.data b.poison b.type else s
    s.modPod p fun q => { q with ev := q.ev.map fun e => if e.line = line then { e with arrived := true, acked := true } else e }

/-- A transaction that has every answer: complete it from the snooped data, the SLC or HBM (Table 6.4). -/
def State.proceed (s : State) (t : Txn) (ev : ArrayEvent) : State :=
  if !s.needsData t then s.finish t 0 false false false
  else match t.got with
  | some (d, p) => s.finish t d p false false
  | none =>
    let r := match s.slc? t.line with
      | some x => s.slcRead t.line x ev
      | none => (s, none)
    match r with
    | (s, some (d, p)) => s.finish t d p false false
    | (s, none) => (s.putTxn { t with phase := .hbm, awaiting := [] }).enqueue ⟨t.tc, false, t.line, 0, false⟩

/-- Start the transaction at the head of a line (R213, R215). A slice that recorded FATAL answers reads with poisoned
data and refuses writes (R509): the refusal of a posted write is recorded with code 0x20 (R32). -/
def State.begin (s : State) (t : Txn) (ev : ArrayEvent) : State :=
  let h := homeIdx t.line
  let s := s.strike ev
  match t.req with
  | .evict p =>
    (s.modHome h fun y => { y with txns := removeFirst (·.line == t.line) y.txns }).serveEvict p t.line
  | _ =>
    let s := if ev = .tag then
        s.fatalEvent (bankSlice h) h.val ((s.slc? t.line).map (·.way) |>.getD 0) (slcSet t.line) 1
      else s
    if s.fatalBank (bankSlice h) then
      match t.req with
      | .push _ _ | .atomic _ _ _ _ _ =>
        let s := s.modHome h fun y => { y with txns := removeFirst (·.line == t.line) y.txns }
        let from_ := match t.from_ with
          | .pod p => stopPod p
          | .master m => stopOf m
        { (s.record bankMesh 0x20 (stopSlice h.val) from_ (t.line * 64) 2) with reply := .error .wlderr }
      | _ => s.finish { t with cls := t.cls } (s.peekLine t.line).1 true false false
    else
      let ps := s.targets t
      if ps.isEmpty then s.proceed t ev
      else
        let s := ps.foldl (fun s _ => s.send (stopSlice h.val) t.tc 0) s
        (s.putTxn { t with phase := .snoop, awaiting := ps }).modHome h fun y =>
          { y with snoops := y.snoops ++ ps.map fun p => ⟨t.line, p, snoopOf t.req, decide (t.tc = 0)⟩ }

/-- Start the next transactions of a line until one waits (R215). -/
def State.kick (line : Nat) (ev : ArrayEvent) : Nat → State → State
  | 0, s => s
  | n + 1, s =>
    match s.headTxn line with
    | some t => if t.phase = .queued then State.kick line ev n (s.begin t ev) else s
    | none => s

/-- Start what can start at a line. -/
def State.kickAll (s : State) (line : Nat) (ev : ArrayEvent) : State := State.kick line ev ((s.txnsOf line).length + 1) s

/-- Raise a transaction to TC0, with TC0 copies of its snoops and its read of HBM at TC0 (R242). -/
def State.promote (s : State) (t : Txn) : State :=
  let s := (s.putTxn { t with tc := 0 }).modHome (homeIdx t.line) fun y =>
    { y with snoops := y.snoops.map fun m => if m.line = t.line then { m with tc0 := true } else m }
  { s with pc := vmod s.pc (s.pcOf t.line) fun x =>
      { x with q := x.q.map fun c => if c.line = t.line ∧ ¬ c.write then { c with tc := 0 } else c } }

/-- Entries of a home agent: 512, of which 32 only TC0 may take (R215). DESIGN CHOICE (log entry 22): the 32 are the last ones,
so another class takes one only while fewer than 480 are held, those of TC0 included. -/
def State.hasEntry (s : State) (h : Fin 16) (tc : Nat) : Bool :=
  decide ((s.home.get h).txns.length < if tc = 0 then 512 else 480)

/-- A request takes an entry of its home agent. Behind a transaction for its line it waits; a TC0 request joins or raises that
transaction (R242). -/
def State.takeEntry (s : State) (t : Txn) (ev : ArrayEvent) : State :=
  let h := homeIdx t.line
  match s.headTxn t.line with
  | none => ((s.modHome h fun y => { y with txns := y.txns ++ [t] })).kickAll t.line ev
  | some u =>
    if t.tc = 0 ∧ u.tc = 0 ∧ u.req = .peek ∧ t.req = .peek then s.putTxn { u with joined := u.joined ++ [t.from_] }
    else
      let s := if t.tc = 0 then s.promote u else s
      s.modHome h fun y => { y with txns := y.txns ++ [t] }

/-- Waiting requests take the entries that have become free, a TC0 request before any other class (R215). -/
def State.admitN (h : Fin 16) : Nat → State → State
  | 0, s => s
  | n + 1, s =>
    let w := (s.home.get h).waiting
    match (w.filter (·.tc == 0)).head?.or w.head? with
    | none => s
    | some t =>
      if s.hasEntry h t.tc then State.admitN h n ((s.modHome h fun y => { y with waiting := y.waiting.erase t }).takeEntry t .good)
      else s

/-- Waiting requests of the home of a line take free entries. -/
def State.admitHome (s : State) (line : Nat) : State :=
  State.admitN (homeIdx line) (s.home.get (homeIdx line)).waiting.length s

/-- Bytes of data in a request. -/
def HomeReq.bytes : HomeReq → Nat
  | .push _ d => d.length
  | .atomic _ _ n _ _ => n
  | .share | .own | .peek | .evict _ => 0

/-- A request reaches its home agent; without a free entry it waits for one (R215). -/
def State.request (s : State) (line : Nat) (req : HomeReq) (from_ : Requester) (tc cls : Nat) (ev : ArrayEvent) : State :=
  let t : Txn := ⟨line, req, from_, tc, cls, .queued, [], none, [], false⟩
  let s := s.send (stopOfReq from_) tc req.bytes
  if s.hasEntry (homeIdx line) tc then s.takeEntry t ev
  else s.modHome (homeIdx line) fun y => { y with waiting := y.waiting ++ [t] }

/-! ## Snoops and answers -/

/-- A snoop reaches an L2: its answer (Table 6.5, R217). -/
def State.snoopAt (s : State) (p : Fin 8) (line : Nat) (k : SnoopKind) : State × Answer :=
  match s.l2? p line with
  | some x =>
    let pois := x.poison || s.fatalBank (bankPod p)
    match k, x.st with
    | .share, .m => (s.putL2 p line { x with st := .o }, .data x.data pois x.way)
    | .share, .o => (s, .data x.data pois x.way)
    | .share, .e => (s.putL2 p line { x with st := .s }, .data x.data pois x.way)
    | .peek, .m | .peek, .o | .peek, .e => (s, .data x.data pois x.way)
    | .share, .s | .peek, .s => (s, .ack)
    | .take, .m | .take, .o => (s.dropL2 p line, .data x.data pois x.way)
    | .take, .e | .take, .s => (s.dropL2 p line, .ack)
  | none =>
    match s.evBuf? p line with
    | some _ =>
      (s.modPod p fun q => { q with ev := q.ev.map fun b => if b.line = line then { b with crossed := true } else b },
        .notHeld true)
    | none => (s, .notHeld false)

/-- A snoop is served by the L2 that it has reached: its answer travels at TC0 for a TC0 snoop, else at TC1 (R239). TC0 and other
copies of a snoop are one message (R242). -/
def State.serveSnoop (s : State) (m : SnoopMsg) : State :=
  let h := homeIdx m.line
  let (s, a) := s.snoopAt m.pod m.line m.kind
  let tc := if m.tc0 then 0 else 1
  let s := s.send (stopPod m.pod) tc (match a with | .data _ _ _ => 64 | _ => 0)
  s.modHome h fun y => { y with
    snoops := y.snoops.filter fun n => !(n.line == m.line && n.pod == m.pod && n.kind == m.kind),
    answers := y.answers ++ [⟨m.line, m.pod, a, tc⟩] }

/-- TC0 snoops sent to a pod and not served yet. -/
def State.tc0Snoops (s : State) (p : Fin 8) : List SnoopMsg :=
  s.home.toList.flatMap fun h => h.snoops.filter fun m => m.pod == p && m.tc0

/-- Deliver a snoop that is on its way; TC0 snoops pass those of other classes at the pod (R219). DESIGN CHOICE (log entry 22): every
TC0 snoop sent to the pod counts as waiting there. -/
def State.deliverSnoop (s : State) (p : Fin 8) (line : Nat) (k : SnoopKind) : State :=
  match (s.home.get (homeIdx line)).snoops.find? fun m => m.line == line && m.pod == p && m.kind == k with
  | none => s
  | some m => if m.tc0 then s.serveSnoop m else ((s.tc0Snoops p).foldl (fun s n => s.serveSnoop n) s).serveSnoop m

/-- The filter follows what the answer of a pod said (R199, R213). -/
def State.syncFilt (s : State) (line : Nat) (p : Fin 8) : State := s.setFilt line p ((s.l2? p line).map (·.st))

/-- Complete a transaction with its line poisoned, written into the SLC, or into HBM where the class does not allocate
(R218, R221). DESIGN CHOICE (log entry 22): a line that the SLC holds already is written there whatever the class, as R208 does. -/
def State.poisonTxn (s : State) (t : Txn) : State :=
  let d := match t.got with
    | some x => x.1
    | none => (s.peekLine t.line).1
  let s := s.writeHome t.line t.cls t.tc d true
  ((s.finish t d true false true).kickAll t.line .good).admitHome t.line

/-- An answer of pod p has been used: go on where no other is awaited (R215); a transaction that met a disagreement completes
poisoned (R218). -/
def State.answered (s : State) (t : Txn) (p : Fin 8) (got : Option (Line × Bool)) : State :=
  let t' := { t with awaiting := t.awaiting.filter (· ≠ p), got := match got with
    | some d => some d
    | none => t.got }
  let s := s.putTxn t'
  if !t'.awaiting.isEmpty then s
  else if t'.force then s.poisonTxn t'
  else ((s.proceed t' .good).kickAll t.line .good).admitHome t.line

/-- Use a crossed eviction's notice as the snoop's answer; the home writes a dirty line once (R217 steps 3 to 5). -/
def State.useCrossed (s : State) (t : Txn) (p : Fin 8) (b : EvBuf) : State :=
  let s := s.setFilt t.line p none
  let s := match t.req with
    | .push _ _ | .atomic _ _ _ _ _ => s
    | _ => if b.dirty then s.absorb p t.line b.data b.poison b.type else s
  s.answered t p (if b.dirty then some (b.data, b.poison) else none)

/-- Whether a record is that of a snoop timeout of a pod at a line (Table 17.7, code 0x12). -/
def FaultRec.isTimeout (r : FaultRec) (line : Nat) (p : Fin 8) : Bool :=
  r.code == 0x12 && r.addr.toNat == line * 64 && r.unit2.toNat == stopPod p

/-- An answer that arrives after its snoop timed out is discarded and counted in the record of the timeout (R221). -/
def State.lateAnswer (s : State) (h : Fin 16) (a : AnswerMsg) : State :=
  if (s.home.get h).lateAns.contains (a.line, a.pod.val) then
    let count := fun (r : FaultRec) => if r.isTimeout a.line a.pod then { r with info := r.info + 1 } else r
    { s with
      home := vmod s.home h fun y => { y with lateAns := y.lateAns.filter (· ≠ (a.line, a.pod.val)) },
      fb := vmod s.fb (bankSlice h) fun f => { f with recs := f.recs.map count } }
  else s

/-- An answer reaches the home (R214 to R218, R221); `ev` is what the L2's read of the data met (R201 to R203). -/
def State.answer (s : State) (a : AnswerMsg) (ev : ArrayEvent) : State :=
  let h := homeIdx a.line
  let s := s.strike ev
  match s.headTxn a.line with
  | none => s.lateAnswer h a
  | some t =>
    if t.phase = .snoop ∧ a.pod ∈ t.awaiting then
      match a.ans with
      | .data d pois way =>
        let dirty := snoopOf t.req == .take || (s.l2? a.pod a.line).any (·.st.dirty)
        match s.arrayRead ev (bankPod a.pod) a.pod.val way a.line (l2Set a.line) 0 0x07 dirty with
        | (s, .keep) => (s.syncFilt a.line a.pod).answered t a.pod (some (d, pois))
        | (s, .refetch) => ((s.dropL2 a.pod a.line).setFilt a.line a.pod none).answered t a.pod none
        | (s, .poisoned) =>
          let s := match s.l2? a.pod a.line with
            | some x => s.putL2 a.pod a.line { x with poison := true }
            | none => s
          (s.syncFilt a.line a.pod).answered t a.pod (some (d, true))
      | .ack => (s.syncFilt a.line a.pod).answered t a.pod none
      | .notHeld true =>
        match s.evBuf? a.pod a.line with
        | some b =>
          if b.arrived then
            let s := s.modHome h fun y => { y with txns := removeFirst (fun u => u.line == a.line && u.req == .evict a.pod) y.txns }
            s.useCrossed t a.pod b
          else s
        | none => s
      | .notHeld false =>
        let s := (s.setFilt a.line a.pod none).record (bankSlice h) 0x21 h.val a.pod.val (a.line * 64) 0
        s.answered { t with force := true } a.pod none
    else s.lateAnswer h a

/-! ## Service by the HBM controllers -/

/-- Data from HBM for the transaction at the head of a line. -/
def State.hbmData (s : State) (line : Nat) (d : Line) (poison : Bool) : State :=
  match s.headTxn line with
  | some t => if t.phase = .hbm then ((s.finish t d poison true false).kickAll line .good).admitHome line else s
  | none => s

/-- A controller issues its next command (R240): a read is decoded (R249), a write stored (R248). -/
def State.hbmServe (s : State) (p : Fin 64) (errs : List (Nat × Byte)) (sev : Severity) (wrong : Option Nat) : State :=
  if s.serving p then
    match s.nextCmd p with
    | none => s
    | some (c, s) =>
      if c.write then s.storeLine c.line c.data c.poison
      else
        let (s, d, poison) := s.hbmRead c.line errs sev 0 wrong
        s.hbmData c.line d poison
  else s

/-- The oldest corrected line is written back; a verify read is to follow (R250). -/
def State.writeBack (s : State) (p : Fin 64) : State :=
  match (s.pc.get p).corr with
  | [] => s
  | line :: r =>
    { s.modPc p fun x => { x with corr := r, verify := x.verify ++ [line] } with
      hbm := { s.hbm with errs := kvDel line s.hbm.errs } }

/-- The verify read of the oldest line written back: clean, the error was transient and PC_CORR counts it; a correction again is a
hard error of the row (R250, R254). The severity report counts as with every read (R252). -/
def State.verifyRead (s : State) (p : Fin 64) (errs : List (Nat × Byte)) (sev : Severity) : State :=
  match (s.pc.get p).verify with
  | [] => s
  | line :: r =>
    let s := s.modPc p fun x => { x with verify := r }
    let all := s.readErrs line errs none
    let counted (s : State) : State := if sev = .none then s else s.addE 0x4004 (1 + p.val) 32 1
    match rsClassify ((if s.storedPoison line then rsPoison else []) ++ all) with
    | .clean | .poisoned => (counted s).addE 0x4002 (1 + p.val) 32 1
    | .corrected _ _ | .poisonedCorrected _ _ =>
      { counted s with hbm := { s.hbm with errs := kvPut line all s.hbm.errs } }.hardError (s.place line)
    | .address | .uncorrectable => (s.hbmRead line errs sev 0 none).1

end Sys2Proof.Machine
end

