-- ==== Sys2Proof/Machine/Requests.lean ====
section
/-! DEFINITION. Requests carried through to their end: what a core's load or store and another master's access to HBM
do (R205 to R210), the L1s (R194, R200), maintenance operations (Table 6.6) and the cleaning of a pod's L2 (R211). A
request that a command of its own does not single out finds the transactions of its line completed first: it waits
behind them (R215). -/
namespace Sys2Proof.Machine

/-! ## Carrying transactions through -/

/-- An eviction notice reaches the home (R217): used by a transaction that its snoop crossed, else it waits behind a
transaction of the line, else it is served. -/
def State.evArrive (s : State) (p : Fin 8) (line : Nat) : State :=
  match s.evBuf? p line with
  | none => s
  | some b =>
    if b.arrived then s
    else
      let h := homeIdx line
      let s := (s.send (stopPod p) 1 (if b.dirty then 64 else 0)).modPod p fun q =>
        { q with ev := q.ev.map fun e => if e.line = line then { e with arrived := true } else e }
      match s.headTxn line with
      | none => s.serveEvict p line
      | some t =>
        if t.phase = .snoop ∧ p ∈ t.awaiting ∧ b.crossed then s.useCrossed t p b
        else s.modHome h fun y =>
          { y with txns := y.txns ++ [⟨line, .evict p, .pod p, 1, s.podClass p, .queued, [], none, [], false⟩] }

/-- One slot of the controller that a read of HBM waits for (R240); a correction of the line comes first (R250). A controller that
serves nothing holds the read (R259, R261). -/
def State.hbmTurn (s : State) (line : Nat) : State :=
  let i := s.pcOf line
  let x := s.pc.get i
  if !s.serving i then { s with held := true }
  else if x.corr.contains line || x.verify.contains line then
    match s.ownSlot i with
    | some u => if x.verify.isEmpty then u.writeBack i else u.verifyRead i [] .none
    | none => s.hbmServe i [] .none none
  else s.hbmServe i [] .none none

/-- One move of the transaction at the head of a line. -/
def State.settle1 (s : State) (line : Nat) : State :=
  match s.headTxn line with
  | none => s
  | some t =>
    match t.phase with
    | .queued => (s.kickAll line .good).admitHome line
    | .hbm => s.hbmTurn line
    | .snoop =>
      let h := s.home.get (homeIdx line)
      match t.awaiting with
      | [] => (s.proceed t .good).kickAll line .good
      | p :: _ =>
        match h.snoops.find? (fun m => m.line == line && m.pod == p) with
        | some m => s.deliverSnoop p line m.kind
        | none =>
          match h.answers.find? (fun a => a.line == line && a.pod == p) with
          | some a =>
            (s.modHome (homeIdx line) fun y => { y with answers := removeFirst (fun b => b.line == line && b.pod == p) y.answers }).answer a .good
          | none =>
            match s.evBuf? p line with
            | some _ => s.evArrive p line
            | none => s.answered t p none

/-- Carry every transaction of a line through. -/
def State.settleN (line : Nat) : Nat → State → State
  | 0, s => s
  | n + 1, s => if (s.txnsOf line).isEmpty || s.held then s else State.settleN line n (s.settle1 line)

/-- Moves that the transactions of a line may take: at most four for each pod, the commands ahead of its read of HBM, and those that
other transactions add meanwhile. -/
def State.settleFuel (s : State) (line : Nat) : Nat :=
  let x := s.pc.get (s.pcOf line)
  40 * ((s.txnsOf line).length + 1) + 4 * (x.q.length + x.corr.length + x.verify.length +
    ((s.home.toList.map fun h => h.txns.length).foldl (· + ·) 0))

/-- Carry every transaction of a line through; where one has to wait, so does the access that follows it. -/
def State.settle (s : State) (line : Nat) : State :=
  let s := State.settleN line (s.settleFuel line) s
  if (s.txnsOf line).isEmpty then s else { s with held := true }

/-- An eviction of the pod that the home has not served yet is served first (R217). -/
def State.drainEv (s : State) (p : Fin 8) (line : Nat) : State :=
  if (s.evBuf? p line).isSome then (s.evArrive p line).settle line else s

/-- A request made and carried through. Where its home agent has no entry for it (R215), or a transaction of the line has to wait, it
stays at its home agent. -/
def State.transact (s : State) (line : Nat) (req : HomeReq) (from_ : Requester) (tc cls : Nat) : State :=
  let s := s.settle line
  let s := if s.hasEntry (homeIdx line) tc then s else { s with held := true }
  (s.request line req from_ tc cls .good).settle line

/-! ## Accesses of masters that hold no copies (R207) -/

/-- The line of the last answer. -/
def Reply.lineData : Reply → Line × Bool
  | .line _ _ _ d p => (d, p)
  | _ => (0, true)

/-- The line that a request was answered with; where it still waits, the newest contents, with which it will be answered. -/
def State.answerOf (s : State) (line : Nat) : Line × Bool := if s.held then s.peekLine line else s.reply.lineData

/-- RD_PEEK of a line (Table 6.4). -/
def State.homePeek (s : State) (line : Nat) (m : Master) : State × Line × Bool :=
  let s := s.transact line .peek (.master m) (s.masterTc m) (s.masterClass m)
  (s, s.answerOf line)

/-- WR_PUSH of bytes within a line (Table 6.4, R208). -/
def State.homePush (s : State) (line off : Nat) (d : List Byte) (m : Master) : State :=
  s.transact line (.push off d) (.master m) (s.masterTc m) (s.masterClass m)

/-- WR_PUSH of a line with poisoned data: the line carries the poison tag (R502). -/
def State.homePushPoison (s : State) (line off : Nat) (d : List Byte) (m : Master) : State :=
  let s := s.homePush line off d m
  let (x, _) := s.peekLine line
  s.writeHome line (s.masterClass m) (s.masterTc m) x true

/-- HA_ATOMIC (Table 6.4): the old bytes and whether they were poisoned. -/
def State.homeAtomic (s : State) (addr size : Nat) (op : AmoOp) (v cmp : Word) (m : Master) : State × List Byte × Bool :=
  let s := s.transact (addr / 64) (.atomic op (addr % 64) size v cmp) (.master m) (s.masterTc m) (s.masterClass m)
  match s.reply with
  | .bytes b p => (s, b, p)
  | _ => (s, List.replicate size 0, true)

/-! ## The caches of a core -/

/-- Whether a pod's L2 allocates (R210). -/
def State.l2Allocates (s : State) (p : Fin 8) : Bool := s.ev 0x4112 (1 + p.val) != 0

/-- Set the memory type of an L2 line, which decides how its eviction is written (R208). -/
def State.setType (s : State) (p : Fin 8) (line : Nat) (type : MemType) : State :=
  match s.l2? p line with
  | some x => s.putL2 p line { x with type := type }
  | none => s

/-- Largest number of lines an L1 holds (Table 6.1). -/
def l1Lines : Nat := 1024

/-- A line enters a core's L1D, in the place of a victim where it is full; the choice is free. -/
def State.l1Fill (s : State) (c : Fin 32) (line : Nat) : State :=
  let a := s.acore.get c
  if a.l1d.contains line then s
  else
    let (v, s) := if a.l1d.length < l1Lines then (none, s) else s.pick a.l1d
    { s with acore := vmod s.acore c fun a =>
        { a with crc := a.crc.filter (· ≠ (false, line)), l1d := setIns line (match v with
          | some x => setPut x false a.l1d
          | none => a.l1d) } }

/-- A read of an L1 with a CRC mismatch: the line is invalidated, recorded and counted as a transient of the core, to be fetched
again from the L2 (R200, R510); the set is free, since the spec gives no index. -/
def State.l1CrcError (s : State) (c : Fin 32) (instr : Bool) (line : Nat) : State :=
  let (s, n) := s.draw
  let s := { s with acore := vmod s.acore c fun a =>
    if instr then { a with l1i := setPut line false a.l1i } else { a with l1d := setPut line false a.l1d } }
  (s.record (bankPod (podOf c)) 0x01 c.val (b2n (!instr)) (line * 64) (Config.freeNat n)).transientAt 0x01 c.val 0x01

/-- Whether a read of an L1 copy of a line meets a CRC mismatch (R200). -/
def ACore.crcBad (a : ACore) (instr : Bool) (line : Nat) : Bool :=
  (if instr then a.l1i else a.l1d).contains line && a.crc.contains (instr, line)

/-- The contents of a line for a core's load of a cacheable type (Table 6.2, R210): from the L2 where it holds the line,
else fetched by RD_SHARE, or by RD_PEEK where the L2 does not allocate; the L1D takes the line when its miss register is
served (R122), or at once where it is fetched again after a CRC mismatch (R200). -/
def State.loadLine (s : State) (c : Fin 32) (line : Nat) (type : MemType) (ev : ArrayEvent) : State × Line × Bool :=
  let p := podOf c
  let s := (s.settle line).strike ev
  let a := s.acore.get c
  let bad := a.crcBad false line || (ev == .l1Crc && a.l1d.contains line)
  let s := if bad then s.l1CrcError c false line else s
  let s := s.drainEv p line
  let hit := s.l2? p line
  let r : State × ArrayOut := match hit with
    | some x => s.arrayRead ev (bankPod p) p.val x.way line (l2Set line) 0 0x07 x.st.dirty
    | none => (s, .keep)
  let s := r.1
  let s := match r.2 with
    | .refetch => s.evictNow p line
    | .poisoned => match s.l2? p line with
      | some x => s.putL2 p line { x with poison := true }
      | none => s
    | .keep => s
  let again (s : State) : State := if bad && (s.l2? p line).isSome then s.l1Fill c line else s
  match s.l2? p line with
  | some x => (again s, x.data, x.poison || s.fatalBank (bankPod p))
  | none =>
    if s.l2Allocates p then
      let s := s.transact line .share (.pod p) (s.coreTc c) (s.coreClass c)
      let r := s.answerOf line
      (again (s.setType p line type), r)
    else
      let s := s.transact line .peek (.master (.core c)) (s.coreTc c) (s.coreClass c)
      (s, s.answerOf line)

/-- Whether a type is cached in the L2. -/
def memCached : MemType → Bool
  | .wb | .wbNwa | .wt => true
  | .nc | .devS | .devP => false

/-- Read a line of HBM for a core by its memory type (Table 6.2, R206). -/
def State.coreLine (s : State) (c : Fin 32) (line : Nat) (type : MemType) (ev : ArrayEvent) : State × Line × Bool :=
  if memCached type then s.loadLine c line type ev
  else
    let s := s.drainEv (podOf c) line
    s.homePeek line (.core c)

/-- Write bytes into a line that the core's L2 holds in M or E: the line becomes M, and leaves every other L1 of the pod
(R225, Table 6.3), the writer's own L1I among them. A poisoned line stays poisoned (R204). -/
def State.l2Write (s : State) (c : Fin 32) (line off : Nat) (d : List Byte) (type : MemType) (st : L2St) : State :=
  let p := podOf c
  match s.l2? p line with
  | none => s
  | some x =>
    let drop := fun (k : Fin 32) (a : ACore) =>
      if podOf k = p then { a with l1d := if k = c then a.l1d else setPut line false a.l1d, l1i := setPut line false a.l1i } else a
    let s := { s with acore := Vector.ofFn fun k => drop k (s.acore.get k) }
    s.putL2 p line { x with st := st, type := type, data := lineOf (patch (lineBytesOf x.data) off d) }

/-- Make the core's L2 hold a line in M or E, by RD_OWN where it does not (Table 6.2). -/
def State.ownLine (s : State) (c : Fin 32) (line : Nat) : State :=
  let p := podOf c
  let s := (s.settle line).drainEv p line
  match (s.l2? p line).map (·.st) with
  | some L2St.m | some L2St.e => s
  | _ => s.transact line .own (.pod p) (s.coreTc c) (s.coreClass c)

/-- Write bytes within one line of HBM for a core by its memory type (Table 6.2, R210). -/
def State.coreWrite (s : State) (c : Fin 32) (line off : Nat) (d : List Byte) (type : MemType) : State :=
  let p := podOf c
  let s := (s.settle line).drainEv p line
  let push (s : State) : State := s.homePush line off d (.core c)
  let hit := (s.l2? p line).isSome
  match type with
  | .nc | .devS | .devP => push s
  | .wb =>
    if hit || s.l2Allocates p then
      let s := s.ownLine c line
      if (s.l2? p line).isSome then s.l2Write c line off d .wb .m else push s
    else push s
  | .wbNwa => if hit then (s.ownLine c line).l2Write c line off d .wbNwa .m else push s
  | .wt =>
    if hit then
      let s := (s.ownLine c line).l2Write c line off d .wt .e
      let x := (s.l2? p line).map fun x => (x.data, x.poison)
      match x with
      | some (dd, po) => (s.writeHome line (s.coreClass c) (s.coreTc c) dd po).setFilt line p (some .e)
      | none => s
    else push s

/-! ## Maintenance operations (R222, Table 6.6) -/

/-- Every copy of a line in the L1s, L2s and the SLC goes. -/
def State.invalidate (s : State) (line : Nat) : State :=
  let s := (allFin 8).foldl (fun s p => (s.dropL2 p line).setFilt line p none) s
  s.modHome (homeIdx line) fun h => { h with slc := kvDel line h.slc }

/-- DCC: dirty data is written into HBM and every copy stays, clean (Table 6.6). -/
def State.dcc (s : State) (line tc : Nat) : State :=
  let s := s.settle line
  let s := (allFin 8).foldl (fun s p => s.drainEv p line) s
  let holders := (allFin 8).filter fun p => (s.l2? p line).isSome
  let clean (st : L2St) : L2St := if st.dirty then (if holders.length ≤ 1 then .e else .s) else st
  match holders.filter fun p => ((s.l2? p line).map (·.st.dirty)).getD false with
  | p :: _ =>
    match s.l2? p line with
    | some x =>
      let s := s.hbmWrite line x.data x.poison tc
      let s := if (s.slc? line).isSome then s.slcPut line 0 false x.data x.poison else s
      (s.putL2 p line { x with st := clean x.st }).setFilt line p (some (clean x.st))
    | none => s
  | [] =>
    match s.slc? line with
    | some x => if x.dirty then (s.hbmWrite line x.data x.poison tc).slcPut line 0 false x.data x.poison else s
    | none => s

/-- DCCI. -/
def State.dcci (s : State) (line tc : Nat) : State := (s.dcc line tc).invalidate line

/-- DCI: copies go and dirty data with them; the eviction buffers' as well. -/
def State.dci (s : State) (line : Nat) : State :=
  let s := s.settle line
  let drop : EvBuf → EvBuf := fun b => if b.line = line then { b with arrived := true, acked := true } else b
  let s := { s with pod := s.pod.map fun (x : Pod) => { x with ev := x.ev.map drop } }
  s.invalidate line

/-- ICI: the line leaves every L1I. -/
def State.ici (s : State) (line : Nat) : State :=
  { s with acore := s.acore.map fun a => { a with l1i := setPut line false a.l1i } }

/-- ZLINE: the pod's L2 takes the line in M, not read from HBM, with 64 zero bytes and no poison, under the type of its translation
(R208); an L2 that does not allocate pushes the bytes to the home (R210). -/
def State.zline (s : State) (c : Fin 32) (line : Nat) (type : MemType) : State :=
  let p := podOf c
  let s := (s.settle line).drainEv p line
  if (s.l2? p line).isSome || s.l2Allocates p then
    let s := (allFin 8).foldl (fun s q => if q = p then s else (s.dropL2 q line).setFilt line q none) s
    (s.dropL1 p line).l2Install p line .m 0 false type
  else s.homePush line 0 (List.replicate 64 0) (.core c)

/-- The cleaning of an L2 before its domain is switched off (R211). -/
def State.cleanPod (s : State) (p : Fin 8) : State :=
  let s := ((s.pod.get p).ev.map (·.line)).foldl (fun s l => (s.settle l).drainEv p l) s
  let s := ((s.pod.get p).lines.map (·.1)).foldl (fun s l => (s.settle l).evictNow p l) s
  s.modPod p fun q => { q with ev := [] }

end Sys2Proof.Machine
end

