-- ==== Sys2Proof/Machine/HbmOps.lean ====
section
/-! DEFINITION. The commands of the HBM controllers: service, correction, refresh, scrub, row repair, migration and
retraining (R240 to R261). -/
namespace Sys2Proof.Machine

/-- HBM_COMMAND: the controller issues its next command (R240); a read is decoded (R249), a write stored (R248). -/
def execHbmCommand (p : Fin 64) (m : ReadMeets) (wrong : Option PA) (s : State) : Host.Outcome State Fault Refusal :=
  .next (s.hbmServe p m.errs m.sev (wrong.map fun a => a.toNat / 64))

/-- HBM_CORRECTION_WRITEBACK: the oldest corrected line is written back at TC3, and a verify read follows (R250). -/
def execHbmCorrectionWriteback (p : Fin 64) (s : State) : Host.Outcome State Fault Refusal :=
  .next <| if (s.pc.get p).corr.isEmpty then s else match s.ownSlot p with
    | some s => s.writeBack p
    | none => s

/-- HBM_VERIFY_READ at TC3 (R250). -/
def execHbmVerifyRead (p : Fin 64) (m : ReadMeets) (s : State) : Host.Outcome State Fault Refusal :=
  .next <| if (s.pc.get p).verify.isEmpty then s else match s.ownSlot p with
    | some s => s.verifyRead p m.errs m.sev
    | none => s

/-- Whether a TC0 command waits at a bank (R241). -/
def State.tc0Waits (s : State) (p : Fin 64) (sid bank : Nat) : Bool :=
  (s.pc.get p).q.any fun c => c.tc == 0 && (s.place c.line).sid == sid && (s.place c.line).bank == bank

/-- Whether a refresh or RFM command may begin at a bank: no TC0 command waits, or the refresh has reached the
postponement limit of JESD238, which is free here (R241, log entry 2). -/
def State.mayRefresh (s : State) (p : Fin 64) (sid bank : Nat) : State × Bool :=
  if s.tc0Waits p sid bank then ({ s with fresh := s.fresh + 1 }, Config.freeBool s.fresh) else (s, true)

/-- HBM_REFRESH: a per-bank refresh (R241). -/
def execHbmRefresh (p : Fin 64) (sid : Fin 3) (bank : Fin 16) (s : State) : Host.Outcome State Fault Refusal :=
  .next <|
    let (s, go) := s.mayRefresh p sid.val bank.val
    if go then s.modPc p fun x => { x with refreshes := x.refreshes + 1 } else s

/-- HBM_RFM: a refresh-management command (R241). -/
def execHbmRfm (p : Fin 64) (sid : Fin 3) (bank : Fin 16) (s : State) : Host.Outcome State Fault Refusal :=
  .next <|
    let (s, go) := s.mayRefresh p sid.val bank.val
    if go then s.modPc p fun x => { x with rfms := x.rfms + 1 } else s

/-- Lines of a pseudo-channel (Table 7.1). -/
def pcLines : Nat := 0xC00000

/-- The line at a local address of a pseudo-channel: its own, or the one that a hosted chunk holds there (R256). -/
def State.scrubLine (s : State) (p l : Nat) : Nat :=
  let own := unlocate p l / 64
  if l < 0x2E800000 then own
  else match (s.hbm.ret.flatMap (·.moves)).reverse.find? (fun m => m.host == p && m.done) with
    | some m => unlocate m.src (m.chunk * 0x1800000 + l % 0x1800000) / 64
    | none => own

/-- PATROL_SCRUB_READ at TC3: the next line of the patrol is read and decoded; it never overwrites newer data (R253). A
correction of the line under way is finished first. -/
def execPatrolScrubRead (p : Fin 64) (m : ReadMeets) (s : State) : Host.Outcome State Fault Refusal :=
  .next <|
    let x := s.pc.get p
    let line := s.scrubLine p.val (x.scrub % pcLines * 64)
    if x.corr.contains line || x.verify.contains line then s
    else match s.ownSlot p with
      | none => s
      | some s =>
        let s := s.modPc p fun y => { y with scrub := y.scrub + 1 }
        if x.st = .retired then s else (s.hbmRead line m.errs m.sev 1 none).1

/-- Completed patrol passes since reset: of every pseudo-channel (SCRUB_PASSES, Table 7.5). -/
def State.scrubPasses (s : State) : Nat :=
  (s.pc.toList.map fun x => x.scrub / pcLines).foldl min ((s.pc.get 0).scrub / pcLines)

/-- ID of a row in the retirement list (Table 17.8, KIND 0x05). -/
def rowId (p : Fin 64) (row : Nat) : Nat := p.val + row

/-- ROW_REPAIR: the first row asked for is copied, repaired by soft PPR and written back; without a spare row it counts
as unrepairable, and PC_RETIRE_ROWS of those fail the pseudo-channel (R254, R255). -/
def execRowRepair (p : Fin 64) (spareLeft : Bool) (s : State) : Host.Outcome State Fault Refusal :=
  .next <|
    match (s.pc.get p).repair with
    | [] => s
    | r :: rest =>
      let row := r % 2 ^ 26
      let reason := if bit r 26 then 0x11 else 0x06
      let s := s.modPc p fun x => { x with repair := rest, hard := kvDel row x.hard }
      let s := s.addE 0x4003 (1 + p.val) 16 1
      let rowAt (line : Nat) : Bool := let a := s.place line; a.p == p.val && a.rowKey == row
      let line := unlocate p.val ((bits row 7 6) * 2 ^ 28 + (bits row 25 12) * 2 ^ 14 +
        ((bits row 11 8) ^^^ (bits row 15 12)) * 2 ^ 10)
      if spareLeft then
        let s := { s with hbm := { s.hbm with errs := s.hbm.errs.filter fun e => !rowAt e.1 } }
        (s.record (bankHbm p) 0x06 p.val (bits row 11 8) line (bits row 25 12)).retireEntry 0x05 reason (rowId p row)
      else
        let s := s.modPc p fun x => { x with unrepairable := x.unrepairable + 1 }
        let s := s.retireEntry 0x06 reason (rowId p row)
        if s.ev 0x4000 0x13 ≤ (s.pc.get p).unrepairable then s.pcFail p reason (s.dmOpsOn p) else s

/-- The lines of a pseudo-channel's chunk. -/
def inChunk (src chunk line : Nat) : Bool := let a := locate (line * 64); a.p == src && chunkOf a.l == some chunk

/-- Lines with errors of a chunk that is copied: an uncorrectable one is copied in poison form, any other with fresh check
bytes (R258). -/
def State.copyErrs (s : State) (src chunk : Nat) : State :=
  (s.hbm.errs.filter fun e => inChunk src chunk e.1).foldl (fun s e =>
    match rsClassify ((if s.storedPoison e.1 then rsPoison else []) ++ e.2) with
    | .uncorrectable | .address => s.storeLine e.1 (applyErrs (s.stored e.1) e.2) true
    | _ => s.storeLine e.1 (s.stored e.1) (s.storedPoison e.1)) s

/-- Mark the first move of a list that is not done. -/
def markFirst : List Move → List Move
  | [] => []
  | m :: r => if m.done then m :: markFirst r else { m with done := true } :: r

/-- Commands that wait for lines of a chunk follow it from the pseudo-channel that served it to its host, in their order: a
write accepted during the copy was made to both (R258). -/
def State.moveQueue (s : State) (src chunk : Nat) (host_ : Fin 64) : State :=
  let x := s.pc.get (s.pcOf ((unlocate src (chunk * 0x1800000)) / 64))
  let mine := x.q.filter fun c => inChunk src chunk c.line
  let fix := x.corr.filter (inChunk src chunk)
  let ver := x.verify.filter (inChunk src chunk)
  let s := s.modPc (s.pcOf ((unlocate src (chunk * 0x1800000)) / 64)) fun y =>
    { y with q := y.q.filter fun c => !inChunk src chunk c.line, corr := y.corr.filter fun l => !inChunk src chunk l,
             verify := y.verify.filter fun l => !inChunk src chunk l }
  s.modPc host_ fun y => { y with q := y.q ++ mine, corr := y.corr ++ fix, verify := y.verify ++ ver }

/-- MIGRATION_CHUNK_DONE: one chunk of a retirement has been copied and is switched to its host in one step; after the
last the pseudo-channel is retired (R256, R258). -/
def execMigrationChunkDone (p : Fin 64) (s : State) : Host.Outcome State Fault Refusal :=
  .next <|
    match s.hbm.ret.find? fun r => r.pc == p.val && r.moves.any (!·.done) with
    | none => s
    | some r =>
      match r.moves.find? (!·.done) with
      | none => s
      | some m =>
        let s := (s.copyErrs m.src m.chunk).moveQueue m.src m.chunk (fin 63 m.host)
        let r' := { r with moves := markFirst r.moves }
        let s := { s with hbm := { s.hbm with ret := s.hbm.ret.map fun (x : Retirement) => if x.pc = p.val then r' else x } }
        let s := State.modPc s (fin 63 m.host) fun x => if x.st = PcState.normal then { x with st := .hosting } else x
        if r'.moves.all (·.done) then s.modPc p fun x => { x with st := .retired } else s

/-- HBM_RETRAINING: more than 16 commands met parity errors within 1 ms; the count is free (R261, log entry 2). -/
def execHbmRetraining (p : Fin 64) (s : State) : Host.Outcome State Fault Refusal :=
  .next <|
    if (s.pc.get p).retraining then s
    else
      let (s, n) := s.draw
      (s.modPc p fun x => { x with retraining := true }).record (bankHbm p) 0x05 p.val 0 0 (17 + Config.freeNat n)

/-- HBM_RETRAINING_DONE: commands are served again; errors that persist fail the pseudo-channel (R255, R261). -/
def execHbmRetrainingDone (p : Fin 64) (persist : Bool) (s : State) : Host.Outcome State Fault Refusal :=
  .next <|
    if (s.pc.get p).retraining then
      let s := s.modPc p fun x => { x with retraining := false, retrained := true }
      if persist then s.pcFail p 0x05 (s.dmOpsOn p) else s
    else s

end Sys2Proof.Machine
end

