-- ==== Sys2Proof/Machine/Access.lean ====
section
/-! DEFINITION. Who may access what on the mesh: worlds and partitions of masters (Table 10.1, R328), ranges and husk
ranges (R325, R338, R339), the address map (Table 1.2, R19 to R26, R543), error responses (Table 1.4, R31, R32), and
reads and writes of memory by masters. -/
namespace Sys2Proof.Machine

/-! ## Worlds and partitions of masters -/

/-- Partitions in order. -/
def parts : List Nat := List.range 64

/-- The partition that holds a Data Mover channel (Table 10.9). -/
def State.dmPart (s : State) (n : Nat) : Option Nat := parts.find? fun p => bit (s.ev (0x3100 + p) 7) n
/-- The partition that holds a VI. -/
def State.viPart (s : State) (v : Nat) : Option Nat := parts.find? fun p => bit (s.ev (0x3100 + p) (8 + v / 64)) (v % 64)
/-- The partition that holds a root port. -/
def State.pciePart (s : State) (k : Nat) : Option Nat := parts.find? fun p => bit (s.ev (0x3100 + p) 0xC) k
/-- Whether a partition is Secure. -/
def State.partSecure (s : State) (p : Nat) : Bool := s.ev (0x3100 + p) 2 != 0

/-- The partition that a master acts for. -/
def State.masterPart (s : State) : Master → Option Nat
  | .core c => s.corePart c
  | .gateway v => s.viPart v.val
  | .dm n => s.dmPart n.val
  | .pcie k => s.pciePart k.val
  | .debug _ p => p.map (·.val)
  | .island _ | .smc | .flowEngine => none

/-- Whether a master's transactions are Secure (Table 10.1). -/
def State.masterSecure (s : State) : Master → Bool
  | .core c => (s.acore.get c).secure
  | .island _ | .smc | .flowEngine => true
  | .debug sec _ => sec
  | .gateway v => ((s.viPart v.val).map s.partSecure).getD true
  | .dm n => ((s.dmPart n.val).map s.partSecure).getD true
  | .pcie k => ((s.pciePart k.val).map s.partSecure).getD true

/-- Whether a master is an A-core. -/
def Master.isCore' : Master → Bool
  | .core _ => true
  | _ => false

/-! ## Ranges -/

/-- Base of a range value (R351). -/
def rangeBase (v : Nat) : Nat := bits v 43 16 * 2 ^ 16
/-- Size of a range value in bytes. -/
def rangeSize (v : Nat) : Nat := bits v 63 44 * 2 ^ 16
/-- Whether a valid range holds an address. -/
def rangeHas (v a : Nat) : Bool := bit v 0 && decide (rangeBase v ≤ a ∧ a < rangeBase v + rangeSize v)
/-- Whether a valid range holds n bytes from an address on. -/
def rangeHolds (v a n : Nat) : Bool := bit v 0 && decide (rangeBase v ≤ a ∧ a + n ≤ rangeBase v + rangeSize v)
/-- Whether two valid ranges overlap. -/
def rangesMeet (v w : Nat) : Bool :=
  bit v 0 && bit w 0 && decide (rangeBase v < rangeBase w + rangeSize w ∧ rangeBase w < rangeBase v + rangeSize v)

/-- Whether an address lies in a SECURE_RANGE (R325). -/
def State.inSecureRange (s : State) (a : Nat) : Bool := (List.range 8).any fun k => rangeHas (s.ev 0x3000 (0x10 + k)) a

/-- Whether a husk's ranges are husk ranges (R336). -/
def HuskSt.closed : HuskSt → Bool
  | .sealing | .valid | .clearing => true
  | .free | .loading => false

/-- Whether a husk's valid ranges hold an address. -/
def Husk.holds (h : Husk) (a : Nat) : Bool := h.range.toList.any fun r => rangeHas r.toNat a

/-- The husk whose range holds an address (R336). -/
def State.huskAt (s : State) (a : Nat) : Option Nat :=
  (s.husk.find? fun e => e.2.st.closed && e.2.holds a).map (·.1)

/-- One husk. -/
def State.huskGet (s : State) (h : Nat) : Husk := kvGet Husk.init s.husk h
/-- Write one husk. -/
def State.huskPut (s : State) (h : Nat) (x : Husk) : State := { s with husk := kvSet Husk.init h x s.husk }

/-- The husk that a core executes inside. -/
def ACore.inHusk (a : ACore) : Option Nat := if a.hk then a.husk.map (·.husk) else none

/-- Whether DMA_RANGE entries of a partition permit an access (R328). -/
def State.dmaOk (s : State) (p a n : Nat) (write : Bool) : Bool :=
  (List.range 8).any fun k =>
    let v := s.ev (0x3100 + p) (0x10 + k)
    rangeHolds v a n && (!write || bit v 1)

/-! ## The address map (Table 1.2) -/

/-- What an address selects. -/
inductive Region where
  | hbm | carve | spare
  | tcm (i : Fin 4) (slot : Fin 4) (data : Bool) (off : Nat)
  | shared (i : Fin 4) (off : Nat)
  | rom | smcSram | secSram | regs | ecam | pcie | hole
  deriving DecidableEq, Repr

/-- Decode of an offset within an island window (R24). -/
def islandRegion (i : Fin 4) (off : Nat) : Region :=
  if 0x800000 ≤ off ∧ off < 0xA00000 then .shared i (off % 0x800000)
  else if off < 0x400000 then
    let slot := fin 3 (off / 0x100000)
    let o := off % 0x100000
    if o < 0x40000 then .tcm i slot false o
    else if 0x80000 ≤ o ∧ o < 0xC0000 then .tcm i slot true (o % 0x80000)
    else .hole
  else .hole

/-- Decode of a physical address (Table 1.2, R22 to R24). -/
def State.region (s : State) (a : Nat) : Region :=
  if a < Config.carveOut then .hbm
  else if a < Config.spareBase then .carve
  else if a < Config.hbmEnd then (if s.hbm.spare then .hole else .spare)
  else if 0x0E000000000 ≤ a ∧ a < 0x0E004000000 then islandRegion (fin 3 (a / 0x1000000)) (a % 0x1000000)
  else if 0x0E800000000 ≤ a ∧ a < 0x0E800040000 then .rom
  else if 0x0E800100000 ≤ a ∧ a < 0x0E800200000 then .smcSram
  else if 0x0E800200000 ≤ a ∧ a < 0x0E800300000 then .secSram
  else if 0x0F000000000 ≤ a ∧ a < 0x0F100000000 then .regs
  else if 0x10000000000 ≤ a ∧ a < 0x10010000000 then .ecam
  else if 0x10010000000 ≤ a ∧ a < 0x20000000000 then .pcie
  else .hole

/-- Types that a region permits (R20); the SMC's accesses carry none (R543). -/
def Region.permits : Region → MemType → Bool
  | .hbm, _ | .spare, _ => true
  | .carve, _ => false
  | .tcm _ _ _ _, t | .shared _ _, t | .pcie, t => t == .nc || t == .devS || t == .devP
  | .secSram, t => t == .nc || t == .devS
  | .regs, t => t == .devS || t == .devP
  | .ecam, t => t == .devS
  | .rom, _ | .smcSram, _ | .hole, _ => true

/-- Whether the region belongs to the device's memory that `mem` holds. -/
def Region.isHbm : Region → Bool
  | .hbm | .spare | .carve => true
  | _ => false

/-- Power domain of a region (R33, Table 16.1); the regions' register blocks have their own. -/
def Region.domain : Region → Option (Fin 64)
  | .tcm i _ _ _ => some ⟨40 + i.val, by omega⟩
  | .shared i _ => some ⟨40 + i.val, by omega⟩
  | .ecam | .pcie => some 55
  | _ => none

/-- Whether a domain is on: one that is gated keeps its registers with its clocks stopped (R476), and answers as one that is off
(DESIGN CHOICE, log entry 78). -/
def State.domOn (s : State) (d : Fin 64) : Bool := (s.hazel.doms.get d).cur == .on

/-- Whether a core slot takes mesh writes into its TCMs (R25). -/
def State.tcmOpen (s : State) (i : Fin 4) (slot : Fin 4) : Bool :=
  let x := s.island.get i
  x.st == .held || x.st == .notReleased || (x.slots.get slot).role != .active

/-- Blocks of 64 KiB at the top of the shared SRAM that the Normal world may reach (NORMAL_SRAM, Table 8.11). -/
def State.normalShared (s : State) (i : Fin 4) (off : Nat) : Bool :=
  decide (0x200000 - s.ev (0x5000 + i.val) 3 * 0x10000 ≤ off)

/-- Whether the debug port's accesses are permitted in the world and partition that the debugger selects, as invasive debug is; without
a partition only the world's enable counts (R347). -/
def State.debugMay (s : State) : Master → Bool
  | .debug sec p => s.ev 0x3300 (if sec then 1 else 3) != 0 && (p.map fun p => bit (s.ev 0x3300 5) p.val).getD true
  | _ => true

/-- Whether a world may reach a region (Table 1.2); `m` narrows the boot ROM and the SMC SRAM (R543). -/
def State.worldOk (s : State) (r : Region) (m : Master) : Bool :=
  let sec := s.masterSecure m
  s.debugMay m && match r with
  | .rom | .smcSram => m == .smc
  | .tcm _ _ _ _ | .secSram => sec
  | .shared i off => sec || s.normalShared i off
  | _ => true

/-- What confines a Normal master that is not a core (R328). -/
def State.confined (s : State) (m : Master) (a n : Nat) (write : Bool) (r : Region) : Bool :=
  if s.masterSecure m then true
  else match m with
  | .core _ => true
  | .debug _ _ => true
  | _ =>
    match s.masterPart m with
    | some p => r.isHbm && s.dmaOk p a n write
    | none => true

/-- The error response to an access within one line that reaches no register block, none where it is carried out
(Table 1.4; where two apply, the order is that of log entry 23). The type is none for an access that carries none. -/
def State.accessErr (s : State) (m : Master) (t : Option MemType) (a n : Nat) (write : Bool) : Option Resp :=
  let r := s.region a
  if r = .hole then some .decerr
  else if r = .carve then (if m = .flowEngine then none else some .typerr)
  else if !s.worldOk r m then some .wlderr
  else if !s.confined m a n write r then some .wlderr
  else if r.isHbm && !s.masterSecure m && s.inSecureRange a then some .wlderr
  else if m ≠ .smc ∧ (t.map fun t => !r.permits t).getD false = true then some .typerr
  else if (r.domain.map fun d => !s.domOn d).getD false then some .offerr
  else match r with
    | .rom => if write then some .typerr else none
    | .tcm i slot _ _ => if write && !s.tcmOpen i slot then some .typerr else none
    | _ => none

/-- Whether a husk range refuses a master that is not a core (R339), or a request that a core makes from outside. -/
def State.huskRefuses (s : State) (m : Master) (husk : Option Nat) (a : Nat) : Bool :=
  match s.huskAt a with
  | none => false
  | some h => match m with
    | .core _ => husk != some h
    | _ => true

/-- Number of a response in a record (Table 17.7). -/
def respCode : Resp → Nat
  | .decerr => 1 | .wlderr => 2 | .typerr => 3 | .offerr => 4 | .sizerr => 5

/-- The stop that decodes an address (R13, Table 1.3): a reserved address, and the spare region in spare mode, count as decoded by the
SMC's stop 29 (DESIGN CHOICE, log entry 79). -/
def State.decodeStop (s : State) (a : Nat) : Nat :=
  match s.region a with
  | .hbm | .carve | .spare => stopSlice (sliceOf a)
  | .tcm i _ _ _ | .shared i _ => stopIsland i
  | .ecam | .pcie => 5
  | .regs =>
    let o := a % 0x100000000
    if 0x04000000 ≤ o ∧ o < 0x05000000 then stopSlice (o / 0x100000 % 16)
    else if 0x05000000 ≤ o ∧ o < 0x06000000 then stopSlice (o / 0x100000 % 16)
    else if 0x0A000000 ≤ o ∧ o < 0x0B000000 then 28
    else if 0x10000000 ≤ o ∧ o < 0x20000000 then 4
    else if 0x20000000 ≤ o ∧ o < 0x30000000 then stopIsland (fin 3 (o / 0x4000000))
    else if 0x30000000 ≤ o ∧ o < 0x38000000 then stopPod (fin 7 (o / 0x1000000))
    else if 0x40000000 ≤ o ∧ o < 0x50000000 then 5
    else 29
  | _ => 29

/-- Blocks whose every access gets its error response synchronously: those capable of DMA (R32). -/
def masterDma : Master → Bool
  | .dm _ | .gateway _ | .flowEngine | .pcie _ => true
  | .core _ | .island _ | .smc | .debug _ _ => false

/-- The error response of a posted write is recorded in the mesh bank with code 0x20 (R32, Table 17.7). -/
def State.postedError (s : State) (m : Master) (a : Nat) (r : Resp) : State :=
  s.record bankMesh 0x20 (s.decodeStop a) (stopOf m) a (respCode r)

/-- The home agent's refusal of a request for a husk range: code 0x22 in the slice's bank (R339). -/
def State.huskRecord (s : State) (m : Master) (a : Nat) : State :=
  match s.huskAt a with
  | some h => s.record (bankSlice (homeIdx (a / 64))) 0x22 (sliceOf a) (stopOf m) a h
  | none => s

/-! ## Memory outside the register space -/

/-- The parts of n bytes from an address on, one for each line (R119, R542). -/
def lineParts : Nat → Nat → Nat → List (Nat × Nat)
  | 0, _, _ => []
  | k + 1, a, n =>
    if n = 0 then []
    else
      let here := min n (64 - a % 64)
      (a, here) :: lineParts k (a + here) (n - here)

/-- The parts of n bytes from an address on. -/
def partsOf (a n : Nat) : List (Nat × Nat) := lineParts (n / 64 + 2) a n

/-- The 8-byte words that hold n bytes. -/
def wordsOf (a n : Nat) : List Nat := (List.range ((a % 8 + n + 7) / 8)).map fun k => (a / 8 + k) * 8

/-- Whether a TCM or shared-SRAM word among n bytes holds an uncorrectable error (R25, R276). -/
def State.eccBad (s : State) (a n : Nat) : Bool := (wordsOf a n).any fun w => (kvGet? s.ecc w).getD false

/-- What the array of an island's memory meets at the word that holds p, or an upset of another word: a second single-bit
error of a word is uncorrectable (R276). -/
def State.eccEvent (s : State) (p : Nat) (ev : ArrayEvent) : State :=
  let w := p / 8 * 8
  match ev with
  | .single => if (kvGet? s.ecc w).isSome then s else { s with ecc := kvPut w false s.ecc }
  | .multi => { s with ecc := kvPut w true s.ecc }
  | .upset q => { s with ecc := kvPut (q / 8 * 8) (kvGet? s.ecc (q / 8 * 8)).isSome s.ecc }
  | .good | .l1Crc | .tag | .upsetL1 _ _ _ => s

/-- One word of island i's memory is read: a single-bit error is corrected, written back and recorded (R276). -/
def State.eccWord (i : Fin 4) (unit a arr : Nat) (s : State) (w : Nat) : State :=
  if kvGet? s.ecc w = some false then ({ s with ecc := kvDel w s.ecc }).record (bankIsland i) 0x02 unit 0 a arr else s

/-- The words of n bytes from p on are read. -/
def State.eccFix (s : State) (i : Fin 4) (unit a p n arr : Nat) : State :=
  (wordsOf p n).foldl (State.eccWord i unit a arr) s

/-- The corrections of a mesh read of a TCM or of the shared SRAM (R25, R276). -/
def State.eccMesh (s : State) (a n : Nat) : State :=
  match s.region a with
  | .tcm i k _ _ => s.eccFix i k.val a a n 2
  | .shared i _ => s.eccFix i 0 a a n 3
  | _ => s

/-- The packets of a read that leaves the master's stop: the request, and the answer with n bytes. -/
def State.meshRead (s : State) (m : Master) (a n : Nat) : State :=
  if stopOf m = s.decodeStop a then s
  else (s.send (stopOf m) (s.masterTc m) 0).send (s.decodeStop a) (s.masterTc m) n

/-- The packets of a write that leaves the master's stop: the request with n bytes, and the answer. -/
def State.meshWrite (s : State) (m : Master) (a n : Nat) : State :=
  if stopOf m = s.decodeStop a then s
  else (s.send (stopOf m) (s.masterTc m) n).send (s.decodeStop a) (s.masterTc m) 0

/-- What an access of n bytes to the PCIe space becomes on the link (R23): the fields of a configuration address are those of the PCIe
Base specification's enhanced configuration mechanism (PRESUMED, log entry 80). -/
def linkReq (a n : Nat) (d : Option (List Byte)) : LinkReq :=
  if a < 0x10010000000 then .cfg (bits a 27 20) (bits a 19 15) (bits a 14 12) (bits a 11 0) n d else .mem (a - 0x10000000000) n d

/-- Read bytes within one line for a master that holds no copies: data and poison. A read of an uncorrectable word is
poisoned (R25); what a PCIe device returns is free (log entry 2). -/
def State.memRead (s : State) (m : Master) (a n : Nat) : State × List Byte × Bool :=
  match s.region a with
  | .hbm | .carve | .spare =>
    let (s, d, p) := s.homePeek (a / 64) m
    (s, slice (lineBytesOf d) (a % 64) n, p)
  | .tcm _ _ _ _ | .shared _ _ => ((s.meshRead m a n).eccMesh a n, Memory.read s.mem a n, s.eccBad a n)
  | .ecam | .pcie =>
    ({ s.meshRead m a n with fresh := s.fresh + 1, pcieOut := some (linkReq a n none) }, slice (Config.freeBytes s.fresh) 0 n, false)
  | _ => (s.meshRead m a n, Memory.read s.mem a n, false)

/-- A write to a TCM or shared-SRAM word: a word written whole holds no error any more, and a corrected one none either;
one with an uncorrectable error written in part keeps it (R276). -/
def State.eccWrite (s : State) (a n : Nat) : State :=
  { s with ecc := (wordsOf a n).foldl (fun e w =>
      if (a ≤ w ∧ w + 8 ≤ a + n) ∨ kvGet? e w = some false then kvDel w e else e) s.ecc }

/-- The tag of each 16-byte granule that a write touches is cleared (R26, R92). -/
def State.clearTags (s : State) (a n : Nat) : State :=
  { s with tags := s.tags.filter fun g => !(decide (a < g + 16 ∧ g < a + n)) }

/-- Write bytes within one line for a master that holds no copies. What a PCIe write does beyond the link is not the
device's. -/
def State.memWrite (s : State) (m : Master) (a : Nat) (d : List Byte) (poison : Bool) : State :=
  match s.region a with
  | .hbm | .carve | .spare =>
    if poison then s.homePushPoison (a / 64) (a % 64) d m else s.homePush (a / 64) (a % 64) d m
  | .tcm _ _ _ _ | .shared _ _ | .secSram | .smcSram =>
    { ((s.meshWrite m a d.length).eccWrite a d.length).clearTags a d.length with mem := Memory.write s.mem a d }
  | .ecam | .pcie => { s.meshWrite m a d.length with pcieOut := some (linkReq a d.length (some d)) }
  | _ => s

/-- Whether a master that is not a core may make an access within one line: the map, the isolation tables and the husk
ranges (R31, R328, R339). The accesses of these masters carry no memory type, so that none of R20 refuses them (DESIGN CHOICE, log
entry 81); the register space, which they reach otherwise, is refused here by TYPERR. -/
def State.dmaErr (s : State) (m : Master) (a n : Nat) (write : Bool) : Option Resp :=
  match s.accessErr m none a n write with
  | some r => some r
  | none => if s.region a = .regs then some .typerr else if s.huskRefuses m none a then some .wlderr else none

/-- Read any number of bytes for such a master: none where a part is refused, else the bytes and whether any is
poisoned. -/
def State.dmaRead (s : State) (m : Master) (a n : Nat) : State × Option (List Byte × Bool) :=
  let ps := partsOf a n
  if ps.any fun p => (s.dmaErr m p.1 p.2 false).isSome then (s, none)
  else
    let r := ps.foldl (fun (acc : State × List Byte × Bool) p =>
      let (s, d, po) := acc.1.memRead m p.1 p.2
      (s, acc.2.1 ++ d, acc.2.2 || po)) (s, [], false)
    (r.1, some r.2)

/-- Write bytes for such a master; false where a part is refused, the other parts being written (R542). -/
def State.dmaWrite (s : State) (m : Master) (a : Nat) (d : List Byte) : State × Bool :=
  (partsOf a d.length).foldl (fun (acc : State × Bool × Nat) p =>
    let s := acc.1
    match s.dmaErr m p.1 p.2 true with
    | some _ => (s, false, acc.2.2 + p.2)
    | none => (s.memWrite m p.1 (slice d acc.2.2 p.2) false, acc.2.1, acc.2.2 + p.2)) (s, true, 0) |> fun r => (r.1, r.2.1)

end Sys2Proof.Machine
end

