-- ==== Sys2Proof/Machine/Envelope.lean ====
section
/-! DEFINITION. The envelope's checks: port ceilings (R423), CAN checks (R424), island outputs (R425, R426), and its
reports (R428). -/
namespace Sys2Proof.Machine

/-! ## Reports -/

/-- Source 52 is asserted while ENV_VIOL_STAT AND ENV_VIOL_EN is non-zero (R428). -/
def State.envLine (s : State) : State := s.setLine 52 (s.env.stat &&& s.env.en != 0)

/-- A violation: bit k of ENV_VIOL_STAT, captured where the register was zero (R428, Table 13.4). -/
def State.violation (s : State) (k res id : Nat) : State :=
  let e := s.env
  let e := if e.stat = 0 then
      { e with first := word (k + 1 + res % 256 * 256 + id % 2 ^ 29 * 2 ^ 16), firstTime := s.time }
    else e
  { s with env := { e with stat := e.stat ||| BitVec.ofNat 6 (2 ^ k) } }.envLine

/-- Count in an envelope counter, which wraps at 2^32 (R429). -/
def State.countWrap (s : State) (idx sub : Nat) : State := s.setE idx sub ((s.ev idx sub + 1) % 2 ^ 32)

/-! ## Ethernet ports (R423) -/

/-- Byte bucket of a port after refilling, in 1/8,000,000 byte. -/
def State.portBucket (s : State) (n : Fin 24) : Nat :=
  let r := (s.env.ports.get n).toNat
  let p := s.gw.ports.get n
  min (bits r 55 32 * 8000000) (p.bucket + (s.time - p.bucketAt) * bits r 31 0)

/-- Check a frame of len bytes that is about to start: whether it proceeds (R422, R423). -/
def State.portCheck (s : State) (n : Fin 24) (len : Nat) : State × Bool :=
  let r := (s.env.ports.get n).toNat
  if bits r 31 0 = 0xFFFFFFFF then (s, true)
  else
    let b := s.portBucket n
    let put (s : State) (v : Nat) : State :=
      { s with gw := { s.gw with ports := vmod s.gw.ports n fun p => { p with bucket := v, bucketAt := s.time } } }
    if bits r 31 0 ≠ 0 ∧ len * 8000000 ≤ b then (put s (b - len * 8000000), true)
    else (((put s b).countWrap 0x7002 (1 + n.val)).violation 0 n.val 0, false)

/-! ## CAN channels (R424) -/

/-- Class of a frame in the allow-list. -/
def allowClass (f : BusFrame) : Nat := if f.fmt = .xl then 2 else if f.ext then 1 else 0

/-- Index of the allow-list entry that a frame matches on a channel. -/
def State.allowEntry (s : State) (n : Fin 24) (f : BusFrame) : Option Nat :=
  let r := (s.env.can.get n).toNat
  ((List.range (bits r 33 21)).map (bits r 20 8 + ·)).find? fun k =>
    match s.env.allow[k]? with
    | some w => bits w.toNat 28 0 == f.id.toNat && bits w.toNat 30 29 == allowClass f
    | none => false

/-- The frame bucket of an allow-list entry after refilling, in 10^-9 frame; channels whose ranges share the entry share it. -/
def State.idBucket (s : State) (k : Nat) : Nat :=
  let w := ((s.env.allow[k]?).getD 0).toNat
  let full := bits w 55 48 * 1000000000
  match kvGet? s.env.buckets k with
  | some (lv, at_) => min full (lv + (s.time - at_) * bits w 47 32)
  | none => full

/-- The outcome of the envelope's checks on a frame before an attempt. -/
inductive CanCheck where
  | go | drop | hold
  deriving DecidableEq, Repr

/-- Bus time of the channel's own attempts in the preceding 100 ms. -/
def State.ownBusTime (s : State) (n : Fin 24) : Nat :=
  ((s.gw.can.get n).busy.map fun e =>
    let from_ := max e.1 (s.time - 100000000)
    if from_ < e.2 then e.2 - from_ else 0).foldl (· + ·) 0

/-- The first two checks of R424 and then the load check; `longest` is the longest time of the frame, `checked` whether
it has passed the first two, `held` whether its hold has been counted. -/
def State.canCheck (s : State) (n : Fin 24) (f : BusFrame) (longest : Nat) (checked held : Bool) : State × CanCheck :=
  let r := (s.env.can.get n).toNat
  let first : State × Bool :=
    if checked ∨ bit r 7 then (s, true)
    else match s.allowEntry n f with
      | none => ((s.countWrap 0x7005 (1 + n.val)).violation 1 n.val f.id.toNat, false)
      | some k =>
        let b := s.idBucket k
        if 1000000000 ≤ b then
          ({ s with env := { s.env with buckets := kvPut k (b - 1000000000, s.time) s.env.buckets } }, true)
        else ((s.countWrap 0x7006 (1 + n.val)).violation 2 n.val f.id.toNat, false)
  match first with
  | (s, false) => (s, .drop)
  | (s, true) =>
    let cap := bits r 6 0 * 1000000
    if bits r 6 0 = 100 then (s, .go)
    else
    let s' := if held then s else (s.countWrap 0x7007 (1 + n.val)).violation 3 n.val f.id.toNat
    if cap < longest then (s', .drop)
    else if cap < s.ownBusTime n + longest then (s', .hold)
    else (s, .go)

/-! ## Island outputs (R317, R319, R425, R426) -/

/-- Word 0 of an output's record. -/
def State.outRec (s : State) (i : Fin 4) (n : Fin 16) : Nat × Nat :=
  let r := s.env.outs.get ⟨16 * i.val + n.val, by omega⟩
  (r.1.toNat, r.2.toNat)

/-- The safe value of an output; every output is low until the envelope is locked (R317). -/
def State.safeDrive (s : State) (i : Fin 4) (n : Fin 16) : Drive :=
  if !s.env.locked then .low
  else match bits (s.outRec i n).1 1 0 with
    | 1 => .high
    | 2 => .z
    | _ => .low

/-- duty(safe) of R426. -/
def dutySafe : Drive → Nat
  | .high => 1024
  | _ => 0

/-- Change one output of an island. -/
def State.modPin (s : State) (i : Fin 4) (n : Fin 16) (f : OutPin → OutPin) : State :=
  { s with island := vmod s.island i fun x => { x with pins := vmod x.pins n f } }

/-- One output of an island. -/
def State.pin (s : State) (i : Fin 4) (n : Fin 16) : OutPin := (s.island.get i).pins.get n

/-- Drive an output to its safe value (R316, R319, R425). -/
def State.pinSafe (s : State) (i : Fin 4) (n : Fin 16) : State :=
  let d := s.safeDrive i n
  s.modPin i n fun p => { p with drive := d, prev := dutySafe d, running := false }

/-- Drive every output of an island to its safe value. -/
def State.pinsSafe (s : State) (i : Fin 4) : State := (allFin 16).foldl (fun s n => s.pinSafe i n) s

/-- Whether an output is held by R319 (HS_HELD). -/
def State.hsHeld (s : State) (i : Fin 4) (n : Fin 16) : Bool := bit (s.ev (0x5100 + i.val) 0xD) n.val

/-- A clip of an output: CLIPS counts and a violation is reported (R425, R426). -/
def State.clip (s : State) (i : Fin 4) (n : Fin 16) (k : Nat) : State :=
  (s.countWrap (0x7014 + i.val) (1 + n.val)).violation k (16 * i.val + n.val) 0

/-- A period start of a PWM output (R426). -/
def State.pwmPeriod (s : State) (i : Fin 4) (n : Fin 16) : State :=
  let o := s.pin i n
  let (w0, w1) := s.outRec i n
  let period := o.per.toNat
  if period = 0 then s.pinSafe i n
  else
    let d := min 1024 (o.duty.toNat * 1024 / period)
    let p := min (max period (bits w1 23 0)) (bits w1 47 24)
    let c := min (max d (bits w0 18 8)) (bits w0 29 19)
    let s := if c ≠ d ∨ p ≠ period then s.clip i n 5 else s
    let step := bits w0 40 30
    let v := min (max c (o.prev - step)) (o.prev + step)
    let s := if v ≠ c then s.countWrap (0x7018 + i.val) (1 + n.val) else s
    s.modPin i n fun q => { q with drive := .pwm p (v * p / 1024), prev := v, running := true }

/-- Apply an output's registers at the pin (R425), where nothing holds the pin at its safe value. A running waveform takes
a new period or duty at its next period start. A mode or level that is not permitted counts where a write of OUT_CTL_n names
it (`ctl`). -/
def State.applyPin (s : State) (i : Fin 4) (n : Fin 16) (ctl : Bool) : State :=
  let refuse (s : State) : State := if ctl then (s.pinSafe i n).clip i n 4 else s.pinSafe i n
  let o := s.pin i n
  let (w0, _) := s.outRec i n
  if !(s.island.get i).released || s.hsHeld i n then s
  else if bits o.ctl.toNat 1 0 = 1 then
    if !bit w0 4 then refuse s
    else if o.running then s
    else s.pwmPeriod i n
  else
    let lvl := o.ctl.getLsbD 2
    if bit w0 3 && bit w0 (if lvl then 6 else 5) then
      s.modPin i n fun q => { q with drive := if lvl then .high else .low, running := false }
    else refuse s

/-- PWM_PERIOD_START: a period of an output with a waveform begins (R426). -/
def execPwmPeriodStart (i : Fin 4) (n : Fin 16) (s : State) : Host.Outcome State Fault Refusal :=
  .next <|
    if (s.pin i n).running && (s.island.get i).released && !s.hsHeld i n then s.pwmPeriod i n else s

/-! ## Registers of the envelope block (Table 13.4) -/

/-- Read a register of the envelope block. -/
def State.envRead (s : State) (off : Nat) : Option Word :=
  match off with
  | 0x00 => some (word (b2n s.env.locked))
  | 0x08 => some (s.env.stat.setWidth 64)
  | 0x10 => some (s.env.en.setWidth 64)
  | 0x18 => some s.env.first
  | 0x20 => some (word s.env.firstTime)
  | _ => none

/-- W1C of ENV_VIOL_STAT; at zero the capture no longer holds, and what ENV_FIRST and ENV_FIRST_TIME then read is free
(R428, log entry 2), but for the reserved bits of ENV_FIRST, which read zero. -/
def State.envClear (s : State) (v : Word) : State :=
  let st := s.env.stat &&& ~~~(v.setWidth 6)
  let e := { s.env with stat := st }
  if st = 0 ∧ s.env.stat ≠ 0 then
    ({ s with env := { e with first := (Config.freeWord s.fresh).setWidth 45 |>.setWidth 64, firstTime := Config.freeNat s.fresh }, fresh := s.fresh + 1 }).envLine
  else ({ s with env := e }).envLine

/-- ENV_VIOL_STAT: a write by a master; the block is Secure (R28, R428). -/
def execEnvViolStat (m : Master) (v : Word) (s : State) : Host.Outcome State Fault Refusal :=
  .next <| if s.masterSecure m then s.envClear v else { s with reply := .error .wlderr }

end Sys2Proof.Machine
end

