-- ==== Sys2Proof/Machine/Vi.lean ====
section
/-! DEFINITION. Virtual interfaces: their interrupt, descriptor reads and errors (R384), final statuses (R385, R386) and the
delivery of frames and bus records to queue pairs (R383, R396). -/
namespace Sys2Proof.Machine

/-- Whether the switch core, which holds the host ports, is on (Table 16.1). -/
def State.switchOn (s : State) : Bool := s.domOn 50

/-- A VI as a master. -/
def viMaster (v : Nat) : Master := .gateway (fin 255 v)

/-! ## The interrupt of a VI (R385) -/

/-- Source 192 + v: asserted while VI_IRQ_STAT AND VI_IRQ_EN is non-zero, and IRQ_MOD does not hold it back. -/
def State.viLine (s : State) (v : Nat) : State :=
  let x := s.vi v
  let any := x.stat &&& x.en != 0
  let x' := if any then x else { x with modArmed := false, modOpen := false }
  (s.putVi v x').setLine (192 + v) (any && (!x'.modArmed || x'.modOpen))

/-- Set a bit of VI_IRQ_STAT; `md` is the IRQ_MOD that governs the bit. The first pending bit with a moderation starts it;
a bit without one ends it (R385). -/
def State.setViBit (s : State) (v bitNo md : Nat) : State :=
  let x := s.vi v
  let first := x.stat &&& x.en == 0
  let x := { x with stat := x.stat ||| BitVec.ofNat 35 (2 ^ bitNo) }
  let x := if md = 0 then { x with modOpen := true } else if first then { x with modArmed := true, modOpen := false } else x
  (s.putVi v x).viLine v

/-- IRQ_MOD of a queue pair (Table 11.14). -/
def State.irqMod (s : State) (v : Nat) (q : Fin 16) : Nat := s.qpEnt v q 5

/-- VI_IRQ_STAT: W1C by a master that may reach the VI's page (R381). -/
def State.viClear (s : State) (v : Nat) (val : Word) : State :=
  let x := s.vi v
  (s.putVi v { x with stat := x.stat &&& ~~~(val.setWidth 35) }).viLine v

/-- Whether a master may reach the page of a VI: the Secure world, or the partition that holds it (R381). -/
def State.mayVi (s : State) (m : Master) (v : Nat) : Bool :=
  s.masterSecure m || ((s.viPart v).isSome && s.masterPart m == s.viPart v)

/-! ## Queue pairs -/

/-- A queue pair. -/
def State.qp (s : State) (v : Nat) (q : Fin 16) : Qp := (s.vi v).qps.get q

/-- Whether a queue pair is in service: enabled, and no write of 0 to QP_ENABLE waits (R386). -/
def State.qpOn (s : State) (v : Nat) (q : Fin 16) : Bool :=
  s.ev (0x6300 + v) 1 != 0 && s.qpEnt v q 4 != 0 && (s.qp v q).stopBy.isNone

/-- A descriptor error stops the queue pair: QP_ENABLE 0, QERR, a CONT record and a ledger event (R384, Table 17.9). -/
def State.qpStop (s : State) (v : Nat) (q : Fin 16) (idx addr : Nat) : State :=
  let s := s.setE (0x6300 + v) (0x14 + 8 * q.val) 0
  let s := s.setViBit v 33 0
  let s := s.record bankGw 0x2C v q.val addr idx
  let word0 := 0x2C + 2 * 256 + v * 2 ^ 16 + q.val * 2 ^ 24 + 2 ^ 32
  s.ledgerEvent 45 addr word0 (s.txOps false)

/-- Advance a head past every leading index with a final status. -/
def headPast (tail : BitVec 16) (done : List Nat) : Nat → BitVec 16 → BitVec 16
  | 0, h => h
  | n + 1, h => if h ≠ tail ∧ done.contains h.toNat then headPast tail done n (h + 1) else h

/-- Indices between a head and its tail, which are the only ones whose statuses still count. -/
def keepDone (head tail : BitVec 16) (done : List Nat) : List Nat := done.filter fun i => (ringIdx head tail).contains i

/-- Write part of a descriptor; an error response stops the queue pair (R384). -/
def State.descWrite (s : State) (v : Nat) (q : Fin 16) (idx addr off : Nat) (d : List Byte) : State × Bool :=
  match s.dmaWrite (viMaster v) (addr + off) d with
  | (s, true) => (s, true)
  | (s, false) => (s.qpStop v q idx addr, false)

/-- The final status of a transmit descriptor, with its timestamp where TS asks for one (R382, R385). -/
def State.txComplete (s : State) (v : Nat) (q : Fin 16) (idx code : Nat) (ts : Option Nat) : State :=
  let a := s.txAddr v q idx
  let r := match ts with
    | some t => s.descWrite v q idx a 0x10 (toBytes 8 t)
    | none => (s, true)
  match r with
  | (s, false) => s
  | (s, true) =>
    match s.descWrite v q idx a 0x0F [BitVec.ofNat 8 code] with
    | (s, false) => s
    | (s, true) =>
      let s := s.modQp v q fun x =>
        let done := x.done ++ [idx]
        let h := headPast x.txTail done done.length x.txHead
        { x with prog := x.prog.filter (·.idx ≠ idx), txHead := h, done := keepDone h x.txTail done }
      s.setViBit v q.val (s.irqMod v q)

/-- One copy of a VI's frame has ended or was discarded with a code; with the last copy the descriptor completes, with
the code of a discarded copy where there is one (R385, log entry 25). -/
def State.txCopyEnd (s : State) (r : TxRef) (code : Nat) : State :=
  let q := fin 15 r.qp
  match (s.qp r.vi q).prog.find? (·.idx == r.idx) with
  | none => s
  | some p =>
    let p := { p with left := p.left - 1, bad := if code = 1 then p.bad else some code }
    let s := s.modQp r.vi q fun x => { x with prog := x.prog.map fun y => if y.idx = r.idx then p else y }
    if p.left = 0 then s.txComplete r.vi q r.idx (p.bad.getD 1) (if r.ts ∧ p.bad = none then some p.time else none) else s

/-- A frame of a VI has begun on a port or a bus at a time. -/
def State.txBegun (s : State) (r : TxRef) : State :=
  s.modQp r.vi (fin 15 r.qp) fun x =>
    { x with prog := x.prog.map fun y => if y.idx = r.idx then { y with begun := true, time := s.time } else y }

/-! ## Delivery to a queue pair (R383, R396) -/

/-- Deliver a frame or bus record to a queue pair. -/
def State.deliver (s : State) (v : Nat) (q : Fin 16) (it : RxItem) : State :=
  if it.bus != s.busMode v q then s.addE 0x6500 9 32 1
  else
    let x := s.qp v q
    let posted := (x.rxTail - x.rxHead).toNat - x.rxDone.length
    if !s.qpOn v q || posted ≤ x.rx.length then s.addE (0x6300 + v) 0xB 32 1
    else s.modQp v q fun x => { x with rx := x.rx ++ [it] }

/-- The next receive index that has no frame yet. -/
def Qp.rxNext (x : Qp) : Nat :=
  ((ringIdx x.rxHead x.rxTail).find? fun i => !x.rxDone.contains i).getD x.rxHead.toNat

/-- The final status of a receive descriptor (R385). -/
def State.rxComplete (s : State) (v : Nat) (q : Fin 16) (idx code : Nat) : State :=
  let a := s.rxAddr v q idx
  match s.descWrite v q idx a 0x0F [BitVec.ofNat 8 code] with
  | (s, false) => s
  | (s, true) =>
    let s := s.modQp v q fun x =>
      let done := x.rxDone ++ [idx]
      let h := headPast x.rxTail done done.length x.rxHead
      { x with rxHead := h, rxDone := keepDone h x.rxTail done }
    s.setViBit v (16 + q.val) (s.irqMod v q)

/-- RX_DESCRIPTOR_FILL: the oldest frame delivered to a queue pair fills the oldest posted descriptor (R383, R385). -/
def execRxDescriptorFill (v : Fin 256) (q : Fin 16) (s : State) : Host.Outcome State Fault Refusal :=
  .next <| s.served fun s =>
    let x := s.qp v.val q
    match x.rx with
    | [] => s
    | it :: rest =>
      if !s.qpOn v.val q || !s.switchOn then s
      else
        let idx := x.rxNext
        let a := s.rxAddr v.val q idx
        let s := s.modQp v.val q fun y => { y with rx := rest }
        match s.dmaRead (viMaster v.val) a 32 with
        | (s, none) => s.qpStop v.val q idx a
        | (s, some (_, true)) => (s.record bankGw 0x13 4 v.val a 0).qpStop v.val q idx a
        | (s, some (d, false)) =>
          let buf := ofBytes (slice d 0 8)
          let size := ofBytes (slice d 8 2)
          let fits := decide (it.bytes.length ≤ size)
          match s.dmaWrite (viMaster v.val) buf (it.bytes.take size) with
          | (s, false) => s.rxComplete v.val q idx 0x84
          | (s, true) =>
            let w := it.bytes.length % 2 ^ 16 + it.port % 32 * 2 ^ 16 + it.kind % 8 * 2 ^ 21 + it.handle % 2 ^ 20 * 2 ^ 24
            match s.descWrite v.val q idx a 8 (toBytes 7 w) with
            | (s, false) => s
            | (s, true) =>
              match s.descWrite v.val q idx a 0x10 (toBytes 8 it.time) with
              | (s, false) => s
              | (s, true) =>
                let s := s.rxComplete v.val q idx (if fits then 0x81 else 0x82)
                s.addE (0x6300 + v.val) 0xA 64 1

/-! ## Doorbells (R384) -/

/-- A discarded doorbell: OVERRUN is set and DOORBELL_ERR counts. -/
def State.doorbellLost (s : State) (v : Nat) : State := (s.setViBit v 32 0).addE (0x6300 + v) 0xC 32 1

/-- A write to TX_TAIL. -/
def State.txTailWrite (s : State) (v : Nat) (q : Fin 16) (val : BitVec 16) : State :=
  let x := s.qp v q
  if !s.qpOn v q || s.qpEnt v q 1 < (val - x.txHead).toNat then s.doorbellLost v
  else s.modQp v q fun y => { y with txTail := val }

/-- A write to RX_TAIL. -/
def State.rxTailWrite (s : State) (v : Nat) (q : Fin 16) (val : BitVec 16) : State :=
  let x := s.qp v q
  if !s.qpOn v q || s.qpEnt v q 3 < (val - x.rxHead).toNat then s.doorbellLost v
  else s.modQp v q fun y => { y with rxTail := val }

/-- A write to a VI's page: WLDERR for a Normal master that does not hold it (R381). VIs take doorbells while the switch core is
off (R353, log entry 47). -/
def State.viPage (s : State) (m : Master) (v : Nat) (f : State → State) : State :=
  if s.mayVi m v then f s else { s with reply := .error .wlderr }

/-- TX_TAIL: a doorbell (R384). -/
def execTxTail (m : Master) (v : Fin 256) (q : Fin 16) (val : Word) (s : State) : Host.Outcome State Fault Refusal :=
  .next (s.viPage m v.val fun s => s.txTailWrite v.val q (val.setWidth 16))

/-- RX_TAIL: a doorbell (R384). -/
def execRxTail (m : Master) (v : Fin 256) (q : Fin 16) (val : Word) (s : State) : Host.Outcome State Fault Refusal :=
  .next (s.viPage m v.val fun s => s.rxTailWrite v.val q (val.setWidth 16))

/-- VI_IRQ_STAT: W1C (Table 11.7). -/
def execViIrqStat (m : Master) (v : Fin 256) (val : Word) (s : State) : Host.Outcome State Fault Refusal :=
  .next (s.viPage m v.val fun s => s.viClear v.val val)

/-- IRQ_MOD_EXPIRY: the moderation of a VI has passed and its source is asserted (R385). -/
def execIrqModExpiry (v : Fin 256) (s : State) : Host.Outcome State Fault Refusal :=
  .next <|
    let x := s.vi v.val
    if x.modArmed then (s.putVi v.val { x with modOpen := true }).viLine v.val else s

/-- Registers of a VI's page (Table 11.7). -/
def State.viRead (s : State) (v off : Nat) : Option Word :=
  let x := s.vi v
  if off = 0x8000 then some (x.stat.setWidth 64)
  else if off = 0x8008 then some (x.en.setWidth 64)
  else if off < 0x1000 then
    let y := x.qps.get (fin 15 (off / 0x100))
    match off % 0x100 with
    | 0x00 => some (y.txTail.setWidth 64)
    | 0x08 => some (y.txHead.setWidth 64)
    | 0x10 => some (y.rxTail.setWidth 64)
    | 0x18 => some (y.rxHead.setWidth 64)
    | _ => none
  else none

end Sys2Proof.Machine
end

