-- ==== Sys2Proof/Machine/Bus.lean ====
section
/-! DEFINITION. Bus frames: keys and records (Tables 12.3 and 12.4), conversion (R398 to R402), the transmit queues of CAN
channels and the response buffers of LIN channels (R408, R411), encapsulation windows (R403 to R405) and the parsing of
IEEE 1722 frames (R406, R407). -/
namespace Sys2Proof.Machine

/-! ## Keys and records -/

/-- Class byte of a BUS key (Table 12.3). -/
def busClass (f : BusFrame) : Nat :=
  match f.fmt with
  | .lin => 4
  | .xl => 3
  | _ => if f.ext then 2 else 1

/-- BUS key of a frame on a bus (Table 12.3). -/
def busKey (b : Nat) (f : BusFrame) : List Byte :=
  let id := match f.fmt with
    | .lin => f.id.toNat % 64
    | .xl => f.id.toNat % 2 ^ 11
    | _ => if f.ext then f.id.toNat else f.id.toNat % 2 ^ 11
  let xl := f.fmt == .xl
  [5, BitVec.ofNat 8 b] ++ toBytes 4 id ++ [BitVec.ofNat 8 (busClass f), BitVec.ofNat 8 (b2n f.rtr),
    if xl then f.sdt else 0, if xl then f.vcid else 0] ++ List.replicate 14 0

/-- FORMAT code of a bus record (Table 12.4). -/
def fmtCode : BusFmt → Nat
  | .cc => 1 | .fd => 2 | .xl => 3 | .lin => 4

/-- A received frame as a bus record (Table 12.4). -/
def busRecord (b : Nat) (f : BusFrame) (time : Nat) : List Byte :=
  let xl := f.fmt == .xl
  let w0 := b + fmtCode f.fmt * 2 ^ 8 + b2n f.ext * 2 ^ 11 + b2n f.brs * 2 ^ 12 + b2n f.esi * 2 ^ 13 +
    b2n f.rtr * 2 ^ 14 + b2n f.classic * 2 ^ 15 + (if xl then f.sdt.toNat * 2 ^ 16 + f.vcid.toNat * 2 ^ 24 else 0)
  let len := if f.rtr then f.dlc else f.data.length
  toBytes 8 w0 ++ toBytes 8 (f.id.toNat + len * 2 ^ 32) ++ toBytes 8 time ++
    toBytes 8 (if xl then f.af.toNat else 0) ++ (if f.rtr then [] else f.data)

/-- Payload lengths of an FD frame (ISO 11898-1). -/
def fdLengths : List Nat := [0, 1, 2, 3, 4, 5, 6, 7, 8, 12, 16, 20, 24, 32, 48, 64]

/-- Whether a channel's MODE admits a format (Table 12.9). -/
def State.admits (s : State) (n : Fin 24) (f : BusFmt) : Bool :=
  let m := s.ev (0x6400 + n.val) 2
  match f with
  | .cc => true
  | .fd => decide (1 ≤ m)
  | .xl => decide (2 ≤ m)
  | .lin => false

/-- A transmit bus record read from a buffer: the bus and the frame; none where a zero field is not zero or a length or
format is not one of R397. -/
def parseRecord (len : Nat) (b : List Byte) : Option (Nat × BusFrame) :=
  let w0 := ofBytes (slice b 0 8)
  let w1 := ofBytes (slice b 8 8)
  let w2 := ofBytes (slice b 16 8)
  let w3 := ofBytes (slice b 24 8)
  let dl := bits w1 43 32
  let rtr := bit w0 14
  let data := if rtr then [] else slice b 32 dl
  let zeros := decide (bits w0 63 32 = 0 ∧ bit w0 13 = false ∧ bit w0 15 = false ∧ bits w1 31 29 = 0 ∧
    bits w1 63 44 = 0 ∧ w2 = 0 ∧ bits w3 63 32 = 0)
  let fmt? : Option BusFmt := match bits w0 10 8 with
    | 1 => some .cc
    | 2 => some .fd
    | 3 => some .xl
    | 4 => some .lin
    | _ => none
  match fmt? with
  | none => none
  | some fmt =>
    let lenOk := match fmt with
      | .cc => decide (dl ≤ 8)
      | .fd => fdLengths.contains dl
      | .lin => decide (dl ≤ 8 ∧ bits w1 28 0 ≤ 0x3F)
      | .xl => decide (1 ≤ dl ∧ dl ≤ 2048)
    let rtrOk := !rtr || fmt == .cc
    let total := 32 + (if rtr then 0 else dl)
    if zeros && lenOk && rtrOk && len == total then
      some (bits w0 7 0, ⟨fmt, bit w0 11, BitVec.ofNat 29 w1, rtr, bit w0 12, false, false, dl, BitVec.ofNat 8 (bits w0 23 16),
        BitVec.ofNat 8 (bits w0 31 24), BitVec.ofNat 32 w3, data⟩)
    else none

/-! ## CAN transmit queues (R408, R414) -/

/-- Change a CAN channel. -/
def State.modCan (s : State) (n : Fin 24) (f : Can → Can) : State := { s with gw := { s.gw with can := vmod s.gw.can n f } }
/-- Change a LIN channel. -/
def State.modLin (s : State) (m : Fin 12) (f : Lin → Lin) : State := { s with gw := { s.gw with lin := vmod s.gw.lin m f } }

/-- Whether the CAN/LIN bank is on (Table 16.1). -/
def State.bankOn (s : State) : Bool := s.domOn 51

/-- Whether a channel refuses frames: bus-off or not enabled (R414). -/
def State.canDown (s : State) (n : Fin 24) : Bool :=
  (s.gw.can.get n).st == .busOff || s.ev (0x6400 + n.val) 1 == 0 || (s.gw.can.get n).stopping

/-- A frame removed from a channel's queue without having been sent: a VI record completes with a code, any other counts
in TX_DISCARDS (R413, R414). -/
def State.canDiscard (s : State) (n : Fin 24) (t : TxBus) (code : Nat) : State :=
  match t.ref with
  | some r => s.txCopyEnd r code
  | none => s.addE (0x6400 + n.val) 0x19 32 1

/-- Entries of a channel's queue, the frame whose attempt runs included. -/
def Can.held (c : Can) : List TxBus := c.q ++ (match c.attempt with
  | some t => [t]
  | none => [])

/-- Put a routed, copied or decapsulated frame, or a message of the DAP agent, into a channel's transmit queue (R408). -/
def State.canRoute (s : State) (n : Fin 24) (f : BusFrame) : State :=
  if !s.bankOn then s.addE 0x6500 8 32 1
  else
    let t : TxBus := ⟨f, none, none, 0, false, false, false⟩
    if s.canDown n then s.canDiscard n t 0x11
    else if 64 ≤ (s.gw.can.get n).held.length then s.addE (0x6400 + n.val) 0x18 32 1
    else s.modCan n fun c => { c with q := c.q ++ [t] }

/-- Records of VIs in a channel's queue. -/
def Can.viCount (c : Can) : Nat := (c.held.filter (·.ref.isSome)).length

/-! ## LIN response buffers (R411) -/

/-- Write a response buffer; a VI's record that it replaces before it was sent completes with 0x13. A buffer whose
response is being sent is not that record's any more: it applies to the next header. -/
def State.linBuffer (s : State) (m : Fin 12) (id : Nat) (d : List Byte) (ref : Option TxRef) : State :=
  let old := kvGet? (s.gw.lin.get m).bufs id
  let s := s.modLin m fun l => { l with bufs := if d.isEmpty ∧ ref.isNone then kvDel id l.bufs else kvPut id (d, ref) l.bufs }
  match old with
  | some (_, some r) => s.txCopyEnd r 0x13
  | _ => s

/-! ## Conversion (R398 to R401) -/

/-- Pad a payload to the next valid FD length (R399). -/
def padFd (d : List Byte) : List Byte :=
  let n := (fdLengths.find? (d.length ≤ ·)).getD d.length
  d ++ List.replicate (n - d.length) 0

/-- The copy that ROUTE_CAN makes of a frame, none where it cannot be expressed (R399). -/
def routeFrame (txFmt : Nat) (keep : Bool) (newId : Nat) (f : BusFrame) : Option BusFrame :=
  let ext := if keep then f.fmt != .lin && f.ext else decide (newId / 2 ^ 11 ≠ 0)
  let id : BitVec 29 := if keep then (if f.fmt = .lin then BitVec.ofNat 29 (f.id.toNat % 64) else f.id) else BitVec.ofNat 29 newId
  let base : BusFrame := { f with ext := ext, id := id, esi := false, classic := false }
  let cc : Option BusFrame := if f.data.length ≤ 8 then some { base with fmt := .cc, brs := false } else none
  let fd (brs : Bool) : Option BusFrame :=
    if f.rtr then none
    else
      let d := padFd f.data
      some { base with fmt := .fd, brs := brs, data := d, dlc := d.length }
  if f.fmt = .xl then (if txFmt = 0 ∧ ext = false then some base else none)
  else match txFmt with
  | 0 => if f.fmt = .fd then fd f.brs else cc
  | 1 => cc
  | 2 => fd false
  | 3 => fd true
  | _ => none

/-- A frame that a conversion drops (CONV_DROPS). -/
def State.convDrop (s : State) : State := s.addE 0x6500 8 32 1

/-- Send copies of a frame to a set of channels (R399). -/
def State.routeCan (s : State) (chans txFmt : Nat) (keep : Bool) (newId : Nat) (f : BusFrame) : State :=
  ((allFin 24).filter fun n => bit chans n.val).foldl (fun s n =>
    match routeFrame txFmt keep newId f with
    | some g => if s.admits n g.fmt then s.canRoute n g else s.convDrop
    | none => s.convDrop) s

/-- Write a frame's payload into a LIN response buffer (R400). -/
def State.routeLin (s : State) (m : Fin 12) (id : Nat) (f : BusFrame) : State :=
  if 8 < f.data.length ∨ f.rtr ∨ ¬ s.bankOn then s.convDrop
  else s.linBuffer m id f.data none

/-! ## ACF messages and windows (R403 to R405) -/

/-- The ACF message of a bus frame (R403; the layout is that of IEEE 1722-2016, log entry 26). -/
def acfMessage (b : Nat) (f : BusFrame) (ts : Bool) (time : Nat) : List Byte :=
  let data := if f.rtr then [] else f.data
  let pad := (4 - data.length % 4) % 4
  let body := data ++ List.replicate pad 0
  let isLin := f.fmt == .lin
  let typ := if isLin then 3 else if ts then 1 else 2
  let tsBytes := if isLin ∨ ts then toBytesBE 8 (if ts then time else 0) else []
  let hdr2 := if isLin then 4 else 8
  let quad := (hdr2 + tsBytes.length + body.length) / 4
  let fdf := f.fmt == .fd
  let flags := if isLin then pad * 64 + b2n ts * 32 + b % 32
    else (pad * 64 + b2n ts * 32 + b2n f.rtr * 16 + b2n f.ext * 8 + b2n f.brs * 4 + b2n fdf * 2 + b2n f.esi) * 256 + b % 32
  toBytesBE 2 (typ * 512 + quad) ++
    (if isLin then [BitVec.ofNat 8 flags, BitVec.ofNat 8 (f.id.toNat % 64)]
     else toBytesBE 2 flags) ++ tsBytes ++
    (if isLin then [] else toBytesBE 4 f.id.toNat) ++ body

/-- Change a stream's window. -/
def State.modWin (s : State) (k : Fin 64) (f : Window → Window) : State := { s with gw := { s.gw with win := vmod s.gw.win k f } }

/-- Close a window: its messages await the building of their frame (R404, R405). -/
def Window.close (w : Window) : Window :=
  match w.openAt with
  | some t => { w with openAt := none, msgs := [], built := w.built ++ [(t, w.msgs)] }
  | none => w

/-- Append a message to the stream's window (R404). -/
def State.appendMsg (s : State) (k : Fin 64) (msg : List Byte) : State :=
  let e (sub : Nat) : Nat := s.ev (0x6510 + k.val) sub
  let w := s.gw.win.get k
  let full := decide (e 9 < (w.msgs.map (·.length)).foldl (· + ·) 0 + msg.length)
  let w := if w.openAt.isSome && full then w.close else w
  let w := { w with openAt := some (w.openAt.getD s.time), msgs := w.msgs ++ [msg] }
  let w := if e 8 ≤ w.msgs.length then w.close else w
  (s.modWin k fun _ => w).addE 0x6500 2 64 1

/-- ENCAP (R401). -/
def State.encap (s : State) (k : Fin 64) (b : Nat) (f : BusFrame) (time : Nat) (copy : Nat) : State :=
  let s := if s.ev (0x6510 + k.val) 1 = 0 then s.convDrop
    else s.appendMsg k (acfMessage b f (s.ev (0x6510 + k.val) 0xB != 0) time)
  s.routeCan copy 0 true 0 f

/-- ENCAP_WINDOW_TIMEOUT: TIMEOUT ns have passed since a window opened (R404). -/
def execEncapWindowTimeout (k : Fin 64) (s : State) : Host.Outcome State Fault Refusal :=
  .next (s.modWin k Window.close)

/-- The conversion of a bus frame by its context's template (R398 to R401). -/
def State.convert (s : State) (t : Nat) (b : Nat) (f : BusFrame) (time : Nat) : State :=
  match bits t 2 0 with
  | 1 => s.encap (fin 63 (bits t 8 3)) b f time (bits t 55 32)
  | 3 => s.routeCan (bits t 60 37) (bits t 5 3) (bit t 6) (bits t 36 8) f
  | 4 => if bits t 17 14 < 12 then s.routeLin (fin 11 (bits t 17 14)) (if bit t 6 then f.id.toNat % 64 else bits t 13 8) f else s
  | _ => s

/-! ## Taking ACF frames apart (R406, R407) -/

/-- A message of an ACF frame: type and its bytes from its first byte on. -/
def acfSplit : Nat → List Byte → Option (List (Nat × List Byte))
  | 0, _ => some []
  | n + 1, l =>
    if l.isEmpty then some []
    else
      let h := ofBytesBE (slice l 0 2)
      let len := 4 * (h % 512)
      if len = 0 ∨ l.length < len then none
      else match acfSplit n (l.drop len) with
        | some r => some ((h / 512, l.take len) :: r)
        | none => none

/-- The bus frame of an accepted message, with its bus number and receive time; none for a message that is skipped
(R406, R407). -/
def acfFrame (typ : Nat) (m : List Byte) (now : Nat) : Option (Nat × BusFrame × Nat) :=
  let b2 := (slice m 2 1 |>.headD 0).toNat
  let b3 := (slice m 3 1 |>.headD 0).toNat
  let pad := b2 / 64
  let mtv := bit b2 5
  let cut (l : List Byte) : List Byte := l.take (l.length - pad)
  if typ = 3 then
    let time := if mtv then ofBytesBE (slice m 4 8) else now
    let d := cut (m.drop 12)
    some (b2 % 32, ⟨.lin, false, BitVec.ofNat 29 (b3 % 64), false, false, false, false, d.length, 0, 0, 0, d⟩, time)
  else if typ = 1 ∨ typ = 2 then
    let off := if typ = 1 then 12 else 4
    let time := if typ = 1 ∧ mtv then ofBytesBE (slice m 4 8) else now
    let id := ofBytesBE (slice m off 4) % 2 ^ 29
    let rtr := bit b2 4
    let ext := bit b2 3
    let fdf := bit b2 1
    let d := if rtr then [] else cut (m.drop (off + 4))
    if ¬ ext ∧ 0x7FF < id then none
    else some (b3 % 32, ⟨if fdf then .fd else .cc, ext, BitVec.ofNat 29 id, rtr, bit b2 2 && fdf, bit b2 0, false, d.length, 0, 0, 0, d⟩, time)
  else none

/-- Parse an Ethernet frame from its EtherType on: the bytes of its messages, none where it is rejected (R406). -/
def avtpData (rest : List Byte) : Option (List Byte) :=
  if ofBytesBE (slice rest 0 2) ≠ 0x22F0 then none
  else
    let a := rest.drop 2
    let sub := (slice a 0 1 |>.headD 0).toNat
    let ver := (slice a 1 1 |>.headD 0).toNat / 16 % 8
    let (hdr, len) := if sub = 0x82 then (12, ofBytesBE (slice a 1 2) % 2048) else (24, ofBytesBE (slice a 20 2))
    if (sub ≠ 0x82 ∧ sub ≠ 0x05) ∨ ver ≠ 0 ∨ a.length < hdr + len then none
    else some (slice a hdr len)

end Sys2Proof.Machine
end

