-- ==== Sys2Proof/Machine/DapSend.lean ====
section
/-! DEFINITION. What the DAP agent sends (R444, R445, R447, R449), and how the outcome of a dictionary request reaches
its requester (R443, R448, R454). -/
namespace Sys2Proof.Machine

/-- Change the DAP agent. -/
def State.modDap (s : State) (f : Dap → Dap) : State := { s with dap := f s.dap }

/-- The key of a slot (Table 14.8). -/
def State.dapKey (s : State) (k : Fin 8) : List Byte := slice (s.eb 0xA001 (1 + k.val)) 0 16

/-- NODE_ID. -/
def State.nodeId (s : State) : Nat := s.ev 0xA000 1

/-- The first 16 bytes and the body of a PDU (Table 14.4). -/
def Pdu.head (p : Pdu) : List Byte :=
  toBytes 1 (1 + 16 * p.key.val + 128 * b2n p.resp) ++ toBytes 1 p.service ++ toBytes 2 p.dst ++ toBytes 2 p.src ++
    toBytes 2 p.txn ++ toBytes 2 (p.seg % 4096 + 4096 * b2n p.more) ++ toBytes 2 p.body.length ++ toBytes 4 p.fresh ++ p.body

/-- The MAC of a PDU's bytes: the leftmost 64 bits of the CMAC over DOMAIN_ID and them (R444). -/
def State.dapMac (s : State) (k : Fin 8) (b : List Byte) : List Byte :=
  (cmac (s.dapKey k) (toBytes 2 (s.ev 0xA000 2) ++ b)).take 8

/-- A seed-store write (SEED_WRITES, Table 15.2). -/
def State.seedWrite (s : State) : State := s.addE 0x1002 2 64 1

/-- The next FRESH of a key slot; the end of a new block of 65,536 is stored before its first value is used (R445). What
follows the largest value is not stated: a free value. -/
def State.nextFresh (s : State) (k : Fin 8) : State × Nat :=
  let old := s.dap.txFresh.get k
  let (s, v) := if old + 1 < 2 ^ 32 then (s, old + 1) else
    ({ s with fresh := s.fresh + 1 }, Config.freeNat s.fresh % 2 ^ 32)
  let s := s.modDap fun d => { d with txFresh := vset d.txFresh k v }
  if s.dap.txEnd.get k < v then
    (s.seedWrite.modDap fun d => { d with txEnd := vset d.txEnd k ((v / 65536 + 1) * 65536) }, v)
  else (s, v)

/-- Put the bytes of a PDU onto its transport (Table 14.5): a CAN message enters the channel's transmit queue, or leaves
by Hazel's own transmitter while the CAN/LIN bank is off (R447). -/
def State.dapEmit (s : State) (tr : Transport) (dst : Nat) (b : List Byte) : State :=
  let s := s.modDap fun d => { d with out := d.out ++ [⟨tr, b⟩] }
  match tr with
  | .canFd n =>
    let d := padFd b
    let id := s.ev 0xA000 4 * 2 ^ 22 + dst * 2 ^ 11 + s.nodeId
    if s.bankOn then s.canRoute n ⟨.fd, true, BitVec.ofNat 29 id, false, true, false, false, d.length, 0, 0, 0, d⟩ else s
  | .canXl n =>
    let af := dst + s.nodeId * 2 ^ 16
    if s.bankOn then
      s.canRoute n ⟨.xl, false, BitVec.ofNat 29 (s.ev 0xA000 5), false, false, false, false, b.length,
        BitVec.ofNat 8 (s.ev 0xA000 6), 0, BitVec.ofNat 32 af, b⟩
    else s
  | .udp => s

/-- Send one PDU; a node without a NODE_ID sends nothing (R446). -/
def State.dapSend (s : State) (p : Pdu) : State :=
  if s.nodeId = 0 then s
  else
    let (s, f) := s.nextFresh p.key
    let h := { p with fresh := f, src := s.nodeId }.head
    s.dapEmit p.tr p.dst (h ++ s.dapMac p.key h)

/-- Body bytes of one segment (Table 14.5). -/
def segCap : Transport → Nat
  | .canFd _ => 40 | .canXl _ => 2024 | .udp => 1400

/-- The k-th segment of a body. -/
def segBody (tr : Transport) (body : List Byte) (k : Nat) : List Byte := (body.drop (k * segCap tr)).take (segCap tr)

/-- Segments of a body. -/
def segCount (tr : Transport) (body : List Byte) : Nat := max 1 ((body.length + segCap tr - 1) / segCap tr)

/-- Send the segments of a response from k on, up to the next one that waits for an ACK (R449). -/
def State.sendBurst (s : State) (t : DapTxn) (k : Nat) : State :=
  let n := segCount t.tr t.body
  ((List.range 8).map (k / 8 * 8 + ·)).foldl (fun s j =>
    if k ≤ j ∧ j < n then
      s.dapSend ⟨t.key, t.service, t.src, 0, t.txn, j, decide (j + 1 < n), 0, segBody t.tr t.body j, true, t.tr⟩
    else s) s

/-- Whether a transaction is a source's with a number. -/
def DapTxn.is (t : DapTxn) (src txn : Nat) : Bool := t.src == src && t.txn == txn

/-- Answer a request, in segments where the body is longer than one holds (R448, R449); nothing answers a broadcast
WRITE (R452). -/
def State.dapAnswer (s : State) (p : Pdu) (body : List Byte) : State :=
  let n := segCount p.tr body
  let s := s.modDap fun d => { d with txns := d.txns.filter fun t => !t.is p.src p.txn }
  if n ≤ 1 then s.dapSend ⟨p.key, p.service, p.src, 0, p.txn, 0, false, 0, body, true, p.tr⟩
  else
    let t : DapTxn := ⟨p.src, p.txn, p.key, p.tr, p.service, min 8 n, body, true, s.time⟩
    (s.modDap fun d => { d with txns := d.txns ++ [t] }).sendBurst t 0

/-- The body of a response that carries a status and a detail (R448). -/
def statusBody (st detail : Nat) : List Byte := toBytes 4 st ++ toBytes 4 detail

/-- EPOCH (Table 14.8). -/
def State.epoch (s : State) : Nat := s.ev 0xA010 3

/-- Detail of a status (Table 14.2, R455, R457). -/
def State.detail (s : State) (st : Nat) : Nat := if st = 8 ∨ st = 0xC ∨ st = 0xD then s.epoch else 0

/-- Source 34 is asserted while DONE AND EN is 1 in any page (R443). -/
def State.mailLine (s : State) : State := s.setLine 34 (s.mail.toList.any fun p => p.done && p.irqEn)

/-- Change a mailbox page. -/
def State.modMail (s : State) (p : Fin 64) (f : MailPage → MailPage) : State := { s with mail := vmod s.mail p f }

/-- The outcome of a mailbox command is known (R443). -/
def State.mailDone (s : State) (p : Fin 64) (st : Nat) : State :=
  (s.modMail p fun m => { m with busy := false, done := true, status := BitVec.ofNat 8 st }).mailLine

/-- The mailbox page of a window requester (R442). -/
def winPage : Master → Option (Fin 64)
  | .core c => some ⟨c.val, by omega⟩
  | .island i => some ⟨32 + i.val, by omega⟩
  | .smc => some 36
  | _ => none

/-- The outcome of a requester's last window access stands in STATUS of its WIN_STATUS (R441). -/
def State.winDone (s : State) (m : Master) (st : Nat) : State :=
  match winPage m with
  | some p => s.modMail p fun x => { x with win := (x.win &&& ~~~0xFF) ||| BitVec.ofNat 64 st, writing := false }
  | none => s

/-- A DAP WRITE was applied (R454): `e` is the entry that its body names. -/
def State.dapWritten (s : State) (p : Pdu) : State :=
  let e := ofBytes (p.body.take 2) * 256 + ofBytes (slice p.body 2 1)
  (s.setE 0xA000 0xB (e + p.src * 2 ^ 24)).pulse 54

/-- Tell a requester the outcome of its write (R443, R448, R452, R454). -/
def State.complete (s : State) (a : Asker) (st : Nat) : State :=
  let s := { s with reply := .status st }
  match a.q, a.pdu with
  | .loc (.mailbox p) _, _ => s.mailDone p st
  | .loc .window m, _ => s.winDone m st
  | _, some p =>
    let s := if st = 0 ∧ p.service = 2 then s.dapWritten p else s
    if p.dst = 0 then s
    else if p.service = 7 then s.dapAnswer p (statusBody st s.epoch)
    else s.dapAnswer p (if st = 0 then toBytes 4 0 else statusBody st (s.detail st))
  | _, none => s

/-- Tell a requester that may be waiting. -/
def State.completeIf (s : State) (a : Option Asker) (st : Nat) : State :=
  match a with
  | some a => s.complete a st
  | none => s

end Sys2Proof.Machine
end

