-- ==== Sys2Proof/Machine/Flow.lean ====
section
/-! DEFINITION. The flow engine: keys (Table 11.4), placement and cache (R371, R372), gates, policers and recovery (R364 to
R366), the actions of a context (R375), lookups (R373, R374) and flow commands (R378 to R380). -/
namespace Sys2Proof.Machine

/-! ## Contexts -/

/-- A context's V. -/
def FlowCtx.valid (c : FlowCtx) : Bool := c.action.getLsbD 0
/-- OWNER of a context. -/
def FlowCtx.owner (c : FlowCtx) : Nat := bits c.counts.toNat 63 56
/-- EGRESS of a context. -/
def FlowCtx.egress (c : FlowCtx) : Nat := bits c.action.toNat 31 8

/-- The 64 bytes of a context (Table 11.3). -/
def FlowCtx.bytes (c : FlowCtx) : List Byte :=
  slice c.key 0 24 ++ toBytes 8 c.action.toNat ++ toBytes 8 c.seqs.toNat ++ toBytes 8 c.meter.toNat ++
    toBytes 8 c.template.toNat ++ toBytes 8 c.counts.toNat

/-- h1 of R371: CRC-32C. -/
def flowH1 (key : List Byte) : Nat := (~~~(crc32 polyC 0xFFFFFFFF key)).toNat
/-- h2 of R371: the IEEE 802.3 CRC-32. -/
def flowH2 (key : List Byte) : Nat := (~~~(crc32 polyE 0xFFFFFFFF key)).toNat
/-- Buckets b1 and b2 of a key (R371). -/
def flowBuckets (key : List Byte) : Nat × Nat :=
  let b1 := flowH1 key % 2 ^ 18
  let b2 := flowH2 key % 2 ^ 18
  (b1, if b1 = b2 then b2 ^^^ 1 else b2)
/-- Cache set of a key (R372). -/
def flowSet (key : List Byte) : Nat := flowH1 key % 2 ^ 13

/-- Handles that a key may occupy, those of b1 first. -/
def flowHandles (key : List Byte) : List Nat :=
  let (b1, b2) := flowBuckets key
  (List.range 4).map (4 * b1 + ·) ++ (List.range 4).map (4 * b2 + ·)

/-- The valid context at a handle. -/
def State.ctx? (s : State) (h : Nat) : Option FlowCtx := let c := s.flowAt h
  if c.valid then some c else none

/-- The handle of a key's valid context. -/
def State.flowFind (s : State) (key : List Byte) : Option Nat :=
  (flowHandles key).find? fun h => ((s.ctx? h).map fun c => c.key == key).getD false

/-- The cached context of a key. -/
def State.cacheFind (s : State) (key : List Byte) : Option Nat :=
  ((kvGet [] s.gw.cache (flowSet key)).find? fun e => e.2.valid && e.2.key == key).map (·.1)

/-- Write a context into the carve-out: one whole line, by WR_PUSH (R352, R369). -/
def State.ctxWrite (s : State) (h : Nat) (c : FlowCtx) : State := (s.dmaWrite .flowEngine (ctxPa h) c.bytes).1

/-- Write a context through the cache: it becomes the most recently used of its set, and a ninth context of a set is
written back to the carve-out (R372). -/
def State.flowPut (s : State) (h : Nat) (c : FlowCtx) : State :=
  let set := flowSet c.key
  let l : List (Nat × FlowCtx) := (h, c) :: (kvGet [] s.gw.cache set).filter (·.1 ≠ h)
  let s := { s with gw := { s.gw with cache := kvPut set (l.take 8) s.gw.cache } }
  (l.drop 8).foldl (fun (s : State) (e : Nat × FlowCtx) => s.ctxWrite e.1 e.2) s

/-- Free a context: it leaves the cache, and the carve-out's copy has V = 0. -/
def State.flowDel (s : State) (h : Nat) : State :=
  let c := s.flowAt h
  let rest := s.gw.cache.map fun (e : Nat × List (Nat × FlowCtx)) => (e.1, e.2.filter (·.1 ≠ h))
  let s := { s with gw := { s.gw with cache := rest.filter fun e => !e.2.isEmpty } }
  s.ctxWrite h { c with action := c.action &&& ~~~1 }

/-- FLOWS and FLOWS_OWNED follow an insertion or removal. -/
def State.countFlow (s : State) (owner : Nat) (add : Bool) : State :=
  let f (v : Nat) : Nat := if add then v + 1 else v - 1
  (s.setE 0x6200 1 (f (s.ev 0x6200 1))).setE (0x6300 + owner) 4 (f (s.ev (0x6300 + owner) 4))

/-- A poisoned read of a context clears its V, which ends the flow that it held, counts in MISS_DROPS and makes a record (R508). -/
def State.poisonCtx (s : State) (h : Nat) : State :=
  let s := match s.ctx? h with
    | some c => s.countFlow c.owner false
    | none => s
  ((s.flowDel h).addE 0x6200 5 32 1).record bankGw 0x13 4 0 (ctxPa h) 0

/-- Read contexts that are not cached from the carve-out, by RD_PEEK (R352, R373); `bad` names those whose read is poisoned
besides what the memory shows. -/
def State.ctxRead (s : State) (hs bad : List Nat) : State :=
  let held (s : State) (h : Nat) : Bool := (s.gw.cache.flatMap (·.2)).any (·.1 == h)
  hs.foldl (fun s h =>
    if held s h then s
    else match s.dmaRead .flowEngine (ctxPa h) 64 with
      | (s, some (_, true)) => s.poisonCtx h
      | (s, _) => if bad.contains h then s.poisonCtx h else s) s

/-- Words of contexts hold device time [41:10] (Table 11.3). -/
def stampOf (t : Nat) : Nat := t / 1024 % 2 ^ 32

/-! ## Stream gate, policer, recovery -/

/-- DROPS of a context saturates (Table 11.3). -/
def FlowCtx.drop (c : FlowCtx) : FlowCtx :=
  let d := bits c.counts.toNat 47 32
  { c with counts := word (putBits c.counts.toNat 47 32 (min 65535 (d + 1))) }

/-- The policer (R365): the context with its bucket, and whether the frame passes. -/
def State.police (s : State) (c : FlowCtx) (len : Nat) : FlowCtx × Bool :=
  let m := c.meter.toNat
  let prof := bits m 62 56
  let cir := s.ev 0x6120 (1 + prof)
  let cbs := s.ev 0x6121 (1 + prof)
  let e := (stampOf s.time + 2 ^ 32 - bits m 55 24) % 2 ^ 32
  let tokens := min cbs (bits m 23 0 + e * 1024 * cir / 8000000)
  if len ≤ tokens then ({ c with meter := word (putBits m 23 0 (tokens - len)) }, true)
  else ({ c with meter := word (putBits m 23 0 tokens) }, false)

/-- A flow that recovers sequences is in its reset state once FRER_RESET_MS have passed since STAMP when a frame matches it, with
an R-TAG or without, dropped or not (R366). -/
def State.recoveryTimeout (s : State) (c : FlowCtx) : FlowCtx :=
  let age := (stampOf s.time + 2 ^ 32 - bits c.meter.toNat 55 24) % 2 ^ 32
  if bit c.action.toNat 5 ∧ s.ev 0x6100 2 * 1000000 ≤ age * 1024 then { c with seqs := word (putBits c.seqs.toNat 53 53 1) } else c

/-- Sequence recovery (R366) for a frame with an R-TAG's sequence number, or without one: IEEE 802.1CB's match algorithm
at HIST_LEN 0, else its vector algorithm (log entry 26). -/
def FlowCtx.recover (c : FlowCtx) (seq : Option Nat) : FlowCtx × Bool :=
  let w := c.seqs.toNat
  match seq with
  | none => (c, bit w 52)
  | some q =>
    let hl := bits w 51 48
    let put (rec hist : Nat) : FlowCtx :=
      { c with seqs := word (putBits (putBits (putBits w 31 16 rec) 47 32 hist) 53 53 0) }
    let rec_ := bits w 31 16
    let hist := bits w 47 32
    let d := (q + 65536 - rec_) % 65536
    if bit w 53 then (put q 1, true)
    else if hl = 0 then (if d = 0 then (c, false) else (put q hist, true))
    else if d < 0x8000 then
      if d = 0 then (if bit hist 0 then (c, false) else (put rec_ (hist ||| 1), true))
      else if hl ≤ d then (c, false)
      else (put q (hist * 2 ^ d % 2 ^ hl ||| 1), true)
    else
      let b := 65536 - d
      if hl ≤ b then (c, false)
      else if bit hist b then (c, false)
      else (put rec_ (hist ||| 2 ^ b), true)

/-! ## Ethernet frames -/

/-- An Ethernet frame from the destination address to the end of the payload, its VLAN tag taken apart. -/
structure Eth where
  addrs : List Byte
  tci : Option Nat
  rtag : Option Nat
  rest : List Byte
  deriving DecidableEq, Repr

/-- Take a frame apart: addresses, VLAN tag, R-TAG (EtherType 0xF1C1, IEEE 802.1CB), and the rest from the EtherType. -/
def ethParse (b : List Byte) : Eth :=
  let (tci, r) := if ofBytesBE (slice b 12 2) = 0x8100 then (some (ofBytesBE (slice b 14 2)), b.drop 16) else (none, b.drop 12)
  if ofBytesBE (slice r 0 2) = 0xF1C1 then ⟨b.take 12, tci, some (ofBytesBE (slice r 4 2)), r.drop 6⟩
  else ⟨b.take 12, tci, none, r⟩

/-- The R-TAG with a sequence number. -/
def rTag (seq : Nat) : List Byte := [0xF1, 0xC1, 0, 0] ++ toBytesBE 2 seq

/-- The frame's bytes with its tags. -/
def Eth.bytes (e : Eth) : List Byte :=
  e.addrs ++ (match e.tci with
    | some t => [0x81, 0x00] ++ toBytesBE 2 t
    | none => []) ++ (match e.rtag with
    | some q => rTag q
    | none => []) ++ e.rest

/-- VID of a frame; an untagged or priority-tagged one has none of its own (R356). -/
def Eth.vid (e : Eth) : Option Nat := e.tci.bind fun t => if t % 4096 = 0 then none else some (t % 4096)
/-- Priority of a frame; 0 where it is untagged (R356). -/
def Eth.prio (e : Eth) : Nat := (e.tci.map fun t => t / 2 ^ 13 % 8).getD 0

/-- Entry of a port (Table 11.11). -/
def State.portEnt (s : State) (n : Fin 24) (sub : Nat) : Nat := s.ev (0x6000 + n.val) sub

/-- A key of 24 bytes from its first bytes. -/
def key24 (l : List Byte) : List Byte := slice l 0 24

/-- Prefix index of a /64 prefix (IPV6_PREFIX, Table 11.13). -/
def State.prefixIdx (s : State) (p : List Byte) : Option Nat :=
  (List.range 16).find? fun k => let v := s.ev 0x6202 (1 + k); v != 0 && v == ofBytes p

/-- Port bytes of an IP packet: those of UDP or TCP, zero otherwise. -/
def l4Ports (proto : Nat) (first : Bool) (l4 : List Byte) : List Byte :=
  if first ∧ (proto = 6 ∨ proto = 17) then slice l4 0 4 else [0, 0, 0, 0]

/-- The keys that a port tries for a frame, in order (R373, Table 11.4). -/
def State.flowKeys (s : State) (n : Fin 24) (e : Eth) : List (List Byte) :=
  let en := s.portEnt n 0xA
  let g := BitVec.ofNat 8 (s.portEnt n 9)
  let et := ofBytesBE (slice e.rest 0 2)
  let p := e.rest.drop 2
  let stream := if bit en 0 ∧ et = 0x22F0 then [key24 ([4, g] ++ slice p 4 8)] else []
  let ip := if bit en 1 ∧ et = 0x0800 then
      let proto := (slice p 9 1 |>.headD 0).toNat
      let ihl := 4 * ((slice p 0 1 |>.headD 0).toNat % 16)
      let first := decide (ofBytesBE (slice p 6 2) % 2 ^ 13 = 0)
      [key24 ([2, g] ++ slice p 12 8 ++ [BitVec.ofNat 8 proto] ++ l4Ports proto first (p.drop ihl))]
    else if bit en 2 ∧ et = 0x86DD then
      let nh := (slice p 6 1 |>.headD 0).toNat
      match s.prefixIdx (slice p 8 8), s.prefixIdx (slice p 24 8) with
      | some a, some b =>
        [key24 ([3, g, BitVec.ofNat 8 (a + 16 * b)] ++ slice p 16 8 ++ slice p 32 8 ++ [BitVec.ofNat 8 nh] ++ l4Ports nh true (p.drop 40))]
      | _, _ => []
    else []
  let vid := e.vid.getD (s.portEnt n 7)
  let l2 := if bit en 3 then [key24 ([1, g] ++ slice e.addrs 0 6 ++ toBytes 2 vid)] else []
  stream ++ ip ++ l2

/-! ## Egress -/

/-- Change a port. -/
def State.modPort (s : State) (n : Fin 24) (f : Port → Port) : State := { s with gw := { s.gw with ports := vmod s.gw.ports n f } }

/-- Rate of a port in Mbit/s (Table 11.2). -/
def portRate (n : Fin 24) : Nat := if n.val < 4 then 25000 else if n.val < 12 then 10000 else 1000

/-- IDLE_SLOPE of a queue (Table 11.12). -/
def State.slope (s : State) (n : Fin 24) (q : Nat) : Nat := s.ev (0x6101 + n.val) (8 + q)

/-- The credit of queue q after dt ns without a frame of its own on the wire, in millionths of a bit (R362): it grows at
IDLE_SLOPE while frames wait or it is negative, is lost where it is positive and none waits, and is held while the gate is
closed or the queue's frame is being sent (log entry 85). -/
def Port.creditAfter (p : Port) (slope : Nat) (q : Fin 8) (dt : Nat) : Int :=
  let c := p.credit.get q
  let up := c + (slope : Int) * dt
  if slope = 0 then 0
  else if (p.sending.any (·.q == q.val)) || !bit p.gates.toNat q.val then c
  else if !(p.queues.get q).isEmpty then up
  else if 0 ≤ c then 0
  else min up 0

/-- The credits of a port's queues are brought up to the present time. -/
def State.credits (s : State) (n : Fin 24) : State :=
  s.modPort n fun p => { p with
    credit := Vector.ofFn fun q => p.creditAfter (s.slope n q.val) q (s.time - p.creditAt), creditAt := s.time }

/-- Change the egress queues of a port: a frame that comes to the head of one is there from now on (R382). -/
def Port.setQueues (p : Port) (l : Vector (List EgFrame) 8) (now : Nat) : Port :=
  { p with queues := l,
           headAt := Vector.ofFn fun q => if (l.get q).head? = (p.queues.get q).head? then p.headAt.get q else now }

/-- Take the frame at the head of an egress queue; the next one is at the head from now on, the same or not. -/
def Port.popQueue (p : Port) (q : Fin 8) (now : Nat) : Port :=
  { p.setQueues (vmod p.queues q fun l => l.drop 1) now with headAt := vset p.headAt q now }

/-- Put a frame into the egress queue that its priority selects (R356). -/
def State.egress (s : State) (n : Fin 24) (e : Eth) (vid : Option Nat) (prio : Nat) (launch : Option Nat) (ref : Option TxRef) :
    State :=
  let q := fin 7 (bits (s.portEnt n 0xE) (3 * prio + 2) (3 * prio))
  let f : EgFrame := ⟨{ e with tci := none }.bytes, vid.getD (s.portEnt n 7), prio, launch, ref⟩
  (s.credits n).modPort n fun p =>
    (p.setQueues (vmod p.queues q fun l => l ++ [f]) s.time)

/-! ## The actions of a matched context (R375) -/

/-- What became of a matched frame: dropped by gate, policer or recovery, or sent to a number of ports. -/
inductive FlowOut where
  | dropped | sent (ports : Nat)
  deriving DecidableEq, Repr

/-- A bus frame under its matched context (R375, R393): a copy to a VI and the conversion. -/
def State.busActions (s : State) (h : Nat) (c : FlowCtx) (b : Nat) (f : BusFrame) (time : Nat) : State :=
  let a := c.action.toNat
  let s := if bit a 6 then
      s.deliver (bits a 39 32) (fin 15 (bits a 43 40)) ⟨busRecord b f time, 0, 5, h, time, true⟩
    else s
  if bit a 2 then s.convert c.template.toNat b f time else s

/-- FRAMES and STAMP of a matched context (R375). -/
def State.touch (s : State) (c : FlowCtx) : FlowCtx :=
  { c with counts := word (putBits c.counts.toNat 31 0 (c.counts.toNat + 1)),
           meter := word (putBits c.meter.toNat 55 24 (stampOf s.time)) }

/-- Look a decapsulated message up on its virtual bus; its carve-out read is part of the step, so that messages keep their
order (R406, R407, log entry 27). -/
def State.messageLookup (s : State) (b : Nat) (f : BusFrame) (time : Nat) : State :=
  let key := busKey b f
  let s := if (s.cacheFind key).isSome then s.addE 0x6200 3 64 1 else (s.addE 0x6200 4 64 1).ctxRead (flowHandles key) []
  match s.flowFind key with
  | none => s.addE 0x6500 7 32 1
  | some h =>
    match s.ctx? h with
    | none => s
    | some c =>
      let c := s.touch c
      (s.flowPut h c).busActions h c b f time

/-- DECAP of a frame; one that still carries an R-TAG has another EtherType than 0x22F0 after its VLAN tag (R402, R406). -/
def State.decap (s : State) (vbase : Nat) (e : Eth) (time : Nat) : State :=
  match (if e.rtag.isSome then none else avtpData e.rest).bind fun d => acfSplit (d.length + 1) d with
  | none => s.addE 0x6500 5 32 1
  | some msgs =>
    let s := s.addE 0x6500 3 64 1
    msgs.foldl (fun s m =>
      match acfFrame m.1 m.2 time with
      | none => s.addE 0x6500 6 32 1
      | some (bus, f, t) => (s.addE 0x6500 4 64 1).messageLookup (0x40 + (vbase + bus) % 64) f t) s

/-- The VID of a frame: its own, else the PVID of the port that it was received on (R356). -/
def State.vidOf (s : State) (e : Eth) (port : Option (Fin 24)) : Option Nat :=
  match e.vid with
  | some v => some v
  | none => port.map fun n => s.portEnt n 7

/-- A matched Ethernet frame of len bytes passes the actions of its context (R375, R376). `port` is its ingress port; a
frame that a VI or a stream sent has none, and what a receive descriptor then shows as PORT is free. `time` is the receive
timestamp, that of the frame's start for a received frame (R358). -/
def State.flowActions (s : State) (h : Nat) (c0 : FlowCtx) (e : Eth) (len : Nat) (port : Option (Fin 24)) (ref : Option TxRef)
    (launch : Option Nat) (time : Nat) : State × FlowOut :=
  let a := c0.action.toNat
  let g := fin 63 (bits c0.counts.toNat 53 48)
  let done (c : FlowCtx) (s : State) : State := s.flowPut h (s.touch c)
  let c0 := s.recoveryTimeout c0
  if bit a 7 && !(s.gw.sgates.get g).isOpen then
    ((done c0.drop s).addE (0x6130 + g.val) 6 32 1, .dropped)
  else
    let (c1, ok1) := if bit a 3 then s.police c0 len else (c0, true)
    if !ok1 then (done c1.drop s, .dropped)
    else
      let (c2, ok2) := if bit a 5 then c1.recover e.rtag else (c1, true)
      if !ok2 then (done c2.drop s, .dropped)
      else
        let e := if bit a 5 then { e with rtag := none } else e
        let fwd := bit a 1
        let repl := fwd && bit a 4
        let gen := bits c2.seqs.toNat 15 0
        let c3 := if repl then { c2 with seqs := word (putBits c2.seqs.toNat 15 0 (gen + 1)) } else c2
        let s := done c3 s
        let out := if repl then { e with rtag := some gen } else e
        let vid := if bit a 60 then some (bits a 59 48) else s.vidOf e port
        let prio := if bit a 47 then bits a 46 44 else e.prio
        let ports := if fwd then (allFin 24).filter fun n => bit c0.egress n.val else []
        let s := ports.foldl (fun s n => s.egress n out vid prio launch ref) s
        let s := if bit a 6 then
            let (s, n) := s.draw
            let p := (port.map (·.val)).getD (Config.freeNat n % 32)
            s.deliver (bits a 39 32) (fin 15 (bits a 43 40)) ⟨e.bytes, p, (c0.key.headD 0).toNat, h, time, false⟩
          else s
        let s := if bit a 2 && bits c0.template.toNat 2 0 == 2 then s.decap (bits c0.template.toNat 8 3) e time else s
        (s, .sent ports.length)

/-! ## Lookups (R373, R374) -/

/-- A frame that no key matched: the port's or channel's MISS_ACTION (R373, R395). -/
def State.missAction (s : State) (it : Looked) (time : Nat) : State :=
  match it with
  | .eth n b =>
    if s.portEnt n 0xB = 1 then
      s.deliver (s.portEnt n 0xC) (fin 15 (s.portEnt n 0xD)) ⟨b, n.val, 0, 0, time, false⟩
    else s.addE (0x6000 + n.val) 0x14 32 1
  | .bus b f =>
    let (idx, sub) := if b < 0x20 then (0x6400 + b, 0xC) else (0x6418 + (b - 0x20), 8)
    if s.ev idx sub = 1 then
      s.deliver (s.ev idx (sub + 1)) (fin 15 (s.ev idx (sub + 2))) ⟨busRecord b f time, 0, 0, 0, time, true⟩
    else s

/-- A frame under the context that its key found. -/
def State.matched (s : State) (h : Nat) (it : Looked) (time : Nat) : State :=
  match s.ctx? h with
  | none => s
  | some c =>
    match it with
    | .eth n b =>
      let e := ethParse b
      (s.flowActions h c e (b.length + 4) (some n) none none time).1
    | .bus b f =>
      let c := s.touch c
      (s.flowPut h c).busActions h c b f time

/-- Frames that may wait for carve-out reads at once (R374). -/
def missMax : Nat := 4096

/-- Try keys in order: a cache hit decides; a key not cached waits for its carve-out read (R373, R374). -/
def State.tryKeys (s : State) (it : Looked) (time : Nat) : List (List Byte) → State
  | [] => s.missAction it time
  | k :: rest =>
    if s.gw.miss.any (·.key == k) then
      if missMax ≤ s.gw.miss.length then s.addE 0x6200 5 32 1
      else { s with gw := { s.gw with miss := s.gw.miss ++ [⟨it, k, rest, time⟩] } }
    else match s.cacheFind k with
    | some h => (s.addE 0x6200 3 64 1).matched h it time
    | none =>
      let s := s.addE 0x6200 4 64 1
      if missMax ≤ s.gw.miss.length then s.addE 0x6200 5 32 1
      else { s with gw := { s.gw with miss := s.gw.miss ++ [⟨it, k, rest, time⟩] } }

/-- CARVE_OUT_READ_DONE: the oldest carve-out read returns and the frames that wait for it are decided (R373, R374); with
`poison` the read of the key's own context is poisoned, which makes a miss of it (R508). -/
def execCarveOutReadDone (poison : Bool) (s : State) : Host.Outcome State Fault Refusal :=
  .next <| s.served fun s =>
    match s.gw.miss with
    | [] => s
    | m :: _ =>
      let mine := s.gw.miss.filter (·.key == m.key)
      let s := { s with gw := { s.gw with miss := s.gw.miss.filter (·.key != m.key) } }
      let s := s.ctxRead (flowHandles m.key) (if poison then (s.flowFind m.key).toList else [])
      let s := match s.flowFind m.key with
        | some h => match s.ctx? h with
          | some c => s.flowPut h c
          | none => s
        | none => s
      mine.foldl (fun s f =>
        match s.flowFind m.key with
        | some h => s.matched h f.item f.time
        | none => s.tryKeys f.item f.time f.rest) s

/-! ## Flow commands (R378 to R380) -/

/-- The VI of a slot; none for the Secure slot. -/
def slotVi : FlowSlot → Option Nat
  | .vi v => some v.val
  | .secure => none

/-- Index of the slot's entries, and subindices of RESULT and OP_BUSY. -/
def slotEnt : FlowSlot → Nat × Nat × Nat
  | .vi v => (0x6300 + v.val, 7, 8)
  | .secure => (0x6201, 2, 3)

/-- The bus channels that a template names (Table 12.5), as bits of BUS_CHANNELS. -/
def templateChans (t : Nat) : Nat :=
  match bits t 2 0 with
  | 1 => bits t 55 32
  | 3 => bits t 60 37
  | 4 => 2 ^ (32 + bits t 17 14)
  | _ => 0

/-- BUS_CHANNELS of a VI (Table 12.11). -/
def State.busChannels (s : State) (v : Nat) : Nat := s.ev (0x6560 + v / 16) (0x10 * (v % 16) + 2)

/-- Whether a real bus of a BUS key is in a VI's BUS_CHANNELS; a virtual bus needs no grant (R394). -/
def State.keyBusOk (s : State) (v b : Nat) : Bool :=
  if b < 0x18 then bit (s.busChannels v) b
  else if 0x20 ≤ b ∧ b < 0x2C then bit (s.busChannels v) (32 + (b - 0x20))
  else true

/-- Whether a VI may insert or update a context (R379, R394). -/
def State.flowPermit (s : State) (v : Nat) (c : FlowCtx) : Bool :=
  let a := c.action.toNat
  let ports := s.ev (0x6300 + v) 2
  let isBus := c.key.headD 0 == 5
  let src := (c.key.getD 1 0).toNat
  let first := if isBus then
      s.keyBusOk v src &&
      (!bit a 2 || decide (templateChans c.template.toNat &&& s.busChannels v = templateChans c.template.toNat)) &&
      (!(bit a 2 && bits c.template.toNat 2 0 == 1) || s.ev (0x6510 + bits c.template.toNat 8 3) 0xD == v)
    else (allFin 24).all fun n => s.portEnt n 9 != src || bit ports n.val
  first && decide (c.egress &&& ports = c.egress) && (!bit a 6 || bits a 39 32 == v)

/-- Whether a template's fields are as Table 12.5 has them. -/
def templateOk (t : Nat) : Bool :=
  match bits t 2 0 with
  | 0 => decide (t = 0)
  | 1 => decide (bits t 31 9 = 0 ∧ bits t 63 56 = 0)
  | 2 => decide (bits t 63 9 = 0)
  | 3 => decide (bits t 5 3 ≤ 3 ∧ bit t 7 = false ∧ bits t 63 61 = 0)
  | 4 => decide (bits t 5 3 = 0 ∧ bit t 7 = false ∧ bits t 63 18 = 0 ∧ bits t 17 14 < 12)
  | _ => false

/-- Whether the zero fields of a key are zero (Tables 11.4 and 12.3). -/
def keyZeros (k : List Byte) : Bool :=
  let zeroFrom (n : Nat) : Bool := (k.drop n).all (· == 0)
  match (k.headD 0).toNat with
  | 1 => zeroFrom 10 && decide ((k.getD 9 0).toNat < 16)
  | 2 => zeroFrom 15
  | 3 => true
  | 4 => zeroFrom 10
  | 5 =>
    let cls := (k.getD 6 0).toNat
    zeroFrom 10 && decide ((k.getD 7 0).toNat ≤ 1 ∧ 1 ≤ cls ∧ cls ≤ 4) && (cls == 3 || (k.getD 8 0 == 0 && k.getD 9 0 == 0))
  | _ => false

/-- Whether a context is malformed (result 0x06 of Table 11.6, R393). -/
def badContext (c : FlowCtx) : Bool :=
  let a := c.action.toNat
  let t := c.template.toNat
  let kind := (c.key.headD 0).toNat
  let src := (c.key.getD 1 0).toNat
  let zeros := bits a 63 61 = 0 ∧ bits c.seqs.toNat 63 54 = 0 ∧ bit c.meter.toNat 63 = false ∧ bits c.counts.toNat 55 54 = 0
  let conv := bit a 2
  let busRules := kind ≠ 5 ∨
    ((src < 0x18 ∨ (0x20 ≤ src ∧ src < 0x2C) ∨ (0x40 ≤ src ∧ src < 0x80)) ∧
     bit a 1 = false ∧ bit a 3 = false ∧ bit a 4 = false ∧ bit a 5 = false ∧ bit a 7 = false ∧
     c.egress = 0 ∧ bits a 59 48 = 0 ∧ bit a 60 = false ∧ bits a 46 44 = 0 ∧ bit a 47 = false ∧
     (conv = true → (bits t 2 0 = 1 ∨ bits t 2 0 = 3 ∨ bits t 2 0 = 4)) ∧
     ¬ ((c.key.getD 6 0) = 3 ∧ conv = true ∧ bits t 2 0 = 1))
  let decapRule := ¬ (conv = true ∧ bits t 2 0 = 2) ∨ kind = 4
  !decide (zeros ∧ busRules ∧ decapRule ∧ keyZeros c.key = true ∧ (conv = true ↔ bits t 2 0 ≠ 0)) || !templateOk t

/-- The context that an INSERT or UPDATE of software's words makes over an old one: ACTION, CONV_TEMPLATE, HIST_LEN,
TAKE_NO_SEQ, PROFILE and GATE are taken, the rest is kept (Table 11.5). -/
def mergeCtx (old new : FlowCtx) : FlowCtx :=
  { old with
    action := new.action ||| 1,
    template := new.template,
    seqs := word (putBits old.seqs.toNat 52 48 (bits new.seqs.toNat 52 48)),
    meter := word (putBits old.meter.toNat 62 56 (bits new.meter.toNat 62 56)),
    counts := word (putBits old.counts.toNat 53 48 (bits new.counts.toNat 53 48)) }

/-- A new context of an owner (INSERT of Table 11.5). -/
def State.newCtx (s : State) (key : List Byte) (owner : Nat) (c : FlowCtx) : FlowCtx :=
  let blank : FlowCtx := ⟨key, 0, word (2 ^ 53), 0, 0, word (owner % 256 * 2 ^ 56)⟩
  let m := mergeCtx blank c
  let cbs := s.ev 0x6121 (1 + bits m.meter.toNat 62 56)
  { m with meter := word (putBits (putBits m.meter.toNat 23 0 cbs) 55 24 (stampOf s.time)) }

/-- A result of a command: status, handle and context. -/
structure FlowRes where
  status : Nat
  handle : Nat
  ctx : List Byte
  deriving DecidableEq, Repr

/-- INSERT for a slot on behalf of an owner (R371, R378, R379). -/
def State.flowInsert (s : State) (sl : FlowSlot) (owner : Nat) (key : List Byte) (c : FlowCtx) : State × FlowRes :=
  let c := { c with key := key }
  if badContext c then (s, ⟨6, 0, []⟩)
  else if (slotVi sl).any fun v => !s.flowPermit v c then (s, ⟨5, 0, []⟩)
  else
    let s := s.ctxRead (flowHandles key) []
    match s.flowFind key with
  | some h => (s, ⟨1, h, []⟩)
  | none =>
    if s.ev (0x6300 + owner) 3 ≤ s.ev (0x6300 + owner) 4 then (s, ⟨3, 0, []⟩)
    else match (flowHandles key).find? fun h => (s.ctx? h).isNone with
    | none => (s.addE 0x6200 6 32 1, ⟨2, 0, []⟩)
    | some h =>
      let n := s.newCtx key owner c
      (((s.flowDel h).flowPut h n).countFlow owner true, ⟨0, h, n.bytes⟩)

/-- Finish a command: RESULT holds the outcome, OP_BUSY reads 0, and OPDONE is set for a VI (R378, Table 11.7). -/
def State.flowAnswer (s : State) (sl : FlowSlot) (r : FlowRes) : State :=
  let (idx, res, busy) := slotEnt sl
  let b := toBytes 8 (r.status + r.handle % 2 ^ 20 * 2 ^ 8) ++ slice r.ctx 0 64
  let s := { (s.setB idx res b).setE idx busy 0 with reply := .bytes b false }
  match slotVi sl with
  | some v => s.setViBit v 34 0
  | none => s

/-- Whether the flow engine serves commands: its domain is on. -/
def State.flowOn (s : State) : Bool := s.domOn 52

/-- A command on the context at a handle, which a VI slot may act on only where it owns it (R379). -/
def State.onHandle (s : State) (sl : FlowSlot) (h : Nat) (f : FlowCtx → State → State × FlowRes) : State :=
  if !s.flowOn then s
  else
    let s := s.ctxRead [h] []
    match s.ctx? h with
    | none => s.flowAnswer sl ⟨4, h, []⟩
    | some c =>
      if (slotVi sl).any (· != c.owner) then s.flowAnswer sl ⟨5, h, []⟩
      else
        let (s, r) := f c s
        s.flowAnswer sl r

/-- INSERT; `v` is the Secure slot's VI field, and a VI slot inserts for its own VI. -/
def State.doInsert (s : State) (sl : FlowSlot) (v : Fin 256) (key ctx : List Byte) : State :=
  if s.flowOn then
    let (s, r) := s.flowInsert sl ((slotVi sl).getD v.val) (key24 key) (flowOfBytes (slice ctx 0 64))
    s.flowAnswer sl r
  else s

/-- REMOVE (Table 11.5). -/
def State.doRemove (s : State) (sl : FlowSlot) (h : Fin 1048576) : State :=
  s.onHandle sl h.val fun c s => ((s.flowDel h.val).countFlow c.owner false, ⟨0, h.val, []⟩)

/-- READ (Table 11.5). -/
def State.doRead (s : State) (sl : FlowSlot) (h : Fin 1048576) : State :=
  s.onHandle sl h.val fun c s => (s.flowPut h.val c, ⟨0, h.val, c.bytes⟩)

/-- FIND (Table 11.5). -/
def State.doFind (s : State) (sl : FlowSlot) (key : List Byte) : State :=
  if !s.flowOn then s
  else
    let s := s.ctxRead (flowHandles (key24 key)) []
    match s.flowFind (key24 key) with
    | none => s.flowAnswer sl ⟨4, 0, []⟩
    | some h => s.onHandle sl h fun c s => (s.flowPut h c, ⟨0, h, c.bytes⟩)

/-- UPDATE (Table 11.5). -/
def State.doUpdate (s : State) (sl : FlowSlot) (h : Fin 1048576) (ctx : List Byte) : State :=
  s.onHandle sl h.val fun c s =>
    let n := flowOfBytes (slice ctx 0 64)
    let m := mergeCtx c n
    if badContext { n with key := c.key } then (s, ⟨6, h.val, []⟩)
    else if (slotVi sl).any fun v => !s.flowPermit v { n with key := c.key } then (s, ⟨5, h.val, []⟩)
    else (s.flowPut h.val m, ⟨0, h.val, m.bytes⟩)

/-- CLEAR (Table 11.5). -/
def State.doClear (s : State) (sl : FlowSlot) (h : Fin 1048576) : State :=
  s.onHandle sl h.val fun c s =>
    let m := { c with counts := word (putBits c.counts.toNat 47 0 0) }
    (s.flowPut h.val m, ⟨0, h.val, m.bytes⟩)

/-- Insert records in order until one is refused (R380): the records inserted, and the refusal's status and index. -/
def bulkInsert (v : Nat) : Nat → List (List Byte × List Byte) → State → State × Nat × Nat × Nat
  | k, [], s => (s, k, 0, 0)
  | k, r :: rest, s =>
    match s.flowInsert .secure v (key24 r.1) (flowOfBytes (slice r.2 0 64)) with
    | (s, ⟨0, _, _⟩) => bulkInsert v (k + 1) rest s
    | (s, ⟨st, _, _⟩) => (s, k, st, k)

/-- BULK through the Secure slot (R380). -/
def State.doBulk (s : State) (v : Fin 256) (recs : List (List Byte × List Byte)) : State :=
  if s.flowOn then
    let (s, k, st, i) := bulkInsert v.val 0 recs s
    s.setE 0x6201 5 (k % 2 ^ 32 + st * 2 ^ 32 + i % 2 ^ 20 * 2 ^ 40)
  else s

/-- FLOW_INSERT: INSERT of Table 11.5. -/
def execFlowInsert (sl : FlowSlot) (v : Fin 256) (key ctx : List Byte) (s : State) : Host.Outcome State Fault Refusal :=
  .next (s.served fun s => s.doInsert sl v key ctx)

/-- FLOW_REMOVE (Table 11.5). -/
def execFlowRemove (sl : FlowSlot) (h : Fin 1048576) (s : State) : Host.Outcome State Fault Refusal :=
  .next (s.served fun s => s.doRemove sl h)

/-- FLOW_READ (Table 11.5). -/
def execFlowRead (sl : FlowSlot) (h : Fin 1048576) (s : State) : Host.Outcome State Fault Refusal :=
  .next (s.served fun s => s.doRead sl h)

/-- FLOW_FIND (Table 11.5). -/
def execFlowFind (sl : FlowSlot) (key : List Byte) (s : State) : Host.Outcome State Fault Refusal :=
  .next (s.served fun s => s.doFind sl key)

/-- FLOW_UPDATE (Table 11.5). -/
def execFlowUpdate (sl : FlowSlot) (h : Fin 1048576) (ctx : List Byte) (s : State) : Host.Outcome State Fault Refusal :=
  .next (s.served fun s => s.doUpdate sl h ctx)

/-- FLOW_CLEAR (Table 11.5). -/
def execFlowClear (sl : FlowSlot) (h : Fin 1048576) (s : State) : Host.Outcome State Fault Refusal :=
  .next (s.served fun s => s.doClear sl h)

/-- FLOW_BULK: BULK through the Secure slot (R380). -/
def execFlowBulk (v : Fin 256) (recs : List (List Byte × List Byte)) (s : State) : Host.Outcome State Fault Refusal :=
  .next (s.served fun s => s.doBulk v recs)

end Sys2Proof.Machine
end

