-- ==== Sys2Proof/Machine/MacSec.lean ====
section
/-! DEFINITION. MACsec on a port (R367, R368): GCM-AES of NIST SP 800-38D, and the SecTAG and validation of IEEE 802.1AE
(log entries 26 and 86). -/
namespace Sys2Proof.Machine

/-! ## GCM-AES -/

/-- The words of an AES key schedule, n more of them, index i next, newest first (FIPS 197). -/
def aesExpand (nk : Nat) : Nat → Nat → Byte → List (List Byte) → List (List Byte)
  | 0, _, _, ws => ws.reverse
  | n + 1, i, rc, ws =>
    let t := ws.headD []
    let t' := if i % nk = 0 then xorBytes ((t.drop 1 ++ t.take 1).map aesSub) [rc, 0, 0, 0]
      else if 6 < nk ∧ i % nk = 4 then t.map aesSub else t
    aesExpand nk n (i + 1) (if i % nk = 0 then aesMul 2 rc else rc) (xorBytes (ws.getD (nk - 1) []) t' :: ws)

/-- The round keys of a key of 16 or 32 bytes. -/
def aesKeys (key : List Byte) : List (List Byte) :=
  let nk := key.length / 4
  let ws := aesExpand nk (3 * nk + 28) nk 1 (chunks 4 nk key).reverse
  (List.range (nk + 7)).map fun r => ((ws.drop (4 * r)).take 4).flatten

/-- The rounds of AES, the last without MixColumns. -/
def aesEnc : List (List Byte) → List Byte → List Byte
  | [], b => b
  | [k], b => xorBytes (aesShift (b.map aesSub)) k
  | k :: ks, b => aesEnc ks (xorBytes (aesMix (aesShift (b.map aesSub))) k)

/-- AES of one block under round keys. -/
def aesBlock (keys : List (List Byte)) (b : List Byte) : List Byte :=
  match keys with
  | [] => b
  | k :: ks => aesEnc ks (xorBytes b k)

/-- x × v + z in the field of GHASH over the n low bits of x, its first bit the highest. -/
def gcmMul : Nat → Nat → Nat → Nat → Nat
  | 0, _, z, _ => z
  | n + 1, x, z, v =>
    gcmMul n x (if x.testBit n then z ^^^ v else z) (if v.testBit 0 then v / 2 ^^^ 0xE1000000000000000000000000000000 else v / 2)

/-- Zeros up to a whole block. -/
def gcmPad (l : List Byte) : List Byte := l ++ List.replicate ((16 - l.length % 16) % 16) 0

/-- GHASH of whole blocks. -/
def ghash (h : Nat) (l : List Byte) : Nat :=
  (chunks 16 (l.length / 16) l).foldl (fun y b => gcmMul 128 (y ^^^ ofBytesBE b) 0 h) 0

/-- Data XORed with the key stream of a 12-byte IV. -/
def gcmCrypt (keys : List (List Byte)) (iv d : List Byte) : List Byte :=
  xorBytes d ((List.range ((d.length + 15) / 16)).flatMap fun k => aesBlock keys (iv ++ toBytesBE 4 (k + 2)))

/-- The tag of additional data and ciphertext. -/
def gcmTag (keys : List (List Byte)) (iv aad c : List Byte) : List Byte :=
  let h := ofBytesBE (aesBlock keys (List.replicate 16 0))
  let m := gcmPad aad ++ gcmPad c ++ toBytesBE 8 (8 * aad.length) ++ toBytesBE 8 (8 * c.length)
  toBytesBE 16 (ghash h m ^^^ ofBytesBE (aesBlock keys (iv ++ [0, 0, 0, 1])))

/-! ## The SecY of a port -/

/-- Whether a suite of CIPHER has 64-bit packet numbers. -/
def isXpn (suite : Nat) : Bool := decide (2 ≤ suite)

/-- Round keys of a SAK entry (R368). -/
def sakKeys (suite : Nat) (sak : List Byte) : List (List Byte) := aesKeys (slice sak 0 (if suite % 2 = 0 then 16 else 32))

/-- The IV of a frame: SCI and PN, or with XPN the SSCI and the 64-bit PN, XORed with the salt. -/
def secIv (suite : Nat) (sak sci : List Byte) (pn : Nat) : List Byte :=
  if isXpn suite then xorBytes (slice sak 44 4 ++ toBytesBE 8 pn) (slice sak 32 12) else sci ++ toBytesBE 4 pn

/-- The octets after the SecTAG that stay in clear: CONF_OFFSET, which the XPN suites do not have. -/
def State.secClear (s : State) (n : Fin 24) : Nat := if isXpn (s.portEnt n 0x41) then 0 else s.portEnt n 0x43

/-- An SCI entry as on the wire, byte k of the entry being byte k of the SCI (log entry 86). -/
def State.sciOf (s : State) (n : Fin 24) (sub : Nat) : List Byte := toBytes 8 (s.portEnt n sub)

/-- The SAK of a transmit SA. -/
def State.txSak (s : State) (n : Fin 24) : List Byte := s.eb (0x6000 + n.val) (0x48 + s.portEnt n 0x46 % 4)

/-- Whether no transmit SA is usable: none is installed, or no packet number is left (R368). -/
def State.pnExhausted (s : State) (n : Fin 24) : Bool :=
  let pn := s.portEnt n (0x4C + s.portEnt n 0x46 % 4)
  s.portEnt n 0x40 != 0 && (decide ((s.txSak n).length ≠ 48) ||
    (if isXpn (s.portEnt n 0x41) then decide (pn = 2 ^ 64 - 1) else decide (2 ^ 32 - 1 ≤ pn)))

/-- A frame without FCS as the active transmit SA protects it; whether the SecTAG carries the SCI is free (log entry 2). -/
def State.secProtect (s : State) (n : Fin 24) (sci : Bool) (b : List Byte) : List Byte :=
  let suite := s.portEnt n 0x41
  let an := s.portEnt n 0x46 % 4
  let pn := s.portEnt n (0x4C + an)
  let ch := s.sciOf n 0x45
  let user := b.drop 12
  let co := s.secClear n
  let tag : List Byte := [0x88, 0xE5, BitVec.ofNat 8 ((if sci then 0x2C else 0x0C) + an),
    BitVec.ofNat 8 (if user.length < 48 then user.length else 0)] ++ toBytesBE 4 (pn % 2 ^ 32) ++ (if sci then ch else [])
  let head := b.take 12 ++ tag ++ user.take co
  let keys := sakKeys suite (s.txSak n)
  let iv := secIv suite (s.txSak n) ch pn
  let c := gcmCrypt keys iv (user.drop co)
  head ++ c ++ gcmTag keys iv head c

/-- The transmit SA has given a frame its packet number; source 510 at TX_PN_LIMIT (R368). -/
def State.secCount (s : State) (n : Fin 24) : State :=
  if s.portEnt n 0x40 = 0 then s
  else
    let sub := 0x4C + s.portEnt n 0x46 % 4
    let pn := s.portEnt n sub + 1
    let s := s.setE (0x6000 + n.val) sub (pn % 2 ^ 64)
    if pn = s.portEnt n 0x47 then s.pulse 510 else s

/-- A received protected frame taken apart: TCI and AN, PN, SCI where it carries one, secured data and ICV, and the bytes that
the ICV covers in clear before the data. -/
structure SecFrame where
  tci : Nat
  pn : Nat
  sci : Option (List Byte)
  head : List Byte
  data : List Byte
  icv : List Byte
  deriving DecidableEq, Repr

/-- Take a frame with a SecTAG apart; none where it is too short. -/
def secParse (b : List Byte) : Option SecFrame :=
  let tci := (b.getD 14 0).toNat
  let sl := (b.getD 15 0).toNat % 64
  let h := if bit tci 5 then 28 else 20
  let len := if sl = 0 then b.length - h - 16 else sl
  if b.length < h + 16 ∨ b.length < h + len + 16 ∨ bit tci 7 then none
  else some ⟨tci, ofBytesBE (slice b 16 4), if bit tci 5 then some (slice b 20 8) else none, b.take h, slice b h len,
    slice b (h + len) 16⟩

/-- The receive SC of a frame: that of its SCI; without one, the source address with port 1 where ES is set, else the first SC with an
SA in use. -/
def State.secChan (s : State) (n : Fin 24) (f : SecFrame) : Option (Fin 4) :=
  match f.sci with
  | some c => (allFin 4).find? fun k => s.sciOf n (0x50 + k.val) == c
  | none =>
    if bit f.tci 6 then (allFin 4).find? fun k => s.sciOf n (0x50 + k.val) == slice f.head 6 6 ++ [0, 1]
    else (allFin 4).find? fun k => bits (s.portEnt n 0x54) (4 * k.val + 3) (4 * k.val) != 0

/-- The 64-bit packet number of a frame whose tag carries the low half, beside the next one expected. -/
def xpnOf (next low : Nat) : Nat :=
  let hi := next / 2 ^ 32
  if next % 2 ^ 32 / 2 ^ 31 = 1 ∧ low < 2 ^ 31 then (hi + 1) * 2 ^ 32 + low else hi * 2 ^ 32 + low

/-- Validate a protected frame: the user data and the state with its packet number counted; none where no SA in use has a key for it,
it is late beside REPLAY_WINDOW, or its ICV is wrong (R367). -/
def State.secCheck (s : State) (n : Fin 24) (f : SecFrame) : Option (State × List Byte) :=
  match s.secChan n f with
  | none => none
  | some c =>
    let a := 4 * c.val + f.tci % 4
    let suite := s.portEnt n 0x41
    let sak := s.eb (0x6000 + n.val) (0x60 + a)
    let next := s.portEnt n (0x70 + a)
    let pn := if isXpn suite then xpnOf next f.pn else f.pn
    let keys := sakKeys suite sak
    let iv := secIv suite sak (s.sciOf n (0x50 + c.val)) pn
    let clear := if bit f.tci 3 then min (s.secClear n) f.data.length else f.data.length
    let ciph := f.data.drop clear
    if !bit (s.portEnt n 0x54) a || sak.length != 48 || decide (pn + s.portEnt n 0x44 < next) ||
        gcmTag keys iv (f.head ++ f.data.take clear) ciph != f.icv then none
    else some (s.setE (0x6000 + n.val) (0x70 + a) (max next ((pn + 1) % 2 ^ 64)), f.data.take clear ++ gcmCrypt keys iv ciph)

/-- A received frame without FCS passes the port's SecY: the frame as it goes on, or none where it is dropped. Short of strict
validation an unprotected frame passes, and so does a protected one that fails validation, its SecTAG and ICV removed, where its
data are in clear (R367, log entry 86). -/
def State.secAccept (s : State) (n : Fin 24) (b : List Byte) : State × Option (List Byte) :=
  let strict := s.portEnt n 0x42 == 2
  if s.portEnt n 0x40 = 0 then (s, some b)
  else if ofBytesBE (slice b 12 2) ≠ 0x88E5 then (s, if strict then none else some b)
  else match secParse b with
  | none => (s, none)
  | some f => match s.secCheck n f with
    | some (s, user) => (s, some (b.take 12 ++ user))
    | none => (s, if strict || bit f.tci 3 then none else some (b.take 12 ++ f.data))

end Sys2Proof.Machine
end

