-- ==== Sys2Proof/Machine/Gateway.lean ====
section
/-! DEFINITION. The switch: reception (R355, R367, R373), transmission from VIs (R382, R397), egress (R356 to R363, R368,
R423), gate lists (R359, R361, R364), time (R358) and the microcode engine (R387). -/
namespace Sys2Proof.Machine

/-! ## The end of a disabled queue pair (R386) -/

/-- Every queue pair that is being disabled and has no frame left on a port or bus: QP_ENABLE reads 0, and the writes of 0 to it
complete. -/
def State.qpSettle (s : State) : State :=
  let one (v : Nat) (s : State) (q : Fin 16) : State :=
    let x := s.qp v q
    match x.stopBy with
    | none => s
    | some l =>
      if !x.prog.isEmpty then s
      else l.foldl (fun s a => s.complete a 0)
        ((s.modQp v q fun y => { y with stopBy := none }).setE (0x6300 + v) (0x14 + 8 * q.val) 0)
  s.gw.vi.foldl (fun (s : State) (e : Nat × Vi) => (allFin 16).foldl (one e.1) s) s

/-! ## Links -/

/-- Power domain of a port's SerDes (Table 16.1). -/
def serdesDomain (n : Fin 24) : Fin 64 := if n.val < 12 then 53 else 54

/-- LINK of a port (Table 11.11). -/
def State.link (s : State) (n : Fin 24) : Nat :=
  if !s.domOn (serdesDomain n) then 2
  else if s.portEnt n 1 ≠ 0 ∧ (s.gw.ports.get n).link ∧ s.switchOn then 1 else 0

/-- PORT_LINK_CHANGE: a link comes up or goes down. -/
def execPortLinkChange (n : Fin 24) (up : Bool) (s : State) : Host.Outcome State Fault Refusal :=
  .next (s.modPort n fun p => { p with link := up, preempt := p.preempt && up })

/-! ## Reception -/

/-- Whether a frame without FCS is a PAUSE or a PFC frame: MAC control with opcode 0x0001 or 0x0101 of IEEE 802.3 (R355). -/
def isPause (b : List Byte) : Bool :=
  let op := ofBytesBE (slice b 14 2)
  decide (ofBytesBE (slice b 12 2) = 0x8808 ∧ (op = 0x0001 ∨ op = 0x0101))

/-- FRAME_RECEIVE: a frame from the destination address through the FCS, as it is on the wire (R355, R367, R373); `rxTime` is
the timestamp that was taken when its start-of-frame delimiter crossed the PCS (R358). -/
def execFrameReceive (n : Fin 24) (fr : List Byte) (fcsOk : Bool) (rxTime : Nat) (s : State) : Host.Outcome State Fault Refusal :=
  .next <| s.served fun s =>
    let idx := 0x6000 + n.val
    if s.link n ≠ 1 then s
    else
      let s := (s.addE idx 0x10 64 1).addE idx 0x11 64 fr.length
      if !fcsOk || fr.length < 64 || s.portEnt n 6 < fr.length then s.addE idx 0x12 32 1
      else
        let b := fr.take (fr.length - 4)
        if isPause b then s.addE idx 0x13 32 1
        else if !s.flowOn then s.addE idx 0x14 32 1
        else match s.secAccept n b with
        | (s, none) => s.addE idx 0x15 32 1
        | (s, some b) => s.tryKeys (.eth n b) rxTime (s.flowKeys n (ethParse b))

/-! ## Transmission from a VI -/

/-- A fresh transmit descriptor in progress. -/
def State.txOpen (s : State) (v : Nat) (q : Fin 16) (idx copies : Nat) : State :=
  s.modQp v q fun x => { x with fetched := x.fetched + 1, prog := x.prog ++ [⟨idx, copies, copies, false, none, s.time⟩] }

/-- A descriptor that completes as soon as it is read. -/
def State.txRefuse (s : State) (v : Nat) (q : Fin 16) (idx code : Nat) : State :=
  (s.modQp v q fun x => { x with fetched := x.fetched + 1 }).txComplete v q idx code none

/-- A bus record of a bus-mode queue pair (R397, R408, R411). A LIN record with LAUNCH stays at the head of its queue pair until its
time (log entry 94). -/
def State.txBus (s : State) (v : Nat) (q : Fin 16) (idx : Nat) (d : List Byte) (rec : List Byte) : State :=
  let w1 := ofBytes (slice d 8 8)
  let ref : TxRef := ⟨v, q.val, idx, bit w1 16, true⟩
  let launch := if bit w1 17 then some (ofBytes (slice d 16 8)) else none
  match parseRecord (bits w1 15 0) rec with
  | none => s.txRefuse v q idx 7
  | some (b, f) =>
    if b < 0x18 then
      let n := fin 23 b
      if !bit (s.busChannels v) b then s.txRefuse v q idx 6
      else if f.fmt = .lin ∨ ¬ s.admits n f.fmt then s.txRefuse v q idx 7
      else if !s.bankOn || s.canDown n then s.txRefuse v q idx 0x11
      else if 32 ≤ (s.gw.can.get n).viCount ∨ 64 ≤ (s.gw.can.get n).held.length then s
      else (s.txOpen v q idx 1).modCan n fun c => { c with q := c.q ++ [⟨f, some ref, launch, 0, false, false, false⟩] }
    else if 0x20 ≤ b ∧ b < 0x2C then
      let m := fin 11 (b - 0x20)
      let early := launch.any fun t => decide (s.time < t)
      let late := launch.any fun t => decide (t + s.ev 0x6100 3 < s.time)
      if !bit (s.busChannels v) (32 + (b - 0x20)) then s.txRefuse v q idx 6
      else if f.fmt ≠ .lin then s.txRefuse v q idx 7
      else if !s.bankOn || s.ev (0x6418 + m.val) 1 == 0 then s.txRefuse v q idx 0x11
      else if early then s
      else if late then s.txRefuse v q idx 2
      else
        let s := (s.txOpen v q idx 1).linBuffer m (f.id.toNat % 64) f.data (some ref)
        if f.data.isEmpty then (s.modLin m fun l => { l with bufs := kvDel (f.id.toNat % 64) l.bufs }).txCopyEnd ref 1 else s
    else s.txRefuse v q idx 6

/-- An Ethernet frame of a VI (R382). -/
def State.txEth (s : State) (v : Nat) (q : Fin 16) (idx : Nat) (d : List Byte) (buf : List Byte) : State :=
  let w1 := ofBytes (slice d 8 8)
  let len := bits w1 15 0
  let e := ethParse (buf ++ List.replicate (60 - len) 0)
  let launch := if bit w1 17 then some (ofBytes (slice d 16 8)) else none
  let ref : TxRef := ⟨v, q.val, idx, bit w1 16, false⟩
  let fits (n : Fin 24) : Bool := decide (14 ≤ len ∧ len + 4 ≤ s.portEnt n 6)
  if bit w1 18 then
    let h := bits w1 51 32
    let s := s.ctxRead [h] []
    match s.ctx? h with
    | none => s.txRefuse v q idx 9
    | some c =>
      if c.owner ≠ v then s.txRefuse v q idx 6
      else if bit c.action.toNat 1 && !((allFin 24).filter fun n => bit c.egress n.val).all fits then s.txRefuse v q idx 7
      else
        let copies := if bit c.action.toNat 1 then portCount c.egress else 0
        match (s.txOpen v q idx copies).flowActions h c e (max 64 (len + 4)) none (some ref) launch s.time with
        | (s, .dropped) => s.txComplete v q idx 0xB none
        | (s, .sent k) => if k = 0 then s.txComplete v q idx 1 none else s
  else
    let n := fin 23 (bits w1 23 19)
    if 24 ≤ bits w1 23 19 ∨ ¬ bit (s.ev (0x6300 + v) 2) n.val then s.txRefuse v q idx 6
    else if !fits n then s.txRefuse v q idx 7
    else (s.txOpen v q idx 1).egress n e e.vid e.prio launch (some ref)

/-- TX_DESCRIPTOR_READ_DONE: the next posted descriptor of a queue pair and its buffer have been read, and the frame or
record passes its checks (R382, R384, R397). A VI record that finds no entry waits (R408). -/
def execTxDescriptorReadDone (v : Fin 256) (q : Fin 16) (s : State) : Host.Outcome State Fault Refusal :=
  .next <| s.served fun s =>
    let x := s.qp v.val q
    if !s.qpOn v.val q || !s.switchOn || x.fetched == x.txTail then s
    else
      let idx := x.fetched.toNat
      let a := s.txAddr v.val q idx
      match s.dmaRead (viMaster v.val) a 32 with
      | (s, none) => s.qpStop v.val q idx a
      | (s, some (_, true)) => (s.record bankGw 0x13 4 v.val a 0).qpStop v.val q idx a
      | (s, some (d, false)) =>
        let w1 := ofBytes (slice d 8 8)
        let bus := s.busMode v.val q
        let zeros := decide (bits w1 31 24 = 0 ∧ bits w1 55 52 = 0 ∧ (bus = true → bits w1 23 18 = 0 ∧ bits w1 51 32 = 0))
        let len := bits w1 15 0
        if !zeros || (!bus && len < 14) then s.txRefuse v.val q idx 7
        else match s.dmaRead (viMaster v.val) (ofBytes (slice d 0 8)) len with
        | (s, none) => s.txRefuse v.val q idx 8
        | (s, some (_, true)) => (s.record bankGw 0x13 4 v.val (ofBytes (slice d 0 8)) 0).txRefuse v.val q idx 8
        | (s, some (b, false)) => if bus then s.txBus v.val q idx d b else s.txEth v.val q idx d b

/-- ACF_FRAME_BUILD: a closed window of a stream becomes an Ethernet frame under the context at HANDLE (R405). -/
def execAcfFrameBuild (k : Fin 64) (s : State) : Host.Outcome State Fault Refusal :=
  .next <| s.served fun s =>
    let w := s.gw.win.get k
    match w.built with
    | [] => s
    | (openAt, msgs) :: rest =>
      let s := s.modWin k fun w => { w with built := rest }
      let e (sub : Nat) : Nat := s.ev (0x6510 + k.val) sub
      let acf := msgs.flatten
      let seq := e 0xE
      let s := (s.setE (0x6510 + k.val) 0xE ((seq + 1) % 256)).addE 0x6500 1 64 1
      let vlan := e 6
      let hdr := if e 2 = 0 then
          [0x82] ++ toBytesBE 2 (0x8000 + acf.length % 2048) ++ [BitVec.ofNat 8 seq] ++ toBytes 8 (e 3)
        else
          [0x05, 0x81, BitVec.ofNat 8 seq, 0] ++ toBytes 8 (e 3) ++ toBytesBE 4 ((openAt + e 0xC) % 2 ^ 32) ++ [0, 0, 0, 0] ++
            toBytesBE 2 acf.length ++ [0, 0]
      let body := [0x22, 0xF0] ++ hdr ++ acf
      let tag := bit vlan 15
      let head := 12 + (if tag then 4 else 0)
      let fr : Eth := ⟨toBytes 6 (e 4) ++ toBytes 6 (e 5), if tag then some (bits vlan 14 12 * 2 ^ 13 + bits vlan 11 0) else none,
        none, body ++ List.replicate (60 - head - body.length) 0⟩
      let h := bits (e 7) 19 0
      let s := s.ctxRead [h] []
      match s.ctx? h with
      | none => s.convDrop
      | some c =>
        if c.owner ≠ e 0xD then s.convDrop
        else (s.flowActions h c fr (fr.bytes.length + 4) none none none s.time).1

/-! ## Egress -/

/-- Time of a number of octets on a port, in ns, rounded up. -/
def octetTime (n : Fin 24) (k : Nat) : Nat := (k * 8 * 1000 + portRate n - 1) / portRate n

/-- Records of a gate control list: interval and gate states (R359, R364). -/
def gclRecs (l : List Byte) : List (Nat × Nat) :=
  (chunks 8 (l.length / 8) l).map fun r => (ofBytes (r.take 4), (r.getD 4 0).toNat)

/-- The list in force on a port. -/
def State.gclOper (s : State) (n : Fin 24) : List (Nat × Nat) := gclRecs (s.eb (0x6101 + n.val) 5)

/-- The time for which a queue's gate stays open through the records from index k on, at most n records. -/
def openFor (l : List (Nat × Nat)) (q : Nat) : Nat → Nat → Nat
  | 0, _ => 0
  | n + 1, k =>
    match l[k % l.length]? with
    | some (t, g) => if bit g q then t + openFor l q n (k + 1) else 0
    | none => 0

/-- Whether a gate list keeps a queue's gate open without end. -/
def alwaysOpen (l : List (Nat × Nat)) (q : Nat) : Bool := l.all fun r => bit r.2 q

/-- Whether one of a list's open intervals of a queue holds a frame of a duration. -/
def listFits (l : List (Nat × Nat)) (q dur : Nat) : Bool :=
  l.isEmpty || alwaysOpen l q || (List.range l.length).any fun k => decide (dur ≤ openFor l q l.length k)

/-- The list that takes over at the switch of R361; none where none is pending. -/
def State.gclNext (s : State) (n : Fin 24) : Option (List (Nat × Nat)) :=
  if (s.gw.ports.get n).gclPending then some (gclRecs (s.eb (0x6101 + n.val) 1)) else none

/-- Whether a frame of a duration can ever start on a queue, under the list in force or the one that follows it (R360). -/
def State.everFits (s : State) (n : Fin 24) (q dur : Nat) : Bool :=
  listFits (s.gclOper n) q dur || (s.gclNext n).any fun l => listFits l q dur

/-- Whether the whole transmission ends before the queue's gate closes; from the time of a pending switch on, the new list's gates
count (R360, R361). -/
def State.gateFits (s : State) (n : Fin 24) (q dur : Nat) : Bool :=
  let l := s.gclOper n
  let p := s.gw.ports.get n
  let end_ := s.time + dur
  let free := l.isEmpty || alwaysOpen l q
  let stays (t : Nat) : Bool := free || (bit p.gates.toNat q && decide (t ≤ p.gclAt + openFor l q l.length (p.gclIdx + 1)))
  match s.gclNext n with
  | none => stays end_
  | some m =>
    if end_ ≤ p.gclT then stays end_
    else stays p.gclT && (m.isEmpty || alwaysOpen m q || decide (end_ ≤ p.gclT + openFor m q m.length 0))

/-- A frame without FCS as it leaves the switch: tagged unless its VID is UNTAG_VID (R356), and padded to the shortest frame. -/
def State.plainBytes (s : State) (n : Fin 24) (f : EgFrame) : List Byte :=
  let b := if f.vid = s.portEnt n 8 then f.bytes
    else f.bytes.take 12 ++ [0x81, 0x00] ++ toBytesBE 2 (f.prio % 8 * 2 ^ 13 + f.vid % 2 ^ 12) ++ f.bytes.drop 12
  b ++ List.replicate (60 - b.length) 0

/-- A frame without FCS as it is on the wire, protected where MACsec is enabled; whether the SecTAG carries the SCI is free (R367,
log entry 2). -/
def State.wireBytes (s : State) (n : Fin 24) (f : EgFrame) : State × List Byte :=
  if s.portEnt n 0x40 = 0 then (s, s.plainBytes n f)
  else ({ s with fresh := s.fresh + 1 }, s.secProtect n (Config.freeBool s.fresh) (s.plainBytes n f))

/-- A frame discarded at the head of an egress queue. -/
def State.egDrop (s : State) (n : Fin 24) (q : Fin 8) (f : EgFrame) (code : Nat) (count : Bool) : State :=
  let s := s.modPort n fun p => p.popQueue q s.time
  let s := if count then s.addE (0x6000 + n.val) 0x18 32 1 else s
  match f.ref with
  | some r => s.txCopyEnd r code
  | none => s

/-! ## Preemption (R363) -/

/-- Whether preemption is active on a port: its link is up, and the verify exchange has succeeded where PREEMPT_VERIFY asks for it. -/
def State.preemptActive (s : State) (n : Fin 24) : Bool :=
  s.link n == 1 && (s.ev (0x6101 + n.val) 0x12 == 0 || (s.gw.ports.get n).preempt)

/-- Whether a queue's frames can be preempted; while preemption is not active, every queue is sent as express. -/
def State.preemptable (s : State) (n : Fin 24) (q : Nat) : Bool := bit (s.ev (0x6101 + n.val) 0x10) q && s.preemptActive n

/-- Octets of a frame that have been sent. -/
def State.sentOctets (s : State) (n : Fin 24) (t : Sending) : Nat := (s.time - t.startAt) * portRate n / 8000

/-- What is left of a frame that an express frame interrupts: a fragment of at least 64 × (1 + addFragSize) octets has been sent and at
least 64 remain (IEEE 802.3br, log entry 87). -/
def State.cut (s : State) (n : Fin 24) (t : Sending) : Option Sending :=
  let k := s.sentOctets n t
  if 64 * (1 + s.ev (0x6101 + n.val) 0x11) ≤ k ∧ k + 64 ≤ t.octets then some { t with octets := t.octets - k } else none

/-- A shaped queue's credit falls at IDLE_SLOPE less the port's rate while its octets are sent (R362). -/
def State.creditLoss (s : State) (n : Fin 24) (q octets : Nat) : State :=
  let slope := s.slope n q
  let loss : Int := if slope = 0 then 0 else ((portRate n : Int) * 1000 - slope) * octetTime n octets
  s.modPort n fun p => { p with credit := vmod p.credit (fin 7 q) fun c => c - loss }

/-! ## Transmission -/

/-- Whether an earlier frame of the same queue pair waits in another queue of the port: transmit frames of one queue pair to one
port leave in ring order (R385). -/
def State.ringHeld (s : State) (n : Fin 24) (q : Fin 8) (f : EgFrame) : Bool :=
  match f.ref with
  | none => false
  | some r =>
    let age (k : Nat) : Nat := (BitVec.ofNat 16 k - (s.qp r.vi (fin 15 r.qp)).txHead).toNat
    (allFin 8).any fun p => p != q && ((s.gw.ports.get n).queues.get p).any fun g =>
      g.ref.any fun x => x.vi == r.vi && x.qp == r.qp && decide (age x.idx < age r.idx)

/-- The frame at the head of an egress queue is checked against link, launch time, gate, credit, MACsec and envelope, and starts or is
discarded; `cut` is what it leaves of a frame that it interrupts. -/
def State.txHead (s : State) (n : Fin 24) (q : Fin 8) (cut : Option Sending) : State :=
  let p := s.gw.ports.get n
  match p.queues.get q with
  | [] => s
  | f :: _ =>
    if !s.switchOn then s
    else if s.link n ≠ 1 then s.egDrop n q f 5 true
    else
      let early := f.launch.any fun t => decide (s.time < t)
      let late := f.launch.any fun t => decide (t + s.ev 0x6100 3 < p.headAt.get q)
      if early || !s.env.locked || s.ringHeld n q f then s
      else if late then s.egDrop n q f 2 true
      else
        let (s, wire) := s.wireBytes n f
        let len := wire.length + 4
        let dur := octetTime n (len + 8)
        if !s.everFits n q.val dur then s.egDrop n q f 3 true
        else if !s.gateFits n q.val dur then s
        else if s.slope n q.val ≠ 0 ∧ p.credit.get q < 0 then s
        else if s.pnExhausted n then s.egDrop n q f 0xC false
        else match s.portCheck n len with
        | (s, false) => s.egDrop n q f 4 false
        | (s, true) =>
          let s := match p.sending with
            | some t => s.creditLoss n t.q (s.sentOctets n t)
            | none => s
          let s := s.modPort n fun p =>
            { p.popQueue q s.time with sending := some ⟨q.val, f, len, s.time, wire⟩, paused := cut }
          let s := s.secCount n
          match f.ref with
          | some r => s.txBegun r
          | none => s

/-- An interrupted frame goes on where what is left of it ends before its queue's gate closes. -/
def State.txResume (s : State) (n : Fin 24) (r : Sending) : State :=
  if s.switchOn ∧ s.gateFits n r.q (octetTime n (r.octets + 8)) then
    s.modPort n fun p => { p with sending := some { r with startAt := s.time }, paused := none }
  else s

/-- FRAME_TRANSMIT_START: an idle port takes the head of an egress queue, or goes on with an interrupted frame of that queue; an
express frame interrupts a preemptable one (R357, R360, R362, R363, R368, R382, R423). -/
def execFrameTransmitStart (n : Fin 24) (q : Fin 8) (s : State) : Host.Outcome State Fault Refusal :=
  .next <| s.served fun s => State.qpSettle <|
    let s := s.credits n
    let p := s.gw.ports.get n
    let low := s.preemptable n q.val
    match p.sending, p.paused with
    | some t, none =>
      if low || !s.preemptable n t.q then s
      else match s.cut n t with
      | none => s
      | some r => s.txHead n q (some r)
    | some _, some _ => s
    | none, some r =>
      if r.q = q.val then s.txResume n r
      else if low then s
      else s.txHead n q (some r)
    | none, none => s.txHead n q none

/-- FRAME_TRANSMIT_END: the frame a port sends has ended: counters, credit (R362) and completion. -/
def execFrameTransmitEnd (n : Fin 24) (s : State) : Host.Outcome State Fault Refusal :=
  .next <| s.served fun s => State.qpSettle <|
    let s := s.credits n
    match (s.gw.ports.get n).sending with
    | none => s
    | some t =>
      let idx := 0x6000 + n.val
      let s := (s.creditLoss n t.q (t.octets + 8)).modPort n fun p => { p with sending := none }
      let s := (s.addE idx 0x16 64 1).addE idx 0x17 64 (t.wire.length + 4)
      match t.fr.ref with
      | some r => (s.addE (0x6300 + r.vi) 9 64 1).txCopyEnd r 1
      | none => s

/-- LAUNCH_TIME_REACHED: the frame that was at the head of a queue at its launch time may start from then on (R382). -/
def execLaunchTimeReached (n : Fin 24) (q : Fin 8) (s : State) : Host.Outcome State Fault Refusal :=
  .next <|
    let p := s.gw.ports.get n
    match p.queues.get q with
    | [] => s
    | f :: rest =>
      if f.launch.any fun t => decide (t ≤ s.time ∧ p.headAt.get q ≤ t) then
        s.modPort n fun p => { p with queues := vset p.queues q ({ f with launch := none } :: rest) }
      else s

/-- SHAPER_CREDIT_RECOVERED: a shaped queue's credit has grown back to zero; while its gate is closed it is held (R362). -/
def execShaperCreditRecovered (n : Fin 24) (q : Fin 8) (s : State) : Host.Outcome State Fault Refusal :=
  .next <|
    let s := s.credits n
    let p := s.gw.ports.get n
    if p.gates.toNat.testBit q.val ∧ p.credit.get q < 0 then s.modPort n fun p => { p with credit := vset p.credit q 0 } else s

/-! ## Gate lists -/

/-- GATE_CONTROL_INTERVAL_END: the next record of the port's list is in force (R359). -/
def execGateControlIntervalEnd (n : Fin 24) (s : State) : Host.Outcome State Fault Refusal :=
  .next <|
    let l := s.gclOper n
    if l.isEmpty then s
    else (s.credits n).modPort n fun p =>
      let k := (p.gclIdx + 1) % l.length
      let (t, g) := l.getD k (0, 0)
      { p with gclIdx := k, gates := BitVec.ofNat 8 g, gclAt := p.gclAt + t }

/-- The first switch time of R361: base + k × cycle at least 1 ms after now. -/
def switchTime (base cycle now : Nat) : Nat :=
  if cycle = 0 then now + 1000000
  else if now + 1000000 ≤ base then base
  else base + (now + 1000000 - base + cycle - 1) / cycle * cycle

/-- Cycle time of a list (R359). -/
def cycleOf (l : List (Nat × Nat)) : Nat := (l.map (·.1)).foldl (· + ·) 0

/-- A write of 1 to GCL_APPLY that is accepted (R361). -/
def State.gclArm (s : State) (n : Fin 24) : State :=
  let l := gclRecs (s.eb (0x6101 + n.val) 1)
  s.modPort n fun p => { p with gclPending := true, gclT := switchTime (s.ev (0x6101 + n.val) 2) (cycleOf l) s.time }

/-- GCL_SWITCH: at its time the admin list comes into force and the old cycle is cut off, by the microcode (R361, R387, log
entry 93). -/
def execGclSwitch (n : Fin 24) (s : State) : Host.Outcome State Fault Refusal :=
  .next <|
    if (s.gw.ports.get n).gclPending && s.gw.ucode == .running then
      let b := s.eb (0x6101 + n.val) 1
      let (t, g) := (gclRecs b).headD (0, 0xFF)
      ((s.credits n).setB (0x6101 + n.val) 5 b).modPort n fun p =>
        { p with gclPending := false, gclIdx := 0, gates := BitVec.ofNat 8 g, gclAt := p.gclT + t }
    else s

/-- Records of a stream gate's list: interval and whether the gate is open (R364). -/
def sglRecs (l : List Byte) : List (Nat × Bool) :=
  (chunks 8 (l.length / 8) l).map fun r => (ofBytes (r.take 4), bit (ofBytes (slice r 4 1)) 0)

/-- Change a stream gate. -/
def State.modGate (s : State) (g : Fin 64) (f : SGate → SGate) : State := { s with gw := { s.gw with sgates := vmod s.gw.sgates g f } }

/-- A write of 1 to SGL_APPLY that is accepted (R361, R364). -/
def State.sglArm (s : State) (g : Fin 64) : State :=
  let l := sglRecs (s.eb (0x6130 + g.val) 1)
  let cycle := (l.map (·.1)).foldl (· + ·) 0
  s.modGate g fun x => { x with pending := true, switchAt := switchTime (s.ev (0x6130 + g.val) 2) cycle s.time }

/-- SGL_SWITCH (R361, R364, R387, log entry 93). -/
def execSglSwitch (g : Fin 64) (s : State) : Host.Outcome State Fault Refusal :=
  .next <|
    if (s.gw.sgates.get g).pending && s.gw.ucode == .running then
      let b := s.eb (0x6130 + g.val) 1
      let (t, o) := (sglRecs b).headD (0, true)
      (s.setB (0x6130 + g.val) 5 b).modGate g fun x => { x with pending := false, idx := 0, isOpen := o, at_ := x.switchAt + t }
    else s

/-- STREAM_GATE_INTERVAL_END: the next record of a stream gate's list is in force (R364). -/
def execStreamGateIntervalEnd (g : Fin 64) (s : State) : Host.Outcome State Fault Refusal :=
  .next <|
    let l := sglRecs (s.eb (0x6130 + g.val) 5)
    if l.isEmpty then s
    else s.modGate g fun x =>
      let k := (x.idx + 1) % l.length
      let (t, o) := l.getD k (0, true)
      { x with idx := k, isOpen := o, at_ := x.at_ + t }

/-- PREEMPT_VERIFY_RESPONSE: the outcome of the verify exchange with the link partner (R363). -/
def execPreemptVerifyResponse (n : Fin 24) (ok : Bool) (s : State) : Host.Outcome State Fault Refusal :=
  .next (s.modPort n fun p => { p with preempt := ok })

/-! ## Time and microcode -/

/-- Whether an instance runs: the microcode does, and its domain is not disabled (R358, R387). -/
def State.gptpRuns (s : State) (k : Fin 4) : Bool := s.gw.ucode == .running && s.ev 0x6100 (4 + k.val) != 0xFF

/-- Whether an instance disciplines device time (R358). -/
def State.disciplines (s : State) (k : Fin 4) : Bool := s.gptpRuns k && s.ev 0x6100 1 == k.val

/-- Whether a port belongs to an instance (R358). -/
def State.gptpPort (s : State) (k : Fin 4) (n : Fin 24) : Bool := bit (s.ev 0x6100 (8 + k.val)) n.val

/-- Priority vector heard on a port of an instance. -/
def State.gptpHeard (s : State) (k : Fin 4) (n : Fin 24) : Option Nat :=
  if s.gptpPort k n then (s.gw.gptp.get k).heard.get n else none

/-- The port of an instance with the best vector, the lowest of equal ones: the best master clock algorithm of IEEE 802.1AS (log
entry 84). -/
def State.gptpBest (s : State) (k : Fin 4) : Option (Fin 24 × Nat) :=
  (allFin 24).foldl (fun (b : Option (Fin 24 × Nat)) n =>
    match s.gptpHeard k n, b with
    | none, _ => b
    | some v, none => some (n, v)
    | some v, some (m, w) => if v < w then some (n, v) else some (m, w)) none

/-- The slave port of an instance, on which its grandmaster is heard; none where there is no grandmaster or the device is it (R358). -/
def State.gptpSlave (s : State) (k : Fin 4) : Option (Fin 24) :=
  if bit (s.ev 0x6100 0xD) k.val then
    let p := s.ev 0x6100 (0x10 + k.val)
    if p < 24 ∧ (s.gptpHeard k (fin 23 p)).isSome then some (fin 23 p) else none
  else match s.gptpBest k with
    | some (n, v) => if bit (s.ev 0x6100 0xC) k.val ∧ Config.gptpOwn k.val ≤ v then none else some n
    | none => none

/-- Whether the device is the grandmaster of an instance: it may be and hears no better one, or external configuration says so. -/
def State.gptpMaster (s : State) (k : Fin 4) : Bool :=
  if bit (s.ev 0x6100 0xD) k.val then s.ev 0x6100 (0x10 + k.val) == 0xFF
  else bit (s.ev 0x6100 0xC) k.val && (s.gptpSlave k).isNone

/-- TIME_LOCKED: the instance that disciplines device time has a grandmaster whose Sync has come (R358). -/
def State.timeLocked (s : State) : Bool :=
  (allFin 4).any fun k => s.disciplines k && (s.gptpSlave k).isSome && (s.gw.gptp.get k).synced

/-- Change an instance; where the change takes its grandmaster away or brings another, no Sync of that one has come yet. -/
def State.modGptp (s : State) (k : Fin 4) (f : Gptp → Gptp) : State :=
  let t : State := { s with gw := { s.gw with gptp := vmod s.gw.gptp k f } }
  if t.gptpSlave k = s.gptpSlave k then t
  else { t with gw := { t.gw with gptp := vmod t.gw.gptp k fun x => { x with synced := false } } }

/-- A Sync message leaves on a port: an untagged 802.1AS frame whose contents and priority the spec leaves to the standard. -/
def State.sendSync (s : State) (n : Fin 24) : State :=
  let body := [0x01, 0x80, 0xC2, 0x00, 0x00, 0x0E] ++ slice (Config.freeBytes s.fresh) 0 6 ++ [0x88, 0xF7] ++
    slice (Config.freeBytes (s.fresh + 1)) 0 44
  let prio := Config.freeNat (s.fresh + 2) % 8
  { s with fresh := s.fresh + 3 }.egress n (ethParse body) (some (s.portEnt n 8)) prio none none

/-- GPTP_MESSAGE: the microcode processes an 802.1AS message. An Announce counts in the choice of the slave port; a Sync on the slave
port of the instance that disciplines device time gives the offset and moves device time, which never steps backward, by a free
amount (R358, R473, log entry 2). Messages on other ports or of other domains have no effect. -/
def execGptpMessage (k : Fin 4) (e : GptpEvent) (s : State) : Host.Outcome State Fault Refusal :=
  .next <|
    match e with
    | .announce n d v =>
      if s.gptpRuns k ∧ s.gptpPort k n ∧ d.toNat = s.ev 0x6100 (4 + k.val) then
        s.modGptp k fun x => { x with heard := vset x.heard n (some v) }
      else s
    | .sync n d off =>
      if s.gptpRuns k ∧ s.gptpSlave k = some n ∧ d.toNat = s.ev 0x6100 (4 + k.val) then
        let s := s.modGptp k fun x => { x with synced := true }
        if s.disciplines k then
          let s := s.setE 0x6100 0x14 (BitVec.ofInt 64 off).toNat
          { s with time := s.time + Config.freeNat s.fresh, fresh := s.fresh + 1 }
        else s
      else s

/-- GPTP_TIMER: a Sync is due, which every port of the instance but its slave port sends while the instance has a grandmaster or the
device is it; or the Announces of a port have stopped, and the grandmaster heard on it is lost (R358). -/
def execGptpTimer (k : Fin 4) (e : GptpTimer) (s : State) : Host.Outcome State Fault Refusal :=
  .next <|
    if !s.gptpRuns k then s
    else match e with
    | .syncDue =>
      let slave := s.gptpSlave k
      if slave.isNone && !s.gptpMaster k then s
      else ((allFin 24).filter fun n => s.gptpPort k n && slave != some n).foldl (fun s n => s.sendSync n) s
    | .announceLost n => s.modGptp k fun x => { x with heard := vset x.heard n none }

/-- MICROCODE_WATCHDOG_EXPIRY: the engine fails; source 509 is raised, device time runs free and forwarding goes on
(R387). -/
def execMicrocodeWatchdogExpiry (s : State) : Host.Outcome State Fault Refusal :=
  .next <|
    if s.gw.ucode = .running then
      { s with gw := { s.gw with ucode := .failed } }.pulse 509
    else s

end Sys2Proof.Machine
end

