-- ==== Sys2Proof/Machine/BusOps.lean ====
section
/-! DEFINITION. The CAN and LIN controllers (R389 to R391, R408 to R414, R424), their orderly stop (R417) and the disabling of
queue pairs (R386). -/
namespace Sys2Proof.Machine

/-! ## Disabling a queue pair (R386) -/

/-- Whether a reference is to a descriptor. -/
def TxRef.hits (r : TxRef) (v q idx : Nat) : Bool := r.vi == v && r.qp == q && r.idx == idx

/-- Take the copies of a descriptor's frame out of every egress and bus queue. -/
def State.pullFrames (s : State) (v q idx : Nat) : State :=
  let mine (r : Option TxRef) : Bool := r.any fun r => r.hits v q idx
  { s with gw := { s.gw with
      ports := s.gw.ports.map fun p => p.setQueues (p.queues.map fun l => l.filter fun f => !mine f.ref) s.time,
      can := s.gw.can.map fun c => { c with q := c.q.filter fun t => !mine t.ref },
      lin := s.gw.lin.map fun l => { l with bufs := l.bufs.filter fun e => !mine e.2.2 } } }

/-- A write of 0 to QP_ENABLE (R386): transmit descriptors whose frames have begun end normally, every other one and every
unfilled receive descriptor completes as aborted. The write completes with the last final status. -/
def State.qpDisable (s : State) (v : Nat) (q : Fin 16) (a : Option Asker) : State :=
  let x := s.qp v q
  let begun (i : Nat) : Bool := x.prog.any fun p => p.idx == i && (p.begun || p.left < p.total)
  let tx := (ringIdx x.txHead x.txTail).filter fun i => !x.done.contains i && !begun i
  let rx := (ringIdx x.rxHead x.rxTail).filter fun i => !x.rxDone.contains i
  let s := s.modQp v q fun y => { y with fetched := y.txTail, rx := [], stopBy := some (y.stopBy.getD [] ++ a.toList) }
  let s := tx.foldl (fun s i => (s.pullFrames v q.val i).txComplete v q i 0xA none) s
  (rx.foldl (fun s i => s.rxComplete v q i 0x83) s).qpSettle

/-! ## States of a CAN channel -/

/-- A CAN channel changes state; source 472 + n is pulsed on each change (R414). -/
def State.canState (s : State) (n : Fin 24) (st : CanSt) : State :=
  if (s.gw.can.get n).st = st then s else (s.modCan n fun c => { c with st := st }).pulse (472 + n.val)

/-- Remove every queued frame of a channel (R414). -/
def State.canFlush (s : State) (n : Fin 24) : State :=
  let q := (s.gw.can.get n).q
  q.foldl (fun s t => s.canDiscard n t 0x11) (s.modCan n fun c => { c with q := [] })

/-- Stop a channel once no attempt runs, which completes a write of 0 to ENABLE (R417). -/
def State.canStopNow (s : State) (n : Fin 24) : State :=
  let by_ := (s.gw.can.get n).stopBy
  let s := s.modCan n fun c => { c with stopping := false, stopBy := none, hold := false, recovering := false }
  (((s.canState n .stopped).canFlush n).completeIf by_ 0).qpSettle

/-- An orderly stop: an attempt in progress ends first (R417). -/
def State.canStop (s : State) (n : Fin 24) : State :=
  if (s.gw.can.get n).attempt.isSome then s.modCan n fun c => { c with stopping := true } else s.canStopNow n

/-- A channel comes into service: it integrates into the bus, its counters zero (Table 12.9). -/
def State.canStart (s : State) (n : Fin 24) : State :=
  if (s.gw.can.get n).st = .stopped then
    (s.modCan n fun c => { c with tec := 0, rec_ := 0, stopping := false }).canState n .integrating
  else s

/-- Fault confinement (R389, ISO 11898-1): bus-off at a TEC of 256, error-passive from 128 of either counter; entering
bus-off removes every queued frame (R414). -/
def State.canConfine (s : State) (n : Fin 24) : State :=
  let c := s.gw.can.get n
  match c.st with
  | .active | .passive =>
    if 256 ≤ c.tec then ((s.canState n .busOff).addE (0x6400 + n.val) 0x17 32 1).canFlush n
    else if 128 ≤ c.tec ∨ 128 ≤ c.rec_ then s.canState n .passive
    else s.canState n .active
  | _ => s

/-! ## Attempts -/

/-- The arbitration field as a number: the lower value wins (R409, ISO 11898-1). -/
def arbField (f : BusFrame) : Nat :=
  if f.ext ∧ f.fmt ≠ .xl then
    f.id.toNat / 2 ^ 18 * 2 ^ 21 + 2 ^ 20 + 2 ^ 19 + f.id.toNat % 2 ^ 18 * 2 + b2n f.rtr
  else f.id.toNat % 2 ^ 11 * 2 ^ 21 + b2n f.rtr * 2 ^ 20

/-- Time of a number of bits at a timing entry's rate, in ns: quanta of the 80 MHz kernel clock (R390). -/
def bitTime (timing k : Nat) : Nat :=
  (k * (bits timing 7 0 + 1) * (1 + bits timing 15 8 + bits timing 22 16) * 25 + 1) / 2

/-- The longest time of a frame of the same format, identifier format, length and bit-rate switch, with the most stuff bits
and no error frame (R424; bit counts of ISO 11898-1, log entry 26). -/
def State.longestTime (s : State) (n : Fin 24) (f : BusFrame) : Nat :=
  let nom := s.ev (0x6400 + n.val) 3
  let k := 8 * (if f.rtr then 0 else f.data.length)
  match f.fmt with
  | .cc | .lin =>
    let st := (if f.ext then 54 else 34) + k
    bitTime nom (st + 10 + (st - 1) / 4)
  | .fd =>
    let arb := if f.ext then 36 else 17
    let crc := if f.data.length ≤ 16 then 17 + 4 + 6 else 21 + 4 + 7
    let dat := 5 + k + (5 + k) / 4 + crc
    let t := if f.brs then s.ev (0x6400 + n.val) 4 else nom
    bitTime nom (arb + (arb - 1) / 4 + 10) + bitTime t dat
  | .xl =>
    let dat := 108 + k
    bitTime nom 34 + bitTime (s.ev (0x6400 + n.val) 5) (dat + dat / 10)

/-- The frame that wins against every other queued frame that may be sent now, the first entered among equals (R409). -/
def State.canSelect (s : State) (n : Fin 24) : Option (Nat × TxBus) :=
  let ready := (s.gw.can.get n).q.zipIdx.filter fun e => !(e.1.launch.any fun t => decide (s.time < t))
  ready.foldl (fun best e => match best with
    | none => some (e.2, e.1)
    | some b => if arbField e.1.fr < arbField b.2.fr then some (e.2, e.1) else some b) none

/-- Drop a selected frame: a VI record completes with a code. -/
def State.canDrop (s : State) (n : Fin 24) (k : Nat) (t : TxBus) (code : Nat) : State :=
  let s := s.modCan n fun c => { c with q := c.q.eraseIdx k }
  match t.ref with
  | some r => s.txCopyEnd r code
  | none => s

/-- CAN_ARBITRATION_ATTEMPT: the selected frame passes the envelope and its attempt starts (R409, R422, R424). -/
def execCanArbitrationAttempt (n : Fin 24) (s : State) : Host.Outcome State Fault Refusal :=
  .next <| s.served fun s => State.qpSettle <|
    let c := s.gw.can.get n
    if !s.bankOn || !(c.st == .active || c.st == .passive) || c.attempt.isSome || c.stopping || c.hold ||
        s.ev (0x6400 + n.val) 8 != 0 || !s.env.locked then s
    else match s.canSelect n with
    | none => s
    | some (k, t) =>
      if t.launch.any fun l => decide (l + s.ev 0x6100 3 < s.time) then s.canDrop n k t 2
      else match s.canCheck n t.fr (s.longestTime n t.fr) t.checked t.heldOnce with
      | (s, .drop) => s.canDrop n k t 4
      | (s, .hold) =>
        s.modCan n fun c => { c with hold := true, q := c.q.zipIdx.map fun e => if e.2 = k then { e.1 with heldOnce := true, checked := true } else e.1 }
      | (s, .go) =>
        let s := s.modCan n fun c => { c with q := c.q.eraseIdx k, attempt := some { t with checked := true, launch := none }, attemptAt := s.time }
        match t.ref with
        | some r => s.txBegun r
        | none => s

/-- LOAD_HOLD_END: the hold of R424 ends and selection runs afresh. -/
def execLoadHoldEnd (n : Fin 24) (s : State) : Host.Outcome State Fault Refusal :=
  .next (s.modCan n fun c => { c with hold := false })

/-- Put a frame back into the queue after an attempt that did not send it. -/
def State.canRequeue (s : State) (n : Fin 24) (t : TxBus) : State :=
  let s := match t.ref with
    | some r => s.modQp r.vi (fin 15 r.qp) fun (x : Qp) =>
        { x with prog := x.prog.map fun (y : TxProg) => if y.idx = r.idx then { y with begun := false } else y }
    | none => s
  s.modCan n fun c => { c with q := t :: c.q }

/-- CAN_ATTEMPT_END: an attempt of a duration ends in success, error or lost arbitration (R413, R414, R417). -/
def execCanAttemptEnd (n : Fin 24) (e : CanEnd) (dur : Nat) (s : State) : Host.Outcome State Fault Refusal :=
  .next <| s.served fun s => State.qpSettle <|
    let idx := 0x6400 + n.val
    match (s.gw.can.get n).attempt with
    | none => s
    | some t =>
      let s := s.modCan n fun c =>
        { c with attempt := none, busy := (c.busy ++ [(c.attemptAt, c.attemptAt + dur)]).filter fun b => s.time ≤ b.2 + 100000000 }
      let s := match e with
        | .ok =>
          let s := (s.addE idx 0x14 64 1).modCan n fun c => { c with tec := c.tec - 1 }
          match t.ref with
          | some r => s.txCopyEnd r 1
          | none => s
        | .lost => (s.addE idx 0x16 32 1).canRequeue n t
        | .error | .errorLastEof =>
          let s := (s.addE idx 0x15 32 1).modCan n fun c => { c with tec := c.tec + 8 }
          let t := { t with errors := t.errors + 1, lastEof := e == CanEnd.errorLastEof }
          let lim := s.ev idx 9
          if lim ≠ 0 ∧ lim ≤ t.errors then s.canDiscard n t (if t.lastEof then 0x12 else 0x10)
          else s.canRequeue n t
      let s := s.canConfine n
      if (s.gw.can.get n).stopping then s.canStopNow n else s

/-- CAN_BUSOFF_RECOVERY: 128 occurrences of 11 recessive bits have passed; recovery has started by itself or by RESTART
(R414). -/
def execCanBusoffRecovery (n : Fin 24) (s : State) : Host.Outcome State Fault Refusal :=
  .next <|
    let c := s.gw.can.get n
    if c.st = .busOff ∧ (s.ev (0x6400 + n.val) 0xA = 1 ∨ c.recovering) then
      (s.modCan n fun c => { c with tec := 0, rec_ := 0, recovering := false }).canState n .active
    else s

/-- CAN_ERROR_DETECTED: an error seen while receiving raises REC (R389, Table 12.1). -/
def execCanErrorDetected (n : Fin 24) (e : RecError) (s : State) : Host.Outcome State Fault Refusal :=
  .next <| s.served fun s =>
    let c := s.gw.can.get n
    if c.st = .active ∨ c.st = .passive then
      let k := match e with
        | .one => 1
        | .eight => 8
      ((s.addE (0x6400 + n.val) 0x15 32 1).modCan n fun c => { c with rec_ := c.rec_ + k }).canConfine n
    else s

/-- CAN_INTEGRATION_END: 11 recessive bits have passed and the channel takes part in the bus (Table 12.9). -/
def execCanIntegrationEnd (n : Fin 24) (s : State) : Host.Outcome State Fault Refusal :=
  .next <| if (s.gw.can.get n).st = .integrating then s.canState n .active else s

/-- A frame received without error on a channel: counted, REC lowered, and looked up with its BUS key (R392). After more than
127 REC takes a value from 119 to 127, which is free (ISO 11898-1). -/
def State.canReceive (s : State) (n : Fin 24) : State :=
  let c := s.gw.can.get n
  let (s, k) := s.draw
  let r := if c.rec_ = 0 then 0 else if c.rec_ ≤ 127 then c.rec_ - 1 else 119 + Config.freeNat k % 9
  ((s.addE (0x6400 + n.val) 0x13 64 1).modCan n fun c => { c with rec_ := r }).canConfine n

/-- Whether a channel receives frames of a format. -/
def State.canHears (s : State) (n : Fin 24) (f : BusFrame) : Bool :=
  let c := s.gw.can.get n
  s.bankOn && (c.st == .active || c.st == .passive) && s.admits n f.fmt

/-! ## LIN -/

/-- Stop a LIN channel once no header waits: every buffer is emptied (R411, R417). -/
def State.linStopNow (s : State) (m : Fin 12) : State :=
  let l := s.gw.lin.get m
  let s := s.modLin m fun l => { l with bufs := [], header := none, stopping := false, stopBy := none, running := false }
  let s := l.bufs.foldl (fun s b => match b.2.2 with
    | some r => s.txCopyEnd r 0x11
    | none => s) s
  ((if l.running then s.pulse (496 + m.val) else s).completeIf l.stopBy 0).qpSettle

/-- An orderly stop of a LIN channel (R417). -/
def State.linStop (s : State) (m : Fin 12) : State :=
  if (s.gw.lin.get m).header.isSome then s.modLin m fun l => { l with stopping := true } else s.linStopNow m

/-- A LIN channel comes into service; its STATE changes (Table 12.10, R414). -/
def State.linStart (s : State) (m : Fin 12) : State :=
  if (s.gw.lin.get m).running then s
  else (s.modLin m fun l => { l with running := true, stopping := false }).pulse (496 + m.val)

/-- A header on a LIN channel: the published response is sent, or a response is awaited (R411). -/
def State.linHeader (s : State) (m : Fin 12) (id : Fin 64) : State :=
  let l := s.gw.lin.get m
  let idx := 0x6418 + m.val
  if !s.bankOn || !l.running || l.header.isSome then s
  else if bit (s.ev idx 7) id.val then
    match kvGet? l.bufs id.val with
    | some (d, ref) =>
      if d.isEmpty then s.addE idx 0x13 32 1
      else
        let s := (s.addE idx 0x12 64 1).modLin m fun l => { l with bufs := kvPut id.val (d, none) l.bufs }
        match ref with
        | some r => ((s.txBegun r).txCopyEnd r 1).qpSettle
        | none => s
    | none => s.addE idx 0x13 32 1
  else s.modLin m fun l => { l with header := some id, headerAt := s.time }

/-- LIN_HEADER. -/
def execLinHeader (m : Fin 12) (id : Fin 64) (s : State) : Host.Outcome State Fault Refusal := .next (s.served fun s => s.linHeader m id)

/-- LIN_SCHEDULE_SLOT: a commander's schedule sends the header of its next record; a new list takes effect after the last
record (R412). -/
def execLinScheduleSlot (m : Fin 12) (s : State) : Host.Outcome State Fault Refusal :=
  .next <| s.served fun s =>
    let idx := 0x6418 + m.val
    let l := s.gw.lin.get m
    let recs := l.active.length / 8
    if s.ev idx 5 = 0 ∨ s.ev idx 2 ≠ 0 ∨ recs = 0 then s
    else
      let id := fin 63 (ofBytes (slice l.active (8 * l.idx) 1) % 64)
      let last := decide (recs ≤ l.idx + 1)
      let s := s.linHeader m id
      s.modLin m fun l => { l with
        idx := if last then 0 else l.idx + 1,
        active := if last && l.newList then s.eb idx 4 else l.active,
        newList := l.newList && !last }

/-- The LIN checksum: the inverted sum with carry of the bytes, and of the protected identifier for the enhanced one. -/
def linSum (d : List Byte) : Byte :=
  let t := d.foldl (fun a b => let x := a + b.toNat; if 255 < x then x - 255 else x) 0
  BitVec.ofNat 8 (255 - t)

/-- The protected identifier of a LIN identifier (ISO 17987). -/
def linPid (id : Nat) : Byte :=
  let b (k : Nat) : Bool := bit id k
  BitVec.ofNat 8 (id + b2n (b 0 ^^ b 1 ^^ b 2 ^^ b 4) * 64 + b2n (!(b 1 ^^ b 3 ^^ b 4 ^^ b 5)) * 128)

/-- A stop that waited for a header goes on. -/
def State.linDone (s : State) (m : Fin 12) : State :=
  let s := s.modLin m fun l => { l with header := none }
  if (s.gw.lin.get m).stopping then s.linStopNow m else s

/-- LIN_RESPONSE_RECEIVE: a response follows a header; with a valid checksum a frame is formed and looked up (R391, R392). -/
def execLinResponseReceive (m : Fin 12) (data : List Byte) (sum : Byte) (s : State) : Host.Outcome State Fault Refusal :=
  .next <| s.served fun s =>
    let idx := 0x6418 + m.val
    let l := s.gw.lin.get m
    match l.header with
    | none => s
    | some id =>
      let enhanced := bit (s.ev idx 6) id.val
      let good := sum == linSum ((if enhanced then [linPid id.val] else []) ++ data) && decide (1 ≤ data.length ∧ data.length ≤ 8)
      let s := s.linDone m
      if good then
        let f : BusFrame := ⟨.lin, false, BitVec.ofNat 29 id.val, false, false, false, !enhanced, data.length, 0, 0, 0, data⟩
        let s := s.addE idx 0x11 64 1
        if s.flowOn then s.tryKeys (.bus (0x20 + m.val) f) l.headerAt [busKey (0x20 + m.val) f] else s
      else s.addE idx 0x14 32 1

/-- LIN_RESPONSE_TIMEOUT: no response within the frame-time limit (R392). -/
def execLinResponseTimeout (m : Fin 12) (s : State) : Host.Outcome State Fault Refusal :=
  .next <| s.served fun s =>
    if (s.gw.lin.get m).header.isSome then (s.addE (0x6418 + m.val) 0x13 32 1).linDone m else s

/-- Stop every channel of the bank and disable every queue pair (R481 step 2). -/
def State.gatewayStop (s : State) : State :=
  let s := (s.gw.vi.map (·.1)).foldl (fun s v => (allFin 16).foldl (fun s q => s.qpDisable v q none) s) s
  let s := (allFin 24).foldl (fun s n => s.canStopNow n) s
  (allFin 12).foldl (fun s m => s.linStopNow m) s

end Sys2Proof.Machine
end

