-- ==== Sys2Proof/Machine/DataMover.lean ====
section
/-! DEFINITION. The Data Mover (R498 to R505), and the registers of the fault banks (R506, R507). -/
namespace Sys2Proof.Machine

/-! ## Channels -/

/-- Change a channel. -/
def State.modDm (s : State) (n : Fin 32) (f : DmChan → DmChan) : State := { s with dm := vmod s.dm n f }

/-- Entry index of a channel (Table 17.11). -/
def dmIdx (n : Fin 32) : Nat := 0x9200 + n.val

/-- Drive sources 576 + n and 608 (R499). -/
def State.dmLines (s : State) (n : Fin 32) : State :=
  let d := s.dm.get n
  (s.setLine (576 + n.val) (d.stat &&& d.en != 0)).bankLine 46

/-- Advance DM_HEAD past every leading index with a final status. -/
def dmHeadPast (tail : BitVec 16) (done : List Nat) : Nat → BitVec 16 → BitVec 16
  | 0, h => h
  | n + 1, h => if h ≠ tail ∧ done.contains h.toNat then dmHeadPast tail done n (h + 1) else h

/-- STATE of a channel (Table 17.11). -/
def DmChan.state (d : DmChan) : Nat := if d.retired then 3 else if d.running then 1 else 0

/-- The final status of a descriptor, in the order of R385: its words, STATUS, DM_HEAD, DM_IRQ_STAT (R502). A descriptor
write that fails leaves the channel's state as if it had been written (log entry 28). -/
def State.dmFinish (s : State) (n : Fin 32) (idx code moved : Nat) (crc : Option (BitVec 32)) (irq : Bool) : State :=
  let m := Master.dm n
  let a := s.dmAddr n idx
  let (s, _) := s.dmaWrite m (a + 0x18) (toBytes 4 moved)
  let s := match crc with
    | some c => (s.dmaWrite m (a + 0x1C) (toBytes 4 c.toNat)).1
    | none => s
  let (s, _) := s.dmaWrite m (a + 0x17) [BitVec.ofNat 8 code]
  let bad := decide (code ≠ 1 ∧ code ≠ 2)
  let s := s.modDm n fun d =>
    let done := d.done ++ [idx]
    let h := dmHeadPast d.tail done done.length d.head
    { d with head := h, done := done.filter fun i => (ringIdx h d.tail).contains i,
             cur := if d.cur = some (BitVec.ofNat 16 idx) then none else d.cur,
             stat := d.stat ||| (if irq then 1 else 0) ||| (if bad then 2 else 0) }
  let s := ((s.addE (dmIdx n) 5 64 moved).addE (dmIdx n) 6 64 1).addE (dmIdx n) 7 32 (b2n (decide (3 ≤ code)))
  s.dmLines n

/-! ## A descriptor (R500, R501) -/

/-- A descriptor's fields (Table 17.2). -/
structure DmDesc where
  src : Nat
  dst : Nat
  len : Nat
  fill : Bool
  crc : Bool
  irq : Bool
  zeros : Bool
  deriving DecidableEq, Repr

/-- The fields of 32 bytes. -/
def DmDesc.of (b : List Byte) : DmDesc :=
  let w := ofBytes (slice b 0x10 8)
  ⟨ofBytes (slice b 0 8), ofBytes (slice b 8 8), bits w 31 0, bit w 32, bit w 33, bit w 35, bits w 55 36 == 0⟩

/-- Whether a range lies wholly in HBM or wholly in a PCIe memory window (R501); the spare region is HBM while
channel-spare mode is off (R22), and the carve-out is HBM that answers TYPERR (R21). -/
def State.dmRange (s : State) (a n : Nat) : Bool :=
  decide (a + n ≤ (if s.hbm.spare then Config.spareBase else Config.hbmEnd) ∨
    (0x10010000000 ≤ a ∧ a + n ≤ 0x20000000000))

/-- The check before the first access (R501); none where the descriptor passes it. -/
def State.dmCheck (s : State) (n : Fin 32) (d : DmDesc) : Option Nat :=
  if !d.zeros then some 7
  else if d.len = 0 then none
  else if (!d.fill && !s.dmRange d.src d.len) || !s.dmRange d.dst d.len then some 7
  else if !d.fill && decide (d.src < d.dst + d.len ∧ d.dst < d.src + d.len) then some 7
  else if (!d.fill && !s.confined (.dm n) d.src d.len false (s.region d.src)) ||
      !s.confined (.dm n) d.dst d.len true (s.region d.dst) then some 6
  else none

/-! ## Moving the data (R502) -/

/-- What a run of destination writes came to: the bytes accepted, their CRC, whether a line was written with poison, and
the first error, 4 for a source read or 5 for a destination write. -/
structure DmRun where
  moved : Nat
  crc : BitVec 32
  poisonAt : Option Nat
  err : Option Nat
  deriving DecidableEq, Repr

/-- Bytes [off, off + k) of what a descriptor writes: the source's, or the repeated pattern (Table 17.2). -/
def State.dmSource (s : State) (n : Fin 32) (d : DmDesc) (off k : Nat) : State × Option (List Byte × Bool) :=
  if d.fill then (s, some ((List.range k).map fun i => (toBytes 8 d.src).getD ((off + i) % 8) 0, false))
  else s.dmaRead (.dm n) (d.src + off) k

/-- The destination writes in units of the destination's lines, in ascending order, until an error (R502). -/
def State.dmMove (s : State) (n : Fin 32) (d : DmDesc) (len : Nat) : State × DmRun :=
  (partsOf d.dst len).foldl (fun (acc : State × DmRun) (p : Nat × Nat) =>
    if acc.2.err.isSome then acc
    else
      match acc.1.dmSource n d (p.1 - d.dst) p.2 with
      | (s, none) => (s, { acc.2 with err := some 4 })
      | (s, some (b, poison)) =>
        match s.dmaErr (.dm n) p.1 p.2 true with
        | some _ => (s, { acc.2 with err := some 5 })
        | none =>
          (s.memWrite (.dm n) p.1 b poison,
           { moved := acc.2.moved + p.2, crc := crc32 polyC acc.2.crc b,
             poisonAt := if poison then (acc.2.poisonAt <|> some (p.1 / 64 * 64)) else acc.2.poisonAt, err := none }))
    (s, ⟨0, 0xFFFFFFFF, none, none⟩)

/-- CRCV of a run, where the descriptor asks for it. -/
def DmDesc.crcv (d : DmDesc) (r : DmRun) : Option (BitVec 32) := if d.crc then some (~~~r.crc) else none

/-! ## Stopping a channel (R503 to R505) -/

/-- What the Data Mover reads of a descriptor; none where the read is refused or poisoned. -/
def State.dmDesc (s : State) (n : Fin 32) (idx : Nat) : State × Option DmDesc :=
  match s.dmaRead (.dm n) (s.dmAddr n idx) 32 with
  | (s, some (b, false)) => (s, some (DmDesc.of b))
  | (s, _) => (s, none)

/-- Bytes of a started descriptor whose writes were accepted before an abort: a free number of whole destination lines,
which have been written (R503, log entry 2). -/
def State.dmAbortPoint (s : State) (d : DmDesc) : State × Nat :=
  let (s, k) := s.draw
  let ends := (partsOf d.dst d.len).map fun p => p.1 + p.2 - d.dst
  (s, (0 :: ends).getD (Config.freeNat k % (ends.length + 1)) 0)

/-- Abort one posted descriptor without a final status (R503): ABORTED, BYTES 0 where it has not started. An error met
before the abort decides the outcome instead, and the channel is then no longer running. -/
def State.dmAbortOne (s : State) (n : Fin 32) (idx : Nat) : State :=
  match s.dmDesc n idx with
  | (s, none) => s.dmFinish n idx 2 0 none false
  | (s, some d) =>
    if (s.dm.get n).cur = some (BitVec.ofNat 16 idx) then
      let (s, len) := s.dmAbortPoint d
      let (s, r) := s.dmMove n d len
      match r.err with
      | some e => (s.dmFinish n idx e r.moved (d.crcv r) d.irq).modDm n fun x => { x with running := false }
      | none => s.dmFinish n idx 2 r.moved (d.crcv r) d.irq
    else s.dmFinish n idx 2 0 none d.irq

/-- Abort every posted descriptor without a final status, in ring order (R504). -/
def State.dmAbortEvery (s : State) (n : Fin 32) : State := (s.dmOpen n).foldl (fun s i => s.dmAbortOne n i) s

/-- A channel stops: its ledger event, STATE 0x00, and every younger posted descriptor ABORTED with BYTES 0 (R505, R513,
Table 17.9). -/
def State.dmStop (s : State) (n : Fin 32) (idx : Nat) (addr word0 : Nat) : State :=
  let s := s.ledgerEvent 46 addr word0 (s.dmOps n)
  let s := s.modDm n fun d => { d with running := false, cur := none }
  ((s.dmOpen n).filter (· ≠ idx)).foldl (fun s i => s.dmAbortOne n i) s

/-- A descriptor read received an error response or poison (R505, code 0x2C). -/
def State.dmDescFault (s : State) (n : Fin 32) (idx : Nat) : State :=
  let a := s.dmAddr n idx
  let s := s.record bankDm 0x2C n.val 0 a idx
  s.dmStop n idx a (0x2C + 2 * 256 + n.val * 2 ^ 16 + 2 ^ 32)

/-- A source or destination error: the final status, then the stop of the channel (R505). -/
def State.dmFail (s : State) (n : Fin 32) (idx code moved : Nat) (crc : Option (BitVec 32)) (irq : Bool) : State :=
  let a := s.dmAddr n idx
  (s.dmFinish n idx code moved crc irq).dmStop n idx a 0

/-- A retired channel: its ledger event, and RETIRED for every descriptor without a final status (Table 17.8, R513). -/
def State.dmRetire (s : State) (n : Fin 32) : State :=
  let s := s.ledgerEvent 46 0 0 (s.dmOps n)
  let s := s.modDm n fun d => { d with running := false, retired := true, cur := none }
  (s.dmOpen n).foldl (fun s i =>
    match s.dmDesc n i with
    | (s, some d) => s.dmFinish n i 8 0 none d.irq
    | (s, none) => s.dmFinish n i 8 0 none false) s

/-! ## The commands -/

/-- DM_DESCRIPTOR_START: the next descriptor of a running channel is read and checked; it starts, or completes at once
(R501). -/
def execDmDescriptorStart (n : Fin 32) (s : State) : Host.Outcome State Fault Refusal :=
  .next <| s.served fun s =>
    let c := s.dm.get n
    match s.dmOpen n with
    | [] => s
    | idx :: _ =>
      if !c.running || c.retired || c.cur.isSome || s.ev (dmIdx n) 3 = 0 then s
      else
        match s.dmDesc n idx with
        | (s, none) => s.dmDescFault n idx
        | (s, some d) =>
          match s.dmCheck n d with
          | some code => s.dmFinish n idx code 0 none d.irq
          | none =>
            if d.len = 0 then s.dmFinish n idx 1 0 (if d.crc then some 0 else none) d.irq
            else s.modDm n fun x => { x with cur := some (BitVec.ofNat 16 idx) }

/-- DM_DESCRIPTOR_COMPLETE: every write of the started descriptor has been accepted or has failed, and its final status
is written (R502, R505, R508). -/
def execDmDescriptorComplete (n : Fin 32) (s : State) : Host.Outcome State Fault Refusal :=
  .next <| s.served fun s =>
    match (s.dm.get n).cur with
    | none => s
    | some i =>
      match s.dmDesc n i.toNat with
      | (s, none) => s.dmDescFault n i.toNat
      | (s, some d) =>
        let (s, r) := s.dmMove n d d.len
        match r.err with
        | some e => s.dmFail n i.toNat e r.moved (d.crcv r) d.irq
        | none =>
          match r.poisonAt with
          | some a => (s.record bankDm 0x13 28 n.val a 0).dmFinish n i.toNat 3 r.moved (d.crcv r) d.irq
          | none => s.dmFinish n i.toNat 1 r.moved (d.crcv r) d.irq

/-- DM_ERROR: a source read (or, where `dst`, a destination write) of the started descriptor receives an error response
after `good` bytes were accepted; with no descriptor started, the read of the next descriptor does (R505). -/
def execDmError (n : Fin 32) (dst : Bool) (good : BitVec 32) (s : State) : Host.Outcome State Fault Refusal :=
  .next <| s.served fun s =>
    let c := s.dm.get n
    if !c.running || c.retired then s
    else
      match c.cur with
      | none =>
        match s.dmOpen n with
        | [] => s
        | idx :: _ => s.dmDescFault n idx
      | some i =>
        match s.dmDesc n i.toNat with
        | (s, none) => s.dmDescFault n i.toNat
        | (s, some d) =>
          let (s, r) := s.dmMove n d (min good.toNat d.len)
          s.dmFail n i.toNat (r.err.getD (if dst then 5 else 4)) r.moved (d.crcv r) d.irq

/-- Whether a master may reach a channel's registers: the Secure world, or the partition that holds it (R329, Table 1.3). -/
def State.mayDm (s : State) (m : Master) (n : Fin 32) : Bool :=
  s.masterSecure m || ((s.dmPart n.val).isSome && s.masterPart m == s.dmPart n.val)

/-- A write to a register of a channel. -/
def State.dmPage (s : State) (m : Master) (n : Fin 32) (f : State → State) : State :=
  if s.mayDm m n then f s else { s with reply := .error .wlderr }

/-- A write to DM_TAIL: the doorbell, discarded where it overruns the ring, while ENABLE is 0, or at a retired channel
(R499, R515, Table 17.8). -/
def State.dmTailWrite (s : State) (n : Fin 32) (v : BitVec 16) : State :=
  let c := s.dm.get n
  if c.retired || s.ev (dmIdx n) 3 = 0 || decide (s.ev (dmIdx n) 2 < (v - c.head).toNat) then s.addE (dmIdx n) 7 32 1
  else s.modDm n fun d => { d with tail := v }

/-- DM_TAIL (Table 17.1). -/
def execDmTail (m : Master) (n : Fin 32) (v : Word) (s : State) : Host.Outcome State Fault Refusal :=
  .next (s.dmPage m n fun s => s.dmTailWrite n (v.setWidth 16))

/-- A write to DM_ABORT: ABORTED, ALREADY_DONE or NOT_POSTED (R503). -/
def State.dmAbortWrite (s : State) (n : Fin 32) (i : BitVec 16) : State :=
  let c := s.dm.get n
  if !(ringIdx c.head c.tail).contains i.toNat then s.modDm n fun d => { d with abortRes := 3 }
  else if c.done.contains i.toNat then s.modDm n fun d => { d with abortRes := 2 }
  else
    let s' := s.dmAbortOne n i.toNat
    if c.running && !(s'.dm.get n).running then
      (s'.dmStop n i.toNat (s.dmAddr n i.toNat) 0).modDm n fun d => { d with abortRes := 2 }
    else s'.modDm n fun d => { d with abortRes := 1 }

/-- DM_ABORT (Table 17.1). -/
def execDmAbort (m : Master) (n : Fin 32) (v : Word) (s : State) : Host.Outcome State Fault Refusal :=
  .next (s.served fun s => s.dmPage m n fun s => s.dmAbortWrite n (v.setWidth 16))

/-- A write to DM_CTL (W1S): a 1 in ABORT_ALL aborts every descriptor, which completes within the command (R504). -/
def State.dmCtlWrite (s : State) (n : Fin 32) (v : Word) : State := if v.getLsbD 0 then s.dmAbortEvery n else s

/-- DM_CTL.ABORT_ALL (Table 17.1). -/
def execDmAbortAll (m : Master) (n : Fin 32) (v : Word) (s : State) : Host.Outcome State Fault Refusal :=
  .next (s.served fun s => s.dmPage m n fun s => s.dmCtlWrite n v)

/-- A write to ENABLE (R504, R505): 1 resumes the channel, 0 aborts its descriptors and stops it. -/
def State.dmEnableWrite (s : State) (n : Fin 32) (v : Nat) : State :=
  let s := s.setE (dmIdx n) 3 v
  if v = 0 then (s.dmAbortEvery n).modDm n fun d => { d with running := false }
  else s.modDm n fun d => { d with running := !d.retired }

/-- Registers of a channel's page that can be read (Table 17.1). -/
def State.dmRead (s : State) (n : Fin 32) (off : Nat) : Option Word :=
  let d := s.dm.get n
  match off with
  | 0x00 => some (d.tail.setWidth 64)
  | 0x08 => some (d.head.setWidth 64)
  | 0x10 => some 0
  | 0x18 => some (d.abortRes.setWidth 64)
  | 0x20 => some 0
  | 0x28 => some (d.stat.setWidth 64)
  | 0x30 => some (d.en.setWidth 64)
  | _ => none

/-- A write to a channel's page by offset (Table 17.1): none where the offset has no register. -/
def State.dmRegWrite (s : State) (n : Fin 32) (off : Nat) (v : Word) : Option State :=
  match off with
  | 0x00 => some (s.dmTailWrite n (v.setWidth 16))
  | 0x08 | 0x18 => some s
  | 0x10 => some (s.dmAbortWrite n (v.setWidth 16))
  | 0x20 => some (s.dmCtlWrite n v)
  | 0x28 => some ((s.modDm n fun d => { d with stat := d.stat &&& ~~~(v.setWidth 2) }).dmLines n)
  | 0x30 => some ((s.modDm n fun d => { d with en := v.setWidth 2 }).dmLines n)
  | _ => none

/-! ## Fault banks (Table 17.5) -/

/-- A write to FB_POP: a 1 removes the oldest record. -/
def State.fbPop (s : State) (b : Fin 49) (v : Word) : State :=
  if v.getLsbD 0 then ({ s with fb := vmod s.fb b fun f => { f with recs := f.recs.drop 1 } }).bankLine b.val else s

/-- FB_POP: fault banks are reached only by the Secure world (R506). -/
def execFbPop (m : Master) (b : Fin 49) (v : Word) (s : State) : Host.Outcome State Fault Refusal :=
  .next (if s.masterSecure m then s.fbPop b v else { s with reply := .error .wlderr })

/-- Registers of a fault bank that can be read (Tables 17.5 and 17.6). FATAL is bit 9 while a FATAL record is held. -/
def State.fbRead (s : State) (b : Fin 49) (off : Nat) : Option Word :=
  let f := s.fb.get b
  match off with
  | 0x000 => some (word (f.recs.length + b2n f.ovf * 256 + b2n (f.recs.any (·.cls == 3)) * 512))
  | 0x008 => some 0
  | 0x010 => some (f.en.setWidth 64)
  | _ =>
    if 0x100 ≤ off ∧ off < 0x300 ∧ off % 8 = 0 then
      let k := (off - 0x100) / 32
      some (match f.recs[k]? with
        | some r => word (ofBytes (slice r.bytes ((off - 0x100) % 32) 8))
        | none => 0)
    else none

/-- A write to a fault bank's registers (Table 17.5); RO registers ignore it. -/
def State.fbWrite (s : State) (b : Fin 49) (off : Nat) (v : Word) : Option State :=
  match off with
  | 0x000 => some { s with fb := vmod s.fb b fun f => { f with ovf := f.ovf && !v.getLsbD 8 } }
  | 0x008 => some (s.fbPop b v)
  | 0x010 => some (({ s with fb := vmod s.fb b fun f => { f with en := v.setWidth 4 } }).bankLine b.val)
  | _ => if 0x100 ≤ off ∧ off < 0x300 ∧ off % 8 = 0 then some s else none

/-! ## The retirement list and the ledger's entries -/

/-- A write to RETIRE_CLEAR: none where it names no entry (R511). -/
def State.retireClear (s : State) (v : Nat) : Option State :=
  if v = 0xFFFFFFFF then some { s with seed := { s.seed with retire := [] } }
  else if v < s.seed.retire.length then some { s with seed := { s.seed with retire := s.seed.retire.eraseIdx v } }
  else none

/-- A write to LEDGER_TAIL: none where it lies outside HEAD − 8,192 to HEAD (R512, Table 17.11). -/
def State.ledgerTailWrite (s : State) (v : Nat) : Option State :=
  if (s.ledger.head - BitVec.ofNat 32 v).toNat ≤ 8192 then
    some ({ s with ledger := { s.ledger with tail := BitVec.ofNat 32 v } }).ledgerLine
  else none

end Sys2Proof.Machine
end

