-- ==== Sys2Proof/Machine/Gpio.lean ====
section
/-! DEFINITION. The GPIO block (Table 18.8, R540, R541). -/
namespace Sys2Proof.Machine

/-- Source 57 is asserted while GPIO_IRQ_STAT AND GPIO_IRQ_EN is non-zero (R540). -/
def State.gpioLine (s : State) : State := s.setLine 57 (s.gpio.stat &&& s.gpio.en != 0)

/-- A bit of a 32-bit register as a mask. -/
def bit32 (n : Fin 32) : BitVec 32 := BitVec.ofNat 32 (2 ^ n.val)

/-- A level held for 20 ns at GPIO_n of a powered block; the selected edge sets the status bit (R540). -/
def State.gpioEdge (s : State) (n : Fin 32) (level : Bool) : State :=
  let g := s.gpio
  if !s.domOn 60 || g.in_.getLsbD n.val == level then s
  else
    let sel := g.edge.getLsbD n.val == level
    let g' : Gpio := { g with in_ := if level then g.in_ ||| bit32 n else g.in_ &&& ~~~bit32 n,
                              stat := if sel then g.stat ||| bit32 n else g.stat }
    { s with gpio := g' }.gpioLine

/-- GPIO_EDGE: an input changes and is held for 20 ns. -/
def execGpioEdge (n : Fin 32) (level : Bool) (s : State) : Host.Outcome State Fault Refusal := .next (s.gpioEdge n level)

/-- W1C of GPIO_IRQ_STAT; a bit whose selected edge falls in the same cycle stays set (R541). -/
def State.gpioClear (s : State) (v : Word) (edges : BitVec 32) : State :=
  let g := s.gpio
  { s with gpio := { g with stat := (g.stat &&& ~~~v.setWidth 32) ||| edges } }.gpioLine

/-- GPIO_IRQ_STAT: a write by a master; the block is Secure and has the peripherals' domain (Table 1.3, R28, R33). `edges`
are the bits whose selected edge falls in the same cycle. -/
def execGpioIrqStat (m : Master) (v : Word) (edges : BitVec 32) (s : State) : Host.Outcome State Fault Refusal :=
  .next <|
    if !s.masterSecure m then { s with reply := .error .wlderr }
    else if !s.domOn 60 then { s with reply := .error .offerr }
    else { s.gpioClear v edges with reply := .none }

/-- Read a register of the block. -/
def State.gpioRead (s : State) (off : Nat) : Option Word :=
  let g := s.gpio
  match off with
  | 0x00 => some (g.in_.setWidth 64)
  | 0x08 => some (g.out.setWidth 64)
  | 0x10 => some (g.oe.setWidth 64)
  | 0x18 => some (g.en.setWidth 64)
  | 0x20 => some (g.edge.setWidth 64)
  | 0x28 => some (g.stat.setWidth 64)
  | _ => none

/-- Write a register of the block; none where no register stands. -/
def State.gpioWrite (s : State) (off : Nat) (v : Word) : Option State :=
  let g := s.gpio
  let w := v.setWidth 32
  match off with
  | 0x00 => some s
  | 0x08 => some { s with gpio := { g with out := w } }
  | 0x10 => some { s with gpio := { g with oe := w } }
  | 0x18 => some { s with gpio := { g with en := w } }.gpioLine
  | 0x20 => some { s with gpio := { g with edge := w } }
  | 0x28 => some (s.gpioClear v 0)
  | _ => none

end Sys2Proof.Machine
end

