-- ==== Sys2Proof/Machine/Irq.lean ====
section
/-! DEFINITION. The interrupt distributor (R158 to R166, R544, R545): claims, ends, and its registers. -/
namespace Sys2Proof.Machine

/-! ## Claims and ends (R162, R163) -/

/-- Keys of the private sources of core c. -/
def privKeys (c : Nat) : List Nat := (List.range 19).map (privKey c)

/-- Whether a source is offered at all: pending, not active, enabled and of a priority above 0 (R162, R163,
Table 4.11). -/
def State.offered (s : State) (k : Nat) : Bool :=
  let x := s.src k
  srcPend k x && !x.active && x.en && decide (0 < x.prio)

/-- The source with the highest priority, among equals the lowest ID (R163). -/
def State.best (s : State) (l : List Nat) : Option Nat :=
  l.foldl (fun acc k => match acc with
    | none => some k
    | some b =>
      let pk := (s.src k).prio
      let pb := (s.src b).prio
      if pb < pk ∨ (pk = pb ∧ srcId k < srcId b) then some k else some b) none

/-- Keys of the listed sources; every source that can be offered is listed, since its configuration is not its reset
configuration. -/
def State.srcKeys (s : State) : List Nat := s.irq.src.map (·.1)

/-- Whether a source is targeted at core c: a private source of it, or one whose KIND and TARGET name it. -/
def State.atCore (s : State) (c : Fin 32) (k : Nat) : Bool :=
  if 4096 ≤ k then (privKeys c.val).contains k else srcKind k (s.src k) == 0 && (s.src k).target == c.val

/-- Whether a source that is not private has a KIND and a TARGET. -/
def State.aimed (s : State) (kind target k : Nat) : Bool := srcKind k (s.src k) == kind && (s.src k).target == target

/-- Whether a source that `at_` selects is pending, whatever its EN, PRIO and WORLD (R82). -/
def State.pendingAt (s : State) (at_ : Nat → Bool) : Bool := s.srcKeys.any fun k => srcPend k (s.src k) && at_ k

/-- The physical interrupt that core c is offered (R161, R163). -/
def State.coreOffer (s : State) (c : Fin 32) : Option Nat :=
  let sec := (s.acore.get c).secure
  s.best (s.srcKeys.filter fun k => s.offered k && (s.src k).secure == sec && s.atCore c k)

/-- The virtual interrupt that partition p is offered (R161, R164); none where level H does not exist. -/
def State.virtOffer (s : State) (p : Fin 64) : Option Nat :=
  if !s.hasH then none
  else s.best (s.srcKeys.filter fun k => s.offered k && (s.src k).secure == s.partSecure p.val && s.aimed 1 p.val k)

/-- The interrupt that island i is offered: a source of KIND 0b10 whose WORLD is 1 (R161, R282). -/
def State.islandOffer (s : State) (i : Fin 4) : Option Nat :=
  s.best (s.srcKeys.filter fun k => s.offered k && (s.src k).secure && s.aimed 2 i.val k)

/-- A claim makes the source active and clears PEND (R162). -/
def State.claim (s : State) (k : Nat) (w : Claimer) : State :=
  s.setSrc k { s.src k with pend := false, setp := false, active := true, by_ := some w }

/-- The source that an ID names on an interface. -/
def claimKey (w : Claimer) (id : Nat) : Nat :=
  match w with
  | .core c => if id < 32 then privKey c.val id else id
  | _ => id

/-- A source that is no longer active: a configuration written meanwhile applies (R163). -/
def IrqSrc.ended (x : IrqSrc) : IrqSrc := { x with active := false, by_ := none, cfg := x.next.getD x.cfg, next := none }

/-- The end of an interrupt on the interface that claimed it (R162); an event held while it was active
is then offered. -/
def State.irqEnd (s : State) (w : Claimer) (id : Nat) : State :=
  let k := claimKey w id
  let x := s.src k
  if x.active && x.by_ == some w then
    s.setSrc k x.ended
  else s

/-- What a claim returns in bits [31:0] (Table 4.13). -/
def ackWord (k : Nat) (x : IrqSrc) : Word := word (srcId k + x.prio * 2 ^ 16 + x.vec * 2 ^ 20 + 2 ^ 31)

/-- A read of IRQ_ACK or VIRQ_ACK: it claims where it returns bits [31:0] (R545). -/
def State.ackRead (s : State) (w : Claimer) (offer : Option Nat) (acc : AckAcc) : State × Word :=
  match acc, offer with
  | .high, _ => (s, 0)
  | _, none => (s, 0)
  | _, some k => (s.claim k w, ackWord k (s.src k))

/-! ## Who may reach the distributor's registers (R159) -/

/-- A core interface page: its core, or the Secure world. -/
def State.mayCore (s : State) (m : Master) (c : Fin 32) : Bool := s.masterSecure m || m == .core c

/-- VIRQ_CTL_p and VIRQ_INJ_p: the Secure world, or an A-core at level H of the partition's world. -/
def State.mayVirqCtl (s : State) (m : Master) (p : Fin 64) : Bool :=
  s.masterSecure m || match m with
    | .core c => s.hasH && (s.acore.get c).lh && (s.acore.get c).secure == s.partSecure p.val
    | _ => false

/-- The virtual interface of a partition: the Secure world, or an A-core that executes it at rings 0 to 3. -/
def State.mayVirt (s : State) (m : Master) (p : Fin 64) : Bool :=
  s.masterSecure m || match m with
    | .core c => s.corePart c == some p.val
    | _ => false

/-- An access that the isolation of a register refuses. -/
def State.wldErr (s : State) : State := { s with reply := .error .wlderr }

/-! ## Registers -/

/-- Merge a write into a register where the mask is set (R29). -/
def mergeBits (old v mask : Word) : Word := (old &&& ~~~mask) ||| (v &&& mask)

/-- The configuration of a source that its register shows: what was written last (log entry 72). -/
def IrqSrc.shown (x : IrqSrc) : Word := x.next.getD x.cfg

/-- A write to a configuration register (Table 4.11, R161): none where it receives WLDERR. That of an active source applies after
its end (R163). -/
def State.cfgWrite (s : State) (m : Master) (k : Nat) (v : Word) : Option State :=
  let x := s.src k
  let sec := s.masterSecure m
  if x.secure && !sec then none
  else
    let priv := decide (4096 ≤ k)
    let v' := v.toNat
    let old := x.shown.toNat
    let edge := decide (1024 ≤ k ∧ k < 3072) || decide (4096 ≤ k ∧ (k - 4096) % 32 < 16)
    let kind := if priv then 0 else if bits v' 7 6 = 3 then bits old 7 6 else bits v' 7 6
    let vec := if bits v' 15 8 < 0x20 then bits old 15 8 else bits v' 15 8
    let tgt := if priv then 0 else bits v' 21 16
    let world := if sec then bits v' 22 22 else bits old 22 22
    let cfg := bits v' 4 0 + (if edge then 0 else bits v' 5 5) * 32 + kind * 64 + vec * 256 + tgt * 2 ^ 16 + world * 2 ^ 22
    some (if x.active then s.putSrc k { x with next := some (word cfg) } else s.setSrc k { x with cfg := word cfg })

/-- A configuration register as it reads. -/
def State.cfgRead (s : State) (k : Nat) : Word :=
  let x := s.src k
  if srcEdge k { x with cfg := x.shown } then x.shown ||| 0x20 else x.shown

/-- A state register as it reads (Table 4.12). -/
def State.stateRead (s : State) (k : Nat) : Word :=
  let x := s.src k
  word (b2n (srcPend k x) + 2 * b2n x.active + 4 * b2n (x.line && !srcEdge k x))

/-- A write to a state register (Table 4.12, R162): none where it receives WLDERR. A write that sets both bits acts as
SETPEND alone. -/
def State.stateWrite (s : State) (m : Master) (k : Nat) (v : Word) : Option State :=
  let x := s.src k
  if x.secure && !s.masterSecure m then none
  else if v.getLsbD 8 then some (s.pulse k)
  else if v.getLsbD 9 && srcEdge k x then some (s.setSrc k { x with pend := false })
  else some s

/-- Key of a source by the register that holds it. -/
def srcRefKey : SrcRef → Nat
  | .wired n => n.val
  | .msi m => 1024 + m.val
  | .priv c k => privKey c.val k.val

/-- Whether a master reaches the register that holds a source: private sources stand in a core interface page (R159);
IRQ_STATE_n exists for n from 32 on (Table 4.10). -/
def State.maySrc (s : State) (m : Master) : SrcRef → Bool
  | .priv c _ => s.mayCore m c
  | _ => true

/-- A write to the state register of a source by a master. -/
def State.srcWrite (s : State) (m : Master) (r : SrcRef) (v : Word) : State :=
  match r with
  | .wired n => if n.val < 32 then { s with reply := .error .decerr } else (s.stateWrite m n.val v).getD s.wldErr
  | _ => if s.maySrc m r then (s.stateWrite m (srcRefKey r) v).getD s.wldErr else s.wldErr

/-- A write to VIRQ_INJ_p: none where it receives WLDERR (R159, R161). -/
def State.injWrite (s : State) (m : Master) (p : Fin 64) (v : Word) : Option State :=
  let id := bits v.toNat 11 0
  let x := s.src id
  if !s.mayVirqCtl m p || (x.secure && !s.masterSecure m) then none
  else if 32 ≤ id ∧ id < 3072 ∧ srcKind id x = 1 ∧ x.target = p.val then some (s.pulse id)
  else some s

/-- A write to IRQ_SGI: the SGI on each targeted core whose PRIV_CFG has the writer's world (R165). -/
def State.sgiWrite (s : State) (m : Master) (v : Word) : State :=
  let sgi := bits v.toNat 35 32
  (allFin 32).foldl (fun s c =>
    let k := privKey c.val sgi
    if v.getLsbD c.val && (s.src k).secure == s.masterSecure m then s.pulse k else s) s

/-- Read a register of the distributor at an offset of its block (Tables 4.10 and 4.13): none where no register stands
there, or where the access is refused. -/
def State.irqRegRead (s : State) (m : Master) (off : Nat) (acc : AckAcc) : State × Except Resp Word :=
  if off % 8 ≠ 0 then (s, .error .decerr)
  else if 0x0200 ≤ off ∧ off < 0x2100 then (s, .ok (s.cfgRead ((off - 0x100) / 8)))
  else if 0x2100 ≤ off ∧ off < 0x4000 then (s, .ok (s.stateRead ((off - 0x2000) / 8)))
  else if 0x4000 ≤ off ∧ off < 0x8000 then (s, .ok (s.cfgRead (1024 + off % 0x4000 / 8)))
  else if 0x8000 ≤ off ∧ off < 0xC000 then (s, .ok (s.stateRead (1024 + off % 0x4000 / 8)))
  else if 0x10000 ≤ off ∧ off < 0x10400 then
    let p := fin 63 (off % 0x200 / 8)
    if !s.mayVirqCtl m p then (s, .error .wlderr)
    else (s, .ok (if off < 0x10200 then (s.irq.virqCtl.get p).setWidth 64 else 0))
  else if 0x100000 ≤ off ∧ off < 0x120000 then
    let c := fin 31 (off / 0x1000)
    let o := off % 0x1000
    if !s.mayCore m c then (s, .error .wlderr)
    else if o = 0 then
      let (s, v) := s.ackRead (.core c) (s.coreOffer c) acc
      (s, .ok v)
    else if o = 8 ∨ o = 0x10 then (s, .ok 0)
    else if 0x100 ≤ o ∧ o < 0x200 then (s, .ok (s.cfgRead (privKey c.val ((o - 0x100) / 8))))
    else if 0x200 ≤ o ∧ o < 0x300 then (s, .ok (s.stateRead (privKey c.val ((o - 0x200) / 8))))
    else (s, .error .decerr)
  else if 0x200000 ≤ off ∧ off < 0x240000 then
    let p := fin 63 (off / 0x1000)
    let o := off % 0x1000
    if !s.mayVirt m p then (s, .error .wlderr)
    else if o = 0 then
      let (s, v) := s.ackRead (.virt p) (s.virtOffer p) acc
      (s, .ok v)
    else if o = 8 then (s, .ok 0)
    else (s, .error .decerr)
  else (s, .error .decerr)

/-- Write a register of the distributor; `mask` marks the bits that the access carries (R29). -/
def State.irqRegWrite (s : State) (m : Master) (off : Nat) (v mask : Word) : Except Resp State :=
  let cmd := v &&& mask
  let res (o : Option State) : Except Resp State := match o with
    | some s => .ok s
    | none => .error .wlderr
  if off % 8 ≠ 0 then .error .decerr
  else if 0x0200 ≤ off ∧ off < 0x2100 then
    let k := (off - 0x100) / 8
    res (s.cfgWrite m k (mergeBits (s.src k).shown v mask))
  else if 0x2100 ≤ off ∧ off < 0x4000 then res (s.stateWrite m ((off - 0x2000) / 8) cmd)
  else if 0x4000 ≤ off ∧ off < 0x8000 then
    let k := 1024 + off % 0x4000 / 8
    res (s.cfgWrite m k (mergeBits (s.src k).shown v mask))
  else if 0x8000 ≤ off ∧ off < 0xC000 then res (s.stateWrite m (1024 + off % 0x4000 / 8) cmd)
  else if 0x10000 ≤ off ∧ off < 0x10400 then
    let p := fin 63 (off % 0x200 / 8)
    if !s.mayVirqCtl m p then .error .wlderr
    else if off < 0x10200 then
      let w := mergeBits ((s.irq.virqCtl.get p).setWidth 64) v mask
      .ok { s with irq := { s.irq with virqCtl := vset s.irq.virqCtl p (w.setWidth 6) } }
    else res (s.injWrite m p cmd)
  else if 0x100000 ≤ off ∧ off < 0x120000 then
    let c := fin 31 (off / 0x1000)
    let o := off % 0x1000
    if !s.mayCore m c then .error .wlderr
    else if o = 0 then .ok s
    else if o = 8 then .ok (s.irqEnd (.core c) (bits cmd.toNat 11 0))
    else if o = 0x10 then .ok (s.sgiWrite m cmd)
    else if 0x100 ≤ o ∧ o < 0x200 then
      let k := privKey c.val ((o - 0x100) / 8)
      res (s.cfgWrite m k (mergeBits (s.src k).shown v mask))
    else if 0x200 ≤ o ∧ o < 0x300 then res (s.stateWrite m (privKey c.val ((o - 0x200) / 8)) cmd)
    else .error .decerr
  else if 0x200000 ≤ off ∧ off < 0x240000 then
    let p := fin 63 (off / 0x1000)
    let o := off % 0x1000
    if !s.mayVirt m p then .error .wlderr
    else if o = 0 then .ok s
    else if o = 8 then .ok (s.irqEnd (.virt p) (bits cmd.toNat 11 0))
    else .error .decerr
  else .error .decerr

/-! ## The commands -/

/-- IRQ_INPUT_ASSERT: a wired or private source's input changes (R162); an MSI source has no input. -/
def execIrqInputAssert (r : SrcRef) (level : Bool) (s : State) : Host.Outcome State Fault Refusal :=
  .next <| match r with
    | .msi _ => s
    | .wired n => s.setLine n.val level
    | .priv c k => s.setLine (privKey c.val k.val) level

/-- IRQ_PULSE: a pulse source pulses for one mesh cycle (R544). -/
def execIrqPulse (r : SrcRef) (s : State) : Host.Outcome State Fault Refusal :=
  .next <| match r with
    | .msi _ => s
    | .wired n => s.pulse n.val
    | .priv c k => s.pulse (privKey c.val k.val)

/-- IRQ_ACK: a read of the register by a master (R162, R545). -/
def execIrqAck (m : Master) (c : Fin 32) (acc : AckAcc) (s : State) : Host.Outcome State Fault Refusal :=
  .next <|
    if !s.mayCore m c then s.wldErr
    else
      let (s, v) := s.ackRead (.core c) (s.coreOffer c) acc
      { s with reply := .value v }

/-- IRQ_EOI: a write of an ID (R162). -/
def execIrqEoi (m : Master) (c : Fin 32) (v : Word) (s : State) : Host.Outcome State Fault Refusal :=
  .next (if s.mayCore m c then s.irqEnd (.core c) (bits v.toNat 11 0) else s.wldErr)

/-- IRQ_SGI: a write in the interface of core c (R165). -/
def execIrqSgi (m : Master) (c : Fin 32) (v : Word) (s : State) : Host.Outcome State Fault Refusal :=
  .next (if s.mayCore m c then s.sgiWrite m v else s.wldErr)

/-- SETPEND: a write of a value to the state register of a source (R162, R544). -/
def execSetpend (m : Master) (r : SrcRef) (v : Word) (s : State) : Host.Outcome State Fault Refusal :=
  .next (s.srcWrite m r v)

/-- CLRPEND: a write of a value to the state register of a source (R162). -/
def execClrpend (m : Master) (r : SrcRef) (v : Word) (s : State) : Host.Outcome State Fault Refusal :=
  .next (s.srcWrite m r v)

/-- VIRQ_INJ: a write that names a virtual source of partition p (R164). -/
def execVirqInj (m : Master) (p : Fin 64) (v : Word) (s : State) : Host.Outcome State Fault Refusal :=
  .next ((s.injWrite m p v).getD s.wldErr)

/-- VIRQ_ACK: a read of the virtual interface (R164, R545). -/
def execVirqAck (m : Master) (p : Fin 64) (acc : AckAcc) (s : State) : Host.Outcome State Fault Refusal :=
  .next <|
    if !s.mayVirt m p then s.wldErr
    else
      let (s, v) := s.ackRead (.virt p) (s.virtOffer p) acc
      { s with reply := .value v }

/-- VIRQ_EOI: a write of an ID (R164). -/
def execVirqEoi (m : Master) (p : Fin 64) (v : Word) (s : State) : Host.Outcome State Fault Refusal :=
  .next (if s.mayVirt m p then s.irqEnd (.virt p) (bits v.toNat 11 0) else s.wldErr)

/-- MSI_DOORBELL: a PCIe write to the doorbell address; one of another size or with bits [31:11] set is discarded and
recorded (R166, code 0x2D). -/
def execMsiDoorbell (k : Fin 2) (size : Nat) (v : BitVec 32) (s : State) : Host.Outcome State Fault Refusal :=
  .next <|
    if size = 4 ∧ bits v.toNat 31 11 = 0 then s.pulse (1024 + v.toNat)
    else s.record bankPcie 0x2D k.val 0 0 v.toNat

end Sys2Proof.Machine
end

