-- ==== Sys2Proof/Machine/Island.lean ====
section
/-! DEFINITION. A safety island apart from the execution of instructions: its memories and registers (R24 to R26, R267,
R276, R294), pennants and their comparison (R296 to R301), output queues (R302 to R304), the voter's states (R306 to R321)
and the rejoin (R312 to R315). -/
namespace Sys2Proof.Machine

/-! ## Cores of an island -/

/-- Change an island. -/
def State.modIsl (s : State) (i : Fin 4) (f : Island → Island) : State := { s with island := vmod s.island i f }

/-- A T-core. -/
def State.tc (s : State) (i k : Fin 4) : TCore := (s.island.get i).slots.get k

/-- Change a T-core. -/
def State.modTc (s : State) (i k : Fin 4) (f : TCore → TCore) : State :=
  s.modIsl i fun x => { x with slots := vmod x.slots k f }

/-- Change every T-core of an island. -/
def State.eachTc (s : State) (i : Fin 4) (f : Fin 4 → TCore → TCore) : State :=
  s.modIsl i fun x => { x with slots := Vector.ofFn fun k => f k (x.slots.get k) }

/-- Whether a voter state is one in which the island's cores vote (R318). -/
def VState.voting : VState → Bool
  | .triplex | .rejoinTest | .rejoinLoad | .rejoinWait | .duplex => true
  | _ => false

/-- Code of a voter state (Table 9.4). -/
def VState.code : VState → Nat
  | .held => 0 | .test => 1 | .triplex => 2 | .rejoinTest => 3 | .rejoinLoad => 4 | .rejoinWait => 5 | .duplex => 6
  | .safe => 7 | .notReleased => 8

/-- Code of a role (SLOT_ROLE, Table 8.11). -/
def Role.code : Role → Nat
  | .active => 0 | .spare => 1 | .fenced => 2 | .retired => 3

/-- Slots that vote: active in a voting state. -/
def Island.active (x : Island) : List (Fin 4) :=
  if x.st.voting then (allFin 4).filter fun k => (x.slots.get k).role == .active else []

/-- The source of a rejoin: the lowest-numbered active slot (R312). -/
def Island.source (x : Island) : Option (Fin 4) := x.active.head?

/-- Entry index of the voting entries of an island. -/
def voteIdx (i : Fin 4) : Nat := 0x5100 + i.val
/-- The voter-event source of an island (R321). -/
def voterSrc (i : Fin 4) : Nat := 512 + 16 * i.val

/-! ## Memories of an island (R24, R267) -/

/-- Physical address of a local TCM address of a slot. -/
def tcmPa (i k : Fin 4) (a : Nat) : Nat := Config.islandBase + 0x1000000 * i.val + 0x100000 * k.val + a
/-- Physical address of a local shared-SRAM address. -/
def sharedPa (i : Fin 4) (a : Nat) : Nat := Config.islandBase + 0x1000000 * i.val + a

/-- Copy memory words whole, which leaves them without errors, and clear the tags of the destination. -/
def State.copyMem (s : State) (dst src n : Nat) : State :=
  { (s.eccWrite dst n).clearTags dst n with mem := Memory.write s.mem dst (Memory.read s.mem src n) }

/-- Copy both TCMs of one slot into another's, capability tags included (R312). -/
def State.copyTcms (s : State) (i k j : Fin 4) : State :=
  let s := (s.copyMem (tcmPa i j 0) (tcmPa i k 0) 0x40000).copyMem (tcmPa i j 0x80000) (tcmPa i k 0x80000) 0x40000
  let lo := tcmPa i k 0x80000
  let tagged := s.tags.filter fun g => decide (lo ≤ g ∧ g < lo + 0x40000)
  { s with tags := tagged.foldl (fun l g => setIns (g - lo + tcmPa i j 0x80000) l) s.tags }

/-- Copy the staged image into the TCMs of a slot, every tag clear (R495). -/
def State.loadImage (s : State) (i k : Fin 4) : State :=
  (s.copyMem (tcmPa i k 0) (sharedPa i 0x800000) 0x40000).copyMem (tcmPa i k 0x80000) (sharedPa i 0x840000) 0x40000

/-- A self-test destroys the contents of both TCMs: what they hold is free (R309, log entry 2). -/
def State.wipeTcms (s : State) (i k : Fin 4) : State :=
  let w (s : State) (a : Nat) : State :=
    { (s.eccWrite a 0x40000).clearTags a 0x40000 with
      mem := Memory.write s.mem a (slice (Config.freeBytes s.fresh) 0 0x40000), fresh := s.fresh + 1 }
  w (w s (tcmPa i k 0)) (tcmPa i k 0x80000)

/-! ## SAFE_N and the voter's reports -/

/-- SAFE_N is driven low while an island of SAFE_MASK is in a state that does not vote, and in a stopped boot (R318, R496). -/
def State.safeNUpdate (s : State) : State :=
  { s with safeN := s.hazel.stopped || (allFin 4).any fun i => bit (s.ev 0x5104 3) i.val && !(s.island.get i).st.voting }

/-- A change of VOTE_STATE: the voter-event source and SAFE_N follow (R318, R321). -/
def State.setVote (s : State) (i : Fin 4) (st : VState) : State :=
  if (s.island.get i).st = st then s
  else ((s.modIsl i fun x => { x with st := st }).pulse (voterSrc i)).safeNUpdate

/-- A slot as a set bit. -/
def slotBit (k : Fin 4) : Nat := 2 ^ k.val

/-! ## Hard-safe outputs, SAFE and HELD -/

/-- Every hard-safe output is driven to its safe value and held (R319). -/
def State.hardSafe (s : State) (i : Fin 4) : State :=
  (allFin 16).foldl (fun s n =>
    if bit (s.outRec i n).1 2 then
      (s.pinSafe i n).setE (voteIdx i) 0xD (s.ev (voteIdx i) 0xD ||| 2 ^ n.val)
    else s) s

/-- Apply every output's registers at its pin (R317, R319). -/
def State.applyPins (s : State) (i : Fin 4) : State := (allFin 16).foldl (fun s n => s.applyPin i n false) s

/-- A T-core that stops at once. -/
def TCore.halt (c : TCore) : TCore := { c with run := .stopped, far := none }

/-- The interrupt unit ends every interrupt that it has claimed for the island (R316). -/
def State.endClaims (s : State) (i : Fin 4) : State :=
  let l := (s.island.get i).claimed
  let s := l.foldl (fun s id => s.irqEnd (.island i) id) s
  s.modIsl i fun x => { x with claimed := [], bounds := [] }

/-- Whether an address is in the own DTCM (Table 8.2). -/
def isDtcm (a : Nat) : Bool := decide (0x80000 ≤ a ∧ a < 0xC0000)

/-- Whether a transaction is one that cores still match at a position (R270, R271). -/
def PortTxn.live (t : PortTxn) (pos : Word) (entries : Nat) : Bool :=
  t.pos == pos && t.entries == entries && !t.dropped && !t.cores.isEmpty

/-- What the island port has issued and still completes once no core waits any more: atomics and STLs (R316). -/
def Island.issuedPort (x : Island) : List PortTxn :=
  (x.port.filter fun t => t.issued && !t.dropped && match t.kind with
    | .amo _ _ _ | .stl _ => true
    | .load | .lda | .clc => false).map fun (t : PortTxn) => { t with cores := [] }

/-- Entry to SAFE (R316, code 0x29, Table 17.9): the ledger's snapshot, safe pins, SPI stopped, cores stopped, output
queues discarded with what is not yet released (log entry 30), claimed interrupts ended. -/
def State.safeEntry (s : State) (i : Fin 4) (cause slots : Nat) : State :=
  let s := s.record (bankIsland i) 0x29 cause 0 0 slots
  let s := s.ledgerEvent 0xFF 0 (0x29 + 2 * 256 + cause * 2 ^ 16 + 2 ^ 32) (s.votedOps i)
  let s := (s.modIsl i fun x => { x with released := false }).pinsSafe i
  let s := s.modIsl i fun x =>
    { x with spi := x.spi.map fun (p : Spi) => { p with busy := false, cs := none },
             penCmp := [], outCmp := [], rel := [], port := x.issuedPort, done := [], testing := none, joining := none,
             capturing := false, sourceStopped := false }
  let s := s.eachTc i fun _ c =>
    if c.role = .active then { c.halt with outq := [], sb := c.sb.filter fun w => isDtcm w.addr, uncompared := [], sent := 0 } else c
  (s.endClaims i).setVote i .safe

/-- The island holds every slot that is not retired in reset; passing through HELD ends R319's holds (R307, R319). -/
def State.toHeld (s : State) (i : Fin 4) : State :=
  let s := (s.modIsl i fun x =>
    { x with released := false, penCmp := [], outCmp := [], rel := [], port := x.issuedPort, done := [], testing := none,
             joining := none, capturing := false, sourceStopped := false, injecting := false,
             spi := x.spi.map fun (p : Spi) => { p with busy := false, cs := none } }).pinsSafe i
  let s := s.eachTc i fun _ c =>
    if c.role = .retired then c else { c.halt with run := .held, outq := [], sb := [], uncompared := [], sent := 0, parked := none }
  ((s.endClaims i).setE (voteIdx i) 0xD 0).setVote i .held

/-! ## Fencing (R308) -/

/-- Fence a core: it stops, its queue and pennants are discarded, and nothing of it is compared or issued. -/
def State.fence (s : State) (i k : Fin 4) : State :=
  let s := s.modTc i k fun c => { c.halt with role := .fenced, outq := [], sb := [], uncompared := [], sent := 0 }
  s.modIsl i fun x =>
    { x with
      penCmp := (x.penCmp.map fun (p : PenCmp) => { p with arrivals := p.arrivals.filter fun a => a.1 != k }).filter
        fun p => !p.arrivals.isEmpty,
      outCmp := (x.outCmp.map fun (p : OutCmp) => { p with arrivals := p.arrivals.filter fun a => a.1 != k }).filter
        fun p => !p.arrivals.isEmpty,
      port := (x.port.map fun (p : PortTxn) => { p with cores := p.cores.filter (· != k) }).filter
        fun p => p.issued || !p.cores.isEmpty }

/-- Start the self-test of a fenced core (R309). -/
def State.startTest (s : State) (i k : Fin 4) (spare : Bool) : State :=
  s.modIsl i fun x => { x with testing := some k, joinIsSpare := spare }

/-! ## Mismatches (R300, R301, R307) -/

/-- The core that was fenced at this very time, where a further event names another one (R301, log entry 67). -/
def State.firstOutlier (s : State) (i : Fin 4) (out : Option (Fin 4)) : Option (Fin 4) :=
  let x := s.island.get i
  if x.st = .rejoinTest ∧ x.mismatchAt = s.time then
    match x.testing, out with
    | some k, some j => if k = j ∨ x.joinIsSpare then none else some k
    | _, _ => none
  else none

/-- Two events of one island cycle that name two cores are one mismatch without majority: the first core is not fenced, and
SAFE is entered (R301). -/
def State.noMajorityAfter (s : State) (i k : Fin 4) : State :=
  let idx := voteIdx i
  let s := (((s.setE idx 2 0xFF).setE idx 4 8).pulse (voterSrc i)).hardSafe i
  let s := (s.modTc i k fun c => { c with role := .active }).modIsl i fun y => { y with testing := none }
  s.safeEntry i 8 ((s.island.get i).active.foldl (fun n j => n + slotBit j) 0)

/-- A mismatch: the outlier where one is named, and its cause (Table 9.8). -/
def State.mismatch (s : State) (i : Fin 4) (out : Option (Fin 4)) (cause : Nat) : State :=
  let x := s.island.get i
  if !x.st.voting then s
  else match s.firstOutlier i out with
  | some k => s.noMajorityAfter i k
  | none =>
    let idx := voteIdx i
    let s := ((s.addE idx 3 32 1).setE idx 2 (match out with
      | some k => k.val
      | none => 0xFF)).setE idx 4 cause
    let s := (s.pulse (voterSrc i)).hardSafe i
    let slots := match out with
      | some k => slotBit k
      | none => x.active.foldl (fun n k => n + slotBit k) 0
    match x.st, out with
    | .triplex, some k =>
      let s := (s.fence i k).startTest i k false
      (s.modIsl i fun y => { y with mismatchAt := s.time, mismatchSeq := s.ev idx 5 }).setVote i .rejoinTest
    | _, _ => s.safeEntry i cause slots

/-! ## Pennants (R296 to R299) -/

/-- Close the window of a core: its pennant waits to be compared, and the next window opens. In REJOIN_WAIT the source
stops at the close (R298, R299, R313). -/
def State.closeWindow (s : State) (i k : Fin 4) : State :=
  let s := s.modTc i k fun c =>
    { c with uncompared := c.uncompared ++ [⟨c.seq, c.pen⟩], pen := 0xFFFFFFFFFFFFFFFF, winCount := 0, seq := c.seq + 1 }
  let x := s.island.get i
  if x.st = .rejoinWait ∧ x.source = some k then s.modIsl i fun y => { y with sourceStopped := true } else s

/-- PENNANT_WINDOW_CLOSE: the window with its 1,024th instruction retired closes (R298). -/
def execPennantWindowClose (i k : Fin 4) (s : State) : Host.Outcome State Fault Refusal :=
  .next <|
    if (s.island.get i).active.contains k && decide (1024 ≤ (s.tc i k).winCount) then s.closeWindow i k else s

/-- What a comparison of values finds among cores: no decision yet, agreement, one outlier, or no majority. -/
inductive Verdict where
  | wait | agree | outlier (k : Fin 4) | none
  deriving DecidableEq, Repr

/-- Two of the arrivals that hold one value, the lowest slots first. -/
def pairOf {α : Type} [DecidableEq α] (l : List (Fin 4 × α)) : Option α :=
  (l.find? fun a => l.any fun b => decide (b.1 ≠ a.1 ∧ b.2 = a.2)).map (·.2)

/-- The outcome of Table 9.2 for the arrivals from `act`; `late` says that the skew limit has passed. -/
def penVerdict (act : List (Fin 4)) (arr : List (Fin 4 × BitVec 64)) (late : Bool) : Verdict :=
  let missing := act.filter fun k => !arr.any fun a => a.1 == k
  if act.length = 3 then
    match pairOf arr with
    | some v =>
      match arr.find? fun a => a.2 ≠ v with
      | some a => .outlier a.1
      | none => match missing with
        | [] => .agree
        | k :: _ => if late then .outlier k else .wait
    | none => if missing.isEmpty || late then .none else .wait
  else if missing.isEmpty then (if arr.all fun a => some a.2 == (arr.head?.map (·.2)) then .agree else .none)
  else if late then .none else .wait

/-- Take a decided comparison out of the voter and out of the cores' uncompared pennants (R299). -/
def State.dropPen (s : State) (i : Fin 4) (seq : BitVec 32) : State :=
  let s := s.modIsl i fun x => { x with penCmp := x.penCmp.filter fun p => p.seq != seq }
  (s.eachTc i fun _ c =>
    { c with sent := if c.uncompared.any (·.seq == seq) then c.sent - 1 else c.sent,
             uncompared := c.uncompared.filter fun p => p.seq != seq }).setE (voteIdx i) 5 seq.toNat

/-- Decide one comparison where it can be decided (R300, R313). -/
def State.decidePen (s : State) (i : Fin 4) (p : PenCmp) (late : Bool) : State :=
  let x := s.island.get i
  if !x.st.voting then s
  else match penVerdict x.active p.arrivals late with
    | .wait => s
    | .agree =>
      let s := s.dropPen i p.seq
      let closed := match x.source with
        | some k => (x.slots.get k).seq == p.seq + 1
        | none => false
      if x.st = .rejoinWait ∧ x.sourceStopped ∧ closed = true then s.modIsl i fun y => { y with capturing := true } else s
    | .outlier k => (s.dropPen i p.seq).mismatch i (some k) (if late then 2 else 1)
    | .none => (s.dropPen i p.seq).mismatch i none (if x.active.length = 3 then 8 else if late then 2 else 1)

/-- Decide every comparison that can be decided, after the set of active cores has shrunk. -/
def State.settlePens (s : State) (i : Fin 4) : State :=
  (s.island.get i).penCmp.foldl (fun s p => s.decidePen i p false) s

/-! ## Output queues (R302 to R304) -/

/-- Cores that produce a queue position: the active ones that had joined before it (R313). -/
def Island.producers (x : Island) (pos : Nat) : List (Fin 4) :=
  x.active.filter fun k => decide ((x.slots.get k).joinPos ≤ pos)

/-- Remove a position's entry from a core's output queue. -/
def State.dropOut (s : State) (i k : Fin 4) (pos : Nat) : State :=
  s.modTc i k fun c => { c with outq := c.outq.filter fun w => w.pos ≠ pos }

/-- An entry as it is compared: address, size and data; the tag is not kept (R302, R303). -/
def TStore.key (w : TStore) : Nat × Nat × BitVec 128 := (w.addr, w.size, w.data)

/-- Put a comparison in the place of the one that `same` names, or behind the others, which keeps them in the order of their
first arrivals (R300, R303). -/
def putCmp {α : Type} (same : α → Bool) (v : α) (l : List α) : List α :=
  if l.any same then l.map fun q => if same q then v else q else l ++ [v]

/-- Replace or remove the comparison of a position. -/
def State.putOut (s : State) (i : Fin 4) (pos : Nat) (p : Option OutCmp) : State :=
  s.modIsl i fun x =>
    { x with outCmp := match p with
        | some v => putCmp (fun q => q.pos == pos) v x.outCmp
        | none => x.outCmp.filter fun q => q.pos ≠ pos }

/-- Decide the comparison of a position where it can be decided; `late` says that its skew limit has passed (R303). -/
def State.decideOut (s : State) (i : Fin 4) (p : OutCmp) (late : Bool) : State :=
  let x := s.island.get i
  if !x.st.voting then s
  else
    let act := x.producers p.pos
    let arr := p.arrivals.map fun a => (a.1, a.2.key)
    let missing := act.filter fun k => !arr.any fun a => a.1 == k
    match pairOf arr with
    | some v =>
      let agreeing := p.arrivals.filter fun a => a.2.key = v
      let s := if p.agreed then s else
        match agreeing with
        | [] => s
        | a :: _ => s.modIsl i fun y =>
            { y with rel := y.rel ++ [⟨a.2, (agreeing.map (·.1)).foldl (fun m k => if k.val < m.val then k else m) a.1⟩] }
      let s := agreeing.foldl (fun s a => s.dropOut i a.1 p.pos) s
      match p.arrivals.find? fun a => a.2.key ≠ v with
      | some a => (s.putOut i p.pos none).mismatch i (some a.1) 3
      | none => match missing with
        | [] => s.putOut i p.pos none
        | k :: _ => if late then (s.putOut i p.pos none).mismatch i (some k) 4
            else s.putOut i p.pos (some { p with agreed := true })
    | none =>
      if late ∨ (missing.isEmpty ∧ 1 < act.length) then
        (s.putOut i p.pos none).mismatch i none (if x.active.length = 3 then 8 else if late then 4 else 3)
      else s

/-- Decide every position that can be decided, after the set of active cores has shrunk. -/
def State.settleOuts (s : State) (i : Fin 4) : State :=
  (s.island.get i).outCmp.foldl (fun s p => s.decideOut i p false) s

/-- With two active cores left, accesses of theirs at one position that differ are a mismatch (R271). -/
def State.settlePort (s : State) (i : Fin 4) : State :=
  let x := s.island.get i
  if x.active.length ≠ 2 then s
  else match x.port.find? fun t => t.live t.pos t.entries && !t.issued && x.port.any fun u => decide (u ≠ t) && u.live t.pos t.entries with
    | some t => match t.cores with
      | k :: _ => (s.addE (0x5000 + i.val) 6 32 1).mismatch i (some k) 5
      | [] => s
    | none => s

/-- Settle every open comparison of an island after a core was fenced. -/
def State.settleVoter (s : State) (i : Fin 4) (before : VState) : State :=
  if (s.island.get i).st = before then s else ((s.settlePens i).settleOuts i).settlePort i

/-- PENNANT_COMPARISON: the next pennant of a core arrives at the voter, which holds up to 8 of one core (R299, R300). -/
def execPennantComparison (i k : Fin 4) (s : State) : Host.Outcome State Fault Refusal :=
  .next <|
    let x := s.island.get i
    let c := s.tc i k
    match c.uncompared[c.sent]? with
    | none => s
    | some p =>
      if !x.active.contains k || decide (8 ≤ c.sent) then s
      else
        let old := (x.penCmp.find? (·.seq == p.seq)).getD ⟨p.seq, s.time, []⟩
        let new := { old with arrivals := old.arrivals ++ [(k, p.value)] }
        let s := s.modTc i k fun c => { c with sent := c.sent + 1 }
        let s := s.modIsl i fun y => { y with penCmp := putCmp (fun q => q.seq == p.seq) new y.penCmp }
        let s := s.setE (voteIdx i) 6 (max (s.ev (voteIdx i) 6) ((s.time - old.at_) % 2 ^ 32))
        (s.decidePen i new false).settleVoter i x.st

/-- PENNANT_SKEW_TIMEOUT: the skew limit of the oldest open comparison passes (R300). -/
def execPennantSkewTimeout (i : Fin 4) (s : State) : Host.Outcome State Fault Refusal :=
  .next <|
    match (s.island.get i).penCmp with
    | [] => s
    | p :: _ =>
      (s.decidePen i p true).settleVoter i (s.island.get i).st

/-- OUTPUT_QUEUE_COMPARISON: the head of a core's output queue arrives at the voter (R303). -/
def execOutputQueueComparison (i k : Fin 4) (s : State) : Host.Outcome State Fault Refusal :=
  .next <|
    let x := s.island.get i
    match (s.tc i k).outq with
    | [] => s
    | w :: _ =>
      let old := (x.outCmp.find? (·.pos == w.pos)).getD ⟨w.pos, [], false⟩
      if !x.active.contains k || old.arrivals.any (·.1 == k) then s
      else
        let new := { old with arrivals := old.arrivals ++ [(k, w)] }
        ((s.putOut i w.pos (some new)).decideOut i new false).settleVoter i x.st

/-- OUTPUT_SKEW_TIMEOUT: the limit of the oldest open position passes (R303). -/
def execOutputSkewTimeout (i : Fin 4) (s : State) : Host.Outcome State Fault Refusal :=
  .next <|
    match (s.island.get i).outCmp with
    | [] => s
    | p :: _ => (s.decideOut i p true).settleVoter i (s.island.get i).st

/-- A mismatch of R301 followed by the decisions that the remaining cores allow. -/
def State.coreMismatch (s : State) (i k : Fin 4) (cause : Nat) : State :=
  let st := (s.island.get i).st
  (s.mismatch i (some k) cause).settleVoter i st

/-- A mismatch without majority that no comparison of pennants or output entries shows (R271, R301). -/
def State.noMajority (s : State) (i : Fin 4) : State :=
  let st := (s.island.get i).st
  (s.mismatch i none 8).settleVoter i st

/-! ## Self-tests and retirement (R309 to R311) -/

/-- Transients of a slot that lie within TRANSIENT_WINDOW (R310). -/
def State.slotTransients (s : State) (i k : Fin 4) : List Nat :=
  ((s.island.get i).transients.get k).filter fun t => s.time < t + s.ev 0x5104 2 * 1000000000

/-- Retire a slot: code 0x28, its role and the retirement list (R311, R510). -/
def State.retireSlot (s : State) (i k : Fin 4) (counted : Bool) : State :=
  let s := s.record (bankIsland i) 0x28 k.val (b2n counted) 0 0
  let s := s.modTc i k fun c => { c.halt with role := .retired }
  s.retireEntry 2 0x28 (k.val + 4 * i.val)

/-- After a slot was retired in REJOIN_TEST: the spare is fenced and tested, or the island stays in DUPLEX (Table 9.5). -/
def State.replaceSlot (s : State) (i : Fin 4) : State :=
  match (allFin 4).find? fun k => (s.tc i k).role == .spare with
  | some k => (s.modTc i k fun c => { c with role := .fenced }).startTest i k true
  | none => (s.modIsl i fun x => { x with testing := none }).setVote i .duplex

/-- The result of a self-test in SLOTS_GOOD (Table 9.8). -/
def State.setGood (s : State) (i k : Fin 4) (pass : Bool) : State :=
  s.modIsl i fun x =>
    { x with good := if pass then x.good ||| BitVec.ofNat 4 (slotBit k) else x.good &&& ~~~(BitVec.ofNat 4 (slotBit k)),
             tested := x.tested ||| BitVec.ofNat 4 (slotBit k) }

/-- Once every slot that is not retired has been tested, the injection test runs (Table 9.5, R320). -/
def State.testsDone (s : State) (i : Fin 4) : State :=
  let x := s.island.get i
  let left := (allFin 4).any fun k => (x.slots.get k).role != .retired && !x.tested.getLsbD k.val
  if x.st = .test ∧ !left then s.modIsl i fun y => { y with injecting := true } else s

/-- SELF_TEST_DONE: the self-test of a slot ends (R309, R310, Table 9.5). -/
def execSelfTestDone (i k : Fin 4) (pass : Bool) (s : State) : Host.Outcome State Fault Refusal :=
  .next <|
    let x := s.island.get i
    if x.st = .test then
      if x.injecting || (x.slots.get k).role == .retired || x.tested.getLsbD k.val then s
      else
        let s := (s.wipeTcms i k).setGood i k pass
        (if pass then s else s.retireSlot i k false).testsDone i
    else if x.st = .rejoinTest ∧ x.testing = some k then
      let s := (s.wipeTcms i k).setGood i k pass
      let load (s : State) : State :=
        (s.modIsl i fun y => { y with testing := none, joining := some k }).setVote i .rejoinLoad
      if x.joinIsSpare then
        if pass then load s
        else ((s.retireSlot i k false).modIsl i fun y => { y with testing := none }).setVote i .duplex
      else if pass then
        let l := s.slotTransients i k ++ [s.time]
        let s := s.modIsl i fun y => { y with transients := vset y.transients k l }
        if s.ev 0x5104 1 ≤ l.length then (s.retireSlot i k true).replaceSlot i
        else
          let s := s.record (bankIsland i) 0x04 k.val (s.ev (voteIdx i) 4) 0 x.mismatchSeq
          load s
      else (s.retireSlot i k false).replaceSlot i
    else s

/-- INJECTION_TEST_DONE: bit n of `failed` says that step n gave another outcome (R320, Table 9.5, R495). -/
def execInjectionTestDone (i : Fin 4) (failed : BitVec 11) (s : State) : Host.Outcome State Fault Refusal :=
  .next <|
    let x := s.island.get i
    if x.st ≠ .test ∨ !x.injecting then s
    else
      let s := (s.setE (voteIdx i) 9 failed.toNat).modIsl i fun y => { y with injecting := false }
      let good := (allFin 4).filter fun k => x.good.getLsbD k.val && (x.slots.get k).role != .retired
      if failed ≠ 0 ∨ good.length < 2 then
        let bad := (allFin 4).foldl (fun n k => if x.tested.getLsbD k.val && !x.good.getLsbD k.val then n + slotBit k else n) 0
        (s.record (bankIsland i) 0x2A bad 0 0 failed.toNat).setVote i .notReleased
      else
        let act := good.take 3
        let spare := good.drop 3
        let s := s.eachTc i fun k c =>
          if act.contains k then { TCore.init .active with run := .running }
          else if spare.contains k then TCore.init .spare
          else c
        let s := act.foldl (fun s k => s.loadImage i k) s
        let s := s.setVote i (if good.length = 2 then .duplex else .triplex)
        (s.modIsl i fun y => { y with released := true }).applyPins i

/-! ## Rejoining (R312 to R315) -/

/-- REJOIN_COPY_DONE: every word of the source's TCMs is in the joining core's (R312). -/
def execRejoinCopyDone (i : Fin 4) (s : State) : Host.Outcome State Fault Refusal :=
  .next <|
    let x := s.island.get i
    match x.st, x.joining, x.source with
    | .rejoinLoad, some j, some k => (s.copyTcms i k j).setVote i .rejoinWait
    | _, _, _ => s

/-- A DTCM write of the source in REJOIN_WAIT is also made in the joining core's DTCM, so that the joining core starts
from the source's memory (R312, log entry 31). -/
def State.mirror (s : State) (i k : Fin 4) : Option (Fin 4) :=
  let x := s.island.get i
  if x.st = .rejoinWait ∧ x.source = some k then x.joining else none

/-- REJOIN_CAPTURE_DONE: the source's state is copied, the joining core starts and the source resumes (R313). -/
def execRejoinCaptureDone (i : Fin 4) (s : State) : Host.Outcome State Fault Refusal :=
  .next <|
    let x := s.island.get i
    match x.st, x.joining, x.source with
    | .rejoinWait, some j, some k =>
      let src := x.slots.get k
      if !x.capturing || src.sb.any (fun w => isDtcm w.addr) then s
      else
        let s := s.modTc i j fun _ =>
          { src with role := .active, sb := [], outq := [], uncompared := [], sent := 0, far := none, joinPos := src.qpos,
                     haltReq := false, step1 := false }
        let serves (t : PortTxn) : Bool := t.cores.contains k && src.parked.any fun p =>
          p.pos == t.pos && p.entries == t.entries && p.got.isNone
        let s := s.modIsl i fun y =>
          { y with port := y.port.map fun (t : PortTxn) => if serves t then { t with cores := t.cores ++ [j] } else t,
                   joining := none, capturing := false, sourceStopped := false,
                   bounds := y.bounds.map fun (b : Bound) =>
                     if b.reached.contains k then { b with reached := b.reached ++ [j] } else b }
        (s.setE (voteIdx i) 8 ((s.time - x.mismatchAt) / 1000 % 2 ^ 32)).setVote i .triplex
    | _, _, _ => s

/-! ## Effects of RESTART and HS_RELEASE (Table 9.8) -/

/-- RESTART 0x01: to HELD from SAFE or NOT_RELEASED; none where refused. -/
def State.restartHold (s : State) (i : Fin 4) : Option State :=
  let st := (s.island.get i).st
  if st = .safe ∨ st = .notReleased then some (s.toHeld i) else none

/-- A release from HELD: the retired slots are those of the retirement list, and every other slot is tested (R307). -/
def State.releaseIsland (s : State) (i : Fin 4) : State :=
  let s := s.eachTc i fun k c => if s.retiredRes 2 (k.val + 4 * i.val) then { c with role := .retired } else c
  let s := s.modIsl i fun x => { x with tested := 0, injecting := false, testing := none }
  (s.setVote i .test).testsDone i

/-- RESTART 0x02: release from HELD; none where refused. -/
def State.restartRelease (s : State) (i : Fin 4) : Option State :=
  if (s.island.get i).st = .held ∧ s.domOn ⟨40 + i.val, by omega⟩ then some (s.releaseIsland i) else none

/-- HS_RELEASE: a 1 releases the held outputs in TRIPLEX or DUPLEX, each then taking its registers' value; none where
refused (R319). -/
def State.hsRelease (s : State) (i : Fin 4) (v : Nat) : Option State :=
  let st := (s.island.get i).st
  if v = 0 then some s
  else if st = .triplex ∨ st = .duplex then
    let held := s.ev (voteIdx i) 0xD
    let s := s.setE (voteIdx i) 0xD 0
    some ((allFin 16).foldl (fun s n => if bit held n.val then s.applyPin i n false else s) s)
  else none

/-! ## Island registers (R294, Table 8.10) -/

/-- Read an island register. -/
def State.islRead (s : State) (i : Fin 4) (off : Nat) : Option Word :=
  let x := s.island.get i
  if off % 8 ≠ 0 then none
  else if off < 0x80 then some ((x.pins.get (fin 15 (off / 8))).ctl.setWidth 64)
  else if 0x100 ≤ off ∧ off < 0x180 then some ((x.pins.get (fin 15 ((off - 0x100) / 8))).per.setWidth 64)
  else if 0x200 ≤ off ∧ off < 0x280 then some ((x.pins.get (fin 15 ((off - 0x200) / 8))).duty.setWidth 64)
  else if 0x400 ≤ off ∧ off < 0x500 then
    let c := x.caps.get (fin 15 ((off - 0x400) / 16))
    if off % 16 = 0 then some (word c.time)
    else some (word (b2n c.level + 2 * b2n c.rise + c.edges.toNat * 2 ^ 16))
  else if 0x600 ≤ off ∧ off < 0x680 then
    let p := x.spi.get (fin 1 ((off - 0x600) / 0x40))
    match off % 0x40 with
    | 0 => some (p.ctl.setWidth 64)
    | 8 => some (p.rx.setWidth 64)
    | 0x10 => some (word (b2n p.busy))
    | _ => none
  else if off = 0x800 then some (word s.time)
  else if off = 0x808 then some 0
  else if 0x818 ≤ off ∧ off ≤ 0x888 then some 0
  else none

/-- Start an SPI transfer of a word (Table 8.10). -/
def State.spiStart (s : State) (i : Fin 4) (k : Fin 2) (v : BitVec 32) : State :=
  s.modIsl i fun x => { x with spi := vmod x.spi k fun p => { p with tx := v, busy := true, cs := some (p.ctl.extractLsb' 10 2) } }

/-- Whether a released write to an address has to wait: SPI_DATA_k while BUSY (Table 8.10). -/
def State.spiBusy (s : State) (i : Fin 4) (a : Nat) : Bool :=
  isSpiData a && ((s.island.get i).spi.get (fin 1 (a / 0x40))).busy

/-- A write of RING to DOORBELL_d (R294). -/
def State.ring (s : State) (i : Fin 4) (d : Nat) (v : Word) : State :=
  if v.getLsbD 0 ∧ d ≠ 0 then s.pulse (512 + 16 * i.val + d) else s

/-- An end of an island interrupt (R289). -/
def State.islEnd (s : State) (i : Fin 4) (id : Nat) : State :=
  if (s.island.get i).claimed.contains id then
    (s.irqEnd (.island i) id).modIsl i fun x => { x with claimed := x.claimed.filter (· ≠ id) }
  else s

/-- A released write to an island register; `mask` marks the bits that the write carries. RO registers ignore it; none
where no register stands there. -/
def State.islWrite (s : State) (i : Fin 4) (off : Nat) (v mask : Word) : Option State :=
  match s.islRead i off with
  | none => none
  | some old =>
    let w := mergeBits old v mask
    let cmd := v &&& mask
    if off < 0x80 then
      let n := fin 15 (off / 8)
      let ctl := w.setWidth 3
      let ctl : BitVec 3 := if w.getLsbD 1 then (ctl &&& 4) ||| (old.setWidth 3 &&& 3) else ctl
      some ((s.modPin i n fun p => { p with ctl := ctl }).applyPin i n true)
    else if off < 0x180 then
      let n := fin 15 ((off - 0x100) / 8)
      some ((s.modPin i n fun p => { p with per := w.setWidth 24 }).applyPin i n false)
    else if off < 0x280 then
      some (s.modPin i (fin 15 ((off - 0x200) / 8)) fun p => { p with duty := w.setWidth 24 })
    else if off < 0x600 then some s
    else if off < 0x680 then
      let k := fin 1 ((off - 0x600) / 0x40)
      match off % 0x40 with
      | 0 => some (s.modIsl i fun x => { x with spi := vmod x.spi k fun p => { p with ctl := w.setWidth 12 } })
      | 8 => some (if mask.getLsbD 0 then s.spiStart i k (v.setWidth 32) else s)
      | _ => some s
    else if off = 0x808 then some (s.islEnd i (bits cmd.toNat 11 0))
    else if 0x818 ≤ off then some (s.ring i ((off - 0x810) / 8) cmd)
    else some s

/-! ## Commands on the registers and pins -/

/-- ISL_EOI: a released write of an ID (R289). -/
def execIslEoi (i : Fin 4) (id : BitVec 12) (s : State) : Host.Outcome State Fault Refusal := .next (s.islEnd i id.toNat)

/-- DOORBELL: a mesh write to DOORBELL_d by a master of either world; no DOORBELL_0 exists (R28, R294). -/
def execDoorbell (_m : Master) (i : Fin 4) (d : Fin 16) (v : Word) (s : State) : Host.Outcome State Fault Refusal :=
  .next <|
    if d = 0 then { s with reply := .error .decerr }
    else if s.domOn ⟨40 + i.val, by omega⟩ then s.ring i d.val v
    else { s with reply := .error .offerr }

/-- SPI_DATA: a released write to SPI_DATA_k starts a 32-bit transfer; while BUSY it is held with the writes that wait for
their release (Table 8.10). -/
def execSpiData (i : Fin 4) (k : Fin 2) (v : BitVec 32) (s : State) : Host.Outcome State Fault Refusal :=
  .next <|
    if ((s.island.get i).spi.get k).busy then
      s.modIsl i fun x => { x with rel := x.rel ++ [⟨⟨0xC00608 + 0x40 * k.val, 4, v.setWidth 128, false, 0⟩, 0⟩] }
    else s.spiStart i k v

/-- SPI_TRANSFER_DONE: a transfer ends with the word received (Table 8.10). -/
def execSpiTransferDone (i : Fin 4) (k : Fin 2) (rx : BitVec 32) (s : State) : Host.Outcome State Fault Refusal :=
  .next <|
    if ((s.island.get i).spi.get k).busy then
      s.modIsl i fun x => { x with spi := vmod x.spi k fun p => { p with busy := false, rx := rx, cs := none } }
    else s

/-- CAPTURE_INPUT_EDGE: an edge on a capture input of an island that is on (Table 8.10). -/
def execCaptureInputEdge (i : Fin 4) (n : Fin 16) (level : Bool) (s : State) : Host.Outcome State Fault Refusal :=
  .next <|
    if s.domOn ⟨40 + i.val, by omega⟩ && ((s.island.get i).caps.get n).level != level then
      s.modIsl i fun x => { x with caps := vmod x.caps n fun c => ⟨s.time, level, level, c.edges + 1⟩ }
    else s

/-! ## Interrupt offers (R282, R314) -/

/-- The leading core: the active core with the largest INSTRET. -/
def Island.leading (x : Island) : Option (Fin 4) :=
  x.active.foldl (fun acc k => match acc with
    | none => some k
    | some b => if (x.slots.get b).instret.toNat < (x.slots.get k).instret.toNat then some k else acc) none

/-- ISLAND_INTERRUPT_OFFER: the unit claims the offered source once and fixes the agreed boundary at the leading core's
next boundary (R58, R282); while the source of a rejoin is stopped it fixes none (R314). -/
def execIslandInterruptOffer (i : Fin 4) (s : State) : Host.Outcome State Fault Refusal :=
  .next <|
    let x := s.island.get i
    match x.leading, s.islandOffer i with
    | some k, some key =>
      let c := x.slots.get k
      let src := s.src key
      if x.sourceStopped || src.prio ≤ bits c.tstat.toNat 7 4 || c.tstat.getLsbD 8 || c.run == .stopped ||
          x.bounds.any (fun b => !b.reached.contains k) then s
      else
        let n := if c.delay.isSome then c.instret + 1 else c.instret
        (s.claim key (.island i)).modIsl i fun y =>
          { y with claimed := y.claimed ++ [srcId key], bounds := y.bounds ++ [⟨n, srcId key, src.vec, src.prio, []⟩] }
    | _, _ => s

end Sys2Proof.Machine
end

