-- ==== Sys2Proof/Machine/Husk.lean ====
section
/-! DEFINITION. The life of a husk: claim, seal, measurement, destroy and clearing (R336, R337, R344), and its entries
(Table 10.10). -/
namespace Sys2Proof.Machine

/-- OWNER of a requester: its partition, or bit 6 for none, and its world (Table 10.10). -/
def State.ownerByte (s : State) (m : Master) : Byte :=
  BitVec.ofNat 8 ((s.masterPart m).getD 64 + b2n (s.masterSecure m) * 128)

/-- The valid ranges of a husk. -/
def Husk.valid (x : Husk) : List Nat := (x.range.toList.map (·.toNat)).filter (bit · 0)

/-- Whether the valid ranges hold n bytes from an address on, within one range. -/
def Husk.covers (x : Husk) (a n : Nat) : Bool := x.valid.any fun r => rangeHolds r a n

/-- The valid entry addresses of a husk. -/
def Husk.entries (x : Husk) : List Nat := (x.entry.toList.filter (·.getLsbD 0)).map fun e => e.toNat - 1

/-- Whether no check of R337 refuses the seal of husk h. -/
def State.sealOk (s : State) (h : Nat) : Bool :=
  let x := s.huskGet h
  let secure := x.owner.getLsbD 7
  let others := s.husk.filter fun e => e.1 != h && e.2.st.closed
  !x.valid.isEmpty &&
  x.valid.all (fun r => decide (rangeBase r + rangeSize r ≤ Config.carveOut)) &&
  (secure || x.valid.all fun r => (List.range 8).all fun k => !rangesMeet r (s.ev 0x3000 (0x10 + k))) &&
  (x.valid.all fun r => others.all fun e => e.2.valid.all fun w => !rangesMeet r w) &&
  decide (x.save.toNat % 0x8000 = 0) && x.covers x.save.toNat 0x8000 &&
  !x.entries.isEmpty && x.entries.all (fun a => x.covers a 1) &&
  (x.ring == 1 || x.ring == 2) && decide (12 ≤ x.stackLog2.toNat ∧ x.stackLog2.toNat ≤ 20)

/-- The address of core c's save slot (R342). -/
def Husk.slot (x : Husk) (c : Nat) : Nat := x.save.toNat + 0x400 * c

/-- V of core c's save slot of a husk. -/
def State.slotV (s : State) (x : Husk) (c : Nat) : Bool := bit (ofBytes (s.peekBytes (x.slot c) 1)) 0

/-- Clear V of one save slot. -/
def State.clearSlot (s : State) (x : Husk) (c : Fin 32) : State :=
  s.memWrite (.core c) (x.slot c.val) (toBytes 1 (ofBytes (s.peekBytes (x.slot c.val) 1) / 2 * 2)) false

/-- The cores inside a husk. -/
def State.coresIn (s : State) (h : Nat) : List (Fin 32) := (allFin 32).filter fun c => (s.acore.get c).inHusk == some h

/-- CORES_IN (Table 10.10). -/
def State.coresInMask (s : State) (h : Nat) : Nat :=
  let x := s.huskGet h
  if x.st = .valid then
    ((allFin 32).map fun c => b2n ((s.coresIn h).contains c || s.slotV x c.val) * 2 ^ c.val).sum
  else 0

/-- Claim (Table 10.3): no husk exists in PARTITION mode. The answer is a status of Table 14.2. -/
def State.huskClaim (s : State) (m : Master) (h : Nat) : State × Nat :=
  let x := s.huskGet h
  if s.hasHusks && x.st == .free then (s.huskPut h { x with st := .loading, owner := s.ownerByte m }, 0) else (s, 6)

/-- Seal (Table 10.3, R337). -/
def State.huskSeal (s : State) (h : Nat) : State × Nat :=
  let x := s.huskGet h
  if x.st == .loading && s.sealOk h then (s.huskPut h { x with st := .sealing }, 0) else (s, 6)

/-- Remove the indirect-target entries of a husk from a core (R344). -/
def ACore.dropHusk (a : ACore) (h : Nat) : ACore :=
  { a with pred := a.pred.filter fun e => !(e.kind == .indirect && e.husk == some h) }

/-- Destroy (R344, Table 10.3): every core inside is marked, and leaves by a forced exit before its next instruction; save
slots are discarded and indirect-target entries removed. -/
def State.huskDestroy (s : State) (h : Nat) : State × Nat :=
  let x := s.huskGet h
  if x.st == .loading then (s.huskPut h { x with st := .free }, 0)
  else if x.st == .valid then
    let s := (allFin 32).foldl (fun s c => if s.slotV x c.val then s.clearSlot x c else s) s
    let mark : ACore → ACore := fun a => ({ a with forced := a.forced || a.inHusk == some h }).dropHusk h
    (({ s with acore := s.acore.map mark }).huskPut h { x with st := .clearing }, 0)
  else (s, 6)

/-- A write to CONTROL by a requester that may write it. -/
def State.huskControl (s : State) (m : Master) (h v : Nat) : State × Nat :=
  if v = 1 then s.huskClaim m h else if v = 2 then s.huskSeal h else s.huskDestroy h

/-- The measured bytes of a husk, in the order of R337. -/
def State.huskImage (s : State) (x : Husk) : List Byte :=
  (x.valid.flatMap fun r => toBytes 8 r ++ (if bit r 1 then s.peekBytes (rangeBase r) (rangeSize r) else [])) ++
  (x.entry.toList.flatMap fun e => toBytes 8 e.toNat) ++
  toBytes 8 x.stack.toNat ++ toBytes 8 x.stackLog2.toNat ++ toBytes 8 x.ring.toNat ++ toBytes 8 x.flags.toNat

/-- HUSK_SEALING_DONE: the measurement ends (R336, R337). -/
def execHuskSealingDone (h : Fin 1024) (s : State) : Host.Outcome State Fault Refusal :=
  let x := s.huskGet h.val
  if x.st = .sealing then
    .next (s.huskPut h.val { x with st := .valid, measure := BitVec.ofNat 384 (ofBytes (sha384 (s.huskImage x))) })
  else .next s

/-- Write zeros with valid check bytes over a line: no copy and no queued write of it stays. -/
def State.zeroLine (s : State) (line : Nat) : State :=
  let s := s.dci line
  let s := { s with pc := s.pc.map fun (x : PseudoChannel) => { x with q := x.q.filter fun c => !(c.write && c.line == line) } }
  s.storeLine line 0 false

/-- Zero every line of a range. -/
def State.zeroRange (s : State) (r : Nat) : State :=
  (List.range (rangeSize r / 64)).foldl (fun s k => s.zeroLine (rangeBase r / 64 + k)) s

/-- HUSK_CLEARING_DONE: the ranges are zeroed and the husk is free (R336). -/
def execHuskClearingDone (h : Fin 1024) (s : State) : Host.Outcome State Fault Refusal :=
  let x := s.huskGet h.val
  if x.st = .clearing then .next (s.served fun s => (x.valid.foldl (fun s r => s.zeroRange r) s).huskPut h.val { x with st := .free })
  else .next s

/-- Code of a husk state (Table 10.3). -/
def HuskSt.code : HuskSt → Nat
  | .free => 0 | .loading => 1 | .sealing => 2 | .valid => 3 | .clearing => 4

/-- Read a scalar field f of a husk (Table 10.10). -/
def State.huskField (s : State) (h f : Nat) : Nat :=
  let x := s.huskGet h
  if f = 1 then x.st.code
  else if f = 3 then x.owner.toNat
  else if 4 ≤ f ∧ f ≤ 7 then (x.range.get (fin 3 (f - 4))).toNat
  else if f = 8 then x.stack.toNat
  else if f = 9 then x.stackLog2.toNat
  else if f = 0xA then x.save.toNat
  else if 0xB ≤ f ∧ f ≤ 0x12 then (x.entry.get (fin 7 (f - 0xB))).toNat
  else if f = 0x13 then x.ring.toNat
  else if f = 0x14 then x.flags.toNat
  else if f = 0x15 then s.coresInMask h
  else 0

/-- Write a field of a husk while it is LOADING (R337). -/
def State.huskWrite (s : State) (h f v : Nat) : State × Nat :=
  let x := s.huskGet h
  if x.st ≠ .loading then (s, 6)
  else
    let x' : Husk :=
      if 4 ≤ f ∧ f ≤ 7 then { x with range := vset x.range (fin 3 (f - 4)) (word v) }
      else if f = 8 then { x with stack := word v }
      else if f = 9 then { x with stackLog2 := BitVec.ofNat 8 v }
      else if f = 0xA then { x with save := word v }
      else if 0xB ≤ f ∧ f ≤ 0x12 then { x with entry := vset x.entry (fin 7 (f - 0xB)) (word v) }
      else if f = 0x13 then { x with ring := BitVec.ofNat 8 v }
      else if f = 0x14 then { x with flags := BitVec.ofNat 8 v }
      else x
    (s.huskPut h x', 0)

/-- HUSKS_VALID: the husks in state VALID (Table 10.10). -/
def State.husksValid (s : State) : Nat := (s.husk.filter fun e => e.2.st == .valid).length

end Sys2Proof.Machine
end

