-- ==== Sys2Proof/Machine/Power.lean ====
section
/-! DEFINITION. Power domains (R474 to R478): what a domain holds and loses, the requests and holds on it (R345, R346,
R475, R477), and the pods' frequencies (R486, R487, R523). -/
namespace Sys2Proof.Machine

/-! ## Stores that leave a core's buffer (R113, R114, R32) -/

/-- One line part of a committed store: performed, or answered with an error that is recorded (R32, R339, R509). -/
def State.storePart (s : State) (c : Fin 32) (husk : Option Nat) (t : MemType) (a : Nat) (d : List Byte) : State :=
  let m := Master.core c
  match s.accessErr m (some t) a d.length true with
  | some r => s.postedError m a r
  | none =>
    if s.huskRefuses m husk a then (s.huskRecord m a).postedError m a .wlderr
    else if (s.region a).isHbm then
      if s.fatalBank (bankSlice (homeIdx (a / 64))) then s.postedError m a .wlderr else s.coreWrite c (a / 64) (a % 64) d t
    else s.memWrite m a d false

/-- The oldest store of a core's buffer is performed: one line part at a time, the lower line first, so that another master may see
one without the other; it leaves the buffer with its last part (R114, R119, R121). A store that its home cannot take yet stays
(R114, log entry 22). -/
def State.drainOne (s : State) (c : Fin 32) : State :=
  match (s.acore.get c).sb with
  | [] => s
  | e :: r =>
    match e.parts with
    | [] => { s with acore := vmod s.acore c fun a => { a with sb := r } }
    | p :: ps =>
      let s := { s with acore := vmod s.acore c fun a => { a with sb := if ps.isEmpty then r else { e with parts := ps } :: r } }
      s.storePart c e.husk p.type p.addr p.data

/-- The oldest store of a core's buffer is performed whole. -/
def State.drainStore (s : State) (c : Fin 32) : State :=
  match (s.acore.get c).sb with
  | [] => s
  | e :: _ => (List.range (max 1 e.parts.length)).foldl (fun s _ => s.drainOne c) s

/-- Every store of a core's buffer is performed. -/
def State.drainAll (s : State) (c : Fin 32) : State := (s.acore.get c).sb.foldl (fun s _ => s.drainStore c) s

/-! ## Domains and their contents -/

/-- The power domain of an entry's owning block (R432, R434, Table 16.1). -/
def entDomain (key : Nat) : Nat :=
  let i := key / 256
  let sub := key % 256
  if i < 0x3000 then 63
  else if i < 0x4000 then 59
  else if i < 0x4100 then 48
  else if i < 0x4210 then 44
  else if i < 0x6000 then 59
  else if i < 0x6130 then 50
  else if i < 0x6300 then 52
  else if i < 0x6400 then 59
  else if i < 0x6500 then 51
  else if i < 0x6560 then 52
  else if i < 0x7000 then 59
  else if i < 0x9000 then 63
  else if i < 0x9010 then 63
  else if i < 0x9100 then 59
  else if i < 0x9200 then 57
  else if i < 0xA000 then 59
  else if i < 0xA010 ∧ sub ≠ 0xD then 57
  else 63

/-- Whether an entry is VOL (R432). -/
def isVol (key : Nat) : Bool := ((catRow key).map (·.pers == .vol)).getD true

/-- Entries that stand in fuses (Table 10.8, R349): the key states and the minimum versions. -/
def isFused (key : Nat) : Bool :=
  decide ((ek 0x3000 0x20 ≤ key ∧ key ≤ ek 0x3000 0x23) ∨ (ek 0x3000 0x31 ≤ key ∧ key ≤ ek 0x3000 0x37))

/-- Entries that keep their value while no domain is on: those of the seed store, and the fuses (R432, Table 10.8). -/
def survives (key : Nat) : Bool := !isVol key || isFused key

/-- Every VOL entry that a condition names takes its default (R432); what stands in fuses stays. -/
def State.entReset (s : State) (p : Nat → Bool) : State :=
  { s with ent := s.ent.filter (fun e => survives e.1 || !p e.1), entB := s.entB.filter (fun e => survives e.1 || !p e.1) }

/-- The bytes from lo up to hi are lost, with their tags and errors (log entry 4). -/
def State.loseMem (s : State) (lo hi : Nat) : State :=
  let out (a : Nat) : Bool := !decide (lo ≤ a ∧ a < hi)
  { s with mem := s.mem.filter (fun c => out c.1), tags := s.tags.filter out, ecc := s.ecc.filter (fun e => out e.1) }

/-- Drive every level input again from the state of the blocks (Table 4.9). -/
def State.relines (s : State) : State :=
  let s := ((s.envLine.ledgerLine).mailLine).gpioLine
  let s := (allFin 49).foldl (fun s b => s.bankLine b.val) s
  (List.range 256).foldl (fun s v => s.viLine v) s

/-- The contents of HBM are lost; what is retired stays retired, its moves complete (R258, R510). -/
def State.loseHbm (s : State) : State :=
  let lost (x : PseudoChannel) : PseudoChannel :=
    { PseudoChannel.init with st := if x.st = .migrating then .retired else x.st, unrepairable := x.unrepairable }
  let done (r : Retirement) : Retirement := { r with moves := r.moves.map fun (m : Move) => { m with done := true } }
  { s.loseMem 0 Config.hbmEnd with
    poison := [],
    pc := s.pc.map lost,
    hbm := { s.hbm with fill := .notStarted, train := Vector.replicate 2 .untrained, errs := [], ret := s.hbm.ret.map done } }

/-- What the mesh domain holds of an island, whose entries keep their values while the island's own domain is off (R295, R322):
roles, self-test results and transients. -/
def Island.voterPart (x old : Island) : Island :=
  { x with slots := Vector.ofFn fun k => { x.slots.get k with role := (old.slots.get k).role },
           good := old.good, transients := old.transients, mismatchAt := old.mismatchAt, mismatchSeq := old.mismatchSeq }

/-- An island's contents are lost; its pins keep their drive (R478), its registers are at reset, and what the mesh domain holds
stays. -/
def State.loseIsland (s : State) (i : Fin 4) : State :=
  let old := s.island.get i
  let keep : Island := { Island.init with
    pins := old.pins.map fun (p : OutPin) => { p with ctl := 0, per := 0, duty := 0, running := false } }
  let base := Config.islandBase + 0x1000000 * i.val
  { s.loseMem base (base + 0x1000000) with island := vset s.island i (keep.voterPart old) }

/-- The voting entries of the islands return to their defaults with the mesh domain (R295); a retired slot stays retired
(R311). -/
def Island.voterInit (x : Island) : Island :=
  x.voterPart { Island.init with
    slots := Vector.ofFn fun k => if (x.slots.get k).role = .retired then TCore.init .retired else Island.init.slots.get k }

/-- A port whose domain is switched off: the frames of VIs stay queued, what was being sent of them first (R353), and the rest is
lost. -/
def Port.keepVis (now : Nat) (p : Port) : Port :=
  let back := p.paused.toList ++ p.sending.toList
  let mine (q : Fin 8) : List EgFrame :=
    ((back.filter (·.q == q.val)).map (·.fr) ++ p.queues.get q).filter fun f => f.ref.isSome
  { Port.init with link := p.link, bucket := p.bucket, bucketAt := p.bucketAt, queues := Vector.ofFn mine, headAt := Vector.replicate 8 now }

/-- A VI whose host ports are switched off: what was delivered and is in no buffer yet is lost. -/
def Vi.loseRx (x : Vi) : Vi := { x with qps := x.qps.map fun (y : Qp) => { y with rx := [] } }

/-- The contents of a domain that is switched off are lost and its VOL entries return to their defaults (R432, R476);
`iso` says that the isolation tables are kept (Table 16.2). -/
def State.lose (s : State) (d : Nat) (iso : Bool) : State :=
  let s := s.entReset fun k => entDomain k == d && !(iso && decide (0x3000 ≤ k / 256 ∧ k / 256 < 0x3400))
  if d < 32 then
    let c := fin 31 d
    { s with acore := vmod s.acore c fun a => if a.run = .retired then a else { ACore.init with posted := a.posted },
             tlbPend := s.tlbPend.filter fun t => t.dst != c }
  else if d < 40 then
    { s.modPod (fin 7 (d - 32)) (fun _ => Pod.init) with
      hazel := { s.hazel with podActual := vset s.hazel.podActual (fin 7 (d - 32)) 0 } }
  else if d < 44 then s.loseIsland (fin 3 (d - 40))
  else if d < 48 then
    (allFin 4).foldl (fun s k => s.modHome (fin 15 (4 * (d - 44) + k.val)) fun _ => Home.init) s
  else if d = 48 then s.loseHbm
  else if d = 50 then
    { s with gw := { s.gw with ports := s.gw.ports.map (Port.keepVis s.time), vi := s.gw.vi.map fun e => (e.1, e.2.loseRx),
                               ucode := .none, gptp := Gateway.init.gptp } }
  else if d = 51 then { s with gw := { s.gw with can := s.gw.can.map (fun (c : Can) => { Can.init with busy := c.busy }), lin := Gateway.init.lin } }
  else if d = 52 then
    { s with gw := { s.gw with sgates := Gateway.init.sgates, cache := [], miss := [], win := Gateway.init.win } }
  else if d = 53 ∨ d = 54 then
    { s with gw := { s.gw with ports := Vector.ofFn fun n =>
        let p := s.gw.ports.get n
        if (serdesDomain n).val = d then { p with link := false, preempt := false } else p } }
  else if d = 55 then { s with hazel := { s.hazel with perst := Vector.replicate 2 false } }
  else if d = 57 then { s.loseMem 0x0E800100000 0x0E800300000 with ledger := ⟨0, 0, 0⟩ }
  else if d = 59 then
    { s with irq := Irq.init, fb := State.reset.fb, mail := State.reset.mail, dm := State.reset.dm, trans := [],
             husk := if iso then s.husk else [], island := s.island.map Island.voterInit,
             sent := [], gw := { s.gw with vi := [] }, acore := s.acore.map fun (a : ACore) => { a with posted := [] } }
  else if d = 60 then { s with gpio := Gpio.init }
  else s

/-- Change a domain. -/
def State.modDom (s : State) (d : Fin 64) (f : Domain → Domain) : State :=
  { s with hazel := { s.hazel with doms := vmod s.hazel.doms d f } }

/-- A domain. -/
def State.dom (s : State) (d : Fin 64) : Domain := s.hazel.doms.get d

/-- Domains that change state only with the device state (Table 16.1). -/
def systemDomain (d : Nat) : Bool := decide ((44 ≤ d ∧ d ≤ 49) ∨ d = 57 ∨ d = 59 ∨ 61 ≤ d)

/-- The pod that a domain belongs to (R477). -/
def domPod (d : Nat) : Option (Fin 8) :=
  if d < 32 then some (fin 7 (d / 4)) else if d < 40 then some (fin 7 (d - 32)) else none

/-- The domain of a pod's L2. -/
def l2Dom (p : Fin 8) : Fin 64 := ⟨32 + p.val, by omega⟩

/-- The core of a core's domain. -/
def domCore (d : Fin 64) : Option (Fin 32) := if h : d.val < 32 then some ⟨d.val, h⟩ else none

/-- Whether an A-core executes: it runs, and its domain is on and stays so (R476, R477). -/
def State.coreRuns (s : State) (c : Fin 32) : Bool :=
  let d := s.dom ⟨c.val, by omega⟩
  (s.acore.get c).run == .running && d.cur == .on && d.changing.isNone

/-- Whether the retirement of core c is in force (Table 17.8). -/
def State.coreRetired (s : State) (c : Nat) : Bool := s.retiredRes 0x01 c

/-- The world of a pod: that of its cores, and while every one is off, POD_WORLD's (R324). -/
def State.podWorld (s : State) (p : Fin 8) : Bool :=
  match (allFin 32).find? fun k => podOf k == p && (s.acore.get k).powered with
  | some k => (s.acore.get k).secure
  | none => bit (s.ev 0x3000 2) p.val

/-- An A-core leaves reset (R477, R490, Table 4.1): at RESUME_PC where it was on before SUSPEND, else at RESET_PC, at level
H where that exists, in the world of its pod (R324). -/
def State.coreReset (s : State) (c : Fin 32) : State :=
  let resume := s.hazel.coresOn.getLsbD c.val
  let pc := if resume then s.ev 0x2300 8 else s.ev 0x2300 5
  let secure := s.podWorld (podOf c)
  { s with
    acore := vmod s.acore c fun a =>
      if a.run = .retired then a
      else { ACore.init with run := .running, pc := word pc, stat := statReset s.hasH secure, posted := a.posted },
    hazel := { s.hazel with coresOn := s.hazel.coresOn &&& ~~~BitVec.ofNat 32 (2 ^ c.val) } }

/-- A domain that was off is on (R433, R434, R476 to R478, R486). -/
def State.powered (s : State) (d : Fin 64) : State :=
  match domCore d with
  | some c =>
    let p := podOf c
    let first := (allFin 32).all fun k => podOf k != p || k == c || (s.dom ⟨k.val, by omega⟩).cur == .off
    (if first then { s with hazel := { s.hazel with podActual := vset s.hazel.podActual p (s.ev 0x2100 (1 + p.val)) } } else s).coreReset c
  | none =>
    if 32 ≤ d.val ∧ d.val < 40 then
      let p := fin 7 (d.val - 32)
      { s with hazel := { s.hazel with podActual := vset s.hazel.podActual p (s.ev 0x2100 (1 + p.val)) } }
    else if d.val = 51 then
      let s := (allFin 24).foldl (fun s n => if s.ev (0x6400 + n.val) 1 ≠ 0 then s.canStart n else s) s
      (allFin 12).foldl (fun s m => if s.ev (0x6418 + m.val) 1 ≠ 0 then s.linStart m else s) s
    else s

/-- Whether a switch-off of a domain can end: the attempts and headers of the CAN/LIN bank have (R417). -/
def State.offReady (s : State) (d : Nat) : Bool :=
  d != 51 || (s.gw.can.toList.all (fun c => c.attempt.isNone) && s.gw.lin.toList.all (fun l => l.header.isNone))

/-- What happens as a switch-off begins: an island passes to HELD (R478), and every channel of the CAN/LIN bank stops
(R417). -/
def State.offBegin (s : State) (d : Nat) : State :=
  if 40 ≤ d ∧ d < 44 then s.toHeld (fin 3 (d - 40))
  else if d = 51 then
    (allFin 12).foldl (fun s m => s.linStop m) ((allFin 24).foldl (fun s n => s.canStop n) s)
  else s

/-- What happens as a switch-off ends: committed stores of a core are performed, an L2 is cleaned (R211), and the contents
are lost. -/
def State.offEnd (s : State) (d : Nat) : State :=
  let s :=
    if d < 32 then s.drainAll (fin 31 d)
    else if d < 40 then s.cleanPod (fin 7 (d - 32))
    else s
  (s.lose d false).relines

/-! ## Requests (R345, R346, R475 to R477) -/

/-- Code of a power state (Table 16.8). -/
def PState.code : PState → Nat
  | .off => 0 | .gated => 1 | .on => 2

/-- A power state from its code. -/
def pstate (v : Nat) : PState := if v = 0 then .off else if v = 1 then .gated else .on

/-- The world in which a requester acts (Tables 10.1 and 14.7). -/
def State.reqSecure (s : State) : Req → Bool
  | .loc _ m => s.masterSecure m
  | .dap _ k => decide (3 ≤ s.ev 0xA002 (1 + k.val))

/-- The partition for which a requester acts (Table 14.7). -/
def State.reqPart (s : State) : Req → Option Nat
  | .loc _ m => s.masterPart m
  | .dap _ k => let v := s.ev 0xA003 (1 + k.val); if v = 0xFF then none else some v

/-- Record the outcome of a request for the requester's world (REQ_OUTCOME, Table 10.6). -/
def State.powerOutcome (s : State) (q : Req) (d : Fin 64) (o : Byte) : State :=
  s.modDom d fun x => if s.reqSecure q then { x with outS := o } else { x with outN := o }

/-- Begin a transition of a domain. -/
def State.beginTo (s : State) (d : Fin 64) (t : PState) : State :=
  let s := s.modDom d fun x => { x with changing := some t }
  if t = .off then s.offBegin d.val else s

/-- Whether a pod has a core that is on or gated, or on its way there. -/
def State.podBusy (s : State) (p : Fin 8) : Bool :=
  (allFin 32).any fun c => podOf c == p &&
    ((s.dom ⟨c.val, by omega⟩).cur != .off || (s.dom ⟨c.val, by omega⟩).changing.isSome)

/-- Serve the power request at the head of the queue as far as it goes without waiting; `n` bounds the requests looked at.
A request to power off or gate a held domain is PENDING_HELD (R345); a request for a core's power first switches on its L2
(R477). -/
def State.servePower : Nat → State → State
  | 0, s => s
  | n + 1, s =>
    match s.hazel.powerQ with
    | [] => s
    | j :: r =>
      let x := s.dom j.dom
      let next (s : State) : State := { s with hazel := { s.hazel with powerQ := r } }
      let done (s : State) (st : Nat) : State := State.servePower n ((next s).complete j.by_ st)
      if x.changing.isSome then s
      else if j.target.code < x.cur.code ∧ x.hold = true then
        let sec := s.reqSecure j.by_.q
        let s := s.modDom j.dom fun y => { y with req := j.target, pending := some j.target, pendBy := sec }
        done (s.powerOutcome j.by_.q j.dom 1) 0
      else if x.cur = j.target then
        done ((s.modDom j.dom fun y => { y with req := j.target, pending := none }).powerOutcome j.by_.q j.dom 0) 0
      else
        let l2 := (domPod j.dom.val).map l2Dom
        match domCore j.dom, l2 with
        | some _, some l =>
          if j.target = .off ∨ (s.dom l).cur = .on then s.beginTo j.dom j.target
          else if (s.dom l).changing.isSome then s
          else s.beginTo l .on
        | none, some _ =>
          if j.target = .off ∧ (domPod j.dom.val).any (fun p => s.podBusy p) then done s 6 else s.beginTo j.dom j.target
        | _, none => s.beginTo j.dom j.target

/-- Serve waiting requests. -/
def State.powerGo (s : State) : State := s.servePower (2 * s.hazel.powerQ.length + 2)

/-- The checks of a write to POWER_REQ beyond rights by world: 0 where it goes to the controller, else the status
(R345, R474, R476, R477, Table 17.8). -/
def State.powerCheck (s : State) (q : Req) (d : Fin 64) (v : Nat) : Nat :=
  let normal := !s.reqSecure q
  let island := decide (40 ≤ d.val ∧ d.val < 44)
  let secPod := (domPod d.val).any fun p => s.podWorld p
  let noPods := (domPod d.val).any fun p => !((s.reqPart q).any fun r => bit (s.ev (0x3100 + r) 3) p.val)
  if normal && (island || secPod || noPods) then 2
  else if systemDomain d.val || (domCore d).any (fun c => s.coreRetired c.val) then 6
  else if 32 ≤ d.val ∧ d.val < 40 ∧ v = 0 ∧ (domPod d.val).any (fun p => s.podBusy p) ∧ s.hazel.powerQ.isEmpty then 6
  else if 2 < v ∨ (island ∧ v = 1) then 9
  else 0

/-- Whether a refused request has the outcome REFUSED (Table 10.6). -/
def State.powerRefused (s : State) (q : Req) (d : Fin 64) : Bool :=
  !s.reqSecure q && (decide (40 ≤ d.val ∧ d.val < 44) || (domPod d.val).any fun p => s.podWorld p)

/-- A write to POWER_REQ (R475). -/
def State.powerWrite (s : State) (a : Asker) (d : Fin 64) (v : Nat) : State :=
  match s.powerCheck a.q d v with
  | 0 =>
    let job : PowerJob := ⟨a, d, pstate v⟩
    { s with hazel := { s.hazel with powerQ := s.hazel.powerQ ++ [job] } }.powerGo
  | st => (if s.powerRefused a.q d then s.powerOutcome a.q d 2 else s).complete a st

/-- A write to POWER_HOLD (R345, R346): a hold that meets a switch-off in progress completes once the domain is on again;
with the last hold a pending request takes effect, and source 35 is raised where it is of the requesting world. -/
def State.holdWrite (s : State) (a : Asker) (d : Fin 64) (v : Nat) : State :=
  let x := s.dom d
  if v ≠ 0 then
    let down := match x.changing with
      | some t => decide (t.code < x.cur.code)
      | none => false
    let s := s.modDom d fun y => { y with hold := true, holdBy := if down then some a else y.holdBy }
    if down then s else s.complete a 0
  else
    let s := s.modDom d fun y => { y with hold := false }
    let s := match x.pending with
      | some t =>
        let s := s.modDom d fun y => { y with pending := none }
        let s := if x.cur = t ∨ x.changing.isSome then s else s.beginTo d t
        if (s.src 35).secure = x.pendBy then s.pulse 35 else s
      | none => s
    s.complete a 0

/-- The request whose transition has ended completes with DONE, before the domain changes again. -/
def State.reached (s : State) (d : Fin 64) (t : PState) : State :=
  match s.hazel.powerQ with
  | j :: r =>
    if j.dom = d ∧ j.target = t then
      let s := (s.modDom d fun y => { y with req := t, pending := none }).powerOutcome j.by_.q d 0
      ({ s with hazel := { s.hazel with powerQ := r } }).complete j.by_ 0
    else s
  | [] => s

/-- A domain reaches the state of its transition (R475); after a switch-off that a hold met, it is powered up again (R346). -/
def State.reach (s : State) (d : Fin 64) (t : PState) : State :=
  let old := (s.dom d).cur
  let s := if t = .off then s.offEnd d.val else s
  let s := s.modDom d fun y => { y with cur := t, changing := none }
  let s := if old = .off ∧ t ≠ .off then s.powered d else s
  let x := s.dom d
  let s := if x.hold = true ∧ x.holdBy.isSome ∧ t ≠ .on then (s.reached d t).beginTo d .on
    else if t = .on then (s.modDom d fun y => { y with holdBy := none }).completeIf x.holdBy 0
    else s
  s.powerGo

/-- DOMAIN_TRANSITION_DONE: a domain reaches its state. A switch-off of the CAN/LIN bank waits for its attempts (R417), a
switch-on of a core for its L2 (R477). -/
def execDomainTransitionDone (d : Fin 64) (s : State) : Host.Outcome State Fault Refusal :=
  .next <| s.served fun s =>
    match (s.dom d).changing with
    | none => s
    | some t =>
      let l2Waits := t ≠ .off ∧ d.val < 32 ∧ (domPod d.val).any (fun p => (s.dom (l2Dom p)).cur ≠ .on)
      if (t = .off ∧ s.offReady d.val = false) ∨ l2Waits then s else s.reach d t

/-! ## Frequencies (R486, R487, R523) -/

/-- Largest POD_MHZ of the grade (Table 16.4). -/
def State.mhzMax (s : State) : Nat := if s.isG2 then 3200 else 3000

/-- VDD_POD for a frequency, in mV (R523). -/
def podMv (f : Nat) : Nat := (5600 + (f - 400) + 49) / 50 * 5

/-- Send bytes to the power management IC (Table 18.4). -/
def State.pmicSend (s : State) (b : List Byte) : State := { s with hazel := { s.hazel with pmicOut := s.hazel.pmicOut ++ [b] } }

/-- SET of a pod's rail (Table 18.4, R523). -/
def State.pmicSet (s : State) (p : Fin 8) (f : Nat) : State := s.pmicSend (toBytes 1 p.val ++ toBytes 2 (podMv f))

/-- Whether every core of a pod is off. -/
def State.podIdle (s : State) (p : Fin 8) : Bool := !s.podBusy p

/-- Begin the change that a stored POD_MHZ asks for (R486): a pod whose cores are all off takes it at its next power-up; a
higher frequency first raises the supply; a lower one relocks the PLL first. -/
def State.podApply (s : State) (a : Asker) (p : Fin 8) (old f : Nat) : State :=
  let now := s.hazel.podActual.get p
  if s.podIdle p ∨ now = f then s.complete a 0
  else
    let s := if now < f then s.pmicSet p f else s
    { s with hazel := { s.hazel with podJob := vset s.hazel.podJob p (some ⟨a, f, old, decide (now < f)⟩) } }

/-- POD_PLL_RELOCK_DONE: the new frequency is in force; a supply that may fall is lowered afterwards (R486). -/
def execPodPllRelockDone (p : Fin 8) (s : State) : Host.Outcome State Fault Refusal :=
  .next <| s.served fun s =>
    match s.hazel.podJob.get p with
    | some j =>
      if j.supply then s
      else
        let now := s.hazel.podActual.get p
        let s := if j.target < now then s.pmicSet p j.target else s
        { s with hazel := { s.hazel with podActual := vset s.hazel.podActual p j.target,
                                         podJob := vset s.hazel.podJob p none } }.complete j.by_ 0
    | none => s

/-- POD_MHZ_ACTUAL (R487, Table 16.9). -/
def State.podMhzActual (s : State) (p : Fin 8) : Nat :=
  if (s.dom (l2Dom p)).cur = .off then 0
  else if s.hazel.throttled then min 1600 (s.hazel.podActual.get p) else s.hazel.podActual.get p

/-- TEMP of a sensor: its raw reading plus TEMP_OFFSET, in 1/64 °C (R487). -/
def State.temp (s : State) (k : Fin 16) : Int := s.hazel.temps.get k + (BitVec.ofNat 16 (s.ev 0x8001 (1 + k.val))).toInt

/-- THERMAL_LIMIT in °C. -/
def State.thermalLimit (s : State) : Int := (BitVec.ofNat 16 (s.ev 0x2102 1)).toInt

/-- The cap is applied while a sensor reads at or above the limit, and lifted once all read 5 °C below it (R487). -/
def State.thermal (s : State) : State :=
  let lim := s.thermalLimit
  let hot := (allFin 16).any fun k => decide (lim * 64 ≤ s.temp k)
  let cool := (allFin 16).all fun k => decide (s.temp k ≤ (lim - 5) * 64)
  if hot && !s.hazel.throttled then
    ({ s with hazel := { s.hazel with throttled := true } }.addE 0x2102 2 32 1).pulse 35
  else if cool then { s with hazel := { s.hazel with throttled := false } }
  else s

/-- A sensor has a new raw reading. -/
def State.sensor (s : State) (k : Fin 16) (raw : Int) : State :=
  { s with hazel := { s.hazel with temps := vset s.hazel.temps k raw } }.thermal

/-- THERMAL_THROTTLE: a sensor's raw reading reaches the limit. -/
def execThermalThrottle (k : Fin 16) (raw : Int) (s : State) : Host.Outcome State Fault Refusal := .next (s.sensor k raw)

/-- THERMAL_UNTHROTTLE: a sensor's raw reading falls. -/
def execThermalUnthrottle (k : Fin 16) (raw : Int) (s : State) : Host.Outcome State Fault Refusal := .next (s.sensor k raw)

/-- PCIE_PERST_N_RISE: 100 ms after the PCIe domain is on; PCIE_PERST_N_1 stays low without bifurcation (R533). -/
def execPciePerstNRise (k : Fin 2) (s : State) : Host.Outcome State Fault Refusal :=
  .next <|
    if s.domOn 55 ∧ (k = 0 ∨ s.hazel.bifur = true) then
      { s with hazel := { s.hazel with perst := vset s.hazel.perst k true } }
    else s

/-- PMIC_INT: source 35 becomes pending (R522). -/
def execPmicInt (s : State) : Host.Outcome State Fault Refusal := .next (s.pulse 35)

end Sys2Proof.Machine
end

