-- ==== Sys2Proof/Machine/Device.lean ====
section
/-! DEFINITION. Device states and waking (R479 to R484, R488 to R491), resets (R492), the power-on sequence apart from image
verification (R493 to R496) and the power management IC (R522, R524, R526). -/
namespace Sys2Proof.Machine

/-! ## Changes of the ensign that the device makes (R456, R458) -/

/-- EPOCH increases by 1, never past 0xFFFF_FFFE, and is stored before the change (R458). -/
def State.bumpEpoch (s : State) : State := (s.setE 0xA010 3 (max s.epoch (min (s.epoch + 1) 0xFFFFFFFE))).seedWrite

/-- A change of holder that no claim makes; source 53 becomes pending (R458). -/
def State.passEnsign (s : State) (h : Holder) (node : Nat) : State :=
  (s.bumpEpoch.modDap fun d => { d with prev := d.holder, holder := h, node := node, leaseAt := s.time }).pulse 53

/-- On entry to SUSPEND or SLEEP the ensign passes to HAZEL and subscriptions are cleared (R451, R456). -/
def State.ensignAway (s : State) : State :=
  let s := if s.dap.holder = .hazel then s
    else s.passEnsign .hazel (if s.dap.holder = .remote then s.dap.node else 0)
  s.modDap fun d => { d with subs := [], txns := [], ready := [], pings := [] }

/-- On return to ACTIVE the ensign passes back, and SESSION increases (R451, R456). -/
def State.ensignBack (s : State) : State :=
  let s := if s.dap.holder = .hazel then s.passEnsign (if s.dap.node = 0 then .local_ else .remote) s.dap.node else s
  s.addE 0xA000 0xD 32 1

/-! ## Device states -/

/-- Code of a device state (Table 16.8). -/
def DevSt.code : DevSt → Nat
  | .active => 1 | .suspend => 2 | .sleep => 3 | .toSuspend => 4 | .toSleep => 5 | .waking => 6 | .unpowered => 0

/-- Whether DEVICE_STATE reads a transition. -/
def DevSt.moving : DevSt → Bool
  | .toSuspend | .toSleep | .waking => true
  | _ => false

/-- Record the end of a transition (LAST_TRANSITION); the code of OFF is not stated, a free value (log entry 2). -/
def State.transitionEnd (s : State) (from_ to_ : DevSt) (res : Nat) : State :=
  let (s, f) := if from_ = .unpowered then ({ s with fresh := s.fresh + 1 }, Config.freeNat s.fresh % 256) else (s, from_.code)
  (s.setE 0x2004 5 (f + to_.code * 256 + res * 65536)).setE 0x2004 6 (s.time % 2 ^ 64)

/-- Hazel's registers changed. -/
def State.modHz (s : State) (f : Hazel → Hazel) : State := { s with hazel := f s.hazel }

/-- Cores whose domain is on. -/
def State.coresOnMask (s : State) : BitVec 32 :=
  BitVec.ofNat 32 ((allFin 32).map fun c => b2n (s.domOn ⟨c.val, by omega⟩) * 2 ^ c.val).sum

/-- Islands that are on and not HELD. -/
def State.islandsOnMask (s : State) : BitVec 4 :=
  BitVec.ofNat 4 ((allFin 4).map fun i =>
    b2n (s.domOn ⟨40 + i.val, by omega⟩ && (s.island.get i).st != .held) * 2 ^ i.val).sum

/-- Step 1 of an entry to SUSPEND or SLEEP (R481, R482). -/
def State.enterBegin (s : State) (t : DevSt) : State :=
  (s.modHz fun h => { h with dev := t, from_ := .active, coresOn := s.coresOnMask, islandsOn := s.islandsOnMask,
                             wakeHeld := none }).pulse 35

/-- Step 2: queue pairs, bus channels and Data Mover channels (R481). -/
def State.quiesce (s : State) : State :=
  let s := s.gatewayStop
  (allFin 32).foldl (fun s n => (s.dmAbortEvery n).modDm n fun d => { d with running := false }) s

/-- Whether step 2 can end: no attempt and no header is in progress (R417). -/
def State.busIdle (s : State) : Bool := s.offReady 51

/-- The requests that still wait at the power controller are recorded as requested states, and nobody waits for seed-store
writes or frequency changes any more. -/
def State.dropAskers (s : State) : State :=
  let s := s.hazel.powerQ.foldl (fun s j => s.modDom j.dom fun d => { d with req := j.target }) s
  { s with
    hazel := { s.hazel with powerQ := [], podJob := Hazel.init.podJob },
    seed := { s.seed with waits := [], journal := s.seed.journal.map fun (j : Journal) => { j with by_ := ⟨.loc .window .smc, none⟩ } } }

/-- The contents of a list of domains are lost. -/
def State.loseAll (s : State) (ds : List Nat) (iso : Bool) : State := ds.foldl (fun s d => s.lose d iso) s

/-- Every accepted command of the controllers is carried out (R262). -/
def State.flushHbm (s : State) : State :=
  let s := (allFin 16).foldl (fun s h => ((s.home.get h).txns.map (·.line)).foldl (fun s l => s.settle l) s) s
  let s := (allFin 64).foldl (fun s p => ((s.pc.get p).q.filter (·.write)).foldl (fun s c => s.storeLine c.line c.data c.poison) s) s
  { s with pc := s.pc.map fun (x : PseudoChannel) => { x with q := [] } }

/-- Every dirty line of the SLC is written into HBM (R481 step 4). -/
def State.flushSlc (s : State) : State :=
  (allFin 16).foldl (fun s h => ((s.home.get h).slc.map (·.1)).foldl (fun s l => s.slcEvict h l) s) s

/-- The state of every domain becomes one of a device state, its transition ended. -/
def State.setDoms (s : State) (f : Nat → Domain → Domain) : State :=
  let g (x : Domain) : Domain := { x with changing := none, holdBy := none }
  s.modHz fun h => { h with doms := Vector.ofFn fun d => g (f d.val (h.doms.get d)) }

/-- Domains that are off in SUSPEND (Table 16.2). -/
def suspendOff (d : Nat) : Bool := decide (d < 48 ∨ (50 ≤ d ∧ d ≤ 56) ∨ (58 ≤ d ∧ d ≤ 61))
/-- Domains that are gated in SUSPEND (Table 16.2). -/
def suspendGated (d : Nat) : Bool := decide (d = 48 ∨ d = 49 ∨ d = 57)

/-- Steps 2 to 6 of the entry to SUSPEND (R481). -/
def State.suspendEntry (s : State) : State :=
  let s := (allFin 4).foldl (fun s i => s.toHeld i) s.quiesce
  let s := (allFin 32).foldl (fun s c => s.drainAll c) s
  let s := (allFin 8).foldl (fun s p => s.cleanPod p) s
  let s := s.flushSlc.flushHbm.dropAskers.ensignAway
  let s := s.loseAll ((List.range 64).filter fun d => suspendOff d && d != 61) true
  let s := s.setDoms fun d x => { x with cur := if suspendOff d then .off else if suspendGated d then .gated else x.cur }
  let s := { s with hbm := { s.hbm with keptTrain := s.hbm.train, train := Vector.replicate 2 .selfRefresh } }
  let s := (s.modHz fun h => { h with dev := .suspend, pllOk := false, throttled := false }).relines
  (s.pmicSend [0x41]).transitionEnd .active .suspend 0

/-- A domain in SLEEP: its request at the boot value, its hold cleared (R482). -/
def sleepDom (d : Nat) (x : Domain) : Domain :=
  { Domain.boot d with cur := if d < 62 then .off else .on, outS := x.outS, outN := x.outN }

/-- The final switching of an entry to SLEEP (R482). -/
def State.sleepEntry (s : State) : State :=
  let from_ := if s.hazel.dev = .toSleep then s.hazel.from_ else s.hazel.dev
  let s := (allFin 4).foldl (fun s i => s.toHeld i) s
  let s := (s.dropAskers.ensignAway).loseAll ((List.range 62).filter (· ≠ 61)) false
  let s := s.modHz fun h => { h with
    doms := Vector.ofFn fun d => (sleepDom d.val (h.doms.get d)),
    dev := .sleep, pllOk := false, throttled := false, images := [], graceAt := none, booting := false, pmicWait := false,
    coresOn := 0, islandsOn := 0 }
  ((s.relines).pmicSend [0x42]).transitionEnd from_ .sleep 0

/-- The power-on sequence from stage 0x02 on: the supplies come up (R494, R524). -/
def State.bootBegin (s : State) : State :=
  ((s.setE 0x2300 3 2).modHz fun h => { h with dev := .waking, booting := true, bootAt := s.time, pllOk := false,
                                               pmicWait := true }).pmicSend [0x40]

/-- A wake from SUSPEND or SLEEP (R490, R491). -/
def State.wakeUp (s : State) : State :=
  let old := s.hazel.dev
  let s := s.modHz fun h => { h with from_ := old, wakeHeld := none }
  if old = .suspend then
    (s.modHz fun h => { h with dev := .waking, pmicWait := true, pllOk := false }).pmicSend [0x40]
  else (s.setE 0x2300 1 6).bootBegin

/-- A recognised wake event: the device wakes, or holds the event until the entry has ended (R484, R488). -/
def State.wakeEvent (s : State) (cause : Nat) : State :=
  let note (s : State) : State := (s.setE 0x2200 5 cause).addE 0x2200 6 32 1
  if s.hazel.stopped then s
  else match s.hazel.dev with
  | .suspend | .sleep => (note s).wakeUp
  | .toSuspend | .toSleep =>
    if s.hazel.wakeHeld.isSome then s else s.modHz fun h => { h with wakeHeld := some cause }
  | _ => s

/-- A held wake event takes effect at the end of an entry (R484). -/
def State.heldWake (s : State) : State :=
  match s.hazel.wakeHeld with
  | some c => s.wakeEvent c
  | none => s

/-- WAKE_EN bit (R488). -/
def State.wakeEn (s : State) (k : Nat) : Bool := bit (s.ev 0x2200 1) k

/-- A write to DEVICE_REQ (R480, R496, Table 16.3): 0 where it was accepted, else the status. A DAP request for ACTIVE
wakes only where WAKE_EN has bit 25 set (R488). -/
def State.deviceReq (s : State) (v : Nat) : State × Nat :=
  let d := s.hazel.dev
  if s.hazel.stopped ∧ (d = .suspend ∨ d = .sleep) then (s, 6)
  else if d.moving then (s, 0xA)
  else if d = .active ∧ v = 2 then (s.enterBegin .toSuspend, 0)
  else if d = .active ∧ v = 3 then (s.enterBegin .toSleep, 0)
  else if d = .suspend ∧ v = 3 then (s.sleepEntry, 0)
  else if (d = .suspend ∨ d = .sleep) ∧ v = 1 then (if s.wakeEn 25 then s.wakeEvent 0x40 else s, 0)
  else (s, 6)

/-- Whether every A-core that is on waits in WFI or is halted (R481). -/
def State.coresIdle (s : State) : Bool :=
  (allFin 32).all fun c => !s.domOn ⟨c.val, by omega⟩ || (s.acore.get c).run == .wfi || (s.acore.get c).run == .halted

/-- SUSPEND_WAIT_EXPIRY: the entry is abandoned (R481 step 1). -/
def execSuspendWaitExpiry (s : State) : Host.Outcome State Fault Refusal :=
  .next <|
    let t := s.hazel.dev
    if (t = .toSuspend ∨ t = .toSleep) ∧ s.coresIdle = false then
      ((s.modHz fun h => { h with dev := .active, wakeHeld := none, coresOn := 0, islandsOn := 0 }).transitionEnd .active
        (if t = .toSuspend then .suspend else .sleep) 1).pulse 35
    else s

/-- SUSPEND_TO_SLEEP_EXPIRY (Table 16.3). -/
def execSuspendToSleepExpiry (s : State) : Host.Outcome State Fault Refusal :=
  .next <| if s.hazel.dev = .suspend ∧ s.ev 0x2004 4 ≠ 0 then s.sleepEntry else s

/-! ## Wake sources (R488, R489) -/

/-- Whether a frame matches a pattern (R489). -/
def State.patternMatch (s : State) (k : Nat) (ch : Fin 8) (f : BusFrame) : Bool :=
  let i := 0x2210 + k
  let id := f.id.toNat + (if f.ext then 2 ^ 29 else 0)
  let data := ofBytes (slice (if f.rtr then [] else f.data) 0 8)
  bit (s.ev i 1) ch.val && (id ^^^ s.ev i 2) &&& s.ev i 3 == 0 && (data ^^^ s.ev i 4) &&& s.ev i 5 == 0

/-- WAKE_PATTERN_MATCH: a wake receiver receives a frame, which may match patterns (R484, R489). -/
def execWakePatternMatch (ch : Fin 8) (f : BusFrame) (s : State) : Host.Outcome State Fault Refusal :=
  .next <|
    let d := s.hazel.dev
    let hears := d == .suspend || d == .sleep || d == .toSuspend || d == .toSleep
    if !hears || !(f.fmt == .cc || f.fmt == .fd) then s
    else
      let hits := (List.range 16).filter fun k => s.patternMatch k ch f
      let s := hits.foldl (fun s k => s.addE (0x2210 + k) 6 32 1) s
      match hits.filter fun k => s.wakeEn k with
      | k :: _ => s.wakeEvent (0x10 + k)
      | [] => s

/-- WAKE_IN_DEBOUNCE_EXPIRY: WAKE_IN_n has held its level (R488). -/
def execWakeInDebounceExpiry (n : Fin 8) (s : State) : Host.Outcome State Fault Refusal :=
  .next <| if s.wakeEn (16 + n.val) then s.wakeEvent (0x20 + n.val) else s

/-- WAKE_TIMER: device time reaches WAKE_AT (R488). -/
def execWakeTimer (s : State) : Host.Outcome State Fault Refusal :=
  .next <| if s.wakeEn 24 ∧ s.ev 0x2200 2 ≠ 0 then s.wakeEvent 0x30 else s

/-! ## The way back to ACTIVE -/

/-- ACTIVE is entered (R451, R456, R479). -/
def State.activate (s : State) : State :=
  let from_ := s.hazel.from_
  ((s.modHz fun h => { h with dev := .active, booting := false }).ensignBack).transitionEnd from_ .active 0

/-- Every domain that is not a system domain takes its requested state (R483); an A-core takes its pod's L2 along (R477). -/
def State.restoreDoms (s : State) : State :=
  let want (d : Fin 64) : PState :=
    let r := (s.dom d).req
    if 32 ≤ d.val ∧ d.val < 40 ∧ (allFin 32).any (fun c =>
      podOf c == fin 7 (d.val - 32) && (s.dom ⟨c.val, by omega⟩).req != .off) then .on else r
  (allFin 64).foldl (fun s d =>
    if systemDomain d.val ∨ (s.dom d).cur = want d ∨ (domCore d).any (fun c => s.coreRetired c.val) then s
    else if 40 ≤ d.val ∧ d.val < 44 then s.modDom d fun x => { x with cur := .on }
    else s.beginTo d (want d)) s

/-- The on-die SRAMs are filled on the way out of SUSPEND: islands that were not HELD are released, the stacks leave
self-refresh, the SMC resumes, and the other domains are switched on (R262, R490). -/
def State.resume (s : State) : State :=
  let was := s.hazel.islandsOn
  let s := { s with hbm := { s.hbm with train := s.hbm.keptTrain } }
  let s := s.setDoms fun d x => { x with cur := if suspendGated d then .on else x.cur }
  let s := s.restoreDoms
  let s := (allFin 4).foldl (fun s i =>
    if was.getLsbD i.val && s.domOn ⟨40 + i.val, by omega⟩ then s.releaseIsland i else s) s
  (s.modHz fun h => { h with islandsOn := 0 }).activate.relines

/-- PLL_LOCK: the PLLs lock; the system domains come on, and in a boot every domain takes its boot value (R490, R494). -/
def execPllLock (s : State) : Host.Outcome State Fault Refusal :=
  .next <|
    if s.hazel.dev ≠ .waking ∨ s.hazel.pmicWait = true ∨ s.hazel.pllOk = true then s
    else
      let s := s.modHz fun h => { h with pllOk := true }
      if s.hazel.booting then
        (s.setDoms fun d x => { x with cur := bootValue d }).setE 0x2300 3 3
      else s.setDoms fun d x => { x with cur := if (44 ≤ d ∧ d < 48) ∨ (59 ≤ d ∧ d ≤ 61) then .on else x.cur }

/-- SRAM_FILL_DONE: training begins and the boot ROM verifies images, or the device resumes (R490, R494). -/
def execSramFillDone (s : State) : Host.Outcome State Fault Refusal :=
  .next <| s.served fun s =>
    if s.hazel.dev ≠ .waking ∨ s.hazel.pllOk = false then s
    else if s.hazel.booting then (if s.ev 0x2300 3 = 3 then s.setE 0x2300 3 4 else s)
    else s.resume

/-! ## Resets (R492) -/

/-- A system reset: SLEEP without its first steps, and a wake at once, after a stopped boot too (R491, R492). -/
def State.systemReset (s : State) (code : Nat) : State :=
  let s := s.sleepEntry
  ((s.modHz fun h => { h with from_ := .sleep, wakeHeld := none }).setE 0x2300 1 code).bootBegin

/-- SYSRST_N low; PORST_N low takes precedence (R538). -/
def execSysrstN (s : State) : Host.Outcome State Fault Refusal :=
  .next <| if s.hazel.porst then s.systemReset 2 else s

/-- FATAL_GRACE_EXPIRY: Hazel performs the reset (R509). -/
def execFatalGraceExpiry (s : State) : Host.Outcome State Fault Refusal :=
  .next <| if s.hazel.graceAt.isSome then s.systemReset s.hazel.resetCode else s

/-- SMC_WATCHDOG_EXPIRY: the ledger makes its event, and the grace time begins (R509, Table 17.9). -/
def execSmcWatchdogExpiry (s : State) : Host.Outcome State Fault Refusal :=
  .next <| if s.domOn 57 then (s.ledgerEvent 0xFF 0 0 s.allOps).startGrace 4 else s

/-- Receive freshness after a power-on reset: the stored copy plus 4,096 (R445). -/
def rxAfterReset (l : KV Nat) : KV Nat := l.map fun e => (e.1, e.2 + 4096)

/-- A power-on reset: every domain and every VOL entry; the seed store, the fuses and the board stay, and the holder is LOCAL
(R432, R445, R458, R464, R468, R492). -/
def State.powerOnReset (s : State) : State :=
  let armed := s.ev 0x8006 2 == 4
  let r : State := { State.reset with
    pending := s.pending, time := s.time, fresh := s.fresh,
    ent := s.ent.filter (fun e => survives e.1), entB := s.entB.filter (fun e => survives e.1),
    retired := s.seed.retire,
    seed := { Seed.init with retire := s.seed.retire, selfcal := if armed then s.seed.selfcal else none },
    dap := { Dap.init with txFresh := s.dap.txEnd, txEnd := s.dap.txEnd, rx := rxAfterReset s.dap.rxStored,
                           rxStored := s.dap.rxStored },
    hazel := { Hazel.init with board := s.hazel.board, bifur := s.hazel.bifur, porst := s.hazel.porst } }
  let r := if s.ev 0x8006 2 = 1 then r.setE 0x8006 2 3 else r
  { r with hazel := { r.hazel with mode := r.ev 0x3000 1 } }

/-- One entry of the retirement list is applied (R254, R256, R511, Table 17.8). A row's hard PPR succeeds. -/
def State.applyRetired (s : State) (w : Word) : State :=
  let kind := bits w.toNat 7 0
  let id := bits w.toNat 47 16
  let p := fin 63 (id % 64)
  if kind = 1 then s.coreFail (fin 31 id)
  else if kind = 3 then
    if s.hbm.spare then
      let moves := (retireMoves p.val s.hbm.ret.head?).map fun (m : Move) => { m with done := true }
      let s := { s with hbm := { s.hbm with ret := s.hbm.ret ++ [(⟨p.val, moves⟩ : Retirement)] } }
      let s := moves.foldl (fun s m => s.modPc (fin 63 m.host) fun x => if x.st = .normal then { x with st := .hosting } else x) s
      s.modPc p fun x => { x with st := .retired }
    else s.modPc p fun x => { x with st := .failed }
  else if kind = 4 then s.modPc p fun x => { x with st := .failed }
  else if kind = 5 then
    { s with retired := s.retired.filter (· ≠ w), seed := { s.seed with retire := s.seed.retire.filter (· ≠ w) } }
  else if kind = 6 then s.modPc p fun x => { x with unrepairable := x.unrepairable + 1 }
  else if kind = 0xA then s.modDm (fin 31 id) fun d => { d with retired := true }
  else s

/-- An item of the seed store that is found uncorrectable at power-on (R465, code 0x2E). -/
def State.seedLost (s : State) (key : Nat) : State :=
  match (catRow key).map (·.pers) with
  | some Pers.stored =>
    ({ s with ent := kvDel key s.ent, entB := kvDel key s.entB }.addE 0x1002 3 32 1).record bankSmc 0x2E 0 0 0 key
  | some Pers.cal => { s with ent := kvDel key s.ent, entB := kvDel key s.entB }.setE 0x8000 1 3
  | _ => s

/-- The fuses are read: a revoked slot stays revoked and a minimum never falls (Table 10.8). -/
def State.readFuses (s : State) (b : Board) : State :=
  let s := (allFin 4).foldl (fun s k =>
    if s.ev 0x3000 (0x20 + k.val) = 2 then s else s.setE 0x3000 (0x20 + k.val) (b.keyState.get k).val) s
  (allFin 7).foldl (fun s k => s.setE 0x3000 (0x31 + k.val) (max (s.ev 0x3000 (0x31 + k.val)) (b.secMin.get k))) s

/-- Stage 0x01 of the power-on sequence, and the beginning of stage 0x02 (R256, R465, R494, R511); the power-on reset that it
ends increments EPOCH once (R458). -/
def State.coldBoot (s : State) (b : Board) : State :=
  let s := s.modHz fun h => { h with board := some b, bifur := b.bifur, from_ := .unpowered }
  let s := (b.seedBad.foldl (fun s k => s.seedLost k) (s.readFuses b)).bumpEpoch
  let s := { s with hbm := { s.hbm with spare := s.ev 0x4000 2 != 0 } }
  let s := s.modHz fun h => { h with mode := s.ev 0x3000 1 }
  let s := s.retired.foldl (fun s w => s.applyRetired w) s
  (s.setE 0x2300 1 1).bootBegin

/-- PORST_N rises with supplies valid (R494); with TEST_EN high the device stays in the power-on reset that it is in
(R539). -/
def execPorstN (b : Board) (s : State) : Host.Outcome State Fault Refusal :=
  .next <|
    if s.hazel.porst ∨ b.testEn then s
    else (s.powerOnReset.modHz fun h => { h with porst := true }).coldBoot b

/-- PORST_N goes low: the device is held in power-on reset (R492). -/
def execPorstNLow (s : State) : Host.Outcome State Fault Refusal :=
  .next (s.powerOnReset.modHz fun h => { h with porst := false })

/-- Whether a monitored rail is required to be on (R526, Table 18.2). -/
def State.railOn (s : State) (m : Fin 8) : Bool :=
  let h := s.hazel
  let suspended := h.dev == .suspend || (h.dev == .waking && h.pmicWait && h.from_ == .suspend)
  let full := h.dev == .active || h.dev == .toSuspend || h.dev == .toSleep || (h.dev == .waking && !h.pmicWait)
  m.val < 2 || full || (suspended && (m == 2 || m == 4 || m == 5))

/-- VOLTAGE_MONITOR_TRIP: a rail that is required to be on fails, which causes a power-on reset (R526); with PORST_N high
the power-on sequence follows. -/
def execVoltageMonitorTrip (m : Fin 8) (s : State) : Host.Outcome State Fault Refusal :=
  .next <|
    if !s.railOn m then s
    else match s.hazel.porst, s.hazel.board with
    | true, some b => s.powerOnReset.coldBoot b
    | _, _ => s.powerOnReset

/-! ## The power management IC (R522) -/

/-- The first pod whose change of frequency waits for its supply. -/
def State.supplyWait (s : State) : Option (Fin 8 × PodJob) :=
  ((allFin 8).filterMap fun p => match s.hazel.podJob.get p with
    | some j => if j.supply then some (p, j) else none
    | none => none).head?

/-- PMIC_STATUS_POLL: a read of STATUS; `late` says that the limit of the transaction has passed (R486, R522). -/
def execPmicStatusPoll (st : Byte) (late : Bool) (s : State) : Host.Outcome State Fault Refusal :=
  .next <| s.served fun s =>
    let ok := st.getLsbD 0
    if s.hazel.pmicWait then (if ok then s.modHz fun h => { h with pmicWait := false } else s)
    else match s.supplyWait with
    | none => s
    | some (p, j) =>
      if ok then s.modHz fun h => { h with podJob := vset h.podJob p (some { j with supply := false }) }
      else if late then
        ((s.setE 0x2100 (1 + p.val) j.old).modHz fun h => { h with podJob := vset h.podJob p none }).complete j.by_ 0xB
      else s

/-- PMIC_POWER_UP_RETRY: POWER_UP is issued again (R522). -/
def execPmicPowerUpRetry (s : State) : Host.Outcome State Fault Refusal :=
  .next <| if s.hazel.pmicWait ∧ s.hazel.booting then s.pmicSend [0x40] else s

/-! ## HBM training and fill in a boot (R259, R260, R468, R496) -/

/-- The boot stops (R496, Table 16.7). -/
def State.bootStop (s : State) (type reason : Nat) : State :=
  let stage := s.ev 0x2300 3
  (((s.sleepEntry.setE 0x2300 3 0xFF).setE 0x2300 4 (stage + type * 256 + reason * 65536)).modHz
    fun h => { h with stopped := true, wakeHeld := none }).safeNUpdate

/-- Full training that a self-calibration was armed for has given a seed, or failed (R468); the seed is free. -/
def State.seedDerived (s : State) (stack : Fin 2) (ok : Bool) : State :=
  if s.ev 0x8006 2 = 4 ∧ s.seed.selfcal = some (5, stack.val) ∧ s.ev 0x2300 1 = 1 then
    let s := { s with seed := { s.seed with selfcal := none } }
    if ok then ({ s with fresh := s.fresh + 1 }.setB 0x8006 3 ((Config.freeBytes s.fresh).take 4096)).setE 0x8006 2 2
    else s.setE 0x8006 2 3
  else s

/-- HBM_TRAINING_DONE: a stack is trained, or its pseudo-channels fail and the boot stops (R255, R260, R496). -/
def execHbmTrainingDone (k : Fin 2) (r : TrainResult) (s : State) : Host.Outcome State Fault Refusal :=
  .next <|
    if s.hbm.train.get k ≠ .untrained ∨ s.hazel.pllOk = false then s
    else
      let t : Train := match r with
        | .seeded => .seeded
        | .full => .full
        | .failed => .failed
      let s := { s with hbm := { s.hbm with train := vset s.hbm.train k t } }
      let s := s.seedDerived k (r == .full)
      if r = .failed then
        let s := ((allFin 64).filter fun p => p.val / 32 == k.val).foldl (fun s p => s.pcFail p 0x24 []) s
        if s.hazel.booting then s.bootStop 0 6 else s
      else if s.hbm.train.toList.all (fun t => t != .untrained) && s.hbm.fill == .notStarted then
        { s with hbm := { s.hbm with fill := .running, fillStart := s.time } }
      else s

/-! ## Stages 0x08 to 0x0A -/

/-- One record of the boot directory (Table 16.6). -/
structure DirRec where
  type : Nat
  unit : Nat
  zero : Nat
  length : Nat
  offset : Nat
  deriving DecidableEq, Repr

/-- The number in n bytes of the directory or of a header. -/
def fieldAt (b : List Byte) (off n : Nat) : Nat := ofBytes (slice b off n)

/-- Record k of a boot directory (Table 16.6). -/
def dirRec (b : List Byte) (k : Nat) : DirRec :=
  let o := 8 + 16 * k
  ⟨fieldAt b o 1, fieldAt b (o + 1) 1, fieldAt b (o + 2) 2, fieldAt b (o + 4) 4, fieldAt b (o + 8) 8⟩

/-- The COUNT records of a boot directory (Table 16.6). -/
def dirAll (b : List Byte) : List DirRec := (List.range (fieldAt b 4 1)).map (dirRec b)

/-- Records of the boot directory of a type. -/
def State.dirRecs (s : State) (type : Nat) : List DirRec :=
  match s.hazel.board with
  | some b => (dirAll b.dir.bytes).filter (·.type == type)
  | none => []

/-- Key of a verified image: its type, with the island of an island image, or the place of an A-core image. -/
def imageKey (type unit : Nat) : Nat := type + 256 * unit

/-- A verified image that the SMC firmware holds. -/
def State.image? (s : State) (type unit : Nat) : Option (List Byte) := kvGet? s.hazel.images (imageKey type unit)

/-- Stage 0x09 begins once the fill has ended and the microcode and every island image have been dealt with (R494). -/
def State.stage9 (s : State) : State :=
  if s.ev 0x2300 3 = 8 ∧ s.hbm.fill = .done ∧ s.gw.ucode = .running ∧
      (s.dirRecs 6).all (fun r => (s.island.get (fin 3 r.unit)).st != .held) = true then s.setE 0x2300 3 9 else s

/-- HBM_FILL_DONE: FILL_STATE and FILL_TIME; requests that waited are served from then on (R259). -/
def execHbmFillDone (s : State) : Host.Outcome State Fault Refusal :=
  .next <|
    if s.hbm.fill = .running then
      let s := { s with hbm := { s.hbm with fill := .done, errs := [] } }
      (s.setE 0x4000 5 ((s.time - s.hbm.fillStart) / 1000 % 2 ^ 32)).stage9
    else s

/-- ISLAND_IMAGE_STAGE: the verified image is staged in the shared SRAM while the island is HELD, or in TEST during its
self-tests; an island that is HELD is then released (R494, R495). -/
def execIslandImageStage (i : Fin 4) (s : State) : Host.Outcome State Fault Refusal :=
  .next <|
    let st := (s.island.get i).st
    match s.image? 6 i.val with
    | some body =>
      if s.domOn ⟨40 + i.val, by omega⟩ ∧ (st = .held ∨ st = .test) then
        let a := sharedPa i 0x800000
        let b := body.take 0x80000
        let s := { (s.eccWrite a b.length).clearTags a b.length with mem := Memory.write s.mem a b }
        (if st = .held then s.releaseIsland i else s).stage9
      else s
    | none => s

/-- BOOT_CORE_RELEASE: BOOT_CORE and its L2 are switched on, and the device is ACTIVE (R494 stage 0x0A). -/
def execBootCoreRelease (s : State) : Host.Outcome State Fault Refusal :=
  .next <| s.served fun s =>
    let loaded := (List.range (s.dirRecs 7).length).all fun k => (s.image? 7 k).isSome
    if s.ev 0x2300 3 ≠ 9 ∨ loaded = false then s
    else
      let c := fin 31 (s.ev 0x2300 6)
      let s := (s.setE 0x2300 3 0xA).setE 0x2300 9 ((s.time - s.hazel.bootAt) / 1000 % 2 ^ 32)
      let core : Fin 64 := ⟨c.val, by omega⟩
      let l2 := l2Dom (podOf c)
      let s := s.activate
      if s.coreRetired c.val then s
      else
        let s := (s.modDom core fun x => { x with req := .on }).modDom l2 fun x => { x with req := .on }
        (s.beginTo l2 .on).beginTo core .on

end Sys2Proof.Machine
end

