-- ==== Sys2Proof/Machine/DictRead.lean ====
section
/-! DEFINITION. What the entries of the dictionary read (R430): values held in `ent`, and views of the blocks' state; the
rights of requesters (R351, R388, R418, R438, R460, R497, R515), and the catalogue (R461). -/
namespace Sys2Proof.Machine

/-! ## Rights -/

/-- OWNER of a requester in a world, with its partition or none (Table 10.10). -/
def ownerOf (sec : Bool) (part : Option Nat) : Byte := BitVec.ofNat 8 (part.getD 64 + b2n sec * 128)

/-- The husk and field that an entry of 0x3210 to 0x328F names (Table 10.10). -/
def huskOfKey (key : Nat) : Nat × Nat := (8 * (key / 256 - 0x3210) + key % 256 / 32, key % 256 % 32)

/-- The VI of an entry of 0x6300 to 0x63FF, or of BUS_QP and BUS_CHANNELS (Table 12.11). -/
def viOfKey (key : Nat) : Nat :=
  let i := key / 256
  if i < 0x6400 then i - 0x6300 else 16 * (i - 0x6560) + key % 256 / 16

/-- Whether a requester in a world, with its partition or none, over DAP or not, may read an entry of a row. -/
def State.readRight (s : State) (r : EntRow) (sec : Bool) (part : Option Nat) (dap : Bool) (key : Nat) : Bool :=
  match r.rights with
  | .pub | .power | .busCh | .busQp => true
  | .sec | .hold => sec
  | .part => sec || s.ev (key / 256) 2 == 0
  | .husk => !dap && (sec || !(s.huskGet (huskOfKey key).1).owner.getLsbD 7)
  | .vi | .viSec => sec || (part.isSome && s.viPart (viOfKey key) == part)
  | .dm => sec || (part.isSome && s.dmPart (key / 256 - 0x9200) == part)
  | .key => false

/-- Whether such a requester may write an entry of a row. -/
def State.writeRight (s : State) (r : EntRow) (sec : Bool) (part : Option Nat) (dap : Bool) (key : Nat) : Bool :=
  match r.rights with
  | .pub | .sec | .part | .viSec | .hold | .key | .busCh => sec
  | .power => true
  | .husk =>
    let (h, f) := huskOfKey key
    let x := s.huskGet h
    !dap && ((f == 2 && x.st == .free) || x.owner == ownerOf sec part)
  | .vi | .busQp => sec || (part.isSome && s.viPart (viOfKey key) == part)
  | .dm => sec || (part.isSome && s.dmPart (key / 256 - 0x9200) == part)

/-- Whether a requester finds an entry of a row absent: one of a VI that its partition does not hold (R438). -/
def State.hides (s : State) (r : EntRow) (sec : Bool) (part : Option Nat) (key : Nat) : Bool :=
  match r.rights with
  | .vi | .viSec | .busQp | .busCh => !sec && (part.isNone || s.viPart (viOfKey key) != part)
  | _ => false

/-- Whether a request came over DAP. -/
def isDap : Req → Bool
  | .dap _ _ => true
  | .loc _ _ => false

/-! ## The catalogue (R461) -/

/-- Code of an access code, and of a persistence class (Table 15.1). -/
def DAcc.code : DAcc → Nat
  | .const => 0 | .ro => 1 | .rw => 2 | .wo => 3 | .rws => 4
/-- Code of a persistence class (Table 15.1). -/
def Pers.code : Pers → Nat
  | .vol => 0 | .stored => 1 | .cal => 2

/-- The bits [46:32] of an entry's run record for a requester: a Secure one sees whether some Normal requester has the
right. -/
def State.runAttr (s : State) (q : Req) (r : EntRow) (key : Nat) : Nat :=
  let parts := if s.reqSecure q then none :: (List.range 64).map some else [s.reqPart q]
  let dap := !s.reqSecure q && isDap q
  r.ty.code + r.acc.code * 2 ^ 8 + r.pers.code * 2 ^ 11 +
    b2n (parts.any fun p => s.readRight r false p dap key) * 2 ^ 13 +
    b2n (parts.any fun p => s.writeRight r false p dap key) * 2 ^ 14

/-- The attributes of an entry as a requester sees it; none where it finds the entry absent. -/
def State.seen (s : State) (q : Req) (key : Nat) : Option Nat :=
  match catRow key with
  | some r => if s.hides r (s.reqSecure q) (s.reqPart q) key then none else some (s.runAttr q r key)
  | none => none

/-- Runs of consecutive subindices with equal attributes: first, last, attributes. -/
def joinRuns : List (Nat × Option Nat) → Option (Nat × Nat × Nat) → List (Nat × Nat × Nat)
  | [], none => []
  | [], some r => [r]
  | (_, none) :: l, none => joinRuns l none
  | (_, none) :: l, some r => r :: joinRuns l none
  | (k, some a) :: l, none => joinRuns l (some (k, k, a))
  | (k, some a) :: l, some (f, e, b) =>
    if a = b ∧ e + 1 = k then joinRuns l (some (f, k, b)) else (f, e, b) :: joinRuns l (some (k, k, a))

/-- The list of range k (R461). -/
def State.catalogue (s : State) (q : Req) (k : Nat) : List Byte :=
  let idxs := (List.range 0x1000).map (k * 0x1000 + ·)
  let used := idxs.filter fun i => catTab.any fun r => decide (r.idx ≤ i ∧ i < r.idx + r.n)
  used.flatMap fun i =>
    (joinRuns ((List.range 256).map fun u => (u, s.seen q (ek i u))) none).flatMap fun (f, e, a) =>
      toBytes 8 (i + f * 2 ^ 16 + e * 2 ^ 24 + a * 2 ^ 32)

/-! ## Views of the blocks -/

/-- Codes of Table 7.5. -/
def Fill.code : Fill → Nat
  | .notStarted => 0 | .running => 1 | .done => 2 | .failed => 3
/-- TRAIN_STATE (Table 7.5). -/
def Train.code : Train → Nat
  | .untrained => 0 | .seeded => 1 | .full => 2 | .failed => 3 | .selfRefresh => 4
/-- PC_STATE (Table 7.5). -/
def PcState.code : PcState → Nat
  | .normal => 0 | .migrating => 1 | .retired => 2 | .failed => 3 | .hosting => 4
/-- STATE of a CAN channel (Table 12.9). -/
def CanSt.code : CanSt → Nat
  | .stopped => 0 | .active => 1 | .passive => 2 | .busOff => 3 | .integrating => 4
/-- UCODE_STATE (Table 11.11). -/
def Ucode.code : Ucode → Nat
  | .none => 0 | .running => 1 | .failed => 2
/-- ENSIGN_HOLDER (Table 14.8). -/
def Holder.code : Holder → Nat
  | .local_ => 1 | .remote => 2 | .hazel => 3

/-- PLL_LOCKED (Table 16.9): a PLL is locked once PLL_LOCK has come and while its domain is on; a pod's not while it
relocks. -/
def State.pllLocked (s : State) : Nat :=
  let pod (p : Fin 8) : Bool := s.domOn (l2Dom p) && !(s.hazel.podJob.get p).any (fun j => !j.supply)
  let on : List Bool := (allFin 8).map pod ++
    [true, (allFin 4).any (fun i => s.domOn ⟨40 + i.val, by omega⟩), s.domOn 53 || s.domOn 54, s.domOn 55]
  if s.hazel.pllOk then ((on.zip (List.range 12)).map fun (b, k) => b2n b * 2 ^ k).sum else 0

/-- POWER_STATE (Table 16.8). -/
def State.powerState (s : State) (d : Fin 64) : Nat :=
  let x := s.dom d
  (if x.changing.isSome then 3 else x.cur.code) + 128 * b2n x.pending.isSome

/-- Lines of the SLC last allocated by a class, and dirty ones among them (Table 6.8). -/
def State.classLines (s : State) (k : Nat) (dirty : Bool) : Nat :=
  ((allFin 16).map fun h => ((s.home.get h).slc.filter fun e => e.2.cls == k && (!dirty || e.2.dirty)).length).sum

/-- CORES_AVAIL of a pod (Table 3.10). -/
def State.coresAvail (s : State) (p : Fin 8) : Nat :=
  ((List.range 4).map fun k => b2n (!s.coreRetired (4 * p.val + k)) * 2 ^ k).sum

/-- CORE_STATE (Table 3.10), which has no code of its own for a core in SMC hard stop: it shows as running (DESIGN CHOICE, log
entry 82). -/
def State.coreState (s : State) (c : Fin 32) : Nat :=
  if s.coreRetired c.val then 4
  else match (s.acore.get c).run with
  | .off => 0
  | .running | .hardStop => 1
  | .wfi => 2
  | .halted => 3
  | .retired => 4

/-- STATE of an island (Table 8.11). -/
def State.islandState (s : State) (i : Fin 4) : Nat :=
  if !s.domOn ⟨40 + i.val, by omega⟩ then 0
  else match (s.island.get i).st with
  | .held => 1
  | .test => 2
  | .triplex => 3
  | .rejoinTest | .rejoinLoad | .rejoinWait | .duplex => 4
  | .safe => 5
  | .notReleased => 6

/-- SLOT_ROLE (Table 8.11). -/
def State.slotRoles (s : State) (i : Fin 4) : Nat :=
  ((allFin 4).map fun k => (s.tc i k).role.code * 4 ^ k.val).sum

/-- CAL_STATE (Table 15.4): 3 stands where an item was unreadable at power-on. -/
def State.calState (s : State) : Nat :=
  if s.ev 0x8000 1 = 3 then 3 else if s.ev 0x8000 2 ≠ 0 then 2 else 1

/-- Bytes that an entry's value takes in the stored-entry area (R463): none at its default. -/
def valBytes (len : Nat) : Nat := 8 + (len + 7) / 8 * 8

/-- Whether an entry is held in the stored-entry area: STORED, and of no other area of Table 15.3. -/
def inStoredArea (key : Nat) : Bool :=
  match catRow key with
  | some r => r.pers == .stored && !((key / 256 == 0x1001 && decide (key % 256 ≤ 3)) || key == ek 0xA010 3 ||
      key / 256 == 0xA004 || key == ek 0x9000 4 || key == ek 0x9000 5 || key == ek 0x9000 6)
  | none => false

/-- The default of a STRING, OCTETS or DOMAIN entry. -/
def octDefault (key : Nat) : List Byte := List.replicate (((catRow key).bind (·.ty.size)).getD 0) 0

/-- SEED_USED (R463). -/
def State.seedUsed (s : State) : Nat :=
  let size (key : Nat) : Nat := valBytes (((catRow key).bind (·.ty.size)).getD 8)
  ((s.ent.filter fun e => inStoredArea e.1).map fun e => size e.1).sum +
    ((s.entB.filter fun e => inStoredArea e.1 && e.2 != octDefault e.1).map fun e => valBytes e.2.length).sum

/-- Entries whose reading the spec leaves open: BUS_LOAD (log entry 2). -/
def freeRead (key : Nat) : Bool :=
  decide (0x6400 ≤ key / 256 ∧ key / 256 < 0x6418) && key % 256 == 0x1A

/-! ## Reading -/

/-- Scalar entries of the ranges 0x1000 and 0x2000. -/
def State.readLow (s : State) (q : Req) (i u : Nat) : Nat :=
  let d := fin 63 (u - 1)
  if i = 0x1000 ∧ u = 4 then (if s.isG2 then 2 else 1)
  else if i = 0x1002 ∧ u = 1 then s.seedUsed
  else if i = 0x2000 then (s.dom d).req.code
  else if i = 0x2001 then s.powerState d
  else if i = 0x2002 then b2n (s.dom d).hold
  else if i = 0x2003 then (if s.reqSecure q then (s.dom d).outS else (s.dom d).outN).toNat
  else if i = 0x2004 ∧ u = 1 then s.hazel.dev.code
  else if i = 0x2101 then s.podMhzActual (fin 7 (u - 1))
  else if i = 0x2103 then (BitVec.ofInt 16 (s.temp (fin 15 (u - 1)))).toNat
  else if i = 0x2104 ∧ u = 2 then s.pllLocked
  else s.ev i u

/-- Scalar entries of the ranges 0x3000 and 0x4000. -/
def State.readMid (s : State) (i u : Nat) : Nat :=
  if i = 0x3200 then s.husksValid
  else if 0x3210 ≤ i ∧ i < 0x3290 then
    let (h, f) := huskOfKey (ek i u)
    s.huskField h f
  else if i = 0x4000 ∧ u = 1 then b2n s.hbm.spare
  else if i = 0x4000 ∧ u = 3 then (if s.hbm.spare then 0xBA0000000 else 0xC00000000)
  else if i = 0x4000 ∧ u = 4 then s.hbm.fill.code
  else if i = 0x4000 ∧ (u = 6 ∨ u = 7) then (s.hbm.train.get (fin 1 (u - 6))).code
  else if i = 0x4000 ∧ u = 0x11 then s.scrubPasses
  else if i = 0x4000 ∧ u = 0x14 then s.hbm.ret.length
  else if i = 0x4001 then (s.pc.get (fin 63 (u - 1))).st.code
  else if 0x4104 ≤ i ∧ i < 0x410C ∧ (u = 3 ∨ u = 4) then s.classLines (i - 0x4104) (u == 4)
  else if 0x4210 ≤ i ∧ i < 0x4230 then kvGet 0 s.sent ((i - 0x4210) * 4 + (u - 1))
  else if i = 0x4201 ∧ u = 5 then b2n (s.ev i 2 == 8 && s.ev i 3 == 4 && s.ev i 4 == 1)
  else if 0x4300 ≤ i ∧ i < 0x4308 ∧ u = 1 then s.coresAvail (fin 7 (i - 0x4300))
  else if 0x4300 ≤ i ∧ i < 0x4308 ∧ 0x10 ≤ u then s.coreState (fin 31 (4 * (i - 0x4300) + (u - 0x10)))
  else s.ev i u

/-- Scalar entries of the ranges 0x5000 and 0x6000. -/
def State.readGate (s : State) (i u : Nat) : Nat :=
  let isl := fin 3 (i % 4)
  let port := fin 23 (i - 0x6000)
  let gate := fin 63 (i - 0x6130)
  let can := s.gw.can.get (fin 23 (i - 0x6400))
  if 0x5000 ≤ i ∧ i < 0x5004 ∧ u = 1 then s.islandState isl
  else if 0x5000 ≤ i ∧ i < 0x5004 ∧ u = 2 then s.slotRoles isl
  else if 0x5100 ≤ i ∧ i < 0x5104 ∧ u = 1 then (s.island.get isl).st.code
  else if 0x5100 ≤ i ∧ i < 0x5104 ∧ u = 0xC then (s.island.get isl).good.toNat
  else if 0x5100 ≤ i ∧ i < 0x5104 ∧ 0x10 ≤ u then (s.slotTransients isl (fin 3 (u - 0x10))).length
  else if i = 0x5104 ∧ u = 8 then b2n s.safeN
  else if 0x6000 ≤ i ∧ i < 0x6018 ∧ u = 4 then s.link port
  else if i = 0x6018 ∧ u = 1 then s.gw.ucode.code
  else if 0x6101 ≤ i ∧ i < 0x6119 ∧ u = 4 then b2n (s.gw.ports.get (fin 23 (i - 0x6101))).gclPending
  else if 0x6101 ≤ i ∧ i < 0x6119 ∧ u = 0x13 then b2n (s.preemptActive (fin 23 (i - 0x6101)))
  else if i = 0x6100 ∧ u = 0x15 then b2n s.timeLocked
  else if 0x6130 ≤ i ∧ i < 0x6170 ∧ u = 4 then b2n (s.gw.sgates.get gate).pending
  else if 0x6400 ≤ i ∧ i < 0x6418 ∧ u = 0x10 then can.st.code
  else if 0x6400 ≤ i ∧ i < 0x6418 ∧ u = 0x11 then can.tec
  else if 0x6400 ≤ i ∧ i < 0x6418 ∧ u = 0x12 then can.rec_
  else if 0x6418 ≤ i ∧ i < 0x6424 ∧ u = 0x10 then b2n (s.gw.lin.get (fin 11 (i - 0x6418))).running
  else s.ev i u

/-- Scalar entries of the ranges 0x7000 to 0xA000. -/
def State.readHigh (s : State) (i u : Nat) : Nat :=
  if i = 0x7000 ∧ u = 1 then b2n s.env.locked
  else if i = 0x7000 ∧ u = 2 then s.env.id.toNat
  else if i = 0x7000 ∧ u = 3 then s.env.secVersion
  else if i = 0x7001 then (s.env.ports.get (fin 23 (u - 1))).toNat
  else if i = 0x7003 then (s.env.can.get (fin 23 (u - 1))).toNat
  else if i = 0x8000 ∧ u = 1 then s.calState
  else if i = 0x9000 ∧ u = 4 then s.seed.retire.length
  else if i = 0x9100 ∧ u = 1 then s.ledger.head.toNat
  else if i = 0x9100 ∧ u = 2 then s.ledger.tail.toNat
  else if i = 0x9100 ∧ u = 4 then s.ledger.event.toNat
  else if 0x9200 ≤ i ∧ i < 0x9220 ∧ u = 4 then (s.dm.get (fin 31 (i - 0x9200))).state
  else if i = 0xA000 ∧ u = 0xC then s.dap.subs.length
  else if i = 0xA004 then s.dap.txFresh.get (fin 7 (u - 1))
  else if i = 0xA010 ∧ u = 1 then s.dap.holder.code
  else if i = 0xA010 ∧ u = 2 then s.dap.node
  else s.ev i u

/-- The value of a scalar entry, for the requester that reads it. -/
def State.readNum (s : State) (q : Req) (key : Nat) : Nat :=
  let i := key / 256
  let u := key % 256
  if freeRead key then
    Config.freeNat s.fresh % 101
  else if i < 0x3000 then s.readLow q i u
  else if i < 0x5000 then s.readMid i u
  else if i < 0x7000 then s.readGate i u
  else s.readHigh i u

/-- Bytes of a text. -/
def textBytes (t : String) : List Byte := t.toList.map fun c => BitVec.ofNat 8 c.toNat

/-- The value of a STRING, OCTETS or DOMAIN entry, for the requester that reads it. -/
def State.readOct (s : State) (q : Req) (key : Nat) : List Byte :=
  let i := key / 256
  let u := key % 256
  if i = 0x1000 ∧ u = 1 then textBytes "Nderak Silicon"
  else if i = 0x1000 ∧ u = 2 then textBytes "Romal Miluitra"
  else if i = 0x1000 ∧ u = 3 then textBytes (if s.isG2 then "MZ7480-G2" else "MZ7480-G1")
  else if i = 0x1000 ∧ u = 6 then textBytes "B0"
  else if i = 0x1000 ∧ u = 7 then toBytes 16 ((s.hazel.board.map (·.uid.toNat)).getD 0)
  else if i = 0x1003 then s.catalogue q (u - 1)
  else if 0x3210 ≤ i ∧ i < 0x3290 then toBytes 48 (s.huskGet (huskOfKey key).1).measure.toNat
  else if i = 0x7000 ∧ u = 4 then toBytes 48 s.env.digest.toNat
  else if i = 0x7004 then s.env.allow.flatMap fun w => toBytes 8 w.toNat
  else if 0x7010 ≤ i ∧ i < 0x7014 then
    let r := s.env.outs.get (fin 63 (16 * (i - 0x7010) + (u - 1)))
    toBytes 8 r.1.toNat ++ toBytes 8 r.2.toNat
  else if i = 0x9000 ∧ u = 5 then s.seed.retire.flatMap fun w => toBytes 8 w.toNat
  else s.eb i u

/-- The value of an entry of a row. -/
def State.readVal (s : State) (q : Req) (r : EntRow) (key : Nat) : DVal :=
  if r.ty.scalar then .num (s.readNum q key) else .oct (s.readOct q key)

/-- The bytes of a value (R443). -/
def valueBytes (ty : DTy) : DVal → List Byte
  | .num n => toBytes (ty.size.getD 8) n
  | .oct l => l

/-- The 64 bits that the window shows of a scalar value (R36). -/
def windowWord (ty : DTy) (n : Nat) : Word := if ty.isSigned then sext ty.width n else word (n % 2 ^ ty.width)

end Sys2Proof.Machine
end

