-- ==== Sys2Proof/Machine/DictCheck.lean ====
section
/-! DEFINITION. The checks that the dictionary agent makes of a request, in the order of R436, and the statuses of Table 14.2
with which it refuses one. -/
namespace Sys2Proof.Machine

/-! ## Types (R36, R440, R443, R546) -/

/-- Well-formed UTF-8: `need` further bytes of a character follow, the next one within lo to hi. -/
def utf8Go : List Byte → Nat → Nat → Nat → Bool
  | [], 0, _, _ => true
  | [], _ + 1, _, _ => false
  | b :: r, 0, _, _ =>
    let v := b.toNat
    if v < 0x80 then utf8Go r 0 0 0
    else if 0xC2 ≤ v ∧ v ≤ 0xDF then utf8Go r 1 0x80 0xBF
    else if v = 0xE0 then utf8Go r 2 0xA0 0xBF
    else if v = 0xED then utf8Go r 2 0x80 0x9F
    else if 0xE1 ≤ v ∧ v ≤ 0xEF then utf8Go r 2 0x80 0xBF
    else if v = 0xF0 then utf8Go r 3 0x90 0xBF
    else if 0xF1 ≤ v ∧ v ≤ 0xF3 then utf8Go r 3 0x80 0xBF
    else if v = 0xF4 then utf8Go r 3 0x80 0x8F
    else false
  | b :: r, n + 1, lo, hi => if lo ≤ b.toNat ∧ b.toNat ≤ hi then utf8Go r n 0x80 0xBF else false

/-- Whether bytes are well-formed UTF-8 (R546). -/
def utf8Ok (l : List Byte) : Bool := utf8Go l 0 0 0

/-- The value of a write as its entry takes it; none where it has the wrong length, width or extension, or is of a wide type
through the window (TYPE). -/
def typed (ty : DTy) : WVal → Option DVal
  | .win v =>
    let n := v.toNat % 2 ^ ty.width
    if ty.scalar ∧ windowWord ty n = v then some (.num n) else none
  | .bytes l =>
    match ty with
    | .string => if l.length ≤ 255 then some (.oct l) else none
    | .domain => if l.length ≤ 65536 then some (.oct l) else none
    | .octets n => if l.length = n then some (.oct l) else none
    | _ => if some l.length = ty.size then some (.num (ofBytes l)) else none

/-- A value's number. -/
def DVal.num' : DVal → Nat
  | .num n => n
  | .oct _ => 0

/-- A value's bytes. -/
def DVal.oct' : DVal → List Byte
  | .num _ => []
  | .oct l => l

/-! ## Availability and the ensign (R434, R447, R455, R456) -/

/-- Whether Hazel serves the dictionary: the SMC is not on (R447). -/
def State.hazelServing (s : State) : Bool := !s.domOn 57

/-- Entries that Hazel serves in SUSPEND and SLEEP (R447). -/
def hazelServes (key : Nat) : Bool :=
  let i := key / 256
  decide ((0x1000 ≤ i ∧ i < 0x1100) ∨ (0x2000 ≤ i ∧ i < 0x2400) ∨ (0xA000 ≤ i ∧ i < 0xA100 ∧ i ≠ 0xA001) ∨ key = ek 0x5104 8)

/-- Whether an entry cannot be reached: its block is off, or Hazel does not serve it. -/
def State.unavailable (s : State) (r : EntRow) (key : Nat) : Bool :=
  if s.hazelServing then !hazelServes key
  else r.pers == .vol && (s.dom (fin 63 (entDomain key))).cur == .off

/-- The device-state and wake entries (R456). -/
def wakeEntry (key : Nat) : Bool :=
  let i := key / 256
  decide (i = 0x2004 ∨ i = 0x2200 ∨ (0x2210 ≤ i ∧ i < 0x2220))

/-- Whether the ensign forbids a requester's write (R455, R456). -/
def State.notEnsign (s : State) (q : Req) (r : EntRow) (key : Nat) : Bool :=
  let d := s.dap
  match q with
  | .loc _ _ => d.holder == .remote && r.pers != .vol
  | .dap node k =>
    match d.holder with
    | .remote => node != d.node
    | .local_ => true
    | .hazel => !(wakeEntry key && (if d.node = 0 then s.ev 0xA002 (1 + k.val) == 4 else node == d.node))

/-! ## Values that an entry admits beyond its row's range -/

/-- Whether a grant has a bit that another partition's has too, in force or by a write that waits in the journal (R329). -/
def State.grantMeets (s : State) (p u n : Nat) : Bool :=
  parts.any fun r => r != p && (s.ev (0x3100 + r) u &&& n != 0 ||
    s.seed.journal.any fun j => j.key == ek (0x3100 + r) u && j.val.num' &&& n != 0)

/-- Whether a gate control list is within the limits of R359. -/
def gclOk (l : List Byte) : Bool :=
  let recs := (chunks 8 (l.length / 8) l).map ofBytes
  let cycle := (recs.map fun r => bits r 31 0).sum
  decide (l.length % 8 = 0 ∧ 1 ≤ recs.length ∧ recs.length ≤ 256 ∧ 1000 ≤ cycle ∧ cycle ≤ 1000000000) &&
    recs.all fun r => decide (64 ≤ bits r 31 0 ∧ bits r 31 0 % 8 = 0 ∧ bits r 63 40 = 0)

/-- Whether a stream gate's list is within the limits of R364. -/
def sglOk (l : List Byte) : Bool :=
  let recs := (chunks 8 (l.length / 8) l).map ofBytes
  let cycle := (recs.map fun r => bits r 31 0).sum
  decide (l.length % 8 = 0 ∧ 1 ≤ recs.length ∧ recs.length ≤ 32 ∧ 1000 ≤ cycle ∧ cycle ≤ 1000000000) &&
    recs.all fun r => decide (64 ≤ bits r 31 0 ∧ bits r 31 0 % 8 = 0 ∧ bits r 63 33 = 0)

/-- Whether a LIN schedule is within the limits of R412 at a bit rate. -/
def scheduleOk (baud : Nat) (l : List Byte) : Bool :=
  let recs := (chunks 8 (l.length / 8) l).map ofBytes
  decide (l.length % 8 = 0 ∧ 1 ≤ recs.length ∧ recs.length ≤ 64) &&
    recs.all fun r => decide ((173600000 + baud - 1) / baud ≤ bits r 31 8 ∧ bits r 7 6 = 0 ∧ bits r 63 32 = 0)

/-- Kernel cycles of one bit (R390). -/
def timingCycles (t : Nat) : Nat := (bits t 7 0 + 1) * (1 + bits t 15 8 + bits t 22 16)

/-- Whether a timing entry's fields are within Table 12.2, and its bit no shorter than `least` kernel cycles (R390). -/
def timingOk (t least : Nat) : Bool :=
  decide (1 ≤ bits t 15 8 ∧ 1 ≤ bits t 22 16 ∧ bit t 23 = false ∧ 1 ≤ bits t 30 24 ∧ bits t 30 24 ≤ bits t 22 16 ∧
    bit t 31 = false ∧ least ≤ timingCycles t)

/-- Whether the timing entries of a CAN channel allow a value (R390). -/
def State.canTimingOk (s : State) (i u n : Nat) : Bool :=
  if u = 3 then timingOk n 80
  else if u = 4 then timingOk n 10
  else if u = 5 then timingOk n (if s.ev i 7 = 0 then 8 else 4)
  else if u = 7 then n != 0 || decide (8 ≤ timingCycles (s.ev i 5))
  else true

/-- Whether a value of IDLE_SLOPE would give a fifth queue of the port a slope (R362). -/
def State.fifthSlope (s : State) (i u n : Nat) : Bool :=
  n != 0 && decide (4 ≤ ((List.range 8).filter fun q => 8 + q != u && s.ev i (8 + q) != 0).length)

/-- Whether a SAK suits the port's suite: bytes 16 to 31 are zero for the 128-bit ones (R368). -/
def State.sakOk (s : State) (i : Nat) (l : List Byte) : Bool := s.ev i 0x41 % 2 == 1 || (slice l 16 16).all (· == 0)

/-- Whether a code is one of Table 15.5 that can be started. -/
def selfcalOk (n : Nat) : Bool :=
  let m := n / 16
  decide ((n % 16 = 2 ∧ m < 8) ∨ (n % 16 = 3 ∧ m < 4) ∨ (n % 16 = 4 ∧ m < 24) ∨ (n % 16 = 5 ∧ m < 2))

/-- The first status whose condition holds, else OK. -/
def firstOf : List (Bool × Nat) → Nat
  | [] => 0
  | (b, st) :: r => if b then st else firstOf r

/-- What the chapters of the ranges 0x2000 to 0x4000 say of a write: the first of STATE, OUT_OF_RANGE and BUSY that
applies, else OK. -/
def State.blockLow (s : State) (a : Asker) (i u n : Nat) : Nat :=
  let p := i - 0x3100
  let ranged (k : Nat) : Bool := decide (0x3100 ≤ i ∧ i < 0x3140 ∧ u = k)
  if i = 0x2000 then s.powerCheck a.q (fin 63 (u - 1)) n
  else if i = 0x2004 ∧ u = 2 then (s.deviceReq n).2
  else if i = 0x2100 then
    firstOf [(!decide (n % 100 = 0 ∧ 400 ≤ n ∧ n ≤ s.mhzMax), 9), ((s.hazel.podJob.get (fin 7 (u - 1))).isSome, 0xA)]
  else if i = 0x2102 ∧ u = 1 then
    firstOf [(!decide (85 ≤ n ∧ n ≤ if s.isG2 then 105 else 125), 9)]
  else if i = 0x3000 ∧ u = 2 then
    firstOf [((allFin 8).any fun q => bit n q.val != bit (s.ev i u) q.val && s.podBusy q, 6)]
  else if i = 0x3000 ∧ u = 0x24 then
    firstOf [(decide (n ≤ 3) && (List.range 4).all fun k => k == n || s.ev i (0x20 + k) != 1, 6)]
  else if i = 0x3000 ∧ 0x31 ≤ u then firstOf [(decide (n < s.ev i u), 9)]
  else if ranged 1 then firstOf [(n == 0 && !(s.coresOf p).isEmpty, 0xA)]
  else if ranged 2 then firstOf [(s.ev i 1 != 0, 6)]
  else if ranged 7 || ranged 8 || ranged 9 || ranged 0xA || ranged 0xB || ranged 0xC then firstOf [(s.grantMeets p u n, 9)]
  else if 0x3210 ≤ i ∧ i < 0x3290 then
    let (h, f) := huskOfKey (ek i u)
    match a.q with
    | .loc _ m => if f = 2 then (if 1 ≤ n ∧ n ≤ 3 then (s.huskControl m h n).2 else 0) else (s.huskWrite h f n).2
    | .dap _ _ => 0
  else if i = 0x4100 ∧ u = 4 then firstOf [(s.ev 0x4100 5 != 0, 0xA)]
  else if 0x4104 ≤ i ∧ i < 0x410C ∧ u = 1 then firstOf [(decide (((List.range 16).filter (bit n)).length < 2), 9)]
  else if 0x4300 ≤ i ∧ i < 0x4308 ∧ u = 4 then
    firstOf [((allFin 32).any fun c => podOf c == fin 7 (i - 0x4300) && (s.dom ⟨c.val, by omega⟩).cur != .off &&
      (s.acore.get c).run != .halted, 6)]
  else 0

/-- The same for the ranges 0x5000 and 0x6000. -/
def State.blockGate (s : State) (i u : Nat) (v : DVal) : Nat :=
  let n := v.num'
  let isl := fin 3 (i % 4)
  let qpOf := fin 15 ((u - 0x10) / 8)
  if 0x5000 ≤ i ∧ i < 0x5004 ∧ u = 3 then firstOf [(s.islandState isl != 1, 6)]
  else if 0x5100 ≤ i ∧ i < 0x5104 ∧ u = 0xA then firstOf [((s.hsRelease isl n).isNone, 6)]
  else if 0x5100 ≤ i ∧ i < 0x5104 ∧ u = 0xB then
    firstOf [((n == 1 && (s.restartHold isl).isNone) || (n == 2 && (s.restartRelease isl).isNone), 6)]
  else if 0x6000 ≤ i ∧ i < 0x6018 ∧ u = 1 then firstOf [(n == 1 && s.retiredRes 9 (i - 0x6000), 6)]
  else if 0x6000 ≤ i ∧ i < 0x6018 ∧ ((0x48 ≤ u ∧ u < 0x4C) ∨ (0x60 ≤ u ∧ u < 0x70)) then firstOf [(!s.sakOk i v.oct', 9)]
  else if 0x6101 ≤ i ∧ i < 0x6119 ∧ u ≤ 3 then
    let p := s.gw.ports.get (fin 23 (i - 0x6101))
    firstOf [(u == 1 && !gclOk v.oct', 9), (p.gclPending || (u == 3 && s.gw.ucode == .failed), 0xA)]
  else if 0x6101 ≤ i ∧ i < 0x6119 ∧ 8 ≤ u ∧ u < 0x10 then firstOf [(s.fifthSlope i u n, 9)]
  else if 0x6130 ≤ i ∧ i < 0x6170 ∧ u ≤ 3 then
    let g := s.gw.sgates.get (fin 63 (i - 0x6130))
    firstOf [(u == 1 && !sglOk v.oct', 9), (g.pending || (u == 3 && s.gw.ucode == .failed), 0xA)]
  else if i = 0x6201 ∧ (u = 1 ∨ u = 4) then firstOf [(u == 4 && v.oct'.length % 88 != 0, 9), (s.ev i 3 != 0, 0xA)]
  else if 0x6300 ≤ i ∧ i < 0x6400 ∧ u = 6 then firstOf [(s.ev i 8 != 0, 0xA)]
  else if 0x6300 ≤ i ∧ i < 0x6400 ∧ 0x10 ≤ u ∧ u % 8 = 4 then
    firstOf [(n == 1 && (s.qp (i - 0x6300) qpOf).stopBy.isSome, 0xA)]
  else if 0x6300 ≤ i ∧ i < 0x6400 ∧ 0x10 ≤ u ∧ u % 8 < 4 then firstOf [(s.qpEnt (i - 0x6300) qpOf 4 != 0, 6)]
  else if 0x6400 ≤ i ∧ i < 0x6418 ∧ u = 0xB then firstOf [((s.gw.can.get (fin 23 (i - 0x6400))).st != .busOff, 6)]
  else if 0x6400 ≤ i ∧ i < 0x6418 then firstOf [(!s.canTimingOk i u n, 9)]
  else if 0x6418 ≤ i ∧ i < 0x6424 ∧ u = 4 then firstOf [(!scheduleOk (s.ev i 3) v.oct', 9)]
  else if 0x6560 ≤ i ∧ i < 0x6570 ∧ u % 16 = 1 then
    let w := viOfKey (ek i u)
    firstOf [((allFin 16).any fun q => bit n q.val != bit (s.ev i u) q.val && s.qpEnt w q 4 != 0, 6)]
  else 0

/-- Whether a CAL entry is armed (R467). -/
def State.calArmed (s : State) (key : Nat) : Bool :=
  match s.seed.armed with
  | some (k, t) => k == key && decide (s.time ≤ t + 1000000000)
  | none => false

/-- The same for the ranges 0x8000 to 0xA000. -/
def State.blockHigh (s : State) (i u : Nat) (v : DVal) : Nat :=
  let n := v.num'
  if 0x8001 ≤ i ∧ i < 0x8006 then
    firstOf [(!s.calArmed (ek i u), 6), (i == 0x8005 && decide (4096 < v.oct'.length), 9)]
  else if i = 0x8006 ∧ u = 1 then firstOf [(!selfcalOk n, 9), (s.ev 0x8006 2 == 1 || s.ev 0x8006 2 == 4, 0xA)]
  else if i = 0x9000 ∧ u = 6 then firstOf [((s.retireClear n).isNone, 9)]
  else if i = 0x9100 ∧ u = 2 then firstOf [((s.ledgerTailWrite n).isNone, 9)]
  else if 0x9200 ≤ i ∧ i < 0x9220 ∧ u ≤ 2 then firstOf [((s.dm.get (fin 31 (i - 0x9200))).state != 0, 6)]
  else if i = 0xA010 ∧ u = 4 then firstOf [(n == 0xFFFFFFFF, 9)]
  else 0

/-- What an entry's chapter says of a write. -/
def State.blockStatus (s : State) (a : Asker) (key : Nat) (v : DVal) : Nat :=
  let i := key / 256
  let u := key % 256
  if i < 0x5000 then s.blockLow a i u v.num'
  else if i < 0x7000 then s.blockGate i u v
  else s.blockHigh i u v

/-- Whether the block of an RWS entry of the gateway runs (Tables 11.11 to 11.14, 12.9, 12.10); the other RWS entries
are in `blockStatus`. -/
def State.rwsRuns (s : State) (r : EntRow) (key : Nat) : Bool :=
  let i := key / 256
  r.acc == .rws &&
    ((decide ((0x6000 ≤ i ∧ i < 0x6018) ∨ (0x6400 ≤ i ∧ i < 0x6424)) && s.ev i 1 != 0) ||
     (decide (0x6101 ≤ i ∧ i < 0x6119) && s.ev (0x6000 + (i - 0x6101)) 1 != 0))

/-- Whether a value is outside what its row admits (R440, R546). -/
def outOfRange (r : EntRow) : DVal → Bool
  | .num n => (r.ty == .bool && decide (1 < n)) || !r.rng.ok n
  | .oct l => r.ty == .string && !utf8Ok l

/-- Whether a STORED value would take the stored-entry area beyond 192 KiB (R463). -/
def State.overLimit (s : State) (r : EntRow) (key : Nat) (v : DVal) : Bool :=
  let t := match v with
    | .num n => s.setE (key / 256) (key % 256) n
    | .oct l => s.setB (key / 256) (key % 256) l
  r.pers == .stored && decide (0x30000 < t.seedUsed ∧ s.seedUsed < t.seedUsed)

/-- Whether a path is the window. -/
def isWindow : Req → Bool
  | .loc .window _ => true
  | _ => false

/-- The status of a read, and the row of its entry (R436). -/
def State.readStatus (s : State) (q : Req) (key : Nat) : Nat :=
  let sec := s.reqSecure q
  let part := s.reqPart q
  match catRow key with
  | none => 1
  | some r => firstOf [
      (s.hides r sec part key, 1),
      (!s.readRight r sec part (isDap q) key, 2),
      (r.acc == .wo, 4),
      (isWindow q && !r.ty.scalar, 5),
      (s.unavailable r key, 7)]

/-- The status of a write, and the value it gives (R436). -/
def State.writeStatus (s : State) (a : Asker) (key : Nat) (w : WVal) : Nat × DVal :=
  let sec := s.reqSecure a.q
  let part := s.reqPart a.q
  match catRow key with
  | none => (1, .num 0)
  | some r =>
    let v := (typed r.ty w).getD (.num 0)
    let b := s.blockStatus a key v
    (firstOf [
      (s.hides r sec part key, 1),
      (!s.writeRight r sec part (isDap a.q) key || b == 2, 2),
      (r.acc == .const || r.acc == .ro, 3),
      ((typed r.ty w).isNone, 5),
      (s.unavailable r key || (key == ek 0xA010 4 && s.dap.holder == .hazel), 7),
      (s.notEnsign a.q r key, 8),
      (s.rwsRuns r key || b == 6, 6),
      (outOfRange r v || b == 9, 9),
      (b == 0xA, 0xA),
      (s.overLimit r key v, 0x10)], v)

end Sys2Proof.Machine
end

