-- ==== Sys2Proof/Machine/Dictionary.lean ====
section
/-! DEFINITION. What writes to the dictionary do (R433, R436, R437), the seed store (R463, R464, R467, R468), local access
through the window (R439 to R441) and the mailboxes (R442, R443), and the commands that are writes to one entry. -/
namespace Sys2Proof.Machine

/-! ## Writes that take effect at once -/

/-- Store a value in its entry. -/
def State.putEnt (s : State) (i u : Nat) (v : DVal) : State :=
  match v with
  | .num n => s.setE i u n
  | .oct l => s.setB i u l

/-- A flow command by the 96 bytes written to an OP entry (R378): the slot's RESULT holds the outcome. -/
def State.flowCommand (s : State) (sl : FlowSlot) (b : List Byte) : State :=
  let hd := ofBytes (b.take 8)
  let h : Fin 1048576 := ⟨hd / 256 % 1048576, Nat.mod_lt _ (by decide)⟩
  let key := slice b 8 24
  let ctx := slice b 32 64
  let vi := fin 255 (bits hd 39 32)
  let zeros := bits hd 31 28 = 0 ∧ bits hd 63 40 = 0 ∧ (sl = .secure ∨ bits hd 39 32 = 0)
  if ¬ zeros then s.flowAnswer sl ⟨6, 0, []⟩
  else match hd % 256 with
  | 1 => s.doInsert sl vi key ctx
  | 2 => s.doRemove sl h
  | 3 => s.doRead sl h
  | 4 => s.doFind sl key
  | 5 => s.doUpdate sl h ctx
  | 6 => s.doClear sl h
  | _ => s.flowAnswer sl ⟨6, 0, []⟩

/-- The records of a BULK write (R380): key and context of each. -/
def bulkRecs (b : List Byte) : List (List Byte × List Byte) :=
  (chunks 88 (b.length / 88) b).map fun r => (r.take 24, r.drop 24)

/-- SELFCAL_START (R468): the procedure runs, or is armed for the next power-on; the held result goes. -/
def State.selfcalStart (s : State) (n : Nat) : State :=
  let s := { s with seed := { s.seed with selfcal := some (n % 16, n / 16) } }
  ((s.setE 0x8006 2 (if n % 16 = 5 then 4 else 1)).setB 0x8006 3 []).seedWrite

/-- A claim of the ensign enters the open window, or opens one (R457). -/
def State.claimEnsign (s : State) (node : Option Nat) (e : Nat) (a : Asker) : State :=
  let c : Claim := ⟨node, e, a⟩
  s.modDap fun d => { d with window := d.window ++ [c] }

/-- The VOL entries whose write is not merely stored, in the ranges 0x2000 to 0x5000: the state, and whether the write is
complete. None where the value is merely stored. -/
def State.applyLow (s : State) (a : Asker) (i u n : Nat) : Option (State × Bool) :=
  let isl := fin 3 (i % 4)
  if i = 0x2000 then some (s.powerWrite a (fin 63 (u - 1)) n, false)
  else if i = 0x2002 then some (s.holdWrite a (fin 63 (u - 1)) n, false)
  else if i = 0x2004 ∧ u = 2 then some (((s.complete a 0).deviceReq n).1, false)
  else if i = 0x2300 ∧ u = 2 then some ((s.complete a 0).systemReset 3, false)
  else if i = 0x3000 ∧ u = 0x24 then some (s.setE 0x3000 (0x20 + n) 2, true)
  else if 0x3210 ≤ i ∧ i < 0x3290 then
    let (h, f) := huskOfKey (ek i u)
    match a.q with
    | .loc _ m => some ((if f = 2 then s.huskControl m h n else s.huskWrite h f n).1, true)
    | .dap _ _ => some (s, true)
  else if i = 0x4100 ∧ u = 3 then some (s.setE 0x4100 2 (s.ev 0x4100 2 &&& (2 ^ 32 - 1 - n)), true)
  else if i = 0x4100 ∧ u = 4 then some ((s.setE 0x4100 4 n).setE 0x4100 5 1, true)
  else if 0x5100 ≤ i ∧ i < 0x5104 ∧ u = 0xA then some ((s.hsRelease isl n).getD s, true)
  else if 0x5100 ≤ i ∧ i < 0x5104 ∧ u = 0xB then
    some ((if n = 1 then s.restartHold isl else s.restartRelease isl).getD s, true)
  else none

/-- The same for the ranges 0x6000 to 0xA000. -/
def State.applyHigh (s : State) (a : Asker) (i u : Nat) (v : DVal) : Option (State × Bool) :=
  let n := v.num'
  if 0x6101 ≤ i ∧ i < 0x6119 ∧ u = 3 then some (if n = 1 then s.gclArm (fin 23 (i - 0x6101)) else s, true)
  else if 0x6130 ≤ i ∧ i < 0x6170 ∧ u = 3 then some (if n = 1 then s.sglArm (fin 63 (i - 0x6130)) else s, true)
  else if i = 0x6201 ∧ u = 1 then some (s.flowCommand .secure v.oct', true)
  else if i = 0x6201 ∧ u = 4 then
    let vi := bits (ofBytes ((s.eb 0x6201 1).take 8)) 39 32
    some (s.doBulk (fin 255 vi) (bulkRecs v.oct'), true)
  else if 0x6300 ≤ i ∧ i < 0x6400 ∧ u = 6 then some (s.flowCommand (.vi (fin 255 (i - 0x6300))) v.oct', true)
  else if 0x6300 ≤ i ∧ i < 0x6400 ∧ 0x10 ≤ u ∧ u % 8 = 4 ∧ n = 0 then
    some (s.qpDisable (i - 0x6300) (fin 15 ((u - 0x10) / 8)) (some a), false)
  else if 0x6400 ≤ i ∧ i < 0x6418 ∧ u = 0xB then
    some (if n = 1 then s.modCan (fin 23 (i - 0x6400)) fun c => { c with recovering := true } else s, true)
  else if i = 0x8000 ∧ u = 3 then some ({ s with seed := { s.seed with armed := some (n, s.time) } }, true)
  else if i = 0x8006 ∧ u = 1 then some (s.selfcalStart n, true)
  else if i = 0x9100 ∧ u = 2 then some ((s.ledgerTailWrite n).getD s, true)
  else if 0x9200 ≤ i ∧ i < 0x9220 ∧ u = 3 then some (s.dmEnableWrite (fin 31 (i - 0x9200)) n, true)
  else if i = 0xA010 ∧ u = 4 then some (s.claimEnsign none n a, false)
  else none

/-- An admitted write to a VOL entry takes effect. The Secure slot's OP is kept for the VI that a BULK takes from it. -/
def State.applyVol (s : State) (a : Asker) (key : Nat) (v : DVal) : State :=
  let i := key / 256
  let u := key % 256
  let s := if key = ek 0x6201 1 then s.putEnt i u v else s
  match (if i < 0x6000 then s.applyLow a i u v.num' else s.applyHigh a i u v) with
  | some (s, true) => s.complete a 0
  | some (s, false) => s
  | none => (s.putEnt i u v).complete a 0

/-! ## Writes through the seed store (R433, R464) -/

/-- Writing a key slot (R445). -/
def State.keyWritten (s : State) (k : Fin 8) : State :=
  s.modDap fun d => { d with
    txFresh := vset d.txFresh k 0, txEnd := vset d.txEnd k 0,
    rx := d.rx.filter (fun e => e.1 % 8 ≠ k.val), rxStored := d.rxStored.filter (fun e => e.1 % 8 ≠ k.val),
    subs := d.subs.filter fun x => x.key ≠ k }

/-- A CAL entry was overwritten (R467). -/
def State.calWritten (s : State) (i : Nat) : State := s.setE 0x8000 2 (s.ev 0x8000 2 ||| 2 ^ (i - 0x8001))

/-- A LIN schedule starts, or takes a new list at once or after its last record (R412). -/
def State.schedule (s : State) (m : Fin 12) (u n : Nat) : State :=
  let idx := 0x6418 + m.val
  if u = 5 then
    (if n = 0 then s else s.modLin m fun l => { l with active := s.eb idx 4, idx := 0, newList := false })
  else s.modLin m fun l =>
    if s.ev idx 5 ≠ 0 then { l with newList := true } else { l with active := s.eb idx 4, idx := 0, newList := false }

/-- A write of ENABLE to a bus channel: a stop completes once the attempt in progress has ended (R417). -/
def State.busEnable (s : State) (a : Asker) (i n : Nat) : State :=
  if i < 0x6418 then
    let c := fin 23 (i - 0x6400)
    if n ≠ 0 then (if s.bankOn then s.canStart c else s).complete a 0
    else (s.modCan c fun x => { x with stopBy := some a }).canStop c
  else
    let m := fin 11 (i - 0x6418)
    if n ≠ 0 then (if s.bankOn then s.linStart m else s).complete a 0
    else (s.modLin m fun x => { x with stopBy := some a }).linStop m

/-- A STORED or CAL entry has its new value in the seed store; its block applies it, and the write completes (R433). -/
def State.applyStored (s : State) (a : Asker) (key : Nat) (v : DVal) : State :=
  let i := key / 256
  let u := key % 256
  let n := v.num'
  let old := s.ev i u
  if i = 0x9000 ∧ u = 6 then
    match s.retireClear n with
    | some t => t.complete a 0
    | none => s.complete a 9
  else
    let s := (if 0x6101 ≤ i ∧ i < 0x6119 ∧ 8 ≤ u ∧ u < 0x10 then s.credits (fin 23 (i - 0x6101)) else s).putEnt i u v
    if i = 0x2100 then s.podApply a (fin 7 (u - 1)) old n
    else if (i = 0x2102 ∧ u = 1) ∨ i = 0x8001 then
      (if i = 0x8001 then s.calWritten i else s).thermal.complete a 0
    else if 0x8002 ≤ i ∧ i < 0x8006 then (s.calWritten i).complete a 0
    else if i = 0x5104 ∧ u = 3 then s.safeNUpdate.complete a 0
    else if 0x6400 ≤ i ∧ i < 0x6424 ∧ u = 1 then s.busEnable a i n
    else if 0x6418 ≤ i ∧ i < 0x6424 ∧ (u = 4 ∨ u = 5) then (s.schedule (fin 11 (i - 0x6418)) u n).complete a 0
    else if i = 0xA001 then (s.keyWritten (fin 7 (u - 1))).complete a 0
    else s.complete a 0

/-- An admitted write to a STORED or CAL entry enters the journal; a CAL write consumes its arming (R464, R467). -/
def State.journalWrite (s : State) (a : Asker) (r : EntRow) (key : Nat) (v : DVal) : State :=
  let j : Journal := ⟨a, key, v⟩
  let s := if r.pers = .cal then { s with seed := { s.seed with armed := none } } else s
  { s with seed := { s.seed with journal := s.seed.journal ++ [j] } }

/-! ## Requests -/

/-- Whether a write of an entry is on its way into the seed store: a later access to the entry waits for it (R437). -/
def State.entBusy (s : State) (key : Nat) : Bool := s.seed.journal.any (·.key == key)

/-- An access waits behind a seed-store write of its entry. -/
def State.waitEnt (s : State) (w : DictWait) : State := { s with seed := { s.seed with waits := s.seed.waits ++ [w] } }

/-- A write request is served: every check of R436, then its effect. A refusal changes nothing, but for the outcome
of a power request (Table 10.6). -/
def State.serveEntWrite (s : State) (a : Asker) (key : Nat) (w : WVal) : State :=
  let (st, v) := s.writeStatus a key w
  if st ≠ 0 then
    let d := fin 63 (key % 256 - 1)
    (if st = 2 ∧ key / 256 = 0x2000 ∧ s.powerRefused a.q d then s.powerOutcome a.q d 2 else s).complete a st
  else match catRow key with
  | some r => if r.pers = .vol then s.applyVol a key v else s.journalWrite a r key v
  | none => s

/-- A write request reaches the agent, and waits its turn at its entry (R437). -/
def State.dictWrite (s : State) (a : Asker) (key : Nat) (w : WVal) : State :=
  if s.entBusy key then s.waitEnt (.write a key w) else s.serveEntWrite a key w

/-- A read that the spec leaves open draws a free value. -/
def State.drawRead (s : State) (key : Nat) : State := if freeRead key then { s with fresh := s.fresh + 1 } else s

/-- A read request: the status, and the value with its type where it is admitted. -/
def State.dictRead (s : State) (q : Req) (key : Nat) : State × Nat × Option (DTy × DVal) :=
  match s.readStatus q key, catRow key with
  | 0, some r => (s.drawRead key, 0, some (r.ty, s.readVal q r key))
  | st, _ => (s, st, none)

/-! ## The window (R439 to R441) -/

/-- WIN_STATUS (Table 14.3). -/
def winStatus (st key : Nat) (write : Bool) : Word := word (st + key * 2 ^ 16 + b2n write * 2 ^ 40)

/-- Whether a requester's last window access, a write, has no outcome yet: its accesses complete in order (R228, R441). -/
def State.winBusy (s : State) (m : Master) : Bool := (winPage m).any fun p => (s.mail.get p).writing

/-- Write WIN_STATUS of a requester's page. -/
def State.noteWin (s : State) (m : Master) (st key : Nat) (write : Bool) : State :=
  match winPage m with
  | some p => s.modMail p fun x => { x with win := winStatus st key write, writing := write }
  | none => s

/-- A window read: the value, or zero where it is refused. It waits for the requester's window write and for a seed-store write of
its entry (R437, R441, log entry 22). -/
def State.windowRead (s : State) (m : Master) (key : Nat) : State × Word :=
  if s.winBusy m || s.entBusy key then ({ s with held := true }, 0)
  else match s.dictRead (.loc .window m) key with
  | (s, st, some (ty, .num n)) => (s.noteWin m st key false, windowWord ty n)
  | (s, st, _) => (s.noteWin m st key false, 0)

/-- A window write; the requester's next window access waits for its outcome (R441). -/
def State.windowWrite (s : State) (m : Master) (key : Nat) (v : Word) : State :=
  if s.winBusy m then { s with held := true }
  else (s.noteWin m 0 key true).dictWrite ⟨.loc .window m, none⟩ key (.win v)

/-- The key of an index and a subindex. -/
def keyOf (index : BitVec 16) (sub : Byte) : Nat := ek index.toNat sub.toNat

/-- DICT_WINDOW_READ: only A-cores, T-cores and the SMC have access (R439). -/
def execDictWindowRead (m : Master) (index : BitVec 16) (sub : Byte) (s : State) : Host.Outcome State Fault Refusal :=
  .next <| s.served fun s =>
    if (winPage m).isNone then { s with reply := .error .wlderr }
    else
      let (s, v) := s.windowRead m (keyOf index sub)
      { s with reply := .value v }

/-! ## Mailboxes (R442, R443) -/

/-- The owner of a mailbox page; none of pages 37 to 63, which have no target. -/
def mailOwner (p : Fin 64) : Option Master :=
  if h : p.val < 32 then some (.core ⟨p.val, h⟩)
  else if p.val < 36 then some (.island (fin 3 (p.val - 32)))
  else if p.val = 36 then some .smc
  else none

/-- Whether a master may access a page. -/
def State.mayMail (s : State) (m : Master) (p : Fin 64) : Bool := mailOwner p == some m || s.masterSecure m

/-- Bytes [0, n) of a page's MB_DATA. -/
def MailPage.bytes (x : MailPage) (n : Nat) : List Byte := (List.range n).map fun k => kvGet 0 x.data k

/-- Put bytes at offset off of MB_DATA. -/
def mailPut (t : KV Byte) (off : Nat) : List Byte → KV Byte
  | [] => t
  | b :: r => mailPut (kvSet 0 off b t) (off + 1) r

/-- MB_CMD 0b01: the value goes to the first bytes of MB_DATA, its length to MB_LEN (R443); BUSY stays set while the read waits its
turn (R437). -/
def State.mailRead (s : State) (m : Master) (p : Fin 64) : State :=
  let key := (s.mail.get p).entry.toNat
  if s.entBusy key then (s.modMail p fun x => { x with busy := true }).waitEnt (.mail m p)
  else match s.dictRead (.loc (.mailbox p) m) key with
  | (s, st, some (ty, v)) =>
    let b := valueBytes ty v
    let s := s.modMail p fun x => { x with data := mailPut x.data 0 b, len := BitVec.ofNat 17 b.length }
    ({ s with reply := .status st }).mailDone p st
  | (s, st, none) => ({ s with reply := .status st }).mailDone p st

/-- MB_CMD 0b10: MB_DATA is written to the named entry; a length above 65,536 matches no type (R443). -/
def State.mailWrite (s : State) (m : Master) (p : Fin 64) : State :=
  let x := s.mail.get p
  let a : Asker := ⟨.loc (.mailbox p) m, none⟩
  let s := s.modMail p fun x => { x with busy := true }
  s.dictWrite a x.entry.toNat (.bytes (x.bytes (min x.len.toNat 65537)))

/-- A write to MB_CMD by a master that may access the page: ignored while BUSY is 1. -/
def State.mailCmd (s : State) (m : Master) (p : Fin 64) (op : Nat) : State :=
  if (s.mail.get p).busy then s
  else if op = 1 then s.mailRead m p
  else if op = 2 then s.mailWrite m p
  else s

/-- A command to a page: DECERR where it has no target, WLDERR where the master has no access (R442). -/
def State.mailAccess (s : State) (m : Master) (p : Fin 64) (f : State → State) : State :=
  if (mailOwner p).isNone then { s with reply := .error .decerr }
  else if s.mayMail m p then f s
  else { s with reply := .error .wlderr }

/-- MB_READ. -/
def execMbRead (m : Master) (p : Fin 64) (s : State) : Host.Outcome State Fault Refusal :=
  .next (s.served fun s => s.mailAccess m p fun s => s.mailCmd m p 1)

/-! ## Commands that are a write to one entry -/

/-- The value of a write as the requester's path carries it. -/
def reqVal (q : Req) (key n : Nat) : WVal :=
  if isWindow q then .win (word n)
  else
    let k := ((catRow key).bind (·.ty.size)).getD 8
    .bytes (toBytes (if n < 2 ^ (8 * k) then k else k + 1) n)

/-- A requester writes a number to an entry by a command of its own; a window write waits for the outcome of the requester's last one (R441). -/
def State.reqWrite (s : State) (q : Req) (key n : Nat) : State :=
  match q with
  | .loc .window m => if s.winBusy m then s else s.windowWrite m key (word n)
  | _ => s.dictWrite ⟨q, none⟩ key (reqVal q key n)

/-- CLEAN_WAYS (R223). -/
def execCleanWays (q : Req) (v : BitVec 16) (s : State) : Host.Outcome State Fault Refusal :=
  .next (s.reqWrite q (ek 0x4100 4) v.toNat)

/-- SUSPECT_CLEAR (R221). -/
def execSuspectClear (q : Req) (v : BitVec 32) (s : State) : Host.Outcome State Fault Refusal :=
  .next (s.reqWrite q (ek 0x4100 3) v.toNat)

/-- VOTER_RESTART_HOLD (R307). -/
def execVoterRestartHold (q : Req) (i : Fin 4) (s : State) : Host.Outcome State Fault Refusal :=
  .next (s.reqWrite q (ek (voteIdx i) 0xB) 1)

/-- VOTER_RESTART_RELEASE (R307). -/
def execVoterRestartRelease (q : Req) (i : Fin 4) (s : State) : Host.Outcome State Fault Refusal :=
  .next (s.reqWrite q (ek (voteIdx i) 0xB) 2)

/-- HS_RELEASE (R319). -/
def execHsRelease (q : Req) (i : Fin 4) (v : Word) (s : State) : Host.Outcome State Fault Refusal :=
  .next (s.reqWrite q (ek (voteIdx i) 0xA) v.toNat)

/-- The key of field f of a husk (Table 10.10). -/
def huskKey (h : Fin 1024) (f : Nat) : Nat := ek (0x3210 + h.val / 8) (32 * (h.val % 8) + f)

/-- HUSK_CLAIM (R336). -/
def execHuskClaim (q : Req) (h : Fin 1024) (s : State) : Host.Outcome State Fault Refusal :=
  .next (s.reqWrite q (huskKey h 2) 1)

/-- HUSK_SEAL (R337). -/
def execHuskSeal (q : Req) (h : Fin 1024) (s : State) : Host.Outcome State Fault Refusal :=
  .next (s.reqWrite q (huskKey h 2) 2)

/-- POWER_REQ (R475). -/
def execPowerReq (q : Req) (d : Fin 64) (v : Byte) (s : State) : Host.Outcome State Fault Refusal :=
  .next (s.served fun s => s.reqWrite q (ek 0x2000 (1 + d.val)) v.toNat)

/-- POWER_HOLD (R345). -/
def execPowerHold (q : Req) (d : Fin 64) (v : Byte) (s : State) : Host.Outcome State Fault Refusal :=
  .next (s.served fun s => s.reqWrite q (ek 0x2002 (1 + d.val)) v.toNat)

/-- DEVICE_REQ for SUSPEND (R480). -/
def execDeviceReqSuspend (q : Req) (s : State) : Host.Outcome State Fault Refusal := .next (s.reqWrite q (ek 0x2004 2) 2)

/-- DEVICE_REQ for SLEEP (R480). -/
def execDeviceReqSleep (q : Req) (s : State) : Host.Outcome State Fault Refusal := .next (s.reqWrite q (ek 0x2004 2) 3)

/-- DEVICE_REQ for ACTIVE (R480). -/
def execDeviceReqActive (q : Req) (s : State) : Host.Outcome State Fault Refusal := .next (s.reqWrite q (ek 0x2004 2) 1)

/-- POD_MHZ (R486). -/
def execPodMhz (q : Req) (p : Fin 8) (v : BitVec 16) (s : State) : Host.Outcome State Fault Refusal :=
  .next (s.reqWrite q (ek 0x2100 (1 + p.val)) v.toNat)

/-- SYSRESET (R492). -/
def execSysreset (q : Req) (v : BitVec 32) (s : State) : Host.Outcome State Fault Refusal :=
  .next (s.reqWrite q (ek 0x2300 2) v.toNat)

/-- SMC_WDT (Table 16.11). -/
def execSmcWdt (q : Req) (v : BitVec 16) (s : State) : Host.Outcome State Fault Refusal :=
  .next (s.reqWrite q (ek 0x2300 7) v.toNat)

/-- GCL_APPLY (R361). -/
def execGclApply (q : Req) (n : Fin 24) (v : Word) (s : State) : Host.Outcome State Fault Refusal :=
  .next (s.reqWrite q (ek (0x6101 + n.val) 3) v.toNat)

/-- SGL_APPLY (R361, R364). -/
def execSglApply (q : Req) (g : Fin 64) (v : Word) (s : State) : Host.Outcome State Fault Refusal :=
  .next (s.reqWrite q (ek (0x6130 + g.val) 3) v.toNat)

/-- QP_ENABLE (R386). -/
def execQpEnable (q : Req) (v : Fin 256) (qp : Fin 16) (val : Word) (s : State) : Host.Outcome State Fault Refusal :=
  .next (s.served fun s => s.reqWrite q (ek (0x6300 + v.val) (0x14 + 8 * qp.val)) val.toNat)

/-- CAN_RESTART (R414). -/
def execCanRestart (q : Req) (n : Fin 24) (v : Word) (s : State) : Host.Outcome State Fault Refusal :=
  .next (s.reqWrite q (ek (0x6400 + n.val) 0xB) v.toNat)

/-- The index of a bus channel's entries. -/
def chanIdx : BusChan → Nat
  | .can n => 0x6400 + n.val
  | .lin m => 0x6418 + m.val

/-- CHANNEL_ENABLE_OFF (R417). -/
def execChannelEnableOff (q : Req) (ch : BusChan) (s : State) : Host.Outcome State Fault Refusal :=
  .next (s.reqWrite q (ek (chanIdx ch) 1) 0)

/-- SCHED_RUN (R412). -/
def execSchedRun (q : Req) (m : Fin 12) (v : Word) (s : State) : Host.Outcome State Fault Refusal :=
  .next (s.reqWrite q (ek (0x6418 + m.val) 5) v.toNat)

/-- ENSIGN_CLAIM: a local claim (R457). -/
def execEnsignClaim (q : Req) (e : BitVec 32) (s : State) : Host.Outcome State Fault Refusal :=
  .next (s.reqWrite q (ek 0xA010 4) e.toNat)

/-- CAL_UNLOCK (R467). -/
def execCalUnlock (q : Req) (v : BitVec 32) (s : State) : Host.Outcome State Fault Refusal :=
  .next (s.reqWrite q (ek 0x8000 3) v.toNat)

/-- CAL_ENTRY_WRITE: a write of bytes to a CAL entry; the window carries eight of them (R467). -/
def execCalEntryWrite (q : Req) (index : BitVec 16) (sub : Byte) (v : List Byte) (s : State) : Host.Outcome State Fault Refusal :=
  .next <| s.served fun s =>
    match q with
    | .loc .window m => s.windowWrite m (keyOf index sub) (word (ofBytes (v.take 8)))
    | _ => s.dictWrite ⟨q, none⟩ (keyOf index sub) (.bytes v)

/-- SELFCAL_VMON (R468). -/
def execSelfcalVmon (q : Req) (m : Fin 8) (s : State) : Host.Outcome State Fault Refusal :=
  .next (s.reqWrite q (ek 0x8006 1) (2 + 16 * m.val))

/-- SELFCAL_CLOCK (R468). -/
def execSelfcalClock (q : Req) (c : Fin 4) (s : State) : Host.Outcome State Fault Refusal :=
  .next (s.reqWrite q (ek 0x8006 1) (3 + 16 * c.val))

/-- SELFCAL_SERDES (R468); a code above 0xFF does not fit the entry. -/
def execSelfcalSerdes (q : Req) (n : Fin 24) (s : State) : Host.Outcome State Fault Refusal :=
  .next (s.reqWrite q (ek 0x8006 1) (4 + 16 * n.val))

/-- SELFCAL_HBM_SEED (R468). -/
def execSelfcalHbmSeed (q : Req) (k : Fin 2) (s : State) : Host.Outcome State Fault Refusal :=
  .next (s.reqWrite q (ek 0x8006 1) (5 + 16 * k.val))

/-- SELFCAL_DONE: the running procedure places its result or fails (R468); SELFCAL_STATE and SELFCAL_RESULT are in the seed
store. -/
def execSelfcalDone (result : Option (List Byte)) (s : State) : Host.Outcome State Fault Refusal :=
  .next <|
    if s.ev 0x8006 2 ≠ 1 then s
    else
      let s := { s with seed := { s.seed with selfcal := none } }
      match result with
      | some b => ((s.setB 0x8006 3 b).setE 0x8006 2 2).seedWrite
      | none => (s.setE 0x8006 2 3).seedWrite

/-- KEY_REVOKE (Table 10.8). -/
def execKeyRevoke (q : Req) (v : Byte) (s : State) : Host.Outcome State Fault Refusal :=
  .next (s.reqWrite q (ek 0x3000 0x24) v.toNat)

/-- RETIRE_CLEAR (R511). -/
def execRetireClear (q : Req) (v : BitVec 32) (s : State) : Host.Outcome State Fault Refusal :=
  .next (s.reqWrite q (ek 0x9000 6) v.toNat)

/-- LEDGER_TAIL (R512). -/
def execLedgerTail (q : Req) (v : BitVec 32) (s : State) : Host.Outcome State Fault Refusal :=
  .next (s.reqWrite q (ek 0x9100 2) v.toNat)

/-- DM_ENABLE: a write to a channel's ENABLE entry (R504, R505). -/
def execDmEnable (q : Req) (n : Fin 32) (v : Word) (s : State) : Host.Outcome State Fault Refusal :=
  .next (s.served fun s => s.reqWrite q (ek (0x9200 + n.val) 3) v.toNat)

end Sys2Proof.Machine
end

