-- ==== Sys2Proof/Machine/Boot.lean ====
section
/-! DEFINITION. Verification of images and what the boot does with them: R349, R350, R420, R421, R469 to R471, R493 to R496. -/
namespace Sys2Proof.Machine

/-! ## The directory and the header -/

/-- Whether a record of the boot directory is well formed (Table 16.6). -/
def dirRecOk (r : DirRec) : Bool :=
  decide (1 ≤ r.type ∧ r.type ≤ 7 ∧ r.offset % 4096 = 0 ∧ (if r.type = 6 then r.unit < 4 else r.unit = 0) ∧ r.zero = 0)

/-- Whether a boot directory meets R493. -/
def bootDirOk (d : BootDir) : Bool :=
  let recs := dirAll d.bytes
  let mhz := fieldAt d.bytes 5 1
  let n (t : Nat) : Nat := (recs.filter (·.type == t)).length
  decide (fieldAt d.bytes 0 4 = 0x5244444E ∧ fieldAt d.bytes 6 2 = 0 ∧ 6 ≤ recs.length ∧ recs.length ≤ 24 ∧
    (mhz = 0 ∨ (25 ≤ mhz ∧ mhz ≤ 200))) && recs.all dirRecOk &&
  [1, 2, 3, 4, 5].all (fun t => n t == 1) && decide (1 ≤ n 7) &&
  (List.range 4).all fun u => decide ((recs.filter fun r => r.type == 6 && r.unit == u).length ≤ 1)

/-- IMAGE_TYPE of a header (Table 10.7). -/
def imgType (h : ImageHeader) : Nat := fieldAt h.bytes 6 1
/-- KEY_SLOT of a header. -/
def imgSlot (h : ImageHeader) : Nat := fieldAt h.bytes 7 1
/-- SEC_VERSION of a header. -/
def imgVersion (h : ImageHeader) : Nat := fieldAt h.bytes 8 4
/-- BODY_LENGTH of a header. -/
def imgLength (h : ImageHeader) : Nat := fieldAt h.bytes 0x10 8
/-- LOAD_ADDRESS of a header. -/
def imgLoad (h : ImageHeader) : Nat := fieldAt h.bytes 0x18 8
/-- BODY_DIGEST of a header, its first byte in the low bits. -/
def imgDigest (h : ImageHeader) : BitVec 384 := BitVec.ofNat 384 (fieldAt h.bytes 0x20 48)

/-- The constant fields of a header (Table 10.7). -/
def imgForm (h : ImageHeader) (type : Nat) : Bool :=
  decide (fieldAt h.bytes 0 4 = 0x4B52444E ∧ fieldAt h.bytes 4 2 = 1 ∧ imgType h = type ∧ fieldAt h.bytes 0xC 4 = 0 ∧
    fieldAt h.bytes 0xB1 15 = 0 ∧ fieldAt h.bytes 0x15AD 83 = 0)

/-- A SHA-384 digest as a number, its first byte in the low bits. -/
def sha384Num (m : List Byte) : BitVec 384 := BitVec.ofNat 384 (ofBytes (sha384 m))

/-- The fused key digest of a slot. -/
def State.fusedDigest (s : State) (slot : Nat) : Option (BitVec 384) :=
  s.hazel.board.map fun b => b.keyDigest.get (fin 3 slot)

/-- R349: whether an image of a type passes; a body holds exactly BODY_LENGTH bytes. -/
def State.verifies (s : State) (type : Nat) (h : ImageHeader) (body : List Byte) : Bool :=
  let slot := imgSlot h
  let m := sha384 (slice h.bytes 0 0x860)
  imgForm h type && decide (slot < 4) && s.ev 0x3000 (0x20 + slot) == 1 &&
  s.fusedDigest slot == some (sha384Num (slice h.bytes 0x50 0x810)) && decide (s.ev 0x3000 (0x30 + type) ≤ imgVersion h) &&
  Config.ecdsaVerify (slice h.bytes 0x50 97) m (slice h.bytes 0x860 96) &&
  Config.mldsaVerify (slice h.bytes 0xC0 1952) m (slice h.bytes 0x8C0 3309) &&
  decide (body.length = imgLength h) && sha384Num body == imgDigest h

/-! ## The envelope (R419 to R421) -/

/-- A word of an envelope body. -/
def envWord (body : List Byte) (off : Nat) : Nat := ofBytes (slice body off 8)

/-- Port record (Table 13.2). -/
def portRecOk (r : Nat) : Bool := decide (1600 ≤ bits r 55 32 ∧ bits r 63 56 = 0)

/-- CAN channel record, and its range within the allow-list (Table 13.2, R420). -/
def canRecOk (total r : Nat) : Bool :=
  let first := bits r 20 8
  let count := bits r 33 21
  decide (1 ≤ bits r 6 0 ∧ bits r 6 0 ≤ 100 ∧ count ≤ 4096 ∧ bits r 63 34 = 0 ∧ (count = 0 ∨ first + count ≤ total))

/-- Allow-list entry (Table 13.2, R420). -/
def allowOk (w : Nat) : Bool :=
  let cls := bits w 30 29
  decide (cls ≠ 3 ∧ bit w 31 = false ∧ 1 ≤ bits w 47 32 ∧ 1 ≤ bits w 55 48 ∧ bits w 63 56 = 0 ∧ (cls = 1 ∨ bits w 28 0 ≤ 0x7FF))

/-- Output record (Table 13.3). -/
def outRecOk (a b : Nat) : Bool :=
  let lo := bits a 18 8
  let hi := bits a 29 19
  let step := bits a 40 30
  decide (bits a 1 0 ≠ 3 ∧ bit a 7 = false ∧ lo ≤ 1024 ∧ lo ≤ hi ∧ hi ≤ 1024 ∧ 1 ≤ step ∧ step ≤ 1024 ∧ bits a 63 41 = 0 ∧
    1 ≤ bits b 23 0 ∧ bits b 23 0 ≤ bits b 47 24 ∧ bits b 63 48 = 0)

/-- Whether no two entries of a channel's range have the same class and identifier (R420). -/
def allowDistinct (allow : List Nat) (r : Nat) : Bool :=
  let l := ((allow.drop (bits r 20 8)).take (bits r 33 21)).map fun w => bits w 30 0
  decide l.Nodup

/-- The port, CAN, output and allow-list records of a body. -/
def envPorts (body : List Byte) : List Nat := (List.range 24).map fun n => envWord body (0x10 + 8 * n)
/-- CAN records. -/
def envCans (body : List Byte) : List Nat := (List.range 24).map fun n => envWord body (0xD0 + 8 * n)
/-- Output records. -/
def envOuts (body : List Byte) : List (Nat × Nat) :=
  (List.range 64).map fun k => (envWord body (0x190 + 16 * k), envWord body (0x198 + 16 * k))
/-- Allow-list. -/
def envAllow (body : List Byte) : List Nat :=
  (List.range ((body.length - 0x590) / 8)).map fun k => envWord body (0x590 + 8 * k)

/-- Whether an envelope body passes R419 and R420. -/
def envOk (length : Nat) (body : List Byte) : Bool :=
  let w0 := envWord body 0
  let w1 := envWord body 8
  let total := bits w1 31 0
  decide (bits w0 47 32 = 1 ∧ bits w0 63 48 = 0 ∧ bits w1 63 32 = 0 ∧ total ≤ 4096 ∧ length = 0x590 + 8 * total ∧
    body.length = length) &&
  (envPorts body).all portRecOk && (envCans body).all (canRecOk total) && (envOuts body).all (fun r => outRecOk r.1 r.2) &&
  (envAllow body).all allowOk && (envCans body).all (allowDistinct (envAllow body))

/-- The checked body is copied into the envelope block and locked; port buckets are full, and the outputs of every island
take their safe values (R317, R421, R423). -/
def State.lockEnvelope (s : State) (h : ImageHeader) (body : List Byte) : State :=
  let e : Env := { s.env with
    locked := true,
    id := BitVec.ofNat 32 (envWord body 0),
    secVersion := imgVersion h,
    digest := imgDigest h,
    ports := Vector.ofFn fun n => word ((envPorts body).getD n.val 0),
    can := Vector.ofFn fun n => word ((envCans body).getD n.val 0),
    outs := Vector.ofFn fun k => let r := (envOuts body).getD k.val (0, 0); (word r.1, word r.2),
    allow := (envAllow body).map word }
  let s := { s with env := e }
  let full (n : Fin 24) (p : Port) : Port :=
    { p with bucket := bits (s.env.ports.get n).toNat 55 32 * 8000000, bucketAt := s.time }
  let s := (allFin 24).foldl (fun s n => s.modPort n (full n)) s
  (allFin 4).foldl (fun s i => s.pinsSafe i) s

/-! ## Stored parameters (R469 to R471) -/

/-- A record of a stored-parameter body (Table 15.6). -/
structure ParamRec where
  key : Nat
  type : Nat
  force : Bool
  value : List Byte
  deriving DecidableEq, Repr

/-- The records of a body after its head; none where one breaks Table 15.6 or the body holds more or less (R470). -/
def paramRecs : Nat → List Byte → Option (List ParamRec)
  | 0, b => if b.isEmpty then some [] else none
  | n + 1, b =>
    let len := ofBytes (slice b 6 2)
    let padded := (len + 7) / 8 * 8
    let flags := (b.getD 4 0).toNat
    let zeros := (b.getD 5 0) == 0 && decide (flags ≤ 1) && (slice b (8 + len) (padded - len)).all (· == 0)
    if 8 + padded ≤ b.length ∧ zeros then
      (paramRecs n (b.drop (8 + padded))).map fun r =>
        ⟨ek (ofBytes (b.take 2)) (b.getD 2 0).toNat, (b.getD 3 0).toNat, flags == 1, slice b 8 len⟩ :: r
    else none

/-- The records of a whole body (Table 15.6). -/
def paramBody (length : Nat) (body : List Byte) : Option (List ParamRec) :=
  let count := ofBytes (slice body 8 4)
  if body.length = length ∧ 16 ≤ length ∧ ofBytes (slice body 4 2) = 1 ∧ ofBytes (slice body 6 2) = 0 ∧ count ≤ 16384 ∧
      ofBytes (slice body 12 4) = 0 then paramRecs count (body.drop 16) else none

/-- The requester that a record counts as in its entry's rules: no world, partition or ensign refuses it. -/
def bootAsker : Asker := ⟨.loc .window .smc, none⟩

/-- Entries whose rules relate them to other entries (R329, R330, R362, R390, R412). -/
def relational (key : Nat) : Bool :=
  let i := key / 256
  let u := key % 256
  decide ((0x3100 ≤ i ∧ i < 0x3140) ∨ (0x6101 ≤ i ∧ i < 0x6119 ∧ 8 ≤ u ∧ u < 0x10) ∨
    (0x6400 ≤ i ∧ i < 0x6418 ∧ (u = 5 ∨ u = 7)) ∨ (0x6418 ≤ i ∧ i < 0x6424 ∧ u = 4))

/-- The value of a record, where type, length and range are those of its STORED entry (R470). -/
def State.recValue (s : State) (r : ParamRec) : Option DVal :=
  match catRow r.key with
  | none => none
  | some e =>
    if e.pers ≠ .stored ∨ e.ty.code ≠ r.type ∨ (e.acc = .ro ∧ r.key ≠ ek 0x3000 1) then none
    else match typed e.ty (.bytes r.value) with
    | none => none
    | some v =>
      let i := r.key / 256
      let own := if relational r.key then
          (!decide (0x6400 ≤ i ∧ i < 0x6418 ∧ r.key % 256 = 5) || timingOk v.num' 4) &&
          (!decide (0x6418 ≤ i) || scheduleOk 20000 v.oct')
        else s.blockStatus bootAsker r.key v == 0
      if outOfRange e v || !own then none else some v

/-- Whether the seed store as it stands admits a value (R470). -/
def State.recFits (s : State) (key : Nat) (v : DVal) : Bool :=
  match catRow key with
  | some e => s.blockStatus bootAsker key v == 0 && !s.overLimit e key v
  | none => false

/-- A record is written into the seed store (R471). -/
def State.recWrite (s : State) (key : Nat) (v : DVal) : State :=
  let s := (s.putEnt (key / 256) (key % 256) v).seedWrite
  if key / 256 = 0xA001 then s.keyWritten (fin 7 (key % 256 - 1))
  else if key = ek 0x9000 6 then (s.retireClear v.num').getD s
  else s

/-- Check the records in order, and write those that are to be written; none where one is rejected (R470, R471). -/
def State.applyRecs (all : Bool) : List ParamRec → State → Option State
  | [], s => some s
  | r :: rest, s =>
    match s.recValue r with
    | none => none
    | some v =>
      if all || r.force then (if s.recFits r.key v then State.applyRecs all rest (s.recWrite r.key v) else none)
      else State.applyRecs all rest s

/-- Apply a stored-parameter image; none where its body is rejected. MODE comes into force in a boot after a power-on reset
alone (R326, R491). Then every block applies what the seed store holds. -/
def State.applyParams (s : State) (h : ImageHeader) (body : List Byte) : Option State :=
  match paramBody (imgLength h) body with
  | none => none
  | some recs =>
    let dig := toBytes 48 (imgDigest h).toNat
    let differs := s.eb 0x1001 3 != dig
    match State.applyRecs differs recs s with
    | none => none
    | some s =>
      let s := if differs then
          ((((s.setE 0x1001 1 (ofBytes (body.take 4))).setE 0x1001 2 (imgVersion h)).setB 0x1001 3 dig).seedWrite).seedWrite.seedWrite
        else s
      let s := if s.ev 0x2300 1 = 1 then s.modHz fun z => { z with mode := s.ev 0x3000 1 } else s
      some ((s.safeNUpdate.thermal).powered 51)

/-! ## The stages -/

/-- The next stage code (R494). -/
def State.stage (s : State) (k : Nat) : State := s.setE 0x2300 3 k

/-- Load an image body into SMC SRAM; a body that does not lie in it whole is not loaded (log entry 32). -/
def State.loadSmc (s : State) (load : Nat) (body : List Byte) : State :=
  if 0x0E800100000 ≤ load ∧ load + body.length ≤ 0x0E800200000 then { s with mem := Memory.write s.mem load body } else s

/-- An image of type 5, 6 or 7 that the crypto block has passed is held by the SMC firmware (R350, R494, R495); an A-core
image is loaded into HBM once the fill has ended. -/
def State.smcImage (s : State) (type unit : Nat) (h : ImageHeader) (body : List Byte) : State :=
  let hold (s : State) : State := s.modHz fun z => { z with images := kvPut (imageKey type unit) body z.images }
  if type = 5 then (hold s).setE 0x6018 2 (imgVersion h)
  else if type = 6 then
    if unit < 4 ∧ (imgLoad h) = sharedPa (fin 3 unit) 0x800000 ∧ body.length = 0x80000 then hold s else s
  else
    let s := (hold s).dmaWrite .smc (imgLoad h) body |>.1
    if unit = 0 then s.setE 0x2300 5 (imgLoad h) else s

/-- One step of the verification by the boot ROM, in stages 0x04 to 0x07. -/
def State.romImage (s : State) (h : ImageHeader) (body : List Byte) : State :=
  let st := s.ev 0x2300 3
  let type := [4, 2, 3, 1].getD (st - 4) 0
  if !h.readOk then s.bootStop type 2
  else if !s.verifies type h body then s.bootStop type 3
  else if st = 4 then (s.setE 0x1000 0xA (imgVersion h)).stage (if s.env.locked then 6 else 5)
  else if st = 5 then (if envOk (imgLength h) body then (s.lockEnvelope h body).stage 6 else s.bootStop type 4)
  else if st = 6 then
    match s.applyParams h body with
    | some s => s.stage 7
    | none => s.bootStop type 5
  else ((s.setE 0x1000 9 (imgVersion h)).loadSmc (imgLoad h) body).stage 8

/-- BOOT_IMAGE_VERIFY: the verification of an image ends. In stages 0x04 to 0x07 it is the boot ROM's next image; from stage
0x08 on the SMC firmware verifies images of types 5 to 7, an A-core image once the fill has ended. A rejection during a boot
stops it (R496). `unit` is the island of an island image, or the place of an A-core image among those of the directory. -/
def execBootImageVerify (h : ImageHeader) (unit : Nat) (body : List Byte) (s : State) : Host.Outcome State Fault Refusal :=
  .next <| s.served fun s =>
    let s := s.stage9
    let st := s.ev 0x2300 3
    let dirOk := (s.hazel.board.map (fun b => bootDirOk b.dir)).getD false
    let readOk := (s.hazel.board.map (·.dir.readOk)).getD false
    if s.hazel.booting ∧ 4 ≤ st ∧ st ≤ 7 then
      if st = 4 ∧ readOk = false then s.bootStop 0 2
      else if st = 4 ∧ dirOk = false then s.bootStop 0 1
      else s.romImage h body
    else if 8 ≤ st ∧ st ≤ 10 ∧ s.domOn 57 ∧ 5 ≤ (imgType h) ∧ (imgType h) ≤ 7 ∧ ((imgType h) = 7 → 9 ≤ st ∧ s.hbmReady) then
      if h.readOk ∧ s.verifies (imgType h) h body then s.smcImage (imgType h) unit h body
      else if s.hazel.booting then s.bootStop (imgType h) (if h.readOk then 3 else 2)
      else s
    else s

/-- MICROCODE_LOAD: SMC firmware loads the microcode after its verification (R350, R387); the version that UCODE_VERSION
then reads is that of the last verified image of type 5. -/
def execMicrocodeLoad (s : State) : Host.Outcome State Fault Refusal :=
  .next <|
    if (s.image? 5 0).isSome ∧ s.switchOn then { s with gw := { s.gw with ucode := .running } }.stage9 else s

end Sys2Proof.Machine
end

