-- ==== Sys2Proof/Machine/Caches.lean ====
section
/-! DEFINITION. The commands of the home agents and L2s: requests, evictions, snoops, answers, timeouts and the end of a
cleaning (R208 to R223). A request that the requester could not have sent changes nothing (log entry 24). -/
namespace Sys2Proof.Machine

/-- The master that a requester is; a pod's L2 asks for its core (log entry 20). -/
def State.reqMaster (s : State) : Requester → Master
  | .pod p => .core (s.podCore p)
  | .master m => m

/-- Whether a husk range refuses a requester: a core's request passes when it is inside the husk, and a pod's when a core of the pod
is (R339). -/
def State.reqHusk (s : State) (r : Requester) (a : Nat) : Bool :=
  match s.huskAt a with
  | none => false
  | some h => match r with
    | .pod p => !((allFin 32).any fun c => podOf c == p && (s.acore.get c).inHusk == some h)
    | .master (.core c) => (s.acore.get c).inHusk != some h
    | .master _ => true

/-- The error response to a request for a line of HBM, and the record that the home makes of a husk range (R31, R339). -/
def State.homeErr (s : State) (r : Requester) (a : Nat) (write : Bool) : State × Option Resp :=
  let m := s.reqMaster r
  if !inHbm a then (s, some .decerr)
  else match s.accessErr m none a 1 write with
  | some e => (s, some e)
  | none => if s.reqHusk r a then (s.huskRecord m a, some .wlderr) else (s, none)

/-- Whether a pod's L2 is powered (Table 16.1). -/
def State.podOn (s : State) (p : Fin 8) : Bool := s.domOn ⟨32 + p.val, by omega⟩

/-- Whether an L2 can send a request for a line: it is powered and no eviction of the line waits (R217). -/
def State.canAsk (s : State) (p : Fin 8) (line : Nat) : Bool := s.podOn p && (s.evBuf? p line).isNone

/-- Requests of an island that its home agents hold (R238, R245). -/
def State.islandTxns (s : State) (i : Fin 4) : Nat :=
  (s.home.toList.map fun h => ((h.txns ++ h.waiting).filter fun t =>
    t.from_ == .master (.island i) || t.joined.contains (.master (.island i))).length).foldl (· + ·) 0

/-- Whether a requester may send a request of a class: the class is its own (Table 7.2), and an island has fewer than 4 outstanding,
those of its port included (R238). -/
def State.maySend (s : State) (r : Requester) (tc : Nat) : Bool :=
  s.tcFits r tc && match r with
    | .master (.island i) =>
      let x := s.island.get i
      decide (s.islandTxns i + (x.port.filter (·.issued)).length + x.issued.length < 4)
    | _ => true

/-- RD_SHARE (Table 6.4). -/
def execRdShare (p : Fin 8) (line : PA) (tc : Fin 4) (ev : ArrayEvent) (s : State) : Host.Outcome State Fault Refusal :=
  .next <|
    let l := line.toNat / 64
    if s.canAsk p l && s.maySend (.pod p) tc.val && (s.l2? p l).isNone && s.l2Allocates p then
      match s.homeErr (.pod p) (l * 64) false with
      | (s, some e) => { s with reply := .error e }
      | (s, none) => s.request l .share (.pod p) tc.val (s.reqClass (.pod p)) ev
    else s

/-- RD_OWN (Table 6.4); the error response to one is that of posted stores (R32). -/
def execRdOwn (p : Fin 8) (line : PA) (tc : Fin 4) (s : State) : Host.Outcome State Fault Refusal :=
  .next <|
    let l := line.toNat / 64
    let st := (s.l2? p l).map (·.st)
    if s.canAsk p l && s.maySend (.pod p) tc.val && st != some .m && st != some .e && (s.l2Allocates p || st.isSome) then
      match s.homeErr (.pod p) (l * 64) true with
      | (s, some e) => { s.postedError (s.reqMaster (.pod p)) (l * 64) e with reply := .error e }
      | (s, none) => s.request l .own (.pod p) tc.val (s.reqClass (.pod p)) .good
    else s

/-- RD_PEEK (Table 6.4). -/
def execRdPeek (r : Requester) (line : PA) (tc : Fin 4) (ev : ArrayEvent) (s : State) :
    Host.Outcome State Fault Refusal :=
  .next <|
    let l := line.toNat / 64
    if !s.maySend r tc.val then s
    else match s.homeErr r (l * 64) false with
    | (s, some e) => { s with reply := .error e }
    | (s, none) => s.request l .peek r tc.val (s.reqClass r) ev

/-- WR_PUSH (R208): bytes of one line, those beyond it left out. Its error response is that of a posted write, but for a
DMA-capable block (R32). -/
def execWrPush (r : Requester) (addr : PA) (data : List Byte) (tc : Fin 4) (s : State) :
    Host.Outcome State Fault Refusal :=
  .next <|
    let a := addr.toNat
    let d := data.take (64 - a % 64)
    if !s.maySend r tc.val then s
    else match s.homeErr r a true with
    | (s, some e) => { (if masterDma (s.reqMaster r) then s else s.postedError (s.reqMaster r) a e) with reply := .error e }
    | (s, none) => s.request (a / 64) (.push (a % 64) d) r tc.val (s.reqClass r) .good

/-- HA_ATOMIC on an aligned word of 4 or 8 bytes (Table 6.4). -/
def execHaAtomic (r : Requester) (op : AmoOp) (addr : PA) (size : Nat) (v cmp : Word) (tc : Fin 4) (s : State) :
    Host.Outcome State Fault Refusal :=
  .next <|
    let a := addr.toNat
    if !s.maySend r tc.val then s
    else if (size = 4 ∨ size = 8) ∧ a % size = 0 then
      match s.homeErr r a true with
      | (s, some e) => { s with reply := .error e }
      | (s, none) => s.request (a / 64) (.atomic op (a % 64) size v cmp) r tc.val (s.reqClass r) .good
    else { s with reply := .error .sizerr }

/-- An eviction leaves an L2 into one of its 16 buffers (R217), or its notice reaches the home. -/
def State.evict (s : State) (p : Fin 8) (line : Nat) (dirty : Bool) (ph : EvPhase) : State :=
  match ph with
  | .leave =>
    match s.l2? p line with
    | some x =>
      if x.st.dirty = dirty ∧ (s.pod.get p).ev.length < 16 then
        (s.dropL2 p line).modPod p fun q =>
          { q with ev := q.ev ++ [⟨line, dirty, x.data, x.poison, x.type, false, false, false⟩] }
      else s
    | none => s
  | .arrive => if (s.evBuf? p line).any (·.dirty == dirty) then s.evArrive p line else s

/-- EV_CLEAN (Table 6.4, R217). -/
def execEvClean (p : Fin 8) (line : PA) (ph : EvPhase) (s : State) : Host.Outcome State Fault Refusal :=
  .next (s.evict p (line.toNat / 64) false ph)

/-- EV_DIRTY (Table 6.4, R217). -/
def execEvDirty (p : Fin 8) (line : PA) (ph : EvPhase) (s : State) : Host.Outcome State Fault Refusal :=
  .next (s.evict p (line.toNat / 64) true ph)

/-- SN_SHARE reaches an L2 (Table 6.5). -/
def execSnShare (p : Fin 8) (line : PA) (s : State) : Host.Outcome State Fault Refusal :=
  .next (s.deliverSnoop p (line.toNat / 64) .share)

/-- SN_TAKE reaches an L2 (Table 6.5). -/
def execSnTake (p : Fin 8) (line : PA) (s : State) : Host.Outcome State Fault Refusal :=
  .next (s.deliverSnoop p (line.toNat / 64) .take)

/-- SN_PEEK reaches an L2 (Table 6.5). -/
def execSnPeek (p : Fin 8) (line : PA) (s : State) : Host.Outcome State Fault Refusal :=
  .next (s.deliverSnoop p (line.toNat / 64) .peek)

/-- SNOOP_ANSWER: the home receives the answer that a pod sent (R214 to R218). -/
def execSnoopAnswer (p : Fin 8) (line : PA) (ev : ArrayEvent) (s : State) : Host.Outcome State Fault Refusal :=
  .next <|
    let l := line.toNat / 64
    let h := homeIdx l
    match (s.home.get h).answers.find? fun a => a.line == l && a.pod == p with
    | none => s
    | some a =>
      (s.modHome h fun y => { y with answers := removeFirst (fun b => b.line == l && b.pod == p) y.answers }).answer a ev

/-- EVICTION_ACK: the L2 receives DONE or STALE and frees the eviction buffer (R217). -/
def execEvictionAck (p : Fin 8) (line : PA) (s : State) : Host.Outcome State Fault Refusal :=
  .next (s.modPod p fun q => { q with ev := removeFirst (fun b => b.line == line.toNat / 64 && b.acked) q.ev })

/-- SNOOP_TIMEOUT: the transaction of a line completes with the line poisoned, the silent pods leave the filter, their
stops are suspect and a POIS record names each (R221). -/
def execSnoopTimeout (line : PA) (s : State) : Host.Outcome State Fault Refusal :=
  .next <|
    let l := line.toNat / 64
    let h := homeIdx l
    match s.headTxn l with
    | none => s
    | some t =>
      if t.phase = .snoop then
        let from_ := match t.from_ with
          | .pod p => stopPod p
          | .master m => stopOf m
        let silent := t.awaiting
        let s := silent.foldl (fun s p =>
          let s := s.setFilt l p none
          let s := s.setE 0x4100 2 (s.ev 0x4100 2 ||| 2 ^ stopPod p)
          let s := s.modHome h fun y => { y with lateAns := y.lateAns ++ [(l, p.val)] }
          s.record (bankSlice h) 0x12 from_ (stopPod p) (l * 64) 0) s
        s.poisonTxn { t with awaiting := [] }
      else s

/-- CLEAN_WAYS_DONE: the last dirty line of the ways written to CLEAN_WAYS is in HBM, each cleaned as DCC does (R223). -/
def execCleanWaysDone (s : State) : Host.Outcome State Fault Refusal :=
  .next <| s.served fun s =>
    if s.ev 0x4100 5 = 0 then s
    else
      let mask := s.ev 0x4100 4
      let lines := (allFin 16).flatMap fun h =>
        ((s.home.get h).slc.filter fun e => e.2.dirty && bit mask e.2.way).map (·.1)
      ((lines.foldl (fun s l => s.dcc l 3) s).setE 0x4100 5 0).setE 0x4100 4 0

end Sys2Proof.Machine
end

