-- ==== Sys2Proof/Machine/Dap.lean ====
section
/-! DEFINITION. The DAP agent: reception (R444 to R447), services (R448, R451, R452, R454), segments (R449, R450), and the
ensign (R455 to R459). -/
namespace Sys2Proof.Machine

/-! ## Reception (R446) -/

/-- The fields of a PDU's bytes (Table 14.4); none where VER, a zero field or LEN is wrong. -/
def parsePdu (tr : Transport) (b : List Byte) : Option Pdu :=
  let ctl := (b.getD 0 0).toNat
  let segw := ofBytes (slice b 8 2)
  let len := ofBytes (slice b 10 2)
  let most := segCap tr + 24
  if ctl % 16 = 1 ∧ segw / 2 ^ 13 = 0 ∧ 24 + len ≤ b.length ∧ b.length ≤ most then
    some ⟨fin 7 (ctl / 16 % 8), (b.getD 1 0).toNat, ofBytes (slice b 2 2), ofBytes (slice b 4 2), ofBytes (slice b 6 2),
      segw % 4096, bit segw 12, ofBytes (slice b 12 4), slice b 16 len, bit ctl 7, tr⟩
  else none

/-- The key of a freshness value by source and key slot. -/
def rxKey (src : Nat) (k : Fin 8) : Nat := 8 * src + k.val

/-- The last FRESH accepted from a source under a key slot (R445). -/
def State.lastFresh (s : State) (src : Nat) (k : Fin 8) : Nat := kvGet 0 s.dap.rx (rxKey src k)

/-- A FRESH is accepted; the seed store follows when it exceeds the stored copy by 4,096 or more (R445). -/
def State.acceptFresh (s : State) (src : Nat) (k : Fin 8) (v : Nat) : State :=
  let key := rxKey src k
  let s := s.modDap fun d => { d with rx := kvPut key v d.rx }
  if kvGet 0 s.dap.rxStored key + 4096 ≤ v then
    (s.modDap fun d => { d with rxStored := kvPut key v d.rxStored }).seedWrite
  else s

/-- KEY_ROLE of a slot. -/
def State.keyRole (s : State) (k : Fin 8) : Nat := s.ev 0xA002 (1 + k.val)

/-- Services that a role permits (Table 14.7). -/
def rolePermits (role svc : Nat) : Bool :=
  match svc with
  | 1 | 3 | 4 | 6 => decide (1 ≤ role)
  | 2 => decide (2 ≤ role)
  | 7 | 8 => decide (4 ≤ role)
  | _ => false

/-- Services that are answered. -/
def isAnswered (svc : Nat) : Bool := decide ((1 ≤ svc ∧ svc ≤ 4) ∨ (6 ≤ svc ∧ svc ≤ 8))

/-- Whether a transport carries DAP: while Hazel serves, CAN FD on channels 0 to 7 alone (R447). -/
def State.carries (s : State) (tr : Transport) : Bool :=
  let on (n : Fin 24) : Bool := bit (s.ev 0xA000 3) n.val
  match tr with
  | .canFd n => on n && (!s.hazelServing || decide (n.val < 8))
  | .canXl n => on n && !s.hazelServing
  | .udp => !s.hazelServing

/-- A response with a status and a detail (R448). -/
def State.refuse (s : State) (p : Pdu) (st detail : Nat) : State := s.dapAnswer p (statusBody st detail)

/-- The checks of R446 in their order; a PDU that passes them waits for its service. A broadcast is kept for WRITE and PING
alone and unsegmented, and a response is acted on by no service (R448, R452). -/
def State.dapReceive (s : State) (tr : Transport) (b : List Byte) : State :=
  if s.nodeId = 0 ∨ s.carries tr = false then s
  else
    let fail := s.addE 0xA000 9 32 1
    match parsePdu tr b with
    | none => fail
    | some p =>
      let k := p.key
      if p.dst ≠ s.nodeId ∧ p.dst ≠ 0 then s
      else if s.keyRole k = 0 ∨ s.dapMac k (b.take (16 + p.body.length)) ≠ slice b (16 + p.body.length) 8 then fail
      else
        let last := s.lastFresh p.src k
        if p.fresh ≤ last then
          let s := s.addE 0xA000 0xA 32 1
          if p.dst ≠ 0 ∧ p.resp = false ∧ isAnswered p.service then s.refuse p 0xE last else s
        else
          let s := s.acceptFresh p.src k p.fresh
          let s := if s.dap.holder = .remote ∧ s.dap.node = p.src ∧ s.keyRole k = 4 ∧ p.resp = false then
              s.modDap fun d => { d with leaseAt := s.time } else s
          if p.resp ∨ (p.dst = 0 ∧ ¬ ((p.service = 2 ∨ p.service = 6) ∧ p.seg = 0 ∧ p.more = false)) ∨
              ¬ (isAnswered p.service ∨ p.service = 9 ∨ p.service = 10) then s
          else s.modDap fun d => { d with ready := d.ready ++ [p] }

/-- DAP_PDU_RECEIVE. -/
def execDapPduReceive (tr : Transport) (pdu : List Byte) (s : State) : Host.Outcome State Fault Refusal :=
  .next (s.served fun s => s.dapReceive tr pdu)

/-! ## Services (R448) -/

/-- The requester of a PDU. -/
def Pdu.asker (p : Pdu) : Asker := ⟨.dap p.src p.key, some p⟩

/-- The entry that a body's INDEX and SUB name. -/
def bodyKey (b : List Byte) : Nat := ek (ofBytes (b.take 2)) (b.getD 2 0).toNat

/-- Answer with a status, unless the request was broadcast. -/
def State.refuseIf (s : State) (p : Pdu) (st : Nat) : State := if p.dst = 0 then s else s.refuse p st (s.detail st)

/-- Open transactions of a source, and whether a further one is refused (R450). -/
def State.txnFull (s : State) (src : Nat) : Bool :=
  decide (4 ≤ (s.dap.txns.filter (·.src == src)).length ∨ 64 ≤ s.dap.txns.length)

/-- The status that comes before TYPE where a body is malformed (R436): DENIED, READ_ONLY or WRITE_ONLY of the entry it names. -/
def earlier (st : Nat) : Nat := if 2 ≤ st ∧ st ≤ 4 then st else 5

/-- READ; it waits its turn at its entry (R437). -/
def State.serveRead (s : State) (p : Pdu) : State :=
  if p.body.length < 3 then s.refuseIf p 5
  else if p.body.length ≠ 4 ∨ p.body.getD 3 0 ≠ 0 then s.refuseIf p (earlier (s.readStatus (.dap p.src p.key) (bodyKey p.body)))
  else if s.entBusy (bodyKey p.body) then s.waitEnt (.dap p)
  else match s.dictRead (.dap p.src p.key) (bodyKey p.body) with
  | (s, _, some (ty, v)) =>
    let b := [0, BitVec.ofNat 8 ty.code, 0, 0] ++ valueBytes ty v
    if segCount p.tr b ≠ 1 ∧ s.txnFull p.src = true then s.refuseIf p 0xA else s.dapAnswer p b
  | (s, st, none) => s.refuseIf p st

/-- WRITE. -/
def State.serveWrite (s : State) (p : Pdu) : State :=
  if p.body.length < 3 then s.refuseIf p 5
  else if p.body.length < 4 ∨ p.body.getD 3 0 ≠ 0 then
    s.refuseIf p (earlier (s.writeStatus p.asker (bodyKey p.body) (.bytes (p.body.drop 4))).1)
  else s.dictWrite p.asker (bodyKey p.body) (.bytes (p.body.drop 4))

/-- A SUB_ID that no subscription has; which one it is the spec does not say (log entry 2). -/
def State.freeSub (s : State) : State × Nat :=
  let l := (List.range 65536).filter fun k => s.dap.subs.all (·.id != k)
  ({ s with fresh := s.fresh + 1 }, l.getD (Config.freeNat s.fresh % l.length) 0)

/-- SUBSCRIBE (R451); while Hazel serves, a request that meets no earlier refusal is UNAVAILABLE (R436, R447). -/
def State.serveSubscribe (s : State) (p : Pdu) : State :=
  let key := bodyKey p.body
  let mode := (p.body.getD 3 0).toNat
  let period := ofBytes (slice p.body 4 2)
  let st := s.readStatus (.dap p.src p.key) key
  if p.body.length < 3 then s.refuseIf p 5
  else if p.body.length ≠ 6 then s.refuseIf p (earlier st)
  else if st ≠ 0 ∧ st ≠ 7 then s.refuseIf p st
  else if ((catRow key).map (·.ty.scalar)).getD false = false then s.refuseIf p 5
  else if st = 7 ∨ s.hazelServing then s.refuseIf p 7
  else if ¬ (mode = 1 ∨ mode = 2) ∨ period = 0 then s.refuseIf p 9
  else if 256 ≤ s.dap.subs.length ∨ 32 ≤ (s.dap.subs.filter (·.src == p.src)).length then s.refuseIf p 0x10
  else
    let (s, id) := s.freeSub
    let sub : Sub := ⟨id, p.src, p.key, p.tr, key, mode == 2, period, s.time, s.readNum (.dap p.src p.key) key⟩
    (s.modDap fun d => { d with subs := d.subs ++ [sub] }).dapAnswer p ([0, 0] ++ toBytes 2 id)

/-- UNSUBSCRIBE; a SUB_ID that is none of the source's is answered with ABSENT (log entry 33). -/
def State.serveUnsubscribe (s : State) (p : Pdu) : State :=
  let id := ofBytes (p.body.take 2)
  let mine (x : Sub) : Bool := x.src == p.src && x.id == id
  if p.body.length ≠ 4 ∨ slice p.body 2 2 ≠ [0, 0] then s.refuseIf p 5
  else if s.hazelServing then s.refuseIf p 7
  else if s.dap.subs.any mine then
    (s.modDap fun d => { d with subs := d.subs.filter fun x => !mine x }).dapAnswer p (toBytes 4 0)
  else s.refuseIf p 1

/-- STATE of a PING: the device state, and in a transition the one it leaves. -/
def State.pingState (s : State) : Nat := if s.hazel.dev.moving then s.hazel.from_.code else s.hazel.dev.code

/-- Body of a PING response (Table 14.6). -/
def State.pingBody (s : State) : List Byte :=
  [0, BitVec.ofNat 8 s.pingState, 0, 0] ++ toBytes 4 s.epoch ++ toBytes 1 s.dap.holder.code ++ [0] ++ toBytes 2 s.dap.node ++
    toBytes 4 (s.ev 0xA000 0xD) ++ toBytes 8 s.time

/-- PING; a broadcast one is answered after its delay (R452). -/
def State.servePing (s : State) (p : Pdu) : State :=
  if p.body ≠ [] then s.refuseIf p 5
  else if p.dst = 0 then s.modDap fun d => { d with pings := d.pings ++ [p] }
  else s.dapAnswer p s.pingBody

/-- ENSIGN_CLAIM (R456, R457). -/
def State.serveClaim (s : State) (p : Pdu) : State :=
  let e := ofBytes p.body
  if p.body.length ≠ 4 then s.refuse p 5 s.epoch
  else if s.dap.holder = .hazel ∨ s.hazelServing = true then s.refuse p 7 s.epoch
  else if e = 0xFFFFFFFF then s.refuse p 9 s.epoch
  else s.claimEnsign (some p.src) e p.asker

/-- ENSIGN_RELEASE (R458); one from a node that is not the holder is refused with NOT_ENSIGN. -/
def State.serveRelease (s : State) (p : Pdu) : State :=
  if p.body ≠ [] then s.refuse p 5 s.epoch
  else if s.dap.holder = .hazel ∨ s.hazelServing = true then s.refuse p 7 s.epoch
  else if s.dap.holder = .remote ∧ s.dap.node = p.src then
    let s := s.passEnsign .local_ 0
    s.refuse p 0 s.epoch
  else s.refuse p 8 s.epoch

/-- Whether a request names an entry that does not exist for its sender. -/
def State.asksAbsent (s : State) (p : Pdu) : Bool :=
  (p.service == 1 || p.service == 2 || p.service == 3) && decide (3 ≤ p.body.length) &&
    s.readStatus (.dap p.src p.key) (bodyKey p.body) == 1

/-- Serve a request whose body is whole: ABSENT comes first (R436), then the role's right, what Hazel serves, and the service (R447,
Table 14.7). -/
def State.serve (s : State) (p : Pdu) : State :=
  if s.asksAbsent p then s.refuseIf p 1
  else if rolePermits (s.keyRole p.key) p.service = false then s.refuseIf p 2
  else match p.service with
  | 1 => s.serveRead p
  | 2 => s.serveWrite p
  | 3 => s.serveSubscribe p
  | 4 => s.serveUnsubscribe p
  | 6 => s.servePing p
  | 7 => s.serveClaim p
  | 8 => s.serveRelease p
  | _ => s

/-- Whether a request comes in one segment. -/
def Pdu.single (p : Pdu) : Bool := p.seg == 0 && !p.more

/-- Take the first waiting PDU that a condition names, and act on it; without one nothing happens. -/
def State.takePdu (s : State) (c : Pdu → Bool) (f : State → Pdu → State) : State :=
  match s.dap.ready.find? c with
  | some p => f (s.modDap fun d => { d with ready := removeFirst c d.ready }) p
  | none => s

/-- Serve the first waiting single-segment request of a service; it discards an open transaction of its source with its
TXN (R450). -/
def State.serveFirst (s : State) (svc : Nat) : State :=
  s.takePdu (fun p => p.service == svc && p.single) fun s p =>
    (s.modDap fun d => { d with txns := d.txns.filter fun t => !t.is p.src p.txn }).serve p

/-- DAP_READ. -/
def execDapRead (s : State) : Host.Outcome State Fault Refusal := .next (s.served fun s => s.serveFirst 1)

/-- DAP_WRITE (R454, R455). -/
def execDapWrite (s : State) : Host.Outcome State Fault Refusal := .next (s.served fun s => s.serveFirst 2)

/-- DAP_SUBSCRIBE. -/
def execDapSubscribe (s : State) : Host.Outcome State Fault Refusal := .next (s.served fun s => s.serveFirst 3)

/-- DAP_UNSUBSCRIBE. -/
def execDapUnsubscribe (s : State) : Host.Outcome State Fault Refusal := .next (s.served fun s => s.serveFirst 4)

/-- DAP_PING. -/
def execDapPing (s : State) : Host.Outcome State Fault Refusal := .next (s.served fun s => s.serveFirst 6)

/-- DAP_ENSIGN_CLAIM. -/
def execDapEnsignClaim (s : State) : Host.Outcome State Fault Refusal := .next (s.served fun s => s.serveFirst 7)

/-- DAP_ENSIGN_RELEASE. -/
def execDapEnsignRelease (s : State) : Host.Outcome State Fault Refusal := .next (s.served fun s => s.serveFirst 8)

/-- BROADCAST_PING_DELAY: the oldest broadcast PING is answered (R452). -/
def execBroadcastPingDelay (s : State) : Host.Outcome State Fault Refusal :=
  .next <| s.served fun s =>
    match s.dap.pings with
    | p :: r => (s.modDap fun d => { d with pings := r }).dapAnswer p s.pingBody
    | [] => s

/-- DAP_NOTIFY: the subscription in place k is notified: its period has passed, or its entry has another value than the one
last sent (R451). The TXN of the message is free. -/
def execDapNotify (k : Fin 256) (s : State) : Host.Outcome State Fault Refusal :=
  .next <| s.served fun s =>
    match s.dap.subs[k.val]? with
    | none => s
    | some x =>
      match catRow x.entry with
      | none => s
      | some r =>
        let v := s.readNum (.dap x.src x.key) x.entry
        if !x.periodic ∧ v = x.lastVal then s
        else
          let s := s.drawRead x.entry
          let (s, t) := s.draw
          let b := toBytes 2 x.id ++ toBytes 2 (x.entry / 256) ++ toBytes 1 (x.entry % 256) ++ toBytes 1 r.ty.code ++ [0, 0] ++
            toBytes 8 s.time ++ toBytes 8 (windowWord r.ty v).toNat
          let y : Sub := { x with lastAt := s.time, lastVal := v }
          let s := s.modDap fun d => { d with subs := d.subs.set k.val y }
          s.dapSend ⟨x.key, 5, x.src, 0, Config.freeNat t % 65536, 0, false, 0, b, false, x.tr⟩

/-! ## The seed store's end of a write (R433, R437) -/

/-- An access that waited is served, or waits again behind the next write of its entry. -/
def State.serveWait (s : State) : DictWait → State
  | .write a key w => s.dictWrite a key w
  | .mail m p => s.mailRead m p
  | .dap p => s.serveRead p

/-- The accesses that wait are served in the order in which they came, as far as their entries allow (R437). -/
def State.releaseWaits (s : State) : State :=
  s.seed.waits.foldl (fun s w => s.serveWait w) { s with seed := { s.seed with waits := [] } }

/-- SEED_STORE_WRITE_DONE: the oldest write in the journal ends; one that the seed store fails to take is refused, and the
entry keeps its old value (R433). The accesses that waited for it are served (R437). -/
def execSeedStoreWriteDone (ok : Bool) (s : State) : Host.Outcome State Fault Refusal :=
  .next <| s.served fun s =>
    match s.seed.journal with
    | [] => s
    | j :: r =>
      let s := { s with seed := { s.seed with journal := r } }
      (if ok then s.seedWrite.applyStored j.by_ j.key j.val else s.complete j.by_ 0xB).releaseWaits

/-! ## Segments (R449, R450) -/

/-- Send an ACK that names the next segment. -/
def State.sendAck (s : State) (p : Pdu) (next : Nat) : State :=
  s.dapSend ⟨p.key, 9, p.src, 0, p.txn, 0, false, 0, toBytes 2 next ++ [0, 0], true, p.tr⟩

/-- Discard the open transactions of a source with a TXN. -/
def State.dropTxn (s : State) (src txn : Nat) : State :=
  s.modDap fun d => { d with txns := d.txns.filter fun t => !t.is src txn }

/-- A segment of a longer body. A segment 0 opens a transaction; one that breaks R449 discards its transaction and is
answered with SEQUENCE; the last one completes the request. -/
def State.segment (s : State) (p : Pdu) : State :=
  if p.seg = 0 then
    let s := s.dropTxn p.src p.txn
    if s.txnFull p.src then s.refuseIf p 0xA
    else if p.body.length ≠ segCap p.tr then s.refuseIf p 0xF
    else
      let t : DapTxn := ⟨p.src, p.txn, p.key, p.tr, p.service, 1, p.body, false, s.time⟩
      s.modDap fun d => { d with txns := d.txns ++ [t] }
  else match s.dap.txns.find? fun t => t.is p.src p.txn && !t.isResp with
  | none => s
  | some t =>
    if p.seg ≠ t.nextSeg then s.sendAck p t.nextSeg
    else if p.key ≠ t.key ∨ p.tr ≠ t.tr ∨ p.service ≠ t.service ∨ (p.more ∧ p.body.length ≠ segCap p.tr) ∨
        65540 < t.body.length + p.body.length then (s.dropTxn p.src p.txn).refuseIf p 0xF
    else if p.more then
      let t' : DapTxn := { t with nextSeg := p.seg + 1, body := t.body ++ p.body, at_ := s.time }
      let s := s.modDap fun d => { d with txns := replaceFirst (fun x => x.is p.src p.txn) t' d.txns }
      if p.seg % 8 = 7 then s.sendAck p (p.seg + 1) else s
    else (s.dropTxn p.src p.txn).serve { p with body := t.body ++ p.body, seg := 0 }

/-- Whether a PDU is a segment of a longer body. -/
def Pdu.part (p : Pdu) : Bool := isAnswered p.service && !p.single

/-- DAP_SEGMENT. -/
def execDapSegment (s : State) : Host.Outcome State Fault Refusal := .next (s.served fun s => s.takePdu Pdu.part State.segment)

/-- DAP_ACK: the sending of a response goes on from the segment that the ACK names (R449). -/
def execDapAck (s : State) : Host.Outcome State Fault Refusal :=
  .next <| s.served fun s => s.takePdu (fun p => p.service == 9) fun s p =>
    let n := ofBytes (p.body.take 2)
    match s.dap.txns.find? fun t => t.is p.src p.txn && t.isResp with
    | some t =>
      if n ≤ t.nextSeg then
        let t' : DapTxn := { t with nextSeg := min (n / 8 * 8 + 8) (segCount t.tr t.body), at_ := s.time }
        (s.modDap fun d => { d with txns := replaceFirst (fun x => x.is p.src p.txn) t' d.txns }).sendBurst t n
      else s
    | none => s

/-- DAP_ABORT: an open transaction is discarded (R449). -/
def execDapAbort (s : State) : Host.Outcome State Fault Refusal :=
  .next <| s.takePdu (fun p => p.service == 10) fun s p => s.dropTxn p.src p.txn

/-- DAP_TRANSACTION_TIMEOUT: the transaction in place n is discarded without a response (R449). -/
def execDapTransactionTimeout (n : Nat) (s : State) : Host.Outcome State Fault Refusal :=
  .next (s.modDap fun d => { d with txns := d.txns.eraseIdx n })

/-! ## The ensign (R457 to R459) -/

/-- A claim decides the holder: EPOCH becomes E before the change takes effect, and source 53 becomes pending. -/
def State.claimWon (s : State) (h : Holder) (node e : Nat) : State :=
  ((s.setE 0xA010 3 e).seedWrite.modDap fun d =>
    { d with prev := d.holder, holder := h, node := node, leaseAt := s.time }).pulse 53

/-- Tell claimants a status. -/
def State.tellClaims (s : State) (l : List Claim) (st : Nat) : State := l.foldl (fun s c => s.complete c.by_ st) s

/-- Decide the claims of the window (R457). -/
def State.decideClaims (s : State) : State :=
  let w := s.dap.window
  let s := s.modDap fun d => { d with window := [] }
  if s.dap.holder = .hazel then s.tellClaims w 7
  else
    let live := w.filter fun c => decide (s.epoch < c.epoch)
    let high := live.foldl (fun m c => max m c.epoch) 0
    let top := live.filter (·.epoch == high)
    let rest := w.filter fun c => !(decide (s.epoch < c.epoch) && c.epoch == high)
    match top with
    | [] => s.tellClaims w 0xC
    | [c] =>
      let s := match c.node with
        | some n => s.claimWon .remote n c.epoch
        | none => s.claimWon .local_ 0 c.epoch
      (s.complete c.by_ 0).tellClaims rest 0xC
    | _ =>
      let first := ((top.filterMap (·.node)).head?).getD 0
      let s := ((s.claimWon .local_ 0 high).addE 0xA010 6 32 1).setE 0xA010 7 (high + first * 2 ^ 32)
      let s := s.tellClaims (top.filter (·.node.isSome)) 0xD
      (s.tellClaims (top.filter (·.node.isNone)) 0).tellClaims rest 0xC

/-- ENSIGN_WINDOW_CLOSE. -/
def execEnsignWindowClose (s : State) : Host.Outcome State Fault Refusal := .next (s.served fun s => s.decideClaims)

/-- ENSIGN_LEASE_EXPIRY (R459). -/
def execEnsignLeaseExpiry (s : State) : Host.Outcome State Fault Refusal :=
  .next <| if s.dap.holder = .remote ∧ s.ev 0xA010 5 ≠ 0 then s.passEnsign .local_ 0 else s

/-! ## CAN frames -/

/-- The transport and the PDU's bytes of a frame that carries DAP on a channel (Table 14.5). -/
def State.dapFrame (s : State) (n : Fin 24) (f : BusFrame) : Option (Transport × List Byte) :=
  let af := f.af.toNat
  if bit (s.ev 0xA000 3) n.val = false then none
  else if f.fmt = .fd ∧ f.ext = true ∧ f.brs = true ∧ f.id.toNat / 2 ^ 22 = s.ev 0xA000 4 then some (.canFd n, f.data)
  else if f.fmt = .xl ∧ f.id.toNat = s.ev 0xA000 5 ∧ f.sdt.toNat = s.ev 0xA000 6 ∧ bits af 15 11 = 0 ∧ bits af 31 27 = 0 then
    some (.canXl n, f.data)
  else none

/-- CAN_FRAME_RECEIVE: a valid frame on a channel. A DAP frame goes to the agent before the flow lookup; while the bank is off
Hazel's own receivers on channels 0 to 7 take it (R392, R417, R447). Its receive time is that of its SOF bit. -/
def execCanFrameReceive (n : Fin 24) (r : CanRx) (s : State) : Host.Outcome State Fault Refusal :=
  .next <| s.served fun s =>
    let f := r.fr
    if s.bankOn then
      if s.canHears n f then
        let s := s.canReceive n
        match s.dapFrame n f with
        | some (tr, b) => s.dapReceive tr b
        | none => if s.flowOn then s.tryKeys (.bus n.val f) r.sof [busKey n.val f] else s
      else s
    else match s.dapFrame n f with
    | some (tr, b) => if s.hazelServing then s.dapReceive tr b else s
    | none => s

end Sys2Proof.Machine
end

