-- ==== Sys2Proof/Machine/Regs.lean ====
section
/-! DEFINITION. The device register space (Table 1.3): how an access is decoded and checked (R27 to R36), and the registers
behind it. Blocks whose registers the spec does not list hold only unassigned offsets (R27). -/
namespace Sys2Proof.Machine

/-- What a register address selects: a block with its instance; `secure` is a Secure block of a domain whose registers the spec does
not list, and `hole` an address that no block covers. -/
inductive Block where
  | ident | power | clocks | mailbox (p : Fin 64) | irq | fault (b : Nat) | dm (n : Nat) | vi (v : Nat) | gateway
  | island (i : Fin 4) | envelope | gpio | timers | window | secure (d : Fin 64) | pcie | hole
  deriving DecidableEq, Repr

/-- The block at an offset of the register space, and the offset within the block (Table 1.3). -/
def blockOf (o : Nat) : Block × Nat :=
  if o < 0x1000 then (.ident, o)
  else if o < 0x01000000 then (.secure 57, o)
  else if o < 0x02000000 then (.power, o)
  else if o < 0x03000000 then (.clocks, o)
  else if o < 0x04000000 then
    if o / 0x20000 % 128 < 64 then (.mailbox (fin 63 (o / 0x20000)), o % 0x20000) else (.hole, o)
  else if o < 0x05000000 then (.secure (fin 63 (44 + o / 0x400000 % 4)), o)
  else if o < 0x06000000 then (.secure (fin 63 (48 + o / 0x800000 % 2)), o)
  else if o < 0x07000000 then (.secure 59, o)
  else if o < 0x08000000 then (.irq, o % 0x1000000)
  else if o < 0x09000000 then (.secure 59, o)
  else if o < 0x0A000000 then (.fault (o / 0x10000 % 256), o % 0x10000)
  else if o < 0x0B000000 then (.dm (o / 0x10000 % 256), o % 0x10000)
  else if o < 0x10000000 then (.hole, o)
  else if o < 0x11000000 then (.vi (o / 0x10000 % 256), o % 0x10000)
  else if o < 0x20000000 then (.gateway, o)
  else if o < 0x30000000 then (.island (fin 3 (o / 0x4000000)), o % 0x4000000)
  else if o < 0x38000000 then (.secure (fin 63 (32 + o / 0x1000000 % 8)), o)
  else if o < 0x40000000 then (.hole, o)
  else if o < 0x50000000 then (.pcie, o)
  else if o < 0x60000000 then (.secure 58, o)
  else if o < 0x70000000 then (.envelope, o % 0x10000000)
  else if o < 0x71000000 then (.secure 60, o)
  else if o < 0x72000000 then (.timers, o)
  else if o < 0x73000000 then (.gpio, o % 0x1000000)
  else if o < 0x74000000 then (.secure 56, o)
  else if o < 0x80000000 then (.hole, o)
  else if o < 0x88000000 then (.window, o % 0x8000000)
  else (.hole, o)

/-- An access to the register space: its memory type, none for a master whose accesses carry none (R543). -/
structure RegAcc where
  m : Master
  t : Option MemType
  addr : Nat
  size : Nat
  deriving DecidableEq, Repr

/-- Offset of the access in the register space. -/
def RegAcc.off (x : RegAcc) : Nat := x.addr % 0x100000000

/-- Whether a block of Table 1.3 is marked Secure. -/
def Block.isSecure : Block → Bool
  | .ident | .fault _ | .island _ | .envelope | .gpio | .secure _ | .pcie => true
  | _ => false

/-- Whether an access is one of the two exceptions of R28 (R294, R37). -/
def normalMay (b : Block) (off : Nat) (write : Bool) : Bool :=
  match b with
  | .ident => !write
  | .island _ => write && decide (0x818 ≤ off ∧ off ≤ 0x88F)
  | _ => false

/-- A Normal master that is not a core reaches only the pages of the channels and VIs that its partition holds (R328). -/
def State.pageOk (s : State) (m : Master) (b : Block) : Bool :=
  if s.masterSecure m then true
  else match m with
  | .core _ | .debug _ _ => true
  | _ => match s.masterPart m, b with
    | some p, .dm n => s.dmPart n == some p
    | some p, .vi v => s.viPart v == some p
    | some _, _ => false
    | none, _ => true

/-- Who may reach a page that belongs to a partition or to one requester (R329, R381, R439, R442). -/
def State.pageMay (s : State) (m : Master) (b : Block) : Bool :=
  match b with
  | .dm n => s.mayDm m (fin 31 n)
  | .vi v => s.mayVi m v
  | .mailbox p => s.mayMail m p
  | .window => (winPage m).isSome
  | _ => true

/-- Whether the block's page has a target at all. -/
def Block.target : Block → Bool
  | .hole => false
  | .dm n => decide (n < 32)
  | .fault b => decide (b < 49)
  | .mailbox p => (mailOwner p).isSome
  | _ => true

/-- Domain of a block whose domain can be off (Table 16.1). -/
def Block.domain : Block → Option (Fin 64)
  | .gateway => some 50
  | .island i => some ⟨40 + i.val, by omega⟩
  | .gpio => some 60
  | .pcie => some 55
  | .secure d => some d
  | _ => none

/-- The memory types of the register space: device types, and DEV-S alone in the window (Table 1.2, R35). -/
def Block.permits (b : Block) (t : MemType) : Bool := t == .devS || (t == .devP && b != .window)

/-- Width and alignment: 4 or 8 bytes, 8 in the window (R29, R35). -/
def Block.sizeOk (b : Block) (a n : Nat) : Bool := (n == 8 || (n == 4 && b != .window)) && decide (a % n = 0)

/-- The error response to an access before its register is looked at (R27 to R35). -/
def State.regErr (s : State) (x : RegAcc) (write : Bool) : Option Resp :=
  let (b, off) := blockOf x.off
  if !s.debugMay x.m || (b.isSecure && !s.masterSecure x.m && !normalMay b off write) then some .wlderr
  else if !b.target then some .decerr
  else if !s.pageOk x.m b || !s.pageMay x.m b then some .wlderr
  else if !(x.t.map b.permits).getD true then some .typerr
  else if (b.domain.map fun d => !s.domOn d).getD false then some .offerr
  else if !b.sizeOk x.addr x.size then some .sizerr
  else none

/-! ## Registers behind the blocks -/

/-- The identification page (Table 1.5): values from the fuses; a board that has not been read counts as grade 1 with
number 0 (log entry 3). -/
def State.identRead (s : State) (m : Master) (off : Nat) : Option Word :=
  let g2 := (s.hazel.board.map (·.g2)).getD false
  let uid := (s.hazel.board.map (·.uid)).getD 0
  match off with
  | 0x00 => some (word (Config.idcode + (if g2 then 2 else 1) * 2 ^ 32))
  | 0x08 => some (uid.setWidth 64)
  | 0x10 => some ((uid >>> 64).setWidth 64)
  | 0x18 => some (word (stopOf m))
  | _ => none

/-- Registers of a mailbox page (Table 14.3). -/
def State.mailRegRead (s : State) (p : Fin 64) (off : Nat) : Option Word :=
  let x := s.mail.get p
  match off with
  | 0x00 => some (x.entry.setWidth 64)
  | 0x08 => some (x.len.setWidth 64)
  | 0x10 => some 0
  | 0x18 => some (word (b2n x.busy + 2 * b2n x.done + x.status.toNat * 256))
  | 0x20 => some (word (b2n x.irqEn))
  | 0x28 => some x.win
  | _ =>
    if 0x10000 ≤ off then some (word (ofBytes ((List.range 8).map fun k => kvGet 0 x.data (off % 0x10000 + k)))) else none

/-- A write to a register of a mailbox page: n bytes from offset off on, v in their place within the 8 bytes. While BUSY
is 1, only MB_STATUS and MB_IRQ_EN take a write (R443). -/
def State.mailRegWrite (s : State) (m : Master) (p : Fin 64) (off : Nat) (v mask : Word) : Option State :=
  let x := s.mail.get p
  match off with
  | 0x00 => some (if x.busy then s else s.modMail p fun y => { y with entry := (mergeBits (y.entry.setWidth 64) v mask).setWidth 24 })
  | 0x08 => some (if x.busy then s else s.modMail p fun y => { y with len := (mergeBits (y.len.setWidth 64) v mask).setWidth 17 })
  | 0x10 => some (s.mailCmd m p (bits (v &&& mask).toNat 1 0))
  | 0x18 => some (s.modMail p fun y => { y with done := y.done && !(v &&& mask).getLsbD 1 }).mailLine
  | 0x20 => some (s.modMail p fun y => { y with irqEn := if mask.getLsbD 0 then v.getLsbD 0 else y.irqEn }).mailLine
  | 0x28 => some s
  | _ =>
    if 0x10000 ≤ off then
      let n := if mask = BitVec.allOnes 64 then 8 else 4
      let hi := if mask.getLsbD 0 then 0 else 4
      some (if x.busy then s else s.modMail p fun y => { y with data := mailPut y.data (off % 0x10000 + hi) (slice (toBytes 8 v.toNat) hi n) })
    else none

/-- A write to a register of a VI's page (Table 11.7). -/
def State.viRegWrite (s : State) (v off : Nat) (w mask : Word) : Option State :=
  match s.viRead v off with
  | none => none
  | some old =>
    let x := mergeBits old w mask
    if off = 0x8000 then some (s.viClear v (w &&& mask))
    else if off = 0x8008 then some ((s.putVi v { s.vi v with en := x.setWidth 35 }).viLine v)
    else if !mask.getLsbD 0 then some s
    else
      let q := fin 15 (off / 0x100)
      match off % 0x100 with
      | 0x00 => some (s.txTailWrite v q (x.setWidth 16))
      | 0x10 => some (s.rxTailWrite v q (x.setWidth 16))
      | _ => some s

/-- A write to a register of the envelope block (Table 13.4). -/
def State.envRegWrite (s : State) (off : Nat) (v mask : Word) : Option State :=
  match off with
  | 0x08 => some (s.envClear (v &&& mask))
  | 0x10 => some ({ s with env := { s.env with en := (mergeBits (s.env.en.setWidth 64) v mask).setWidth 6 } }).envLine
  | _ => none

/-- Which half an access to IRQ_ACK or VIRQ_ACK reads (R545). -/
def RegAcc.ack (x : RegAcc) : AckAcc := if x.size = 8 then .full else if x.addr % 8 = 0 then .low else .high

/-- The eight bytes that hold the addressed register (R30). -/
def State.blockRead (s : State) (x : RegAcc) (b : Block) (off : Nat) : State × Except Resp Word :=
  let res (o : Option Word) : State × Except Resp Word := (s, match o with
    | some v => .ok v
    | none => .error .decerr)
  match b with
  | .ident => res (s.identRead x.m off)
  | .mailbox p =>
    if off = 0x28 ∧ winPage x.m = some p ∧ s.winBusy x.m = true then ({ s with held := true }, .ok 0)
    else res (s.mailRegRead p off)
  | .irq => s.irqRegRead x.m off x.ack
  | .fault k => res (s.fbRead (fin 48 k) off)
  | .dm n => res (s.dmRead (fin 31 n) off)
  | .vi v => res (s.viRead v off)
  | .island i => res (s.islRead i off)
  | .envelope => res (s.envRead off)
  | .gpio => res (s.gpioRead off)
  | .window =>
    let (s, v) := s.windowRead x.m (off / 8)
    (s, .ok v)
  | _ => (s, .error .decerr)

/-- Read the 8-byte register that an access lies in. -/
def State.regRead8 (s : State) (x : RegAcc) : State × Except Resp Word :=
  s.blockRead x (blockOf (x.off / 8 * 8)).1 (blockOf (x.off / 8 * 8)).2

/-- A register read: the bytes of the access (R29). -/
def State.regRead (s : State) (x : RegAcc) : State × Except Resp Word :=
  match s.regErr x false with
  | some r => (s, .error r)
  | none =>
    match (s.meshRead x.m x.addr x.size).regRead8 x with
    | (s, .ok v) => (s, .ok (if x.size = 8 then v else if x.addr % 8 = 0 then v &&& 0xFFFFFFFF else v >>> 32))
    | (s, .error r) => (s, .error r)

/-- A write of the masked bits of a register's eight bytes. -/
def State.blockWrite (s : State) (x : RegAcc) (v mask : Word) (b : Block) (off : Nat) : Except Resp State :=
  let res (o : Option State) : Except Resp State := match o with
    | some s => .ok s
    | none => .error .decerr
  match b with
  | .ident => .error .typerr
  | .mailbox p => res (s.mailRegWrite x.m p off v mask)
  | .irq => s.irqRegWrite x.m off v mask
  | .fault k => res (s.fbWrite (fin 48 k) off (v &&& mask))
  | .dm n => res (s.dmRegWrite (fin 31 n) off v)
  | .vi k => res (s.viRegWrite k off v mask)
  | .island i =>
    if 0x818 ≤ off ∧ off ≤ 0x888 then res (s.islWrite i off v mask)
    else if (s.islRead i off).isSome then .error .typerr
    else .error .decerr
  | .envelope => match s.envRegWrite off v mask with
    | some s => .ok s
    | none => .error .typerr
  | .gpio => res (s.gpioWrite off v)
  | .window => .ok (s.windowWrite x.m (off / 8) v)
  | _ => .error .decerr

/-- Write the bytes of an 8-byte register that a mask names. -/
def State.regWrite8 (s : State) (x : RegAcc) (v mask : Word) : Except Resp State :=
  s.blockWrite x v mask (blockOf (x.off / 8 * 8)).1 (blockOf (x.off / 8 * 8)).2

/-- Whether the upper half of a block's registers holds fields that a write changes. -/
def Block.upper : Block → Bool
  | .vi _ | .mailbox _ => true
  | _ => false

/-- A register write, single-copy atomic (R30): the half selected by address bit 2, or all eight bytes (R29). A write that
is refused changes nothing (R31); one of an upper half without fields changes no register either. -/
def State.regWrite (s : State) (x : RegAcc) (v : Word) : Except Resp State :=
  match s.regErr x true with
  | some r => .error r
  | none =>
    let s := s.meshWrite x.m x.addr x.size
    if x.size = 8 then s.regWrite8 x v (BitVec.allOnes 64)
    else if x.addr % 8 = 0 then s.regWrite8 x (v &&& 0xFFFFFFFF) 0xFFFFFFFF
    else
      match s.regWrite8 x (v <<< 32) 0xFFFFFFFF00000000 with
      | .ok t => .ok (if (blockOf x.off).1.upper then t else s)
      | .error r => .error r

end Sys2Proof.Machine
end

