-- ==== Sys2Proof/Machine/Translate.lean ====
section
/-! DEFINITION. Address translation of the A-cores: the direct map (R168), walks (R179), brackets (R177), accessed and dirty
bits (R181), the TLBs and walk caches (R185 to R187), invalidation (R188), and the syndromes of the faults (R193). -/
namespace Sys2Proof.Machine

/-- Change an A-core. -/
def State.modA (s : State) (c : Fin 32) (f : ACore → ACore) : State := { s with acore := vmod s.acore c f }

/-- Note an event of Table 3.7 of the instruction under way, once; it counts when the instruction commits (R125). -/
def State.note (s : State) (c : Fin 32) (e : Nat) : State :=
  s.modA c fun a => { a with evs := if a.evs.contains e then a.evs else a.evs ++ [e] }

/-- An exception with its syndrome (Tables 4.3 and 4.7); `toH` says that it is taken at level H from any position. -/
structure Exn where
  vec : Nat
  cause : Nat
  info : Nat
  va : Word
  wr : Bool
  s2 : Bool
  toH : Bool
  deriving DecidableEq, Repr

/-- An exception taken at the position that raised it, ring 0 or level H (R146). -/
def exn (vec cause info : Nat) (va : Word) : Exn := ⟨vec, cause, info, va, false, false, false⟩

/-- An access to translate: the core, its ring (none at level H), the husk it is inside, the kind of access, whether the
read and the write bracket both apply (R177), whether A and D are updated (R181, R187), and whether brackets and husks are checked:
a look at the memory type alone checks neither. -/
structure XCtx where
  c : Fin 32
  ring : Option Nat
  husk : Option Nat
  kind : Acc
  both : Bool
  ad : Bool
  chk : Bool
  deriving DecidableEq, Repr

/-- The context of an access that the core's instruction makes. -/
def State.ctx (s : State) (c : Fin 32) (kind : Acc) (both : Bool) : XCtx :=
  let a := s.acore.get c
  ⟨c, if s.hasH && a.lh then none else some a.ring, a.inHusk, kind, both, true, true⟩

/-- The ring that brackets are checked for. -/
def XCtx.r (k : XCtx) : Nat := k.ring.getD 0
/-- Whether the access writes. -/
def XCtx.wr (k : XCtx) : Bool := k.kind == .write

/-! ## Types and brackets -/

/-- Type of a code (Table 5.5). -/
def typeOf : Nat → Option MemType
  | 0 => some .wb | 1 => some .wbNwa | 2 => some .wt | 3 => some .nc | 4 => some .devS | 5 => some .devP | _ => none

/-- Place of a type in the order of R178. -/
def typeRank : MemType → Nat
  | .wb => 0 | .wbNwa => 1 | .wt => 2 | .nc => 3 | .devP => 4 | .devS => 5

/-- The combined type of two stages (R178). -/
def typeJoin (a b : MemType) : MemType := if typeRank a < typeRank b then b else a

/-- Read, write and execute brackets. -/
structure Br where
  r : Nat
  w : Nat
  x : Nat
  deriving DecidableEq, Repr

/-- Brackets that allow every ring: those of the direct map (R168). -/
def Br.all : Br := ⟨3, 3, 3⟩

/-- Whether a bracket brAdmits a ring (R177); 0b100 admits none. -/
def brAdmits (b ring : Nat) : Bool := decide (b < 4 ∧ ring ≤ b)

/-- The brackets that apply to an access, with the cause each refuses by (R177). -/
def XCtx.needs (k : XCtx) (b : Br) : List (Nat × Nat) :=
  match k.kind with
  | .exec => [(3, b.x)]
  | .read => if k.both then [(1, b.r), (2, b.w)] else [(1, b.r)]
  | .write => if k.both then [(1, b.r), (2, b.w)] else [(2, b.w)]

/-- The cause and the bracket that refuse an access. -/
def XCtx.refused (k : XCtx) (b : Br) : Option (Nat × Nat) :=
  if k.chk then (k.needs b).find? fun p => !brAdmits p.2 k.r else none

/-! ## Table entries (R175, R176) -/

/-- Shift of a level's index. -/
def lvlShift (lvl : Nat) : Nat := 39 - 9 * lvl
/-- The index of an address at a level (Table 5.6). -/
def lvlIdx (x lvl : Nat) : Nat := bits x (47 - 9 * lvl) (lvlShift lvl)

/-- The cause by which a valid entry faults at a level (R176). -/
def entryCause (stage2 : Bool) (lvl e : Nat) : Option Nat :=
  let t := bits e 2 1
  if !(if lvl = 0 then t == 1 else if lvl = 3 then t == 3 else t == 1 || t == 2) then some 5
  else if t = 1 then (if bits e 11 3 ≠ 0 ∨ bits e 55 44 ≠ 0 then some 6 else none)
  else if bits e 11 9 ≠ 0 ∨ bits e 55 53 ≠ 0 ∨ (stage2 ∧ bit e 8 = true) ∨ bits e (lvlShift lvl) 12 % 2 ^ (lvlShift lvl - 12) ≠ 0 then some 6
  else if 4 < bits e 46 44 ∨ 4 < bits e 49 47 ∨ 4 < bits e 52 50 then some 7
  else if stage2 ∧ (typeOf (bits e 5 3)).isNone then some 7
  else none

/-- A leaf that a walk found, with the table entries on its way. -/
structure Leaf where
  e : Nat
  ea : Nat
  lvl : Nat
  path : List WalkEnt
  deriving DecidableEq, Repr

/-- Address of an entry's table or page. -/
def entAddr (e : Nat) : Nat := bits e 43 12 * 4096
/-- Brackets of a leaf. -/
def Leaf.br (l : Leaf) : Br := ⟨bits l.e 46 44, bits l.e 49 47, bits l.e 52 50⟩
/-- log2 of a leaf's size (Table 5.6). -/
def Leaf.bits (l : Leaf) : Nat := lvlShift l.lvl
/-- Output of a leaf for an address. -/
def Leaf.out (l : Leaf) (x : Nat) : Nat := entAddr l.e + x % 2 ^ l.bits

/-! ## Tags (R186) -/

/-- The partition that tags an entry; absent in HUSK mode. -/
def State.tagPart (s : State) (c : Fin 32) : Option Nat := if s.hasH then some (s.acore.get c).part.toNat else none

/-- A walk-cache entry of an address at a level, where the core holds one for its current context. -/
def State.walkHit (s : State) (c : Fin 32) (stage2 : Bool) (lvl x : Nat) : Option Nat :=
  let a := s.acore.get c
  (a.walk.find? fun w => w.stage2 == stage2 && w.level == lvl && w.tag == x / 2 ^ lvlShift lvl && w.world == a.secure &&
    w.part == s.tagPart c && (stage2 || w.pcid == a.pcid)).map (·.entry.toNat)

/-- Put an element into a structure of n entries in sets of some ways: once a set may be full, a free choice says whether
the element takes the place of another, and of which; the spec does not say which set an element falls into (R185, log
entry 16). -/
def State.insertFree {α : Type} [DecidableEq α] (s : State) (n ways : Nat) (l : List α) (x : α) : State × List α :=
  if l.contains x then (s, l)
  else if l.length < ways then (s, l ++ [x])
  else
    let t := { s with fresh := s.fresh + 1 }
    if l.length < n && Config.freeBool s.fresh then (t, l ++ [x])
    else (t, l.eraseIdx (Config.freeNat s.fresh % l.length) ++ [x])

/-- Capacity of a walk cache (Table 5.8). -/
def walkCap (stage2 : Bool) : Nat := if stage2 then 256 else 512
/-- Capacity of a TLB (Table 5.8). -/
def tlbCap : TlbWhere → Nat
  | .itlb => 64 | .dtlb => 96 | .l2 => 3072
/-- Ways of a TLB; the first-level ones are fully associative (Table 5.8). -/
def tlbWays : TlbWhere → Nat
  | .itlb => 64 | .dtlb => 96 | .l2 => 12

/-- A walk cache takes an entry. -/
def State.walkPut (s : State) (c : Fin 32) (w : WalkEnt) : State :=
  let all := (s.acore.get c).walk
  let (s, l) := s.insertFree (walkCap w.stage2) 4 (all.filter fun x => x.stage2 == w.stage2) w
  s.modA c fun a => { a with walk := (all.filter fun x => x.stage2 != w.stage2) ++ l }

/-- A TLB takes an entry. -/
def State.tlbPut (s : State) (c : Fin 32) (e : TlbEnt) : State :=
  let all := (s.acore.get c).tlb
  let (s, l) := s.insertFree (tlbCap e.wher) (tlbWays e.wher) (all.filter fun x => x.wher == e.wher) e
  s.modA c fun a => { a with tlb := (all.filter fun x => x.wher != e.wher) ++ l }

/-! ## Walks (R179) -/

/-- A walk of one stage by a reader of entries: `n` levels remain, `base` is the table's address. A table entry comes from
a walk cache where the core holds it. -/
def State.walkGo (k : XCtx) (stage2 : Bool) (x : Nat) (read : Nat → Nat → State → State × Except Exn Nat)
    (flt : Nat → Nat → Exn) : Nat → Nat → List WalkEnt → State → State × Except Exn Leaf
  | 0, _, _, s => (s, .error (flt 4 3))
  | n + 1, base, path, s =>
    let lvl := 3 - n
    let ea := base + 8 * lvlIdx x lvl
    let r : State × Except Exn Nat := match s.walkHit k.c stage2 lvl x with
      | some e => (s, .ok e)
      | none => read lvl ea s
    match r with
    | (s, .error f) => (s, .error f)
    | (s, .ok e) =>
      if !bit e 0 then (s, .error (flt 4 lvl))
      else match entryCause stage2 lvl e with
        | some cause => (s, .error (flt cause lvl))
        | none =>
          if bits e 2 1 = 1 then
            let a := s.acore.get k.c
            let w : WalkEnt := ⟨stage2, a.secure, s.tagPart k.c, if stage2 then 0 else a.pcid, lvl, x / 2 ^ lvlShift lvl, word e⟩
            State.walkGo k stage2 x read flt n (entAddr e) (path ++ [w]) s
          else (s, .ok ⟨e, ea, lvl, path⟩)

/-- A walk that found a leaf leaves its table entries in the walk cache (R187). -/
def State.walkDone (s : State) (c : Fin 32) (l : Leaf) : State := l.path.foldl (fun s w => s.walkPut c w) s

/-- A read of eight bytes by a walk under a memory type: an error response (R20, R31), a husk range recorded by its home agent (R339),
or the entry and whether it is poisoned; a slice that recorded FATAL answers with poison (R509), and so does a TCM or shared-SRAM
word with an uncorrectable error (R25). -/
def State.walkRead (s : State) (k : XCtx) (p : Nat) (t : MemType) : State × Except Resp (Nat × Bool) :=
  match s.accessErr (.core k.c) (some t) p 8 false with
  | some r => (s, .error r)
  | none =>
    if s.huskRefuses (.core k.c) k.husk p then (s.huskRecord (.core k.c) p, .error .wlderr)
    else if (s.region p).isHbm then
      let (s, d, poison) := s.homePeek (p / 64) (.core k.c)
      (s, .ok (ofBytes (slice (lineBytesOf d) (p % 64) 8), poison || s.fatalBank (bankSlice (homeIdx (p / 64)))))
    else
      let (s, b, poison) := s.memRead (.core k.c) p 8
      (s, .ok (ofBytes b, poison))

/-- XVA of a stage-2 fault and of the others. -/
def natWord (n : Nat) : Word := word n

/-- A fault of a stage-2 walk for an IPA (Table 5.10); `tbl` marks the translation of a stage-1 table read or update. -/
def stage2Exn (k : XCtx) (ipa : Nat) (tbl : Bool) (cause lvl : Nat) : Exn :=
  ⟨11, cause, lvl + (if tbl then 4 else 0), natWord ipa, k.wr, true, true⟩

/-- Read a stage-2 entry: it must lie in memory that is no device (R182 to R184). -/
def State.read2 (k : XCtx) (ipa lvl ea : Nat) (s : State) : State × Except Exn Nat :=
  if !inHbm ea then (s, .error ⟨12, 2, lvl, natWord ea, k.wr, true, true⟩)
  else match s.walkRead k ea .wb with
    | (s, .error _) => (s, .error ⟨11, 8, lvl, natWord ipa, k.wr, true, true⟩)
    | (s, .ok (_, true)) => (s, .error ⟨17, 3, lvl + 4, natWord ea, k.wr, true, true⟩)
    | (s, .ok (e, false)) => (s, .ok e)

/-- The stage-2 walk of an IPA for the partition that PART names. -/
def State.walk2 (s : State) (k : XCtx) (ipa : Nat) (tbl : Bool) : State × Except Exn Leaf :=
  State.walkGo k true ipa (State.read2 k ipa) (stage2Exn k ipa tbl) 4 (bits (s.acore.get k.c).ttbh.toNat 43 12 * 4096) [] s

/-- An entry with A set, and D for a write (R181). -/
def adSet (e : Nat) (write : Bool) : Nat := e ||| 0x40 ||| (if write then 0x80 else 0)

/-- Compare and swap an entry at a physical address (R181): at its home agent, or, for a guest's table outside HBM, in that memory.
What becomes of a table beyond the PCIe link is not the device's. -/
def State.casEntry (s : State) (c : Fin 32) (p seen : Nat) (write : Bool) : State × Bool :=
  if (s.region p).isHbm then
    let (s, old, _) := s.homeAtomic p 8 .cas (word (adSet seen write)) (word seen) (.core c)
    (s, ofBytes old == seen)
  else if s.region p = .pcie then (s, true)
  else
    let (s, old, _) := s.memRead (.core c) p 8
    if ofBytes old = seen then (s.memWrite (.core c) p (toBytes 8 (adSet seen write)) false, true) else (s, false)

/-- Whether a leaf has to be updated for an access (R181). -/
def XCtx.mustSet (k : XCtx) (e : Nat) (write : Bool) : Bool := k.ad && adSet e write != e

/-- Update a leaf at a physical address where it has to be; false where the comparison fails (R181). -/
def State.updateAt (s : State) (k : XCtx) (p e : Nat) (write : Bool) : State × Bool :=
  if k.mustSet e write then s.casEntry k.c p e write else (s, true)

/-- The stage-2 fault of a bracket (Table 5.10); `tbl` and `upd` are INFO[2] and INFO[3]. -/
def bracket2 (k : XCtx) (ring cause ipa : Nat) (tbl upd : Bool) : Exn :=
  ⟨11, 0x10 + cause, ring + (if tbl then 4 else 0) + (if upd then 8 else 0), natWord ipa, k.wr || upd, true, true⟩

/-- A stage-2 translation of a stage-1 table page that the core's L2 TLB holds. -/
def State.tblHit (s : State) (c : Fin 32) (ipa : Nat) (write : Bool) : Option TlbEnt :=
  let a := s.acore.get c
  a.tlb.find? fun e => e.stage2 && e.world == a.secure && e.part == s.tagPart c && e.va == ipa / 2 ^ e.bits * 2 ^ e.bits &&
    (!write || e.dirty)

/-- One try at the stage-2 translation of a stage-1 table page as a ring-0 read, or as a ring-0 write for an update of an entry (R177,
R181): its address and type; none where the update of the stage-2 leaf failed. -/
def State.tblOnce (s : State) (k : XCtx) (ipa : Nat) (write : Bool) : State × Except Exn (Option (Nat × MemType)) :=
  match s.walk2 k ipa true with
  | (s, .error f) => (s, .error { f with info := f.info + (if write ∧ f.vec = 11 ∧ f.cause ≠ 8 then 8 else 0), wr := f.wr || write })
  | (s, .ok l) =>
    if brAdmits (if write then l.br.w else l.br.r) 0 then
      match s.updateAt k l.ea l.e write with
      | (s, false) => (s, .ok none)
      | (s, true) =>
        let s := s.walkDone k.c l
        let e := if k.ad then adSet l.e write else l.e
        let a := s.acore.get k.c
        let t : TlbEnt := ⟨.l2, true, a.secure, s.tagPart k.c, 0, false, ipa / 2 ^ l.bits * 2 ^ l.bits, l.bits, entAddr l.e, none, none,
          some (BitVec.ofNat 3 (bits l.e 5 3)), 0, 0, 0, l.br.r, l.br.w, l.br.x, bit e 7⟩
        let s := if bit e 6 then s.tlbPut k.c t else s
        (s, .ok (some (l.out ipa, (typeOf (bits l.e 5 3)).getD .wb)))
    else (s, .error (bracket2 k 0 (if write then 2 else 1) ipa true write))

/-- Walks that start again after a failed comparison before the access waits (R181): competing updates of one walk are at most
those of its own two stages. -/
def walkTries : Nat := 4

/-- Try n times; an access whose walks keep failing waits (R181). -/
def tryWalk {α : Type} (f : State → State × Except Exn (Option α)) : Nat → State → State × Except Exn α
  | 0, s => ({ s with held := true }, .error (exn 0 0 0 0))
  | n + 1, s => match f s with
    | (s, .error e) => (s, .error e)
    | (s, .ok none) => tryWalk f n s
    | (s, .ok (some x)) => (s, .ok x)

/-- The physical address and type of a stage-1 entry of a guest, by stage 2 as a ring-0 read, or as a ring-0 write for an
update of the entry (R177, R181). -/
def State.tblPage (s : State) (k : XCtx) (ipa : Nat) (write : Bool) : State × Except Exn (Nat × MemType) :=
  match s.tblHit k.c ipa write with
  | some e =>
    if brAdmits (if write then e.wrb2 else e.rdb2) 0 then
      (s, .ok (e.pa + (ipa - e.va), ((e.s2type.map (·.toNat)).bind typeOf).getD .wb))
    else (s, .error (bracket2 k 0 (if write then 2 else 1) ipa true write))
  | none => tryWalk (fun s => s.tblOnce k ipa write) walkTries s

/-- Type of the direct map for an output address (R168). -/
def directType (a : Nat) : MemType := if inHbm a then .wb else .devS

/-- Whether a type is a device type. -/
def isDev : MemType → Bool
  | .devS | .devP => true
  | _ => false

/-- Read a stage-1 entry (R179, R182 to R184). -/
def State.read1 (k : XCtx) (lvl ea : Nat) (s : State) : State × Except Exn Nat :=
  let r : State × Except Exn (Nat × MemType) := if s.hasH then s.tblPage k ea false else (s, .ok (ea, directType ea))
  match r with
  | (s, .error f) => (s, .error f)
  | (s, .ok (p, t)) =>
    if isDev t then (s, .error ⟨12, 1, lvl, natWord ea, k.wr, s.hasH, s.hasH⟩)
    else match s.walkRead k p t with
      | (s, .error r) => (s, .error ⟨14, respCode r, 0, natWord ea, k.wr, false, false⟩)
      | (s, .ok (_, true)) => (s, .error ⟨17, 3, lvl, natWord ea, k.wr, false, false⟩)
      | (s, .ok (e, false)) => (s, .ok e)

/-- Vector of a stage-1 translation fault. -/
def XCtx.xvec (k : XCtx) : Nat := if k.kind = .exec then 8 else 9

/-- A stage-1 translation fault (Table 5.10). -/
def XCtx.xlat (k : XCtx) (va : Word) (cause info : Nat) : Exn := ⟨k.xvec, cause, info, va, k.wr, false, false⟩

/-- The stage-1 walk of a VA. -/
def State.walk1 (s : State) (k : XCtx) (va : Word) : State × Except Exn Leaf :=
  let a := s.acore.get k.c
  let base := bits (if va.getLsbD 63 then a.ttb1 else a.ttb0).toNat 43 12 * 4096
  State.walkGo k false (bits va.toNat 47 0) (State.read1 k) (fun cause lvl => k.xlat va cause lvl) 4 base [] s

/-- Type of an attribute index by the live MAT (R172, R173). -/
def ACore.matType (a : ACore) (ai : Nat) : Option MemType := typeOf (bits a.mat.toNat (8 * ai + 2) (8 * ai))

/-- The result of a translation. -/
structure Xlat where
  pa : Nat
  type : MemType
  deriving DecidableEq, Repr

/-- The direct map (R168). -/
def XCtx.direct (k : XCtx) (va : Word) : Except Exn Nat :=
  if va.toNat / 2 ^ 44 ≠ 0 then .error (k.xlat va 3 0) else .ok (va.toNat % 2 ^ 44)

/-- A bracket fault of stage 1 (Table 5.10). -/
def XCtx.bracket1 (k : XCtx) (va : Word) (p : Nat × Nat) : Exn := ⟨10, p.1, k.r + p.2 * 16, va, k.wr, false, false⟩

/-- Stage 2 of an access whose stage 1 gave an IPA and a type: the leaf, checked. -/
def State.stage2 (s : State) (k : XCtx) (ipa : Nat) : State × Except Exn Leaf :=
  match s.walk2 k ipa false with
  | (s, .error f) => (s, .error f)
  | (s, .ok l) => match k.refused l.br with
    | some p => (s, .error (bracket2 k k.r p.1 ipa false false))
    | none => (s, .ok l)

/-- Update the stage-1 leaf of a walk (R181); a guest's update is translated by stage 2 as a write. False where the comparison
fails. A target that refuses the write answers as it does an atomic instruction (log entry 23). -/
def State.update1 (s : State) (k : XCtx) (l : Leaf) : State × Except Exn Bool :=
  if !k.mustSet l.e k.wr then (s, .ok true)
  else
    let at_ : State × Except Exn (Nat × MemType) := if s.hasH then s.tblPage k l.ea true else (s, .ok (l.ea, .wb))
    match at_ with
    | (s, .error f) => (s, .error { f with wr := true })
    | (s, .ok (p, t)) =>
      match s.accessErr (.core k.c) (some t) p 8 true with
      | some r => (s, .error { exn 14 (respCode r) 0 (natWord l.ea) with wr := true })
      | none => match s.casEntry k.c p l.e k.wr with
        | (s, ok) => (s, .ok ok)

/-- TLB entries of the core that may serve an access (R173, R186, R187). -/
def State.tlbHits (s : State) (k : XCtx) (va : Word) : List TlbEnt :=
  let a := s.acore.get k.c
  let x := bits va.toNat 47 0
  a.tlb.filter fun e =>
    !e.stage2 && e.world == a.secure && e.part == s.tagPart k.c && (e.global || e.pcid == a.pcid) &&
    e.va == x / 2 ^ e.bits * 2 ^ e.bits && (e.wher == .l2 || e.wher == (if k.kind = .exec then .itlb else .dtlb)) &&
    (!k.wr || e.dirty) && ((e.attr.map (·.toNat)).bind a.matType).isSome

/-- Serve an access by a TLB entry: its brackets are checked, and the first-level TLB takes it from the L2 TLB. -/
def State.tlbServe (s : State) (k : XCtx) (va : Word) (e : TlbEnt) : State × Except Exn Xlat :=
  let x := bits va.toNat 47 0
  let off := x - e.va
  match k.refused ⟨e.rdb, e.wrb, e.exb⟩ with
  | some p => (s, .error (k.bracket1 va p))
  | none => match e.ipa, k.refused ⟨e.rdb2, e.wrb2, e.exb2⟩ with
    | some i, some p => (s, .error (bracket2 k k.r p.1 (i + off) false false))
    | _, _ =>
      let t1 := (((e.attr.map (·.toNat)).bind (s.acore.get k.c).matType)).getD .wb
      let t2 := ((e.s2type.map (·.toNat)).bind typeOf).getD .wb
      (s.tlbPut k.c { e with wher := if k.kind = .exec then .itlb else .dtlb }, .ok ⟨e.pa + off, typeJoin t1 t2⟩)

/-- The combined translation of a walk (R178, R186). -/
def State.combined (s : State) (k : XCtx) (va : Word) (l1 : Leaf) (ipa : Nat) (l2 : Option Leaf) : TlbEnt :=
  let a := s.acore.get k.c
  let x := bits va.toNat 47 0
  let n := min l1.bits ((l2.map (·.bits)).getD 47)
  let pa := (l2.map fun l => l.out ipa).getD ipa
  let b2 := (l2.map (·.br)).getD Br.all
  let d (l : Leaf) : Bool := bit l.e 7 || (k.ad && k.wr)
  { wher := .l2, stage2 := false, world := a.secure, part := s.tagPart k.c, pcid := a.pcid, global := bit l1.e 8,
    va := x / 2 ^ n * 2 ^ n, bits := n, pa := pa / 2 ^ n * 2 ^ n, ipa := l2.map fun _ => ipa / 2 ^ n * 2 ^ n,
    attr := some (BitVec.ofNat 3 (bits l1.e 5 3)), s2type := l2.map fun l => BitVec.ofNat 3 (bits l.e 5 3),
    rdb := l1.br.r, wrb := l1.br.w, exb := l1.br.x, rdb2 := b2.r, wrb2 := b2.w, exb2 := b2.x,
    dirty := d l1 && (l2.map d).getD true }

/-- The first-level and the L2 TLB take a combined translation. -/
def State.tlbFill (s : State) (k : XCtx) (e : TlbEnt) : State :=
  (s.tlbPut k.c e).tlbPut k.c { e with wher := if k.kind = .exec then .itlb else .dtlb }

/-- Stage 1 of a disabled half at ring 0, followed by stage 2 where it applies (R169, R170); no combined translation is kept. None
where an update failed. -/
def State.directRing0 (s : State) (k : XCtx) (va : Word) : State × Except Exn (Option Xlat) :=
  match k.direct va with
  | .error f => (s, .error f)
  | .ok oa =>
    if !s.hasH then (s, .ok (some ⟨oa, directType oa⟩))
    else match s.stage2 k oa with
      | (s, .error f) => (s, .error f)
      | (s, .ok l) => match s.updateAt k l.ea l.e k.wr with
        | (s, false) => (s, .ok none)
        | (s, true) =>
          (s.walkDone k.c l, .ok (some ⟨l.out oa, typeJoin (directType oa) ((typeOf (bits l.e 5 3)).getD .wb)⟩))

/-- The stage-2 leaf of a walk's output where stage 2 applies. -/
def State.stage2? (s : State) (k : XCtx) (oa : Nat) : State × Except Exn (Option Leaf) :=
  if !s.hasH then (s, .ok none)
  else match s.stage2 k oa with
    | (s, .ok l) => (s, .ok (some l))
    | (s, .error f) => (s, .error f)

/-- The updates of a walk's leaves, stage 1 before stage 2; false where a comparison fails (R179, R181). -/
def State.updateBoth (s : State) (k : XCtx) (l1 : Leaf) (l2 : Option Leaf) : State × Except Exn Bool :=
  match s.update1 k l1 with
  | (s, .error f) => (s, .error f)
  | (s, .ok false) => (s, .ok false)
  | (s, .ok true) => match l2 with
    | none => (s, .ok true)
    | some l => match s.updateAt k l.ea l.e k.wr with
      | (s, ok) => (s, .ok ok)

/-- One walk of R179 for an enabled half, with its updates and what it leaves in the TLBs and walk caches; a walk that faults leaves
nothing (R187). None where an update failed, and the walk has to start again (R181). -/
def State.walkOnce (s : State) (k : XCtx) (va : Word) : State × Except Exn (Option Xlat) :=
  match s.walk1 k va with
  | (s, .error f) => (s, .error f)
  | (s, .ok l1) =>
    match (s.acore.get k.c).matType (bits l1.e 5 3) with
    | none => (s, .error (k.xlat va 7 l1.lvl))
    | some t1 =>
      match k.refused l1.br with
      | some p => (s, .error (k.bracket1 va p))
      | none =>
        let oa := l1.out (bits va.toNat 47 0)
        match s.stage2? k oa with
        | (s, .error f) => (s, .error f)
        | (s, .ok l2) =>
          match s.updateBoth k l1 l2 with
          | (s, .error f) => (s, .error f)
          | (s, .ok false) => (s, .ok none)
          | (s, .ok true) =>
            let s := s.walkDone k.c l1
            let s := match l2 with
              | some l => s.walkDone k.c l
              | none => s
            let e := s.combined k va l1 oa l2
            let fill := k.ad || (bit l1.e 6 && (l2.map fun l => bit l.e 6).getD true)
            let s := if fill then s.tlbFill k e else s
            let t := typeJoin t1 ((l2.bind fun l => typeOf (bits l.e 5 3)).getD .wb)
            (s, .ok (some ⟨(l2.map fun l => l.out oa).getD oa, t⟩))

/-- The walk of R179, started again where an update fails (R181). -/
def State.walkBoth (s : State) (k : XCtx) (va : Word) : State × Except Exn Xlat := tryWalk (fun s => s.walkOnce k va) walkTries s

/-- The first-level TLB of a kind of access. -/
def accTlb : Acc → TlbWhere
  | .exec => .itlb
  | .read | .write => .dtlb

/-- The misses of an access in the DTLB and in the L2 TLB are events of its instruction (Table 3.7). -/
def State.noteTlb (s : State) (k : XCtx) (hits : List TlbEnt) : State :=
  if !k.ad || hits.any (·.wher == accTlb k.kind) then s
  else
    let s := if k.kind = .exec then s else s.note k.c 0x0D
    if hits.isEmpty then s.note k.c 0x0E else s

/-- Whether the bits [63:47] of a VA are all equal (R169). -/
def canonical (va : Word) : Bool := bits va.toNat 63 47 == 0 || bits va.toNat 63 47 == 0x1FFFF

/-- Translate one access (R167, R179). -/
def State.translate (s : State) (k : XCtx) (va : Word) : State × Except Exn Xlat :=
  match k.ring with
  | none => (s, (k.direct va).map fun oa => ⟨oa, directType oa⟩)
  | some ring =>
    if !canonical va then (s, .error (k.xlat va 1 0))
    else if !(s.acore.get k.c).tcr.getLsbD (b2n (va.getLsbD 63)) then
      if ring ≠ 0 then (s, .error (k.xlat va 2 0)) else tryWalk (fun s => s.directRing0 k va) walkTries s
    else
      let hits := s.tlbHits k va
      let s := s.noteTlb k hits
      match hits with
      | [] => s.walkBoth k va
      | e :: r =>
        match r with
        | [] => s.tlbServe k va e
        | _ => match s.pick (e :: r) with
          | (some x, s) => s.tlbServe k va x
          | (none, s) => s.tlbServe k va e

/-! ## Checks on the physical address (R170, R338, R339, R31) -/

/-- The husk check of an access (Table 10.4). -/
def State.huskExn (s : State) (k : XCtx) (va : Word) (pa : Nat) : Option Exn :=
  let at_ := if k.chk then s.huskAt pa else k.husk
  let outside := match at_ with
    | some h => k.husk != some h
    | none => false
  if outside then some { exn 19 (if k.kind = .exec then 2 else 1) 0 va with wr := k.wr }
  else if k.kind = .exec && k.husk.isSome && at_ != k.husk then some (exn 19 5 0 va)
  else none

/-- Translate and check one access by a husk's ranges. -/
def State.xlate (s : State) (k : XCtx) (va : Word) : State × Except Exn Xlat :=
  match s.translate k va with
  | (s, .error f) => (s, .error f)
  | (s, .ok x) => match s.huskExn k va x.pa with
    | some f => (s, .error f)
    | none => (s, .ok x)

/-- An access of n bytes in its pages: the lower page before the upper (R120). -/
def pageParts (va : Word) (n : Nat) : List (Word × Nat) :=
  let here := min n (4096 - va.toNat % 4096)
  if here = n then [(va, n)] else [(va, here), (va + word here, n - here)]

/-- Translate every page of an access: the parts with their bytes. -/
def State.xlateParts (k : XCtx) : List (Word × Nat) → State → State × Except Exn (List (Xlat × Word × Nat))
  | [], s => (s, .ok [])
  | (va, n) :: r, s =>
    match s.xlate k va with
    | (s, .error f) => (s, .error f)
    | (s, .ok x) => match State.xlateParts k r s with
      | (s, .error f) => (s, .error f)
      | (s, .ok l) => (s, .ok ((x, va, n) :: l))

/-- The lines that the parts of an access touch: address, type, VA and bytes. -/
def lineAccs (l : List (Xlat × Word × Nat)) : List (Nat × MemType × Word × Nat) :=
  l.flatMap fun p => (partsOf p.1.pa p.2.2).map fun q => (q.1, p.1.type, p.2.1 + word (q.1 - p.1.pa), q.2)

/-! ## Invalidation (Table 5.9) -/

/-- Whether an entry's tag lies in the scope of a partition-wide operation. -/
def inScope (world : Bool) (part : Option Nat) (w : Bool) (p : Option Nat) : Bool := w == world && (part.isNone || p == part)

/-- Whether an operation removes a TLB entry. -/
def TlbOp.hitsTlb (op : TlbOp) (world : Bool) (part : Option Nat) (e : TlbEnt) : Bool :=
  let covers (a : Nat) : Bool := e.va == a / 2 ^ e.bits * 2 ^ e.bits
  let ipaIn (a : Nat) : Bool := match e.ipa with
    | some i => i == a / 2 ^ e.bits * 2 ^ e.bits
    | none => false
  match op with
  | .va v p => inScope world part e.world e.part && !e.stage2 && covers (bits v.toNat 47 0) && (e.global || e.pcid == p)
  | .vaAll v => inScope world part e.world e.part && !e.stage2 && covers (bits v.toNat 47 0)
  | .pcid p => inScope world part e.world e.part && !e.stage2 && !e.global && e.pcid == p
  | .part => inScope world part e.world e.part && !e.stage2
  | .ipa a => inScope world part e.world e.part && (if e.stage2 then covers a.toNat else ipaIn a.toNat)
  | .s2 p => e.world == world && e.part == some p
  | .all => e.world == world

/-- Whether an operation with P = 1 removes a walk-cache entry. -/
def TlbOp.hitsWalk (op : TlbOp) (world : Bool) (part : Option Nat) (e : WalkEnt) : Bool :=
  let path (a : Nat) : Bool := e.tag == a / 2 ^ lvlShift e.level
  match op with
  | .va v p => inScope world part e.world e.part && !e.stage2 && path (bits v.toNat 47 0) && e.pcid == p
  | .vaAll v => inScope world part e.world e.part && !e.stage2 && path (bits v.toNat 47 0)
  | .pcid p => inScope world part e.world e.part && !e.stage2 && e.pcid == p
  | .part => inScope world part e.world e.part && !e.stage2
  | .ipa a => inScope world part e.world e.part && e.stage2 && path a.toNat
  | .s2 p => e.world == world && e.stage2 && e.part == some p
  | .all => e.world == world

/-- A TLB operation takes effect on a core. -/
def ACore.tlbi (a : ACore) (op : TlbOp) (world : Bool) (part : Option Nat) (p : Bool) : ACore :=
  { a with tlb := a.tlb.filter fun e => !op.hitsTlb world part e,
           walk := if p then a.walk.filter fun e => !op.hitsWalk world part e else a.walk }

end Sys2Proof.Machine
end

