-- ==== Sys2Proof/Machine/CoreMem.lean ====
section
/-! DEFINITION. Loads and stores of an A-core: translation by pages (R120), alignment (R53), error responses (R32), forwarding
from the committed store buffer (R115, R116), miss registers (R122), poison (R204) and device accesses (R228 to R230). -/
namespace Sys2Proof.Machine

/-- What keeps an access from a memory type before it is made: ALIGN or MEMTYPE (R147 step 4). -/
abbrev TypeRule := MemType → Option (Nat × Nat)

/-- An unaligned access to device memory raises ALIGN (R53). -/
def alignRule (va : Word) (n : Nat) : TypeRule := fun t => if isDev t ∧ va.toNat % n ≠ 0 then some (7, 0) else none

/-- The memory type of a page, found without a check of brackets and husks and without any effect; none where the translation
itself faults. -/
def State.typeAt (s : State) (k : XCtx) (va : Word) : State × Option MemType :=
  match s.translate { k with ad := false, chk := false } va with
  | (t, .ok x) => ({ s with held := s.held || t.held }, some x.type)
  | (t, .error _) => ({ s with held := s.held || t.held }, none)

/-- The type rule of the pages of an access, which comes before their translation and permission faults (R147 step 4). -/
def State.pagesRule (k : XCtx) (rule : TypeRule) (at_ : Word) : List (Word × Nat) → State → State × Option Exn
  | [], s => (s, none)
  | (va, _) :: r, s =>
    match s.typeAt k va with
    | (s, none) => State.pagesRule k rule at_ r s
    | (s, some t) => match rule t with
      | some p => (s, some { exn p.1 p.2 0 at_ with wr := k.wr })
      | none => State.pagesRule k rule at_ r s

/-- Translate the pages of an access, the lower page first (R120). -/
def State.pages (k : XCtx) : List (Word × Nat) → State → State × Except Exn (List (Xlat × Word × Nat))
  | [], s => (s, .ok [])
  | (va, n) :: r, s =>
    match s.xlate k va with
    | (s, .error f) => (s, .error f)
    | (s, .ok x) => match State.pages k r s with
      | (s, .error f) => (s, .error f)
      | (s, .ok l) => (s, .ok ((x, va, n) :: l))

/-- One line access: physical address, type, VA and bytes. -/
structure LineAcc where
  pa : Nat
  type : MemType
  va : Word
  n : Nat
  deriving DecidableEq, Repr

/-- The line accesses of an access of n bytes, lower line first (R119, R542), its type rule checked first (R147). -/
def State.accsOf (s : State) (k : XCtx) (rule : TypeRule) (va : Word) (n : Nat) : State × Except Exn (List LineAcc) :=
  match State.pagesRule k rule va (pageParts va n) s with
  | (s, some f) => (s, .error f)
  | (s, none) => match State.pages k (pageParts va n) s with
  | (s, .error f) => (s, .error f)
  | (s, .ok l) => (s, .ok (l.flatMap fun p => (partsOf p.1.pa p.2.2).map fun q => ⟨q.1, p.1.type, p.2.1 + word (q.1 - p.1.pa), q.2⟩))

/-- The error response to one line access of a core before it is performed (R31). -/
def State.coreErr (s : State) (c : Fin 32) (x : LineAcc) (write : Bool) : Option Resp :=
  if s.region x.pa = .regs then s.regErr ⟨.core c, some x.type, x.pa, x.n⟩ write
  else match s.accessErr (.core c) (some x.type) x.pa x.n write with
    | some r => some r
    | none => if write && (s.region x.pa).isHbm && s.fatalBank (bankSlice (homeIdx (x.pa / 64))) then some .wlderr else none

/-- The bus error of the lowest refused part (R32, R542). -/
def State.busExn (s : State) (k : XCtx) : List LineAcc → Option Exn
  | [] => none
  | x :: r => match s.coreErr k.c x k.wr with
    | some e => some { exn 14 (respCode e) 0 x.va with wr := k.wr }
    | none => s.busExn k r

/-! ## DEV-P stores on their way (R229) -/

/-- Perform a store of at most 8 bytes to a register or memory of device type: the error response where it is refused. -/
def State.devWrite (s : State) (c : Fin 32) (x : LineAcc) (b : List Byte) : Except Resp State :=
  if s.region x.pa = .regs then s.regWrite ⟨.core c, some x.type, x.pa, x.n⟩ (word (ofBytes b))
  else match s.coreErr c x true with
    | some r => .error r
    | none => .ok (if (s.region x.pa).isHbm then s.coreWrite c (x.pa / 64) (x.pa % 64) b x.type else s.memWrite (.core c) x.pa b false)

/-- Whether two addresses lie in one register block, or at one stop's memory. -/
def State.sameTarget (s : State) (a b : Nat) : Bool :=
  if s.region a = .regs ∧ s.region b = .regs then (blockOf (a % 0x100000000)).1 == (blockOf (b % 0x100000000)).1
  else s.region a != .regs && s.region b != .regs && s.decodeStop a == s.decodeStop b

/-- A DEV-P store arrives at its target: it is performed, or its error response is recorded (R32). -/
def State.arrive (s : State) (c : Fin 32) (p : StorePart) : State :=
  match s.devWrite c ⟨p.addr, .devP, 0, p.data.length⟩ p.data with
  | .ok s => s
  | .error r => s.postedError (.core c) p.addr r

/-- DEV-P stores of a core arrive: those that `must` names, and of the others a free choice, at one target in program order (R229). -/
def State.arriveSome (s : State) (c : Fin 32) (must : StorePart → Bool) : State :=
  let r := (s.acore.get c).posted.foldl (fun (x : State × List StorePart) p =>
      if must p then (x.1.arrive c p, x.2)
      else if x.2.any fun q => x.1.sameTarget q.addr p.addr then (x.1, x.2 ++ [p])
      else
        let (s, n) := x.1.draw
        if Config.freeBool n then (s.arrive c p, x.2) else (s, x.2 ++ [p])) (s, [])
  r.1.modA c fun a => { a with posted := r.2 }

/-- Every DEV-P store of a core arrives. -/
def State.arriveAll (s : State) (c : Fin 32) : State := s.arriveSome c fun _ => true

/-- The DEV-P stores of a core to the target of an address arrive. -/
def State.arriveAt (s : State) (c : Fin 32) (a : Nat) : State :=
  if (s.acore.get c).posted.isEmpty then s else s.arriveSome c fun p => s.sameTarget p.addr a

/-! ## Prediction structures (Table 3.4) -/

/-- The current context (R104, R108). -/
def State.ctxTag (s : State) (c : Fin 32) : Ctx :=
  let a := s.acore.get c
  let h := s.hasH && a.lh
  ⟨a.secure, h, if h then 0 else a.pcid⟩

/-- Whether the prediction bar is in force: by STAT.PB, by the pod, or by the husk that the core is inside (R78, R335, Table 3.10). -/
def State.barred (s : State) (c : Fin 32) : Bool :=
  let a := s.acore.get c
  a.pb || s.ev (0x4300 + c.val / 4) 5 != 0 || (a.inHusk.map fun h => (s.huskGet h).flags.getLsbD 0).getD false

/-- Entries of a prediction structure (Table 3.4). -/
def predCap : PredKind → Nat
  | .direction => 28672 | .target => 12288 | .indirect => 4096 | .dependence => 2048

/-- Ways of a prediction structure (Table 3.4); of the direction and dependence predictors an index has one entry. -/
def predWays : PredKind → Nat
  | .direction => 1 | .target => 12 | .indirect => 4 | .dependence => 1

/-- A predictor takes an entry, in the place of the former one of the same index: an address with, by kind, a history or the last
targets (Table 3.4). -/
def State.predPut (s : State) (c : Fin 32) (kind : PredKind) (addr : Word) (hist : List Bool) (path : List Word) (target : Word)
    (taken : Bool) : State :=
  let a := s.acore.get c
  let e : PredEnt := ⟨kind, s.ctxTag c, if kind = .indirect then a.inHusk else none, addr, hist, path, target, taken⟩
  let rest := a.pred.filter fun x => !(x.kind == kind && x.ctx == e.ctx && x.addr == addr && x.husk == e.husk && x.hist == hist &&
    x.path == path && (kind != .dependence || x.target == target))
  let (s, l) := s.insertFree (predCap kind) (predWays kind) (rest.filter fun x => x.kind == kind) e
  s.modA c fun a => { a with pred := (rest.filter fun x => x.kind != kind) ++ l }

/-! ## Loads -/

/-- The byte that a buffered store writes at an address. -/
def StoreEnt.byte? (e : StoreEnt) (a : Nat) : Option Byte :=
  (e.parts.find? fun p => decide (p.addr ≤ a ∧ a < p.addr + p.data.length)).map fun p => p.data.getD (a - p.addr) 0

/-- Addresses of the bytes of line accesses. -/
def accBytes (l : List LineAcc) : List Nat := l.flatMap fun x => (List.range x.n).map fun i => x.pa + i

/-- What the committed store buffer answers to a load (R115): nothing overlaps, the youngest overlapping store covers every
byte, or it covers only some. -/
inductive Forward where
  | none | all (b : List Byte) | some_
  deriving DecidableEq, Repr

/-- Search the committed store buffer, youngest store first (R115). -/
def forward (sb : List StoreEnt) (l : List LineAcc) : Forward :=
  let as := accBytes l
  match sb.reverse.find? fun e => as.any fun a => (e.byte? a).isSome with
  | none => .none
  | some e =>
    let b := as.map e.byte?
    if b.all (·.isSome) then .all (b.map fun x => x.getD 0) else .some_

/-- A load that misses the L1D takes or joins a miss register, which are events of its instruction; false where it has to wait
(R122, Table 3.7). -/
def State.missFor (s : State) (c : Fin 32) (line : Nat) : State × Bool :=
  let a := s.acore.get c
  if a.l1d.contains line then (s, true)
  else
    let s := s.note c 0x0A
    match a.miss.find? (·.line == line) with
    | some r =>
      if r.merged < 8 then
        ((s.note c 0x0B).modA c fun a => { a with miss := a.miss.map fun (m : MissReg) => if m.line = line then { m with merged := m.merged + 1 } else m },
          true)
      else (s, false)
    | none => if a.miss.length < 48 then (s.modA c fun a => { a with miss := a.miss ++ [⟨line, 1⟩] }, true) else (s, false)

/-- Perform one line access of a load: its bytes and whether they are poisoned. -/
def State.readAcc (s : State) (c : Fin 32) (x : LineAcc) (ev : ArrayEvent) : State × Except Resp (List Byte × Bool) :=
  if s.region x.pa = .regs then
    match s.regRead ⟨.core c, some x.type, x.pa, x.n⟩ with
    | (s, .ok v) => (s, .ok (toBytes x.n v.toNat, false))
    | (s, .error r) => (s, .error r)
  else if (s.region x.pa).isHbm then
    let (s, d, p) := s.coreLine c (x.pa / 64) x.type ev
    (s, .ok (slice (lineBytesOf d) (x.pa % 64) x.n, p))
  else
    let s := match s.region x.pa with
      | .tcm _ _ _ _ | .shared _ _ => s.eccEvent x.pa ev
      | _ => s
    let (s, b, p) := s.memRead (.core c) x.pa x.n
    (s, .ok (b, p))

/-- Perform the line accesses of a load in order; poison is consumed by the instruction (R204). -/
def State.readAccs (c : Fin 32) (ev : ArrayEvent) : List LineAcc → State → State × Except Exn (List Byte)
  | [], s => (s, .ok [])
  | x :: r, s =>
    match s.readAcc c x ev with
    | (s, .error e) => (s, .error (exn 14 (respCode e) 0 x.va))
    | (s, .ok (b, poison)) =>
      if poison then (s, .error (exn 17 1 0 x.va))
      else match State.readAccs c .good r s with
        | (s, .error f) => (s, .error f)
        | (s, .ok l) => (s, .ok (b ++ l))

/-- Whether a type is read through the L1D. -/
def LineAcc.cached (s : State) (x : LineAcc) : Bool := memCached x.type && (s.region x.pa).isHbm

/-- Reserve miss registers for the lines of a load in turn. -/
def State.missEach (c : Fin 32) : List LineAcc → State → State × Bool
  | [], s => (s, true)
  | x :: r, s => if LineAcc.cached s x then
      match s.missFor c (x.pa / 64) with
      | (s, true) => State.missEach c r s
      | (s, false) => (s, false)
    else State.missEach c r s

/-- Reserve miss registers for the lines of a load; where one has to wait none is taken (R122). -/
def State.missAll (c : Fin 32) (l : List LineAcc) (s : State) : State × Bool :=
  match State.missEach c l s with
  | (t, true) => (t, true)
  | (_, false) => (s.note c 0x0A, false)

/-- A load served by a store that has not been written may have read too early: whether it did is free (log entry 2), and then the
core has run again from it and keeps the pair in the dependence predictor, unless the bar is in force (R117, R118). -/
def State.depend (s : State) (c : Fin 32) (l : List LineAcc) : State :=
  let a := s.acore.get c
  if s.barred c then s
  else match a.sb.reverse.find? fun e => (accBytes l).any fun x => (e.byte? x).isSome with
    | none => s
    | some e =>
      let (s, n) := s.draw
      if Config.freeBool n then (s.predPut c .dependence a.pc [] [] e.pc false).note c 0x09 else s

/-- The bytes of the line accesses that a load has yet to make, none where it waits after the first of two: whether the two come
apart is free (R121, log entry 2). -/
def State.readSplit (s : State) (c : Fin 32) (ev : ArrayEvent) (l : List LineAcc) : State × Except Exn (Option (List Byte)) :=
  let all (s : State) : State × Except Exn (Option (List Byte)) :=
    match State.readAccs c ev l s with
    | (s, .error f) => (s, .error f)
    | (s, .ok b) => (s.modA c fun a => { a with split := none }, .ok (some b))
  match l with
  | x :: _ :: _ =>
    let (s, n) := s.draw
    if Config.freeBool n then
      match State.readAccs c ev [x] s with
      | (s, .error f) => (s, .error f)
      | (s, .ok b) => (s.modA c fun a => { a with split := some (x.pa, b) }, .ok none)
    else all s
  | _ => all s

/-- The bytes of the lower line that a load has read already (R119, R121), and the line accesses it has yet to make. -/
def ACore.readSoFar (a : ACore) (l : List LineAcc) : List Byte × List LineAcc :=
  match a.split, l with
  | some (p, b), x :: r => if x.pa = p ∧ x.n = b.length then (b, r) else ([], l)
  | _, _ => ([], l)

/-- The bytes of a load: none where it waits for overlapping stores (R115), for a miss register (R122) or between its two lines (R121);
with them, whether the load trains the prefetcher (R124). A device load finds the committed store buffer empty (R116), and the
DEV-P stores that its target has still to receive arrive before it (R228). With `mr` false the read is one that waits for neither
registers nor lines. -/
def State.coreLoad (s : State) (k : XCtx) (rule : TypeRule) (va : Word) (n : Nat) (ev : ArrayEvent) (mr : Bool) :
    State × Except Exn (Option (List Byte × Bool)) :=
  match s.accsOf k rule va n with
  | (s, .error f) => (s, .error f)
  | (s, .ok l) =>
    match s.busExn { k with kind := .read } l with
    | some f => (s, .error f)
    | none =>
      let dev := l.any fun x => isDev x.type
      let s := if dev then l.foldl (fun s x => s.arriveAt k.c x.pa) (s.drainAll k.c) else s
      let trains := l.all fun x => x.type == .wb || x.type == .wbNwa
      let (got, rest) := if mr then (s.acore.get k.c).readSoFar l else ([], l)
      match forward (s.acore.get k.c).sb rest with
      | .all b => ((if mr then (s.depend k.c rest).note k.c 0x07 else s).modA k.c fun a => { a with split := none },
          .ok (some (got ++ b, trains)))
      | .some_ => (s.note k.c 0x08, .ok none)
      | .none =>
        match if mr then State.missAll k.c rest s else (s, true) with
        | (s, false) => (s, .ok none)
        | (s, true) =>
          if mr then match s.readSplit k.c ev rest with
            | (s, .error f) => (s, .error f)
            | (s, .ok none) => (s, .ok none)
            | (s, .ok (some b)) => (s, .ok (some (got ++ b, trains)))
          else match State.readAccs k.c ev l s with
            | (s, .error f) => (s, .error f)
            | (s, .ok b) => (s, .ok (some (b, trains)))

/-- A read that an instruction makes once every older store is written. -/
def State.readNow (s : State) (k : XCtx) (va : Word) (n : Nat) : State × Except Exn (List Byte) :=
  match (s.drainAll k.c).coreLoad k (alignRule va 8) va n .good false with
  | (s, .error f) => (s, .error f)
  | (s, .ok b) => (s, .ok ((b.map (·.1)).getD []))

/-! ## Stores -/

/-- A device store: a DEV-S store is performed at its target, after the DEV-P stores on their way there, and its refusal is a bus
error; a DEV-P store is complete for the core once the mesh has taken it, and arrives later (R32, R228, R229). -/
def State.devStore (s : State) (c : Fin 32) (x : LineAcc) (b : List Byte) : State × Except Exn Unit :=
  if x.type = .devP then
    ((s.modA c fun a => { a with posted := a.posted ++ [⟨x.pa, .devP, b⟩] }).arriveSome c fun _ => false, .ok ())
  else match (s.arriveAt c x.pa).devWrite c x b with
    | .ok s => (s, .ok ())
    | .error r => (s.arriveAt c x.pa, .error { exn 14 (respCode r) 0 x.va with wr := true })

/-- The device stores of up to 8 bytes each that make up a write. -/
def State.devStores (c : Fin 32) (x : LineAcc) : Nat → List Byte → State → State × Except Exn Unit
  | 0, _, s => (s, .ok ())
  | n + 1, b, s =>
    if b.isEmpty then (s, .ok ())
    else match s.devStore c { x with n := min 8 b.length } (b.take 8) with
      | (s, .error f) => (s, .error f)
      | (s, .ok ()) => State.devStores c { x with pa := x.pa + 8, va := x.va + 8 } n (b.drop 8) s

/-- The parts of a store with their bytes. -/
def storeParts : List LineAcc → List Byte → List StorePart
  | [], _ => []
  | x :: r, b => ⟨x.pa, x.type, b.take x.n⟩ :: storeParts r (b.drop x.n)

/-- Stores of the committed store buffer at most (R113). -/
def sbMax : Nat := 48

/-- A store enters the committed store buffer, after the oldest has been written where it is full (R113). -/
def State.sbPush (s : State) (c : Fin 32) (e : StoreEnt) : State :=
  let s := if (s.acore.get c).sb.length < sbMax then s else s.drainStore c
  s.modA c fun a => { a with sb := a.sb ++ [e] }

/-- Commit a store whose accesses are translated. -/
def State.commitStore (s : State) (k : XCtx) (l : List LineAcc) (b : List Byte) : State × Except Exn Unit :=
  match l with
  | [] => (s, .ok ())
  | x :: _ =>
    if isDev x.type then State.devStores k.c x 8 b (s.drainAll k.c)
    else (s.sbPush k.c ⟨storeParts l b, k.husk, (s.acore.get k.c).pc⟩, .ok ())

/-- A store of bytes (R113, R119, R120). -/
def State.coreStore (s : State) (k : XCtx) (rule : TypeRule) (va : Word) (b : List Byte) : State × Except Exn Unit :=
  match s.accsOf k rule va b.length with
  | (s, .error f) => (s, .error f)
  | (s, .ok l) => s.commitStore k l b

end Sys2Proof.Machine
end

