-- ==== Sys2Proof/Machine/Flags.lean ====
section
/-! DEFINITION. FSR and floating-point arithmetic (R42 to R45, Tables 2.2 and 2.6, IEEE 754-2019). A value is
exact until one rounding; where IEEE 754-2019 leaves a choice (the payload of a NaN result, the detection of
tininess, invalid of a fused 0 × ∞ + NaN), the result uses a free value passed in `Free` (log entry 2). -/
namespace Sys2Proof.Machine

/-- A floating-point format: exponent and fraction widths. -/
structure Fmt where
  ew : Nat
  mw : Nat
  deriving DecidableEq, Repr

/-- binary64. -/
def f64 : Fmt := ⟨11, 52⟩
/-- binary32. -/
def f32 : Fmt := ⟨8, 23⟩
/-- The format that the precision bit fn[3] names (Table 2.6). -/
def fmtOf (single : Bool) : Fmt := if single then f32 else f64

/-- An unpacked value: a finite one is (−1)^s × m × 2^e. -/
inductive Fp where
  | nan (signaling : Bool)
  | inf (s : Bool)
  | num (s : Bool) (m : Nat) (e : Int)
  deriving DecidableEq, Repr

/-- The choices IEEE 754-2019 leaves open in one operation. -/
structure Free where
  nan : Word
  tiny : Bool
  inv : Bool
  deriving DecidableEq, Repr

/-- The exception flags, in the places of FSR[4:0] (Table 2.2). -/
structure FFlags where
  nv : Bool := false
  dz : Bool := false
  of_ : Bool := false
  uf : Bool := false
  nx : Bool := false
  deriving DecidableEq, Repr

/-- The flags as bits of FSR. -/
def FFlags.toBits (f : FFlags) : BitVec 32 :=
  BitVec.ofNat 32 (b2n f.nx + 2 * b2n f.uf + 4 * b2n f.of_ + 8 * b2n f.dz + 16 * b2n f.nv)

/-- Least exponent of a format's lowest fraction bit. -/
def Fmt.q (f : Fmt) : Int := 2 - 2 ^ (f.ew - 1) - f.mw
/-- The pattern of +∞. -/
def Fmt.infBits (f : Fmt) : Nat := (2 ^ f.ew - 1) * 2 ^ f.mw
/-- The sign bit's weight. -/
def Fmt.signBit (f : Fmt) : Nat := 2 ^ (f.ew + f.mw)

/-- Read a bit pattern. -/
def Fmt.unpack (f : Fmt) (v : Nat) : Fp :=
  let s := decide (v / f.signBit % 2 = 1)
  let e := v / 2 ^ f.mw % 2 ^ f.ew
  let m := v % 2 ^ f.mw
  if e = 2 ^ f.ew - 1 then (if m = 0 then .inf s else .nan (decide (m < 2 ^ (f.mw - 1))))
  else if e = 0 then .num s m f.q
  else .num s (m + 2 ^ f.mw) (f.q + (e - 1 : Nat))

/-- A pattern with a sign. -/
def Fmt.signed (f : Fmt) (s : Bool) (v : Nat) : Nat := b2n s * f.signBit + v

/-- A quiet NaN with a free sign and payload. -/
def Fmt.qnan (f : Fmt) (p : Word) : Nat :=
  f.signed (p.getLsbD 63) (f.infBits + 2 ^ (f.mw - 1) + p.toNat % 2 ^ (f.mw - 1))

/-- Whether rounding goes up, from the kept part, the remainder against half and the sticky bit (Table 2.2). -/
def roundsUp (rm : Nat) (s : Bool) (odd : Bool) (rem half : Nat) (sticky : Bool) : Bool :=
  let inexact := decide (rem ≠ 0) || sticky
  if rm = 0 then decide (half < rem) || (decide (rem = half) && (sticky || odd))
  else if rm = 1 then false
  else if rm = 2 then s && inexact
  else if rm = 3 then !s && inexact
  else decide (half ≤ rem)

/-- m × 2^-sh rounded to an integer, and whether it is inexact. -/
def roundShift (rm : Nat) (s : Bool) (m sh : Nat) (sticky : Bool) : Nat × Bool :=
  if sh = 0 then (m + b2n (roundsUp rm s (m % 2 == 1) 0 1 sticky), sticky)
  else
    let kept := m / 2 ^ sh
    let rem := m % 2 ^ sh
    (kept + b2n (roundsUp rm s (kept % 2 == 1) rem (2 ^ (sh - 1)) sticky), decide (rem ≠ 0) || sticky)

/-- Round (−1)^s × m × 2^e, with an inexact tail below m when sticky, to a format. -/
def Fmt.round (f : Fmt) (rm : Nat) (fr : Free) (s : Bool) (m : Nat) (e : Int) (sticky : Bool) : Nat × FFlags :=
  if m = 0 then (f.signed s 0, {}) else
  let l : Int := Nat.log2 m
  let u := e + l - f.mw
  let t := max u f.q
  let r := if t ≤ e then (m * 2 ^ (e - t).toNat, sticky) else roundShift rm s m (t - e).toNat sticky
  let unb := if u ≤ e then (m * 2 ^ (e - u).toNat, sticky) else roundShift rm s m (u - e).toNat sticky
  let before := decide (u < f.q)
  let after := decide (u + 1 < f.q) || (before && decide (unb.1 < 2 ^ (f.mw + 1)))
  let tiny := if before = after then before else fr.tiny
  let v := (t - f.q).toNat * 2 ^ f.mw + r.1
  if f.infBits ≤ v then
    let toInf := rm = 0 ∨ rm = 4 ∨ (rm = 2 ∧ s = true) ∨ (rm = 3 ∧ s = false)
    (f.signed s (if toInf then f.infBits else f.infBits - 1), { of_ := true, nx := true })
  else (f.signed s v, { uf := tiny && r.2, nx := r.2 })

/-- The exact sum of two finite values. -/
def fpSum (rm : Nat) (s1 : Bool) (m1 : Nat) (e1 : Int) (s2 : Bool) (m2 : Nat) (e2 : Int) : Bool × Nat × Int :=
  let e := min e1 e2
  let a : Int := (m1 * 2 ^ (e1 - e).toNat : Nat)
  let b : Int := (m2 * 2 ^ (e2 - e).toNat : Nat)
  let x := (if s1 then -a else a) + (if s2 then -b else b)
  let s := if x = 0 then (if s1 = s2 then s1 else decide (rm = 2)) else decide (x < 0)
  (s, x.natAbs, e)

/-- Whether a value is a signaling NaN. -/
def Fp.isSnan : Fp → Bool
  | .nan b => b
  | _ => false
/-- Whether a value is a NaN. -/
def Fp.isNan : Fp → Bool
  | .nan _ => true
  | _ => false

/-- Addition. -/
def fpAdd (f : Fmt) (rm : Nat) (fr : Free) (x y : Fp) : Nat × FFlags :=
  match x, y with
  | .nan a, y => (f.qnan fr.nan, { nv := a || y.isSnan })
  | x, .nan b => (f.qnan fr.nan, { nv := b || x.isSnan })
  | .inf a, .inf b => if a = b then (f.signed a f.infBits, {}) else (f.qnan fr.nan, { nv := true })
  | .inf a, _ => (f.signed a f.infBits, {})
  | _, .inf b => (f.signed b f.infBits, {})
  | .num s1 m1 e1, .num s2 m2 e2 =>
    let (s, m, e) := fpSum rm s1 m1 e1 s2 m2 e2
    f.round rm fr s m e false

/-- The opposite value. -/
def Fp.neg : Fp → Fp
  | .nan b => .nan b
  | .inf s => .inf (!s)
  | .num s m e => .num (!s) m e

/-- Multiplication. -/
def fpMul (f : Fmt) (rm : Nat) (fr : Free) (x y : Fp) : Nat × FFlags :=
  match x, y with
  | .nan a, y => (f.qnan fr.nan, { nv := a || y.isSnan })
  | x, .nan b => (f.qnan fr.nan, { nv := b || x.isSnan })
  | .inf a, .inf b => (f.signed (a != b) f.infBits, {})
  | .inf a, .num b m _ | .num b m _, .inf a =>
    if m = 0 then (f.qnan fr.nan, { nv := true }) else (f.signed (a != b) f.infBits, {})
  | .num s1 m1 e1, .num s2 m2 e2 => f.round rm fr (s1 != s2) (m1 * m2) (e1 + e2) false

/-- Division. -/
def fpDiv (f : Fmt) (rm : Nat) (fr : Free) (x y : Fp) : Nat × FFlags :=
  match x, y with
  | .nan a, y => (f.qnan fr.nan, { nv := a || y.isSnan })
  | x, .nan b => (f.qnan fr.nan, { nv := b || x.isSnan })
  | .inf _, .inf _ => (f.qnan fr.nan, { nv := true })
  | .inf a, .num b _ _ => (f.signed (a != b) f.infBits, {})
  | .num a _ _, .inf b => (f.signed (a != b) 0, {})
  | .num s1 m1 e1, .num s2 m2 e2 =>
    if m2 = 0 then
      (if m1 = 0 then (f.qnan fr.nan, { nv := true }) else (f.signed (s1 != s2) f.infBits, { dz := true }))
    else
      let k := 2 * f.mw + 6
      f.round rm fr (s1 != s2) (m1 * 2 ^ k / m2) (e1 - e2 - k) (decide (m1 * 2 ^ k % m2 ≠ 0))

/-- Integer square root, bit by bit from bit n - 1 down. -/
def isqrtFrom : Nat → Nat → Nat → Nat
  | 0, _, acc => acc
  | n + 1, v, acc => isqrtFrom n v (if (acc + 2 ^ n) * (acc + 2 ^ n) ≤ v then acc + 2 ^ n else acc)

/-- Square root. -/
def fpSqrt (f : Fmt) (rm : Nat) (fr : Free) (x : Fp) : Nat × FFlags :=
  match x with
  | .nan a => (f.qnan fr.nan, { nv := a })
  | .inf s => if s then (f.qnan fr.nan, { nv := true }) else (f.infBits, {})
  | .num s m e =>
    if m = 0 then (f.signed s 0, {})
    else if s then (f.qnan fr.nan, { nv := true })
    else
      let odd := e % 2 = 1
      let k := f.mw + 4
      let v := (if odd then 2 * m else m) * 2 ^ (2 * k)
      let e' := (if odd then e - 1 else e) / 2 - k
      let r := isqrtFrom (2 * k) v 0
      f.round rm fr false r e' (decide (r * r ≠ v))

/-- fd + fs1 × fs2 with one rounding (Table 2.6). -/
def fpMac (f : Fmt) (rm : Nat) (fr : Free) (d x y : Fp) : Nat × FFlags :=
  let sn := d.isSnan || x.isSnan || y.isSnan
  let zeroInf := match x, y with
    | .inf _, .num _ m _ | .num _ m _, .inf _ => decide (m = 0)
    | _, _ => false
  if x.isNan || y.isNan then (f.qnan fr.nan, { nv := sn })
  else if zeroInf then (f.qnan fr.nan, { nv := if d.isNan && !sn then fr.inv else true })
  else match d, x, y with
    | .nan _, _, _ => (f.qnan fr.nan, { nv := sn })
    | d, .num s1 m1 e1, .num s2 m2 e2 => fpAdd f rm fr d (.num (s1 != s2) (m1 * m2) (e1 + e2))
    | d, .inf a, .inf b | d, .inf a, .num b _ _ | d, .num b _ _, .inf a => fpAdd f rm fr d (.inf (a != b))
    | _, _, _ => (f.qnan fr.nan, { nv := sn })

/-- Whether x < y, for values that are no NaN. -/
def fpLt (x y : Fp) : Bool :=
  match x, y with
  | .inf a, .inf b => a && !b
  | .inf a, _ => a
  | _, .inf b => !b
  | .num s1 m1 e1, .num s2 m2 e2 =>
    let e := min e1 e2
    let a : Int := (m1 * 2 ^ (e1 - e).toNat : Nat)
    let b : Int := (m2 * 2 ^ (e2 - e).toNat : Nat)
    decide ((if s1 then -a else a) < (if s2 then -b else b))
  | _, _ => false

/-- Whether x = y, for values that are no NaN. -/
def fpEq (x y : Fp) : Bool := !fpLt x y && !fpLt y x

/-- minimumNumber and maximumNumber of IEEE 754-2019: a NaN loses to a number, and −0 is less than +0. -/
def fpMinMax (f : Fmt) (fr : Free) (maxi : Bool) (a b : Nat) : Nat × FFlags :=
  let x := f.unpack a
  let y := f.unpack b
  let nv := x.isSnan || y.isSnan
  if x.isNan && y.isNan then (f.qnan fr.nan, { nv := nv })
  else if x.isNan then (b, { nv := nv })
  else if y.isNan then (a, { nv := nv })
  else
    let less := fpLt x y || (fpEq x y && decide (a / f.signBit % 2 = 1))
    (if less = maxi then b else a, {})

/-- The relations FEQ (quiet), FLT and FLE (signalling) (Table 2.6). -/
def fpRel (op : FpOp) (x y : Fp) : Bool × FFlags :=
  let nan := x.isNan || y.isNan
  let nv := if op = .eq then x.isSnan || y.isSnan else nan
  (!nan && (match op with | .eq => fpEq x y | .lt => fpLt x y | _ => fpLt x y || fpEq x y), { nv := nv })

/-- One-hot class of a value (FCLASS, Table 2.6). -/
def fpClass (f : Fmt) (v : Nat) : Nat :=
  let s := decide (v / f.signBit % 2 = 1)
  match f.unpack v with
  | .inf s => if s then 1 else 128
  | .nan sn => if sn then 256 else 512
  | .num _ m e =>
    if m = 0 then (if s then 8 else 16)
    else if e = f.q ∧ m < 2 ^ f.mw then (if s then 4 else 32)
    else (if s then 2 else 64)

/-- Conversion to a signed or unsigned 64-bit integer, saturating; a NaN gives the largest value (Table 2.6). -/
def fpToInt (rm : Nat) (unsignd : Bool) (x : Fp) : Word × FFlags :=
  let hi : Int := if unsignd then 2 ^ 64 - 1 else 2 ^ 63 - 1
  let lo : Int := if unsignd then 0 else -2 ^ 63
  match x with
  | .nan _ => (BitVec.ofInt 64 hi, { nv := true })
  | .inf s => (BitVec.ofInt 64 (if s then lo else hi), { nv := true })
  | .num s m e =>
    let r := if 0 ≤ e then (m * 2 ^ e.toNat, false) else roundShift rm s m (-e).toNat false
    let v : Int := if s then -(r.1 : Int) else r.1
    if v < lo then (BitVec.ofInt 64 lo, { nv := true })
    else if hi < v then (BitVec.ofInt 64 hi, { nv := true })
    else (BitVec.ofInt 64 v, { nx := r.2 })

/-- Conversion between precisions (FCVTP). -/
def fpConvert (f : Fmt) (rm : Nat) (fr : Free) (x : Fp) : Nat × FFlags :=
  match x with
  | .nan a => (f.qnan fr.nan, { nv := a })
  | .inf s => (f.signed s f.infBits, {})
  | .num s m e => f.round rm fr s m e false

/-- Where a floating-point operation puts its result. -/
inductive FpDest where
  | f (v : Word) | g (v : Word)
  deriving DecidableEq, Repr

/-- The operations of Table 2.6 on the values of fd, fs1, fs2 and of g rs1. -/
def fpOp (op : FpOp) (single : Bool) (rm : Nat) (fr : Free) (fd fs1 fs2 g1 : Word) : FpDest × FFlags :=
  let f := fmtOf single
  let raw (w : Word) : Nat := if single then w.toNat % 2 ^ 32 else w.toNat
  let box (v : Nat) : Word := if single then nanBox v else word v
  let a := raw fs1
  let b := raw fs2
  let x := f.unpack a
  let y := f.unpack b
  let toF (r : Nat × FFlags) : FpDest × FFlags := (.f (box r.1), r.2)
  let sgn (k : Nat) : FpDest × FFlags := (.f (box (f.signed (decide (k % 2 = 1)) (a % f.signBit))), {})
  match op with
  | .add => toF (fpAdd f rm fr x y)
  | .sub => toF (fpAdd f rm fr x y.neg)
  | .mul => toF (fpMul f rm fr x y)
  | .div => toF (fpDiv f rm fr x y)
  | .sqrt => toF (fpSqrt f rm fr x)
  | .mac => toF (fpMac f rm fr (f.unpack (raw fd)) x y)
  | .min => toF (fpMinMax f fr false a b)
  | .max => toF (fpMinMax f fr true a b)
  | .sgnj => sgn (b / f.signBit)
  | .sgnjn => sgn (b / f.signBit + 1)
  | .sgnjx => sgn (a / f.signBit + b / f.signBit)
  | .eq | .lt | .le => let r := fpRel op x y; (.g (relWord r.1), r.2)
  | .class_ => (.g (word (fpClass f a)), {})
  | .cvtFI => let r := fpToInt rm false x; (.g r.1, r.2)
  | .cvtFU => let r := fpToInt rm true x; (.g r.1, r.2)
  | .cvtIF => toF (f.round rm fr (decide (g1.toInt < 0)) g1.toInt.natAbs 0 false)
  | .cvtUF => toF (f.round rm fr false g1.toNat 0 false)
  | .cvtP =>
    let src := fmtOf (!single)
    toF (fpConvert f rm fr (src.unpack (if single then fs1.toNat else fs1.toNat % 2 ^ 32)))
  | .mvFG => (.g (if single then sext 32 fs1.toNat else fs1), {})
  | .mvGF => (.f (if single then nanBox g1.toNat else g1), {})

/-- FSR.RM. -/
def fsrRm (fsr : BitVec 32) : Nat := bits fsr.toNat 7 5

/-- The rounding mode of an instruction; none where dynamic rounding meets a reserved FSR.RM (R45). -/
def roundingMode (rm : Fin 8) (fsr : BitVec 32) : Option Nat :=
  if rm.val = 7 then (if fsrRm fsr < 5 then some (fsrRm fsr) else none) else some rm.val

/-- FSR with flags raised; the flags are sticky (Table 2.2). -/
def raiseFlags (fsr : BitVec 32) (f : FFlags) : BitVec 32 := fsr ||| f.toBits

/-- FSR as MTS writes it: bits [31:8] read as zero (Table 2.2, R8). -/
def fsrWrite (v : Word) : BitVec 32 := BitVec.ofNat 32 (v.toNat % 256)

end Sys2Proof.Machine
end

