-- ==== Sys2Proof/Machine/Ops.lean ====
section
/-! DEFINITION. The operations of an A-core that change its position: exception entry (R145 to R153), the asynchronous exit
from a husk (R342, R344), return (R154), gates and their return (R139 to R144, R340, R341, R343); and its general registers. -/
namespace Sys2Proof.Machine

/-! ## Registers -/

/-- The SP of the current position: SP.0 to SP.3, or SP.H (Table 4.2). -/
def ACore.spIdx (a : ACore) (hLevel : Bool) : Fin 5 := if hLevel && a.lh then 4 else fin 4 a.ring

/-- Read a general register: g0 is zero and g31 is the current position's stack pointer (R41). -/
def State.g (s : State) (c : Fin 32) (r : Reg) : Word :=
  let a := s.acore.get c
  if r.val = 0 then 0
  else if r.val = 31 then a.sp.get (a.spIdx s.hasH)
  else if h2 : r.val < 31 then a.g.get ⟨r.val, h2⟩ else 0

/-- Write a general register: a write to g0 is discarded. -/
def State.setG (s : State) (c : Fin 32) (r : Reg) (v : Word) : State :=
  if r.val = 0 then s
  else s.modA c fun a =>
    if h : r.val < 31 then { a with g := vset a.g ⟨r.val, h⟩ v }
    else { a with sp := vset a.sp (a.spIdx s.hasH) v }

/-- Read a floating-point register. -/
def State.f (s : State) (c : Fin 32) (r : Reg) : Word := (s.acore.get c).f.get r
/-- Write a floating-point register. -/
def State.setF (s : State) (c : Fin 32) (r : Reg) (v : Word) : State := s.modA c fun a => { a with f := vset a.f r v }

/-- STAT with fields replaced. -/
def statWith (st : Word) (ring lh ml xm : Nat) : Word :=
  word (putBits (putBits (putBits (putBits st.toNat 1 0 ring) 2 2 lh) 7 4 ml) 8 8 xm)

/-- R136: a core left at rings 1 to 3 has XM clear. -/
def clearXm (hLevel : Bool) (st : Word) : Word :=
  if !(hLevel && st.getLsbD 2) && decide (st.toNat % 4 ≠ 0) then st &&& ~~~(0x100 : Word) else st

/-- Whether the core executes at level H. -/
def State.atH (s : State) (c : Fin 32) : Bool := s.hasH && (s.acore.get c).lh

/-- The husk that a core is inside is left: the record goes, and the actions of R107 are taken. -/
def ACore.leaveHusk (a : ACore) : ACore :=
  let h := a.husk.map (·.husk)
  { a with husk := none, stat := a.stat &&& ~~~(0x800 : Word), ret := [], pred := a.pred.filter fun e => !(e.kind == .indirect && e.husk == h && h.isSome) }

/-- A core enters a husk: the record, HK and the actions of R107 (R340, R343). -/
def ACore.enterHusk (a : ACore) (r : HuskRec) : ACore :=
  { a with husk := some r, stat := a.stat ||| 0x800, ret := [], pred := a.pred.filter fun e => !(e.kind == .indirect && e.husk == some r.husk) }

/-! ## Entry (R150) -/

/-- What an entry saves besides the syndrome: saved PC and STAT, the interrupted position's stack pointer, and for an
interrupt its priority and whether it is virtual. -/
structure Save where
  pc : Word
  stat : Word
  sp : Word
  prio : Nat
  virt : Bool
  deriving DecidableEq, Repr

/-- XSY of an exception (Table 4.3): PRIO and VIRT are those of an interrupt, and zero for a synchronous vector. -/
def xsyOf (f : Exn) (sv : Save) : Word :=
  let irq := decide (32 ≤ f.vec)
  word (f.vec % 256 + f.cause % 256 * 2 ^ 8 + b2n f.wr * 2 ^ 16 + b2n f.s2 * 2 ^ 17 + b2n (irq && sv.virt) * 2 ^ 18 +
    f.info % 2 ^ 16 * 2 ^ 32 + (if irq then sv.prio % 16 else 0) * 2 ^ 48)

/-- An exception frame (Table 4.6). -/
def frameOf (f : Exn) (sv : Save) : List Byte :=
  toBytes 8 sv.pc.toNat ++ toBytes 8 sv.stat.toNat ++ toBytes 8 sv.sp.toNat ++ toBytes 8 (xsyOf f sv).toNat

/-- The access context of a position: level H, or ring 0. -/
def posCtx (c : Fin 32) (h : Bool) (kind : Acc) : XCtx := ⟨c, if h then none else some 0, none, kind, false, true, true⟩

/-- Push a frame below a stack pointer; an SP that is not a multiple of 16 is a fault too (R150). -/
def State.push (s : State) (k : XCtx) (sp : Word) (b : List Byte) : State × Except Exn Unit :=
  if sp.toNat % 16 ≠ 0 then (s, .error { exn 16 1 0 (sp - 32) with wr := true })
  else s.coreStore k (alignRule (sp - 32) 8) (sp - 32) b

/-- SMC hard stop (R153, code 0x25): the core stops, and the record names it, the escalating position, the vector and the
saved PC. -/
def State.hardStop (s : State) (c : Fin 32) (pos vec : Nat) (pc : Word) : State :=
  (s.modA c fun a => { a with run := .hardStop }).record (bankPod (podOf c)) 0x25 c.val pos pc.toNat vec

/-- Index of a position's stack pointer. -/
def posSp (h : Bool) : Fin 5 := if h then 4 else 0

/-- Write the saved registers of a position. -/
def ACore.setSaved (a : ACore) (h : Bool) (x : Saved) : ACore := if h then { a with xh := x } else { a with x0 := x }

/-- Push the frame of an exception at a position: on its stack, or for a stack fault and after a failed push on its emergency
stack. Answers the exception that is entered; none where the emergency push fails, with its failing address (R150 to R152). The
failing address is the underlying fault's own XVA, and SP - 32 where SP is not a multiple of 16 (DESIGN CHOICE, log entry 74). -/
def State.pushEntry (s : State) (c : Fin 32) (h : Bool) (f : Exn) (sv : Save) : State × Except Exn Exn :=
  let a := s.acore.get c
  let k := posCtx c h .write
  let esp := if h then a.esph else a.esp0
  let emergency (s : State) (f : Exn) (bad : Exn) : State × Except Exn Exn :=
    match s.push k esp (frameOf f sv) with
    | (s, .ok ()) => (s.modA c fun a => { a with sp := vset a.sp (posSp h) (esp - 32) }, .ok f)
    | (s, .error e) => (s, .error { bad with wr := true, s2 := e.s2 })
  if f.vec = 16 then emergency s f f
  else
    let sp := a.sp.get (posSp h)
    match s.push k sp (frameOf f sv) with
    | (s, .ok ()) => (s.modA c fun a => { a with sp := vset a.sp (posSp h) (sp - 32) }, .ok f)
    | (s, .error e) =>
      let f' : Exn := ⟨16, 1, f.vec, e.va, true, e.s2, false⟩
      emergency s f' f'

/-- Entry to a position (R150); the first argument bounds the escalations, of which one is possible (Table 4.8). An escalation after
a failed read of the handler address saves what the first entry saved (DESIGN CHOICE, log entry 75). -/
def State.enterAt (c : Fin 32) : Nat → Bool → Exn → Save → State → State
  | 0, h, f, sv, s => s.hardStop c (if h then 4 else 0) f.vec sv.pc
  | n + 1, h, f, sv, s =>
    let a := s.acore.get c
    let here := if h then s.atH c else !s.atH c && a.ring == 0
    let escalate (s : State) (v cause : Nat) (f : Exn) : State :=
      if !h && s.hasH then State.enterAt c n true ⟨18, v, cause, f.va, f.wr, f.s2, true⟩ { sv with prio := 0, virt := false } s
      else s.hardStop c (if h then 4 else 0) v sv.pc
    if here && a.xm && decide (f.vec < 32) then escalate s f.vec f.cause f
    else match s.pushEntry c h f sv with
      | (s, .error bad) => escalate s 16 bad.cause bad
      | (s, .ok f') =>
        let ml := if 32 ≤ f'.vec then sv.prio else if here then a.ml else 0
        let s := s.modA c fun a =>
          let st := statWith (a.stat &&& ~~~(0x200 : Word)) (if h then a.ring else 0) (b2n h) ml 1
          ({ a with stat := st, delay := none, wait := none }).setSaved h ⟨sv.pc, sv.stat, xsyOf f' sv, f'.va⟩
        let vtb := if h then a.vtbh else a.vtb0
        match s.readNow (posCtx c h .read) (vtb + word (8 * f'.vec)) 8 with
        | (s, .error e) => escalate s 18 f'.vec { f' with s2 := e.s2 }
        | (s, .ok b) =>
          let pc := word (ofBytes b)
          if pc.toNat % 4 ≠ 0 then escalate s 18 f'.vec f' else s.modA c fun a => { a with pc := pc }

/-! ## The asynchronous exit from a husk (R342, R344) -/

/-- A save slot (Table 10.5). The table gives g31 and f0 one place, 0x118; f0 is kept behind f31 (log entry 40). -/
def slotBytes (a : ACore) (g31 : Word) (vec : Nat) (pc : Word) (frame : Word) : List Byte :=
  toBytes 8 (1 + vec * 256) ++ toBytes 8 pc.toNat ++ toBytes 8 a.stat.toNat ++ toBytes 8 frame.toNat ++ toBytes 8 a.fsr.toNat ++
  ((List.range 30).flatMap fun k => toBytes 8 (a.g.toList.getD (k + 1) 0).toNat) ++ toBytes 8 g31.toNat ++
  ((a.f.toList.drop 1).flatMap fun v => toBytes 8 v.toNat) ++ toBytes 8 (a.f.get 0).toNat

/-- Write the save slot; one that receives an error response or poison leaves V = 0 and is recorded (code 0x26). -/
def State.writeSlot (s : State) (c : Fin 32) (r : HuskRec) (vec : Nat) (pc : Word) : State :=
  let x := s.huskGet r.husk
  let at_ := x.slot c.val
  let s := s.drainAll c
  let a := s.acore.get c
  let b := slotBytes a (a.sp.get (a.spIdx s.hasH)) vec pc r.frame
  let ps := partsOf at_ b.length
  let bad := ps.any fun p =>
    (s.coreErr c ⟨p.1, .wb, 0, p.2⟩ true).isSome || (s.peekLine (p.1 / 64)).2 || s.huskRefuses (.core c) (some r.husk) p.1
  if bad then s.record (bankPod (podOf c)) 0x26 c.val 0 at_ r.husk
  else ps.foldl (fun s p => s.coreWrite c (p.1 / 64) (p.1 % 64) (slice b (p.1 - at_) p.2) .wb) s

/-- Leave a husk by an exception or interrupt: the slot is written unless the husk was destroyed, the registers are cleared,
and SP and the position's husk fields come from the record. Answers what the entry saves. -/
def State.asyncExit (s : State) (c : Fin 32) (r : HuskRec) (vec : Nat) (pc : Word) (write : Bool) : State × Save :=
  let s := if write then s.writeSlot c r vec pc else s
  let s := s.modA c fun a =>
    ({ a with g := Vector.replicate 31 0, f := Vector.replicate 32 0, fsr := 0,
              sp := vset a.sp (a.spIdx s.hasH) r.sp }).leaveHusk
  let caller := bits r.stat.toNat 1 0
  (s, ⟨r.gate, r.stat, (s.acore.get c).sp.get (fin 4 caller), 0, false⟩)

/-- Raise an exception or take an interrupt: `pc` is the saved PC and `ds` marks an exception in a delay slot (R148, R149).
An exception inside a husk leaves it first, and its XVA keeps no bits [11:0] (R342). -/
def State.raiseAt (s : State) (c : Fin 32) (f : Exn) (pc : Word) (ds : Bool) (prio : Nat) (virt : Bool) (writeSlot : Bool) : State :=
  let h := s.hasH && (f.toH || s.atH c)
  let s := s.modA c fun a => { a with run := if a.run = .wfi then .running else a.run, longOwed := false, evs := [], split := none }
  let a := s.acore.get c
  match a.inHusk, a.husk with
  | some _, some r =>
    let (s, sv) := s.asyncExit c r f.vec pc writeSlot
    State.enterAt c 2 h { f with va := f.va &&& ~~~(0xFFF : Word) } { sv with prio := prio, virt := virt } s
  | _, _ =>
    let st := (a.stat &&& ~~~(0x200 : Word)) ||| (if ds then 0x200 else 0)
    State.enterAt c 2 h f ⟨pc, st, a.sp.get (a.spIdx s.hasH), prio, virt⟩ s

/-- Raise a synchronous exception at the current instruction: in a delay slot the branch's address is saved (R149). -/
def State.raise (s : State) (c : Fin 32) (f : Exn) : State :=
  let a := s.acore.get c
  match a.delay with
  | some d => s.raiseAt c f d.branch true 0 false true
  | none => s.raiseAt c f a.pc false 0 false true

/-- The forced exit of a core whose husk was destroyed (R344), before its next instruction. -/
def State.forcedExit (s : State) (c : Fin 32) : State :=
  let a := s.acore.get c
  if a.forced then
    let s := s.modA c fun a => { a with forced := false }
    s.raiseAt c (exn 19 6 0 0) (match a.delay with
      | some d => d.branch
      | none => a.pc) false 0 false false
  else s

/-- Every core that a destroy has marked leaves its husk. -/
def State.settleForced (s : State) : State := (allFin 32).foldl (fun s c => s.forcedExit c) s

/-! ## Return (R154) -/

/-- The stack pointer of the position that a STAT names. -/
def statSp (hLevel : Bool) (st : Word) : Fin 5 := if hLevel && st.getLsbD 2 then 4 else fin 4 (st.toNat % 4)

/-- STAT as ERET restores it (R154, R136). -/
def eretStat (h : Bool) (old saved : Word) : Word :=
  let m : Word := if h then 0x5F7 else 0x5F3
  clearXm h ((old &&& ~~~m) ||| (saved &&& m))

/-- ERET at a permitted position: the new state with the address where execution continues, or the exception. -/
def State.eret (s : State) (c : Fin 32) : State × Except Exn Word :=
  let h := s.atH c
  let a := s.acore.get c
  let idx := a.spIdx s.hasH
  let sp := a.sp.get idx
  match s.readNow (posCtx c h .read) sp 32 with
  | (s, .error f) => (s, .error ⟨16, 3, 0, f.va, false, f.s2, h⟩)
  | (s, .ok b) =>
    let pc := word (ofBytes (slice b 0 8))
    if pc.toNat % 4 ≠ 0 then (s, .error (exn 6 0 0 pc))
    else
      let st := eretStat h a.stat (word (ofBytes (slice b 8 8)))
      let p := statSp s.hasH st
      let old := word (ofBytes (slice b 16 8))
      (s.modA c fun a =>
        { a with stat := st, sp := if p = idx then vset a.sp idx old else vset (vset a.sp idx (sp + 32)) p old }, .ok pc)

/-! ## Gates (R139 to R144) -/

/-- A gate descriptor (Table 4.5). -/
structure Gate where
  entry : Word
  v : Bool
  tring : Nat
  cmax : Nat
  argc : Nat
  amask : Nat
  hg : Bool
  husk : Nat
  zeros : Bool
  deriving DecidableEq, Repr

/-- The fields of a descriptor's 32 bytes. -/
def gateOf (b : List Byte) : Gate :=
  let e := ofBytes (slice b 0 8)
  let w := ofBytes (slice b 8 8)
  let x := ofBytes (slice b 16 8)
  { entry := word e, v := bit w 0, tring := bits w 3 1, cmax := bits w 5 4, argc := bits w 8 6, amask := bits w 20 9,
    hg := bit w 21, husk := bits x 9 0,
    zeros := e % 4 == 0 && bits w 63 22 == 0 && bits x 63 10 == 0 && ofBytes (slice b 24 8) == 0 }

/-- The pages of a range, by the first address of each. -/
def pageStarts (p n : Nat) : List Nat :=
  if n = 0 then [] else (List.range ((p % 4096 + n - 1) / 4096 + 1)).map fun k => if k = 0 then p else (p / 4096 + k) * 4096

/-- The lowest address of one page's part of a range that fails the argument check for a kind of access (R142). The page is translated
for the caller without any effect; a husk's or another refused line fails from its first byte on; and in the register space, where
no access of one byte is permitted (R29), every byte fails. -/
def State.argPage (s : State) (k : XCtx) (p n a : Nat) : State × Option Nat :=
  match s.xlate k (word a) with
  | (t, .error _) => ({ s with held := s.held || t.held }, some a)
  | (t, .ok x) => ({ s with held := s.held || t.held }, (partsOf x.pa (min (p + n - a) (4096 - a % 4096))).findSome? fun q =>
      let va := a + (q.1 - x.pa)
      if (s.huskExn k (word va) q.1).isSome || (s.coreErr k.c ⟨q.1, x.type, word va, 1⟩ k.wr).isSome then some va else none)

/-- The lowest address of the pages of a range that fails the argument check. -/
def State.argPages (k : XCtx) (p n : Nat) : List Nat → State → State × Option Nat
  | [], s => (s, none)
  | a :: r, s => match s.argPage k p n a with
    | (s, some v) => (s, some v)
    | (s, none) => State.argPages k p n r s

/-- The lowest address of a range that fails the argument check for a kind of access. -/
def State.argBad (s : State) (k : XCtx) (p n : Nat) : State × Option Nat := State.argPages k p n (pageStarts p n) s

/-- The argument check of one argument (R141): the failing address. -/
def State.argCheck (s : State) (c : Fin 32) (code p n : Nat) : State × Option Nat :=
  let k (kind : Acc) : XCtx := { s.ctx c kind false with ad := false }
  let r := if code % 2 = 1 then s.argBad (k .read) p n else (s, none)
  let w := if code / 2 = 1 then r.1.argBad (k .write) p n else (r.1, none)
  (w.1, match r.2, w.2 with
    | some a, some b => some (min a b)
    | some a, none => some a
    | none, o => o)

/-- A gate fault (vector 15). -/
def gateFault (n cause : Nat) (va : Word) : Exn := exn 15 cause n va

/-- Check the arguments of a gate in order (R141). -/
def State.gateArgs (c : Fin 32) (n : Nat) (d : Gate) : List Nat → State → State × Option Exn
  | [], s => (s, none)
  | i :: r, s =>
    let code := bits d.amask (2 * i + 1) (2 * i)
    if code = 0 then State.gateArgs c n d r s
    else
      let p := (s.g c ⟨(10 + i) % 32, by omega⟩).toNat
      let len := (s.g c ⟨(16 + i) % 32, by omega⟩).toNat
      if 0x100000 < len ∨ 2 ^ 64 < p + len then (s, some (gateFault n 6 0))
      else match s.argCheck c code p len with
        | (s, some a) => (s, some (gateFault n (0x10 + i) (word a)))
        | (s, none) => State.gateArgs c n d r s

/-- The outcome of GATE: a fault; a call of level H by vector 4, whose saved PC is GATE + 4; or where execution goes on, or where
saved state resumes. -/
inductive GateOut where
  | fault (f : Exn) | hcall (f : Exn) | go (pc : Word) | resume (pc : Word)
  deriving DecidableEq, Repr

/-- Whether a husk refuses a gate (CAUSE 0x03 of Table 10.4): its state, owner, ring and listed entry addresses, ENTRY being
translated as a fetch at the target ring inside the husk. -/
def State.huskGateOk (s : State) (c : Fin 32) (d : Gate) : State × Bool :=
  let x := s.huskGet d.husk
  match s.translate ⟨c, some d.tring, some d.husk, .exec, false, false, true⟩ d.entry with
  | (s, .error _) => (s, false)
  | (s, .ok t) =>
    (s, s.hasHusks && x.st == .valid && x.owner == s.ownerByte (.core c) && x.ring.toNat == d.tring && x.entries.contains t.pa)

/-- A gate frame (Table 4.6). -/
def gateFrame (pc stat sp : Word) (n : Nat) : List Byte :=
  toBytes 8 (pc + 4).toNat ++ toBytes 8 stat.toNat ++ toBytes 8 sp.toNat ++ toBytes 8 (n % 2 ^ 16)

/-- Resume the state in a save slot (R343); a long instruction there owes a unit (R65). -/
def State.huskResume (s : State) (c : Fin 32) (n : Nat) (d : Gate) (sl : List Byte) : State × GateOut :=
  let a := s.acore.get c
  let w (off : Nat) : Word := word (ofBytes (slice sl off 8))
  let t : Fin 5 := fin 4 d.tring
  let r : HuskRec := ⟨d.husk, d.tring, a.stat, a.sp.get t, a.pc, w 0x18, n⟩
  let s := s.modA c fun a =>
    ({ a with
        g := Vector.ofFn fun k => if k.val = 0 then 0 else w (0x28 + 8 * (k.val - 1)),
        f := Vector.ofFn fun k => w (if k.val = 0 then 0x218 else 0x118 + 8 * k.val), fsr := fsrWrite (w 0x20),
        sp := vset a.sp t (w 0x118),
        stat := word (putBits (w 0x10 &&& 0x5F3 ||| (a.stat &&& ~~~(0x5F3 : Word))).toNat 1 0 d.tring) }).enterHusk r
  (s.clearSlot (s.huskGet d.husk) c, .resume (w 0x08))

/-- The husk's side of a gate (R340, R343). -/
def State.huskGate (s : State) (c : Fin 32) (n : Nat) (d : Gate) : State × GateOut :=
  match s.huskGateOk c d with
  | (s, false) => (s, .fault (exn 19 3 n 0))
  | (s, true) =>
    let x := s.huskGet d.husk
    let s := s.drainAll c
    if s.slotV x c.val then s.huskResume c n d (s.peekBytes (x.slot c.val) 0x220)
    else
      let a := s.acore.get c
      let fr := x.stack + word ((c.val + 1) * 2 ^ x.stackLog2.toNat) - 32
      let t : Fin 5 := fin 4 d.tring
      let k : XCtx := ⟨c, some d.tring, some d.husk, .write, false, true, true⟩
      match s.push k (fr + 32) (gateFrame a.pc a.stat (a.sp.get (a.spIdx s.hasH)) n) with
      | (s, .error e) => (s, .fault ⟨16, 2, 0, e.va, true, e.s2, false⟩)
      | (s, .ok ()) =>
        let r : HuskRec := ⟨d.husk, d.tring, a.stat, a.sp.get t, a.pc, fr, n⟩
        (s.modA c fun a => ({ a with sp := vset a.sp t fr, stat := word (putBits a.stat.toNat 1 0 d.tring) }).enterHusk r, .go d.entry)

/-- A gate to a ring without a husk: the frame is written as an access at the target ring, outside any husk (DESIGN CHOICE, log
entry 76). -/
def State.ringGate (s : State) (c : Fin 32) (n : Nat) (d : Gate) : State × GateOut :=
  let a := s.acore.get c
  let t : Fin 5 := fin 4 d.tring
  let sp := a.sp.get t
  match s.push ⟨c, some d.tring, none, .write, false, true, true⟩ sp (gateFrame a.pc a.stat (a.sp.get (a.spIdx s.hasH)) n) with
  | (s, .error e) => (s, .fault ⟨16, 2, 0, e.va, true, e.s2, false⟩)
  | (s, .ok ()) =>
    (s.modA c fun a => { a with sp := vset a.sp t (sp - 32), stat := word (putBits a.stat.toNat 1 0 d.tring) }, .go d.entry)

/-- GATE n at a ring (R141); inside a husk it is refused (CAUSE 0x04 of Table 10.4). -/
def State.gate (s : State) (c : Fin 32) (n : Nat) : State × GateOut :=
  let a := s.acore.get c
  let r := a.ring
  if a.inHusk.isSome then (s, .fault (exn 19 4 n 0))
  else if bits a.gtb.toNat 15 0 < n then (s, .fault (gateFault n 1 0))
  else match s.readNow ⟨c, some 0, none, .read, false, true, true⟩ (word (bits a.gtb.toNat 63 16 * 0x10000 + 32 * n)) 32 with
    | (s, .error f) => (s, .fault (gateFault n 2 f.va))
    | (s, .ok b) =>
      let d := gateOf b
      if !d.v || decide (4 < d.tring) || !d.zeros then (s, .fault (gateFault n 3 0))
      else if d.tring = 4 ∧ s.hasH = false then (s, .fault (gateFault n 3 0))
      else if d.cmax < r then (s, .fault (gateFault n 4 0))
      else if d.tring ≠ 4 ∧ r ≤ d.tring then (s, .fault (gateFault n 5 0))
      else if 6 < d.argc then (s, .fault (gateFault n 3 0))
      else match State.gateArgs c n d (List.range d.argc) s with
        | (s, some f) => (s, .fault f)
        | (s, none) =>
          if d.tring = 4 then (s, .hcall { exn 4 0 n 0 with toH := true })
          else if d.hg then s.huskGate c n d
          else s.ringGate c n d

/-- GRET inside a husk: the exit (R341), once every older store is written (R98). Its gate fault names the gate by which the husk was
entered (DESIGN CHOICE, log entry 77). -/
def State.huskGret (s : State) (c : Fin 32) (r : HuskRec) : State × Except Exn Word :=
  let s := s.drainAll c
  let a := s.acore.get c
  let idx := a.spIdx s.hasH
  if a.sp.get idx ≠ r.frame then (s, .error (gateFault r.index 0x20 0))
  else
    let m : Word := 0x403
    (s.modA c fun a => ({ a with sp := vset a.sp idx r.sp, stat := (a.stat &&& ~~~m) ||| (r.stat &&& m) }).leaveHusk, .ok (r.gate + 4))

/-- GRET at ring t (R144); the gate index of a gate fault is the frame's. -/
def State.gret (s : State) (c : Fin 32) : State × Except Exn Word :=
  let a := s.acore.get c
  match a.inHusk, a.husk with
  | some _, some r => s.huskGret c r
  | _, _ =>
    let idx := a.spIdx s.hasH
    let sp := a.sp.get idx
    match s.readNow (s.ctx c .read false) sp 32 with
    | (s, .error f) => (s, .error ⟨16, 3, 0, f.va, false, f.s2, false⟩)
    | (s, .ok b) =>
      let pc := word (ofBytes (slice b 0 8))
      let st := word (ofBytes (slice b 8 8))
      let ring := st.toNat % 4
      if ring ≤ a.ring ∨ st.getLsbD 2 = true ∨ st.getLsbD 3 ≠ a.stat.getLsbD 3 ∨ pc.toNat % 4 ≠ 0 then
        (s, .error (gateFault (ofBytes (slice b 24 2)) 0x20 0))
      else
        let m : Word := 0x403
        (s.modA c fun a =>
          { a with stat := (a.stat &&& ~~~m) ||| (st &&& m),
                   sp := vset (vset a.sp idx (sp + 32)) (fin 4 ring) (word (ofBytes (slice b 16 8))) }, .ok pc)

end Sys2Proof.Machine
end

