-- ==== Sys2Proof/WellFormed.lean ====
section
/-! DEFINITION. When a command is one of the table: an instruction row carries a word of its own row, or a word
that is illegal on every core (R47), which raises an illegal-instruction exception whatever row carries it. -/
namespace Sys2Proof

/-- The instruction word a command carries, with the row of the table the command belongs to. -/
def Instr.word : Instr → Option (IWord × String)
  | .integerOp _ w => some (w, "INTEGER_OP")
  | .multiply _ w => some (w, "MULTIPLY")
  | .divide _ w => some (w, "DIVIDE")
  | .load _ w _ => some (w, "LOAD")
  | .store _ w => some (w, "STORE")
  | .floatOp _ w => some (w, "FLOAT_OP")
  | .conditionalBranch _ w => some (w, "CONDITIONAL_BRANCH")
  | .jump _ w => some (w, "JUMP")
  | .registerJump _ w => some (w, "REGISTER_JUMP")
  | .amo _ w => some (w, "AMO")
  | .cas _ w => some (w, "CAS")
  | .lda _ w => some (w, "LDA")
  | .stl _ w => some (w, "STL")
  | .bcopy _ w _ => some (w, "BCOPY")
  | .bfill _ w _ => some (w, "BFILL")
  | .bcrc _ w _ => some (w, "BCRC")
  | .bcrcE _ w _ => some (w, "BCRC_E")
  | .ldm _ w _ => some (w, "LDM")
  | .stm _ w _ => some (w, "STM")
  | .mfs _ w => some (w, "MFS")
  | .mts _ w => some (w, "MTS")
  | .eret _ w => some (w, "ERET")
  | .tEret _ _ w => some (w, "ERET")
  | .gate _ w => some (w, "GATE")
  | .gret _ w => some (w, "GRET")
  | .fence _ w => some (w, "FENCE")
  | .fenceI _ w => some (w, "FENCE_I")
  | .fenceD _ w => some (w, "FENCE_D")
  | .fenceT _ w => some (w, "FENCE_T")
  | .spb _ w => some (w, "SPB")
  | .prflush _ w => some (w, "PRFLUSH")
  | .prbar _ w => some (w, "PRBAR")
  | .wfi _ w => some (w, "WFI")
  | .brk _ w => some (w, "BRK")
  | .nop _ w => some (w, "NOP")
  | .chkpt _ w => some (w, "CHKPT")
  | .tlbiva _ w => some (w, "TLBIVA")
  | .tlbivaa _ w => some (w, "TLBIVAA")
  | .tlbipcid _ w => some (w, "TLBIPCID")
  | .tlbipart _ w => some (w, "TLBIPART")
  | .tlbiipa _ w => some (w, "TLBIIPA")
  | .tlbis2 _ w => some (w, "TLBIS2")
  | .tlbiall _ w => some (w, "TLBIALL")
  | .dcc _ w => some (w, "DCC")
  | .dcci _ w => some (w, "DCCI")
  | .dci _ w => some (w, "DCI")
  | .ici _ w => some (w, "ICI")
  | .zline _ w => some (w, "ZLINE")
  | .loop _ w => some (w, "LOOP")
  | .cmove _ w => some (w, "CMOVE")
  | .cincb _ w => some (w, "CINCB")
  | .csetl _ w => some (w, "CSETL")
  | .candp _ w => some (w, "CANDP")
  | .cseal _ w => some (w, "CSEAL")
  | .cunseal _ w => some (w, "CUNSEAL")
  | .cclrt _ w => some (w, "CCLRT")
  | .cgetb _ w => some (w, "CGETB")
  | .cgetl _ w => some (w, "CGETL")
  | .cgetp _ w => some (w, "CGETP")
  | .cgett _ w => some (w, "CGETT")
  | .cgetg _ w => some (w, "CGETG")
  | .ccall _ w => some (w, "CCALL")
  | .cret _ w => some (w, "CRET")
  | .cmfc _ w => some (w, "CMFC")
  | .cmtc _ w => some (w, "CMTC")
  | .clc _ w => some (w, "CLC")
  | .csc _ w => some (w, "CSC")
  | _ => none

/-- Whether a word may stand on a row: it encodes an instruction of the row, or no instruction at all. -/
def wordOfRow (w : IWord) (row : String) : Bool :=
  match decodeWord w with
  | some i => i.row == row
  | none => true

/-- A command of the table. -/
def Instr.wf (c : Instr) : Bool :=
  match c.word with
  | some (w, row) => wordOfRow w row
  | none => true

end Sys2Proof
end

