-- ==== Sys2Proof/Machine/AExec.lean ====
section
/-! DEFINITION. How an A-core runs one instruction: fetch (R46, R147), delay slots (R56 to R62), commit, the predictors
(R103 to R107), the performance counters (R125 to R128), debug permission (R347), and where the next instruction is. -/
namespace Sys2Proof.Machine

/-- What an instruction does with the flow of control. -/
inductive Flow where
  /-- The next instruction follows. -/
  | seq
  /-- Execution goes on at an address, without a delay slot. -/
  | goto (pc : Word)
  /-- ERET continues at the saved address; a long instruction there owes a unit (R65, R154). -/
  | eret (pc : Word)
  /-- The delay slot executes, then the instruction at an address (R56). -/
  | slot (next : Word)
  /-- The delay slot is annulled (R57). -/
  | skip
  /-- An exception is raised at the instruction. -/
  | exn (f : Exn)
  /-- An exception is taken whose saved PC is the next instruction (R148). -/
  | call (f : Exn)
  /-- The instruction has not completed: it waits, or has units left. -/
  | stay
  deriving DecidableEq, Repr

/-- Whether a core executes instructions: running, clocked, and not waiting for a load that has to issue again. -/
def State.aRuns (s : State) (c : Fin 32) : Bool :=
  let a := s.acore.get c
  a.run == .running && s.domOn ⟨c.val, by omega⟩ && a.wait.isNone

/-! ## Debug permission (R347) -/

/-- Whether debug of a kind is permitted in the core's present context: `inv` for invasive, else for non-invasive by its own
enables. At level H and in HUSK mode no partition's bit applies; inside a husk its FLAGS do. -/
def State.debugBy (s : State) (c : Fin 32) (inv : Bool) : Bool :=
  let a := s.acore.get c
  let world := s.ev 0x3300 ((if a.secure then 1 else 3) + b2n (!inv)) != 0
  let part := !s.hasH || a.lh || bit (s.ev 0x3300 (if inv then 5 else 6)) a.part.toNat
  let husk := match a.inHusk with
    | some h => (s.huskGet h).flags.getLsbD (if inv then 2 else 3)
    | none => true
  world && part && husk

/-- Whether invasive debug is permitted. -/
def State.invasive (s : State) (c : Fin 32) : Bool := s.debugBy c true
/-- Whether non-invasive debug is permitted. -/
def State.nonInvasive (s : State) (c : Fin 32) : Bool := s.debugBy c true || s.debugBy c false

/-- A halt request takes effect once the core is in a context that permits it. -/
def State.haltTry (s : State) (c : Fin 32) : State :=
  let a := s.acore.get c
  if a.haltReq && a.run == .running && s.invasive c then s.modA c fun a => { a with haltReq := false, run := .halted } else s

/-! ## Performance counters -/

/-- Events of Table 3.7 that the model counts exactly (R125). -/
def exactEvent (e : Nat) : Bool := decide (0x01 ≤ e ∧ e ≤ 0x0F)
/-- Events of Table 3.7 whose number the model leaves free: those of cycles and of speculation (log entry 2). -/
def freeEvent (e : Nat) : Bool := [0x20, 0x21, 0x22, 0x23, 0x40, 0x41].contains e

/-- The context in which an instruction executes, as its counting sees it (R126, R127). -/
structure CountCtx where
  ring : Nat
  atH : Bool
  secure : Bool
  allowed : Bool
  deriving DecidableEq, Repr

/-- The context of a core's next instruction. -/
def State.countCtx (s : State) (c : Fin 32) : CountCtx :=
  let a := s.acore.get c
  ⟨a.ring, s.atH c, a.secure, s.nonInvasive c⟩

/-- Whether a counter counts in a context (R126, Table 3.8). -/
def CountCtx.counts (x : CountCtx) (e : Word) : Bool :=
  (if x.atH then e.getLsbD 12 else e.getLsbD (8 + x.ring)) && (!x.secure || e.getLsbD 13) && x.allowed

/-- The counter-overflow source of a core follows OVF and OVIE (R128). -/
def State.pmLine (s : State) (c : Fin 32) : State :=
  s.setLine (privKey c.val 17) ((s.acore.get c).pmevt.toList.any fun e => e.getLsbD 15 && e.getLsbD 14)

/-- Count the events of one committed instruction in one counter. -/
def State.countIn (c : Fin 32) (x : CountCtx) (evs : List Nat) (s : State) (n : Fin 8) : State :=
  let e := (s.acore.get c).pmevt.get n
  let code := bits e.toNat 7 0
  if !x.counts e then s
  else
    let (s, k) := if exactEvent code then (s, (evs.filter (· == code)).length)
      else if freeEvent code then ({ s with fresh := s.fresh + 1 }, Config.freeNat s.fresh)
      else (s, 0)
    let v := ((s.acore.get c).pmcnt.get n).toNat + k
    s.modA c fun a =>
      { a with pmcnt := vset a.pmcnt n (word (v % 2 ^ 48)), pmevt := vset a.pmevt n (if 2 ^ 48 ≤ v then e ||| 0x8000 else e) }

/-- Marks, among the events of an instruction, a branch or jump whose prediction may have failed. -/
def mayMiss : Nat := 0x103
/-- Marks a register jump whose prediction by the return stack or the indirect table may have failed. -/
def mayMissReg : Nat := 0x104

/-- Whether a branch or jump was mispredicted, and a register jump by the return stack or the indirect table, is free (log entry 2). -/
def State.mispredict (s : State) (evs : List Nat) : State × List Nat :=
  if evs.contains mayMiss then
    let (s, n) := s.draw
    let (s, m) := s.draw
    (s, if Config.freeBool n then
        0x03 :: (if evs.contains mayMissReg && Config.freeBool m then 0x04 :: evs else evs)
      else evs)
  else (s, evs)

/-- Count the events of a committed instruction. -/
def State.count (s : State) (c : Fin 32) (x : CountCtx) (evs : List Nat) : State :=
  let (s, evs) := s.mispredict evs
  ((allFin 8).foldl (State.countIn c x evs) s).pmLine c

/-! ## The return stack (R105) -/

/-- The return stack takes a call's return address; a full one loses its oldest entry (R105). -/
def State.retPush (s : State) (c : Fin 32) (pc : Word) : State :=
  let t := s.ctxTag c
  s.modA c fun a => { a with ret := ((t, pc) :: a.ret).take 48 }

/-- A return pops the return stack when the top entry's tag is the current context (R105). -/
def State.retPop (s : State) (c : Fin 32) : State :=
  let t := s.ctxTag c
  s.modA c fun a => { a with ret := match a.ret with
    | e :: r => if e.1 = t then r else a.ret
    | [] => [] }

/-! ## Fetch -/

/-- An instruction line enters the L1I where the pod's L2 holds it (R194). -/
def State.l1iFill (s : State) (c : Fin 32) (line : Nat) : State :=
  let a := s.acore.get c
  if a.l1i.contains line || (s.l2? (podOf c) line).isNone then s
  else
    let (v, s) := if a.l1i.length < l1Lines then (none, s) else s.pick a.l1i
    s.modA c fun a => { a with crc := a.crc.filter (· ≠ (true, line)), l1i := setIns line (match v with
      | some x => setPut x false a.l1i
      | none => a.l1i) }

/-- Fetch from a line of HBM: the L1I serves it, after a read with a CRC mismatch the L2 again (R200), and a miss is an event of the
instruction (Table 3.7). -/
def State.fetchLine (s : State) (c : Fin 32) (line : Nat) (type : MemType) (pc : Word) : State × Except Exn Unit :=
  let cached := memCached type
  let s := if cached && (s.acore.get c).crcBad true line then s.l1CrcError c true line else s
  if cached && (s.acore.get c).l1i.contains line then (s, .ok ())
  else
    let s := if cached then s.note c 0x0C else s
    let (s, _, poison) := s.coreLine c line type .good
    if poison then (s, .error (exn 17 2 0 pc)) else (if cached then s.l1iFill c line else s, .ok ())

/-- Fetch at the PC: translation and husk checks, error responses, poison (R147 step 1). The word itself is the command's; a fetch
from the register space reads the register (R27). -/
def State.fetch (s : State) (c : Fin 32) : State × Except Exn Unit :=
  let a := s.acore.get c
  let pc := a.pc
  if pc.toNat % 4 ≠ 0 then (s, .error (exn 6 0 0 pc))
  else
    match s.xlate (s.ctx c .exec false) pc with
    | (s, .error f) => (s, .error f)
    | (s, .ok x) =>
      if s.region x.pa = .regs then
        match s.regRead ⟨.core c, some x.type, x.pa, 4⟩ with
        | (s, .ok _) => (s, .ok ())
        | (s, .error r) => (s, .error (exn 14 (respCode r) 0 pc))
      else match s.coreErr c ⟨x.pa, x.type, pc, 4⟩ false with
      | some r => (s, .error (exn 14 (respCode r) 0 pc))
      | none =>
        if (s.region x.pa).isHbm then s.fetchLine c (x.pa / 64) x.type pc
        else if s.eccBad x.pa 4 then (s, .error (exn 17 2 0 pc))
        else (s, .ok ())

/-! ## Delay slots and commit -/

/-- Instructions that may not stand in an executed delay slot (R62). -/
def slotForbids : Aelxel → Bool
  | .branch _ _ _ _ _ | .jmp _ _ _ | .jr _ _ | .jalr _ _ _ | .gate _ | .gret | .eret | .block _ _ _ _ | .loop _ _ _ _
  | .ccall _ _ | .cret _ _ => true
  | .mts sr _ => sr == 0
  | _ => false

/-- An illegal-instruction exception (Table 4.7). -/
def illegal (w : IWord) : Exn := exn 1 0 0 (w.setWidth 64)
/-- A privileged-instruction exception. -/
def privExn (w : IWord) : Exn := exn 2 0 0 (w.setWidth 64)
/-- A hypervisor trap: for a system register, or for an instruction reserved to level H. -/
def hypTrap (w : IWord) (cause info : Nat) : Exn := { exn 3 cause info (w.setWidth 64) with toH := true }

/-- An instruction commits: its events count, those of its accesses among them, and where counters count, INSTRET and CYCLE advance,
CYCLE by a free number of cycles (R126, log entries 2 and 73). -/
def State.commit (s : State) (c : Fin 32) (x : CountCtx) (evs : List Nat) : State :=
  let s := { s with fresh := s.fresh + 1 }
  let n := Config.freeWord (s.fresh - 1)
  let all := 0x01 :: (evs ++ (s.acore.get c).evs)
  (s.modA c fun a =>
    { a with instret := if x.allowed then a.instret + 1 else a.instret, cycle := if x.allowed then a.cycle + n else a.cycle,
             longOwed := false, evs := [], split := none }).count c x all

/-- The flow of control after an instruction at pc that stands, or not, in a delay slot. -/
def ACore.advance (a : ACore) (f : Flow) : ACore :=
  match f with
  | .seq => match a.delay with
    | some d => { a with pc := d.next, delay := none }
    | none => { a with pc := a.pc + 4 }
  | .goto pc => { a with pc := pc, delay := none }
  | .eret pc => { a with pc := pc, delay := none, longOwed := true }
  | .slot next => { a with delay := some ⟨a.pc, next⟩, pc := a.pc + 4 }
  | .skip => { a with pc := a.pc + 8 }
  | .exn _ | .call _ | .stay => a

/-- A debug single step asks for a halt after the instruction (R347). -/
def State.stepDone (s : State) (c : Fin 32) : State :=
  (s.modA c fun a => { a with step1 := false, haltReq := a.haltReq || a.step1 }).haltTry c

/-- What follows the execution of an instruction that began in a context: it is counted there, and under the PMEVT and PMCNT that it
leaves (DESIGN CHOICE, log entry 73). -/
def State.finishA (s : State) (c : Fin 32) (x : CountCtx) (f : Flow) (evs : List Nat) : State :=
  match f with
  | .exn e => (s.raise c e).stepDone c
  | .call e =>
    let pc := (s.acore.get c).pc + 4
    ((s.commit c x evs).raiseAt c e pc false 0 false true).stepDone c
  | .stay => s.haltTry c
  | f => ((s.commit c x evs).modA c fun a => a.advance f).stepDone c

/-- What an instruction of an A-core does: the state, the flow of control and the events to count besides INST_RET. -/
abbrev ABody := Aelxel → State → State × Flow × List Nat

/-- Whether an interrupt targeted at the core, or virtually at the partition that it executes, is pending (R82). -/
def State.irqPending (s : State) (c : Fin 32) : Bool :=
  s.pendingAt (s.atCore c) || ((s.corePart c).map fun p => s.pendingAt (s.aimed 1 p)).getD false

/-- A pending interrupt or a halt request completes a WFI (R82). -/
def State.wakeWfi (s : State) (c : Fin 32) : State :=
  let a := s.acore.get c
  if a.run = .wfi ∧ (s.irqPending c ∨ a.haltReq) then s.modA c fun a => { a with run := .running } else s

/-- Run a fetched instruction word, legal or not. -/
def State.aRun (s : State) (c : Fin 32) (w : IWord) (body : ABody) : State :=
  let x := s.countCtx c
  match decodeWord w with
  | none => s.finishA c x (.exn (illegal w)) []
  | some i =>
    if (s.acore.get c).delay.isSome && slotForbids i then s.finishA c x (.exn (illegal w)) []
    else
      let (s, f, evs) := body i s
      s.finishA c x f evs

/-- Run one instruction word on an A-core (R46, R47, R62, R147): forced exits first (R344), then the fetch. An instruction whose
requests cannot be served yet waits (log entry 22). -/
def State.aStep (s : State) (c : Fin 32) (w : IWord) (body : ABody) : State :=
  s.served fun s =>
    let s := (s.wakeWfi c).haltTry c
    if (s.acore.get c).forced then s.forcedExit c
    else if !s.aRuns c then s
    else match s.fetch c with
      | (s, .error f) => s.finishA c (s.countCtx c) (.exn f) []
      | (s, .ok ()) => s.aRun c w body

/-- The body of an instruction that an A-core lacks. -/
def aLacks (w : IWord) : ABody := fun _ s => (s, .exn (illegal w), [])

end Sys2Proof.Machine
end

