-- ==== Sys2Proof/Machine/ABody.lean ====
section
/-! DEFINITION. What the instructions of Tables 2.4 to 2.10 do on an A-core. -/
namespace Sys2Proof.Machine

/-! ## Integer, multiply and divide -/

/-- The register that an integer, multiply or divide instruction writes, and the value, from the general registers and the PC
(Tables 2.4 and 2.5). -/
def regResult (g : Reg → Word) (pc : Word) : Aelxel → Option (Reg × Word)
  | .alu2 op w rd rs1 rs2 => some (rd, alu2 op w (g rs1) (g rs2))
  | .alu1 op w rd rs1 => some (rd, alu1 op w (g rs1))
  | .aluI op rd rs1 imm => some (rd, aluI op (g rs1) imm)
  | .shI op w rd rs1 sh => some (rd, alu2 (ShOp.alu2 op) w (g rs1) (word sh.val))
  | .lui rd imm => some (rd, immU imm)
  | .auipc rd imm => some (rd, pc + immU imm)
  | .mul op w rd rs1 rs2 => some (rd, mulOp op w (g rs1) (g rs2))
  | .div op w rd rs1 rs2 => some (rd, divOp op w (g rs1) (g rs2))
  | _ => none

/-- Integer instructions on an A-core. -/
def aReg (c : Fin 32) : ABody := fun i s =>
  match regResult (s.g c) (s.acore.get c).pc i with
  | some (rd, v) => (s.setG c rd v, .seq, [])
  | none => (s, .stay, [])

/-! ## Floating point -/

/-- The free choices of one floating-point operation (log entry 2). -/
def freeFp (n : Nat) : Free := ⟨Config.freeWord n, Config.freeBool n, Config.freeBool (n + 1)⟩

/-- Floating-point instructions on an A-core (Table 2.6). -/
def aFloat (c : Fin 32) (w : IWord) : ABody := fun i s =>
  match i with
  | .fp op single rm rd rs1 rs2 =>
    match roundingMode rm (s.acore.get c).fsr with
    | none => (s, .exn (illegal w), [])
    | some m =>
      let (d, fl) := fpOp op single m (freeFp s.fresh) (s.f c rd) (s.f c rs1) (s.f c rs2) (s.g c rs1)
      let s := { s with fresh := s.fresh + 2 }.modA c fun a => { a with fsr := raiseFlags a.fsr fl }
      match d with
      | .f v => (s.setF c rd v, .seq, [])
      | .g v => (s.setG c rd v, .seq, [])
  | _ => (s, .stay, [])

/-! ## Branches and jumps (R55 to R61) -/

/-- The events of a committed branch or jump: under the prediction bar each costs a misprediction (R109), else it may have been
mispredicted, a register jump by the return stack or the indirect table. -/
def State.brEvent (s : State) (c : Fin 32) (reg : Bool) : List Nat :=
  if s.barred c then [0x02, 0x03] else if reg then [0x02, mayMiss, mayMissReg] else [0x02, mayMiss]

/-- Lengths of the global histories of the tagged direction tables (Table 3.4). -/
def histLens : List Nat := [6, 12, 24, 48, 96, 192]

/-- The last n outcomes of the global history. -/
def ACore.history (a : ACore) (n : Nat) : List Bool := (a.hist ++ List.replicate n false).take n

/-- A conditional branch trains the base of the direction predictor, and a tagged table where one is chosen, which is free, and enters
the global history, unless the bar is in force (R103, log entry 2). -/
def State.learnBranch (s : State) (c : Fin 32) (taken : Bool) : State :=
  if s.barred c then s
  else
    let a := s.acore.get c
    let (s, n) := (s.predPut c .direction a.pc [] [] 0 taken).draw
    let s := match histLens[Config.freeNat n % 7]? with
      | some l => s.predPut c .direction a.pc (a.history l) [] 0 taken
      | none => s
    s.modA c fun a => { a with hist := (taken :: a.hist).take 192 }

/-- A taken branch or jump enters the target buffer, and the last 16 targets, unless the bar is in force; a jump through a register
enters the indirect table as well. -/
def State.learnTarget (s : State) (c : Fin 32) (indirect : Bool) (tgt : Word) : State :=
  if s.barred c then s
  else
    let a := s.acore.get c
    let s := s.predPut c .target a.pc [] [] tgt true
    let s := if indirect then s.predPut c .indirect a.pc [] a.path tgt true else s
    s.modA c fun a => { a with path := (tgt :: a.path).take 16 }

/-- A call pushes the return stack, unless the bar is in force (R105). -/
def State.callPush (s : State) (c : Fin 32) : State := if s.barred c then s else s.retPush c ((s.acore.get c).pc + 8)

/-- Conditional branches on an A-core (R56). -/
def aBranch (c : Fin 32) : ABody := fun i s =>
  match i with
  | .branch cond rs1 rs2 a off =>
    let pc := (s.acore.get c).pc
    let tgt := targetOf pc off
    let taken := condHolds cond (s.g c rs1) (s.g c rs2)
    let evs := s.brEvent c false
    let s := s.learnBranch c taken
    if taken then (s.learnTarget c false tgt, .slot tgt, evs)
    else if a then (s, .skip, evs) else (s, .slot (pc + 8), evs)
  | _ => (s, .stay, [])

/-- Where a jump goes on: its slot is annulled or executes (R56). -/
def jumpFlow (a : Bool) (tgt : Word) : Flow := if a then .goto tgt else .slot tgt

/-- J and JAL on an A-core. -/
def aJump (c : Fin 32) : ABody := fun i s =>
  match i with
  | .jmp link a off =>
    let pc := (s.acore.get c).pc
    let tgt := targetOf pc off
    let evs := s.brEvent c false
    let s := s.learnTarget c false tgt
    let s := if link then (s.callPush c).setG c 1 (pc + 8) else s
    (s, jumpFlow a tgt, evs)
  | _ => (s, .stay, [])

/-- JR and JALR on an A-core (R60, R61). A JR through the link register is a return, and every JALR a call, as JAL is (DESIGN CHOICE,
log entry 12). -/
def aRegJump (c : Fin 32) (w : IWord) : ABody := fun i s =>
  let pc := (s.acore.get c).pc
  let evs := s.brEvent c true
  match i with
  | .jr a rs1 =>
    let tgt := s.g c rs1
    if tgt.toNat % 4 ≠ 0 then (s, .exn (exn 6 0 0 tgt), [])
    else ((if rs1 = 1 ∧ s.barred c = false then s.retPop c else s).learnTarget c (rs1 ≠ 1) tgt, jumpFlow a tgt, evs)
  | .jalr a rd rs1 =>
    let tgt := s.g c rs1
    if rd = rs1 ∧ rd ≠ 0 then (s, .exn (illegal w), [])
    else if tgt.toNat % 4 ≠ 0 then (s, .exn (exn 6 0 0 tgt), [])
    else (((s.learnTarget c true tgt).callPush c).setG c rd (pc + 8), jumpFlow a tgt, evs)
  | _ => (s, .stay, [])

/-! ## Loads and stores -/

/-- A committed load of WB or WB-NWA memory trains the prefetcher: its stream is the one whose last address lies in the same
page, else a new one in the place of the oldest of 16 (R124; how streams are kept is log entry 41). -/
def ACore.trainStream (a : ACore) (va : Nat) : ACore :=
  match a.streams.find? fun t => t.last / 4096 == va / 4096 with
  | some t =>
    let d : Int := (va : Int) - t.last
    let t' : Stream := ⟨va, d, decide (d = t.stride ∧ d ≠ 0)⟩
    { a with streams := (a.streams.filter fun u => u.last / 4096 != va / 4096) ++ [t'] }
  | none => { a with streams := (if a.streams.length < 16 then a.streams else a.streams.drop 1) ++ [⟨va, 0, false⟩] }

/-- The event of an access that crosses a line (R119). -/
def splitEvent (va : Word) (n : Nat) : List Nat := if 64 < va.toNat % 64 + n then [0x0F] else []

/-- Loads on an A-core; one that has to wait issues again later (R115, R122). -/
def aLoad (c : Fin 32) (w : IWord) (ev : ArrayEvent) : ABody := fun i s =>
  match i with
  | .load op rd rs1 imm =>
    let va := eaI (s.g c rs1) imm
    match s.coreLoad (s.ctx c .read false) (alignRule va (LdOp.size op)) va (LdOp.size op) ev true with
    | (s, .error f) => (s, .exn f, [])
    | (s, .ok none) => (s.modA c fun a => { a with wait := some w }, .stay, [])
    | (s, .ok (some (b, trains))) =>
      let s := if trains then s.modA c fun a => a.trainStream va.toNat else s
      let v := LdOp.value op (ofBytes b)
      (if LdOp.float op then s.setF c rd v else s.setG c rd v, .seq, 0x05 :: splitEvent va (LdOp.size op))
  | _ => (s, .stay, [])

/-- Stores on an A-core. -/
def aStore (c : Fin 32) : ABody := fun i s =>
  match i with
  | .store op rt rs1 imm =>
    let va := eaI (s.g c rs1) imm
    let v := if StOp.float op then s.f c rt else s.g c rt
    match s.coreStore (s.ctx c .write false) (alignRule va (StOp.size op)) va (toBytes (StOp.size op) v.toNat) with
    | (s, .error f) => (s, .exn f, [])
    | (s, .ok ()) => (s, .seq, 0x06 :: splitEvent va (StOp.size op))
  | _ => (s, .stay, [])

/-! ## Atomics (R71, R72) -/

/-- Atomics are not permitted on device memory (R72). -/
def devRule : TypeRule := fun t => if isDev t then some (13, 0) else none

/-- Bytes of an atomic access. -/
def amoSize (dbl : Bool) : Nat := if dbl then 8 else 4

/-- A read, modification and write of aligned bytes, indivisible: in the pod's L2 for WB and WB-NWA memory (R213), where the L2
holds the line or allocates it (R210), else at the home agent or at the memory (R71, Table 6.4). Poison stops the write. -/
def State.amoAt (s : State) (c : Fin 32) (x : LineAcc) (op : AmoOp) (v cmp : Word) : State × List Byte × Bool :=
  let line := x.pa / 64
  if (s.region x.pa).isHbm then
    let p := podOf c
    let inL2 := (x.type == .wb || x.type == .wbNwa) && ((s.l2? p line).isSome || s.l2Allocates p)
    let s := if inL2 then s.ownLine c line else s
    match if inL2 then s.l2? p line else none with
    | some l =>
      let old := slice (lineBytesOf l.data) (x.pa % 64) x.n
      if l.poison || s.fatalBank (bankPod p) then (s, old, true)
      else (s.l2Write c line (x.pa % 64) (amoBytes op old v cmp) x.type .m, old, false)
    | none => s.homeAtomic x.pa x.n op v cmp (.core c)
  else
    let (s, old, poison) := s.memRead (.core c) x.pa x.n
    if poison then (s, old, true) else (s.memWrite (.core c) x.pa (amoBytes op old v cmp) false, old, false)

/-- The line access of an atomic instruction, translated and checked. -/
def State.amoAcc (s : State) (k : XCtx) (va : Word) (n : Nat) : State × Except Exn LineAcc :=
  if va.toNat % n ≠ 0 then (s, .error { exn 7 0 0 va with wr := k.wr })
  else match s.accsOf k devRule va n with
    | (s, .error f) => (s, .error f)
    | (s, .ok l) => match s.busExn k l, l with
      | some f, _ => (s, .error f)
      | none, x :: _ => (s, .ok x)
      | none, [] => (s, .error (exn 7 0 0 va))

/-- AMO and CAS on an A-core (Table 2.7). -/
def aAmo (c : Fin 32) : ABody := fun i s =>
  match i with
  | .amo op _ _ dbl rd rs1 rs2 =>
    let va := s.g c rs1
    let s := s.drainAll c
    match s.amoAcc (s.ctx c .write true) va (amoSize dbl) with
    | (s, .error f) => (s, .exn f, [])
    | (s, .ok x) =>
      match s.amoAt c x op (s.g c rs2) (s.g c rd) with
      | (s, _, true) => (s, .exn { exn 17 1 0 va with wr := true }, [])
      | (s, old, false) => (s.setG c rd (amoOld old), .seq, [])
  | _ => (s, .stay, [])

/-- LDA on an A-core (R72, R177); where no miss register is free it waits (R122). -/
def aLda (c : Fin 32) : ABody := fun i s =>
  match i with
  | .lda dbl rd rs1 =>
    let va := s.g c rs1
    let n := amoSize dbl
    let s := s.drainAll c
    if va.toNat % n ≠ 0 then (s, .exn (exn 7 0 0 va), [])
    else match s.coreLoad (s.ctx c .read true) devRule va n .good true with
      | (s, .error f) => (s, .exn f, [])
      | (s, .ok none) => (s, .stay, [])
      | (s, .ok (some (b, trains))) =>
        let s := if trains then s.modA c fun a => a.trainStream va.toNat else s
        (s.setG c rd (amoOld b), .seq, [0x05])
  | _ => (s, .stay, [])

/-- STL on an A-core (R32, R72, R177). -/
def aStl (c : Fin 32) : ABody := fun i s =>
  match i with
  | .stl dbl rs1 rs2 =>
    let va := s.g c rs1
    let n := amoSize dbl
    let s := s.drainAll c
    if va.toNat % n ≠ 0 then (s, .exn { exn 7 0 0 va with wr := true }, [])
    else match s.coreStore (s.ctx c .write true) devRule va (toBytes n (s.g c rs2).toNat) with
      | (s, .error f) => (s, .exn f, [])
      | (s, .ok ()) => (s, .seq, [0x06])
  | _ => (s, .stay, [])

/-! ## Long instructions (R63 to R70) -/

/-- Whether a long instruction is illegal before any unit (R69). -/
def blockIllegal (g : Reg → Word) (op : BlkOp) (rd rs1 rs2 : Reg) : Bool :=
  match op with
  | .ldm | .stm =>
    let m := (g rs2).toNat
    rs1 == 0 || rs2 == 0 || rs1 == rs2 || bit m 0 || bit m rs1.val || bit m rs2.val || decide (m / 2 ^ 32 ≠ 0)
  | .bfill => rd == 0 || rs2 == 0 || rd == rs1 || rs1 == rs2 || rd == rs2
  | _ => rd == 0 || rs1 == 0 || rs2 == 0 || rd == rs1 || rs1 == rs2 || rd == rs2

/-- The lowest register of a mask. -/
def firstReg (m : Nat) : Reg := ⟨(lowestBit m 32 0).getD 0 % 32, Nat.mod_lt _ (by decide)⟩

/-- A unit's read of n bytes; the error is none where it waits for a miss register (R122). -/
def State.unitRead (s : State) (c : Fin 32) (va : Word) (n : Nat) : State × Except (Option Exn) Nat :=
  match s.coreLoad (s.ctx c .read false) devRule va n .good true with
  | (s, .error f) => (s, .error (some f))
  | (s, .ok none) => (s, .error none)
  | (s, .ok (some (b, _))) => (s, .ok (ofBytes b))

/-- A unit's write of bytes. -/
def State.unitWrite (s : State) (c : Fin 32) (va : Word) (b : List Byte) : State × Except (Option Exn) Unit :=
  match s.coreStore (s.ctx c .write false) devRule va b with
  | (s, .error f) => (s, .error (some f))
  | (s, .ok ()) => (s, .ok ())

/-- One unit of a long instruction with work left (R63, R66 to R68), from the access to the registers and to memory of the
core that runs it. -/
def blkUnit {ε : Type} (get : State → Reg → Word) (set : State → Reg → Word → State)
    (rdMem : State → Word → Nat → State × Except ε Nat) (wrMem : State → Word → List Byte → State × Except ε Unit)
    (op : BlkOp) (rd rs1 rs2 : Reg) (s : State) : State × Except ε Unit :=
  let src := get s rs1
  let dst := get s rd
  let n := get s rs2
  match op with
  | .bcopy => match rdMem s src 1 with
    | (s, .error f) => (s, .error f)
    | (s, .ok v) => match wrMem s dst (toBytes 1 v) with
      | (s, .error f) => (s, .error f)
      | (s, .ok ()) => (set (set (set s rd (dst + 1)) rs1 (src + 1)) rs2 (n - 1), .ok ())
  | .bfill => match wrMem s dst (toBytes 1 src.toNat) with
    | (s, .error f) => (s, .error f)
    | (s, .ok ()) => (set (set s rd (dst + 1)) rs2 (n - 1), .ok ())
  | .bcrc | .bcrcE => match rdMem s src 1 with
    | (s, .error f) => (s, .error f)
    | (s, .ok v) =>
      let crc := crc32 (if op = .bcrc then polyC else polyE) (dst.setWidth 32) (toBytes 1 v)
      (set (set (set s rd (crc.setWidth 64)) rs1 (src + 1)) rs2 (n - 1), .ok ())
  | .ldm =>
    let r := firstReg n.toNat
    match rdMem s src 8 with
    | (s, .error f) => (s, .error f)
    | (s, .ok v) => (set (set (set s r (word v)) rs1 (src + 8)) rs2 (word (n.toNat - 2 ^ r.val)), .ok ())
  | .stm =>
    let r := firstReg n.toNat
    match wrMem s src (toBytes 8 (get s r).toNat) with
    | (s, .error f) => (s, .error f)
    | (s, .ok ()) => (set (set s rs1 (src + 8)) rs2 (word (n.toNat - 2 ^ r.val)), .ok ())

/-- One unit of a long instruction on an A-core. -/
def State.unitA (s : State) (c : Fin 32) (op : BlkOp) (rd rs1 rs2 : Reg) : State × Except (Option Exn) Unit :=
  blkUnit (fun s r => s.g c r) (fun s r v => s.setG c r v) (fun s va n => s.unitRead c va n) (fun s va b => s.unitWrite c va b)
    op rd rs1 rs2 s

/-- Up to n units of a long instruction. -/
def State.unitsA (c : Fin 32) (op : BlkOp) (rd rs1 rs2 : Reg) : Nat → State → State × Flow
  | 0, s => (s, if s.g c rs2 = 0 then .seq else .stay)
  | n + 1, s =>
    if s.g c rs2 = 0 then (s, .seq)
    else match s.unitA c op rd rs1 rs2 with
      | (s, .error (some f)) => (s, .exn f)
      | (s, .error none) => (s, .stay)
      | (s, .ok ()) => State.unitsA c op rd rs1 rs2 n (s.modA c fun a => { a with longOwed := false })

/-- A long instruction on an A-core does at least one unit, and up to `units` of them (R65); it completes when its count or
mask is zero (R63). -/
def aBlock (c : Fin 32) (w : IWord) (units : Nat) : ABody := fun i s =>
  match i with
  | .block op rd rs1 rs2 =>
    let s := s.drainAll c
    let base := s.g c rs1
    if blockIllegal (s.g c) op rd rs1 rs2 then (s, .exn (illegal w), [])
    else if (op = .ldm ∨ op = .stm) ∧ s.g c rs2 ≠ 0 ∧ base.toNat % 8 ≠ 0 then
      (s, .exn { exn 7 0 0 base with wr := op == .stm }, [])
    else
      let (s, f) := State.unitsA c op rd rs1 rs2 (max 1 units) s
      (s, f, [])
  | _ => (s, .stay, [])

/-! ## System registers (Table 4.2) -/

/-- The lowest position that may access a system register: every ring, ring 0, or level H; `none` where no position may. -/
inductive SysLvl where
  | all | ring0 | levelH | never
  deriving DecidableEq, Repr

/-- Positions that read and write a system register; none for an unassigned number. -/
def sysLevel (n : Nat) : Option (SysLvl × SysLvl) :=
  if n = 0 then some (.all, .ring0)
  else if n = 1 then some (.all, .all)
  else if 0x008 ≤ n ∧ n ≤ 0x00B then some (.ring0, .ring0)
  else if n = 0x00C then some (.levelH, .levelH)
  else if 0x010 ≤ n ∧ n ≤ 0x016 then some (.ring0, .ring0)
  else if n = 0x018 ∨ (0x01A ≤ n ∧ n ≤ 0x01E) then some (.levelH, .levelH)
  else if 0x020 ≤ n ∧ n ≤ 0x024 then some (.ring0, .ring0)
  else if n = 0x025 ∨ n = 0x026 then some (.levelH, .levelH)
  else if n = 0x030 ∨ n = 0x031 ∨ n = 0x050 then some (.all, .never)
  else if 0x040 ≤ n ∧ n ≤ 0x04F then some (.ring0, .ring0)
  else none

/-- The exception that an access meets at the core's position (R137, R79). -/
def State.sysRefuse (s : State) (c : Fin 32) (w : IWord) (n : Nat) : SysLvl → Option Exn
  | .all => none
  | .never => some (privExn w)
  | .ring0 => if s.atH c || (s.acore.get c).ring == 0 then none else some (privExn w)
  | .levelH =>
    if s.atH c then none
    else if s.hasH && (s.acore.get c).ring == 0 then some (hypTrap w 1 n)
    else some (privExn w)

/-- Read a system register. -/
def ACore.sysRead (a : ACore) (c : Fin 32) (n : Nat) : Word :=
  if 0x008 ≤ n ∧ n ≤ 0x00C then a.sp.get (fin 4 (n - 8))
  else if 0x040 ≤ n ∧ n < 0x048 then a.pmevt.get (fin 7 (n - 0x40))
  else if 0x048 ≤ n ∧ n < 0x050 then a.pmcnt.get (fin 7 (n - 0x48))
  else match n with
  | 0x000 => a.stat
  | 0x001 => a.fsr.setWidth 64
  | 0x010 => a.vtb0 | 0x011 => a.gtb | 0x012 => a.esp0
  | 0x013 => a.x0.xpc | 0x014 => a.x0.xst | 0x015 => a.x0.xsy | 0x016 => a.x0.xva
  | 0x018 => a.vtbh | 0x01A => a.esph
  | 0x01B => a.xh.xpc | 0x01C => a.xh.xst | 0x01D => a.xh.xsy | 0x01E => a.xh.xva
  | 0x020 => a.pcid.setWidth 64
  | 0x021 => a.tcr | 0x022 => a.mat | 0x023 => a.ttb0 | 0x024 => a.ttb1 | 0x025 => a.ttbh
  | 0x026 => a.part.setWidth 64
  | 0x030 => a.cycle | 0x031 => a.instret
  | 0x050 => word c.val
  | _ => 0

/-- Bits of a system register that hold what is written (R8). -/
def sysMask (n : Nat) : Word :=
  match n with
  | 0x010 | 0x018 => 0xFFFFFFFFFFFFF800
  | 0x012 | 0x01A => 0xFFFFFFFFFFFFFFF0
  | 0x014 | 0x01C => 0xFFF
  | 0x015 | 0x01D => 0x000FFFFF0007FFFF
  | 0x021 => 3
  | 0x022 => 0x0707070707070707
  | 0x023 | 0x024 | 0x025 => 0x00000FFFFFFFF000
  | _ => 0xFFFFFFFFFFFFFFFF

/-- Write a system register other than STAT and PART. -/
def ACore.sysWrite (a : ACore) (n : Nat) (x : Word) : ACore :=
  let v := x &&& sysMask n
  if 0x008 ≤ n ∧ n ≤ 0x00C then { a with sp := vset a.sp (fin 4 (n - 8)) v }
  else if 0x040 ≤ n ∧ n < 0x048 then
    let k := fin 7 (n - 0x40)
    let old := a.pmevt.get k
    let keep : Word := if a.secure then 0x5FFF ||| 0x2000 else 0x5FFF
    let sec : Word := if a.secure then v &&& 0x2000 else old &&& 0x2000
    let ovf : Word := old &&& 0x8000 &&& ~~~v
    { a with pmevt := vset a.pmevt k ((v &&& keep &&& ~~~(0x2000 : Word)) ||| sec ||| ovf) }
  else if 0x048 ≤ n ∧ n < 0x050 then { a with pmcnt := vset a.pmcnt (fin 7 (n - 0x48)) (v &&& 0xFFFFFFFFFFFF) }
  else match n with
  | 0x001 => { a with fsr := fsrWrite v }
  | 0x010 => { a with vtb0 := v } | 0x011 => { a with gtb := v } | 0x012 => { a with esp0 := v }
  | 0x013 => { a with x0 := { a.x0 with xpc := v } } | 0x014 => { a with x0 := { a.x0 with xst := v } }
  | 0x015 => { a with x0 := { a.x0 with xsy := v } } | 0x016 => { a with x0 := { a.x0 with xva := v } }
  | 0x018 => { a with vtbh := v } | 0x01A => { a with esph := v }
  | 0x01B => { a with xh := { a.xh with xpc := v } } | 0x01C => { a with xh := { a.xh with xst := v } }
  | 0x01D => { a with xh := { a.xh with xsy := v } } | 0x01E => { a with xh := { a.xh with xva := v } }
  | 0x020 => { a with pcid := v.setWidth 10 }
  | 0x021 => { a with tcr := v } | 0x022 => { a with mat := v }
  | 0x023 => { a with ttb0 := v } | 0x024 => { a with ttb1 := v } | 0x025 => { a with ttbh := v }
  | _ => a

/-- MFS on an A-core (R79, R137). -/
def aMfs (c : Fin 32) (w : IWord) : ABody := fun i s =>
  match i with
  | .mfs rd sr => match sysLevel sr.toNat with
    | none => (s, .exn (illegal w), [])
    | some (r, _) => match s.sysRefuse c w sr.toNat r with
      | some f => (s, .exn f, [])
      | none =>
        let s := s.drainAll c
        (s.setG c rd ((s.acore.get c).sysRead c sr.toNat), .seq, [])
  | _ => (s, .stay, [])

/-- STAT as MTS writes it at ring 0 or level H (R135, R136). -/
def mtsStat (hLevel atH : Bool) (old v : Word) : Word :=
  let m : Word := if atH then 0x5F7 else 0x5F3
  clearXm hLevel ((old &&& ~~~m) ||| (v &&& m))

/-- Whether a core may execute a partition in its world (R327). -/
def State.partOk (s : State) (c : Fin 32) (p : Nat) : Bool :=
  s.ev (0x3100 + p) 1 != 0 && s.partSecure p == (s.acore.get c).secure && bit (s.ev (0x3100 + p) 3) (c.val / 4)

/-- MTS on an A-core (R79, R135, R137, R327, R331). -/
def aMts (c : Fin 32) (w : IWord) : ABody := fun i s =>
  match i with
  | .mts sr rs1 => match sysLevel sr.toNat with
    | none => (s, .exn (illegal w), [])
    | some (_, wr) => match s.sysRefuse c w sr.toNat wr with
      | some f => (s, .exn f, [])
      | none =>
        let v := s.g c rs1
        let s := s.drainAll c
        let a := s.acore.get c
        if sr = 0 then (s.modA c fun a => { a with stat := mtsStat s.hasH (s.atH c) a.stat v }, .seq, [])
        else if sr = 0x026 then
          if s.partOk c (v.toNat % 64) then (s.modA c fun a => { a with part := v.setWidth 6 }, .seq, []) else (s, .exn (privExn w), [])
        else if sr = 0x020 ∧ s.inPart c = true ∧
            v.toNat % 1024 &&& s.ev (0x3100 + a.part.toNat) 6 ≠ s.ev (0x3100 + a.part.toNat) 5 then (s, .exn (hypTrap w 1 0x020), [])
        else ((s.modA c fun a => a.sysWrite sr.toNat v).pmLine c, .seq, [])
  | _ => (s, .stay, [])

/-! ## Other system instructions -/

/-- Whether the core is at rings 1 to 3. -/
def State.outer (s : State) (c : Fin 32) : Bool := !s.atH c && (s.acore.get c).ring != 0

/-- ERET on an A-core (R154). -/
def aEret (c : Fin 32) (w : IWord) : ABody := fun i s =>
  match i with
  | .eret =>
    if s.outer c then (s, .exn (privExn w), [])
    else match s.eret c with
      | (s, .error f) => (s, .exn f, [])
      | (s, .ok pc) => (s, .eret pc, [])
  | _ => (s, .stay, [])

/-- GATE on an A-core (R141). -/
def aGate (c : Fin 32) (w : IWord) : ABody := fun i s =>
  match i with
  | .gate n =>
    if s.atH c then (s, .exn (illegal w), [])
    else match s.gate c n.toNat with
      | (s, .fault f) => (s, .exn f, [])
      | (s, .hcall f) => (s, .call f, [])
      | (s, .go pc) => (s, .goto pc, [])
      | (s, .resume pc) => (s, .eret pc, [])
  | _ => (s, .stay, [])

/-- GRET on an A-core (R144, R341). -/
def aGret (c : Fin 32) (w : IWord) : ABody := fun i s =>
  match i with
  | .gret =>
    if s.atH c then (s, .exn (illegal w), [])
    else match s.gret c with
      | (s, .error f) => (s, .exn f, [])
      | (s, .ok pc) => (s, .goto pc, [])
  | _ => (s, .stay, [])

/-- FENCE, FENCE.I and FENCE.D on an A-core: every older store is written (R74, R98); a FENCE.D, and a FENCE that names older stores,
completes once every older DEV-P store has arrived (R229). -/
def aFence (c : Fin 32) : ABody := fun i s =>
  let s := s.drainAll c
  match i with
  | .fence .d => (s.arriveAll c, .seq, [])
  | .fence (.order m) => (if m.getLsbD 1 then s.arriveAll c else s, .seq, [])
  | _ => (s, .seq, [])

/-- A TLB operation takes effect on the core it travels to (R188). -/
def State.tlbEffect (s : State) (t : TlbPend) : State := s.modA t.dst fun a => a.tlbi t.op t.world t.part t.pbit

/-- FENCE.T on an A-core: every older TLB operation of the core takes effect everywhere, and every store that another core made by
an older translation has been written (R74, R189). -/
def aFenceT (c : Fin 32) : ABody := fun _ s =>
  let s := s.drainAll c
  let mine := s.tlbPend.filter fun t => t.src == c
  let s := mine.foldl (fun s t => s.tlbEffect t) s
  let s := (allFin 32).foldl (fun s k => (s.drainAll k).arriveAll k) s
  ({ s with tlbPend := s.tlbPend.filter fun t => t.src != c }, .seq, [])

/-- SPB on an A-core (R75): this model commits in order. -/
def aSpb (c : Fin 32) : ABody := fun _ s => (s.drainAll c, .seq, [])

/-- PRFLUSH on an A-core (R76, R77, R108). -/
def aPrflush (c : Fin 32) (w : IWord) : ABody := fun i s =>
  match i with
  | .prflush scope =>
    let a := s.acore.get c
    if s.outer c then (s, .exn (privExn w), [])
    else if scope && !s.atH c && s.hasH && !a.secure then (s, .exn (hypTrap w 2 0), [])
    else
      let t := s.ctxTag c
      let s := s.drainAll c
      (s.modA c fun a => { a with ret := [], pred := if scope then [] else a.pred.filter fun e => e.ctx != t }, .seq, [])
  | _ => (s, .stay, [])

/-- PRBAR on an A-core (R78). -/
def aPrbar (c : Fin 32) : ABody := fun i s =>
  match i with
  | .prbar b =>
    let s := s.drainAll c
    (s.modA c fun a => { a with stat := if b then a.stat ||| 0x400 else a.stat &&& ~~~(0x400 : Word) }, .seq, [])
  | _ => (s, .stay, [])

/-- WFI on an A-core: the core waits unless an interrupt targeted at it is pending (R82). -/
def aWfi (c : Fin 32) (w : IWord) : ABody := fun _ s =>
  if s.outer c then (s, .exn (privExn w), [])
  else
    let s := s.drainAll c
    (if s.irqPending c || (s.acore.get c).haltReq then s else s.modA c fun a => { a with run := .wfi }, .seq, [])

/-- BRK on an A-core (R83). -/
def aBrk (_c : Fin 32) : ABody := fun i s =>
  match i with
  | .brk code => (s, .exn (exn 5 0 code.toNat 0), [])
  | _ => (s, .stay, [])

/-- NOP. -/
def aNop : ABody := fun _ s => (s, .seq, [])

/-! ## Maintenance (Table 2.10) -/

/-- What the executing core's operation selects (R188). -/
def State.tlbOpOf (s : State) (c : Fin 32) (op : TlbiOp) (v : Word) : TlbOp :=
  match op with
  | .va => .va v (s.acore.get c).pcid
  | .vaAll => .vaAll v
  | .pcid => .pcid (v.setWidth 10)
  | .part => .part
  | .ipa => .ipa v
  | .s2 => .s2 (v.toNat % 64)
  | .all => .all

/-- Whether a TLB operation is reserved to level H. -/
def TlbiOp.needsH : TlbiOp → Bool
  | .ipa | .s2 | .all => true
  | _ => false

/-- The exception of a TLB operation at the core's position (Table 2.10, R188). -/
def State.tlbiRefuse (s : State) (c : Fin 32) (w : IWord) (op : TlbiOp) : Option Exn :=
  if s.atH c then none
  else if s.outer c then some (privExn w)
  else if !(TlbiOp.needsH op) then none
  else if s.hasH then some (hypTrap w 2 0)
  else if op = .all then none
  else some (privExn w)

/-- TLB operations on an A-core: at once on the core itself, later on every other powered core (R188, R189). -/
def aTlbi (c : Fin 32) (w : IWord) : ABody := fun i s =>
  match i with
  | .tlbi op p rs1 => match s.tlbiRefuse c w op with
    | some f => (s, .exn f, [])
    | none =>
      let s := s.drainAll c
      let a := s.acore.get c
      let t : TlbPend := ⟨c, c, a.secure, s.tagPart c, s.tlbOpOf c op (s.g c rs1), p⟩
      let others := (allFin 32).filter fun k => k != c && (s.acore.get k).powered
      let s := s.tlbEffect t
      ({ s with tlbPend := s.tlbPend ++ others.map fun k => { t with dst := k } }, .seq, [])
  | _ => (s, .stay, [])

/-- Kind of access by which a cache operation is checked (R222). -/
def CacheOp.kind : CacheOp → Acc
  | .dcc | .dcci | .ici => .read
  | .dci | .zline => .write

/-- Cache operations on an A-core (R222, Table 6.6). -/
def aCache (c : Fin 32) (w : IWord) : ABody := fun i s =>
  match i with
  | .cache op rs1 =>
    if op = .dci ∧ s.outer c then (s, .exn (privExn w), [])
    else
      let s := s.drainAll c
      let va := s.g c rs1
      let k := s.ctx c (CacheOp.kind op) false
      let rule : TypeRule := fun t => if op = .zline ∧ isDev t then some (13, 0) else none
      match s.accsOf k rule va 1 with
      | (s, .error f) => (s, .exn f, [])
      | (s, .ok []) => (s, .seq, [])
      | (s, .ok (x :: _)) =>
        if isDev x.type then (s, .seq, [])
        else match s.coreErr c x k.wr with
          | some r => if op = .zline then (s.postedError (.core c) x.pa r, .seq, []) else (s, .exn { exn 14 (respCode r) 0 va with wr := k.wr }, [])
          | none =>
            if !(s.region x.pa).isHbm then (s, .seq, [])
            else
              let line := x.pa / 64
              (match op with
                | .dcc => s.dcc line (s.coreTc c)
                | .dcci => s.dcci line (s.coreTc c)
                | .dci => s.dci line
                | .ici => s.ici line
                | .zline => s.zline c line x.type, .seq, [])
  | _ => (s, .stay, [])

end Sys2Proof.Machine
end

