-- ==== Sys2Proof/Machine/MeshOps.lean ====
section
/-! DEFINITION. Accesses that masters send over the mesh: register writes (R27 to R36), writes to TCMs (R25), inbound PCIe
requests (R166, R207, R328), and the dictionary commands that can destroy a husk (R344). -/
namespace Sys2Proof.Machine

/-- HUSK_DESTROY: CONTROL 0x03; the cores inside leave by a forced exit (R344). -/
def execHuskDestroy (q : Req) (h : Fin 1024) (s : State) : Host.Outcome State Fault Refusal :=
  .next (s.served fun s => (s.reqWrite q (huskKey h 2) 3).settleForced)

/-- DICT_WINDOW_WRITE: only A-cores, T-cores and the SMC have access (R439, R440). -/
def execDictWindowWrite (m : Master) (index : BitVec 16) (sub : Byte) (v : Word) (s : State) : Host.Outcome State Fault Refusal :=
  .next <| s.served fun s =>
    if (winPage m).isNone then { s with reply := .error .wlderr }
    else (s.windowWrite m (keyOf index sub) v).settleForced

/-- MB_WRITE: MB_CMD 0b10 in a mailbox page (R443). -/
def execMbWrite (m : Master) (p : Fin 64) (s : State) : Host.Outcome State Fault Refusal :=
  .next (s.served fun s => (s.mailAccess m p fun s => s.mailCmd m p 2).settleForced)

/-- The memory type that a master's access carries: the SMC's carry none (R543). -/
def typeOfAccess (m : Master) (t : MemType) : Option MemType := if m = .smc then none else some t

/-- Whether a requester is told of the error response to its write: a DMA-capable block, or a DEV-S store (R32). The SMC's writes
carry no type and are posted. -/
def toldOf (m : Master) (t : MemType) : Bool := masterDma m || typeOfAccess m t == some .devS

/-- A write that is refused changes nothing; a posted one is recorded (R31, R32). -/
def State.writeRefused (s : State) (m : Master) (t : MemType) (a : Nat) (r : Resp) : State :=
  if toldOf m t then { s with reply := .error r } else s.postedError m a r

/-- REGISTER_WRITE: a write to the register space by a master. -/
def execRegisterWrite (m : Master) (t : MemType) (addr : PA) (size : Nat) (v : Word) (s : State) : Host.Outcome State Fault Refusal :=
  .next <| s.served fun s =>
    if s.region addr.toNat ≠ .regs then s
    else match s.regWrite ⟨m, typeOfAccess m t, addr.toNat, size⟩ v with
      | .ok s => s.settleForced
      | .error r => s.writeRefused m t addr.toNat r

/-- Whether an address lies in a TCM. -/
def Region.isTcm : Region → Bool
  | .tcm _ _ _ _ => true
  | _ => false

/-- TCM_MESH_WRITE: a write of up to 8 bytes within one line to a TCM (R25); it clears the tags of the granules it touches
(R26). -/
def execTcmMeshWrite (m : Master) (t : MemType) (addr : PA) (size : Nat) (v : Word) (s : State) : Host.Outcome State Fault Refusal :=
  .next <|
    let a := addr.toNat
    if !(s.region a).isTcm || decide (size = 0 ∨ 8 < size ∨ 64 < a % 64 + size) then s
    else match s.accessErr m (typeOfAccess m t) a size true with
      | some r => s.writeRefused m t a r
      | none => s.memWrite m a (toBytes size v.toNat) false

/-! ## Entry to SUSPEND -/

/-- SUSPEND_CORES_IDLE: the rest of the entry, the attempts in progress having ended (R481, R482, R484) and every DEV-P store having
arrived (R229). -/
def execSuspendCoresIdle (s : State) : Host.Outcome State Fault Refusal :=
  .next <| s.served fun s =>
    if !s.coresIdle || !s.busIdle then s
    else
      let arrived (s : State) : State := (allFin 32).foldl (fun s c => s.arriveAll c) s
      match s.hazel.dev with
      | .toSuspend => (arrived s).suspendEntry.heldWake
      | .toSleep => ((arrived s).quiesce.sleepEntry).heldWake
      | _ => s

/-! ## Inbound PCIe -/

/-- Poison that a root port's request consumes (R508, code 0x13). -/
def State.pciePoison (s : State) (k : Fin 2) (a : Nat) (poison : Bool) : State :=
  if poison then s.record bankPcie 0x13 5 k.val (a / 64 * 64) 0 else s

/-- A read from a root port: a register, or memory. -/
def State.pcieRead (s : State) (k : Fin 2) (a len : Nat) : State :=
  if s.region a = .regs then
    match s.regRead ⟨.pcie k, none, a, len⟩ with
    | (s, .ok v) => { s with reply := .bytes (toBytes len v.toNat) false }
    | (s, .error r) => { s with reply := .error r }
  else match (partsOf a len).findSome? fun p => s.dmaErr (.pcie k) p.1 p.2 false with
    | some r => { s with reply := .error r }
    | none => match s.dmaRead (.pcie k) a len with
      | (s, some (b, poison)) => { s.pciePoison k a poison with reply := .bytes b poison }
      | (s, none) => s

/-- A write from a root port: an MSI doorbell, a register, or memory, each line part on its own (R542). -/
def State.pcieWrite (s : State) (k : Fin 2) (a : Nat) (d : List Byte) : State :=
  if a = 0xFFF00000 then
    if d.length = 4 ∧ ofBytes d / 2 ^ 11 = 0 then s.pulse (1024 + ofBytes d)
    else s.record bankPcie 0x2D k.val 0 0 (ofBytes (d.take 4))
  else if s.region a = .regs then
    match s.regWrite ⟨.pcie k, none, a, d.length⟩ (word (ofBytes d)) with
    | .ok s => s.settleForced
    | .error r => { s with reply := .error r }
  else
    let bad := (partsOf a d.length).findSome? fun p => s.dmaErr (.pcie k) p.1 p.2 true
    let s := (s.dmaWrite (.pcie k) a d).1
    match bad with
    | some r => { s with reply := .error r }
    | none => s

/-- An atomic from a root port, of 4 or 8 aligned bytes of HBM, carried by HA_ATOMIC: `d` holds the operand, and for a
compare-and-swap the value compared behind it. -/
def State.pcieAtomic (s : State) (k : Fin 2) (op : AmoOp) (a : Nat) (d : List Byte) (n : Nat) : State :=
  if (n ≠ 4 ∧ n ≠ 8) ∨ a % n ≠ 0 then s
  else if s.region a = .regs then { s with reply := .error .typerr }
  else match s.dmaErr (.pcie k) a n true with
    | some r => { s with reply := .error r }
    | none =>
      let v := word (ofBytes (slice d 0 n))
      let cmp := word (ofBytes (slice d n n))
      if (s.region a).isHbm then
        let (s, b, poison) := s.homeAtomic a n op v cmp (.pcie k)
        { s.pciePoison k a poison with reply := .bytes b poison }
      else
        let (s, b, poison) := s.memRead (.pcie k) a n
        let s := if poison then s.pciePoison k a true else s.memWrite (.pcie k) a (amoBytes op b v cmp) false
        { s with reply := .bytes b poison }

/-- PCIE_INBOUND_REQUEST, while the PCIe domain is on. -/
def execPcieInboundRequest (k : Fin 2) (op : PcieOp) (addr : PA) (d : List Byte) (len : Nat) (s : State) :
    Host.Outcome State Fault Refusal :=
  .next <| s.served fun s =>
    if !s.domOn 55 then s
    else match op with
      | .read => s.pcieRead k addr.toNat len
      | .write => s.pcieWrite k addr.toNat d
      | .atomic op => s.pcieAtomic k op addr.toNat d len

end Sys2Proof.Machine
end

