-- ==== Sys2Proof/Machine/TMem.lean ====
section
/-! DEFINITION. The memory of a T-core: its address map (R267), the check against c0 (R291), the store buffer (R279), the
words with errors (R276), the island port's loads and atomics (R270 to R275, R285), and voted writes (R269, R302). -/
namespace Sys2Proof.Machine

/-! ## The address map (Table 8.2) -/

/-- What a T-core address selects. -/
inductive TKind where
  | itcm | dtcm | shared | regs | far (pa : Nat) | none
  deriving DecidableEq, Repr

/-- Base of the far window. -/
def farBase : Nat := 0x100000000000

/-- The target of one address. -/
def tKindAt (a : Nat) : TKind :=
  if a < 0x40000 then .itcm
  else if isDtcm a then .dtcm
  else if 0x800000 ≤ a ∧ a < 0xA00000 then .shared
  else if 0xC00000 ≤ a ∧ a < 0xC01000 then .regs
  else if farBase ≤ a ∧ a < 2 * farBase then .far (a - farBase)
  else .none

/-- The target of n bytes: none where they do not lie in one target. -/
def tKind (a n : Nat) : TKind :=
  match tKindAt a with
  | .far p => if a + n ≤ 2 * farBase then .far p else .none
  | k => if tKindAt (a + n - 1) = k then k else .none

/-- Whether a target is a device: the island registers, and every far region other than HBM (R267). -/
def State.tDev (s : State) : TKind → Bool
  | .regs => true
  | .far p => !(s.region p).isHbm
  | _ => false

/-- Physical address of a local address in a TCM or in the shared SRAM. -/
def localPa (i k : Fin 4) (kind : TKind) (a : Nat) : Nat :=
  match kind with
  | .shared => sharedPa i a
  | _ => tcmPa i k a

/-! ## Capability checks (Table 8.9) -/

/-- Permissions (the capability layout of R90). -/
def permR : Nat := 0x01
/-- Write. -/
def permW : Nat := 0x02
/-- Execute. -/
def permX : Nat := 0x04
/-- Load-capability. -/
def permLC : Nat := 0x08
/-- Store-capability. -/
def permSC : Nat := 0x10
/-- Seal. -/
def permSeal : Nat := 0x20
/-- Unseal. -/
def permUnseal : Nat := 0x40
/-- Call. -/
def permCall : Nat := 0x80

/-- Whether a capability carries all permissions of a mask. -/
def Cap.may (c : Cap) (perm : Nat) : Bool := c.perms.toNat &&& perm == perm

/-- Whether an access of n bytes lies within bounds, as unbounded integers (R291). -/
def Cap.within (c : Cap) (a n : Nat) : Bool := decide (c.base.toNat ≤ a ∧ a + n ≤ c.base.toNat + c.len.toNat)

/-- The cause by which a capability refuses an access (R291, Table 8.9). -/
def Cap.refuses (c : Cap) (a n perm : Nat) : Option Nat :=
  if !c.tag then some 1
  else if c.otype ≠ 0 then some 2
  else if !c.may perm then some 3
  else if !c.within a n then some 4
  else none

/-- A capability fault (vector 24). -/
def capFault (cause info : Nat) (va : Word) : Exn := exn 24 cause info va

/-- The exception of a data access before its target answers: ALIGN, then the check against c0, then an address without a
target (Table 8.8); `al` requires alignment whatever the target. -/
def State.tCheck (s : State) (i k : Fin 4) (a : Word) (n perm : Nat) (al : Bool) : Option Exn :=
  let kind := tKind a.toNat n
  if (al || s.tDev (tKindAt a.toNat) || s.tDev (tKindAt (a.toNat + n - 1))) && a.toNat % n != 0 then some (exn 7 0 0 a)
  else match ((s.tc i k).c.get 0).refuses a.toNat n perm with
    | some cause => some (capFault cause 0 a)
    | none => if kind = .none then some (exn 14 1 0 a) else none

/-! ## Error-correcting memory (R276) -/

/-- A read of local memory of n bytes meets an event of the array: a corrected word is recorded, an uncorrectable one stays. -/
def State.tEcc (s : State) (i k : Fin 4) (kind : TKind) (a n : Nat) (ev : ArrayEvent) : State :=
  let p := localPa i k kind a
  (s.eccEvent p ev).eccFix i k.val a p n (if kind = .shared then 3 else 2)

/-- Bytes of local memory, and whether a word of them holds an uncorrectable error. -/
def State.tLocal (s : State) (i k : Fin 4) (kind : TKind) (a n : Nat) : Nat × Bool :=
  let p := localPa i k kind a
  (ofBytes (Memory.read s.mem p n), s.eccBad p n)

/-- Tag of a DTCM granule. -/
def State.tTag (s : State) (i k : Fin 4) (a : Nat) : Bool := s.tags.contains (tcmPa i k a / 16 * 16)

/-! ## The store buffer (R279) -/

/-- Whether a store touches n bytes from an address on. -/
def TStore.meets (w : TStore) (a n : Nat) : Bool := decide (w.addr < a + n ∧ a < w.addr + w.size)
/-- Whether a store covers n bytes from an address on. -/
def TStore.covers (w : TStore) (a n : Nat) : Bool := decide (w.addr ≤ a ∧ a + n ≤ w.addr + w.size)

/-- Write a store into the DTCM of a slot: tags go, and a CSC sets its granule's (R54, R92). -/
def State.dtcmWrite (s : State) (i k : Fin 4) (w : TStore) : State :=
  let p := tcmPa i k w.addr
  let s := (s.eccWrite p w.size).clearTags p w.size
  { s with mem := Memory.write s.mem p (toBytes w.size w.data.toNat), tags := if w.tag then setIns p s.tags else s.tags }

/-- Largest number of entries of an output queue (R302). -/
def outMax : Nat := 16

/-- What a merge of n bytes into the words from p on meets (R276): a corrected error is recorded, an uncorrectable one stays in the
word; a word that is written whole is not read. -/
def State.mergeEcc (s : State) (i : Fin 4) (unit a p n arr : Nat) (ev : ArrayEvent) : State :=
  let s := s.eccEvent p ev
  ((wordsOf p n).filter fun w => !decide (p ≤ w ∧ w + 8 ≤ p + n)).foldl (State.eccWord i unit a arr) s

/-- The head entry of the store buffer leaves where it can (R279, R302, R312). -/
def State.tDrainOne (s : State) (i k : Fin 4) : State :=
  let c := s.tc i k
  match c.sb with
  | [] => s
  | w :: r =>
    if isDtcm w.addr then
      let s := (s.modTc i k fun c => { c with sb := r }).dtcmWrite i k w
      match s.mirror i k with
      | some j => s.dtcmWrite i j w
      | none => s
    else if c.outq.length < outMax then
      let n := c.outq.length + 1
      (s.modTc i k fun c => { c with sb := r, outq := c.outq ++ [w] }).setE (voteIdx i) 7 (max (s.ev (voteIdx i) 7) n)
    else s

/-- The store buffer drains for as long as its head can leave; it holds 4 entries. -/
def State.tDrain (s : State) (i k : Fin 4) : State := (((s.tDrainOne i k).tDrainOne i k).tDrainOne i k).tDrainOne i k

/-- The store buffer drains until no entry of it touches n bytes. -/
def State.tDrainMeets (i k : Fin 4) (a n : Nat) : Nat → State → State
  | 0, s => s
  | m + 1, s => if (s.tc i k).sb.any (·.meets a n) then State.tDrainMeets i k a n m (s.tDrainOne i k) else s

/-- A store enters the store buffer; none where the buffer is full and its head cannot leave. A voted write takes its queue
position (R269, R279, R302). -/
def State.tPush (s : State) (i k : Fin 4) (a n : Nat) (data : BitVec 128) (tag : Bool) : State × Bool :=
  let s := if (s.tc i k).sb.length < 4 then s else (s.modTc i k fun c => { c with waited := true }).tDrainOne i k
  let c := s.tc i k
  if 4 ≤ c.sb.length then (s, false)
  else if isDtcm a then (s.modTc i k fun c => { c with sb := c.sb ++ [⟨a, n, data, tag, 0⟩] }, true)
  else (s.modTc i k fun c => { c with sb := c.sb ++ [⟨a, n, data, false, c.qpos⟩], qpos := c.qpos + 1 }, true)

/-! ## What the island port reads (R268, R275, R294) -/

/-- The master that the island port is. -/
def isl (i : Fin 4) : Master := .island i

/-- Error response to one part of a far access: HBM by RD_PEEK and WR_PUSH, every other region as DEV-S (R268, R339). -/
def State.farErr (s : State) (i : Fin 4) (pa n : Nat) (write : Bool) : Option Resp :=
  if s.region pa = .regs then s.regErr ⟨isl i, some .devS, pa, n⟩ write
  else if (s.region pa).isHbm then
    match s.accessErr (isl i) none pa n write with
    | some r => some r
    | none => if s.huskRefuses (isl i) none pa then some .wlderr else none
  else s.accessErr (isl i) (some .devS) pa n write

/-- Data of an access without an error. -/
def okData (v : Nat) (poison : Bool) : PortData := ⟨BitVec.ofNat 128 v, poison, none⟩
/-- An error response. -/
def errData (r : Resp) : PortData := ⟨0, false, some (r, 0)⟩

/-- A far read of one line part. -/
def State.farPart (s : State) (i : Fin 4) (pa n : Nat) : State × PortData :=
  match s.farErr i pa n false with
  | some r => (s, errData r)
  | none =>
    if s.region pa = .regs then
      match s.regRead ⟨isl i, some .devS, pa, n⟩ with
      | (s, .ok v) => (s, okData v.toNat false)
      | (s, .error r) => (s, errData r)
    else
      let (s, d, po) := s.memRead (isl i) pa n
      (s, okData (ofBytes d) po)

/-- Bytes of an access that lie in the line of its first byte. -/
def lowerLen (a n : Nat) : Nat := min n (64 - a % 64)

/-- The data of both transactions of an access, the first of m bytes: an error response of the lowest refused part stands for
the whole (R273, R542). -/
def joinData (m : Nat) (x y : PortData) : PortData :=
  match x.resp, y.resp with
  | some _, _ => x
  | none, some (r, o) => ⟨0, false, some (r, m + o)⟩
  | none, none => ⟨x.data ||| (y.data <<< (8 * m)), x.poison || y.poison, none⟩

/-- A far read, line part by line part (R273, R542). -/
def State.farRead (s : State) (i : Fin 4) (pa n : Nat) : State × PortData :=
  let m := lowerLen pa n
  let (s, x) := s.farPart i pa m
  if m = n then (s, x)
  else
    let (s, y) := s.farPart i (pa + m) (n - m)
    (s, joinData m x y)

/-- A read of the island registers, of 4 or 8 bytes (R29). -/
def State.islPortRead (s : State) (i : Fin 4) (a n : Nat) : PortData :=
  if n ≠ 4 ∧ n ≠ 8 then errData .sizerr
  else match s.islRead i (a % 0x400000 / 8 * 8) with
    | some v => okData (v.toNat / 2 ^ (8 * (a % 8)) % 2 ^ (8 * n)) false
    | none => errData .decerr

/-- A read that the island port performs for a T-core of slot k. -/
def State.portRead (s : State) (i k : Fin 4) (a n : Nat) (ev : ArrayEvent) : State × PortData :=
  match tKind a n with
  | .shared =>
    let s := s.tEcc i k .shared a n ev
    let (v, bad) := s.tLocal i k .shared a n
    (s, okData v bad)
  | .itcm =>
    let s := s.tEcc i k .itcm a n ev
    let (v, bad) := s.tLocal i k .itcm a n
    (s, okData v bad)
  | .regs => (s, s.islPortRead i a n)
  | .far pa => s.farRead i pa n
  | _ => (s, errData .decerr)

/-! ## Matching (R270) -/

/-- Answers that every active core has received, or has passed, are dropped. A unit load that no other core issued counts in
PORT_MISMATCH (R270). -/
def State.pruneDone (s : State) (i : Fin 4) : State :=
  let x := s.island.get i
  let open_ (d : PortDone) : Bool :=
    x.active.any fun k => !d.cores.contains k && decide ((x.slots.get k).instret.toNat ≤ d.pos.toNat)
  let lone := x.done.filter fun d => !open_ d && d.unit_ && d.cores.length == 1 && decide (1 < x.active.length)
  let s := s.modIsl i fun y => { y with done := y.done.filter open_ }
  if lone.isEmpty then s else s.addE (0x5000 + i.val) 6 32 lone.length

/-- An access that differs from the one issued at its position: counted, and a mismatch of its core (R270, R271, R301). -/
def State.portMismatch (s : State) (i k : Fin 4) : State := (s.addE (0x5000 + i.val) 6 32 1).coreMismatch i k 5

/-- The answer kept for an access of core k at its position, for a unit load at its position and address. -/
def State.doneAt (s : State) (i k : Fin 4) (a : Nat) (unit_ : Bool) : Option PortDone :=
  let c := s.tc i k
  (s.island.get i).done.find? fun d =>
    d.pos == c.instret && d.unit_ == unit_ && (if unit_ then d.addr == a else d.entries == c.entries) && !d.cores.contains k

/-- Core k takes a kept answer. -/
def State.takeDone (s : State) (i k : Fin 4) (d : PortDone) : State :=
  (s.modIsl i fun x => { x with done := x.done.map fun e => if e = d then { e with cores := e.cores ++ [k] } else e }).pruneDone i

/-- Keep an answer for the cores that have not issued the access yet. -/
def State.keepDone (s : State) (i : Fin 4) (d : PortDone) : State :=
  (s.modIsl i fun x => { x with done := x.done ++ [d] }).pruneDone i

/-- A load that the port answers at once: of the shared SRAM, of the island registers, and of a unit of a long
instruction. -/
def State.portLoad (s : State) (i k : Fin 4) (a n : Nat) (kind : FarKind) (unit_ : Bool) (ev : ArrayEvent) : State × PortData :=
  let c := s.tc i k
  match s.doneAt i k a unit_ with
  | some d =>
    if d.addr = a ∧ d.size = n ∧ d.kind = kind then (s.takeDone i k d, d.got)
    else
      let (s, r) := s.portRead i k a n ev
      (if unit_ then s.addE (0x5000 + i.val) 6 32 1 else s.portMismatch i k, r)
  | none =>
    let (s, r) := s.portRead i k a n ev
    (s.keepDone i ⟨c.instret, c.entries, a, n, kind, unit_, r, [k]⟩, r)

/-! ## Loads of a T-core -/

/-- What a load finds: its data and tag with the cycles it takes, that it waits, or an exception. -/
inductive TGot where
  | data (v : Nat) (tag : Bool) (cyc : Nat)
  | wait
  | fault (f : Exn)
  deriving DecidableEq, Repr

/-- The extra cycle of a load that crosses an aligned 8-byte boundary (Table 8.4); CLC, which is aligned to its 16 bytes, has
none. -/
def crossCycle (a n : Nat) : Nat := b2n (decide (n ≠ 16 ∧ 8 < a % 8 + n))

/-- The number of buffered stores older than the youngest one that touches n bytes (R279). -/
def olderThan (sb : List TStore) (a n : Nat) : Nat :=
  match sb.reverse.findIdx? (·.meets a n) with
  | some j => sb.length - 1 - j
  | none => 0

/-- What the data of the port means for the instruction (R275, R542). -/
def PortData.got (d : PortData) (a : Word) (cyc : Nat) : TGot :=
  match d.resp with
  | some (r, o) => .fault (exn 14 (respCode r) 0 (a + word o))
  | none => if d.poison then .fault (exn 17 1 0 a) else .data d.data.toNat false cyc

/-- A load from own ITCM or DTCM without the store buffer. -/
def State.tcmRead (s : State) (i k : Fin 4) (kind : TKind) (a n : Nat) (ev : ArrayEvent) (cyc : Nat) : State × TGot :=
  let s := s.tEcc i k kind a n ev
  let (v, bad) := s.tLocal i k kind a n
  if bad then (s, .fault (exn 17 1 0 (word a)))
  else (s, .data v (kind == .dtcm && n == 16 && s.tTag i k a) (cyc + crossCycle a n))

/-- A load from own DTCM, by way of the store buffer (R279). -/
def State.dtcmLoad (s : State) (i k : Fin 4) (a n : Nat) (ev : ArrayEvent) : State × TGot :=
  match (s.tc i k).sb.reverse.find? (·.meets a n) with
  | none => s.tcmRead i k .dtcm a n ev 3
  | some w =>
    if w.covers a n then
      (s, .data (w.data.toNat / 2 ^ (8 * (a - w.addr)) % 2 ^ (8 * n)) (w.tag && n == 16) (3 + crossCycle a n))
    else
      let e := olderThan (s.tc i k).sb a n
      let s := State.tDrainMeets i k a n 4 s
      if (s.tc i k).sb.any (·.meets a n) then (s, .wait) else s.tcmRead i k .dtcm a n ev (5 + 2 * e)

/-- Whether a load outside own DTCM has to wait for older voted writes: those that overlap it, and for a device in the far
window every one (R274). Entries of the store buffer leave as far as they can; a write that two cores have agreed on waits for
its release as those of the output queue do. -/
def State.tOrder (s : State) (i k : Fin 4) (a n : Nat) (all : Bool) : State × Bool :=
  let hit (w : TStore) : Bool := all || w.meets a n
  let s := if (s.tc i k).sb.any hit then (s.modTc i k fun c => { c with waited := true }).tDrain i k else s
  (s, (s.tc i k).sb.any hit || (s.tc i k).outq.any hit || (s.island.get i).rel.any fun r => hit r.w)

/-! ## Far accesses (R270 to R274, R285) -/

/-- Whether an access is one that needs two cores before it is performed (R271). -/
def FarKind.paired : FarKind → Bool
  | .load | .clc => false
  | .lda | .amo _ _ _ | .stl _ => true

/-- The parked load of core k at its position, with its data, waiting, or discarded (R285). -/
inductive ParkedHit where
  | no | waits | got (d : PortData)
  deriving DecidableEq, Repr

/-- Look into the parked-load buffer for a far load of a device: the load that ERET replays takes its data, and another
load discards them. The loads of the handler itself come before the replay and leave the buffer alone (R285). -/
def State.tParked (s : State) (i k : Fin 4) (a n : Nat) : State × ParkedHit :=
  match (s.tc i k).parked with
  | none => (s, .no)
  | some p =>
    match p.replay with
    | none => (s, .no)
    | some at_ =>
      if at_ = (s.tc i k).instret ∧ p.addr = a ∧ p.size = n then
        match p.got with
        | some d => (s.modTc i k fun c => { c with parked := none }, .got d)
        | none => (s, .waits)
      else ((s.modTc i k fun c => { c with parked := none }).addE (0x5000 + i.val) 5 32 1, .no)

/-- Core k waits at the port. -/
def State.farWait (s : State) (i k : Fin 4) (a n : Nat) (kind : FarKind) (w : IWord) : State :=
  s.modTc i k fun c => { c with far := some ⟨c.instret, c.entries, a, n, kind, w⟩ }

/-- Transactions of the island port that hold one of its 2 places for matched loads and atomics (R272). -/
def Island.matched (x : Island) : Nat := (x.port.filter fun t => t.issued && !t.cores.isEmpty).length
/-- Transactions that hold one of the 2 places for released writes and unmatched loads (R272). -/
def Island.unmatched (x : Island) : Nat := (x.port.filter fun t => t.issued && t.cores.isEmpty).length + x.issued.length

/-- A load that differs from the one at its position is issued on its own where a place is free; nothing waits for its data
(R270, R272). -/
def State.farLone (s : State) (i k : Fin 4) (own : PortTxn) : State :=
  (s.modIsl i fun x => if 2 ≤ x.unmatched then x
    else { x with port := x.port ++ [{ own with cores := [], issued := true, dropped := true }] }).portMismatch i k

/-- Cores whose access at a position differs from one on which others agree are reported, and their transactions are not
performed (R270, R271). -/
def State.reportOdd (s : State) (i : Fin 4) (t : PortTxn) : State :=
  let x := s.island.get i
  let odd := x.port.filter fun u => u.live t.pos t.entries && !(u.addr == t.addr && u.size == t.size && decide (u.kind = t.kind))
  let early := x.done.filter fun d => d.pos == t.pos && d.entries == t.entries && !d.unit_ &&
    !(d.addr == t.addr && d.size == t.size && decide (d.kind = t.kind))
  let s := s.modIsl i fun x => { x with port := x.port.filter fun u => !odd.contains u || u.issued }
  (odd.flatMap (·.cores) ++ early.flatMap (·.cores)).foldl (fun s j => s.portMismatch i j) s

/-- Issue an access to the port: it joins the transaction of its position, differs from it, or opens one (R270, R271). A load
is issued by the first core; an atomic instruction, LDA or STL by the second that agrees. Where every active core has issued and
no two agree there is no majority. -/
def State.farJoin (s : State) (i k : Fin 4) (a n : Nat) (kind : FarKind) (w : IWord) : State :=
  let c := s.tc i k
  let x := s.island.get i
  let own : PortTxn := ⟨c.instret, c.entries, a, n, kind, [k], !kind.paired, false, none⟩
  let here := x.port.filter (·.live c.instret c.entries)
  match here.find? fun t => decide (t.addr = a ∧ t.size = n ∧ t.kind = kind) with
  | some t =>
    let t' : PortTxn := { t with cores := t.cores ++ [k], issued := true }
    ((s.modIsl i fun x => { x with port := x.port.map fun u => if u = t then t' else u }).farWait i k a n kind w).reportOdd i t'
  | none =>
    if here.any fun t => decide (2 ≤ t.cores.length) || (!kind.paired && !t.kind.paired) then
      if kind.paired then s.portMismatch i k else s.farLone i k own
    else
      let s := (s.modIsl i fun x => { x with port := x.port ++ [own] }).farWait i k a n kind w
      if here.isEmpty ∨ here.length + 1 < x.active.length then s
      else if x.active.length = 2 then s.portMismatch i k
      else (s.addE (0x5000 + i.val) 6 32 1).noMajority i

/-- Data that the port has kept, with a free wait (R273). -/
def State.farGot (s : State) (a : Nat) (d : PortData) : State × TGot :=
  let (s, n) := s.draw
  (s, d.got (word a) (4 + Config.freeNat n))

/-- A far load, LDA, atomic or STL of core k, whose word is w: answered at once from what is kept, else it waits. An access
that no core has issued waits while both places of the port are taken (R272). -/
def State.farAccess (s : State) (i k : Fin 4) (a n : Nat) (kind : FarKind) (w : IWord) (dev : Bool) : State × TGot :=
  let (s, p) := if dev then s.tParked i k a n else (s, .no)
  let c := s.tc i k
  let x := s.island.get i
  let same := x.port.any fun t => t.live c.instret c.entries && decide (t.addr = a ∧ t.size = n ∧ t.kind = kind)
  match p with
  | .got d => s.farGot a d
  | .waits => (s, .wait)
  | .no => match s.doneAt i k a false with
    | some d =>
      if d.addr = a ∧ d.size = n ∧ d.kind = kind then (s.takeDone i k d).farGot a d.got
      else if same then (s.farJoin i k a n kind w, .wait)
      else if kind.paired then (s.portMismatch i k, .wait)
      else (s.farLone i k ⟨c.instret, c.entries, a, n, kind, [k], true, false, none⟩, .wait)
    | none => if !same && decide (2 ≤ x.matched) then (s, .wait) else (s.farJoin i k a n kind w, .wait)

/-- A checked load of n bytes outside the long instructions; LDA and CLC are loads too (R271, R279, Table 8.4). -/
def State.tLoad (s : State) (i k : Fin 4) (a : Word) (n perm : Nat) (al : Bool) (kind : FarKind) (ev : ArrayEvent) (w : IWord) :
    State × TGot :=
  match s.tCheck i k a n perm al with
  | some f => (s, .fault f)
  | none =>
    let t := tKind a.toNat n
    match t with
    | .dtcm => s.dtcmLoad i k a.toNat n ev
    | .itcm => if kind.paired then s.farAccess i k a.toNat n kind w false else s.tcmRead i k .itcm a.toNat n ev 4
    | _ =>
      let dev := match t with
        | .far _ => s.tDev t
        | _ => false
      match s.tOrder i k a.toNat n dev with
      | (s, true) => (s, .wait)
      | (s, false) =>
        match t, kind.paired with
        | .far _, _ | _, true => s.farAccess i k a.toNat n kind w dev
        | _, false =>
          let (s, d) := s.portLoad i k a.toNat n kind false ev
          (s, d.got a (8 + if t = .shared then crossCycle a.toNat n else 0))

/-- A checked store (R269, R279): what a T-core's store finds; the value is unused. -/
def State.tStore (s : State) (i k : Fin 4) (a : Word) (n perm : Nat) (al : Bool) (data : BitVec 128) (tag : Bool) : State × TGot :=
  match s.tCheck i k a n perm al with
  | some f => (s, .fault { f with wr := true })
  | none =>
    if tKind a.toNat n = .itcm then (s, .fault { exn 14 3 0 a with wr := true })
    else match s.tPush i k a.toNat n data tag with
      | (s, true) => (s, .data 0 false 1)
      | (s, false) => (s, .wait)

end Sys2Proof.Machine
end

