-- ==== Sys2Proof/Machine/TExec.lean ====
section
/-! DEFINITION. How a T-core runs one instruction: fetch (R267, R277, R291), retirement with its pennant records (R296), delay
slots and hardware loops (R85 to R89), exceptions (R287, R288), interrupts (R282 to R285) and debug halts. -/
namespace Sys2Proof.Machine

/-! ## Registers -/

/-- Read a general register. -/
def State.tg (s : State) (i k : Fin 4) (r : Reg) : Word := if r.val = 0 then 0 else (s.tc i k).g.get r
/-- Write a general register: a write to g0 is discarded. -/
def State.setTg (s : State) (i k : Fin 4) (r : Reg) (v : Word) : State :=
  if r.val = 0 then s else s.modTc i k fun c => { c with g := vset c.g r v }
/-- Read a floating-point register. -/
def State.tf (s : State) (i k : Fin 4) (r : Reg) : Word := (s.tc i k).f.get r
/-- Write a floating-point register. -/
def State.setTf (s : State) (i k : Fin 4) (r : Reg) (v : Word) : State := s.modTc i k fun c => { c with f := vset c.f r v }
/-- Write a capability register. -/
def State.setTcap (s : State) (i k : Fin 4) (r : Fin 16) (v : Cap) : State := s.modTc i k fun c => { c with c := vset c.c r v }

/-! ## Pennant records (Table 9.1) -/

/-- A register result: none for g0. -/
def recG (r : Reg) (v : Word) : List Byte := if r.val = 0 then [] else toBytes 8 v.toNat
/-- An f-register result. -/
def recF (v : Word) : List Byte := toBytes 8 v.toNat
/-- The 16 bytes of a capability. -/
def Cap.bits (c : Cap) : Nat := c.base.toNat + c.len.toNat * 2 ^ 64 + c.perms.toNat * 2 ^ 112 + c.otype.toNat * 2 ^ 120
/-- A capability from its 16 bytes and its tag. -/
def Cap.ofBits (v : Nat) (tag : Bool) : Cap :=
  ⟨word v, BitVec.ofNat 48 (v / 2 ^ 64), BitVec.ofNat 8 (v / 2 ^ 112), BitVec.ofNat 8 (v / 2 ^ 120), tag⟩
/-- A capability result. -/
def recC (c : Cap) : List Byte := toBytes 16 c.bits ++ toBytes 1 (b2n c.tag)
/-- A store of n data bytes, zero-extended to 8. -/
def recS (a : Word) (v : Nat) : List Byte := toBytes 8 a.toNat ++ toBytes 8 v

/-! ## Control flow -/

/-- What an instruction of a T-core does with the flow of control. -/
inductive TFlow where
  /-- The next instruction follows in sequence. -/
  | seq
  /-- As `seq`, and the pennant window closes (R95, R298). -/
  | chkpt
  /-- As `seq`, and the core waits for an interrupt (R82). -/
  | wfi
  /-- Execution goes on at an address; no loop ends by it. -/
  | goto (pc : Word)
  /-- ERET continues at the saved address (R286). -/
  | eret (pc : Word)
  /-- A taken jump whose slot is annulled (R57, R88). -/
  | jump (pc : Word)
  /-- The delay slot executes, then the instruction at an address; `taken` marks a taken branch or jump. -/
  | slot (next : Word) (taken : Bool)
  /-- The delay slot of a branch that is not taken is annulled. -/
  | skip
  /-- An exception is raised at the instruction. -/
  | exn (f : Exn)
  /-- The instruction has not completed. -/
  | stay
  deriving DecidableEq, Repr

/-- What an instruction leaves: its flow, its cycles (Table 8.4) and its pennant records. -/
structure TOut where
  flow : TFlow
  cyc : Nat
  recs : List Byte
  deriving DecidableEq, Repr

/-- What an instruction of a T-core does. -/
abbrev TBody := Aelxel → State → State × TOut

/-- An instruction that raises an exception. -/
def tExn (f : Exn) : TOut := ⟨.exn f, 0, []⟩
/-- An instruction that waits. -/
def tStay : TOut := ⟨.stay, 0, []⟩
/-- An instruction that completes in sequence. -/
def tSeq (cyc : Nat) (recs : List Byte) : TOut := ⟨.seq, cyc, recs⟩

/-- A taken branch or jump to an address outside a loop ends that loop (R88). -/
def TCore.leaveLoops (c : TCore) (tgt : Word) : TCore :=
  { c with lc := Vector.ofFn fun l =>
      let inside := decide ((c.ls.get l).toNat ≤ tgt.toNat ∧ tgt.toNat ≤ (c.le.get l).toNat)
      if inside then c.lc.get l else 0 }

/-- The end of a loop body of level l (R85). -/
def TCore.loopEnd (c : TCore) (l : Fin 2) : TCore :=
  let n := c.lc.get l - 1
  { c with lc := vset c.lc l n, pc := if n = 0 then c.pc + 4 else c.ls.get l }

/-- The end of the level-0 body, or the next address (R85). -/
def TCore.next0 (c : TCore) : TCore :=
  if c.lc.get 0 ≠ 0 ∧ c.pc = c.le.get 0 then c.loopEnd 0 else { c with pc := c.pc + 4 }

/-- The next instruction in sequence: the end of a level-1 body is handled first, and where that loop has run out at an address
that also ends the level-0 body, level 0 is considered next (R85, log entry 36). -/
def TCore.next (c : TCore) : TCore :=
  if c.lc.get 1 ≠ 0 ∧ c.pc = c.le.get 1 then
    if c.lc.get 1 = 1 then TCore.next0 { c with lc := vset c.lc 1 0 } else c.loopEnd 1
  else c.next0

/-- The flow of control after an instruction. -/
def TCore.advance (c : TCore) (f : TFlow) : TCore :=
  match f with
  | .seq | .chkpt | .wfi => match c.delay with
    | some d =>
      let e := { c with pc := d.next, delay := none, slotClears := false }
      if c.slotClears then e.leaveLoops d.next else e
    | none => c.next
  | .goto pc => { c with pc := pc, delay := none, slotClears := false }
  | .eret pc => { c with pc := pc, delay := none, slotClears := false,
                         parked := c.parked.map fun (p : Parked) => { p with replay := some c.instret } }
  | .jump pc => { c with pc := pc }.leaveLoops pc
  | .slot next taken => { c with delay := some ⟨c.pc, next⟩, slotClears := taken, pc := c.pc + 4 }
  | .skip => { c with pc := c.pc + 8 }
  | .exn _ | .stay => c

/-- Cycles that a flow adds: an annulled slot counts 1 (R278). -/
def TFlow.extra : TFlow → Nat
  | .jump _ | .skip => 1
  | _ => 0

/-- An instruction retires: its records are folded, and INSTRET and CYCLE advance (R277, R278, R296). -/
def TCore.retire (c : TCore) (o : TOut) : TCore :=
  { c with pen := crc64 c.pen (toBytes 8 c.pc.toNat ++ o.recs), instret := c.instret + 1, winCount := c.winCount + 1,
           cycle := c.cycle + word (o.cyc + o.flow.extra) }

/-- The cycles that a core has waited, for its store buffer, for older writes, for a comparison or in WFI, pass in CYCLE; how
many they are is free (R278, R279, R299, log entry 37). -/
def State.tWaited (s : State) (i k : Fin 4) : State :=
  if (s.tc i k).waited then
    let (s, n) := s.draw
    s.modTc i k fun c => { c with waited := false, cycle := c.cycle + word (Config.freeNat n) }
  else s

/-! ## Entry (R283, R287, R288) -/

/-- A stop: code 0x27, and a mismatch that names the core (R288, R301). -/
def State.tStop (s : State) (i k : Fin 4) (vec : Nat) : State :=
  let s := s.record (bankIsland i) 0x27 k.val 0 (s.tc i k).pc.toNat vec
  (s.modTc i k fun c => { c with run := .stopped, far := none }).coreMismatch i k 7

/-- The handler address of a vector: none where TVB is untagged or the address fails its check (R288, Table 8.7). -/
def State.tHandler (s : State) (i k : Fin 4) (vec : Nat) : Option Word :=
  let t := (s.tc i k).tvb
  let (v, bad) := s.tLocal i k .itcm (t.base.toNat + 8 * vec) 8
  if t.tag && !bad && decide (v % 4 = 0 ∧ t.base.toNat ≤ v ∧ v < t.base.toNat + t.len.toNat) then some (word v) else none

/-- Save registers and TSTAT of an entry (Table 8.7); ML is left unchanged by a synchronous exception (R287). -/
def TCore.enter (c : TCore) (f : Exn) (h xpc : Word) (ds : Bool) (prio : Nat) : TCore :=
  let ml : Word := if 32 ≤ f.vec then word (prio * 16) else c.tstat &&& 0xF0
  let xsy := word (f.vec % 256 + f.cause % 256 * 2 ^ 8 + b2n f.wr * 2 ^ 16 + f.info % 2 ^ 16 * 2 ^ 32 + prio % 16 * 2 ^ 48)
  { c with x := ⟨xpc, (c.tstat &&& ~~~(0x200 : Word)) ||| (if ds then 0x200 else 0), xsy, f.va⟩,
           xpcc := c.pcc, xlc := c.lc, xls := c.ls, xle := c.le, tstat := ml ||| 0x100, lc := Vector.replicate 2 0,
           pc := h, pcc := c.tvb, delay := none, slotClears := false, entries := c.entries + 1, cycle := c.cycle + 16 }

/-- Entry for an exception or interrupt whose handler address is good; the store buffer's DTCM entries are written
(Table 8.7). -/
def State.tEnter (s : State) (i k : Fin 4) (f : Exn) (h xpc : Word) (ds : Bool) (prio : Nat) : State :=
  let s := s.tEcc i k .itcm ((s.tc i k).tvb.base.toNat + 8 * f.vec) 8 .good
  (s.modTc i k fun c => c.enter f h xpc ds prio).tDrain i k

/-- Raise a synchronous exception at the current instruction (R287, R288). -/
def State.tRaise (s : State) (i k : Fin 4) (f : Exn) : State :=
  let c := s.tc i k
  if c.tstat.getLsbD 8 then s.tStop i k f.vec
  else match s.tHandler i k f.vec with
    | none => s.tStop i k f.vec
    | some h => match c.delay with
      | some d => s.tEnter i k f h d.branch true 0
      | none => s.tEnter i k f h c.pc false 0

/-! ## Debug (R347): a T-core belongs to the Secure world -/

/-- Whether invasive debug of the Secure world is permitted. -/
def State.tInvasive (s : State) : Bool := s.ev 0x3300 1 != 0

/-- A halt request takes effect once it is permitted. -/
def State.tHaltTry (s : State) (i k : Fin 4) : State :=
  let c := s.tc i k
  if c.haltReq && c.run == .running && s.tInvasive then s.modTc i k fun c => { c with haltReq := false, run := .halted } else s

/-- A debug single step asks for a halt after the instruction. -/
def State.tStepDone (s : State) (i k : Fin 4) : State :=
  (s.modTc i k fun c => { c with step1 := false, haltReq := c.haltReq || c.step1 }).tHaltTry i k

/-! ## Running -/

/-- The agreed boundary that core k has reached and not taken (R58, R282, R286). -/
def State.due (s : State) (i k : Fin 4) : Option Bound :=
  let c := s.tc i k
  if c.delay.isSome then none
  else match (s.island.get i).bounds.find? fun b => !b.reached.contains k with
    | some b => if b.pos.toNat ≤ c.instret.toNat then some b else none
    | none => none

/-- Whether core k executes its next instruction: it is active and running, its pennants fit (R299), it does not wait at the
port, it is not the stopped source (R313), and no boundary is due. -/
def State.tRuns (s : State) (i k : Fin 4) : Bool :=
  let x := s.island.get i
  let c := s.tc i k
  x.active.contains k && c.run == .running && decide (c.uncompared.length ≤ 8 ∧ c.winCount < 1024) &&
    !(x.sourceStopped && x.source == some k) && c.far.isNone && (s.due i k).isNone

/-- A pending interrupt of the island, a boundary or a halt request completes a WFI (R82). -/
def State.tPending (s : State) (i k : Fin 4) : Bool :=
  s.pendingAt (s.aimed 2 i.val) || (s.tc i k).haltReq || (s.island.get i).bounds.any fun b => !b.reached.contains k

/-- A core in WFI goes on when its WFI completes. -/
def State.tWake (s : State) (i k : Fin 4) : State :=
  if (s.tc i k).run = .wfi ∧ s.tPending i k then s.modTc i k fun c => { c with run := .running, waited := true } else s

/-- A core that waits, unless for data of the island port, whose wait is counted with the data (R273). -/
def State.tStalled (s : State) (i k : Fin 4) : State :=
  if (s.tc i k).far.isSome then s else s.modTc i k fun c => { c with waited := true }

/-- What follows the execution of an instruction; a core that a mismatch has stopped meanwhile retires nothing. -/
def State.tFinish (s : State) (i k : Fin 4) (o : TOut) : State :=
  if !((s.island.get i).active.contains k && (s.tc i k).run == .running) then s
  else if o.flow = .stay then (s.tStalled i k).tHaltTry i k
  else
    let s := s.tWaited i k
    match o.flow with
    | .exn f => (s.tRaise i k f).tStepDone i k
    | .stay => s
    | .wfi => (s.modTc i k fun c => { (c.retire o).advance o.flow with run := .wfi }).pruneDone i
    | .chkpt => ((s.modTc i k fun c => (c.retire o).advance o.flow).closeWindow i k).tStepDone i k |>.pruneDone i
    | _ => ((s.modTc i k fun c => (c.retire o).advance o.flow).tStepDone i k).pruneDone i

/-- The checks of a fetch at the PC (R267, R276, R291): against PCC, then the word of the ITCM, which is the command's. A PC
that is no multiple of 4 raises IALIGN. -/
def State.tFetch (s : State) (i k : Fin 4) : Option Exn :=
  let c := s.tc i k
  let pc := c.pc
  match c.pcc.refuses pc.toNat 4 permX with
  | some cause => some (capFault cause 0x10 pc)
  | none =>
    if 0x40000 < pc.toNat + 4 then some (capFault 9 0x10 pc)
    else if pc.toNat % 4 ≠ 0 then some (exn 6 0 0 pc)
    else if (s.tLocal i k .itcm pc.toNat 4).2 then some (exn 17 2 0 pc)
    else none

/-- The ITCM word of a fetch is read, a single-bit error in it being corrected (R276). -/
def State.tFetchRead (s : State) (i k : Fin 4) : State := s.tEcc i k .itcm (s.tc i k).pc.toNat 4 .good

/-- The alignment fault of a register jump, which comes before an illegal instruction (R61, Table 8.8). -/
def State.tIalign (s : State) (i k : Fin 4) : Aelxel → Option Exn
  | .jr _ rs1 | .jalr _ _ rs1 => if (s.tg i k rs1).toNat % 4 ≠ 0 then some (exn 6 0 0 (s.tg i k rs1)) else none
  | _ => none

/-- Instructions that R87 forbids at the end of an active loop body: branches and jumps at LE_l and LE_l − 4, and LOOP, CCALL
and CRET at LE_l. -/
def TCore.loopForbids (c : TCore) (ins : Aelxel) : Bool :=
  (allFin 2).any fun l => c.lc.get l != 0 && match ins with
    | .branch _ _ _ _ _ | .jmp _ _ _ | .jr _ _ | .jalr _ _ _ => c.pc == c.le.get l || c.pc + 4 == c.le.get l
    | .loop _ _ _ _ | .ccall _ _ | .cret _ _ => c.pc == c.le.get l
    | _ => false

/-- A running core that its pennants hold back waits (R299). -/
def State.tBlocked (s : State) (i k : Fin 4) : State :=
  let c := s.tc i k
  if (s.island.get i).active.contains k && c.run == .running && decide (8 < c.uncompared.length ∨ 1024 ≤ c.winCount) then
    s.modTc i k fun c => { c with waited := true }
  else s

/-- Run one instruction word on a T-core; one whose requests cannot be served yet waits (log entry 22). -/
def State.tStep (s : State) (i k : Fin 4) (w : IWord) (body : TBody) : State :=
  s.served fun s =>
  let s := (s.tWake i k).tHaltTry i k
  if !s.tRuns i k then s.tBlocked i k
  else match s.tFetch i k with
    | some f => s.tFinish i k (tExn f)
    | none =>
      let s := s.tFetchRead i k
      match decodeWord w with
      | none => s.tFinish i k (tExn (illegal w))
      | some ins => match s.tIalign i k ins with
        | some f => s.tFinish i k (tExn f)
        | none =>
          let c := s.tc i k
          if (c.delay.isSome && slotForbids ins) || c.loopForbids ins then s.tFinish i k (tExn (illegal w))
          else
            let (s, o) := body ins s
            s.tFinish i k o

/-- The body of an instruction that a T-core lacks (R49). -/
def tLacks (w : IWord) : TBody := fun _ s => (s, tExn (illegal w))
/-- The body of an instruction that is a no-operation on a T-core (R74, Table 2.9). -/
def tNop : TBody := fun _ s => (s, tSeq 1 [])

end Sys2Proof.Machine
end

