-- ==== Sys2Proof/Machine/TBody.lean ====
section
/-! DEFINITION. What the instructions of Tables 2.4 to 2.9 and 2.11 do on a T-core, with the cycle counts of Table 8.4 and the
pennant records of Table 9.1. -/
namespace Sys2Proof.Machine

/-! ## Integer, multiply, divide and floating point -/

/-- Cycles of an integer, multiply, divide or floating-point instruction (Table 8.4). -/
def tCycles : Aelxel → Nat
  | .mul _ _ _ _ _ => 3
  | .div _ w _ _ _ => if w then 18 else 34
  | .fp op single _ _ _ _ => match op with
    | .add | .sub | .mul | .cvtFI | .cvtFU | .cvtIF | .cvtUF | .cvtP => 3
    | .mac => 4
    | .div => if single then 12 else 20
    | .sqrt => if single then 14 else 24
    | _ => 1
  | _ => 1

/-- Integer instructions on a T-core. -/
def tReg (i k : Fin 4) : TBody := fun ins s =>
  match regResult (s.tg i k) (s.tc i k).pc ins with
  | some (rd, v) => (s.setTg i k rd v, tSeq (tCycles ins) (recG rd v))
  | none => (s, tStay)

/-- Floating-point instructions on a T-core (Table 2.6). -/
def tFloat (i k : Fin 4) (w : IWord) : TBody := fun ins s =>
  match ins with
  | .fp op single rm rd rs1 rs2 =>
    match roundingMode rm (s.tc i k).fsr with
    | none => (s, tExn (illegal w))
    | some m =>
      let (d, fl) := fpOp op single m (freeFp s.fresh) (s.tf i k rd) (s.tf i k rs1) (s.tf i k rs2) (s.tg i k rs1)
      let s := { s with fresh := s.fresh + 2 }.modTc i k fun c => { c with fsr := raiseFlags c.fsr fl }
      match d with
      | .f v => (s.setTf i k rd v, tSeq (tCycles ins) (recF v))
      | .g v => (s.setTg i k rd v, tSeq (tCycles ins) (recG rd v))
  | _ => (s, tStay)

/-! ## Branches and jumps (R55 to R61, R291) -/

/-- The target check against PCC (R291). -/
def State.tTarget (s : State) (i k : Fin 4) (tgt : Word) : Option Exn :=
  ((s.tc i k).pcc.refuses tgt.toNat 4 permX).map fun cause => capFault cause 0x10 tgt

/-- Conditional branches on a T-core. -/
def tBranch (i k : Fin 4) : TBody := fun ins s =>
  match ins with
  | .branch cond rs1 rs2 a off =>
    let pc := (s.tc i k).pc
    if condHolds cond (s.tg i k rs1) (s.tg i k rs2) then
      match s.tTarget i k (targetOf pc off) with
      | some f => (s, tExn f)
      | none => (s, ⟨.slot (targetOf pc off) true, 3, []⟩)
    else (s, ⟨if a then .skip else .slot (pc + 8) false, 1, []⟩)
  | _ => (s, tStay)

/-- Where a jump goes on: its slot is annulled or executes (R56). -/
def tJumpFlow (a : Bool) (tgt : Word) : TFlow := if a then .jump tgt else .slot tgt true

/-- J and JAL on a T-core. -/
def tJump (i k : Fin 4) : TBody := fun ins s =>
  match ins with
  | .jmp link a off =>
    let pc := (s.tc i k).pc
    let tgt := targetOf pc off
    match s.tTarget i k tgt with
    | some f => (s, tExn f)
    | none => (if link then s.setTg i k 1 (pc + 8) else s, ⟨tJumpFlow a tgt, 1, if link then recG 1 (pc + 8) else []⟩)
  | _ => (s, tStay)

/-- JR and JALR on a T-core (R60, R61). -/
def tRegJump (i k : Fin 4) (w : IWord) : TBody := fun ins s =>
  let pc := (s.tc i k).pc
  match ins with
  | .jr a rs1 => match s.tTarget i k (s.tg i k rs1) with
    | some f => (s, tExn f)
    | none => (s, ⟨tJumpFlow a (s.tg i k rs1), 3, []⟩)
  | .jalr a rd rs1 =>
    if rd = rs1 ∧ rd ≠ 0 then (s, tExn (illegal w))
    else match s.tTarget i k (s.tg i k rs1) with
      | some f => (s, tExn f)
      | none => (s.setTg i k rd (pc + 8), ⟨tJumpFlow a (s.tg i k rs1), 3, recG rd (pc + 8)⟩)
  | _ => (s, tStay)

/-! ## Loads and stores -/

/-- Write the result of a load, with its record. -/
def State.loadResult (s : State) (i k : Fin 4) (op : LdOp) (rd : Reg) (v : Nat) (cyc : Nat) : State × TOut :=
  let x := LdOp.value op v
  if LdOp.float op then (s.setTf i k rd x, tSeq cyc (recF x)) else (s.setTg i k rd x, tSeq cyc (recG rd x))

/-- Loads on a T-core. -/
def tLoadB (i k : Fin 4) (w : IWord) (ev : ArrayEvent) : TBody := fun ins s =>
  match ins with
  | .load op rd rs1 imm =>
    match s.tLoad i k (eaI (s.tg i k rs1) imm) (LdOp.size op) permR false .load ev w with
    | (s, .fault f) => (s, tExn f)
    | (s, .wait) => (s, tStay)
    | (s, .data v _ cyc) => s.loadResult i k op rd v cyc
  | _ => (s, tStay)

/-- Stores on a T-core. -/
def tStoreB (i k : Fin 4) : TBody := fun ins s =>
  match ins with
  | .store op rt rs1 imm =>
    let a := eaI (s.tg i k rs1) imm
    let n := StOp.size op
    let v := (if StOp.float op then s.tf i k rt else s.tg i k rt).toNat % 2 ^ (8 * n)
    match s.tStore i k a n permW false (BitVec.ofNat 128 v) false with
    | (s, .fault f) => (s, tExn f)
    | (s, .wait) => (s, tStay)
    | (s, .data _ _ cyc) => (s, tSeq cyc (recS a v))
  | _ => (s, tStay)

/-- CLC (R92). -/
def tClc (i k : Fin 4) (w : IWord) : TBody := fun ins s =>
  match ins with
  | .clc cd rs1 imm =>
    match s.tLoad i k (eaI (s.tg i k rs1) imm) 16 (permR + permLC) true .clc .good w with
    | (s, .fault f) => (s, tExn f)
    | (s, .wait) => (s, tStay)
    | (s, .data v tag cyc) => (s.setTcap i k cd (Cap.ofBits v tag), tSeq cyc (recC (Cap.ofBits v tag)))
  | _ => (s, tStay)

/-- CSC (R92). -/
def tCsc (i k : Fin 4) : TBody := fun ins s =>
  match ins with
  | .csc cs rs1 imm =>
    let a := eaI (s.tg i k rs1) imm
    let c := (s.tc i k).c.get cs
    match s.tStore i k a 16 (permW + permSC) true (BitVec.ofNat 128 c.bits) c.tag with
    | (s, .fault f) => (s, tExn f)
    | (s, .wait) => (s, tStay)
    | (s, .data _ _ cyc) => (s, tSeq cyc (toBytes 8 a.toNat ++ toBytes 16 c.bits))
  | _ => (s, tStay)

/-! ## Atomics (R71 to R73, R271) -/

/-- With rl, and for STL, every older store has left the store buffer and is no longer unreleased (R73, R274). -/
def State.tReleased (s : State) (i k : Fin 4) (rl : Bool) : State × Bool := if rl then s.tOrder i k 0 0 true else (s, false)

/-- The checks of an atomic instruction, LDA or STL: alignment, read and write permission, no device (Tables 8.8, 8.9). -/
def State.tAmoCheck (s : State) (i k : Fin 4) (a : Word) (n : Nat) : Option Exn :=
  match s.tCheck i k a n (permR + permW) true with
  | some f => some f
  | none => if s.tDev (tKind a.toNat n) then some (exn 13 0 0 a) else none

/-- Record of an atomic instruction: its result, then its address and rs2 operand (Table 9.1). -/
def amoRecs (rd : Reg) (old : Word) (a v : Word) : List Byte := recG rd old ++ recS a v.toNat

/-- An atomic instruction in own DTCM: no overlapping store stays in the buffer, and a word with an uncorrectable error is not
written (R71, R279). -/
def State.dtcmAmo (s : State) (i k : Fin 4) (a n : Nat) (op : AmoOp) (v cmp : Word) : State × TGot :=
  let s := if (s.tc i k).sb.any (·.meets a n) then s.modTc i k fun c => { c with waited := true } else s
  let s := State.tDrainMeets i k a n 4 s
  if (s.tc i k).sb.any (·.meets a n) then (s, .wait)
  else
    let s := s.tEcc i k .dtcm a n .good
    let (x, bad) := s.tLocal i k .dtcm a n
    if bad then (s, .fault (exn 17 1 0 (word a)))
    else
      let w : TStore := ⟨a, n, BitVec.ofNat 128 (ofBytes (amoBytes op (toBytes n x) v cmp)), false, 0⟩
      let s := s.dtcmWrite i k w
      (match s.mirror i k with
        | some j => s.dtcmWrite i j w
        | none => s, .data x false 4)

/-- AMO and CAS on a T-core. -/
def tAmo (i k : Fin 4) (w : IWord) : TBody := fun ins s =>
  match ins with
  | .amo op _ rl dbl rd rs1 rs2 =>
    let a := s.tg i k rs1
    let n := amoSize dbl
    let v := s.tg i k rs2
    match s.tAmoCheck i k a n with
    | some f => (s, tExn { f with wr := true })
    | none =>
      if tKind a.toNat n = .itcm then (s, tExn { exn 14 3 0 a with wr := true })
      else match s.tReleased i k rl with
        | (s, true) => (s, tStay)
        | (s, false) =>
          let r : State × TGot := if tKind a.toNat n = .dtcm then s.dtcmAmo i k a.toNat n op v (s.tg i k rd)
            else match s.tOrder i k a.toNat n false with
              | (s, true) => (s, .wait)
              | (s, false) => s.farAccess i k a.toNat n (.amo op v (s.tg i k rd)) w false
          match r with
          | (s, .fault f) => (s, tExn f)
          | (s, .wait) => (s, tStay)
          | (s, .data x _ cyc) =>
            let old := amoOld (toBytes n x)
            (s.setTg i k rd old, tSeq cyc (amoRecs rd old a v))
  | _ => (s, tStay)

/-- LDA on a T-core. -/
def tLda (i k : Fin 4) (w : IWord) : TBody := fun ins s =>
  match ins with
  | .lda dbl rd rs1 =>
    let a := s.tg i k rs1
    let n := amoSize dbl
    match s.tAmoCheck i k a n with
    | some f => (s, tExn f)
    | none => match s.tLoad i k a n (permR + permW) true .lda .good w with
      | (s, .fault f) => (s, tExn f)
      | (s, .wait) => (s, tStay)
      | (s, .data v _ cyc) => (s.setTg i k rd (amoOld (toBytes n v)), tSeq cyc (recG rd (amoOld (toBytes n v))))
  | _ => (s, tStay)

/-- STL on a T-core: in own DTCM a store after the store buffer is empty, elsewhere an access of two cores (R271, Table 8.4). -/
def tStl (i k : Fin 4) (w : IWord) : TBody := fun ins s =>
  match ins with
  | .stl dbl rs1 rs2 =>
    let a := s.tg i k rs1
    let n := amoSize dbl
    let v := (s.tg i k rs2).toNat % 2 ^ (8 * n)
    match s.tAmoCheck i k a n with
    | some f => (s, tExn { f with wr := true })
    | none =>
      if tKind a.toNat n = .itcm then (s, tExn { exn 14 3 0 a with wr := true })
      else match s.tReleased i k true with
        | (s, true) => (s, tStay)
        | (s, false) =>
          let r : State × TGot := if tKind a.toNat n = .dtcm then s.tStore i k a n (permR + permW) true (BitVec.ofNat 128 v) false
            else s.farAccess i k a.toNat n (.stl (word v)) w false
          match r with
          | (s, .fault f) => (s, tExn { f with wr := true })
          | (s, .wait) => (s, tStay)
          | (s, .data _ _ cyc) => (s, tSeq cyc (recS a v))
  | _ => (s, tStay)

/-! ## Long instructions (R63 to R70, R270) -/

/-- What a load of a region costs, without the wait of a far one (Table 8.4). -/
def TKind.cost (kind : TKind) (a n : Nat) : Nat :=
  match kind with
  | .dtcm => 3
  | .itcm => 4 + crossCycle a n
  | .shared => 8 + crossCycle a n
  | .regs => 8
  | .far _ | .none => 4

/-- Cycles pass for a core. -/
def State.tSpend (s : State) (i k : Fin 4) (n : Nat) : State := s.modTc i k fun c => { c with cycle := c.cycle + word n }

/-- A unit's read of n bytes; the waits of R273 and R279 pass in CYCLE. An error without an exception waits. -/
def State.tUnitRead (s : State) (i k : Fin 4) (a : Word) (n : Nat) : State × Except (Option Exn) Nat :=
  match s.tCheck i k a n permR false with
  | some f => (s, .error (some f))
  | none =>
    let t := tKind a.toNat n
    let r : State × TGot :=
      if s.tDev t then (s, .fault (exn 13 0 0 a))
      else match t with
        | .dtcm => s.dtcmLoad i k a.toNat n .good
        | .itcm => s.tcmRead i k .itcm a.toNat n .good (3 - crossCycle a.toNat n)
        | _ => match s.tOrder i k a.toNat n false with
          | (s, true) => (s, .wait)
          | (s, false) =>
            let (s, d) := s.portLoad i k a.toNat n .load true .good
            match t with
            | .far _ =>
              let (s, m) := s.draw
              (s, d.got a (3 + Config.freeNat m))
            | _ => (s, d.got a 3)
    match r with
    | (s, .fault f) => (s, .error (some f))
    | (s, .wait) => (s, .error none)
    | (s, .data v _ cyc) => (s.tSpend i k (cyc - 3), .ok v)

/-- A unit's write. -/
def State.tUnitWrite (s : State) (i k : Fin 4) (a : Word) (b : List Byte) : State × Except (Option Exn) Unit :=
  match s.tCheck i k a b.length permW false with
  | some f => (s, .error (some { f with wr := true }))
  | none =>
    if s.tDev (tKind a.toNat b.length) then (s, .error (some { exn 13 0 0 a with wr := true }))
    else match s.tStore i k a b.length permW false (BitVec.ofNat 128 (ofBytes b)) false with
      | (s, .fault f) => (s, .error (some f))
      | (s, .wait) => (s, .error none)
      | (s, .data _ _ _) => (s, .ok ())

/-- Whether a long instruction stores. -/
def blkStores : BlkOp → Bool
  | .bcopy | .bfill | .stm => true
  | _ => false

/-- Cycles of one unit (Table 8.4). -/
def blkRate (op : BlkOp) : Nat := if op = .bcopy then 2 else 1
/-- Cycles of the unit at hand: what a load of the region costs for each access outside own DTCM, else the rate (Table 8.4, log
entry 37). -/
def State.unitCost (s : State) (i k : Fin 4) (op : BlkOp) (rd rs1 : Reg) : Nat :=
  let src := (s.tg i k rs1).toNat
  let at_ (a n : Nat) : List Nat := let t := tKind a n; if t = .dtcm then [] else [t.cost a n]
  let out := match op with
    | .bcopy => at_ src 1 ++ at_ (s.tg i k rd).toNat 1
    | .bfill => at_ (s.tg i k rd).toNat 1
    | .bcrc | .bcrcE => at_ src 1
    | .ldm | .stm => at_ src 8
  if out.isEmpty then blkRate op else out.sum
/-- Cycles of a long instruction besides its units. -/
def blkBase : BlkOp → Nat
  | .ldm | .stm => 2
  | _ => 3

/-- Records of a long instruction that completes: its updated operand registers (Table 9.1). -/
def blkRecs (g : Reg → Word) (op : BlkOp) (rd rs1 rs2 : Reg) : List Byte :=
  (match op with
    | .ldm | .stm => [rs1, rs2]
    | .bfill => [rd, rs2]
    | _ => [rd, rs1, rs2]).flatMap fun r => toBytes 8 (g r).toNat

/-- Up to n units of a long instruction on a T-core; a unit that stores starts with a free entry in the store buffer. -/
def State.unitsT (i k : Fin 4) (op : BlkOp) (rd rs1 rs2 : Reg) : Nat → State → State × TFlow
  | 0, s => (s, if s.tg i k rs2 = 0 then .seq else .stay)
  | n + 1, s =>
    if s.tg i k rs2 = 0 then (s, .seq)
    else
      let s := if blkStores op && decide (4 ≤ (s.tc i k).sb.length) then s.tDrainOne i k else s
      if blkStores op && decide (4 ≤ (s.tc i k).sb.length) then (s, .stay)
      else match blkUnit (fun s r => s.tg i k r) (fun s r v => s.setTg i k r v) (fun s a n => s.tUnitRead i k a n)
          (fun s a b => s.tUnitWrite i k a b) op rd rs1 rs2 s with
        | (s, .error (some f)) => (s, .exn f)
        | (s, .error none) => (s, .stay)
        | (s', .ok ()) => State.unitsT i k op rd rs1 rs2 n (s'.tSpend i k (s.unitCost i k op rd rs1))

/-- A long instruction on a T-core: at least one unit, and up to `units`, where it does not wait; STM first waits for an empty
store buffer (Table 8.4). -/
def tBlock (i k : Fin 4) (w : IWord) (units : Nat) : TBody := fun ins s =>
  match ins with
  | .block op rd rs1 rs2 =>
    let base := s.tg i k rs1
    if blockIllegal (s.tg i k) op rd rs1 rs2 then (s, tExn (illegal w))
    else if (op = .ldm ∨ op = .stm) ∧ s.tg i k rs2 ≠ 0 ∧ base.toNat % 8 ≠ 0 then
      (s, tExn { exn 7 0 0 base with wr := op == .stm })
    else
      let full := op == .stm && !(s.tc i k).sb.isEmpty
      let s := if full then s.modTc i k fun c => { c with waited := true } else s
      let s := if op = .stm then s.tDrain i k else s
      if op = .stm ∧ s.tg i k rs2 ≠ 0 ∧ (s.tc i k).sb ≠ [] then (s, tStay)
      else
        let (s, f) := State.unitsT i k op rd rs1 rs2 (max 1 units) s
        (s, ⟨f, blkBase op, blkRecs (s.tg i k) op rd rs1 rs2⟩)
  | _ => (s, tStay)

/-! ## System registers (Table 8.5) -/

/-- Whether a system register exists on a T-core. -/
def tSysKnown (n : Nat) : Bool :=
  [0x000, 0x001, 0x013, 0x014, 0x015, 0x016, 0x030, 0x031, 0x050, 0x060, 0x061, 0x062, 0x063, 0x064, 0x065, 0x068, 0x069, 0x06A,
    0x06B, 0x06C, 0x06D].contains n

/-- Read a system register. -/
def TCore.sysRead (c : TCore) (i k : Fin 4) (n : Nat) : Word :=
  match n with
  | 0x000 => c.tstat
  | 0x001 => c.fsr.setWidth 64
  | 0x013 => c.x.xpc | 0x014 => c.x.xst | 0x015 => c.x.xsy | 0x016 => c.x.xva
  | 0x030 => c.cycle | 0x031 => c.instret
  | 0x050 => word (k.val + 4 * i.val + 16)
  | 0x060 => (c.lc.get 0).setWidth 64 | 0x061 => (c.lc.get 1).setWidth 64
  | 0x062 => c.ls.get 0 | 0x063 => c.le.get 0 | 0x064 => c.ls.get 1 | 0x065 => c.le.get 1
  | 0x068 => (c.xlc.get 0).setWidth 64 | 0x069 => (c.xlc.get 1).setWidth 64
  | 0x06A => c.xls.get 0 | 0x06B => c.xle.get 0 | 0x06C => c.xls.get 1 | 0x06D => c.xle.get 1
  | _ => 0

/-- Write a system register; a read-only one ignores it (R281). -/
def TCore.sysWrite (c : TCore) (n : Nat) (v : Word) : TCore :=
  match n with
  | 0x000 => { c with tstat := v &&& 0x1F0 }
  | 0x001 => { c with fsr := fsrWrite v }
  | 0x013 => { c with x := { c.x with xpc := v } }
  | 0x014 => { c with x := { c.x with xst := v &&& 0x3F0 } }
  | 0x015 => { c with x := { c.x with xsy := v &&& 0x000FFFFF0001FFFF } }
  | 0x016 => { c with x := { c.x with xva := v } }
  | 0x068 => { c with xlc := vset c.xlc 0 (v.setWidth 32) } | 0x069 => { c with xlc := vset c.xlc 1 (v.setWidth 32) }
  | 0x06A => { c with xls := vset c.xls 0 v } | 0x06B => { c with xle := vset c.xle 0 v }
  | 0x06C => { c with xls := vset c.xls 1 v } | 0x06D => { c with xle := vset c.xle 1 v }
  | _ => c

/-- MFS on a T-core (R281). -/
def tMfs (i k : Fin 4) (w : IWord) : TBody := fun ins s =>
  match ins with
  | .mfs rd sr =>
    if tSysKnown sr.toNat then
      let v := (s.tc i k).sysRead i k sr.toNat
      (s.setTg i k rd v, tSeq 1 (recG rd v))
    else (s, tExn (illegal w))
  | _ => (s, tStay)

/-- MTS on a T-core (R281). -/
def tMts (i k : Fin 4) (w : IWord) : TBody := fun ins s =>
  match ins with
  | .mts sr rs1 =>
    if tSysKnown sr.toNat then
      let v := s.tg i k rs1
      (s.modTc i k fun c => c.sysWrite sr.toNat v, tSeq (if sr = 0 then 2 else 1) [])
    else (s, tExn (illegal w))
  | _ => (s, tStay)

/-! ## Other system instructions -/

/-- The state that ERET restores (R286). -/
def TCore.eret (c : TCore) : TCore :=
  { c with tstat := c.x.xst &&& 0x1F0, pcc := c.xpcc, lc := c.xlc, ls := c.xls, le := c.xle }

/-- ERET on a T-core; a boundary that the restored TSTAT unmasks comes before the instruction at XPC (R286). -/
def tEretB (i k : Fin 4) : TBody := fun ins s =>
  match ins with
  | .eret =>
    (s.modTc i k TCore.eret, ⟨.eret (s.tc i k).x.xpc, 6, []⟩)
  | _ => (s, tStay)

/-- FENCE of kind 0b00: one that names older stores waits for them (R74, R274). -/
def tFence (i k : Fin 4) : TBody := fun ins s =>
  match ins with
  | .fence (.order m) =>
    if m.getLsbD 1 then
      match s.tOrder i k 0 0 true with
      | (s, true) => (s, tStay)
      | (s, false) => (s, tSeq 1 [])
    else (s, tSeq 1 [])
  | _ => (s, tStay)

/-- FENCE.D waits besides for every released write of the island to be accepted at its target (R274); a write at PCIe whose
error response has not come is accepted. -/
def tFenceD (i k : Fin 4) : TBody := fun _ s =>
  match s.tOrder i k 0 0 true with
  | (s, true) => (s, tStay)
  | (s, false) =>
    if (s.island.get i).rel ≠ [] then (s, tStay)
    else (s.modIsl i fun x => { x with issued := [] }, tSeq 1 [])

/-- WFI on a T-core (R82). -/
def tWfi (i k : Fin 4) : TBody := fun _ s =>
  (s, ⟨if s.tPending i k then .seq else .wfi, 1, []⟩)

/-- BRK on a T-core. -/
def tBrk : TBody := fun ins s =>
  match ins with
  | .brk code => (s, tExn (exn 5 0 code.toNat 0))
  | _ => (s, tStay)

/-- CHKPT (R95). -/
def tChkpt : TBody := fun _ s => (s, ⟨.chkpt, 1, []⟩)

/-- Whether LOOP is illegal (R84, R86). -/
def TCore.loopIllegal (c : TCore) (l : Fin 2) (len : Nat) : Bool :=
  len == 0 || c.lc.get l != 0 || (l == 0 && c.lc.get 1 != 0) ||
    (l == 1 && c.lc.get 0 != 0 &&
      !decide ((c.ls.get 0).toNat ≤ (c.pc + 4).toNat ∧ (c.pc + word (4 * len)).toNat < (c.le.get 0).toNat))

/-- LOOP (R84 to R86). -/
def tLoop (i k : Fin 4) (w : IWord) : TBody := fun ins s =>
  match ins with
  | .loop l imm len cnt =>
    let c := s.tc i k
    let le := c.pc + word (4 * len.toNat)
    let n : BitVec 32 := if imm then cnt.setWidth 32 else (s.tg i k ⟨cnt.toNat / 2 ^ 9 % 32, Nat.mod_lt _ (by decide)⟩).setWidth 32
    if c.loopIllegal l len.toNat then (s, tExn (illegal w))
    else
      let s := s.modTc i k fun c => { c with ls := vset c.ls l (c.pc + 4), le := vset c.le l le, lc := vset c.lc l n }
      (s, ⟨if n = 0 then .goto (le + 4) else .seq, 2, []⟩)
  | _ => (s, tStay)

/-! ## Capabilities (R90 to R94, R292) -/

/-- The cause by which a source of R90 is refused. -/
def Cap.plain (c : Cap) : Option Nat := if !c.tag then some 1 else if c.otype ≠ 0 then some 2 else none

/-- A capability register of core k. -/
def State.tcap (s : State) (i k : Fin 4) (r : Fin 16) : Cap := (s.tc i k).c.get r

/-- The result of a capability instruction that writes a capability register: it, or the cause and the register that is refused
(R90, R91); checks in the order of Table 8.9, cs before ct. -/
def capResult (cap : Fin 16 → Cap) (g : Reg → Word) : Aelxel → Option (Fin 16 × Except (Nat × Nat) Cap)
  | .cmove cd cs _ => some (cd, .ok (cap cs))
  | .cclrt cd cs _ => some (cd, .ok { cap cs with tag := false })
  | .cincb cd cs r =>
    let c := cap cs
    let v := (g r).toNat
    some (cd, match c.plain with
      | some x => .error (x, cs.val)
      | none => if c.len.toNat < v ∨ 2 ^ 64 ≤ c.base.toNat + v then .error (4, cs.val)
          else .ok { c with base := c.base + g r, len := c.len - BitVec.ofNat 48 v })
  | .csetl cd cs r =>
    let c := cap cs
    some (cd, match c.plain with
      | some x => .error (x, cs.val)
      | none => if c.len.toNat < (g r).toNat then .error (4, cs.val) else .ok { c with len := (g r).setWidth 48 })
  | .candp cd cs r =>
    let c := cap cs
    some (cd, match c.plain with
      | some x => .error (x, cs.val)
      | none => .ok { c with perms := c.perms &&& (g r).setWidth 8 })
  | .cseal cd cs ct =>
    let c := cap cs
    let t := cap ct
    some (cd, match c.plain, t.plain with
      | some 1, _ => .error (1, cs.val)
      | _, some 1 => .error (1, ct.val)
      | some x, _ => .error (x, cs.val)
      | _, some x => .error (x, ct.val)
      | none, none =>
        if !t.may permSeal then .error (3, ct.val)
        else if t.base.toNat < 1 ∨ 0xFE < t.base.toNat then .error (5, ct.val)
        else .ok { c with otype := t.base.setWidth 8 })
  | .cunseal cd cs ct =>
    let c := cap cs
    let t := cap ct
    some (cd,
      if !c.tag then .error (1, cs.val)
      else match t.plain with
        | some x => .error (x, ct.val)
        | none =>
          if !t.may permUnseal then .error (3, ct.val)
          else if t.base ≠ c.otype.setWidth 64 then .error (5, ct.val)
          else .ok { c with otype := 0 })
  | _ => none

/-- Cycles of a capability instruction that writes a capability register (Table 8.4). -/
def capCycles : Aelxel → Nat
  | .cseal _ _ _ | .cunseal _ _ _ => 2
  | _ => 1

/-- CMOVE, CINCB, CSETL, CANDP, CSEAL, CUNSEAL and CCLRT. -/
def tCap (i k : Fin 4) : TBody := fun ins s =>
  match capResult (s.tcap i k) (s.tg i k) ins with
  | some (cd, .ok v) => (s.setTcap i k cd v, tSeq (capCycles ins) (recC v))
  | some (_, .error (cause, r)) => (s, tExn (capFault cause r 0))
  | none => (s, tStay)

/-- What a CGET instruction reads (Table 2.11). -/
def Cap.field (c : Cap) : CapField → Word
  | .base => c.base
  | .len => c.len.setWidth 64
  | .perms => c.perms.setWidth 64
  | .otype => c.otype.setWidth 64
  | .tag => if c.tag then 1 else 0

/-- CGETB, CGETL, CGETP, CGETT and CGETG accept any source (R90). -/
def tCget (i k : Fin 4) : TBody := fun ins s =>
  match ins with
  | .cget f rd cs _ =>
    let v := (s.tcap i k cs).field f
    (s.setTg i k rd v, tSeq 1 (recG rd v))
  | _ => (s, tStay)

/-- The cause and register by which CCALL refuses its sources (R93). -/
def ccallRefuses (cs ct : Cap) (rs rt : Nat) : Option (Nat × Nat) :=
  if !cs.tag then some (1, rs)
  else if !ct.tag then some (1, rt)
  else if !cs.may (permCall + permX) then some (3, rs)
  else if !ct.may permCall then some (3, rt)
  else if cs.otype = 0 ∨ cs.otype = 0xFF ∨ cs.otype ≠ ct.otype then some (6, rs)
  else none

/-- The cause and register by which CRET refuses its sources (R94). -/
def cretRefuses (cs ct : Cap) (rs rt : Nat) : Option (Nat × Nat) :=
  if !cs.tag then some (1, rs)
  else if !ct.tag then some (1, rt)
  else if cs.otype ≠ 0xFF then some (7, rs)
  else if ct.otype ≠ 0xFF then some (7, rt)
  else none

/-- A capability with another object type. -/
def Cap.sealed (c : Cap) (t : Byte) : Cap := { c with otype := t }

/-- CCALL (R93). -/
def tCcall (i k : Fin 4) : TBody := fun ins s =>
  match ins with
  | .ccall rs rt =>
    let cs := s.tcap i k rs
    let ct := s.tcap i k rt
    match ccallRefuses cs ct rs.val rt.val with
    | some (cause, r) => (s, tExn (capFault cause r 0))
    | none =>
      let c := s.tc i k
      let c14 := (c.c.get 0).sealed 0xFF
      let c15 := c.pcc.sealed 0xFF
      let c0 := ct.sealed 0
      let ra := c.pc + 4
      let s := ((s.setTcap i k 14 c14).setTcap i k 15 c15).setTcap i k 0 c0
      let s := (s.setTg i k 1 ra).modTc i k fun c => { c with pcc := cs.sealed 0 }
      (s, ⟨.goto cs.base, 4, recG 1 ra ++ recC c14 ++ recC c15 ++ recC c0⟩)
  | _ => (s, tStay)

/-- CRET (R94). -/
def tCret (i k : Fin 4) : TBody := fun ins s =>
  match ins with
  | .cret rs rt =>
    let cs := s.tcap i k rs
    let ct := s.tcap i k rt
    match cretRefuses cs ct rs.val rt.val with
    | some (cause, r) => (s, tExn (capFault cause r 0))
    | none =>
      let ra := s.tg i k 1
      let s := (s.setTcap i k 0 (ct.sealed 0)).modTc i k fun c => { c with pcc := cs.sealed 0 }
      (s, ⟨.goto ra, 4, recC (ct.sealed 0)⟩)
  | _ => (s, tStay)

/-- CMFC (Table 2.11): TVB or PCC. -/
def tCmfc (i k : Fin 4) : TBody := fun ins s =>
  match ins with
  | .cmfc cd n =>
    let v := if n = 0 then (s.tc i k).tvb else (s.tc i k).pcc
    (s.setTcap i k cd v, tSeq 1 (recC v))
  | _ => (s, tStay)

/-- The cause by which CMTC refuses a source for TVB (R292). -/
def tvbRefuses (c : Cap) : Option Nat :=
  match c.plain with
  | some x => some x
  | none =>
    if !c.may (permR + permX) then some 3
    else if c.base.toNat % 8 ≠ 0 ∨ c.len.toNat < 0x800 ∨ 0x40000 < c.base.toNat + c.len.toNat then some 8
    else none

/-- CMTC to TVB (R292). -/
def tCmtc (i k : Fin 4) : TBody := fun ins s =>
  match ins with
  | .cmtc cs =>
    let v := s.tcap i k cs
    match tvbRefuses v with
    | some cause => (s, tExn (capFault cause 0x11 0))
    | none => (s.modTc i k fun c => { c with tvb := v }, tSeq 3 [])
  | _ => (s, tStay)

end Sys2Proof.Machine
end

