-- ==== Sys2Proof/Machine/Insn.lean ====
section
/-! DEFINITION. The commands that carry an instruction word: the executing core runs the word by the body of its core type. A
word that encodes an instruction of another row is no command of the row; a word that encodes nothing raises the
illegal-instruction exception (R47). -/
namespace Sys2Proof.Machine

/-- Run a word of a row on the core that the command names. -/
def runInsn (row : String) (c : CoreId) (w : IWord) (a : Fin 32 → ABody) (t : Fin 4 → Fin 4 → TBody) (s : State) :
    Host.Outcome State Fault Refusal :=
  if wordOfRow w row then
    .next (match c with
      | .a c => s.aStep c w (a c)
      | .t i k => s.tStep i k w (t i k))
  else .refused (.illFormed row)

/-! ## Table 2.4: integer, memory, floating point and control flow -/

/-- instructions of the integer group, the shift-immediate group, ADDI to SLTUI, LUI and AUIPC. -/
def execIntegerOp (c : CoreId) (w : IWord) (s : State) : Host.Outcome State Fault Refusal :=
  runInsn "INTEGER_OP" c w aReg tReg s

/-- MUL, MULH, MULHU and MULHSU. -/
def execMultiply (c : CoreId) (w : IWord) (s : State) : Host.Outcome State Fault Refusal :=
  runInsn "MULTIPLY" c w aReg tReg s

/-- DIV, DIVU, REM and REMU (R51). -/
def execDivide (c : CoreId) (w : IWord) (s : State) : Host.Outcome State Fault Refusal :=
  runInsn "DIVIDE" c w aReg tReg s

/-- LB to LD, LBU to LWU, FLW and FLD (R52). -/
def execLoad (c : CoreId) (w : IWord) (ev : ArrayEvent) (s : State) : Host.Outcome State Fault Refusal :=
  runInsn "LOAD" c w (fun c => aLoad c w ev) (fun i k => tLoadB i k w ev) s

/-- SB to SD, FSW and FSD (R52). -/
def execStore (c : CoreId) (w : IWord) (s : State) : Host.Outcome State Fault Refusal :=
  runInsn "STORE" c w aStore tStoreB s

/-- the floating-point group (Table 2.6). -/
def execFloatOp (c : CoreId) (w : IWord) (s : State) : Host.Outcome State Fault Refusal :=
  runInsn "FLOAT_OP" c w (fun c => aFloat c w) (fun i k => tFloat i k w) s

/-- BEQ to BGEU (R55, R56). -/
def execConditionalBranch (c : CoreId) (w : IWord) (s : State) : Host.Outcome State Fault Refusal :=
  runInsn "CONDITIONAL_BRANCH" c w aBranch tBranch s

/-- J and JAL (R55, R56). -/
def execJump (c : CoreId) (w : IWord) (s : State) : Host.Outcome State Fault Refusal :=
  runInsn "JUMP" c w aJump tJump s

/-- JR and JALR (R60, R61). -/
def execRegisterJump (c : CoreId) (w : IWord) (s : State) : Host.Outcome State Fault Refusal :=
  runInsn "REGISTER_JUMP" c w (fun c => aRegJump c w) (fun i k => tRegJump i k w) s

/-! ## Table 2.7: atomics -/

/-- AMOSWAP to AMOMAXU (R71, R72). -/
def execAmo (c : CoreId) (w : IWord) (s : State) : Host.Outcome State Fault Refusal :=
  runInsn "AMO" c w aAmo (fun i k => tAmo i k w) s

/-- CAS (R71, R72). -/
def execCas (c : CoreId) (w : IWord) (s : State) : Host.Outcome State Fault Refusal :=
  runInsn "CAS" c w aAmo (fun i k => tAmo i k w) s

/-- LDA (R72). -/
def execLda (c : CoreId) (w : IWord) (s : State) : Host.Outcome State Fault Refusal :=
  runInsn "LDA" c w aLda (fun i k => tLda i k w) s

/-- STL (R72). -/
def execStl (c : CoreId) (w : IWord) (s : State) : Host.Outcome State Fault Refusal :=
  runInsn "STL" c w aStl (fun i k => tStl i k w) s

/-! ## Table 2.8: long instructions -/

/-- BCOPY, up to `units` of its units (R63 to R70). -/
def execBcopy (c : CoreId) (w : IWord) (units : Nat) (s : State) : Host.Outcome State Fault Refusal :=
  runInsn "BCOPY" c w (fun c => aBlock c w units) (fun i k => tBlock i k w units) s

/-- BFILL, up to `units` of its units (R63 to R70). -/
def execBfill (c : CoreId) (w : IWord) (units : Nat) (s : State) : Host.Outcome State Fault Refusal :=
  runInsn "BFILL" c w (fun c => aBlock c w units) (fun i k => tBlock i k w units) s

/-- BCRC, up to `units` of its units (R63 to R70). -/
def execBcrc (c : CoreId) (w : IWord) (units : Nat) (s : State) : Host.Outcome State Fault Refusal :=
  runInsn "BCRC" c w (fun c => aBlock c w units) (fun i k => tBlock i k w units) s

/-- BCRC.E, up to `units` of its units (R63 to R70). -/
def execBcrcE (c : CoreId) (w : IWord) (units : Nat) (s : State) : Host.Outcome State Fault Refusal :=
  runInsn "BCRC_E" c w (fun c => aBlock c w units) (fun i k => tBlock i k w units) s

/-- LDM, up to `units` of its units (R63 to R70). -/
def execLdm (c : CoreId) (w : IWord) (units : Nat) (s : State) : Host.Outcome State Fault Refusal :=
  runInsn "LDM" c w (fun c => aBlock c w units) (fun i k => tBlock i k w units) s

/-- STM, up to `units` of its units (R63 to R70). -/
def execStm (c : CoreId) (w : IWord) (units : Nat) (s : State) : Host.Outcome State Fault Refusal :=
  runInsn "STM" c w (fun c => aBlock c w units) (fun i k => tBlock i k w units) s

/-! ## Table 2.9: system instructions -/

/-- MFS (R79, R137, R281). -/
def execMfs (c : CoreId) (w : IWord) (s : State) : Host.Outcome State Fault Refusal :=
  runInsn "MFS" c w (fun c => aMfs c w) (fun i k => tMfs i k w) s

/-- MTS (R79, R137, R281). -/
def execMts (c : CoreId) (w : IWord) (s : State) : Host.Outcome State Fault Refusal :=
  runInsn "MTS" c w (fun c => aMts c w) (fun i k => tMts i k w) s

/-- ERET on an A-core (R154). -/
def execEret (c : Fin 32) (w : IWord) (s : State) : Host.Outcome State Fault Refusal :=
  runInsn "ERET" (.a c) w (fun c => aEret c w) (fun _ _ => tLacks w) s

/-- ERET on a T-core (R286). -/
def execTEret (i k : Fin 4) (w : IWord) (s : State) : Host.Outcome State Fault Refusal :=
  runInsn "ERET" (.t i k) w (fun _ => aLacks w) tEretB s

/-- GATE (R141); illegal on a T-core. -/
def execGate (c : CoreId) (w : IWord) (s : State) : Host.Outcome State Fault Refusal :=
  runInsn "GATE" c w (fun c => aGate c w) (fun _ _ => tLacks w) s

/-- GRET (R144, R341); illegal on a T-core. -/
def execGret (c : CoreId) (w : IWord) (s : State) : Host.Outcome State Fault Refusal :=
  runInsn "GRET" c w (fun c => aGret c w) (fun _ _ => tLacks w) s

/-- FENCE of kind 0b00 (R74, R274). -/
def execFence (c : CoreId) (w : IWord) (s : State) : Host.Outcome State Fault Refusal :=
  runInsn "FENCE" c w aFence tFence s

/-- FENCE.I (R74). -/
def execFenceI (c : CoreId) (w : IWord) (s : State) : Host.Outcome State Fault Refusal :=
  runInsn "FENCE_I" c w aFence (fun _ _ => tNop) s

/-- FENCE.D (R74, R274). -/
def execFenceD (c : CoreId) (w : IWord) (s : State) : Host.Outcome State Fault Refusal :=
  runInsn "FENCE_D" c w aFence tFenceD s

/-- FENCE.T (R74, R189). -/
def execFenceT (c : CoreId) (w : IWord) (s : State) : Host.Outcome State Fault Refusal :=
  runInsn "FENCE_T" c w aFenceT (fun _ _ => tNop) s

/-- SPB (R75). -/
def execSpb (c : CoreId) (w : IWord) (s : State) : Host.Outcome State Fault Refusal :=
  runInsn "SPB" c w aSpb (fun _ _ => tNop) s

/-- PRFLUSH (R76, R77). -/
def execPrflush (c : CoreId) (w : IWord) (s : State) : Host.Outcome State Fault Refusal :=
  runInsn "PRFLUSH" c w (fun c => aPrflush c w) (fun _ _ => tNop) s

/-- PRBAR (R78). -/
def execPrbar (c : CoreId) (w : IWord) (s : State) : Host.Outcome State Fault Refusal :=
  runInsn "PRBAR" c w aPrbar (fun _ _ => tNop) s

/-- WFI (R82). -/
def execWfi (c : CoreId) (w : IWord) (s : State) : Host.Outcome State Fault Refusal :=
  runInsn "WFI" c w (fun c => aWfi c w) tWfi s

/-- BRK (R83). -/
def execBrk (c : CoreId) (w : IWord) (s : State) : Host.Outcome State Fault Refusal :=
  runInsn "BRK" c w aBrk (fun _ _ => tBrk) s

/-- NOP. -/
def execNop (c : CoreId) (w : IWord) (s : State) : Host.Outcome State Fault Refusal :=
  runInsn "NOP" c w (fun _ => aNop) (fun _ _ => tNop) s

/-- CHKPT (R95); illegal on an A-core. -/
def execChkpt (c : CoreId) (w : IWord) (s : State) : Host.Outcome State Fault Refusal :=
  runInsn "CHKPT" c w (fun _ => aLacks w) (fun _ _ => tChkpt) s

/-! ## Table 2.10: maintenance, illegal on a T-core -/

/-- TLBIVA (R188, R189). -/
def execTlbiva (c : CoreId) (w : IWord) (s : State) : Host.Outcome State Fault Refusal :=
  runInsn "TLBIVA" c w (fun c => aTlbi c w) (fun _ _ => tLacks w) s

/-- TLBIVAA (R188, R189). -/
def execTlbivaa (c : CoreId) (w : IWord) (s : State) : Host.Outcome State Fault Refusal :=
  runInsn "TLBIVAA" c w (fun c => aTlbi c w) (fun _ _ => tLacks w) s

/-- TLBIPCID (R188, R189). -/
def execTlbipcid (c : CoreId) (w : IWord) (s : State) : Host.Outcome State Fault Refusal :=
  runInsn "TLBIPCID" c w (fun c => aTlbi c w) (fun _ _ => tLacks w) s

/-- TLBIPART (R188, R189). -/
def execTlbipart (c : CoreId) (w : IWord) (s : State) : Host.Outcome State Fault Refusal :=
  runInsn "TLBIPART" c w (fun c => aTlbi c w) (fun _ _ => tLacks w) s

/-- TLBIIPA (R188, R189). -/
def execTlbiipa (c : CoreId) (w : IWord) (s : State) : Host.Outcome State Fault Refusal :=
  runInsn "TLBIIPA" c w (fun c => aTlbi c w) (fun _ _ => tLacks w) s

/-- TLBIS2 (R188, R189). -/
def execTlbis2 (c : CoreId) (w : IWord) (s : State) : Host.Outcome State Fault Refusal :=
  runInsn "TLBIS2" c w (fun c => aTlbi c w) (fun _ _ => tLacks w) s

/-- TLBIALL (R188, R189). -/
def execTlbiall (c : CoreId) (w : IWord) (s : State) : Host.Outcome State Fault Refusal :=
  runInsn "TLBIALL" c w (fun c => aTlbi c w) (fun _ _ => tLacks w) s

/-- DCC (R222, Table 6.6). -/
def execDcc (c : CoreId) (w : IWord) (s : State) : Host.Outcome State Fault Refusal :=
  runInsn "DCC" c w (fun c => aCache c w) (fun _ _ => tLacks w) s

/-- DCCI (R222, Table 6.6). -/
def execDcci (c : CoreId) (w : IWord) (s : State) : Host.Outcome State Fault Refusal :=
  runInsn "DCCI" c w (fun c => aCache c w) (fun _ _ => tLacks w) s

/-- DCI (R222, Table 6.6). -/
def execDci (c : CoreId) (w : IWord) (s : State) : Host.Outcome State Fault Refusal :=
  runInsn "DCI" c w (fun c => aCache c w) (fun _ _ => tLacks w) s

/-- ICI (R222, Table 6.6). -/
def execIci (c : CoreId) (w : IWord) (s : State) : Host.Outcome State Fault Refusal :=
  runInsn "ICI" c w (fun c => aCache c w) (fun _ _ => tLacks w) s

/-- ZLINE (R222, Table 6.6). -/
def execZline (c : CoreId) (w : IWord) (s : State) : Host.Outcome State Fault Refusal :=
  runInsn "ZLINE" c w (fun c => aCache c w) (fun _ _ => tLacks w) s

/-! ## LOOP and Table 2.11: capabilities, illegal on an A-core -/

/-- LOOP (R84 to R86). -/
def execLoop (c : CoreId) (w : IWord) (s : State) : Host.Outcome State Fault Refusal :=
  runInsn "LOOP" c w (fun _ => aLacks w) (fun i k => tLoop i k w) s

/-- CMOVE (R90, R91). -/
def execCmove (c : CoreId) (w : IWord) (s : State) : Host.Outcome State Fault Refusal :=
  runInsn "CMOVE" c w (fun _ => aLacks w) tCap s

/-- CINCB (R90, R91). -/
def execCincb (c : CoreId) (w : IWord) (s : State) : Host.Outcome State Fault Refusal :=
  runInsn "CINCB" c w (fun _ => aLacks w) tCap s

/-- CSETL (R90, R91). -/
def execCsetl (c : CoreId) (w : IWord) (s : State) : Host.Outcome State Fault Refusal :=
  runInsn "CSETL" c w (fun _ => aLacks w) tCap s

/-- CANDP (R90, R91). -/
def execCandp (c : CoreId) (w : IWord) (s : State) : Host.Outcome State Fault Refusal :=
  runInsn "CANDP" c w (fun _ => aLacks w) tCap s

/-- CSEAL (R90, R91). -/
def execCseal (c : CoreId) (w : IWord) (s : State) : Host.Outcome State Fault Refusal :=
  runInsn "CSEAL" c w (fun _ => aLacks w) tCap s

/-- CUNSEAL (R90, R91). -/
def execCunseal (c : CoreId) (w : IWord) (s : State) : Host.Outcome State Fault Refusal :=
  runInsn "CUNSEAL" c w (fun _ => aLacks w) tCap s

/-- CCLRT (R90, R91). -/
def execCclrt (c : CoreId) (w : IWord) (s : State) : Host.Outcome State Fault Refusal :=
  runInsn "CCLRT" c w (fun _ => aLacks w) tCap s

/-- CGETB (R90). -/
def execCgetb (c : CoreId) (w : IWord) (s : State) : Host.Outcome State Fault Refusal :=
  runInsn "CGETB" c w (fun _ => aLacks w) tCget s

/-- CGETL (R90). -/
def execCgetl (c : CoreId) (w : IWord) (s : State) : Host.Outcome State Fault Refusal :=
  runInsn "CGETL" c w (fun _ => aLacks w) tCget s

/-- CGETP (R90). -/
def execCgetp (c : CoreId) (w : IWord) (s : State) : Host.Outcome State Fault Refusal :=
  runInsn "CGETP" c w (fun _ => aLacks w) tCget s

/-- CGETT (R90). -/
def execCgett (c : CoreId) (w : IWord) (s : State) : Host.Outcome State Fault Refusal :=
  runInsn "CGETT" c w (fun _ => aLacks w) tCget s

/-- CGETG (R90). -/
def execCgetg (c : CoreId) (w : IWord) (s : State) : Host.Outcome State Fault Refusal :=
  runInsn "CGETG" c w (fun _ => aLacks w) tCget s

/-- CCALL (R93). -/
def execCcall (c : CoreId) (w : IWord) (s : State) : Host.Outcome State Fault Refusal :=
  runInsn "CCALL" c w (fun _ => aLacks w) tCcall s

/-- CRET (R94). -/
def execCret (c : CoreId) (w : IWord) (s : State) : Host.Outcome State Fault Refusal :=
  runInsn "CRET" c w (fun _ => aLacks w) tCret s

/-- CMFC. -/
def execCmfc (c : CoreId) (w : IWord) (s : State) : Host.Outcome State Fault Refusal :=
  runInsn "CMFC" c w (fun _ => aLacks w) tCmfc s

/-- CMTC (R292). -/
def execCmtc (c : CoreId) (w : IWord) (s : State) : Host.Outcome State Fault Refusal :=
  runInsn "CMTC" c w (fun _ => aLacks w) tCmtc s

/-- CLC (R92). -/
def execClc (c : CoreId) (w : IWord) (s : State) : Host.Outcome State Fault Refusal :=
  runInsn "CLC" c w (fun _ => aLacks w) (fun i k => tClc i k w) s

/-- CSC (R92). -/
def execCsc (c : CoreId) (w : IWord) (s : State) : Host.Outcome State Fault Refusal :=
  runInsn "CSC" c w (fun _ => aLacks w) tCsc s

end Sys2Proof.Machine
end

