-- ==== Sys2Proof/Machine/ACoreOps.lean ====
section
/-! DEFINITION. What an A-core does besides instructions: the committed store buffer (R114), waiting loads (R115, R122), the
prefetcher (R124), walks (R179, R181), interrupts (R155 to R157), remote TLB operations (R189) and debug halts (R347). -/
namespace Sys2Proof.Machine

/-- STORE_BUFFER_DRAIN: the oldest committed store is written, or the part of it that is due (R114, R121); of the DEV-P stores on
their way a free choice arrives (R229). -/
def execStoreBufferDrain (c : Fin 32) (s : State) : Host.Outcome State Fault Refusal :=
  .next (s.served fun s => (s.drainOne c).arriveSome c fun _ => false)

/-- A waiting load issues again; it has been fetched. -/
def State.reissue (s : State) (c : Fin 32) : State :=
  match (s.acore.get c).wait with
  | some w =>
    let s := (s.modA c fun a => { a with wait := none }).haltTry c
    if (s.acore.get c).forced then s.forcedExit c
    else if !s.aRuns c then s
    else s.aRun c w (aLoad c w .good)
  | none => s

/-- PARTIAL_OVERLAP_REISSUE: the load that waits for overlapping stores issues again; it waits on where one still overlaps
(R115). -/
def execPartialOverlapReissue (c : Fin 32) (s : State) : Host.Outcome State Fault Refusal :=
  .next (s.served fun s => s.reissue c)

/-- L1D_MISS_FILL: the line of a miss register enters the L1D, where the pod's L2 holds it, and the register frees; a load
that waits for one issues again (R122). -/
def execL1dMissFill (c : Fin 32) (pa : PA) (s : State) : Host.Outcome State Fault Refusal :=
  .next <| s.served fun s =>
    let line := pa.toNat / 64
    if (s.acore.get c).miss.any (·.line == line) then
      let s := if (s.l2? (podOf c) line).isSome then s.l1Fill c line else s
      (s.modA c fun a => { a with miss := a.miss.filter fun m => m.line != line }).reissue c
    else s

/-! ## The prefetcher (R124) -/

/-- Whether an address lies on a trained stream, ahead of its last access and in its page. -/
def ACore.onStream (a : ACore) (va : Nat) : Bool :=
  a.streams.any fun t =>
    let d : Int := (va : Int) - t.last
    t.trained && t.last / 4096 == va / 4096 && decide (d % t.stride = 0 ∧ 0 < d / t.stride)

/-- Miss registers that prefetches hold: no load has merged into them. -/
def ACore.prefetches (a : ACore) : Nat := (a.miss.filter fun m => m.merged == 0).length

/-- The translation of a prefetch: a hit in the DTLB, which sets no A or D bit and causes no walk. -/
def State.prefetchXlat (s : State) (c : Fin 32) (va : Word) : Option Xlat :=
  let k : XCtx := { s.ctx c .read false with ad := false }
  match (s.tlbHits k va).find? (·.wher == .dtlb) with
  | none => none
  | some e => match s.tlbServe k va e with
    | (_, .ok x) => if (s.huskExn k va x.pa).isNone then some x else none
    | (_, .error _) => none

/-- PREFETCH_ISSUE: a prefetch of the line at a VA takes a miss register. -/
def execPrefetchIssue (c : Fin 32) (va : Word) (s : State) : Host.Outcome State Fault Refusal :=
  .next <| s.served fun s =>
    let a := s.acore.get c
    let on := s.ev (0x4300 + c.val / 4) 3 == 1 && decide (a.prefetches < s.ev (0x4300 + c.val / 4) 4 ∧ a.miss.length < 48)
    if !(s.aRuns c && on && a.onStream va.toNat) then s
    else match s.prefetchXlat c va with
      | none => s
      | some x =>
        let line := x.pa / 64
        let wb := x.type == .wb || x.type == .wbNwa
        if !wb || !(s.region x.pa).isHbm || a.l1d.contains line || a.miss.any (·.line == line) ||
            (s.coreErr c ⟨x.pa, x.type, va, 1⟩ false).isSome then s
        else
          let (s, _, _) := s.coreLine c line x.type .good
          s.modA c fun a => { a with miss := a.miss ++ [⟨line, 0⟩] }

/-! ## Walks -/

/-- A walk apart from an instruction's own: it counts no event; a fault is raised at the PC. -/
def State.walkFor (s : State) (c : Fin 32) (k : XCtx) (va : Word) : State :=
  match s.translate k va with
  | (t, .ok _) => t.modA c fun a => { a with evs := (s.acore.get c).evs }
  | (t, .error f) => t.raise c f

/-- TABLE_WALK: the walk of a TLB miss, for an access that the core makes at its position; a fault is raised at the PC
(R179, R193). -/
def execTableWalk (c : Fin 32) (va : Word) (kind : Acc) (s : State) : Host.Outcome State Fault Refusal :=
  .next <| s.served fun s =>
    if !s.aRuns c || !(s.tlbHits (s.ctx c kind false) va).isEmpty then s else s.walkFor c (s.ctx c kind false) va

/-- The address and type of a leaf that an update writes: a guest's stage-1 entry stands at an IPA, and its update is translated as a
ring-0 write (R177, R181). -/
def State.leafPlace (s : State) (k : XCtx) (st2 : Bool) (ea : Nat) : State × Except Exn (Nat × MemType) :=
  if !st2 && s.hasH then
    match s.tblPage k ea true with
    | (s, .error f) => (s, .error { f with wr := true })
    | (s, .ok p) => (s, .ok p)
  else (s, .ok (ea, directType ea))

/-- AD_UPDATE: the compare-and-swap of a leaf at `ea` that the walk of a VA read as `seen`; where the comparison fails, the
walk starts again (R181). None is attempted in memory of a device type (R182). -/
def execAdUpdate (c : Fin 32) (va : Word) (st2 : Bool) (ea : PA) (seen : Word) (write : Bool) (s : State) :
    Host.Outcome State Fault Refusal :=
  .next <| s.served fun s =>
    let k := s.ctx c (if write then .write else .read) false
    let e := seen.toNat
    if !s.aRuns c || !bit e 0 || adSet e write == e || ea.toNat % 8 != 0 then s
    else match s.leafPlace k st2 ea.toNat with
      | (s, .error f) => s.raise c f
      | (s, .ok (p, t)) =>
        if isDev t then s
        else match s.walkRead k p t with
          | (s, .error _) => s
          | (s, .ok _) => match s.casEntry c p e write with
            | (s, true) => s
            | (s, false) => s.walkFor c k va

/-! ## Interrupts -/

/-- Whether an interrupt of a priority is taken at level H, or else at ring 0 (R156). -/
def State.mayTake (s : State) (c : Fin 32) (h : Bool) (prio : Nat) : Bool :=
  let a := s.acore.get c
  let open_ := decide (a.ml < prio) && !a.xm
  if h then !s.atH c || open_ else !s.atH c && open_

/-- The interrupt that the core takes: its source, the interface that claims it, and its position. A physical interrupt is
routed to level H where it exists; a virtual one to ring 0 of the partition. -/
def State.takes (s : State) (c : Fin 32) : Option (Nat × Claimer × Bool) :=
  let phys := match s.coreOffer c with
    | some k => if s.mayTake c s.hasH (s.src k).prio then some (k, Claimer.core c, s.hasH) else none
    | none => none
  match phys with
  | some x => some x
  | none => match s.corePart c with
    | none => none
    | some p => match s.virtOffer (fin 63 p) with
      | some k => if s.mayTake c false (s.src k).prio then some (k, Claimer.virt (fin 63 p), false) else none
      | none => none

/-- Whether the instruction at the PC is a long instruction. -/
def State.atLong (s : State) (c : Fin 32) : Bool :=
  match s.xlate { s.ctx c .exec false with ad := false } (s.acore.get c).pc with
  | (t, .error _) => t.held
  | (s, .ok x) => match decodeWord (BitVec.ofNat 32 (ofBytes (s.peekBytes x.pa 4))) with
    | some (.block _ _ _ _) => true
    | _ => false

/-- Whether the core is at a boundary where it may accept an interrupt (R58, R65). -/
def State.irqBoundary (s : State) (c : Fin 32) : Bool :=
  let a := s.acore.get c
  (a.run == .running || a.run == .wfi) && s.domOn ⟨c.val, by omega⟩ && a.delay.isNone && !(a.longOwed && s.atLong c)

/-- INTERRUPT_TAKE: claim and entry (R157). -/
def execInterruptTake (c : Fin 32) (s : State) : Host.Outcome State Fault Refusal :=
  .next <| s.served fun s =>
    if (s.acore.get c).forced then s.forcedExit c
    else if !s.irqBoundary c then s
    else match s.takes c with
      | none => s
      | some (k, w, h) =>
        let x := s.src k
        let f : Exn := { exn x.vec 0 (srcId k) 0 with toH := h }
        (s.claim k w).raiseAt c f (s.acore.get c).pc false x.prio (w != Claimer.core c) true

/-! ## TLB operations of other cores -/

/-- TLBI_REMOTE_EFFECT: the oldest TLB operation on its way to a core takes effect there (R189). -/
def execTlbiRemoteEffect (c : Fin 32) (s : State) : Host.Outcome State Fault Refusal :=
  .next <| match s.tlbPend.find? fun t => t.dst == c with
    | some t => { s.tlbEffect t with tlbPend := s.tlbPend.erase t }
    | none => s

/-! ## Debug -/

/-- A debugger's halt request to an A-core (R347, R82). -/
def State.aHalt (s : State) (c : Fin 32) : State :=
  if (s.acore.get c).run = .running ∨ (s.acore.get c).run = .wfi then
    ((s.modA c fun a => { a with haltReq := true }).wakeWfi c).haltTry c
  else s

/-- A debugger resumes a halted A-core, or single-steps it where invasive debug is permitted (R347). -/
def State.aResume (s : State) (c : Fin 32) (single : Bool) : State :=
  if (s.acore.get c).run = .halted ∧ (single = false ∨ s.invasive c = true) then
    s.modA c fun a => { a with run := .running, step1 := single }
  else s

end Sys2Proof.Machine
end

