-- ==== Sys2Proof/Machine/TOps.lean ====
section
/-! DEFINITION. What an island does besides instructions: data that arrives at the island port (R271 to R275, R285), the store
buffer (R279), interrupt entry (R282 to R285), released writes (R275, R294, R305), and debug halts of both core types (R347). -/
namespace Sys2Proof.Machine

/-! ## FAR_LOAD_DATA -/

/-- The atomic of two cores is performed (R271): poison stops its write (R71). -/
def State.portAmo (s : State) (i k : Fin 4) (a n : Nat) (op : AmoOp) (v cmp : Word) : State × PortData :=
  match tKind a n with
  | .far pa => match s.farErr i pa n true with
    | some r => (s, errData r)
    | none =>
      let (s, b, poison) := s.homeAtomic pa n op v cmp (isl i)
      (s, okData (ofBytes b) poison)
  | _ =>
    let s := s.tEcc i k .shared a n .good
    let (x, bad) := s.tLocal i k .shared a n
    if bad then (s, okData x true)
    else (s.memWrite (isl i) (sharedPa i a) (amoBytes op (toBytes n x) v cmp) false, okData x false)

/-- A write of HBM or of another region through the port, part by part (R542): the first error response. -/
def State.farWrite (s : State) (i : Fin 4) (pa : Nat) (b : List Byte) : State × Option Resp :=
  let r := (partsOf pa b.length).foldl (fun (acc : State × Option Resp) p =>
    match acc.1.farErr i p.1 p.2 true with
    | some e => ((if (acc.1.region p.1).isHbm then acc.1.postedError (isl i) p.1 e else acc.1), acc.2.orElse fun _ => some e)
    | none => (acc.1.memWrite (isl i) p.1 (slice b (p.1 - pa) p.2) false, acc.2)) (s, none)
  r

/-- The STL of two cores is performed; its error response at HBM is posted (R32). -/
def State.portStl (s : State) (i : Fin 4) (a n : Nat) (v : Word) : State :=
  match tKind a n with
  | .far pa => (s.farWrite i pa (toBytes n v.toNat)).1
  | _ => s.memWrite (isl i) (sharedPa i a) (toBytes n v.toNat) false

/-- Perform a transaction of the port. -/
def State.portPerform (s : State) (i k : Fin 4) (t : PortTxn) : State × PortData :=
  match t.kind with
  | .load | .lda | .clc => s.portRead i k t.addr t.size .good
  | .amo op v cmp => s.portAmo i k t.addr t.size op v cmp
  | .stl v => (s.portStl i t.addr t.size v, okData 0 false)

/-- What the waiting instruction of a core leaves when its data arrives. -/
def State.farResult (s : State) (i k : Fin 4) (f : FarWait) (d : PortData) : State × TOut :=
  let (s, n) := s.draw
  let wr := match f.kind with
    | .amo _ _ _ | .stl _ => true
    | _ => false
  match d.got (word f.addr) (4 + Config.freeNat n) with
  | .wait => (s, tStay)
  | .fault e => (s, tExn { e with wr := wr && e.vec != 17 })
  | .data v _ cyc => match decodeWord f.w with
    | some (.load op rd _ _) => s.loadResult i k op rd v cyc
    | some (.lda dbl rd _) => (s.setTg i k rd (amoOld (toBytes (amoSize dbl) v)), tSeq cyc (recG rd (amoOld (toBytes (amoSize dbl) v))))
    | some (.amo _ _ _ dbl rd _ rs2) =>
      let old := amoOld (toBytes (amoSize dbl) v)
      let x := s.tg i k rs2
      (s.setTg i k rd old, tSeq cyc (amoRecs rd old (word f.addr) x))
    | some (.clc cd _ _) => (s.setTcap i k cd (Cap.ofBits v false), tSeq cyc (recC (Cap.ofBits v false)))
    | _ => match f.kind with
      | .stl x => (s, tSeq cyc (recS (word f.addr) x.toNat))
      | _ => (s, tSeq cyc [])

/-- Whether a waiting core is one that a transaction serves. -/
def FarWait.of (f : FarWait) (t : PortTxn) : Bool :=
  f.pos == t.pos && f.entries == t.entries && f.addr == t.addr && f.size == t.size

/-- Core k, which waits for a transaction, receives its data. -/
def State.farDeliver (s : State) (i k : Fin 4) (t : PortTxn) (d : PortData) : State :=
  match (s.tc i k).far with
  | some f =>
    if f.of t then
      let (s, o) := (s.modTc i k fun c => { c with far := none }).farResult i k f d
      s.tFinish i k o
    else s
  | none => s

/-- A far load of HBM that crosses a line: its physical address and the bytes in the lower line (R273). -/
def PortTxn.crossing (t : PortTxn) : Option (Nat × Nat) :=
  match tKind t.addr t.size with
  | .far pa => if t.kind.paired || lowerLen pa t.size == t.size then none else some (pa, lowerLen pa t.size)
  | _ => none

/-- The load or atomic that core k waits for is abandoned: a device load is parked; any other is dropped when no core waits for it
any more, and one not issued yet is not performed (R284, R285). -/
def State.tAbandon (s : State) (i k : Fin 4) : State :=
  match (s.tc i k).far with
  | none => s
  | some f =>
    let s := s.modTc i k fun c => { c with far := none }
    if !f.kind.paired && s.tDev (tKind f.addr f.size) then
      s.modTc i k fun c => { c with parked := some ⟨f.pos, f.entries, f.addr, f.size, none, none⟩ }
    else s.modIsl i fun x =>
      let left (t : PortTxn) : Bool := (allFin 4).any fun j => (x.slots.get j).far.any fun g => g.of t
      { x with port := (x.port.map fun (t : PortTxn) =>
          if f.of t && t.cores.contains k && !left t then { t with dropped := true } else t).filter fun t => t.issued || !t.dropped }

/-- Core k receives the data of a transaction: its instruction completes, or its parked-load buffer takes them (R285). A core that
stands at an agreed boundary takes the interrupt there, so its load is abandoned first (R282). -/
def State.portDeliver (i : Fin 4) (t : PortTxn) (d : PortData) (s : State) (k : Fin 4) : State :=
  let s := if (s.due i k).isSome && (s.tc i k).far.any (·.of t) then s.tAbandon i k else s
  let c := s.tc i k
  match c.parked with
  | some p =>
    if p.pos = t.pos ∧ p.entries = t.entries ∧ p.addr = t.addr ∧ p.size = t.size ∧ p.got.isNone then
      s.modTc i k fun c => { c with parked := some { p with got := some d } }
    else s.farDeliver i k t d
  | none => s.farDeliver i k t d

/-- The data of the n-th transaction of the port are complete: the cores that it serves receive them. -/
def State.portDone (s : State) (i : Fin 4) (n : Nat) (t : PortTxn) (d : PortData) : State :=
  let s := s.modIsl i fun x => { x with port := x.port.eraseIdx n }
  if t.dropped then s
  else
    let s := s.keepDone i ⟨t.pos, t.entries, t.addr, t.size, t.kind, false, d, t.cores⟩
    t.cores.foldl (State.portDeliver i t d) s

/-- FAR_LOAD_DATA: the data of the n-th transaction of the island port arrive (R273). A far load across a line takes two
transactions, the lower line first, each with its own FAR_LOAD_DATA; what was abandoned before it was performed is not (R284). -/
def execFarLoadData (i : Fin 4) (n : Nat) (s : State) : Host.Outcome State Fault Refusal :=
  .next <| s.served fun s =>
    match (s.island.get i).port[n]? with
    | none => s
    | some t =>
      if !t.issued then s
      else if t.dropped && t.kind.paired then s.portDone i n t (okData 0 false)
      else
        let k := t.cores.headD 0
        match t.crossing, t.lower with
        | some (pa, m), none =>
          let (s, d) := s.farPart i pa m
          match d.resp with
          | some _ => s.portDone i n t d
          | none => s.modIsl i fun x =>
              { x with port := x.port.modify n fun u => { u with lower := some d } }
        | some (pa, m), some lo =>
          let (s, d) := s.farPart i (pa + m) (t.size - m)
          s.portDone i n t (joinData m lo d)
        | none, _ =>
          let (s, d) := s.portPerform i k t
          s.portDone i n t d

/-! ## The store buffer and interrupts -/

/-- T_STORE_BUFFER_DRAIN: the head entry leaves into the DTCM or the output queue (R279). -/
def execTStoreBufferDrain (i k : Fin 4) (ev : ArrayEvent) (s : State) : Host.Outcome State Fault Refusal :=
  .next <|
    match (s.tc i k).sb with
    | [] => s
    | w :: _ =>
      if (s.tc i k).role ≠ .active then s
      else (if isDtcm w.addr then s.mergeEcc i k.val w.addr (tcmPa i k w.addr) w.size 2 ev else s).tDrainOne i k

/-- Core k has reached a boundary; once every active core has, the boundary is done and ENTRY_LAT_MAX may grow (R282,
Table 8.11). -/
def State.boundReached (s : State) (i k : Fin 4) (b : Bound) : State :=
  let b' := { b with reached := b.reached ++ [k] }
  let s := s.modIsl i fun x => { x with bounds := x.bounds.map fun c => if c = b then b' else c }
  if (s.island.get i).active.all fun j => b'.reached.contains j then
    let (s, n) := s.draw
    let lat := (16 + Config.freeNat n) % 2 ^ 32
    (s.modIsl i fun x => { x with bounds := x.bounds.filter (· ≠ b') }).setE (0x5000 + i.val) 4 (max (s.ev (0x5000 + i.val) 4) lat)
  else s

/-- T_INTERRUPT_ENTRY: a core at its agreed boundary enters the handler, or is a mismatch where it cannot (R282, R283, R288). -/
def execTInterruptEntry (i k : Fin 4) (s : State) : Host.Outcome State Fault Refusal :=
  .next <|
    let s := s.tWake i k
    let c := s.tc i k
    match s.due i k with
    | none => s
    | some b =>
      if !((s.island.get i).active.contains k && c.run == .running) then s
      else
        let s := s.boundReached i k b
        if b.prio ≤ Sys2Proof.Machine.bits c.tstat.toNat 7 4 ∨ c.tstat.getLsbD 8 = true then s.coreMismatch i k 6
        else
          let s := s.tAbandon i k
          match s.tHandler i k b.vec with
          | none => s.tStop i k b.vec
          | some h => s.tEnter i k (exn b.vec 0 b.id 0) h c.pc false b.prio

/-! ## Released writes (R305) -/

/-- Code 0x2B: a voted write refused, with the slot of its source (R275). -/
def State.votedRefused (s : State) (i : Fin 4) (r : Released) (e : Resp) : State :=
  s.record (bankIsland i) 0x2B r.slot.val 0 r.w.addr (respCode e)

/-- A released write to an island register, of 4 or 8 bytes (R29, R294). -/
def State.relReg (s : State) (i : Fin 4) (r : Released) : State :=
  let off := r.w.addr % 0x400000 / 8 * 8
  let v : Word := r.w.data.setWidth 64
  let res : Option State :=
    if r.w.size = 8 then s.islWrite i off v (BitVec.allOnes 64)
    else if r.w.addr % 8 = 0 then s.islWrite i off v 0xFFFFFFFF
    else s.islWrite i off (v <<< 32) 0xFFFFFFFF00000000
  if r.w.size ≠ 4 ∧ r.w.size ≠ 8 then s.votedRefused i r .sizerr
  else match res with
    | some s => s
    | none => s.votedRefused i r .decerr

/-- A released write through the far window; one to PCIe stays with the port until its response (R268, R275). -/
def State.relFar (s : State) (i : Fin 4) (r : Released) (pa : Nat) : State :=
  let b := toBytes r.w.size r.w.data.toNat
  if (s.region pa).isHbm then (s.farWrite i pa b).1
  else if s.region pa = .regs then
    match s.regWrite ⟨isl i, some .devS, pa, r.w.size⟩ (r.w.data.setWidth 64) with
    | .ok s => s.settleForced
    | .error e => s.votedRefused i r e
  else match s.farWrite i pa b with
    | (s, some e) => s.votedRefused i r e
    | (s, none) =>
      if s.region pa = .pcie ∨ s.region pa = .ecam then s.modIsl i fun x => { x with issued := x.issued ++ [r] } else s

/-- WRITE_RELEASE: the voter releases the oldest agreed write and the island port issues it (R272, R304, R305); one to SPI_DATA_k
waits while BUSY. At PCIe the oldest write is accepted once a further one needs its place, of which released writes and
unmatched loads share two: where unmatched loads hold both, the write waits. -/
def execWriteRelease (i : Fin 4) (ev : ArrayEvent) (s : State) : Host.Outcome State Fault Refusal :=
  .next <| s.served fun s =>
    match (s.island.get i).rel with
    | [] => s
    | r :: rest =>
      if s.spiBusy i r.w.addr || decide (2 + (s.island.get i).issued.length ≤ (s.island.get i).unmatched) then s
      else
        let s := s.modIsl i fun x => { x with rel := rest, issued := if 2 ≤ x.unmatched then x.issued.drop 1 else x.issued }
        match tKind r.w.addr r.w.size with
        | .shared =>
          let p := sharedPa i r.w.addr
          (s.mergeEcc i r.slot.val r.w.addr p r.w.size 3 ev).memWrite (isl i) p (toBytes r.w.size r.w.data.toNat) false
        | .regs => s.relReg i r
        | .far pa => s.relFar i r pa
        | _ => s

/-- VOTED_WRITE_RESPONSE: an error response to the oldest write at PCIe (R275). -/
def execVotedWriteResponse (i : Fin 4) (e : Resp) (s : State) : Host.Outcome State Fault Refusal :=
  .next <|
    match (s.island.get i).issued with
    | [] => s
    | r :: rest => (s.modIsl i fun x => { x with issued := rest }).votedRefused i r e

/-! ## Debug (R347) -/

/-- A debugger's halt request to a T-core. -/
def State.tHalt (s : State) (i k : Fin 4) : State :=
  if (s.tc i k).run = .running ∨ (s.tc i k).run = .wfi then
    ((s.modTc i k fun c => { c with haltReq := true }).tWake i k).tHaltTry i k
  else s

/-- A debugger resumes a halted T-core, or single-steps it. -/
def State.tResume (s : State) (i k : Fin 4) (single : Bool) : State :=
  if (s.tc i k).run = .halted ∧ (single = false ∨ s.tInvasive = true) then
    s.modTc i k fun c => { c with run := .running, step1 := single }
  else s

/-- DEBUG_HALT_REQUEST. -/
def execDebugHaltRequest (c : CoreId) (s : State) : Host.Outcome State Fault Refusal :=
  .next <| match c with
    | .a c => s.aHalt c
    | .t i k => s.tHalt i k

/-- DEBUG_RESUME. -/
def execDebugResume (c : CoreId) (single : Bool) (s : State) : Host.Outcome State Fault Refusal :=
  .next <| match c with
    | .a c => s.aResume c single
    | .t i k => s.tResume i k single

end Sys2Proof.Machine
end

