-- ==== Sys2Proof/Machine/Dispatch.lean ====
section
/-! DEFINITION. The dispatch of a command to its meaning. -/
namespace Sys2Proof.Machine

def exec (i : Instr) (s : State) : Host.Outcome State Fault Refusal :=
  match i with
  | .integerOp c w => Sys2Proof.Machine.execIntegerOp c w s
  | .multiply c w => Sys2Proof.Machine.execMultiply c w s
  | .divide c w => Sys2Proof.Machine.execDivide c w s
  | .load c w ev => Sys2Proof.Machine.execLoad c w ev s
  | .store c w => Sys2Proof.Machine.execStore c w s
  | .floatOp c w => Sys2Proof.Machine.execFloatOp c w s
  | .conditionalBranch c w => Sys2Proof.Machine.execConditionalBranch c w s
  | .jump c w => Sys2Proof.Machine.execJump c w s
  | .registerJump c w => Sys2Proof.Machine.execRegisterJump c w s
  | .amo c w => Sys2Proof.Machine.execAmo c w s
  | .cas c w => Sys2Proof.Machine.execCas c w s
  | .lda c w => Sys2Proof.Machine.execLda c w s
  | .stl c w => Sys2Proof.Machine.execStl c w s
  | .bcopy c w units => Sys2Proof.Machine.execBcopy c w units s
  | .bfill c w units => Sys2Proof.Machine.execBfill c w units s
  | .bcrc c w units => Sys2Proof.Machine.execBcrc c w units s
  | .bcrcE c w units => Sys2Proof.Machine.execBcrcE c w units s
  | .ldm c w units => Sys2Proof.Machine.execLdm c w units s
  | .stm c w units => Sys2Proof.Machine.execStm c w units s
  | .mfs c w => Sys2Proof.Machine.execMfs c w s
  | .mts c w => Sys2Proof.Machine.execMts c w s
  | .eret c w => Sys2Proof.Machine.execEret c w s
  | .tEret xi k w => Sys2Proof.Machine.execTEret xi k w s
  | .gate c w => Sys2Proof.Machine.execGate c w s
  | .gret c w => Sys2Proof.Machine.execGret c w s
  | .fence c w => Sys2Proof.Machine.execFence c w s
  | .fenceI c w => Sys2Proof.Machine.execFenceI c w s
  | .fenceD c w => Sys2Proof.Machine.execFenceD c w s
  | .fenceT c w => Sys2Proof.Machine.execFenceT c w s
  | .spb c w => Sys2Proof.Machine.execSpb c w s
  | .prflush c w => Sys2Proof.Machine.execPrflush c w s
  | .prbar c w => Sys2Proof.Machine.execPrbar c w s
  | .wfi c w => Sys2Proof.Machine.execWfi c w s
  | .brk c w => Sys2Proof.Machine.execBrk c w s
  | .nop c w => Sys2Proof.Machine.execNop c w s
  | .chkpt c w => Sys2Proof.Machine.execChkpt c w s
  | .tlbiva c w => Sys2Proof.Machine.execTlbiva c w s
  | .tlbivaa c w => Sys2Proof.Machine.execTlbivaa c w s
  | .tlbipcid c w => Sys2Proof.Machine.execTlbipcid c w s
  | .tlbipart c w => Sys2Proof.Machine.execTlbipart c w s
  | .tlbiipa c w => Sys2Proof.Machine.execTlbiipa c w s
  | .tlbis2 c w => Sys2Proof.Machine.execTlbis2 c w s
  | .tlbiall c w => Sys2Proof.Machine.execTlbiall c w s
  | .tlbiRemoteEffect dst => Sys2Proof.Machine.execTlbiRemoteEffect dst s
  | .dcc c w => Sys2Proof.Machine.execDcc c w s
  | .dcci c w => Sys2Proof.Machine.execDcci c w s
  | .dci c w => Sys2Proof.Machine.execDci c w s
  | .ici c w => Sys2Proof.Machine.execIci c w s
  | .zline c w => Sys2Proof.Machine.execZline c w s
  | .loop c w => Sys2Proof.Machine.execLoop c w s
  | .cmove c w => Sys2Proof.Machine.execCmove c w s
  | .cincb c w => Sys2Proof.Machine.execCincb c w s
  | .csetl c w => Sys2Proof.Machine.execCsetl c w s
  | .candp c w => Sys2Proof.Machine.execCandp c w s
  | .cseal c w => Sys2Proof.Machine.execCseal c w s
  | .cunseal c w => Sys2Proof.Machine.execCunseal c w s
  | .cclrt c w => Sys2Proof.Machine.execCclrt c w s
  | .cgetb c w => Sys2Proof.Machine.execCgetb c w s
  | .cgetl c w => Sys2Proof.Machine.execCgetl c w s
  | .cgetp c w => Sys2Proof.Machine.execCgetp c w s
  | .cgett c w => Sys2Proof.Machine.execCgett c w s
  | .cgetg c w => Sys2Proof.Machine.execCgetg c w s
  | .ccall c w => Sys2Proof.Machine.execCcall c w s
  | .cret c w => Sys2Proof.Machine.execCret c w s
  | .cmfc c w => Sys2Proof.Machine.execCmfc c w s
  | .cmtc c w => Sys2Proof.Machine.execCmtc c w s
  | .clc c w => Sys2Proof.Machine.execClc c w s
  | .csc c w => Sys2Proof.Machine.execCsc c w s
  | .storeBufferDrain c => Sys2Proof.Machine.execStoreBufferDrain c s
  | .partialOverlapReissue c => Sys2Proof.Machine.execPartialOverlapReissue c s
  | .l1dMissFill c line => Sys2Proof.Machine.execL1dMissFill c line s
  | .prefetchIssue c va => Sys2Proof.Machine.execPrefetchIssue c va s
  | .tableWalk c va kind => Sys2Proof.Machine.execTableWalk c va kind s
  | .adUpdate c va stage2 ea seen write => Sys2Proof.Machine.execAdUpdate c va stage2 ea seen write s
  | .interruptTake c => Sys2Proof.Machine.execInterruptTake c s
  | .irqInputAssert src level => Sys2Proof.Machine.execIrqInputAssert src level s
  | .irqPulse src => Sys2Proof.Machine.execIrqPulse src s
  | .irqAck m c acc => Sys2Proof.Machine.execIrqAck m c acc s
  | .irqEoi m c v => Sys2Proof.Machine.execIrqEoi m c v s
  | .irqSgi m c v => Sys2Proof.Machine.execIrqSgi m c v s
  | .setpend m src v => Sys2Proof.Machine.execSetpend m src v s
  | .clrpend m src v => Sys2Proof.Machine.execClrpend m src v s
  | .virqInj m p v => Sys2Proof.Machine.execVirqInj m p v s
  | .virqAck m p acc => Sys2Proof.Machine.execVirqAck m p acc s
  | .virqEoi m p v => Sys2Proof.Machine.execVirqEoi m p v s
  | .msiDoorbell k size v => Sys2Proof.Machine.execMsiDoorbell k size v s
  | .registerWrite m t addr size v => Sys2Proof.Machine.execRegisterWrite m t addr size v s
  | .tcmMeshWrite m t addr size v => Sys2Proof.Machine.execTcmMeshWrite m t addr size v s
  | .pcieInboundRequest k op addr data len => Sys2Proof.Machine.execPcieInboundRequest k op addr data len s
  | .rdShare p line tc ev => Sys2Proof.Machine.execRdShare p line tc ev s
  | .rdOwn p line tc => Sys2Proof.Machine.execRdOwn p line tc s
  | .rdPeek r line tc ev => Sys2Proof.Machine.execRdPeek r line tc ev s
  | .wrPush r addr data tc => Sys2Proof.Machine.execWrPush r addr data tc s
  | .haAtomic r op addr size v cmp tc => Sys2Proof.Machine.execHaAtomic r op addr size v cmp tc s
  | .evClean p line ph => Sys2Proof.Machine.execEvClean p line ph s
  | .evDirty p line ph => Sys2Proof.Machine.execEvDirty p line ph s
  | .snShare p line => Sys2Proof.Machine.execSnShare p line s
  | .snTake p line => Sys2Proof.Machine.execSnTake p line s
  | .snPeek p line => Sys2Proof.Machine.execSnPeek p line s
  | .snoopAnswer p line ev => Sys2Proof.Machine.execSnoopAnswer p line ev s
  | .evictionAck p line => Sys2Proof.Machine.execEvictionAck p line s
  | .snoopTimeout line => Sys2Proof.Machine.execSnoopTimeout line s
  | .fatalGraceExpiry => Sys2Proof.Machine.execFatalGraceExpiry s
  | .cleanWays q v => Sys2Proof.Machine.execCleanWays q v s
  | .cleanWaysDone => Sys2Proof.Machine.execCleanWaysDone s
  | .suspectClear q v => Sys2Proof.Machine.execSuspectClear q v s
  | .hbmCommand p m wrong => Sys2Proof.Machine.execHbmCommand p m wrong s
  | .hbmCorrectionWriteback p => Sys2Proof.Machine.execHbmCorrectionWriteback p s
  | .hbmVerifyRead p m => Sys2Proof.Machine.execHbmVerifyRead p m s
  | .hbmRefresh p sid bank => Sys2Proof.Machine.execHbmRefresh p sid bank s
  | .hbmRfm p sid bank => Sys2Proof.Machine.execHbmRfm p sid bank s
  | .patrolScrubRead p m => Sys2Proof.Machine.execPatrolScrubRead p m s
  | .rowRepair p spareLeft => Sys2Proof.Machine.execRowRepair p spareLeft s
  | .migrationChunkDone p => Sys2Proof.Machine.execMigrationChunkDone p s
  | .hbmRetraining p => Sys2Proof.Machine.execHbmRetraining p s
  | .hbmRetrainingDone p persist => Sys2Proof.Machine.execHbmRetrainingDone p persist s
  | .hbmTrainingDone stack r => Sys2Proof.Machine.execHbmTrainingDone stack r s
  | .hbmFillDone => Sys2Proof.Machine.execHbmFillDone s
  | .islandInterruptOffer xi => Sys2Proof.Machine.execIslandInterruptOffer xi s
  | .tInterruptEntry xi k => Sys2Proof.Machine.execTInterruptEntry xi k s
  | .farLoadData xi n => Sys2Proof.Machine.execFarLoadData xi n s
  | .tStoreBufferDrain xi k ev => Sys2Proof.Machine.execTStoreBufferDrain xi k ev s
  | .islEoi xi id => Sys2Proof.Machine.execIslEoi xi id s
  | .doorbell m xi d v => Sys2Proof.Machine.execDoorbell m xi d v s
  | .spiData xi k v => Sys2Proof.Machine.execSpiData xi k v s
  | .spiTransferDone xi k rx => Sys2Proof.Machine.execSpiTransferDone xi k rx s
  | .captureInputEdge xi n level => Sys2Proof.Machine.execCaptureInputEdge xi n level s
  | .pennantWindowClose xi k => Sys2Proof.Machine.execPennantWindowClose xi k s
  | .pennantComparison xi k => Sys2Proof.Machine.execPennantComparison xi k s
  | .pennantSkewTimeout xi => Sys2Proof.Machine.execPennantSkewTimeout xi s
  | .outputQueueComparison xi k => Sys2Proof.Machine.execOutputQueueComparison xi k s
  | .outputSkewTimeout xi => Sys2Proof.Machine.execOutputSkewTimeout xi s
  | .writeRelease xi ev => Sys2Proof.Machine.execWriteRelease xi ev s
  | .votedWriteResponse xi resp => Sys2Proof.Machine.execVotedWriteResponse xi resp s
  | .selfTestDone xi k pass => Sys2Proof.Machine.execSelfTestDone xi k pass s
  | .injectionTestDone xi failed => Sys2Proof.Machine.execInjectionTestDone xi failed s
  | .rejoinCopyDone xi => Sys2Proof.Machine.execRejoinCopyDone xi s
  | .voterRestartHold q xi => Sys2Proof.Machine.execVoterRestartHold q xi s
  | .voterRestartRelease q xi => Sys2Proof.Machine.execVoterRestartRelease q xi s
  | .hsRelease q xi v => Sys2Proof.Machine.execHsRelease q xi v s
  | .huskClaim q h => Sys2Proof.Machine.execHuskClaim q h s
  | .huskSeal q h => Sys2Proof.Machine.execHuskSeal q h s
  | .huskDestroy q h => Sys2Proof.Machine.execHuskDestroy q h s
  | .huskSealingDone h => Sys2Proof.Machine.execHuskSealingDone h s
  | .huskClearingDone h => Sys2Proof.Machine.execHuskClearingDone h s
  | .debugHaltRequest c => Sys2Proof.Machine.execDebugHaltRequest c s
  | .powerReq q d v => Sys2Proof.Machine.execPowerReq q d v s
  | .powerHold q d v => Sys2Proof.Machine.execPowerHold q d v s
  | .domainTransitionDone d => Sys2Proof.Machine.execDomainTransitionDone d s
  | .deviceReqSuspend q => Sys2Proof.Machine.execDeviceReqSuspend q s
  | .deviceReqSleep q => Sys2Proof.Machine.execDeviceReqSleep q s
  | .deviceReqActive q => Sys2Proof.Machine.execDeviceReqActive q s
  | .suspendCoresIdle => Sys2Proof.Machine.execSuspendCoresIdle s
  | .suspendWaitExpiry => Sys2Proof.Machine.execSuspendWaitExpiry s
  | .suspendToSleepExpiry => Sys2Proof.Machine.execSuspendToSleepExpiry s
  | .wakePatternMatch ch fr => Sys2Proof.Machine.execWakePatternMatch ch fr s
  | .wakeInDebounceExpiry n => Sys2Proof.Machine.execWakeInDebounceExpiry n s
  | .wakeTimer => Sys2Proof.Machine.execWakeTimer s
  | .podMhz q p v => Sys2Proof.Machine.execPodMhz q p v s
  | .podPllRelockDone p => Sys2Proof.Machine.execPodPllRelockDone p s
  | .thermalThrottle sensor raw => Sys2Proof.Machine.execThermalThrottle sensor raw s
  | .thermalUnthrottle sensor raw => Sys2Proof.Machine.execThermalUnthrottle sensor raw s
  | .porstN b => Sys2Proof.Machine.execPorstN b s
  | .bootImageVerify h unit body => Sys2Proof.Machine.execBootImageVerify h unit body s
  | .islandImageStage xi => Sys2Proof.Machine.execIslandImageStage xi s
  | .bootCoreRelease => Sys2Proof.Machine.execBootCoreRelease s
  | .sysrstN => Sys2Proof.Machine.execSysrstN s
  | .sysreset q v => Sys2Proof.Machine.execSysreset q v s
  | .smcWdt q v => Sys2Proof.Machine.execSmcWdt q v s
  | .smcWatchdogExpiry => Sys2Proof.Machine.execSmcWatchdogExpiry s
  | .voltageMonitorTrip m => Sys2Proof.Machine.execVoltageMonitorTrip m s
  | .pmicStatusPoll st late => Sys2Proof.Machine.execPmicStatusPoll st late s
  | .pmicPowerUpRetry => Sys2Proof.Machine.execPmicPowerUpRetry s
  | .pmicInt => Sys2Proof.Machine.execPmicInt s
  | .frameReceive n fr fcsOk rxTime => Sys2Proof.Machine.execFrameReceive n fr fcsOk rxTime s
  | .carveOutReadDone poison => Sys2Proof.Machine.execCarveOutReadDone poison s
  | .rxDescriptorFill v qp => Sys2Proof.Machine.execRxDescriptorFill v qp s
  | .txTail m v qp val => Sys2Proof.Machine.execTxTail m v qp val s
  | .rxTail m v qp val => Sys2Proof.Machine.execRxTail m v qp val s
  | .txDescriptorReadDone v qp => Sys2Proof.Machine.execTxDescriptorReadDone v qp s
  | .frameTransmitStart n q => Sys2Proof.Machine.execFrameTransmitStart n q s
  | .frameTransmitEnd n => Sys2Proof.Machine.execFrameTransmitEnd n s
  | .launchTimeReached n q => Sys2Proof.Machine.execLaunchTimeReached n q s
  | .gateControlIntervalEnd n => Sys2Proof.Machine.execGateControlIntervalEnd n s
  | .gclApply q n v => Sys2Proof.Machine.execGclApply q n v s
  | .gclSwitch n => Sys2Proof.Machine.execGclSwitch n s
  | .sglApply q g v => Sys2Proof.Machine.execSglApply q g v s
  | .sglSwitch g => Sys2Proof.Machine.execSglSwitch g s
  | .streamGateIntervalEnd g => Sys2Proof.Machine.execStreamGateIntervalEnd g s
  | .preemptVerifyResponse n ok => Sys2Proof.Machine.execPreemptVerifyResponse n ok s
  | .gptpMessage k e => Sys2Proof.Machine.execGptpMessage k e s
  | .flowInsert sl v key ctx => Sys2Proof.Machine.execFlowInsert sl v key ctx s
  | .flowRemove sl handle => Sys2Proof.Machine.execFlowRemove sl handle s
  | .flowRead sl handle => Sys2Proof.Machine.execFlowRead sl handle s
  | .flowFind sl key => Sys2Proof.Machine.execFlowFind sl key s
  | .flowUpdate sl handle ctx => Sys2Proof.Machine.execFlowUpdate sl handle ctx s
  | .flowClear sl handle => Sys2Proof.Machine.execFlowClear sl handle s
  | .flowBulk v recs => Sys2Proof.Machine.execFlowBulk v recs s
  | .viIrqStat m v val => Sys2Proof.Machine.execViIrqStat m v val s
  | .irqModExpiry v => Sys2Proof.Machine.execIrqModExpiry v s
  | .qpEnable q v qp val => Sys2Proof.Machine.execQpEnable q v qp val s
  | .microcodeLoad => Sys2Proof.Machine.execMicrocodeLoad s
  | .microcodeWatchdogExpiry => Sys2Proof.Machine.execMicrocodeWatchdogExpiry s
  | .canFrameReceive n fr => Sys2Proof.Machine.execCanFrameReceive n fr s
  | .encapWindowTimeout xs => Sys2Proof.Machine.execEncapWindowTimeout xs s
  | .acfFrameBuild xs => Sys2Proof.Machine.execAcfFrameBuild xs s
  | .canArbitrationAttempt n => Sys2Proof.Machine.execCanArbitrationAttempt n s
  | .canAttemptEnd n e dur => Sys2Proof.Machine.execCanAttemptEnd n e dur s
  | .canBusoffRecovery n => Sys2Proof.Machine.execCanBusoffRecovery n s
  | .canRestart q n v => Sys2Proof.Machine.execCanRestart q n v s
  | .channelEnableOff q ch => Sys2Proof.Machine.execChannelEnableOff q ch s
  | .loadHoldEnd n => Sys2Proof.Machine.execLoadHoldEnd n s
  | .linHeader m id => Sys2Proof.Machine.execLinHeader m id s
  | .linResponseReceive m data sum => Sys2Proof.Machine.execLinResponseReceive m data sum s
  | .linResponseTimeout m => Sys2Proof.Machine.execLinResponseTimeout m s
  | .linScheduleSlot m => Sys2Proof.Machine.execLinScheduleSlot m s
  | .schedRun q m v => Sys2Proof.Machine.execSchedRun q m v s
  | .pwmPeriodStart xi n => Sys2Proof.Machine.execPwmPeriodStart xi n s
  | .envViolStat m v => Sys2Proof.Machine.execEnvViolStat m v s
  | .dictWindowRead m index sub => Sys2Proof.Machine.execDictWindowRead m index sub s
  | .dictWindowWrite m index sub v => Sys2Proof.Machine.execDictWindowWrite m index sub v s
  | .mbRead m page => Sys2Proof.Machine.execMbRead m page s
  | .mbWrite m page => Sys2Proof.Machine.execMbWrite m page s
  | .seedStoreWriteDone ok => Sys2Proof.Machine.execSeedStoreWriteDone ok s
  | .dapPduReceive tr pdu => Sys2Proof.Machine.execDapPduReceive tr pdu s
  | .dapRead => Sys2Proof.Machine.execDapRead s
  | .dapWrite => Sys2Proof.Machine.execDapWrite s
  | .dapSubscribe => Sys2Proof.Machine.execDapSubscribe s
  | .dapUnsubscribe => Sys2Proof.Machine.execDapUnsubscribe s
  | .dapNotify sub => Sys2Proof.Machine.execDapNotify sub s
  | .dapPing => Sys2Proof.Machine.execDapPing s
  | .broadcastPingDelay => Sys2Proof.Machine.execBroadcastPingDelay s
  | .dapEnsignClaim => Sys2Proof.Machine.execDapEnsignClaim s
  | .dapEnsignRelease => Sys2Proof.Machine.execDapEnsignRelease s
  | .ensignClaim q e => Sys2Proof.Machine.execEnsignClaim q e s
  | .ensignWindowClose => Sys2Proof.Machine.execEnsignWindowClose s
  | .ensignLeaseExpiry => Sys2Proof.Machine.execEnsignLeaseExpiry s
  | .dapAck => Sys2Proof.Machine.execDapAck s
  | .dapAbort => Sys2Proof.Machine.execDapAbort s
  | .dapSegment => Sys2Proof.Machine.execDapSegment s
  | .dapTransactionTimeout n => Sys2Proof.Machine.execDapTransactionTimeout n s
  | .calUnlock q v => Sys2Proof.Machine.execCalUnlock q v s
  | .calEntryWrite q index sub v => Sys2Proof.Machine.execCalEntryWrite q index sub v s
  | .selfcalVmon q m => Sys2Proof.Machine.execSelfcalVmon q m s
  | .selfcalClock q c => Sys2Proof.Machine.execSelfcalClock q c s
  | .selfcalSerdes q n => Sys2Proof.Machine.execSelfcalSerdes q n s
  | .selfcalHbmSeed q xs => Sys2Proof.Machine.execSelfcalHbmSeed q xs s
  | .selfcalDone result => Sys2Proof.Machine.execSelfcalDone result s
  | .keyRevoke q v => Sys2Proof.Machine.execKeyRevoke q v s
  | .retireClear q v => Sys2Proof.Machine.execRetireClear q v s
  | .fbPop m b v => Sys2Proof.Machine.execFbPop m b v s
  | .ledgerTail q v => Sys2Proof.Machine.execLedgerTail q v s
  | .dmTail m n v => Sys2Proof.Machine.execDmTail m n v s
  | .dmDescriptorStart n => Sys2Proof.Machine.execDmDescriptorStart n s
  | .dmDescriptorComplete n => Sys2Proof.Machine.execDmDescriptorComplete n s
  | .dmError n dst good => Sys2Proof.Machine.execDmError n dst good s
  | .dmAbort m n v => Sys2Proof.Machine.execDmAbort m n v s
  | .dmAbortAll m n v => Sys2Proof.Machine.execDmAbortAll m n v s
  | .dmEnable q n v => Sys2Proof.Machine.execDmEnable q n v s
  | .gpioEdge n level => Sys2Proof.Machine.execGpioEdge n level s
  | .gpioIrqStat m v edges => Sys2Proof.Machine.execGpioIrqStat m v edges s
  | .portLinkChange n up => Sys2Proof.Machine.execPortLinkChange n up s
  | .porstNLow => Sys2Proof.Machine.execPorstNLow s
  | .canIntegrationEnd n => Sys2Proof.Machine.execCanIntegrationEnd n s
  | .canErrorDetected n e => Sys2Proof.Machine.execCanErrorDetected n e s
  | .gptpTimer k e => Sys2Proof.Machine.execGptpTimer k e s
  | .pllLock => Sys2Proof.Machine.execPllLock s
  | .sramFillDone => Sys2Proof.Machine.execSramFillDone s
  | .debugResume c single => Sys2Proof.Machine.execDebugResume c single s
  | .pciePerstNRise k => Sys2Proof.Machine.execPciePerstNRise k s
  | .shaperCreditRecovered n q => Sys2Proof.Machine.execShaperCreditRecovered n q s
  | .rejoinCaptureDone xi => Sys2Proof.Machine.execRejoinCaptureDone xi s

end Sys2Proof.Machine
end

