-- ==== Sys2Proof/Machine/Step.lean ====
section
/-! DEFINITION. One step: the command at the front of the queue, or one nanosecond of time where none waits. -/
namespace Sys2Proof.Machine

/-- A step takes the command at the front of the queue and carries it out on the machine with the queue's rest;
with no command waiting the device's nanosecond counter advances (log entry 1). -/
def step (s : State) : Host.Outcome State Fault Refusal :=
  match s.pending with
  | [] => .next { s with time := s.time + 1 }
  | c :: r => exec c { s with pending := r }

/-- The opcode table gives no row bits, so no word spells a command and the state is unchanged. -/
def State.withFetchWord (s : State) (nbits w : Nat) : State :=
  match decodeTableWord nbits w with
  | some c => { s with pending := c :: s.pending }
  | none => s

end Sys2Proof.Machine
end

