-- ==== Sys2Proof/Safety.lean ====
section
/-! DEFINITION. The words in which claims speak of the machine: cores that are ready to execute, instructions that are fetched,
that commit or retire, and the invariant of every step. -/
namespace Sys2Proof.Machine

/-! ## A-cores -/

/-- The core runs, is powered, waits for no load, and nothing comes before its next instruction: neither a forced exit from a
husk (R344) nor a debug halt (R347). -/
def State.aReady (s : State) (c : Fin 32) : Prop :=
  let a := s.acore.get c
  a.run = .running ∧ s.domOn ⟨c.val, by omega⟩ = true ∧ a.wait = none ∧ a.forced = false ∧ a.haltReq = false ∧ a.step1 = false

/-- The core is ready, the fetch of its word passes without having to wait and leaves `u` (R147 step 1), and the word encodes `i`,
which may stand where it stands (R62). -/
def State.aFetches (s : State) (c : Fin 32) (w : IWord) (i : Aelxel) (u : State) : Prop :=
  s.aReady c ∧ { s with held := false }.fetch c = (u, .ok ()) ∧ u.held = false ∧ decodeWord w = some i ∧
  ((u.acore.get c).delay.isSome && slotForbids i) = false

/-- Where a core goes on in sequence: after a delay slot, at the address that the branch chose (R56). -/
def ACore.seqPc (a : ACore) : Word :=
  match a.delay with
  | some d => d.next
  | none => a.pc + 4

/-- `t` is `v` after core c has committed an instruction that it executed in state `u`, and goes on at `pc` with the delay slot `d`:
INSTRET is one more, where the context that executed it permits counting (R126), and nothing else differs, but CYCLE, the
performance counters with their interrupt (R125 to R128), what the model notes within one command, and the index of free
values. -/
def State.aCommits (u v t : State) (c : Fin 32) (pc : Word) (d : Option Delay) : Prop :=
  let a := v.acore.get c
  let b := t.acore.get c
  b = { a with pc := pc, delay := d, instret := if u.nonInvasive c then a.instret + 1 else a.instret, longOwed := false, evs := [],
               split := none, cycle := b.cycle, pmevt := b.pmevt, pmcnt := b.pmcnt } ∧
  (u.nonInvasive c = false → b.cycle = a.cycle ∧ ∀ n, b.pmcnt.get n = a.pmcnt.get n) ∧
  t = { v with acore := vset v.acore c b, fresh := t.fresh, irq := t.irq, held := t.held }

/-- `t` is `v` after core c has committed an instruction that it executed in state `u` and that goes on in sequence. -/
def State.aSeq (u v t : State) (c : Fin 32) : Prop := u.aCommits v t c (v.acore.get c).seqPc none

/-- `t` is `v` but for the predictors, their histories and the return stack of core c, and the index of free values (R103 to
R105). -/
def State.aPredicts (v t : State) (c : Fin 32) : Prop :=
  let b := t.acore.get c
  t = { v with acore := vset v.acore c { v.acore.get c with pred := b.pred, ret := b.ret, hist := b.hist, path := b.path },
               fresh := t.fresh }

/-- What a command answers whose effect is `x`: that, or the state before it where a request of it had to wait (log entry 22). -/
def State.orWaits (s x : State) : State := if x.held then s else { x with held := s.held }

/-! ## T-cores -/

/-- Core k of island i executes its next instruction, and no debug halt comes before it. -/
def State.tReady (s : State) (i k : Fin 4) : Prop :=
  s.tRuns i k = true ∧ (s.tc i k).haltReq = false ∧ (s.tc i k).step1 = false

/-- The core is ready, the fetch of its word passes and leaves `u`, in which an error of the ITCM word is corrected (R276), and the
word encodes `ins`, which may stand where it stands (R61, R62, R87). -/
def State.tFetches (s : State) (i k : Fin 4) (w : IWord) (ins : Aelxel) (u : State) : Prop :=
  s.tReady i k ∧ s.tFetch i k = none ∧ u = { s with held := false }.tFetchRead i k ∧ decodeWord w = some ins ∧ u.tIalign i k ins = none ∧
  ((u.tc i k).delay.isSome && slotForbids ins) = false ∧ (u.tc i k).loopForbids ins = false

/-- What a T-core holds after an instruction retires with `n` cycles, after `x` cycles in which it waited, and with pennant records
`recs` (R277, R278, R296, Table 9.1), before its PC moves. -/
def TCore.retires (c : TCore) (x : Word) (n : Nat) (recs : List Byte) : TCore :=
  { c with pen := crc64 c.pen (toBytes 8 c.pc.toNat ++ recs), instret := c.instret + 1, winCount := c.winCount + 1,
           cycle := c.cycle + x + word n, waited := false }

/-- Where a T-core goes on in sequence: at the address that a branch chose, ending the loops it leaves (R88), or at the next
instruction by the loops (R85). -/
def TCore.goesOn (c : TCore) : TCore :=
  match c.delay with
  | some d =>
    let e := { c with pc := d.next, delay := none, slotClears := false }
    if c.slotClears then e.leaveLoops d.next else e
  | none => c.next

/-- `t` is `v` with `c` as core k of island i; of the rest, only the answers that the island port keeps, and the count of its
mismatches, may differ (R270). -/
def State.tBecomes (v t : State) (i k : Fin 4) (c : TCore) : Prop :=
  let x := v.island.get i
  let y := t.island.get i
  y = { x with slots := vset x.slots k c, done := y.done } ∧
  t = { v with island := vset v.island i y, ent := t.ent, fresh := t.fresh, held := t.held } ∧
  (t.ent = v.ent ∨ ∃ n, t.ent = (v.setE (0x5000 + i.val) 6 n).ent)

/-- `t` is `v` after core k has retired an instruction, whose flow of control is `f`: the cycles of a wait before it are free. -/
def State.tRetires (v t : State) (i k : Fin 4) (n : Nat) (recs : List Byte) (f : TCore → TCore) : Prop :=
  ∃ x : Word, ((v.tc i k).waited = false → x = 0) ∧ v.tBecomes t i k (f ((v.tc i k).retires x n recs))

/-- `t` is `v` after core k has retired an instruction that goes on in sequence. -/
def State.tSeqs (v t : State) (i k : Fin 4) (n : Nat) (recs : List Byte) : Prop := v.tRetires t i k n recs TCore.goesOn

/-! ## Interrupt sources -/

/-- `t` is `s` with source k as `y`; where k is or becomes a virtual source, source 18 of a HOME core may come to be asserted with it (R164),
and nothing else differs. -/
def State.srcBecomes (s t : State) (k : Nat) (y : IrqSrc) : Prop :=
  t = { s with irq := { t.irq with virqCtl := s.irq.virqCtl } } ∧ t.src k = y ∧
  ∀ j, j ≠ k → t.src j = s.src j ∨
    ((srcKind k (s.src k) = 1 ∨ srcKind k y = 1) ∧ ∃ p, j = privKey ((s.irq.virqCtl.get p).toNat % 32) 18 ∧ t.src j = (s.src j).assert j)

/-- What an assertion does to a source (R162): an edge source, and a level source that is not active, becomes pending; an edge
source that is pending already stays as it is, so that further assertions are one event; a level source that is active is not
changed. -/
def IrqSrc.asserted (k : Nat) (x y : IrqSrc) : Prop :=
  y = { x with pend := y.pend, setp := y.setp } ∧ (srcEdge k x = true ∨ x.active = false → srcPend k y = true) ∧
  (srcEdge k x = true → y = { x with pend := true }) ∧
  (srcEdge k x = false → y.pend = x.pend) ∧ (srcEdge k x = false → x.active = true → y = x)

/-! ## Home agents -/

/-- The home of a line is free to start a request of class tc: no transaction of the line is there, an entry is free (R215), the
slice has recorded no FATAL error (R509), and no crossed eviction of the line waits for its acknowledgement (R217). -/
def State.homeFree (s : State) (line tc : Nat) : Prop :=
  s.headTxn line = none ∧ s.hasEntry (homeIdx line) tc = true ∧ s.fatalBank (bankSlice (homeIdx line)) = false ∧
  ∀ p : Fin 8, ∀ b ∈ (s.pod.get p).ev, b.line = line → (b.crossed && b.arrived) = false

/-! ## Writes to the dictionary -/

/-- What a requester's path shows before the checks of R436 are made: the window's WIN_STATUS of the write (R439). -/
def State.begun (s : State) (q : Req) (key : Nat) : State :=
  match q with
  | .loc .window m => s.noteWin m 0 key true
  | _ => s

/-- The status that the checks of R436 give a write of a number; none where the write has to wait: for a write of its entry on its
way into the seed store (R437), or for the outcome of the requester's last window write (R441). -/
def State.asked (s : State) (q : Req) (key n : Nat) : Option Nat :=
  let waits := match q with
    | .loc .window m => s.winBusy m
    | _ => false
  if s.entBusy key || waits then none else some ((s.begun q key).writeStatus ⟨q, none⟩ key (reqVal q key n)).1

/-! ## The whole machine -/

/-- Executing a command answers a next state with a property. -/
def completes (i : Instr) (s : State) (P : State → Prop) : Prop := ∃ t, exec i s = .next t ∧ P t

end Sys2Proof.Machine
end

