-- ==== Sys2Proof/Certificates/Slice0/Obligations.lean ====
section
/-! DEFINITION. The statements for the provers: what each command does and leaves alone, what decoding reads, and what every step
keeps. -/

open Sys2Proof Sys2Proof.Machine

/-- Decoding the word of a well-formed instruction gives the instruction, with every operand (Tables 2.3 to 2.11). -/
def Obligations.DecodeOfEncode : Prop := ∀ i : Aelxel, i.wf = true → decodeWord (encodeWord i) = some i

/-- A legal word is the word of the instruction it encodes, and that instruction is well formed (R46, R47). -/
def Obligations.EncodeOfDecode : Prop :=
  ∀ (w : IWord) (i : Aelxel), decodeWord w = some i → i.wf = true ∧ encodeWord i = w

/-- Words spelled field by field from Tables 2.3 to 2.11, the NOP word of Table 2.9, and two illegal words (R47). -/
def Obligations.SpelledWordsDecode : Prop :=
  decodeWord 0b000001_00010_00011_00001_00000000000#32 = some (.alu2 .add false 2 3 1) ∧
  decodeWord 0b000011_00101_00000_1111111111111110#32 = some (.aluI .addi 5 0 0xFFFE#16) ∧
  decodeWord 0b000010_00111_00110_00101_10000000100#32 = some (.div .div true 7 6 5) ∧
  decodeWord 0b010011_01010_11111_0000000000010000#32 = some (.load .ld 10 31 0x10#16) ∧
  decodeWord 0b100001_00011_00100_1_000000000000101#32 = some (.branch .ne 3 4 true 5#15) ∧
  decodeWord 0b100111_0_1111111111111111111111111#32 = some (.jmp true false 0x1FFFFFF#25) ∧
  decodeWord 0b101011_00001_00010_00011_11100001001#32 = some (.amo .cas true true true 1 2 3) ∧
  decodeWord 0xB400000A#32 = some .nop ∧
  decodeWord 0b110001_00011_00100_00101_00000000100#32 = some (.cseal 3 4 5) ∧
  decodeWord 0x00000000#32 = none ∧
  decodeWord 0b000001_00010_00011_00001_00001000000#32 = none

/-- A step of a state with c at the front of its queue is c's effect on the state with the queue's rest; an idle step moves the time alone
(the model's choice, log entry 1). -/
def Obligations.StepRunsTheFrontCommand : Prop :=
  (∀ (c : Instr) (q : List Instr) (s : State), step { s with pending := c :: q } = exec c { s with pending := q }) ∧
  (∀ s : State, s.pending = [] → step s = .next { s with time := s.time + 1 })

/-- Eight commands complete with the effect that the spec gives them (R92, R155, R179, R181, R273, R279, R412). -/
def Obligations.WalksTransfersAndSlotsComplete : Prop :=
  (∀ (s u : State) (i k : Fin 4) (w : IWord) cd r1 imm, s.tFetches i k w (.clc cd r1 imm) u →
    let a := u.tg i k r1 + imm.signExtend 64
    let p := tcmPa i k a.toNat
    u.tCheck i k a 16 0x09 true = none → tKind a.toNat 16 = .dtcm → (u.tc i k).sb = [] → u.eccBad p 16 = false →
    ∃ t, exec (.clc (.t i k) w) s = .next t ∧ (t.tc i k).instret = (u.tc i k).instret + 1 ∧
      t.tcap i k cd = Cap.ofBits (ofBytes (Memory.read u.mem p 16)) (u.tags.contains (p / 16 * 16))) ∧
  (∀ (s u : State) (i k : Fin 4) (w : IWord) cs r1 imm, s.tFetches i k w (.csc cs r1 imm) u →
    let a := u.tg i k r1 + imm.signExtend 64
    let v := u.tcap i k cs
    u.tCheck i k a 16 0x12 true = none → tKind a.toNat 16 = .dtcm → isDtcm a.toNat = true → (u.tc i k).sb.length < 4 →
    ∃ t, exec (.csc (.t i k) w) s = .next t ∧ (t.tc i k).instret = (u.tc i k).instret + 1 ∧
      (t.tc i k).sb = (u.tc i k).sb ++ [⟨a.toNat, 16, BitVec.ofNat 128 v.bits, v.tag, 0⟩]) ∧
  (∀ (s v : State) (c : Fin 32) (va : Word) (kind : Acc) x,
    let u : State := { s with held := false }
    s.aRuns c = true → u.tlbHits (u.ctx c kind false) va = [] → u.translate (u.ctx c kind false) va = (v, .ok x) → v.held = false →
    ∃ t, exec (.tableWalk c va kind) s = .next t ∧
      t = { v.modA c fun a => { a with evs := (s.acore.get c).evs } with held := s.held }) ∧
  (∀ (s v z y : State) (c : Fin 32) (va : Word) (st2 : Bool) (ea : PA) (seen : Word) (write : Bool) p ty x,
    let u : State := { s with held := false }
    let k := u.ctx c (if write then .write else .read) false
    s.aRuns c = true → seen.getLsbD 0 = true → (seen.getLsbD 6 = false ∨ (write = true ∧ seen.getLsbD 7 = false)) → ea.toNat % 8 = 0 →
    u.leafPlace k st2 ea.toNat = (v, .ok (p, ty)) → isDev ty = false → v.walkRead k p ty = (z, .ok x) →
    z.casEntry c p seen.toNat write = (y, true) → y.held = false →
    ∃ t, exec (.adUpdate c va st2 ea seen write) s = .next t ∧ t = { y with held := s.held }) ∧
  (∀ (s : State) (c : Fin 32) (k : Nat) (w : Claimer) (h : Bool),
    let u : State := { s with held := false }
    let a := s.acore.get c
    let x := s.src k
    let y := (u.claim k w).raiseAt c { exn x.vec 0 (srcId k) 0 with toH := h } a.pc false x.prio (w != .core c) true
    a.forced = false → u.irqBoundary c = true → u.takes c = some (k, w, h) → y.held = false →
    ∃ t, exec (.interruptTake c) s = .next t ∧ t = { y with held := s.held }) ∧
  (∀ (s v : State) (i k : Fin 4) (n : Nat) (x : PortTxn) (d : PortData) (l : List (Fin 4)), (s.island.get i).port[n]? = some x →
    x.issued = true → x.dropped = false → x.crossing = none → x.cores = k :: l →
    State.portPerform { s with held := false } i k x = (v, d) → (v.portDone i n x d).held = false →
    ∃ t, exec (.farLoadData i n) s = .next t ∧ t = { v.portDone i n x d with held := s.held }) ∧
  (∀ (s : State) (i k : Fin 4) (ev : ArrayEvent) (e : TStore) (r : List TStore), (s.tc i k).sb = e :: r → (s.tc i k).role = .active →
    (isDtcm e.addr = true → ∃ t, exec (.tStoreBufferDrain i k ev) s = .next t ∧ (t.tc i k).sb = r ∧ (t.tc i k).outq = (s.tc i k).outq) ∧
    (isDtcm e.addr = false → (s.tc i k).outq.length < 16 → ∃ t, exec (.tStoreBufferDrain i k ev) s = .next t ∧
      (t.tc i k).sb = r ∧ (t.tc i k).outq = (s.tc i k).outq ++ [e])) ∧
  (∀ (s : State) (m : Fin 12),
    let l := s.gw.lin.get m
    let id : Fin 64 := ⟨ofBytes (slice l.active (8 * l.idx) 1) % 64, Nat.mod_lt _ (by decide)⟩
    let u := State.linHeader { s with held := false } m id
    s.ev (0x6418 + m.val) 5 ≠ 0 → s.ev (0x6418 + m.val) 2 = 0 → l.idx + 1 < l.active.length / 8 → u.held = false →
    ∃ t, exec (.linScheduleSlot m) s = .next t ∧
      t = { u.modLin m fun x => { x with idx := x.idx + 1 } with held := s.held })

/-- A command of the table always answers a next state; one that is not is refused by its row's name. -/
def Obligations.EveryCommandCompletes : Prop :=
  ∀ (c : Instr) (s : State),
    (c.wf = true → ∃ t, exec c s = .next t) ∧
    (c.wf = false → ∃ w row, c.word = some (w, row) ∧ exec c s = .refused (.illFormed row))

/-- The canonical form of the tables is kept by every step. -/
def Obligations.StepKeepsCanonicalTables : Prop :=
  ∀ s t : State, s.canon → step s = .next t → t.canon

/-- The canonical form holds at reset. -/
def Obligations.ResetIsCanonical : Prop := State.reset.canon

/-- The effect of a command leaves the queue alone. -/
def Obligations.CommandsLeaveTheQueue : Prop :=
  ∀ (c : Instr) (s t : State), exec c s = .next t → t.pending = s.pending

/-- The values that the spec gives for reset. -/
def Obligations.ResetValues : Prop :=
  (∀ c : Fin 32, let a := State.reset.acore.get c
    a.run = .off ∧ bits a.stat.toNat 7 4 = 0xF ∧ a.stat.getLsbD 8 = false ∧ a.x0.xsy = 0 ∧ a.xh.xsy = 0 ∧ a.fsr = 0 ∧
    a.cycle = 0 ∧ a.instret = 0 ∧ a.sb = [] ∧ a.tlb = []) ∧
  (∀ i : Fin 4, let x := State.reset.island.get i
    x.st = .held ∧ (x.slots.get 3).role = .spare ∧ (∀ k : Fin 3, (x.slots.get k.castSucc).role = .active) ∧
    ∀ k : Fin 4, let c := x.slots.get k
      c.c.get 0 = Cap.rootData ∧ c.c.get 1 = Cap.rootCode ∧ c.c.get 2 = Cap.rootSeal ∧ c.pcc = Cap.rootCode ∧ c.pc = 0 ∧
      c.seq = 1 ∧ c.sb = [] ∧ c.outq = [] ∧ c.run = .held) ∧
  (∀ n : Fin 24, (State.reset.gw.ports.get n).link = false ∧ (State.reset.gw.ports.get n).gates = 0xFF) ∧
  State.reset.dap.holder = .local_ ∧ State.reset.env.locked = false ∧ (∀ b : Fin 49, (State.reset.fb.get b).recs = []) ∧
  State.reset.pending = []

/-- The general registers of Table 2.1, with the stack pointers that g31 names (R41), and what a write leaves alone. -/
def Obligations.GeneralRegisters : Prop :=
  (∀ (s : State) (c : Fin 32) (v : Word),
    s.g c 0 = 0 ∧ s.setG c 0 v = s ∧
    (s.hasH = true → (s.acore.get c).lh = true → s.g c 31 = (s.acore.get c).sp.get 4) ∧
    ((s.hasH && (s.acore.get c).lh) = false → s.g c 31 = (s.acore.get c).sp.get ⟨(s.acore.get c).ring % 5, by omega⟩)) ∧
  (∀ (s : State) (c : Fin 32) (r r' : Reg) (v : Word), r ≠ 0 →
    (s.setG c r v).g c r = v ∧ (r' ≠ r → (s.setG c r v).g c r' = s.g c r') ∧
    (let b := (s.setG c r v).acore.get c
     s.setG c r v = { s with acore := vset s.acore c { s.acore.get c with g := b.g, sp := b.sp } } ∧
     (r ≠ 31 → b.sp = (s.acore.get c).sp) ∧ (r = 31 → b.g = (s.acore.get c).g) ∧
     ∀ p : Fin 5, p ≠ (s.acore.get c).spIdx s.hasH → b.sp.get p = (s.acore.get c).sp.get p)) ∧
  (∀ (s : State) (i k : Fin 4) (r r' : Reg) (v : Word),
    s.tg i k 0 = 0 ∧ s.setTg i k 0 v = s ∧
    (r ≠ 0 → (s.setTg i k r v).tg i k r = v) ∧ (r' ≠ r → (s.setTg i k r v).tg i k r' = s.tg i k r') ∧
    (let x := s.island.get i
     s.setTg i k r v =
      { s with island := vset s.island i { x with slots := vset x.slots k { x.slots.get k with g := ((s.setTg i k r v).tc i k).g } } }))

/-- What the integer, multiply and divide operations compute, said over the integers (Tables 2.4 and 2.5, R50). -/
def Obligations.IntegerValues : Prop :=
  (∀ x y : Word,
    alu2 .add true x y = ((x + y).setWidth 32).signExtend 64 ∧ alu2 .sub true x y = ((x - y).setWidth 32).signExtend 64 ∧
    mulOp .mul true x y = ((x * y).setWidth 32).signExtend 64 ∧
    alu2 .shl true x y = ((x <<< (y.toNat % 32)).setWidth 32).signExtend 64 ∧
    alu2 .shr true x y = (BitVec.ofNat 32 (x.toNat % 2 ^ 32 / 2 ^ (y.toNat % 32))).signExtend 64 ∧
    (alu2 .sar true x y).toInt = (x.setWidth 32).toInt / 2 ^ (y.toNat % 32)) ∧
  (∀ x y : Word,
    (alu2 .sar false x y).toInt = x.toInt / 2 ^ (y.toNat % 64) ∧
    (alu2 .shr false x y).toNat = x.toNat / 2 ^ (y.toNat % 64) ∧
    (alu2 .shl false x y).toNat = x.toNat * 2 ^ (y.toNat % 64) % 2 ^ 64 ∧
    (∀ j : Nat, j < 64 → (alu2 .ror false x y).getLsbD j = x.getLsbD ((j + y.toNat % 64) % 64)) ∧
    (alu2 .slt false x y = if x.toInt < y.toInt then 1 else 0) ∧ (alu2 .sltu false x y = if x.toNat < y.toNat then 1 else 0) ∧
    (alu2 .min false x y).toInt = min x.toInt y.toInt ∧ (alu2 .max false x y).toInt = max x.toInt y.toInt ∧
    (alu2 .minu false x y).toNat = min x.toNat y.toNat ∧ (alu2 .maxu false x y).toNat = max x.toNat y.toNat) ∧
  (∀ x y : Word,
    (mulOp .mulh false x y).toInt = x.toInt * y.toInt / 2 ^ 64 ∧ (mulOp .mulhu false x y).toNat = x.toNat * y.toNat / 2 ^ 64 ∧
    (mulOp .mulhsu false x y).toInt = x.toInt * y.toNat / 2 ^ 64) ∧
  (∀ x y : Word, y ≠ 0 → ¬ (x.toInt = -2 ^ 63 ∧ y.toInt = -1) →
    let q := (divOp .div false x y).toInt
    let r := (divOp .rem false x y).toInt
    x.toInt = q * y.toInt + r ∧ r.natAbs < y.toInt.natAbs ∧ (0 ≤ x.toInt → 0 ≤ r) ∧ (x.toInt ≤ 0 → r ≤ 0)) ∧
  (∀ x y : Word, y ≠ 0 →
    x.toNat = (divOp .divu false x y).toNat * y.toNat + (divOp .remu false x y).toNat ∧ (divOp .remu false x y).toNat < y.toNat) ∧
  (∀ i : BitVec 21, (immU i).toInt = i.toInt * 4096)

/-- Tables 2.4 and 2.5 on an A-core: result, flow and frame. -/
def Obligations.IntegerOnACores : Prop :=
  ∀ (s u : State) (c : Fin 32) (w : IWord) (ins : Aelxel), s.aFetches c w ins u →
    (∀ op W rd r1 r2, ins = .alu2 op W rd r1 r2 →
      completes (.integerOp (.a c) w) s fun t => u.aSeq (u.setG c rd (alu2 op W (u.g c r1) (u.g c r2))) t c) ∧
    (∀ op W rd r1, ins = .alu1 op W rd r1 →
      completes (.integerOp (.a c) w) s fun t => u.aSeq (u.setG c rd (alu1 op W (u.g c r1))) t c) ∧
    (∀ op rd r1 imm, ins = .aluI op rd r1 imm →
      completes (.integerOp (.a c) w) s fun t => u.aSeq (u.setG c rd (aluI op (u.g c r1) imm)) t c) ∧
    (∀ op W rd r1 n, ins = .shI op W rd r1 n →
      completes (.integerOp (.a c) w) s fun t => u.aSeq (u.setG c rd (alu2 (ShOp.alu2 op) W (u.g c r1) (word n.val))) t c) ∧
    (∀ rd imm, ins = .lui rd imm → completes (.integerOp (.a c) w) s fun t => u.aSeq (u.setG c rd (immU imm)) t c) ∧
    (∀ rd imm, ins = .auipc rd imm →
      completes (.integerOp (.a c) w) s fun t => u.aSeq (u.setG c rd ((u.acore.get c).pc + immU imm)) t c) ∧
    (∀ op W rd r1 r2, ins = .mul op W rd r1 r2 →
      completes (.multiply (.a c) w) s fun t => u.aSeq (u.setG c rd (mulOp op W (u.g c r1) (u.g c r2))) t c) ∧
    (∀ op W rd r1 r2, ins = .div op W rd r1 r2 →
      completes (.divide (.a c) w) s fun t => u.aSeq (u.setG c rd (divOp op W (u.g c r1) (u.g c r2))) t c)

/-- Tables 2.4, 2.5, 8.4 and 9.1 on a T-core. -/
def Obligations.IntegerOnTCores : Prop :=
  ∀ (s u : State) (i k : Fin 4) (w : IWord) (ins : Aelxel), s.tFetches i k w ins u →
    let rec_ (rd : Reg) (v : Word) : List Byte := if rd = 0 then [] else toBytes 8 v.toNat
    let res (rd : Reg) (v : Word) (n : Nat) (t : State) : Prop := (u.setTg i k rd v).tSeqs t i k n (rec_ rd v)
    (∀ op W rd r1 r2, ins = .alu2 op W rd r1 r2 →
      completes (.integerOp (.t i k) w) s (res rd (alu2 op W (u.tg i k r1) (u.tg i k r2)) 1)) ∧
    (∀ op W rd r1, ins = .alu1 op W rd r1 → completes (.integerOp (.t i k) w) s (res rd (alu1 op W (u.tg i k r1)) 1)) ∧
    (∀ op rd r1 imm, ins = .aluI op rd r1 imm → completes (.integerOp (.t i k) w) s (res rd (aluI op (u.tg i k r1) imm) 1)) ∧
    (∀ op W rd r1 n, ins = .shI op W rd r1 n →
      completes (.integerOp (.t i k) w) s (res rd (alu2 (ShOp.alu2 op) W (u.tg i k r1) (word n.val)) 1)) ∧
    (∀ rd imm, ins = .lui rd imm → completes (.integerOp (.t i k) w) s (res rd (immU imm) 1)) ∧
    (∀ rd imm, ins = .auipc rd imm → completes (.integerOp (.t i k) w) s (res rd ((u.tc i k).pc + immU imm) 1)) ∧
    (∀ op W rd r1 r2, ins = .mul op W rd r1 r2 →
      completes (.multiply (.t i k) w) s (res rd (mulOp op W (u.tg i k r1) (u.tg i k r2)) 3)) ∧
    (∀ op W rd r1 r2, ins = .div op W rd r1 r2 →
      completes (.divide (.t i k) w) s (res rd (divOp op W (u.tg i k r1) (u.tg i k r2)) (if W then 18 else 34)))

/-- Table 2.6 on both core types (R42 to R45). -/
def Obligations.FloatOperations : Prop :=
  (∀ (s u : State) (c : Fin 32) (w : IWord) op single rm rd r1 r2, s.aFetches c w (.fp op single rm rd r1 r2) u →
    (∀ m, roundingMode rm (u.acore.get c).fsr = some m →
      let r := fpOp op single m (freeFp u.fresh) (u.f c rd) (u.f c r1) (u.f c r2) (u.g c r1)
      let v := { u with fresh := u.fresh + 2 }.modA c fun a => { a with fsr := a.fsr ||| r.2.toBits }
      completes (.floatOp (.a c) w) s fun t => match r.1 with
        | .f x => u.aSeq (v.setF c rd x) t c
        | .g x => u.aSeq (v.setG c rd x) t c) ∧
    (rm.val = 7 → 5 ≤ bits (u.acore.get c).fsr.toNat 7 5 → completes (.floatOp (.a c) w) s fun t => t = s.orWaits ((u.raise c (illegal w)).stepDone c))) ∧
  (∀ (s u : State) (i k : Fin 4) (w : IWord) op single rm rd r1 r2, s.tFetches i k w (.fp op single rm rd r1 r2) u →
    (∀ m, roundingMode rm (u.tc i k).fsr = some m →
      let r := fpOp op single m (freeFp u.fresh) (u.tf i k rd) (u.tf i k r1) (u.tf i k r2) (u.tg i k r1)
      let v := { u with fresh := u.fresh + 2 }.modTc i k fun c => { c with fsr := c.fsr ||| r.2.toBits }
      completes (.floatOp (.t i k) w) s fun t => match r.1 with
        | .f x => (v.setTf i k rd x).tSeqs t i k (tCycles (.fp op single rm rd r1 r2)) (toBytes 8 x.toNat)
        | .g x => (v.setTg i k rd x).tSeqs t i k (tCycles (.fp op single rm rd r1 r2)) (if rd = 0 then [] else toBytes 8 x.toNat)) ∧
    (rm.val = 7 → 5 ≤ bits (u.tc i k).fsr.toNat 7 5 → completes (.floatOp (.t i k) w) s fun t => t = s.orWaits (((u.tWaited i k).tRaise i k (illegal w)).tStepDone i k))) ∧
  (∀ op m fr (d x y d' x' y' g v : Word),
    (fpOp op true m fr d x y g).1 = .f v → v.toNat / 2 ^ 32 = 2 ^ 32 - 1 ∧
      (op ≠ .cvtP → d.setWidth 32 = d'.setWidth 32 → x.setWidth 32 = x'.setWidth 32 → y.setWidth 32 = (y'.setWidth 32 : BitVec 32) →
        fpOp op true m fr d' x' y' g = fpOp op true m fr d x y g))

/-- R51: the corners of division. -/
def Obligations.DivisionCorners : Prop :=
  (∀ x y : Word, y = 0 →
    divOp .div false x y = BitVec.allOnes 64 ∧ divOp .divu false x y = BitVec.allOnes 64 ∧
    divOp .rem false x y = x ∧ divOp .remu false x y = x) ∧
  (∀ x y : Word, y.setWidth 32 = (0 : BitVec 32) →
    divOp .div true x y = BitVec.allOnes 64 ∧ divOp .divu true x y = BitVec.allOnes 64 ∧
    divOp .rem true x y = (x.setWidth 32).signExtend 64 ∧ divOp .remu true x y = (x.setWidth 32).signExtend 64) ∧
  (∀ x y : Word, x.toInt = -2 ^ 63 → y.toInt = -1 → divOp .div false x y = x ∧ divOp .rem false x y = 0) ∧
  (∀ x y : Word, (x.setWidth 32 : BitVec 32).toInt = -2 ^ 31 → (y.setWidth 32 : BitVec 32).toInt = -1 →
    divOp .div true x y = (x.setWidth 32).signExtend 64 ∧ divOp .rem true x y = 0) ∧
  (∀ (s u : State) (c : Fin 32) (w : IWord) op W rd r1 r2, s.aFetches c w (.div op W rd r1 r2) u →
    completes (.divide (.a c) w) s fun t => ∃ v, u.aSeq (u.setG c rd v) t c) ∧
  (∀ (s u : State) (i k : Fin 4) (w : IWord) op W rd r1 r2, s.tFetches i k w (.div op W rd r1 r2) u →
    completes (.divide (.t i k) w) s fun t => ∃ v n recs, (u.setTg i k rd v).tSeqs t i k n recs)

/-- Branches and jumps on an A-core (R55 to R61). -/
def Obligations.BranchesOnACores : Prop :=
  ∀ (s u : State) (c : Fin 32) (w : IWord) (ins : Aelxel), s.aFetches c w ins u →
    let pc := (u.acore.get c).pc
    let go (v t : State) (a : Bool) (tgt : Word) : Prop :=
      if a then u.aCommits v t c tgt none else u.aCommits v t c (pc + 4) (some ⟨pc, tgt⟩)
    (∀ cond r1 r2 a off, ins = .branch cond r1 r2 a off →
      completes (.conditionalBranch (.a c) w) s fun t => ∃ v, u.aPredicts v c ∧
        if condHolds cond (u.g c r1) (u.g c r2) then u.aCommits v t c (pc + 4) (some ⟨pc, pc + off.signExtend 64 * 4⟩)
        else if a then u.aCommits v t c (pc + 8) none else u.aCommits v t c (pc + 4) (some ⟨pc, pc + 8⟩)) ∧
    (∀ a off, ins = .jmp false a off →
      completes (.jump (.a c) w) s fun t => ∃ v, u.aPredicts v c ∧ go v t a (pc + off.signExtend 64 * 4)) ∧
    (∀ a off, ins = .jmp true a off →
      completes (.jump (.a c) w) s fun t => ∃ v, u.aPredicts v c ∧ go (v.setG c 1 (pc + 8)) t a (pc + off.signExtend 64 * 4)) ∧
    (∀ a r1, ins = .jr a r1 →
      completes (.registerJump (.a c) w) s fun t =>
        if (u.g c r1).toNat % 4 = 0 then ∃ v, u.aPredicts v c ∧ go v t a (u.g c r1)
        else t = s.orWaits ((u.raise c (exn 6 0 0 (u.g c r1))).stepDone c)) ∧
    (∀ a rd r1, ins = .jalr a rd r1 →
      completes (.registerJump (.a c) w) s fun t =>
        if rd = r1 ∧ rd ≠ 0 then t = s.orWaits ((u.raise c (illegal w)).stepDone c)
        else if (u.g c r1).toNat % 4 = 0 then ∃ v, u.aPredicts v c ∧ go (v.setG c rd (pc + 8)) t a (u.g c r1)
        else t = s.orWaits ((u.raise c (exn 6 0 0 (u.g c r1))).stepDone c))

/-- Branches and jumps on a T-core (R55 to R61, R88, R291, Table 8.4). -/
def Obligations.BranchesOnTCores : Prop :=
  ∀ (s u : State) (i k : Fin 4) (w : IWord) (ins : Aelxel), s.tFetches i k w ins u →
    let c := u.tc i k
    let pc := c.pc
    let checked (tgt : Word) (t : State) (P : Prop) : Prop := match c.pcc.refuses tgt.toNat 4 permX with
      | some cause => t = s.orWaits (((u.tWaited i k).tRaise i k (exn 24 cause 0x10 tgt)).tStepDone i k)
      | none => P
    let go (v t : State) (a : Bool) (tgt : Word) (n : Nat) (recs : List Byte) : Prop :=
      v.tRetires t i k (if a then n + 1 else n) recs fun d =>
        if a then { d with pc := tgt }.leaveLoops tgt else { d with delay := some ⟨pc, tgt⟩, slotClears := true, pc := pc + 4 }
    (∀ cond r1 r2 a off, ins = .branch cond r1 r2 a off →
      completes (.conditionalBranch (.t i k) w) s fun t =>
        if condHolds cond (u.tg i k r1) (u.tg i k r2) then
          checked (pc + off.signExtend 64 * 4) t (go u t false (pc + off.signExtend 64 * 4) 3 [])
        else u.tRetires t i k (if a then 2 else 1) [] fun d =>
          if a then { d with pc := pc + 8 } else { d with delay := some ⟨pc, pc + 8⟩, slotClears := false, pc := pc + 4 }) ∧
    (∀ a off, ins = .jmp false a off →
      completes (.jump (.t i k) w) s fun t => checked (pc + off.signExtend 64 * 4) t (go u t a (pc + off.signExtend 64 * 4) 1 [])) ∧
    (∀ a off, ins = .jmp true a off →
      completes (.jump (.t i k) w) s fun t => checked (pc + off.signExtend 64 * 4) t
        (go (u.setTg i k 1 (pc + 8)) t a (pc + off.signExtend 64 * 4) 1 (toBytes 8 (pc + 8).toNat))) ∧
    (∀ a r1, ins = .jr a r1 →
      completes (.registerJump (.t i k) w) s fun t => checked (u.tg i k r1) t (go u t a (u.tg i k r1) 3 [])) ∧
    (∀ a rd r1, ins = .jalr a rd r1 →
      completes (.registerJump (.t i k) w) s fun t =>
        if rd = r1 ∧ rd ≠ 0 then t = s.orWaits (((u.tWaited i k).tRaise i k (illegal w)).tStepDone i k)
        else checked (u.tg i k r1) t
          (go (u.setTg i k rd (pc + 8)) t a (u.tg i k r1) 3 (if rd = 0 then [] else toBytes 8 (pc + 8).toNat)))

/-- Loads and stores of an A-core: the address of R52, the extension of Table 2.4, and the committed store buffer (R113, R119). -/
def Obligations.LoadsAndStoresOnACores : Prop :=
  (∀ (s u v : State) (c : Fin 32) (w : IWord) (ev : ArrayEvent) op rd r1 imm, s.aFetches c w (.load op rd r1 imm) u →
    let va := u.g c r1 + imm.signExtend 64
    let n := LdOp.size op
    (∀ b trains, u.coreLoad (u.ctx c .read false) (alignRule va n) va n ev true = (v, .ok (some (b, trains))) → v.held = false →
      let v1 := if trains then v.modA c fun a => a.trainStream va.toNat else v
      let x : Word := match op with
        | .lb => (BitVec.ofNat 8 (ofBytes b)).signExtend 64
        | .lh => (BitVec.ofNat 16 (ofBytes b)).signExtend 64
        | .lw => (BitVec.ofNat 32 (ofBytes b)).signExtend 64
        | .flw => 0xFFFFFFFF#32 ++ BitVec.ofNat 32 (ofBytes b)
        | .ld | .lbu | .lhu | .lwu | .fld => BitVec.ofNat 64 (ofBytes b)
      completes (.load (.a c) w ev) s fun t =>
        u.aSeq (if op = .flw ∨ op = .fld then v1.setF c rd x else v1.setG c rd x) t c) ∧
    (u.coreLoad (u.ctx c .read false) (alignRule va n) va n ev true = (v, .ok none) →
      completes (.load (.a c) w ev) s fun t => t = s.orWaits ((v.modA c fun a => { a with wait := some w }).haltTry c)) ∧
    (∀ f, u.coreLoad (u.ctx c .read false) (alignRule va n) va n ev true = (v, .error f) →
      completes (.load (.a c) w ev) s fun t => t = s.orWaits ((v.raise c f).stepDone c))) ∧
  (∀ (s u v : State) (c : Fin 32) (w : IWord) op rt r1 imm, s.aFetches c w (.store op rt r1 imm) u →
    let va := u.g c r1 + imm.signExtend 64
    let n := StOp.size op
    let b := toBytes n (if op = .fsw ∨ op = .fsd then u.f c rt else u.g c rt).toNat
    (∀ x l, u.accsOf (u.ctx c .write false) (alignRule va n) va n = (v, .ok (x :: l)) → isDev x.type = false →
      let z := v.sbPush c ⟨storeParts (x :: l) b, (u.acore.get c).inHusk, (v.acore.get c).pc⟩
      z.held = false → completes (.store (.a c) w) s fun t => u.aSeq z t c) ∧
    (∀ x l v', u.accsOf (u.ctx c .write false) (alignRule va n) va n = (v, .ok (x :: l)) → isDev x.type = true →
      State.devStores c x 8 b (v.drainAll c) = (v', .ok ()) → v'.held = false →
      completes (.store (.a c) w) s fun t => u.aSeq v' t c) ∧
    (∀ f, u.accsOf (u.ctx c .write false) (alignRule va n) va n = (v, .error f) →
      completes (.store (.a c) w) s fun t => t = s.orWaits ((v.raise c f).stepDone c))) ∧
  (∀ (s : State) (c : Fin 32) (e : StoreEnt), (s.acore.get c).sb.length < 48 →
    s.sbPush c e = { s with acore := vset s.acore c { s.acore.get c with sb := (s.acore.get c).sb ++ [e] } })

/-- The three cases of store forwarding (R115). -/
def Obligations.StoreForwarding : Prop :=
  ∀ (sb : List StoreEnt) (l : List LineAcc),
    ((∀ e ∈ sb, ∀ a ∈ accBytes l, e.byte? a = none) → forward sb l = .none) ∧
    ∀ (old young : List StoreEnt) (e : StoreEnt), sb = old ++ e :: young →
      (∀ y ∈ young, ∀ a ∈ accBytes l, y.byte? a = none) →
      (∀ b : Nat → Byte, accBytes l ≠ [] → (∀ a ∈ accBytes l, e.byte? a = some (b a)) → forward sb l = .all ((accBytes l).map b)) ∧
      ((∃ a ∈ accBytes l, (e.byte? a).isSome = true) → (∃ a ∈ accBytes l, e.byte? a = none) → forward sb l = .some_)

/-- The atomic group on an A-core (Table 2.7, R71 to R73). -/
def Obligations.AtomicsOnACores : Prop :=
  (∀ (s u : State) (c : Fin 32) (w : IWord) (op : AmoOp) aq rl dbl rd r1 r2, s.aFetches c w (.amo op aq rl dbl rd r1 r2) u →
    let cmd : Instr := if op = .cas then .cas (.a c) w else .amo (.a c) w
    let d := u.drainAll c
    let va := u.g c r1
    let n := if dbl then 8 else 4
    (va.toNat % n ≠ 0 → completes cmd s fun t => t = s.orWaits ((d.raise c { exn 7 0 0 va with wr := true }).stepDone c)) ∧
    (∀ v x, d.amoAcc (d.ctx c .write true) va n = (v, .ok x) →
      (∀ z old, v.amoAt c x op (v.g c r2) (v.g c rd) = (z, old, false) → z.held = false →
        completes cmd s fun t => u.aSeq (z.setG c rd (amoOld old)) t c) ∧
      (∀ z old, v.amoAt c x op (v.g c r2) (v.g c rd) = (z, old, true) →
        completes cmd s fun t => t = s.orWaits ((z.raise c { exn 17 1 0 va with wr := true }).stepDone c)))) ∧
  (∀ (s u : State) (c : Fin 32) (w : IWord) dbl rd r1, s.aFetches c w (.lda dbl rd r1) u →
    let d := u.drainAll c
    let va := u.g c r1
    let n := if dbl then 8 else 4
    (va.toNat % n ≠ 0 → completes (.lda (.a c) w) s fun t => t = s.orWaits ((d.raise c (exn 7 0 0 va)).stepDone c)) ∧
    (∀ v b tr, va.toNat % n = 0 → d.coreLoad (d.ctx c .read true) devRule va n .good true = (v, .ok (some (b, tr))) → v.held = false →
      let v1 := if tr then v.modA c fun a => a.trainStream va.toNat else v
      completes (.lda (.a c) w) s fun t => u.aSeq (v1.setG c rd (amoOld b)) t c) ∧
    (∀ v, va.toNat % n = 0 → d.coreLoad (d.ctx c .read true) devRule va n .good true = (v, .ok none) →
      completes (.lda (.a c) w) s fun t => t = s.orWaits (v.haltTry c))) ∧
  (∀ (s u : State) (c : Fin 32) (w : IWord) dbl r1 r2, s.aFetches c w (.stl dbl r1 r2) u →
    let d := u.drainAll c
    let va := u.g c r1
    let n := if dbl then 8 else 4
    (va.toNat % n ≠ 0 → completes (.stl (.a c) w) s fun t => t = s.orWaits ((d.raise c { exn 7 0 0 va with wr := true }).stepDone c)) ∧
    (∀ v, va.toNat % n = 0 → d.coreStore (d.ctx c .write true) devRule va (toBytes n (d.g c r2).toNat) = (v, .ok ()) → v.held = false →
      completes (.stl (.a c) w) s fun t => u.aSeq v t c)) ∧
  (∀ (old : List Byte) (v cmp : Word), old.length = 8 →
    let o := BitVec.ofNat 64 (ofBytes old)
    let put (x : BitVec 64) := toBytes 8 x.toNat
    amoOld old = o ∧ amoBytes .swap old v cmp = put v ∧ amoBytes .add old v cmp = put (o + v) ∧
    amoBytes .and old v cmp = put (o &&& v) ∧ amoBytes .or old v cmp = put (o ||| v) ∧ amoBytes .xor old v cmp = put (o ^^^ v) ∧
    ofBytes (amoBytes .minu old v cmp) = min o.toNat v.toNat ∧ ofBytes (amoBytes .maxu old v cmp) = max o.toNat v.toNat ∧
    (BitVec.ofNat 64 (ofBytes (amoBytes .min old v cmp))).toInt = min o.toInt v.toInt ∧
    (BitVec.ofNat 64 (ofBytes (amoBytes .max old v cmp))).toInt = max o.toInt v.toInt ∧
    amoBytes .cas old v cmp = if o = cmp then put v else old) ∧
  (∀ (old : List Byte) (v cmp : Word), old.length = 4 →
    let o := BitVec.ofNat 32 (ofBytes old)
    amoOld old = o.signExtend 64 ∧ amoBytes .swap old v cmp = toBytes 4 (v.setWidth 32).toNat ∧
    amoBytes .add old v cmp = toBytes 4 (o + v.setWidth 32).toNat ∧
    amoBytes .cas old v cmp = if o = cmp.setWidth 32 then toBytes 4 (v.setWidth 32).toNat else old)

/-- Long instructions (R63 to R70): the unit of each, and where they stop. -/
def Obligations.LongInstructions : Prop :=
  let cmd (op : BlkOp) (c : CoreId) (w : IWord) (n : Nat) : Instr := match op with
    | .bcopy => .bcopy c w n | .bfill => .bfill c w n | .bcrc => .bcrc c w n
    | .bcrcE => .bcrcE c w n | .ldm => .ldm c w n | .stm => .stm c w n
  (∀ (s u : State) (c : Fin 32) (w : IWord) op rd r1 r2, s.aFetches c w (.block op rd r1 r2) u →
    let d := u.drainAll c
    let bad := blockIllegal (d.g c) op rd r1 r2
    let moves := op = .ldm ∨ op = .stm
    (bad = true → ∀ n, completes (cmd op (.a c) w n) s fun t => t = s.orWaits ((d.raise c (illegal w)).stepDone c)) ∧
    (bad = false → d.g c r2 = 0 → d.held = false → ∀ n, completes (cmd op (.a c) w n) s fun t => u.aSeq d t c) ∧
    (bad = false → moves → d.g c r2 ≠ 0 → (d.g c r1).toNat % 8 ≠ 0 → ∀ n,
      completes (cmd op (.a c) w n) s fun t =>
        t = s.orWaits ((d.raise c { exn 7 0 0 (d.g c r1) with wr := op == .stm }).stepDone c)) ∧
    (bad = false → (moves → (d.g c r1).toNat % 8 = 0) → d.g c r2 ≠ 0 → ∀ v,
      (∀ f, d.unitA c op rd r1 r2 = (v, .error (some f)) →
        completes (cmd op (.a c) w 1) s fun t => t = s.orWaits ((v.raise c f).stepDone c)) ∧
      (d.unitA c op rd r1 r2 = (v, .error none) →
        completes (cmd op (.a c) w 1) s fun t => t = s.orWaits (v.haltTry c)) ∧
      (d.unitA c op rd r1 r2 = (v, .ok ()) → v.held = false →
        let z := v.modA c fun a => { a with longOwed := false }
        completes (cmd op (.a c) w 1) s fun t => if z.g c r2 = 0 then u.aSeq z t c else t = s.orWaits (z.haltTry c)))) ∧
  (∀ (s v : State) (c : Fin 32) op rd r1 r2, blockIllegal (s.g c) op rd r1 r2 = false → s.g c r2 ≠ 0 →
    s.unitA c op rd r1 r2 = (v, .ok ()) →
    match op with
    | .bcopy => ∃ s1 x s2, s.unitRead c (s.g c r1) 1 = (s1, .ok x) ∧
        s1.coreStore (s1.ctx c .write false) devRule (s.g c rd) [BitVec.ofNat 8 x] = (s2, .ok ()) ∧
        v = ((s2.setG c rd (s.g c rd + 1)).setG c r1 (s.g c r1 + 1)).setG c r2 (s.g c r2 - 1)
    | .bfill => ∃ s2, s.coreStore (s.ctx c .write false) devRule (s.g c rd) [(s.g c r1).setWidth 8] = (s2, .ok ()) ∧
        v = (s2.setG c rd (s.g c rd + 1)).setG c r2 (s.g c r2 - 1)
    | .bcrc => ∃ s1 x, s.unitRead c (s.g c r1) 1 = (s1, .ok x) ∧
        v = ((s1.setG c rd ((crc32 polyC ((s.g c rd).setWidth 32) [BitVec.ofNat 8 x]).setWidth 64)).setG c r1 (s.g c r1 + 1)).setG c r2
          (s.g c r2 - 1)
    | .bcrcE => ∃ s1 x, s.unitRead c (s.g c r1) 1 = (s1, .ok x) ∧
        v = ((s1.setG c rd ((crc32 polyE ((s.g c rd).setWidth 32) [BitVec.ofNat 8 x]).setWidth 64)).setG c r1 (s.g c r1 + 1)).setG c r2
          (s.g c r2 - 1)
    | .ldm => ∃ (r : Reg) (s1 : State) (x : Nat), (s.g c r2).getLsbD r.val = true ∧
        (∀ q : Reg, q < r → (s.g c r2).getLsbD q.val = false) ∧ s.unitRead c (s.g c r1) 8 = (s1, .ok x) ∧
        v = ((s1.setG c r (word x)).setG c r1 (s.g c r1 + 8)).setG c r2 (s.g c r2 &&& ~~~((1 : Word) <<< r.val))
    | .stm => ∃ (r : Reg) (s2 : State), (s.g c r2).getLsbD r.val = true ∧
        (∀ q : Reg, q < r → (s.g c r2).getLsbD q.val = false) ∧
        s.coreStore (s.ctx c .write false) devRule (s.g c r1) (toBytes 8 (s.g c r).toNat) = (s2, .ok ()) ∧
        v = (s2.setG c r1 (s.g c r1 + 8)).setG c r2 (s.g c r2 &&& ~~~((1 : Word) <<< r.val))) ∧
  (∀ (s u : State) (i k : Fin 4) (w : IWord) op rd r1 r2, s.tFetches i k w (.block op rd r1 r2) u →
    (blockIllegal (u.tg i k) op rd r1 r2 = true → ∀ n,
      completes (cmd op (.t i k) w n) s fun t => t = s.orWaits (((u.tWaited i k).tRaise i k (illegal w)).tStepDone i k)) ∧
    (blockIllegal (u.tg i k) op rd r1 r2 = false → op ≠ .stm → u.tg i k r2 = 0 → ∀ n,
      completes (cmd op (.t i k) w n) s fun t =>
        u.tSeqs t i k (if op = .ldm then 2 else 3)
          ((if op = .ldm then [r1, r2] else if op = .bfill then [rd, r2] else [rd, r1, r2]).flatMap fun r => toBytes 8 (u.tg i k r).toNat))) ∧
  crc32 polyC 0xFFFFFFFF#32 ([0x31, 0x32, 0x33, 0x34, 0x35, 0x36, 0x37, 0x38, 0x39] : List Byte) = ~~~0xE3069283#32

/-- System registers of an A-core (Table 4.2). The table gives number, value, and the positions that read and write it: 0 every
ring, 1 ring 0 and level H, 2 level H, 3 none. -/
def Obligations.SystemRegistersOfACores : Prop :=
  let tab (a : ACore) (c : Fin 32) : List (Nat × Word × Nat × Nat) :=
    [(0x000, a.stat, 0, 1), (0x001, a.fsr.setWidth 64, 0, 0), (0x008, a.sp.get 0, 1, 1), (0x009, a.sp.get 1, 1, 1),
     (0x00A, a.sp.get 2, 1, 1), (0x00B, a.sp.get 3, 1, 1), (0x00C, a.sp.get 4, 2, 2), (0x010, a.vtb0, 1, 1), (0x011, a.gtb, 1, 1),
     (0x012, a.esp0, 1, 1), (0x013, a.x0.xpc, 1, 1), (0x014, a.x0.xst, 1, 1), (0x015, a.x0.xsy, 1, 1), (0x016, a.x0.xva, 1, 1),
     (0x018, a.vtbh, 2, 2), (0x01A, a.esph, 2, 2), (0x01B, a.xh.xpc, 2, 2), (0x01C, a.xh.xst, 2, 2), (0x01D, a.xh.xsy, 2, 2),
     (0x01E, a.xh.xva, 2, 2), (0x020, a.pcid.setWidth 64, 1, 1), (0x021, a.tcr, 1, 1), (0x022, a.mat, 1, 1), (0x023, a.ttb0, 1, 1),
     (0x024, a.ttb1, 1, 1), (0x025, a.ttbh, 2, 2), (0x026, a.part.setWidth 64, 2, 2), (0x030, a.cycle, 0, 3), (0x031, a.instret, 0, 3),
     (0x040, a.pmevt.get 0, 1, 1), (0x047, a.pmevt.get 7, 1, 1), (0x048, a.pmcnt.get 0, 1, 1), (0x04F, a.pmcnt.get 7, 1, 1),
     (0x050, word c.val, 0, 3)]
  let may (u : State) (c : Fin 32) (lvl : Nat) : Prop :=
    lvl = 0 ∨ (lvl = 1 ∧ (u.atH c = true ∨ (u.acore.get c).ring = 0)) ∨ (lvl = 2 ∧ u.atH c = true)
  let refused (s u : State) (c : Fin 32) (w : IWord) (n lvl : Nat) (t : State) : Prop :=
    t = s.orWaits ((u.raise c (if lvl = 2 ∧ u.hasH = true ∧ (u.acore.get c).ring = 0 then { exn 3 1 n (w.setWidth 64) with toH := true }
      else exn 2 0 0 (w.setWidth 64))).stepDone c)
  (∀ (s u : State) (c : Fin 32) (w : IWord) (rd : Reg) (sr : BitVec 12), s.aFetches c w (.mfs rd sr) u →
    let d := u.drainAll c
    (∀ n x rl wl, (n, x, rl, wl) ∈ tab (d.acore.get c) c → sr.toNat = n → may u c rl → d.held = false →
      completes (.mfs (.a c) w) s fun t => u.aSeq (d.setG c rd x) t c) ∧
    (∀ n x rl wl, (n, x, rl, wl) ∈ tab (d.acore.get c) c → sr.toNat = n → ¬ may u c rl →
      completes (.mfs (.a c) w) s (refused s u c w n rl)) ∧
    (sysLevel sr.toNat = none → completes (.mfs (.a c) w) s fun t => t = s.orWaits ((u.raise c (illegal w)).stepDone c))) ∧
  (∀ (s u : State) (c : Fin 32) (w : IWord) (sr : BitVec 12) (r1 : Reg), s.aFetches c w (.mts sr r1) u →
    let d := u.drainAll c
    let a := d.acore.get c
    let v := u.g c r1
    let done (P : ACore → Prop) : Prop := d.held = false → completes (.mts (.a c) w) s fun t => ∃ b, P b ∧
      b.g = a.g ∧ b.f = a.f ∧ b.pc = a.pc ∧ b.delay = a.delay ∧ b.run = a.run ∧ b.sb = a.sb ∧ b.husk = a.husk ∧
      (∀ n : Nat, n ≠ sr.toNat → b.sysRead c n = a.sysRead c n) ∧ u.aSeq { d with acore := vset d.acore c b } t c
    (∀ n x rl wl, (n, x, rl, wl) ∈ tab a c → sr.toNat = n → ¬ may u c wl → completes (.mts (.a c) w) s (refused s u c w n wl)) ∧
    (sysLevel sr.toNat = none → completes (.mts (.a c) w) s fun t => t = s.orWaits ((u.raise c (illegal w)).stepDone c)) ∧
    (∀ n x rl wl, (n, x, rl, wl) ∈ tab a c → sr.toNat = n → may u c wl →
      n ≠ 0x000 → n ≠ 0x020 → n ≠ 0x026 → ¬ (0x040 ≤ n ∧ n < 0x048) →
      let m : Word := if n = 0x001 then 0xFF else if n = 0x010 ∨ n = 0x018 then ~~~0x7FF else if n = 0x012 ∨ n = 0x01A then ~~~0xF
        else if n = 0x014 ∨ n = 0x01C then 0xFFF else if n = 0x015 ∨ n = 0x01D then 0x000FFFFF0007FFFF else if n = 0x021 then 3
        else if n = 0x022 then 0x0707070707070707 else if 0x023 ≤ n ∧ n ≤ 0x025 then 0x00000FFFFFFFF000
        else if 0x048 ≤ n then 0x0000FFFFFFFFFFFF else BitVec.allOnes 64
      done fun b => b.sysRead c n = v &&& m) ∧
    (sr.toNat = 0 → may u c 1 → done fun b =>
      (∀ j, j ∈ [0, 1, 4, 5, 6, 7, 10] → b.stat.getLsbD j = v.getLsbD j) ∧
      b.stat.getLsbD 2 = (if d.atH c then v.getLsbD 2 else a.stat.getLsbD 2) ∧
      b.stat.getLsbD 8 = (v.getLsbD 8 && ((d.hasH && b.stat.getLsbD 2) || (!b.stat.getLsbD 0 && !b.stat.getLsbD 1))) ∧
      (∀ j, j ∈ [3, 9] ∨ 11 ≤ j → b.stat.getLsbD j = a.stat.getLsbD j)) ∧
    (sr.toNat = 0x026 → may u c 2 →
      if d.partOk c (v.toNat % 64) then done fun b => b.part = v.setWidth 6
      else completes (.mts (.a c) w) s fun t => t = s.orWaits ((d.raise c (exn 2 0 0 (w.setWidth 64))).stepDone c)) ∧
    (sr.toNat = 0x020 → may u c 1 →
      if d.inPart c = true ∧ v.toNat % 1024 &&& d.ev (0x3100 + a.part.toNat) 6 ≠ d.ev (0x3100 + a.part.toNat) 5 then
        completes (.mts (.a c) w) s fun t => t = s.orWaits ((d.raise c { exn 3 1 0x020 (w.setWidth 64) with toH := true }).stepDone c)
      else done fun b => b.pcid = v.setWidth 10))

/-- System registers and ERET of a T-core (Table 8.5, R281, R286). -/
def Obligations.SystemRegistersOfTCores : Prop :=
  let tab (c : TCore) (i k : Fin 4) : List (Nat × Word) :=
    [(0x000, c.tstat), (0x001, c.fsr.setWidth 64), (0x013, c.x.xpc), (0x014, c.x.xst), (0x015, c.x.xsy), (0x016, c.x.xva),
     (0x030, c.cycle), (0x031, c.instret), (0x050, word (16 + 4 * i.val + k.val)), (0x060, (c.lc.get 0).setWidth 64),
     (0x061, (c.lc.get 1).setWidth 64), (0x062, c.ls.get 0), (0x063, c.le.get 0), (0x064, c.ls.get 1), (0x065, c.le.get 1),
     (0x068, (c.xlc.get 0).setWidth 64), (0x069, (c.xlc.get 1).setWidth 64), (0x06A, c.xls.get 0), (0x06B, c.xle.get 0),
     (0x06C, c.xls.get 1), (0x06D, c.xle.get 1)]
  (∀ (s u : State) (i k : Fin 4) (w : IWord) (rd : Reg) (sr : BitVec 12), s.tFetches i k w (.mfs rd sr) u →
    (∀ n x, (n, x) ∈ tab (u.tc i k) i k → sr.toNat = n →
      completes (.mfs (.t i k) w) s fun t => (u.setTg i k rd x).tSeqs t i k 1 (if rd = 0 then [] else toBytes 8 x.toNat)) ∧
    ((∀ p ∈ tab (u.tc i k) i k, p.1 ≠ sr.toNat) →
      completes (.mfs (.t i k) w) s fun t => t = s.orWaits (((u.tWaited i k).tRaise i k (illegal w)).tStepDone i k))) ∧
  (∀ (s u : State) (i k : Fin 4) (w : IWord) (sr : BitVec 12) (r1 : Reg), s.tFetches i k w (.mts sr r1) u →
    let c := u.tc i k
    let v := u.tg i k r1
    (∀ n x, (n, x) ∈ tab c i k → sr.toNat = n →
      let m : Word := if n = 0x000 then 0x1F0 else if n = 0x001 then 0xFF else if n = 0x014 then 0x3F0
        else if n = 0x015 then 0x000FFFFF0001FFFF else if n = 0x068 ∨ n = 0x069 then 0xFFFFFFFF
        else if n = 0x013 ∨ n = 0x016 ∨ 0x06A ≤ n then BitVec.allOnes 64 else 0
      completes (.mts (.t i k) w) s fun t => ∃ b : TCore,
        b.sysRead i k n = (if m = 0 then x else v &&& m) ∧ (∀ p ∈ tab c i k, p.1 ≠ n → b.sysRead i k p.1 = p.2) ∧
        b = { c with tstat := b.tstat, fsr := b.fsr, x := b.x, xlc := b.xlc, xls := b.xls, xle := b.xle } ∧
        (u.modTc i k fun _ => b).tSeqs t i k (if n = 0 then 2 else 1) []) ∧
    ((∀ p ∈ tab c i k, p.1 ≠ sr.toNat) →
      completes (.mts (.t i k) w) s fun t => t = s.orWaits (((u.tWaited i k).tRaise i k (illegal w)).tStepDone i k))) ∧
  (∀ (s u : State) (i k : Fin 4) (w : IWord), s.tFetches i k w .eret u →
    let c := u.tc i k
    completes (.tEret i k w) s fun t => u.tRetires t i k 6 [] fun r =>
      { r with
        tstat := c.x.xst &&& 0x1F0, pcc := c.xpcc, lc := c.xlc, ls := c.xls, le := c.xle, pc := c.x.xpc,
        delay := none, slotClears := false, parked := c.parked.map fun (p : Parked) => { p with replay := some (c.instret + 1) } })

/-- Exception entry of an A-core outside a husk (R145 to R153, Table 4.3). -/
def Obligations.ExceptionEntryOfACores : Prop :=
  ∀ (s : State) (c : Fin 32) (f : Exn), (s.acore.get c).inHusk = none → f.vec < 32 →
    let h := s.hasH && (f.toH || s.atH c)
    let a := s.acore.get c
    let same : Bool := if h then s.atH c else !s.atH c && a.ring == 0
    let s1 := s.modA c fun a => { a with run := if a.run = .wfi then .running else a.run, longOwed := false, evs := [], split := none }
    let st : Word := (a.stat &&& ~~~0x200) ||| (if a.delay.isSome then 0x200 else 0)
    let sv : Save := ⟨(a.delay.map (·.branch)).getD a.pc, st, a.sp.get (a.spIdx s.hasH), 0, false⟩
    ((same && a.stat.getLsbD 8) = false → ∀ v z f' b, s1.pushEntry c h f sv = (v, .ok f') → f'.vec < 32 →
      let e := v.acore.get c
      let stat : Word := word (putBits (putBits (putBits (putBits (e.stat &&& ~~~0x200).toNat 1 0 (if h then e.ring else 0)) 2 2 (b2n h))
        7 4 (if same then a.ml else 0)) 8 8 1)
      let saved : Saved := ⟨sv.pc, st, xsyOf f' sv, f'.va⟩
      let n : ACore := { e with stat := stat, delay := none, wait := none, x0 := if h then e.x0 else saved, xh := if h then saved else e.xh }
      let vtb := if h then a.vtbh else a.vtb0
      State.readNow { v with acore := vset v.acore c n } (posCtx c h .read) (vtb + word (8 * f'.vec)) 8 = (z, .ok b) →
      ofBytes b % 4 = 0 →
      s.raise c f = z.modA c fun a => { a with pc := word (ofBytes b) }) ∧
    (same = true → a.stat.getLsbD 8 = true → (h = true ∨ s.hasH = false) →
      s.raise c f = (s1.modA c fun a => { a with run := .hardStop }).record (bankPod (podOf c)) 0x25 c.val (if h then 4 else 0) sv.pc.toNat f.vec)

/-- Breakpoint, returns and gates on an A-core (R83, R141, R144, R154). -/
def Obligations.ReturnsAndGatesOfACores : Prop :=
  (∀ (s u : State) (c : Fin 32) (w : IWord) (code : BitVec 12), s.aFetches c w (.brk code) u →
    completes (.brk (.a c) w) s fun t => t = s.orWaits ((u.raise c (exn 5 0 code.toNat 0)).stepDone c)) ∧
  (∀ (s u : State) (c : Fin 32) (w : IWord), s.aFetches c w .eret u →
    let a := u.acore.get c
    let h := u.atH c
    let idx := a.spIdx u.hasH
    (h = false → a.ring ≠ 0 → completes (.eret c w) s fun t => t = s.orWaits ((u.raise c (exn 2 0 0 (w.setWidth 64))).stepDone c)) ∧
    ((h = true ∨ a.ring = 0) → ∀ v b, u.readNow (posCtx c h .read) (a.sp.get idx) 32 = (v, .ok b) → v.held = false →
      ofBytes (slice b 0 8) % 4 = 0 →
      let st := eretStat h a.stat (word (ofBytes (slice b 8 8)))
      let p := statSp v.hasH st
      let old := word (ofBytes (slice b 16 8))
      completes (.eret c w) s fun t =>
        let e := v.acore.get c
        let b1 := t.acore.get c
        b1 = { e with
          stat := st, sp := b1.sp, pc := word (ofBytes (slice b 0 8)), delay := none, longOwed := true, evs := [], split := none,
          instret := if u.nonInvasive c then e.instret + 1 else e.instret, cycle := b1.cycle, pmevt := b1.pmevt, pmcnt := b1.pmcnt } ∧
        b1.sp.get p = old ∧ (p ≠ idx → b1.sp.get idx = a.sp.get idx + 32) ∧
        (∀ q, q ≠ p → q ≠ idx → b1.sp.get q = e.sp.get q) ∧
        t = { v with acore := vset v.acore c b1, fresh := t.fresh, irq := t.irq, held := s.held })) ∧
  (∀ (s u : State) (c : Fin 32) (w : IWord), s.aFetches c w .gret u →
    let a := u.acore.get c
    let idx := a.spIdx u.hasH
    (u.atH c = true → completes (.gret (.a c) w) s fun t => t = s.orWaits ((u.raise c (illegal w)).stepDone c)) ∧
    (u.atH c = false → a.inHusk = none → ∀ v b, u.readNow (u.ctx c .read false) (a.sp.get idx) 32 = (v, .ok b) → v.held = false →
      let pc := word (ofBytes (slice b 0 8))
      let st := word (ofBytes (slice b 8 8))
      if a.ring < st.toNat % 4 ∧ st.getLsbD 2 = false ∧ st.getLsbD 3 = a.stat.getLsbD 3 ∧ pc.toNat % 4 = 0 then
        completes (.gret (.a c) w) s fun t => u.aCommits
          (v.modA c fun e => { e with
            stat := (e.stat &&& ~~~0x403) ||| (st &&& 0x403),
            sp := vset (vset e.sp idx (a.sp.get idx + 32)) ⟨st.toNat % 4, by omega⟩ (word (ofBytes (slice b 16 8))) }) t c pc none
      else completes (.gret (.a c) w) s fun t => t = s.orWaits ((v.raise c (exn 15 0x20 (ofBytes (slice b 24 2)) 0)).stepDone c))) ∧
  (∀ (s u : State) (c : Fin 32) (w : IWord) (n : BitVec 16), s.aFetches c w (.gate n) u →
    (u.atH c = true → completes (.gate (.a c) w) s fun t => t = s.orWaits ((u.raise c (illegal w)).stepDone c)) ∧
    (u.atH c = false → ∀ v,
      (∀ f, u.gate c n.toNat = (v, .fault f) → completes (.gate (.a c) w) s fun t => t = s.orWaits ((v.raise c f).stepDone c)) ∧
      (∀ pc, u.gate c n.toNat = (v, .go pc) → v.held = false → completes (.gate (.a c) w) s fun t => u.aCommits v t c pc none) ∧
      (∀ pc, u.gate c n.toNat = (v, .resume pc) → v.held = false → completes (.gate (.a c) w) s fun t =>
        ∃ z, u.aCommits v z c pc none ∧ t = z.modA c fun a => { a with longOwed := true }) ∧
      (∀ f, u.gate c n.toNat = (v, .hcall f) →
        completes (.gate (.a c) w) s fun t =>
          t = s.orWaits (((v.commit c (u.countCtx c) []).raiseAt c f ((v.acore.get c).pc + 4) false 0 false true).stepDone c))))

/-- GATE outside a husk (R139 to R143, Tables 4.4 to 4.6). -/
def Obligations.GateChecks : Prop :=
  ∀ (s v : State) (c : Fin 32) (n : Nat) (b : List Byte),
    let a := s.acore.get c
    let base := word (bits a.gtb.toNat 63 16 * 0x10000 + 32 * n)
    let d := gateOf b
    a.inHusk = none →
    (bits a.gtb.toNat 15 0 < n → s.gate c n = (s, .fault (exn 15 1 n 0))) ∧
    (n ≤ bits a.gtb.toNat 15 0 →
      (∀ f, s.readNow ⟨c, some 0, none, .read, false, true, true⟩ base 32 = (v, .error f) → s.gate c n = (v, .fault (exn 15 2 n f.va))) ∧
      (s.readNow ⟨c, some 0, none, .read, false, true, true⟩ base 32 = (v, .ok b) →
        ((d.v = false ∨ 4 < d.tring ∨ d.zeros = false) → s.gate c n = (v, .fault (exn 15 3 n 0))) ∧
        (d.v = true → d.tring = 4 → d.zeros = true → v.hasH = false → s.gate c n = (v, .fault (exn 15 3 n 0))) ∧
        (d.v = true → d.tring < 4 → d.zeros = true →
          (d.cmax < a.ring → s.gate c n = (v, .fault (exn 15 4 n 0))) ∧
          (a.ring ≤ d.cmax → a.ring ≤ d.tring → s.gate c n = (v, .fault (exn 15 5 n 0))) ∧
          (a.ring ≤ d.cmax → d.tring < a.ring → 6 < d.argc → s.gate c n = (v, .fault (exn 15 3 n 0))) ∧
          (a.ring ≤ d.cmax → d.tring < a.ring → d.argc ≤ 6 → ∀ y, State.gateArgs c n d (List.range d.argc) v = (y, none) → d.hg = false →
            let e := y.acore.get c
            let t : Fin 5 := ⟨d.tring % 5, by omega⟩
            let frame := toBytes 8 (e.pc + 4).toNat ++ toBytes 8 e.stat.toNat ++ toBytes 8 (e.sp.get (e.spIdx y.hasH)).toNat ++
              toBytes 8 (n % 2 ^ 16)
            ∀ z, (y.push ⟨c, some d.tring, none, .write, false, true, true⟩ (e.sp.get t) frame = (z, .ok ()) →
                s.gate c n = (z.modA c fun a =>
                  { a with sp := vset a.sp t (e.sp.get t - 32), stat := word (putBits a.stat.toNat 1 0 d.tring) }, .go d.entry)) ∧
              ∀ f, y.push ⟨c, some d.tring, none, .write, false, true, true⟩ (e.sp.get t) frame = (z, .error f) →
                s.gate c n = (z, .fault ⟨16, 2, 0, f.va, true, f.s2, false⟩)))))

/-- The ordering and waiting instructions of Table 2.9. -/
def Obligations.FencesAndHints : Prop :=
  (∀ (s u : State) (c : Fin 32) (w : IWord) (ins : Aelxel), s.aFetches c w ins u →
    let d := u.drainAll c
    let raises (cmd : Instr) (v : State) (f : Exn) : Prop := completes cmd s fun t => t = s.orWaits ((v.raise c f).stepDone c)
    let gives (cmd : Instr) (v : State) : Prop := v.held = false → completes cmd s (u.aSeq v · c)
    (∀ m, ins = .fence (.order m) → gives (.fence (.a c) w) (if m.getLsbD 1 then d.arriveAll c else d)) ∧
    (ins = .fence .i → gives (.fenceI (.a c) w) d) ∧
    (ins = .fence .d → gives (.fenceD (.a c) w) (d.arriveAll c)) ∧
    (ins = .spb → gives (.spb (.a c) w) d) ∧
    (ins = .nop → completes (.nop (.a c) w) s (u.aSeq u · c)) ∧
    (ins = .chkpt → raises (.chkpt (.a c) w) u (illegal w)) ∧
    (ins = .fence .t →
      let v := (d.tlbPend.filter fun p => p.src == c).foldl (fun s p => s.tlbEffect p) d
      let z := (allFin 32).foldl (fun s j => (s.drainAll j).arriveAll j) v
      gives (.fenceT (.a c) w) { z with tlbPend := z.tlbPend.filter fun p => p.src != c } ∧
      v = { d with acore := v.acore } ∧
      (∀ j, v.acore.get j = { d.acore.get j with tlb := (v.acore.get j).tlb, walk := (v.acore.get j).walk }) ∧
      (∀ p ∈ d.tlbPend, p.src = c → ∀ e ∈ (v.acore.get p.dst).tlb, p.op.hitsTlb p.world p.part e = false) ∧
      ∀ j, ∀ e ∈ (d.acore.get j).tlb,
        (∀ p ∈ d.tlbPend, p.src = c → p.dst = j → p.op.hitsTlb p.world p.part e = false) → e ∈ (v.acore.get j).tlb) ∧
    (∀ all, ins = .prflush all →
      let a := d.acore.get c
      if u.atH c = false ∧ (u.acore.get c).ring ≠ 0 then raises (.prflush (.a c) w) u (exn 2 0 0 (w.setWidth 64))
      else if all = true ∧ u.atH c = false ∧ u.hasH = true ∧ (u.acore.get c).secure = false then
        raises (.prflush (.a c) w) u { exn 3 2 0 (w.setWidth 64) with toH := true }
      else gives (.prflush (.a c) w)
        (d.modA c fun _ => { a with ret := [], pred := a.pred.filter fun e => !all && e.ctx != u.ctxTag c })) ∧
    (∀ b, ins = .prbar b → d.held = false → completes (.prbar (.a c) w) s fun t => ∃ st : Word,
      (∀ j, j ≠ 10 → st.getLsbD j = (d.acore.get c).stat.getLsbD j) ∧ st.getLsbD 10 = b ∧
      u.aSeq (d.modA c fun a => { a with stat := st }) t c) ∧
    (ins = .wfi →
      if u.atH c = false ∧ (u.acore.get c).ring ≠ 0 then raises (.wfi (.a c) w) u (exn 2 0 0 (w.setWidth 64))
      else gives (.wfi (.a c) w)
        (if d.irqPending c = true ∨ (d.acore.get c).haltReq = true then d else d.modA c fun a => { a with run := .wfi }))) ∧
  (∀ (s u : State) (i k : Fin 4) (w : IWord) (ins : Aelxel), s.tFetches i k w ins u →
    (ins = .fence .i → completes (.fenceI (.t i k) w) s (u.tSeqs · i k 1 [])) ∧
    (ins = .fence .t → completes (.fenceT (.t i k) w) s (u.tSeqs · i k 1 [])) ∧
    (ins = .spb → completes (.spb (.t i k) w) s (u.tSeqs · i k 1 [])) ∧
    (∀ b, ins = .prflush b → completes (.prflush (.t i k) w) s (u.tSeqs · i k 1 [])) ∧
    (∀ b, ins = .prbar b → completes (.prbar (.t i k) w) s (u.tSeqs · i k 1 [])) ∧
    (ins = .nop → completes (.nop (.t i k) w) s (u.tSeqs · i k 1 [])) ∧
    (∀ m, ins = .fence (.order m) → (m.getLsbD 1 = false ∨ ((u.tc i k).sb = [] ∧ (u.tc i k).outq = [] ∧ (u.island.get i).rel = [])) →
      completes (.fence (.t i k) w) s (u.tSeqs · i k 1 [])) ∧
    (∀ m, ins = .fence (.order m) → m.getLsbD 1 = true → (u.tc i k).sb = [] → ((u.tc i k).outq ≠ [] ∨ (u.island.get i).rel ≠ []) →
      completes (.fence (.t i k) w) s (· = s.orWaits ((u.tStalled i k).tHaltTry i k))) ∧
    (ins = .fence .d → (u.tc i k).sb = [] → (u.tc i k).outq = [] →
      completes (.fenceD (.t i k) w) s fun t =>
        if (u.island.get i).rel = [] then State.tSeqs (u.modIsl i fun x => { x with issued := [] }) t i k 1 [] else t = s.orWaits ((u.tStalled i k).tHaltTry i k)) ∧
    (ins = .wfi → completes (.wfi (.t i k) w) s fun t =>
      if u.tPending i k then u.tSeqs t i k 1 []
      else u.tRetires t i k 1 [] fun c => { c.goesOn with run := .wfi }) ∧
    (∀ code, ins = .brk code →
      completes (.brk (.t i k) w) s fun t => t = s.orWaits (((u.tWaited i k).tRaise i k (exn 5 0 code.toNat 0)).tStepDone i k)) ∧
    (ins = .chkpt → (u.island.get i).st ≠ .rejoinWait → completes (.chkpt (.t i k) w) s fun t =>
      u.tRetires t i k 1 [] fun r =>
        let c := r.goesOn
        { c with
          uncompared := c.uncompared ++ [⟨c.seq, c.pen⟩], pen := 0xFFFFFFFFFFFFFFFF, winCount := 0, seq := c.seq + 1 }))

/-- TLB operations (R188, R189, Table 5.9). -/
def Obligations.TlbOperations : Prop :=
  (∀ (s u : State) (c : Fin 32) (w : IWord) (o : TlbiOp) (p : Bool) (r1 : Reg), s.aFetches c w (.tlbi o p r1) u →
    let cmd : Instr := match o with
      | .va => .tlbiva (.a c) w | .vaAll => .tlbivaa (.a c) w | .pcid => .tlbipcid (.a c) w | .part => .tlbipart (.a c) w
      | .ipa => .tlbiipa (.a c) w | .s2 => .tlbis2 (.a c) w | .all => .tlbiall (.a c) w
    let needsH := o = .ipa ∨ o = .s2 ∨ o = .all
    let d := u.drainAll c
    let a := d.acore.get c
    let v := d.g c r1
    let scope (e : TlbEnt) : Prop := e.world = a.secure ∧ (d.tagPart c = none ∨ e.part = d.tagPart c)
    let covers (e : TlbEnt) (x : Nat) : Prop := e.va = x / 2 ^ e.bits * 2 ^ e.bits
    let hit (e : TlbEnt) : Prop := match o with
      | .va => scope e ∧ e.stage2 = false ∧ covers e (v.toNat % 2 ^ 48) ∧ (e.global = true ∨ e.pcid = a.pcid)
      | .vaAll => scope e ∧ e.stage2 = false ∧ covers e (v.toNat % 2 ^ 48)
      | .pcid => scope e ∧ e.stage2 = false ∧ e.global = false ∧ e.pcid = v.setWidth 10
      | .part => scope e ∧ e.stage2 = false
      | .ipa => scope e ∧ if e.stage2 then covers e v.toNat else e.ipa = some (v.toNat / 2 ^ e.bits * 2 ^ e.bits)
      | .s2 => e.world = a.secure ∧ e.part = some (v.toNat % 64)
      | .all => e.world = a.secure
    (u.atH c = true ∨ ((u.acore.get c).ring = 0 ∧ (¬ needsH ∨ (o = .all ∧ u.hasH = false))) →
      d.held = false → completes cmd s fun t => ∃ z : State, u.aSeq z t c ∧
        z = { d with
          acore := vset d.acore c { a with tlb := (z.acore.get c).tlb, walk := (z.acore.get c).walk }, tlbPend := z.tlbPend } ∧
        (∀ e, e ∈ (z.acore.get c).tlb ↔ e ∈ a.tlb ∧ ¬ hit e) ∧ (p = false → (z.acore.get c).walk = a.walk) ∧
        (∀ e ∈ (z.acore.get c).walk, e ∈ a.walk) ∧ (p = true → o = .all → ∀ e ∈ (z.acore.get c).walk, e.world ≠ a.secure) ∧
        ∃ l, z.tlbPend = d.tlbPend ++ l ∧
          ∀ j : Fin 32, (∃ x ∈ l, x.dst = j ∧ x.src = c ∧ x.op = d.tlbOpOf c o v ∧ x.world = a.secure ∧ x.part = d.tagPart c ∧ x.pbit = p) ↔
            j ≠ c ∧ (d.acore.get j).powered = true) ∧
    (u.atH c = false → (u.acore.get c).ring ≠ 0 →
      completes cmd s fun t => t = s.orWaits ((u.raise c (exn 2 0 0 (w.setWidth 64))).stepDone c)) ∧
    (u.atH c = false → (u.acore.get c).ring = 0 → needsH →
      (u.hasH = true → completes cmd s fun t => t = s.orWaits ((u.raise c { exn 3 2 0 (w.setWidth 64) with toH := true }).stepDone c)) ∧
      (u.hasH = false → o ≠ .all → completes cmd s fun t => t = s.orWaits ((u.raise c (exn 2 0 0 (w.setWidth 64))).stepDone c)))) ∧
  (∀ (s : State) (j : Fin 32),
    ((∀ p ∈ s.tlbPend, p.dst ≠ j) → exec (.tlbiRemoteEffect j) s = .next s) ∧
    (∀ l p r, s.tlbPend = l ++ p :: r → (∀ x ∈ l, x.dst ≠ j) → p.dst = j →
      completes (.tlbiRemoteEffect j) s fun t =>
        let b := t.acore.get j
        t = { s with acore := vset s.acore j { s.acore.get j with tlb := b.tlb, walk := b.walk }, tlbPend := l ++ r } ∧
        (∀ e, e ∈ b.tlb ↔ e ∈ (s.acore.get j).tlb ∧ p.op.hitsTlb p.world p.part e = false)))

/-- Cache operations (R222, Table 6.6). -/
def Obligations.CacheOperations : Prop :=
  (∀ (s u : State) (c : Fin 32) (w : IWord) (o : CacheOp) (r1 : Reg), s.aFetches c w (.cache o r1) u →
    let cmd : Instr := match o with
      | .dcc => .dcc (.a c) w | .dcci => .dcci (.a c) w | .dci => .dci (.a c) w | .ici => .ici (.a c) w | .zline => .zline (.a c) w
    let d := u.drainAll c
    let wr := o == .dci || o == .zline
    let k := d.ctx c (if wr then .write else .read) false
    let rule : TypeRule := fun t => if o = .zline ∧ isDev t then some (13, 0) else none
    let va := u.g c r1
    (o = .dci → u.atH c = false → (u.acore.get c).ring ≠ 0 →
      completes cmd s fun t => t = s.orWaits ((u.raise c (exn 2 0 0 (w.setWidth 64))).stepDone c)) ∧
    ((o ≠ .dci ∨ u.atH c = true ∨ (u.acore.get c).ring = 0) →
      (∀ v f, d.accsOf k rule va 1 = (v, .error f) → completes cmd s fun t => t = s.orWaits ((v.raise c f).stepDone c)) ∧
      (∀ v x l, d.accsOf k rule va 1 = (v, .ok (x :: l)) → v.held = false →
        (isDev x.type = true → completes cmd s (u.aSeq v · c)) ∧
        (isDev x.type = false → v.coreErr c x wr = none → (v.region x.pa).isHbm = false → completes cmd s (u.aSeq v · c)) ∧
        (isDev x.type = false → v.coreErr c x wr = none → (v.region x.pa).isHbm = true →
          let z := match o with
            | .dcc => v.dcc (x.pa / 64) (v.coreTc c)
            | .dcci => (v.dcc (x.pa / 64) (v.coreTc c)).invalidate (x.pa / 64)
            | .dci => v.dci (x.pa / 64)
            | .ici => v.ici (x.pa / 64)
            | .zline => v.zline c (x.pa / 64) x.type
          z.held = false → completes cmd s (u.aSeq z · c)) ∧
        (∀ r, isDev x.type = false → v.coreErr c x wr = some r →
          completes cmd s fun t => if o = .zline then u.aSeq (v.postedError (.core c) x.pa r) t c
            else t = s.orWaits ((v.raise c { exn 14 (respCode r) 0 va with wr := wr }).stepDone c))))) ∧
  (∀ (s : State) (line : Nat), let t := s.invalidate line
    (∀ p, (t.pod.get p).lines = kvDel line (s.pod.get p).lines) ∧ (t.home.get (homeIdx line)).slc = kvDel line (s.home.get (homeIdx line)).slc ∧
    ∀ c : Fin 32, line ∉ (t.acore.get c).l1d ∧ line ∉ (t.acore.get c).l1i) ∧
  (∀ (s : State) (line : Nat), let t := s.ici line
    (∀ c, line ∉ (t.acore.get c).l1i ∧ ∀ l, l ≠ line → (l ∈ (t.acore.get c).l1i ↔ l ∈ (s.acore.get c).l1i)) ∧
    (∀ c, t.acore.get c = { s.acore.get c with l1i := (t.acore.get c).l1i }) ∧ t = { s with acore := t.acore })

/-- The capability instructions of Table 2.11 (R90, R91). -/
def Obligations.Capabilities : Prop :=
  (∀ (s u : State) (i k : Fin 4) (w : IWord) (ins : Aelxel), s.tFetches i k w ins u →
    let cap := u.tcap i k
    let rec_ (v : Cap) : List Byte := toBytes 16 v.bits ++ [if v.tag then 1 else 0]
    let gives (cmd : Instr) (cd : Fin 16) (v : Cap) (n : Nat) : Prop :=
      completes cmd s fun t => (u.setTcap i k cd v).tSeqs t i k n (rec_ v)
    let refuses (cmd : Instr) (cause : Nat) (r : Fin 16) : Prop :=
      completes cmd s fun t => t = s.orWaits (((u.tWaited i k).tRaise i k (exn 24 cause r.val 0)).tStepDone i k)
    (∀ cd cs r, ins = .cmove cd cs r → gives (.cmove (.t i k) w) cd (cap cs) 1) ∧
    (∀ cd cs r, ins = .cclrt cd cs r → gives (.cclrt (.t i k) w) cd { cap cs with tag := false } 1) ∧
    (∀ cd cs r, ins = .cincb cd cs r → let c := cap cs; let v := (u.tg i k r).toNat
      if c.tag = false then refuses (.cincb (.t i k) w) 1 cs else if c.otype ≠ 0 then refuses (.cincb (.t i k) w) 2 cs
      else if c.len.toNat < v ∨ 2 ^ 64 ≤ c.base.toNat + v then refuses (.cincb (.t i k) w) 4 cs
      else gives (.cincb (.t i k) w) cd ⟨BitVec.ofNat 64 (c.base.toNat + v), BitVec.ofNat 48 (c.len.toNat - v), c.perms, 0, true⟩ 1) ∧
    (∀ cd cs r, ins = .csetl cd cs r → let c := cap cs; let v := (u.tg i k r).toNat
      if c.tag = false then refuses (.csetl (.t i k) w) 1 cs else if c.otype ≠ 0 then refuses (.csetl (.t i k) w) 2 cs
      else if c.len.toNat < v then refuses (.csetl (.t i k) w) 4 cs
      else gives (.csetl (.t i k) w) cd ⟨c.base, BitVec.ofNat 48 v, c.perms, 0, true⟩ 1) ∧
    (∀ cd cs r, ins = .candp cd cs r → let c := cap cs
      if c.tag = false then refuses (.candp (.t i k) w) 1 cs else if c.otype ≠ 0 then refuses (.candp (.t i k) w) 2 cs
      else gives (.candp (.t i k) w) cd ⟨c.base, c.len, c.perms &&& (u.tg i k r).setWidth 8, 0, true⟩ 1) ∧
    (∀ cd cs ct, ins = .cseal cd cs ct → let c := cap cs; let x := cap ct
      if c.tag = false then refuses (.cseal (.t i k) w) 1 cs else if x.tag = false then refuses (.cseal (.t i k) w) 1 ct
      else if c.otype ≠ 0 then refuses (.cseal (.t i k) w) 2 cs else if x.otype ≠ 0 then refuses (.cseal (.t i k) w) 2 ct
      else if x.perms.getLsbD 5 = false then refuses (.cseal (.t i k) w) 3 ct
      else if x.base.toNat = 0 ∨ 0xFE < x.base.toNat then refuses (.cseal (.t i k) w) 5 ct
      else gives (.cseal (.t i k) w) cd ⟨c.base, c.len, c.perms, x.base.setWidth 8, true⟩ 2) ∧
    (∀ cd cs ct, ins = .cunseal cd cs ct → let c := cap cs; let x := cap ct
      if c.tag = false then refuses (.cunseal (.t i k) w) 1 cs else if x.tag = false then refuses (.cunseal (.t i k) w) 1 ct
      else if x.otype ≠ 0 then refuses (.cunseal (.t i k) w) 2 ct
      else if x.perms.getLsbD 6 = false then refuses (.cunseal (.t i k) w) 3 ct
      else if x.base.toNat ≠ c.otype.toNat then refuses (.cunseal (.t i k) w) 5 ct
      else gives (.cunseal (.t i k) w) cd ⟨c.base, c.len, c.perms, 0, true⟩ 2) ∧
    (∀ fd rd cs r, ins = .cget fd rd cs r →
      let c := cap cs
      let cmd : Instr := match fd with
        | .base => .cgetb (.t i k) w | .len => .cgetl (.t i k) w | .perms => .cgetp (.t i k) w
        | .otype => .cgett (.t i k) w | .tag => .cgetg (.t i k) w
      let v : Word := match fd with
        | .base => c.base | .len => word c.len.toNat | .perms => word c.perms.toNat | .otype => word c.otype.toNat
        | .tag => if c.tag then 1 else 0
      completes cmd s fun t => (u.setTg i k rd v).tSeqs t i k 1 (if rd = 0 then [] else toBytes 8 v.toNat))) ∧
  (∀ (cap : Fin 16 → Cap) (g : Reg → Word) (ins : Aelxel) cd (v : Cap), capResult cap g ins = some (cd, .ok v) →
    ∃ cs, (v.tag = true → (cap cs).tag = true) ∧ (v.perms &&& (cap cs).perms = v.perms) ∧ (cap cs).base.toNat ≤ v.base.toNat ∧
      v.base.toNat + v.len.toNat ≤ (cap cs).base.toNat + (cap cs).len.toNat) ∧
  (∀ (s u : State) (c : Fin 32) (w : IWord) (ins : Aelxel), s.aFetches c w ins u →
    ∀ mk ∈ ([.cmove, .cincb, .csetl, .candp, .cseal, .cunseal, .cclrt, .cgetb, .cgetl, .cgetp, .cgett, .cgetg, .ccall, .cret, .cmfc,
        .cmtc, .clc, .csc, .loop, .chkpt] : List (CoreId → IWord → Instr)), (mk (.a c) w).wf = true →
      completes (mk (.a c) w) s fun t => t = s.orWaits ((u.raise c (illegal w)).stepDone c))

/-- Loops and the protected call of a T-core (R84 to R88, R93, R94, R292). -/
def Obligations.LoopsAndProtectedCalls : Prop :=
  (∀ (s u : State) (i k : Fin 4) (w : IWord) (ins : Aelxel), s.tFetches i k w ins u →
    let c := u.tc i k
    let cap := u.tcap i k
    let rec_ (v : Cap) : List Byte := toBytes 16 v.bits ++ [if v.tag then 1 else 0]
    let refuses (cmd : Instr) (cause : Nat) (r : Nat) : Prop :=
      completes cmd s fun t => t = s.orWaits (((u.tWaited i k).tRaise i k (exn 24 cause r 0)).tStepDone i k)
    (∀ l imm len cnt, ins = .loop l imm len cnt →
      let le := c.pc + word (4 * len.toNat)
      let n : BitVec 32 := if imm then cnt.setWidth 32 else (u.tg i k ⟨cnt.toNat / 512, by omega⟩).setWidth 32
      let inner := (c.ls.get 0).toNat ≤ (c.pc + 4).toNat ∧ le.toNat < (c.le.get 0).toNat
      if len ≠ 0 ∧ c.lc.get l = 0 ∧ (l = 0 → c.lc.get 1 = 0) ∧ (l = 1 → c.lc.get 0 ≠ 0 → inner) then
        completes (.loop (.t i k) w) s fun t => u.tRetires t i k 2 [] fun r =>
          let d := { r with ls := vset c.ls l (c.pc + 4), le := vset c.le l le, lc := vset c.lc l n }
          if n = 0 then { d with pc := le + 4, delay := none, slotClears := false } else d.goesOn
      else completes (.loop (.t i k) w) s fun t => t = s.orWaits (((u.tWaited i k).tRaise i k (illegal w)).tStepDone i k)) ∧
    (∀ rs rt, ins = .ccall rs rt → let cs := cap rs; let ct := cap rt
      if cs.tag = false then refuses (.ccall (.t i k) w) 1 rs.val else if ct.tag = false then refuses (.ccall (.t i k) w) 1 rt.val
      else if cs.perms.getLsbD 7 = false ∨ cs.perms.getLsbD 2 = false then refuses (.ccall (.t i k) w) 3 rs.val
      else if ct.perms.getLsbD 7 = false then refuses (.ccall (.t i k) w) 3 rt.val
      else if cs.otype = 0 ∨ cs.otype = 0xFF ∨ cs.otype ≠ ct.otype then refuses (.ccall (.t i k) w) 6 rs.val
      else completes (.ccall (.t i k) w) s fun t =>
        let c14 : Cap := { c.c.get 0 with otype := 0xFF }
        let c15 : Cap := { c.pcc with otype := 0xFF }
        let c0 : Cap := { ct with otype := 0 }
        u.tRetires t i k 4 (toBytes 8 (c.pc + 4).toNat ++ rec_ c14 ++ rec_ c15 ++ rec_ c0) fun r => { r with
          c := vset (vset (vset c.c 14 c14) 15 c15) 0 c0, g := vset c.g 1 (c.pc + 4), pcc := { cs with otype := 0 }, pc := cs.base,
          delay := none, slotClears := false }) ∧
    (∀ rs rt, ins = .cret rs rt → let cs := cap rs; let ct := cap rt
      if cs.tag = false then refuses (.cret (.t i k) w) 1 rs.val else if ct.tag = false then refuses (.cret (.t i k) w) 1 rt.val
      else if cs.otype ≠ 0xFF then refuses (.cret (.t i k) w) 7 rs.val else if ct.otype ≠ 0xFF then refuses (.cret (.t i k) w) 7 rt.val
      else completes (.cret (.t i k) w) s fun t =>
        u.tRetires t i k 4 (rec_ { ct with otype := 0 }) fun r => { r with
          c := vset c.c 0 { ct with otype := 0 }, pcc := { cs with otype := 0 }, pc := u.tg i k 1, delay := none, slotClears := false }) ∧
    (∀ cd (n : Fin 2), ins = .cmfc cd n →
      completes (.cmfc (.t i k) w) s fun t =>
        (u.setTcap i k cd (if n = 0 then c.tvb else c.pcc)).tSeqs t i k 1 (rec_ (if n = 0 then c.tvb else c.pcc))) ∧
    (∀ r, ins = .cmtc r → let v := cap r
      let bad (cause : Nat) : Prop := refuses (.cmtc (.t i k) w) cause 0x11
      if v.tag = false then bad 1 else if v.otype ≠ 0 then bad 2
      else if v.perms.getLsbD 0 = false ∨ v.perms.getLsbD 2 = false then bad 3
      else if v.base.toNat % 8 ≠ 0 ∨ v.len.toNat < 0x800 ∨ 0x40000 < v.base.toNat + v.len.toNat then bad 8
      else completes (.cmtc (.t i k) w) s fun t => State.tSeqs (u.modTc i k fun c => { c with tvb := v }) t i k 3 [])) ∧
  (∀ c : TCore, c.delay = none →
    (∀ l : Fin 2, (l = 0 → ¬ (c.lc.get 1 ≠ 0 ∧ c.pc = c.le.get 1)) → c.lc.get l ≠ 0 → c.pc = c.le.get l →
      (l = 1 → c.lc.get 1 = 1 → c.lc.get 0 ≠ 0 → c.pc ≠ c.le.get 0) →
      c.goesOn = { c with
        lc := vset c.lc l (c.lc.get l - 1), pc := if (c.lc.get l).toNat = 1 then c.pc + 4 else c.ls.get l }) ∧
    (c.lc.get 1 = 1 → c.pc = c.le.get 1 → c.lc.get 0 ≠ 0 → c.pc = c.le.get 0 →
      c.goesOn = { c with
        lc := vset (vset c.lc 1 0) 0 (c.lc.get 0 - 1), pc := if (c.lc.get 0).toNat = 1 then c.pc + 4 else c.ls.get 0 }) ∧
    ((∀ l : Fin 2, c.lc.get l ≠ 0 → c.pc ≠ c.le.get l) → c.goesOn = { c with pc := c.pc + 4 })) ∧
  (∀ (c : TCore) (d : Delay), c.delay = some d → ∀ l : Fin 2,
    c.goesOn.pc = d.next ∧ c.goesOn.delay = none ∧
    c.goesOn.lc.get l = if c.slotClears = true ∧ ¬ ((c.ls.get l).toNat ≤ d.next.toNat ∧ d.next.toNat ≤ (c.le.get l).toNat) then 0
      else c.lc.get l)

/-- The memory of a T-core in its own TCMs, and its store buffer (R267, R279, R291, Table 8.4). -/
def Obligations.MemoryOfTCores : Prop :=
  (∀ (s u : State) (i k : Fin 4) (w : IWord) op rd r1 imm, s.tFetches i k w (.load op rd r1 imm) u →
    let c := u.tc i k
    let a := u.tg i k r1 + imm.signExtend 64
    let n := LdOp.size op
    let p := tcmPa i k a.toNat
    let res (z : State) (v cyc : Nat) (t : State) : Prop :=
      let x := LdOp.value op v
      if op = .flw ∨ op = .fld then (z.setTf i k rd x).tSeqs t i k cyc (toBytes 8 x.toNat)
      else (z.setTg i k rd x).tSeqs t i k cyc (if rd = 0 then [] else toBytes 8 x.toNat)
    let cross := if 8 < a.toNat % 8 + n then 1 else 0
    (∀ f, u.tCheck i k a n permR false = some f → ∀ ev,
      completes (.load (.t i k) w ev) s fun t => t = s.orWaits (((u.tWaited i k).tRaise i k f).tStepDone i k)) ∧
    (u.tCheck i k a n permR false = none → ∀ ev kind, tKind a.toNat n = kind → kind = .itcm ∨ kind = .dtcm →
      (kind = .dtcm → ∀ e ∈ c.sb, e.meets a.toNat n = false) →
      let z := u.tEcc i k kind a.toNat n ev
      (z.eccBad p n = false → completes (.load (.t i k) w ev) s
        (res z (ofBytes (Memory.read u.mem p n)) ((if kind = .itcm then 4 else 3) + cross))) ∧
      (z.eccBad p n = true → completes (.load (.t i k) w ev) s fun t =>
        t = s.orWaits (((z.tWaited i k).tRaise i k (exn 17 1 0 a)).tStepDone i k))) ∧
    (∀ old young e, u.tCheck i k a n permR false = none → tKind a.toNat n = .dtcm → c.sb = old ++ e :: young →
      (∀ y ∈ young, y.meets a.toNat n = false) → e.covers a.toNat n = true → ∀ ev,
      completes (.load (.t i k) w ev) s (res u (e.data.toNat / 2 ^ (8 * (a.toNat - e.addr)) % 2 ^ (8 * n)) (3 + cross)))) ∧
  (∀ (s u : State) (i k : Fin 4) (w : IWord) op rt r1 imm, s.tFetches i k w (.store op rt r1 imm) u →
    let c := u.tc i k
    let a := u.tg i k r1 + imm.signExtend 64
    let n := StOp.size op
    let v := (if op = .fsw ∨ op = .fsd then u.tf i k rt else u.tg i k rt).toNat % 2 ^ (8 * n)
    (∀ f, u.tCheck i k a n permW false = some f →
      completes (.store (.t i k) w) s fun t => t = s.orWaits (((u.tWaited i k).tRaise i k { f with wr := true }).tStepDone i k)) ∧
    (u.tCheck i k a n permW false = none → tKind a.toNat n = .itcm →
      completes (.store (.t i k) w) s fun t => t = s.orWaits (((u.tWaited i k).tRaise i k { exn 14 3 0 a with wr := true }).tStepDone i k)) ∧
    (u.tCheck i k a n permW false = none → tKind a.toNat n ≠ .itcm → c.sb.length < 4 →
      completes (.store (.t i k) w) s fun t =>
        let own := isDtcm a.toNat
        let e : TStore := ⟨a.toNat, n, BitVec.ofNat 128 v, false, if own then 0 else c.qpos⟩
        State.tSeqs (u.modTc i k fun c => { c with sb := c.sb ++ [e], qpos := if own then c.qpos else c.qpos + 1 }) t i k 1
          (toBytes 8 a.toNat ++ toBytes 8 v))) ∧
  (∀ (s u : State) (i k : Fin 4) (w : IWord) cd r1 imm, s.tFetches i k w (.clc cd r1 imm) u →
    let a := u.tg i k r1 + imm.signExtend 64
    let p := tcmPa i k a.toNat
    (a.toNat % 16 ≠ 0 → completes (.clc (.t i k) w) s fun t => t = s.orWaits (((u.tWaited i k).tRaise i k (exn 7 0 0 a)).tStepDone i k)) ∧
    (u.tCheck i k a 16 0x09 true = none → ∀ kind, tKind a.toNat 16 = kind → kind = .itcm ∨ kind = .dtcm →
      (kind = .dtcm → ∀ e ∈ (u.tc i k).sb, e.meets a.toNat 16 = false) →
      let z := u.tEcc i k kind a.toNat 16 .good
      z.eccBad p 16 = false → ∃ t, exec (.clc (.t i k) w) s = .next t ∧
        let v := Cap.ofBits (ofBytes (Memory.read u.mem p 16)) (kind == .dtcm && u.tags.contains (p / 16 * 16))
        (z.setTcap i k cd v).tSeqs t i k (if kind = .itcm then 4 else 3) (toBytes 16 v.bits ++ [if v.tag then 1 else 0]))) ∧
  (∀ (s u : State) (i k : Fin 4) (w : IWord) cs r1 imm, s.tFetches i k w (.csc cs r1 imm) u →
    let a := u.tg i k r1 + imm.signExtend 64
    let v := u.tcap i k cs
    (a.toNat % 16 ≠ 0 → completes (.csc (.t i k) w) s fun t => t = s.orWaits (((u.tWaited i k).tRaise i k { exn 7 0 0 a with wr := true }).tStepDone i k)) ∧
    (u.tCheck i k a 16 0x12 true = none → tKind a.toNat 16 ≠ .itcm → (u.tc i k).sb.length < 4 →
      ∃ t, exec (.csc (.t i k) w) s = .next t ∧
        let own := isDtcm a.toNat
        State.tSeqs (u.modTc i k fun c => { c with
          sb := c.sb ++ [⟨a.toNat, 16, BitVec.ofNat 128 v.bits, own && v.tag, if own then 0 else c.qpos⟩]
          qpos := if own then c.qpos else c.qpos + 1 }) t i k 1 (toBytes 8 a.toNat ++ toBytes 16 v.bits))) ∧
  (∀ (s : State) (i k : Fin 4) ev, (s.tc i k).sb = [] ∨ (s.tc i k).role ≠ .active → exec (.tStoreBufferDrain i k ev) s = .next s) ∧
  (∀ (s : State) (i k : Fin 4) ev (e : TStore) (r : List TStore), (s.tc i k).sb = e :: r → (s.tc i k).role = .active →
    (isDtcm e.addr = true → s.mirror i k = none → s.canon → ∃ t, exec (.tStoreBufferDrain i k ev) s = .next t ∧
      let p := tcmPa i k e.addr
      let u := s.mergeEcc i k.val e.addr p e.size 2 ev
      t = { u with island := (s.modTc i k fun c => { c with sb := r }).island, mem := t.mem, tags := t.tags, ecc := t.ecc } ∧
      (p % 8 = 0 → e.size % 8 = 0 → u = { s with ecc := u.ecc }) ∧
      (p % 8 + e.size ≤ 8 → ¬ (p % 8 = 0 ∧ 8 ≤ e.size) → 0 < e.size → ev = .single → kvGet? s.ecc (p / 8 * 8) ≠ some true →
        u = { s with ecc := u.ecc }.record (bankIsland i) 0x02 k.val 0 e.addr 2) ∧
      (p % 8 = 0 → e.size % 8 = 0 → t.eccBad p e.size = false) ∧
      (¬ (p % 8 = 0 ∧ 8 ≤ e.size) → 0 < e.size → (ev = .multi ∨ kvGet? s.ecc (p / 8 * 8) = some true) → t.eccBad p e.size = true) ∧
      (∀ x, x < p ∨ p + e.size ≤ x → Memory.get t.mem x = Memory.get s.mem x) ∧
      (∀ j, j < e.size → Memory.get t.mem (p + j) = BitVec.ofNat 8 (e.data.toNat / 2 ^ (8 * j)))) ∧
    (isDtcm e.addr = false → (s.tc i k).outq.length < 16 → ∃ t, exec (.tStoreBufferDrain i k ev) s = .next t ∧
      t = { s with island := (s.modTc i k fun c => { c with sb := r, outq := c.outq ++ [e] }).island, ent := t.ent }) ∧
    (isDtcm e.addr = false → 16 ≤ (s.tc i k).outq.length → exec (.tStoreBufferDrain i k ev) s = .next s))

/-- Atomics and far accesses of a T-core (R71, R270 to R273). -/
def Obligations.AtomicsAndFarAccessesOfTCores : Prop :=
  (∀ (s u : State) (i k : Fin 4) (w : IWord) (op : AmoOp) aq rl dbl rd r1 r2, s.tFetches i k w (.amo op aq rl dbl rd r1 r2) u →
    let cmd : Instr := if op = .cas then .cas (.t i k) w else .amo (.t i k) w
    let a := u.tg i k r1
    let n := if dbl then 8 else 4
    let p := tcmPa i k a.toNat
    (a.toNat % n ≠ 0 → completes cmd s fun t => t = s.orWaits (((u.tWaited i k).tRaise i k { exn 7 0 0 a with wr := true }).tStepDone i k)) ∧
    (u.tCheck i k a n 3 true = none → (u.tc i k).sb = [] → (u.tc i k).outq = [] → (u.island.get i).rel = [] →
      let y := u.tEcc i k .dtcm a.toNat n .good
      (tKind a.toNat n = .dtcm → u.mirror i k = none → y.eccBad p n = true →
        completes cmd s fun t => t = s.orWaits (((y.tWaited i k).tRaise i k { exn 17 1 0 a with wr := false }).tStepDone i k)) ∧
      (tKind a.toNat n = .dtcm → u.mirror i k = none → y.eccBad p n = false → s.canon →
        completes cmd s fun t =>
          let old := Memory.read u.mem p n
          ∃ v : State, v = { y with mem := v.mem, tags := v.tags, ecc := v.ecc } ∧
            (∀ x, x < p ∨ p + n ≤ x → Memory.get v.mem x = Memory.get u.mem x) ∧
            Memory.read v.mem p n = amoBytes op old (u.tg i k r2) (u.tg i k rd) ∧
            (v.setTg i k rd (amoOld old)).tSeqs t i k 4
              ((if rd = 0 then [] else toBytes 8 (amoOld old).toNat) ++ toBytes 8 a.toNat ++ toBytes 8 (u.tg i k r2).toNat)) ∧
      (u.tDev (tKind a.toNat n) = true → completes cmd s fun t =>
        t = s.orWaits (((u.tWaited i k).tRaise i k { exn 13 0 0 a with wr := true }).tStepDone i k)) ∧
      (∀ q, tKind a.toNat n = .far q → u.tDev (.far q) = false → u.doneAt i k a.toNat false = none →
        (∀ x ∈ (u.island.get i).port, x.pos ≠ (u.tc i k).instret) → (u.island.get i).matched < 2 →
        completes cmd s fun t =>
          let kind : FarKind := .amo op (u.tg i k r2) (u.tg i k rd)
          let c := u.tc i k
          t = s.orWaits ((u.modIsl i fun x => { x with
            port := x.port ++ [⟨c.instret, c.entries, a.toNat, n, kind, [k], false, false, none⟩]
            slots := vset x.slots k { c with far := some ⟨c.instret, c.entries, a.toNat, n, kind, w⟩ } }).tHaltTry i k)))) ∧
  (∀ (s u : State) (i k : Fin 4) (w : IWord) dbl rd r1, s.tFetches i k w (.lda dbl rd r1) u →
    let a := u.tg i k r1
    let n := if dbl then 8 else 4
    let p := tcmPa i k a.toNat
    (a.toNat % n ≠ 0 → completes (.lda (.t i k) w) s fun t => t = s.orWaits (((u.tWaited i k).tRaise i k (exn 7 0 0 a)).tStepDone i k)) ∧
    (u.tCheck i k a n 3 true = none → tKind a.toNat n = .dtcm → (u.tc i k).sb = [] →
      let y := u.tEcc i k .dtcm a.toNat n .good
      y.eccBad p n = false → completes (.lda (.t i k) w) s fun t =>
        let x := amoOld (Memory.read u.mem p n)
        (y.setTg i k rd x).tSeqs t i k 3 (if rd = 0 then [] else toBytes 8 x.toNat))) ∧
  (∀ (s u : State) (i k : Fin 4) (w : IWord) dbl r1 r2, s.tFetches i k w (.stl dbl r1 r2) u →
    let a := u.tg i k r1
    let n := if dbl then 8 else 4
    let v := (u.tg i k r2).toNat % 2 ^ (8 * n)
    (a.toNat % n ≠ 0 → completes (.stl (.t i k) w) s fun t => t = s.orWaits (((u.tWaited i k).tRaise i k { exn 7 0 0 a with wr := true }).tStepDone i k)) ∧
    (u.tCheck i k a n 3 true = none → tKind a.toNat n = .dtcm → isDtcm a.toNat = true → (u.tc i k).sb = [] → (u.tc i k).outq = [] →
      (u.island.get i).rel = [] → completes (.stl (.t i k) w) s fun t =>
        State.tSeqs (u.modTc i k fun c => { c with sb := [⟨a.toNat, n, BitVec.ofNat 128 v, false, 0⟩] }) t i k 1
          (toBytes 8 a.toNat ++ toBytes 8 v))) ∧
  (∀ (s : State) (i : Fin 4) (n : Nat), (∀ x, (s.island.get i).port[n]? = some x → x.issued = false) →
    exec (.farLoadData i n) s = .next s) ∧
  (∀ (s v : State) (i k : Fin 4) (n q d : Nat) (x : PortTxn) (f : FarWait) op rd r1 imm, (s.island.get i).port[n]? = some x →
    x.issued = true → x.dropped = false → x.kind = .load → x.cores = [k] → decodeWord f.w = some (.load op rd r1 imm) →
    tKind x.addr x.size = .far q → x.crossing = none →
    State.farRead { s with held := false } i q x.size = (v, okData d false) → v.held = false → d < 2 ^ 128 →
    (v.tc i k).far = some f → f.of x = true → (v.tc i k).parked = none → v.due i k = none →
    (v.island.get i).active.contains k = true →
    (v.tc i k).run = .running → (v.tc i k).haltReq = false → (v.tc i k).step1 = false →
    ∃ t, exec (.farLoadData i n) s = .next t ∧
      let c := t.tc i k
      let b := v.tc i k
      (if op = .flw ∨ op = .fld then c.f = vset b.f rd (LdOp.value op d) ∧ c.g = b.g
        else c.f = b.f ∧ c.g = if rd = 0 then b.g else vset b.g rd (LdOp.value op d)) ∧
      c.far = none ∧ c.instret = b.instret + 1 ∧ c.c = b.c ∧ c.sb = b.sb ∧ c.outq = b.outq ∧
      (t.island.get i).port = (v.island.get i).port.eraseIdx n ∧
      (∀ j, j ≠ k → t.tc i j = v.tc i j) ∧ (∀ j, j ≠ i → t.island.get j = v.island.get j) ∧
      t.mem = v.mem ∧ t.acore = v.acore ∧ t.home = v.home ∧ t.hazel = v.hazel ∧ t.gw = v.gw) ∧
  (∀ (s v : State) (i : Fin 4) (n q m : Nat) (x : PortTxn) (d : PortData), (s.island.get i).port[n]? = some x → x.issued = true →
    (x.dropped && x.kind.paired) = false → x.crossing = some (q, m) → x.lower = none →
    State.farPart { s with held := false } i q m = (v, d) → d.resp = none →
    exec (.farLoadData i n) s = .next (s.orWaits (v.modIsl i fun y => { y with port := y.port.modify n fun z => { z with lower := some d } })))

/-- How a source becomes pending (R162, R544, R166). -/
def Obligations.InterruptSources : Prop :=
  ∀ s : State, s.canon →
    (∀ r, (∀ m, r ≠ .msi m) → srcExists (srcRefKey r) = true →
      let k := srcRefKey r
      let x := s.src k
      completes (.irqPulse r) s (fun t => ∃ y, s.srcBecomes t k y ∧ x.asserted k y) ∧
      (x.line = false → completes (.irqInputAssert r true) s fun t => ∃ y, y.line = true ∧ s.srcBecomes t k y ∧
        if srcEdge k x then x.asserted k { y with line := false } else y = { x with line := true }) ∧
      (x.line = true → completes (.irqInputAssert r false) s fun t => s.srcBecomes t k { x with line := false }) ∧
      ∀ l, x.line = l → completes (.irqInputAssert r l) s fun t => t = s) ∧
    (∀ m r v cmd, cmd = .setpend m r v ∨ cmd = .clrpend m r v →
      let k := srcRefKey r
      let x := s.src k
      let may : Prop := (x.secure = true → s.masterSecure m = true) ∧ (∀ c j, r = .priv c j → s.masterSecure m = true ∨ m = .core c)
      ((∃ n, r = .wired n ∧ n.val < 32) → completes cmd s fun t => t = { s with reply := .error .decerr }) ∧
      ((∀ n, r = .wired n → 32 ≤ n.val) →
        (¬ may → completes cmd s fun t => t = { s with reply := .error .wlderr }) ∧
        (may → v.getLsbD 8 = true → srcExists k = true → completes cmd s fun t => ∃ y, s.srcBecomes t k y ∧ x.asserted k y) ∧
        (may → v.getLsbD 8 = false → v.getLsbD 9 = true → srcEdge k x = true →
          completes cmd s fun t => s.srcBecomes t k { x with pend := false }) ∧
        (may → v.getLsbD 8 = false → (v.getLsbD 9 = false ∨ srcEdge k x = false) → completes cmd s fun t => t = s))) ∧
    (∀ k size v,
      (size = 4 → v.toNat < 2048 → completes (.msiDoorbell k size v) s fun t =>
        ∃ y, s.srcBecomes t (1024 + v.toNat) y ∧ (s.src (1024 + v.toNat)).asserted (1024 + v.toNat) y) ∧
      (size ≠ 4 ∨ 2048 ≤ v.toNat → completes (.msiDoorbell k size v) s fun t => t = s.record bankPcie 0x2D k.val 0 0 v.toNat))

/-- Claims, ends, injections and SGIs (R163 to R165, R545, Table 4.13). -/
def Obligations.InterruptClaims : Prop :=
  (∀ (s : State) (c : Fin 32), s.canon →
    let fits (k : Nat) : Prop := let x := s.src k
      srcPend k x = true ∧ x.active = false ∧ x.en = true ∧ 0 < x.prio ∧ x.secure = (s.acore.get c).secure ∧
      if 4096 ≤ k then ∃ j, j < 19 ∧ k = privKey c.val j else srcKind k x = 0 ∧ x.target = c.val
    (s.coreOffer c = none ↔ ∀ k, ¬ fits k) ∧
    ∀ k, s.coreOffer c = some k → fits k ∧
      ∀ j, fits j → (s.src j).prio < (s.src k).prio ∨ ((s.src j).prio = (s.src k).prio ∧ srcId k ≤ srcId j)) ∧
  (∀ s : State, s.canon →
    let claims (cmd : Instr) (w : Claimer) (offer : Option Nat) (acc : AckAcc) : Prop :=
      ((acc = .high ∨ offer = none) → completes cmd s fun t => t = { s with reply := .value 0 }) ∧
      ∀ k, acc ≠ .high → offer = some k → completes cmd s fun t =>
        let x := s.src k
        ∃ v : State, s.srcBecomes v k { x with pend := false, setp := false, active := true, by_ := some w } ∧
          t = { v with reply := .value (word (srcId k + x.prio * 2 ^ 16 + x.vec * 2 ^ 20 + 2 ^ 31)) }
    let ends (cmd : Instr) (w : Claimer) (k : Nat) : Prop :=
      let x := s.src k
      (x.active = true → x.by_ = some w → completes cmd s fun t =>
        s.srcBecomes t k { x with active := false, by_ := none, cfg := x.next.getD x.cfg, next := none }) ∧
      ((x.active = false ∨ x.by_ ≠ some w) → completes cmd s fun t => t = s)
    let refused (cmd : Instr) : Prop := completes cmd s fun t => t = { s with reply := .error .wlderr }
    (∀ m c acc v, if s.masterSecure m = true ∨ m = .core c then
        claims (.irqAck m c acc) (.core c) (s.coreOffer c) acc ∧
        ends (.irqEoi m c v) (.core c) (let id := v.toNat % 4096; if id < 32 then privKey c.val id else id)
      else refused (.irqAck m c acc) ∧ refused (.irqEoi m c v) ∧ refused (.irqSgi m c v)) ∧
    (∀ m p acc v, if s.masterSecure m = true ∨ ∃ c, m = .core c ∧ s.corePart c = some p.val then
        claims (.virqAck m p acc) (.virt p) (s.virtOffer p) acc ∧ ends (.virqEoi m p v) (.virt p) (v.toNat % 4096)
      else refused (.virqAck m p acc) ∧ refused (.virqEoi m p v)) ∧
    (∀ m p v,
      let k := v.toNat % 4096
      let x := s.src k
      let may := s.masterSecure m = true ∨
        (x.secure = false ∧ ∃ c, m = .core c ∧ s.hasH = true ∧ (s.acore.get c).lh = true ∧ (s.acore.get c).secure = s.partSecure p.val)
      (¬ may → refused (.virqInj m p v)) ∧
      (may → 32 ≤ k → k < 3072 → srcExists k = true → srcKind k x = 1 → x.target = p.val →
        completes (.virqInj m p v) s fun t => ∃ y, s.srcBecomes t k y ∧ x.asserted k y) ∧
      (may → (k < 32 ∨ 3072 ≤ k ∨ srcKind k x ≠ 1 ∨ x.target ≠ p.val) → completes (.virqInj m p v) s fun t => t = s)) ∧
    (∀ m c v, s.masterSecure m = true ∨ m = .core c → completes (.irqSgi m c v) s fun t =>
      let n := v.toNat / 2 ^ 32 % 16
      t = { s with irq := { t.irq with virqCtl := s.irq.virqCtl, hadVirt := s.irq.hadVirt } } ∧
      (∀ d : Fin 32, let k := privKey d.val n
        if v.getLsbD d.val = true ∧ (s.src k).secure = s.masterSecure m then (s.src k).asserted k (t.src k)
        else t.src k = s.src k) ∧
      ∀ j, (∀ d : Fin 32, j ≠ privKey d.val n) → t.src j = s.src j))

/-- What an A-core's memory side does beside its instructions (R113 to R124). -/
def Obligations.CoreMemoryEvents : Prop :=
  (∀ (s : State) (c : Fin 32),
    let a := s.acore.get c
    let u : State := { s with held := false }
    let rest (v : State) : State := v.arriveSome c fun _ => false
    (a.sb = [] → a.posted = [] → exec (.storeBufferDrain c) s = .next s) ∧
    (a.sb = [] → completes (.storeBufferDrain c) s fun t => t = s.orWaits (rest u)) ∧
    ∀ (e : StoreEnt) r, a.sb = e :: r →
      (e.parts = [] → completes (.storeBufferDrain c) s fun t =>
        t = s.orWaits (rest { u with acore := vset s.acore c { a with sb := r } })) ∧
      ∀ p ps, e.parts = p :: ps → completes (.storeBufferDrain c) s fun t =>
        let x : State := { u with acore := vset s.acore c { a with sb := if ps = [] then r else { e with parts := ps } :: r } }
        t = s.orWaits (rest (x.storePart c e.husk p.type p.addr p.data))) ∧
  (∀ (s : State) (c : Fin 32) (husk : Option Nat) (ty : MemType) (a : Nat) (d : List Byte), s.canon →
    let t := s.storePart c husk ty a d
    (∀ r, s.accessErr (.core c) (some ty) a d.length true = some r → t = s.postedError (.core c) a r) ∧
    (s.accessErr (.core c) (some ty) a d.length true = none →
      (s.huskRefuses (.core c) husk a = true → t = (s.huskRecord (.core c) a).postedError (.core c) a .wlderr) ∧
      (s.huskRefuses (.core c) husk a = false →
        ((s.region a).isHbm = true →
          (s.fatalBank (bankSlice (homeIdx (a / 64))) = true → t = s.postedError (.core c) a .wlderr) ∧
          (s.fatalBank (bankSlice (homeIdx (a / 64))) = false → t = s.coreWrite c (a / 64) (a % 64) d ty)) ∧
        ((∃ i k b o, s.region a = .tcm i k b o) ∨ (∃ i o, s.region a = .shared i o) ∨ s.region a = .secSram →
          t = { s with mem := t.mem, tags := t.tags, ecc := t.ecc, sent := t.sent } ∧
          (∀ x, x < a ∨ a + d.length ≤ x → Memory.get t.mem x = Memory.get s.mem x) ∧
          (∀ j, j < d.length → Memory.get t.mem (a + j) = d.getD j 0) ∧
          ∀ g ∈ t.tags, g ∈ s.tags ∧ (g + 16 ≤ a ∨ a + d.length ≤ g))))) ∧
  (∀ (s : State) (c : Fin 32), (s.acore.get c).wait = none → exec (.partialOverlapReissue c) s = .next s) ∧
  (∀ (s u v : State) (c : Fin 32) (w : IWord) op rd r1 imm, (s.acore.get c).wait = some w →
    u = State.modA { s with held := false } c (fun a => { a with wait := none }) → u.aReady c →
    decodeWord w = some (.load op rd r1 imm) →
    let va := u.g c r1 + imm.signExtend 64
    let n := LdOp.size op
    let cmd : Instr := .partialOverlapReissue c
    (∀ b trains, u.coreLoad (u.ctx c .read false) (alignRule va n) va n .good true = (v, .ok (some (b, trains))) → v.held = false →
      let v1 := if trains then v.modA c fun a => a.trainStream va.toNat else v
      completes cmd s fun t => u.aSeq (if LdOp.float op then v1.setF c rd (LdOp.value op (ofBytes b))
        else v1.setG c rd (LdOp.value op (ofBytes b))) t c) ∧
    (u.coreLoad (u.ctx c .read false) (alignRule va n) va n .good true = (v, .ok none) →
      completes cmd s fun t => t = s.orWaits ((v.modA c fun a => { a with wait := some w }).haltTry c)) ∧
    (∀ f, u.coreLoad (u.ctx c .read false) (alignRule va n) va n .good true = (v, .error f) →
      completes cmd s fun t => t = s.orWaits ((v.raise c f).stepDone c))) ∧
  (∀ (s : State) (c : Fin 32) (pa : PA),
    let line := pa.toNat / 64
    let a := s.acore.get c
    ((∀ m ∈ a.miss, m.line ≠ line) → exec (.l1dMissFill c pa) s = .next s) ∧
    ((∃ m ∈ a.miss, m.line = line) → a.wait = none → completes (.l1dMissFill c pa) s fun t =>
      let b := t.acore.get c
      t = { s with
        acore := vset s.acore c { a with miss := a.miss.filter (·.line != line), l1d := b.l1d, crc := b.crc }, fresh := t.fresh } ∧
      (∀ x ∈ b.crc, x ∈ a.crc) ∧
      (if (s.l2? (podOf c) line).isSome then line ∈ b.l1d ∧ (∀ x ∈ b.l1d, x = line ∨ x ∈ a.l1d) ∧
          ∃ y, ∀ x ∈ a.l1d, x ∈ b.l1d ∨ x = y
        else b.l1d = a.l1d ∧ b.crc = a.crc))) ∧
  (∀ (s : State) (c : Fin 32) (va : Word),
    let u : State := { s with held := false }
    let a := s.acore.get c
    let off := s.ev (0x4300 + c.val / 4) 3 ≠ 1 ∨ s.ev (0x4300 + c.val / 4) 4 ≤ a.prefetches ∨ 48 ≤ a.miss.length
    ((s.aRuns c = false ∨ off ∨ a.onStream va.toNat = false ∨ u.prefetchXlat c va = none) →
      exec (.prefetchIssue c va) s = .next s) ∧
    ∀ x, u.prefetchXlat c va = some x →
      let refuses := (x.type ≠ .wb ∧ x.type ≠ .wbNwa) ∨ (s.region x.pa).isHbm = false ∨ x.pa / 64 ∈ a.l1d ∨
        (∃ m ∈ a.miss, m.line = x.pa / 64) ∨ u.coreErr c ⟨x.pa, x.type, va, 1⟩ false ≠ none
      (refuses → exec (.prefetchIssue c va) s = .next s) ∧
      (¬ refuses → s.aRuns c = true → ¬ off → a.onStream va.toNat = true → completes (.prefetchIssue c va) s fun t =>
        t = s.orWaits ((u.coreLine c (x.pa / 64) x.type .good).1.modA c fun b => { b with miss := b.miss ++ [⟨x.pa / 64, 0⟩] })))

/-- Walks and interrupts of an A-core (R155 to R157, R179, R181). -/
def Obligations.WalksAndInterrupts : Prop :=
  (∀ (s : State) (c : Fin 32) (va : Word) (kind : Acc),
    let u : State := { s with held := false }
    let k := u.ctx c kind false
    ((s.aRuns c = false ∨ u.tlbHits k va ≠ []) → exec (.tableWalk c va kind) s = .next s) ∧
    (s.aRuns c = true → u.tlbHits k va = [] → ∀ v,
      (∀ x, u.translate k va = (v, .ok x) → ∃ t, exec (.tableWalk c va kind) s = .next t ∧
        t = s.orWaits (v.modA c fun a => { a with evs := (s.acore.get c).evs })) ∧
      ∀ f, u.translate k va = (v, .error f) → ∃ t, exec (.tableWalk c va kind) s = .next t ∧ t = s.orWaits (v.raise c f))) ∧
  (∀ (s : State) (c : Fin 32) (va : Word) (st2 : Bool) (ea : PA) (seen : Word) (write : Bool),
    let cmd : Instr := .adUpdate c va st2 ea seen write
    let u : State := { s with held := false }
    let k := u.ctx c (if write then .write else .read) false
    let done := seen.getLsbD 0 = false ∨ (seen.getLsbD 6 = true ∧ (write = true → seen.getLsbD 7 = true))
    ((s.aRuns c = false ∨ done ∨ ea.toNat % 8 ≠ 0) → exec cmd s = .next s) ∧
    (s.aRuns c = true → ¬ done → ea.toNat % 8 = 0 → ∀ v,
      (∀ f, u.leafPlace k st2 ea.toNat = (v, .error f) → ∃ t, exec cmd s = .next t ∧ t = s.orWaits (v.raise c f)) ∧
      ∀ p ty, u.leafPlace k st2 ea.toNat = (v, .ok (p, ty)) →
        (isDev ty = true → ∃ t, exec cmd s = .next t ∧ t = s.orWaits v) ∧
        (isDev ty = false → ∀ z,
          (∀ r, v.walkRead k p ty = (z, .error r) → ∃ t, exec cmd s = .next t ∧ t = s.orWaits z) ∧
          ∀ x, v.walkRead k p ty = (z, .ok x) → ∀ y,
            (z.casEntry c p seen.toNat write = (y, true) → ∃ t, exec cmd s = .next t ∧ t = s.orWaits y) ∧
            (z.casEntry c p seen.toNat write = (y, false) → ∀ d,
              (∀ o, y.translate k va = (d, .ok o) → ∃ t, exec cmd s = .next t ∧
                t = s.orWaits (d.modA c fun a => { a with evs := (y.acore.get c).evs })) ∧
              ∀ f, y.translate k va = (d, .error f) → ∃ t, exec cmd s = .next t ∧ t = s.orWaits (d.raise c f))))) ∧
  (∀ (s : State) (k : XCtx) (st2 : Bool) (ea : Nat), (st2 = true ∨ s.hasH = false) →
    s.leafPlace k st2 ea = (s, .ok (ea, if inHbm ea then .wb else .devS))) ∧
  (∀ (s : State) (c : Fin 32), s.canon →
    let u : State := { s with held := false }
    let a := s.acore.get c
    let cmd : Instr := .interruptTake c
    let high (prio : Nat) : Prop := a.ml < prio ∧ a.xm = false
    let physical (k : Nat) : Prop := s.coreOffer c = some k ∧
      if s.hasH then s.atH c = false ∨ high (s.src k).prio else s.atH c = false ∧ high (s.src k).prio
    let virtual (p k : Nat) : Prop := s.corePart c = some p ∧ s.virtOffer (fin 63 p) = some k ∧ s.atH c = false ∧ high (s.src k).prio
    (a.forced = true → ∃ t, exec cmd s = .next t ∧ t = s.orWaits (u.forcedExit c)) ∧
    (a.forced = false → u.irqBoundary c = false → exec cmd s = .next s) ∧
    (a.forced = false → (∀ k, ¬ physical k) → (∀ p k, ¬ virtual p k) → exec cmd s = .next s) ∧
    (a.forced = false → u.irqBoundary c = true →
      (∀ k, physical k → ∃ t, exec cmd s = .next t ∧ ∃ v : State,
        u.srcBecomes v k { s.src k with pend := false, setp := false, active := true, by_ := some (.core c) } ∧
        t = s.orWaits (v.raiseAt c { exn (s.src k).vec 0 (srcId k) 0 with toH := s.hasH } a.pc false (s.src k).prio false true)) ∧
      ∀ p k, (∀ j, ¬ physical j) → virtual p k → ∃ t, exec cmd s = .next t ∧ ∃ v : State,
        u.srcBecomes v k { s.src k with pend := false, setp := false, active := true, by_ := some (.virt (fin 63 p)) } ∧
        t = s.orWaits (v.raiseAt c (exn (s.src k).vec 0 (srcId k) 0) a.pc false (s.src k).prio true true)))

/-- Accesses that masters send over the mesh (R25 to R32, R166, R542). -/
def Obligations.MeshAccesses : Prop :=
  (∀ (s : State) (m : Master) (ty : MemType) (addr : PA) (size : Nat) (v : Word),
    let cmd : Instr := .registerWrite m ty addr size v
    let u : State := { s with held := false }
    let x : RegAcc := ⟨m, if m = .smc then none else some ty, addr.toNat, size⟩
    let told : Prop := (ty = .devS ∧ m ≠ .smc) ∨ (∃ n, m = .dm n) ∨ (∃ n, m = .gateway n) ∨ (∃ n, m = .pcie n) ∨ m = .flowEngine
    (s.region addr.toNat ≠ .regs → exec cmd s = .next s) ∧
    (s.region addr.toNat = .regs →
      (∀ z, u.regWrite x v = .ok z → (∀ c, (z.acore.get c).forced = false) → completes cmd s fun t => t = s.orWaits z) ∧
      (∀ r, s.regErr x true = some r → u.regWrite x v = .error r) ∧
      ∀ r, u.regWrite x v = .error r →
        (told → completes cmd s fun t => t = { s with reply := .error r }) ∧
        (¬ told → completes cmd s fun t => t = s.postedError m addr.toNat r))) ∧
  (∀ (s : State) (x : RegAcc) (wr : Bool),
    let b := (blockOf x.off).1
    (s.debugMay x.m = false → s.regErr x wr = some .wlderr) ∧
    (b.isSecure = true → s.masterSecure x.m = false → normalMay b (blockOf x.off).2 wr = false → s.regErr x wr = some .wlderr) ∧
    (s.debugMay x.m = true → s.masterSecure x.m = true →
      (b.target = false → s.regErr x wr = some .decerr) ∧
      (b.target = true → s.pageMay x.m b = true →
        ((∃ ty, x.t = some ty ∧ b.permits ty = false) → s.regErr x wr = some .typerr) ∧
        ((∀ ty, x.t = some ty → b.permits ty = true) →
          (∀ d, b.domain = some d → s.domOn d = false → s.regErr x wr = some .offerr) ∧
          ((∀ d, b.domain = some d → s.domOn d = true) →
            ((x.size ≠ 4 ∧ x.size ≠ 8) ∨ x.addr % x.size ≠ 0) → s.regErr x wr = some .sizerr))))) ∧
  (∀ (s : State) (m : Master) (ty : MemType) (addr : PA) (size : Nat) (v : Word), s.canon →
    let a := addr.toNat
    let cmd : Instr := .tcmMeshWrite m ty addr size v
    let ty' : Option MemType := if m = .smc then none else some ty
    (((∀ i k b o, s.region a ≠ .tcm i k b o) ∨ size = 0 ∨ 8 < size ∨ 64 < a % 64 + size) → exec cmd s = .next s) ∧
    ((∃ i k b o, s.region a = .tcm i k b o) → 0 < size → size ≤ 8 → a % 64 + size ≤ 64 →
      (s.accessErr m ty' a size true = none → completes cmd s fun t =>
        t = { s with mem := t.mem, tags := t.tags, ecc := t.ecc, sent := t.sent } ∧
        (∀ x, x < a ∨ a + size ≤ x → Memory.get t.mem x = Memory.get s.mem x) ∧
        (∀ j, j < size → Memory.get t.mem (a + j) = BitVec.ofNat 8 (v.toNat / 2 ^ (8 * j))) ∧
        ∀ g, g ∈ t.tags ↔ g ∈ s.tags ∧ (g + 16 ≤ a ∨ a + size ≤ g)) ∧
      ∀ r, s.accessErr m ty' a size true = some r → completes cmd s fun t =>
        t = if toldOf m ty then { s with reply := .error r } else s.postedError m a r)) ∧
  (∀ (s : State) (k : Fin 2) (op : PcieOp) (addr : PA) (d : List Byte) (len : Nat),
    let a := addr.toNat
    let cmd (op : PcieOp) : Instr := .pcieInboundRequest k op addr d len
    let u : State := { s with held := false }
    (s.domOn 55 = false → exec (cmd op) s = .next s) ∧
    (s.domOn 55 = true →
      (∀ r l p, s.region a ≠ .regs → partsOf a len = l ++ p :: r → (∀ x ∈ l, s.dmaErr (.pcie k) x.1 x.2 false = none) →
        ∀ e, s.dmaErr (.pcie k) p.1 p.2 false = some e → completes (cmd .read) s fun t => t = { s with reply := .error e }) ∧
      (∀ v b, s.region a ≠ .regs → (∀ x ∈ partsOf a len, s.dmaErr (.pcie k) x.1 x.2 false = none) →
        u.dmaRead (.pcie k) a len = (v, some (b, false)) → completes (cmd .read) s fun t => t = s.orWaits { v with reply := .bytes b false }) ∧
      (∀ r, s.region a = .regs → s.regErr ⟨.pcie k, none, a, len⟩ false = some r →
        completes (cmd .read) s fun t => t = { s with reply := .error r }) ∧
      (a = 0xFFF00000 →
        (d.length = 4 → ofBytes d < 2048 → s.canon → completes (cmd .write) s fun t =>
          ∃ y, s.srcBecomes t (1024 + ofBytes d) y ∧ (s.src (1024 + ofBytes d)).asserted (1024 + ofBytes d) y) ∧
        ((d.length ≠ 4 ∨ 2048 ≤ ofBytes d) → completes (cmd .write) s fun t =>
          t = s.record bankPcie 0x2D k.val 0 0 (ofBytes (d.take 4)))) ∧
      (∀ r, a ≠ 0xFFF00000 → s.region a = .regs → s.regErr ⟨.pcie k, none, a, d.length⟩ true = some r →
        completes (cmd .write) s fun t => t = { s with reply := .error r }) ∧
      (a ≠ 0xFFF00000 → s.region a ≠ .regs → (∀ x ∈ partsOf a d.length, s.dmaErr (.pcie k) x.1 x.2 true = none) →
        completes (cmd .write) s fun t => t = s.orWaits (u.dmaWrite (.pcie k) a d).1) ∧
      ∀ op, ((len ≠ 4 ∧ len ≠ 8) ∨ a % len ≠ 0 → exec (cmd (.atomic op)) s = .next s) ∧
        ((len = 4 ∨ len = 8) → a % len = 0 →
          (s.region a = .regs → completes (cmd (.atomic op)) s fun t => t = { s with reply := .error .typerr }) ∧
          (s.region a ≠ .regs → ∀ r, s.dmaErr (.pcie k) a len true = some r →
            completes (cmd (.atomic op)) s fun t => t = { s with reply := .error r }) ∧
          (s.region a ≠ .regs → s.dmaErr (.pcie k) a len true = none →
            let x := word (ofBytes (slice d 0 len))
            let y := word (ofBytes (slice d len len))
            ((s.region a).isHbm = true → ∀ v b, u.homeAtomic a len op x y (.pcie k) = (v, b, false) →
              completes (cmd (.atomic op)) s fun t => t = s.orWaits { v with reply := .bytes b false }) ∧
            ((s.region a).isHbm = false → ∀ v b, u.memRead (.pcie k) a len = (v, b, false) →
              completes (cmd (.atomic op)) s fun t =>
                t = s.orWaits { v.memWrite (.pcie k) a (amoBytes op b x y) false with reply := .bytes b false })))))

/-- Requests to a home agent (R208, R213, R215, R216, R242, Table 6.4). -/
def Obligations.HomeRequests : Prop :=
  (∀ (s : State) (l : Nat) (r : Requester) (req : HomeReq) (tc : Fin 4) (ev : ArrayEvent) (cmd : Instr) (wr : Bool) (addr : PA),
    addr.toNat / 64 = l →
    (∃ p, r = .pod p ∧ req = .share ∧ cmd = .rdShare p addr tc ev ∧ wr = false ∧
        s.canAsk p l = true ∧ s.l2? p l = none ∧ s.l2Allocates p = true ∧ addr.toNat % 64 = 0) ∨
      (∃ p, r = .pod p ∧ req = .own ∧ cmd = .rdOwn p addr tc ∧ wr = true ∧ s.canAsk p l = true ∧ ev = .good ∧ addr.toNat % 64 = 0 ∧
        (s.l2? p l).map (·.st) ≠ some .m ∧ (s.l2? p l).map (·.st) ≠ some .e ∧ (s.l2Allocates p = true ∨ s.l2? p l ≠ none)) ∨
      (req = .peek ∧ cmd = .rdPeek r addr tc ev ∧ wr = false ∧ addr.toNat % 64 = 0) ∨
      (∃ d, req = .push (addr.toNat % 64) d ∧ cmd = .wrPush r addr d tc ∧ wr = true ∧ ev = .good ∧ addr.toNat % 64 + d.length ≤ 64) ∨
      (∃ op size v cmp, req = .atomic op (addr.toNat % 64) size v cmp ∧ cmd = .haAtomic r op addr size v cmp tc ∧ wr = true ∧ ev = .good ∧
        (size = 4 ∨ size = 8) ∧ addr.toNat % size = 0) →
    let h := homeIdx l
    let t0 : Txn := ⟨l, req, r, tc.val, s.reqClass r, .queued, [], none, [], false⟩
    let z := s.send (stopOfReq r) tc.val req.bytes
    (s.maySend r tc.val = false → exec cmd s = .next s) ∧
    (s.maySend r tc.val = true → ∀ v e, s.homeErr r addr.toNat wr = (v, some e) → completes cmd s fun t => t = match req with
      | .own => { v.postedError (v.reqMaster r) addr.toNat e with reply := .error e }
      | .push _ _ => { (if masterDma (v.reqMaster r) then v else v.postedError (v.reqMaster r) addr.toNat e) with reply := .error e }
      | _ => { v with reply := .error e }) ∧
    (s.maySend r tc.val = true → s.homeErr r addr.toNat wr = (s, none) →
      (s.hasEntry h tc.val = false → completes cmd s fun t =>
        t = z.modHome h fun y => { y with waiting := y.waiting ++ [t0] }) ∧
      (∀ u, s.hasEntry h tc.val = true → s.headTxn l = some u → completes cmd s fun t =>
        t = if tc = 0 ∧ u.tc = 0 ∧ u.req = .peek ∧ req = .peek then z.putTxn { u with joined := u.joined ++ [r] }
          else (if tc = 0 then z.promote u else z).modHome h fun y => { y with txns := y.txns ++ [t0] }) ∧
      (s.homeFree l tc.val → ev ≠ .tag → s.targets t0 ≠ [] → completes cmd s fun t =>
        t = { (s.strike ev).modHome h fun y => { y with
          txns := y.txns ++ [{ t0 with phase := .snoop, awaiting := s.targets t0 }],
          snoops := y.snoops ++ (s.targets t0).map fun p => ⟨l, p, snoopOf req, decide (tc.val = 0)⟩ } with sent := t.sent }) ∧
      (s.homeFree l tc.val → ev ≠ .tag → s.targets t0 = [] → s.slc? l = none → s.needsData t0 = true → completes cmd s fun t =>
        t = (((s.strike ev).send (stopOfReq r) tc.val req.bytes).modHome h fun y =>
          { y with txns := y.txns ++ [{ t0 with phase := .hbm }] }).enqueue ⟨tc.val, false, l, 0, false⟩) ∧
      (s.homeFree l tc.val → ev = .good → s.targets t0 = [] → ∀ x, s.slc? l = some x →
        (req = .peek → completes cmd s fun t => t = { s with reply := .line r [] l x.data x.poison, sent := t.sent }) ∧
        (∀ o d, req = .push o d → completes cmd s fun t => t = { s.modHome h fun y => { y with slc := kvPut l { x with
          dirty := true, data := lineOf (patch (lineBytesOf x.data) o d), poison := x.poison && decide (d.length < 64) } y.slc }
          with sent := t.sent }) ∧
        (∀ op o n v cmp, req = .atomic op o n v cmp → completes cmd s fun t =>
          let old := slice (lineBytesOf x.data) o n
          t = { s.modHome h fun y => { y with slc := kvPut l { x with
            dirty := true, data := if x.poison then x.data else lineOf (patch (lineBytesOf x.data) o (amoBytes op old v cmp)) } y.slc }
            with reply := .bytes old x.poison, sent := t.sent }) ∧
        (∀ p, r = .pod p → (req = .share ∨ (req = .own ∧ s.filt? l p = none ∧ s.l2? p l = none)) →
          (∃ w ∈ s.l2Ways p, ∀ e ∈ (s.pod.get p).lines, l2Set e.1 = l2Set l → e.2.way ≠ w) →
          completes cmd s fun t => ∃ y : L2Line, t.l2? p l = some y ∧ t.filt? l p = some y.st ∧
            y = ⟨y.way, if req = .own then .m else if ∃ q, q ≠ p ∧ s.filt? l q ≠ none then .s else .e, x.data, x.poison, .wb⟩ ∧
            t = { s with pod := t.pod, home := t.home, reply := .line r [] l x.data x.poison, sent := t.sent } ∧
            t.slc? l = some x ∧ ∀ q, q ≠ p → t.pod.get q = s.pod.get q)) ∧
      (∀ p z, r = .pod p → req = .own → s.homeFree l tc.val → s.targets t0 = [] → s.filt? l p ≠ none → s.l2? p l = some z →
        completes cmd s fun t => t.l2? p l = some { z with st := .m } ∧ t.filt? l p = some .m ∧
          t = { s with pod := t.pod, home := t.home, reply := .line r [] l z.data z.poison, sent := t.sent } ∧
          ∀ q, q ≠ p → t.pod.get q = s.pod.get q))) ∧
  (∀ (s : State) (t : Txn) (p : Fin 8), p ∈ s.targets t ↔ ∃ st, s.filt? t.line p = some st ∧ match t.req with
    | .share => st ≠ .s ∧ t.from_ ≠ .pod p
    | .peek => st ≠ .s
    | .own => t.from_ ≠ .pod p
    | .push _ _ | .atomic _ _ _ _ _ => True
    | .evict _ => False) ∧
  (∀ (s : State) r op (addr : PA) size v cmp (tc : Fin 4), s.maySend r tc.val = true → (size ≠ 4 ∧ size ≠ 8) ∨ addr.toNat % size ≠ 0 →
    completes (.haAtomic r op addr size v cmp tc) s fun t => t = { s with reply := .error .sizerr }) ∧
  (∀ (s : State) (r : Requester) (tc : Nat), s.maySend r tc = true ↔
    (match r with
      | .pod p => ∃ c, podOf c = p ∧ s.coreTc c = tc
      | .master m => s.masterTc m = tc) ∧
    ∀ i, r = .master (.island i) →
      s.islandTxns i + ((s.island.get i).port.filter (·.issued)).length + (s.island.get i).issued.length < 4)

/-- Evictions, snoops, timeouts and cleanings (R211, R214, R217, R218, R221, R223, Table 6.5). -/
def Obligations.SnoopsAndEvictions : Prop :=
  (∀ (s : State) (p : Fin 8) (a : PA) (dirty : Bool),
    let l := a.toNat / 64
    let cmd (ph : EvPhase) : Instr := if dirty then .evDirty p a ph else .evClean p a ph
    (∀ x, s.l2? p l = some x → (dirty = true ↔ x.st = .m ∨ x.st = .o) → (s.pod.get p).ev.length < 16 →
      completes (cmd .leave) s fun t =>
        t.pod = vset s.pod p { s.pod.get p with
          lines := kvDel l (s.pod.get p).lines, ev := (s.pod.get p).ev ++ [⟨l, dirty, x.data, x.poison, x.type, false, false, false⟩] } ∧
        t = { s with pod := t.pod, acore := t.acore } ∧
        ∀ c, t.acore.get c = if podOf c = p then { s.acore.get c with
            l1d := (s.acore.get c).l1d.filter (· ≠ l), l1i := (s.acore.get c).l1i.filter (· ≠ l) } else s.acore.get c) ∧
    (((s.pod.get p).ev.length ≥ 16 ∨ s.l2? p l = none) → exec (cmd .leave) s = .next s) ∧
    (∀ b, s.evBuf? p l = some b → b.dirty = dirty → b.arrived = false → s.headTxn l = none → dirty = false →
      completes (cmd .arrive) s fun t =>
        t = { s with pod := t.pod, home := t.home, sent := t.sent } ∧ t.home = (s.setFilt l p none).home ∧
        t.pod = vset s.pod p { s.pod.get p with
          ev := (s.pod.get p).ev.map fun e => if e.line = l then { e with arrived := true, acked := true } else e }) ∧
    (s.evBuf? p l = none → exec (cmd .arrive) s = .next s) ∧
    completes (.evictionAck p a) s fun t =>
      t = s.modPod p fun q => { q with ev := removeFirst (fun b => b.line == l && b.acked) q.ev }) ∧
  (∀ (s : State) (p : Fin 8) (a : PA) (k : SnoopKind),
    let l := a.toNat / 64
    let h := homeIdx l
    let cmd : Instr := match k with
      | .share => .snShare p a
      | .take => .snTake p a
      | .peek => .snPeek p a
    let find := (s.home.get h).snoops.find? fun m => m.line == l && m.pod == p && m.kind == k
    (find = none → exec cmd s = .next s) ∧
    (∀ m, find = some m → (m.tc0 = true ∨ s.tc0Snoops p = []) → s.fatalBank (bankPod p) = false → completes cmd s fun t => ∃ ans,
      t.home = vset s.home h { s.home.get h with
        snoops := (s.home.get h).snoops.filter fun m => !(m.line == l && m.pod == p && m.kind == k),
        answers := (s.home.get h).answers ++ [⟨l, p, ans, if m.tc0 then 0 else 1⟩] } ∧
      t = { s with pod := t.pod, home := t.home, acore := t.acore, sent := t.sent } ∧ (∀ q, q ≠ p → t.pod.get q = s.pod.get q) ∧
      (∀ c, podOf c ≠ p ∨ k ≠ .take → t.acore.get c = s.acore.get c) ∧
      match s.l2? p l with
      | some x =>
        (ans = if x.st = .s ∨ (k = .take ∧ x.st = .e) then .ack else .data x.data x.poison x.way) ∧
        (if k = .take then (t.pod.get p).lines = kvDel l (s.pod.get p).lines ∧
            ∀ c, podOf c = p → l ∉ (t.acore.get c).l1d ∧ l ∉ (t.acore.get c).l1i
          else t.l2? p l = some { x with
            st := if k = .share then (if x.st = .m then .o else if x.st = .e then .s else x.st) else x.st })
      | none => t.acore = s.acore ∧ (t.pod.get p).lines = (s.pod.get p).lines ∧
        (if (s.evBuf? p l).isSome then ans = .notHeld true ∧
            (t.pod.get p).ev = (s.pod.get p).ev.map fun b => if b.line = l then { b with crossed := true } else b
          else ans = .notHeld false ∧ t.pod = s.pod))) ∧
  (∀ (s : State) (p : Fin 8) (a : PA) (ev : ArrayEvent),
    let l := a.toNat / 64
    let h := homeIdx l
    let rest := removeFirst (fun b => b.line == l && b.pod == p) (s.home.get h).answers
    let v := (s.modHome h fun y => { y with answers := rest }).strike ev
    ((∀ b ∈ (s.home.get h).answers, ¬ (b.line = l ∧ b.pod = p)) → exec (.snoopAnswer p a ev) s = .next s) ∧
    (∀ b x, (s.home.get h).answers.find? (fun b => b.line == l && b.pod == p) = some b → s.headTxn l = some x → x.phase = .snoop →
      p ∈ x.awaiting →
      ((∃ q ∈ x.awaiting, q ≠ p) →
        (b.ans = .ack → completes (.snoopAnswer p a ev) s fun t =>
          t = (v.setFilt l p ((s.l2? p l).map (·.st))).putTxn { x with awaiting := x.awaiting.filter (· ≠ p) }) ∧
        (∀ d po w, b.ans = .data d po w → ev = .good → completes (.snoopAnswer p a ev) s fun t =>
          t = (v.setFilt l p ((s.l2? p l).map (·.st))).putTxn { x with awaiting := x.awaiting.filter (· ≠ p), got := some (d, po) })) ∧
      (b.ans = .notHeld false → completes (.snoopAnswer p a ev) s fun t =>
        let y := { x with force := true, awaiting := x.awaiting.filter (· ≠ p) }
        let z := ((v.setFilt l p none).record (bankSlice h) 0x21 h.val p.val (l * 64) 0).putTxn y
        t = if y.awaiting = [] then z.poisonTxn y else z))) ∧
  (∀ (s : State) (a : PA),
    let l := a.toNat / 64
    let h := homeIdx l
    ((∀ x, s.headTxn l = some x → x.phase ≠ .snoop) → exec (.snoopTimeout a) s = .next s) ∧
    ∀ x p, s.headTxn l = some x → x.phase = .snoop → x.awaiting = [p] → completes (.snoopTimeout a) s fun t =>
      let v := s.setFilt l p none
      let w := v.setE 0x4100 2 (v.ev 0x4100 2 ||| 2 ^ stopPod p)
      let z := w.modHome h fun y => { y with lateAns := y.lateAns ++ [(l, p.val)] }
      let asker := match x.from_ with
        | .pod q => stopPod q
        | .master m => stopOf m
      t = (z.record (bankSlice h) 0x12 asker (stopPod p) (l * 64) 0).poisonTxn { x with awaiting := [] }) ∧
  (∀ (s : State) (q : Req) (n : BitVec 16), s.asked q (ek 0x4100 4) n.toNat = some 0 → completes (.cleanWays q n) s fun t =>
    t = ((((s.begun q (ek 0x4100 4)).setE 0x4100 4 n.toNat).setE 0x4100 5 1).complete ⟨q, none⟩ 0)) ∧
  (∀ (s : State) (q : Req) (n : BitVec 32), s.asked q (ek 0x4100 3) n.toNat = some 0 → completes (.suspectClear q n) s fun t =>
    let v := s.begun q (ek 0x4100 3)
    t = (v.setE 0x4100 2 (v.ev 0x4100 2 &&& (2 ^ 32 - 1 - n.toNat))).complete ⟨q, none⟩ 0) ∧
  (∀ s : State,
    (s.ev 0x4100 5 = 0 → exec .cleanWaysDone s = .next s) ∧
    (s.ev 0x4100 5 ≠ 0 → (∀ h, ∀ e ∈ (s.home.get h).slc, e.2.dirty = true → (s.ev 0x4100 4).testBit e.2.way = false) →
      completes .cleanWaysDone s fun t => t = (s.setE 0x4100 5 0).setE 0x4100 4 0) ∧
    (s.hazel.graceAt = none → exec .fatalGraceExpiry s = .next s) ∧
    (s.hazel.graceAt ≠ none → completes .fatalGraceExpiry s fun t => t = s.systemReset s.hazel.resetCode))

/-- The commands of the HBM controllers (R240 to R261). -/
def Obligations.HbmCommands : Prop :=
  (∀ (s : State) (p : Fin 64) (m : ReadMeets) wrong,
    ((s.serving p = false ∨ s.nextCmd p = none) → exec (.hbmCommand p m wrong) s = .next s) ∧
    ∀ c v, s.nextCmd p = some (c, v) →
      (∃ k, (s.pc.get p).q[k]? = some c ∧ (∀ j d, j < k → (s.pc.get p).q[j]? = some d → d.line ≠ c.line) ∧
        (v.pc.get p).q = (s.pc.get p).q.eraseIdx k) ∧
      c.line ∉ (s.pc.get p).corr ∧ c.line ∉ (s.pc.get p).verify ∧
      v = { s with fresh := s.fresh + 1, pc := vset s.pc p (v.pc.get p) } ∧
      (s.serving p = true → c.write = true → completes (.hbmCommand p m wrong) s fun t =>
        t = v.storeLine c.line c.data c.poison) ∧
      (s.serving p = true → c.write = false → ∀ z d po,
        v.hbmRead c.line m.errs m.sev 0 (wrong.map fun (a : PA) => a.toNat / 64) = (z, d, po) →
        completes (.hbmCommand p m wrong) s fun t => t = z.hbmData c.line d po)) ∧
  (∀ (s : State) (line : Nat) (d : Line) (po : Bool), s.canon →
    let t := s.storeLine line d po
    (∀ j, j < 64 → Memory.get t.mem (line * 64 + j) = BitVec.ofNat 8 (d.toNat / 2 ^ (8 * j))) ∧
    (∀ a, a / 64 ≠ line → Memory.get t.mem a = Memory.get s.mem a) ∧ (line ∈ t.poison ↔ po = true) ∧
    t.hbm.errs = kvDel line s.hbm.errs) ∧
  (∀ (s : State) (line n : Nat), kvGet? s.hbm.errs line = none →
    s.hbmRead line [] .none n none = (s, s.stored line, s.storedPoison line)) ∧
  (∀ (s : State) (p : Fin 64),
    (s.serving p = false → s.ownSlot p = none) ∧ (s.serving p = true → (s.pc.get p).q = [] → s.ownSlot p ≠ none) ∧
    ∀ z, s.ownSlot p = some z → s.serving p = true ∧
      z = s.modPc p fun x => { x with slot8 := (x.slot8 + 1) % 8, slot64 := 0 }) ∧
  (∀ (s : State) (p : Fin 64),
    (((s.pc.get p).corr = [] ∨ s.ownSlot p = none) → exec (.hbmCorrectionWriteback p) s = .next s) ∧
    (∀ line r z, (s.pc.get p).corr = line :: r → s.ownSlot p = some z → completes (.hbmCorrectionWriteback p) s fun t =>
      t = { z.modPc p fun x => { x with corr := r, verify := x.verify ++ [line] } with
        hbm := { s.hbm with errs := kvDel line s.hbm.errs } }) ∧
    (∀ m, ((s.pc.get p).verify = [] ∨ s.ownSlot p = none) → exec (.hbmVerifyRead p m) s = .next s) ∧
    (∀ line r z sev, (s.pc.get p).verify = line :: r → s.ownSlot p = some z → kvGet? s.hbm.errs line = none →
      completes (.hbmVerifyRead p ⟨[], sev⟩) s fun t =>
        let v := z.modPc p fun x => { x with verify := r }
        t = (if sev = .none then v else v.addE 0x4004 (1 + p.val) 32 1).addE 0x4002 (1 + p.val) 32 1) ∧
    (∀ (sid : Fin 3) (bank : Fin 16) (cmd : Instr) (f : PseudoChannel → PseudoChannel),
      (cmd = .hbmRefresh p sid bank ∧ f = fun x => { x with refreshes := x.refreshes + 1 }) ∨
        (cmd = .hbmRfm p sid bank ∧ f = fun x => { x with rfms := x.rfms + 1 }) →
      if ∃ c ∈ (s.pc.get p).q, c.tc = 0 ∧ (s.place c.line).sid = sid.val ∧ (s.place c.line).bank = bank.val then
        completes cmd s fun t => t = { s with fresh := s.fresh + 1 } ∨ t = State.modPc { s with fresh := s.fresh + 1 } p f
      else completes cmd s fun t => t = s.modPc p f) ∧
    (∀ line, line = s.scrubLine p.val ((s.pc.get p).scrub % 0xC00000 * 64) →
      (∀ m, (line ∈ (s.pc.get p).corr ∨ line ∈ (s.pc.get p).verify ∨ s.ownSlot p = none) →
        exec (.patrolScrubRead p m) s = .next s) ∧
      ∀ z, s.ownSlot p = some z → line ∉ (s.pc.get p).corr → line ∉ (s.pc.get p).verify → kvGet? s.hbm.errs line = none →
        completes (.patrolScrubRead p ⟨[], .none⟩) s fun t => t = z.modPc p fun x => { x with scrub := x.scrub + 1 }) ∧
    (∀ b, (s.pc.get p).repair = [] → exec (.rowRepair p b) s = .next s) ∧
    (∀ r rest, (s.pc.get p).repair = r :: rest →
      let row := r % 2 ^ 26
      let reason := if r.testBit 26 then 0x11 else 0x06
      let v := (s.modPc p fun x => { x with repair := rest, hard := kvDel row x.hard }).addE 0x4003 (1 + p.val) 16 1
      completes (.rowRepair p true) s (fun t => ∃ addr z, z = { v with hbm := { v.hbm with
          errs := v.hbm.errs.filter fun e => !((v.place e.1).p == p.val && (v.place e.1).rowKey == row) } } ∧
        t = (z.record (bankHbm p) 0x06 p.val (row / 2 ^ 8 % 16) addr (row / 2 ^ 12 % 2 ^ 14)).retireEntry 0x05 reason (p.val + row)) ∧
      completes (.rowRepair p false) s fun t =>
        let z := (v.modPc p fun x => { x with unrepairable := x.unrepairable + 1 }).retireEntry 0x06 reason (p.val + row)
        t = if z.ev 0x4000 0x13 ≤ (z.pc.get p).unrepairable then z.pcFail p reason (z.dmOpsOn p) else z) ∧
    ((∀ r ∈ s.hbm.ret, r.pc = p.val → ∀ m ∈ r.moves, m.done = true) → exec (.migrationChunkDone p) s = .next s) ∧
    (∀ (r : Retirement) (a b : List Move) (m : Move), s.hbm.ret = [r] → r.pc = p.val → r.moves = a ++ m :: b → m.host < 64 → m.host ≠ p.val →
      (∀ x ∈ a, x.done = true) → m.done = false → s.hbm.errs = [] → completes (.migrationChunkDone p) s fun t =>
        t.hbm = { s.hbm with ret := [{ r with moves := a ++ { m with done := true } :: b }] } ∧
        t = { s with hbm := t.hbm, pc := t.pc } ∧
        let o := s.pcOf (unlocate m.src (m.chunk * 0x1800000) / 64)
        let moved (l : Nat) : Bool := inChunk m.src m.chunk l
        (∀ j : Fin 64, t.pc.get j = { s.pc.get j with
          q := (t.pc.get j).q, corr := (t.pc.get j).corr, verify := (t.pc.get j).verify,
          st := if j = p then (if ∀ x ∈ b, x.done = true then .retired else (s.pc.get p).st)
            else if j.val = m.host ∧ (s.pc.get j).st = .normal then .hosting else (s.pc.get j).st }) ∧
        (o.val ≠ m.host → ∀ j : Fin 64,
          (t.pc.get j).q = (if j = o then (s.pc.get o).q.filter fun c => !moved c.line
            else if j.val = m.host then (s.pc.get j).q ++ (s.pc.get o).q.filter fun c => moved c.line else (s.pc.get j).q) ∧
          (t.pc.get j).corr = (if j = o then (s.pc.get o).corr.filter fun l => !moved l
            else if j.val = m.host then (s.pc.get j).corr ++ (s.pc.get o).corr.filter moved else (s.pc.get j).corr) ∧
          (t.pc.get j).verify = (if j = o then (s.pc.get o).verify.filter fun l => !moved l
            else if j.val = m.host then (s.pc.get j).verify ++ (s.pc.get o).verify.filter moved else (s.pc.get j).verify))) ∧
    ((s.pc.get p).retraining = true → exec (.hbmRetraining p) s = .next s) ∧
    ((s.pc.get p).retraining = false → completes (.hbmRetraining p) s fun t => ∃ n, 16 < n ∧
      t = (State.modPc { s with fresh := s.fresh + 1 } p fun x => { x with retraining := true }).record (bankHbm p) 0x05 p.val 0 0 n) ∧
    (∀ b, (s.pc.get p).retraining = false → exec (.hbmRetrainingDone p b) s = .next s) ∧
    (∀ b, (s.pc.get p).retraining = true → completes (.hbmRetrainingDone p b) s fun t =>
      let v := s.modPc p fun x => { x with retraining := false, retrained := true }
      t = if b then v.pcFail p 0x05 (v.dmOpsOn p) else v)) ∧
  (∀ (s : State) (k : Fin 2) (r : TrainResult),
    ((s.hbm.train.get k ≠ .untrained ∨ s.hazel.pllOk = false) → exec (.hbmTrainingDone k r) s = .next s) ∧
    (s.hbm.train.get k = .untrained → s.hazel.pllOk = true → s.ev 0x8006 2 ≠ 4 →
      (r ≠ .failed → completes (.hbmTrainingDone k r) s fun t =>
        let z := vset s.hbm.train k (if r = .full then .full else .seeded)
        let go := (∀ j, z.get j ≠ .untrained) ∧ s.hbm.fill = .notStarted
        t = { s with hbm := { s.hbm with
          train := z, fill := if go then .running else s.hbm.fill, fillStart := if go then s.time else s.hbm.fillStart } }) ∧
      (r = .failed → s.hazel.booting = true → completes (.hbmTrainingDone k r) s fun t => ∃ v : State,
        v.hbm.train = vset s.hbm.train k .failed ∧ t = v.bootStop 0 6))) ∧
  (∀ s : State,
    (s.hbm.fill ≠ .running → exec .hbmFillDone s = .next s) ∧
    (s.hbm.fill = .running → completes .hbmFillDone s fun t =>
      t = (State.setE { s with hbm := { s.hbm with fill := .done, errs := [] } } 0x4000 5
        ((s.time - s.hbm.fillStart) / 1000 % 2 ^ 32)).stage9))

/-- Entry of a T-core (R282 to R284, R287, R288, Table 8.7). -/
def Obligations.ExceptionEntryOfTCores : Prop :=
  let enters (c : TCore) (f : Exn) (h xpc : Word) (ds : Bool) (ml : Word) (prio : Nat) : TCore := { c with
    x := ⟨xpc, (c.tstat &&& ~~~0x200) ||| (if ds then 0x200 else 0),
      word (f.vec % 256 + f.cause % 256 * 2 ^ 8 + b2n f.wr * 2 ^ 16 + f.info % 2 ^ 16 * 2 ^ 32 + prio % 16 * 2 ^ 48), f.va⟩
    xpcc := c.pcc, xlc := c.lc, xls := c.ls, xle := c.le, tstat := ml ||| 0x100, lc := Vector.replicate 2 0, pc := h, pcc := c.tvb
    delay := none, slotClears := false, entries := c.entries + 1, cycle := c.cycle + 16 }
  (∀ (s : State) (i k : Fin 4) (f : Exn), f.vec < 32 →
    let c := s.tc i k
    (∀ h, c.tstat.getLsbD 8 = false → s.tHandler i k f.vec = some h →
      s.tRaise i k f = ((s.tEcc i k .itcm (c.tvb.base.toNat + 8 * f.vec) 8 .good).modTc i k fun c =>
        enters c f h ((c.delay.map (·.branch)).getD c.pc) c.delay.isSome (c.tstat &&& 0xF0) 0).tDrain i k) ∧
    ((c.tstat.getLsbD 8 = true ∨ s.tHandler i k f.vec = none) →
      let v := s.record (bankIsland i) 0x27 k.val 0 c.pc.toNat f.vec
      s.tRaise i k f = (v.modTc i k fun c => { c with run := .stopped, far := none }).coreMismatch i k 7) ∧
    (∀ h, s.tHandler i k f.vec = some h → c.tvb.tag = true ∧ h.toNat % 4 = 0 ∧ c.tvb.base.toNat ≤ h.toNat ∧
      h.toNat < c.tvb.base.toNat + c.tvb.len.toNat ∧
      h = word (ofBytes (Memory.read s.mem (tcmPa i k (c.tvb.base.toNat + 8 * f.vec)) 8))) ∧
    ((s.tc i k).sb = [] → s.tDrain i k = s)) ∧
  (∀ (s : State) (i k : Fin 4),
    let c := s.tc i k
    let cmd : Instr := .tInterruptEntry i k
    (c.run ≠ .running → c.run ≠ .wfi → exec cmd s = .next s) ∧
    (c.run = .running → s.due i k = none → exec cmd s = .next s) ∧
    (∀ b, s.due i k = some b → b.reached.contains k = false ∧ b.pos.toNat ≤ c.instret.toNat ∧ b ∈ (s.island.get i).bounds ∧
      c.delay = none) ∧
    (∀ b, c.run = .running → s.due i k = some b → (s.island.get i).active.contains k = true →
      let r := s.boundReached i k b
      let masked := b.prio ≤ c.tstat.toNat / 16 % 16 ∨ c.tstat.getLsbD 8 = true
      let u := r.tAbandon i k
      (masked → completes cmd s fun t => t = r.coreMismatch i k 6) ∧
      (∀ h, ¬ masked → 32 ≤ b.vec → u.tHandler i k b.vec = some h → completes cmd s fun t =>
        t = ((u.tEcc i k .itcm ((u.tc i k).tvb.base.toNat + 8 * b.vec) 8 .good).modTc i k fun d => enters d (exn b.vec 0 b.id 0) h c.pc false (word (b.prio * 16)) b.prio).tDrain i k) ∧
      (¬ masked → u.tHandler i k b.vec = none → completes cmd s fun t => t = u.tStop i k b.vec)))

/-- The island's interrupt unit and pins (R282, R289, R294, R317, R426, Table 8.10). -/
def Obligations.IslandPinsAndInterrupts : Prop :=
  (∀ (s : State) (i : Fin 4), s.canon →
    let x := s.island.get i
    (∀ k, x.leading = some k → k ∈ x.active ∧ ∀ j ∈ x.active, (x.slots.get j).instret.toNat ≤ (x.slots.get k).instret.toNat) ∧
    ((x.leading = none ∨ s.islandOffer i = none) → exec (.islandInterruptOffer i) s = .next s) ∧
    (∀ k key, x.leading = some k → s.islandOffer i = some key →
      let c := x.slots.get k
      let y := s.src key
      let blocked := x.sourceStopped = true ∨ y.prio ≤ c.tstat.toNat / 16 % 16 ∨ c.tstat.getLsbD 8 = true ∨ c.run = .stopped ∨
        ∃ b ∈ x.bounds, b.reached.contains k = false
      (blocked → exec (.islandInterruptOffer i) s = .next s) ∧
      (¬ blocked → completes (.islandInterruptOffer i) s fun t => ∃ v : State,
        s.srcBecomes v key { y with pend := false, setp := false, active := true, by_ := some (.island i) } ∧
        t = v.modIsl i fun z => { z with
          claimed := z.claimed ++ [srcId key]
          bounds := z.bounds ++ [⟨if c.delay.isSome then c.instret + 1 else c.instret, srcId key, y.vec, y.prio, []⟩] })) ∧
    (∀ id : BitVec 12,
      let y := s.src id.toNat
      (id.toNat ∉ x.claimed → exec (.islEoi i id) s = .next s) ∧
      (id.toNat ∈ x.claimed → y.active = true → y.by_ = some (.island i) → completes (.islEoi i id) s fun t => ∃ v : State,
        s.srcBecomes v id.toNat { y with active := false, by_ := none, cfg := y.next.getD y.cfg, next := none } ∧
        t = v.modIsl i fun z => { z with claimed := z.claimed.filter (· ≠ id.toNat) }) ∧
      (id.toNat ∈ x.claimed → (y.active = false ∨ y.by_ ≠ some (.island i)) → completes (.islEoi i id) s fun t =>
        t = s.modIsl i fun z => { z with claimed := z.claimed.filter (· ≠ id.toNat) })) ∧
    (∀ m (d : Fin 16) v,
      let k := 512 + 16 * i.val + d.val
      (d = 0 → completes (.doorbell m i d v) s fun t => t = { s with reply := .error .decerr }) ∧
      (d ≠ 0 → s.domOn ⟨40 + i.val, by omega⟩ = false → completes (.doorbell m i d v) s fun t => t = { s with reply := .error .offerr }) ∧
      (d ≠ 0 → s.domOn ⟨40 + i.val, by omega⟩ = true →
        (v.getLsbD 0 = true → completes (.doorbell m i d v) s fun t => ∃ y, s.srcBecomes t k y ∧ (s.src k).asserted k y) ∧
        (v.getLsbD 0 = false → exec (.doorbell m i d v) s = .next s)))) ∧
  (∀ (s : State) (i : Fin 4) (k : Fin 2) (v : BitVec 32),
    let p := (s.island.get i).spi.get k
    let put (q : Spi) : State := s.modIsl i fun x => { x with spi := vset x.spi k q }
    (p.busy = true → completes (.spiData i k v) s (fun t => t = s.modIsl i fun x => { x with
        rel := x.rel ++ [⟨⟨0xC00608 + 0x40 * k.val, 4, v.setWidth 128, false, 0⟩, 0⟩] }) ∧
      completes (.spiTransferDone i k v) s fun t => t = put { p with busy := false, rx := v, cs := none }) ∧
    (p.busy = false → exec (.spiTransferDone i k v) s = .next s ∧
      completes (.spiData i k v) s fun t => t = put { p with tx := v, busy := true, cs := some (p.ctl.extractLsb' 10 2) })) ∧
  (∀ (s : State) (i : Fin 4) (n : Fin 16) (l : Bool),
    let c := (s.island.get i).caps.get n
    ((c.level = l ∨ s.domOn ⟨40 + i.val, by omega⟩ = false) → exec (.captureInputEdge i n l) s = .next s) ∧
    (c.level ≠ l → s.domOn ⟨40 + i.val, by omega⟩ = true → completes (.captureInputEdge i n l) s fun t =>
      t = s.modIsl i fun x => { x with caps := vset x.caps n ⟨s.time, l, l, c.edges + 1⟩ })) ∧
  (∀ (s : State) (i : Fin 4) (n : Fin 16),
    let o := s.pin i n
    let r := s.outRec i n
    let (lo, hi, step) := (r.2 % 2 ^ 24, r.2 / 2 ^ 24 % 2 ^ 24, r.1 / 2 ^ 30 % 2 ^ 11)
    ((o.running = false ∨ (s.island.get i).released = false ∨ s.hsHeld i n = true) → exec (.pwmPeriodStart i n) s = .next s) ∧
    (o.running = true → (s.island.get i).released = true → s.hsHeld i n = false → completes (.pwmPeriodStart i n) s fun t =>
      t = { s with island := t.island, env := t.env, ent := t.ent, irq := t.irq } ∧
      (∀ j, j ≠ i → t.island.get j = s.island.get j) ∧ (∀ m, m ≠ n → t.pin i m = s.pin i m) ∧
      (o.per = 0 → (t.pin i n).drive = s.safeDrive i n ∧ (t.pin i n).running = false ∧ t.env = s.env) ∧
      (o.per ≠ 0 → ∃ p v, t.pin i n = { o with drive := .pwm p (v * p / 1024), prev := v } ∧
        p ≤ hi ∧ (lo ≤ hi → lo ≤ p) ∧ (lo ≤ o.per.toNat → o.per.toNat ≤ hi → p = o.per.toNat) ∧
        v ≤ o.prev + step ∧ o.prev ≤ v + step)))

/-- Votes (R298 to R305, Table 9.2). -/
def Obligations.Voting : Prop :=
  (∀ (act order : List (Fin 4)) (f : Fin 4 → BitVec 64) (late : Bool), act.Nodup → order.Nodup → (∀ k ∈ order, k ∈ act) →
    let verdict := penVerdict act (order.map fun k => (k, f k)) late
    (act.length = 3 → order.length = 3 →
      ((∀ j ∈ act, ∀ k ∈ act, f j = f k) → verdict = .agree) ∧
      (∀ k ∈ act, (∀ j ∈ act, j ≠ k → f j ≠ f k) → (∀ j ∈ act, ∀ l ∈ act, j ≠ k → l ≠ k → f j = f l) → verdict = .outlier k) ∧
      ((∀ j ∈ act, ∀ k ∈ act, f j = f k → j = k) → verdict = .none)) ∧
    (act.length = 3 → order.length = 2 →
      ((∀ j ∈ order, ∀ k ∈ order, f j = f k) → ∀ k ∈ act, k ∉ order → verdict = if late then .outlier k else .wait) ∧
      ((∀ j ∈ order, ∀ k ∈ order, f j = f k → j = k) → verdict = if late then .none else .wait)) ∧
    (act.length = 3 → order.length < 2 → verdict = if late then .none else .wait) ∧
    (act.length = 2 → order.length = 2 → verdict = if ∀ j ∈ order, ∀ k ∈ order, f j = f k then .agree else .none) ∧
    (act.length = 2 → order.length < 2 → verdict = if late then .none else .wait)) ∧
  (∀ (s : State) (i k : Fin 4),
    let x := s.island.get i
    let c := s.tc i k
    ((k ∉ x.active ∨ c.winCount < 1024) → exec (.pennantWindowClose i k) s = .next s) ∧
    (k ∈ x.active → 1024 ≤ c.winCount → completes (.pennantWindowClose i k) s fun t =>
      let v := s.modTc i k fun c => { c with
        uncompared := c.uncompared ++ [⟨c.seq, c.pen⟩], pen := 0xFFFFFFFFFFFFFFFF, winCount := 0, seq := c.seq + 1 }
      t = if x.st = .rejoinWait ∧ x.source = some k then v.modIsl i fun y => { y with sourceStopped := true } else v) ∧
    ((c.uncompared[c.sent]? = none ∨ k ∉ x.active ∨ 8 ≤ c.sent) → exec (.pennantComparison i k) s = .next s) ∧
    (∀ p, c.uncompared[c.sent]? = some p → k ∈ x.active → c.sent < 8 →
      let old := (x.penCmp.find? (·.seq == p.seq)).getD ⟨p.seq, s.time, []⟩
      let new : PenCmp := { old with arrivals := old.arrivals ++ [(k, p.value)] }
      let v := ((s.modTc i k fun c => { c with sent := c.sent + 1 }).modIsl i fun y =>
        { y with penCmp := putCmp (fun q => q.seq == p.seq) new y.penCmp }).setE (voteIdx i) 6
          (max (s.ev (voteIdx i) 6) ((s.time - old.at_) % 2 ^ 32))
      completes (.pennantComparison i k) s fun t => t = (v.decidePen i new false).settleVoter i x.st) ∧
    (x.penCmp = [] → exec (.pennantSkewTimeout i) s = .next s) ∧
    (∀ p r, x.penCmp = p :: r → completes (.pennantSkewTimeout i) s fun t => t = (s.decidePen i p true).settleVoter i x.st) ∧
    (∀ p late, x.st.voting = true →
      let d := s.dropPen i p.seq
      (penVerdict x.active p.arrivals late = .wait → s.decidePen i p late = s) ∧
      (penVerdict x.active p.arrivals late = .agree → x.st ≠ .rejoinWait → s.decidePen i p late = d) ∧
      (∀ k, penVerdict x.active p.arrivals late = .outlier k → s.decidePen i p late = d.mismatch i (some k) (if late then 2 else 1)) ∧
      (∀ j, ∀ u ∈ (d.tc i j).uncompared, u.seq ≠ p.seq)) ∧
    (∀ st, x.st = st → s.settleVoter i st = s) ∧
    (∀ k cause, x.st = .triplex → ((s.mismatch i (some k) cause).island.get i).st = .rejoinTest ∧
      ((s.mismatch i (some k) cause).tc i k).role = .fenced ∧ ((s.mismatch i (some k) cause).tc i k).run = .stopped ∧
      ((s.mismatch i (some k) cause).tc i k).outq = [] ∧ ((s.mismatch i (some k) cause).tc i k).sb = [] ∧ ((s.mismatch i (some k) cause).island.get i).testing = some k) ∧
    (∀ k j cause, x.st = .rejoinTest → x.testing = some k → x.joinIsSpare = false → x.mismatchAt = s.time → k ≠ j →
      s.mismatch i (some j) cause = s.noMajorityAfter i k ∧ ((s.noMajorityAfter i k).tc i k).role = .active) ∧
    (∀ out cause, x.st.voting = true → (x.st ≠ .triplex ∨ out = none) → ((s.mismatch i out cause).island.get i).st = .safe)) ∧
  (∀ (s : State) (i k : Fin 4),
    let x := s.island.get i
    let q := (s.tc i k).outq
    let seen (w : TStore) : OutCmp := (x.outCmp.find? (·.pos == w.pos)).getD ⟨w.pos, [], false⟩
    ((q = [] ∨ k ∉ x.active ∨ ∃ w r, q = w :: r ∧ ∃ a ∈ (seen w).arrivals, a.1 = k) → exec (.outputQueueComparison i k) s = .next s) ∧
    (∀ w r, q = w :: r → k ∈ x.active → (∀ a ∈ (seen w).arrivals, a.1 ≠ k) →
      let new := { seen w with arrivals := (seen w).arrivals ++ [(k, w)] }
      completes (.outputQueueComparison i k) s fun t =>
        t = ((s.putOut i w.pos (some new)).decideOut i new false).settleVoter i x.st) ∧
    (x.outCmp = [] → exec (.outputSkewTimeout i) s = .next s) ∧
    (∀ p r, x.outCmp = p :: r → completes (.outputSkewTimeout i) s fun t => t = (s.decideOut i p true).settleVoter i x.st) ∧
    (∀ p late, (∀ a ∈ p.arrivals, ∀ b ∈ p.arrivals, a.1 ≠ b.1 → a.2.key ≠ b.2.key) →
      ((x.producers p.pos).length ≥ 2 → (∃ k ∈ x.producers p.pos, ∀ a ∈ p.arrivals, a.1 ≠ k) → late = false → s.decideOut i p late = s) ∧
      (∀ r ∈ ((s.decideOut i p late).island.get i).rel, r ∈ x.rel)) ∧
    (∀ (p : OutCmp) (a b : Fin 4) (w : TStore), x.st.voting = true → p.agreed = false → p.arrivals = [(a, w), (b, w)] → a.val < b.val →
      ((s.decideOut i p false).island.get i).rel = x.rel ++ [⟨w, a⟩])) ∧
  (∀ (s : State) (i : Fin 4),
    let x := s.island.get i
    (∀ ev, x.rel = [] → exec (.writeRelease i ev) s = .next s) ∧
    (∀ ev r rest, x.rel = r :: rest →
      (s.spiBusy i r.w.addr = true ∨ 2 + x.issued.length ≤ x.unmatched → exec (.writeRelease i ev) s = .next s) ∧
      let v := { s with held := false }.modIsl i fun x => { x with rel := rest, issued := if 2 ≤ x.unmatched then x.issued.drop 1 else x.issued }
      (s.spiBusy i r.w.addr = false → x.unmatched < 2 + x.issued.length →
        (tKind r.w.addr r.w.size = .shared → s.canon → (∃ o, s.region (sharedPa i r.w.addr) = .shared i o) → completes (.writeRelease i ev) s fun t =>
          let p := sharedPa i r.w.addr
          let u := v.mergeEcc i r.slot.val r.w.addr p r.w.size 3 ev
          t = { u with mem := t.mem, tags := t.tags, ecc := t.ecc, sent := t.sent, held := s.held } ∧
          (p % 8 = 0 → r.w.size % 8 = 0 → u = { v with ecc := u.ecc } ∧ t.eccBad p r.w.size = false) ∧
          (p % 8 + r.w.size ≤ 8 → ¬ (p % 8 = 0 ∧ 8 ≤ r.w.size) → 0 < r.w.size → ev = .single → kvGet? s.ecc (p / 8 * 8) ≠ some true →
            u = { v with ecc := u.ecc }.record (bankIsland i) 0x02 r.slot.val 0 r.w.addr 3) ∧
          (¬ (p % 8 = 0 ∧ 8 ≤ r.w.size) → 0 < r.w.size → (ev = .multi ∨ kvGet? s.ecc (p / 8 * 8) = some true) → t.eccBad p r.w.size = true) ∧
          (∀ a, a < p ∨ p + r.w.size ≤ a → Memory.get t.mem a = Memory.get s.mem a) ∧
          ∀ j, j < r.w.size → Memory.get t.mem (p + j) = BitVec.ofNat 8 (r.w.data.toNat / 2 ^ (8 * j))) ∧
        (tKind r.w.addr r.w.size = .regs → completes (.writeRelease i ev) s fun t => t = s.orWaits (v.relReg i r)) ∧
        (∀ pa, tKind r.w.addr r.w.size = .far pa → completes (.writeRelease i ev) s fun t => t = s.orWaits (v.relFar i r pa)))) ∧
    (∀ e, x.issued = [] → exec (.votedWriteResponse i e) s = .next s) ∧
    (∀ e r rest, x.issued = r :: rest → completes (.votedWriteResponse i e) s fun t =>
      t = (s.modIsl i fun x => { x with issued := rest }).record (bankIsland i) 0x2B r.slot.val 0 r.w.addr (respCode e)))

/-- Tests, rejoining and restarts (R307 to R313, R319, R320, Table 9.5). -/
def Obligations.IslandTestsAndRejoin : Prop :=
  (∀ (s : State) (i k : Fin 4) (pass : Bool),
    let x := s.island.get i
    let cmd : Instr := .selfTestDone i k pass
    let v := (s.wipeTcms i k).setGood i k pass
    ((x.st ≠ .test ∧ (x.st ≠ .rejoinTest ∨ x.testing ≠ some k)) → exec cmd s = .next s) ∧
    (x.st = .test → (x.injecting = true ∨ (x.slots.get k).role = .retired ∨ x.tested.getLsbD k.val = true) → exec cmd s = .next s) ∧
    (x.st = .test → x.injecting = false → (x.slots.get k).role ≠ .retired → x.tested.getLsbD k.val = false →
      completes cmd s fun t =>
        t = (if pass then v else v.retireSlot i k false).testsDone i ∧ (t.island.get i).tested.getLsbD k.val = true ∧
        (t.island.get i).good.getLsbD k.val = pass ∧ (pass = false → (t.tc i k).role = .retired)) ∧
    (x.st = .rejoinTest → x.testing = some k → pass = true → x.joinIsSpare = false →
      let l := s.slotTransients i k ++ [s.time]
      let u := v.modIsl i fun y => { y with transients := vset y.transients k l }
      completes cmd s fun t =>
        if s.ev 0x5104 1 ≤ l.length then t = (u.retireSlot i k true).replaceSlot i
        else (t.island.get i).st = .rejoinLoad ∧ (t.island.get i).joining = some k ∧ (t.island.get i).testing = none ∧
          (t.island.get i).transients.get k = l ∧ t.tc i k = s.tc i k) ∧
    (x.st = .rejoinTest → x.testing = some k → pass = false → x.joinIsSpare = false → completes cmd s fun t =>
      t = (v.retireSlot i k false).replaceSlot i) ∧
    (x.st = .rejoinTest → x.testing = some k → x.joinIsSpare = true → completes cmd s fun t =>
      (t.island.get i).st = (if pass then .rejoinLoad else .duplex) ∧ (t.island.get i).testing = none ∧
      (pass = true → (t.island.get i).joining = some k) ∧ (pass = false → (t.tc i k).role = .retired))) ∧
  (∀ (s : State) (i : Fin 4) (failed : BitVec 11),
    let x := s.island.get i
    let cmd : Instr := .injectionTestDone i failed
    let good := (allFin 4).filter fun k => x.good.getLsbD k.val && (x.slots.get k).role != .retired
    ((x.st ≠ .test ∨ x.injecting = false) → exec cmd s = .next s) ∧
    (x.st = .test → x.injecting = true → completes cmd s fun t => (t.island.get i).injecting = false ∧
      (failed ≠ 0 ∨ good.length < 2 → (t.island.get i).st = .notReleased ∧ ∀ j, t.tc i j = s.tc i j) ∧
      (failed = 0 → 2 ≤ good.length →
        (t.island.get i).st = (if good.length = 2 then .duplex else .triplex) ∧ (t.island.get i).released = true ∧
        ∀ j, t.tc i j = if j ∈ good.take 3 then { TCore.init .active with run := .running }
          else if j ∈ good.drop 3 then TCore.init .spare else s.tc i j))) ∧
  (∀ (s : State) (i : Fin 4),
    let x := s.island.get i
    ((x.st ≠ .rejoinLoad ∨ x.joining = none ∨ x.source = none) → exec (.rejoinCopyDone i) s = .next s) ∧
    (∀ j k, x.st = .rejoinLoad → x.joining = some j → x.source = some k → completes (.rejoinCopyDone i) s fun t =>
      t = (s.copyTcms i k j).setVote i .rejoinWait ∧ (t.island.get i).st = .rejoinWait ∧ (∀ l, t.tc i l = s.tc i l)) ∧
    ((x.st ≠ .rejoinWait ∨ x.joining = none ∨ x.source = none ∨ x.capturing = false) → exec (.rejoinCaptureDone i) s = .next s) ∧
    (∀ j k, x.st = .rejoinWait → x.joining = some j → x.source = some k → x.capturing = true →
      (∀ w ∈ (x.slots.get k).sb, isDtcm w.addr = false) → completes (.rejoinCaptureDone i) s fun t =>
        let c := x.slots.get k
        (t.island.get i).st = .triplex ∧ (t.island.get i).joining = none ∧ (t.island.get i).sourceStopped = false ∧
        t.tc i j = { c with role := .active, sb := [], outq := [], uncompared := [], sent := 0, far := none, joinPos := c.qpos,
                            haltReq := false, step1 := false } ∧
        (∀ l, l ≠ j → t.tc i l = s.tc i l) ∧ t.mem = s.mem)) ∧
  (∀ (s : State) (q : Req) (i : Fin 4),
    let hold := ek (voteIdx i) 0xB
    let rel := ek (voteIdx i) 0xA
    let st := (s.island.get i).st
    (s.asked q hold 1 = some 0 → (st = .safe ∨ st = .notReleased) ∧ completes (.voterRestartHold q i) s fun t =>
      t = ((s.begun q hold).toHeld i).complete ⟨q, none⟩ 0 ∧ (t.island.get i).st = .held) ∧
    (s.asked q hold 2 = some 0 → st = .held ∧ completes (.voterRestartRelease q i) s fun t =>
      t = ((s.begun q hold).releaseIsland i).complete ⟨q, none⟩ 0 ∧ (t.island.get i).st = .test) ∧
    (∀ v, s.asked q rel v.toNat = some 0 → completes (.hsRelease q i v) s fun t =>
      (v = 0 → t = (s.begun q rel).complete ⟨q, none⟩ 0) ∧
      (v ≠ 0 → (st = .triplex ∨ st = .duplex) ∧ (s.canon → t.ev (voteIdx i) 0xD = 0))))

/-- Annulled slots (R57). -/
def Obligations.AnnulledSlots : Prop :=
  (∀ (s u : State) (c : Fin 32) (w : IWord) (ins : Aelxel), s.aFetches c w ins u →
    let pc := (u.acore.get c).pc
    let past (cmd : Instr) (link : State → State) (next : Word) : Prop :=
      completes cmd s fun t => ∃ v, u.aPredicts v c ∧ u.aCommits (link v) t c next none
    (∀ cond r1 r2 off, ins = .branch cond r1 r2 true off → condHolds cond (u.g c r1) (u.g c r2) = false →
      past (.conditionalBranch (.a c) w) id (pc + 8)) ∧
    (∀ l off, ins = .jmp l true off →
      past (.jump (.a c) w) (fun v => if l then v.setG c 1 (pc + 8) else v) (pc + off.signExtend 64 * 4)) ∧
    (∀ r1, ins = .jr true r1 → (u.g c r1).toNat % 4 = 0 → past (.registerJump (.a c) w) id (u.g c r1)) ∧
    (∀ rd r1, ins = .jalr true rd r1 → (u.g c r1).toNat % 4 = 0 → (rd ≠ r1 ∨ rd = 0) →
      past (.registerJump (.a c) w) (fun v => v.setG c rd (pc + 8)) (u.g c r1))) ∧
  (∀ (s u : State) (i k : Fin 4) (w : IWord) (ins : Aelxel) (cmd : Instr) (slot : List Byte), s.canon → s.tFetches i k w ins u →
    slot.length = 4 →
    let c := u.tc i k
    let open_ (tgt : Word) : Prop := c.pcc.refuses tgt.toNat 4 permX = none
    let holding (u : State) : State := { u with mem := Memory.write u.mem (tcmPa i k (c.pc.toNat + 4)) slot }
    ((∃ cond r1 r2 off, ins = .branch cond r1 r2 true off ∧ condHolds cond (u.tg i k r1) (u.tg i k r2) = false ∧
        cmd = .conditionalBranch (.t i k) w) ∨
     (∃ l off, ins = .jmp l true off ∧ open_ (c.pc + off.signExtend 64 * 4) ∧ cmd = .jump (.t i k) w) ∨
     (∃ r1, ins = .jr true r1 ∧ open_ (u.tg i k r1) ∧ cmd = .registerJump (.t i k) w) ∨
     (∃ rd r1, ins = .jalr true rd r1 ∧ open_ (u.tg i k r1) ∧ (rd ≠ r1 ∨ rd = 0) ∧ cmd = .registerJump (.t i k) w)) →
    completes cmd s fun t => (t.tc i k).delay = none ∧ (t.tc i k).entries = c.entries ∧ t.mem = u.mem ∧
      ((t.tc i k).pc = c.pc + 8 ∨ ∃ l off r1 rd, (ins = .jmp l true off ∧ (t.tc i k).pc = c.pc + off.signExtend 64 * 4) ∨
        ((ins = .jr true r1 ∨ ins = .jalr true rd r1) ∧ (t.tc i k).pc = u.tg i k r1)) ∧
      exec cmd (holding s) = .next (holding t))

/-- Husks and invasive debug (R336, R337, R344, R347, Table 10.3). -/
def Obligations.HusksAndDebug : Prop :=
  (∀ (s : State) (p : Path) (m : Master) (h : Fin 1024),
    let q : Req := .loc p m
    let key := huskKey h 2
    let x := s.huskGet h.val
    let b := s.begun q key
    (s.asked q key 1 = some 0 → x.st = .free ∧ s.hasHusks = true ∧ completes (.huskClaim q h) s fun t =>
      t = (b.huskPut h.val { x with st := .loading, owner := s.ownerByte m }).complete ⟨q, none⟩ 0) ∧
    (s.asked q key 2 = some 0 → x.st = .loading ∧ s.sealOk h.val = true ∧ completes (.huskSeal q h) s fun t =>
      t = (b.huskPut h.val { x with st := .sealing }).complete ⟨q, none⟩ 0) ∧
    (s.asked q key 3 = some 0 →
      let z := { s with held := false }.begun q key
      (x.st = .loading ∧ completes (.huskDestroy q h) s fun t =>
        t = s.orWaits ((z.huskPut h.val { x with st := .free }).complete ⟨q, none⟩ 0).settleForced) ∨
      (x.st = .valid ∧ completes (.huskDestroy q h) s fun t =>
        let u := (allFin 32).foldl (fun u c => if u.slotV x c.val then u.clearSlot x c else u) z
        let v := { u with acore := Vector.ofFn fun c =>
          let a := u.acore.get c
          { a with forced := a.forced || a.inHusk == some h.val
                   pred := a.pred.filter fun e => !(e.kind == PredKind.indirect && e.husk == some h.val) } }
        let y := ((v.huskPut h.val { x with st := .clearing }).complete ⟨q, none⟩ 0).settleForced
        t = s.orWaits y ∧ ∀ c, (y.acore.get c).forced = false))) ∧
  (∀ (s : State) (h : Nat), s.sealOk h = true →
    let x := s.huskGet h
    x.valid ≠ [] ∧
    (∀ r ∈ x.valid, rangeBase r + rangeSize r ≤ Config.carveOut ∧
      (x.owner.getLsbD 7 = false → ∀ k, k < 8 → rangesMeet r (s.ev 0x3000 (0x10 + k)) = false) ∧
      ∀ g y, (g, y) ∈ s.husk → g ≠ h → y.st ∈ [HuskSt.sealing, .valid, .clearing] → ∀ w ∈ y.valid, rangesMeet r w = false) ∧
    x.save.toNat % 0x8000 = 0 ∧ (∃ r ∈ x.valid, rangeHolds r x.save.toNat 0x8000 = true) ∧
    (∃ e ∈ x.entry.toList, e.getLsbD 0 = true) ∧
    (∀ e ∈ x.entry.toList, e.getLsbD 0 = true → ∃ r ∈ x.valid, rangeHas r (e.toNat - 1) = true) ∧
    (x.ring = 1 ∨ x.ring = 2) ∧ 12 ≤ x.stackLog2.toNat ∧ x.stackLog2.toNat ≤ 20) ∧
  (∀ (s : State) (h : Fin 1024),
    let x := s.huskGet h.val
    (x.st ≠ .sealing → exec (.huskSealingDone h) s = .next s) ∧
    (x.st = .sealing → completes (.huskSealingDone h) s fun t =>
      t = s.huskPut h.val { x with st := .valid, measure := BitVec.ofNat 384 (ofBytes (sha384 (s.huskImage x))) }) ∧
    (x.st ≠ .clearing → exec (.huskClearingDone h) s = .next s) ∧
    (x.st = .clearing → completes (.huskClearingDone h) s fun t =>
      t = s.orWaits (((x.valid.flatMap fun r => (List.range (rangeSize r / 64)).map fun k => rangeBase r / 64 + k).foldl State.zeroLine
        { s with held := false }).huskPut h.val { x with st := .free }))) ∧
  (∀ (s : State) (line j : Nat), s.canon → j < 64 → Memory.get (s.zeroLine line).mem (64 * line + j) = 0) ∧
  (∀ (s : State) (c : Fin 32),
    let a := s.acore.get c
    (s.invasive c = true ↔ s.ev 0x3300 (if a.secure then 1 else 3) ≠ 0 ∧
      (s.hasH = true → a.lh = false → (s.ev 0x3300 5).testBit a.part.toNat = true) ∧
      ∀ h, a.inHusk = some h → (s.huskGet h).flags.getLsbD 2 = true) ∧
    (a.run ≠ .running → a.run ≠ .wfi → exec (.debugHaltRequest (.a c)) s = .next s) ∧
    (a.run = .running ∨ a.run = .wfi → completes (.debugHaltRequest (.a c)) s fun t =>
      t = s.modA c fun a => if s.invasive c then { a with run := .halted, haltReq := false } else { a with run := .running, haltReq := true }) ∧
    (∀ single, a.run = .halted → (single = false ∨ s.invasive c = true) → completes (.debugResume (.a c) single) s fun t =>
      t = s.modA c fun a => { a with run := .running, step1 := single }) ∧
    (∀ single, (a.run ≠ .halted ∨ (single = true ∧ s.invasive c = false)) → exec (.debugResume (.a c) single) s = .next s)) ∧
  (∀ (s : State) (i k : Fin 4),
    let a := s.tc i k
    let inv := s.ev 0x3300 1 ≠ 0
    (a.run ≠ .running → a.run ≠ .wfi → exec (.debugHaltRequest (.t i k)) s = .next s) ∧
    (a.run = .running ∨ a.run = .wfi → completes (.debugHaltRequest (.t i k)) s fun t =>
      t = s.modTc i k fun a => let b := { a with waited := a.waited || a.run == TRun.wfi }
        if inv then { b with run := .halted, haltReq := false } else { b with run := .running, haltReq := true }) ∧
    (∀ single, a.run = .halted → (single = false ∨ inv) → completes (.debugResume (.t i k) single) s fun t =>
      t = s.modTc i k fun a => { a with run := .running, step1 := single }) ∧
    (∀ single, (a.run ≠ .halted ∨ (single = true ∧ ¬ inv)) → exec (.debugResume (.t i k) single) s = .next s))

/-- Power domains (R345, R346, R474 to R478, Tables 10.6 and 16.1). -/
def Obligations.PowerDomains : Prop :=
  (∀ (s : State) (q : Req) (d : Fin 64) (v : Byte),
    let key := ek 0x2000 (1 + d.val)
    s.asked q key v.toNat = some 0 →
    let x := s.dom d
    let tgt : PState := if v = 0 then .off else if v = 1 then .gated else .on
    let b := { s with held := false }.begun q key
    let waits : State := { b with hazel := { b.hazel with powerQ := [⟨⟨q, none⟩, d, tgt⟩] } }
    let lower := (tgt = .off ∧ x.cur ≠ .off) ∨ (tgt = .gated ∧ x.cur = .on)
    let cmd : Instr := .powerReq q d v
    v.toNat ≤ 2 ∧ systemDomain d.val = false ∧ (40 ≤ d.val → d.val < 44 → v ≠ 1) ∧
    (s.reqSecure q = false → ¬ (40 ≤ d.val ∧ d.val < 44) ∧ ∀ p, domPod d.val = some p → (s.ev 0x3000 2).testBit p.val = false ∧
      ∃ r, s.reqPart q = some r ∧ (s.ev (0x3100 + r) 3).testBit p.val = true) ∧
    (s.hazel.powerQ = [] →
      (x.changing.isSome = true → completes cmd s fun t => t = s.orWaits waits) ∧
      (x.changing = none → lower → x.hold = true → completes cmd s fun t =>
        t = s.orWaits (((b.modDom d fun y => { y with req := tgt, pending := some tgt, pendBy := s.reqSecure q }).powerOutcome q d 1).complete
          ⟨q, none⟩ 0)) ∧
      (x.changing = none → x.cur = tgt → completes cmd s fun t =>
        t = s.orWaits (((b.modDom d fun y => { y with req := tgt, pending := none }).powerOutcome q d 0).complete ⟨q, none⟩ 0)) ∧
      (x.changing = none → x.cur ≠ tgt → ¬ (lower ∧ x.hold = true) →
        (32 ≤ d.val → completes cmd s fun t => t = s.orWaits (waits.beginTo d tgt)) ∧
        (d.val < 32 → ∀ p, domPod d.val = some p →
          let l := s.dom (l2Dom p)
          (tgt = .off ∨ l.cur = .on → completes cmd s fun t => t = s.orWaits (waits.beginTo d tgt)) ∧
          (tgt ≠ .off → l.cur ≠ .on → l.changing.isSome = true → completes cmd s fun t => t = s.orWaits waits) ∧
          (tgt ≠ .off → l.cur ≠ .on → l.changing = none → completes cmd s fun t => t = s.orWaits (waits.beginTo (l2Dom p) .on)))))) ∧
  (∀ (s : State) (q : Req) (d : Fin 64) (v : Byte),
    let key := ek 0x2002 (1 + d.val)
    s.asked q key v.toNat = some 0 →
    let x := s.dom d
    let b := { s with held := false }.begun q key
    let cmd : Instr := .powerHold q d v
    let falls := ∃ t, x.changing = some t ∧ ((t = .off ∧ x.cur ≠ .off) ∨ (t = .gated ∧ x.cur = .on))
    s.reqSecure q = true ∧
    (v ≠ 0 → ¬ falls → completes cmd s fun t => t = s.orWaits ((b.modDom d fun y => { y with hold := true }).complete ⟨q, none⟩ 0)) ∧
    (v ≠ 0 → falls → completes cmd s fun t =>
      t = s.orWaits (b.modDom d fun y => { y with hold := true, holdBy := some ⟨q, none⟩ })) ∧
    (v = 0 → x.pending = none → completes cmd s fun t =>
      t = s.orWaits ((b.modDom d fun y => { y with hold := false }).complete ⟨q, none⟩ 0)) ∧
    (∀ p, v = 0 → x.pending = some p → completes cmd s fun t =>
      let u := b.modDom d fun y => { y with hold := false, pending := none }
      let w := if x.cur = p ∨ x.changing.isSome then u else u.beginTo d p
      t = s.orWaits ((if (w.src 35).secure = x.pendBy then w.pulse 35 else w).complete ⟨q, none⟩ 0))) ∧
  (∀ (s : State) (d : Fin 64) (tgt : PState),
    let b := s.beginTo d tgt
    (b.dom d).changing = some tgt ∧ (∀ e, e ≠ d → b.dom e = s.dom e) ∧
    (tgt ≠ .off → b = s.modDom d fun y => { y with changing := some tgt }) ∧
    (∀ i : Fin 4, tgt = .off → d.val = 40 + i.val → (b.island.get i).st = .held)) ∧
  (∀ (s : State) (d : Fin 64),
    let x := s.dom d
    let cmd : Instr := .domainTransitionDone d
    (x.changing = none → exec cmd s = .next s) ∧
    (∀ tgt, x.changing = some tgt →
      let l2Off := d.val < 32 ∧ ∃ p, domPod d.val = some p ∧ (s.dom (l2Dom p)).cur ≠ .on
      let sends := d.val = 51 ∧ ((∃ n : Fin 24, (s.gw.can.get n).attempt.isSome = true) ∨ ∃ m : Fin 12, (s.gw.lin.get m).header.isSome = true)
      ((tgt = .off ∧ sends) ∨ (tgt ≠ .off ∧ l2Off) → exec cmd s = .next s) ∧
      (¬ (tgt = .off ∧ sends) → ¬ (tgt ≠ .off ∧ l2Off) → completes cmd s fun t =>
        let y := { s with held := false }.reach d tgt
        t = s.orWaits y ∧ (y.dom d).cur = tgt ∧ (∀ e, e ≠ d → (y.dom e).cur = (s.dom e).cur) ∧
        (∀ c : Fin 32, c.val = d.val → (s.acore.get c).run ≠ .retired →
          (x.cur = .off → tgt ≠ .off → y.acore.get c = { ACore.init with
            run := .running
            pc := word (if s.hazel.coresOn.getLsbD c.val then s.ev 0x2300 8 else s.ev 0x2300 5)
            stat := statReset s.hasH (s.podWorld (podOf c))
            posted := (s.acore.get c).posted }) ∧
          (tgt = .off → (y.acore.get c).run ≠ .retired → y.acore.get c = { ACore.init with posted := (y.acore.get c).posted })) ∧
        (∀ p : Fin 8, d.val = 32 + p.val → tgt = .off → y.pod.get p = Pod.init) ∧
        (x.hold = true → x.holdBy.isSome = true → tgt ≠ .on → (y.dom d).changing = some .on))))

/-- Frequencies, supplies and temperatures (R486, R487, R522, R523, R533). -/
def Obligations.FrequenciesAndSupplies : Prop :=
  (∀ (s : State) (q : Req) (p : Fin 8) (v : BitVec 16),
    let key := ek 0x2100 (1 + p.val)
    let b := s.begun q key
    s.asked q key v.toNat = some 0 → v.toNat % 100 = 0 ∧ 400 ≤ v.toNat ∧ v.toNat ≤ s.mhzMax ∧ s.hazel.podJob.get p = none ∧
      completes (.podMhz q p v) s fun t =>
        t = { b with seed := { b.seed with journal := b.seed.journal ++ [⟨⟨q, none⟩, key, .num v.toNat⟩] } }) ∧
  (∀ (s : State) (a : Asker) (p : Fin 8) (old f : Nat),
    let now := s.hazel.podActual.get p
    let idle := ∀ k : Fin 32, k.val / 4 = p.val → (s.dom ⟨k.val, by omega⟩).cur = .off ∧ (s.dom ⟨k.val, by omega⟩).changing = none
    let job (u : State) (up : Bool) : State := { u with hazel := { u.hazel with podJob := vset u.hazel.podJob p (some ⟨a, f, old, up⟩) } }
    (idle ∨ now = f → s.podApply a p old f = s.complete a 0) ∧
    (¬ idle → now < f → s.podApply a p old f = job (s.pmicSend (toBytes 1 p.val ++ toBytes 2 (podMv f))) true) ∧
    (¬ idle → f < now → s.podApply a p old f = job s false)) ∧
  (∀ (s : State) (p : Fin 8),
    let now := s.hazel.podActual.get p
    ((s.hazel.podJob.get p).all (·.supply) = true → exec (.podPllRelockDone p) s = .next s) ∧
    (∀ j, s.hazel.podJob.get p = some j → j.supply = false → completes (.podPllRelockDone p) s fun t =>
      let z := { s with held := false }
      let u := if j.target < now then z.pmicSend (toBytes 1 p.val ++ toBytes 2 (podMv j.target)) else z
      t = s.orWaits (State.complete { u with hazel := { u.hazel with
        podActual := vset u.hazel.podActual p j.target
        podJob := vset u.hazel.podJob p none } } j.by_ 0))) ∧
  (∀ (s : State) (st : Byte) (late : Bool),
    let cmd : Instr := .pmicStatusPoll st late
    let rises (p : Fin 8) : Prop := ∃ j, s.hazel.podJob.get p = some j ∧ j.supply = true
    (s.hazel.pmicWait = true → completes cmd s fun t =>
      t = { s with hazel := { s.hazel with pmicWait := !st.getLsbD 0 } }) ∧
    (s.hazel.pmicWait = false → (∀ p, ¬ rises p) → exec cmd s = .next s) ∧
    (∀ p j, s.hazel.pmicWait = false → s.hazel.podJob.get p = some j → j.supply = true → (∀ r : Fin 8, r.val < p.val → ¬ rises r) →
      let keep (u : State) (o : Option PodJob) : State := { u with hazel := { u.hazel with podJob := vset u.hazel.podJob p o } }
      (st.getLsbD 0 = true → completes cmd s fun t => t = keep s (some { j with supply := false })) ∧
      (st.getLsbD 0 = false → late = true → completes cmd s fun t =>
        t = s.orWaits ((keep ({ s with held := false }.setE 0x2100 (1 + p.val) j.old) none).complete j.by_ 0xB)) ∧
      (st.getLsbD 0 = false → late = false → exec cmd s = .next s)) ∧
    (s.hazel.pmicWait = true → s.hazel.booting = true → completes .pmicPowerUpRetry s fun t =>
      t = { s with hazel := { s.hazel with pmicOut := s.hazel.pmicOut ++ [[0x40]] } }) ∧
    ((s.hazel.pmicWait = false ∨ s.hazel.booting = false) → exec .pmicPowerUpRetry s = .next s)) ∧
  (∀ (s : State) (k : Fin 16) (raw : Int) (cmd : Instr), cmd = .thermalThrottle k raw ∨ cmd = .thermalUnthrottle k raw →
    let u : State := { s with hazel := { s.hazel with temps := vset s.hazel.temps k raw } }
    let lim := (BitVec.ofNat 16 (s.ev 0x2102 1)).toInt
    let temp (j : Fin 16) : Int := (if j = k then raw else s.hazel.temps.get j) + (BitVec.ofNat 16 (s.ev 0x8001 (1 + j.val))).toInt
    let hot := ∃ j, lim * 64 ≤ temp j
    let cool := ∀ j, temp j ≤ (lim - 5) * 64
    let capped (c : Bool) : State := { u with hazel := { u.hazel with throttled := c } }
    (hot → s.hazel.throttled = false → completes cmd s fun t => t = ((capped true).addE 0x2102 2 32 1).pulse 35) ∧
    (cool → completes cmd s fun t => t = capped false) ∧
    (¬ cool → (¬ hot ∨ s.hazel.throttled = true) → completes cmd s fun t => t = u)) ∧
  (∀ s : State, s.canon → completes .pmicInt s fun t => ∃ y, s.srcBecomes t 35 y ∧ (s.src 35).asserted 35 y) ∧
  (∀ (s : State) (k : Fin 2),
    (s.domOn 55 = true → (k = 0 ∨ s.hazel.bifur = true) → completes (.pciePerstNRise k) s fun t =>
      t = { s with hazel := { s.hazel with perst := vset s.hazel.perst k true } }) ∧
    ((s.domOn 55 = false ∨ (k ≠ 0 ∧ s.hazel.bifur = false)) → exec (.pciePerstNRise k) s = .next s))

/-- Device states and waking (R479 to R484, R488 to R490, Tables 16.2 and 16.3). -/
def Obligations.DeviceStates : Prop :=
  let key := ek 0x2004 2
  (∀ (s : State) (q : Req),
    let b := (s.begun q key).complete ⟨q, none⟩ 0
    let enters (t : State) (d : DevSt) : Prop := ∃ cores islands, t = (b.modHz fun h =>
        { h with dev := d, from_ := .active, coresOn := cores, islandsOn := islands, wakeHeld := none }).pulse 35 ∧
      (∀ c : Fin 32, cores.getLsbD c.val = s.domOn ⟨c.val, by omega⟩) ∧
      ∀ i : Fin 4, islands.getLsbD i.val = (s.domOn ⟨40 + i.val, by omega⟩ && (s.island.get i).st != .held)
    (s.asked q key 2 = some 0 → s.hazel.dev = .active ∧ completes (.deviceReqSuspend q) s fun t => enters t .toSuspend) ∧
    (s.asked q key 3 = some 0 → (s.hazel.dev = .active ∧ completes (.deviceReqSleep q) s fun t => enters t .toSleep) ∨
      (s.hazel.dev = .suspend ∧ completes (.deviceReqSleep q) s fun t => t = b.sleepEntry)) ∧
    (s.asked q key 1 = some 0 → (s.hazel.dev = .suspend ∨ s.hazel.dev = .sleep) ∧ completes (.deviceReqActive q) s fun t =>
      t = if (s.ev 0x2200 1).testBit 25 then b.wakeEvent 0x40 else b)) ∧
  (∀ s : State,
    let d := s.hazel.dev
    let z := (allFin 32).foldl (fun s c => s.arriveAll c) { s with held := false }
    let idle := (∀ c : Fin 32, s.domOn ⟨c.val, by omega⟩ = true → (s.acore.get c).run = .wfi ∨ (s.acore.get c).run = .halted)
    let quiet := (∀ n : Fin 24, (s.gw.can.get n).attempt = none) ∧ ∀ m : Fin 12, (s.gw.lin.get m).header = none
    (¬ (idle ∧ quiet) ∨ (d ≠ .toSuspend ∧ d ≠ .toSleep) → exec .suspendCoresIdle s = .next s) ∧
    (idle → quiet → d = .toSuspend → completes .suspendCoresIdle s fun t => t = s.orWaits z.suspendEntry.heldWake) ∧
    (idle → quiet → d = .toSleep → completes .suspendCoresIdle s fun t => t = s.orWaits (z.quiesce.sleepEntry).heldWake) ∧
    ((idle ∨ (d ≠ .toSuspend ∧ d ≠ .toSleep)) → exec .suspendWaitExpiry s = .next s) ∧
    (¬ idle → d = .toSuspend ∨ d = .toSleep → completes .suspendWaitExpiry s fun t =>
      t = ((((s.modHz fun h => { h with dev := .active, wakeHeld := none, coresOn := 0, islandsOn := 0 }).setE 0x2004 5
        (1 + (if d = .toSuspend then 2 else 3) * 256 + 65536)).setE 0x2004 6 (s.time % 2 ^ 64)).pulse 35)) ∧
    (d = .suspend → s.ev 0x2004 4 ≠ 0 → completes .suspendToSleepExpiry s fun t => t = s.sleepEntry) ∧
    ((d ≠ .suspend ∨ s.ev 0x2004 4 = 0) → exec .suspendToSleepExpiry s = .next s)) ∧
  (∀ s : State,
    let t := s.suspendEntry
    let u := s.sleepEntry
    t.hazel.dev = .suspend ∧ t.husk = s.husk ∧ t.dap.holder = .hazel ∧ t.dap.subs = [] ∧ t.hazel.wakeHeld = s.hazel.wakeHeld ∧
    (∀ i : Fin 4, (t.island.get i).st = .held) ∧ (∀ p : Fin 8, t.pod.get p = Pod.init) ∧ (∀ k : Fin 2, t.hbm.train.get k = .selfRefresh) ∧
    (∀ d : Fin 64, (t.dom d).hold = (s.dom d).hold ∧ (t.dom d).cur =
      if d.val < 48 ∨ (50 ≤ d.val ∧ d.val ≤ 56) ∨ (58 ≤ d.val ∧ d.val ≤ 61) then .off
      else if d.val = 48 ∨ d.val = 49 ∨ d.val = 57 then .gated else (s.dom d).cur) ∧
    u.hazel.dev = .sleep ∧ u.husk = [] ∧ u.dap.holder = .hazel ∧ u.dap.subs = [] ∧ (∀ i : Fin 4, (u.island.get i).st = .held) ∧
    (∀ d : Fin 64, (u.dom d).cur = (if d.val < 62 then .off else .on) ∧ (u.dom d).hold = false ∧
      (u.dom d).req = if d.val < 40 ∨ d.val = 55 ∨ d.val = 58 then .off else .on)) ∧
  (∀ (s : State) (cause : Nat),
    let d := s.hazel.dev
    let noted := (s.setE 0x2200 5 cause).addE 0x2200 6 32 1
    (s.hazel.wakeHeld = none → s.heldWake = s) ∧ (∀ c, s.hazel.wakeHeld = some c → s.heldWake = s.wakeEvent c) ∧
    (s.hazel.stopped = true ∨ d = .active ∨ d = .waking ∨ d = .unpowered → s.wakeEvent cause = s) ∧
    (s.hazel.stopped = false → d = .suspend → s.wakeEvent cause = (noted.modHz fun h =>
      { h with from_ := .suspend, wakeHeld := none, dev := .waking, pmicWait := true, pllOk := false }).pmicSend [0x40]) ∧
    (s.hazel.stopped = false → d = .sleep → s.wakeEvent cause = ((((noted.modHz fun h => { h with from_ := .sleep, wakeHeld := none }).setE
      0x2300 1 6).setE 0x2300 3 2).modHz fun h =>
        { h with dev := .waking, booting := true, bootAt := s.time, pllOk := false, pmicWait := true }).pmicSend [0x40]) ∧
    (s.hazel.stopped = false → d = .toSuspend ∨ d = .toSleep → s.wakeEvent cause =
      s.modHz fun h => { h with wakeHeld := some (h.wakeHeld.getD cause) })) ∧
  (∀ s : State,
    let en (k : Nat) : Bool := (s.ev 0x2200 1).testBit k
    (∀ n : Fin 8, completes (.wakeInDebounceExpiry n) s fun t => t = if en (16 + n.val) then s.wakeEvent (0x20 + n.val) else s) ∧
    (completes .wakeTimer s fun t => t = if en 24 = true ∧ s.ev 0x2200 2 ≠ 0 then s.wakeEvent 0x30 else s) ∧
    (∀ (ch : Fin 8) (f : BusFrame),
      let d := s.hazel.dev
      let matches_ (k : Nat) : Prop :=
        let i := 0x2210 + k
        (s.ev i 1).testBit ch.val = true ∧ ((f.id.toNat + if f.ext then 2 ^ 29 else 0) ^^^ s.ev i 2) &&& s.ev i 3 = 0 ∧
        (ofBytes (slice (if f.rtr then [] else f.data) 0 8) ^^^ s.ev i 4) &&& s.ev i 5 = 0
      ((d = .active ∨ d = .waking ∨ d = .unpowered ∨ f.fmt = .xl ∨ f.fmt = .lin) → exec (.wakePatternMatch ch f) s = .next s) ∧
      ((d ≠ .active ∧ d ≠ .waking ∧ d ≠ .unpowered) → (f.fmt = .cc ∨ f.fmt = .fd) → s.canon → completes (.wakePatternMatch ch f) s fun t =>
        ∃ u : State, u = { s with ent := u.ent, fresh := u.fresh } ∧
          (∀ i e, (i < 0x2210 ∨ 0x2220 ≤ i ∨ e ≠ 6) → e < 256 → u.ev i e = s.ev i e) ∧
          (∀ k, k < 16 → (¬ matches_ k → u.ev (0x2210 + k) 6 = s.ev (0x2210 + k) 6) ∧
            (matches_ k → s.ev (0x2210 + k) 6 + 1 < 2 ^ 32 → u.ev (0x2210 + k) 6 = s.ev (0x2210 + k) 6 + 1)) ∧
          ((∀ k, k < 16 → matches_ k → en k = false) → t = u) ∧
          (∀ k, k < 16 → matches_ k → en k = true → (∀ j, j < k → matches_ j → en j = false) → t = u.wakeEvent (0x10 + k)))))

/-- The power-on sequence (R349, R350, R419 to R421, R469 to R471, R490, R493 to R496). -/
def Obligations.Boot : Prop :=
  let stage (u : State) (k : Nat) : State := u.setE 0x2300 3 k
  (∀ s : State,
    let h := s.hazel
    let lock (f : Fin 64 → Domain → PState) : State := { s with hazel := { h with
      pllOk := true
      doms := Vector.ofFn fun d => { h.doms.get d with cur := f d (h.doms.get d), changing := none, holdBy := none } } }
    (h.dev ≠ .waking ∨ h.pmicWait = true ∨ h.pllOk = true → exec .pllLock s = .next s) ∧
    (h.dev = .waking → h.pmicWait = false → h.pllOk = false →
      (h.booting = true → completes .pllLock s fun t => t = stage (lock fun d _ => if d.val < 40 ∨ d.val = 55 ∨ d.val = 58 then .off else .on) 3) ∧
      (h.booting = false → completes .pllLock s fun t =>
        t = lock fun d x => if (44 ≤ d.val ∧ d.val < 48) ∨ (59 ≤ d.val ∧ d.val ≤ 61) then .on else x.cur)) ∧
    (h.dev ≠ .waking ∨ h.pllOk = false → exec .sramFillDone s = .next s) ∧
    (h.dev = .waking → h.pllOk = true →
      (h.booting = true → completes .sramFillDone s fun t => t = if s.ev 0x2300 3 = 3 then stage s 4 else s) ∧
      (h.booting = false → completes .sramFillDone s fun t =>
        let y := { s with held := false }.resume
        t = s.orWaits y ∧ y.hazel.dev = .active ∧ y.hbm.train = s.hbm.keptTrain ∧
        (∀ d ∈ [(48 : Fin 64), 49, 57], (s.dom d).cur ≠ .off → (y.dom d).cur = .on) ∧
        (∀ i : Fin 4, let x := s.dom ⟨40 + i.val, by omega⟩
          (h.islandsOn.getLsbD i.val = true → x.cur = .off → x.req = .on → (y.island.get i).st = .test) ∧
          (h.islandsOn.getLsbD i.val = false → (y.island.get i).st = (s.island.get i).st))))) ∧
  (∀ (s : State) (ty : Nat) (h : ImageHeader) (body : List Byte),
    let part (off n : Nat) := slice h.bytes off n
    let f (off n : Nat) := ofBytes (part off n)
    s.verifies ty h body = true ↔
    f 0 4 = 0x4B52444E ∧ f 4 2 = 1 ∧ f 6 1 = ty ∧ f 0xC 4 = 0 ∧ f 0xB1 15 = 0 ∧ f 0x15AD 83 = 0 ∧
    f 7 1 < 4 ∧ s.ev 0x3000 (0x20 + f 7 1) = 1 ∧
    (∃ b, s.hazel.board = some b ∧ b.keyDigest.get (fin 3 (f 7 1)) = BitVec.ofNat 384 (ofBytes (sha384 (part 0x50 0x810)))) ∧
    s.ev 0x3000 (0x30 + ty) ≤ f 8 4 ∧
    Config.ecdsaVerify (part 0x50 97) (sha384 (part 0 0x860)) (part 0x860 96) = true ∧
    Config.mldsaVerify (part 0xC0 1952) (sha384 (part 0 0x860)) (part 0x8C0 3309) = true ∧
    body.length = f 0x10 8 ∧ BitVec.ofNat 384 (ofBytes (sha384 body)) = BitVec.ofNat 384 (f 0x20 48)) ∧
  (∀ (s : State) (h : ImageHeader) (unit : Nat) (body : List Byte),
    let u := { s with held := false }.stage9
    let st := u.ev 0x2300 3
    let cmd : Instr := .bootImageVerify h unit body
    let dirRead := ∃ b, u.hazel.board = some b ∧ b.dir.readOk = true
    let dirGood := ∃ b, u.hazel.board = some b ∧ bootDirOk b.dir = true
    let ty := if st = 4 then 4 else if st = 5 then 2 else if st = 6 then 3 else 1
    let held (k : Nat) (v : State) : State := v.modHz fun z => { z with images := kvPut (k + 256 * unit) body z.images }
    (u.hazel.booting = true → st = 4 → ¬ dirRead → completes cmd s fun t => t = s.orWaits (u.bootStop 0 2)) ∧
    (u.hazel.booting = true → st = 4 → dirRead → ¬ dirGood → completes cmd s fun t => t = s.orWaits (u.bootStop 0 1)) ∧
    (u.hazel.booting = true → 4 ≤ st → st ≤ 7 → (st = 4 → dirRead ∧ dirGood) →
      (h.readOk = false → completes cmd s fun t => t = s.orWaits (u.bootStop ty 2)) ∧
      (h.readOk = true → u.verifies ty h body = false → completes cmd s fun t => t = s.orWaits (u.bootStop ty 3)) ∧
      (h.readOk = true → u.verifies ty h body = true →
        (st = 4 → completes cmd s fun t => t = s.orWaits (stage (u.setE 0x1000 0xA (imgVersion h)) (if u.env.locked then 6 else 5))) ∧
        (st = 5 → completes cmd s fun t => t = s.orWaits (if envOk (imgLength h) body then stage (u.lockEnvelope h body) 6 else u.bootStop 2 4)) ∧
        (st = 6 → completes cmd s fun t =>
          (∃ v, u.applyParams h body = some v ∧ t = s.orWaits (stage v 7)) ∨ (u.applyParams h body = none ∧ t = s.orWaits (u.bootStop 3 5))) ∧
        (st = 7 → completes cmd s fun t => t = s.orWaits (stage ((u.setE 0x1000 9 (imgVersion h)).loadSmc (imgLoad h) body) 8)))) ∧
    (8 ≤ st → st ≤ 10 → u.domOn 57 = true → 5 ≤ imgType h → imgType h ≤ 7 → (imgType h = 7 → 9 ≤ st ∧ u.hbmReady = true) →
      ((h.readOk = false ∨ u.verifies (imgType h) h body = false) → completes cmd s fun t =>
        t = s.orWaits (if u.hazel.booting then u.bootStop (imgType h) (if h.readOk then 3 else 2) else u)) ∧
      (h.readOk = true → u.verifies (imgType h) h body = true →
        (imgType h = 5 → completes cmd s fun t => t = s.orWaits ((held 5 u).setE 0x6018 2 (imgVersion h))) ∧
        (∀ i : Fin 4, imgType h = 6 → unit = i.val → imgLoad h = sharedPa i 0x800000 → body.length = 0x80000 →
          completes cmd s fun t => t = s.orWaits (held 6 u)) ∧
        (imgType h = 7 → completes cmd s fun t =>
          let v := ((held 7 u).dmaWrite .smc (imgLoad h) body).1
          t = s.orWaits (if unit = 0 then v.setE 0x2300 5 (imgLoad h) else v)))) ∧
    ((u.hazel.booting = false ∨ st < 4 ∨ 7 < st) → (st < 8 ∨ 10 < st ∨ u.domOn 57 = false ∨ imgType h < 5 ∨ 7 < imgType h ∨
      (imgType h = 7 ∧ (st < 9 ∨ u.hbmReady = false))) → completes cmd s fun t => t = s.orWaits u) ∧
    (s.stage9 = s ∨ (s.ev 0x2300 3 = 8 ∧ s.hbm.fill = .done ∧ s.gw.ucode = .running ∧
      (∀ r ∈ s.dirRecs 6, (s.island.get (fin 3 r.unit)).st ≠ .held) ∧ s.stage9 = stage s 9))) ∧
  (∀ (s : State) (h : ImageHeader) (body : List Byte),
    let t := s.lockEnvelope h body
    t.env.locked = true ∧ t.env.secVersion = imgVersion h ∧ t.env.digest = imgDigest h ∧
    (∀ n : Fin 24, t.env.ports.get n = word (ofBytes (slice body (0x10 + 8 * n.val) 8)) ∧
      t.env.can.get n = word (ofBytes (slice body (0xD0 + 8 * n.val) 8)) ∧
      (t.gw.ports.get n).bucket = ofBytes (slice body (0x10 + 8 * n.val) 8) / 2 ^ 32 % 2 ^ 24 * 8000000) ∧
    (∀ k : Fin 64, t.env.outs.get k = (word (ofBytes (slice body (0x190 + 16 * k.val) 8)), word (ofBytes (slice body (0x198 + 16 * k.val) 8)))) ∧
    (∀ k, k < (body.length - 0x590) / 8 → t.env.allow[k]? = some (word (ofBytes (slice body (0x590 + 8 * k) 8))))) ∧
  (∀ (s : State) (ty reason cause : Nat), s.canon →
    let t := s.bootStop ty reason
    t.ev 0x2300 3 = 0xFF ∧ t.ev 0x2300 4 = s.ev 0x2300 3 + ty * 256 + reason * 65536 ∧ t.hazel.dev = .sleep ∧
    (∀ i : Fin 4, (t.island.get i).st = .held) ∧ t.wakeEvent cause = t) ∧
  (∀ (s : State) (i : Fin 4),
    let st := (s.island.get i).st
    let ready := s.domOn ⟨40 + i.val, by omega⟩ = true ∧ (st = .held ∨ st = .test)
    let cmd : Instr := .islandImageStage i
    (¬ ready ∨ kvGet? s.hazel.images (6 + 256 * i.val) = none → exec cmd s = .next s) ∧
    (∀ body, ready → kvGet? s.hazel.images (6 + 256 * i.val) = some body → completes cmd s fun t =>
      let a := sharedPa i 0x800000
      let b := body.take 0x80000
      let v : State := { (s.eccWrite a b.length).clearTags a b.length with mem := Memory.write s.mem a b }
      t = if st = .held then (v.releaseIsland i).stage9 else v.stage9)) ∧
  (∀ s : State,
    let verified := (kvGet? s.hazel.images 5).isSome = true
    (verified → s.domOn 50 = true → completes .microcodeLoad s fun t => t = State.stage9 { s with gw := { s.gw with ucode := .running } }) ∧
    ((¬ verified ∨ s.domOn 50 = false) → exec .microcodeLoad s = .next s) ∧
    let loaded := ∀ k, k < (s.dirRecs 7).length → (kvGet? s.hazel.images (7 + 256 * k)).isSome = true
    ((s.ev 0x2300 3 ≠ 9 ∨ ¬ loaded) → exec .bootCoreRelease s = .next s) ∧
    (s.ev 0x2300 3 = 9 → loaded → completes .bootCoreRelease s fun t =>
      let v := ((stage { s with held := false } 0xA).setE 0x2300 9 ((s.time - s.hazel.bootAt) / 1000 % 2 ^ 32)).activate
      ∃ y : State, t = s.orWaits y ∧ y.hazel.dev = .active ∧ ∀ c : Fin 32, c.val = s.ev 0x2300 6 % 32 →
        (v.coreRetired c.val = true → y = v) ∧
        (v.coreRetired c.val = false → ∀ l : Fin 64, l.val = 32 + c.val / 4 →
          y = v.modHz fun z => { z with doms := Vector.ofFn fun d =>
            if d = l ∨ d.val = c.val then { z.doms.get d with req := .on, changing := some .on } else z.doms.get d })))

/-- Resets (R421, R491, R492, R509, R526, R538, Tables 16.5 and 18.2). -/
def Obligations.Resets : Prop :=
  (∀ s : State, s.canon →
    let r := s.powerOnReset
    r = { State.reset with
      pending := s.pending
      time := s.time
      fresh := r.fresh
      ent := r.ent
      entB := r.entB
      retired := s.seed.retire
      seed := r.seed
      dap := r.dap
      hazel := { Hazel.init with board := s.hazel.board, bifur := s.hazel.bifur, porst := s.hazel.porst, mode := r.hazel.mode } } ∧
    r.seed.retire = s.seed.retire ∧ r.dap.txFresh = s.dap.txEnd ∧ r.dap.holder = Dap.init.holder ∧
    (∀ key, 0x400000 ≤ key → key < 0x800000 → isVol key = true → kvGet? r.ent key = none) ∧
    (∀ key, isVol key = false → key / 256 ≠ 0x1002 → key / 256 ≠ 0x8006 → kvGet? r.ent key = kvGet? s.ent key) ∧
    (∀ k : Fin 4, kvGet? r.ent (ek 0x3000 (0x20 + k.val)) = kvGet? s.ent (ek 0x3000 (0x20 + k.val)))) ∧
  (∀ (s : State) (b : Board), s.canon →
    (s.hazel.porst = true ∨ b.testEn = true → exec (.porstN b) s = .next s) ∧
    (s.hazel.porst = false → b.testEn = false → completes (.porstN b) s fun t => t = (s.powerOnReset.modHz fun h => { h with porst := true }).coldBoot b) ∧
    (completes .porstNLow s fun t => t = s.powerOnReset.modHz fun h => { h with porst := false }) ∧
    (∀ t, t = s.coldBoot b →
      (let e := if ek 0xA010 3 ∈ b.seedBad then 0 else kvGet 0 s.ent (ek 0xA010 3)
       kvGet 0 t.ent (ek 0xA010 3) = max e (min (e + 1) 0xFFFFFFFE)) ∧
      t.ev 0x2300 1 = 1 ∧ t.ev 0x2300 3 = 2 ∧ t.hazel.dev = .waking ∧ t.hazel.booting = true ∧ t.hazel.bootAt = s.time ∧
      t.hazel.board = some b ∧ t.hazel.bifur = b.bifur ∧ t.hazel.pmicOut = s.hazel.pmicOut ++ [[0x40]] ∧ t.pending = s.pending ∧
      (∀ w ∈ s.retired, w.toNat % 256 = 1 → ∀ c : Fin 32, c.val = w.toNat / 2 ^ 16 % 2 ^ 32 → (t.acore.get c).run = .retired) ∧
      (∀ key, key / 256 / 16 / 256 = 2 → isVol key = false → key ∉ b.seedBad → kvGet? t.ent key = kvGet? s.ent key))) ∧
  (∀ (s : State) (m : Fin 8),
    let h := s.hazel
    let full := h.dev = .active ∨ h.dev = .toSuspend ∨ h.dev = .toSleep ∨ (h.dev = .waking ∧ h.pmicWait = false)
    let dim := h.dev = .suspend ∨ (h.dev = .waking ∧ h.pmicWait = true ∧ h.from_ = .suspend)
    let on := m.val < 2 ∨ full ∨ (dim ∧ (m.val = 2 ∨ m.val = 4 ∨ m.val = 5))
    (¬ on → exec (.voltageMonitorTrip m) s = .next s) ∧
    (∀ b, on → h.porst = true → h.board = some b → completes (.voltageMonitorTrip m) s fun t => t = s.powerOnReset.coldBoot b) ∧
    (on → (h.porst = false ∨ h.board = none) → completes (.voltageMonitorTrip m) s fun t => t = s.powerOnReset)) ∧
  (∀ (s : State) (q : Req) (v : BitVec 32),
    let key := ek 0x2300 2
    (s.hazel.porst = false → exec .sysrstN s = .next s) ∧
    (s.hazel.porst = true → completes .sysrstN s fun t => t = s.systemReset 2) ∧
    (s.asked q key v.toNat = some 0 → v = 0x53595352 ∧ completes (.sysreset q v) s fun t =>
      t = ((s.begun q key).complete ⟨q, none⟩ 0).systemReset 3)) ∧
  (∀ (s : State) (code : Nat), s.canon →
    let t := s.systemReset code
    (t.ev 0x2300 1 = code ∧ t.ev 0x2300 3 = 2 ∧ t.hazel.dev = .waking ∧ t.hazel.booting = true ∧
      t.hazel.pllOk = false ∧ t.hazel.mode = s.hazel.mode ∧ t.env = s.env ∧ t.retired = s.retired ∧ t.seed.retire = s.seed.retire ∧
      t.husk = [] ∧ t.pending = s.pending ∧ (∀ i : Fin 4, (t.island.get i).st = .held) ∧
      (∀ d : Fin 64, (t.dom d).cur = if d.val < 62 then .off else .on))) ∧
  (∀ (s : State) (q : Req) (v : BitVec 16),
    let key := ek 0x2300 7
    s.asked q key v.toNat = some 0 → 10 ≤ v.toNat ∧ v.toNat ≤ 60000 ∧ completes (.smcWdt q v) s fun t =>
      t = ((s.begun q key).setE 0x2300 7 v.toNat).complete ⟨q, none⟩ 0) ∧
  (∀ s : State,
    (s.domOn 57 = false → exec .smcWatchdogExpiry s = .next s) ∧
    (s.domOn 57 = true → completes .smcWatchdogExpiry s fun t =>
      let u := s.ledgerEvent 0xFF 0 0 s.allOps
      (∀ g, s.hazel.graceAt = some g → t = u) ∧
      (s.hazel.graceAt = none → t = u.modHz fun h => { h with graceAt := some (u.time + u.ev 0x9000 3 * 1000000), resetCode := 4 })))

/-- Frames of the ports and the VIs (R355, R367, R373, R374, R381 to R386, Tables 11.7 to 11.10). -/
def Obligations.FramesOfVis : Prop :=
  (∀ (s : State) (n : Fin 24) (fr : List Byte) (fcsOk : Bool) (rxTime : Nat),
    let idx := 0x6000 + n.val
    let cmd : Instr := .frameReceive n fr fcsOk rxTime
    let u := ({ s with held := false }.addE idx 0x10 64 1).addE idx 0x11 64 fr.length
    let b := fr.take (fr.length - 4)
    let sized := 64 ≤ fr.length ∧ fr.length ≤ u.ev idx 6
    let op := ofBytesBE (slice fr 14 2)
    let pause := ofBytesBE (slice fr 12 2) = 0x8808 ∧ (op = 0x0001 ∨ op = 0x0101)
    (s.link n ≠ 1 → exec cmd s = .next s) ∧
    (s.link n = 1 → fcsOk = false ∨ ¬ sized → completes cmd s fun t => t = s.orWaits (u.addE idx 0x12 32 1)) ∧
    (s.link n = 1 → fcsOk = true → sized →
      (pause → completes cmd s fun t => t = s.orWaits (u.addE idx 0x13 32 1)) ∧
      (¬ pause → u.domOn 52 = false → completes cmd s fun t => t = s.orWaits (u.addE idx 0x14 32 1)) ∧
      (¬ pause → u.domOn 52 = true →
        (∀ v, u.secAccept n b = (v, none) → completes cmd s fun t => t = s.orWaits (v.addE idx 0x15 32 1)) ∧
        ∀ v c, u.secAccept n b = (v, some c) → completes cmd s fun t =>
          t = s.orWaits (v.tryKeys (.eth n c) rxTime (v.flowKeys n (ethParse c)))))) ∧
  (∀ (s : State) (n : Fin 24) (b : List Byte),
    let idx := 0x6000 + n.val
    let on := s.ev idx 0x40 ≠ 0
    let strict := s.ev idx 0x42 = 2
    (¬ on → s.secAccept n b = (s, some b)) ∧
    (on → ofBytesBE (slice b 12 2) ≠ 0x88E5 → s.secAccept n b = (s, if strict then none else some b)) ∧
    (on → ofBytesBE (slice b 12 2) = 0x88E5 →
      (secParse b = none → s.secAccept n b = (s, none)) ∧
      ∀ f, secParse b = some f →
        (∀ v d, s.secCheck n f = some (v, d) → s.secAccept n b = (v, some (b.take 12 ++ d)) ∧
          ∃ (c : Fin 4) (pn : Nat), s.secChan n f = some c ∧ pn % 2 ^ 32 = f.pn % 2 ^ 32 ∧
            let a := 4 * c.val + f.tci % 4
            let next := s.ev idx (0x70 + a)
            (s.ev idx 0x54).testBit a = true ∧ (s.eb idx (0x60 + a)).length = 48 ∧ next ≤ pn + s.ev idx 0x44 ∧
            v = s.setE idx (0x70 + a) (max next ((pn + 1) % 2 ^ 64))) ∧
        (s.secCheck n f = none → strict ∨ f.tci.testBit 3 = true → s.secAccept n b = (s, none)) ∧
        (s.secCheck n f = none → ¬ strict → f.tci.testBit 3 = false → s.secAccept n b = (s, some (b.take 12 ++ f.data))))) ∧
  (∀ (s : State) (n : Fin 24) (b : List Byte) (time : Nat),
    s.tryKeys (.eth n b) time [] = if s.ev (0x6000 + n.val) 0xB = 1
      then s.deliver (s.ev (0x6000 + n.val) 0xC) (fin 15 (s.ev (0x6000 + n.val) 0xD)) ⟨b, n.val, 0, 0, time, false⟩
      else s.addE (0x6000 + n.val) 0x14 32 1) ∧
  (∀ (s : State) (it : Looked) (time : Nat) (k : List Byte) (rest : List (List Byte)),
    let waits := s.gw.miss.any (·.key == k)
    let room := s.gw.miss.length < 4096
    let queued (v : State) : State := { v with gw := { v.gw with miss := v.gw.miss ++ [⟨it, k, rest, time⟩] } }
    let u := s.addE 0x6200 4 64 1
    (waits = true → s.tryKeys it time (k :: rest) = if room then queued s else s.addE 0x6200 5 32 1) ∧
    (∀ h, waits = false → s.cacheFind k = some h → s.tryKeys it time (k :: rest) = (s.addE 0x6200 3 64 1).matched h it time) ∧
    (waits = false → s.cacheFind k = none → s.tryKeys it time (k :: rest) = if room then queued u else u.addE 0x6200 5 32 1)) ∧
  (∀ (s : State) (p : Bool), s.gw.miss = [] → exec (.carveOutReadDone p) s = .next s) ∧
  (∀ (s : State) (p : Bool) (m : MissFrame) (rest : List MissFrame), s.gw.miss = m :: rest →
    let mine := s.gw.miss.filter (·.key == m.key)
    let z : State := { s with held := false, gw := { s.gw with miss := s.gw.miss.filter (·.key != m.key) } }
    let v := z.ctxRead (flowHandles m.key) (if p then (z.flowFind m.key).toList else [])
    let served (u : State) : State := mine.foldl (fun u f => match u.flowFind m.key with
      | some g => u.matched g f.item f.time
      | none => u.tryKeys f.item f.time f.rest) u
    (∀ h c, v.flowFind m.key = some h → v.ctx? h = some c → completes (.carveOutReadDone p) s fun t =>
      t = s.orWaits (served (v.flowPut h c))) ∧
    (v.flowFind m.key = none → completes (.carveOutReadDone p) s fun t => t = s.orWaits (served v))) ∧
  (∀ (s : State) (h : Nat) (bad : List Nat),
    let cached := ∃ e ∈ s.gw.cache, ∃ x ∈ e.2, x.1 = h
    (cached → s.ctxRead [h] bad = s) ∧
    (¬ cached → ∀ r d po, s.dmaRead .flowEngine (ctxPa h) 64 = (r, some (d, po)) → s.ctxRead [h] bad = if po = true ∨ h ∈ bad
      then ((r.flowDel h).addE 0x6200 5 32 1).record bankGw 0x13 4 0 (ctxPa h) 0 else r)) ∧
  (∀ (s : State) (v : Nat) (q : Fin 16) (it : RxItem),
    let x := s.qp v q
    let free := s.qpOn v q = true ∧ x.rx.length < (x.rxTail - x.rxHead).toNat - x.rxDone.length
    (it.bus ≠ s.busMode v q → s.deliver v q it = s.addE 0x6500 9 32 1) ∧
    (it.bus = s.busMode v q → ¬ free → s.deliver v q it = s.addE (0x6300 + v) 0xB 32 1) ∧
    (it.bus = s.busMode v q → free → s.deliver v q it = s.modQp v q fun y => { y with rx := y.rx ++ [it] })) ∧
  (∀ (s : State) (v : Fin 256) (q : Fin 16),
    let x := s.qp v.val q
    let cmd : Instr := .rxDescriptorFill v q
    let idx := x.rxNext
    let a := s.rxAddr v.val q idx
    ((x.rx = [] ∨ s.qpOn v.val q = false ∨ s.domOn 50 = false) → exec cmd s = .next s) ∧
    (∀ it rest, x.rx = it :: rest → s.qpOn v.val q = true → s.domOn 50 = true →
      let u := { s with held := false }.modQp v.val q fun y => { y with rx := rest }
      (∀ r, u.dmaRead (.gateway v) a 32 = (r, none) → completes cmd s fun t => t = s.orWaits (r.qpStop v.val q idx a)) ∧
      (∀ r d, u.dmaRead (.gateway v) a 32 = (r, some (d, true)) → completes cmd s fun t =>
        t = s.orWaits ((r.record bankGw 0x13 4 v.val a 0).qpStop v.val q idx a)) ∧
      (∀ r d, u.dmaRead (.gateway v) a 32 = (r, some (d, false)) →
        let size := ofBytes (slice d 8 2)
        let w := it.bytes.length % 2 ^ 16 + it.port % 32 * 2 ^ 16 + it.kind % 8 * 2 ^ 21 + it.handle % 2 ^ 20 * 2 ^ 24
        (∀ p, r.dmaWrite (.gateway v) (ofBytes (slice d 0 8)) (it.bytes.take size) = (p, false) → completes cmd s fun t =>
          t = s.orWaits (p.rxComplete v.val q idx 0x84)) ∧
        (∀ p, r.dmaWrite (.gateway v) (ofBytes (slice d 0 8)) (it.bytes.take size) = (p, true) →
          (∀ e, p.dmaWrite (.gateway v) (a + 8) (toBytes 7 w) = (e, false) → completes cmd s fun t =>
            t = s.orWaits (e.qpStop v.val q idx a)) ∧
          ∀ e, p.dmaWrite (.gateway v) (a + 8) (toBytes 7 w) = (e, true) →
            ∀ g, e.dmaWrite (.gateway v) (a + 0x10) (toBytes 8 it.time) = (g, true) → completes cmd s fun t =>
              t = s.orWaits ((g.rxComplete v.val q idx (if it.bytes.length ≤ size then 0x81 else 0x82)).addE (0x6300 + v.val) 0xA 64 1))))) ∧
  (∀ (s : State) (m : Master) (v : Fin 256) (q : Fin 16) (val : Word),
    let may := s.masterSecure m = true ∨ ∃ p, s.viPart v.val = some p ∧ s.masterPart m = some p
    let x := s.qp v.val q
    let lost := (s.setViBit v.val 32 0).addE (0x6300 + v.val) 0xC 32 1
    let i := 0x6300 + v.val
    let serves := s.ev i 1 ≠ 0 ∧ s.ev i (0x14 + 8 * q.val) ≠ 0 ∧ x.stopBy = none
    (∀ cmd : Instr, cmd = .txTail m v q val ∨ cmd = .rxTail m v q val ∨ cmd = .viIrqStat m v val →
      ¬ may → completes cmd s fun t => t = { s with reply := .error .wlderr }) ∧
    (may → completes (.txTail m v q val) s fun t =>
      t = if serves ∧ (val.setWidth 16 - x.txHead).toNat ≤ s.ev i (0x11 + 8 * q.val)
        then s.modQp v.val q fun y => { y with txTail := val.setWidth 16 } else lost) ∧
    (may → completes (.rxTail m v q val) s fun t =>
      t = if serves ∧ (val.setWidth 16 - x.rxHead).toNat ≤ s.ev i (0x13 + 8 * q.val)
        then s.modQp v.val q fun y => { y with rxTail := val.setWidth 16 } else lost) ∧
    (may → completes (.viIrqStat m v val) s fun t =>
      t = (s.putVi v.val { s.vi v.val with stat := (s.vi v.val).stat &&& ~~~(val.setWidth 35) }).viLine v.val ∧
      (s.canon → (t.vi v.val).stat = (s.vi v.val).stat &&& ~~~(val.setWidth 35) ∧ (t.vi v.val).qps = (s.vi v.val).qps))) ∧
  (∀ (s : State) (v : Fin 256),
    let x := s.vi v.val
    (x.modArmed = false → exec (.irqModExpiry v) s = .next s) ∧
    (x.modArmed = true → completes (.irqModExpiry v) s fun t => t = (s.putVi v.val { x with modOpen := true }).viLine v.val) ∧
    (x.stat &&& x.en = 0 → s.viLine v.val = (s.putVi v.val { x with modArmed := false, modOpen := false }).setLine (192 + v.val) false) ∧
    (x.stat &&& x.en ≠ 0 → s.viLine v.val = (s.putVi v.val x).setLine (192 + v.val) (!x.modArmed || x.modOpen))) ∧
  (∀ (s : State) (v : Fin 256) (q : Fin 16),
    let x := s.qp v.val q
    let cmd : Instr := .txDescriptorReadDone v q
    let idx := x.fetched.toNat
    let a := s.txAddr v.val q idx
    ((s.qpOn v.val q = false ∨ s.domOn 50 = false ∨ x.fetched = x.txTail) → exec cmd s = .next s) ∧
    (s.qpOn v.val q = true → s.domOn 50 = true → x.fetched ≠ x.txTail →
      let z := { s with held := false }
      (∀ r, z.dmaRead (.gateway v) a 32 = (r, none) → completes cmd s fun t => t = s.orWaits (r.qpStop v.val q idx a)) ∧
      (∀ r d, z.dmaRead (.gateway v) a 32 = (r, some (d, true)) → completes cmd s fun t =>
        t = s.orWaits ((r.record bankGw 0x13 4 v.val a 0).qpStop v.val q idx a)) ∧
      (∀ r d, z.dmaRead (.gateway v) a 32 = (r, some (d, false)) →
        let w := ofBytes (slice d 8 8)
        let len := w % 2 ^ 16
        let buf := ofBytes (slice d 0 8)
        let bus := r.busMode v.val q = true
        let bad := w / 2 ^ 24 % 2 ^ 8 ≠ 0 ∨ w / 2 ^ 52 % 2 ^ 4 ≠ 0 ∨ (bus ∧ (w / 2 ^ 18 % 2 ^ 6 ≠ 0 ∨ w / 2 ^ 32 % 2 ^ 20 ≠ 0)) ∨ (¬ bus ∧ len < 14)
        let refused (b : State) (code : Nat) : State := s.orWaits (b.txRefuse v.val q idx code)
        (bad → completes cmd s fun t => t = refused r 7) ∧
        (∀ b, ¬ bad → r.dmaRead (.gateway v) buf len = (b, none) → completes cmd s fun t => t = refused b 8) ∧
        (∀ b f, ¬ bad → r.dmaRead (.gateway v) buf len = (b, some (f, true)) → completes cmd s fun t =>
          t = refused (b.record bankGw 0x13 4 v.val buf 0) 8) ∧
        (∀ b f, ¬ bad → bus → r.dmaRead (.gateway v) buf len = (b, some (f, false)) → completes cmd s fun t =>
          t = s.orWaits (b.txBus v.val q idx d f)) ∧
        (∀ b f, ¬ bad → ¬ bus → w.testBit 18 = true → r.dmaRead (.gateway v) buf len = (b, some (f, false)) →
          let h := w / 2 ^ 32 % 2 ^ 20
          let x := b.ctxRead [h] []
          (x.ctx? h = none → completes cmd s fun t => t = refused x 9) ∧
          (∀ c, x.ctx? h = some c → c.owner ≠ v.val → completes cmd s fun t => t = refused x 6)) ∧
        (∀ b f, ¬ bad → ¬ bus → w.testBit 18 = false → r.dmaRead (.gateway v) buf len = (b, some (f, false)) →
          let p := w / 2 ^ 19 % 32
          let e := ethParse (f ++ List.replicate (60 - len) 0)
          ((24 ≤ p ∨ (b.ev (0x6300 + v.val) 2).testBit p = false) → completes cmd s fun t => t = refused b 6) ∧
          (∀ n : Fin 24, n.val = p → (b.ev (0x6300 + v.val) 2).testBit p = true →
            (b.ev (0x6000 + p) 6 < len + 4 → completes cmd s fun t => t = refused b 7) ∧
            (len + 4 ≤ b.ev (0x6000 + p) 6 → completes cmd s fun t =>
              t = s.orWaits ((b.txOpen v.val q idx 1).egress n e e.vid e.prio (if w.testBit 17 then some (ofBytes (slice d 16 8)) else none)
                (some ⟨v.val, q.val, idx, w.testBit 16, false⟩)))))))) ∧
  (∀ (s : State) (rq : Req) (v : Fin 256) (q : Fin 16) (val : Word),
    let key := ek (0x6300 + v.val) (0x14 + 8 * q.val)
    let b := { s with held := false }.begun rq key
    s.asked rq key val.toNat = some 0 → val.toNat ≤ 1 ∧
      (val = 1 → completes (.qpEnable rq v q val) s fun t =>
        t = s.orWaits ((b.setE (0x6300 + v.val) (0x14 + 8 * q.val) 1).complete ⟨rq, none⟩ 0)) ∧
      (val = 0 → completes (.qpEnable rq v q val) s fun t => t = s.orWaits (b.qpDisable v.val q (some ⟨rq, none⟩))))

/-- Ports (R357 to R364, R368, R382, R387, R423). -/
def Obligations.Ports : Prop :=
  (∀ (s : State) (n : Fin 24) (q : Fin 8),
    let u := { s with held := false }.credits n
    let p := s.gw.ports.get n
    let cmd : Instr := .frameTransmitStart n q
    let low := u.preemptable n q.val = true
    let fin (x : State) : State := s.orWaits x.qpSettle
    (p.sending = none → p.paused = none → completes cmd s fun t => t = fin (u.txHead n q none)) ∧
    (∀ y, p.sending = some y → (p.paused.isSome = true ∨ low ∨ u.preemptable n y.q = false ∨ u.cut n y = none) → completes cmd s fun t => t = fin u) ∧
    (∀ y r, p.sending = some y → p.paused = none → ¬ low → u.preemptable n y.q = true → u.cut n y = some r → completes cmd s fun t =>
      t = fin (u.txHead n q (some r))) ∧
    (∀ r, p.sending = none → p.paused = some r →
      (r.q = q.val → completes cmd s fun t => t = fin (if s.domOn 50 = true ∧ u.gateFits n r.q (octetTime n (r.octets + 8)) = true
        then u.modPort n fun x => { x with sending := some { r with startAt := s.time }, paused := none } else u)) ∧
      (r.q ≠ q.val → completes cmd s fun t => t = fin (if u.preemptable n q.val then u else u.txHead n q (some r)))) ∧
    (∀ k, s.preemptable n k = true ↔ (s.ev (0x6101 + n.val) 0x10).testBit k = true ∧ s.link n = 1 ∧
      (s.ev (0x6101 + n.val) 0x12 = 0 ∨ p.preempt = true)) ∧
    (∀ y, s.cut n y = let k := (s.time - y.startAt) * portRate n / 8000
      if 64 * (1 + s.ev (0x6101 + n.val) 0x11) ≤ k ∧ k + 64 ≤ y.octets then some { y with octets := y.octets - k } else none)) ∧
  (∀ (s : State) (n : Fin 24) (q : Fin 8) (cut : Option Sending),
    let p := s.gw.ports.get n
    let idx := 0x6000 + n.val
    let go := s.txHead n q cut
    ((p.queues.get q = [] ∨ s.domOn 50 = false) → go = s) ∧
    (∀ f rest, p.queues.get q = f :: rest → s.domOn 50 = true →
      let early := ∃ l, f.launch = some l ∧ s.time < l
      let late := ∃ l, f.launch = some l ∧ l + s.ev 0x6100 3 < s.time
      let ends (u : State) (code : Nat) (count : Bool) (t : State) : Prop :=
        let v := u.modPort n fun x => { x with queues := vset x.queues q ((x.queues.get q).drop 1) }
        let w := if count then v.addE idx 0x18 32 1 else v
        (f.ref = none → t = w) ∧ ∀ r, f.ref = some r → t = w.txCopyEnd r code
      (s.link n ≠ 1 → ends s 5 true go) ∧
      (s.link n = 1 → early ∨ s.env.locked = false ∨ s.ringHeld n q f = true → go = s) ∧
      (s.link n = 1 → ¬ early → s.env.locked = true → s.ringHeld n q f = false →
        (late → ends s 2 true go) ∧
        (¬ late → ∀ u wire, s.wireBytes n f = (u, wire) →
          let len := wire.length + 4
          let dur := octetTime n (len + 8)
          let never := u.everFits n q.val dur = false
          let closes := u.gateFits n q.val dur = false
          let noCredit := u.ev (0x6101 + n.val) (8 + q.val) ≠ 0 ∧ p.credit.get q < 0
          let rec_ := (u.env.ports.get n).toNat
          let bucket := min (rec_ / 2 ^ 32 % 2 ^ 24 * 8000000) (p.bucket + (u.time - p.bucketAt) * (rec_ % 2 ^ 32))
          let free := rec_ % 2 ^ 32 = 0xFFFFFFFF
          let enough := rec_ % 2 ^ 32 ≠ 0 ∧ len * 8000000 ≤ bucket
          let put (v : Nat) : State := u.modPort n fun x => { x with bucket := v, bucketAt := u.time }
          let starts (v t : State) : Prop :=
            let a := match p.sending with
              | some y => v.creditLoss n y.q (v.sentOctets n y)
              | none => v
            let w := (a.modPort n fun x => { x with
              queues := vset x.queues q ((x.queues.get q).drop 1), sending := some ⟨q.val, f, len, u.time, wire⟩, paused := cut }).secCount n
            (f.ref = none → t = w) ∧ ∀ r, f.ref = some r → t = w.txBegun r
          (never → ends u 3 true go) ∧
          (¬ never → closes ∨ noCredit → go = u) ∧
          (¬ never → ¬ closes → ¬ noCredit → u.pnExhausted n = true → ends u 0xC false go) ∧
          (¬ never → ¬ closes → ¬ noCredit → u.pnExhausted n = false →
            (free → starts u go) ∧
            (¬ free → enough → starts (put (bucket - len * 8000000)) go) ∧
            (¬ free → ¬ enough → ends (((put bucket).countWrap 0x7002 (1 + n.val)).violation 0 n.val 0) 4 false go))))) ∧
    (∀ f, s.ev idx 0x40 = 0 → (s.wireBytes n f).1 = s ∧
      (s.wireBytes n f).2.length = max 60 (f.bytes.length + if f.vid = s.ev idx 8 then 0 else 4)) ∧
    (∀ f, s.ev idx 0x40 ≠ 0 → s.wireBytes n f =
      ({ s with fresh := s.fresh + 1 }, s.secProtect n (Config.freeBool s.fresh) (s.plainBytes n f))) ∧
    (s.gclOper n = [] → p.gclPending = false → ∀ dur, s.gateFits n q.val dur = true ∧ s.everFits n q.val dur = true) ∧
    (s.pnExhausted n = true ↔ s.ev idx 0x40 ≠ 0 ∧ ((s.eb idx (0x48 + s.ev idx 0x46 % 4)).length ≠ 48 ∨
      let pn := s.ev idx (0x4C + s.ev idx 0x46 % 4)
      if 2 ≤ s.ev idx 0x41 then pn = 2 ^ 64 - 1 else 2 ^ 32 - 1 ≤ pn)) ∧
    (s.secCount n = if s.ev idx 0x40 = 0 then s else
      let sub := 0x4C + s.ev idx 0x46 % 4
      let pn := s.ev idx sub + 1
      let v := s.setE idx sub (pn % 2 ^ 64)
      if pn = s.ev idx 0x47 then v.pulse 510 else v)) ∧
  (∀ (s : State) (n : Fin 24),
    let idx := 0x6000 + n.val
    let u := { s with held := false }.credits n
    let fin (x : State) : State := s.orWaits x.qpSettle
    let cmd : Instr := .frameTransmitEnd n
    ((s.gw.ports.get n).sending = none → completes cmd s fun t => t = fin u) ∧
    (∀ x, (s.gw.ports.get n).sending = some x → x.q < 8 →
      let slope := s.ev (0x6101 + n.val) (8 + x.q)
      let loss : Int := if slope = 0 then 0 else ((portRate n : Int) * 1000 - slope) * octetTime n (x.octets + 8)
      let v := ((u.modPort n fun p => { p with sending := none, credit := Vector.ofFn fun k => if k.val = x.q then p.credit.get k - loss else p.credit.get k }).addE
        idx 0x16 64 1).addE idx 0x17 64 (x.wire.length + 4)
      completes cmd s fun t => (x.fr.ref = none → t = fin v) ∧
        ∀ r, x.fr.ref = some r → t = fin ((v.addE (0x6300 + r.vi) 9 64 1).txCopyEnd r 1)) ∧
    (∀ q : Fin 8, s.ev (0x6101 + n.val) (8 + q.val) ≠ 0 →
      let p := s.gw.ports.get n
      let c := p.credit.get q
      let up := c + (s.ev (0x6101 + n.val) (8 + q.val) : Int) * ↑(s.time - p.creditAt)
      let held := (∃ x, p.sending = some x ∧ x.q = q.val) ∨ p.gates.toNat.testBit q.val = false
      let now := ((s.credits n).gw.ports.get n).credit.get q
      (held → now = c) ∧ (¬ held → p.queues.get q ≠ [] → now = up) ∧ (¬ held → p.queues.get q = [] → now = if 0 ≤ c then 0 else min up 0))) ∧
  (∀ (s : State) (n : Fin 24) (q : Fin 8),
    let p := s.gw.ports.get n
    let due := ∃ f rest l, p.queues.get q = f :: rest ∧ f.launch = some l ∧ l ≤ s.time
    (¬ due → exec (.launchTimeReached n q) s = .next s) ∧
    (due → completes (.launchTimeReached n q) s fun t => ∀ f rest, p.queues.get q = f :: rest →
      t = s.modPort n fun x => { x with queues := vset x.queues q ({ f with launch := none } :: rest) }) ∧
    (completes (.shaperCreditRecovered n q) s fun t =>
      let u := s.credits n
      t = if p.gates.toNat.testBit q.val = true ∧ (u.gw.ports.get n).credit.get q < 0 then u.modPort n fun x => { x with credit := vset x.credit q 0 } else u)) ∧
  (∀ (base cycle now : Nat), cycle ≠ 0 → ∃ k, switchTime base cycle now = base + k * cycle ∧
    now + 1000000 ≤ base + k * cycle ∧ ∀ j, j < k → base + j * cycle < now + 1000000) ∧
  (∀ (s : State) (n : Fin 24),
    let p := s.gw.ports.get n
    let i := 0x6101 + n.val
    let l := gclRecs (s.eb i 5)
    (l = [] → exec (.gateControlIntervalEnd n) s = .next s) ∧
    (∀ time g, l[(p.gclIdx + 1) % l.length]? = some (time, g) → completes (.gateControlIntervalEnd n) s fun t =>
      t = (s.credits n).modPort n fun x => { x with gclIdx := (p.gclIdx + 1) % l.length, gates := BitVec.ofNat 8 g, gclAt := p.gclAt + time }) ∧
    (∀ rq v, let b := s.begun rq (ek i 3)
      s.asked rq (ek i 3) (BitVec.toNat v) = some 0 → p.gclPending = false ∧ s.gw.ucode ≠ .failed ∧ completes (.gclApply rq n v) s fun t =>
        let when_ := switchTime (s.ev i 2) (((gclRecs (s.eb i 1)).map (·.1)).foldl (· + ·) 0) s.time
        let armed := b.modPort n fun x => { x with gclPending := true, gclT := when_ }
        t = (if v = 1 then armed else b).complete ⟨rq, none⟩ 0) ∧
    (p.gclPending = false → exec (.gclSwitch n) s = .next s) ∧
    (∀ time g rest, p.gclPending = true → gclRecs (s.eb i 1) = (time, g) :: rest → completes (.gclSwitch n) s fun t =>
      t = ((s.credits n).setB i 5 (s.eb i 1)).modPort n fun x =>
        { x with gclPending := false, gclIdx := 0, gates := BitVec.ofNat 8 g, gclAt := p.gclT + time }) ∧
    (∀ ok, completes (.preemptVerifyResponse n ok) s fun t => t = s.modPort n fun x => { x with preempt := ok }) ∧
    (∀ up, completes (.portLinkChange n up) s fun t => t = s.modPort n fun x => { x with link := up, preempt := x.preempt && up })) ∧
  (∀ (s : State) (g : Fin 64),
    let p := s.gw.sgates.get g
    let i := 0x6130 + g.val
    let l := sglRecs (s.eb i 5)
    (l = [] → exec (.streamGateIntervalEnd g) s = .next s) ∧
    (∀ time o, l[(p.idx + 1) % l.length]? = some (time, o) → completes (.streamGateIntervalEnd g) s fun t =>
      t = s.modGate g fun x => { x with idx := (p.idx + 1) % l.length, isOpen := o, at_ := p.at_ + time }) ∧
    (∀ rq v, let b := s.begun rq (ek i 3)
      s.asked rq (ek i 3) (BitVec.toNat v) = some 0 → p.pending = false ∧ s.gw.ucode ≠ .failed ∧ completes (.sglApply rq g v) s fun t =>
        let when_ := switchTime (s.ev i 2) (((sglRecs (s.eb i 1)).map (·.1)).foldl (· + ·) 0) s.time
        let armed := b.modGate g fun x => { x with pending := true, switchAt := when_ }
        t = (if v = 1 then armed else b).complete ⟨rq, none⟩ 0) ∧
    (p.pending = false → exec (.sglSwitch g) s = .next s) ∧
    (∀ time o rest, p.pending = true → sglRecs (s.eb i 1) = (time, o) :: rest → completes (.sglSwitch g) s fun t =>
      t = (s.setB i 5 (s.eb i 1)).modGate g fun x => { x with pending := false, idx := 0, isOpen := o, at_ := p.switchAt + time })) ∧
  (∀ (s : State) (k : Fin 4),
    let dom := s.ev 0x6100 (4 + k.val)
    let up := s.gw.ucode = .running
    let runs := up ∧ dom ≠ 0xFF
    let chief := s.ev 0x6100 1 = k.val
    let mine (n : Fin 24) := (s.ev 0x6100 (8 + k.val)).testBit n.val = true
    (∀ n d v, (¬ runs ∨ ¬ mine n ∨ BitVec.toNat d ≠ dom) → exec (.gptpMessage k (.announce n d v)) s = .next s) ∧
    (∀ n d v, runs → mine n → BitVec.toNat d = dom → completes (.gptpMessage k (.announce n d v)) s fun t =>
      t = s.modGptp k fun x => { x with heard := vset x.heard n (some v) }) ∧
    (∀ n d off, (¬ runs ∨ s.gptpSlave k ≠ some n ∨ BitVec.toNat d ≠ dom) → exec (.gptpMessage k (.sync n d off)) s = .next s) ∧
    (∀ n d off, runs → s.gptpSlave k = some n → BitVec.toNat d = dom → completes (.gptpMessage k (.sync n d off)) s fun t =>
      let u := s.modGptp k fun x => { x with synced := true }
      (¬ chief → t = u) ∧
      (chief → s.time ≤ t.time ∧ t = { u.setE 0x6100 0x14 (BitVec.ofInt 64 off).toNat with time := t.time, fresh := s.fresh + 1 } ∧
        t.timeLocked = true)) ∧
    (∀ e, ¬ runs → exec (.gptpTimer k e) s = .next s) ∧
    (∀ n, runs → completes (.gptpTimer k (.announceLost n)) s fun t => t = s.modGptp k fun x => { x with heard := vset x.heard n none }) ∧
    (runs → s.gptpSlave k = none → s.gptpMaster k = false → exec (.gptpTimer k .syncDue) s = .next s) ∧
    (runs → (s.gptpSlave k).isSome = true ∨ s.gptpMaster k = true → completes (.gptpTimer k .syncDue) s fun t =>
      t = ((allFin 24).filter fun n => s.gptpPort k n && s.gptpSlave k != some n).foldl (fun u n => u.sendSync n) s) ∧
    (∀ n, s.gptpSlave k = some n → mine n ∧ ∃ v, (s.gw.gptp.get k).heard.get n = some v ∧
      ((s.ev 0x6100 0xD).testBit k.val = true → s.ev 0x6100 (0x10 + k.val) = n.val) ∧
      ((s.ev 0x6100 0xD).testBit k.val = false →
        (∀ m w, mine m → (s.gw.gptp.get k).heard.get m = some w → v ≤ w) ∧
        ((s.ev 0x6100 0xC).testBit k.val = true → v < Config.gptpOwn k.val))) ∧
    (∀ f, (s.modGptp k f).gptpSlave k ≠ s.gptpSlave k → ((s.modGptp k f).gw.gptp.get k).synced = false) ∧
    (s.timeLocked = true → ∃ j : Fin 4, s.ev 0x6100 1 = j.val ∧ s.ev 0x6100 (4 + j.val) ≠ 0xFF ∧ up ∧ (s.gptpSlave j).isSome = true ∧
      (s.gw.gptp.get j).synced = true) ∧
    (¬ up → exec .microcodeWatchdogExpiry s = .next s) ∧
    (up → completes .microcodeWatchdogExpiry s fun t =>
      t = State.pulse { s with gw := { s.gw with ucode := .failed } } 509 ∧ t.timeLocked = false))

/-- Flow commands (R371, R372, R378 to R380). -/
def Obligations.FlowCommands : Prop :=
  (∀ (s : State) (sl : FlowSlot) (o : Fin 256) (kb ctx : List Byte),
    let cmd : Instr := .flowInsert sl o kb ctx
    let k := key24 kb
    let c := { flowOfBytes (slice ctx 0 64) with key := k }
    let v := (slotVi sl).getD o.val
    let z := { s with held := false }
    let u := z.ctxRead (flowHandles k) []
    let answers (u : State) (st h : Nat) : Prop := completes cmd s fun t => t = s.orWaits (u.flowAnswer sl ⟨st, h, []⟩)
    let refused := ∃ x : Fin 256, sl = .vi x ∧ s.flowPermit x.val c = false
    let atQuota := u.ev (0x6300 + v) 3 ≤ u.ev (0x6300 + v) 4
    (s.domOn 52 = false → exec cmd s = .next s) ∧
    (s.domOn 52 = true → badContext c = true → answers z 6 0) ∧
    (s.domOn 52 = true → badContext c = false →
      (refused → answers z 5 0) ∧
      (¬ refused →
        (∀ h, u.flowFind k = some h → answers u 1 h) ∧
        (u.flowFind k = none →
          (atQuota → answers u 3 0) ∧
          (¬ atQuota →
            ((∀ h ∈ flowHandles k, (u.ctx? h).isSome = true) → answers (u.addE 0x6200 6 32 1) 2 0) ∧
            (∀ pre h post, flowHandles k = pre ++ h :: post → (∀ x ∈ pre, (u.ctx? x).isSome = true) → u.ctx? h = none →
              completes cmd s fun t =>
                let n := u.newCtx k v c
                let y := (((u.flowDel h).flowPut h n).countFlow v true).flowAnswer sl ⟨0, h, n.bytes⟩
                t = s.orWaits y ∧ y.ctx? h = some n)))))) ∧
  (∀ (s : State) (k : List Byte) (v : Nat) (c : FlowCtx),
    let n := s.newCtx k v c
    n.key = k ∧ n.action = c.action ||| 1 ∧ n.template = c.template ∧
    bits n.seqs.toNat 47 0 = 0 ∧ bit n.seqs.toNat 53 = true ∧ bits n.seqs.toNat 52 48 = bits c.seqs.toNat 52 48 ∧
    bits n.meter.toNat 23 0 = s.ev 0x6121 (1 + bits c.meter.toNat 62 56) % 2 ^ 24 ∧
    bits n.meter.toNat 55 24 = s.time / 1024 % 2 ^ 32 ∧ bits n.meter.toNat 62 56 = bits c.meter.toNat 62 56 ∧
    bits n.counts.toNat 47 0 = 0 ∧ bits n.counts.toNat 53 48 = bits c.counts.toNat 53 48 ∧ n.owner = v % 256) ∧
  (∀ (s : State) (k : List Byte),
    let b1 := flowH1 k % 2 ^ 18
    let b2 := if flowH2 k % 2 ^ 18 = b1 then b1 ^^^ 1 else flowH2 k % 2 ^ 18
    flowHandles k = [4 * b1, 4 * b1 + 1, 4 * b1 + 2, 4 * b1 + 3, 4 * b2, 4 * b2 + 1, 4 * b2 + 2, 4 * b2 + 3] ∧ b1 ≠ b2 ∧
    (∀ h, s.flowFind k = some h → h ∈ flowHandles k ∧ ∃ c, s.ctx? h = some c ∧ c.key = k) ∧
    (s.flowFind k = none → ∀ h ∈ flowHandles k, ∀ c, s.ctx? h = some c → c.key ≠ k)) ∧
  (∀ (s : State) (sl : FlowSlot) (h : Fin 1048576) (kb ctx : List Byte),
    let k := key24 kb
    let foreign (c : FlowCtx) : Prop := ∃ x : Fin 256, sl = .vi x ∧ x.val ≠ c.owner
    let z := { s with held := false }
    let u := z.ctxRead [h.val] []
    let answers (cmd : Instr) (u : State) (r : FlowRes) : Prop := completes cmd s fun t => t = s.orWaits (u.flowAnswer sl r)
    (∀ cmd : Instr, cmd = .flowRemove sl h ∨ cmd = .flowRead sl h ∨ cmd = .flowUpdate sl h ctx ∨ cmd = .flowClear sl h →
      (s.domOn 52 = false → exec cmd s = .next s) ∧
      (s.domOn 52 = true → u.ctx? h.val = none → answers cmd u ⟨4, h.val, []⟩) ∧
      (∀ c, s.domOn 52 = true → u.ctx? h.val = some c → foreign c → answers cmd u ⟨5, h.val, []⟩)) ∧
    (s.domOn 52 = false → exec (.flowFind sl kb) s = .next s) ∧
    (s.domOn 52 = true →
      let f := z.ctxRead (flowHandles k) []
      (f.flowFind k = none → answers (.flowFind sl kb) f ⟨4, 0, []⟩) ∧
      (∀ g, f.flowFind k = some g →
        let w := f.ctxRead [g] []
        (w.ctx? g = none → answers (.flowFind sl kb) w ⟨4, g, []⟩) ∧
        (∀ c, w.ctx? g = some c →
          (foreign c → answers (.flowFind sl kb) w ⟨5, g, []⟩) ∧
          (¬ foreign c → answers (.flowFind sl kb) (w.flowPut g c) ⟨0, g, c.bytes⟩)))) ∧
    (∀ c, s.domOn 52 = true → u.ctx? h.val = some c → ¬ foreign c →
      let m := { c with counts := word (putBits c.counts.toNat 47 0 0) }
      let x := { flowOfBytes (slice ctx 0 64) with key := c.key }
      let y := mergeCtx c x
      let unpermitted := ∃ z : Fin 256, sl = .vi z ∧ u.flowPermit z.val x = false
      answers (.flowRemove sl h) ((u.flowDel h.val).countFlow c.owner false) ⟨0, h.val, []⟩ ∧
      (∀ e ∈ (u.flowDel h.val).gw.cache, ∀ a ∈ e.2, a.1 ≠ h.val) ∧
      answers (.flowRead sl h) (u.flowPut h.val c) ⟨0, h.val, c.bytes⟩ ∧
      answers (.flowClear sl h) (u.flowPut h.val m) ⟨0, h.val, m.bytes⟩ ∧
      (badContext x = true → answers (.flowUpdate sl h ctx) u ⟨6, h.val, []⟩) ∧
      (badContext x = false → unpermitted → answers (.flowUpdate sl h ctx) u ⟨5, h.val, []⟩) ∧
      (badContext x = false → ¬ unpermitted → answers (.flowUpdate sl h ctx) (u.flowPut h.val y) ⟨0, h.val, y.bytes⟩ ∧
        y.key = c.key ∧ y.action = x.action ||| 1 ∧ y.template = x.template ∧ y.owner = c.owner ∧
        bits y.seqs.toNat 47 0 = bits c.seqs.toNat 47 0 ∧ bits y.seqs.toNat 52 48 = bits x.seqs.toNat 52 48 ∧
        bits y.meter.toNat 55 0 = bits c.meter.toNat 55 0 ∧ bits y.meter.toNat 62 56 = bits x.meter.toNat 62 56 ∧
        bits y.counts.toNat 47 0 = bits c.counts.toNat 47 0 ∧ bits y.counts.toNat 53 48 = bits x.counts.toNat 53 48))) ∧
  (∀ (s : State) (v : Fin 256) (r : FlowRes),
    let b := toBytes 8 (r.status + r.handle % 2 ^ 20 * 2 ^ 8) ++ slice r.ctx 0 64
    s.flowAnswer .secure r = { (s.setB 0x6201 2 b).setE 0x6201 3 0 with reply := .bytes b false } ∧
    s.flowAnswer (.vi v) r = State.setViBit { (s.setB (0x6300 + v.val) 7 b).setE (0x6300 + v.val) 8 0 with reply := .bytes b false } v.val 34 0) ∧
  (∀ (s : State) (o : Fin 256) (recs : List (List Byte × List Byte)),
    let put (u : State) (r : List Byte × List Byte) : State × FlowRes :=
      u.flowInsert .secure o.val (key24 r.1) (flowOfBytes (slice r.2 0 64))
    (s.domOn 52 = false → exec (.flowBulk o recs) s = .next s) ∧
    (∀ us : List State, s.domOn 52 = true → us.length = recs.length + 1 → us.head? = some { s with held := false } →
      (∀ (k : Nat) r u w, recs[k]? = some r → us[k]? = some u → us[k + 1]? = some w → ∃ h b, put u r = (w, ⟨0, h, b⟩)) →
      completes (.flowBulk o recs) s fun t => ∀ w, us.getLast? = some w → t = s.orWaits (w.setE 0x6201 5 (recs.length % 2 ^ 32))) ∧
    (∀ (us : List State) (st h : Nat) (b : List Byte) r u w, s.domOn 52 = true → us.head? = some { s with held := false } → us.getLast? = some u →
      (∀ (k : Nat) r u w, k + 1 < us.length → recs[k]? = some r → us[k]? = some u → us[k + 1]? = some w → ∃ h b, put u r = (w, ⟨0, h, b⟩)) →
      recs[us.length - 1]? = some r → put u r = (w, ⟨st, h, b⟩) → st ≠ 0 →
      let k := us.length - 1
      completes (.flowBulk o recs) s fun t => t = s.orWaits (w.setE 0x6201 5 (k % 2 ^ 32 + st * 2 ^ 32 + k % 2 ^ 20 * 2 ^ 40))))

/-- CAN and LIN channels, encapsulation windows (R390, R392, R404, R405, R408 to R414, R417, R424; how 127 < REC falls is the
model's free value, log entry 2). -/
def Obligations.BusChannels : Prop :=
  (∀ (s : State) (n : Fin 24) (f : BusFrame) (sof : Nat),
    let c := s.gw.can.get n
    let cmd : Instr := .canFrameReceive n ⟨f, sof⟩
    let inService := c.st = .active ∨ c.st = .passive
    let z := { s with held := false }
    let u := z.canReceive n
    (s.domOn 51 = true → ¬ (inService ∧ s.admits n f.fmt = true) → exec cmd s = .next s) ∧
    (s.domOn 51 = true → inService → s.admits n f.fmt = true →
      (∃ r, u = ((State.addE { z with fresh := s.fresh + 1 } (0x6400 + n.val) 0x13 64 1).modCan n fun x => { x with rec_ := r }).canConfine n ∧
        (c.rec_ ≤ 127 → r = c.rec_ - 1) ∧ (127 < c.rec_ → 119 ≤ r ∧ r ≤ 127)) ∧
      (∀ tr b, u.dapFrame n f = some (tr, b) → completes cmd s fun t => t = s.orWaits (u.dapReceive tr b)) ∧
      (u.dapFrame n f = none → completes cmd s fun t =>
        t = s.orWaits (if u.domOn 52 = true then u.tryKeys (.bus n.val f) sof [busKey n.val f] else u))) ∧
    (s.domOn 51 = false →
      (∀ tr b, s.dapFrame n f = some (tr, b) → completes cmd s fun t => t = if s.hazelServing = true then s.orWaits (z.dapReceive tr b) else s) ∧
      (s.dapFrame n f = none → exec cmd s = .next s)) ∧
    (∀ tr b, s.dapFrame n f = some (tr, b) ↔ (s.ev 0xA000 3).testBit n.val = true ∧ b = f.data ∧
      ((tr = .canFd n ∧ f.fmt = .fd ∧ f.ext = true ∧ f.brs = true ∧ f.id.toNat / 2 ^ 22 = s.ev 0xA000 4) ∨
       (tr = .canXl n ∧ f.fmt = .xl ∧ f.id.toNat = s.ev 0xA000 5 ∧ f.sdt.toNat = s.ev 0xA000 6 ∧
        bits f.af.toNat 15 11 = 0 ∧ bits f.af.toNat 31 27 = 0))) ∧
    (f.fmt ≠ .lin → (s.admits n f.fmt = true ↔ f.fmt = .cc ∨ (f.fmt = .fd ∧ 1 ≤ s.ev (0x6400 + n.val) 2) ∨ 2 ≤ s.ev (0x6400 + n.val) 2))) ∧
  (∀ (s : State) (n : Fin 24),
    let c := s.gw.can.get n
    (¬ (c.st = .active ∨ c.st = .passive) → s.canConfine n = s) ∧
    (c.st = .active ∨ c.st = .passive →
      (256 ≤ c.tec → s.canConfine n = ((s.canState n .busOff).addE (0x6400 + n.val) 0x17 32 1).canFlush n) ∧
      (c.tec < 256 → 128 ≤ c.tec ∨ 128 ≤ c.rec_ → s.canConfine n = s.canState n .passive) ∧
      (c.tec < 128 → c.rec_ < 128 → s.canConfine n = s.canState n .active)) ∧
    (∀ st, (c.st = st → s.canState n st = s) ∧
      (c.st ≠ st → s.canState n st = (s.modCan n fun x => { x with st := st }).pulse (472 + n.val))) ∧
    (∀ (x : TxBus) code, (x.ref = none → s.canDiscard n x code = s.addE (0x6400 + n.val) 0x19 32 1) ∧
      (∀ r, x.ref = some r → s.canDiscard n x code = s.txCopyEnd r code)) ∧
    s.canFlush n = c.q.foldl (fun u x => u.canDiscard n x 0x11) (s.modCan n fun x => { x with q := [] }) ∧
    s.canStopNow n = ((((s.modCan n fun x => { x with stopping := false, stopBy := none, hold := false, recovering := false }).canState n
      .stopped).canFlush n).completeIf c.stopBy 0).qpSettle ∧
    ((∀ e ∈ s.gw.vi, ∀ q, (e.2.qps.get q).stopBy = none) → s.qpSettle = s)) ∧
  (∀ (s : State) (n : Fin 24),
    let c := s.gw.can.get n
    let idx := 0x6400 + n.val
    let cmd : Instr := .canArbitrationAttempt n
    let z := { s with held := false }
    let fin (x : State) : State := s.orWaits x.qpSettle
    let may := s.domOn 51 = true ∧ (c.st = .active ∨ c.st = .passive) ∧ c.attempt = none ∧ c.stopping = false ∧ c.hold = false ∧
      s.ev idx 8 = 0 ∧ s.env.locked = true
    let ready (x : TxBus) : Prop := ∀ l, x.launch = some l → l ≤ s.time
    let dropped (u : State) (k : Nat) (x : TxBus) (code : Nat) (t : State) : Prop :=
      let w := u.modCan n fun y => { y with q := y.q.eraseIdx k }
      (x.ref = none → t = fin w) ∧ ∀ r, x.ref = some r → t = fin (w.txCopyEnd r code)
    (¬ may ∨ (∀ x ∈ c.q, ¬ ready x) → completes cmd s fun t => t = fin z) ∧
    (∀ k x, may → c.q[k]? = some x → ready x →
      (∀ j y, c.q[j]? = some y → ready y → arbField x.fr ≤ arbField y.fr ∧ (arbField y.fr = arbField x.fr → k ≤ j)) →
      let late := ∃ l, x.launch = some l ∧ l + s.ev 0x6100 3 < s.time
      (late → completes cmd s (dropped z k x 2)) ∧
      (¬ late → ∃ u d, z.canCheck n x.fr (s.longestTime n x.fr) x.checked x.heldOnce = (u, d) ∧
        (d = .drop → completes cmd s (dropped u k x 4)) ∧
        (d = .hold → completes cmd s fun t => ∃ q, t = fin (u.modCan n fun y => { y with hold := true, q := q }) ∧
          q[k]? = some { x with heldOnce := true, checked := true } ∧ q.length = c.q.length ∧ ∀ j, j ≠ k → q[j]? = c.q[j]?) ∧
        (d = .go → completes cmd s fun t =>
          let w := u.modCan n fun y => { y with q := y.q.eraseIdx k, attempt := some { x with checked := true, launch := none }, attemptAt := s.time }
          (x.ref = none → t = fin w) ∧ ∀ r, x.ref = some r → t = fin (w.txBegun r))))) ∧
  (∀ (s : State) (n : Fin 24) (f : BusFrame) (longest : Nat) (checked held : Bool),
    let r := (s.env.can.get n).toNat
    let free := checked = true ∨ r.testBit 7 = true
    let cap := r % 128 * 1000000
    let answers (v : State × CanCheck) : Prop := s.canCheck n f longest checked held = v
    let broke (u : State) (sub k : Nat) : State := (u.countWrap sub (1 + n.val)).violation k n.val f.id.toNat
    let load (u : State) : State × CanCheck :=
      if r % 128 = 100 then (u, .go)
      else if cap < longest then (if held then u else broke u 0x7007 3, .drop)
      else if cap < u.ownBusTime n + longest then
        (if held then u else broke u 0x7007 3, .hold)
      else (u, .go)
    (free → answers (load s)) ∧
    (¬ free → s.allowEntry n f = none → answers (broke s 0x7005 1, .drop)) ∧
    (∀ k, ¬ free → s.allowEntry n f = some k →
      (s.idBucket k < 1000000000 → answers (broke s 0x7006 2, .drop)) ∧
      (1000000000 ≤ s.idBucket k → answers (load { s with env := { s.env with buckets := kvPut k (s.idBucket k - 1000000000, s.time) s.env.buckets } }))) ∧
    (∀ k, s.allowEntry n f = some k → bits r 20 8 ≤ k ∧ k < bits r 20 8 + bits r 33 21 ∧ ∃ w, s.env.allow[k]? = some w ∧
      bits w.toNat 28 0 = f.id.toNat ∧ bits w.toNat 30 29 = (if f.fmt = .xl then 2 else if f.ext = true then 1 else 0) ∧
      (kvGet? s.env.buckets k = none → s.idBucket k = bits w.toNat 55 48 * 1000000000) ∧
      (∀ lv at_, kvGet? s.env.buckets k = some (lv, at_) →
        s.idBucket k = min (bits w.toNat 55 48 * 1000000000) (lv + (s.time - at_) * bits w.toNat 47 32)))) ∧
  (∀ (s : State) (n : Fin 24) (e : CanEnd) (dur : Nat),
    let c := s.gw.can.get n
    let idx := 0x6400 + n.val
    let cmd : Instr := .canAttemptEnd n e dur
    let z := { s with held := false }
    let fin (x : State) : State := s.orWaits x.qpSettle
    (c.attempt = none → completes cmd s fun t => t = fin z) ∧
    (∀ x, c.attempt = some x →
      let u := z.modCan n fun y => { y with attempt := none, busy := (y.busy ++ [(y.attemptAt, y.attemptAt + dur)]).filter fun b => s.time ≤ b.2 + 100000000 }
      let ends (v t : State) : Prop :=
        let w := v.canConfine n
        t = fin (if (w.gw.can.get n).stopping = true then w.canStopNow n else w)
      let sent := (u.addE idx 0x14 64 1).modCan n fun y => { y with tec := y.tec - 1 }
      let failed := (u.addE idx 0x15 32 1).modCan n fun y => { y with tec := y.tec + 8 }
      let again (v : State) (y : TxBus) (t : State) : Prop :=
        (y.ref = none → ends (v.modCan n fun z => { z with q := y :: z.q }) t) ∧ (∀ r, y.ref = some r → ends (v.canRequeue n y) t)
      let last := e = .errorLastEof
      let y := { x with errors := x.errors + 1, lastEof := e == .errorLastEof }
      let lim := failed.ev idx 9
      (e = .ok → completes cmd s fun t => (x.ref = none → ends sent t) ∧ ∀ r, x.ref = some r → ends (sent.txCopyEnd r 1) t) ∧
      (e = .lost → completes cmd s (again (u.addE idx 0x16 32 1) x)) ∧
      (e = .error ∨ last → lim = 0 ∨ x.errors + 1 < lim → completes cmd s (again failed y)) ∧
      (e = .error → lim ≠ 0 → lim ≤ x.errors + 1 → completes cmd s (ends (failed.canDiscard n y 0x10))) ∧
      (last → lim ≠ 0 → lim ≤ x.errors + 1 → completes cmd s (ends (failed.canDiscard n y 0x12))))) ∧
  (∀ (s : State) (n : Fin 24),
    let c := s.gw.can.get n
    let idx := 0x6400 + n.val
    let recovers := c.st = .busOff ∧ (s.ev idx 0xA = 1 ∨ c.recovering = true)
    (¬ recovers → exec (.canBusoffRecovery n) s = .next s) ∧
    (recovers → completes (.canBusoffRecovery n) s fun t =>
      t = (s.modCan n fun x => { x with tec := 0, rec_ := 0, recovering := false }).canState n .active) ∧
    (c.st ≠ .integrating → exec (.canIntegrationEnd n) s = .next s) ∧
    (c.st = .integrating → completes (.canIntegrationEnd n) s fun t => t = s.canState n .active) ∧
    (∀ e, ¬ (c.st = .active ∨ c.st = .passive) → exec (.canErrorDetected n e) s = .next s) ∧
    (∀ e, c.st = .active ∨ c.st = .passive → completes (.canErrorDetected n e) s fun t =>
      t = s.orWaits ((({ s with held := false }.addE idx 0x15 32 1).modCan n fun x => { x with rec_ := x.rec_ + (match e with | .one => 1 | .eight => 8) }).canConfine n)) ∧
    completes (.loadHoldEnd n) s (fun t => t = s.modCan n fun x => { x with hold := false }) ∧
    (∀ (q : Req) (v : Word), s.asked q (ek idx 0xB) v.toNat = some 0 → c.st = .busOff ∧ completes (.canRestart q n v) s fun t =>
      let b := s.begun q (ek idx 0xB)
      t = (if v = 1 then b.modCan n fun x => { x with recovering := true } else b).complete ⟨q, none⟩ 0)) ∧
  (∀ (s : State) (q : Req) (ch : BusChan),
    let key := ek (match ch with | .can n => 0x6400 + n.val | .lin m => 0x6418 + m.val) 1
    let b := s.begun q key
    s.asked q key 0 = some 0 → completes (.channelEnableOff q ch) s fun t =>
      t = { b with seed := { b.seed with journal := b.seed.journal ++ [⟨⟨q, none⟩, key, .num 0⟩] } }) ∧
  (∀ (s : State) (a : Asker) (j : List Journal),
    let u : State := State.seedWrite { s with held := false, seed := { s.seed with journal := j } }
    (∀ n : Fin 24, s.seed.journal = ⟨a, ek (0x6400 + n.val) 1, .num 0⟩ :: j → completes (.seedStoreWriteDone true) s fun t =>
      let w := (u.setE (0x6400 + n.val) 1 0).modCan n fun x => { x with stopBy := some a }
      t = s.orWaits (if (s.gw.can.get n).attempt.isSome = true then w.modCan n fun x => { x with stopping := true } else w.canStopNow n).releaseWaits) ∧
    (∀ m : Fin 12, s.seed.journal = ⟨a, ek (0x6418 + m.val) 1, .num 0⟩ :: j → completes (.seedStoreWriteDone true) s fun t =>
      let w := (u.setE (0x6418 + m.val) 1 0).modLin m fun x => { x with stopBy := some a }
      t = s.orWaits (if (s.gw.lin.get m).header.isSome = true then w.modLin m fun x => { x with stopping := true } else w.linStopNow m).releaseWaits) ∧
    s.releaseWaits = s.seed.waits.foldl (fun v w => v.serveWait w) { s with seed := { s.seed with waits := [] } }) ∧
  (∀ (s : State) (m : Fin 12) (id : Fin 64),
    let l := s.gw.lin.get m
    let idx := 0x6418 + m.val
    let hears := s.domOn 51 = true ∧ l.running = true ∧ l.header = none
    let published := (s.ev idx 7).testBit id.val = true
    let after := s.linHeader m id
    (∃ t, exec (.linHeader m id) s = .next t ∧ t = s.orWaits ({ s with held := false }.linHeader m id)) ∧
    (¬ hears → after = s ∧ exec (.linHeader m id) s = .next s) ∧
    (hears → ¬ published → after = s.modLin m fun x => { x with header := some id, headerAt := s.time }) ∧
    (hears → published →
      (kvGet? l.bufs id.val = none → after = s.addE idx 0x13 32 1) ∧
      (∀ d ref, kvGet? l.bufs id.val = some (d, ref) →
        (d = [] → after = s.addE idx 0x13 32 1) ∧
        (d ≠ [] →
          let u := (s.addE idx 0x12 64 1).modLin m fun x => { x with bufs := kvPut id.val (d, none) x.bufs }
          (ref = none → after = u) ∧ ∀ r, ref = some r → after = ((u.txBegun r).txCopyEnd r 1).qpSettle)))) ∧
  (∀ (s : State) (m : Fin 12),
    let l := s.gw.lin.get m
    let idx := 0x6418 + m.val
    let recs := l.active.length / 8
    let runs := s.ev idx 5 ≠ 0 ∧ s.ev idx 2 = 0 ∧ recs ≠ 0
    let id : Fin 64 := ⟨ofBytes (slice l.active (8 * l.idx) 1) % 64, Nat.mod_lt _ (by decide)⟩
    let u := { s with held := false }.linHeader m id
    (¬ runs → exec (.linScheduleSlot m) s = .next s) ∧
    (runs → ∃ t, exec (.linScheduleSlot m) s = .next t ∧
      (l.idx + 1 < recs → t = s.orWaits (u.modLin m fun x => { x with idx := x.idx + 1 })) ∧
      (recs ≤ l.idx + 1 → t = s.orWaits (u.modLin m fun x =>
        { x with idx := 0, active := if x.newList = true then u.eb idx 4 else x.active, newList := false }))) ∧
    (∀ (q : Req) (v : Word), let b := s.begun q (ek idx 5)
      s.asked q (ek idx 5) v.toNat = some 0 → completes (.schedRun q m v) s fun t =>
        t = { b with seed := { b.seed with journal := b.seed.journal ++ [⟨⟨q, none⟩, ek idx 5, .num v.toNat⟩] } }) ∧
    (∀ (a : Asker) (v : Nat) (j : List Journal), s.seed.journal = ⟨a, ek idx 5, .num v⟩ :: j →
      completes (.seedStoreWriteDone true) s fun t =>
        let u := (State.seedWrite { s with held := false, seed := { s.seed with journal := j } }).setE idx 5 v
        t = s.orWaits ((if v = 0 then u else u.modLin m fun x => { x with active := u.eb idx 4, idx := 0, newList := false }).complete a
          0).releaseWaits)) ∧
  (∀ (s : State) (m : Fin 12) (d : List Byte) (sum : Byte),
    let l := s.gw.lin.get m
    let idx := 0x6418 + m.val
    let finish (w : State) : State :=
      let v := w.modLin m fun x => { x with header := none }
      if l.stopping = true then v.linStopNow m else v
    (l.header = none → exec (.linResponseReceive m d sum) s = .next s ∧ exec (.linResponseTimeout m) s = .next s) ∧
    (∀ id : Fin 64, l.header = some id →
      let enhanced := (s.ev idx 6).testBit id.val
      let good := sum = linSum ((if enhanced = true then [linPid id.val] else []) ++ d) ∧ 1 ≤ d.length ∧ d.length ≤ 8
      let f : BusFrame := ⟨.lin, false, BitVec.ofNat 29 id.val, false, false, false, !enhanced, d.length, 0, 0, 0, d⟩
      let z := { s with held := false }
      let u := (finish z).addE idx 0x11 64 1
      completes (.linResponseTimeout m) s (fun t => t = s.orWaits (finish (z.addE idx 0x13 32 1))) ∧
      (¬ good → completes (.linResponseReceive m d sum) s fun t => t = s.orWaits ((finish z).addE idx 0x14 32 1)) ∧
      (good → completes (.linResponseReceive m d sum) s fun t =>
        t = s.orWaits (if u.domOn 52 = true then u.tryKeys (.bus (0x20 + m.val) f) l.headerAt [busKey (0x20 + m.val) f] else u)))) ∧
  (∀ (s : State) (k : Fin 64),
    let w := s.gw.win.get k
    let i := 0x6510 + k.val
    let cmd : Instr := .acfFrameBuild k
    (w.openAt = none → exec (.encapWindowTimeout k) s = .next s) ∧
    (∀ o, w.openAt = some o → completes (.encapWindowTimeout k) s fun t =>
      t = s.modWin k fun x => { x with openAt := none, msgs := [], built := x.built ++ [(o, x.msgs)] }) ∧
    (w.built = [] → exec cmd s = .next s) ∧
    (∀ o msgs rest, w.built = (o, msgs) :: rest →
      let v := { s with held := false }.modWin k fun x => { x with built := rest }
      let seq := v.ev i 0xE
      let u := (v.setE i 0xE ((seq + 1) % 256)).addE 0x6500 1 64 1
      let acf := msgs.flatten
      let ntscf := [0x82] ++ toBytesBE 2 (0x8000 + acf.length % 2048) ++ [BitVec.ofNat 8 seq] ++ toBytes 8 (v.ev i 3)
      let tscf := [0x05, 0x81, BitVec.ofNat 8 seq, 0] ++ toBytes 8 (v.ev i 3) ++ toBytesBE 4 ((o + v.ev i 0xC) % 2 ^ 32) ++ [0, 0, 0, 0] ++
        toBytesBE 2 acf.length ++ [0, 0]
      let body := [0x22, 0xF0] ++ (if v.ev i 2 = 0 then ntscf else tscf) ++ acf
      let tag := (v.ev i 6).testBit 15
      let pad := List.replicate (60 - (12 + (if tag = true then 4 else 0)) - body.length) 0
      let tci := if tag = true then some (bits (v.ev i 6) 14 12 * 2 ^ 13 + bits (v.ev i 6) 11 0) else none
      let fr : Eth := ⟨toBytes 6 (v.ev i 4) ++ toBytes 6 (v.ev i 5), tci, none, body ++ pad⟩
      let h := v.ev i 7 % 2 ^ 20
      let y := u.ctxRead [h] []
      ((y.ctx? h = none ∨ ∃ c, y.ctx? h = some c ∧ c.owner ≠ v.ev i 0xD) → completes cmd s fun t => t = s.orWaits (y.addE 0x6500 8 32 1)) ∧
      (∀ c, y.ctx? h = some c → c.owner = v.ev i 0xD → completes cmd s fun t =>
        t = s.orWaits (y.flowActions h c fr (fr.bytes.length + 4) none none none y.time).1)))

/-- The dictionary (R428, R433, R436, R439, R441, R443, R445, R464, R467, R468, R511, R512). -/
def Obligations.DictionaryAccess : Prop :=
  (∀ (s : State) (q : Req) (key : Nat),
    let st := s.readStatus q key
    let sec := s.reqSecure q
    let part := s.reqPart q
    (catRow key = none → st = 1) ∧
    (∀ r, catRow key = some r →
      let absent := s.hides r sec part key = true
      let denied := s.readRight r sec part (isDap q) key = false
      let wide := isWindow q = true ∧ r.ty.scalar = false
      let gone := s.unavailable r key = true
      (absent → st = 1) ∧ (¬ absent → denied → st = 2) ∧ (¬ absent → ¬ denied → r.acc = .wo → st = 4) ∧
      (¬ absent → ¬ denied → r.acc ≠ .wo → wide → st = 5) ∧
      (¬ absent → ¬ denied → r.acc ≠ .wo → ¬ wide → gone → st = 7) ∧
      (st = 0 ↔ ¬ absent ∧ ¬ denied ∧ r.acc ≠ .wo ∧ ¬ wide ∧ ¬ gone))) ∧
  (∀ (s : State) (a : Asker) (key : Nat) (w : WVal),
    let st := (s.writeStatus a key w).1
    let v := (s.writeStatus a key w).2
    let sec := s.reqSecure a.q
    let part := s.reqPart a.q
    (catRow key = none → st = 1) ∧
    (∀ r, catRow key = some r →
      let absent := s.hides r sec part key = true
      let denied := s.writeRight r sec part (isDap a.q) key = false
      let readOnly := r.acc = .const ∨ r.acc = .ro
      let mistyped := typed r.ty w = none
      let gone := s.unavailable r key = true
      let unruled := s.notEnsign a.q r key = true
      (absent → st = 1) ∧ (¬ absent → denied → st = 2) ∧ (¬ absent → ¬ denied → readOnly → st = 2 ∨ st = 3) ∧
      (¬ absent → ¬ denied → ¬ readOnly → mistyped → st = 2 ∨ st = 5) ∧
      (¬ absent → ¬ denied → ¬ readOnly → ¬ mistyped → gone → st = 2 ∨ st = 7) ∧
      (st = 0 → ¬ absent ∧ ¬ denied ∧ ¬ readOnly ∧ ¬ gone ∧ ¬ unruled ∧ s.rwsRuns r key = false ∧ outOfRange r v = false ∧
        typed r.ty w = some v ∧ s.blockStatus a key v = 0) ∧
      (s.blockStatus a key v = 0 → ¬ absent → ¬ denied →
        (readOnly → st = 3) ∧ (¬ readOnly → mistyped → st = 5) ∧ (¬ readOnly → ¬ mistyped → gone → st = 7) ∧
        (¬ readOnly → ¬ mistyped → ¬ gone → unruled → st = 7 ∨ st = 8) ∧
        (¬ readOnly → ¬ mistyped → ¬ gone → ¬ unruled → key ≠ ek 0xA010 4 →
          (s.rwsRuns r key = true → st = 6) ∧
          (s.rwsRuns r key = false → outOfRange r v = true → st = 9) ∧
          (s.rwsRuns r key = false → outOfRange r v = false → st = if s.overLimit r key v = true then 0x10 else 0))))) ∧
  (∀ (s : State) (a : Asker) (key : Nat) (w : WVal),
    let st := (s.writeStatus a key w).1
    let v := (s.writeStatus a key w).2
    let d : Fin 64 := ⟨(key % 256 - 1) % 64, Nat.mod_lt _ (by decide)⟩
    let power := st = 2 ∧ key / 256 = 0x2000 ∧ s.powerRefused a.q d = true
    (s.entBusy key = true ↔ ∃ x ∈ s.seed.journal, x.key = key) ∧
    (s.entBusy key = true → s.dictWrite a key w = { s with seed := { s.seed with waits := s.seed.waits ++ [.write a key w] } }) ∧
    (s.entBusy key = false →
      (st ≠ 0 → ¬ power → s.dictWrite a key w = s.complete a st) ∧
      (power → s.dictWrite a key w = (s.powerOutcome a.q d 2).complete a 2) ∧
      (∀ r, st = 0 → catRow key = some r →
        let j := s.seed.journal ++ [⟨a, key, v⟩]
        (r.pers = .vol → s.dictWrite a key w = s.applyVol a key v) ∧
        (r.pers = .stored → s.dictWrite a key w = { s with seed := { s.seed with journal := j } }) ∧
        (r.pers = .cal → (∃ t, s.seed.armed = some (key, t) ∧ s.time ≤ t + 1000000000) ∧
          s.dictWrite a key w = { s with seed := { s.seed with journal := j, armed := none } })))) ∧
  (∀ (s : State) (m : Master) (index : BitVec 16) (sub : Byte) (v : Word),
    let key := index.toNat * 256 + sub.toNat
    let q : Req := .loc .window m
    let user := (∃ c, m = .core c) ∨ (∃ i, m = .island i) ∨ m = .smc
    let b := { s with held := false }.begun q key
    let late := s.winBusy m = true
    let shows (st : Nat) : State := (s.drawRead key).noteWin m st key false
    let st := s.readStatus q key
    (¬ user → completes (.dictWindowRead m index sub) s (fun t => t = { s with reply := .error .wlderr }) ∧
      completes (.dictWindowWrite m index sub v) s (fun t => t = { s with reply := .error .wlderr })) ∧
    (user → late → exec (.dictWindowWrite m index sub v) s = .next s) ∧
    (user → late ∨ s.entBusy key = true → exec (.dictWindowRead m index sub) s = .next s) ∧
    (user → ¬ late → completes (.dictWindowWrite m index sub v) s fun t =>
      t = s.orWaits (b.dictWrite ⟨q, none⟩ key (.win v)).settleForced) ∧
    (user → ¬ late → s.entBusy key = false →
      (st ≠ 0 → completes (.dictWindowRead m index sub) s fun t => t = { s.noteWin m st key false with reply := .value 0 }) ∧
      (∀ r, st = 0 → catRow key = some r → completes (.dictWindowRead m index sub) s fun t =>
        t = { shows 0 with reply := .value (windowWord r.ty (s.readNum q key)) })) ∧
    (∀ (p : Fin 64) (st k : Nat) (wr : Bool), winPage m = some p →
      ((s.noteWin m st k wr).mail.get p).win = word (st + k * 2 ^ 16 + (if wr = true then 1 else 0) * 2 ^ 40)) ∧
    ((∀ c, (s.acore.get c).forced = false) → s.settleForced = s)) ∧
  (∀ (s : State) (m : Master) (p : Fin 64),
    let x := s.mail.get p
    let key := x.entry.toNat
    let q : Req := .loc (.mailbox p) m
    let may := mailOwner p = some m ∨ s.masterSecure m = true
    let refused (e : Resp) : Prop := completes (.mbRead m p) s (fun t => t = { s with reply := .error e }) ∧
      completes (.mbWrite m p) s (fun t => t = s.orWaits (State.settleForced { s with held := false, reply := .error e }))
    (37 ≤ p.val → refused .decerr) ∧
    (p.val < 37 → ¬ may → refused .wlderr) ∧
    (p.val < 37 → may → x.busy = true → exec (.mbRead m p) s = .next s ∧ completes (.mbWrite m p) s fun t => t = s.orWaits { s with held := false }.settleForced) ∧
    (p.val < 37 → may → x.busy = false →
      let st := s.readStatus q key
      let u := { s with held := false }.modMail p fun y => { y with busy := true }
      (s.entBusy key = true → completes (.mbRead m p) s fun t =>
        t = { s.modMail p (fun y => { y with busy := true }) with seed := { s.seed with waits := s.seed.waits ++ [.mail m p] } }) ∧
      (s.entBusy key = false →
        (st ≠ 0 → completes (.mbRead m p) s fun t => t = State.mailDone { s with reply := .status st } p st) ∧
        (∀ r, st = 0 → catRow key = some r → completes (.mbRead m p) s fun t =>
          let b := valueBytes r.ty (s.readVal q r key)
          let w := (s.drawRead key).modMail p fun y => { y with data := mailPut y.data 0 b, len := BitVec.ofNat 17 b.length }
          t = State.mailDone { w with reply := .status 0 } p 0)) ∧
      completes (.mbWrite m p) s (fun t =>
        t = s.orWaits (u.dictWrite ⟨q, none⟩ key (.bytes (x.bytes (min x.len.toNat 65537)))).settleForced)) ∧
    (∀ st : Nat, let t := s.mailDone p st
      (t.mail.get p).status = BitVec.ofNat 8 st ∧ (t.mail.get p).busy = false ∧ (t.mail.get p).done = true ∧
      (s.canon → (t.src 34).line = t.mail.toList.any fun y => y.done && y.irqEn))) ∧
  (∀ (s : State) (ok : Bool), s.seed.journal = [] → exec (.seedStoreWriteDone ok) s = .next s) ∧
  (∀ (s : State) (a : Asker) (key : Nat) (v : DVal) (j : List Journal), s.seed.journal = ⟨a, key, v⟩ :: j →
    let w : State := { s with held := false, seed := { s.seed with journal := j } }
    let u := w.seedWrite
    let n := v.num'
    let i := key / 256
    let sub := key % 256
    let put := match v with | .num n => u.setE i sub n | .oct l => u.setB i sub l
    let own := i = 0x2100 ∨ (i = 0x2102 ∧ sub = 1) ∨ (0x8001 ≤ i ∧ i < 0x8006) ∨ (i = 0x5104 ∧ sub = 3) ∨
      (0x6101 ≤ i ∧ i < 0x6119 ∧ 8 ≤ sub ∧ sub < 0x10) ∨
      (0x6400 ≤ i ∧ i < 0x6424 ∧ sub = 1) ∨ (0x6418 ≤ i ∧ i < 0x6424 ∧ (sub = 4 ∨ sub = 5)) ∨ i = 0xA001 ∨ key = ek 0x9000 6
    let ends (x : State) (t : State) : Prop := t = s.orWaits x.releaseWaits
    completes (.seedStoreWriteDone false) s (ends (w.complete a 0xB)) ∧
    (¬ own → completes (.seedStoreWriteDone true) s (ends (put.complete a 0))) ∧
    (0x8002 ≤ i → i < 0x8006 → completes (.seedStoreWriteDone true) s
      (ends ((put.setE 0x8000 2 (put.ev 0x8000 2 ||| 2 ^ (i - 0x8001))).complete a 0))) ∧
    (∀ k : Fin 8, key = ek 0xA001 (1 + k.val) → completes (.seedStoreWriteDone true) s
      (let d := put.dap
       ends (State.complete { put with dap := { d with txFresh := vset d.txFresh k 0, txEnd := vset d.txEnd k 0, rx := d.rx.filter (fun e => e.1 % 8 ≠ k.val), rxStored := d.rxStored.filter (fun e => e.1 % 8 ≠ k.val), subs := d.subs.filter fun x => x.key ≠ k } } a 0))) ∧
    (key = ek 0x9000 6 → completes (.seedStoreWriteDone true) s fun t =>
      (n = 0xFFFFFFFF → ends (State.complete { u with seed := { u.seed with retire := [] } } a 0) t) ∧
      (n ≠ 0xFFFFFFFF → n < u.seed.retire.length → ends (State.complete { u with seed := { u.seed with retire := u.seed.retire.eraseIdx n } } a 0) t) ∧
      (n ≠ 0xFFFFFFFF → u.seed.retire.length ≤ n → ends (u.complete a 9) t))) ∧
  (∀ (s : State) (l : List DictWait), s.seed.waits = l →
    s.releaseWaits = l.foldl (fun v w => match w with
      | .write a key x => v.dictWrite a key x
      | .mail m p => v.mailRead m p
      | .dap p => v.serveRead p) { s with seed := { s.seed with waits := [] } }) ∧
  (∀ (s : State) (q : Req) (v : BitVec 32),
    let unlock := ek 0x8000 3
    let clear := ek 0x9000 6
    let tail := ek 0x9100 2
    let b := s.begun q clear
    let b' := s.begun q tail
    (s.asked q unlock v.toNat = some 0 → completes (.calUnlock q v) s fun t =>
      let c := s.begun q unlock
      t = State.complete { c with seed := { c.seed with armed := some (v.toNat, s.time) } } ⟨q, none⟩ 0) ∧
    (s.asked q clear v.toNat = some 0 → (v = 0xFFFFFFFF ∨ v.toNat < s.seed.retire.length) ∧ completes (.retireClear q v) s fun t =>
      t = { b with seed := { b.seed with journal := b.seed.journal ++ [⟨⟨q, none⟩, clear, .num v.toNat⟩] } }) ∧
    (s.asked q tail v.toNat = some 0 → (s.ledger.head - v).toNat ≤ 8192 ∧ completes (.ledgerTail q v) s fun t =>
      t = (State.setLine { b' with ledger := { b'.ledger with tail := v } } 140 (s.ledger.head != v)).complete ⟨q, none⟩ 0)) ∧
  (∀ (s : State) (q : Req) (index : BitVec 16) (sub : Byte) (v : List Byte),
    let key := index.toNat * 256 + sub.toNat
    let w : WVal := if isWindow q = true then .win (word (ofBytes (v.take 8))) else .bytes v
    let late := ∃ m, q = .loc .window m ∧ s.winBusy m = true
    (late → exec (.calEntryWrite q index sub v) s = .next s) ∧
    (¬ late → completes (.calEntryWrite q index sub v) s fun t =>
      t = s.orWaits (({ s with held := false }.begun q key).dictWrite ⟨q, none⟩ key w))) ∧
  (∀ (s : State) (q : Req),
    let key := ek 0x8006 1
    let starts (cmd : Instr) (proc item : Nat) : Prop := s.asked q key (proc + 16 * item) = some 0 →
      s.ev 0x8006 2 ≠ 1 ∧ s.ev 0x8006 2 ≠ 4 ∧ completes cmd s fun t =>
        let b := s.begun q key
        let u : State := { b with seed := { b.seed with selfcal := some (proc, item) } }
        t = (((u.setE 0x8006 2 (if proc = 5 then 4 else 1)).setB 0x8006 3 []).seedWrite).complete ⟨q, none⟩ 0
    (∀ m, starts (.selfcalVmon q m) 2 m.val) ∧ (∀ c, starts (.selfcalClock q c) 3 c.val) ∧
    (∀ n, starts (.selfcalSerdes q n) 4 n.val) ∧ (∀ k, starts (.selfcalHbmSeed q k) 5 k.val) ∧
    (∀ res, s.ev 0x8006 2 ≠ 1 → exec (.selfcalDone res) s = .next s) ∧
    (∀ res, s.ev 0x8006 2 = 1 → completes (.selfcalDone res) s fun t =>
      let u : State := { s with seed := { s.seed with selfcal := none } }
      (∀ l, res = some l → t = ((u.setB 0x8006 3 l).setE 0x8006 2 2).seedWrite) ∧ (res = none → t = (u.setE 0x8006 2 3).seedWrite)) ∧
    (∀ k : Byte, s.asked q (ek 0x3000 0x24) k.toNat = some 0 → k.toNat ≤ 3 ∧ (∃ j, j < 4 ∧ j ≠ k.toNat ∧ s.ev 0x3000 (0x20 + j) = 1) ∧
      completes (.keyRevoke q k) s fun t => t = ((s.begun q (ek 0x3000 0x24)).setE 0x3000 (0x20 + k.toNat) 2).complete ⟨q, none⟩ 0)) ∧
  (∀ (s : State) (q : Req) (cmd : Instr) (key n : Nat),
    ((∃ v, cmd = .calUnlock q v ∧ key = ek 0x8000 3 ∧ n = BitVec.toNat v) ∨ (∃ v, cmd = .retireClear q v ∧ key = ek 0x9000 6 ∧ n = BitVec.toNat v) ∨
     (∃ v, cmd = .ledgerTail q v ∧ key = ek 0x9100 2 ∧ n = BitVec.toNat v) ∨ (∃ k, cmd = .keyRevoke q k ∧ key = ek 0x3000 0x24 ∧ n = BitVec.toNat k) ∨
     (∃ m, cmd = .selfcalVmon q m ∧ key = ek 0x8006 1 ∧ n = 2 + 16 * m.val) ∨ (∃ m, cmd = .selfcalClock q m ∧ key = ek 0x8006 1 ∧ n = 3 + 16 * m.val) ∨
     (∃ m, cmd = .selfcalSerdes q m ∧ key = ek 0x8006 1 ∧ n = 4 + 16 * m.val) ∨ (∃ m, cmd = .selfcalHbmSeed q m ∧ key = ek 0x8006 1 ∧ n = 5 + 16 * m.val) ∨
     (∃ e, cmd = .ensignClaim q e ∧ key = ek 0xA010 4 ∧ n = BitVec.toNat e) ∨
     (∃ c v, cmd = .canRestart q c v ∧ key = ek (0x6400 + c.val) 0xB ∧ n = BitVec.toNat v) ∨
     (∃ m v, cmd = .schedRun q m v ∧ key = ek (0x6418 + m.val) 5 ∧ n = BitVec.toNat v) ∨ (∃ p v, cmd = .podMhz q p v ∧ key = ek 0x2100 (1 + p.val) ∧ n = BitVec.toNat v) ∨
     (∃ v, cmd = .sysreset q v ∧ key = ek 0x2300 2 ∧ n = BitVec.toNat v) ∨ (∃ v, cmd = .smcWdt q v ∧ key = ek 0x2300 7 ∧ n = BitVec.toNat v)) →
    let late := ∃ m, q = .loc .window m ∧ s.winBusy m = true
    let b := s.begun q key
    (late → exec cmd s = .next s) ∧
    (¬ late → s.entBusy key = true → completes cmd s fun t =>
      t = { b with seed := { b.seed with waits := b.seed.waits ++ [.write ⟨q, none⟩ key (reqVal q key n)] } }) ∧
    (∀ st, s.asked q key n = some st → st ≠ 0 → completes cmd s fun t => t = b.complete ⟨q, none⟩ st)) ∧
  (∀ (s : State) (q : Req) (cmd : Instr) (key n st : Nat),
    ((∃ c v, cmd = .dmEnable q c v ∧ key = ek (0x9200 + c.val) 3 ∧ n = BitVec.toNat v) ∨
     (∃ d v, cmd = .powerHold q d v ∧ key = ek 0x2002 (1 + d.val) ∧ n = BitVec.toNat v) ∨
     (∃ v k x, cmd = .qpEnable q v k x ∧ key = ek (0x6300 + v.val) (0x14 + 8 * k.val) ∧ n = BitVec.toNat x)) →
    s.asked q key n = some st → st ≠ 0 → completes cmd s fun t =>
      t = s.orWaits (({ s with held := false }.begun q key).complete ⟨q, none⟩ st)) ∧
  (∀ (s : State) (m : Master) (v : Word),
    let st := s.env.stat &&& ~~~(v.setWidth 6)
    (s.masterSecure m = false → completes (.envViolStat m v) s fun t => t = { s with reply := .error .wlderr }) ∧
    (s.masterSecure m = true → (st ≠ 0 ∨ s.env.stat = 0) → completes (.envViolStat m v) s fun t =>
      t = State.setLine { s with env := { s.env with stat := st } } 52 (st &&& s.env.en != 0)) ∧
    (s.masterSecure m = true → st = 0 → s.env.stat ≠ 0 → completes (.envViolStat m v) s fun t => ∃ f ft,
      t = State.setLine { s with env := { s.env with stat := 0, first := f, firstTime := ft }, fresh := s.fresh + 1 } 52 false))

/-- DAP and the ensign (R444 to R452, R457 to R459). -/
def Obligations.DapAndEnsign : Prop :=
  (∀ (p : Pdu) (mac pad : List Byte), p.service < 256 → p.dst < 65536 → p.src < 65536 → p.txn < 65536 → p.seg < 4096 → p.fresh < 2 ^ 32 →
    mac.length = 8 → p.body.length + pad.length ≤ segCap p.tr → parsePdu p.tr (p.head ++ mac ++ pad) = some p) ∧
  (∀ (tr : Transport) (b : List Byte), parsePdu tr b = none ↔
    ((b.getD 0 0).toNat % 16 ≠ 1 ∨ ofBytes (slice b 8 2) / 2 ^ 13 ≠ 0 ∨ b.length < 24 + ofBytes (slice b 10 2) ∨ segCap tr + 24 < b.length)) ∧
  (∀ (s : State) (tr : Transport) (b : List Byte),
    let cmd : Instr := .dapPduReceive tr b
    let z : State := { s with held := false }
    let fails := completes cmd s fun t => t = s.addE 0xA000 9 32 1
    let heard := s.ev 0xA000 1 ≠ 0 ∧ s.carries tr = true
    (¬ heard → exec cmd s = .next s) ∧
    (heard → parsePdu tr b = none → fails) ∧
    (∀ p, heard → parsePdu tr b = some p →
      let mine := p.dst = s.ev 0xA000 1 ∨ p.dst = 0
      let n := 16 + p.body.length
      let good := s.ev 0xA002 (1 + p.key.val) ≠ 0 ∧ s.dapMac p.key (b.take n) = slice b n 8
      let last := kvGet 0 s.dap.rx (8 * p.src + p.key.val)
      let v := z.addE 0xA000 0xA 32 1
      let asks := p.dst ≠ 0 ∧ p.resp = false ∧ isAnswered p.service = true
      let u := z.acceptFresh p.src p.key p.fresh
      let holds := u.dap.holder = .remote ∧ u.dap.node = p.src ∧ u.ev 0xA002 (1 + p.key.val) = 4
      let w := if holds then u.modDap fun d => { d with leaseAt := u.time } else u
      let acts := p.resp = false ∧ (p.dst = 0 → (p.service = 2 ∨ p.service = 6) ∧ p.seg = 0 ∧ p.more = false) ∧
        (isAnswered p.service = true ∨ p.service = 9 ∨ p.service = 10)
      (¬ mine → exec cmd s = .next s) ∧ (mine → ¬ good → fails) ∧
      (mine → good → p.fresh ≤ last → completes cmd s fun t => t = s.orWaits (if asks then v.dapAnswer p (statusBody 0xE last) else v)) ∧
      (mine → good → last < p.fresh → completes cmd s fun t =>
        (¬ acts → t = s.orWaits w) ∧ (acts → t = s.orWaits (w.modDap fun d => { d with ready := d.ready ++ [p] })))) ∧
    (∀ n : Fin 24, (s.carries (.canFd n) = true ↔ (s.ev 0xA000 3).testBit n.val = true ∧ (s.domOn 57 = true ∨ n.val < 8)) ∧
      (s.carries (.canXl n) = true ↔ (s.ev 0xA000 3).testBit n.val = true ∧ s.domOn 57 = true) ∧ (s.carries .udp = true ↔ s.domOn 57 = true))) ∧
  (∀ (s : State) (src : Nat) (k : Fin 8) (v : Nat), let t := s.acceptFresh src k v
    kvGet? t.dap.rx (8 * src + k.val) = some v ∧ (kvGet 0 s.dap.rxStored (8 * src + k.val) + 4096 ≤ v →
      kvGet? t.dap.rxStored (8 * src + k.val) = some v) ∧
    (v < kvGet 0 s.dap.rxStored (8 * src + k.val) + 4096 → t = s.modDap fun d => { d with rx := kvPut (8 * src + k.val) v d.rx })) ∧
  (∀ (s : State) (p : Pdu), let t := s.dapSend p
    (s.ev 0xA000 1 = 0 → t = s) ∧
    (s.ev 0xA000 1 ≠ 0 → ∀ u f, s.nextFresh p.key = (u, f) →
      let h := { p with fresh := f, src := u.ev 0xA000 1 }.head
      (s.dap.txFresh.get p.key + 1 < 2 ^ 32 → f = s.dap.txFresh.get p.key + 1) ∧
      t.dap.out = s.dap.out ++ [⟨p.tr, h ++ u.dapMac p.key h⟩] ∧
      t.dap.txFresh = vset s.dap.txFresh p.key f ∧ f ≤ t.dap.txEnd.get p.key ∧
      (∀ j, j ≠ p.key → t.dap.txEnd.get j = s.dap.txEnd.get j))) ∧
  (∀ (role svc : Nat), rolePermits role svc = true ↔
    (1 ≤ role ∧ (svc = 1 ∨ svc = 3 ∨ svc = 4 ∨ svc = 6)) ∨ (2 ≤ role ∧ svc = 2) ∨ (4 ≤ role ∧ (svc = 7 ∨ svc = 8))) ∧
  (∀ (s : State) (x : Instr × Nat), x ∈ [(Instr.dapRead, 1), (.dapWrite, 2), (.dapSubscribe, 3), (.dapUnsubscribe, 4), (.dapPing, 6),
      (.dapEnsignClaim, 7), (.dapEnsignRelease, 8)] →
    let mine (p : Pdu) : Prop := p.service = x.2 ∧ p.seg = 0 ∧ p.more = false
    ((∀ p ∈ s.dap.ready, ¬ mine p) → exec x.1 s = .next s) ∧
    (∀ pre p post, s.dap.ready = pre ++ p :: post → (∀ y ∈ pre, ¬ mine y) → mine p →
      completes x.1 s fun t => t = s.orWaits (State.serve { s with held := false, dap := { s.dap with ready := pre ++ post, txns := s.dap.txns.filter fun y => !(y.src == p.src && y.txn == p.txn) } } p))) ∧
  (∀ (s : State) (p : Pdu),
    let q : Req := .dap p.src p.key
    let t := s.serve p
    let role := rolePermits (s.ev 0xA002 (1 + p.key.val)) p.service = true
    let no (u : State) (st : Nat) : State := if p.dst = 0 then u else u.dapAnswer p (toBytes 4 st ++ toBytes 4 (if st = 8 ∨ st = 0xC ∨ st = 0xD then u.ev 0xA010 3 else 0))
    let key := ofBytes (p.body.take 2) * 256 + (p.body.getD 2 0).toNat
    let st := s.readStatus q key
    let away := s.domOn 57 = false
    let first (n : Nat) : Nat := if n = 2 ∨ n = 3 ∨ n = 4 then n else 5
    let absent := p.service ∈ [1, 2, 3] ∧ 3 ≤ p.body.length ∧ st = 1
    let permits := ¬ absent ∧ role
    (absent → t = no s 1) ∧ (¬ absent → ¬ role → t = no s 2) ∧
    (permits → p.service = 1 →
      (p.body.length < 3 → t = no s 5) ∧
      (3 ≤ p.body.length → p.body.length ≠ 4 ∨ p.body.getD 3 0 ≠ 0 → t = no s (first st)) ∧
      (p.body.length = 4 → p.body.getD 3 0 = 0 →
        (s.entBusy key = true → t = s.waitEnt (.dap p)) ∧
        (s.entBusy key = false → st ≠ 0 → t = no s st) ∧
        (∀ r, s.entBusy key = false → st = 0 → catRow key = some r →
          let b := [0, BitVec.ofNat 8 r.ty.code, 0, 0] ++ valueBytes r.ty (s.readVal q r key)
          let u := s.drawRead key
          t = if segCount p.tr b ≠ 1 ∧ u.txnFull p.src = true then no u 0xA else u.dapAnswer p b))) ∧
    (permits → p.service = 2 →
      (p.body.length < 3 → t = no s 5) ∧
      (3 ≤ p.body.length → p.body.length = 3 ∨ p.body.getD 3 0 ≠ 0 → t = no s (first (s.writeStatus ⟨q, some p⟩ key (.bytes (p.body.drop 4))).1)) ∧
      (4 ≤ p.body.length → p.body.getD 3 0 = 0 → t = s.dictWrite ⟨q, some p⟩ key (.bytes (p.body.drop 4)))) ∧
    (permits → p.service = 4 → away → t = no s 7) ∧
    (permits → p.service = 3 →
      let mode := (p.body.getD 3 0).toNat
      let period := ofBytes (slice p.body 4 2)
      let full := 256 ≤ s.dap.subs.length ∨ 32 ≤ (s.dap.subs.filter (·.src == p.src)).length
      let scalar := ∃ r, catRow key = some r ∧ r.ty.scalar = true
      let away := st = 7 ∨ away
      (p.body.length < 3 → t = no s 5) ∧
      (3 ≤ p.body.length → p.body.length ≠ 6 → t = no s (first st)) ∧
      (p.body.length = 6 → st ≠ 0 → st ≠ 7 → t = no s st) ∧
      (p.body.length = 6 → st = 0 ∨ st = 7 →
        (¬ scalar → t = no s 5) ∧
        (scalar → away → t = no s 7) ∧
        (scalar → ¬ away → ¬ ((mode = 1 ∨ mode = 2) ∧ period ≠ 0) → t = no s 9) ∧
        (scalar → ¬ away → (mode = 1 ∨ mode = 2) ∧ period ≠ 0 → full → t = no s 0x10) ∧
        (scalar → ¬ away → (mode = 1 ∨ mode = 2) ∧ period ≠ 0 → ¬ full → ∃ id v, id < 65536 ∧ (∀ y ∈ s.dap.subs, y.id ≠ id) ∧
          t = State.dapAnswer { s with fresh := s.fresh + 1, dap := { s.dap with subs := s.dap.subs ++ [⟨id, p.src, p.key, p.tr, key, mode == 2, period, s.time, v⟩] } } p
            ([0, 0] ++ toBytes 2 id)))) ∧
    (permits → p.service = 4 → ¬ away →
      let id := ofBytes (p.body.take 2)
      let found := ∃ y ∈ s.dap.subs, y.src = p.src ∧ y.id = id
      (p.body.length ≠ 4 ∨ slice p.body 2 2 ≠ [0, 0] → t = no s 5) ∧
      (p.body.length = 4 → slice p.body 2 2 = [0, 0] → found →
        t = (s.modDap fun d => { d with subs := d.subs.filter fun y => !(y.src == p.src && y.id == id) }).dapAnswer p (toBytes 4 0)) ∧
      (p.body.length = 4 → slice p.body 2 2 = [0, 0] → ¬ found → t = no s 1)) ∧
    (permits → p.service = 6 →
      (p.dst = 0 → t = s.modDap fun d => { d with pings := d.pings ++ [p] }) ∧
      (p.dst ≠ 0 → t = if p.body = [] then s.dapAnswer p s.pingBody else no s 5)) ∧
    (permits → p.service = 7 →
      let e := ofBytes p.body
      let say (st : Nat) : Prop := t = s.dapAnswer p (toBytes 4 st ++ toBytes 4 (s.ev 0xA010 3))
      (p.body.length ≠ 4 → say 5) ∧
      (p.body.length = 4 → s.dap.holder = .hazel ∨ away → say 7) ∧
      (p.body.length = 4 → s.dap.holder ≠ .hazel → ¬ away → e = 0xFFFFFFFF → say 9) ∧
      (p.body.length = 4 → s.dap.holder ≠ .hazel → ¬ away → e ≠ 0xFFFFFFFF →
        t = s.modDap fun d => { d with window := d.window ++ [⟨some p.src, e, ⟨q, some p⟩⟩] })) ∧
    (permits → p.service = 8 →
      let say (u : State) (st : Nat) : Prop := t = u.dapAnswer p (toBytes 4 st ++ toBytes 4 (u.ev 0xA010 3))
      (s.dap.holder = .hazel ∨ away → say s 7) ∧
      (s.dap.holder ≠ .hazel → ¬ away → ¬ (s.dap.holder = .remote ∧ s.dap.node = p.src) → say s 8) ∧
      (s.dap.holder = .remote → s.dap.node = p.src → ¬ away → say (s.passEnsign .local_ 0) 0))) ∧
  (∀ s : State, (s.dap.pings = [] → exec .broadcastPingDelay s = .next s) ∧
    (∀ p r, s.dap.pings = p :: r → completes .broadcastPingDelay s fun t => t = s.orWaits ((State.modDap { s with held := false } fun d => { d with pings := r }).dapAnswer p s.pingBody)) ∧
    s.pingBody = [0, BitVec.ofNat 8 s.pingState, 0, 0] ++ toBytes 4 (s.ev 0xA010 3) ++
      toBytes 1 (match s.dap.holder with | .local_ => 1 | .remote => 2 | .hazel => 3) ++ [0] ++ toBytes 2 s.dap.node ++ toBytes 4 (s.ev 0xA000 0xD) ++ toBytes 8 s.time) ∧
  (∀ (s : State) (k : Fin 256),
    let cmd : Instr := .dapNotify k
    (s.dap.subs[k.val]? = none → exec cmd s = .next s) ∧
    (∀ x r, s.dap.subs[k.val]? = some x → catRow x.entry = some r →
      let v := s.readNum (.dap x.src x.key) x.entry
      (x.periodic = false → v = x.lastVal → exec cmd s = .next s) ∧
      (x.periodic = true ∨ v ≠ x.lastVal → completes cmd s fun t => ∃ txn, txn < 65536 ∧
        let z := State.drawRead { s with held := false } x.entry
        let u : State := { z with fresh := z.fresh + 1 }
        let b := toBytes 2 x.id ++ toBytes 2 (x.entry / 256) ++ toBytes 1 (x.entry % 256) ++ toBytes 1 r.ty.code ++ [0, 0] ++
          toBytes 8 s.time ++ toBytes 8 (windowWord r.ty v).toNat
        t = s.orWaits ((u.modDap fun d => { d with subs := d.subs.set k.val { x with lastAt := s.time, lastVal := v } }).dapSend
          ⟨x.key, 5, x.src, 0, txn, 0, false, 0, b, false, x.tr⟩)))) ∧
  (∀ s : State,
    let cmd : Instr := .dapSegment
    let part (p : Pdu) : Prop := isAnswered p.service = true ∧ ¬ (p.seg = 0 ∧ p.more = false)
    let is (p : Pdu) (y : DapTxn) : Bool := y.src == p.src && y.txn == p.txn
    ((∀ p ∈ s.dap.ready, ¬ part p) → exec cmd s = .next s) ∧
    (∀ pre p post, s.dap.ready = pre ++ p :: post → (∀ y ∈ pre, ¬ part y) → part p →
      let does (x : State) : Prop := completes cmd s fun t => t = s.orWaits x
      let u := State.modDap { s with held := false } fun d => { d with ready := pre ++ post }
      let w := u.modDap fun d => { d with txns := d.txns.filter fun y => !is p y }
      let no (st : Nat) : State := if p.dst = 0 then w else w.dapAnswer p (toBytes 4 st ++ toBytes 4 0)
      let full := 4 ≤ (w.dap.txns.filter (·.src == p.src)).length ∨ 64 ≤ w.dap.txns.length
      let ack (v : State) (n : Nat) : State := v.dapSend ⟨p.key, 9, p.src, 0, p.txn, 0, false, 0, toBytes 2 n ++ [0, 0], true, p.tr⟩
      (p.seg = 0 → full → does (no 0xA)) ∧
      (p.seg = 0 → ¬ full → p.body.length ≠ segCap p.tr → does (no 0xF)) ∧
      (p.seg = 0 → ¬ full → p.body.length = segCap p.tr → does (w.modDap fun d => { d with txns := d.txns ++ [⟨p.src, p.txn, p.key, p.tr, p.service, 1, p.body, false, s.time⟩] })) ∧
      (p.seg ≠ 0 → (∀ y ∈ s.dap.txns, is p y = true → y.isResp = true) → does u) ∧
      (∀ pr x po, p.seg ≠ 0 → s.dap.txns = pr ++ x :: po → (∀ y ∈ pr, is p y = false) → is p x = true → x.isResp = false →
        let fits := p.key = x.key ∧ p.tr = x.tr ∧ p.service = x.service ∧ (p.more = true → p.body.length = segCap p.tr) ∧ x.body.length + p.body.length ≤ 65540
        let kept := u.modDap fun d => { d with txns := pr ++ { x with nextSeg := p.seg + 1, body := x.body ++ p.body, at_ := s.time } :: po }
        (p.seg ≠ x.nextSeg → does (ack u x.nextSeg)) ∧
        (p.seg = x.nextSeg → ¬ fits → does (no 0xF)) ∧
        (p.seg = x.nextSeg → fits → p.more = true → does (if p.seg % 8 = 7 then ack kept (p.seg + 1) else kept)) ∧
        (p.seg = x.nextSeg → fits → p.more = false → does (w.serve { p with body := x.body ++ p.body, seg := 0 }))))) ∧
  (∀ s : State,
    let is (p : Pdu) (y : DapTxn) : Bool := y.src == p.src && y.txn == p.txn
    (∀ svc cmd, (svc = 9 ∧ cmd = Instr.dapAck) ∨ (svc = 10 ∧ cmd = .dapAbort) → (∀ p ∈ s.dap.ready, p.service ≠ svc) → exec cmd s = .next s) ∧
    (∀ pre p post, s.dap.ready = pre ++ p :: post →
      let u := s.modDap fun d => { d with ready := pre ++ post }
      ((∀ y ∈ pre, y.service ≠ 10) → p.service = 10 → completes .dapAbort s fun t =>
        t = u.modDap fun d => { d with txns := d.txns.filter fun y => !is p y }) ∧
      ((∀ y ∈ pre, y.service ≠ 9) → p.service = 9 →
        let n := ofBytes (p.body.take 2)
        let z : State := { u with held := false }
        ((∀ y ∈ s.dap.txns, is p y = true → y.isResp = false) → completes .dapAck s fun t => t = u) ∧
        (∀ pr x po, s.dap.txns = pr ++ x :: po → (∀ y ∈ pr, is p y = false) → is p x = true → x.isResp = true →
          (x.nextSeg < n → completes .dapAck s fun t => t = u) ∧
          (n ≤ x.nextSeg → completes .dapAck s fun t =>
            let y := { x with nextSeg := min (n / 8 * 8 + 8) (segCount x.tr x.body), at_ := s.time }
            t = s.orWaits ((z.modDap fun d => { d with txns := pr ++ y :: po }).sendBurst x n))))) ∧
    (∀ n, completes (.dapTransactionTimeout n) s fun t => t = s.modDap fun d => { d with txns := d.txns.eraseIdx n })) ∧
  (∀ (s : State) (q : Req) (e : BitVec 32), let b := s.begun q (ek 0xA010 4)
    s.asked q (ek 0xA010 4) e.toNat = some 0 → e ≠ 0xFFFFFFFF ∧ s.dap.holder ≠ .hazel ∧ completes (.ensignClaim q e) s fun t =>
      t = b.modDap fun d => { d with window := d.window ++ [⟨none, e.toNat, ⟨q, none⟩⟩] }) ∧
  (∀ s : State,
    let cmd : Instr := .ensignWindowClose
    let w := s.dap.window
    let epoch := s.ev 0xA010 3
    let u := State.modDap { s with held := false } fun d => { d with window := [] }
    let tell (v : State) (l : List Claim) (st : Nat) : State := l.foldl (fun v c => v.complete c.by_ st) v
    let won (h : Holder) (node e : Nat) : State :=
      (((u.setE 0xA010 3 e).seedWrite).modDap fun d => { d with prev := d.holder, holder := h, node := node, leaseAt := u.time }).pulse 53
    (s.dap.holder = .hazel → completes cmd s fun t => t = s.orWaits (tell u w 7)) ∧
    (s.dap.holder ≠ .hazel →
      ((∀ c ∈ w, c.epoch ≤ epoch) → completes cmd s fun t => t = s.orWaits (tell u w 0xC)) ∧
      (∀ pre c post, w = pre ++ c :: post → epoch < c.epoch → (∀ y ∈ pre ++ post, y.epoch < c.epoch) → completes cmd s fun t =>
        (∀ n, c.node = some n → t = s.orWaits (tell ((won .remote n c.epoch).complete c.by_ 0) (pre ++ post) 0xC)) ∧
        (c.node = none → t = s.orWaits (tell ((won .local_ 0 c.epoch).complete c.by_ 0) (pre ++ post) 0xC))) ∧
      (∀ high, epoch < high → (∀ y ∈ w, y.epoch ≤ high) → 2 ≤ (w.filter (·.epoch == high)).length → completes cmd s fun t =>
        let top := w.filter (·.epoch == high)
        let first := ((top.filterMap (·.node)).head?).getD 0
        let v := ((won .local_ 0 high).addE 0xA010 6 32 1).setE 0xA010 7 (high + first * 2 ^ 32)
        t = s.orWaits (tell (tell (tell v (top.filter (·.node.isSome)) 0xD) (top.filter (·.node.isNone)) 0) (w.filter (·.epoch != high)) 0xC))) ∧
    (∀ (h : Holder) (node : Nat), s.passEnsign h node =
      (((s.setE 0xA010 3 (if epoch < 0xFFFFFFFE then epoch + 1 else epoch)).seedWrite).modDap fun d =>
        { d with prev := d.holder, holder := h, node := node, leaseAt := s.time }).pulse 53) ∧
    (¬ (s.dap.holder = .remote ∧ s.ev 0xA010 5 ≠ 0) → exec .ensignLeaseExpiry s = .next s) ∧
    (s.dap.holder = .remote → s.ev 0xA010 5 ≠ 0 → completes .ensignLeaseExpiry s fun t => t = s.passEnsign .local_ 0))

/-- The Data Mover, the fault banks and GPIO (R499 to R508, R540, R541). -/
def Obligations.MoverFaultsGpio : Prop :=
  (∀ (s : State) (m : Master) (n : Fin 32) (v : Word),
    let may := s.masterSecure m = true ∨ ((s.dmPart n.val).isSome = true ∧ s.masterPart m = s.dmPart n.val)
    let c := s.dm.get n
    let i := 0x9200 + n.val
    let v16 := v.setWidth 16
    let off := c.retired = true ∨ s.ev i 3 = 0 ∨ s.ev i 2 < (v16 - c.head).toNat
    let result (u : State) (r : BitVec 2) : State := u.modDm n fun d => { d with abortRes := r }
    let z : State := { s with held := false }
    let u := z.dmAbortOne n v16.toNat
    (¬ may → ∀ cmd, cmd = Instr.dmTail m n v ∨ cmd = .dmAbort m n v ∨ cmd = .dmAbortAll m n v →
      completes cmd s fun t => t = { s with reply := .error .wlderr }) ∧
    (may →
      (off → completes (.dmTail m n v) s fun t => t = s.addE i 7 32 1) ∧
      (¬ off → completes (.dmTail m n v) s fun t => t = s.modDm n fun d => { d with tail := v16 }) ∧
      (v16.toNat ∉ ringIdx c.head c.tail → completes (.dmAbort m n v) s fun t => t = result s 3) ∧
      (v16.toNat ∈ ringIdx c.head c.tail → v16.toNat ∈ c.done → completes (.dmAbort m n v) s fun t => t = result s 2) ∧
      (v16.toNat ∈ ringIdx c.head c.tail → v16.toNat ∉ c.done → completes (.dmAbort m n v) s fun t =>
        t = s.orWaits (if c.running = true ∧ (u.dm.get n).running = false then result (u.dmStop n v16.toNat (s.dmAddr n v16.toNat) 0) 2 else result u 1)) ∧
      (v.getLsbD 0 = false → exec (.dmAbortAll m n v) s = .next s) ∧
      (v.getLsbD 0 = true → completes (.dmAbortAll m n v) s fun t =>
        let x := (s.dmOpen n).foldl (fun w k => w.dmAbortOne n k) z
        t = s.orWaits x ∧ x.dmOpen n = []))) ∧
  (∀ (s : State) (q : Req) (n : Fin 32) (v : Word),
    let key := ek (0x9200 + n.val) 3
    let b := (State.begun { s with held := false } q key).setE (0x9200 + n.val) 3 v.toNat
    let x := ((b.dmAbortEvery n).modDm n fun d => { d with running := false }).complete ⟨q, none⟩ 0
    s.asked q key v.toNat = some 0 → v.toNat ≤ 1 ∧ completes (.dmEnable q n v) s fun t =>
      (v = 1 → t = s.orWaits ((b.modDm n fun d => { d with running := !d.retired }).complete ⟨q, none⟩ 0)) ∧
      (v = 0 → t = s.orWaits x ∧ (x.dm.get n).running = false ∧ x.dmOpen n = [])) ∧
  (∀ (s : State) (n : Fin 32),
    let c := s.dm.get n
    let cmd : Instr := .dmDescriptorStart n
    let may := c.running = true ∧ c.retired = false ∧ c.cur = none ∧ s.ev (0x9200 + n.val) 3 ≠ 0
    (¬ may ∨ s.dmOpen n = [] → exec cmd s = .next s) ∧
    let z : State := { s with held := false }
    let does (x : State) : Prop := completes cmd s fun t => t = s.orWaits x
    (∀ i rest, may → s.dmOpen n = i :: rest →
      (∀ u, z.dmDesc n i = (u, none) → does (u.dmDescFault n i)) ∧
      (∀ u d, z.dmDesc n i = (u, some d) →
        (∀ code, u.dmCheck n d = some code → (code = 6 ∨ code = 7) ∧ does (u.dmFinish n i code 0 none d.irq)) ∧
        (u.dmCheck n d = none → d.len = 0 → does (u.dmFinish n i 1 0 (if d.crc = true then some 0 else none) d.irq)) ∧
        (u.dmCheck n d = none → d.len ≠ 0 → does (u.modDm n fun x => { x with cur := some (BitVec.ofNat 16 i) })))) ∧
    (∀ d : DmDesc,
      let fails := d.zeros = false ∨ (d.len ≠ 0 ∧ ((d.fill = false ∧ s.dmRange d.src d.len = false) ∨ s.dmRange d.dst d.len = false ∨
        (d.fill = false ∧ d.src < d.dst + d.len ∧ d.dst < d.src + d.len)))
      let denied := d.len ≠ 0 ∧ ((d.fill = false ∧ s.confined (.dm n) d.src d.len false (s.region d.src) = false) ∨
        s.confined (.dm n) d.dst d.len true (s.region d.dst) = false)
      (fails → s.dmCheck n d = some 7) ∧ (¬ fails → denied → s.dmCheck n d = some 6) ∧ (¬ fails → ¬ denied → s.dmCheck n d = none))) ∧
  (∀ (s : State) (n : Fin 32) (dst : Bool) (good : BitVec 32),
    let c := s.dm.get n
    let done : Instr := .dmDescriptorComplete n
    let err : Instr := .dmError n dst good
    let live := c.running = true ∧ c.retired = false
    let z : State := { s with held := false }
    let does (cmd : Instr) (x : State) : Prop := completes cmd s fun t => t = s.orWaits x
    (c.cur = none → exec done s = .next s) ∧
    (¬ live → exec err s = .next s) ∧
    (live → c.cur = none → s.dmOpen n = [] → exec err s = .next s) ∧
    (∀ i rest, live → c.cur = none → s.dmOpen n = i :: rest → does err (z.dmDescFault n i)) ∧
    (∀ i u, c.cur = some i → z.dmDesc n i.toNat = (u, none) → does done (u.dmDescFault n i.toNat) ∧ (live → does err (u.dmDescFault n i.toNat))) ∧
    (∀ i u d, c.cur = some i → z.dmDesc n i.toNat = (u, some d) →
      (∀ w r, u.dmMove n d d.len = (w, r) →
        (∀ e, r.err = some e → does done (w.dmFail n i.toNat e r.moved (d.crcv r) d.irq)) ∧
        (∀ a, r.err = none → r.poisonAt = some a → does done ((w.record bankDm 0x13 28 n.val a 0).dmFinish n i.toNat 3 r.moved (d.crcv r) d.irq)) ∧
        (r.err = none → r.poisonAt = none → r.moved = d.len ∧ does done (w.dmFinish n i.toNat 1 d.len (d.crcv r) d.irq))) ∧
      (∀ w r, live → u.dmMove n d (min good.toNat d.len) = (w, r) → does err (w.dmFail n i.toNat (r.err.getD (if dst = true then 5 else 4)) r.moved (d.crcv r) d.irq)))) ∧
  (∀ (s : State) (n : Fin 32) (i code moved : Nat) (crc : Option (BitVec 32)) (irq : Bool),
    let c := s.dm.get n
    let t := s.dmFinish n i code moved crc irq
    let d := t.dm.get n
    d.tail = c.tail ∧ d.running = c.running ∧ d.retired = c.retired ∧ t.dmOpen n = (s.dmOpen n).filter (· ≠ i) ∧
    d.stat.getLsbD 0 = (c.stat.getLsbD 0 || irq) ∧ (d.stat.getLsbD 1 = true ↔ c.stat.getLsbD 1 = true ∨ (code ≠ 1 ∧ code ≠ 2)) ∧
    (∀ k : Fin 32, k ≠ n → t.dm.get k = s.dm.get k)) ∧
  (∀ (s : State) (n : Fin 32) (i a w : Nat), let t := s.dmStop n i a w
    (t.dm.get n).running = false ∧ (t.dm.get n).cur = none ∧ t.dmOpen n = (s.dmOpen n).filter (· = i)) ∧
  (∀ (s : State) (n : Fin 32) (i code moved : Nat) (crc : Option (BitVec 32)) (irq : Bool),
    s.dmFail n i code moved crc irq = (s.dmFinish n i code moved crc irq).dmStop n i (s.dmAddr n i) 0 ∧
    s.dmDescFault n i = (s.record bankDm 0x2C n.val 0 (s.dmAddr n i) i).dmStop n i (s.dmAddr n i) (0x2C + 2 * 256 + n.val * 2 ^ 16 + 2 ^ 32)) ∧
  (∀ (f : FaultBank) (r : FaultRec),
    let equal (l : FaultRec) : Prop := l.code = r.code ∧ l.unit = r.unit ∧ l.unit2 = r.unit2 ∧ l.addr = r.addr
    let fresh := ∀ l, f.recs.getLast? = some l → ¬ equal l
    (∀ pre l, f.recs = pre ++ [l] → equal l → f.add r =
      ({ f with recs := pre ++ [{ l with repeat_ := if l.repeat_ = 0xFFFF then 0xFFFF else l.repeat_ + 1 }] }, false)) ∧
    (fresh → f.recs.length < 16 → f.add r = ({ f with recs := f.recs ++ [r] }, false)) ∧
    (fresh → 16 ≤ f.recs.length → r.cls = 0 ∨ (∀ x ∈ f.recs, x.cls ≠ 0) → f.add r = ({ f with ovf := true }, true)) ∧
    (∀ pre x post, fresh → 16 ≤ f.recs.length → r.cls ≠ 0 → f.recs = pre ++ x :: post → (∀ y ∈ pre, y.cls ≠ 0) → x.cls = 0 →
      f.add r = ({ f with recs := pre ++ post ++ [r], ovf := true }, true))) ∧
  (∀ (s : State) (m : Master) (b : Fin 49) (v : Word),
    (s.masterSecure m = false → completes (.fbPop m b v) s fun t => t = { s with reply := .error .wlderr }) ∧
    (s.masterSecure m = true → v.getLsbD 0 = false → exec (.fbPop m b v) s = .next s) ∧
    (s.masterSecure m = true → v.getLsbD 0 = true → completes (.fbPop m b v) s fun t =>
      t = State.bankLine { s with fb := vset s.fb b { s.fb.get b with recs := (s.fb.get b).recs.drop 1 } } b.val)) ∧
  (∀ (s : State) (n : Fin 32) (level : Bool) (m : Master) (v : Word) (edges : BitVec 32),
    let g := s.gpio
    let edge : Instr := .gpioEdge n level
    let stat : Instr := .gpioIrqStat m v edges
    let mask : BitVec 32 := 1#32 <<< n.val
    (s.domOn 60 = false ∨ g.in_.getLsbD n.val = level → exec edge s = .next s) ∧
    (s.domOn 60 = true → g.in_.getLsbD n.val ≠ level → completes edge s fun t =>
      let seen := if g.edge.getLsbD n.val = level then g.stat ||| mask else g.stat
      t = State.setLine { s with gpio := { g with in_ := if level = true then g.in_ ||| mask else g.in_ &&& ~~~mask, stat := seen } } 57
        (seen &&& g.en != 0)) ∧
    (s.masterSecure m = false → completes stat s fun t => t = { s with reply := .error .wlderr }) ∧
    (s.masterSecure m = true → s.domOn 60 = false → completes stat s fun t => t = { s with reply := .error .offerr }) ∧
    (s.masterSecure m = true → s.domOn 60 = true → completes stat s fun t =>
      let left := (g.stat &&& ~~~(v.setWidth 32)) ||| edges
      t = { State.setLine { s with gpio := { g with stat := left } } 57 (left &&& g.en != 0) with reply := .none }))
end

