-- ==== Sys2Proof/Laws/Memory.lean ====
section
/-! SUPPORT. Sparse tables and the memory of bytes: a read after a write, and the canonical form that every write keeps. -/
namespace Sys2Proof.Machine

variable {α : Type}

/-- Every key of a sorted table's rest is above its first key. -/
def kvAbove (n : Nat) (t : KV α) : Prop := ∀ p ∈ t, n < p.1

theorem kvSorted_cons {k : Nat} {v : α} {r : KV α} :
    kvSorted ((k, v) :: r) = true ↔ kvAbove k r ∧ kvSorted r = true := by
  induction r generalizing k v with
  | nil => simp [kvSorted, kvAbove]
  | cons p r ih =>
    obtain ⟨b, w⟩ := p
    rw [kvSorted]
    simp only [Bool.and_eq_true, decide_eq_true_eq]
    constructor
    · rintro ⟨hab, hs⟩
      refine ⟨?_, hs⟩
      intro q hq
      rcases List.mem_cons.mp hq with h | h
      · subst h; exact hab
      · exact Nat.lt_trans hab ((ih.mp hs).1 q h)
    · rintro ⟨ha, hs⟩
      exact ⟨ha (b, w) (List.mem_cons_self ..), hs⟩

theorem kvGet?_above {t : KV α} {n : Nat} (h : kvAbove n t) : kvGet? t n = none := by
  induction t with
  | nil => rfl
  | cons p r ih =>
    obtain ⟨k, v⟩ := p
    have hk : n < k := h (k, v) (List.mem_cons_self ..)
    simp [kvGet?, Nat.ne_of_lt hk, hk]

theorem kvPut_mem {n : Nat} {v : α} {t : KV α} {p : Nat × α} (h : p ∈ kvPut n v t) : p = (n, v) ∨ p ∈ t := by
  induction t with
  | nil => simpa [kvPut] using h
  | cons q r ih =>
    obtain ⟨k, w⟩ := q
    simp only [kvPut] at h
    split at h
    · rcases List.mem_cons.mp h with h | h
      · exact Or.inl h
      · exact Or.inr (List.mem_cons_of_mem _ h)
    · split at h
      · rcases List.mem_cons.mp h with h | h
        · exact Or.inl h
        · exact Or.inr h
      · rcases List.mem_cons.mp h with h | h
        · exact Or.inr (h ▸ List.mem_cons_self ..)
        · exact (ih h).imp id (List.mem_cons_of_mem _)

theorem kvDel_mem {n : Nat} {t : KV α} {p : Nat × α} (h : p ∈ kvDel n t) : p ∈ t := by
  induction t with
  | nil => simp [kvDel] at h
  | cons q r ih =>
    obtain ⟨k, w⟩ := q
    simp only [kvDel] at h
    split at h
    · exact List.mem_cons_of_mem _ h
    · split at h
      · exact h
      · rcases List.mem_cons.mp h with h | h
        · exact h ▸ List.mem_cons_self ..
        · exact List.mem_cons_of_mem _ (ih h)

theorem kvPut_sorted {n : Nat} {v : α} {t : KV α} (h : kvSorted t = true) : kvSorted (kvPut n v t) = true := by
  induction t with
  | nil => rfl
  | cons q r ih =>
    obtain ⟨k, w⟩ := q
    obtain ⟨ha, hs⟩ := kvSorted_cons.mp h
    simp only [kvPut]
    split
    · subst k; exact kvSorted_cons.mpr ⟨ha, hs⟩
    · split
      · rename_i hlt
        refine kvSorted_cons.mpr ⟨?_, h⟩
        intro p hp
        rcases List.mem_cons.mp hp with hp | hp
        · subst hp; exact hlt
        · exact Nat.lt_trans hlt (ha p hp)
      · refine kvSorted_cons.mpr ⟨?_, ih hs⟩
        intro p hp
        rcases kvPut_mem hp with hp | hp
        · subst hp; show k < n; omega
        · exact ha p hp

theorem kvDel_sorted {n : Nat} {t : KV α} (h : kvSorted t = true) : kvSorted (kvDel n t) = true := by
  induction t with
  | nil => rfl
  | cons q r ih =>
    obtain ⟨k, w⟩ := q
    obtain ⟨ha, hs⟩ := kvSorted_cons.mp h
    simp only [kvDel]
    split
    · exact hs
    · split
      · exact h
      · exact kvSorted_cons.mpr ⟨fun p hp => ha p (kvDel_mem hp), ih hs⟩

/-- A table with a key given a value stays sorted. -/
theorem kvSet_sorted [DecidableEq α] {d : α} {n : Nat} {v : α} {t : KV α} (h : kvSorted t = true) :
    kvSorted (kvSet d n v t) = true := by
  unfold kvSet; split
  · exact kvDel_sorted h
  · exact kvPut_sorted h

/-- A table with a key given a value lists no default value. -/
theorem kvSet_noDefault [DecidableEq α] {d : α} {n : Nat} {v : α} {t : KV α} (h : kvNoDefault d t = true) :
    kvNoDefault d (kvSet d n v t) = true := by
  simp only [kvNoDefault, List.all_eq_true, decide_eq_true_eq] at *
  intro p hp
  unfold kvSet at hp
  split at hp
  · exact h p (kvDel_mem hp)
  · rename_i hv
    rcases kvPut_mem hp with hp | hp
    · subst hp; exact hv
    · exact h p hp

theorem kvGet?_kvPut {n m : Nat} {v : α} {t : KV α} (h : kvSorted t = true) :
    kvGet? (kvPut n v t) m = if m = n then some v else kvGet? t m := by
  induction t with
  | nil =>
    simp only [kvPut, kvGet?]
    split <;> simp
  | cons q r ih =>
    obtain ⟨k, w⟩ := q
    obtain ⟨ha, hs⟩ := kvSorted_cons.mp h
    simp only [kvPut]
    split
    · subst k
      simp only [kvGet?]
      split <;> simp_all
    · split
      · simp only [kvGet?]
        split
        · rfl
        · split
          · split
            · omega
            · split
              · rfl
              · omega
          · rfl
      · simp only [kvGet?, ih hs]
        split
        · split
          · omega
          · rfl
        · split
          · split
            · omega
            · rfl
          · rfl

theorem kvGet?_kvDel {n m : Nat} {t : KV α} (h : kvSorted t = true) :
    kvGet? (kvDel n t) m = if m = n then none else kvGet? t m := by
  induction t with
  | nil => simp [kvDel, kvGet?]
  | cons q r ih =>
    obtain ⟨k, w⟩ := q
    obtain ⟨ha, hs⟩ := kvSorted_cons.mp h
    simp only [kvDel]
    split
    · subst k
      by_cases hm : m = n
      · subst hm; simpa using kvGet?_above ha
      · simp only [hm, if_false, kvGet?]
        split
        · exact kvGet?_above fun p hp => by have := ha p hp; omega
        · rfl
    · split
      · simp only [kvGet?]
        by_cases hm : m = n
        · subst hm; simp_all
        · simp [hm]
      · simp only [kvGet?, ih hs]
        split
        · split
          · omega
          · rfl
        · split
          · split <;> rfl
          · rfl

/-- What a key reads as after a key is given a value. -/
theorem kvGet_kvSet [DecidableEq α] {d : α} {n m : Nat} {v : α} {t : KV α} (h : kvSorted t = true) :
    kvGet d (kvSet d n v t) m = if m = n then v else kvGet d t m := by
  unfold kvGet kvSet
  split
  · rename_i hv
    rw [kvGet?_kvDel h]
    split <;> simp [hv]
  · rw [kvGet?_kvPut h]
    split <;> simp

/-- A byte reads as it was written; every other byte is unchanged. -/
theorem Memory.get_set {m : List Host.Cell} {a x : Nat} {b : Byte} (h : Memory.wf m = true) :
    Memory.get (Memory.set m a b) x = if x = a then b else Memory.get m x := by
  simp only [Memory.wf, Bool.and_eq_true] at h
  exact kvGet_kvSet h.1

/-- A write of one byte keeps the canonical form. -/
theorem Memory.set_wf {m : List Host.Cell} {a : Nat} {b : Byte} (h : Memory.wf m = true) :
    Memory.wf (Memory.set m a b) = true := by
  simp only [Memory.wf, Bool.and_eq_true] at *
  exact ⟨kvSet_sorted h.1, kvSet_noDefault h.2⟩

/-- A write of bytes keeps the canonical form. -/
theorem Memory.write_wf {m : List Host.Cell} {a : Nat} {l : List Byte} (h : Memory.wf m = true) :
    Memory.wf (Memory.write m a l) = true := by
  induction l generalizing m a with
  | nil => exact h
  | cons b r ih => exact ih (Memory.set_wf h)

/-- Every byte outside the written ones reads as before. -/
theorem Memory.get_write_out {m : List Host.Cell} {a x : Nat} {l : List Byte} (h : Memory.wf m = true)
    (hx : x < a ∨ a + l.length ≤ x) : Memory.get (Memory.write m a l) x = Memory.get m x := by
  induction l generalizing m a with
  | nil => rfl
  | cons b r ih =>
    simp only [List.length_cons] at hx
    have hne : x ≠ a := by omega
    rw [Memory.write, ih (Memory.set_wf h) (by omega), Memory.get_set h, if_neg hne]

/-- A written byte reads as it was written. -/
theorem Memory.get_write_in {m : List Host.Cell} {a : Nat} {l : List Byte} {k : Nat} (h : Memory.wf m = true)
    (hk : k < l.length) : Memory.get (Memory.write m a l) (a + k) = l[k] := by
  induction l generalizing m a k with
  | nil => simp at hk
  | cons b r ih =>
    simp only [List.length_cons] at hk
    cases k with
    | zero =>
      rw [Memory.write, Memory.get_write_out (Memory.set_wf h) (by omega), Memory.get_set h]
      simp
    | succ k =>
      have := ih (m := Memory.set m a b) (a := a + 1) (k := k) (Memory.set_wf h) (by omega)
      rw [Memory.write, show a + (k + 1) = a + 1 + k by omega, this]
      rfl

theorem kvAbove_mono {n k : Nat} {t : KV α} (h : kvAbove n t) (hk : k ≤ n) : kvAbove k t :=
  fun p hp => Nat.lt_of_le_of_lt hk (h p hp)

theorem kvSorted_filter {t : KV α} {p : Nat × α → Bool} (h : kvSorted t = true) : kvSorted (t.filter p) = true := by
  induction t with
  | nil => rfl
  | cons q r ih =>
    obtain ⟨ha, hs⟩ := kvSorted_cons.mp h
    rw [List.filter_cons]
    split
    · exact kvSorted_cons.mpr ⟨fun x hx => ha x (List.mem_of_mem_filter hx), ih hs⟩
    · exact ih hs

/-- Taking bytes out of memory keeps the canonical form. -/
theorem Memory.filter_wf {m : List Host.Cell} {p : Host.Cell → Bool} (h : Memory.wf m = true) :
    Memory.wf (m.filter p) = true := by
  simp only [Memory.wf, Bool.and_eq_true, kvNoDefault, List.all_eq_true] at *
  exact ⟨kvSorted_filter h.1, fun x hx => h.2 x (List.mem_of_mem_filter hx)⟩

end Sys2Proof.Machine
end

