-- ==== Sys2Proof/Laws/Keep/Basic.lean ====
section
/-! SUPPORT. What every operation of the machine leaves: the queue of commands, and the canonical form of the tables. -/
namespace Sys2Proof.Machine

set_option Elab.async false

/-- The queue is q, and the tables are in canonical form. -/
def State.keep (q : List Instr) (s : State) : Prop := s.pending = q ∧ s.canon

variable {q : List Instr} {s : State}

/-- Changing other fields. -/
theorem keep_mk {vtime vfresh vheld vreply vpoison vtags vacore vtlbPend vpod vhome vpc vhbm vsent visland vsafeN vgw venv vmail vdap vseed vhazel vdm vfb vledger vtrans vretired vgpio vpcieOut} (h : State.keep q s) :
    State.keep q ⟨s.pending, vtime, vfresh, vheld, vreply, s.mem, vpoison, vtags, s.ecc, s.ent, s.entB, vacore, vtlbPend, vpod, vhome, vpc, vhbm, vsent, visland, vsafeN, s.irq, s.husk, vgw, venv, vmail, vdap, vseed, vhazel, vdm, vfb, vledger, vtrans, vretired, vgpio, vpcieOut⟩ := h

/-- Writing memory. -/
theorem keep_mem {vtime vfresh vheld vreply vpoison vtags vacore vtlbPend vpod vhome vpc vhbm vsent visland vsafeN vgw venv vmail vdap vseed vhazel vdm vfb vledger vtrans vretired vgpio vpcieOut} {m}
    (h : State.keep q s) (hm : Memory.wf s.mem = true → Memory.wf m = true) :
    State.keep q ⟨s.pending, vtime, vfresh, vheld, vreply, m, vpoison, vtags, s.ecc, s.ent, s.entB, vacore, vtlbPend, vpod, vhome, vpc, vhbm, vsent, visland, vsafeN, s.irq, s.husk, vgw, venv, vmail, vdap, vseed, vhazel, vdm, vfb, vledger, vtrans, vretired, vgpio, vpcieOut⟩ :=
  ⟨h.1, hm h.2.1, h.2.2⟩

/-- Writing scalar entries. -/
theorem keep_ent {vtime vfresh vheld vreply vpoison vtags vacore vtlbPend vpod vhome vpc vhbm vsent visland vsafeN vgw venv vmail vdap vseed vhazel vdm vfb vledger vtrans vretired vgpio vpcieOut} {m}
    (h : State.keep q s) (hm : kvSorted s.ent = true → kvSorted m = true) :
    State.keep q ⟨s.pending, vtime, vfresh, vheld, vreply, s.mem, vpoison, vtags, s.ecc, m, s.entB, vacore, vtlbPend, vpod, vhome, vpc, vhbm, vsent, visland, vsafeN, s.irq, s.husk, vgw, venv, vmail, vdap, vseed, vhazel, vdm, vfb, vledger, vtrans, vretired, vgpio, vpcieOut⟩ :=
  ⟨h.1, h.2.1, hm h.2.2.1, h.2.2.2⟩

/-- Writing entries of bytes. -/
theorem keep_entB {vtime vfresh vheld vreply vpoison vtags vacore vtlbPend vpod vhome vpc vhbm vsent visland vsafeN vgw venv vmail vdap vseed vhazel vdm vfb vledger vtrans vretired vgpio vpcieOut} {m}
    (h : State.keep q s) (hm : kvSorted s.entB = true → kvSorted m = true) :
    State.keep q ⟨s.pending, vtime, vfresh, vheld, vreply, s.mem, vpoison, vtags, s.ecc, s.ent, m, vacore, vtlbPend, vpod, vhome, vpc, vhbm, vsent, visland, vsafeN, s.irq, s.husk, vgw, venv, vmail, vdap, vseed, vhazel, vdm, vfb, vledger, vtrans, vretired, vgpio, vpcieOut⟩ :=
  ⟨h.1, h.2.1, h.2.2.1, hm h.2.2.2.1, h.2.2.2.2⟩

/-- Writing both kinds of entries. -/
theorem keep_ents {vtime vfresh vheld vreply vpoison vtags vacore vtlbPend vpod vhome vpc vhbm vsent visland vsafeN vgw venv vmail vdap vseed vhazel vdm vfb vledger vtrans vretired vgpio vpcieOut} {m n}
    (h : State.keep q s) (hm : kvSorted s.ent = true → kvSorted m = true) (hn : kvSorted s.entB = true → kvSorted n = true) :
    State.keep q ⟨s.pending, vtime, vfresh, vheld, vreply, s.mem, vpoison, vtags, s.ecc, m, n, vacore, vtlbPend, vpod, vhome, vpc, vhbm, vsent, visland, vsafeN, s.irq, s.husk, vgw, venv, vmail, vdap, vseed, vhazel, vdm, vfb, vledger, vtrans, vretired, vgpio, vpcieOut⟩ :=
  ⟨h.1, h.2.1, hm h.2.2.1, hn h.2.2.2.1, h.2.2.2.2⟩

/-- Writing husks. -/
theorem keep_husk {vtime vfresh vheld vreply vpoison vtags vacore vtlbPend vpod vhome vpc vhbm vsent visland vsafeN vgw venv vmail vdap vseed vhazel vdm vfb vledger vtrans vretired vgpio vpcieOut} {m}
    (h : State.keep q s) (hm : kvSorted s.husk = true → kvSorted m = true) :
    State.keep q ⟨s.pending, vtime, vfresh, vheld, vreply, s.mem, vpoison, vtags, s.ecc, s.ent, s.entB, vacore, vtlbPend, vpod, vhome, vpc, vhbm, vsent, visland, vsafeN, s.irq, m, vgw, venv, vmail, vdap, vseed, vhazel, vdm, vfb, vledger, vtrans, vretired, vgpio, vpcieOut⟩ :=
  ⟨h.1, h.2.1, h.2.2.1, h.2.2.2.1, hm h.2.2.2.2.1, h.2.2.2.2.2⟩

/-- Writing the sources of interrupts. -/
theorem keep_irq {vtime vfresh vheld vreply vpoison vtags vacore vtlbPend vpod vhome vpc vhbm vsent visland vsafeN vgw venv vmail vdap vseed vhazel vdm vfb vledger vtrans vretired vgpio vpcieOut} {m}
    (h : State.keep q s) (hm : kvSorted s.irq.src = true → kvSorted m.src = true) :
    State.keep q ⟨s.pending, vtime, vfresh, vheld, vreply, s.mem, vpoison, vtags, s.ecc, s.ent, s.entB, vacore, vtlbPend, vpod, vhome, vpc, vhbm, vsent, visland, vsafeN, m, s.husk, vgw, venv, vmail, vdap, vseed, vhazel, vdm, vfb, vledger, vtrans, vretired, vgpio, vpcieOut⟩ :=
  ⟨h.1, h.2.1, h.2.2.1, h.2.2.2.1, h.2.2.2.2.1, hm h.2.2.2.2.2.1, h.2.2.2.2.2.2⟩

/-- Writing the words with errors, and the tags with them. -/
theorem keep_ecc {vtime vfresh vheld vreply vpoison vtags vacore vtlbPend vpod vhome vpc vhbm vsent visland vsafeN vgw venv vmail vdap vseed vhazel vdm vfb vledger vtrans vretired vgpio vpcieOut} {m}
    (h : State.keep q s) (hm : kvSorted s.ecc = true → kvSorted m = true) :
    State.keep q ⟨s.pending, vtime, vfresh, vheld, vreply, s.mem, vpoison, vtags, m, s.ent, s.entB, vacore, vtlbPend, vpod, vhome, vpc, vhbm, vsent, visland, vsafeN, s.irq, s.husk, vgw, venv, vmail, vdap, vseed, vhazel, vdm, vfb, vledger, vtrans, vretired, vgpio, vpcieOut⟩ :=
  ⟨h.1, h.2.1, h.2.2.1, h.2.2.2.1, h.2.2.2.2.1, h.2.2.2.2.2.1, hm h.2.2.2.2.2.2⟩

/-- A fold over a table that keeps its keys in order. -/
theorem foldl_sorted {α β : Type} {f : KV β → α → KV β} {l : List α} {t : KV β}
    (hf : ∀ t x, kvSorted t = true → kvSorted (f t x) = true) (h : kvSorted t = true) : kvSorted (l.foldl f t) = true := by
  induction l generalizing t with
  | nil => exact h
  | cons a r ih => exact ih (hf _ _ h)

/-- A fold of an operation that keeps them. -/
theorem foldl_keep {α : Type} {f : State → α → State} {l : List α}
    (hf : ∀ s x, State.keep q s → State.keep q (f s x)) (h : State.keep q s) : State.keep q (l.foldl f s) := by
  induction l generalizing s with
  | nil => exact h
  | cons a r ih => exact ih (hf _ _ h)

/-- A fold that carries a value beside the state. -/
theorem foldl_keep_fst {α β : Type} {f : State × β → α → State × β} {l : List α} {p : State × β}
    (hf : ∀ s b x, State.keep q s → State.keep q (f (s, b) x).1) (h : State.keep q p.1) : State.keep q (l.foldl f p).1 := by
  induction l generalizing p with
  | nil => exact h
  | cons a r ih => exact ih (hf p.1 p.2 a h)

/-- An optional state, or else another. -/
theorem getD_keep {o : Option State} {d : State} (ho : ∀ t, o = some t → State.keep q t) (h : State.keep q d) :
    State.keep q (o.getD d) := by
  cases o with
  | none => exact h
  | some t => exact ho t rfl

/-- Either of two states. -/
theorem ite_keep {c : Prop} [Decidable c] {a b : State} (ha : State.keep q a) (hb : State.keep q b) :
    State.keep q (if c then a else b) := by
  split
  · exact ha
  · exact hb

/-- Either of two optional states with a value. -/
theorem ite_some_keep {β : Type} {c : Prop} [Decidable c] {o p : Option (State × β)}
    (ho : ∀ r, o = some r → State.keep q r.1) (hp : ∀ r, p = some r → State.keep q r.1) :
    ∀ r, (if c then o else p) = some r → State.keep q r.1 := by
  split
  · exact ho
  · exact hp

/-- A state with a value. -/
theorem some_keep {β : Type} {p : State × β} (h : State.keep q p.1) : ∀ r, some p = some r → State.keep q r.1 :=
  fun _ e => Option.some.inj e ▸ h

/-- The state of a pair. -/
theorem pair_keep {β : Type} {p : State × β} {b : β} (h : State.keep q p.1) (e : p = (s, b)) : State.keep q s := by
  subst e; exact h

end Sys2Proof.Machine
end

