-- ==== Sys2Proof/Laws/Keep/Base.lean ====
section
/-! SUPPORT. The operations of Machine/Base.lean leave the queue and the canonical form of the tables. -/
namespace Sys2Proof.Machine

set_option Elab.async false

variable {q : List Instr}

theorem State.draw_keep {s} (h : State.keep q s) : State.keep q (State.draw s).1 := by
  grind (ematch := 20) [State.draw, keep_mk]

end Sys2Proof.Machine
end

