-- ==== Sys2Proof/Laws/Keep/Catalogue.lean ====
section
/-! SUPPORT. The operations of Machine/Catalogue.lean leave the queue and the canonical form of the tables. -/
namespace Sys2Proof.Machine

set_option Elab.async false

variable {q : List Instr}

theorem State.setE_keep {s idx sub v} (h : State.keep q s) : State.keep q (State.setE s idx sub v) := by
  exact keep_ent h kvSet_sorted

theorem State.addE_keep {s idx sub w k} (h : State.keep q s) : State.keep q (State.addE s idx sub w k) := by
  grind (ematch := 20) [State.addE, State.setE_keep, keep_mk]

theorem State.setB_keep {s idx sub v} (h : State.keep q s) : State.keep q (State.setB s idx sub v) := by
  exact keep_entB h kvPut_sorted

end Sys2Proof.Machine
end

