-- ==== Sys2Proof/Laws/Keep/Faults.lean ====
section
/-! SUPPORT. The operations of Machine/Faults.lean leave the queue and the canonical form of the tables. -/
namespace Sys2Proof.Machine

set_option Elab.async false

variable {q : List Instr}

theorem State.putSrc_keep {s k x2} (h : State.keep q s) : State.keep q (State.putSrc s k x2) := by
  exact keep_irq h kvSet_sorted

theorem State.virtNotify_keep {s p} (h : State.keep q s) : State.keep q (State.virtNotify s p) := by
  grind (ematch := 20) [State.virtNotify, State.putSrc_keep, keep_mk, keep_irq]

theorem State.setSrc_keep {s k x2} (h : State.keep q s) : State.keep q (State.setSrc s k x2) := by
  grind (ematch := 20) [State.setSrc, State.putSrc_keep, State.virtNotify_keep]

theorem State.pulse_keep {s k} (h : State.keep q s) : State.keep q (State.pulse s k) := by
  grind (ematch := 20) [State.pulse, State.setSrc_keep]

theorem State.setLine_keep {s k lvl} (h : State.keep q s) : State.keep q (State.setLine s k lvl) := by
  grind (ematch := 20) [State.setLine, State.setSrc_keep]

theorem State.bankLine_keep {s b} (h : State.keep q s) : State.keep q (State.bankLine s b) := by
  grind (ematch := 20) [State.bankLine, State.setLine_keep]

theorem State.record_keep {s b code unit unit2 addr info} (h : State.keep q s) : State.keep q (State.record s b code unit unit2 addr info) := by
  grind (ematch := 20) [State.record, State.addE_keep, State.bankLine_keep, keep_mk]

theorem State.retireEntry_keep {s kind reason id} (h : State.keep q s) : State.keep q (State.retireEntry s kind reason id) := by
  grind (ematch := 20) [State.retireEntry, State.record_keep, keep_mk]

theorem State.transient_keep {s kind id} (h : State.keep q s) : State.keep q (State.transient s kind id).1 := by
  grind (ematch := 20) [State.transient, keep_mk]

theorem State.ledgerLine_keep {s} (h : State.keep q s) : State.keep q (State.ledgerLine s) := by
  grind (ematch := 20) [State.ledgerLine, State.setLine_keep]

theorem State.ledgerRecord_keep {s b} (h : State.keep q s) : State.keep q (State.ledgerRecord s b) := by
  unfold State.ledgerRecord; split
  · exact State.addE_keep h
  · exact keep_mem h Memory.write_wf

theorem State.ledgerEvent_keep {s bank addr tag ops} (h : State.keep q s) : State.keep q (State.ledgerEvent s bank addr tag ops) := by
  grind (ematch := 20) [State.ledgerEvent, State.ledgerLine_keep, State.ledgerRecord_keep, keep_mk, foldl_keep]

end Sys2Proof.Machine
end

