-- ==== Sys2Proof/Laws/Keep/Hbm.lean ====
section
/-! SUPPORT. The operations of Machine/Hbm.lean leave the queue and the canonical form of the tables. -/
namespace Sys2Proof.Machine

set_option Elab.async false

variable {q : List Instr}

theorem State.modPc_keep {s p f} (h : State.keep q s) : State.keep q (State.modPc s p f) := by
  grind (ematch := 20) [State.modPc, keep_mk]

theorem State.storeLine_keep {s line d poison} (h : State.keep q s) : State.keep q (State.storeLine s line d poison) := by
  exact keep_mem h Memory.write_wf

theorem State.hardError_keep {s a} (h : State.keep q s) : State.keep q (State.hardError s a) := by
  grind (ematch := 20) [State.hardError, keep_mk]

theorem State.hbmRead_keep {s line errs sev scrub wrong} (h : State.keep q s) : State.keep q (State.hbmRead s line errs sev scrub wrong).1 := by
  grind (ematch := 20) [State.hbmRead, State.addE_keep, State.hardError_keep, State.record_keep, State.storeLine_keep, keep_mk]

theorem State.hbmCopy_keep {s line} (h : State.keep q s) : State.keep q (State.hbmCopy s line).1 := by
  grind (ematch := 20) [State.hbmCopy, State.hbmRead_keep]

theorem State.enqueue_keep {s c} (h : State.keep q s) : State.keep q (State.enqueue s c) := by
  grind (ematch := 20) [State.enqueue, State.addE_keep, keep_mk]

theorem State.hbmWrite_keep {s line d poison tc} (h : State.keep q s) : State.keep q (State.hbmWrite s line d poison tc) := by
  grind (ematch := 20) [State.hbmWrite, State.enqueue_keep]

theorem State.nextCmd_keep {s p r0} (h : State.keep q s) (e : State.nextCmd s p = some r0) : State.keep q r0.2 := by
  grind (ematch := 20) [State.nextCmd, keep_mk]

theorem State.ownSlot_keep {s p t} (h : State.keep q s) (e : State.ownSlot s p = some t) : State.keep q t := by
  grind (ematch := 20) [State.ownSlot, keep_mk]

theorem State.pcFail_keep {s p reason ops} (h : State.keep q s) : State.keep q (State.pcFail s p reason ops) := by
  grind (ematch := 20) [State.pcFail, State.ledgerEvent_keep, State.retireEntry_keep, State.record_keep, keep_mk]

end Sys2Proof.Machine
end

