-- ==== Sys2Proof/Laws/Keep/Lines.lean ====
section
/-! SUPPORT. The operations of Machine/Lines.lean leave the queue and the canonical form of the tables. -/
namespace Sys2Proof.Machine

set_option Elab.async false

variable {q : List Instr}

theorem State.send_keep {s stop tc n} (h : State.keep q s) : State.keep q (State.send s stop tc n) := by
  grind (ematch := 20) [State.send, keep_mk]

theorem State.modPod_keep {s p f} (h : State.keep q s) : State.keep q (State.modPod s p f) := by
  grind (ematch := 20) [State.modPod, keep_mk]

theorem State.modHome_keep {s h1 f} (h : State.keep q s) : State.keep q (State.modHome s h1 f) := by
  grind (ematch := 20) [State.modHome, keep_mk]

theorem State.putL2_keep {s p line x3} (h : State.keep q s) : State.keep q (State.putL2 s p line x3) := by
  grind (ematch := 20) [State.putL2, State.modPod_keep]

theorem State.setFilt_keep {s line p st} (h : State.keep q s) : State.keep q (State.setFilt s line p st) := by
  grind (ematch := 20) [State.setFilt, State.modHome_keep]

theorem State.dropL1_keep {s p line} (h : State.keep q s) : State.keep q (State.dropL1 s p line) := by
  grind (ematch := 20) [State.dropL1, keep_mk]

theorem State.dropL2_keep {s p line} (h : State.keep q s) : State.keep q (State.dropL2 s p line) := by
  grind (ematch := 20) [State.dropL2, State.modPod_keep, State.dropL1_keep]

theorem State.served_keep {s f} (h : State.keep q s) (hf : ∀ y0, State.keep q y0 → State.keep q (f y0)) : State.keep q (State.served s f) := by
  grind (ematch := 20) [State.served, keep_mk]

end Sys2Proof.Machine
end

