-- ==== Sys2Proof/Laws/Keep/Ledger.lean ====
section
/-! SUPPORT. The operations of Machine/Ledger.lean leave the queue and the canonical form of the tables. -/
namespace Sys2Proof.Machine

set_option Elab.async false

variable {q : List Instr}

theorem State.putVi_keep {s v x2} (h : State.keep q s) : State.keep q (State.putVi s v x2) := by
  grind (ematch := 20) [State.putVi, keep_mk]

theorem State.modQp_keep {s v q2 f} (h : State.keep q s) : State.keep q (State.modQp s v q2 f) := by
  grind (ematch := 20) [State.modQp, State.putVi_keep]

theorem State.startGrace_keep {s cause} (h : State.keep q s) : State.keep q (State.startGrace s cause) := by
  grind (ematch := 20) [State.startGrace, keep_mk]

theorem State.fatalEvent_keep {s b unit way setNo arr} (h : State.keep q s) : State.keep q (State.fatalEvent s b unit way setNo arr) := by
  grind (ematch := 20) [State.fatalEvent, State.record_keep, State.startGrace_keep, State.ledgerEvent_keep, keep_mk]

end Sys2Proof.Machine
end

