-- ==== Sys2Proof/Laws/Keep/Coherence.lean ====
section
/-! SUPPORT. The operations of Machine/Coherence.lean leave the queue and the canonical form of the tables. -/
namespace Sys2Proof.Machine

set_option Elab.async false

variable {q : List Instr}

theorem State.pick_keep {x0 s l} (h : State.keep q s) : State.keep q (@State.pick x0 s l).2 := by
  grind (ematch := 20) [State.pick, keep_mk]

theorem State.slcEvict_keep {s h1 line} (h : State.keep q s) : State.keep q (State.slcEvict s h1 line) := by
  grind (ematch := 20) [State.slcEvict, State.modHome_keep, State.hbmWrite_keep]

theorem State.slcPut_keep {s line cls dirty d poison} (h : State.keep q s) : State.keep q (State.slcPut s line cls dirty d poison) := by
  grind (ematch := 20) [State.slcPut, State.modHome_keep, State.pick_keep, State.slcEvict_keep, State.hbmWrite_keep]

theorem State.writeHome_keep {s line cls tc d poison} (h : State.keep q s) : State.keep q (State.writeHome s line cls tc d poison) := by
  grind (ematch := 20) [State.writeHome, State.slcPut_keep, State.hbmWrite_keep]

theorem State.absorb_keep {s p line d poison type} (h : State.keep q s) : State.keep q (State.absorb s p line d poison type) := by
  grind (ematch := 20) [State.absorb, State.writeHome_keep, State.slcPut_keep, State.hbmWrite_keep]

theorem State.evictNow_keep {s p line} (h : State.keep q s) : State.keep q (State.evictNow s p line) := by
  grind (ematch := 20) [State.evictNow, State.setFilt_keep, State.dropL2_keep, State.absorb_keep]

theorem State.l2Install_keep {s p line st d poison type} (h : State.keep q s) : State.keep q (State.l2Install s p line st d poison type) := by
  unfold State.l2Install
  grind (ematch := 20) [State.setFilt_keep, State.putL2_keep, State.pick_keep, State.evictNow_keep, State.absorb_keep]

theorem State.coreFail_keep {s c} (h : State.keep q s) : State.keep q (State.coreFail s c) := by
  grind (ematch := 20) [State.coreFail, keep_mk]

theorem State.retireNow_keep {s kind id reason} (h : State.keep q s) : State.keep q (State.retireNow s kind id reason) := by
  grind (ematch := 20) [State.retireNow, State.retireEntry_keep, State.evictNow_keep, State.slcEvict_keep, State.coreFail_keep, foldl_keep]

theorem State.transientAt_keep {s kind id reason} (h : State.keep q s) : State.keep q (State.transientAt s kind id reason) := by
  grind (ematch := 20) [State.transientAt, State.transient_keep, State.retireNow_keep]

theorem State.strike_keep {s ev} (h : State.keep q s) : State.keep q (State.strike s ev) := by
  unfold State.strike
  split <;> grind (ematch := 20) [keep_mk, foldl_keep, foldl_keep_fst]

theorem State.arrayRead_keep {s ev b unit way line setNo arr kind dirty} (h : State.keep q s) : State.keep q (State.arrayRead s ev b unit way line setNo arr kind dirty).1 := by
  unfold State.arrayRead
  grind (ematch := 20) [State.transientAt_keep, State.record_keep, State.fatalEvent_keep]

theorem State.slcRead_keep {s line x2 ev} (h : State.keep q s) : State.keep q (State.slcRead s line x2 ev).1 := by
  grind (ematch := 20) [State.slcRead, State.arrayRead_keep, State.modHome_keep]

theorem State.putTxn_keep {s t1} (h : State.keep q s) : State.keep q (State.putTxn s t1) := by
  grind (ematch := 20) [State.putTxn, State.modHome_keep]

theorem State.ackCrossed_keep {s line} (h : State.keep q s) : State.keep q (State.ackCrossed s line) := by
  grind (ematch := 20) [State.ackCrossed, keep_mk]

theorem State.fillSlc_keep {s line cls fromHbm d poison} (h : State.keep q s) : State.keep q (State.fillSlc s line cls fromHbm d poison) := by
  grind (ematch := 20) [State.fillSlc, State.slcPut_keep]

theorem State.sendReply_keep {s t1 n} (h : State.keep q s) : State.keep q (State.sendReply s t1 n) := by
  grind (ematch := 20) [State.sendReply, State.send_keep, foldl_keep]

theorem State.smcPoison_keep {s t1 poison} (h : State.keep q s) : State.keep q (State.smcPoison s t1 poison) := by
  grind (ematch := 20) [State.smcPoison, State.record_keep]

theorem State.finish_keep {s t1 d poison fromHbm force} (h : State.keep q s) : State.keep q (State.finish s t1 d poison fromHbm force) := by
  unfold State.finish
  dsimp only
  repeat' split
  all_goals grind (ematch := 20) [State.modHome_keep, State.sendReply_keep, State.fillSlc_keep, State.l2Install_keep, State.writeHome_keep, State.smcPoison_keep, State.ackCrossed_keep, keep_mk, foldl_keep, foldl_keep_fst]

theorem State.serveEvict_keep {s p line} (h : State.keep q s) : State.keep q (State.serveEvict s p line) := by
  grind (ematch := 20) [State.serveEvict, State.setFilt_keep, State.absorb_keep, State.modPod_keep]

theorem State.proceed_keep {s t1 ev} (h : State.keep q s) : State.keep q (State.proceed s t1 ev) := by
  grind (ematch := 20) [State.proceed, State.finish_keep, State.slcRead_keep, State.enqueue_keep, State.putTxn_keep]

theorem State.begin_keep {s t1 ev} (h : State.keep q s) : State.keep q (State.begin s t1 ev) := by
  unfold State.begin
  dsimp only
  repeat' split
  all_goals grind (ematch := 20) [State.strike_keep, State.serveEvict_keep, State.modHome_keep, State.fatalEvent_keep, State.record_keep, State.finish_keep, State.proceed_keep, State.send_keep, State.putTxn_keep, keep_mk, foldl_keep, foldl_keep_fst]

theorem State.kick_keep {line ev a a3} (h : State.keep q a3) : State.keep q (State.kick line ev a a3) := by
  fun_induction State.kick line ev a a3 <;> grind (ematch := 20) [State.begin_keep]

theorem State.kickAll_keep {s line ev} (h : State.keep q s) : State.keep q (State.kickAll s line ev) := by
  grind (ematch := 20) [State.kickAll, State.kick_keep]

theorem State.promote_keep {s t1} (h : State.keep q s) : State.keep q (State.promote s t1) := by
  grind (ematch := 20) [State.promote, State.modHome_keep, State.putTxn_keep, keep_mk]

theorem State.takeEntry_keep {s t1 ev} (h : State.keep q s) : State.keep q (State.takeEntry s t1 ev) := by
  grind (ematch := 20) [State.takeEntry, State.kickAll_keep, State.modHome_keep, State.putTxn_keep, State.promote_keep]

theorem State.admitN_keep {h0 a a2} (h : State.keep q a2) : State.keep q (State.admitN h0 a a2) := by
  fun_induction State.admitN h0 a a2 <;> grind (ematch := 20) [State.takeEntry_keep, State.modHome_keep]

theorem State.admitHome_keep {s line} (h : State.keep q s) : State.keep q (State.admitHome s line) := by
  grind (ematch := 20) [State.admitHome, State.admitN_keep]

theorem State.request_keep {s line req from_ tc cls ev} (h : State.keep q s) : State.keep q (State.request s line req from_ tc cls ev) := by
  grind (ematch := 20) [State.request, State.send_keep, State.takeEntry_keep, State.modHome_keep]

theorem State.snoopAt_keep {s p line k} (h : State.keep q s) : State.keep q (State.snoopAt s p line k).1 := by
  grind (ematch := 20) [State.snoopAt, State.putL2_keep, State.dropL2_keep, State.modPod_keep]

theorem State.serveSnoop_keep {s m} (h : State.keep q s) : State.keep q (State.serveSnoop s m) := by
  grind (ematch := 20) [State.serveSnoop, State.snoopAt_keep, State.send_keep, State.modHome_keep]

theorem State.deliverSnoop_keep {s p line k} (h : State.keep q s) : State.keep q (State.deliverSnoop s p line k) := by
  grind (ematch := 20) [State.deliverSnoop, State.serveSnoop_keep, foldl_keep]

theorem State.syncFilt_keep {s line p} (h : State.keep q s) : State.keep q (State.syncFilt s line p) := by
  grind (ematch := 20) [State.syncFilt, State.setFilt_keep]

theorem State.poisonTxn_keep {s t1} (h : State.keep q s) : State.keep q (State.poisonTxn s t1) := by
  grind (ematch := 20) [State.poisonTxn, State.writeHome_keep, State.admitHome_keep, State.kickAll_keep, State.finish_keep]

theorem State.answered_keep {s t1 p got} (h : State.keep q s) : State.keep q (State.answered s t1 p got) := by
  unfold State.answered
  dsimp only
  repeat' split
  all_goals grind (ematch := 20) [State.putTxn_keep, State.poisonTxn_keep, State.admitHome_keep, State.kickAll_keep, State.proceed_keep, keep_mk, foldl_keep, foldl_keep_fst]

theorem State.useCrossed_keep {s t1 p b} (h : State.keep q s) : State.keep q (State.useCrossed s t1 p b) := by
  grind (ematch := 20) [State.useCrossed, State.setFilt_keep, State.absorb_keep, State.answered_keep]

theorem State.lateAnswer_keep {s h1 a} (h : State.keep q s) : State.keep q (State.lateAnswer s h1 a) := by
  grind (ematch := 20) [State.lateAnswer, keep_mk]

theorem State.answer_keep {s a ev} (h : State.keep q s) : State.keep q (State.answer s a ev) := by
  unfold State.answer
  dsimp only
  repeat' split
  all_goals grind (ematch := 20) [State.strike_keep, State.lateAnswer_keep, State.arrayRead_keep, State.answered_keep, State.syncFilt_keep, State.setFilt_keep, State.dropL2_keep, State.putL2_keep, State.modHome_keep, State.useCrossed_keep, State.record_keep, keep_mk, foldl_keep, foldl_keep_fst]

theorem State.hbmData_keep {s line d poison} (h : State.keep q s) : State.keep q (State.hbmData s line d poison) := by
  grind (ematch := 20) [State.hbmData, State.admitHome_keep, State.kickAll_keep, State.finish_keep]

theorem State.hbmServe_keep {s p errs sev wrong} (h : State.keep q s) : State.keep q (State.hbmServe s p errs sev wrong) := by
  unfold State.hbmServe
  split
  · split
    · exact h
    · rename_i c s1 hc
      have h1 : State.keep q s1 := State.nextCmd_keep h hc
      split
      · exact State.storeLine_keep h1
      · exact State.hbmData_keep (State.hbmRead_keep h1)
  · exact h

theorem State.writeBack_keep {s p} (h : State.keep q s) : State.keep q (State.writeBack s p) := by
  grind (ematch := 20) [State.writeBack, State.modPc_keep, keep_mk]

theorem State.verifyRead_keep {s p errs sev} (h : State.keep q s) : State.keep q (State.verifyRead s p errs sev) := by
  unfold State.verifyRead
  dsimp only
  repeat' split
  all_goals grind (ematch := 20) [State.modPc_keep, State.addE_keep, State.hardError_keep, State.hbmRead_keep, keep_mk, foldl_keep, foldl_keep_fst]

end Sys2Proof.Machine
end

