-- ==== Sys2Proof/Laws/Keep/Requests.lean ====
section
/-! SUPPORT. The operations of Machine/Requests.lean leave the queue and the canonical form of the tables. -/
namespace Sys2Proof.Machine

set_option Elab.async false

variable {q : List Instr}

theorem State.evArrive_keep {s p line} (h : State.keep q s) : State.keep q (State.evArrive s p line) := by
  grind (ematch := 20) [State.evArrive, State.modPod_keep, State.send_keep, State.serveEvict_keep, State.useCrossed_keep, State.modHome_keep]

theorem State.hbmTurn_keep {s line} (h : State.keep q s) : State.keep q (State.hbmTurn s line) := by
  grind (ematch := 20) [State.hbmTurn, State.ownSlot_keep, State.writeBack_keep, State.verifyRead_keep, State.hbmServe_keep, keep_mk]

theorem State.settle1_keep {s line} (h : State.keep q s) : State.keep q (State.settle1 s line) := by
  unfold State.settle1
  dsimp only
  repeat' split
  all_goals grind (ematch := 20) [State.admitHome_keep, State.kickAll_keep, State.hbmTurn_keep, State.proceed_keep, State.deliverSnoop_keep, State.answer_keep, State.modHome_keep, State.evArrive_keep, State.answered_keep, keep_mk, foldl_keep, foldl_keep_fst]

theorem State.settleN_keep {line a a2} (h : State.keep q a2) : State.keep q (State.settleN line a a2) := by
  fun_induction State.settleN line a a2 <;> grind (ematch := 20) [State.settle1_keep]

theorem State.settle_keep {s line} (h : State.keep q s) : State.keep q (State.settle s line) := by
  grind (ematch := 20) [State.settle, State.settleN_keep, keep_mk]

theorem State.drainEv_keep {s p line} (h : State.keep q s) : State.keep q (State.drainEv s p line) := by
  grind (ematch := 20) [State.drainEv, State.settle_keep, State.evArrive_keep]

theorem State.transact_keep {s line req from_ tc cls} (h : State.keep q s) : State.keep q (State.transact s line req from_ tc cls) := by
  grind (ematch := 20) [State.transact, State.settle_keep, State.request_keep, keep_mk]

theorem State.homePeek_keep {s line m} (h : State.keep q s) : State.keep q (State.homePeek s line m).1 := by
  grind (ematch := 20) [State.homePeek, State.transact_keep]

theorem State.homePush_keep {s line off d m} (h : State.keep q s) : State.keep q (State.homePush s line off d m) := by
  grind (ematch := 20) [State.homePush, State.transact_keep]

theorem State.homePushPoison_keep {s line off d m} (h : State.keep q s) : State.keep q (State.homePushPoison s line off d m) := by
  grind (ematch := 20) [State.homePushPoison, State.homePush_keep, State.writeHome_keep]

theorem State.homeAtomic_keep {s addr size op v cmp m} (h : State.keep q s) : State.keep q (State.homeAtomic s addr size op v cmp m).1 := by
  grind (ematch := 20) [State.homeAtomic, State.transact_keep]

theorem State.setType_keep {s p line type} (h : State.keep q s) : State.keep q (State.setType s p line type) := by
  grind (ematch := 20) [State.setType, State.putL2_keep]

theorem State.l1Fill_keep {s c line} (h : State.keep q s) : State.keep q (State.l1Fill s c line) := by
  grind (ematch := 20) [State.l1Fill, State.pick_keep, keep_mk]

theorem State.l1CrcError_keep {s c instr line} (h : State.keep q s) : State.keep q (State.l1CrcError s c instr line) := by
  grind (ematch := 20) [State.l1CrcError, State.draw_keep, State.transientAt_keep, State.record_keep, keep_mk]

theorem State.loadLine_keep {s c line type ev} (h : State.keep q s) : State.keep q (State.loadLine s c line type ev).1 := by
  unfold State.loadLine
  extract_lets p s1 a bad s2 s3 hit r s4 s5 again s6 r6 s7
  have h1 : State.keep q s1 := State.strike_keep (State.settle_keep h)
  have h2 : State.keep q s2 := ite_keep (State.l1CrcError_keep h1) h1
  have h3 : State.keep q s3 := State.drainEv_keep h2
  clear_value s1 s2 s3 bad
  have h4 : State.keep q s4 := by
    clear_value hit
    cases hit with
    | none => exact h3
    | some x => exact State.arrayRead_keep (ev := ev) (b := bankPod p) (unit := p.val) (way := x.way) (line := line) (setNo := l2Set line) (arr := 0) (kind := 0x07) (dirty := x.st.dirty) h3
  clear_value s4
  have h5 : State.keep q s5 := by
    unfold s5
    clear s5 s6 s7 r6
    generalize r.2 = o
    cases o with
    | keep => exact h4
    | refetch => exact State.evictNow_keep h4
    | poisoned => dsimp only; split; exact State.putL2_keep h4; exact h4
  clear_value s5
  have ha : ∀ u, State.keep q u → State.keep q (again u) := fun u hu => by
    unfold again
    exact ite_keep (State.l1Fill_keep hu) hu
  clear_value again
  have h6 : State.keep q s6 := State.transact_keep h5
  have h7 : State.keep q s7 := State.transact_keep h5
  clear_value s6 s7
  split
  · exact ha _ h5
  · split
    · exact ha _ (State.setType_keep h6)
    · exact h7

theorem State.coreLine_keep {s c line type ev} (h : State.keep q s) : State.keep q (State.coreLine s c line type ev).1 := by
  grind (ematch := 20) [State.coreLine, State.loadLine_keep, State.drainEv_keep, State.homePeek_keep]

theorem State.l2Write_keep {s c line off d type st} (h : State.keep q s) : State.keep q (State.l2Write s c line off d type st) := by
  grind (ematch := 20) [State.l2Write, State.putL2_keep, keep_mk]

theorem State.ownLine_keep {s c line} (h : State.keep q s) : State.keep q (State.ownLine s c line) := by
  unfold State.ownLine
  extract_lets p s1
  have h1 : State.keep q s1 := State.drainEv_keep (State.settle_keep h)
  clear_value s1
  generalize (s1.l2? p line).map (·.st) = o
  split
  · exact h1
  · exact h1
  · exact State.transact_keep h1

theorem State.coreWrite_keep {s c line off d type} (h : State.keep q s) : State.keep q (State.coreWrite s c line off d type) := by
  unfold State.coreWrite
  split <;> grind (ematch := 20) [State.drainEv_keep, State.settle_keep, State.homePush_keep, State.ownLine_keep, State.l2Write_keep, State.setFilt_keep, State.writeHome_keep]

theorem State.invalidate_keep {s line} (h : State.keep q s) : State.keep q (State.invalidate s line) := by
  grind (ematch := 20) [State.invalidate, State.setFilt_keep, State.dropL2_keep, State.modHome_keep, foldl_keep]

theorem State.dcc_keep {s line tc} (h : State.keep q s) : State.keep q (State.dcc s line tc) := by
  unfold State.dcc
  dsimp only
  repeat' split
  all_goals grind (ematch := 20) [State.settle_keep, State.drainEv_keep, State.hbmWrite_keep, State.slcPut_keep, State.setFilt_keep, State.putL2_keep, foldl_keep, foldl_keep_fst]

theorem State.dcci_keep {s line tc} (h : State.keep q s) : State.keep q (State.dcci s line tc) := by
  grind (ematch := 20) [State.dcci, State.invalidate_keep, State.dcc_keep]

theorem State.dci_keep {s line} (h : State.keep q s) : State.keep q (State.dci s line) := by
  grind (ematch := 20) [State.dci, State.settle_keep, State.invalidate_keep, keep_mk]

theorem State.ici_keep {s line} (h : State.keep q s) : State.keep q (State.ici s line) := by
  grind (ematch := 20) [State.ici, keep_mk]

theorem State.zline_keep {s c line type} (h : State.keep q s) : State.keep q (State.zline s c line type) := by
  grind (ematch := 20) [State.zline, State.drainEv_keep, State.settle_keep, State.setFilt_keep, State.dropL2_keep, State.l2Install_keep, State.dropL1_keep, State.homePush_keep, foldl_keep]

theorem State.cleanPod_keep {s p} (h : State.keep q s) : State.keep q (State.cleanPod s p) := by
  grind (ematch := 20) [State.cleanPod, State.drainEv_keep, State.settle_keep, State.evictNow_keep, State.modPod_keep, foldl_keep]

end Sys2Proof.Machine
end

