-- ==== Sys2Proof/Laws/Keep/Access.lean ====
section
/-! SUPPORT. The operations of Machine/Access.lean leave the queue and the canonical form of the tables. -/
namespace Sys2Proof.Machine

set_option Elab.async false

variable {q : List Instr}

theorem State.huskPut_keep {s h1 x2} (h : State.keep q s) : State.keep q (State.huskPut s h1 x2) := by
  exact keep_husk h kvSet_sorted

theorem State.postedError_keep {s m a r} (h : State.keep q s) : State.keep q (State.postedError s m a r) := by
  grind (ematch := 20) [State.postedError, State.record_keep]

theorem State.huskRecord_keep {s m a} (h : State.keep q s) : State.keep q (State.huskRecord s m a) := by
  grind (ematch := 20) [State.huskRecord, State.record_keep]

theorem State.eccEvent_keep {s p ev} (h : State.keep q s) : State.keep q (State.eccEvent s p ev) := by
  unfold State.eccEvent
  dsimp only
  repeat' split
  all_goals first | exact keep_ecc h kvPut_sorted | exact h

theorem State.eccWord_keep {i unit a arr s w} (h : State.keep q s) : State.keep q (State.eccWord i unit a arr s w) := by
  unfold State.eccWord
  split
  · exact State.record_keep (keep_ecc h kvDel_sorted)
  · exact h

theorem State.eccFix_keep {s i unit a p n arr} (h : State.keep q s) : State.keep q (State.eccFix s i unit a p n arr) := by
  grind (ematch := 20) [State.eccFix, State.eccWord_keep, foldl_keep]

theorem State.eccMesh_keep {s a n} (h : State.keep q s) : State.keep q (State.eccMesh s a n) := by
  grind (ematch := 20) [State.eccMesh, State.eccFix_keep]

theorem State.meshRead_keep {s m a n} (h : State.keep q s) : State.keep q (State.meshRead s m a n) := by
  grind (ematch := 20) [State.meshRead, State.send_keep]

theorem State.meshWrite_keep {s m a n} (h : State.keep q s) : State.keep q (State.meshWrite s m a n) := by
  grind (ematch := 20) [State.meshWrite, State.send_keep]

theorem State.memRead_keep {s m a n} (h : State.keep q s) : State.keep q (State.memRead s m a n).1 := by
  grind (ematch := 20) [State.memRead, State.homePeek_keep, State.eccMesh_keep, State.meshRead_keep, keep_mk]

theorem State.eccWrite_keep {s a n} (h : State.keep q s) : State.keep q (State.eccWrite s a n) := by
  refine keep_ecc h (foldl_sorted fun t x ht => ?_)
  split
  · exact kvDel_sorted ht
  · exact ht

theorem State.clearTags_keep {s a n} (h : State.keep q s) : State.keep q (State.clearTags s a n) := by
  grind (ematch := 20) [State.clearTags, keep_mk]

theorem State.memWrite_keep {s m a d poison} (h : State.keep q s) : State.keep q (State.memWrite s m a d poison) := by
  have k : Memory.wf s.mem = true → Memory.wf (Memory.write s.mem a d) = true := fun hm => Memory.write_wf hm
  have h1 : State.keep q { s.meshWrite m a d.length with mem := Memory.write s.mem a d } := 
    keep_mem (State.meshWrite_keep h) fun _ => k h.2.1
  have h2 : State.keep q { ((s.meshWrite m a d.length).eccWrite a d.length).clearTags a d.length with mem := Memory.write s.mem a d } :=
    keep_mem (State.clearTags_keep (State.eccWrite_keep (State.meshWrite_keep h))) fun _ => k h.2.1
  unfold State.memWrite
  split
  iterate 3 exact ite_keep (State.homePushPoison_keep h) (State.homePush_keep h)
  iterate 4 exact h2
  iterate 2 exact keep_mk (State.meshWrite_keep h)
  exact h

theorem State.dmaRead_keep {s m a n} (h : State.keep q s) : State.keep q (State.dmaRead s m a n).1 := by
  unfold State.dmaRead
  grind (ematch := 20) [State.memRead_keep, foldl_keep, foldl_keep_fst]

theorem State.dmaWrite_keep {s m a d} (h : State.keep q s) : State.keep q (State.dmaWrite s m a d).1 := by
  unfold State.dmaWrite
  grind (ematch := 20) [State.memWrite_keep, foldl_keep, foldl_keep_fst]

end Sys2Proof.Machine
end

