-- ==== Sys2Proof/Laws/Keep/DataMover.lean ====
section
/-! SUPPORT. The operations of Machine/DataMover.lean leave the queue and the canonical form of the tables. -/
namespace Sys2Proof.Machine

set_option Elab.async false

variable {q : List Instr}

theorem State.modDm_keep {s n f} (h : State.keep q s) : State.keep q (State.modDm s n f) := by
  grind (ematch := 20) [State.modDm, keep_mk]

theorem State.dmLines_keep {s n} (h : State.keep q s) : State.keep q (State.dmLines s n) := by
  grind (ematch := 20) [State.dmLines, State.bankLine_keep, State.setLine_keep]

theorem State.dmFinish_keep {s n idx code moved crc irq} (h : State.keep q s) : State.keep q (State.dmFinish s n idx code moved crc irq) := by
  unfold State.dmFinish
  grind (ematch := 20) [State.dmaWrite_keep, State.modDm_keep, State.addE_keep, State.dmLines_keep]

theorem State.dmSource_keep {s n d off k} (h : State.keep q s) : State.keep q (State.dmSource s n d off k).1 := by
  grind (ematch := 20) [State.dmSource, State.dmaRead_keep]

theorem State.dmMove_keep {s n d len} (h : State.keep q s) : State.keep q (State.dmMove s n d len).1 := by
  unfold State.dmMove
  grind (ematch := 20) [State.dmSource_keep, State.memWrite_keep, foldl_keep, foldl_keep_fst]

theorem State.dmDesc_keep {s n idx} (h : State.keep q s) : State.keep q (State.dmDesc s n idx).1 := by
  grind (ematch := 20) [State.dmDesc, State.dmaRead_keep]

theorem State.dmAbortPoint_keep {s d} (h : State.keep q s) : State.keep q (State.dmAbortPoint s d).1 := by
  grind (ematch := 20) [State.dmAbortPoint, State.draw_keep]

theorem State.dmAbortOne_keep {s n idx} (h : State.keep q s) : State.keep q (State.dmAbortOne s n idx) := by
  unfold State.dmAbortOne
  split <;> grind (ematch := 20) [State.dmDesc_keep, State.dmFinish_keep, State.dmAbortPoint_keep, State.dmMove_keep, State.modDm_keep]

theorem State.dmAbortEvery_keep {s n} (h : State.keep q s) : State.keep q (State.dmAbortEvery s n) := by
  grind (ematch := 20) [State.dmAbortEvery, State.dmAbortOne_keep, foldl_keep]

theorem State.dmStop_keep {s n idx addr word0} (h : State.keep q s) : State.keep q (State.dmStop s n idx addr word0) := by
  grind (ematch := 20) [State.dmStop, State.ledgerEvent_keep, State.modDm_keep, State.dmAbortOne_keep, foldl_keep]

theorem State.dmDescFault_keep {s n idx} (h : State.keep q s) : State.keep q (State.dmDescFault s n idx) := by
  grind (ematch := 20) [State.dmDescFault, State.record_keep, State.dmStop_keep]

theorem State.dmFail_keep {s n idx code moved crc irq} (h : State.keep q s) : State.keep q (State.dmFail s n idx code moved crc irq) := by
  grind (ematch := 20) [State.dmFail, State.dmStop_keep, State.dmFinish_keep]

theorem State.dmRetire_keep {s n} (h : State.keep q s) : State.keep q (State.dmRetire s n) := by
  grind (ematch := 20) [State.dmRetire, State.ledgerEvent_keep, State.modDm_keep, State.dmDesc_keep, State.dmFinish_keep, foldl_keep]

theorem execDmDescriptorStart_keep {n s t} (h : State.keep q s) (e : execDmDescriptorStart n s = .next t) : State.keep q t := by
  simp only [execDmDescriptorStart, Host.Outcome.next.injEq] at e
  subst e
  refine State.served_keep h fun s h => ?_
  split <;> grind (ematch := 20) [State.dmDesc_keep, State.dmDescFault_keep, State.dmFinish_keep, State.modDm_keep, keep_mk, foldl_keep, foldl_keep_fst]

theorem execDmDescriptorComplete_keep {n s t} (h : State.keep q s) (e : execDmDescriptorComplete n s = .next t) : State.keep q t := by
  simp only [execDmDescriptorComplete, Host.Outcome.next.injEq] at e
  subst e
  refine State.served_keep h fun s h => ?_
  split
  · exact h
  · split
    · rename_i u hu; exact State.dmDescFault_keep (pair_keep (State.dmDesc_keep h) hu)
    · rename_i u d hu
      have h1 := pair_keep (State.dmDesc_keep h) hu
      have h2 := State.dmMove_keep (n := n) (d := d) (len := d.len) h1
      split
      · exact State.dmFail_keep h2
      · split
        · exact State.dmFinish_keep (State.record_keep h2)
        · exact State.dmFinish_keep h2

theorem execDmError_keep {n dst good s t} (h : State.keep q s) (e : execDmError n dst good s = .next t) : State.keep q t := by
  simp only [execDmError, Host.Outcome.next.injEq] at e
  subst e
  refine State.served_keep h fun s h => ?_
  split <;> grind (ematch := 20) [State.dmDescFault_keep, State.dmDesc_keep, State.dmMove_keep, State.dmFail_keep, keep_mk, foldl_keep, foldl_keep_fst]

theorem State.dmPage_keep {s m n f} (h : State.keep q s) (hf : ∀ y0, State.keep q y0 → State.keep q (f y0)) : State.keep q (State.dmPage s m n f) := by
  grind (ematch := 20) [State.dmPage, keep_mk]

theorem State.dmTailWrite_keep {s n v} (h : State.keep q s) : State.keep q (State.dmTailWrite s n v) := by
  grind (ematch := 20) [State.dmTailWrite, State.addE_keep, State.modDm_keep]

theorem execDmTail_keep {m n v s t} (h : State.keep q s) (e : execDmTail m n v s = .next t) : State.keep q t := by
  grind (ematch := 20) [execDmTail, State.dmPage_keep, State.dmTailWrite_keep]

theorem State.dmAbortWrite_keep {s n i} (h : State.keep q s) : State.keep q (State.dmAbortWrite s n i) := by
  grind (ematch := 20) [State.dmAbortWrite, State.modDm_keep, State.dmAbortOne_keep, State.dmStop_keep]

theorem execDmAbort_keep {m n v s t} (h : State.keep q s) (e : execDmAbort m n v s = .next t) : State.keep q t := by
  grind (ematch := 20) [execDmAbort, State.served_keep, State.dmPage_keep, State.dmAbortWrite_keep]

theorem State.dmCtlWrite_keep {s n v} (h : State.keep q s) : State.keep q (State.dmCtlWrite s n v) := by
  grind (ematch := 20) [State.dmCtlWrite, State.dmAbortEvery_keep]

theorem execDmAbortAll_keep {m n v s t} (h : State.keep q s) (e : execDmAbortAll m n v s = .next t) : State.keep q t := by
  grind (ematch := 20) [execDmAbortAll, State.served_keep, State.dmPage_keep, State.dmCtlWrite_keep]

theorem State.dmEnableWrite_keep {s n v} (h : State.keep q s) : State.keep q (State.dmEnableWrite s n v) := by
  grind (ematch := 20) [State.dmEnableWrite, State.setE_keep, State.modDm_keep, State.dmAbortEvery_keep]

theorem State.dmRegWrite_keep {s n off v t} (h : State.keep q s) (e : State.dmRegWrite s n off v = some t) : State.keep q t := by
  unfold State.dmRegWrite at e
  grind (ematch := 20) [State.dmTailWrite_keep, State.dmAbortWrite_keep, State.dmCtlWrite_keep, State.dmLines_keep, State.modDm_keep]

theorem State.fbPop_keep {s b v} (h : State.keep q s) : State.keep q (State.fbPop s b v) := by
  grind (ematch := 20) [State.fbPop, State.bankLine_keep, keep_mk]

theorem execFbPop_keep {m b v s t} (h : State.keep q s) (e : execFbPop m b v s = .next t) : State.keep q t := by
  grind (ematch := 20) [execFbPop, State.fbPop_keep, keep_mk]

theorem State.fbWrite_keep {s b off v t} (h : State.keep q s) (e : State.fbWrite s b off v = some t) : State.keep q t := by
  unfold State.fbWrite at e
  grind (ematch := 20) [State.fbPop_keep, State.bankLine_keep, keep_mk]

theorem State.retireClear_keep {s v t} (h : State.keep q s) (e : State.retireClear s v = some t) : State.keep q t := by
  grind (ematch := 20) [State.retireClear, keep_mk]

theorem State.ledgerTailWrite_keep {s v t} (h : State.keep q s) (e : State.ledgerTailWrite s v = some t) : State.keep q t := by
  grind (ematch := 20) [State.ledgerTailWrite, State.ledgerLine_keep, keep_mk]

end Sys2Proof.Machine
end

