-- ==== Sys2Proof/Laws/Keep/HbmOps.lean ====
section
/-! SUPPORT. The operations of Machine/HbmOps.lean leave the queue and the canonical form of the tables. -/
namespace Sys2Proof.Machine

set_option Elab.async false

variable {q : List Instr}

theorem execHbmCommand_keep {p m wrong s t} (h : State.keep q s) (e : execHbmCommand p m wrong s = .next t) : State.keep q t := by
  simp only [execHbmCommand, Host.Outcome.next.injEq] at e
  subst e
  grind (ematch := 20) [State.hbmServe_keep, keep_mk, foldl_keep, foldl_keep_fst]

theorem execHbmCorrectionWriteback_keep {p s t} (h : State.keep q s) (e : execHbmCorrectionWriteback p s = .next t) : State.keep q t := by
  grind (ematch := 20) [execHbmCorrectionWriteback, State.ownSlot_keep, State.writeBack_keep]

theorem execHbmVerifyRead_keep {p m s t} (h : State.keep q s) (e : execHbmVerifyRead p m s = .next t) : State.keep q t := by
  grind (ematch := 20) [execHbmVerifyRead, State.ownSlot_keep, State.verifyRead_keep]

theorem State.mayRefresh_keep {s p sid bank} (h : State.keep q s) : State.keep q (State.mayRefresh s p sid bank).1 := by
  grind (ematch := 20) [State.mayRefresh, keep_mk]

theorem execHbmRefresh_keep {p sid bank s t} (h : State.keep q s) (e : execHbmRefresh p sid bank s = .next t) : State.keep q t := by
  grind (ematch := 20) [execHbmRefresh, State.mayRefresh_keep, State.modPc_keep]

theorem execHbmRfm_keep {p sid bank s t} (h : State.keep q s) (e : execHbmRfm p sid bank s = .next t) : State.keep q t := by
  grind (ematch := 20) [execHbmRfm, State.mayRefresh_keep, State.modPc_keep]

theorem execPatrolScrubRead_keep {p m s t} (h : State.keep q s) (e : execPatrolScrubRead p m s = .next t) : State.keep q t := by
  grind (ematch := 20) [execPatrolScrubRead, State.ownSlot_keep, State.modPc_keep, State.hbmRead_keep]

theorem execRowRepair_keep {p spareLeft s t} (h : State.keep q s) (e : execRowRepair p spareLeft s = .next t) : State.keep q t := by
  grind (ematch := 20) [execRowRepair, State.modPc_keep, State.addE_keep, State.retireEntry_keep, State.record_keep, State.pcFail_keep, keep_mk]

theorem State.copyErrs_keep {s src chunk} (h : State.keep q s) : State.keep q (State.copyErrs s src chunk) := by
  grind (ematch := 20) [State.copyErrs, State.storeLine_keep, foldl_keep]

theorem State.moveQueue_keep {s src chunk host_} (h : State.keep q s) : State.keep q (State.moveQueue s src chunk host_) := by
  grind (ematch := 20) [State.moveQueue, State.modPc_keep]

theorem execMigrationChunkDone_keep {p s t} (h : State.keep q s) (e : execMigrationChunkDone p s = .next t) : State.keep q t := by
  simp only [execMigrationChunkDone, Host.Outcome.next.injEq] at e
  subst e
  split <;> grind (ematch := 20) [State.moveQueue_keep, State.copyErrs_keep, State.modPc_keep, keep_mk, foldl_keep, foldl_keep_fst]

theorem execHbmRetraining_keep {p s t} (h : State.keep q s) (e : execHbmRetraining p s = .next t) : State.keep q t := by
  grind (ematch := 20) [execHbmRetraining, State.draw_keep, State.record_keep, State.modPc_keep]

theorem execHbmRetrainingDone_keep {p persist s t} (h : State.keep q s) (e : execHbmRetrainingDone p persist s = .next t) : State.keep q t := by
  grind (ematch := 20) [execHbmRetrainingDone, State.modPc_keep, State.pcFail_keep]

end Sys2Proof.Machine
end

