-- ==== Sys2Proof/Laws/Keep/Envelope.lean ====
section
/-! SUPPORT. The operations of Machine/Envelope.lean leave the queue and the canonical form of the tables. -/
namespace Sys2Proof.Machine

set_option Elab.async false

variable {q : List Instr}

theorem State.envLine_keep {s} (h : State.keep q s) : State.keep q (State.envLine s) := by
  grind (ematch := 20) [State.envLine, State.setLine_keep]

theorem State.violation_keep {s k res id} (h : State.keep q s) : State.keep q (State.violation s k res id) := by
  grind (ematch := 20) [State.violation, State.envLine_keep, keep_mk]

theorem State.countWrap_keep {s idx sub} (h : State.keep q s) : State.keep q (State.countWrap s idx sub) := by
  grind (ematch := 20) [State.countWrap, State.setE_keep]

theorem State.portCheck_keep {s n len} (h : State.keep q s) : State.keep q (State.portCheck s n len).1 := by
  grind (ematch := 20) [State.portCheck, State.violation_keep, State.countWrap_keep, keep_mk]

theorem State.canCheck_keep {s n f longest checked held} (h : State.keep q s) : State.keep q (State.canCheck s n f longest checked held).1 := by
  grind (ematch := 20) [State.canCheck, State.violation_keep, State.countWrap_keep, keep_mk]

theorem State.modPin_keep {s i n f} (h : State.keep q s) : State.keep q (State.modPin s i n f) := by
  grind (ematch := 20) [State.modPin, keep_mk]

theorem State.pinSafe_keep {s i n} (h : State.keep q s) : State.keep q (State.pinSafe s i n) := by
  grind (ematch := 20) [State.pinSafe, State.modPin_keep]

theorem State.pinsSafe_keep {s i} (h : State.keep q s) : State.keep q (State.pinsSafe s i) := by
  grind (ematch := 20) [State.pinsSafe, State.pinSafe_keep, foldl_keep]

theorem State.clip_keep {s i n k} (h : State.keep q s) : State.keep q (State.clip s i n k) := by
  grind (ematch := 20) [State.clip, State.violation_keep, State.countWrap_keep]

theorem State.pwmPeriod_keep {s i n} (h : State.keep q s) : State.keep q (State.pwmPeriod s i n) := by
  grind (ematch := 20) [State.pwmPeriod, State.pinSafe_keep, State.clip_keep, State.countWrap_keep, State.modPin_keep]

theorem State.applyPin_keep {s i n ctl} (h : State.keep q s) : State.keep q (State.applyPin s i n ctl) := by
  grind (ematch := 20) [State.applyPin, State.clip_keep, State.pinSafe_keep, State.pwmPeriod_keep, State.modPin_keep]

theorem execPwmPeriodStart_keep {i n s t} (h : State.keep q s) (e : execPwmPeriodStart i n s = .next t) : State.keep q t := by
  grind (ematch := 20) [execPwmPeriodStart, State.pwmPeriod_keep]

theorem State.envClear_keep {s v} (h : State.keep q s) : State.keep q (State.envClear s v) := by
  grind (ematch := 20) [State.envClear, State.envLine_keep, keep_mk]

theorem execEnvViolStat_keep {m v s t} (h : State.keep q s) (e : execEnvViolStat m v s = .next t) : State.keep q t := by
  grind (ematch := 20) [execEnvViolStat, State.envClear_keep, keep_mk]

end Sys2Proof.Machine
end

