-- ==== Sys2Proof/Laws/Keep/Vi.lean ====
section
/-! SUPPORT. The operations of Machine/Vi.lean leave the queue and the canonical form of the tables. -/
namespace Sys2Proof.Machine

set_option Elab.async false

variable {q : List Instr}

theorem State.viLine_keep {s v} (h : State.keep q s) : State.keep q (State.viLine s v) := by
  grind (ematch := 20) [State.viLine, State.setLine_keep, State.putVi_keep]

theorem State.setViBit_keep {s v bitNo md} (h : State.keep q s) : State.keep q (State.setViBit s v bitNo md) := by
  grind (ematch := 20) [State.setViBit, State.viLine_keep, State.putVi_keep]

theorem State.viClear_keep {s v val} (h : State.keep q s) : State.keep q (State.viClear s v val) := by
  grind (ematch := 20) [State.viClear, State.viLine_keep, State.putVi_keep]

theorem State.qpStop_keep {s v q2 idx addr} (h : State.keep q s) : State.keep q (State.qpStop s v q2 idx addr) := by
  grind (ematch := 20) [State.qpStop, State.setE_keep, State.setViBit_keep, State.record_keep, State.ledgerEvent_keep]

theorem State.descWrite_keep {s v q2 idx addr off d} (h : State.keep q s) : State.keep q (State.descWrite s v q2 idx addr off d).1 := by
  grind (ematch := 20) [State.descWrite, State.dmaWrite_keep, State.qpStop_keep]

theorem State.txComplete_keep {s v q2 idx code ts} (h : State.keep q s) : State.keep q (State.txComplete s v q2 idx code ts) := by
  unfold State.txComplete
  grind (ematch := 20) [State.descWrite_keep, State.modQp_keep, State.setViBit_keep]

theorem State.txCopyEnd_keep {s r code} (h : State.keep q s) : State.keep q (State.txCopyEnd s r code) := by
  grind (ematch := 20) [State.txCopyEnd, State.modQp_keep, State.txComplete_keep]

theorem State.txBegun_keep {s r} (h : State.keep q s) : State.keep q (State.txBegun s r) := by
  grind (ematch := 20) [State.txBegun, State.modQp_keep]

theorem State.deliver_keep {s v q2 it} (h : State.keep q s) : State.keep q (State.deliver s v q2 it) := by
  grind (ematch := 20) [State.deliver, State.addE_keep, State.modQp_keep]

theorem State.rxComplete_keep {s v q2 idx code} (h : State.keep q s) : State.keep q (State.rxComplete s v q2 idx code) := by
  grind (ematch := 20) [State.rxComplete, State.descWrite_keep, State.modQp_keep, State.setViBit_keep]

theorem execRxDescriptorFill_keep {v q1 s t} (h : State.keep q s) (e : execRxDescriptorFill v q1 s = .next t) : State.keep q t := by
  simp only [execRxDescriptorFill, Host.Outcome.next.injEq] at e
  subst e
  refine State.served_keep h fun s h => ?_
  split
  · exact h
  · split
    · exact h
    · have h0 {f} := State.modQp_keep (v := v.val) (q2 := q1) (f := f) h
      split
      · rename_i u hu; exact State.qpStop_keep (pair_keep (State.dmaRead_keep h0) hu)
      · rename_i u b hu; exact State.qpStop_keep (State.record_keep (pair_keep (State.dmaRead_keep h0) hu))
      · rename_i u d hu
        have h1 := pair_keep (State.dmaRead_keep h0) hu
        split
        · rename_i w hw; exact State.rxComplete_keep (pair_keep (State.dmaWrite_keep h1) hw)
        · rename_i w hw
          have h2 := pair_keep (State.dmaWrite_keep h1) hw
          split
          · rename_i y hy; exact pair_keep (State.descWrite_keep h2) hy
          · rename_i y hy
            have h3 := pair_keep (State.descWrite_keep h2) hy
            split
            · rename_i z hz; exact pair_keep (State.descWrite_keep h3) hz
            · rename_i z hz; exact State.addE_keep (State.rxComplete_keep (pair_keep (State.descWrite_keep h3) hz))

theorem State.doorbellLost_keep {s v} (h : State.keep q s) : State.keep q (State.doorbellLost s v) := by
  grind (ematch := 20) [State.doorbellLost, State.addE_keep, State.setViBit_keep]

theorem State.txTailWrite_keep {s v q2 val} (h : State.keep q s) : State.keep q (State.txTailWrite s v q2 val) := by
  grind (ematch := 20) [State.txTailWrite, State.doorbellLost_keep, State.modQp_keep]

theorem State.rxTailWrite_keep {s v q2 val} (h : State.keep q s) : State.keep q (State.rxTailWrite s v q2 val) := by
  grind (ematch := 20) [State.rxTailWrite, State.doorbellLost_keep, State.modQp_keep]

theorem State.viPage_keep {s m v f} (h : State.keep q s) (hf : ∀ y0, State.keep q y0 → State.keep q (f y0)) : State.keep q (State.viPage s m v f) := by
  grind (ematch := 20) [State.viPage, keep_mk]

theorem execTxTail_keep {m v q2 val s t} (h : State.keep q s) (e : execTxTail m v q2 val s = .next t) : State.keep q t := by
  grind (ematch := 20) [execTxTail, State.viPage_keep, State.txTailWrite_keep]

theorem execRxTail_keep {m v q2 val s t} (h : State.keep q s) (e : execRxTail m v q2 val s = .next t) : State.keep q t := by
  grind (ematch := 20) [execRxTail, State.viPage_keep, State.rxTailWrite_keep]

theorem execViIrqStat_keep {m v val s t} (h : State.keep q s) (e : execViIrqStat m v val s = .next t) : State.keep q t := by
  grind (ematch := 20) [execViIrqStat, State.viPage_keep, State.viClear_keep]

theorem execIrqModExpiry_keep {v s t} (h : State.keep q s) (e : execIrqModExpiry v s = .next t) : State.keep q t := by
  grind (ematch := 20) [execIrqModExpiry, State.viLine_keep, State.putVi_keep]

end Sys2Proof.Machine
end

