-- ==== Sys2Proof/Laws/Keep/Bus.lean ====
section
/-! SUPPORT. The operations of Machine/Bus.lean leave the queue and the canonical form of the tables. -/
namespace Sys2Proof.Machine

set_option Elab.async false

variable {q : List Instr}

theorem State.modCan_keep {s n f} (h : State.keep q s) : State.keep q (State.modCan s n f) := by
  grind (ematch := 20) [State.modCan, keep_mk]

theorem State.modLin_keep {s m f} (h : State.keep q s) : State.keep q (State.modLin s m f) := by
  grind (ematch := 20) [State.modLin, keep_mk]

theorem State.canDiscard_keep {s n t2 code} (h : State.keep q s) : State.keep q (State.canDiscard s n t2 code) := by
  grind (ematch := 20) [State.canDiscard, State.txCopyEnd_keep, State.addE_keep]

theorem State.canRoute_keep {s n f} (h : State.keep q s) : State.keep q (State.canRoute s n f) := by
  grind (ematch := 20) [State.canRoute, State.addE_keep, State.canDiscard_keep, State.modCan_keep]

theorem State.linBuffer_keep {s m id d ref} (h : State.keep q s) : State.keep q (State.linBuffer s m id d ref) := by
  grind (ematch := 20) [State.linBuffer, State.modLin_keep, State.txCopyEnd_keep]

theorem State.convDrop_keep {s} (h : State.keep q s) : State.keep q (State.convDrop s) := by
  grind (ematch := 20) [State.convDrop, State.addE_keep]

theorem State.routeCan_keep {s chans txFmt keep newId f} (h : State.keep q s) : State.keep q (State.routeCan s chans txFmt keep newId f) := by
  grind (ematch := 20) [State.routeCan, State.canRoute_keep, State.convDrop_keep, foldl_keep]

theorem State.routeLin_keep {s m id f} (h : State.keep q s) : State.keep q (State.routeLin s m id f) := by
  grind (ematch := 20) [State.routeLin, State.convDrop_keep, State.linBuffer_keep]

theorem State.modWin_keep {s k f} (h : State.keep q s) : State.keep q (State.modWin s k f) := by
  grind (ematch := 20) [State.modWin, keep_mk]

theorem State.appendMsg_keep {s k msg} (h : State.keep q s) : State.keep q (State.appendMsg s k msg) := by
  grind (ematch := 20) [State.appendMsg, State.addE_keep, State.modWin_keep, foldl_keep]

theorem State.encap_keep {s k b f time copy} (h : State.keep q s) : State.keep q (State.encap s k b f time copy) := by
  grind (ematch := 20) [State.encap, State.convDrop_keep, State.appendMsg_keep, State.routeCan_keep]

theorem execEncapWindowTimeout_keep {k s t} (h : State.keep q s) (e : execEncapWindowTimeout k s = .next t) : State.keep q t := by
  grind (ematch := 20) [execEncapWindowTimeout, State.modWin_keep]

theorem State.convert_keep {s t1 b f time} (h : State.keep q s) : State.keep q (State.convert s t1 b f time) := by
  grind (ematch := 20) [State.convert, State.encap_keep, State.routeCan_keep, State.routeLin_keep]

end Sys2Proof.Machine
end

