-- ==== Sys2Proof/Laws/Keep/DapSend.lean ====
section
/-! SUPPORT. The operations of Machine/DapSend.lean leave the queue and the canonical form of the tables. -/
namespace Sys2Proof.Machine

set_option Elab.async false

variable {q : List Instr}

theorem State.modDap_keep {s f} (h : State.keep q s) : State.keep q (State.modDap s f) := by
  grind (ematch := 20) [State.modDap, keep_mk]

theorem State.seedWrite_keep {s} (h : State.keep q s) : State.keep q (State.seedWrite s) := by
  grind (ematch := 20) [State.seedWrite, State.addE_keep]

theorem State.nextFresh_keep {s k} (h : State.keep q s) : State.keep q (State.nextFresh s k).1 := by
  grind (ematch := 20) [State.nextFresh, State.modDap_keep, State.seedWrite_keep, keep_mk]

theorem State.dapEmit_keep {s tr dst b} (h : State.keep q s) : State.keep q (State.dapEmit s tr dst b) := by
  unfold State.dapEmit
  grind (ematch := 20) [State.modDap_keep, State.canRoute_keep]

theorem State.dapSend_keep {s p} (h : State.keep q s) : State.keep q (State.dapSend s p) := by
  grind (ematch := 20) [State.dapSend, State.nextFresh_keep, State.dapEmit_keep]

theorem State.sendBurst_keep {s t1 k} (h : State.keep q s) : State.keep q (State.sendBurst s t1 k) := by
  grind (ematch := 20) [State.sendBurst, State.dapSend_keep, foldl_keep]

theorem State.dapAnswer_keep {s p body} (h : State.keep q s) : State.keep q (State.dapAnswer s p body) := by
  grind (ematch := 20) [State.dapAnswer, State.modDap_keep, State.dapSend_keep, State.sendBurst_keep]

theorem State.mailLine_keep {s} (h : State.keep q s) : State.keep q (State.mailLine s) := by
  grind (ematch := 20) [State.mailLine, State.setLine_keep]

theorem State.modMail_keep {s p f} (h : State.keep q s) : State.keep q (State.modMail s p f) := by
  grind (ematch := 20) [State.modMail, keep_mk]

theorem State.mailDone_keep {s p st} (h : State.keep q s) : State.keep q (State.mailDone s p st) := by
  grind (ematch := 20) [State.mailDone, State.mailLine_keep, State.modMail_keep]

theorem State.winDone_keep {s m st} (h : State.keep q s) : State.keep q (State.winDone s m st) := by
  grind (ematch := 20) [State.winDone, State.modMail_keep]

theorem State.dapWritten_keep {s p} (h : State.keep q s) : State.keep q (State.dapWritten s p) := by
  grind (ematch := 20) [State.dapWritten, State.pulse_keep, State.setE_keep]

theorem State.complete_keep {s a st} (h : State.keep q s) : State.keep q (State.complete s a st) := by
  grind (ematch := 20) [State.complete, State.mailDone_keep, State.winDone_keep, State.dapWritten_keep, State.dapAnswer_keep, keep_mk]

theorem State.completeIf_keep {s a st} (h : State.keep q s) : State.keep q (State.completeIf s a st) := by
  unfold State.completeIf
  grind (ematch := 20) [State.complete_keep]

end Sys2Proof.Machine
end

