-- ==== Sys2Proof/Laws/Keep/Flow.lean ====
section
/-! SUPPORT. The operations of Machine/Flow.lean leave the queue and the canonical form of the tables. -/
namespace Sys2Proof.Machine

set_option Elab.async false

variable {q : List Instr}

theorem State.ctxWrite_keep {s h1 c} (h : State.keep q s) : State.keep q (State.ctxWrite s h1 c) := by
  grind (ematch := 20) [State.ctxWrite, State.dmaWrite_keep]

theorem State.flowPut_keep {s h1 c} (h : State.keep q s) : State.keep q (State.flowPut s h1 c) := by
  grind (ematch := 20) [State.flowPut, State.ctxWrite_keep, keep_mk, foldl_keep]

theorem State.flowDel_keep {s h1} (h : State.keep q s) : State.keep q (State.flowDel s h1) := by
  grind (ematch := 20) [State.flowDel, State.ctxWrite_keep, keep_mk]

theorem State.countFlow_keep {s owner add} (h : State.keep q s) : State.keep q (State.countFlow s owner add) := by
  grind (ematch := 20) [State.countFlow, State.setE_keep]

theorem State.poisonCtx_keep {s h1} (h : State.keep q s) : State.keep q (State.poisonCtx s h1) := by
  grind (ematch := 20) [State.poisonCtx, State.record_keep, State.addE_keep, State.flowDel_keep, State.countFlow_keep]

theorem State.ctxRead_keep {s hs bad} (h : State.keep q s) : State.keep q (State.ctxRead s hs bad) := by
  grind (ematch := 20) [State.ctxRead, State.dmaRead_keep, State.poisonCtx_keep, foldl_keep]

theorem State.modPort_keep {s n f} (h : State.keep q s) : State.keep q (State.modPort s n f) := by
  grind (ematch := 20) [State.modPort, keep_mk]

theorem State.credits_keep {s n} (h : State.keep q s) : State.keep q (State.credits s n) := by
  grind (ematch := 20) [State.credits, State.modPort_keep]

theorem State.egress_keep {s n e2 vid prio launch ref} (h : State.keep q s) : State.keep q (State.egress s n e2 vid prio launch ref) := by
  grind (ematch := 20) [State.egress, State.modPort_keep, State.credits_keep]

theorem State.busActions_keep {s h1 c b f time} (h : State.keep q s) : State.keep q (State.busActions s h1 c b f time) := by
  grind (ematch := 20) [State.busActions, State.deliver_keep, State.convert_keep]

theorem State.messageLookup_keep {s b f time} (h : State.keep q s) : State.keep q (State.messageLookup s b f time) := by
  unfold State.messageLookup
  dsimp only
  repeat' split
  all_goals grind (ematch := 20) [State.addE_keep, State.ctxRead_keep, State.busActions_keep, State.flowPut_keep, keep_mk, foldl_keep, foldl_keep_fst]

theorem State.decap_keep {s vbase e2 time} (h : State.keep q s) : State.keep q (State.decap s vbase e2 time) := by
  grind (ematch := 20) [State.decap, State.addE_keep, State.messageLookup_keep, foldl_keep]

theorem State.flowActions_keep {s h1 c0 e3 len port ref launch time} (h : State.keep q s) : State.keep q (State.flowActions s h1 c0 e3 len port ref launch time).1 := by
  grind (ematch := 20) [State.flowActions, State.flowPut_keep, State.addE_keep, State.egress_keep, State.draw_keep, State.deliver_keep, State.decap_keep, foldl_keep]

theorem State.missAction_keep {s it time} (h : State.keep q s) : State.keep q (State.missAction s it time) := by
  unfold State.missAction
  grind (ematch := 20) [State.deliver_keep, State.addE_keep]

theorem State.matched_keep {s h1 it time} (h : State.keep q s) : State.keep q (State.matched s h1 it time) := by
  grind (ematch := 20) [State.matched, State.flowActions_keep, State.busActions_keep, State.flowPut_keep]

theorem State.tryKeys_keep {s it time a} (h : State.keep q s) : State.keep q (State.tryKeys s it time a) := by
  unfold State.tryKeys
  grind (ematch := 20) [State.missAction_keep, State.addE_keep, State.matched_keep, keep_mk]

theorem execCarveOutReadDone_keep {poison s t} (h : State.keep q s) (e : execCarveOutReadDone poison s = .next t) : State.keep q t := by
  simp only [execCarveOutReadDone, Host.Outcome.next.injEq] at e
  subst e
  refine State.served_keep h fun s h => ?_
  split <;> grind (ematch := 20) [State.ctxRead_keep, State.flowPut_keep, State.matched_keep, State.tryKeys_keep, keep_mk, foldl_keep, foldl_keep_fst]

theorem State.flowInsert_keep {s sl owner key c} (h : State.keep q s) : State.keep q (State.flowInsert s sl owner key c).1 := by
  grind (ematch := 20) [State.flowInsert, State.ctxRead_keep, State.addE_keep, State.countFlow_keep, State.flowPut_keep, State.flowDel_keep]

theorem State.flowAnswer_keep {s sl r} (h : State.keep q s) : State.keep q (State.flowAnswer s sl r) := by
  grind (ematch := 20) [State.flowAnswer, State.setE_keep, State.setB_keep, State.setViBit_keep, keep_mk]

theorem State.onHandle_keep {s sl h2 f} (h : State.keep q s) (hf : ∀ y0 y1, State.keep q y1 → State.keep q (f y0 y1).1) : State.keep q (State.onHandle s sl h2 f) := by
  grind (ematch := 20) [State.onHandle, State.ctxRead_keep, State.flowAnswer_keep]

theorem State.doInsert_keep {s sl v key ctx} (h : State.keep q s) : State.keep q (State.doInsert s sl v key ctx) := by
  grind (ematch := 20) [State.doInsert, State.flowInsert_keep, State.flowAnswer_keep]

theorem State.doRemove_keep {s sl h2} (h : State.keep q s) : State.keep q (State.doRemove s sl h2) := by
  grind (ematch := 20) [State.doRemove, State.onHandle_keep, State.countFlow_keep, State.flowDel_keep]

theorem State.doRead_keep {s sl h2} (h : State.keep q s) : State.keep q (State.doRead s sl h2) := by
  grind (ematch := 20) [State.doRead, State.onHandle_keep, State.flowPut_keep]

theorem State.doFind_keep {s sl key} (h : State.keep q s) : State.keep q (State.doFind s sl key) := by
  grind (ematch := 20) [State.doFind, State.ctxRead_keep, State.flowAnswer_keep, State.onHandle_keep, State.flowPut_keep]

theorem State.doUpdate_keep {s sl h2 ctx} (h : State.keep q s) : State.keep q (State.doUpdate s sl h2 ctx) := by
  grind (ematch := 20) [State.doUpdate, State.onHandle_keep, State.flowPut_keep]

theorem State.doClear_keep {s sl h2} (h : State.keep q s) : State.keep q (State.doClear s sl h2) := by
  grind (ematch := 20) [State.doClear, State.onHandle_keep, State.flowPut_keep]

theorem bulkInsert_keep {v a a2 a3} (h : State.keep q a3) : State.keep q (bulkInsert v a a2 a3).1 := by
  fun_induction bulkInsert v a a2 a3 <;> grind (ematch := 20) [State.flowInsert_keep]

theorem State.doBulk_keep {s v recs} (h : State.keep q s) : State.keep q (State.doBulk s v recs) := by
  grind (ematch := 20) [State.doBulk, bulkInsert_keep, State.setE_keep]

theorem execFlowInsert_keep {sl v key ctx s t} (h : State.keep q s) (e : execFlowInsert sl v key ctx s = .next t) : State.keep q t := by
  grind (ematch := 20) [execFlowInsert, State.served_keep, State.doInsert_keep]

theorem execFlowRemove_keep {sl h1 s t} (h : State.keep q s) (e : execFlowRemove sl h1 s = .next t) : State.keep q t := by
  grind (ematch := 20) [execFlowRemove, State.served_keep, State.doRemove_keep]

theorem execFlowRead_keep {sl h1 s t} (h : State.keep q s) (e : execFlowRead sl h1 s = .next t) : State.keep q t := by
  grind (ematch := 20) [execFlowRead, State.served_keep, State.doRead_keep]

theorem execFlowFind_keep {sl key s t} (h : State.keep q s) (e : execFlowFind sl key s = .next t) : State.keep q t := by
  grind (ematch := 20) [execFlowFind, State.served_keep, State.doFind_keep]

theorem execFlowUpdate_keep {sl h1 ctx s t} (h : State.keep q s) (e : execFlowUpdate sl h1 ctx s = .next t) : State.keep q t := by
  grind (ematch := 20) [execFlowUpdate, State.served_keep, State.doUpdate_keep]

theorem execFlowClear_keep {sl h1 s t} (h : State.keep q s) (e : execFlowClear sl h1 s = .next t) : State.keep q t := by
  grind (ematch := 20) [execFlowClear, State.served_keep, State.doClear_keep]

theorem execFlowBulk_keep {v recs s t} (h : State.keep q s) (e : execFlowBulk v recs s = .next t) : State.keep q t := by
  grind (ematch := 20) [execFlowBulk, State.served_keep, State.doBulk_keep]

end Sys2Proof.Machine
end

