-- ==== Sys2Proof/Laws/Keep/MacSec.lean ====
section
/-! SUPPORT. The operations of Machine/MacSec.lean leave the queue and the canonical form of the tables. -/
namespace Sys2Proof.Machine

set_option Elab.async false

variable {q : List Instr}

theorem State.secCount_keep {s n} (h : State.keep q s) : State.keep q (State.secCount s n) := by
  grind (ematch := 20) [State.secCount, State.setE_keep, State.pulse_keep]

theorem State.secCheck_keep {s n f r0} (h : State.keep q s) (e : State.secCheck s n f = some r0) : State.keep q r0.1 := by
  grind (ematch := 20) [State.secCheck, State.setE_keep]

theorem State.secAccept_keep {s n b} (h : State.keep q s) : State.keep q (State.secAccept s n b).1 := by
  unfold State.secAccept
  dsimp only
  split
  · exact h
  · split
    · exact h
    · split
      · exact h
      · split
        · rename_i f u w hc
          exact State.secCheck_keep (r0 := (u, w)) h hc
        · exact h

end Sys2Proof.Machine
end

