-- ==== Sys2Proof/Laws/Keep/Gateway.lean ====
section
/-! SUPPORT. The operations of Machine/Gateway.lean leave the queue and the canonical form of the tables. -/
namespace Sys2Proof.Machine

set_option Elab.async false

variable {q : List Instr}

theorem State.qpSettle_keep {s} (h : State.keep q s) : State.keep q (State.qpSettle s) := by
  grind (ematch := 20) [State.qpSettle, State.complete_keep, State.setE_keep, State.modQp_keep, foldl_keep]

theorem execPortLinkChange_keep {n up s t} (h : State.keep q s) (e : execPortLinkChange n up s = .next t) : State.keep q t := by
  grind (ematch := 20) [execPortLinkChange, State.modPort_keep]

theorem execFrameReceive_keep {n fr fcsOk rxTime s t} (h : State.keep q s) (e : execFrameReceive n fr fcsOk rxTime s = .next t) : State.keep q t := by
  grind (ematch := 20) [execFrameReceive, State.served_keep, State.addE_keep, State.secAccept_keep, State.tryKeys_keep]

theorem State.txOpen_keep {s v q2 idx copies} (h : State.keep q s) : State.keep q (State.txOpen s v q2 idx copies) := by
  grind (ematch := 20) [State.txOpen, State.modQp_keep]

theorem State.txRefuse_keep {s v q2 idx code} (h : State.keep q s) : State.keep q (State.txRefuse s v q2 idx code) := by
  grind (ematch := 20) [State.txRefuse, State.txComplete_keep, State.modQp_keep]

theorem State.txBus_keep {s v q2 idx d rec} (h : State.keep q s) : State.keep q (State.txBus s v q2 idx d rec) := by
  grind (ematch := 20) [State.txBus, State.txRefuse_keep, State.modCan_keep, State.txOpen_keep, State.linBuffer_keep, State.txCopyEnd_keep, State.modLin_keep]

theorem State.txEth_keep {s v q2 idx d buf} (h : State.keep q s) : State.keep q (State.txEth s v q2 idx d buf) := by
  unfold State.txEth
  dsimp only
  repeat' split
  all_goals grind (ematch := 20) [State.ctxRead_keep, State.txRefuse_keep, State.flowActions_keep, State.txOpen_keep, State.txComplete_keep, State.egress_keep, keep_mk, foldl_keep, foldl_keep_fst]

theorem execTxDescriptorReadDone_keep {v q1 s t} (h : State.keep q s) (e : execTxDescriptorReadDone v q1 s = .next t) : State.keep q t := by
  simp only [execTxDescriptorReadDone, Host.Outcome.next.injEq] at e
  subst e
  refine State.served_keep h fun s h => ?_
  split <;> grind (ematch := 20) [State.dmaRead_keep, State.qpStop_keep, State.record_keep, State.txRefuse_keep, State.txBus_keep, State.txEth_keep, keep_mk, foldl_keep, foldl_keep_fst]

theorem execAcfFrameBuild_keep {k s t} (h : State.keep q s) (e : execAcfFrameBuild k s = .next t) : State.keep q t := by
  simp only [execAcfFrameBuild, Host.Outcome.next.injEq] at e
  subst e
  refine State.served_keep h fun s h => ?_
  split <;> grind (ematch := 20) [State.modWin_keep, State.addE_keep, State.setE_keep, State.ctxRead_keep, State.convDrop_keep, State.flowActions_keep, keep_mk, foldl_keep, foldl_keep_fst]

theorem State.wireBytes_keep {s n f} (h : State.keep q s) : State.keep q (State.wireBytes s n f).1 := by
  grind (ematch := 20) [State.wireBytes, keep_mk]

theorem State.egDrop_keep {s n q2 f code count} (h : State.keep q s) : State.keep q (State.egDrop s n q2 f code count) := by
  grind (ematch := 20) [State.egDrop, State.modPort_keep, State.addE_keep, State.txCopyEnd_keep]

theorem State.creditLoss_keep {s n q2 octets} (h : State.keep q s) : State.keep q (State.creditLoss s n q2 octets) := by
  grind (ematch := 20) [State.creditLoss, State.modPort_keep]

theorem State.txHead_keep {s n q2 cut} (h : State.keep q s) : State.keep q (State.txHead s n q2 cut) := by
  unfold State.txHead
  dsimp only
  repeat' split
  all_goals grind (ematch := 20) [State.egDrop_keep, State.wireBytes_keep, State.portCheck_keep, State.creditLoss_keep, State.modPort_keep, State.secCount_keep, State.txBegun_keep, keep_mk, foldl_keep, foldl_keep_fst]

theorem State.txResume_keep {s n r} (h : State.keep q s) : State.keep q (State.txResume s n r) := by
  grind (ematch := 20) [State.txResume, State.modPort_keep]

theorem execFrameTransmitStart_keep {n q1 s t} (h : State.keep q s) (e : execFrameTransmitStart n q1 s = .next t) : State.keep q t := by
  simp only [execFrameTransmitStart, Host.Outcome.next.injEq] at e
  subst e
  refine State.served_keep h fun s h => ?_
  split <;> grind (ematch := 20) [State.qpSettle_keep, State.credits_keep, State.txHead_keep, State.txResume_keep, keep_mk, foldl_keep, foldl_keep_fst]

theorem execFrameTransmitEnd_keep {n s t} (h : State.keep q s) (e : execFrameTransmitEnd n s = .next t) : State.keep q t := by
  simp only [execFrameTransmitEnd, Host.Outcome.next.injEq] at e
  subst e
  refine State.served_keep h fun s h => ?_
  refine State.qpSettle_keep ?_
  have h1 := State.credits_keep (n := n) h
  split
  · exact h1
  · split
    · exact State.txCopyEnd_keep (State.addE_keep (State.addE_keep (State.addE_keep (State.modPort_keep (State.creditLoss_keep h1)))))
    · exact State.addE_keep (State.addE_keep (State.modPort_keep (State.creditLoss_keep h1)))

theorem execLaunchTimeReached_keep {n q1 s t} (h : State.keep q s) (e : execLaunchTimeReached n q1 s = .next t) : State.keep q t := by
  grind (ematch := 20) [execLaunchTimeReached, State.modPort_keep]

theorem execShaperCreditRecovered_keep {n q1 s t} (h : State.keep q s) (e : execShaperCreditRecovered n q1 s = .next t) : State.keep q t := by
  grind (ematch := 20) [execShaperCreditRecovered, State.credits_keep, State.modPort_keep]

theorem execGateControlIntervalEnd_keep {n s t} (h : State.keep q s) (e : execGateControlIntervalEnd n s = .next t) : State.keep q t := by
  grind (ematch := 20) [execGateControlIntervalEnd, State.modPort_keep, State.credits_keep]

theorem State.gclArm_keep {s n} (h : State.keep q s) : State.keep q (State.gclArm s n) := by
  grind (ematch := 20) [State.gclArm, State.modPort_keep]

theorem execGclSwitch_keep {n s t} (h : State.keep q s) (e : execGclSwitch n s = .next t) : State.keep q t := by
  grind (ematch := 20) [execGclSwitch, State.modPort_keep, State.setB_keep, State.credits_keep]

theorem State.modGate_keep {s g f} (h : State.keep q s) : State.keep q (State.modGate s g f) := by
  grind (ematch := 20) [State.modGate, keep_mk]

theorem State.sglArm_keep {s g} (h : State.keep q s) : State.keep q (State.sglArm s g) := by
  grind (ematch := 20) [State.sglArm, State.modGate_keep, foldl_keep]

theorem execSglSwitch_keep {g s t} (h : State.keep q s) (e : execSglSwitch g s = .next t) : State.keep q t := by
  grind (ematch := 20) [execSglSwitch, State.modGate_keep, State.setB_keep]

theorem execStreamGateIntervalEnd_keep {g s t} (h : State.keep q s) (e : execStreamGateIntervalEnd g s = .next t) : State.keep q t := by
  grind (ematch := 20) [execStreamGateIntervalEnd, State.modGate_keep]

theorem execPreemptVerifyResponse_keep {n ok s t} (h : State.keep q s) (e : execPreemptVerifyResponse n ok s = .next t) : State.keep q t := by
  grind (ematch := 20) [execPreemptVerifyResponse, State.modPort_keep]

theorem State.modGptp_keep {s k f} (h : State.keep q s) : State.keep q (State.modGptp s k f) := by
  grind (ematch := 20) [State.modGptp, keep_mk]

theorem State.sendSync_keep {s n} (h : State.keep q s) : State.keep q (State.sendSync s n) := by
  grind (ematch := 20) [State.sendSync, State.egress_keep, keep_mk]

theorem execGptpMessage_keep {k e1 s t} (h : State.keep q s) (e : execGptpMessage k e1 s = .next t) : State.keep q t := by
  simp only [execGptpMessage, Host.Outcome.next.injEq] at e
  subst e
  split <;> grind (ematch := 20) [State.modGptp_keep, State.setE_keep, keep_mk, foldl_keep, foldl_keep_fst]

theorem execGptpTimer_keep {k e1 s t} (h : State.keep q s) (e : execGptpTimer k e1 s = .next t) : State.keep q t := by
  simp only [execGptpTimer, Host.Outcome.next.injEq] at e
  subst e
  split <;> grind (ematch := 20) [State.sendSync_keep, State.modGptp_keep, keep_mk, foldl_keep, foldl_keep_fst]

theorem execMicrocodeWatchdogExpiry_keep {s t} (h : State.keep q s) (e : execMicrocodeWatchdogExpiry s = .next t) : State.keep q t := by
  grind (ematch := 20) [execMicrocodeWatchdogExpiry, State.pulse_keep, keep_mk]

end Sys2Proof.Machine
end

