-- ==== Sys2Proof/Laws/Keep/BusOps.lean ====
section
/-! SUPPORT. The operations of Machine/BusOps.lean leave the queue and the canonical form of the tables. -/
namespace Sys2Proof.Machine

set_option Elab.async false

variable {q : List Instr}

theorem State.pullFrames_keep {s v q2 idx} (h : State.keep q s) : State.keep q (State.pullFrames s v q2 idx) := by
  grind (ematch := 20) [State.pullFrames, keep_mk]

theorem State.qpDisable_keep {s v q2 a} (h : State.keep q s) : State.keep q (State.qpDisable s v q2 a) := by
  grind (ematch := 20) [State.qpDisable, State.modQp_keep, State.txComplete_keep, State.pullFrames_keep, State.qpSettle_keep, State.rxComplete_keep, foldl_keep]

theorem State.canState_keep {s n st} (h : State.keep q s) : State.keep q (State.canState s n st) := by
  grind (ematch := 20) [State.canState, State.pulse_keep, State.modCan_keep]

theorem State.canFlush_keep {s n} (h : State.keep q s) : State.keep q (State.canFlush s n) := by
  grind (ematch := 20) [State.canFlush, State.canDiscard_keep, State.modCan_keep, foldl_keep]

theorem State.canStopNow_keep {s n} (h : State.keep q s) : State.keep q (State.canStopNow s n) := by
  grind (ematch := 20) [State.canStopNow, State.modCan_keep, State.qpSettle_keep, State.completeIf_keep, State.canFlush_keep, State.canState_keep]

theorem State.canStop_keep {s n} (h : State.keep q s) : State.keep q (State.canStop s n) := by
  grind (ematch := 20) [State.canStop, State.modCan_keep, State.canStopNow_keep]

theorem State.canStart_keep {s n} (h : State.keep q s) : State.keep q (State.canStart s n) := by
  grind (ematch := 20) [State.canStart, State.canState_keep, State.modCan_keep]

theorem State.canConfine_keep {s n} (h : State.keep q s) : State.keep q (State.canConfine s n) := by
  grind (ematch := 20) [State.canConfine, State.canFlush_keep, State.addE_keep, State.canState_keep]

theorem State.canDrop_keep {s n k t3 code} (h : State.keep q s) : State.keep q (State.canDrop s n k t3 code) := by
  grind (ematch := 20) [State.canDrop, State.modCan_keep, State.txCopyEnd_keep]

theorem execCanArbitrationAttempt_keep {n s t} (h : State.keep q s) (e : execCanArbitrationAttempt n s = .next t) : State.keep q t := by
  simp only [execCanArbitrationAttempt, Host.Outcome.next.injEq] at e
  subst e
  refine State.served_keep h fun s h => ?_
  split <;> grind (ematch := 20) [State.qpSettle_keep, State.canDrop_keep, State.canCheck_keep, State.modCan_keep, State.txBegun_keep, keep_mk, foldl_keep, foldl_keep_fst]

theorem execLoadHoldEnd_keep {n s t} (h : State.keep q s) (e : execLoadHoldEnd n s = .next t) : State.keep q t := by
  grind (ematch := 20) [execLoadHoldEnd, State.modCan_keep]

theorem State.canRequeue_keep {s n t2} (h : State.keep q s) : State.keep q (State.canRequeue s n t2) := by
  grind (ematch := 20) [State.canRequeue, State.modQp_keep, State.modCan_keep]

theorem execCanAttemptEnd_keep {n e1 dur s t} (h : State.keep q s) (e : execCanAttemptEnd n e1 dur s = .next t) : State.keep q t := by
  simp only [execCanAttemptEnd, Host.Outcome.next.injEq] at e
  subst e
  refine State.served_keep h fun s h => ?_
  split <;> grind (ematch := 20) [State.qpSettle_keep, State.modCan_keep, State.addE_keep, State.txCopyEnd_keep, State.canRequeue_keep, State.canDiscard_keep, State.canConfine_keep, State.canStopNow_keep, keep_mk, foldl_keep, foldl_keep_fst]

theorem execCanBusoffRecovery_keep {n s t} (h : State.keep q s) (e : execCanBusoffRecovery n s = .next t) : State.keep q t := by
  grind (ematch := 20) [execCanBusoffRecovery, State.canState_keep, State.modCan_keep]

theorem execCanErrorDetected_keep {n e1 s t} (h : State.keep q s) (e : execCanErrorDetected n e1 s = .next t) : State.keep q t := by
  simp only [execCanErrorDetected, Host.Outcome.next.injEq] at e
  subst e
  refine State.served_keep h fun s h => ?_
  split <;> grind (ematch := 20) [State.canConfine_keep, State.modCan_keep, State.addE_keep, keep_mk, foldl_keep, foldl_keep_fst]

theorem execCanIntegrationEnd_keep {n s t} (h : State.keep q s) (e : execCanIntegrationEnd n s = .next t) : State.keep q t := by
  grind (ematch := 20) [execCanIntegrationEnd, State.canState_keep]

theorem State.canReceive_keep {s n} (h : State.keep q s) : State.keep q (State.canReceive s n) := by
  grind (ematch := 20) [State.canReceive, State.draw_keep, State.canConfine_keep, State.modCan_keep, State.addE_keep]

theorem State.linStopNow_keep {s m} (h : State.keep q s) : State.keep q (State.linStopNow s m) := by
  grind (ematch := 20) [State.linStopNow, State.modLin_keep, State.txCopyEnd_keep, State.qpSettle_keep, State.completeIf_keep, State.pulse_keep, foldl_keep]

theorem State.linStop_keep {s m} (h : State.keep q s) : State.keep q (State.linStop s m) := by
  grind (ematch := 20) [State.linStop, State.modLin_keep, State.linStopNow_keep]

theorem State.linStart_keep {s m} (h : State.keep q s) : State.keep q (State.linStart s m) := by
  grind (ematch := 20) [State.linStart, State.pulse_keep, State.modLin_keep]

theorem State.linHeader_keep {s m id} (h : State.keep q s) : State.keep q (State.linHeader s m id) := by
  unfold State.linHeader
  dsimp only
  repeat' split
  all_goals grind (ematch := 20) [State.addE_keep, State.modLin_keep, State.qpSettle_keep, State.txCopyEnd_keep, State.txBegun_keep, keep_mk, foldl_keep, foldl_keep_fst]

theorem execLinHeader_keep {m id s t} (h : State.keep q s) (e : execLinHeader m id s = .next t) : State.keep q t := by
  grind (ematch := 20) [execLinHeader, State.served_keep, State.linHeader_keep]

theorem execLinScheduleSlot_keep {m s t} (h : State.keep q s) (e : execLinScheduleSlot m s = .next t) : State.keep q t := by
  grind (ematch := 20) [execLinScheduleSlot, State.served_keep, State.linHeader_keep, State.modLin_keep]

theorem State.linDone_keep {s m} (h : State.keep q s) : State.keep q (State.linDone s m) := by
  grind (ematch := 20) [State.linDone, State.modLin_keep, State.linStopNow_keep]

theorem execLinResponseReceive_keep {m data sum s t} (h : State.keep q s) (e : execLinResponseReceive m data sum s = .next t) : State.keep q t := by
  grind (ematch := 20) [execLinResponseReceive, State.served_keep, State.linDone_keep, State.addE_keep, State.tryKeys_keep]

theorem execLinResponseTimeout_keep {m s t} (h : State.keep q s) (e : execLinResponseTimeout m s = .next t) : State.keep q t := by
  grind (ematch := 20) [execLinResponseTimeout, State.served_keep, State.linDone_keep, State.addE_keep]

theorem State.gatewayStop_keep {s} (h : State.keep q s) : State.keep q (State.gatewayStop s) := by
  grind (ematch := 20) [State.gatewayStop, State.qpDisable_keep, State.canStopNow_keep, State.linStopNow_keep, foldl_keep]

end Sys2Proof.Machine
end

