-- ==== Sys2Proof/Laws/Keep/Gpio.lean ====
section
/-! SUPPORT. The operations of Machine/Gpio.lean leave the queue and the canonical form of the tables. -/
namespace Sys2Proof.Machine

set_option Elab.async false

variable {q : List Instr}

theorem State.gpioLine_keep {s} (h : State.keep q s) : State.keep q (State.gpioLine s) := by
  grind (ematch := 20) [State.gpioLine, State.setLine_keep]

theorem State.gpioEdge_keep {s n level} (h : State.keep q s) : State.keep q (State.gpioEdge s n level) := by
  grind (ematch := 20) [State.gpioEdge, State.gpioLine_keep, keep_mk]

theorem execGpioEdge_keep {n level s t} (h : State.keep q s) (e : execGpioEdge n level s = .next t) : State.keep q t := by
  grind (ematch := 20) [execGpioEdge, State.gpioEdge_keep]

theorem State.gpioClear_keep {s v edges} (h : State.keep q s) : State.keep q (State.gpioClear s v edges) := by
  grind (ematch := 20) [State.gpioClear, State.gpioLine_keep, keep_mk]

theorem execGpioIrqStat_keep {m v edges s t} (h : State.keep q s) (e : execGpioIrqStat m v edges s = .next t) : State.keep q t := by
  grind (ematch := 20) [execGpioIrqStat, State.gpioClear_keep, keep_mk]

theorem State.gpioWrite_keep {s off v t} (h : State.keep q s) (e : State.gpioWrite s off v = some t) : State.keep q t := by
  unfold State.gpioWrite at e
  grind (ematch := 20) [State.gpioLine_keep, State.gpioClear_keep, keep_mk]

end Sys2Proof.Machine
end

