-- ==== Sys2Proof/Laws/Keep/Irq.lean ====
section
/-! SUPPORT. The operations of Machine/Irq.lean leave the queue and the canonical form of the tables. -/
namespace Sys2Proof.Machine

set_option Elab.async false

variable {q : List Instr}

theorem State.claim_keep {s k w} (h : State.keep q s) : State.keep q (State.claim s k w) := by
  grind (ematch := 20) [State.claim, State.setSrc_keep]

theorem State.irqEnd_keep {s w id} (h : State.keep q s) : State.keep q (State.irqEnd s w id) := by
  grind (ematch := 20) [State.irqEnd, State.setSrc_keep]

theorem State.ackRead_keep {s w offer acc} (h : State.keep q s) : State.keep q (State.ackRead s w offer acc).1 := by
  unfold State.ackRead
  grind (ematch := 20) [State.claim_keep]

theorem State.wldErr_keep {s} (h : State.keep q s) : State.keep q (State.wldErr s) := by
  grind (ematch := 20) [State.wldErr, keep_mk]

theorem State.cfgWrite_keep {s m k v t} (h : State.keep q s) (e : State.cfgWrite s m k v = some t) : State.keep q t := by
  grind (ematch := 20) [State.cfgWrite, State.putSrc_keep, State.setSrc_keep]

theorem State.stateWrite_keep {s m k v t} (h : State.keep q s) (e : State.stateWrite s m k v = some t) : State.keep q t := by
  grind (ematch := 20) [State.stateWrite, State.pulse_keep, State.setSrc_keep]

theorem State.srcWrite_keep {s m r v} (h : State.keep q s) : State.keep q (State.srcWrite s m r v) := by
  have w {k} : State.keep q ((s.stateWrite m k v).getD s.wldErr) :=
    getD_keep (fun _ e => State.stateWrite_keep h e) (State.wldErr_keep h)
  unfold State.srcWrite
  split
  · split
    · exact h
    · exact w
  · split
    · exact w
    · exact State.wldErr_keep h

theorem State.injWrite_keep {s m p v t} (h : State.keep q s) (e : State.injWrite s m p v = some t) : State.keep q t := by
  grind (ematch := 20) [State.injWrite, State.pulse_keep]

theorem State.sgiWrite_keep {s m v} (h : State.keep q s) : State.keep q (State.sgiWrite s m v) := by
  grind (ematch := 20) [State.sgiWrite, State.pulse_keep, foldl_keep]

theorem State.irqRegRead_keep {s m off acc} (h : State.keep q s) : State.keep q (State.irqRegRead s m off acc).1 := by
  unfold State.irqRegRead
  grind (ematch := 30) (splits := 30) (instances := 4000) [State.ackRead_keep]

theorem State.irqRegWrite_keep {s m off v mask t} (h : State.keep q s) (e : State.irqRegWrite s m off v mask = .ok t) : State.keep q t := by
  grind (ematch := 30) (splits := 30) (instances := 4000) [State.irqRegWrite, State.cfgWrite_keep, State.stateWrite_keep, State.injWrite_keep, State.irqEnd_keep, State.sgiWrite_keep, keep_mk, keep_irq]

theorem execIrqInputAssert_keep {r level s t} (h : State.keep q s) (e : execIrqInputAssert r level s = .next t) : State.keep q t := by
  unfold execIrqInputAssert at e
  grind (ematch := 20) [State.setLine_keep]

theorem execIrqPulse_keep {r s t} (h : State.keep q s) (e : execIrqPulse r s = .next t) : State.keep q t := by
  unfold execIrqPulse at e
  grind (ematch := 20) [State.pulse_keep]

theorem execIrqAck_keep {m c acc s t} (h : State.keep q s) (e : execIrqAck m c acc s = .next t) : State.keep q t := by
  grind (ematch := 20) [execIrqAck, State.wldErr_keep, State.ackRead_keep, keep_mk]

theorem execIrqEoi_keep {m c v s t} (h : State.keep q s) (e : execIrqEoi m c v s = .next t) : State.keep q t := by
  grind (ematch := 20) [execIrqEoi, State.irqEnd_keep, State.wldErr_keep]

theorem execIrqSgi_keep {m c v s t} (h : State.keep q s) (e : execIrqSgi m c v s = .next t) : State.keep q t := by
  grind (ematch := 20) [execIrqSgi, State.sgiWrite_keep, State.wldErr_keep]

theorem execSetpend_keep {m r v s t} (h : State.keep q s) (e : execSetpend m r v s = .next t) : State.keep q t := by
  grind (ematch := 20) [execSetpend, State.srcWrite_keep]

theorem execClrpend_keep {m r v s t} (h : State.keep q s) (e : execClrpend m r v s = .next t) : State.keep q t := by
  grind (ematch := 20) [execClrpend, State.srcWrite_keep]

theorem execVirqInj_keep {m p v s t} (h : State.keep q s) (e : execVirqInj m p v s = .next t) : State.keep q t := by
  grind (ematch := 20) [execVirqInj, State.injWrite_keep, State.wldErr_keep, getD_keep]

theorem execVirqAck_keep {m p acc s t} (h : State.keep q s) (e : execVirqAck m p acc s = .next t) : State.keep q t := by
  grind (ematch := 20) [execVirqAck, State.wldErr_keep, State.ackRead_keep, keep_mk]

theorem execVirqEoi_keep {m p v s t} (h : State.keep q s) (e : execVirqEoi m p v s = .next t) : State.keep q t := by
  grind (ematch := 20) [execVirqEoi, State.irqEnd_keep, State.wldErr_keep]

theorem execMsiDoorbell_keep {k size v s t} (h : State.keep q s) (e : execMsiDoorbell k size v s = .next t) : State.keep q t := by
  grind (ematch := 20) [execMsiDoorbell, State.pulse_keep, State.record_keep]

end Sys2Proof.Machine
end

