-- ==== Sys2Proof/Laws/Keep/Island.lean ====
section
/-! SUPPORT. The operations of Machine/Island.lean leave the queue and the canonical form of the tables. -/
namespace Sys2Proof.Machine

set_option Elab.async false

variable {q : List Instr}

theorem State.modIsl_keep {s i f} (h : State.keep q s) : State.keep q (State.modIsl s i f) := by
  grind (ematch := 20) [State.modIsl, keep_mk]

theorem State.modTc_keep {s i k f} (h : State.keep q s) : State.keep q (State.modTc s i k f) := by
  grind (ematch := 20) [State.modTc, State.modIsl_keep]

theorem State.eachTc_keep {s i f} (h : State.keep q s) : State.keep q (State.eachTc s i f) := by
  grind (ematch := 20) [State.eachTc, State.modIsl_keep]

theorem State.copyMem_keep {s dst src n} (h : State.keep q s) : State.keep q (State.copyMem s dst src n) := by
  exact keep_mem (State.clearTags_keep (State.eccWrite_keep h)) fun _ => Memory.write_wf h.2.1

theorem State.copyTcms_keep {s i k j} (h : State.keep q s) : State.keep q (State.copyTcms s i k j) := by
  grind (ematch := 20) [State.copyTcms, State.copyMem_keep, keep_mk, foldl_keep]

theorem State.loadImage_keep {s i k} (h : State.keep q s) : State.keep q (State.loadImage s i k) := by
  grind (ematch := 20) [State.loadImage, State.copyMem_keep]

theorem State.wipeTcms_keep {s i k} (h : State.keep q s) : State.keep q (State.wipeTcms s i k) := by
  have w (s : State) (a : Nat) (h : State.keep q s) : State.keep q
      { (s.eccWrite a 0x40000).clearTags a 0x40000 with
        mem := Memory.write s.mem a (slice (Config.freeBytes s.fresh) 0 0x40000), fresh := s.fresh + 1 } :=
    keep_mem (State.clearTags_keep (State.eccWrite_keep h)) fun _ => Memory.write_wf h.2.1
  exact w _ _ (w _ _ h)

theorem State.safeNUpdate_keep {s} (h : State.keep q s) : State.keep q (State.safeNUpdate s) := by
  grind (ematch := 20) [State.safeNUpdate, keep_mk]

theorem State.setVote_keep {s i st} (h : State.keep q s) : State.keep q (State.setVote s i st) := by
  grind (ematch := 20) [State.setVote, State.safeNUpdate_keep, State.pulse_keep, State.modIsl_keep]

theorem State.hardSafe_keep {s i} (h : State.keep q s) : State.keep q (State.hardSafe s i) := by
  grind (ematch := 20) [State.hardSafe, State.setE_keep, State.pinSafe_keep, foldl_keep]

theorem State.applyPins_keep {s i} (h : State.keep q s) : State.keep q (State.applyPins s i) := by
  grind (ematch := 20) [State.applyPins, State.applyPin_keep, foldl_keep]

theorem State.endClaims_keep {s i} (h : State.keep q s) : State.keep q (State.endClaims s i) := by
  grind (ematch := 20) [State.endClaims, State.irqEnd_keep, State.modIsl_keep, foldl_keep]

theorem State.safeEntry_keep {s i cause slots} (h : State.keep q s) : State.keep q (State.safeEntry s i cause slots) := by
  unfold State.safeEntry
  grind (ematch := 20) [State.record_keep, State.ledgerEvent_keep, State.pinsSafe_keep, State.modIsl_keep, State.eachTc_keep, State.setVote_keep, State.endClaims_keep]

theorem State.toHeld_keep {s i} (h : State.keep q s) : State.keep q (State.toHeld s i) := by
  grind (ematch := 20) [State.toHeld, State.pinsSafe_keep, State.modIsl_keep, State.eachTc_keep, State.setVote_keep, State.setE_keep, State.endClaims_keep]

theorem State.fence_keep {s i k} (h : State.keep q s) : State.keep q (State.fence s i k) := by
  grind (ematch := 20) [State.fence, State.modTc_keep, State.modIsl_keep]

theorem State.startTest_keep {s i k spare} (h : State.keep q s) : State.keep q (State.startTest s i k spare) := by
  grind (ematch := 20) [State.startTest, State.modIsl_keep]

theorem State.noMajorityAfter_keep {s i k} (h : State.keep q s) : State.keep q (State.noMajorityAfter s i k) := by
  grind (ematch := 20) [State.noMajorityAfter, State.hardSafe_keep, State.pulse_keep, State.setE_keep, State.modIsl_keep, State.modTc_keep, State.safeEntry_keep, foldl_keep]

theorem State.mismatch_keep {s i out cause} (h : State.keep q s) : State.keep q (State.mismatch s i out cause) := by
  unfold State.mismatch
  dsimp only
  split
  · exact h
  · split
    · exact State.noMajorityAfter_keep h
    · have k {a} := State.hardSafe_keep (i := i) (State.pulse_keep (k := voterSrc i) (State.setE_keep (idx := voteIdx i) (sub := 4) (v := cause)
        (State.setE_keep (idx := voteIdx i) (sub := 2) (v := a) (State.addE_keep (idx := voteIdx i) (sub := 3) (w := 32) (k := 1) h))))
      split
      · exact State.setVote_keep (State.modIsl_keep (State.startTest_keep (State.fence_keep k)))
      · exact State.safeEntry_keep k

theorem State.closeWindow_keep {s i k} (h : State.keep q s) : State.keep q (State.closeWindow s i k) := by
  grind (ematch := 20) [State.closeWindow, State.modTc_keep, State.modIsl_keep]

theorem execPennantWindowClose_keep {i k s t} (h : State.keep q s) (e : execPennantWindowClose i k s = .next t) : State.keep q t := by
  grind (ematch := 20) [execPennantWindowClose, State.closeWindow_keep]

theorem State.dropPen_keep {s i seq} (h : State.keep q s) : State.keep q (State.dropPen s i seq) := by
  grind (ematch := 20) [State.dropPen, State.modIsl_keep, State.setE_keep, State.eachTc_keep]

theorem State.decidePen_keep {s i p late} (h : State.keep q s) : State.keep q (State.decidePen s i p late) := by
  grind (ematch := 20) [State.decidePen, State.dropPen_keep, State.modIsl_keep, State.mismatch_keep]

theorem State.settlePens_keep {s i} (h : State.keep q s) : State.keep q (State.settlePens s i) := by
  grind (ematch := 20) [State.settlePens, State.decidePen_keep, foldl_keep]

theorem State.dropOut_keep {s i k pos} (h : State.keep q s) : State.keep q (State.dropOut s i k pos) := by
  grind (ematch := 20) [State.dropOut, State.modTc_keep]

theorem State.putOut_keep {s i pos p} (h : State.keep q s) : State.keep q (State.putOut s i pos p) := by
  grind (ematch := 20) [State.putOut, State.modIsl_keep]

theorem State.decideOut_keep {s i p late} (h : State.keep q s) : State.keep q (State.decideOut s i p late) := by
  unfold State.decideOut
  dsimp only
  repeat' split
  all_goals grind (ematch := 20) [State.modIsl_keep, State.dropOut_keep, State.mismatch_keep, State.putOut_keep, foldl_keep, foldl_keep_fst]

theorem State.settleOuts_keep {s i} (h : State.keep q s) : State.keep q (State.settleOuts s i) := by
  grind (ematch := 20) [State.settleOuts, State.decideOut_keep, foldl_keep]

theorem State.settlePort_keep {s i} (h : State.keep q s) : State.keep q (State.settlePort s i) := by
  grind (ematch := 20) [State.settlePort, State.mismatch_keep, State.addE_keep]

theorem State.settleVoter_keep {s i before} (h : State.keep q s) : State.keep q (State.settleVoter s i before) := by
  grind (ematch := 20) [State.settleVoter, State.settlePort_keep, State.settleOuts_keep, State.settlePens_keep]

theorem execPennantComparison_keep {i k s t} (h : State.keep q s) (e : execPennantComparison i k s = .next t) : State.keep q t := by
  grind (ematch := 20) [execPennantComparison, State.modTc_keep, State.modIsl_keep, State.setE_keep, State.settleVoter_keep, State.decidePen_keep]

theorem execPennantSkewTimeout_keep {i s t} (h : State.keep q s) (e : execPennantSkewTimeout i s = .next t) : State.keep q t := by
  grind (ematch := 20) [execPennantSkewTimeout, State.settleVoter_keep, State.decidePen_keep]

theorem execOutputQueueComparison_keep {i k s t} (h : State.keep q s) (e : execOutputQueueComparison i k s = .next t) : State.keep q t := by
  grind (ematch := 20) [execOutputQueueComparison, State.settleVoter_keep, State.decideOut_keep, State.putOut_keep]

theorem execOutputSkewTimeout_keep {i s t} (h : State.keep q s) (e : execOutputSkewTimeout i s = .next t) : State.keep q t := by
  grind (ematch := 20) [execOutputSkewTimeout, State.settleVoter_keep, State.decideOut_keep]

theorem State.coreMismatch_keep {s i k cause} (h : State.keep q s) : State.keep q (State.coreMismatch s i k cause) := by
  grind (ematch := 20) [State.coreMismatch, State.settleVoter_keep, State.mismatch_keep]

theorem State.noMajority_keep {s i} (h : State.keep q s) : State.keep q (State.noMajority s i) := by
  grind (ematch := 20) [State.noMajority, State.settleVoter_keep, State.mismatch_keep]

theorem State.retireSlot_keep {s i k counted} (h : State.keep q s) : State.keep q (State.retireSlot s i k counted) := by
  grind (ematch := 20) [State.retireSlot, State.record_keep, State.modTc_keep, State.retireEntry_keep]

theorem State.replaceSlot_keep {s i} (h : State.keep q s) : State.keep q (State.replaceSlot s i) := by
  grind (ematch := 20) [State.replaceSlot, State.startTest_keep, State.modTc_keep, State.setVote_keep, State.modIsl_keep]

theorem State.setGood_keep {s i k pass} (h : State.keep q s) : State.keep q (State.setGood s i k pass) := by
  grind (ematch := 20) [State.setGood, State.modIsl_keep]

theorem State.testsDone_keep {s i} (h : State.keep q s) : State.keep q (State.testsDone s i) := by
  grind (ematch := 20) [State.testsDone, State.modIsl_keep]

theorem execSelfTestDone_keep {i k pass s t} (h : State.keep q s) (e : execSelfTestDone i k pass s = .next t) : State.keep q t := by
  grind (ematch := 20) [execSelfTestDone, State.setGood_keep, State.wipeTcms_keep, State.testsDone_keep, State.retireSlot_keep, State.setVote_keep, State.modIsl_keep, State.replaceSlot_keep, State.record_keep]

theorem execInjectionTestDone_keep {i failed s t} (h : State.keep q s) (e : execInjectionTestDone i failed s = .next t) : State.keep q t := by
  grind (ematch := 20) [execInjectionTestDone, State.modIsl_keep, State.setE_keep, State.setVote_keep, State.record_keep, State.eachTc_keep, State.loadImage_keep, State.applyPins_keep, foldl_keep]

theorem execRejoinCopyDone_keep {i s t} (h : State.keep q s) (e : execRejoinCopyDone i s = .next t) : State.keep q t := by
  grind (ematch := 20) [execRejoinCopyDone, State.setVote_keep, State.copyTcms_keep]

theorem execRejoinCaptureDone_keep {i s t} (h : State.keep q s) (e : execRejoinCaptureDone i s = .next t) : State.keep q t := by
  grind (ematch := 20) [execRejoinCaptureDone, State.modTc_keep, State.modIsl_keep, State.setVote_keep, State.setE_keep]

theorem State.restartHold_keep {s i t} (h : State.keep q s) (e : State.restartHold s i = some t) : State.keep q t := by
  grind (ematch := 20) [State.restartHold, State.toHeld_keep]

theorem State.releaseIsland_keep {s i} (h : State.keep q s) : State.keep q (State.releaseIsland s i) := by
  grind (ematch := 20) [State.releaseIsland, State.eachTc_keep, State.modIsl_keep, State.testsDone_keep, State.setVote_keep]

theorem State.restartRelease_keep {s i t} (h : State.keep q s) (e : State.restartRelease s i = some t) : State.keep q t := by
  grind (ematch := 20) [State.restartRelease, State.releaseIsland_keep]

theorem State.hsRelease_keep {s i v t} (h : State.keep q s) (e : State.hsRelease s i v = some t) : State.keep q t := by
  grind (ematch := 20) [State.hsRelease, State.setE_keep, State.applyPin_keep, foldl_keep]

theorem State.spiStart_keep {s i k v} (h : State.keep q s) : State.keep q (State.spiStart s i k v) := by
  grind (ematch := 20) [State.spiStart, State.modIsl_keep]

theorem State.ring_keep {s i d v} (h : State.keep q s) : State.keep q (State.ring s i d v) := by
  grind (ematch := 20) [State.ring, State.pulse_keep]

theorem State.islEnd_keep {s i id} (h : State.keep q s) : State.keep q (State.islEnd s i id) := by
  grind (ematch := 20) [State.islEnd, State.modIsl_keep, State.irqEnd_keep]

theorem State.islWrite_keep {s i off v mask t} (h : State.keep q s) (e : State.islWrite s i off v mask = some t) : State.keep q t := by
  grind (ematch := 20) [State.islWrite, State.applyPin_keep, State.modPin_keep, State.modIsl_keep, State.spiStart_keep, State.islEnd_keep, State.ring_keep]

theorem execIslEoi_keep {i id s t} (h : State.keep q s) (e : execIslEoi i id s = .next t) : State.keep q t := by
  grind (ematch := 20) [execIslEoi, State.islEnd_keep]

theorem execDoorbell_keep {_m i d v s t} (h : State.keep q s) (e : execDoorbell _m i d v s = .next t) : State.keep q t := by
  grind (ematch := 20) [execDoorbell, State.ring_keep, keep_mk]

theorem execSpiData_keep {i k v s t} (h : State.keep q s) (e : execSpiData i k v s = .next t) : State.keep q t := by
  grind (ematch := 20) [execSpiData, State.modIsl_keep, State.spiStart_keep]

theorem execSpiTransferDone_keep {i k rx s t} (h : State.keep q s) (e : execSpiTransferDone i k rx s = .next t) : State.keep q t := by
  grind (ematch := 20) [execSpiTransferDone, State.modIsl_keep]

theorem execCaptureInputEdge_keep {i n level s t} (h : State.keep q s) (e : execCaptureInputEdge i n level s = .next t) : State.keep q t := by
  grind (ematch := 20) [execCaptureInputEdge, State.modIsl_keep]

theorem execIslandInterruptOffer_keep {i s t} (h : State.keep q s) (e : execIslandInterruptOffer i s = .next t) : State.keep q t := by
  grind (ematch := 20) [execIslandInterruptOffer, State.modIsl_keep, State.claim_keep]

end Sys2Proof.Machine
end

