-- ==== Sys2Proof/Laws/Keep/Husk.lean ====
section
/-! SUPPORT. The operations of Machine/Husk.lean leave the queue and the canonical form of the tables. -/
namespace Sys2Proof.Machine

set_option Elab.async false

variable {q : List Instr}

theorem State.clearSlot_keep {s x1 c} (h : State.keep q s) : State.keep q (State.clearSlot s x1 c) := by
  grind (ematch := 20) [State.clearSlot, State.memWrite_keep]

theorem State.huskClaim_keep {s m h2} (h : State.keep q s) : State.keep q (State.huskClaim s m h2).1 := by
  grind (ematch := 20) [State.huskClaim, State.huskPut_keep]

theorem State.huskSeal_keep {s h1} (h : State.keep q s) : State.keep q (State.huskSeal s h1).1 := by
  grind (ematch := 20) [State.huskSeal, State.huskPut_keep]

theorem State.huskDestroy_keep {s h1} (h : State.keep q s) : State.keep q (State.huskDestroy s h1).1 := by
  grind (ematch := 20) [State.huskDestroy, State.huskPut_keep, State.clearSlot_keep, keep_mk, foldl_keep]

theorem State.huskControl_keep {s m h2 v} (h : State.keep q s) : State.keep q (State.huskControl s m h2 v).1 := by
  grind (ematch := 20) [State.huskControl, State.huskClaim_keep, State.huskSeal_keep, State.huskDestroy_keep]

theorem execHuskSealingDone_keep {h0 s t} (h : State.keep q s) (e : execHuskSealingDone h0 s = .next t) : State.keep q t := by
  grind (ematch := 20) [execHuskSealingDone, State.huskPut_keep]

theorem State.zeroLine_keep {s line} (h : State.keep q s) : State.keep q (State.zeroLine s line) := by
  grind (ematch := 20) [State.zeroLine, State.dci_keep, State.storeLine_keep, keep_mk]

theorem State.zeroRange_keep {s r} (h : State.keep q s) : State.keep q (State.zeroRange s r) := by
  grind (ematch := 20) [State.zeroRange, State.zeroLine_keep, foldl_keep]

theorem execHuskClearingDone_keep {h0 s t} (h : State.keep q s) (e : execHuskClearingDone h0 s = .next t) : State.keep q t := by
  grind (ematch := 20) [execHuskClearingDone, State.served_keep, State.huskPut_keep, State.zeroRange_keep, foldl_keep]

theorem State.huskWrite_keep {s h1 f v} (h : State.keep q s) : State.keep q (State.huskWrite s h1 f v).1 := by
  grind (ematch := 20) [State.huskWrite, State.huskPut_keep]

end Sys2Proof.Machine
end

