-- ==== Sys2Proof/Laws/Keep/Power.lean ====
section
/-! SUPPORT. The operations of Machine/Power.lean leave the queue and the canonical form of the tables. -/
namespace Sys2Proof.Machine

set_option Elab.async false

variable {q : List Instr}

theorem State.storePart_keep {s c husk t3 a d} (h : State.keep q s) : State.keep q (State.storePart s c husk t3 a d) := by
  grind (ematch := 20) [State.storePart, State.postedError_keep, State.huskRecord_keep, State.coreWrite_keep, State.memWrite_keep]

theorem State.drainOne_keep {s c} (h : State.keep q s) : State.keep q (State.drainOne s c) := by
  grind (ematch := 20) [State.drainOne, State.storePart_keep, keep_mk]

theorem State.drainStore_keep {s c} (h : State.keep q s) : State.keep q (State.drainStore s c) := by
  grind (ematch := 20) [State.drainStore, State.drainOne_keep, foldl_keep]

theorem State.drainAll_keep {s c} (h : State.keep q s) : State.keep q (State.drainAll s c) := by
  grind (ematch := 20) [State.drainAll, State.drainStore_keep, foldl_keep]

theorem State.entReset_keep {s p} (h : State.keep q s) : State.keep q (State.entReset s p) := by
  exact keep_ents h kvSorted_filter kvSorted_filter

theorem State.loseMem_keep {s lo hi} (h : State.keep q s) : State.keep q (State.loseMem s lo hi) := by
  exact ⟨h.1, Memory.filter_wf h.2.1, h.2.2.1, h.2.2.2.1, h.2.2.2.2.1, h.2.2.2.2.2.1, kvSorted_filter h.2.2.2.2.2.2⟩

theorem State.relines_keep {s} (h : State.keep q s) : State.keep q (State.relines s) := by
  grind (ematch := 20) [State.relines, State.gpioLine_keep, State.mailLine_keep, State.ledgerLine_keep, State.envLine_keep, State.bankLine_keep, State.viLine_keep, foldl_keep]

theorem State.loseHbm_keep {s} (h : State.keep q s) : State.keep q (State.loseHbm s) := by
  grind (ematch := 20) [State.loseHbm, State.loseMem_keep, keep_mk]

theorem State.loseIsland_keep {s i} (h : State.keep q s) : State.keep q (State.loseIsland s i) := by
  grind (ematch := 20) [State.loseIsland, State.loseMem_keep, keep_mk]

theorem State.lose_keep {s d iso} (h : State.keep q s) : State.keep q (State.lose s d iso) := by
  unfold State.lose
  dsimp only
  generalize hs : s.entReset _ = s1
  have h1 : State.keep q s1 := hs ▸ State.entReset_keep h
  have hp := State.modPod_keep (p := fin 7 (d - 32)) (f := fun _ => Pod.init) h1
  have hm := State.loseMem_keep (lo := 0x0E800100000) (hi := 0x0E800300000) h1
  refine ite_keep (keep_mk h1) (ite_keep (keep_mk hp) (ite_keep (State.loseIsland_keep h1) (ite_keep ?_ (ite_keep (State.loseHbm_keep h1)
    (ite_keep (keep_mk h1) (ite_keep (keep_mk h1) (ite_keep (keep_mk h1) (ite_keep (keep_mk h1) (ite_keep (keep_mk h1)
    (ite_keep (keep_mk hm) (ite_keep ?_ (ite_keep (keep_mk h1) h1))))))))))))
  · exact foldl_keep (fun _ _ k => State.modHome_keep k) h1
  · refine keep_husk (s := { s1 with irq := Irq.init }) (keep_irq h1 fun _ => rfl) fun k => ?_
    split
    · exact k
    · rfl

theorem State.modDom_keep {s d f} (h : State.keep q s) : State.keep q (State.modDom s d f) := by
  grind (ematch := 20) [State.modDom, keep_mk]

theorem State.coreReset_keep {s c} (h : State.keep q s) : State.keep q (State.coreReset s c) := by
  grind (ematch := 20) [State.coreReset, keep_mk]

theorem State.powered_keep {s d} (h : State.keep q s) : State.keep q (State.powered s d) := by
  grind (ematch := 20) [State.powered, State.coreReset_keep, State.canStart_keep, State.linStart_keep, keep_mk, foldl_keep]

theorem State.offBegin_keep {s d} (h : State.keep q s) : State.keep q (State.offBegin s d) := by
  grind (ematch := 20) [State.offBegin, State.toHeld_keep, State.linStop_keep, State.canStop_keep, foldl_keep]

theorem State.offEnd_keep {s d} (h : State.keep q s) : State.keep q (State.offEnd s d) := by
  grind (ematch := 20) [State.offEnd, State.drainAll_keep, State.cleanPod_keep, State.relines_keep, State.lose_keep]

theorem State.powerOutcome_keep {s q1 d o} (h : State.keep q s) : State.keep q (State.powerOutcome s q1 d o) := by
  grind (ematch := 20) [State.powerOutcome, State.modDom_keep]

theorem State.beginTo_keep {s d t2} (h : State.keep q s) : State.keep q (State.beginTo s d t2) := by
  grind (ematch := 20) [State.beginTo, State.modDom_keep, State.offBegin_keep]

theorem State.servePower_keep {a a1} (h : State.keep q a1) : State.keep q (State.servePower a a1) := by
  fun_induction State.servePower a a1 <;> grind (ematch := 20) [State.complete_keep, State.modDom_keep, State.powerOutcome_keep, State.beginTo_keep, keep_mk]

theorem State.powerGo_keep {s} (h : State.keep q s) : State.keep q (State.powerGo s) := by
  grind (ematch := 20) [State.powerGo, State.servePower_keep]

theorem State.powerWrite_keep {s a d v} (h : State.keep q s) : State.keep q (State.powerWrite s a d v) := by
  grind (ematch := 20) [State.powerWrite, State.powerGo_keep, State.complete_keep, State.powerOutcome_keep, keep_mk]

theorem State.holdWrite_keep {s a d v} (h : State.keep q s) : State.keep q (State.holdWrite s a d v) := by
  grind (ematch := 20) [State.holdWrite, State.modDom_keep, State.complete_keep, State.beginTo_keep, State.pulse_keep]

theorem State.reached_keep {s d t2} (h : State.keep q s) : State.keep q (State.reached s d t2) := by
  grind (ematch := 20) [State.reached, State.powerOutcome_keep, State.modDom_keep, State.complete_keep, keep_mk]

theorem State.reach_keep {s d t2} (h : State.keep q s) : State.keep q (State.reach s d t2) := by
  grind (ematch := 20) [State.reach, State.offEnd_keep, State.modDom_keep, State.powered_keep, State.beginTo_keep, State.reached_keep, State.completeIf_keep, State.powerGo_keep]

theorem execDomainTransitionDone_keep {d s t} (h : State.keep q s) (e : execDomainTransitionDone d s = .next t) : State.keep q t := by
  grind (ematch := 20) [execDomainTransitionDone, State.served_keep, State.reach_keep]

theorem State.pmicSend_keep {s b} (h : State.keep q s) : State.keep q (State.pmicSend s b) := by
  grind (ematch := 20) [State.pmicSend, keep_mk]

theorem State.pmicSet_keep {s p f} (h : State.keep q s) : State.keep q (State.pmicSet s p f) := by
  grind (ematch := 20) [State.pmicSet, State.pmicSend_keep]

theorem State.podApply_keep {s a p old f} (h : State.keep q s) : State.keep q (State.podApply s a p old f) := by
  grind (ematch := 20) [State.podApply, State.complete_keep, State.pmicSet_keep, keep_mk]

theorem execPodPllRelockDone_keep {p s t} (h : State.keep q s) (e : execPodPllRelockDone p s = .next t) : State.keep q t := by
  grind (ematch := 20) [execPodPllRelockDone, State.served_keep, State.pmicSet_keep, State.complete_keep, keep_mk]

theorem State.thermal_keep {s} (h : State.keep q s) : State.keep q (State.thermal s) := by
  grind (ematch := 20) [State.thermal, State.pulse_keep, State.addE_keep, keep_mk]

theorem State.sensor_keep {s k raw} (h : State.keep q s) : State.keep q (State.sensor s k raw) := by
  grind (ematch := 20) [State.sensor, State.thermal_keep, keep_mk]

theorem execThermalThrottle_keep {k raw s t} (h : State.keep q s) (e : execThermalThrottle k raw s = .next t) : State.keep q t := by
  grind (ematch := 20) [execThermalThrottle, State.sensor_keep]

theorem execThermalUnthrottle_keep {k raw s t} (h : State.keep q s) (e : execThermalUnthrottle k raw s = .next t) : State.keep q t := by
  grind (ematch := 20) [execThermalUnthrottle, State.sensor_keep]

theorem execPciePerstNRise_keep {k s t} (h : State.keep q s) (e : execPciePerstNRise k s = .next t) : State.keep q t := by
  grind (ematch := 20) [execPciePerstNRise, keep_mk]

theorem execPmicInt_keep {s t} (h : State.keep q s) (e : execPmicInt s = .next t) : State.keep q t := by
  grind (ematch := 20) [execPmicInt, State.pulse_keep]

end Sys2Proof.Machine
end

