-- ==== Sys2Proof/Laws/Keep/Device.lean ====
section
/-! SUPPORT. The operations of Machine/Device.lean leave the queue and the canonical form of the tables. -/
namespace Sys2Proof.Machine

set_option Elab.async false

variable {q : List Instr}

theorem State.bumpEpoch_keep {s} (h : State.keep q s) : State.keep q (State.bumpEpoch s) := by
  grind (ematch := 20) [State.bumpEpoch, State.seedWrite_keep, State.setE_keep]

theorem State.passEnsign_keep {s h1 node} (h : State.keep q s) : State.keep q (State.passEnsign s h1 node) := by
  grind (ematch := 20) [State.passEnsign, State.pulse_keep, State.modDap_keep, State.bumpEpoch_keep]

theorem State.ensignAway_keep {s} (h : State.keep q s) : State.keep q (State.ensignAway s) := by
  grind (ematch := 20) [State.ensignAway, State.passEnsign_keep, State.modDap_keep]

theorem State.ensignBack_keep {s} (h : State.keep q s) : State.keep q (State.ensignBack s) := by
  grind (ematch := 20) [State.ensignBack, State.passEnsign_keep, State.addE_keep]

theorem State.transitionEnd_keep {s from_ to_ res} (h : State.keep q s) : State.keep q (State.transitionEnd s from_ to_ res) := by
  grind (ematch := 20) [State.transitionEnd, State.setE_keep, keep_mk]

theorem State.modHz_keep {s f} (h : State.keep q s) : State.keep q (State.modHz s f) := by
  grind (ematch := 20) [State.modHz, keep_mk]

theorem State.enterBegin_keep {s t1} (h : State.keep q s) : State.keep q (State.enterBegin s t1) := by
  grind (ematch := 20) [State.enterBegin, State.pulse_keep, State.modHz_keep]

theorem State.quiesce_keep {s} (h : State.keep q s) : State.keep q (State.quiesce s) := by
  grind (ematch := 20) [State.quiesce, State.gatewayStop_keep, State.modDm_keep, State.dmAbortEvery_keep, foldl_keep]

theorem State.dropAskers_keep {s} (h : State.keep q s) : State.keep q (State.dropAskers s) := by
  grind (ematch := 20) [State.dropAskers, State.modDom_keep, keep_mk, foldl_keep]

theorem State.loseAll_keep {s ds iso} (h : State.keep q s) : State.keep q (State.loseAll s ds iso) := by
  grind (ematch := 20) [State.loseAll, State.lose_keep, foldl_keep]

theorem State.flushHbm_keep {s} (h : State.keep q s) : State.keep q (State.flushHbm s) := by
  grind (ematch := 20) [State.flushHbm, State.settle_keep, State.storeLine_keep, keep_mk, foldl_keep]

theorem State.flushSlc_keep {s} (h : State.keep q s) : State.keep q (State.flushSlc s) := by
  grind (ematch := 20) [State.flushSlc, State.slcEvict_keep, foldl_keep]

theorem State.setDoms_keep {s f} (h : State.keep q s) : State.keep q (State.setDoms s f) := by
  grind (ematch := 20) [State.setDoms, State.modHz_keep]

theorem State.suspendEntry_keep {s} (h : State.keep q s) : State.keep q (State.suspendEntry s) := by
  unfold State.suspendEntry
  extract_lets s1 s2 s3 s4 s5 s6 _ s7 s8
  have h1 : State.keep q s1 := foldl_keep (fun _ _ k => State.toHeld_keep k) (State.quiesce_keep h)
  have h2 : State.keep q s2 := foldl_keep (fun _ _ k => State.drainAll_keep k) h1
  have h3 : State.keep q s3 := foldl_keep (fun _ _ k => State.cleanPod_keep k) h2
  have h4 : State.keep q s4 := State.ensignAway_keep (State.dropAskers_keep (State.flushHbm_keep (State.flushSlc_keep h3)))
  have h5 : State.keep q s5 := State.loseAll_keep h4
  have h6 : State.keep q s6 := State.setDoms_keep h5
  have h7 : State.keep q s7 := keep_mk h6
  have h8 : State.keep q s8 := State.relines_keep (State.modHz_keep h7)
  exact State.transitionEnd_keep (State.pmicSend_keep h8)

theorem State.sleepEntry_keep {s} (h : State.keep q s) : State.keep q (State.sleepEntry s) := by
  unfold State.sleepEntry
  extract_lets f s1 s2 s3
  have h1 : State.keep q s1 := foldl_keep (fun _ _ k => State.toHeld_keep k) h
  have h2 : State.keep q s2 := State.loseAll_keep (State.ensignAway_keep (State.dropAskers_keep h1))
  have h3 : State.keep q s3 := State.modHz_keep h2
  exact State.transitionEnd_keep (State.pmicSend_keep (State.relines_keep h3))

theorem State.bootBegin_keep {s} (h : State.keep q s) : State.keep q (State.bootBegin s) := by
  grind (ematch := 20) [State.bootBegin, State.pmicSend_keep, State.modHz_keep, State.setE_keep]

theorem State.wakeUp_keep {s} (h : State.keep q s) : State.keep q (State.wakeUp s) := by
  grind (ematch := 20) [State.wakeUp, State.modHz_keep, State.pmicSend_keep, State.bootBegin_keep, State.setE_keep]

theorem State.wakeEvent_keep {s cause} (h : State.keep q s) : State.keep q (State.wakeEvent s cause) := by
  grind (ematch := 20) [State.wakeEvent, State.addE_keep, State.setE_keep, State.wakeUp_keep, State.modHz_keep]

theorem State.heldWake_keep {s} (h : State.keep q s) : State.keep q (State.heldWake s) := by
  grind (ematch := 20) [State.heldWake, State.wakeEvent_keep]

theorem State.deviceReq_keep {s v} (h : State.keep q s) : State.keep q (State.deviceReq s v).1 := by
  grind (ematch := 20) [State.deviceReq, State.enterBegin_keep, State.sleepEntry_keep, State.wakeEvent_keep]

theorem execSuspendWaitExpiry_keep {s t} (h : State.keep q s) (e : execSuspendWaitExpiry s = .next t) : State.keep q t := by
  grind (ematch := 20) [execSuspendWaitExpiry, State.pulse_keep, State.transitionEnd_keep, State.modHz_keep]

theorem execSuspendToSleepExpiry_keep {s t} (h : State.keep q s) (e : execSuspendToSleepExpiry s = .next t) : State.keep q t := by
  grind (ematch := 20) [execSuspendToSleepExpiry, State.sleepEntry_keep]

theorem execWakePatternMatch_keep {ch f s t} (h : State.keep q s) (e : execWakePatternMatch ch f s = .next t) : State.keep q t := by
  grind (ematch := 20) [execWakePatternMatch, State.addE_keep, State.wakeEvent_keep, foldl_keep]

theorem execWakeInDebounceExpiry_keep {n s t} (h : State.keep q s) (e : execWakeInDebounceExpiry n s = .next t) : State.keep q t := by
  grind (ematch := 20) [execWakeInDebounceExpiry, State.wakeEvent_keep]

theorem execWakeTimer_keep {s t} (h : State.keep q s) (e : execWakeTimer s = .next t) : State.keep q t := by
  grind (ematch := 20) [execWakeTimer, State.wakeEvent_keep]

theorem State.activate_keep {s} (h : State.keep q s) : State.keep q (State.activate s) := by
  grind (ematch := 20) [State.activate, State.transitionEnd_keep, State.ensignBack_keep, State.modHz_keep]

theorem State.restoreDoms_keep {s} (h : State.keep q s) : State.keep q (State.restoreDoms s) := by
  grind (ematch := 20) [State.restoreDoms, State.modDom_keep, State.beginTo_keep, foldl_keep]

theorem State.resume_keep {s} (h : State.keep q s) : State.keep q (State.resume s) := by
  grind (ematch := 20) [State.resume, State.setDoms_keep, State.restoreDoms_keep, State.releaseIsland_keep, State.relines_keep, State.activate_keep, State.modHz_keep, keep_mk, foldl_keep]

theorem execPllLock_keep {s t} (h : State.keep q s) (e : execPllLock s = .next t) : State.keep q t := by
  grind (ematch := 20) [execPllLock, State.modHz_keep, State.setE_keep, State.setDoms_keep]

theorem execSramFillDone_keep {s t} (h : State.keep q s) (e : execSramFillDone s = .next t) : State.keep q t := by
  grind (ematch := 20) [execSramFillDone, State.served_keep, State.setE_keep, State.resume_keep]

theorem State.systemReset_keep {s code} (h : State.keep q s) : State.keep q (State.systemReset s code) := by
  grind (ematch := 20) [State.systemReset, State.sleepEntry_keep, State.bootBegin_keep, State.setE_keep, State.modHz_keep]

theorem execSysrstN_keep {s t} (h : State.keep q s) (e : execSysrstN s = .next t) : State.keep q t := by
  grind (ematch := 20) [execSysrstN, State.systemReset_keep]

theorem execFatalGraceExpiry_keep {s t} (h : State.keep q s) (e : execFatalGraceExpiry s = .next t) : State.keep q t := by
  grind (ematch := 20) [execFatalGraceExpiry, State.systemReset_keep]

theorem execSmcWatchdogExpiry_keep {s t} (h : State.keep q s) (e : execSmcWatchdogExpiry s = .next t) : State.keep q t := by
  grind (ematch := 20) [execSmcWatchdogExpiry, State.startGrace_keep, State.ledgerEvent_keep]

theorem State.powerOnReset_keep {s} (h : State.keep q s) : State.keep q (State.powerOnReset s) := by
  unfold State.powerOnReset
  dsimp only
  refine keep_mk (ite_keep (State.setE_keep ?_) ?_) <;>
    exact ⟨h.1, rfl, kvSorted_filter h.2.2.1, kvSorted_filter h.2.2.2.1, rfl, rfl, rfl⟩

theorem State.applyRetired_keep {s w} (h : State.keep q s) : State.keep q (State.applyRetired s w) := by
  grind (ematch := 20) [State.applyRetired, State.coreFail_keep, State.modPc_keep, State.modDm_keep, keep_mk, foldl_keep]

theorem State.seedLost_keep {s key} (h : State.keep q s) : State.keep q (State.seedLost s key) := by
  have d : State.keep q { s with ent := kvDel key s.ent, entB := kvDel key s.entB } := keep_ents h kvDel_sorted kvDel_sorted
  unfold State.seedLost
  split
  · exact State.record_keep (State.addE_keep d)
  · exact State.setE_keep d
  · exact h

theorem State.readFuses_keep {s b} (h : State.keep q s) : State.keep q (State.readFuses s b) := by
  grind (ematch := 20) [State.readFuses, State.setE_keep, foldl_keep]

theorem State.coldBoot_keep {s b} (h : State.keep q s) : State.keep q (State.coldBoot s b) := by
  unfold State.coldBoot
  dsimp only
  refine State.bootBegin_keep (State.setE_keep (foldl_keep (fun _ _ hs => State.applyRetired_keep hs)
    (State.modHz_keep (keep_mk (State.bumpEpoch_keep (foldl_keep (fun _ _ hs => State.seedLost_keep hs)
      (State.readFuses_keep (State.modHz_keep h))))))))

theorem execPorstN_keep {b s t} (h : State.keep q s) (e : execPorstN b s = .next t) : State.keep q t := by
  grind (ematch := 20) [execPorstN, State.coldBoot_keep, State.modHz_keep, State.powerOnReset_keep]

theorem execPorstNLow_keep {s t} (h : State.keep q s) (e : execPorstNLow s = .next t) : State.keep q t := by
  grind (ematch := 20) [execPorstNLow, State.modHz_keep, State.powerOnReset_keep]

theorem execVoltageMonitorTrip_keep {m s t} (h : State.keep q s) (e : execVoltageMonitorTrip m s = .next t) : State.keep q t := by
  grind (ematch := 20) [execVoltageMonitorTrip, State.coldBoot_keep, State.powerOnReset_keep]

theorem execPmicStatusPoll_keep {st late s t} (h : State.keep q s) (e : execPmicStatusPoll st late s = .next t) : State.keep q t := by
  grind (ematch := 20) [execPmicStatusPoll, State.served_keep, State.modHz_keep, State.complete_keep, State.setE_keep]

theorem execPmicPowerUpRetry_keep {s t} (h : State.keep q s) (e : execPmicPowerUpRetry s = .next t) : State.keep q t := by
  grind (ematch := 20) [execPmicPowerUpRetry, State.pmicSend_keep]

theorem State.bootStop_keep {s type reason} (h : State.keep q s) : State.keep q (State.bootStop s type reason) := by
  grind (ematch := 20) [State.bootStop, State.safeNUpdate_keep, State.modHz_keep, State.setE_keep, State.sleepEntry_keep]

theorem State.seedDerived_keep {s stack ok} (h : State.keep q s) : State.keep q (State.seedDerived s stack ok) := by
  grind (ematch := 20) [State.seedDerived, State.setE_keep, State.setB_keep, keep_mk]

theorem execHbmTrainingDone_keep {k r s t} (h : State.keep q s) (e : execHbmTrainingDone k r s = .next t) : State.keep q t := by
  unfold execHbmTrainingDone at e
  grind (ematch := 20) [State.seedDerived_keep, State.pcFail_keep, State.bootStop_keep, keep_mk, foldl_keep, foldl_keep_fst]

theorem State.stage9_keep {s} (h : State.keep q s) : State.keep q (State.stage9 s) := by
  grind (ematch := 20) [State.stage9, State.setE_keep]

theorem execHbmFillDone_keep {s t} (h : State.keep q s) (e : execHbmFillDone s = .next t) : State.keep q t := by
  grind (ematch := 20) [execHbmFillDone, State.stage9_keep, State.setE_keep, keep_mk]

theorem execIslandImageStage_keep {i s t} (h : State.keep q s) (e : execIslandImageStage i s = .next t) : State.keep q t := by
  simp only [execIslandImageStage, Host.Outcome.next.injEq] at e
  subst e
  have w (a : Nat) (b : List Byte) : State.keep q
      { (s.eccWrite a b.length).clearTags a b.length with mem := Memory.write s.mem a b } :=
    keep_mem (State.clearTags_keep (State.eccWrite_keep h)) fun _ => Memory.write_wf h.2.1
  split
  · split
    · apply State.stage9_keep
      split
      · exact State.releaseIsland_keep (w ..)
      · exact w ..
    · exact h
  · exact h

theorem execBootCoreRelease_keep {s t} (h : State.keep q s) (e : execBootCoreRelease s = .next t) : State.keep q t := by
  simp only [execBootCoreRelease, Host.Outcome.next.injEq] at e
  subst e
  refine State.served_keep h fun s h => ?_
  split <;> grind (ematch := 20) [State.setE_keep, State.activate_keep, State.modDom_keep, State.beginTo_keep, keep_mk, foldl_keep, foldl_keep_fst]

end Sys2Proof.Machine
end

