-- ==== Sys2Proof/Laws/Keep/Dictionary.lean ====
section
/-! SUPPORT. The operations of Machine/Dictionary.lean leave the queue and the canonical form of the tables. -/
namespace Sys2Proof.Machine

set_option Elab.async false

variable {q : List Instr}

theorem State.putEnt_keep {s i u v} (h : State.keep q s) : State.keep q (State.putEnt s i u v) := by
  unfold State.putEnt
  grind (ematch := 20) [State.setE_keep, State.setB_keep]

theorem State.flowCommand_keep {s sl b} (h : State.keep q s) : State.keep q (State.flowCommand s sl b) := by
  grind (ematch := 20) [State.flowCommand, State.flowAnswer_keep, State.doInsert_keep, State.doRemove_keep, State.doRead_keep, State.doFind_keep, State.doUpdate_keep, State.doClear_keep]

theorem State.selfcalStart_keep {s n} (h : State.keep q s) : State.keep q (State.selfcalStart s n) := by
  grind (ematch := 20) [State.selfcalStart, State.seedWrite_keep, State.setB_keep, State.setE_keep, keep_mk]

theorem State.claimEnsign_keep {s node e2 a} (h : State.keep q s) : State.keep q (State.claimEnsign s node e2 a) := by
  grind (ematch := 20) [State.claimEnsign, State.modDap_keep]

theorem State.applyLow_keep {s a i u n r0} (h : State.keep q s) (e : State.applyLow s a i u n = some r0) : State.keep q r0.1 := by
  refine ite_some_keep (some_keep (State.powerWrite_keep h)) (ite_some_keep (some_keep (State.holdWrite_keep h))
    (ite_some_keep (some_keep (p := (_, false)) (State.deviceReq_keep (State.complete_keep h)))
    (ite_some_keep (some_keep (State.systemReset_keep (State.complete_keep h))) (ite_some_keep (some_keep (State.setE_keep h))
    (ite_some_keep ?_ (ite_some_keep (some_keep (State.setE_keep h)) (ite_some_keep (some_keep (State.setE_keep (State.setE_keep h)))
    (ite_some_keep (some_keep (getD_keep (fun _ e => State.hsRelease_keep h e) h)) (ite_some_keep (some_keep (p := (Option.getD _ s, true)) (getD_keep ?_ h)) ?_))))))))) r0 e
  · intro r e
    dsimp only at e
    split at e
    · refine some_keep ?_ r e
      split
      · exact State.huskControl_keep h
      · exact State.huskWrite_keep h
    · exact some_keep h r e
  · intro t e
    split at e
    · exact State.restartHold_keep h e
    · exact State.restartRelease_keep h e
  · intro r e; cases e

theorem State.applyHigh_keep {s a i u v r0} (h : State.keep q s) (e : State.applyHigh s a i u v = some r0) : State.keep q r0.1 := by
  refine ite_some_keep (some_keep (ite_keep (State.gclArm_keep h) h)) (ite_some_keep (some_keep (ite_keep (State.sglArm_keep h) h))
    (ite_some_keep (some_keep (State.flowCommand_keep h)) (ite_some_keep (some_keep (State.doBulk_keep h)) (ite_some_keep (some_keep (State.flowCommand_keep h))
    (ite_some_keep (some_keep (State.qpDisable_keep h)) (ite_some_keep (some_keep (ite_keep (State.modCan_keep h) h))
    (ite_some_keep (some_keep (keep_mk h)) (ite_some_keep (some_keep (State.selfcalStart_keep h))
    (ite_some_keep (some_keep (getD_keep (fun _ e => State.ledgerTailWrite_keep h e) h))
    (ite_some_keep (some_keep (State.dmEnableWrite_keep h)) (ite_some_keep (some_keep (p := (s.claimEnsign none v.num' a, false)) (State.claimEnsign_keep h)) ?_))))))))))) r0 e
  intro r e; cases e

theorem State.applyVol_keep {s a key v} (h : State.keep q s) : State.keep q (State.applyVol s a key v) := by
  unfold State.applyVol
  extract_lets i u s1
  have h1 : State.keep q s1 := ite_keep (State.putEnt_keep h) h
  clear_value s1
  have w {r0} (e : (if i < 0x6000 then s1.applyLow a i u v.num' else s1.applyHigh a i u v) = some r0) : State.keep q r0.1 := by
    split at e
    · exact State.applyLow_keep h1 e
    · exact State.applyHigh_keep h1 e
  split
  · exact State.complete_keep (w ‹_›)
  · exact w ‹_›
  · exact State.complete_keep (State.putEnt_keep h1)

theorem State.keyWritten_keep {s k} (h : State.keep q s) : State.keep q (State.keyWritten s k) := by
  grind (ematch := 20) [State.keyWritten, State.modDap_keep]

theorem State.calWritten_keep {s i} (h : State.keep q s) : State.keep q (State.calWritten s i) := State.setE_keep h

theorem State.schedule_keep {s m u n} (h : State.keep q s) : State.keep q (State.schedule s m u n) := by
  grind (ematch := 20) [State.schedule, State.modLin_keep]

theorem State.busEnable_keep {s a i n} (h : State.keep q s) : State.keep q (State.busEnable s a i n) := by
  grind (ematch := 20) [State.busEnable, State.complete_keep, State.canStart_keep, State.canStop_keep, State.modCan_keep, State.linStart_keep, State.linStop_keep, State.modLin_keep]

theorem State.applyStored_keep {s a key v} (h : State.keep q s) : State.keep q (State.applyStored s a key v) := by
  grind (ematch := 20) [State.applyStored, State.retireClear_keep, State.complete_keep, State.putEnt_keep, State.credits_keep, State.podApply_keep, State.thermal_keep, State.calWritten_keep, State.safeNUpdate_keep, State.busEnable_keep, State.schedule_keep, State.keyWritten_keep]

theorem State.journalWrite_keep {s a r key v} (h : State.keep q s) : State.keep q (State.journalWrite s a r key v) := by
  grind (ematch := 20) [State.journalWrite, keep_mk]

theorem State.waitEnt_keep {s w} (h : State.keep q s) : State.keep q (State.waitEnt s w) := by
  grind (ematch := 20) [State.waitEnt, keep_mk]

theorem State.serveEntWrite_keep {s a key w} (h : State.keep q s) : State.keep q (State.serveEntWrite s a key w) := by
  grind (ematch := 20) [State.serveEntWrite, State.complete_keep, State.powerOutcome_keep, State.applyVol_keep, State.journalWrite_keep]

theorem State.dictWrite_keep {s a key w} (h : State.keep q s) : State.keep q (State.dictWrite s a key w) := by
  grind (ematch := 20) [State.dictWrite, State.waitEnt_keep, State.serveEntWrite_keep]

theorem State.drawRead_keep {s key} (h : State.keep q s) : State.keep q (State.drawRead s key) := by
  grind (ematch := 20) [State.drawRead, keep_mk]

theorem State.dictRead_keep {s q1 key} (h : State.keep q s) : State.keep q (State.dictRead s q1 key).1 := by
  grind (ematch := 20) [State.dictRead, State.drawRead_keep]

theorem State.noteWin_keep {s m st key write} (h : State.keep q s) : State.keep q (State.noteWin s m st key write) := by
  grind (ematch := 20) [State.noteWin, State.modMail_keep]

theorem State.windowRead_keep {s m key} (h : State.keep q s) : State.keep q (State.windowRead s m key).1 := by
  grind (ematch := 20) [State.windowRead, State.dictRead_keep, State.noteWin_keep, keep_mk]

theorem State.windowWrite_keep {s m key v} (h : State.keep q s) : State.keep q (State.windowWrite s m key v) := by
  grind (ematch := 20) [State.windowWrite, State.dictWrite_keep, State.noteWin_keep, keep_mk]

theorem execDictWindowRead_keep {m index sub s t} (h : State.keep q s) (e : execDictWindowRead m index sub s = .next t) : State.keep q t := by
  grind (ematch := 20) [execDictWindowRead, State.served_keep, State.windowRead_keep, keep_mk]

theorem State.mailRead_keep {s m p} (h : State.keep q s) : State.keep q (State.mailRead s m p) := by
  grind (ematch := 20) [State.mailRead, State.waitEnt_keep, State.modMail_keep, State.dictRead_keep, State.mailDone_keep, keep_mk]

theorem State.mailWrite_keep {s m p} (h : State.keep q s) : State.keep q (State.mailWrite s m p) := by
  grind (ematch := 20) [State.mailWrite, State.modMail_keep, State.dictWrite_keep]

theorem State.mailCmd_keep {s m p op} (h : State.keep q s) : State.keep q (State.mailCmd s m p op) := by
  grind (ematch := 20) [State.mailCmd, State.mailRead_keep, State.mailWrite_keep]

theorem State.mailAccess_keep {s m p f} (h : State.keep q s) (hf : ∀ y0, State.keep q y0 → State.keep q (f y0)) : State.keep q (State.mailAccess s m p f) := by
  grind (ematch := 20) [State.mailAccess, keep_mk]

theorem execMbRead_keep {m p s t} (h : State.keep q s) (e : execMbRead m p s = .next t) : State.keep q t := by
  grind (ematch := 20) [execMbRead, State.served_keep, State.mailAccess_keep, State.mailCmd_keep]

theorem State.reqWrite_keep {s q1 key n} (h : State.keep q s) : State.keep q (State.reqWrite s q1 key n) := by
  unfold State.reqWrite
  split
  · exact ite_keep h (State.windowWrite_keep h)
  · exact State.dictWrite_keep h

theorem execCleanWays_keep {q0 v s t} (h : State.keep q s) (e : execCleanWays q0 v s = .next t) : State.keep q t := by
  grind (ematch := 20) [execCleanWays, State.reqWrite_keep]

theorem execSuspectClear_keep {q0 v s t} (h : State.keep q s) (e : execSuspectClear q0 v s = .next t) : State.keep q t := by
  grind (ematch := 20) [execSuspectClear, State.reqWrite_keep]

theorem execVoterRestartHold_keep {q0 i s t} (h : State.keep q s) (e : execVoterRestartHold q0 i s = .next t) : State.keep q t := by
  grind (ematch := 20) [execVoterRestartHold, State.reqWrite_keep]

theorem execVoterRestartRelease_keep {q0 i s t} (h : State.keep q s) (e : execVoterRestartRelease q0 i s = .next t) : State.keep q t := by
  grind (ematch := 20) [execVoterRestartRelease, State.reqWrite_keep]

theorem execHsRelease_keep {q0 i v s t} (h : State.keep q s) (e : execHsRelease q0 i v s = .next t) : State.keep q t := by
  grind (ematch := 20) [execHsRelease, State.reqWrite_keep]

theorem execHuskClaim_keep {q0 h1 s t} (h : State.keep q s) (e : execHuskClaim q0 h1 s = .next t) : State.keep q t := by
  grind (ematch := 20) [execHuskClaim, State.reqWrite_keep]

theorem execHuskSeal_keep {q0 h1 s t} (h : State.keep q s) (e : execHuskSeal q0 h1 s = .next t) : State.keep q t := by
  grind (ematch := 20) [execHuskSeal, State.reqWrite_keep]

theorem execPowerReq_keep {q0 d v s t} (h : State.keep q s) (e : execPowerReq q0 d v s = .next t) : State.keep q t := by
  simp only [execPowerReq, Host.Outcome.next.injEq] at e
  subst e
  exact State.served_keep h fun s h => State.reqWrite_keep h

theorem execPowerHold_keep {q0 d v s t} (h : State.keep q s) (e : execPowerHold q0 d v s = .next t) : State.keep q t := by
  simp only [execPowerHold, Host.Outcome.next.injEq] at e
  subst e
  exact State.served_keep h fun s h => State.reqWrite_keep h

theorem execDeviceReqSuspend_keep {q0 s t} (h : State.keep q s) (e : execDeviceReqSuspend q0 s = .next t) : State.keep q t := by
  grind (ematch := 20) [execDeviceReqSuspend, State.reqWrite_keep]

theorem execDeviceReqSleep_keep {q0 s t} (h : State.keep q s) (e : execDeviceReqSleep q0 s = .next t) : State.keep q t := by
  grind (ematch := 20) [execDeviceReqSleep, State.reqWrite_keep]

theorem execDeviceReqActive_keep {q0 s t} (h : State.keep q s) (e : execDeviceReqActive q0 s = .next t) : State.keep q t := by
  grind (ematch := 20) [execDeviceReqActive, State.reqWrite_keep]

theorem execPodMhz_keep {q0 p v s t} (h : State.keep q s) (e : execPodMhz q0 p v s = .next t) : State.keep q t := by
  grind (ematch := 20) [execPodMhz, State.reqWrite_keep]

theorem execSysreset_keep {q0 v s t} (h : State.keep q s) (e : execSysreset q0 v s = .next t) : State.keep q t := by
  grind (ematch := 20) [execSysreset, State.reqWrite_keep]

theorem execSmcWdt_keep {q0 v s t} (h : State.keep q s) (e : execSmcWdt q0 v s = .next t) : State.keep q t := by
  grind (ematch := 20) [execSmcWdt, State.reqWrite_keep]

theorem execGclApply_keep {q0 n v s t} (h : State.keep q s) (e : execGclApply q0 n v s = .next t) : State.keep q t := by
  grind (ematch := 20) [execGclApply, State.reqWrite_keep]

theorem execSglApply_keep {q0 g v s t} (h : State.keep q s) (e : execSglApply q0 g v s = .next t) : State.keep q t := by
  grind (ematch := 20) [execSglApply, State.reqWrite_keep]

theorem execQpEnable_keep {q0 v qp val s t} (h : State.keep q s) (e : execQpEnable q0 v qp val s = .next t) : State.keep q t := by
  simp only [execQpEnable, Host.Outcome.next.injEq] at e
  subst e
  exact State.served_keep h fun s h => State.reqWrite_keep h

theorem execCanRestart_keep {q0 n v s t} (h : State.keep q s) (e : execCanRestart q0 n v s = .next t) : State.keep q t := by
  grind (ematch := 20) [execCanRestart, State.reqWrite_keep]

theorem execChannelEnableOff_keep {q0 ch s t} (h : State.keep q s) (e : execChannelEnableOff q0 ch s = .next t) : State.keep q t := by
  grind (ematch := 20) [execChannelEnableOff, State.reqWrite_keep]

theorem execSchedRun_keep {q0 m v s t} (h : State.keep q s) (e : execSchedRun q0 m v s = .next t) : State.keep q t := by
  grind (ematch := 20) [execSchedRun, State.reqWrite_keep]

theorem execEnsignClaim_keep {q0 e1 s t} (h : State.keep q s) (e : execEnsignClaim q0 e1 s = .next t) : State.keep q t := by
  grind (ematch := 20) [execEnsignClaim, State.reqWrite_keep]

theorem execCalUnlock_keep {q0 v s t} (h : State.keep q s) (e : execCalUnlock q0 v s = .next t) : State.keep q t := by
  grind (ematch := 20) [execCalUnlock, State.reqWrite_keep]

theorem execCalEntryWrite_keep {q1 i u v s t} (h : State.keep q s) (e : execCalEntryWrite q1 i u v s = .next t) : State.keep q t := by
  simp only [execCalEntryWrite, Host.Outcome.next.injEq] at e
  subst e
  refine State.served_keep h fun s h => ?_
  split
  · exact State.windowWrite_keep h
  · exact State.dictWrite_keep h

theorem execSelfcalVmon_keep {q0 m s t} (h : State.keep q s) (e : execSelfcalVmon q0 m s = .next t) : State.keep q t := by
  grind (ematch := 20) [execSelfcalVmon, State.reqWrite_keep]

theorem execSelfcalClock_keep {q0 c s t} (h : State.keep q s) (e : execSelfcalClock q0 c s = .next t) : State.keep q t := by
  grind (ematch := 20) [execSelfcalClock, State.reqWrite_keep]

theorem execSelfcalSerdes_keep {q0 n s t} (h : State.keep q s) (e : execSelfcalSerdes q0 n s = .next t) : State.keep q t := by
  grind (ematch := 20) [execSelfcalSerdes, State.reqWrite_keep]

theorem execSelfcalHbmSeed_keep {q0 k s t} (h : State.keep q s) (e : execSelfcalHbmSeed q0 k s = .next t) : State.keep q t := by
  grind (ematch := 20) [execSelfcalHbmSeed, State.reqWrite_keep]

theorem execSelfcalDone_keep {result s t} (h : State.keep q s) (e : execSelfcalDone result s = .next t) : State.keep q t := by
  grind (ematch := 20) [execSelfcalDone, State.seedWrite_keep, State.setE_keep, State.setB_keep, keep_mk]

theorem execKeyRevoke_keep {q0 v s t} (h : State.keep q s) (e : execKeyRevoke q0 v s = .next t) : State.keep q t := by
  grind (ematch := 20) [execKeyRevoke, State.reqWrite_keep]

theorem execRetireClear_keep {q0 v s t} (h : State.keep q s) (e : execRetireClear q0 v s = .next t) : State.keep q t := by
  grind (ematch := 20) [execRetireClear, State.reqWrite_keep]

theorem execLedgerTail_keep {q0 v s t} (h : State.keep q s) (e : execLedgerTail q0 v s = .next t) : State.keep q t := by
  grind (ematch := 20) [execLedgerTail, State.reqWrite_keep]

theorem execDmEnable_keep {q0 n v s t} (h : State.keep q s) (e : execDmEnable q0 n v s = .next t) : State.keep q t := by
  simp only [execDmEnable, Host.Outcome.next.injEq] at e
  subst e
  exact State.served_keep h fun s h => State.reqWrite_keep h

end Sys2Proof.Machine
end

