-- ==== Sys2Proof/Laws/Keep/Regs.lean ====
section
/-! SUPPORT. The operations of Machine/Regs.lean leave the queue and the canonical form of the tables. -/
namespace Sys2Proof.Machine

set_option Elab.async false

variable {q : List Instr}

theorem State.mailRegWrite_keep {s m p off v mask t} (h : State.keep q s) (e : State.mailRegWrite s m p off v mask = some t) : State.keep q t := by
  unfold State.mailRegWrite at e
  grind (ematch := 20) [State.modMail_keep, State.mailCmd_keep, State.mailLine_keep]

theorem State.viRegWrite_keep {s v off w mask t} (h : State.keep q s) (e : State.viRegWrite s v off w mask = some t) : State.keep q t := by
  grind (ematch := 20) [State.viRegWrite, State.viClear_keep, State.viLine_keep, State.putVi_keep, State.txTailWrite_keep, State.rxTailWrite_keep]

theorem State.envRegWrite_keep {s off v mask t} (h : State.keep q s) (e : State.envRegWrite s off v mask = some t) : State.keep q t := by
  unfold State.envRegWrite at e
  grind (ematch := 20) [State.envClear_keep, State.envLine_keep, keep_mk]

theorem State.blockRead_keep {s x1 b off} (h : State.keep q s) : State.keep q (State.blockRead s x1 b off).1 := by
  unfold State.blockRead
  dsimp only
  repeat' split
  all_goals grind (ematch := 20) [State.irqRegRead_keep, State.windowRead_keep, keep_mk, foldl_keep, foldl_keep_fst]

theorem State.regRead8_keep {s x} (h : State.keep q s) : State.keep q (State.regRead8 s x).1 := State.blockRead_keep h

theorem State.regRead_keep {s x1} (h : State.keep q s) : State.keep q (State.regRead s x1).1 := by
  unfold State.regRead
  split <;> grind (ematch := 20) [State.regRead8_keep, State.meshRead_keep, keep_mk, foldl_keep, foldl_keep_fst]

theorem State.blockWrite_keep {s x v mask b off t} (h : State.keep q s) (e : State.blockWrite s x v mask b off = .ok t) : State.keep q t := by
  have w {o : Option State} (ho : ∀ t, o = some t → State.keep q t)
      (e : (match o with | some s => Except.ok s | none => Except.error Resp.decerr) = Except.ok t) : State.keep q t := by
    cases o with
    | none => simp at e
    | some u => exact ho t (congrArg some (Except.ok.inj e))
  cases b <;> simp only [State.blockWrite] at e
  case mailbox p => exact w (fun _ => State.mailRegWrite_keep h) e
  case irq => exact State.irqRegWrite_keep h e
  case fault k => exact w (fun _ => State.fbWrite_keep h) e
  case dm n => exact w (fun _ => State.dmRegWrite_keep h) e
  case vi k => exact w (fun _ => State.viRegWrite_keep h) e
  case island i =>
    split at e
    · exact w (fun _ => State.islWrite_keep h) e
    · split at e <;> simp at e
  case envelope =>
    split at e
    · rename_i u hu
      exact Except.ok.inj e ▸ State.envRegWrite_keep h hu
    · simp at e
  case gpio => exact w (fun _ => State.gpioWrite_keep h) e
  case window => exact Except.ok.inj e ▸ State.windowWrite_keep h
  all_goals simp at e

theorem State.regWrite8_keep {s x v mask t} (h : State.keep q s) (e : State.regWrite8 s x v mask = .ok t) : State.keep q t := State.blockWrite_keep h e

theorem State.regWrite_keep {s x v t} (h : State.keep q s) (e : State.regWrite s x v = .ok t) : State.keep q t := by
  unfold State.regWrite at e
  have h1 := State.meshWrite_keep (q := q) (m := x.m) (a := x.addr) (n := x.size) h
  dsimp only at e
  repeat' split at e
  all_goals first
    | exact State.regWrite8_keep h1 e
    | simp at e
  all_goals grind [State.regWrite8_keep]

end Sys2Proof.Machine
end

