-- ==== Sys2Proof/Laws/Keep/Translate.lean ====
section
/-! SUPPORT. The operations of Machine/Translate.lean leave the queue and the canonical form of the tables. -/
namespace Sys2Proof.Machine

set_option Elab.async false

variable {q : List Instr}

theorem State.modA_keep {s c f} (h : State.keep q s) : State.keep q (State.modA s c f) := by
  grind (ematch := 20) [State.modA, keep_mk]

theorem State.note_keep {s c e2} (h : State.keep q s) : State.keep q (State.note s c e2) := by
  grind (ematch := 20) [State.note, State.modA_keep]

theorem State.insertFree_keep {x0 inst s n ways l x6} (h : State.keep q s) : State.keep q (@State.insertFree x0 inst s n ways l x6).1 := by
  grind (ematch := 20) [State.insertFree, keep_mk]

theorem State.walkPut_keep {s c w} (h : State.keep q s) : State.keep q (State.walkPut s c w) := by
  grind (ematch := 20) [State.walkPut, State.insertFree_keep, State.modA_keep]

theorem State.tlbPut_keep {s c e2} (h : State.keep q s) : State.keep q (State.tlbPut s c e2) := by
  grind (ematch := 20) [State.tlbPut, State.insertFree_keep, State.modA_keep]

theorem State.walkGo_keep {k stage2 x2 read flt a a6 a7 a8} (h : State.keep q a8) (hread : ∀ y0 y1 y2, State.keep q y2 → State.keep q (read y0 y1 y2).1) : State.keep q (State.walkGo k stage2 x2 read flt a a6 a7 a8).1 := by
  fun_induction State.walkGo k stage2 x2 read flt a a6 a7 a8 <;> grind (ematch := 20) []

theorem State.walkDone_keep {s c l} (h : State.keep q s) : State.keep q (State.walkDone s c l) := by
  grind (ematch := 20) [State.walkDone, State.walkPut_keep, foldl_keep]

theorem State.walkRead_keep {s k p t3} (h : State.keep q s) : State.keep q (State.walkRead s k p t3).1 := by
  grind (ematch := 20) [State.walkRead, State.huskRecord_keep, State.homePeek_keep, State.memRead_keep]

theorem State.read2_keep {k ipa lvl ea s} (h : State.keep q s) : State.keep q (State.read2 k ipa lvl ea s).1 := by
  grind (ematch := 20) [State.read2, State.walkRead_keep]

theorem State.walk2_keep {s k ipa tbl} (h : State.keep q s) : State.keep q (State.walk2 s k ipa tbl).1 := by
  grind (ematch := 20) [State.walk2, State.walkGo_keep, State.read2_keep]

theorem State.casEntry_keep {s c p seen write} (h : State.keep q s) : State.keep q (State.casEntry s c p seen write).1 := by
  grind (ematch := 20) [State.casEntry, State.homeAtomic_keep, State.memRead_keep, State.memWrite_keep]

theorem State.updateAt_keep {s k p e3 write} (h : State.keep q s) : State.keep q (State.updateAt s k p e3 write).1 := by
  grind (ematch := 20) [State.updateAt, State.casEntry_keep]

theorem State.tblOnce_keep {s k ipa write} (h : State.keep q s) : State.keep q (State.tblOnce s k ipa write).1 := by
  grind (ematch := 20) [State.tblOnce, State.walk2_keep, State.updateAt_keep, State.walkDone_keep, State.tlbPut_keep]

theorem tryWalk_keep {x0 f a a3} (h : State.keep q a3) (hf : ∀ y0, State.keep q y0 → State.keep q (f y0).1) : State.keep q (@tryWalk x0 f a a3).1 := by
  fun_induction @tryWalk x0 f a a3 <;> grind (ematch := 20) [keep_mk]

theorem State.tblPage_keep {s k ipa write} (h : State.keep q s) : State.keep q (State.tblPage s k ipa write).1 := by
  grind (ematch := 20) [State.tblPage, tryWalk_keep, State.tblOnce_keep]

theorem State.read1_keep {k lvl ea s} (h : State.keep q s) : State.keep q (State.read1 k lvl ea s).1 := by
  grind (ematch := 20) [State.read1, State.tblPage_keep, State.walkRead_keep]

theorem State.walk1_keep {s k va} (h : State.keep q s) : State.keep q (State.walk1 s k va).1 := by
  grind (ematch := 20) [State.walk1, State.walkGo_keep, State.read1_keep]

theorem State.stage2_keep {s k ipa} (h : State.keep q s) : State.keep q (State.stage2 s k ipa).1 := by
  grind (ematch := 20) [State.stage2, State.walk2_keep]

theorem State.update1_keep {s k l} (h : State.keep q s) : State.keep q (State.update1 s k l).1 := by
  grind (ematch := 20) [State.update1, State.tblPage_keep, State.casEntry_keep]

theorem State.tlbServe_keep {s k va e3} (h : State.keep q s) : State.keep q (State.tlbServe s k va e3).1 := by
  grind (ematch := 20) [State.tlbServe, State.tlbPut_keep]

theorem State.tlbFill_keep {s k e2} (h : State.keep q s) : State.keep q (State.tlbFill s k e2) := by
  grind (ematch := 20) [State.tlbFill, State.tlbPut_keep]

theorem State.directRing0_keep {s k va} (h : State.keep q s) : State.keep q (State.directRing0 s k va).1 := by
  unfold State.directRing0
  split <;> grind (ematch := 20) [State.stage2_keep, State.updateAt_keep, State.walkDone_keep, keep_mk, foldl_keep, foldl_keep_fst]

theorem State.stage2?_keep {s k oa} (h : State.keep q s) : State.keep q (State.stage2? s k oa).1 := by
  grind (ematch := 20) [State.stage2?, State.stage2_keep]

theorem State.updateBoth_keep {s k l1 l2} (h : State.keep q s) : State.keep q (State.updateBoth s k l1 l2).1 := by
  grind (ematch := 20) [State.updateBoth, State.update1_keep, State.updateAt_keep]

theorem State.walkOnce_keep {s k va} (h : State.keep q s) : State.keep q (State.walkOnce s k va).1 := by
  unfold State.walkOnce
  dsimp only
  repeat' split
  all_goals grind (ematch := 20) [State.walk1_keep, State.stage2?_keep, State.updateBoth_keep, State.walkDone_keep, State.tlbFill_keep, keep_mk, foldl_keep, foldl_keep_fst]

theorem State.walkBoth_keep {s k va} (h : State.keep q s) : State.keep q (State.walkBoth s k va).1 := by
  unfold State.walkBoth
  grind (ematch := 20) [tryWalk_keep, State.walkOnce_keep, keep_mk, foldl_keep, foldl_keep_fst]

theorem State.noteTlb_keep {s k hits} (h : State.keep q s) : State.keep q (State.noteTlb s k hits) := by
  grind (ematch := 20) [State.noteTlb, State.note_keep]

theorem State.translate_keep {s k va} (h : State.keep q s) : State.keep q (State.translate s k va).1 := by
  unfold State.translate
  dsimp only
  repeat' split
  all_goals grind (ematch := 20) [tryWalk_keep, State.directRing0_keep, State.noteTlb_keep, State.walkBoth_keep, State.tlbServe_keep, State.pick_keep, keep_mk, foldl_keep, foldl_keep_fst]

theorem State.xlate_keep {s k va} (h : State.keep q s) : State.keep q (State.xlate s k va).1 := by
  grind (ematch := 20) [State.xlate, State.translate_keep]

theorem State.xlateParts_keep {k a a2} (h : State.keep q a2) : State.keep q (State.xlateParts k a a2).1 := by
  fun_induction State.xlateParts k a a2 <;> grind (ematch := 20) [State.xlate_keep]

end Sys2Proof.Machine
end

