-- ==== Sys2Proof/Laws/Keep/CoreMem.lean ====
section
/-! SUPPORT. The operations of Machine/CoreMem.lean leave the queue and the canonical form of the tables. -/
namespace Sys2Proof.Machine

set_option Elab.async false

variable {q : List Instr}

theorem State.typeAt_keep {s k va} (h : State.keep q s) : State.keep q (State.typeAt s k va).1 := by
  grind (ematch := 20) [State.typeAt, State.translate_keep, keep_mk]

theorem State.pagesRule_keep {k rule at_ a a4} (h : State.keep q a4) : State.keep q (State.pagesRule k rule at_ a a4).1 := by
  fun_induction State.pagesRule k rule at_ a a4 <;> grind (ematch := 20) [State.typeAt_keep]

theorem State.pages_keep {k a a2} (h : State.keep q a2) : State.keep q (State.pages k a a2).1 := by
  fun_induction State.pages k a a2 <;> grind (ematch := 20) [State.xlate_keep]

theorem State.accsOf_keep {s k rule va n} (h : State.keep q s) : State.keep q (State.accsOf s k rule va n).1 := by
  grind (ematch := 20) [State.accsOf, State.pagesRule_keep, State.pages_keep]

theorem State.devWrite_keep {s c x2 b t} (h : State.keep q s) (e : State.devWrite s c x2 b = .ok t) : State.keep q t := by
  grind (ematch := 20) [State.devWrite, State.regWrite_keep, State.coreWrite_keep, State.memWrite_keep]

theorem State.arrive_keep {s c p} (h : State.keep q s) : State.keep q (State.arrive s c p) := by
  grind (ematch := 20) [State.arrive, State.devWrite_keep, State.postedError_keep]

theorem State.arriveSome_keep {s c must} (h : State.keep q s) : State.keep q (State.arriveSome s c must) := by
  unfold State.arriveSome
  dsimp only
  repeat' split
  all_goals grind (ematch := 20) [State.arrive_keep, State.draw_keep, State.modA_keep, keep_mk, foldl_keep, foldl_keep_fst]

theorem State.arriveAll_keep {s c} (h : State.keep q s) : State.keep q (State.arriveAll s c) := by
  grind (ematch := 20) [State.arriveAll, State.arriveSome_keep]

theorem State.arriveAt_keep {s c a} (h : State.keep q s) : State.keep q (State.arriveAt s c a) := by
  grind (ematch := 20) [State.arriveAt, State.arriveSome_keep]

theorem State.predPut_keep {s c kind addr hist path target taken} (h : State.keep q s) : State.keep q (State.predPut s c kind addr hist path target taken) := by
  grind (ematch := 20) [State.predPut, State.insertFree_keep, State.modA_keep]

theorem State.missFor_keep {s c line} (h : State.keep q s) : State.keep q (State.missFor s c line).1 := by
  grind (ematch := 20) [State.missFor, State.note_keep, State.modA_keep]

theorem State.readAcc_keep {s c x2 ev} (h : State.keep q s) : State.keep q (State.readAcc s c x2 ev).1 := by
  unfold State.readAcc
  dsimp only
  repeat' split
  all_goals grind (ematch := 20) [State.regRead_keep, State.coreLine_keep, State.eccEvent_keep, State.memRead_keep, keep_mk, foldl_keep, foldl_keep_fst]

theorem State.readAccs_keep {c ev a a3} (h : State.keep q a3) : State.keep q (State.readAccs c ev a a3).1 := by
  fun_induction State.readAccs c ev a a3 <;> grind (ematch := 20) [State.readAcc_keep]

theorem State.missEach_keep {c a a2} (h : State.keep q a2) : State.keep q (State.missEach c a a2).1 := by
  fun_induction State.missEach c a a2 <;> grind (ematch := 20) [State.missFor_keep]

theorem State.missAll_keep {c l s} (h : State.keep q s) : State.keep q (State.missAll c l s).1 := by
  grind (ematch := 20) [State.missAll, State.missEach_keep, State.note_keep]

theorem State.depend_keep {s c l} (h : State.keep q s) : State.keep q (State.depend s c l) := by
  grind (ematch := 20) [State.depend, State.draw_keep, State.note_keep, State.predPut_keep]

theorem State.readSplit_keep {s c ev l} (h : State.keep q s) : State.keep q (State.readSplit s c ev l).1 := by
  unfold State.readSplit
  dsimp only
  repeat' split
  all_goals grind (ematch := 20) [State.readAccs_keep, State.modA_keep, State.draw_keep, keep_mk, foldl_keep, foldl_keep_fst]

theorem State.coreLoad_keep {s k rule va n ev mr} (h : State.keep q s) : State.keep q (State.coreLoad s k rule va n ev mr).1 := by
  unfold State.coreLoad
  dsimp only
  repeat' split
  all_goals grind (ematch := 20) [State.accsOf_keep, State.arriveAt_keep, State.drainAll_keep, State.modA_keep, State.note_keep, State.depend_keep, State.missAll_keep, State.readSplit_keep, State.readAccs_keep, keep_mk, foldl_keep, foldl_keep_fst]

theorem State.readNow_keep {s k va n} (h : State.keep q s) : State.keep q (State.readNow s k va n).1 := by
  grind (ematch := 20) [State.readNow, State.coreLoad_keep, State.drainAll_keep]

theorem State.devStore_keep {s c x b} (h : State.keep q s) : State.keep q (State.devStore s c x b).1 := by
  unfold State.devStore
  split
  · exact State.arriveSome_keep (State.modA_keep h)
  · split
    · rename_i u hu; exact State.devWrite_keep (State.arriveAt_keep h) hu
    · exact State.arriveAt_keep h

theorem State.devStores_keep {c x1 a a3 a4} (h : State.keep q a4) : State.keep q (State.devStores c x1 a a3 a4).1 := by
  fun_induction State.devStores c x1 a a3 a4 <;> grind (ematch := 20) [State.devStore_keep]

theorem State.sbPush_keep {s c e2} (h : State.keep q s) : State.keep q (State.sbPush s c e2) := by
  grind (ematch := 20) [State.sbPush, State.drainStore_keep, State.modA_keep]

theorem State.commitStore_keep {s k l b} (h : State.keep q s) : State.keep q (State.commitStore s k l b).1 := by
  unfold State.commitStore
  grind (ematch := 20) [State.devStores_keep, State.drainAll_keep, State.sbPush_keep]

theorem State.coreStore_keep {s k rule va b} (h : State.keep q s) : State.keep q (State.coreStore s k rule va b).1 := by
  grind (ematch := 20) [State.coreStore, State.accsOf_keep, State.commitStore_keep]

end Sys2Proof.Machine
end

