-- ==== Sys2Proof/Laws/Keep/Ops.lean ====
section
/-! SUPPORT. The operations of Machine/Ops.lean leave the queue and the canonical form of the tables. -/
namespace Sys2Proof.Machine

set_option Elab.async false

variable {q : List Instr}

theorem State.setG_keep {s c r v} (h : State.keep q s) : State.keep q (State.setG s c r v) := by
  grind (ematch := 20) [State.setG, State.modA_keep]

theorem State.setF_keep {s c r v} (h : State.keep q s) : State.keep q (State.setF s c r v) := by
  grind (ematch := 20) [State.setF, State.modA_keep]

theorem State.push_keep {s k sp b} (h : State.keep q s) : State.keep q (State.push s k sp b).1 := by
  grind (ematch := 20) [State.push, State.coreStore_keep]

theorem State.hardStop_keep {s c pos vec pc} (h : State.keep q s) : State.keep q (State.hardStop s c pos vec pc) := by
  grind (ematch := 20) [State.hardStop, State.record_keep, State.modA_keep]

theorem State.pushEntry_keep {s c h2 f sv} (h : State.keep q s) : State.keep q (State.pushEntry s c h2 f sv).1 := by
  grind (ematch := 20) [State.pushEntry, State.push_keep, State.modA_keep]

theorem State.enterAt_keep {c n hl f sv s} (h : State.keep q s) : State.keep q (State.enterAt c n hl f sv s) := by
  induction n generalizing hl f sv s with
  | zero => exact State.hardStop_keep h
  | succ n ih =>
    unfold State.enterAt
    extract_lets a here esc
    have hesc (u : State) (v cause : Nat) (f : Exn) (k : State.keep q u) : State.keep q (esc u v cause f) := by
      show State.keep q (if _ then _ else _)
      split
      · exact ih k
      · exact State.hardStop_keep k
    clear_value esc a here
    split
    · exact hesc _ _ _ _ h
    · have k1 := State.pushEntry_keep (c := c) (h2 := hl) (f := f) (sv := sv) h
      generalize s.pushEntry c hl f sv = p at *
      obtain ⟨s1, r⟩ := p
      cases r with
      | error e => exact hesc _ _ _ _ k1
      | ok f' =>
        dsimp only
        split
        · rename_i e2; exact hesc _ _ _ _ (pair_keep (State.readNow_keep (State.modA_keep k1)) e2)
        · rename_i e2
          have k2 := pair_keep (State.readNow_keep (State.modA_keep k1)) e2
          split
          · exact hesc _ _ _ _ k2
          · exact State.modA_keep k2

theorem State.writeSlot_keep {s c r vec pc} (h : State.keep q s) : State.keep q (State.writeSlot s c r vec pc) := by
  grind (ematch := 20) [State.writeSlot, State.drainAll_keep, State.record_keep, State.coreWrite_keep, foldl_keep]

theorem State.asyncExit_keep {s c r vec pc write} (h : State.keep q s) : State.keep q (State.asyncExit s c r vec pc write).1 := by
  grind (ematch := 20) [State.asyncExit, State.writeSlot_keep, State.modA_keep]

theorem State.raiseAt_keep {s c f pc ds prio virt writeSlot} (h : State.keep q s) : State.keep q (State.raiseAt s c f pc ds prio virt writeSlot) := by
  grind (ematch := 20) [State.raiseAt, State.modA_keep, State.asyncExit_keep, State.enterAt_keep]

theorem State.raise_keep {s c f} (h : State.keep q s) : State.keep q (State.raise s c f) := by
  grind (ematch := 20) [State.raise, State.raiseAt_keep]

theorem State.forcedExit_keep {s c} (h : State.keep q s) : State.keep q (State.forcedExit s c) := by
  grind (ematch := 20) [State.forcedExit, State.modA_keep, State.raiseAt_keep]

theorem State.settleForced_keep {s} (h : State.keep q s) : State.keep q (State.settleForced s) := by
  grind (ematch := 20) [State.settleForced, State.forcedExit_keep, foldl_keep]

theorem State.eret_keep {s c} (h : State.keep q s) : State.keep q (State.eret s c).1 := by
  grind (ematch := 20) [State.eret, State.readNow_keep, State.modA_keep]

theorem State.argPage_keep {s k p n a} (h : State.keep q s) : State.keep q (State.argPage s k p n a).1 := by
  grind (ematch := 20) [State.argPage, State.xlate_keep, keep_mk]

theorem State.argPages_keep {k p n a a4} (h : State.keep q a4) : State.keep q (State.argPages k p n a a4).1 := by
  fun_induction State.argPages k p n a a4 <;> grind (ematch := 20) [State.argPage_keep]

theorem State.argBad_keep {s k p n} (h : State.keep q s) : State.keep q (State.argBad s k p n).1 := by
  grind (ematch := 20) [State.argBad, State.argPages_keep]

theorem State.argCheck_keep {s c code p n} (h : State.keep q s) : State.keep q (State.argCheck s c code p n).1 := by
  grind (ematch := 20) [State.argCheck, State.argBad_keep]

theorem State.gateArgs_keep {c n d a a4} (h : State.keep q a4) : State.keep q (State.gateArgs c n d a a4).1 := by
  fun_induction State.gateArgs c n d a a4 <;> grind (ematch := 20) [State.argCheck_keep]

theorem State.huskGateOk_keep {s c d} (h : State.keep q s) : State.keep q (State.huskGateOk s c d).1 := by
  grind (ematch := 20) [State.huskGateOk, State.translate_keep]

theorem State.huskResume_keep {s c n d sl} (h : State.keep q s) : State.keep q (State.huskResume s c n d sl).1 := by
  grind (ematch := 20) [State.huskResume, State.modA_keep, State.clearSlot_keep]

theorem State.huskGate_keep {s c n d} (h : State.keep q s) : State.keep q (State.huskGate s c n d).1 := by
  grind (ematch := 20) [State.huskGate, State.huskGateOk_keep, State.drainAll_keep, State.huskResume_keep, State.push_keep, State.modA_keep]

theorem State.ringGate_keep {s c n d} (h : State.keep q s) : State.keep q (State.ringGate s c n d).1 := by
  grind (ematch := 20) [State.ringGate, State.push_keep, State.modA_keep]

theorem State.gate_keep {s c n} (h : State.keep q s) : State.keep q (State.gate s c n).1 := by
  unfold State.gate
  dsimp only
  repeat' split
  all_goals grind (ematch := 20) [State.readNow_keep, State.gateArgs_keep, State.huskGate_keep, State.ringGate_keep, keep_mk, foldl_keep, foldl_keep_fst]

theorem State.huskGret_keep {s c r} (h : State.keep q s) : State.keep q (State.huskGret s c r).1 := by
  grind (ematch := 20) [State.huskGret, State.drainAll_keep, State.modA_keep]

theorem State.gret_keep {s c} (h : State.keep q s) : State.keep q (State.gret s c).1 := by
  grind (ematch := 20) [State.gret, State.huskGret_keep, State.readNow_keep, State.modA_keep]

end Sys2Proof.Machine
end

