-- ==== Sys2Proof/Laws/Keep/AExec.lean ====
section
/-! SUPPORT. The operations of Machine/AExec.lean leave the queue and the canonical form of the tables. -/
namespace Sys2Proof.Machine

set_option Elab.async false

variable {q : List Instr}

theorem State.haltTry_keep {s c} (h : State.keep q s) : State.keep q (State.haltTry s c) := by
  grind (ematch := 20) [State.haltTry, State.modA_keep]

theorem State.pmLine_keep {s c} (h : State.keep q s) : State.keep q (State.pmLine s c) := by
  grind (ematch := 20) [State.pmLine, State.setLine_keep]

theorem State.countIn_keep {c x1 evs s n} (h : State.keep q s) : State.keep q (State.countIn c x1 evs s n) := by
  grind (ematch := 20) [State.countIn, State.modA_keep, keep_mk]

theorem State.mispredict_keep {s evs} (h : State.keep q s) : State.keep q (State.mispredict s evs).1 := by
  grind (ematch := 20) [State.mispredict, State.draw_keep]

theorem State.count_keep {s c x2 evs} (h : State.keep q s) : State.keep q (State.count s c x2 evs) := by
  grind (ematch := 20) [State.count, State.mispredict_keep, State.pmLine_keep, State.countIn_keep, foldl_keep]

theorem State.retPush_keep {s c pc} (h : State.keep q s) : State.keep q (State.retPush s c pc) := by
  grind (ematch := 20) [State.retPush, State.modA_keep]

theorem State.retPop_keep {s c} (h : State.keep q s) : State.keep q (State.retPop s c) := by
  grind (ematch := 20) [State.retPop, State.modA_keep]

theorem State.l1iFill_keep {s c line} (h : State.keep q s) : State.keep q (State.l1iFill s c line) := by
  grind (ematch := 20) [State.l1iFill, State.pick_keep, State.modA_keep]

theorem State.fetchLine_keep {s c line type pc} (h : State.keep q s) : State.keep q (State.fetchLine s c line type pc).1 := by
  grind (ematch := 20) [State.fetchLine, State.l1CrcError_keep, State.note_keep, State.coreLine_keep, State.l1iFill_keep]

theorem State.fetch_keep {s c} (h : State.keep q s) : State.keep q (State.fetch s c).1 := by
  grind (ematch := 20) [State.fetch, State.xlate_keep, State.regRead_keep, State.fetchLine_keep]

theorem State.commit_keep {s c x2 evs} (h : State.keep q s) : State.keep q (State.commit s c x2 evs) := by
  grind (ematch := 20) [State.commit, State.count_keep, State.modA_keep, keep_mk]

theorem State.stepDone_keep {s c} (h : State.keep q s) : State.keep q (State.stepDone s c) := by
  grind (ematch := 20) [State.stepDone, State.haltTry_keep, State.modA_keep]

theorem State.finishA_keep {s c x2 f evs} (h : State.keep q s) : State.keep q (State.finishA s c x2 f evs) := by
  unfold State.finishA
  grind (ematch := 20) [State.stepDone_keep, State.raise_keep, State.raiseAt_keep, State.commit_keep, State.haltTry_keep, State.modA_keep]

theorem State.wakeWfi_keep {s c} (h : State.keep q s) : State.keep q (State.wakeWfi s c) := by
  grind (ematch := 20) [State.wakeWfi, State.modA_keep]

theorem State.aRun_keep {s c w body} (h : State.keep q s) (hbody : ∀ y0 y1, State.keep q y1 → State.keep q (body y0 y1).1) : State.keep q (State.aRun s c w body) := by
  grind (ematch := 20) [State.aRun, State.finishA_keep]

theorem State.aStep_keep {s c w body} (h : State.keep q s) (hbody : ∀ y0 y1, State.keep q y1 → State.keep q (body y0 y1).1) : State.keep q (State.aStep s c w body) := by
  grind (ematch := 20) [State.aStep, State.served_keep, State.haltTry_keep, State.wakeWfi_keep, State.forcedExit_keep, State.fetch_keep, State.finishA_keep, State.aRun_keep]

theorem aLacks_keep {w a a2} (h : State.keep q a2) : State.keep q (aLacks w a a2).1 := by
  grind (ematch := 20) [aLacks]

end Sys2Proof.Machine
end

