-- ==== Sys2Proof/Laws/Keep/ABody.lean ====
section
/-! SUPPORT. The operations of Machine/ABody.lean leave the queue and the canonical form of the tables. -/
namespace Sys2Proof.Machine

set_option Elab.async false

variable {q : List Instr}

theorem aReg_keep {c a a2} (h : State.keep q a2) : State.keep q (aReg c a a2).1 := by
  grind (ematch := 20) [aReg, State.setG_keep]

theorem aFloat_keep {c w a a3} (h : State.keep q a3) : State.keep q (aFloat c w a a3).1 := by
  unfold aFloat
  split <;> grind (ematch := 20) [State.modA_keep, State.setF_keep, State.setG_keep, keep_mk]

theorem State.learnBranch_keep {s c taken} (h : State.keep q s) : State.keep q (State.learnBranch s c taken) := by
  grind (ematch := 20) [State.learnBranch, State.draw_keep, State.predPut_keep, State.modA_keep]

theorem State.learnTarget_keep {s c indirect tgt} (h : State.keep q s) : State.keep q (State.learnTarget s c indirect tgt) := by
  grind (ematch := 20) [State.learnTarget, State.predPut_keep, State.modA_keep]

theorem State.callPush_keep {s c} (h : State.keep q s) : State.keep q (State.callPush s c) := by
  grind (ematch := 20) [State.callPush, State.retPush_keep]

theorem aBranch_keep {c a a2} (h : State.keep q a2) : State.keep q (aBranch c a a2).1 := by
  unfold aBranch
  dsimp only
  repeat' split
  all_goals grind (ematch := 20) [State.learnBranch_keep, State.learnTarget_keep, keep_mk, foldl_keep, foldl_keep_fst]

theorem aJump_keep {c a a2} (h : State.keep q a2) : State.keep q (aJump c a a2).1 := by
  unfold aJump
  dsimp only
  repeat' split
  all_goals grind (ematch := 20) [State.learnTarget_keep, State.setG_keep, State.callPush_keep, keep_mk, foldl_keep, foldl_keep_fst]

theorem aRegJump_keep {c w a a3} (h : State.keep q a3) : State.keep q (aRegJump c w a a3).1 := by
  unfold aRegJump
  dsimp only
  repeat' split
  all_goals grind (ematch := 20) [State.learnTarget_keep, State.retPop_keep, State.setG_keep, State.callPush_keep, keep_mk, foldl_keep, foldl_keep_fst]

theorem aLoad_keep {c w ev a a4} (h : State.keep q a4) : State.keep q (aLoad c w ev a a4).1 := by
  unfold aLoad
  grind (ematch := 20) [State.coreLoad_keep, State.modA_keep, State.setF_keep, State.setG_keep]

theorem aStore_keep {c a a2} (h : State.keep q a2) : State.keep q (aStore c a a2).1 := by
  unfold aStore
  grind (ematch := 20) [State.coreStore_keep]

theorem State.amoAt_keep {s c x2 op v cmp} (h : State.keep q s) : State.keep q (State.amoAt s c x2 op v cmp).1 := by
  grind (ematch := 20) [State.amoAt, State.ownLine_keep, State.l2Write_keep, State.homeAtomic_keep, State.memRead_keep, State.memWrite_keep]

theorem State.amoAcc_keep {s k va n} (h : State.keep q s) : State.keep q (State.amoAcc s k va n).1 := by
  grind (ematch := 20) [State.amoAcc, State.accsOf_keep]

theorem aAmo_keep {c a a2} (h : State.keep q a2) : State.keep q (aAmo c a a2).1 := by
  unfold aAmo
  split <;> grind (ematch := 20) [State.drainAll_keep, State.amoAcc_keep, State.amoAt_keep, State.setG_keep]

theorem aLda_keep {c a a2} (h : State.keep q a2) : State.keep q (aLda c a a2).1 := by
  unfold aLda
  dsimp only
  repeat' split
  all_goals grind (ematch := 20) [State.drainAll_keep, State.coreLoad_keep, State.modA_keep, State.setG_keep, keep_mk, foldl_keep, foldl_keep_fst]

theorem aStl_keep {c a a2} (h : State.keep q a2) : State.keep q (aStl c a a2).1 := by
  unfold aStl
  grind (ematch := 20) [State.drainAll_keep, State.coreStore_keep]

theorem State.unitRead_keep {s c va n} (h : State.keep q s) : State.keep q (State.unitRead s c va n).1 := by
  grind (ematch := 20) [State.unitRead, State.coreLoad_keep]

theorem State.unitWrite_keep {s c va b} (h : State.keep q s) : State.keep q (State.unitWrite s c va b).1 := by
  grind (ematch := 20) [State.unitWrite, State.coreStore_keep]

theorem blkUnit_keep {x0 get set rdMem wrMem op rd rs1 rs2 s} (h : State.keep q s) (hset : ∀ y0 y1 y2, State.keep q y0 → State.keep q (set y0 y1 y2)) (hrdMem : ∀ y0 y1 y2, State.keep q y0 → State.keep q (rdMem y0 y1 y2).1) (hwrMem : ∀ y0 y1 y2, State.keep q y0 → State.keep q (wrMem y0 y1 y2).1) : State.keep q (@blkUnit x0 get set rdMem wrMem op rd rs1 rs2 s).1 := by
  unfold blkUnit
  grind (ematch := 20) []

theorem State.unitA_keep {s c op rd rs1 rs2} (h : State.keep q s) : State.keep q (State.unitA s c op rd rs1 rs2).1 := by
  grind (ematch := 20) [State.unitA, blkUnit_keep, State.setG_keep, State.unitRead_keep, State.unitWrite_keep]

theorem State.unitsA_keep {c op rd rs1 rs2 a a6} (h : State.keep q a6) : State.keep q (State.unitsA c op rd rs1 rs2 a a6).1 := by
  fun_induction State.unitsA c op rd rs1 rs2 a a6 <;> grind (ematch := 20) [State.unitA_keep, State.modA_keep]

theorem aBlock_keep {c w units a a4} (h : State.keep q a4) : State.keep q (aBlock c w units a a4).1 := by
  unfold aBlock
  grind (ematch := 20) [State.drainAll_keep, State.unitsA_keep]

theorem aMfs_keep {c w a a3} (h : State.keep q a3) : State.keep q (aMfs c w a a3).1 := by
  unfold aMfs
  grind (ematch := 20) [State.drainAll_keep, State.setG_keep]

theorem aMts_keep {c w a a3} (h : State.keep q a3) : State.keep q (aMts c w a a3).1 := by
  unfold aMts
  grind (ematch := 20) [State.drainAll_keep, State.modA_keep, State.pmLine_keep]

theorem aEret_keep {c w a a3} (h : State.keep q a3) : State.keep q (aEret c w a a3).1 := by
  unfold aEret
  grind (ematch := 20) [State.eret_keep, State.modA_keep]

theorem aGate_keep {c w a a3} (h : State.keep q a3) : State.keep q (aGate c w a a3).1 := by
  unfold aGate
  grind (ematch := 20) [State.gate_keep]

theorem aGret_keep {c w a a3} (h : State.keep q a3) : State.keep q (aGret c w a a3).1 := by
  unfold aGret
  grind (ematch := 20) [State.gret_keep]

theorem aFence_keep {c a a2} (h : State.keep q a2) : State.keep q (aFence c a a2).1 := by
  unfold aFence
  dsimp only
  repeat' split
  all_goals grind (ematch := 20) [State.drainAll_keep, State.arriveAll_keep, keep_mk, foldl_keep, foldl_keep_fst]

theorem State.tlbEffect_keep {s t1} (h : State.keep q s) : State.keep q (State.tlbEffect s t1) := by
  grind (ematch := 20) [State.tlbEffect, State.modA_keep]

theorem aFenceT_keep {c a a2} (h : State.keep q a2) : State.keep q (aFenceT c a a2).1 := by
  grind (ematch := 20) [aFenceT, State.drainAll_keep, State.tlbEffect_keep, State.arriveAll_keep, keep_mk, foldl_keep]

theorem aSpb_keep {c a a2} (h : State.keep q a2) : State.keep q (aSpb c a a2).1 := by
  grind (ematch := 20) [aSpb, State.drainAll_keep]

theorem aPrflush_keep {c w a a3} (h : State.keep q a3) : State.keep q (aPrflush c w a a3).1 := by
  unfold aPrflush
  grind (ematch := 20) [State.drainAll_keep, State.modA_keep]

theorem aPrbar_keep {c a a2} (h : State.keep q a2) : State.keep q (aPrbar c a a2).1 := by
  unfold aPrbar
  grind (ematch := 20) [State.drainAll_keep, State.modA_keep]

theorem aWfi_keep {c w a a3} (h : State.keep q a3) : State.keep q (aWfi c w a a3).1 := by
  grind (ematch := 20) [aWfi, State.drainAll_keep, State.modA_keep]

theorem aBrk_keep {_c a a2} (h : State.keep q a2) : State.keep q (aBrk _c a a2).1 := by
  unfold aBrk
  grind (ematch := 20) []

theorem aNop_keep {a a1} (h : State.keep q a1) : State.keep q (aNop a a1).1 := by
  grind (ematch := 20) [aNop]

theorem aTlbi_keep {c w a a3} (h : State.keep q a3) : State.keep q (aTlbi c w a a3).1 := by
  unfold aTlbi
  grind (ematch := 20) [State.drainAll_keep, State.tlbEffect_keep, keep_mk]

theorem aCache_keep {c w a a3} (h : State.keep q a3) : State.keep q (aCache c w a a3).1 := by
  unfold aCache
  split <;> grind (ematch := 20) [State.drainAll_keep, State.accsOf_keep, State.postedError_keep, State.dcc_keep, State.dcci_keep, State.dci_keep, State.ici_keep, State.zline_keep]

end Sys2Proof.Machine
end

