-- ==== Sys2Proof/Laws/Keep/ACoreOps.lean ====
section
/-! SUPPORT. The operations of Machine/ACoreOps.lean leave the queue and the canonical form of the tables. -/
namespace Sys2Proof.Machine

set_option Elab.async false

variable {q : List Instr}

theorem execStoreBufferDrain_keep {c s t} (h : State.keep q s) (e : execStoreBufferDrain c s = .next t) : State.keep q t := by
  grind (ematch := 20) [execStoreBufferDrain, State.served_keep, State.arriveSome_keep, State.drainOne_keep]

theorem State.reissue_keep {s c} (h : State.keep q s) : State.keep q (State.reissue s c) := by
  grind (ematch := 20) [State.reissue, State.haltTry_keep, State.modA_keep, State.forcedExit_keep, State.aRun_keep, aLoad_keep]

theorem execPartialOverlapReissue_keep {c s t} (h : State.keep q s) (e : execPartialOverlapReissue c s = .next t) : State.keep q t := by
  grind (ematch := 20) [execPartialOverlapReissue, State.served_keep, State.reissue_keep]

theorem execL1dMissFill_keep {c pa s t} (h : State.keep q s) (e : execL1dMissFill c pa s = .next t) : State.keep q t := by
  grind (ematch := 20) [execL1dMissFill, State.served_keep, State.l1Fill_keep, State.reissue_keep, State.modA_keep]

theorem execPrefetchIssue_keep {c va s t} (h : State.keep q s) (e : execPrefetchIssue c va s = .next t) : State.keep q t := by
  grind (ematch := 20) [execPrefetchIssue, State.served_keep, State.coreLine_keep, State.modA_keep]

theorem State.walkFor_keep {s c k va} (h : State.keep q s) : State.keep q (State.walkFor s c k va) := by
  grind (ematch := 20) [State.walkFor, State.translate_keep, State.modA_keep, State.raise_keep]

theorem execTableWalk_keep {c va kind s t} (h : State.keep q s) (e : execTableWalk c va kind s = .next t) : State.keep q t := by
  grind (ematch := 20) [execTableWalk, State.served_keep, State.walkFor_keep]

theorem State.leafPlace_keep {s k st2 ea} (h : State.keep q s) : State.keep q (State.leafPlace s k st2 ea).1 := by
  grind (ematch := 20) [State.leafPlace, State.tblPage_keep]

theorem execAdUpdate_keep {c va st2 ea seen write s t} (h : State.keep q s) (e : execAdUpdate c va st2 ea seen write s = .next t) : State.keep q t := by
  simp only [execAdUpdate, Host.Outcome.next.injEq] at e
  subst e
  refine State.served_keep h fun s h => ?_
  split
  · exact h
  · have hl := @State.leafPlace_keep q
    split
    · rename_i u f hu; exact State.raise_keep (pair_keep (State.leafPlace_keep h) hu)
    · rename_i u p t hu
      have h1 := pair_keep (State.leafPlace_keep h) hu
      split
      · exact h1
      · split
        · rename_i w x hw; exact pair_keep (State.walkRead_keep h1) hw
        · rename_i w x hw
          have h2 := pair_keep (State.walkRead_keep h1) hw
          split
          · rename_i y hy; exact pair_keep (State.casEntry_keep h2) hy
          · rename_i y hy; exact State.walkFor_keep (pair_keep (State.casEntry_keep h2) hy)

theorem execInterruptTake_keep {c s t} (h : State.keep q s) (e : execInterruptTake c s = .next t) : State.keep q t := by
  grind (ematch := 20) [execInterruptTake, State.served_keep, State.forcedExit_keep, State.raiseAt_keep, State.claim_keep]

theorem execTlbiRemoteEffect_keep {c s t} (h : State.keep q s) (e : execTlbiRemoteEffect c s = .next t) : State.keep q t := by
  grind (ematch := 20) [execTlbiRemoteEffect, State.tlbEffect_keep, keep_mk]

theorem State.aHalt_keep {s c} (h : State.keep q s) : State.keep q (State.aHalt s c) := by
  grind (ematch := 20) [State.aHalt, State.haltTry_keep, State.wakeWfi_keep, State.modA_keep]

theorem State.aResume_keep {s c single} (h : State.keep q s) : State.keep q (State.aResume s c single) := by
  grind (ematch := 20) [State.aResume, State.modA_keep]

end Sys2Proof.Machine
end

