-- ==== Sys2Proof/Laws/Keep/Boot.lean ====
section
/-! SUPPORT. The operations of Machine/Boot.lean leave the queue and the canonical form of the tables. -/
namespace Sys2Proof.Machine

set_option Elab.async false

variable {q : List Instr}

theorem State.lockEnvelope_keep {s h1 body} (h : State.keep q s) : State.keep q (State.lockEnvelope s h1 body) := by
  grind (ematch := 20) [State.lockEnvelope, State.modPort_keep, State.pinsSafe_keep, keep_mk, foldl_keep]

theorem State.recWrite_keep {s key v} (h : State.keep q s) : State.keep q (State.recWrite s key v) := by
  grind (ematch := 20) [State.recWrite, State.seedWrite_keep, State.putEnt_keep, State.keyWritten_keep, State.retireClear_keep, getD_keep]

theorem State.applyRecs_keep {all a a2 t} (h : State.keep q a2) (e : State.applyRecs all a a2 = some t) : State.keep q t := by
  fun_induction State.applyRecs all a a2 <;> grind (ematch := 20) [State.recWrite_keep]

theorem State.applyParams_keep {s x body t} (h : State.keep q s) (e : State.applyParams s x body = some t) : State.keep q t := by
  unfold State.applyParams at e
  split at e
  · cases e
  · dsimp only at e
    split at e
    · cases e
    · rename_i s1 e1
      have h1 : State.keep q s1 := State.applyRecs_keep h e1
      refine Option.some.inj e ▸ State.powered_keep (State.thermal_keep (State.safeNUpdate_keep ?_))
      refine ite_keep (State.modHz_keep ?_) ?_ <;>
        exact ite_keep (State.seedWrite_keep (State.seedWrite_keep (State.seedWrite_keep (State.setB_keep (State.setE_keep (State.setE_keep h1)))))) h1

theorem State.stage_keep {s k} (h : State.keep q s) : State.keep q (State.stage s k) := by
  grind (ematch := 20) [State.stage, State.setE_keep]

theorem State.loadSmc_keep {s load body} (h : State.keep q s) : State.keep q (State.loadSmc s load body) := by
  unfold State.loadSmc
  grind (ematch := 20) [keep_mk, keep_mem, Memory.write_wf]

theorem State.smcImage_keep {s type unit h3 body} (h : State.keep q s) : State.keep q (State.smcImage s type unit h3 body) := by
  grind (ematch := 20) [State.smcImage, State.modHz_keep, State.setE_keep, State.dmaWrite_keep]

theorem State.romImage_keep {s h1 body} (h : State.keep q s) : State.keep q (State.romImage s h1 body) := by
  grind (ematch := 20) [State.romImage, State.bootStop_keep, State.stage_keep, State.setE_keep, State.lockEnvelope_keep, State.applyParams_keep, State.loadSmc_keep]

theorem execBootImageVerify_keep {h0 unit body s t} (h : State.keep q s) (e : execBootImageVerify h0 unit body s = .next t) : State.keep q t := by
  grind (ematch := 20) [execBootImageVerify, State.served_keep, State.stage9_keep, State.bootStop_keep, State.romImage_keep, State.smcImage_keep]

theorem execMicrocodeLoad_keep {s t} (h : State.keep q s) (e : execMicrocodeLoad s = .next t) : State.keep q t := by
  grind (ematch := 20) [execMicrocodeLoad, State.stage9_keep, keep_mk]

end Sys2Proof.Machine
end

