-- ==== Sys2Proof/Laws/Keep/Caches.lean ====
section
/-! SUPPORT. The operations of Machine/Caches.lean leave the queue and the canonical form of the tables. -/
namespace Sys2Proof.Machine

set_option Elab.async false

variable {q : List Instr}

theorem State.homeErr_keep {s r a write} (h : State.keep q s) : State.keep q (State.homeErr s r a write).1 := by
  grind (ematch := 20) [State.homeErr, State.huskRecord_keep]

theorem execRdShare_keep {p line tc ev s t} (h : State.keep q s) (e : execRdShare p line tc ev s = .next t) : State.keep q t := by
  grind (ematch := 20) [execRdShare, State.homeErr_keep, State.request_keep, keep_mk]

theorem execRdOwn_keep {p line tc s t} (h : State.keep q s) (e : execRdOwn p line tc s = .next t) : State.keep q t := by
  grind (ematch := 20) [execRdOwn, State.homeErr_keep, State.postedError_keep, State.request_keep, keep_mk]

theorem execRdPeek_keep {r line tc ev s t} (h : State.keep q s) (e : execRdPeek r line tc ev s = .next t) : State.keep q t := by
  grind (ematch := 20) [execRdPeek, State.homeErr_keep, State.request_keep, keep_mk]

theorem execWrPush_keep {r addr data tc s t} (h : State.keep q s) (e : execWrPush r addr data tc s = .next t) : State.keep q t := by
  grind (ematch := 20) [execWrPush, State.homeErr_keep, State.postedError_keep, State.request_keep, keep_mk]

theorem execHaAtomic_keep {r op addr size v cmp tc s t} (h : State.keep q s) (e : execHaAtomic r op addr size v cmp tc s = .next t) : State.keep q t := by
  grind (ematch := 20) [execHaAtomic, State.homeErr_keep, State.request_keep, keep_mk]

theorem State.evict_keep {s p line dirty ph} (h : State.keep q s) : State.keep q (State.evict s p line dirty ph) := by
  unfold State.evict
  grind (ematch := 20) [State.modPod_keep, State.dropL2_keep, State.evArrive_keep]

theorem execEvClean_keep {p line ph s t} (h : State.keep q s) (e : execEvClean p line ph s = .next t) : State.keep q t := by
  grind (ematch := 20) [execEvClean, State.evict_keep]

theorem execEvDirty_keep {p line ph s t} (h : State.keep q s) (e : execEvDirty p line ph s = .next t) : State.keep q t := by
  grind (ematch := 20) [execEvDirty, State.evict_keep]

theorem execSnShare_keep {p line s t} (h : State.keep q s) (e : execSnShare p line s = .next t) : State.keep q t := by
  grind (ematch := 20) [execSnShare, State.deliverSnoop_keep]

theorem execSnTake_keep {p line s t} (h : State.keep q s) (e : execSnTake p line s = .next t) : State.keep q t := by
  grind (ematch := 20) [execSnTake, State.deliverSnoop_keep]

theorem execSnPeek_keep {p line s t} (h : State.keep q s) (e : execSnPeek p line s = .next t) : State.keep q t := by
  grind (ematch := 20) [execSnPeek, State.deliverSnoop_keep]

theorem execSnoopAnswer_keep {p line ev s t} (h : State.keep q s) (e : execSnoopAnswer p line ev s = .next t) : State.keep q t := by
  grind (ematch := 20) [execSnoopAnswer, State.answer_keep, State.modHome_keep]

theorem execEvictionAck_keep {p line s t} (h : State.keep q s) (e : execEvictionAck p line s = .next t) : State.keep q t := by
  grind (ematch := 20) [execEvictionAck, State.modPod_keep]

theorem execSnoopTimeout_keep {line s t} (h : State.keep q s) (e : execSnoopTimeout line s = .next t) : State.keep q t := by
  unfold execSnoopTimeout at e
  grind (ematch := 20) [State.setFilt_keep, State.setE_keep, State.modHome_keep, State.record_keep, State.poisonTxn_keep, foldl_keep, foldl_keep_fst]

theorem execCleanWaysDone_keep {s t} (h : State.keep q s) (e : execCleanWaysDone s = .next t) : State.keep q t := by
  grind (ematch := 20) [execCleanWaysDone, State.served_keep, State.setE_keep, State.dcc_keep, foldl_keep]

end Sys2Proof.Machine
end

