-- ==== Sys2Proof/Laws/Keep/Dap.lean ====
section
/-! SUPPORT. The operations of Machine/Dap.lean leave the queue and the canonical form of the tables. -/
namespace Sys2Proof.Machine

set_option Elab.async false

variable {q : List Instr}

theorem State.acceptFresh_keep {s src k v} (h : State.keep q s) : State.keep q (State.acceptFresh s src k v) := by
  grind (ematch := 20) [State.acceptFresh, State.modDap_keep, State.seedWrite_keep]

theorem State.refuse_keep {s p st detail} (h : State.keep q s) : State.keep q (State.refuse s p st detail) := by
  grind (ematch := 20) [State.refuse, State.dapAnswer_keep]

theorem State.dapReceive_keep {s tr b} (h : State.keep q s) : State.keep q (State.dapReceive s tr b) := by
  grind (ematch := 20) [State.dapReceive, State.addE_keep, State.refuse_keep, State.acceptFresh_keep, State.modDap_keep]

theorem execDapPduReceive_keep {tr pdu s t} (h : State.keep q s) (e : execDapPduReceive tr pdu s = .next t) : State.keep q t := by
  grind (ematch := 20) [execDapPduReceive, State.served_keep, State.dapReceive_keep]

theorem State.refuseIf_keep {s p st} (h : State.keep q s) : State.keep q (State.refuseIf s p st) := by
  grind (ematch := 20) [State.refuseIf, State.refuse_keep]

theorem State.serveRead_keep {s p} (h : State.keep q s) : State.keep q (State.serveRead s p) := by
  grind (ematch := 20) [State.serveRead, State.refuseIf_keep, State.waitEnt_keep, State.dictRead_keep, State.dapAnswer_keep]

theorem State.serveWrite_keep {s p} (h : State.keep q s) : State.keep q (State.serveWrite s p) := by
  grind (ematch := 20) [State.serveWrite, State.refuseIf_keep, State.dictWrite_keep]

theorem State.freeSub_keep {s} (h : State.keep q s) : State.keep q (State.freeSub s).1 := by
  grind (ematch := 20) [State.freeSub, keep_mk]

theorem State.serveSubscribe_keep {s p} (h : State.keep q s) : State.keep q (State.serveSubscribe s p) := by
  grind (ematch := 20) [State.serveSubscribe, State.refuseIf_keep, State.freeSub_keep, State.dapAnswer_keep, State.modDap_keep]

theorem State.serveUnsubscribe_keep {s p} (h : State.keep q s) : State.keep q (State.serveUnsubscribe s p) := by
  grind (ematch := 20) [State.serveUnsubscribe, State.refuseIf_keep, State.dapAnswer_keep, State.modDap_keep]

theorem State.servePing_keep {s p} (h : State.keep q s) : State.keep q (State.servePing s p) := by
  grind (ematch := 20) [State.servePing, State.modDap_keep, State.refuseIf_keep, State.dapAnswer_keep]

theorem State.serveClaim_keep {s p} (h : State.keep q s) : State.keep q (State.serveClaim s p) := by
  grind (ematch := 20) [State.serveClaim, State.refuse_keep, State.claimEnsign_keep]

theorem State.serveRelease_keep {s p} (h : State.keep q s) : State.keep q (State.serveRelease s p) := by
  grind (ematch := 20) [State.serveRelease, State.refuse_keep, State.passEnsign_keep]

theorem State.serve_keep {s p} (h : State.keep q s) : State.keep q (State.serve s p) := by
  grind (ematch := 20) [State.serve, State.refuseIf_keep, State.serveRead_keep, State.serveWrite_keep, State.serveSubscribe_keep, State.serveUnsubscribe_keep, State.servePing_keep, State.serveClaim_keep, State.serveRelease_keep]

theorem State.takePdu_keep {s c f} (h : State.keep q s) (hf : ∀ y0 y1, State.keep q y0 → State.keep q (f y0 y1)) : State.keep q (State.takePdu s c f) := by
  grind (ematch := 20) [State.takePdu, State.modDap_keep]

theorem State.serveFirst_keep {s svc} (h : State.keep q s) : State.keep q (State.serveFirst s svc) := by
  grind (ematch := 20) [State.serveFirst, State.takePdu_keep, State.serve_keep, State.modDap_keep]

theorem execDapRead_keep {s t} (h : State.keep q s) (e : execDapRead s = .next t) : State.keep q t := by
  grind (ematch := 20) [execDapRead, State.served_keep, State.serveFirst_keep]

theorem execDapWrite_keep {s t} (h : State.keep q s) (e : execDapWrite s = .next t) : State.keep q t := by
  grind (ematch := 20) [execDapWrite, State.served_keep, State.serveFirst_keep]

theorem execDapSubscribe_keep {s t} (h : State.keep q s) (e : execDapSubscribe s = .next t) : State.keep q t := by
  grind (ematch := 20) [execDapSubscribe, State.served_keep, State.serveFirst_keep]

theorem execDapUnsubscribe_keep {s t} (h : State.keep q s) (e : execDapUnsubscribe s = .next t) : State.keep q t := by
  grind (ematch := 20) [execDapUnsubscribe, State.served_keep, State.serveFirst_keep]

theorem execDapPing_keep {s t} (h : State.keep q s) (e : execDapPing s = .next t) : State.keep q t := by
  grind (ematch := 20) [execDapPing, State.served_keep, State.serveFirst_keep]

theorem execDapEnsignClaim_keep {s t} (h : State.keep q s) (e : execDapEnsignClaim s = .next t) : State.keep q t := by
  grind (ematch := 20) [execDapEnsignClaim, State.served_keep, State.serveFirst_keep]

theorem execDapEnsignRelease_keep {s t} (h : State.keep q s) (e : execDapEnsignRelease s = .next t) : State.keep q t := by
  grind (ematch := 20) [execDapEnsignRelease, State.served_keep, State.serveFirst_keep]

theorem execBroadcastPingDelay_keep {s t} (h : State.keep q s) (e : execBroadcastPingDelay s = .next t) : State.keep q t := by
  grind (ematch := 20) [execBroadcastPingDelay, State.served_keep, State.dapAnswer_keep, State.modDap_keep]

theorem execDapNotify_keep {k s t} (h : State.keep q s) (e : execDapNotify k s = .next t) : State.keep q t := by
  simp only [execDapNotify, Host.Outcome.next.injEq] at e
  subst e
  refine State.served_keep h fun s h => ?_
  split <;> grind (ematch := 20) [State.drawRead_keep, State.draw_keep, State.modDap_keep, State.dapSend_keep, keep_mk, foldl_keep, foldl_keep_fst]

theorem State.serveWait_keep {s a} (h : State.keep q s) : State.keep q (State.serveWait s a) := by
  unfold State.serveWait
  split <;> grind (ematch := 20) [State.dictWrite_keep, State.mailRead_keep, State.serveRead_keep, keep_mk, foldl_keep, foldl_keep_fst]

theorem State.releaseWaits_keep {s} (h : State.keep q s) : State.keep q (State.releaseWaits s) := by
  grind (ematch := 20) [State.releaseWaits, State.serveWait_keep, keep_mk, foldl_keep]

theorem execSeedStoreWriteDone_keep {ok s t} (h : State.keep q s) (e : execSeedStoreWriteDone ok s = .next t) : State.keep q t := by
  grind (ematch := 20) [execSeedStoreWriteDone, State.served_keep, State.releaseWaits_keep, State.applyStored_keep, State.seedWrite_keep, State.complete_keep, keep_mk]

theorem State.sendAck_keep {s p next} (h : State.keep q s) : State.keep q (State.sendAck s p next) := by
  grind (ematch := 20) [State.sendAck, State.dapSend_keep]

theorem State.dropTxn_keep {s src txn} (h : State.keep q s) : State.keep q (State.dropTxn s src txn) := by
  grind (ematch := 20) [State.dropTxn, State.modDap_keep]

theorem State.segment_keep {s p} (h : State.keep q s) : State.keep q (State.segment s p) := by
  grind (ematch := 20) [State.segment, State.dropTxn_keep, State.refuseIf_keep, State.modDap_keep, State.sendAck_keep, State.serve_keep]

theorem execDapSegment_keep {s t} (h : State.keep q s) (e : execDapSegment s = .next t) : State.keep q t := by
  grind (ematch := 20) [execDapSegment, State.served_keep, State.takePdu_keep, State.segment_keep]

theorem execDapAck_keep {s t} (h : State.keep q s) (e : execDapAck s = .next t) : State.keep q t := by
  grind (ematch := 20) [execDapAck, State.served_keep, State.takePdu_keep, State.sendBurst_keep, State.modDap_keep]

theorem execDapAbort_keep {s t} (h : State.keep q s) (e : execDapAbort s = .next t) : State.keep q t := by
  grind (ematch := 20) [execDapAbort, State.takePdu_keep, State.dropTxn_keep]

theorem execDapTransactionTimeout_keep {n s t} (h : State.keep q s) (e : execDapTransactionTimeout n s = .next t) : State.keep q t := by
  grind (ematch := 20) [execDapTransactionTimeout, State.modDap_keep]

theorem State.claimWon_keep {s h1 node e3} (h : State.keep q s) : State.keep q (State.claimWon s h1 node e3) := by
  grind (ematch := 20) [State.claimWon, State.pulse_keep, State.modDap_keep, State.seedWrite_keep, State.setE_keep]

theorem State.tellClaims_keep {s l st} (h : State.keep q s) : State.keep q (State.tellClaims s l st) := by
  grind (ematch := 20) [State.tellClaims, State.complete_keep, foldl_keep]

theorem State.decideClaims_keep {s} (h : State.keep q s) : State.keep q (State.decideClaims s) := by
  unfold State.decideClaims
  grind (ematch := 20) [State.modDap_keep, State.tellClaims_keep, State.claimWon_keep, State.complete_keep, State.setE_keep, State.addE_keep, foldl_keep, foldl_keep_fst]

theorem execEnsignWindowClose_keep {s t} (h : State.keep q s) (e : execEnsignWindowClose s = .next t) : State.keep q t := by
  grind (ematch := 20) [execEnsignWindowClose, State.served_keep, State.decideClaims_keep]

theorem execEnsignLeaseExpiry_keep {s t} (h : State.keep q s) (e : execEnsignLeaseExpiry s = .next t) : State.keep q t := by
  grind (ematch := 20) [execEnsignLeaseExpiry, State.passEnsign_keep]

theorem execCanFrameReceive_keep {n f s t} (h : State.keep q s) (e : execCanFrameReceive n f s = .next t) : State.keep q t := by
  grind (ematch := 20) [execCanFrameReceive, State.served_keep, State.canReceive_keep, State.dapReceive_keep, State.tryKeys_keep]

end Sys2Proof.Machine
end

