-- ==== Sys2Proof/Laws/Keep/MeshOps.lean ====
section
/-! SUPPORT. The operations of Machine/MeshOps.lean leave the queue and the canonical form of the tables. -/
namespace Sys2Proof.Machine

set_option Elab.async false

variable {q : List Instr}

theorem execHuskDestroy_keep {q0 h1 s t} (h : State.keep q s) (e : execHuskDestroy q0 h1 s = .next t) : State.keep q t := by
  grind (ematch := 20) [execHuskDestroy, State.served_keep, State.settleForced_keep, State.reqWrite_keep]

theorem execDictWindowWrite_keep {m index sub v s t} (h : State.keep q s) (e : execDictWindowWrite m index sub v s = .next t) : State.keep q t := by
  grind (ematch := 20) [execDictWindowWrite, State.served_keep, State.settleForced_keep, State.windowWrite_keep, keep_mk]

theorem execMbWrite_keep {m p s t} (h : State.keep q s) (e : execMbWrite m p s = .next t) : State.keep q t := by
  grind (ematch := 20) [execMbWrite, State.served_keep, State.settleForced_keep, State.mailAccess_keep, State.mailCmd_keep]

theorem State.writeRefused_keep {s m t2 a r} (h : State.keep q s) : State.keep q (State.writeRefused s m t2 a r) := by
  grind (ematch := 20) [State.writeRefused, State.postedError_keep, keep_mk]

theorem execRegisterWrite_keep {m t1 addr size v s t} (h : State.keep q s) (e : execRegisterWrite m t1 addr size v s = .next t) : State.keep q t := by
  grind (ematch := 20) [execRegisterWrite, State.served_keep, State.regWrite_keep, State.settleForced_keep, State.writeRefused_keep]

theorem execTcmMeshWrite_keep {m t1 addr size v s t} (h : State.keep q s) (e : execTcmMeshWrite m t1 addr size v s = .next t) : State.keep q t := by
  grind (ematch := 20) [execTcmMeshWrite, State.writeRefused_keep, State.memWrite_keep]

theorem execSuspendCoresIdle_keep {s t} (h : State.keep q s) (e : execSuspendCoresIdle s = .next t) : State.keep q t := by
  simp only [execSuspendCoresIdle, Host.Outcome.next.injEq] at e
  subst e
  refine State.served_keep h fun s h => ?_
  split
  · exact h
  · have h1 := foldl_keep (q := q) (f := fun s (c : Fin 32) => s.arriveAll c) (l := allFin 32) (fun _ _ hs => State.arriveAll_keep hs) h
    split
    · exact State.heldWake_keep (State.suspendEntry_keep h1)
    · exact State.heldWake_keep (State.sleepEntry_keep (State.quiesce_keep h1))
    · exact h

theorem State.pciePoison_keep {s k a poison} (h : State.keep q s) : State.keep q (State.pciePoison s k a poison) := by
  grind (ematch := 20) [State.pciePoison, State.record_keep]

theorem State.pcieRead_keep {s k a len} (h : State.keep q s) : State.keep q (State.pcieRead s k a len) := by
  unfold State.pcieRead
  repeat' split
  all_goals grind (ematch := 20) [State.regRead_keep, State.dmaRead_keep, State.pciePoison_keep, keep_mk]

theorem State.pcieWrite_keep {s k a d} (h : State.keep q s) : State.keep q (State.pcieWrite s k a d) := by
  grind (ematch := 20) [State.pcieWrite, State.pulse_keep, State.record_keep, State.regWrite_keep, State.settleForced_keep, State.dmaWrite_keep, keep_mk]

theorem State.pcieAtomic_keep {s k op a d n} (h : State.keep q s) : State.keep q (State.pcieAtomic s k op a d n) := by
  grind (ematch := 20) [State.pcieAtomic, State.homeAtomic_keep, State.pciePoison_keep, State.memRead_keep, State.memWrite_keep, keep_mk]

theorem execPcieInboundRequest_keep {k op addr d len s t} (h : State.keep q s) (e : execPcieInboundRequest k op addr d len s = .next t) : State.keep q t := by
  simp only [execPcieInboundRequest, Host.Outcome.next.injEq] at e
  subst e
  refine State.served_keep h fun s h => ?_
  split <;> grind (ematch := 20) [State.pcieRead_keep, State.pcieWrite_keep, State.pcieAtomic_keep, keep_mk, foldl_keep, foldl_keep_fst]

end Sys2Proof.Machine
end

