-- ==== Sys2Proof/Laws/Keep/TMem.lean ====
section
/-! SUPPORT. The operations of Machine/TMem.lean leave the queue and the canonical form of the tables. -/
namespace Sys2Proof.Machine

set_option Elab.async false

variable {q : List Instr}

theorem State.tEcc_keep {s i k kind a n ev} (h : State.keep q s) : State.keep q (State.tEcc s i k kind a n ev) := by
  unfold State.tEcc
  dsimp only
  repeat' split
  all_goals grind (ematch := 20) [State.eccFix_keep, State.eccEvent_keep, keep_mk, foldl_keep, foldl_keep_fst]

theorem State.dtcmWrite_keep {s i k w} (h : State.keep q s) : State.keep q (State.dtcmWrite s i k w) := by
  unfold State.dtcmWrite
  grind (ematch := 20) [State.clearTags_keep, State.eccWrite_keep, keep_mk, keep_mem, Memory.write_wf]

theorem State.mergeEcc_keep {s i unit a p n arr ev} (h : State.keep q s) : State.keep q (State.mergeEcc s i unit a p n arr ev) := by
  grind (ematch := 20) [State.mergeEcc, State.eccEvent_keep, State.eccWord_keep, foldl_keep]

theorem State.tDrainOne_keep {s i k} (h : State.keep q s) : State.keep q (State.tDrainOne s i k) := by
  grind (ematch := 20) [State.tDrainOne, State.dtcmWrite_keep, State.modTc_keep, State.setE_keep]

theorem State.tDrain_keep {s i k} (h : State.keep q s) : State.keep q (State.tDrain s i k) := by
  grind (ematch := 20) [State.tDrain, State.tDrainOne_keep]

theorem State.tDrainMeets_keep {i k a n a4 a5} (h : State.keep q a5) : State.keep q (State.tDrainMeets i k a n a4 a5) := by
  fun_induction State.tDrainMeets i k a n a4 a5 <;> grind (ematch := 20) [State.tDrainOne_keep]

theorem State.tPush_keep {s i k a n data tag} (h : State.keep q s) : State.keep q (State.tPush s i k a n data tag).1 := by
  grind (ematch := 20) [State.tPush, State.tDrainOne_keep, State.modTc_keep]

theorem State.farPart_keep {s i pa n} (h : State.keep q s) : State.keep q (State.farPart s i pa n).1 := by
  grind (ematch := 20) [State.farPart, State.regRead_keep, State.memRead_keep]

theorem State.farRead_keep {s i pa n} (h : State.keep q s) : State.keep q (State.farRead s i pa n).1 := by
  unfold State.farRead
  dsimp only
  repeat' split
  all_goals grind (ematch := 20) [State.farPart_keep, keep_mk, foldl_keep, foldl_keep_fst]

theorem State.portRead_keep {s i k a n ev} (h : State.keep q s) : State.keep q (State.portRead s i k a n ev).1 := by
  grind (ematch := 20) [State.portRead, State.tEcc_keep, State.farRead_keep]

theorem State.pruneDone_keep {s i} (h : State.keep q s) : State.keep q (State.pruneDone s i) := by
  grind (ematch := 20) [State.pruneDone, State.modIsl_keep, State.addE_keep]

theorem State.portMismatch_keep {s i k} (h : State.keep q s) : State.keep q (State.portMismatch s i k) := by
  grind (ematch := 20) [State.portMismatch, State.coreMismatch_keep, State.addE_keep]

theorem State.takeDone_keep {s i k d} (h : State.keep q s) : State.keep q (State.takeDone s i k d) := by
  grind (ematch := 20) [State.takeDone, State.pruneDone_keep, State.modIsl_keep]

theorem State.keepDone_keep {s i d} (h : State.keep q s) : State.keep q (State.keepDone s i d) := by
  grind (ematch := 20) [State.keepDone, State.pruneDone_keep, State.modIsl_keep]

theorem State.portLoad_keep {s i k a n kind unit_ ev} (h : State.keep q s) : State.keep q (State.portLoad s i k a n kind unit_ ev).1 := by
  grind (ematch := 20) [State.portLoad, State.takeDone_keep, State.portRead_keep, State.addE_keep, State.portMismatch_keep, State.keepDone_keep]

theorem State.tcmRead_keep {s i k kind a n ev cyc} (h : State.keep q s) : State.keep q (State.tcmRead s i k kind a n ev cyc).1 := by
  grind (ematch := 20) [State.tcmRead, State.tEcc_keep]

theorem State.dtcmLoad_keep {s i k a n ev} (h : State.keep q s) : State.keep q (State.dtcmLoad s i k a n ev).1 := by
  grind (ematch := 20) [State.dtcmLoad, State.tcmRead_keep, State.tDrainMeets_keep]

theorem State.tOrder_keep {s i k a n all} (h : State.keep q s) : State.keep q (State.tOrder s i k a n all).1 := by
  grind (ematch := 20) [State.tOrder, State.tDrain_keep, State.modTc_keep]

theorem State.tParked_keep {s i k a n} (h : State.keep q s) : State.keep q (State.tParked s i k a n).1 := by
  grind (ematch := 20) [State.tParked, State.modTc_keep, State.addE_keep]

theorem State.farWait_keep {s i k a n kind w} (h : State.keep q s) : State.keep q (State.farWait s i k a n kind w) := by
  grind (ematch := 20) [State.farWait, State.modTc_keep]

theorem State.farLone_keep {s i k own} (h : State.keep q s) : State.keep q (State.farLone s i k own) := by
  grind (ematch := 20) [State.farLone, State.portMismatch_keep, State.modIsl_keep]

theorem State.reportOdd_keep {s i t2} (h : State.keep q s) : State.keep q (State.reportOdd s i t2) := by
  grind (ematch := 20) [State.reportOdd, State.modIsl_keep, State.portMismatch_keep, foldl_keep]

theorem State.farJoin_keep {s i k a n kind w} (h : State.keep q s) : State.keep q (State.farJoin s i k a n kind w) := by
  grind (ematch := 20) [State.farJoin, State.reportOdd_keep, State.farWait_keep, State.modIsl_keep, State.portMismatch_keep, State.farLone_keep, State.noMajority_keep, State.addE_keep]

theorem State.farGot_keep {s a d} (h : State.keep q s) : State.keep q (State.farGot s a d).1 := by
  grind (ematch := 20) [State.farGot, State.draw_keep]

theorem State.farAccess_keep {s i k a n kind w dev} (h : State.keep q s) : State.keep q (State.farAccess s i k a n kind w dev).1 := by
  grind (ematch := 20) [State.farAccess, State.tParked_keep, State.farGot_keep, State.takeDone_keep, State.farJoin_keep, State.portMismatch_keep, State.farLone_keep]

theorem State.tLoad_keep {s i k a n perm al kind ev w} (h : State.keep q s) : State.keep q (State.tLoad s i k a n perm al kind ev w).1 := by
  grind (ematch := 20) [State.tLoad, State.dtcmLoad_keep, State.farAccess_keep, State.tcmRead_keep, State.tOrder_keep, State.portLoad_keep]

theorem State.tStore_keep {s i k a n perm al data tag} (h : State.keep q s) : State.keep q (State.tStore s i k a n perm al data tag).1 := by
  grind (ematch := 20) [State.tStore, State.tPush_keep]

end Sys2Proof.Machine
end

