-- ==== Sys2Proof/Laws/Keep/TExec.lean ====
section
/-! SUPPORT. The operations of Machine/TExec.lean leave the queue and the canonical form of the tables. -/
namespace Sys2Proof.Machine

set_option Elab.async false

variable {q : List Instr}

theorem State.setTg_keep {s i k r v} (h : State.keep q s) : State.keep q (State.setTg s i k r v) := by
  grind (ematch := 20) [State.setTg, State.modTc_keep]

theorem State.setTf_keep {s i k r v} (h : State.keep q s) : State.keep q (State.setTf s i k r v) := by
  grind (ematch := 20) [State.setTf, State.modTc_keep]

theorem State.setTcap_keep {s i k r v} (h : State.keep q s) : State.keep q (State.setTcap s i k r v) := by
  grind (ematch := 20) [State.setTcap, State.modTc_keep]

theorem State.tWaited_keep {s i k} (h : State.keep q s) : State.keep q (State.tWaited s i k) := by
  grind (ematch := 20) [State.tWaited, State.draw_keep, State.modTc_keep]

theorem State.tStop_keep {s i k vec} (h : State.keep q s) : State.keep q (State.tStop s i k vec) := by
  grind (ematch := 20) [State.tStop, State.record_keep, State.coreMismatch_keep, State.modTc_keep]

theorem State.tEnter_keep {s i k f h4 xpc ds prio} (h : State.keep q s) : State.keep q (State.tEnter s i k f h4 xpc ds prio) := by
  grind (ematch := 20) [State.tEnter, State.tEcc_keep, State.tDrain_keep, State.modTc_keep]

theorem State.tRaise_keep {s i k f} (h : State.keep q s) : State.keep q (State.tRaise s i k f) := by
  grind (ematch := 20) [State.tRaise, State.tStop_keep, State.tEnter_keep]

theorem State.tHaltTry_keep {s i k} (h : State.keep q s) : State.keep q (State.tHaltTry s i k) := by
  grind (ematch := 20) [State.tHaltTry, State.modTc_keep]

theorem State.tStepDone_keep {s i k} (h : State.keep q s) : State.keep q (State.tStepDone s i k) := by
  grind (ematch := 20) [State.tStepDone, State.tHaltTry_keep, State.modTc_keep]

theorem State.tWake_keep {s i k} (h : State.keep q s) : State.keep q (State.tWake s i k) := by
  grind (ematch := 20) [State.tWake, State.modTc_keep]

theorem State.tStalled_keep {s i k} (h : State.keep q s) : State.keep q (State.tStalled s i k) := by
  grind (ematch := 20) [State.tStalled, State.modTc_keep]

theorem State.tFinish_keep {s i k o} (h : State.keep q s) : State.keep q (State.tFinish s i k o) := by
  grind (ematch := 20) [State.tFinish, State.tHaltTry_keep, State.tStalled_keep, State.tWaited_keep, State.tStepDone_keep, State.tRaise_keep, State.pruneDone_keep, State.modTc_keep, State.closeWindow_keep]

theorem State.tFetchRead_keep {s i k} (h : State.keep q s) : State.keep q (State.tFetchRead s i k) := by
  grind (ematch := 20) [State.tFetchRead, State.tEcc_keep]

theorem State.tBlocked_keep {s i k} (h : State.keep q s) : State.keep q (State.tBlocked s i k) := by
  grind (ematch := 20) [State.tBlocked, State.modTc_keep]

theorem State.tStep_keep {s i k w body} (h : State.keep q s) (hb : ∀ y0 y1, State.keep q y1 → State.keep q (body y0 y1).1) : State.keep q (State.tStep s i k w body) := by
  unfold State.tStep
  refine State.served_keep h fun s h => ?_
  have h1 := State.tHaltTry_keep (i := i) (k := k) (State.tWake_keep (i := i) (k := k) h)
  dsimp only
  split
  · exact State.tBlocked_keep h1
  · split
    · exact State.tFinish_keep h1
    · have h2 := State.tFetchRead_keep (i := i) (k := k) h1
      split
      · exact State.tFinish_keep h2
      · split
        · exact State.tFinish_keep h2
        · split
          · exact State.tFinish_keep h2
          · exact State.tFinish_keep (hb _ _ h2)

theorem tLacks_keep {w a a2} (h : State.keep q a2) : State.keep q (tLacks w a a2).1 := by
  grind (ematch := 20) [tLacks]

theorem tNop_keep {a a1} (h : State.keep q a1) : State.keep q (tNop a a1).1 := by
  grind (ematch := 20) [tNop]

end Sys2Proof.Machine
end

