-- ==== Sys2Proof/Laws/Keep/TBody.lean ====
section
/-! SUPPORT. The operations of Machine/TBody.lean leave the queue and the canonical form of the tables. -/
namespace Sys2Proof.Machine

set_option Elab.async false

variable {q : List Instr}

theorem tReg_keep {i k a a3} (h : State.keep q a3) : State.keep q (tReg i k a a3).1 := by
  grind (ematch := 20) [tReg, State.setTg_keep]

theorem tFloat_keep {i k w a a4} (h : State.keep q a4) : State.keep q (tFloat i k w a a4).1 := by
  unfold tFloat
  split <;> grind (ematch := 20) [State.modTc_keep, State.setTf_keep, State.setTg_keep, keep_mk]

theorem tBranch_keep {i k a a3} (h : State.keep q a3) : State.keep q (tBranch i k a a3).1 := by
  unfold tBranch
  grind (ematch := 20) []

theorem tJump_keep {i k a a3} (h : State.keep q a3) : State.keep q (tJump i k a a3).1 := by
  unfold tJump
  grind (ematch := 20) [State.setTg_keep]

theorem tRegJump_keep {i k w a a4} (h : State.keep q a4) : State.keep q (tRegJump i k w a a4).1 := by
  unfold tRegJump
  grind (ematch := 20) [State.setTg_keep]

theorem State.loadResult_keep {s i k op rd v cyc} (h : State.keep q s) : State.keep q (State.loadResult s i k op rd v cyc).1 := by
  grind (ematch := 20) [State.loadResult, State.setTf_keep, State.setTg_keep]

theorem tLoadB_keep {i k w ev a a5} (h : State.keep q a5) : State.keep q (tLoadB i k w ev a a5).1 := by
  unfold tLoadB
  grind (ematch := 20) [State.tLoad_keep, State.loadResult_keep]

theorem tStoreB_keep {i k a a3} (h : State.keep q a3) : State.keep q (tStoreB i k a a3).1 := by
  unfold tStoreB
  grind (ematch := 20) [State.tStore_keep]

theorem tClc_keep {i k w a a4} (h : State.keep q a4) : State.keep q (tClc i k w a a4).1 := by
  unfold tClc
  grind (ematch := 20) [State.tLoad_keep, State.setTcap_keep]

theorem tCsc_keep {i k a a3} (h : State.keep q a3) : State.keep q (tCsc i k a a3).1 := by
  unfold tCsc
  grind (ematch := 20) [State.tStore_keep]

theorem State.tReleased_keep {s i k rl} (h : State.keep q s) : State.keep q (State.tReleased s i k rl).1 := by
  grind (ematch := 20) [State.tReleased, State.tOrder_keep]

theorem State.dtcmAmo_keep {s i k a n op v cmp} (h : State.keep q s) : State.keep q (State.dtcmAmo s i k a n op v cmp).1 := by
  grind (ematch := 20) [State.dtcmAmo, State.modTc_keep, State.tDrainMeets_keep, State.tEcc_keep, State.dtcmWrite_keep]

theorem tAmo_keep {i k w a a4} (h : State.keep q a4) : State.keep q (tAmo i k w a a4).1 := by
  unfold tAmo
  split <;> grind (ematch := 20) [State.tReleased_keep, State.dtcmAmo_keep, State.tOrder_keep, State.farAccess_keep, State.setTg_keep]

theorem tLda_keep {i k w a a4} (h : State.keep q a4) : State.keep q (tLda i k w a a4).1 := by
  unfold tLda
  grind (ematch := 20) [State.tLoad_keep, State.setTg_keep]

theorem tStl_keep {i k w a a4} (h : State.keep q a4) : State.keep q (tStl i k w a a4).1 := by
  unfold tStl
  grind (ematch := 20) [State.tReleased_keep, State.tStore_keep, State.farAccess_keep]

theorem State.tSpend_keep {s i k n} (h : State.keep q s) : State.keep q (State.tSpend s i k n) := by
  grind (ematch := 20) [State.tSpend, State.modTc_keep]

theorem State.tUnitRead_keep {s i k a n} (h : State.keep q s) : State.keep q (State.tUnitRead s i k a n).1 := by
  unfold State.tUnitRead
  dsimp only
  repeat' split
  all_goals grind (ematch := 20) [State.dtcmLoad_keep, State.tcmRead_keep, State.tOrder_keep, State.portLoad_keep, State.draw_keep, State.tSpend_keep, keep_mk, foldl_keep, foldl_keep_fst]

theorem State.tUnitWrite_keep {s i k a b} (h : State.keep q s) : State.keep q (State.tUnitWrite s i k a b).1 := by
  grind (ematch := 20) [State.tUnitWrite, State.tStore_keep]

theorem State.unitsT_keep {i k op rd rs1 rs2 a a7} (h : State.keep q a7) : State.keep q (State.unitsT i k op rd rs1 rs2 a a7).1 := by
  fun_induction State.unitsT i k op rd rs1 rs2 a a7 <;> grind (ematch := 20) [State.tDrainOne_keep, blkUnit_keep, State.setTg_keep, State.tUnitRead_keep, State.tUnitWrite_keep, State.tSpend_keep]

theorem tBlock_keep {i k w units a a5} (h : State.keep q a5) : State.keep q (tBlock i k w units a a5).1 := by
  unfold tBlock
  dsimp only
  repeat' split
  all_goals grind (ematch := 20) [State.modTc_keep, State.tDrain_keep, State.unitsT_keep, keep_mk, foldl_keep, foldl_keep_fst]

theorem tMfs_keep {i k w a a4} (h : State.keep q a4) : State.keep q (tMfs i k w a a4).1 := by
  unfold tMfs
  grind (ematch := 20) [State.setTg_keep]

theorem tMts_keep {i k w a a4} (h : State.keep q a4) : State.keep q (tMts i k w a a4).1 := by
  unfold tMts
  grind (ematch := 20) [State.modTc_keep]

theorem tEretB_keep {i k a a3} (h : State.keep q a3) : State.keep q (tEretB i k a a3).1 := by
  unfold tEretB
  grind (ematch := 20) [State.modTc_keep]

theorem tFence_keep {i k a a3} (h : State.keep q a3) : State.keep q (tFence i k a a3).1 := by
  unfold tFence
  grind (ematch := 20) [State.tOrder_keep]

theorem tFenceD_keep {i k a a3} (h : State.keep q a3) : State.keep q (tFenceD i k a a3).1 := by
  grind (ematch := 20) [tFenceD, State.tOrder_keep, State.modIsl_keep]

theorem tWfi_keep {i k a a3} (h : State.keep q a3) : State.keep q (tWfi i k a a3).1 := by
  grind (ematch := 20) [tWfi]

theorem tBrk_keep {a a1} (h : State.keep q a1) : State.keep q (tBrk a a1).1 := by
  unfold tBrk
  grind (ematch := 20) []

theorem tChkpt_keep {a a1} (h : State.keep q a1) : State.keep q (tChkpt a a1).1 := by
  grind (ematch := 20) [tChkpt]

theorem tLoop_keep {i k w a a4} (h : State.keep q a4) : State.keep q (tLoop i k w a a4).1 := by
  unfold tLoop
  grind (ematch := 20) [State.modTc_keep]

theorem tCap_keep {i k a a3} (h : State.keep q a3) : State.keep q (tCap i k a a3).1 := by
  grind (ematch := 20) [tCap, State.setTcap_keep]

theorem tCget_keep {i k a a3} (h : State.keep q a3) : State.keep q (tCget i k a a3).1 := by
  unfold tCget
  grind (ematch := 20) [State.setTg_keep]

theorem tCcall_keep {i k a a3} (h : State.keep q a3) : State.keep q (tCcall i k a a3).1 := by
  unfold tCcall
  grind (ematch := 20) [State.setTcap_keep, State.modTc_keep, State.setTg_keep]

theorem tCret_keep {i k a a3} (h : State.keep q a3) : State.keep q (tCret i k a a3).1 := by
  unfold tCret
  grind (ematch := 20) [State.modTc_keep, State.setTcap_keep]

theorem tCmfc_keep {i k a a3} (h : State.keep q a3) : State.keep q (tCmfc i k a a3).1 := by
  unfold tCmfc
  grind (ematch := 20) [State.setTcap_keep]

theorem tCmtc_keep {i k a a3} (h : State.keep q a3) : State.keep q (tCmtc i k a a3).1 := by
  unfold tCmtc
  grind (ematch := 20) [State.modTc_keep]

end Sys2Proof.Machine
end

