-- ==== Sys2Proof/Laws/Keep/Insn.lean ====
section
/-! SUPPORT. The operations of Machine/Insn.lean leave the queue and the canonical form of the tables. -/
namespace Sys2Proof.Machine

set_option Elab.async false

variable {q : List Instr}

theorem runInsn_keep {row c w a b s t} (h : State.keep q s) (ha : ∀ c i s, State.keep q s → State.keep q (a c i s).1)
    (hb : ∀ i k x s, State.keep q s → State.keep q (b i k x s).1) (e : runInsn row c w a b s = .next t) : State.keep q t := by
  unfold runInsn at e
  split at e
  · simp only [Host.Outcome.next.injEq] at e
    subst e
    cases c with
    | a c => exact State.aStep_keep h (ha c)
    | t i k => exact State.tStep_keep h (hb i k)
  · simp at e

theorem execIntegerOp_keep {c w s t} (h : State.keep q s) (e : execIntegerOp c w s = .next t) : State.keep q t := by
  exact runInsn_keep h (fun _ _ _ k => aReg_keep k) (fun _ _ _ _ k => tReg_keep k) e

theorem execMultiply_keep {c w s t} (h : State.keep q s) (e : execMultiply c w s = .next t) : State.keep q t := by
  exact runInsn_keep h (fun _ _ _ k => aReg_keep k) (fun _ _ _ _ k => tReg_keep k) e

theorem execDivide_keep {c w s t} (h : State.keep q s) (e : execDivide c w s = .next t) : State.keep q t := by
  exact runInsn_keep h (fun _ _ _ k => aReg_keep k) (fun _ _ _ _ k => tReg_keep k) e

theorem execLoad_keep {c w ev s t} (h : State.keep q s) (e : execLoad c w ev s = .next t) : State.keep q t := by
  exact runInsn_keep h (fun _ _ _ k => aLoad_keep k) (fun _ _ _ _ k => tLoadB_keep k) e

theorem execStore_keep {c w s t} (h : State.keep q s) (e : execStore c w s = .next t) : State.keep q t := by
  exact runInsn_keep h (fun _ _ _ k => aStore_keep k) (fun _ _ _ _ k => tStoreB_keep k) e

theorem execFloatOp_keep {c w s t} (h : State.keep q s) (e : execFloatOp c w s = .next t) : State.keep q t := by
  exact runInsn_keep h (fun _ _ _ k => aFloat_keep k) (fun _ _ _ _ k => tFloat_keep k) e

theorem execConditionalBranch_keep {c w s t} (h : State.keep q s) (e : execConditionalBranch c w s = .next t) : State.keep q t := by
  exact runInsn_keep h (fun _ _ _ k => aBranch_keep k) (fun _ _ _ _ k => tBranch_keep k) e

theorem execJump_keep {c w s t} (h : State.keep q s) (e : execJump c w s = .next t) : State.keep q t := by
  exact runInsn_keep h (fun _ _ _ k => aJump_keep k) (fun _ _ _ _ k => tJump_keep k) e

theorem execRegisterJump_keep {c w s t} (h : State.keep q s) (e : execRegisterJump c w s = .next t) : State.keep q t := by
  exact runInsn_keep h (fun _ _ _ k => aRegJump_keep k) (fun _ _ _ _ k => tRegJump_keep k) e

theorem execAmo_keep {c w s t} (h : State.keep q s) (e : execAmo c w s = .next t) : State.keep q t := by
  exact runInsn_keep h (fun _ _ _ k => aAmo_keep k) (fun _ _ _ _ k => tAmo_keep k) e

theorem execCas_keep {c w s t} (h : State.keep q s) (e : execCas c w s = .next t) : State.keep q t := by
  exact runInsn_keep h (fun _ _ _ k => aAmo_keep k) (fun _ _ _ _ k => tAmo_keep k) e

theorem execLda_keep {c w s t} (h : State.keep q s) (e : execLda c w s = .next t) : State.keep q t := by
  exact runInsn_keep h (fun _ _ _ k => aLda_keep k) (fun _ _ _ _ k => tLda_keep k) e

theorem execStl_keep {c w s t} (h : State.keep q s) (e : execStl c w s = .next t) : State.keep q t := by
  exact runInsn_keep h (fun _ _ _ k => aStl_keep k) (fun _ _ _ _ k => tStl_keep k) e

theorem execBcopy_keep {c w units s t} (h : State.keep q s) (e : execBcopy c w units s = .next t) : State.keep q t := by
  exact runInsn_keep h (fun _ _ _ k => aBlock_keep k) (fun _ _ _ _ k => tBlock_keep k) e

theorem execBfill_keep {c w units s t} (h : State.keep q s) (e : execBfill c w units s = .next t) : State.keep q t := by
  exact runInsn_keep h (fun _ _ _ k => aBlock_keep k) (fun _ _ _ _ k => tBlock_keep k) e

theorem execBcrc_keep {c w units s t} (h : State.keep q s) (e : execBcrc c w units s = .next t) : State.keep q t := by
  exact runInsn_keep h (fun _ _ _ k => aBlock_keep k) (fun _ _ _ _ k => tBlock_keep k) e

theorem execBcrcE_keep {c w units s t} (h : State.keep q s) (e : execBcrcE c w units s = .next t) : State.keep q t := by
  exact runInsn_keep h (fun _ _ _ k => aBlock_keep k) (fun _ _ _ _ k => tBlock_keep k) e

theorem execLdm_keep {c w units s t} (h : State.keep q s) (e : execLdm c w units s = .next t) : State.keep q t := by
  exact runInsn_keep h (fun _ _ _ k => aBlock_keep k) (fun _ _ _ _ k => tBlock_keep k) e

theorem execStm_keep {c w units s t} (h : State.keep q s) (e : execStm c w units s = .next t) : State.keep q t := by
  exact runInsn_keep h (fun _ _ _ k => aBlock_keep k) (fun _ _ _ _ k => tBlock_keep k) e

theorem execMfs_keep {c w s t} (h : State.keep q s) (e : execMfs c w s = .next t) : State.keep q t := by
  exact runInsn_keep h (fun _ _ _ k => aMfs_keep k) (fun _ _ _ _ k => tMfs_keep k) e

theorem execMts_keep {c w s t} (h : State.keep q s) (e : execMts c w s = .next t) : State.keep q t := by
  exact runInsn_keep h (fun _ _ _ k => aMts_keep k) (fun _ _ _ _ k => tMts_keep k) e

theorem execEret_keep {c w s t} (h : State.keep q s) (e : execEret c w s = .next t) : State.keep q t := by
  exact runInsn_keep h (fun _ _ _ k => aEret_keep k) (fun _ _ _ _ k => tLacks_keep k) e

theorem execTEret_keep {i k w s t} (h : State.keep q s) (e : execTEret i k w s = .next t) : State.keep q t := by
  exact runInsn_keep h (fun _ _ _ k => aLacks_keep k) (fun _ _ _ _ k => tEretB_keep k) e

theorem execGate_keep {c w s t} (h : State.keep q s) (e : execGate c w s = .next t) : State.keep q t := by
  exact runInsn_keep h (fun _ _ _ k => aGate_keep k) (fun _ _ _ _ k => tLacks_keep k) e

theorem execGret_keep {c w s t} (h : State.keep q s) (e : execGret c w s = .next t) : State.keep q t := by
  exact runInsn_keep h (fun _ _ _ k => aGret_keep k) (fun _ _ _ _ k => tLacks_keep k) e

theorem execFence_keep {c w s t} (h : State.keep q s) (e : execFence c w s = .next t) : State.keep q t := by
  exact runInsn_keep h (fun _ _ _ k => aFence_keep k) (fun _ _ _ _ k => tFence_keep k) e

theorem execFenceI_keep {c w s t} (h : State.keep q s) (e : execFenceI c w s = .next t) : State.keep q t := by
  exact runInsn_keep h (fun _ _ _ k => aFence_keep k) (fun _ _ _ _ k => tNop_keep k) e

theorem execFenceD_keep {c w s t} (h : State.keep q s) (e : execFenceD c w s = .next t) : State.keep q t := by
  exact runInsn_keep h (fun _ _ _ k => aFence_keep k) (fun _ _ _ _ k => tFenceD_keep k) e

theorem execFenceT_keep {c w s t} (h : State.keep q s) (e : execFenceT c w s = .next t) : State.keep q t := by
  exact runInsn_keep h (fun _ _ _ k => aFenceT_keep k) (fun _ _ _ _ k => tNop_keep k) e

theorem execSpb_keep {c w s t} (h : State.keep q s) (e : execSpb c w s = .next t) : State.keep q t := by
  exact runInsn_keep h (fun _ _ _ k => aSpb_keep k) (fun _ _ _ _ k => tNop_keep k) e

theorem execPrflush_keep {c w s t} (h : State.keep q s) (e : execPrflush c w s = .next t) : State.keep q t := by
  exact runInsn_keep h (fun _ _ _ k => aPrflush_keep k) (fun _ _ _ _ k => tNop_keep k) e

theorem execPrbar_keep {c w s t} (h : State.keep q s) (e : execPrbar c w s = .next t) : State.keep q t := by
  exact runInsn_keep h (fun _ _ _ k => aPrbar_keep k) (fun _ _ _ _ k => tNop_keep k) e

theorem execWfi_keep {c w s t} (h : State.keep q s) (e : execWfi c w s = .next t) : State.keep q t := by
  exact runInsn_keep h (fun _ _ _ k => aWfi_keep k) (fun _ _ _ _ k => tWfi_keep k) e

theorem execBrk_keep {c w s t} (h : State.keep q s) (e : execBrk c w s = .next t) : State.keep q t := by
  exact runInsn_keep h (fun _ _ _ k => aBrk_keep k) (fun _ _ _ _ k => tBrk_keep k) e

theorem execNop_keep {c w s t} (h : State.keep q s) (e : execNop c w s = .next t) : State.keep q t := by
  exact runInsn_keep h (fun _ _ _ k => aNop_keep k) (fun _ _ _ _ k => tNop_keep k) e

theorem execChkpt_keep {c w s t} (h : State.keep q s) (e : execChkpt c w s = .next t) : State.keep q t := by
  exact runInsn_keep h (fun _ _ _ k => aLacks_keep k) (fun _ _ _ _ k => tChkpt_keep k) e

theorem execTlbiva_keep {c w s t} (h : State.keep q s) (e : execTlbiva c w s = .next t) : State.keep q t := by
  exact runInsn_keep h (fun _ _ _ k => aTlbi_keep k) (fun _ _ _ _ k => tLacks_keep k) e

theorem execTlbivaa_keep {c w s t} (h : State.keep q s) (e : execTlbivaa c w s = .next t) : State.keep q t := by
  exact runInsn_keep h (fun _ _ _ k => aTlbi_keep k) (fun _ _ _ _ k => tLacks_keep k) e

theorem execTlbipcid_keep {c w s t} (h : State.keep q s) (e : execTlbipcid c w s = .next t) : State.keep q t := by
  exact runInsn_keep h (fun _ _ _ k => aTlbi_keep k) (fun _ _ _ _ k => tLacks_keep k) e

theorem execTlbipart_keep {c w s t} (h : State.keep q s) (e : execTlbipart c w s = .next t) : State.keep q t := by
  exact runInsn_keep h (fun _ _ _ k => aTlbi_keep k) (fun _ _ _ _ k => tLacks_keep k) e

theorem execTlbiipa_keep {c w s t} (h : State.keep q s) (e : execTlbiipa c w s = .next t) : State.keep q t := by
  exact runInsn_keep h (fun _ _ _ k => aTlbi_keep k) (fun _ _ _ _ k => tLacks_keep k) e

theorem execTlbis2_keep {c w s t} (h : State.keep q s) (e : execTlbis2 c w s = .next t) : State.keep q t := by
  exact runInsn_keep h (fun _ _ _ k => aTlbi_keep k) (fun _ _ _ _ k => tLacks_keep k) e

theorem execTlbiall_keep {c w s t} (h : State.keep q s) (e : execTlbiall c w s = .next t) : State.keep q t := by
  exact runInsn_keep h (fun _ _ _ k => aTlbi_keep k) (fun _ _ _ _ k => tLacks_keep k) e

theorem execDcc_keep {c w s t} (h : State.keep q s) (e : execDcc c w s = .next t) : State.keep q t := by
  exact runInsn_keep h (fun _ _ _ k => aCache_keep k) (fun _ _ _ _ k => tLacks_keep k) e

theorem execDcci_keep {c w s t} (h : State.keep q s) (e : execDcci c w s = .next t) : State.keep q t := by
  exact runInsn_keep h (fun _ _ _ k => aCache_keep k) (fun _ _ _ _ k => tLacks_keep k) e

theorem execDci_keep {c w s t} (h : State.keep q s) (e : execDci c w s = .next t) : State.keep q t := by
  exact runInsn_keep h (fun _ _ _ k => aCache_keep k) (fun _ _ _ _ k => tLacks_keep k) e

theorem execIci_keep {c w s t} (h : State.keep q s) (e : execIci c w s = .next t) : State.keep q t := by
  exact runInsn_keep h (fun _ _ _ k => aCache_keep k) (fun _ _ _ _ k => tLacks_keep k) e

theorem execZline_keep {c w s t} (h : State.keep q s) (e : execZline c w s = .next t) : State.keep q t := by
  exact runInsn_keep h (fun _ _ _ k => aCache_keep k) (fun _ _ _ _ k => tLacks_keep k) e

theorem execLoop_keep {c w s t} (h : State.keep q s) (e : execLoop c w s = .next t) : State.keep q t := by
  exact runInsn_keep h (fun _ _ _ k => aLacks_keep k) (fun _ _ _ _ k => tLoop_keep k) e

theorem execCmove_keep {c w s t} (h : State.keep q s) (e : execCmove c w s = .next t) : State.keep q t := by
  exact runInsn_keep h (fun _ _ _ k => aLacks_keep k) (fun _ _ _ _ k => tCap_keep k) e

theorem execCincb_keep {c w s t} (h : State.keep q s) (e : execCincb c w s = .next t) : State.keep q t := by
  exact runInsn_keep h (fun _ _ _ k => aLacks_keep k) (fun _ _ _ _ k => tCap_keep k) e

theorem execCsetl_keep {c w s t} (h : State.keep q s) (e : execCsetl c w s = .next t) : State.keep q t := by
  exact runInsn_keep h (fun _ _ _ k => aLacks_keep k) (fun _ _ _ _ k => tCap_keep k) e

theorem execCandp_keep {c w s t} (h : State.keep q s) (e : execCandp c w s = .next t) : State.keep q t := by
  exact runInsn_keep h (fun _ _ _ k => aLacks_keep k) (fun _ _ _ _ k => tCap_keep k) e

theorem execCseal_keep {c w s t} (h : State.keep q s) (e : execCseal c w s = .next t) : State.keep q t := by
  exact runInsn_keep h (fun _ _ _ k => aLacks_keep k) (fun _ _ _ _ k => tCap_keep k) e

theorem execCunseal_keep {c w s t} (h : State.keep q s) (e : execCunseal c w s = .next t) : State.keep q t := by
  exact runInsn_keep h (fun _ _ _ k => aLacks_keep k) (fun _ _ _ _ k => tCap_keep k) e

theorem execCclrt_keep {c w s t} (h : State.keep q s) (e : execCclrt c w s = .next t) : State.keep q t := by
  exact runInsn_keep h (fun _ _ _ k => aLacks_keep k) (fun _ _ _ _ k => tCap_keep k) e

theorem execCgetb_keep {c w s t} (h : State.keep q s) (e : execCgetb c w s = .next t) : State.keep q t := by
  exact runInsn_keep h (fun _ _ _ k => aLacks_keep k) (fun _ _ _ _ k => tCget_keep k) e

theorem execCgetl_keep {c w s t} (h : State.keep q s) (e : execCgetl c w s = .next t) : State.keep q t := by
  exact runInsn_keep h (fun _ _ _ k => aLacks_keep k) (fun _ _ _ _ k => tCget_keep k) e

theorem execCgetp_keep {c w s t} (h : State.keep q s) (e : execCgetp c w s = .next t) : State.keep q t := by
  exact runInsn_keep h (fun _ _ _ k => aLacks_keep k) (fun _ _ _ _ k => tCget_keep k) e

theorem execCgett_keep {c w s t} (h : State.keep q s) (e : execCgett c w s = .next t) : State.keep q t := by
  exact runInsn_keep h (fun _ _ _ k => aLacks_keep k) (fun _ _ _ _ k => tCget_keep k) e

theorem execCgetg_keep {c w s t} (h : State.keep q s) (e : execCgetg c w s = .next t) : State.keep q t := by
  exact runInsn_keep h (fun _ _ _ k => aLacks_keep k) (fun _ _ _ _ k => tCget_keep k) e

theorem execCcall_keep {c w s t} (h : State.keep q s) (e : execCcall c w s = .next t) : State.keep q t := by
  exact runInsn_keep h (fun _ _ _ k => aLacks_keep k) (fun _ _ _ _ k => tCcall_keep k) e

theorem execCret_keep {c w s t} (h : State.keep q s) (e : execCret c w s = .next t) : State.keep q t := by
  exact runInsn_keep h (fun _ _ _ k => aLacks_keep k) (fun _ _ _ _ k => tCret_keep k) e

theorem execCmfc_keep {c w s t} (h : State.keep q s) (e : execCmfc c w s = .next t) : State.keep q t := by
  exact runInsn_keep h (fun _ _ _ k => aLacks_keep k) (fun _ _ _ _ k => tCmfc_keep k) e

theorem execCmtc_keep {c w s t} (h : State.keep q s) (e : execCmtc c w s = .next t) : State.keep q t := by
  exact runInsn_keep h (fun _ _ _ k => aLacks_keep k) (fun _ _ _ _ k => tCmtc_keep k) e

theorem execClc_keep {c w s t} (h : State.keep q s) (e : execClc c w s = .next t) : State.keep q t := by
  exact runInsn_keep h (fun _ _ _ k => aLacks_keep k) (fun _ _ _ _ k => tClc_keep k) e

theorem execCsc_keep {c w s t} (h : State.keep q s) (e : execCsc c w s = .next t) : State.keep q t := by
  exact runInsn_keep h (fun _ _ _ k => aLacks_keep k) (fun _ _ _ _ k => tCsc_keep k) e

end Sys2Proof.Machine
end

