-- ==== Sys2Proof/Laws/Keep/TOps.lean ====
section
/-! SUPPORT. The operations of Machine/TOps.lean leave the queue and the canonical form of the tables. -/
namespace Sys2Proof.Machine

set_option Elab.async false

variable {q : List Instr}

theorem State.portAmo_keep {s i k a n op v cmp} (h : State.keep q s) : State.keep q (State.portAmo s i k a n op v cmp).1 := by
  grind (ematch := 20) [State.portAmo, State.homeAtomic_keep, State.tEcc_keep, State.memWrite_keep]

theorem State.farWrite_keep {s i pa b} (h : State.keep q s) : State.keep q (State.farWrite s i pa b).1 := by
  unfold State.farWrite
  grind (ematch := 20) [State.postedError_keep, State.memWrite_keep, foldl_keep, foldl_keep_fst]

theorem State.portStl_keep {s i a n v} (h : State.keep q s) : State.keep q (State.portStl s i a n v) := by
  grind (ematch := 20) [State.portStl, State.farWrite_keep, State.memWrite_keep]

theorem State.portPerform_keep {s i k t3} (h : State.keep q s) : State.keep q (State.portPerform s i k t3).1 := by
  grind (ematch := 20) [State.portPerform, State.portRead_keep, State.portAmo_keep, State.portStl_keep]

theorem State.farResult_keep {s i k f d} (h : State.keep q s) : State.keep q (State.farResult s i k f d).1 := by
  grind (ematch := 20) [State.farResult, State.draw_keep, State.loadResult_keep, State.setTg_keep, State.setTcap_keep]

theorem State.farDeliver_keep {s i k t3 d} (h : State.keep q s) : State.keep q (State.farDeliver s i k t3 d) := by
  grind (ematch := 20) [State.farDeliver, State.farResult_keep, State.modTc_keep, State.tFinish_keep]

theorem State.tAbandon_keep {s i k} (h : State.keep q s) : State.keep q (State.tAbandon s i k) := by
  grind (ematch := 20) [State.tAbandon, State.modTc_keep, State.modIsl_keep]

theorem State.portDeliver_keep {i t1 d s k} (h : State.keep q s) : State.keep q (State.portDeliver i t1 d s k) := by
  grind (ematch := 20) [State.portDeliver, State.tAbandon_keep, State.modTc_keep, State.farDeliver_keep]

theorem State.portDone_keep {s i n t3 d} (h : State.keep q s) : State.keep q (State.portDone s i n t3 d) := by
  grind (ematch := 20) [State.portDone, State.modIsl_keep, State.keepDone_keep, State.portDeliver_keep, foldl_keep]

theorem execFarLoadData_keep {i n s t} (h : State.keep q s) (e : execFarLoadData i n s = .next t) : State.keep q t := by
  simp only [execFarLoadData, Host.Outcome.next.injEq] at e
  subst e
  refine State.served_keep h fun s h => ?_
  split <;> grind (ematch := 20) [State.portDone_keep, State.farPart_keep, State.modIsl_keep, State.portPerform_keep, keep_mk, foldl_keep, foldl_keep_fst]

theorem execTStoreBufferDrain_keep {i k ev s t} (h : State.keep q s) (e : execTStoreBufferDrain i k ev s = .next t) : State.keep q t := by
  grind (ematch := 20) [execTStoreBufferDrain, State.tDrainOne_keep, State.mergeEcc_keep]

theorem State.boundReached_keep {s i k b} (h : State.keep q s) : State.keep q (State.boundReached s i k b) := by
  grind (ematch := 20) [State.boundReached, State.modIsl_keep, State.draw_keep, State.setE_keep]

theorem execTInterruptEntry_keep {i k s t} (h : State.keep q s) (e : execTInterruptEntry i k s = .next t) : State.keep q t := by
  unfold execTInterruptEntry at e
  grind (ematch := 20) [State.tWake_keep, State.boundReached_keep, State.coreMismatch_keep, State.tAbandon_keep, State.tStop_keep, State.tEnter_keep]

theorem State.votedRefused_keep {s i r e3} (h : State.keep q s) : State.keep q (State.votedRefused s i r e3) := by
  grind (ematch := 20) [State.votedRefused, State.record_keep]

theorem State.relReg_keep {s i r} (h : State.keep q s) : State.keep q (State.relReg s i r) := by
  grind (ematch := 20) [State.relReg, State.islWrite_keep, State.votedRefused_keep]

theorem State.relFar_keep {s i r pa} (h : State.keep q s) : State.keep q (State.relFar s i r pa) := by
  grind (ematch := 20) [State.relFar, State.farWrite_keep, State.regWrite_keep, State.settleForced_keep, State.votedRefused_keep, State.modIsl_keep]

theorem execWriteRelease_keep {i ev s t} (h : State.keep q s) (e : execWriteRelease i ev s = .next t) : State.keep q t := by
  grind (ematch := 20) [execWriteRelease, State.served_keep, State.modIsl_keep, State.memWrite_keep, State.mergeEcc_keep, State.relReg_keep, State.relFar_keep]

theorem execVotedWriteResponse_keep {i e1 s t} (h : State.keep q s) (e : execVotedWriteResponse i e1 s = .next t) : State.keep q t := by
  grind (ematch := 20) [execVotedWriteResponse, State.votedRefused_keep, State.modIsl_keep]

theorem State.tHalt_keep {s i k} (h : State.keep q s) : State.keep q (State.tHalt s i k) := by
  grind (ematch := 20) [State.tHalt, State.tHaltTry_keep, State.tWake_keep, State.modTc_keep]

theorem State.tResume_keep {s i k single} (h : State.keep q s) : State.keep q (State.tResume s i k single) := by
  grind (ematch := 20) [State.tResume, State.modTc_keep]

theorem execDebugHaltRequest_keep {c s t} (h : State.keep q s) (e : execDebugHaltRequest c s = .next t) : State.keep q t := by
  unfold execDebugHaltRequest at e
  grind (ematch := 20) [State.aHalt_keep, State.tHalt_keep]

theorem execDebugResume_keep {c single s t} (h : State.keep q s) (e : execDebugResume c single s = .next t) : State.keep q t := by
  unfold execDebugResume at e
  grind (ematch := 20) [State.aResume_keep, State.tResume_keep]

end Sys2Proof.Machine
end

