-- ==== Sys2Proof/Laws/Keep/Dispatch.lean ====
section
/-! SUPPORT. The operations of Machine/Dispatch.lean leave the queue and the canonical form of the tables. -/
namespace Sys2Proof.Machine

set_option Elab.async false

variable {q : List Instr}

theorem exec_keep {i s t} (h : State.keep q s) (e : exec i s = .next t) : State.keep q t := by
  cases i with
  | integerOp => exact execIntegerOp_keep h e
  | multiply => exact execMultiply_keep h e
  | divide => exact execDivide_keep h e
  | load => exact execLoad_keep h e
  | store => exact execStore_keep h e
  | floatOp => exact execFloatOp_keep h e
  | conditionalBranch => exact execConditionalBranch_keep h e
  | jump => exact execJump_keep h e
  | registerJump => exact execRegisterJump_keep h e
  | amo => exact execAmo_keep h e
  | cas => exact execCas_keep h e
  | lda => exact execLda_keep h e
  | stl => exact execStl_keep h e
  | bcopy => exact execBcopy_keep h e
  | bfill => exact execBfill_keep h e
  | bcrc => exact execBcrc_keep h e
  | bcrcE => exact execBcrcE_keep h e
  | ldm => exact execLdm_keep h e
  | stm => exact execStm_keep h e
  | mfs => exact execMfs_keep h e
  | mts => exact execMts_keep h e
  | eret => exact execEret_keep h e
  | tEret => exact execTEret_keep h e
  | gate => exact execGate_keep h e
  | gret => exact execGret_keep h e
  | fence => exact execFence_keep h e
  | fenceI => exact execFenceI_keep h e
  | fenceD => exact execFenceD_keep h e
  | fenceT => exact execFenceT_keep h e
  | spb => exact execSpb_keep h e
  | prflush => exact execPrflush_keep h e
  | prbar => exact execPrbar_keep h e
  | wfi => exact execWfi_keep h e
  | brk => exact execBrk_keep h e
  | nop => exact execNop_keep h e
  | chkpt => exact execChkpt_keep h e
  | tlbiva => exact execTlbiva_keep h e
  | tlbivaa => exact execTlbivaa_keep h e
  | tlbipcid => exact execTlbipcid_keep h e
  | tlbipart => exact execTlbipart_keep h e
  | tlbiipa => exact execTlbiipa_keep h e
  | tlbis2 => exact execTlbis2_keep h e
  | tlbiall => exact execTlbiall_keep h e
  | tlbiRemoteEffect => exact execTlbiRemoteEffect_keep h e
  | dcc => exact execDcc_keep h e
  | dcci => exact execDcci_keep h e
  | dci => exact execDci_keep h e
  | ici => exact execIci_keep h e
  | zline => exact execZline_keep h e
  | loop => exact execLoop_keep h e
  | cmove => exact execCmove_keep h e
  | cincb => exact execCincb_keep h e
  | csetl => exact execCsetl_keep h e
  | candp => exact execCandp_keep h e
  | cseal => exact execCseal_keep h e
  | cunseal => exact execCunseal_keep h e
  | cclrt => exact execCclrt_keep h e
  | cgetb => exact execCgetb_keep h e
  | cgetl => exact execCgetl_keep h e
  | cgetp => exact execCgetp_keep h e
  | cgett => exact execCgett_keep h e
  | cgetg => exact execCgetg_keep h e
  | ccall => exact execCcall_keep h e
  | cret => exact execCret_keep h e
  | cmfc => exact execCmfc_keep h e
  | cmtc => exact execCmtc_keep h e
  | clc => exact execClc_keep h e
  | csc => exact execCsc_keep h e
  | storeBufferDrain => exact execStoreBufferDrain_keep h e
  | partialOverlapReissue => exact execPartialOverlapReissue_keep h e
  | l1dMissFill => exact execL1dMissFill_keep h e
  | prefetchIssue => exact execPrefetchIssue_keep h e
  | tableWalk => exact execTableWalk_keep h e
  | adUpdate => exact execAdUpdate_keep h e
  | interruptTake => exact execInterruptTake_keep h e
  | irqInputAssert => exact execIrqInputAssert_keep h e
  | irqPulse => exact execIrqPulse_keep h e
  | irqAck => exact execIrqAck_keep h e
  | irqEoi => exact execIrqEoi_keep h e
  | irqSgi => exact execIrqSgi_keep h e
  | setpend => exact execSetpend_keep h e
  | clrpend => exact execClrpend_keep h e
  | virqInj => exact execVirqInj_keep h e
  | virqAck => exact execVirqAck_keep h e
  | virqEoi => exact execVirqEoi_keep h e
  | msiDoorbell => exact execMsiDoorbell_keep h e
  | registerWrite => exact execRegisterWrite_keep h e
  | tcmMeshWrite => exact execTcmMeshWrite_keep h e
  | pcieInboundRequest => exact execPcieInboundRequest_keep h e
  | rdShare => exact execRdShare_keep h e
  | rdOwn => exact execRdOwn_keep h e
  | rdPeek => exact execRdPeek_keep h e
  | wrPush => exact execWrPush_keep h e
  | haAtomic => exact execHaAtomic_keep h e
  | evClean => exact execEvClean_keep h e
  | evDirty => exact execEvDirty_keep h e
  | snShare => exact execSnShare_keep h e
  | snTake => exact execSnTake_keep h e
  | snPeek => exact execSnPeek_keep h e
  | snoopAnswer => exact execSnoopAnswer_keep h e
  | evictionAck => exact execEvictionAck_keep h e
  | snoopTimeout => exact execSnoopTimeout_keep h e
  | fatalGraceExpiry => exact execFatalGraceExpiry_keep h e
  | cleanWays => exact execCleanWays_keep h e
  | cleanWaysDone => exact execCleanWaysDone_keep h e
  | suspectClear => exact execSuspectClear_keep h e
  | hbmCommand => exact execHbmCommand_keep h e
  | hbmCorrectionWriteback => exact execHbmCorrectionWriteback_keep h e
  | hbmVerifyRead => exact execHbmVerifyRead_keep h e
  | hbmRefresh => exact execHbmRefresh_keep h e
  | hbmRfm => exact execHbmRfm_keep h e
  | patrolScrubRead => exact execPatrolScrubRead_keep h e
  | rowRepair => exact execRowRepair_keep h e
  | migrationChunkDone => exact execMigrationChunkDone_keep h e
  | hbmRetraining => exact execHbmRetraining_keep h e
  | hbmRetrainingDone => exact execHbmRetrainingDone_keep h e
  | hbmTrainingDone => exact execHbmTrainingDone_keep h e
  | hbmFillDone => exact execHbmFillDone_keep h e
  | islandInterruptOffer => exact execIslandInterruptOffer_keep h e
  | tInterruptEntry => exact execTInterruptEntry_keep h e
  | farLoadData => exact execFarLoadData_keep h e
  | tStoreBufferDrain => exact execTStoreBufferDrain_keep h e
  | islEoi => exact execIslEoi_keep h e
  | doorbell y_m yi yd yv => exact execDoorbell_keep (_m := y_m) h e
  | spiData yi yk y_v => exact execSpiData_keep (v := y_v) h e
  | spiTransferDone => exact execSpiTransferDone_keep h e
  | captureInputEdge => exact execCaptureInputEdge_keep h e
  | pennantWindowClose => exact execPennantWindowClose_keep h e
  | pennantComparison => exact execPennantComparison_keep h e
  | pennantSkewTimeout => exact execPennantSkewTimeout_keep h e
  | outputQueueComparison => exact execOutputQueueComparison_keep h e
  | outputSkewTimeout => exact execOutputSkewTimeout_keep h e
  | writeRelease => exact execWriteRelease_keep h e
  | votedWriteResponse => exact execVotedWriteResponse_keep h e
  | selfTestDone => exact execSelfTestDone_keep h e
  | injectionTestDone => exact execInjectionTestDone_keep h e
  | rejoinCopyDone => exact execRejoinCopyDone_keep h e
  | voterRestartHold => exact execVoterRestartHold_keep h e
  | voterRestartRelease => exact execVoterRestartRelease_keep h e
  | hsRelease => exact execHsRelease_keep h e
  | huskClaim => exact execHuskClaim_keep h e
  | huskSeal => exact execHuskSeal_keep h e
  | huskDestroy => exact execHuskDestroy_keep h e
  | huskSealingDone => exact execHuskSealingDone_keep h e
  | huskClearingDone => exact execHuskClearingDone_keep h e
  | debugHaltRequest => exact execDebugHaltRequest_keep h e
  | powerReq => exact execPowerReq_keep h e
  | powerHold => exact execPowerHold_keep h e
  | domainTransitionDone => exact execDomainTransitionDone_keep h e
  | deviceReqSuspend => exact execDeviceReqSuspend_keep h e
  | deviceReqSleep => exact execDeviceReqSleep_keep h e
  | deviceReqActive => exact execDeviceReqActive_keep h e
  | suspendCoresIdle => exact execSuspendCoresIdle_keep h e
  | suspendWaitExpiry => exact execSuspendWaitExpiry_keep h e
  | suspendToSleepExpiry => exact execSuspendToSleepExpiry_keep h e
  | wakePatternMatch => exact execWakePatternMatch_keep h e
  | wakeInDebounceExpiry => exact execWakeInDebounceExpiry_keep h e
  | wakeTimer => exact execWakeTimer_keep h e
  | podMhz => exact execPodMhz_keep h e
  | podPllRelockDone => exact execPodPllRelockDone_keep h e
  | thermalThrottle => exact execThermalThrottle_keep h e
  | thermalUnthrottle => exact execThermalUnthrottle_keep h e
  | porstN => exact execPorstN_keep h e
  | bootImageVerify => exact execBootImageVerify_keep h e
  | islandImageStage => exact execIslandImageStage_keep h e
  | bootCoreRelease => exact execBootCoreRelease_keep h e
  | sysrstN => exact execSysrstN_keep h e
  | sysreset => exact execSysreset_keep h e
  | smcWdt => exact execSmcWdt_keep h e
  | smcWatchdogExpiry => exact execSmcWatchdogExpiry_keep h e
  | voltageMonitorTrip => exact execVoltageMonitorTrip_keep h e
  | pmicStatusPoll => exact execPmicStatusPoll_keep h e
  | pmicPowerUpRetry => exact execPmicPowerUpRetry_keep h e
  | pmicInt => exact execPmicInt_keep h e
  | frameReceive => exact execFrameReceive_keep h e
  | carveOutReadDone => exact execCarveOutReadDone_keep h e
  | rxDescriptorFill => exact execRxDescriptorFill_keep h e
  | txTail => exact execTxTail_keep h e
  | rxTail => exact execRxTail_keep h e
  | txDescriptorReadDone => exact execTxDescriptorReadDone_keep h e
  | frameTransmitStart => exact execFrameTransmitStart_keep h e
  | frameTransmitEnd => exact execFrameTransmitEnd_keep h e
  | launchTimeReached => exact execLaunchTimeReached_keep h e
  | gateControlIntervalEnd => exact execGateControlIntervalEnd_keep h e
  | gclApply => exact execGclApply_keep h e
  | gclSwitch => exact execGclSwitch_keep h e
  | sglApply => exact execSglApply_keep h e
  | sglSwitch => exact execSglSwitch_keep h e
  | streamGateIntervalEnd => exact execStreamGateIntervalEnd_keep h e
  | preemptVerifyResponse => exact execPreemptVerifyResponse_keep h e
  | gptpMessage => exact execGptpMessage_keep h e
  | flowInsert => exact execFlowInsert_keep h e
  | flowRemove => exact execFlowRemove_keep h e
  | flowRead => exact execFlowRead_keep h e
  | flowFind => exact execFlowFind_keep h e
  | flowUpdate => exact execFlowUpdate_keep h e
  | flowClear => exact execFlowClear_keep h e
  | flowBulk => exact execFlowBulk_keep h e
  | viIrqStat => exact execViIrqStat_keep h e
  | irqModExpiry => exact execIrqModExpiry_keep h e
  | qpEnable => exact execQpEnable_keep h e
  | microcodeLoad => exact execMicrocodeLoad_keep h e
  | microcodeWatchdogExpiry => exact execMicrocodeWatchdogExpiry_keep h e
  | canFrameReceive => exact execCanFrameReceive_keep h e
  | encapWindowTimeout => exact execEncapWindowTimeout_keep h e
  | acfFrameBuild => exact execAcfFrameBuild_keep h e
  | canArbitrationAttempt => exact execCanArbitrationAttempt_keep h e
  | canAttemptEnd => exact execCanAttemptEnd_keep h e
  | canBusoffRecovery => exact execCanBusoffRecovery_keep h e
  | canRestart => exact execCanRestart_keep h e
  | channelEnableOff => exact execChannelEnableOff_keep h e
  | loadHoldEnd => exact execLoadHoldEnd_keep h e
  | linHeader => exact execLinHeader_keep h e
  | linResponseReceive => exact execLinResponseReceive_keep h e
  | linResponseTimeout => exact execLinResponseTimeout_keep h e
  | linScheduleSlot => exact execLinScheduleSlot_keep h e
  | schedRun => exact execSchedRun_keep h e
  | pwmPeriodStart => exact execPwmPeriodStart_keep h e
  | envViolStat => exact execEnvViolStat_keep h e
  | dictWindowRead => exact execDictWindowRead_keep h e
  | dictWindowWrite => exact execDictWindowWrite_keep h e
  | mbRead => exact execMbRead_keep h e
  | mbWrite => exact execMbWrite_keep h e
  | seedStoreWriteDone => exact execSeedStoreWriteDone_keep h e
  | dapPduReceive => exact execDapPduReceive_keep h e
  | dapRead => exact execDapRead_keep h e
  | dapWrite => exact execDapWrite_keep h e
  | dapSubscribe => exact execDapSubscribe_keep h e
  | dapUnsubscribe => exact execDapUnsubscribe_keep h e
  | dapNotify => exact execDapNotify_keep h e
  | dapPing => exact execDapPing_keep h e
  | broadcastPingDelay => exact execBroadcastPingDelay_keep h e
  | dapEnsignClaim => exact execDapEnsignClaim_keep h e
  | dapEnsignRelease => exact execDapEnsignRelease_keep h e
  | ensignClaim => exact execEnsignClaim_keep h e
  | ensignWindowClose => exact execEnsignWindowClose_keep h e
  | ensignLeaseExpiry => exact execEnsignLeaseExpiry_keep h e
  | dapAck => exact execDapAck_keep h e
  | dapAbort => exact execDapAbort_keep h e
  | dapSegment => exact execDapSegment_keep h e
  | dapTransactionTimeout => exact execDapTransactionTimeout_keep h e
  | calUnlock => exact execCalUnlock_keep h e
  | calEntryWrite => exact execCalEntryWrite_keep h e
  | selfcalVmon => exact execSelfcalVmon_keep h e
  | selfcalClock => exact execSelfcalClock_keep h e
  | selfcalSerdes => exact execSelfcalSerdes_keep h e
  | selfcalHbmSeed => exact execSelfcalHbmSeed_keep h e
  | selfcalDone => exact execSelfcalDone_keep h e
  | keyRevoke => exact execKeyRevoke_keep h e
  | retireClear => exact execRetireClear_keep h e
  | fbPop => exact execFbPop_keep h e
  | ledgerTail => exact execLedgerTail_keep h e
  | dmTail => exact execDmTail_keep h e
  | dmDescriptorStart => exact execDmDescriptorStart_keep h e
  | dmDescriptorComplete => exact execDmDescriptorComplete_keep h e
  | dmError => exact execDmError_keep h e
  | dmAbort => exact execDmAbort_keep h e
  | dmAbortAll => exact execDmAbortAll_keep h e
  | dmEnable => exact execDmEnable_keep h e
  | gpioEdge => exact execGpioEdge_keep h e
  | gpioIrqStat => exact execGpioIrqStat_keep h e
  | portLinkChange => exact execPortLinkChange_keep h e
  | porstNLow => exact execPorstNLow_keep h e
  | canIntegrationEnd => exact execCanIntegrationEnd_keep h e
  | canErrorDetected => exact execCanErrorDetected_keep h e
  | gptpTimer => exact execGptpTimer_keep h e
  | pllLock => exact execPllLock_keep h e
  | sramFillDone => exact execSramFillDone_keep h e
  | debugResume => exact execDebugResume_keep h e
  | pciePerstNRise => exact execPciePerstNRise_keep h e
  | shaperCreditRecovered => exact execShaperCreditRecovered_keep h e
  | rejoinCaptureDone => exact execRejoinCaptureDone_keep h e

end Sys2Proof.Machine
end

