-- ==== Sys2Proof/Laws/State.lean ====
section
/-! SUPPORT. What the updates of the state leave: one element of an array, and the fields that an update does not name. -/
namespace Sys2Proof.Machine

/-! ## Arrays -/

@[simp] theorem vset_get {α : Type} {n : Nat} (v : Vector α n) (i : Fin n) (x : α) : (vset v i x).get i = x := by
  change (v.set i.val x i.isLt)[i.val] = x
  simp

theorem vset_get_ne {α : Type} {n : Nat} (v : Vector α n) {i j : Fin n} (x : α) (h : j ≠ i) :
    (vset v i x).get j = v.get j := by
  have h' : i.val ≠ j.val := fun e => h (Fin.ext e.symm)
  change (v.set i.val x i.isLt)[j.val] = v[j.val]
  simp [h']

@[simp] theorem vset_vset {α : Type} {n : Nat} (v : Vector α n) (i : Fin n) (x y : α) : vset (vset v i x) i y = vset v i y := by
  simp [vset]

@[simp] theorem vset_self {α : Type} {n : Nat} (v : Vector α n) (i : Fin n) : vset v i (v.get i) = v := by
  change v.set i.val v[i.val] i.isLt = v
  simp

@[simp] theorem vmod_get {α : Type} {n : Nat} (v : Vector α n) (i : Fin n) (f : α → α) : (vmod v i f).get i = f (v.get i) := by
  simp [vmod]

theorem vmod_get_ne {α : Type} {n : Nat} (v : Vector α n) {i j : Fin n} (f : α → α) (h : j ≠ i) :
    (vmod v i f).get j = v.get j := vset_get_ne v _ h

@[simp] theorem vset_vmod {α : Type} {n : Nat} (v : Vector α n) (i : Fin n) (f : α → α) (x : α) :
    vset (vmod v i f) i x = vset v i x := by simp [vmod]

/-! ## Fields -/

variable (s : State)

@[simp] theorem State.modA_get (c : Fin 32) (f : ACore → ACore) : (s.modA c f).acore.get c = f (s.acore.get c) := by
  simp [State.modA]

@[simp] theorem State.modA_else (c : Fin 32) (f : ACore → ACore) :
    (s.modA c f).pending = s.pending ∧ (s.modA c f).time = s.time ∧ (s.modA c f).fresh = s.fresh ∧
    (s.modA c f).held = s.held ∧ (s.modA c f).reply = s.reply ∧ (s.modA c f).mem = s.mem ∧
    (s.modA c f).poison = s.poison ∧ (s.modA c f).tags = s.tags ∧ (s.modA c f).ecc = s.ecc ∧ (s.modA c f).ent = s.ent ∧
    (s.modA c f).entB = s.entB ∧ (s.modA c f).tlbPend = s.tlbPend ∧ (s.modA c f).pod = s.pod ∧
    (s.modA c f).home = s.home ∧ (s.modA c f).pc = s.pc ∧ (s.modA c f).hbm = s.hbm ∧ (s.modA c f).sent = s.sent ∧
    (s.modA c f).island = s.island ∧ (s.modA c f).safeN = s.safeN ∧ (s.modA c f).irq = s.irq ∧
    (s.modA c f).husk = s.husk ∧ (s.modA c f).gw = s.gw ∧ (s.modA c f).env = s.env ∧ (s.modA c f).mail = s.mail ∧
    (s.modA c f).dap = s.dap ∧ (s.modA c f).seed = s.seed ∧ (s.modA c f).hazel = s.hazel ∧ (s.modA c f).dm = s.dm ∧
    (s.modA c f).fb = s.fb ∧ (s.modA c f).ledger = s.ledger ∧ (s.modA c f).trans = s.trans ∧
    (s.modA c f).retired = s.retired ∧ (s.modA c f).gpio = s.gpio ∧ (s.modA c f).pcieOut = s.pcieOut := by
  and_intros <;> rfl

@[simp] theorem State.modIsl_get (i : Fin 4) (f : Island → Island) : (s.modIsl i f).island.get i = f (s.island.get i) := by
  simp [State.modIsl]

@[simp] theorem State.modIsl_else (i : Fin 4) (f : Island → Island) :
    (s.modIsl i f).pending = s.pending ∧ (s.modIsl i f).time = s.time ∧ (s.modIsl i f).fresh = s.fresh ∧
    (s.modIsl i f).held = s.held ∧ (s.modIsl i f).reply = s.reply ∧ (s.modIsl i f).mem = s.mem ∧
    (s.modIsl i f).poison = s.poison ∧ (s.modIsl i f).tags = s.tags ∧ (s.modIsl i f).ecc = s.ecc ∧
    (s.modIsl i f).ent = s.ent ∧ (s.modIsl i f).entB = s.entB ∧ (s.modIsl i f).acore = s.acore ∧
    (s.modIsl i f).tlbPend = s.tlbPend ∧ (s.modIsl i f).pod = s.pod ∧ (s.modIsl i f).home = s.home ∧
    (s.modIsl i f).pc = s.pc ∧ (s.modIsl i f).hbm = s.hbm ∧ (s.modIsl i f).sent = s.sent ∧
    (s.modIsl i f).safeN = s.safeN ∧ (s.modIsl i f).irq = s.irq ∧ (s.modIsl i f).husk = s.husk ∧
    (s.modIsl i f).gw = s.gw ∧ (s.modIsl i f).env = s.env ∧ (s.modIsl i f).mail = s.mail ∧ (s.modIsl i f).dap = s.dap ∧
    (s.modIsl i f).seed = s.seed ∧ (s.modIsl i f).hazel = s.hazel ∧ (s.modIsl i f).dm = s.dm ∧ (s.modIsl i f).fb = s.fb ∧
    (s.modIsl i f).ledger = s.ledger ∧ (s.modIsl i f).trans = s.trans ∧ (s.modIsl i f).retired = s.retired ∧
    (s.modIsl i f).gpio = s.gpio ∧ (s.modIsl i f).pcieOut = s.pcieOut := by
  and_intros <;> rfl

@[simp] theorem State.modPod_get (p : Fin 8) (f : Pod → Pod) : (s.modPod p f).pod.get p = f (s.pod.get p) := by
  simp [State.modPod]

@[simp] theorem State.modPod_else (p : Fin 8) (f : Pod → Pod) :
    (s.modPod p f).pending = s.pending ∧ (s.modPod p f).time = s.time ∧ (s.modPod p f).fresh = s.fresh ∧
    (s.modPod p f).held = s.held ∧ (s.modPod p f).reply = s.reply ∧ (s.modPod p f).mem = s.mem ∧
    (s.modPod p f).poison = s.poison ∧ (s.modPod p f).tags = s.tags ∧ (s.modPod p f).ecc = s.ecc ∧
    (s.modPod p f).ent = s.ent ∧ (s.modPod p f).entB = s.entB ∧ (s.modPod p f).acore = s.acore ∧
    (s.modPod p f).tlbPend = s.tlbPend ∧ (s.modPod p f).home = s.home ∧ (s.modPod p f).pc = s.pc ∧
    (s.modPod p f).hbm = s.hbm ∧ (s.modPod p f).sent = s.sent ∧ (s.modPod p f).island = s.island ∧
    (s.modPod p f).safeN = s.safeN ∧ (s.modPod p f).irq = s.irq ∧ (s.modPod p f).husk = s.husk ∧
    (s.modPod p f).gw = s.gw ∧ (s.modPod p f).env = s.env ∧ (s.modPod p f).mail = s.mail ∧ (s.modPod p f).dap = s.dap ∧
    (s.modPod p f).seed = s.seed ∧ (s.modPod p f).hazel = s.hazel ∧ (s.modPod p f).dm = s.dm ∧ (s.modPod p f).fb = s.fb ∧
    (s.modPod p f).ledger = s.ledger ∧ (s.modPod p f).trans = s.trans ∧ (s.modPod p f).retired = s.retired ∧
    (s.modPod p f).gpio = s.gpio ∧ (s.modPod p f).pcieOut = s.pcieOut := by
  and_intros <;> rfl

@[simp] theorem State.modHome_get (h : Fin 16) (f : Home → Home) : (s.modHome h f).home.get h = f (s.home.get h) := by
  simp [State.modHome]

@[simp] theorem State.modHome_else (h : Fin 16) (f : Home → Home) :
    (s.modHome h f).pending = s.pending ∧ (s.modHome h f).time = s.time ∧ (s.modHome h f).fresh = s.fresh ∧
    (s.modHome h f).held = s.held ∧ (s.modHome h f).reply = s.reply ∧ (s.modHome h f).mem = s.mem ∧
    (s.modHome h f).poison = s.poison ∧ (s.modHome h f).tags = s.tags ∧ (s.modHome h f).ecc = s.ecc ∧
    (s.modHome h f).ent = s.ent ∧ (s.modHome h f).entB = s.entB ∧ (s.modHome h f).acore = s.acore ∧
    (s.modHome h f).tlbPend = s.tlbPend ∧ (s.modHome h f).pod = s.pod ∧ (s.modHome h f).pc = s.pc ∧
    (s.modHome h f).hbm = s.hbm ∧ (s.modHome h f).sent = s.sent ∧ (s.modHome h f).island = s.island ∧
    (s.modHome h f).safeN = s.safeN ∧ (s.modHome h f).irq = s.irq ∧ (s.modHome h f).husk = s.husk ∧
    (s.modHome h f).gw = s.gw ∧ (s.modHome h f).env = s.env ∧ (s.modHome h f).mail = s.mail ∧
    (s.modHome h f).dap = s.dap ∧ (s.modHome h f).seed = s.seed ∧ (s.modHome h f).hazel = s.hazel ∧
    (s.modHome h f).dm = s.dm ∧ (s.modHome h f).fb = s.fb ∧ (s.modHome h f).ledger = s.ledger ∧
    (s.modHome h f).trans = s.trans ∧ (s.modHome h f).retired = s.retired ∧ (s.modHome h f).gpio = s.gpio ∧
    (s.modHome h f).pcieOut = s.pcieOut := by
  and_intros <;> rfl

@[simp] theorem State.modPc_get (p : Fin 64) (f : PseudoChannel → PseudoChannel) : (s.modPc p f).pc.get p = f (s.pc.get p) := by
  simp [State.modPc]

@[simp] theorem State.modPc_else (p : Fin 64) (f : PseudoChannel → PseudoChannel) :
    (s.modPc p f).pending = s.pending ∧ (s.modPc p f).time = s.time ∧ (s.modPc p f).fresh = s.fresh ∧
    (s.modPc p f).held = s.held ∧ (s.modPc p f).reply = s.reply ∧ (s.modPc p f).mem = s.mem ∧
    (s.modPc p f).poison = s.poison ∧ (s.modPc p f).tags = s.tags ∧ (s.modPc p f).ecc = s.ecc ∧
    (s.modPc p f).ent = s.ent ∧ (s.modPc p f).entB = s.entB ∧ (s.modPc p f).acore = s.acore ∧
    (s.modPc p f).tlbPend = s.tlbPend ∧ (s.modPc p f).pod = s.pod ∧ (s.modPc p f).home = s.home ∧
    (s.modPc p f).hbm = s.hbm ∧ (s.modPc p f).sent = s.sent ∧ (s.modPc p f).island = s.island ∧
    (s.modPc p f).safeN = s.safeN ∧ (s.modPc p f).irq = s.irq ∧ (s.modPc p f).husk = s.husk ∧ (s.modPc p f).gw = s.gw ∧
    (s.modPc p f).env = s.env ∧ (s.modPc p f).mail = s.mail ∧ (s.modPc p f).dap = s.dap ∧ (s.modPc p f).seed = s.seed ∧
    (s.modPc p f).hazel = s.hazel ∧ (s.modPc p f).dm = s.dm ∧ (s.modPc p f).fb = s.fb ∧ (s.modPc p f).ledger = s.ledger ∧
    (s.modPc p f).trans = s.trans ∧ (s.modPc p f).retired = s.retired ∧ (s.modPc p f).gpio = s.gpio ∧
    (s.modPc p f).pcieOut = s.pcieOut := by
  and_intros <;> rfl

@[simp] theorem State.modDm_get (n : Fin 32) (f : DmChan → DmChan) : (s.modDm n f).dm.get n = f (s.dm.get n) := by
  simp [State.modDm]

@[simp] theorem State.modDm_else (n : Fin 32) (f : DmChan → DmChan) :
    (s.modDm n f).pending = s.pending ∧ (s.modDm n f).time = s.time ∧ (s.modDm n f).fresh = s.fresh ∧
    (s.modDm n f).held = s.held ∧ (s.modDm n f).reply = s.reply ∧ (s.modDm n f).mem = s.mem ∧
    (s.modDm n f).poison = s.poison ∧ (s.modDm n f).tags = s.tags ∧ (s.modDm n f).ecc = s.ecc ∧
    (s.modDm n f).ent = s.ent ∧ (s.modDm n f).entB = s.entB ∧ (s.modDm n f).acore = s.acore ∧
    (s.modDm n f).tlbPend = s.tlbPend ∧ (s.modDm n f).pod = s.pod ∧ (s.modDm n f).home = s.home ∧
    (s.modDm n f).pc = s.pc ∧ (s.modDm n f).hbm = s.hbm ∧ (s.modDm n f).sent = s.sent ∧ (s.modDm n f).island = s.island ∧
    (s.modDm n f).safeN = s.safeN ∧ (s.modDm n f).irq = s.irq ∧ (s.modDm n f).husk = s.husk ∧ (s.modDm n f).gw = s.gw ∧
    (s.modDm n f).env = s.env ∧ (s.modDm n f).mail = s.mail ∧ (s.modDm n f).dap = s.dap ∧ (s.modDm n f).seed = s.seed ∧
    (s.modDm n f).hazel = s.hazel ∧ (s.modDm n f).fb = s.fb ∧ (s.modDm n f).ledger = s.ledger ∧
    (s.modDm n f).trans = s.trans ∧ (s.modDm n f).retired = s.retired ∧ (s.modDm n f).gpio = s.gpio ∧
    (s.modDm n f).pcieOut = s.pcieOut := by
  and_intros <;> rfl

@[simp] theorem State.modMail_get (p : Fin 64) (f : MailPage → MailPage) : (s.modMail p f).mail.get p = f (s.mail.get p) := by
  simp [State.modMail]

@[simp] theorem State.modMail_else (p : Fin 64) (f : MailPage → MailPage) :
    (s.modMail p f).pending = s.pending ∧ (s.modMail p f).time = s.time ∧ (s.modMail p f).fresh = s.fresh ∧
    (s.modMail p f).held = s.held ∧ (s.modMail p f).reply = s.reply ∧ (s.modMail p f).mem = s.mem ∧
    (s.modMail p f).poison = s.poison ∧ (s.modMail p f).tags = s.tags ∧ (s.modMail p f).ecc = s.ecc ∧
    (s.modMail p f).ent = s.ent ∧ (s.modMail p f).entB = s.entB ∧ (s.modMail p f).acore = s.acore ∧
    (s.modMail p f).tlbPend = s.tlbPend ∧ (s.modMail p f).pod = s.pod ∧ (s.modMail p f).home = s.home ∧
    (s.modMail p f).pc = s.pc ∧ (s.modMail p f).hbm = s.hbm ∧ (s.modMail p f).sent = s.sent ∧
    (s.modMail p f).island = s.island ∧ (s.modMail p f).safeN = s.safeN ∧ (s.modMail p f).irq = s.irq ∧
    (s.modMail p f).husk = s.husk ∧ (s.modMail p f).gw = s.gw ∧ (s.modMail p f).env = s.env ∧
    (s.modMail p f).dap = s.dap ∧ (s.modMail p f).seed = s.seed ∧ (s.modMail p f).hazel = s.hazel ∧
    (s.modMail p f).dm = s.dm ∧ (s.modMail p f).fb = s.fb ∧ (s.modMail p f).ledger = s.ledger ∧
    (s.modMail p f).trans = s.trans ∧ (s.modMail p f).retired = s.retired ∧ (s.modMail p f).gpio = s.gpio ∧
    (s.modMail p f).pcieOut = s.pcieOut := by
  and_intros <;> rfl

@[simp] theorem State.modHz_get (f : Hazel → Hazel) : (s.modHz f).hazel = f s.hazel := by
  simp [State.modHz]

@[simp] theorem State.modHz_else (f : Hazel → Hazel) :
    (s.modHz f).pending = s.pending ∧ (s.modHz f).time = s.time ∧ (s.modHz f).fresh = s.fresh ∧
    (s.modHz f).held = s.held ∧ (s.modHz f).reply = s.reply ∧ (s.modHz f).mem = s.mem ∧ (s.modHz f).poison = s.poison ∧
    (s.modHz f).tags = s.tags ∧ (s.modHz f).ecc = s.ecc ∧ (s.modHz f).ent = s.ent ∧ (s.modHz f).entB = s.entB ∧
    (s.modHz f).acore = s.acore ∧ (s.modHz f).tlbPend = s.tlbPend ∧ (s.modHz f).pod = s.pod ∧ (s.modHz f).home = s.home ∧
    (s.modHz f).pc = s.pc ∧ (s.modHz f).hbm = s.hbm ∧ (s.modHz f).sent = s.sent ∧ (s.modHz f).island = s.island ∧
    (s.modHz f).safeN = s.safeN ∧ (s.modHz f).irq = s.irq ∧ (s.modHz f).husk = s.husk ∧ (s.modHz f).gw = s.gw ∧
    (s.modHz f).env = s.env ∧ (s.modHz f).mail = s.mail ∧ (s.modHz f).dap = s.dap ∧ (s.modHz f).seed = s.seed ∧
    (s.modHz f).dm = s.dm ∧ (s.modHz f).fb = s.fb ∧ (s.modHz f).ledger = s.ledger ∧ (s.modHz f).trans = s.trans ∧
    (s.modHz f).retired = s.retired ∧ (s.modHz f).gpio = s.gpio ∧ (s.modHz f).pcieOut = s.pcieOut := by
  and_intros <;> rfl

@[simp] theorem State.modDap_get (f : Dap → Dap) : (s.modDap f).dap = f s.dap := by
  simp [State.modDap]

@[simp] theorem State.modDap_else (f : Dap → Dap) :
    (s.modDap f).pending = s.pending ∧ (s.modDap f).time = s.time ∧ (s.modDap f).fresh = s.fresh ∧
    (s.modDap f).held = s.held ∧ (s.modDap f).reply = s.reply ∧ (s.modDap f).mem = s.mem ∧
    (s.modDap f).poison = s.poison ∧ (s.modDap f).tags = s.tags ∧ (s.modDap f).ecc = s.ecc ∧ (s.modDap f).ent = s.ent ∧
    (s.modDap f).entB = s.entB ∧ (s.modDap f).acore = s.acore ∧ (s.modDap f).tlbPend = s.tlbPend ∧
    (s.modDap f).pod = s.pod ∧ (s.modDap f).home = s.home ∧ (s.modDap f).pc = s.pc ∧ (s.modDap f).hbm = s.hbm ∧
    (s.modDap f).sent = s.sent ∧ (s.modDap f).island = s.island ∧ (s.modDap f).safeN = s.safeN ∧
    (s.modDap f).irq = s.irq ∧ (s.modDap f).husk = s.husk ∧ (s.modDap f).gw = s.gw ∧ (s.modDap f).env = s.env ∧
    (s.modDap f).mail = s.mail ∧ (s.modDap f).seed = s.seed ∧ (s.modDap f).hazel = s.hazel ∧ (s.modDap f).dm = s.dm ∧
    (s.modDap f).fb = s.fb ∧ (s.modDap f).ledger = s.ledger ∧ (s.modDap f).trans = s.trans ∧
    (s.modDap f).retired = s.retired ∧ (s.modDap f).gpio = s.gpio ∧ (s.modDap f).pcieOut = s.pcieOut := by
  and_intros <;> rfl

@[simp] theorem State.modCan_get (n : Fin 24) (f : Can → Can) : (s.modCan n f).gw.can.get n = f (s.gw.can.get n) := by
  simp [State.modCan]

@[simp] theorem State.modCan_else (n : Fin 24) (f : Can → Can) :
    (s.modCan n f).pending = s.pending ∧ (s.modCan n f).time = s.time ∧ (s.modCan n f).fresh = s.fresh ∧
    (s.modCan n f).held = s.held ∧ (s.modCan n f).reply = s.reply ∧ (s.modCan n f).mem = s.mem ∧
    (s.modCan n f).poison = s.poison ∧ (s.modCan n f).tags = s.tags ∧ (s.modCan n f).ecc = s.ecc ∧
    (s.modCan n f).ent = s.ent ∧ (s.modCan n f).entB = s.entB ∧ (s.modCan n f).acore = s.acore ∧
    (s.modCan n f).tlbPend = s.tlbPend ∧ (s.modCan n f).pod = s.pod ∧ (s.modCan n f).home = s.home ∧
    (s.modCan n f).pc = s.pc ∧ (s.modCan n f).hbm = s.hbm ∧ (s.modCan n f).sent = s.sent ∧
    (s.modCan n f).island = s.island ∧ (s.modCan n f).safeN = s.safeN ∧ (s.modCan n f).irq = s.irq ∧
    (s.modCan n f).husk = s.husk ∧ (s.modCan n f).env = s.env ∧ (s.modCan n f).mail = s.mail ∧
    (s.modCan n f).dap = s.dap ∧ (s.modCan n f).seed = s.seed ∧ (s.modCan n f).hazel = s.hazel ∧
    (s.modCan n f).dm = s.dm ∧ (s.modCan n f).fb = s.fb ∧ (s.modCan n f).ledger = s.ledger ∧
    (s.modCan n f).trans = s.trans ∧ (s.modCan n f).retired = s.retired ∧ (s.modCan n f).gpio = s.gpio ∧
    (s.modCan n f).pcieOut = s.pcieOut := by
  and_intros <;> rfl

@[simp] theorem State.modLin_get (n : Fin 12) (f : Lin → Lin) : (s.modLin n f).gw.lin.get n = f (s.gw.lin.get n) := by
  simp [State.modLin]

@[simp] theorem State.modLin_else (n : Fin 12) (f : Lin → Lin) :
    (s.modLin n f).pending = s.pending ∧ (s.modLin n f).time = s.time ∧ (s.modLin n f).fresh = s.fresh ∧
    (s.modLin n f).held = s.held ∧ (s.modLin n f).reply = s.reply ∧ (s.modLin n f).mem = s.mem ∧
    (s.modLin n f).poison = s.poison ∧ (s.modLin n f).tags = s.tags ∧ (s.modLin n f).ecc = s.ecc ∧
    (s.modLin n f).ent = s.ent ∧ (s.modLin n f).entB = s.entB ∧ (s.modLin n f).acore = s.acore ∧
    (s.modLin n f).tlbPend = s.tlbPend ∧ (s.modLin n f).pod = s.pod ∧ (s.modLin n f).home = s.home ∧
    (s.modLin n f).pc = s.pc ∧ (s.modLin n f).hbm = s.hbm ∧ (s.modLin n f).sent = s.sent ∧
    (s.modLin n f).island = s.island ∧ (s.modLin n f).safeN = s.safeN ∧ (s.modLin n f).irq = s.irq ∧
    (s.modLin n f).husk = s.husk ∧ (s.modLin n f).env = s.env ∧ (s.modLin n f).mail = s.mail ∧
    (s.modLin n f).dap = s.dap ∧ (s.modLin n f).seed = s.seed ∧ (s.modLin n f).hazel = s.hazel ∧
    (s.modLin n f).dm = s.dm ∧ (s.modLin n f).fb = s.fb ∧ (s.modLin n f).ledger = s.ledger ∧
    (s.modLin n f).trans = s.trans ∧ (s.modLin n f).retired = s.retired ∧ (s.modLin n f).gpio = s.gpio ∧
    (s.modLin n f).pcieOut = s.pcieOut := by
  and_intros <;> rfl

@[simp] theorem State.modWin_get (n : Fin 64) (f : Window → Window) : (s.modWin n f).gw.win.get n = f (s.gw.win.get n) := by
  simp [State.modWin]

@[simp] theorem State.modWin_else (n : Fin 64) (f : Window → Window) :
    (s.modWin n f).pending = s.pending ∧ (s.modWin n f).time = s.time ∧ (s.modWin n f).fresh = s.fresh ∧
    (s.modWin n f).held = s.held ∧ (s.modWin n f).reply = s.reply ∧ (s.modWin n f).mem = s.mem ∧
    (s.modWin n f).poison = s.poison ∧ (s.modWin n f).tags = s.tags ∧ (s.modWin n f).ecc = s.ecc ∧
    (s.modWin n f).ent = s.ent ∧ (s.modWin n f).entB = s.entB ∧ (s.modWin n f).acore = s.acore ∧
    (s.modWin n f).tlbPend = s.tlbPend ∧ (s.modWin n f).pod = s.pod ∧ (s.modWin n f).home = s.home ∧
    (s.modWin n f).pc = s.pc ∧ (s.modWin n f).hbm = s.hbm ∧ (s.modWin n f).sent = s.sent ∧
    (s.modWin n f).island = s.island ∧ (s.modWin n f).safeN = s.safeN ∧ (s.modWin n f).irq = s.irq ∧
    (s.modWin n f).husk = s.husk ∧ (s.modWin n f).env = s.env ∧ (s.modWin n f).mail = s.mail ∧
    (s.modWin n f).dap = s.dap ∧ (s.modWin n f).seed = s.seed ∧ (s.modWin n f).hazel = s.hazel ∧
    (s.modWin n f).dm = s.dm ∧ (s.modWin n f).fb = s.fb ∧ (s.modWin n f).ledger = s.ledger ∧
    (s.modWin n f).trans = s.trans ∧ (s.modWin n f).retired = s.retired ∧ (s.modWin n f).gpio = s.gpio ∧
    (s.modWin n f).pcieOut = s.pcieOut := by
  and_intros <;> rfl

@[simp] theorem State.modPort_get (n : Fin 24) (f : Port → Port) : (s.modPort n f).gw.ports.get n = f (s.gw.ports.get n) := by
  simp [State.modPort]

@[simp] theorem State.modPort_else (n : Fin 24) (f : Port → Port) :
    (s.modPort n f).pending = s.pending ∧ (s.modPort n f).time = s.time ∧ (s.modPort n f).fresh = s.fresh ∧
    (s.modPort n f).held = s.held ∧ (s.modPort n f).reply = s.reply ∧ (s.modPort n f).mem = s.mem ∧
    (s.modPort n f).poison = s.poison ∧ (s.modPort n f).tags = s.tags ∧ (s.modPort n f).ecc = s.ecc ∧
    (s.modPort n f).ent = s.ent ∧ (s.modPort n f).entB = s.entB ∧ (s.modPort n f).acore = s.acore ∧
    (s.modPort n f).tlbPend = s.tlbPend ∧ (s.modPort n f).pod = s.pod ∧ (s.modPort n f).home = s.home ∧
    (s.modPort n f).pc = s.pc ∧ (s.modPort n f).hbm = s.hbm ∧ (s.modPort n f).sent = s.sent ∧
    (s.modPort n f).island = s.island ∧ (s.modPort n f).safeN = s.safeN ∧ (s.modPort n f).irq = s.irq ∧
    (s.modPort n f).husk = s.husk ∧ (s.modPort n f).env = s.env ∧ (s.modPort n f).mail = s.mail ∧
    (s.modPort n f).dap = s.dap ∧ (s.modPort n f).seed = s.seed ∧ (s.modPort n f).hazel = s.hazel ∧
    (s.modPort n f).dm = s.dm ∧ (s.modPort n f).fb = s.fb ∧ (s.modPort n f).ledger = s.ledger ∧
    (s.modPort n f).trans = s.trans ∧ (s.modPort n f).retired = s.retired ∧ (s.modPort n f).gpio = s.gpio ∧
    (s.modPort n f).pcieOut = s.pcieOut := by
  and_intros <;> rfl

@[simp] theorem State.modGate_get (n : Fin 64) (f : SGate → SGate) : (s.modGate n f).gw.sgates.get n = f (s.gw.sgates.get n) := by
  simp [State.modGate]

@[simp] theorem State.modGate_else (n : Fin 64) (f : SGate → SGate) :
    (s.modGate n f).pending = s.pending ∧ (s.modGate n f).time = s.time ∧ (s.modGate n f).fresh = s.fresh ∧
    (s.modGate n f).held = s.held ∧ (s.modGate n f).reply = s.reply ∧ (s.modGate n f).mem = s.mem ∧
    (s.modGate n f).poison = s.poison ∧ (s.modGate n f).tags = s.tags ∧ (s.modGate n f).ecc = s.ecc ∧
    (s.modGate n f).ent = s.ent ∧ (s.modGate n f).entB = s.entB ∧ (s.modGate n f).acore = s.acore ∧
    (s.modGate n f).tlbPend = s.tlbPend ∧ (s.modGate n f).pod = s.pod ∧ (s.modGate n f).home = s.home ∧
    (s.modGate n f).pc = s.pc ∧ (s.modGate n f).hbm = s.hbm ∧ (s.modGate n f).sent = s.sent ∧
    (s.modGate n f).island = s.island ∧ (s.modGate n f).safeN = s.safeN ∧ (s.modGate n f).irq = s.irq ∧
    (s.modGate n f).husk = s.husk ∧ (s.modGate n f).env = s.env ∧ (s.modGate n f).mail = s.mail ∧
    (s.modGate n f).dap = s.dap ∧ (s.modGate n f).seed = s.seed ∧ (s.modGate n f).hazel = s.hazel ∧
    (s.modGate n f).dm = s.dm ∧ (s.modGate n f).fb = s.fb ∧ (s.modGate n f).ledger = s.ledger ∧
    (s.modGate n f).trans = s.trans ∧ (s.modGate n f).retired = s.retired ∧ (s.modGate n f).gpio = s.gpio ∧
    (s.modGate n f).pcieOut = s.pcieOut := by
  and_intros <;> rfl

@[simp] theorem State.putVi_else (v : Nat) (x : Vi) :
    (s.putVi v x).pending = s.pending ∧ (s.putVi v x).time = s.time ∧ (s.putVi v x).fresh = s.fresh ∧
    (s.putVi v x).held = s.held ∧ (s.putVi v x).reply = s.reply ∧ (s.putVi v x).mem = s.mem ∧
    (s.putVi v x).poison = s.poison ∧ (s.putVi v x).tags = s.tags ∧ (s.putVi v x).ecc = s.ecc ∧
    (s.putVi v x).ent = s.ent ∧ (s.putVi v x).entB = s.entB ∧ (s.putVi v x).acore = s.acore ∧
    (s.putVi v x).tlbPend = s.tlbPend ∧ (s.putVi v x).pod = s.pod ∧ (s.putVi v x).home = s.home ∧
    (s.putVi v x).pc = s.pc ∧ (s.putVi v x).hbm = s.hbm ∧ (s.putVi v x).sent = s.sent ∧ (s.putVi v x).island = s.island ∧
    (s.putVi v x).safeN = s.safeN ∧ (s.putVi v x).irq = s.irq ∧ (s.putVi v x).husk = s.husk ∧ (s.putVi v x).env = s.env ∧
    (s.putVi v x).mail = s.mail ∧ (s.putVi v x).dap = s.dap ∧ (s.putVi v x).seed = s.seed ∧
    (s.putVi v x).hazel = s.hazel ∧ (s.putVi v x).dm = s.dm ∧ (s.putVi v x).fb = s.fb ∧ (s.putVi v x).ledger = s.ledger ∧
    (s.putVi v x).trans = s.trans ∧ (s.putVi v x).retired = s.retired ∧ (s.putVi v x).gpio = s.gpio ∧
    (s.putVi v x).pcieOut = s.pcieOut := by
  and_intros <;> rfl

@[simp] theorem State.huskPut_else (h : Nat) (x : Husk) :
    (s.huskPut h x).pending = s.pending ∧ (s.huskPut h x).time = s.time ∧ (s.huskPut h x).fresh = s.fresh ∧
    (s.huskPut h x).held = s.held ∧ (s.huskPut h x).reply = s.reply ∧ (s.huskPut h x).mem = s.mem ∧
    (s.huskPut h x).poison = s.poison ∧ (s.huskPut h x).tags = s.tags ∧ (s.huskPut h x).ecc = s.ecc ∧
    (s.huskPut h x).ent = s.ent ∧ (s.huskPut h x).entB = s.entB ∧ (s.huskPut h x).acore = s.acore ∧
    (s.huskPut h x).tlbPend = s.tlbPend ∧ (s.huskPut h x).pod = s.pod ∧ (s.huskPut h x).home = s.home ∧
    (s.huskPut h x).pc = s.pc ∧ (s.huskPut h x).hbm = s.hbm ∧ (s.huskPut h x).sent = s.sent ∧
    (s.huskPut h x).island = s.island ∧ (s.huskPut h x).safeN = s.safeN ∧ (s.huskPut h x).irq = s.irq ∧
    (s.huskPut h x).gw = s.gw ∧ (s.huskPut h x).env = s.env ∧ (s.huskPut h x).mail = s.mail ∧
    (s.huskPut h x).dap = s.dap ∧ (s.huskPut h x).seed = s.seed ∧ (s.huskPut h x).hazel = s.hazel ∧
    (s.huskPut h x).dm = s.dm ∧ (s.huskPut h x).fb = s.fb ∧ (s.huskPut h x).ledger = s.ledger ∧
    (s.huskPut h x).trans = s.trans ∧ (s.huskPut h x).retired = s.retired ∧ (s.huskPut h x).gpio = s.gpio ∧
    (s.huskPut h x).pcieOut = s.pcieOut := by
  and_intros <;> rfl

@[simp] theorem State.setE_else (i j v : Nat) :
    (s.setE i j v).pending = s.pending ∧ (s.setE i j v).time = s.time ∧ (s.setE i j v).fresh = s.fresh ∧
    (s.setE i j v).held = s.held ∧ (s.setE i j v).reply = s.reply ∧ (s.setE i j v).mem = s.mem ∧
    (s.setE i j v).poison = s.poison ∧ (s.setE i j v).tags = s.tags ∧ (s.setE i j v).ecc = s.ecc ∧
    (s.setE i j v).entB = s.entB ∧ (s.setE i j v).acore = s.acore ∧ (s.setE i j v).tlbPend = s.tlbPend ∧
    (s.setE i j v).pod = s.pod ∧ (s.setE i j v).home = s.home ∧ (s.setE i j v).pc = s.pc ∧ (s.setE i j v).hbm = s.hbm ∧
    (s.setE i j v).sent = s.sent ∧ (s.setE i j v).island = s.island ∧ (s.setE i j v).safeN = s.safeN ∧
    (s.setE i j v).irq = s.irq ∧ (s.setE i j v).husk = s.husk ∧ (s.setE i j v).gw = s.gw ∧ (s.setE i j v).env = s.env ∧
    (s.setE i j v).mail = s.mail ∧ (s.setE i j v).dap = s.dap ∧ (s.setE i j v).seed = s.seed ∧
    (s.setE i j v).hazel = s.hazel ∧ (s.setE i j v).dm = s.dm ∧ (s.setE i j v).fb = s.fb ∧
    (s.setE i j v).ledger = s.ledger ∧ (s.setE i j v).trans = s.trans ∧ (s.setE i j v).retired = s.retired ∧
    (s.setE i j v).gpio = s.gpio ∧ (s.setE i j v).pcieOut = s.pcieOut := by
  and_intros <;> rfl

@[simp] theorem State.modDom_get (d : Fin 64) (f : Domain → Domain) : (s.modDom d f).hazel.doms.get d = f (s.hazel.doms.get d) := by
  simp [State.modDom]

@[simp] theorem State.modDom_else (d : Fin 64) (f : Domain → Domain) :
    (s.modDom d f).pending = s.pending ∧ (s.modDom d f).time = s.time ∧ (s.modDom d f).fresh = s.fresh ∧
    (s.modDom d f).held = s.held ∧ (s.modDom d f).reply = s.reply ∧ (s.modDom d f).mem = s.mem ∧
    (s.modDom d f).poison = s.poison ∧ (s.modDom d f).tags = s.tags ∧ (s.modDom d f).ecc = s.ecc ∧
    (s.modDom d f).ent = s.ent ∧ (s.modDom d f).entB = s.entB ∧ (s.modDom d f).acore = s.acore ∧
    (s.modDom d f).tlbPend = s.tlbPend ∧ (s.modDom d f).pod = s.pod ∧ (s.modDom d f).home = s.home ∧
    (s.modDom d f).pc = s.pc ∧ (s.modDom d f).hbm = s.hbm ∧ (s.modDom d f).sent = s.sent ∧
    (s.modDom d f).island = s.island ∧ (s.modDom d f).safeN = s.safeN ∧ (s.modDom d f).irq = s.irq ∧
    (s.modDom d f).husk = s.husk ∧ (s.modDom d f).gw = s.gw ∧ (s.modDom d f).env = s.env ∧ (s.modDom d f).mail = s.mail ∧
    (s.modDom d f).dap = s.dap ∧ (s.modDom d f).seed = s.seed ∧ (s.modDom d f).dm = s.dm ∧ (s.modDom d f).fb = s.fb ∧
    (s.modDom d f).ledger = s.ledger ∧ (s.modDom d f).trans = s.trans ∧ (s.modDom d f).retired = s.retired ∧
    (s.modDom d f).gpio = s.gpio ∧ (s.modDom d f).pcieOut = s.pcieOut := by
  and_intros <;> rfl

@[simp] theorem State.modTc_else (i k : Fin 4) (f : TCore → TCore) :
    (s.modTc i k f).pending = s.pending ∧ (s.modTc i k f).time = s.time ∧ (s.modTc i k f).fresh = s.fresh ∧
    (s.modTc i k f).held = s.held ∧ (s.modTc i k f).reply = s.reply ∧ (s.modTc i k f).mem = s.mem ∧
    (s.modTc i k f).poison = s.poison ∧ (s.modTc i k f).tags = s.tags ∧ (s.modTc i k f).ecc = s.ecc ∧
    (s.modTc i k f).ent = s.ent ∧ (s.modTc i k f).entB = s.entB ∧ (s.modTc i k f).acore = s.acore ∧
    (s.modTc i k f).tlbPend = s.tlbPend ∧ (s.modTc i k f).pod = s.pod ∧ (s.modTc i k f).home = s.home ∧
    (s.modTc i k f).pc = s.pc ∧ (s.modTc i k f).hbm = s.hbm ∧ (s.modTc i k f).sent = s.sent ∧
    (s.modTc i k f).safeN = s.safeN ∧ (s.modTc i k f).irq = s.irq ∧ (s.modTc i k f).husk = s.husk ∧
    (s.modTc i k f).gw = s.gw ∧ (s.modTc i k f).env = s.env ∧ (s.modTc i k f).mail = s.mail ∧
    (s.modTc i k f).dap = s.dap ∧ (s.modTc i k f).seed = s.seed ∧ (s.modTc i k f).hazel = s.hazel ∧
    (s.modTc i k f).dm = s.dm ∧ (s.modTc i k f).fb = s.fb ∧ (s.modTc i k f).ledger = s.ledger ∧
    (s.modTc i k f).trans = s.trans ∧ (s.modTc i k f).retired = s.retired ∧ (s.modTc i k f).gpio = s.gpio ∧
    (s.modTc i k f).pcieOut = s.pcieOut := by
  and_intros <;> rfl

/-! ## Commands that may have to wait -/

/-- Where nothing has to wait, a command's effect is that of its body. -/
theorem State.served_done {s : State} {f : State → State} (h : (f { s with held := false }).held = false) :
    s.served f = { f { s with held := false } with held := s.held } := by
  simp [State.served, h]

/-- Where something has to wait, a command has no effect. -/
theorem State.served_waits {s : State} {f : State → State} (h : (f { s with held := false }).held = true) : s.served f = s := by
  simp [State.served, h]

/-- What a command that may have to wait does: nothing, or its effect. -/
theorem State.served_cases (s : State) (f : State → State) :
    s.served f = s ∨ ((f { s with held := false }).held = false ∧ s.served f = { f { s with held := false } with held := s.held }) := by
  by_cases h : (f { s with held := false }).held
  · exact .inl (State.served_waits h)
  · have h' : (f { s with held := false }).held = false := by simpa using h
    exact .inr ⟨h', State.served_done h'⟩

/-- A command that may have to wait leaves the mark of waiting as it is between commands. -/
@[simp] theorem State.served_held (s : State) (f : State → State) : (s.served f).held = s.held := by
  rcases State.served_cases s f with h | ⟨-, h⟩ <;> rw [h]

end Sys2Proof.Machine
end

