-- ==== Sys2Proof/Tests/Slice0.lean ====
section
/-! SUPPORT. Tests on fixed values, and a witness for the hypotheses of each statement. -/
namespace Sys2Proof.Tests
open Sys2Proof Sys2Proof.Machine
set_option Elab.async false

/-! ## Small states -/

/-- A domain is on. -/
def on (d : Fin 64) (s : State) : State := s.modDom d fun x => { x with cur := .on }
/-- A domain is off. -/
def off (d : Fin 64) (s : State) : State := s.modDom d fun x => { x with cur := .off }
/-- An A-core runs at an address of the HBM, in level H of the Normal world. -/
def runA (c : Fin 32) (pc : Word) (s : State) : State := (on ⟨c.val, by omega⟩ s).modA c fun a => { a with run := .running, pc := pc }
/-- Both stacks are trained and the boot zero fill is done: the HBM answers (R259, R260). -/
def filled : State := { State.reset with hbm := { State.reset.hbm with fill := .done, train := Vector.replicate 2 .full } }
/-- Core 0 runs at 0x1000. -/
def aS : State := runA 0 0x1000 filled
/-- Core 0 with a general register set. -/
def aG (r : Reg) (v : Word) : State := aS.setG 0 r v
/-- Core 0 at ring 0 of the Secure world. -/
def aSec : State := aS.modA 0 fun a => { a with stat := 0xF8 }
/-- Core 0 at ring 3 of the Normal world. -/
def aUser : State := aS.modA 0 fun a => { a with stat := 0xF3 }
/-- Island 0 runs with its slots 0 to 2. -/
def tS : State := (on 40 filled).modIsl 0 fun x =>
  let r (k : Fin 4) : TCore := { x.slots.get k with run := .running }
  { x with st := .triplex, slots := vset (vset (vset x.slots 0 (r 0)) 1 (r 1)) 2 (r 2) }
/-- Whether an access or a translation passes. -/
def okOf {α : Type} (x : State × Except Exn α) : Bool := match x.2 with | .ok _ => true | .error _ => false

/-- Outside a command no request waits. -/
theorem unheld {s : State} (h : s.held = false) : { s with held := false } = s := by rw [← h]
/-- A fetch that passes, on a ready core. -/
theorem fetches {s : State} {c : Fin 32} {w : IWord} {i : Aelxel} (h0 : s.held = false) (h1 : s.aReady c) (h2 : (s.fetch c).2 = .ok ())
    (h3 : decodeWord w = some i) (h4 : (((s.fetch c).1.acore.get c).delay.isSome && slotForbids i) = false) (h5 : (s.fetch c).1.held = false) :
    s.aFetches c w i (s.fetch c).1 := ⟨h1, by rw [unheld h0]; exact Prod.ext rfl h2, h5, h3, h4⟩
/-- An outcome that is no error is some value. -/
theorem some_ok {α : Type} {x : State × Except Exn α} (h : okOf x = true) : ∃ v a, x = (v, .ok a) := by
  obtain ⟨v, r⟩ := x
  cases r with
  | ok a => exact ⟨v, a, rfl⟩
  | error e => cases h
/-- Whether an access passes without having to wait. -/
def passes {α β : Type} (x : State × Except α β) : Bool := match x with | (v, .ok _) => !v.held | _ => false
/-- An outcome that is an error is some exception. -/
theorem some_error {α : Type} {x : State × Except Exn α} (h : okOf x = false) : ∃ v f, x = (v, .error f) := by
  obtain ⟨v, r⟩ := x
  cases r with
  | ok a => cases h
  | error e => exact ⟨v, e, rfl⟩

theorem fetch_ok : (aS.fetch 0).2 = .ok () := by
  have h : okOf (aS.fetch 0) = true := by decide +kernel
  generalize aS.fetch 0 = x at h
  match x, h with
  | (_, .ok ()), _ => rfl
theorem ready : aS.aReady 0 := by unfold State.aReady; decide
/-- Core 0 after its fetch. -/
def aU : State := (aS.fetch 0).1
/-- The first line access of an access that passes. -/
def firstAcc (x : State × Except Exn (List LineAcc)) : Option LineAcc := match x.2 with | .ok (a :: _) => some a | _ => none
theorem some_acc {x : State × Except Exn (List LineAcc)} {a : LineAcc} (h : firstAcc x = some a) : ∃ v l, x = (v, .ok (a :: l)) := by
  obtain ⟨v, r⟩ := x
  match r, h with
  | .ok (b :: l), h => cases h; exact ⟨v, l, rfl⟩
/-- Whether a command answers a next state. -/
def goes (o : Host.Outcome State Fault Refusal) : Bool := match o with | .next _ => true | _ => false
/-- The row by whose name a command is refused. -/
def refusedAs (o : Host.Outcome State Fault Refusal) : Option String := match o with | .refused (.illFormed r) => some r | _ => none
theorem some_next {o : Host.Outcome State Fault Refusal} (h : goes o = true) : ∃ t, o = .next t := by
  match o, h with
  | .next t, _ => exact ⟨t, rfl⟩
theorem no_delay : ((aS.fetch 0).1.acore.get 0).delay.isSome = false := by decide +kernel
/-! ## Words spelled from the encoding tables, one for each family -/

theorem test_decode_add : decodeWord 0b000001_00010_00011_00001_00000000000#32 = some (.alu2 .add false 2 3 1) := by decide
theorem test_decode_addi : decodeWord 0b000011_00101_00000_1111111111111110#32 = some (.aluI .addi 5 0 0xFFFE#16) := by decide
theorem test_decode_divw : decodeWord 0b000010_00111_00110_00101_10000000100#32 = some (.div .div true 7 6 5) := by decide
theorem test_decode_ld : decodeWord 0b010011_01010_11111_0000000000010000#32 = some (.load .ld 10 31 0x10#16) := by decide
theorem test_decode_bne : decodeWord 0b100001_00011_00100_1_000000000000101#32 = some (.branch .ne 3 4 true 5#15) := by decide
theorem test_decode_jal : decodeWord 0b100111_0_1111111111111111111111111#32 = some (.jmp true false 0x1FFFFFF#25) := by decide
theorem test_decode_cas : decodeWord 0b101011_00001_00010_00011_11100001001#32 = some (.amo .cas true true true 1 2 3) := by decide
theorem test_decode_nop : decodeWord 0xB400000A#32 = some .nop := by decide
theorem test_decode_cseal : decodeWord 0b110001_00011_00100_00101_00000000100#32 = some (.cseal 3 4 5) := by decide
theorem test_decode_zero_word : decodeWord 0 = none := by decide

/-! ## Well-formedness: an ill-formed term for the check -/

theorem test_wf_refuses_a_load_word_on_the_store_row :
    (Instr.store (.a 0) (encodeWord (.load .ld 1 2 0))).wf = false ∧
    refusedAs (exec (.store (.a 0) (encodeWord (.load .ld 1 2 0))) aS) = some "STORE" := by decide
theorem test_wf_takes_an_illegal_word : (Instr.store (.a 0) 0).wf = true ∧ (Instr.load (.a 0) 0xFFFFFFFF .good).wf = true := by decide
theorem test_wf_refuses_a_wide_shift :
    (Aelxel.shI .shl true 1 2 32).wf = false ∧ (Aelxel.shI .shl true 1 2 31).wf = true := by decide

/-! ## The queue -/

theorem wit_CommandsLeaveTheQueue : ∃ t, exec (.gpioEdge 0 true) State.reset = .next t := some_next (by decide)
theorem wit_StepRunsTheFrontCommand : State.reset.pending = [] := rfl
theorem wit_EveryCommandCompletes : (Instr.gpioEdge 0 true).wf = true ∧ (Instr.store (.a 0) (encodeWord .nop)).wf = false := by decide
theorem wit_StepKeepsCanonicalTables : State.reset.canon ∧ ∃ t, step State.reset = .next t := ⟨by unfold State.canon; decide, some_next (by decide)⟩
theorem wit_DecodeOfEncode : (Aelxel.alu2 .add false 31 31 31).wf = true ∧ (Aelxel.shI .ror false 0 0 63).wf = true := by decide
theorem wit_EncodeOfDecode : decodeWord (encodeWord (.load .fld 31 0 0xFFFF)) = some (.load .fld 31 0 0xFFFF) := by decide

/-! ## Instructions of the A-cores: one for each clause -/

/-- A part of them. -/
def aIns1 : List Aelxel :=
  [.alu2 .add false 0 31 31, .alu1 .clz true 1 2, .aluI .addi 1 31 0xFFFF, .shI .sar false 1 2 63, .lui 1 0x1FFFFF, .auipc 1 0x100000,
   .mul .mulhsu false 1 2 3, .div .rem true 1 2 0, .fp .add false 0 1 2 3, .fp .mac true 7 1 2 3]
/-- A part of them. -/
def aIns2 : List Aelxel :=
  [.branch .eq 0 0 true 0x7FFF, .jmp false true 1, .jmp true false 0x1FFFFFF, .jr true 1, .jalr false 1 1, .jalr true 1 2, .load .ld 1 2 8,
   .load .flw 1 2 0, .store .sd 1 2 0, .amo .cas true true true 1 2 3, .amo .add false false false 1 2 3, .lda true 1 2, .stl false 1 2]
/-- A part of them. -/
def aIns3 : List Aelxel :=
  [.block .bcopy 1 2 3, .block .bfill 1 2 3, .block .bcrc 1 2 3, .block .bcrcE 1 2 3, .block .ldm 0 1 2, .block .stm 0 1 2, .block .bcopy 1 1 1,
   .mfs 1 0x000, .mfs 1 0x050, .mfs 1 0xFFF, .mts 0x001 1, .mts 0x026 1, .mts 0x020 1]
/-- A part of them. -/
def aIns4 : List Aelxel :=
  [.brk 0xFFF, .eret, .gret, .gate 0xFFFF, .fence (.order 0xF), .fence .i, .fence .d, .fence .t, .spb, .prflush true, .prbar true, .wfi, .nop,
   .chkpt, .tlbi .va true 1, .tlbi .ipa false 1, .tlbi .all true 1, .cache .dcc 1, .cache .dci 1, .cache .zline 1]
/-- A part of them. -/
def aIns5 : List Aelxel :=
  [.cmove 1 2 0, .ccall 1 2, .clc 1 2 0, .loop 0 true 1 0]
/-- Instructions that the statements about A-cores name. -/
def aIns : List Aelxel := aIns1 ++ aIns2 ++ aIns3 ++ aIns4 ++ aIns5

theorem aIns_decode : ∀ i ∈ aIns, decodeWord (encodeWord i) = some i := by decide
theorem wit_fetch_on_an_ACore : ∀ i ∈ aIns, aS.aFetches 0 (encodeWord i) i (aS.fetch 0).1 :=
  fun i h => fetches rfl ready fetch_ok (aIns_decode i h) (by simp [no_delay]) (by decide +kernel)
theorem wit_positions_of_an_ACore :
    aS.atH 0 = true ∧ aS.hasH = true ∧ aUser.atH 0 = false ∧ (aUser.acore.get 0).ring = 3 ∧ aSec.atH 0 = false ∧ (aSec.acore.get 0).ring = 0 ∧
    (aSec.acore.get 0).secure = true ∧ (aS.acore.get 0).inHusk = none := by decide
theorem wit_FloatOperations :
    (∀ rm : Fin 5, roundingMode (rm.castLE (by decide)) 0 = some rm.val ∨ (roundingMode (rm.castLE (by decide)) 0).isSome = true) ∧
    (roundingMode 7 0).isSome = true ∧ roundingMode 7 0xA0 = none ∧ 5 ≤ bits (0xA0 : BitVec 8).toNat 7 5 := by decide
theorem wit_DivisionCorners :
    (0x8000000000000000 : Word).toInt = -2 ^ 63 ∧ (0xFFFFFFFFFFFFFFFF : Word).toInt = -1 ∧ ((0x80000000 : Word).setWidth 32).toInt = -2 ^ 31 ∧
    ((0xFFFFFFFF : Word).setWidth 32).toInt = -1 := by decide
theorem wit_BranchesOnACores : (aG 1 6).g 0 1 = 6 ∧ ((aG 1 6).g 0 1).toNat % 4 ≠ 0 ∧ ((aG 1 8).g 0 1).toNat % 4 = 0 ∧
    condHolds .eq 1 1 = true ∧ condHolds .eq 1 2 = false := by decide

/-! ## Loads, stores and atomics -/

theorem wit_load_hit : aU.g 0 2 + (8 : BitVec 16).signExtend 64 = 8 ∧
    (match aU.coreLoad (aU.ctx 0 .read false) (alignRule 8 8) 8 8 .good true with | (v, .ok (some _)) => !v.held | _ => false) = true := by decide +kernel
theorem wit_load_waits : let s := aS.modA 0 fun a => { a with sb := [⟨[⟨8, .wb, [1]⟩], none, 0⟩] }
    (match s.coreLoad (s.ctx 0 .read false) (alignRule 8 8) 8 8 .good true with | (_, .ok none) => true | _ => false) = true := by decide +kernel
theorem wit_load_unmapped : okOf (aS.coreLoad (aS.ctx 0 .read false) (alignRule 0xF00000000000 8) 0xF00000000000 8 .good true) = false := by decide
theorem wit_store_memory : isDev (.wb : MemType) = false ∧
    ∃ v l, aS.accsOf (aS.ctx 0 .write false) (alignRule 0x203C 4) 0x203C 4 = (v, .ok (⟨0x203C, .wb, 0x203C, 4⟩ :: l)) :=
  ⟨by decide, some_acc (by decide)⟩
theorem wit_store_device : isDev (.devS : MemType) = true ∧
    ∃ v l, aS.accsOf (aS.ctx 0 .write false) (alignRule 0xF072000008 8) 0xF072000008 8 = (v, .ok (⟨0xF072000008, .devS, 0xF072000008, 8⟩ :: l)) :=
  ⟨by decide, some_acc (by decide)⟩
theorem wit_store_buffer_room : (aS.acore.get 0).sb.length < 48 ∧ (aS.sbPush 0 ⟨[⟨8, .wb, [1]⟩], none, 0⟩).held = false := by decide
theorem wit_store_device_performed :
    passes (State.devStores 0 ⟨0xF072000008, .devS, 0xF072000008, 8⟩ 8 (toBytes 8 1) ((on 60 aSec).drainAll 0)) = true := by decide +kernel
theorem wit_amo : ∃ v x, (aS.drainAll 0).amoAcc ((aS.drainAll 0).ctx 0 .write true) 0x2000 8 = (v, .ok x) := some_ok (by decide)
theorem wit_amo_performed : let z := aS.amoAt 0 ⟨0x2000, .wb, 0x2000, 8⟩ .add 1 0
    z.2.2 = false ∧ z.1.held = false := by decide +kernel
theorem wit_lda_stl : (match aS.coreLoad (aS.ctx 0 .read true) devRule 0x2000 8 .good true with | (v, .ok (some _)) => !v.held | _ => false) = true ∧
    passes (aS.coreStore (aS.ctx 0 .write true) devRule 0x2000 (toBytes 8 1)) = true := by decide +kernel
theorem wit_unit : passes ((((aG 1 0x2000).setG 0 2 0x3000).setG 0 3 2).unitA 0 .bcopy 1 2 3) = true ∧
    blockIllegal ((((aG 1 0x2000).setG 0 2 0x3000).setG 0 3 2).g 0) .bcopy 1 2 3 = false := ⟨by decide +kernel, by decide⟩
theorem wit_block_illegal : blockIllegal (aS.g 0) .bcopy 1 1 1 = true ∧ blockIllegal (aS.g 0) .bcopy 1 2 3 = false := by decide
theorem wit_StoreForwarding :
    let e : StoreEnt := ⟨[⟨0x2000, .nc, [1, 2]⟩], none, 0⟩
    e.byte? 0x2001 = some 2 ∧ e.byte? 0x2002 = none := by decide

/-! ## Exceptions, returns, gates and maintenance on A-cores -/

/-- Core 0 has a stack for each position, and both vector tables and the gate table at 0x20000. -/
def excS (stat : Word) : State := aS.modA 0 fun a => { a with
  stat := stat, sp := Vector.replicate 5 0x3000, vtb0 := 0x20000, vtbh := 0x20000, gtb := 0x20000 }
/-- The same at a ring below no level H (MODE HUSK). -/
def huskS (stat : Word) : State := { excS stat with hazel := { (excS stat).hazel with mode := 2 } }
/-- The saved part of an entry. -/
def svT : Save := ⟨0x1000, 4, 0x3000, 0, false⟩
theorem wit_ExceptionEntryOfACores : ((excS 4).acore.get 0).inHusk = none ∧ okOf ((excS 4).pushEntry 0 true (exn 5 0 0 0) svT) = true ∧
    okOf ((excS 4).readNow (posCtx 0 true .read) (0x20000 + word (8 * 5)) 8) = true ∧ (excS 0x104).atH 0 = true ∧
    ((excS 0x104).acore.get 0).stat.getLsbD 8 = true ∧ (excS 0).atH 0 = false ∧ ((excS 0).acore.get 0).ring = 0 := by decide +kernel
theorem wit_ReturnsAndGatesOfACores : passes ((excS 4).readNow (posCtx 0 true .read) 0x3000 32) = true ∧ ((excS 4).acore.get 0).sp.get 4 = 0x3000 := by decide +kernel
theorem wit_Gret : passes ((huskS 0).readNow ((huskS 0).ctx 0 .read false) 0x3000 32) = true ∧ (huskS 0).atH 0 = false ∧ ((huskS 0).acore.get 0).inHusk = none := by decide +kernel
theorem wit_GateChecks : bits ((huskS 3).acore.get 0).gtb.toNat 15 0 = 0 ∧ ((huskS 3).acore.get 0).inHusk = none ∧ (huskS 3).hasH = false ∧
    (gateOf (List.replicate 32 0)).v = false := by decide
theorem wit_GateChecks_read : ∃ v b, (huskS 3).readNow ⟨0, some 0, none, .read, false, true, true⟩ 0x20000 32 = (v, .ok b) := some_ok (by decide +kernel)
theorem wit_GateChecks_push : ∃ v b, (huskS 3).push ⟨0, some 0, none, .write, false, true, true⟩ 0x3000 (List.replicate 32 0) = (v, .ok b) :=
  some_ok (by decide +kernel)
theorem wit_TlbOperations : let s : State := { aS with tlbPend := [⟨0, 1, false, none, .all, true⟩] }
    s.tlbPend = [] ++ ⟨0, 1, false, none, .all, true⟩ :: [] ∧ (∀ p ∈ aS.tlbPend, p.dst ≠ 1) ∧ (runA 1 0x1000 aS).acore.get 1 ≠ ACore.init := by decide
theorem wit_CacheOperations : passes (aS.accsOf (aS.ctx 0 .read false) (fun _ => none) 0x2000 1) = true ∧ (aS.dcc 0x80 1).held = false ∧
    okOf (aS.accsOf (aS.ctx 0 .read false) (fun _ => none) 0xF00000000000 1) = false ∧
    okOf (aS.accsOf (aS.ctx 0 .write false) (fun t => if isDev t then some (13, 0) else none) 0xF072000008 1) = false := by decide

/-! ## Instructions of the T-cores -/

/-- Instructions that the statements about T-cores name. -/
def tIns1 : List Aelxel :=
  [.alu2 .add false 0 31 31, .alu1 .clz true 1 2, .aluI .addi 1 31 0xFFFF, .shI .sar false 1 2 63, .lui 1 0x1FFFFF, .auipc 1 0x100000,
   .mul .mulhsu false 1 2 3, .div .rem true 1 2 0, .fp .add false 0 1 2 3, .fp .mac true 7 1 2 3]
/-- A part of them. -/
def tIns2 : List Aelxel :=
  [.branch .eq 0 0 true 0x7FFF, .jmp false true 1, .jmp true false 0x1FFFFFF, .jr true 1, .jalr false 1 1, .jalr true 1 2, .load .ld 1 2 8,
   .store .sd 1 2 0, .amo .cas true true true 1 2 3, .amo .add false false false 1 2 3, .lda true 1 2, .stl false 1 2]
/-- A part of them. -/
def tIns3 : List Aelxel :=
  [.block .bcopy 1 2 3, .block .bfill 1 2 3, .block .ldm 0 1 2, .block .stm 0 1 2, .block .bcopy 1 1 1, .mfs 1 0x000, .mfs 1 0x050, .mfs 1 0xFFF,
   .mts 0x000 1, .mts 0x06D 1, .eret, .brk 1, .fence .i, .fence .t, .fence .d, .fence (.order 2), .spb, .prflush true, .prbar true, .nop, .wfi, .chkpt]
/-- A part of them. -/
def tIns4 : List Aelxel :=
  [.cmove 1 2 0, .cclrt 1 2 0, .cincb 1 2 3, .csetl 1 2 3, .candp 1 2 3, .cseal 1 0 2, .cunseal 1 0 2, .cget .base 1 2 0, .cget .tag 1 2 0,
   .ccall 1 2, .cret 1 2, .cmfc 1 0, .cmtc 1, .clc 1 2 0, .csc 1 2 0, .loop 0 true 1 5, .loop 1 false 1 0, .gate 0, .tlbi .all true 1, .cache .dcc 1,
   .gret]
/-- Instructions that the statements about T-cores name. -/
def tIns : List Aelxel := tIns1 ++ tIns2 ++ tIns3 ++ tIns4

theorem tIns_decode : ∀ i ∈ tIns, decodeWord (encodeWord i) = some i := by decide
theorem tIns_ready : tS.tReady 0 0 := by unfold State.tReady; decide
theorem tIns_fetch : tS.tFetch 0 0 = none := by decide
/-- Island 0 after the fetch of slot 0's instruction. -/
def tU : State := State.tFetchRead { tS with held := false } 0 0
theorem tIns_aligned : ∀ i ∈ tIns, tU.tIalign 0 0 i = none := by decide
theorem tIns_slot : (tU.tc 0 0).delay.isSome = false := by decide
theorem tIns_loops : ∀ i ∈ tIns, (tU.tc 0 0).loopForbids i = false := by decide
theorem wit_fetch_on_a_TCore : ∀ i ∈ tIns, tS.tFetches 0 0 (encodeWord i) i tU :=
  fun i h => ⟨tIns_ready, tIns_fetch, rfl, tIns_decode i h, tIns_aligned i h, by simp [tIns_slot], tIns_loops i h⟩
theorem wit_TCore_orders : (tS.tc 0 0).sb = [] ∧ (tS.tc 0 0).outq = [] ∧ (tS.island.get 0).rel = [] ∧ (tS.island.get 0).st ≠ .rejoinWait ∧
    blockIllegal (tS.tg 0 0) .bcopy 1 1 1 = true ∧ blockIllegal (tS.tg 0 0) .bcopy 1 2 3 = false ∧ tS.tg 0 0 3 = 0 := by decide
theorem wit_TCore_capabilities : (tS.tcap 0 0 0).tag = true ∧ (tS.tcap 0 0 3).tag = false ∧ (tS.tcap 0 0 2).perms.getLsbD 5 = true ∧
    (tS.tc 0 0).pcc.refuses 0 4 permX = none ∧ (tS.tc 0 0).pcc.refuses (2 ^ 47) 4 permX ≠ some 1 := by decide

/-! ## Memory of the T-cores -/

theorem wit_MemoryOfTCores :
    tS.tCheck 0 0 0x80000 8 permR false = none ∧ tKind 0x80000 8 = .dtcm ∧ tKind 0x3FFF8 8 = .itcm ∧ tKind 0xC0000 8 = .none ∧
    tS.eccBad (tcmPa 0 0 0x80000) 8 = false ∧ tS.tCheck 0 0 0x7FFFF 8 permR false ≠ none ∧ tS.tCheck 0 0 0xBFFF8 8 permW false = none ∧
    tS.tCheck 0 0 0xBFFF0 16 0x12 true = none ∧ tS.tCheck 0 0 0x80000 16 0x09 true = none ∧ tS.mirror 0 0 = none := by decide
theorem wit_MemoryOfTCores_forwarding :
    let e : TStore := ⟨0x80000, 8, 0x1122, false, 0⟩
    let y : TStore := ⟨0x80008, 4, 0, false, 0⟩
    e.covers 0x80001 2 = true ∧ y.meets 0x80001 2 = false ∧ e.meets 0x80007 1 = true ∧ e.meets 0x80008 1 = false := by decide
/-- Island 0 with two buffered stores of slot 0, to DTCM and outside. -/
def tStores : State := tS.modTc 0 0 fun c => { c with sb := [⟨0x80000, 8, 1, false, 0⟩, ⟨0x800000, 4, 2, false, 0⟩] }
theorem wit_MemoryOfTCores_drain : (tStores.tc 0 0).sb.length = 2 ∧ isDtcm 0x80000 = true ∧ isDtcm 0x800000 = false ∧
    (tStores.tc 0 0).outq.length < 16 ∧ tStores.mirror 0 0 = none ∧ tStores.canon := ⟨by decide, by decide, by decide, by decide, by decide, by unfold State.canon; decide⟩
/-- Island 0 with a buffered store of 4 bytes to the DTCM word that `bad` may mark. -/
def tMerge (bad : Bool) : State :=
  { (tS.modTc 0 0 fun c => { c with sb := [⟨0x80004, 4, 1, false, 0⟩] }) with ecc := if bad then [(tcmPa 0 0 0x80000, true)] else [] }
theorem wit_MemoryOfTCores_merge : ¬ (tcmPa 0 0 0x80004 % 8 = 0 ∧ 8 ≤ 4) ∧ (tcmPa 0 0 0x80000 % 8 = 0 ∧ 8 % 8 = 0) ∧
    (tMerge true).eccBad (tcmPa 0 0 0x80004) 4 = true ∧ kvGet? (tMerge true).ecc (tcmPa 0 0 0x80004 / 8 * 8) = some true ∧
    (tMerge false).eccBad (tcmPa 0 0 0x80004) 4 = false ∧ (tMerge true).canon ∧ sharedPa 0 0x800004 % 8 = 4 :=
  ⟨by decide, by decide, by decide, by decide, by decide, by unfold State.canon; decide, by decide⟩
theorem wit_AtomicsAndFarAccessesOfTCores :
    tS.tCheck 0 0 0x80000 8 3 true = none ∧ tS.tCheck 0 0 0x80004 4 3 true = none ∧ tKind (farBase + 0x2000) 8 = .far 0x2000 ∧
    tS.tDev (.far 0x2000) = false ∧ tS.tCheck 0 0 (word (farBase + 0x2000)) 8 3 true = none ∧ tS.doneAt 0 0 (farBase + 0x2000) false = none ∧
    tS.tDev (tKind 0xC00000 8) = true ∧ tS.tCheck 0 0 0xC00000 8 3 true = none ∧ (tS.island.get 0).port = [] := by decide
theorem wit_AtomicsAndFarAccessesOfTCores_error :
    ({ tS with ecc := [(tcmPa 0 0 0x80000, true)] } : State).eccBad (tcmPa 0 0 0x80000) 8 = true := by decide
/-- Slot 0 alone waits for a far load that the port has issued. -/
def tFar : State :=
  let w := encodeWord (.load .ld 1 2 0)
  (tS.modIsl 0 fun x => { x with port := [⟨0, 0, farBase + 0x2000, 8, .load, [0], true, false, none⟩] }).modTc 0 0 fun c =>
    { c with far := some ⟨0, 0, farBase + 0x2000, 8, .load, w⟩ }
theorem wit_FarLoadData :
    (tFar.island.get 0).port[0]? = some ⟨0, 0, farBase + 0x2000, 8, .load, [0], true, false, none⟩ ∧ tKind (farBase + 0x2000) 8 = .far 0x2000 ∧
    (PortTxn.mk 0 0 (farBase + 0x2000) 8 .load [0] true false none).crossing = none ∧
    (let x := State.farRead { tFar with held := false } 0 0x2000 8
     x.2 = okData 0 false ∧ x.1.held = false ∧ (x.1.tc 0 0).far = some ⟨0, 0, farBase + 0x2000, 8, .load, encodeWord (.load .ld 1 2 0)⟩ ∧
     (x.1.tc 0 0).parked = none ∧ x.1.due 0 0 = none ∧ (x.1.island.get 0).active.contains 0 = true ∧ (x.1.tc 0 0).run = .running) ∧
    decodeWord (encodeWord (.load .ld 1 2 0)) = some (.load .ld 1 2 0) ∧
    (FarWait.mk 0 0 (farBase + 0x2000) 8 .load (encodeWord (.load .ld 1 2 0))).of ⟨0, 0, farBase + 0x2000, 8, .load, [0], true, false, none⟩ = true ∧
    (tFar.island.get 0).port[1]? = none := by decide +kernel
theorem wit_FarLoadData_crossing : (PortTxn.mk 0 0 (farBase + 0x203C) 8 .load [0] true false none).crossing = some (0x203C, 4) ∧
    (State.farPart { tFar with held := false } 0 0x203C 4).2.resp = none := by decide +kernel
theorem wit_AtomicsAndFarAccessesOfTCores_stl : tKind 0x80008 8 = .dtcm ∧ isDtcm 0x80008 = true ∧ (tU.island.get 0).matched < 2 ∧
    (tU.tEcc 0 0 .dtcm 0x80000 8 .good).eccBad (tcmPa 0 0 0x80000) 8 = false := by decide

/-! ## The commands that complete in their ordinary case -/

/-- Slot 0 with its general register 2 at own DTCM. -/
def tD : State := tS.setTg 0 0 2 0x80000
theorem wit_WalksTransfersAndSlotsComplete_capabilities :
    (∀ i ∈ [.clc 1 2 0, .csc 1 2 0], tD.tFetches 0 0 (encodeWord i) i (State.tFetchRead { tD with held := false } 0 0)) ∧
    (let u := State.tFetchRead { tD with held := false } 0 0
     u.tg 0 0 2 + (0 : BitVec 16).signExtend 64 = 0x80000 ∧ u.tCheck 0 0 0x80000 16 0x09 true = none ∧ u.tCheck 0 0 0x80000 16 0x12 true = none ∧
     tKind 0x80000 16 = .dtcm ∧ isDtcm 0x80000 = true ∧ (u.tc 0 0).sb = [] ∧ u.eccBad (tcmPa 0 0 0x80000) 16 = false) := by
  refine ⟨?_, by decide⟩
  intro i h
  have h1 : ∀ i ∈ [Aelxel.clc 1 2 0, .csc 1 2 0], decodeWord (encodeWord i) = some i := by decide
  have h2 : ∀ i ∈ [Aelxel.clc 1 2 0, .csc 1 2 0], (State.tFetchRead { tD with held := false } 0 0).tIalign 0 0 i = none ∧
    (((State.tFetchRead { tD with held := false } 0 0).tc 0 0).delay.isSome && slotForbids i) = false ∧
    ((State.tFetchRead { tD with held := false } 0 0).tc 0 0).loopForbids i = false := by decide
  exact ⟨by unfold State.tReady; decide, by decide, rfl, h1 i h, (h2 i h).1, (h2 i h).2.1, (h2 i h).2.2⟩
theorem wit_WalksTransfersAndSlotsComplete_port :
    let x : PortTxn := ⟨0, 0, farBase + 0x2000, 8, .load, [0], true, false, none⟩
    (tFar.island.get 0).port[0]? = some x ∧ x.issued = true ∧ x.dropped = false ∧ x.crossing = none ∧ x.cores = 0 :: [] ∧
    (let y := State.portPerform { tFar with held := false } 0 0 x; (y.1.portDone 0 0 x y.2).held = false) := by decide +kernel
theorem wit_WalksTransfersAndSlotsComplete_drains : (tStores.tc 0 0).sb = [⟨0x80000, 8, 1, false, 0⟩, ⟨0x800000, 4, 2, false, 0⟩] ∧
    (tStores.tc 0 0).role = .active ∧ isDtcm 0x80000 = true ∧ isDtcm 0x800000 = false ∧ (tStores.tc 0 0).outq.length < 16 := by decide

/-! ## Interrupts -/

/-- A state with the MSI source 1024 pending and enabled at priority 5 for core 0 (level H), and 40 a virtual source of partition 0. -/
def irqS : State := { aS with irq := { aS.irq with
  src := [(40, ⟨0x2075, none, true, false, none, false, false⟩), (1024, ⟨0x2015, none, true, false, none, false, false⟩)] } }
theorem irqS_canon : irqS.canon := by unfold State.canon; decide
theorem wit_InterruptSources :
    srcExists (srcRefKey (.wired 32)) = true ∧ srcExists (srcRefKey (.priv 31 18)) = true ∧ srcExists (srcRefKey (.priv 0 19)) = false ∧
    srcEdge 1024 (irqS.src 1024) = true ∧ srcEdge 100 (irqS.src 100) = false ∧ (irqS.src 100).line = false ∧
    irqS.masterSecure (.core 0) = false ∧ irqS.masterSecure .smc = true ∧ (0x7FF : BitVec 32).toNat < 2048 := by decide
theorem wit_InterruptClaims :
    irqS.coreOffer 0 = some 1024 ∧ irqS.coreOffer 1 = none ∧ State.reset.coreOffer 0 = none ∧ irqS.virtOffer 0 = some 40 ∧ irqS.virtOffer 1 = none ∧
    srcKind 40 (irqS.src 40) = 1 ∧ (irqS.src 40).target = 0 ∧ irqS.hasH = true ∧ (irqS.acore.get 0).lh = true ∧
    (irqS.src 40).secure = false ∧ (irqS.acore.get 0).secure = irqS.partSecure 0 := by decide
theorem wit_InterruptClaims_end :
    let s : State := { aS with irq := { aS.irq with src := [(1024, ⟨0x2015, none, false, true, some (.core 0), false, false⟩)] } }
    (s.src 1024).active = true ∧ (s.src 1024).by_ = some (.core 0) ∧ s.canon := by
  refine ⟨by decide, by decide, ?_⟩; unfold State.canon; decide

/-! ## Memory events, walks and interrupts of A-cores -/

/-- Core 0 with a store in its buffer. -/
def sbS : State := aS.modA 0 fun a => { a with sb := [⟨[⟨0x203F, .wb, [1]⟩, ⟨0x2040, .wb, [2]⟩], none, 0⟩] }
theorem wit_CoreMemoryEvents : sbS.canon ∧ (sbS.acore.get 0).sb.length = 1 ∧ (aS.acore.get 0).sb = [] := by
  unfold State.canon; decide
theorem wit_CoreMemoryEvents_parts :
    aS.accessErr (.core 0) (some .wb) 0x203F 1 true = none ∧ aS.huskRefuses (.core 0) none 0x203F = false ∧ (aS.region 0x203F).isHbm = true ∧
    aS.fatalBank (bankSlice (homeIdx (0x203F / 64))) = false ∧ aS.accessErr (.core 0) (some .wb) 0xE0003F 1 true = none ∧
    aS.accessErr (.core 0) (some .wb) 0xE000000000 8 true ≠ none ∧ aS.region 0xE000800000 = .shared 0 0 ∧
    (tS.setE 0x3000 2 0).region 0xE0000C0000 = .hole := by decide
/-- Core 0 waits with a load. -/
def waitS : State := aS.modA 0 fun a => { a with wait := some (encodeWord (.load .ld 1 2 0)) }
theorem wit_PartialOverlapReissue : (waitS.acore.get 0).wait = some (encodeWord (.load .ld 1 2 0)) ∧
    ∃ u, (waitS.modA 0 fun a => { a with wait := none }).aFetches 0 (encodeWord (.load .ld 1 2 0)) (.load .ld 1 2 0) u := by
  refine ⟨by decide, _, fetches rfl ?_ ?_ (by decide) (by decide) (by decide)⟩
  · unfold State.aReady; decide
  · have h : okOf ((waitS.modA 0 fun a => { a with wait := none }).fetch 0) = true := by decide
    generalize (waitS.modA 0 fun a => { a with wait := none }).fetch 0 = x at h
    match x, h with
    | (_, .ok ()), _ => rfl
/-- Core 0 has a miss register, a trained stream and a DTLB entry of its page. -/
def missS : State := (aS.setE 0x4300 3 1).modA 0 fun a => { a with
  miss := [⟨0x80, 1⟩], streams := [⟨0x2000, 64, true⟩], mat := 0,
  tlb := [⟨.dtlb, false, false, some 0, 0, true, 0x2000, 12, 0x2000, none, some 0, none, 3, 3, 3, 3, 3, 3, true⟩] }
theorem wit_L1dMissFill : (∃ m ∈ (missS.acore.get 0).miss, m.line = 0x80) ∧ (missS.acore.get 0).wait = none ∧
    (∀ m ∈ (missS.acore.get 0).miss, m.line ≠ 0x81) := by decide
theorem wit_PrefetchIssue : (missS.acore.get 0).onStream 0x2040 = true ∧ (missS.acore.get 0).onStream 0x2001 = false ∧
    missS.aRuns 0 = true ∧ State.reset.aRuns 0 = false ∧
    (match missS.prefetchXlat 0 0x2040 with
      | some x => decide (x.type = .wb ∧ (missS.region x.pa).isHbm = true ∧ x.pa / 64 ∉ (missS.acore.get 0).l1d ∧
          (∀ m ∈ (missS.acore.get 0).miss, m.line ≠ x.pa / 64) ∧ missS.coreErr 0 ⟨x.pa, x.type, 0x2040, 1⟩ false = none)
      | none => false) = true ∧ (missS.prefetchXlat 0 0xF00000000040).isNone = true := by decide +kernel
theorem wit_WalksAndInterrupts :
    irqS.coreOffer 0 = some 1024 ∧ irqS.atH 0 = true ∧ irqS.irqBoundary 0 = true ∧ (irqS.acore.get 0).forced = false ∧
    (irqS.acore.get 0).ml = 15 ∧ (irqS.acore.get 0).xm = false ∧ State.reset.irqBoundary 0 = false := by decide
/-- Core 0 in partition 0 at ring 0, ML 0, with a virtual interrupt only. -/
def virqS : State := { (aS.modA 0 fun a => { a with stat := 0 }) with irq := { aS.irq with
  src := [(40, ⟨0x2075, none, true, false, none, false, false⟩)] } }
theorem wit_WalksAndInterrupts_virtual : virqS.corePart 0 = some 0 ∧ virqS.virtOffer (fin 63 0) = some 40 ∧ virqS.atH 0 = false ∧
    (virqS.acore.get 0).ml < (virqS.src 40).prio ∧ (virqS.acore.get 0).xm = false ∧ virqS.coreOffer 0 = none ∧ virqS.canon := by
  unfold State.canon; decide
theorem wit_WalksAndInterrupts_walk : aS.aRuns 0 = true ∧ aS.tlbHits (aS.ctx 0 .read false) 0x2000 = [] ∧
    passes (aS.translate (aS.ctx 0 .read false) 0x2000) = true ∧ okOf (aS.translate (aS.ctx 0 .read false) 0xF00000000000) = false := by decide
theorem wit_WalksAndInterrupts_update : (1 : Word).getLsbD 0 = true ∧ (1 : Word).getLsbD 6 = false ∧ (0x10000 : PA).toNat % 8 = 0 ∧
    (match (aS.walkRead (aS.ctx 0 .write false) 0x10000 .wb).2 with | .ok x => x == (0, false) | _ => false) = true ∧
    (match (aS.walkRead (aS.ctx 0 .write false) 0xE0000FFFF8 .devS).2 with | .error r => r == .decerr | _ => false) = true := by decide +kernel

/-- Memory holds the word 1 at 0x10000: a valid leaf whose A bit is 0. -/
def adS : State := aS.homePush 0x400 0 (toBytes 8 1) .smc
theorem wit_WalksTransfersAndSlotsComplete_update : adS.held = false ∧ adS.aRuns 0 = true ∧
    (match adS.leafPlace (adS.ctx 0 .read false) true 0x10000 with | (v, .ok x) => decide (x = (0x10000, .wb) ∧ v.held = false) | _ => false) = true ∧
    (match adS.walkRead (adS.ctx 0 .read false) 0x10000 .wb with | (z, .ok x) => decide (x = (1, false) ∧ z.held = false) | _ => false) = true ∧
    (let y := (adS.walkRead (adS.ctx 0 .read false) 0x10000 .wb).1.casEntry 0 0x10000 1 false; y.2 = true ∧ y.1.held = false) := by decide +kernel
/-- Core 0 at level H with ML 0 and both stacks, and source 1024 pending for it. -/
def takeS : State := { excS 4 with irq := irqS.irq }
theorem wit_WalksTransfersAndSlotsComplete_interrupt : (takeS.acore.get 0).forced = false ∧ takeS.irqBoundary 0 = true ∧
    takeS.takes 0 = some (1024, .core 0, true) ∧
    ((takeS.claim 1024 (.core 0)).raiseAt 0 { exn (takeS.src 1024).vec 0 (srcId 1024) 0 with toH := true } 0x1000 false (takeS.src 1024).prio false
      true).held = false := by decide +kernel

/-! ## The mesh -/

/-- The registers of the peripherals and of PCIe are powered. -/
def ioS : State := on 60 (on 55 aS)
/-- Whether an error response is none. -/
def okR {α : Type} (x : Except Resp α) : Bool := match x with | .ok _ => true | .error _ => false
theorem wit_MeshAccesses_registers :
    ioS.region 0xF072000008 = .regs ∧ ioS.region 0x2000 ≠ .regs ∧ (∀ c, (ioS.acore.get c).forced = false) ∧
    okR (ioS.regWrite ⟨.smc, some .devS, 0xF072000008, 8⟩ 0x15) = true ∧ ioS.regErr ⟨.core 0, some .devS, 0xF072000008, 8⟩ true = some .wlderr ∧
    ioS.regErr ⟨.smc, some .nc, 0xF072000008, 8⟩ true = some .typerr ∧ ioS.regErr ⟨.smc, some .devS, 0xF072000002, 4⟩ true = some .sizerr ∧
    ioS.regErr ⟨.smc, some .devS, 0xF072000008, 2⟩ true = some .sizerr ∧ ioS.regErr ⟨.smc, some .devS, 0xF0B0000000, 4⟩ true = some .decerr := by decide
theorem wit_MeshAccesses_tcm : aS.region 0xE000080000 = .tcm 0 0 true 0 ∧ (on 40 aS).accessErr .smc (some .nc) 0xE00008003C 4 true = none ∧
    tS.accessErr .smc (some .nc) 0xE000080000 8 true ≠ none := by decide
theorem wit_MeshAccesses_pcie : ioS.domOn 55 = true ∧ aS.domOn 55 = false ∧ ioS.region 0xFFF00000 = .hbm ∧
    (∀ x ∈ partsOf 0x203C 8, ioS.dmaErr (.pcie 0) x.1 x.2 false = none) ∧ ioS.dmaErr (.pcie 0) 0xE0000FFFF8 8 true ≠ none := by decide

/-! ## Home agents -/

/-- A line of the SLC. -/
def slcL : SlcLine := ⟨0, 0, false, 5, false⟩
/-- The L2 of pod 0 is powered; the SLC holds line 0x80; pod 1 holds line 0x90 in M, and pod 0 line 0x90 waits for nothing. -/
def hS : State :=
  let s := on 32 (on 33 aS)
  let s := s.modHome (homeIdx 0x80) fun y => { y with slc := [(0x80, slcL)] }
  let s := (s.putL2 1 0x90 ⟨0, .m, 7, false, .wb⟩).setFilt 0x90 1 (some .m)
  (s.putL2 0 0xA0 ⟨0, .s, 9, false, .wb⟩).setFilt 0xA0 0 (some .s)
/-- A transaction of pod 0. -/
def tx (l : Nat) (r : HomeReq) : Txn := ⟨l, r, .pod 0, 1, 0, .queued, [], none, [], false⟩
theorem wit_HomeRequests_pod : hS.canAsk 0 0x80 = true ∧ hS.l2? 0 0x80 = none ∧ hS.l2Allocates 0 = true ∧ (hS.homeErr (.pod 0) 0x2000 false).2 = none ∧
    (hS.homeErr (.pod 0) 0x2000 true).2 = none ∧ hS.slc? 0x80 = some slcL ∧ hS.targets (tx 0x80 .share) = [] ∧ hS.targets (tx 0x80 .own) = [] ∧
    hS.filt? 0x80 0 = none ∧ (∃ w ∈ hS.l2Ways 0, ∀ e ∈ (hS.pod.get 0).lines, l2Set e.1 = l2Set 0x80 → e.2.way ≠ w) := by decide +kernel
theorem wit_HomeRequests_free : hS.homeFree 0x80 1 ∧ hS.homeFree 0xC0 1 ∧ hS.slc? 0xC0 = none ∧ hS.targets (tx 0xC0 .share) = [] ∧
    hS.needsData (tx 0xC0 .share) = true ∧ hS.targets (tx 0x90 .share) = [1] ∧ hS.homeFree 0x90 1 ∧ hS.targets (tx 0xA0 .own) = [] ∧
    hS.l2? 0 0xA0 = some ⟨0, .s, 9, false, .wb⟩ ∧ hS.filt? 0xA0 0 = some .s ∧ hS.homeFree 0xA0 1 := by
  unfold State.homeFree; decide +kernel
theorem wit_HomeRequests_refused : ∃ v e, hS.homeErr (.master (.core 0)) 0xE000080000 false = (v, some e) := ⟨hS, .decerr, by decide +kernel⟩
theorem wit_HomeRequests_behind :
    (hS.modHome (homeIdx 0x80) fun y => { y with txns := [{ tx 0x80 .share with phase := .hbm }] }).headTxn 0x80 = some { tx 0x80 .share with phase := .hbm } := by decide +kernel
/-- Pod 1 is asked for line 0x90, and has answered. -/
def snS : State := hS.modHome (homeIdx 0x90) fun y => { y with txns := [{ tx 0x90 .share with phase := .snoop, awaiting := [1] }], snoops := [⟨0x90, 1, .share, false⟩], answers := [⟨0x90, 1, .notHeld false, 1⟩] }
theorem wit_SnoopsAndEvictions : hS.l2? 1 0x90 = some ⟨0, .m, 7, false, .wb⟩ ∧ (hS.pod.get 1).ev.length < 16 ∧
    (∃ m ∈ (snS.home.get (homeIdx 0x90)).snoops, m.line = 0x90 ∧ m.pod = 1 ∧ m.kind = .share) ∧ snS.fatalBank (bankPod 1) = false ∧
    snS.headTxn 0x90 = some { tx 0x90 .share with phase := .snoop, awaiting := [1] } ∧
    (snS.home.get (homeIdx 0x90)).answers = [⟨0x90, 1, .notHeld false, 1⟩] := by decide +kernel
/-- Two pods are awaited; the first has acknowledged. -/
def snS2 : State := hS.modHome (homeIdx 0x90) fun y => { y with txns := [{ tx 0x90 .own with phase := .snoop, awaiting := [1, 2] }], answers := [⟨0x90, 1, .ack, 1⟩] }
theorem wit_SnoopAnswer : snS2.headTxn 0x90 = some { tx 0x90 .own with phase := .snoop, awaiting := [1, 2] } ∧
    (snS2.home.get (homeIdx 0x90)).answers.find? (fun b => b.line == 0x90 && b.pod == 1) = some ⟨0x90, 1, .ack, 1⟩ := by decide +kernel
/-- Line 0xA0 waits in an eviction buffer of pod 0. -/
def evS : State := on 32 (aS.modPod 0 fun q => { q with ev := [⟨0xA0, false, 9, false, .wb, false, false, false⟩] })
theorem wit_Evictions : evS.evBuf? 0 0xA0 = some ⟨0xA0, false, 9, false, .wb, false, false, false⟩ ∧ evS.headTxn 0xA0 = none ∧
    evS.evBuf? 0 0xB0 = none := by decide +kernel
theorem wit_CleanWays : State.reset.asked (.loc .window .smc) (ek 0x4100 4) 3 = some 0 ∧ State.reset.asked (.loc .window .smc) (ek 0x4100 3) 1 = some 0 ∧
    (State.reset.setE 0x4100 5 1).ev 0x4100 5 ≠ 0 ∧ State.reset.ev 0x4100 5 = 0 ∧ State.reset.hazel.graceAt = none ∧
    (∀ h, ∀ e ∈ (State.reset.home.get h).slc, e.2.dirty = true → (State.reset.ev 0x4100 4).testBit e.2.way = false) := by decide +kernel

/-! ## HBM -/

/-- The HBM serves commands. -/
def hbmS : State := { aS with hbm := { aS.hbm with fill := .done, train := vset (vset aS.hbm.train 0 .full) 1 .full } }
/-- A pseudo-channel with a write and then a read of one line, a row to repair, and a correction under way. -/
def pcS : State := hbmS.modPc 0 fun x => { x with q := [⟨1, true, 0x80, 5, false⟩, ⟨0, false, 0x80, 0, false⟩], repair := [3] }
/-- A pseudo-channel that corrects a line. -/
def corS : State := hbmS.modPc 0 fun x => { x with corr := [0x80] }
/-- A pseudo-channel that reads a corrected line again. -/
def verS : State := hbmS.modPc 0 fun x => { x with verify := [0x80] }
theorem wit_HbmCommands : pcS.serving 0 = true ∧ hbmS.serving 0 = true ∧ hbmS.nextCmd 0 = none ∧ (corS.pc.get 0).corr = 0x80 :: [] ∧
    (verS.pc.get 0).verify = 0x80 :: [] ∧ (corS.ownSlot 0).isSome = true ∧ (verS.ownSlot 0).isSome = true ∧ (hbmS.ownSlot 0).isSome = true ∧
    (hbmS.pc.get 0).corr = [] ∧ hbmS.scrubLine 0 0 ∉ (hbmS.pc.get 0).verify ∧ (State.reset.ownSlot 0).isNone = true ∧ kvGet? verS.hbm.errs 0x80 = none ∧ (pcS.pc.get 0).repair = [3] ∧
    kvGet? hbmS.hbm.errs (hbmS.scrubLine 0 0) = none ∧ pcS.canon ∧ (hbmS.modPc 0 fun x => { x with retraining := true }).serving 0 = false := by
  unfold State.canon; decide +kernel
theorem wit_HbmCommands_next : ∃ v, pcS.nextCmd 0 = some (⟨1, true, 0x80, 5, false⟩, v) := by
  have h : pcS.eligible (pcS.pc.get 0) = [(0, 0)] := by decide +kernel
  have h2 : slotClass (pcS.pc.get 0) [(0, 0)] = some 0 := by decide +kernel
  have h3 : (pcS.pc.get 0).q[0]? = some ⟨1, true, 0x80, 5, false⟩ := by decide +kernel
  simp [State.nextCmd, oneOf, h, h2, h3]
/-- A retirement with two moves, the first one made. -/
def retS : State := { hbmS with hbm := { hbmS.hbm with ret := [⟨0, [⟨0, 0, 1, true⟩, ⟨0, 1, 2, false⟩]⟩] } }
theorem wit_MigrationChunkDone : retS.hbm.ret = [⟨0, [⟨0, 0, 1, true⟩] ++ ⟨0, 1, 2, false⟩ :: []⟩] ∧ retS.hbm.errs = [] ∧ (retS.pcOf (unlocate 0 (1 * 0x1800000) / 64)).val ≠ 2 ∧
    (∀ x ∈ [(⟨0, 0, 1, true⟩ : Move)], x.done = true) := by decide
/-- The boot has reached the training of the HBM. -/
def trainS : State := { State.reset with hazel := { State.reset.hazel with pllOk := true, booting := true } }
theorem wit_HbmTrainingDone : trainS.hbm.train.get 0 = .untrained ∧ trainS.hazel.pllOk = true ∧ trainS.ev 0x8006 2 ≠ 4 ∧
    trainS.hazel.booting = true ∧ State.reset.hazel.pllOk = false ∧ ({ trainS with hbm := { trainS.hbm with fill := .running } } : State).hbm.fill = .running := by decide

/-! ## Islands -/

/-- Slot 0 has its handlers at the start of the ITCM: the entry of vector 32 names 0x400. -/
def tvS : State :=
  let s := tS.modTc 0 0 fun c => { c with tvb := { Cap.rootCode with perms := 0x85 } }
  { s with mem := [(tcmPa 0 0 (8 * 32) + 1, 4)] }
theorem wit_ExceptionEntryOfTCores : tvS.tHandler 0 0 32 = some 0x400 ∧ tvS.tHandler 0 0 5 = some 0 ∧ tS.tHandler 0 0 5 = none ∧
    (tvS.tc 0 0).tstat.getLsbD 8 = false := by decide
/-- A boundary is due at slot 0, and ML is 0. -/
def dueS : State := (tvS.modIsl 0 fun x => { x with bounds := [⟨0, 600, 32, 5, []⟩] }).modTc 0 0 fun c => { c with tstat := 0 }
theorem wit_TInterruptEntry : dueS.due 0 0 = some ⟨0, 600, 32, 5, []⟩ ∧ (dueS.tc 0 0).run = .running ∧ (dueS.island.get 0).active.contains 0 = true ∧
    ¬ ((5 : Nat) ≤ (dueS.tc 0 0).tstat.toNat / 16 % 16) ∧ ((dueS.boundReached 0 0 ⟨0, 600, 32, 5, []⟩).tAbandon 0 0).tHandler 0 0 32 = some 0x400 ∧
    tS.due 0 0 = none ∧ (tS.tc 0 3).run ≠ .running := by decide
/-- An interrupt of the Secure world is offered to island 0, whose ML is 0. -/
def offS : State :=
  let s := tS.modIsl 0 fun x => { x with slots := vmod x.slots 0 fun c => { c with tstat := 0, instret := 1 } }
  { s with irq := { s.irq with src := [(600, ⟨0x4020B5, none, true, false, none, false, false⟩)] } }
theorem wit_IslandPinsAndInterrupts : (offS.island.get 0).leading = some 0 ∧ offS.islandOffer 0 = some 600 ∧ (offS.src 600).prio = 5 ∧ offS.canon ∧
    (offS.island.get 0).sourceStopped = false ∧ (offS.island.get 0).bounds = [] ∧ offS.domOn 40 = true ∧ (off 41 offS).domOn 41 = false := by
  unfold State.canon; decide
theorem wit_IslEoi : let s := { offS.modIsl 0 fun x => { x with claimed := [600] } with irq := { offS.irq with
      src := [(600, ⟨0x4020B5, none, false, true, some (.island 0), false, false⟩)] } }
    600 ∈ (s.island.get 0).claimed ∧ (s.src 600).active = true ∧ (s.src 600).by_ = some (.island 0) := by decide
theorem wit_SpiAndCapture : ((tS.island.get 0).spi.get 0).busy = false ∧ ((tS.island.get 0).caps.get 15).level = false ∧
    (((tS.modIsl 0 fun x => { x with spi := vmod x.spi 1 fun p => { p with busy := true } }).island.get 0).spi.get 1).busy = true := by decide
/-- A pin with a waveform of period 1000, under a locked envelope whose limits are 10 and 2000. -/
def pwmS : State :=
  let s := tS.modIsl 0 fun x => { x with released := true, pins := vmod x.pins 0 fun o => { o with ctl := 3, per := 1000, duty := 500, running := true } }
  { s with env := { s.env with locked := true, outs := vset s.env.outs 0 (word (1024 * 2 ^ 30), word (10 + 2000 * 2 ^ 24)) } }
theorem wit_PwmPeriodStart : (pwmS.pin 0 0).running = true ∧ (pwmS.island.get 0).released = true ∧ pwmS.hsHeld 0 0 = false ∧
    (pwmS.pin 0 0).per ≠ 0 ∧ (tS.pin 0 0).running = false := by decide

/-! ## The voter -/

theorem wit_Voting : (tS.island.get 0).active = [0, 1, 2] ∧ (tS.island.get 0).st = .triplex ∧
    (tS.tc 0 0).winCount < 1024 ∧ (tS.tc 0 0).uncompared[0]? = none ∧ (tS.island.get 0).penCmp = [] ∧ (tS.island.get 0).outCmp = [] ∧
    [(0 : Fin 4), 2, 1].Nodup ∧ (tS.island.get 0).producers 0 = [0, 1, 2] := by decide
/-- Slot 0 has a closed pennant, a full window and a write at the voter; the island a released write and an issued one. -/
def votS : State :=
  let s := tS.modTc 0 0 fun c => { c with uncompared := [⟨1, 5⟩], winCount := 1024, outq := [⟨0x800000, 4, 1, false, 0⟩] }
  s.modIsl 0 fun x => { x with rel := [⟨⟨0x800000, 4, 1, false, 0⟩, 0⟩], issued := [⟨⟨farBase + 0x20000, 4, 1, false, 0⟩, 0⟩],
                               penCmp := [⟨7, 0, [(0, 5), (1, 6)]⟩], outCmp := [⟨9, [(0, ⟨0x800000, 4, 1, false, 9⟩)], false⟩] }
theorem wit_Voting_arrivals : (votS.tc 0 0).uncompared[(votS.tc 0 0).sent]? = some ⟨1, 5⟩ ∧ 0 ∈ (votS.island.get 0).active ∧ (votS.tc 0 0).sent < 8 ∧
    1024 ≤ (votS.tc 0 0).winCount ∧ penVerdict [0, 1, 2] [(0, 5), (1, 6)] false = .wait ∧ penVerdict [0, 1, 2] [(2, 5), (1, 6), (0, 5)] false = .outlier 1 ∧
    penVerdict [0, 1, 2] [(0, 5), (1, 5)] true = .outlier 2 ∧ penVerdict [0, 1, 2] [(0, 5), (1, 6), (2, 7)] false = .none := by decide
/-- Slot 1 became the outlier at this very time. -/
def outS : State := tS.modIsl 0 fun x => { x with st := .rejoinTest, testing := some 1, mismatchAt := tS.time }
theorem wit_Voting_second : (outS.island.get 0).st = .rejoinTest ∧ (outS.island.get 0).testing = some 1 ∧ (outS.island.get 0).joinIsSpare = false ∧
    (outS.island.get 0).mismatchAt = outS.time ∧ (1 : Fin 4) ≠ 2 ∧ (outS.island.get 0).st.voting = true := by decide
theorem wit_Voting_agreement : (tS.island.get 0).st.voting = true ∧
    (OutCmp.mk 9 [(0, ⟨0x800000, 4, 1, false, 9⟩), (1, ⟨0x800000, 4, 1, false, 9⟩)] false).agreed = false ∧ (0 : Fin 4).val < (1 : Fin 4).val ∧
    ((tS.island.get 0).producers 9).length = 3 := by decide
theorem wit_Voting_releases : votS.spiBusy 0 0x800000 = false ∧ (votS.island.get 0).unmatched < 2 + (votS.island.get 0).issued.length ∧ tKind 0x800000 4 = .shared ∧ votS.region (sharedPa 0 0x800000) = .shared 0 0 ∧
    tKind 0xC00000 8 = .regs ∧ votS.canon := by unfold State.canon; decide +kernel
/-- Island 0 in another state of the voter. -/
def inV (v : VState) (s : State) : State := s.modIsl 0 fun x => { x with st := v }
theorem wit_IslandTestsAndRejoin : (((inV .test tS).island.get 0).slots.get 3).role ≠ .retired ∧ ((inV .test tS).island.get 0).tested.getLsbD 3 = false ∧
    ((inV .test tS).island.get 0).injecting = false ∧ ((inV .rejoinTest tS).island.get 0).testing = none ∧
    ((inV .rejoinLoad tS).island.get 0).source = some 0 ∧ ((inV .rejoinWait tS).island.get 0).source = some 0 ∧
    (∀ w ∈ (votS.tc 0 0).sb, isDtcm w.addr = false) := by decide
theorem wit_RejoinTest : let s := (inV .rejoinTest tS).modIsl 0 fun x => { x with testing := some 1 }
    (s.island.get 0).testing = some 1 ∧ (s.island.get 0).joinIsSpare = false ∧ 1 ≤ s.ev 0x5104 1 ∧ (s.slotTransients 0 1).length = 0 := by decide
theorem wit_VoterRestart : (inV .safe tS).asked (.loc .window .smc) (ek (voteIdx 0) 0xB) 1 = some 0 ∧
    (inV .held tS).asked (.loc .window .smc) (ek (voteIdx 0) 0xB) 2 = some 0 ∧ tS.asked (.loc .window .smc) (ek (voteIdx 0) 0xA) 1 = some 0 := by decide

/-! ## Annulled slots, husks and debug -/

theorem wit_AnnulledSlots :
    decodeWord (encodeWord (.branch .ne 0 0 true 0x7FFF)) = some (.branch .ne 0 0 true 0x7FFF) ∧ condHolds .ne 0 0 = false ∧
    (aS.g 0 1).toNat % 4 = 0 ∧ (tS.tc 0 0).pcc.refuses 0 4 permX = none ∧ (tS.tc 0 0).pcc.refuses 0x3FFFC 4 permX = none ∧
    tS.canon ∧ [(1 : Byte), 2, 3, 4].length = 4 ∧ (1 : Reg) ≠ 2 := by unfold State.canon; decide
theorem wit_AnnulledSlots_branch : tS.tFetches 0 0 (encodeWord (.branch .ne 0 0 true 0x7FFF)) (.branch .ne 0 0 true 0x7FFF) tU :=
  ⟨tIns_ready, tIns_fetch, rfl, by decide, by decide, by simp [tIns_slot], by decide⟩
/-- MODE HUSK with husk 1 in some state: one range, its SAVE area and one entry. -/
def huS (st : HuskSt) : State :=
  let h : Husk := { Husk.init with st := st, owner := 192, range := vset Husk.init.range 0 (word (0x10000 + 2 ^ 44 + 1)), save := 0x10000, entry := vset Husk.init.entry 0 0x18001, ring := 1 }
  { aS with hazel := { aS.hazel with mode := 2 }, husk := [(1, h)] }
theorem wit_HusksAndDebug_claim : (huS .free).asked (.loc .window .smc) (huskKey 0 2) 1 = some 0 ∧ (huS .loading).asked (.loc .window .smc) (huskKey 1 2) 2 = some 0 ∧
    (huS .loading).asked (.loc .window .smc) (huskKey 1 2) 3 = some 0 ∧ (huS .valid).asked (.loc .window .smc) (huskKey 1 2) 3 = some 0 := by decide
theorem wit_HusksAndDebug : (huS .loading).sealOk 1 = true ∧ ((huS .sealing).huskGet 1).st = .sealing ∧ ((huS .clearing).huskGet 1).st = .clearing ∧
    (huS .loading).canon := by unfold State.canon; decide
theorem wit_HusksAndDebug_halt : (aS.acore.get 0).run = .running ∧ (aS.setE 0x3300 3 1).invasive 0 = true ∧ aS.invasive 0 = false ∧
    ((aS.modA 0 fun a => { a with run := .halted }).acore.get 0).run = .halted ∧ (tS.tc 0 0).run = .running ∧ (tS.tc 0 3).run = .held := by decide

/-! ## Power, frequencies and device states -/

/-- The requester of the tests: the SMC through the window. -/
def smcQ : Req := .loc .window .smc
theorem wit_PowerDomains : State.reset.asked smcQ (ek 0x2000 1) 2 = some 0 ∧ State.reset.asked smcQ (ek 0x2000 52) 0 = some 0 ∧ State.reset.hazel.powerQ = [] ∧
    (State.reset.dom 0).changing = none ∧ (State.reset.dom 0).cur = .off ∧ (State.reset.dom (l2Dom 0)).cur ≠ .on ∧
    ((on 32 State.reset).dom (l2Dom 0)).cur = .on ∧ domPod 0 = some 0 ∧ (State.reset.dom 51).cur = .on ∧
    (State.reset.modDom 51 fun x => { x with hold := true }).asked smcQ (ek 0x2000 52) 0 = some 0 ∧
    State.reset.asked smcQ (ek 0x2000 60) 0 ≠ some 0 ∧ State.reset.asked (.loc .window (.core 0)) (ek 0x2000 41) 0 ≠ some 0 := by decide
theorem wit_PowerDomains_hold : State.reset.asked smcQ (ek 0x2002 52) 1 = some 0 ∧ State.reset.asked smcQ (ek 0x2002 52) 0 = some 0 ∧
    (State.reset.dom 51).pending = none ∧ ((State.reset.modDom 51 fun x => { x with pending := some .off }).dom 51).pending = some .off ∧
    ((State.reset.modDom 51 fun x => { x with changing := some .off }).dom 51).changing = some .off := by decide
theorem wit_DomainTransitionDone : ((State.reset.beginTo 0 .on).dom 0).changing = some .on ∧ (∀ n : Fin 24, (State.reset.gw.can.get n).attempt = none) ∧
    (∀ m : Fin 12, (State.reset.gw.lin.get m).header = none) ∧ (State.reset.acore.get 0).run ≠ .retired ∧
    ((State.reset.modDom 0 fun x => { x with cur := .off, hold := true, changing := none }).dom 0).hold = true := by decide
/-- Pod 0 changes its frequency: its supply rises. -/
def mhzS : State := { aS with hazel := { aS.hazel with pmicWait := false, podJob := vset aS.hazel.podJob 0 (some ⟨⟨smcQ, none⟩, 1000, 400, true⟩) } }
theorem wit_FrequenciesAndSupplies : State.reset.asked smcQ (ek 0x2100 1) 400 = some 0 ∧ State.reset.asked smcQ (ek 0x2100 1) 450 ≠ some 0 ∧
    mhzS.hazel.podJob.get 0 = some ⟨⟨smcQ, none⟩, 1000, 400, true⟩ ∧ mhzS.hazel.pmicWait = false ∧ (1 : Byte).getLsbD 0 = true ∧
    (∀ p, ((State.reset.hazel.podJob.get p).all (·.supply) = true)) ∧ ¬ ((aS.dom 0).cur = .off) ∧ State.reset.canon := by unfold State.canon; decide
theorem wit_Throttle : let lim := (BitVec.ofNat 16 (State.reset.ev 0x2102 1)).toInt
    lim * 64 ≤ 200 * 64 + (BitVec.ofNat 16 (State.reset.ev 0x8001 1)).toInt ∧ State.reset.hazel.throttled = false ∧
    ∀ j : Fin 16, State.reset.hazel.temps.get j + (BitVec.ofNat 16 (State.reset.ev 0x8001 (1 + j.val))).toInt ≤ (lim - 5) * 64 := by decide
theorem wit_PciePerstNRise : (on 55 State.reset).domOn 55 = true ∧ State.reset.hazel.bifur = false := by decide
/-- The device in a device state. -/
def dev (d : DevSt) (s : State) : State := s.modHz fun h => { h with dev := d, stopped := false }
theorem wit_DeviceStates : (dev .active State.reset).asked smcQ (ek 0x2004 2) 2 = some 0 ∧ (dev .active State.reset).asked smcQ (ek 0x2004 2) 3 = some 0 ∧
    (dev .suspend State.reset).asked smcQ (ek 0x2004 2) 3 = some 0 ∧ (dev .suspend State.reset).asked smcQ (ek 0x2004 2) 1 = some 0 ∧
    (∀ c : Fin 32, State.reset.domOn ⟨c.val, by omega⟩ = true → (State.reset.acore.get c).run = .wfi) ∧
    aS.domOn 0 = true ∧ (aS.acore.get 0).run ≠ .wfi ∧ (aS.acore.get 0).run ≠ .halted ∧ ((dev .suspend State.reset).setE 0x2004 4 1).ev 0x2004 4 ≠ 0 := by decide
theorem wit_WakePatternMatch : let s := ((dev .suspend State.reset).setE 0x2210 1 0xFF).setE 0x2200 1 1
    (s.ev 0x2210 1).testBit 7 = true ∧ s.ev 0x2210 2 = 0 ∧ s.ev 0x2210 3 = 0 ∧ s.ev 0x2210 5 = 0 ∧ (s.ev 0x2200 1).testBit 0 = true := by decide
theorem wit_DeviceStates_idle : let s := dev .toSuspend State.reset
    (∀ n : Fin 24, (s.gw.can.get n).attempt = none) ∧ (∀ m : Fin 12, (s.gw.lin.get m).header = none) ∧ s.hazel.dev = .toSuspend ∧ s.coresIdle = true ∧
    (dev .toSleep aS).coresIdle = false ∧ (dev .toSleep State.reset).hazel.dev = .toSleep := by decide

/-! ## Boot and resets -/

/-- A directory with one record of each type 1 to 5 and 7. -/
def dirT : BootDir := ⟨true, toBytes 4 0x5244444E ++ [6, 0, 0, 0] ++ ([1, 2, 3, 4, 5, 7].flatMap fun t => [t, 0, 0, 0] ++ toBytes 4 0x1000 ++ toBytes 8 0x1000)⟩
/-- The header of an image with an empty body, in its fields of Table 10.7. -/
def hdr (ty : Nat) : ImageHeader := ⟨true, toBytes 4 0x4B52444E ++ [1, 0, BitVec.ofNat 8 ty] ++ List.replicate 25 0 ++ sha384 [] ++ List.replicate 0x15B0 0⟩
/-- A board with that directory and the digest of that key in slot 0. -/
def boardT : Board :=
  ⟨false, false, 0, false, Vector.replicate 4 1, Vector.replicate 4 (sha384Num (slice (hdr 1).bytes 0x50 0x810)), Vector.replicate 7 0, [], dirT⟩
/-- A boot at a stage. -/
def bootS (k : Nat) : State := (State.reset.setE 0x2300 3 k).modHz fun h => { h with dev := .waking, booting := true, pllOk := true, porst := true, board := some boardT }
theorem wit_Boot : bootDirOk dirT = true ∧ dirT.readOk = true ∧ (bootS 4).stage9.ev 0x2300 3 = 4 ∧
    (bootS 4).stage9.hazel.booting = true ∧ bootDirOk { dirT with bytes := [] } = false ∧ (bootS 3).ev 0x2300 3 = 3 ∧ (bootS 4).canon := by unfold State.canon; decide
theorem wit_Boot_board : (bootS 4).hazel.board = some boardT ∧ (bootS 4).stage9.hazel.board = some boardT := ⟨rfl, rfl⟩
/-- Stage 7, slot 0 active. -/
def verB : State := (bootS 7).setE 0x3000 0x20 1
theorem wit_Boot_fields : imgForm (hdr 1) 1 = true ∧ imgSlot (hdr 1) = 0 ∧ verB.ev 0x3000 0x20 = 1 ∧ verB.ev 0x3000 0x31 ≤ imgVersion (hdr 1) ∧
    imgLength (hdr 1) = 0 ∧ sha384Num [] = imgDigest (hdr 1) ∧ (hdr 1).readOk = true ∧ verB.ev 0x2300 3 = 7 := by decide +kernel
theorem wit_Boot_stage : verB.stage9 = verB := if_neg (by decide)
theorem wit_Boot_fused : verB.fusedDigest 0 = some (sha384Num (slice (hdr 1).bytes 0x50 0x810)) := rfl
/-- Whether an image with those fields passes is then for the two signatures to say, whose functions are opaque (log entry 83). -/
theorem wit_Boot_verifies (h : Config.ecdsaVerify (slice (hdr 1).bytes 0x50 97) (sha384 (slice (hdr 1).bytes 0 0x860)) (slice (hdr 1).bytes 0x860 96) = true)
    (g : Config.mldsaVerify (slice (hdr 1).bytes 0xC0 1952) (sha384 (slice (hdr 1).bytes 0 0x860)) (slice (hdr 1).bytes 0x8C0 3309) = true) :
    verB.verifies 1 (hdr 1) [] = true := by
  obtain ⟨a, b, c, d, e, f, _⟩ := wit_Boot_fields
  simp [State.verifies, a, b, c, d, e, f, wit_Boot_fused, h, g]
theorem wit_Boot_rejected : verB.verifies 2 (hdr 1) [] = false := by
  have a : imgForm (hdr 1) 2 = false := by decide +kernel
  simp [State.verifies, a]
theorem wit_Boot_pll : (State.reset.modHz fun h => { h with dev := .waking, pmicWait := false, pllOk := false, booting := true }).hazel.dev = .waking := by decide
/-- Stage 9: the images of types 5 to 7 may be verified. -/
def lateS : State := on 57 { bootS 9 with hbm := filled.hbm }
theorem wit_Boot_late : lateS.stage9.ev 0x2300 3 = 9 ∧ lateS.domOn 57 = true ∧ lateS.hbmReady = true ∧ imgType (hdr 5) = 5 ∧
    lateS.ev 0x2300 6 % 32 = 0 ∧ lateS.coreRetired 0 = false := by decide
/-- Island 0 has a verified image. -/
def imgS : State := lateS.modHz fun h => { h with images := [(5, []), (6, [1]), (7, [])] }
theorem wit_Boot_images : kvGet? imgS.hazel.images (6 + 256 * (0 : Fin 4).val) = some [1] ∧ (on 40 imgS).domOn 40 = true ∧ (imgS.island.get 0).st = .held ∧
    (kvGet? imgS.hazel.images 5).isSome = true ∧ (on 50 imgS).domOn 50 = true ∧ (imgS.dirRecs 7).length = 1 := by decide
theorem wit_Resets : State.reset.canon ∧ (bootS 4).hazel.porst = true ∧ State.reset.hazel.porst = false ∧
    State.reset.hazel.graceAt = none ∧ (bootS 4).hazel.stopped = false ∧ State.reset.domOn 57 = true ∧ (off 57 State.reset).domOn 57 = false ∧
    isVol (ek 0x4100 2) = true ∧ isVol (ek 0x4100 1) = false ∧ boardT.testEn = false ∧ { boardT with testEn := true }.testEn = true := by unfold State.canon; decide
theorem wit_Resets_asked : (dev .active State.reset).asked smcQ (ek 0x2300 2) 0x53595352 = some 0 ∧ State.reset.asked smcQ (ek 0x2300 7) 10 = some 0 ∧
    State.reset.asked smcQ (ek 0x2300 7) 60000 = some 0 ∧ State.reset.asked smcQ (ek 0x2300 7) 9 ≠ some 0 := by decide

/-! ## Frames and ports -/

/-- Port 0 has a link; its microcode runs; queue pair 0 of VI 0 is in service with its tails moved. -/
def gwS : State :=
  let s := on 50 (on 52 (on 53 (on 54 filled)))
  let s := (s.setE 0x6000 1 1).modPort 0 fun p => { p with link := true }
  let s := ((s.setE 0x6300 1 1).setE 0x6300 0x14 1).setE 0x6300 0x13 8
  let s := s.modQp 0 0 fun q => { q with rxTail := 1, txTail := 1 }
  { s with gw := { s.gw with ucode := .running } }
theorem wit_FramesOfVis : gwS.link 0 = 1 ∧ gwS.domOn 52 = true ∧ 64 ≤ gwS.ev 0x6000 6 ∧ gwS.ev 0x6000 0x40 = 0 ∧ gwS.gw.miss = [] ∧
    gwS.qpOn 0 0 = true ∧ (gwS.qp 0 0).rx.length < ((gwS.qp 0 0).rxTail - (gwS.qp 0 0).rxHead).toNat - (gwS.qp 0 0).rxDone.length ∧
    (gwS.qp 0 0).fetched ≠ (gwS.qp 0 0).txTail ∧ gwS.busMode 0 0 = false ∧ gwS.domOn 50 = true ∧ gwS.masterSecure .smc = true ∧
    gwS.masterSecure (.core 0) = false ∧ gwS.viPart 0 = none ∧ gwS.link 1 ≠ 1 := by decide
/-- MACsec on port 0: strict, GCM-AES-128, one receive SC and one SA each way with the same key. -/
def secS : State :=
  let sak : List Byte := List.replicate 16 7 ++ List.replicate 32 0
  let s := (((gwS.setE 0x6000 0x40 1).setE 0x6000 0x42 2).setE 0x6000 0x45 9).setE 0x6000 0x50 9
  ((((s.setB 0x6000 0x48 sak).setB 0x6000 0x60 sak).setE 0x6000 0x54 1).setE 0x6000 0x4C 5).setE 0x6000 0x70 5
/-- The bytes of a frame that stands the checks of its port. -/
def accepted (x : State × Option (List Byte)) : Option (List Byte) := x.2
/-- A frame without FCS. -/
def secB : List Byte := List.replicate 12 1 ++ [2, 2]
/-- It as the other end of the link protects it, its SecTAG with the SCI 9 and packet number 5. -/
def secF : List Byte := List.replicate 12 1 ++ [136, 229, 44, 2, 0, 0, 0, 5, 9, 0, 0, 0, 0, 0, 0, 0, 92, 146, 91, 72, 53, 164, 61,
  126, 84, 91, 90, 197, 236, 12, 230, 184, 218, 216]
/-- Whether two byte lists are equal. -/
def sameBytes (x y : Option (List Byte)) : Bool := x == y
theorem wit_FramesOfVis_macsec : secS.ev 0x6000 0x40 ≠ 0 ∧ secS.pnExhausted 0 = false ∧ sameBytes (accepted (secS.secAccept 0 secB)) none = true ∧
    (secParse secF).isSome = true ∧ (secParse []).isSome = false := by decide +kernel
theorem wit_FramesOfVis_protected : ((secS.secAccept 0 secF).1.ev 0x6000 0x70 == 6 && sameBytes (accepted (secS.secAccept 0 secF)) (some secB)) = true := by decide +kernel
theorem wit_FramesOfVis_miss : let s : State := { gwS with gw := { gwS.gw with miss := [⟨.eth 0 [1], [9], [], 0⟩] } }
    s.gw.miss.any (·.key == [9]) = true ∧ s.gw.miss.length < 4096 ∧ s.cacheFind [8] = none ∧ s.flowFind [9] = none ∧
    (s.gw.miss.filter (·.key == [9])).length = 1 := by decide +kernel
/-- Whether a read by a master that is no core gives bytes without poison. -/
def readOk (x : State × Option (List Byte × Bool)) : Bool := match x.2 with | some (_, false) => true | _ => false
theorem some_read {x : State × Option (List Byte × Bool)} (h : readOk x = true) : ∃ r d, x = (r, some (d, false)) := by
  obtain ⟨v, r⟩ := x
  match r, h with
  | some (d, false), _ => exact ⟨v, d, rfl⟩
theorem wit_RxDescriptorFill : ∃ r d, (gwS.modQp 0 0 fun q => { q with rx := [⟨[1], 0, 0, 0, 0, false⟩] }).dmaRead (.gateway 0) 0x20000 32 =
    (r, some (d, false)) := some_read (by decide +kernel)
theorem wit_QpEnable : gwS.asked smcQ (ek 0x6300 0x14) 0 = some 0 ∧ gwS.asked smcQ (ek 0x6300 0x14) 1 = some 0 := by decide
/-- A frame of 60 bytes. -/
def egF (l : Option Nat) : EgFrame := ⟨List.replicate 60 0, 0, 0, l, none⟩
/-- Port 0 has two queues with a frame, the envelope is locked without a ceiling on the port. -/
def egS : State :=
  let s := gwS.modPort 0 fun p => { p with queues := vset (vset p.queues 0 [egF none]) 1 [egF (some 0)] }
  { s with env := { s.env with locked := true, ports := vset s.env.ports 0 0xFFFFFFFF } }
theorem wit_Ports : (egS.gw.ports.get 0).queues.get 0 = [egF none] ∧ egS.domOn 50 = true ∧ (egS.gw.ports.get 0).sending = none ∧ egS.link 0 = 1 ∧
    egS.env.locked = true ∧ egS.gclOper 0 = [] ∧ egS.pnExhausted 0 = false ∧ ((egS.env.ports.get 0).toNat) % 2 ^ 32 = 0xFFFFFFFF ∧
    (egS.ev 0x6101 8 = 0) := by decide
theorem wit_Ports_bucket : let s : State := { egS with env := { egS.env with ports := vset egS.env.ports 0 (word (1 + 2 ^ 32)) } }
    (s.env.ports.get 0).toNat % 2 ^ 32 ≠ 0xFFFFFFFF ∧ 68 * 8000000 > min ((s.env.ports.get 0).toNat / 2 ^ 32 % 2 ^ 24 * 8000000) 0 := by decide
/-- Port 0 sends a frame of queue 0 that has 400 octets; queue 0 is preemptable and its preemption active. -/
def sendS : State := (((gwS.setE 0x6101 0x10 1).modPort 0 fun p => { p with sending := some ⟨0, egF none, 400, 0, List.replicate 400 0⟩, preempt := true }).setE 0x6101 8 1000)
theorem wit_FrameTransmitEnd : ((sendS.gw.ports.get 0).sending.map fun x => (x.q, x.octets)) = some (0, 400) ∧
    sendS.ev 0x6101 8 ≠ 0 ∧ (sendS.gw.ports.get 0).gates.toNat.testBit 0 = true := by decide +kernel
theorem wit_Ports_preempt : sendS.preemptable 0 0 = true ∧ sendS.preemptable 0 1 = false ∧ (sendS.gw.ports.get 0).paused = none ∧
    sendS.cut 0 ⟨0, egF none, 400, 0, []⟩ = none ∧
    ({ sendS with time := 40 }.cut 0 ⟨0, egF none, 400, 0, []⟩).isSome = true ∧
    ((sendS.modPort 0 fun p => { p with sending := none, paused := some ⟨0, egF none, 100, 0, []⟩ }).gw.ports.get 0).paused = some ⟨0, egF none, 100, 0, []⟩ := by decide
theorem wit_LaunchTimeReached : ((egS.gw.ports.get 0).queues.get 1) = [egF (some 0)] ∧ (0 : Nat) ≤ egS.time ∧
    ((egS.gw.ports.get 0).gates.toNat.testBit 0) = true := by decide
/-- A list of two intervals is in force and another is to come into force. -/
def gclS : State :=
  let l : List Byte := [100, 0, 0, 0, 1, 0, 0, 0, 100, 0, 0, 0, 2, 0, 0, 0]
  let s := (((gwS.setB 0x6101 1 l).setB 0x6101 5 l).setB 0x6130 1 l).setB 0x6130 5 l
  s.modPort 0 fun p => { p with gclPending := false, gclAt := 100 }
theorem wit_GateLists : gclRecs (gclS.eb 0x6101 5) = [(100, 1), (100, 2)] ∧ sglRecs (gclS.eb 0x6130 5) = [(100, true), (100, false)] ∧
    gclS.asked smcQ (ek 0x6101 3) 1 = some 0 ∧ gclS.asked smcQ (ek 0x6130 3) 1 = some 0 ∧ (gclS.gw.ports.get 0).gclPending = false ∧
    ((gclS.modPort 0 fun p => { p with gclPending := true }).gw.ports.get 0).gclPending = true := by decide
/-- Instance 0 disciplines the clock in domain 0 over port 0, which has heard a vector better than the device's. -/
def gptpS : State :=
  let s := (((gwS.setE 0x6100 4 0).setE 0x6100 8 3).setE 0x6100 5 0xFF).setE 0x6100 0xC 0
  (s.modGptp 0 fun x => { x with heard := vset x.heard 0 (some 1) }).modGptp 0 fun x => { x with synced := true }
theorem wit_TimeInstances : gptpS.gw.ucode = .running ∧ gptpS.ev 0x6100 1 = 0 ∧ gptpS.ev 0x6100 4 ≠ 0xFF ∧ gptpS.gptpSlave 0 = some 0 ∧
    (gptpS.ev 0x6100 8).testBit 0 = true ∧ (gptpS.ev 0x6100 8).testBit 5 = false ∧ gptpS.timeLocked = true ∧ gptpS.gptpSlave 1 = none ∧
    gptpS.ev 0x6100 5 = 0xFF ∧ (gptpS.setE 0x6100 0xD 1).gptpSlave 0 = none ∧ ((gptpS.setE 0x6100 0xD 1).setE 0x6100 0x10 0).gptpSlave 0 = some 0 ∧
    (gptpS.modGptp 0 fun x => { x with heard := vset x.heard 0 none }).gptpSlave 0 ≠ gptpS.gptpSlave 0 ∧ State.reset.gw.ucode ≠ .running := by decide
theorem wit_Boot_wake : let s := State.reset.modHz fun h => { h with dev := .waking, pmicWait := false, pllOk := true, booting := false, islandsOn := 1 }
    let t := s.modDom 40 fun x => { x with cur := .off, req := .on }
    t.hazel.dev = .waking ∧ t.hazel.pllOk = true ∧ t.hazel.booting = false ∧ t.hazel.islandsOn.getLsbD 0 = true ∧ (t.dom 40).cur = .off ∧
    (t.dom 40).req = .on ∧ t.hazel.islandsOn.getLsbD 1 = false ∧ ((on 57 t).dom 57).cur ≠ .off ∧ (bootS 3).hazel.pllOk = true := by decide
theorem wit_Boot_rejects : (State.reset.modHz fun h => { h with board := none }).hazel.board = none ∧ bootDirOk ⟨true, []⟩ = false ∧
    verB.ev 0x2300 3 = 7 ∧ (bootS 5).ev 0x2300 3 = 5 ∧ (bootS 6).ev 0x2300 3 = 6 := by decide
theorem wit_TxDescriptorRead : ∃ r d, gwS.dmaRead (.gateway 0) (gwS.txAddr 0 0 0) 32 = (r, some (d, false)) := some_read (by decide +kernel)
theorem wit_RxDescriptorFill_queue : let s := gwS.modQp 0 0 fun q => { q with rx := [⟨[1], 0, 0, 0, 0, false⟩] }
    (s.qp 0 0).rx = [⟨[1], 0, 0, 0, 0, false⟩] ∧ s.qpOn 0 0 = true ∧ s.domOn 50 = true ∧ (gwS.vi 0).modArmed = false ∧
    ((gwS.putVi 0 { gwS.vi 0 with modArmed := true, stat := 1, en := 1 }).vi 0).modArmed = true ∧ gwS.viPart 1 = none ∧
    (0 - (gwS.qp 0 0).txHead).toNat ≤ gwS.ev 0x6300 0x11 := by decide
theorem wit_Ports_holds : (∃ l, (egF (some 5)).launch = some l ∧ gwS.time < l) ∧ gclS.everFits 0 0 5000 = false ∧ gclS.everFits 0 0 20 = true :=
  ⟨⟨5, rfl, by decide⟩, by decide +kernel, by decide +kernel⟩
theorem wit_Ports_credit : let s := (egS.setE 0x6101 8 1000).modPort 0 fun p => { p with credit := vset p.credit 0 (-1) }
    s.ev 0x6101 8 ≠ 0 ∧ (s.gw.ports.get 0).credit.get 0 < 0 ∧ ((s.gw.ports.get 0).queues.get 0).length = 1 := by decide +kernel
theorem wit_Ports_late : (0 : Nat) + egS.ev 0x6100 3 < ({ egS with time := 1000000000000 } : State).time ∧ (secS.setE 0x6000 0x4C 0xFFFFFFFF).pnExhausted 0 = true ∧
    egS.ringHeld 0 0 (egF none) = false := by decide +kernel
theorem wit_Ports_closed : ({ gclS with time := 99 } : State).gateFits 0 0 100 = false ∧ gclS.gateFits 0 0 20 = true ∧
    (gwS.setE 0x6101 8 0).ev 0x6101 8 = 0 ∧ ((gclS.modGate 0 fun x => { x with pending := true }).gw.sgates.get 0).pending = true := by decide +kernel

/-! ## Flow commands -/

/-- A context that forwards nothing. -/
def ctxT : FlowCtx := { flowOfBytes (List.replicate 64 0) with key := key24 [1] }
/-- The key of the tests, and the first handle that it may occupy. -/
def keyT : List Byte := key24 [1]
/-- The flow engine holds a context at the first handle of its key, owned by VI 0. -/
def flS : State := let s := on 52 filled
  s.flowPut 47488 (s.newCtx keyT 0 ctxT)
theorem wit_FlowCommands : flS.domOn 52 = true ∧ badContext ctxT = false ∧ flS.flowFind keyT = some 47488 ∧
    flowHandles keyT = [47488, 47489, 47490, 47491, 179228, 179229, 179230, 179231] ∧ flS.flowPermit 0 ctxT = false ∧ (flS.ctx? 47488).isSome = true ∧
    flS.ctx? 5 = none ∧ kvSorted flS.gw.cache = true ∧ flS.flowFind (key24 [2]) = none ∧ State.reset.domOn 50 = true := by decide +kernel
theorem wit_FlowInsert_places : let s := (on 52 filled).setE 0x6300 3 1
    s.flowFind keyT = none ∧ ¬ s.ev 0x6300 3 ≤ s.ev 0x6300 4 ∧ s.ctx? 47488 = none ∧ State.reset.ev 0x6300 3 ≤ State.reset.ev 0x6300 4 := by decide +kernel
theorem wit_FlowBulk : (((on 52 filled).setE 0x6300 3 1).flowInsert .secure 0 keyT ctxT).2.status = 0 ∧
    ((on 52 filled).flowInsert .secure 0 keyT ctxT).2.status = 3 := by decide +kernel

/-! ## CAN, LIN and encapsulation -/

/-- A classical frame. -/
def canF : BusFrame := ⟨.cc, false, 5, false, false, false, false, 1, 0, 0, 0, [1]⟩
/-- Channel 0 is active, with a frame whose launch time has come and one that wins arbitration; the envelope admits both. -/
def canS : State :=
  let s := on 51 State.reset
  let s := { s with gw := { s.gw with can := vset s.gw.can 0 { s.gw.can.get 0 with st := .active, q := [⟨{ canF with id := 7 }, none, some 0, 0, false, false, false⟩, ⟨canF, none, none, 0, false, false, false⟩] } } }
  { s with env := { s.env with locked := true, can := vset s.env.can 0 (word (100 + 128)) } }
/-- Channel 0 with its state of Table 12.9 changed. -/
def canIn (f : Can → Can) : State := { canS with gw := { canS.gw with can := vmod canS.gw.can 0 f } }
theorem wit_BusChannels_receive : canS.domOn 51 = true ∧ (canS.gw.can.get 0).st = .active ∧ canS.admits 0 canF.fmt = true ∧
    canS.admits 0 .xl = false ∧ canS.dapFrame 0 canF = none ∧ (off 51 State.reset).domOn 51 = false := by decide
theorem wit_BusChannels_attempt : (canS.gw.can.get 0).attempt = none ∧ (canS.gw.can.get 0).stopping = false ∧ canS.ev 0x6400 8 = 0 ∧
    arbField canF ≤ arbField { canF with id := 7 } ∧ canS.env.locked = true ∧ (canS.gw.can.get 0).q.length = 2 := by decide
theorem wit_BusChannels_envelope : (canS.env.can.get 0).toNat.testBit 7 = true ∧ (canS.env.can.get 0).toNat % 128 = 100 ∧
    canS.allowEntry 0 canF = none ∧
    (let s : State := { canS with env := { canS.env with can := vset canS.env.can 0 (word (50 + 2 ^ 21)), allow := [word (5 + 2 ^ 48)] } }
     s.allowEntry 0 canF = some 0 ∧ 1000000000 ≤ s.idBucket 0) := by decide
theorem wit_BusChannels_ends : let x : TxBus := ⟨canF, none, none, 0, false, false, false⟩
    ((canIn fun c => { c with attempt := some x }).gw.can.get 0).attempt = some x ∧ ((canIn fun c => { c with st := .busOff, recovering := true }).gw.can.get 0).st = .busOff ∧
    ((canIn fun c => { c with st := .integrating }).gw.can.get 0).st = .integrating ∧ 256 ≤ ((canIn fun c => { c with tec := 256 }).gw.can.get 0).tec ∧
    (canIn fun c => { c with st := .busOff }).asked smcQ (ek 0x6400 0xB) 1 = some 0 ∧ canS.asked smcQ (ek 0x6400 0xB) 1 ≠ some 0 ∧
    canS.asked smcQ (ek 0x6400 1) 0 = some 0 ∧ canS.asked smcQ (ek 0x6418 1) 0 = some 0 := by decide
/-- The oldest write of the journal. -/
def jrS (key : Nat) (v : DVal) : State := { canS with seed := { canS.seed with journal := [⟨⟨smcQ, none⟩, key, v⟩] } }
theorem wit_BusChannels_stop : (jrS (ek 0x6400 1) (.num 0)).seed.journal = ⟨⟨smcQ, none⟩, ek 0x6400 1, .num 0⟩ :: [] ∧
    (jrS (ek 0x6418 5) (.num 1)).seed.journal = ⟨⟨smcQ, none⟩, ek 0x6418 5, .num 1⟩ :: [] := by decide
/-- LIN channel 0 runs, publishes identifier 1 and has a schedule of one record in force. -/
def linS : State :=
  let s := ((canS.setE 0x6418 7 2).setE 0x6418 5 1)
  { s with gw := { s.gw with lin := vset s.gw.lin 0 { s.gw.lin.get 0 with running := true, bufs := [(1, ([1, 2], none))], active := [1, 0, 0, 0, 0, 0, 0, 0] } } }
theorem wit_BusChannels_lin : linS.domOn 51 = true ∧ (linS.gw.lin.get 0).running = true ∧ (linS.gw.lin.get 0).header = none ∧
    (linS.ev 0x6418 7).testBit 1 = true ∧ (linS.ev 0x6418 7).testBit 2 = false ∧ kvGet? (linS.gw.lin.get 0).bufs 1 = some ([1, 2], none) ∧
    linS.ev 0x6418 5 ≠ 0 ∧ linS.ev 0x6418 2 = 0 ∧ (linS.gw.lin.get 0).active.length / 8 = 1 ∧ linS.asked smcQ (ek 0x6418 5) 1 = some 0 := by decide
/-- The schedule has a second record. -/
def lin2S : State := linS.modLin 0 fun x => { x with active := [1, 0, 0, 0, 0, 0, 0, 0, 2, 0, 0, 0, 0, 0, 0, 0] }
theorem wit_WalksTransfersAndSlotsComplete_slot : lin2S.ev (0x6418 + (0 : Fin 12).val) 5 ≠ 0 ∧ lin2S.ev (0x6418 + (0 : Fin 12).val) 2 = 0 ∧
    (lin2S.gw.lin.get 0).idx + 1 < (lin2S.gw.lin.get 0).active.length / 8 ∧ (State.linHeader { lin2S with held := false } 0 1).held = false ∧
    (linS.gw.lin.get 0).active.length / 8 ≤ (linS.gw.lin.get 0).idx + 1 := by decide +kernel
theorem wit_BusChannels_response : linSum ([linPid 3] ++ [1, 2]) = linSum ([linPid 3] ++ [1, 2]) ∧ 1 ≤ [(1 : Byte), 2].length ∧
    ((linS.modLin 0 fun x => { x with header := some 3 }).gw.lin.get 0).header = some 3 := by decide
theorem wit_BusChannels_windows : ((linS.modWin 0 fun x => { x with openAt := some 5 }).gw.win.get 0).openAt = some 5 ∧
    ((linS.modWin 0 fun x => { x with built := [(5, [[1, 2, 3, 4]])] }).gw.win.get 0).built = [(5, [[1, 2, 3, 4]])] ∧ linS.ctx? 0 = none := by decide +kernel
theorem wit_BusChannels_encapsulates : let s := flS.setE 0x6510 7 47488
    (s.ctx? (s.ev 0x6510 7 % 2 ^ 20)).map (·.owner) = some (s.ev 0x6510 0xD) := by decide +kernel
/-- Channel 0 is wired to the DAP agent. -/
def canDap : State := ((canS.setE 0xA000 3 1).setE 0xA000 4 3).setE 0x6400 2 1
theorem wit_BusChannels_dap : (canDap.dapFrame 0 { canF with fmt := .fd, ext := true, brs := true, id := 3 * 2 ^ 22, data := [7] }).map (·.2) = some [7] ∧
    canDap.admits 0 .fd = true ∧ 127 < ((canIn fun c => { c with rec_ := 200 }).gw.can.get 0).rec_ ∧ canDap.hazelServing = false ∧
    (canS.gw.can.get 0).rec_ ≤ 127 := by decide
theorem wit_BusChannels_checks : let x : TxBus := ⟨canF, none, some 0, 0, false, false, false⟩
    (∃ l, x.launch = some l ∧ l + canS.ev 0x6100 3 < ({ canS with time := 1000000000000 } : State).time) ∧
    (canS.env.can.get 0).toNat % 128 * 1000000 < 100000001 := ⟨⟨0, rfl, by decide +kernel⟩, by decide +kernel⟩
theorem wit_BusChannels_ready : ((canS.gw.can.get 0).q.all fun x => match x.launch with | none => true | some l => decide (l ≤ canS.time)) = true := by decide

/-! ## The dictionary -/

theorem wit_DictionaryAccess_checks : catRow (ek 0x2004 2) ≠ none ∧ catRow 0xFFFFFF = none ∧ State.reset.readStatus smcQ (ek 0x4100 1) = 0 ∧
    State.reset.readStatus smcQ (ek 0x2004 2) ≠ 0 ∧ State.reset.asked smcQ (ek 0x4100 1) 500 = some 0 ∧ State.reset.asked smcQ (ek 0x4100 1) 501 = some 9 ∧
    State.reset.asked smcQ (ek 0x4100 2) 1 = some 3 ∧ State.reset.asked (.loc .window (.core 0)) (ek 0x8000 3) 1 ≠ some 0 := by decide
theorem wit_DictionaryAccess_cal : State.reset.asked smcQ (ek 0x8000 3) 0x8001 = some 0 ∧
    ({ State.reset with seed := { State.reset.seed with armed := some (ek 0x8001 1, 0) } } : State).asked smcQ (ek 0x8001 1) 1 = some 0 := by decide
theorem wit_DictionaryAccess_window : winPage .smc = some 36 ∧ winPage (.dm 0) = none ∧ State.reset.masterSecure .smc = true := by decide
theorem wit_DictionaryAccess_mailbox : mailOwner 0 = some (.core 0) ∧ (State.reset.mail.get 0).busy = false ∧
    ((State.reset.modMail 0 fun y => { y with busy := true }).mail.get 0).busy = true ∧ State.reset.masterSecure (.core 1) = false ∧
    (State.reset.modMail 36 fun y => { y with entry := 0x410001 }).readStatus (.loc (.mailbox 36) .smc) 0x410001 = 0 := by decide
theorem wit_DictionaryAccess_journal : (jrS (ek 0x4100 1) (.num 30)).seed.journal.length = 1 ∧ (jrS (ek 0x8002 1) (.num 3)).seed.journal.length = 1 ∧
    (jrS (ek 0xA001 1) (.oct [1])).seed.journal.length = 1 ∧ (jrS (ek 0x9000 6) (.num 0xFFFFFFFF)).seed.journal.length = 1 := by decide
theorem wit_DictionaryAccess_commands : State.reset.asked smcQ (ek 0x9000 6) 0xFFFFFFFF = some 0 ∧ State.reset.asked smcQ (ek 0x9100 2) 0 = some 0 ∧
    (((State.reset.setE 0x3000 0x20 1).setE 0x3000 0x21 1).asked smcQ (ek 0x3000 0x24) 0 = some 0) ∧ State.reset.asked smcQ (ek 0x3000 0x24) 0 ≠ some 0 ∧
    State.reset.asked smcQ (ek 0x8006 1) 2 = some 0 ∧ State.reset.asked smcQ (ek 0x8006 1) (3 + 16 * 3) = some 0 ∧ State.reset.asked smcQ (ek 0x8006 1) 4 = some 0 ∧
    State.reset.asked smcQ (ek 0x8006 1) 5 = some 0 ∧ (State.reset.setE 0x8006 2 1).ev 0x8006 2 = 1 := by decide
theorem wit_EnvViolStat : let s : State := { State.reset with env := { State.reset.env with stat := 3 } }
    s.env.stat &&& ~~~((1 : Word).setWidth 6) ≠ 0 ∧ s.env.stat &&& ~~~((3 : Word).setWidth 6) = 0 ∧ s.env.stat ≠ 0 := by decide

theorem wit_DictionaryAccess_waits : (jrS (ek 0x4100 1) (.num 30)).entBusy (ek 0x4100 1) = true ∧ State.reset.entBusy (ek 0x4100 1) = false ∧
    State.reset.winBusy .smc = false ∧ (State.reset.modMail 36 fun y => { y with writing := true }).winBusy .smc = true ∧
    State.reset.readStatus (.loc (.mailbox 0) (.core 0)) 0 = 1 ∧ ((jrS (ek 0x4100 1) (.num 30)).modMail 36 fun y => { y with entry := 0x410001 }).entBusy 0x410001 = true ∧
    (catRow (ek 0x4100 1)).map (·.pers) = some .stored ∧ (catRow (ek 0x2300 7)).map (·.pers) = some .vol ∧
    (catRow (ek 0x8001 1)).map (·.pers) = some .cal := by
  refine ⟨by decide, by decide, by decide, by decide +kernel, by decide, by decide +kernel, by decide +kernel, by decide +kernel, by decide +kernel⟩
theorem wit_DictionaryAccess_statuses : let w (k : Nat) (v : WVal) := (State.reset.writeStatus ⟨smcQ, none⟩ k v).1
    w (ek 0x4100 2) (.win 1) = 3 ∧ w (ek 0x4100 1) (.win 501) = 9 ∧ w (ek 0x4100 1) (.win 500) = 0 ∧ w 0xFFFFFF (.win 0) = 1 ∧
    (State.reset.writeStatus ⟨.loc .window (.core 0), none⟩ (ek 0x8000 3) (.win 1)).1 = 2 ∧
    (State.reset.writeStatus ⟨.loc (.mailbox 36) .smc, none⟩ (ek 0x4100 1) (.bytes [1])).1 = 5 := by decide
/-! ## DAP and the ensign -/

/-- The agent is node 5; nodes with key 0 have the role MAINTAINER. -/
def dapS : State := ((State.reset.setE 0xA000 1 5).setE 0xA002 1 4).setE 0xA000 3 1
/-- A request of a service with a body. -/
def pduT (svc : Nat) (b : List Byte) : Pdu := ⟨0, svc, 5, 9, 1, 0, false, 7, b, false, .udp⟩
theorem wit_DapAndEnsign_parse : parsePdu .udp ((pduT 6 []).head ++ List.replicate 8 0 ++ []) = some (pduT 6 []) ∧ parsePdu .udp [] = none ∧
    dapS.ev 0xA000 1 ≠ 0 ∧ dapS.carries .udp = true ∧ dapS.carries (.canFd 0) = true ∧ (off 57 dapS).carries .udp = false ∧
    kvGet 0 dapS.dap.rx (8 * 9) = 0 ∧ dapS.ev 0xA002 1 ≠ 0 := by decide
theorem wit_DapAndEnsign_services : rolePermits (dapS.ev 0xA002 1) 1 = true ∧ rolePermits (dapS.ev 0xA002 1) 8 = true ∧ rolePermits 1 2 = false ∧
    dapS.readStatus (.dap 9 0) 0x410001 = 0 ∧ dapS.domOn 57 = true ∧ dapS.dap.holder = .local_ ∧ dapS.dap.subs = [] ∧
    segCount .udp (List.replicate 12 0) = 1 := by decide
/-- Requests that wait: a read, a segment, an acknowledgement and an abort; a transaction of node 9 is open. -/
def rdyS : State := dapS.modDap fun d => { d with
  ready := [pduT 1 [0, 0x41, 1, 0], { pduT 2 [1] with seg := 1 }, pduT 9 [0, 0, 0, 0], pduT 10 []], txns := [⟨9, 1, 0, .udp, 2, 1, [1], false, 0⟩],
  subs := [⟨1, 9, 0, .udp, 0x410001, false, 1, 0, 99⟩], pings := [pduT 6 []] }
theorem wit_DapAndEnsign_ready : rdyS.dap.ready = [] ++ pduT 1 [0, 0x41, 1, 0] :: rdyS.dap.ready.drop 1 ∧ rdyS.dap.pings.length = 1 ∧
    rdyS.dap.subs[0]? = some ⟨1, 9, 0, .udp, 0x410001, false, 1, 0, 99⟩ ∧ (catRow 0x410001).isSome = true ∧
    rdyS.readNum (.dap 9 0) 0x410001 ≠ 99 ∧ (rdyS.dap.txns.filter fun y => y.src == 9 && y.txn == 1).length = 1 := by decide
/-- A ping of node 9 to the agent under key slot 0, whose MAC is that of the zero key. -/
def pingB : List Byte := [1, 6, 5, 0, 9, 0, 1, 0, 0, 0, 0, 0, 7, 0, 0, 0, 206, 191, 64, 126, 199, 106, 207, 249]
theorem wit_DapAndEnsign_good : (match parsePdu .udp pingB with
    | some p => decide (p.dst = dapS.ev 0xA000 1 ∧ dapS.ev 0xA002 (1 + p.key.val) ≠ 0 ∧ kvGet 0 dapS.dap.rx (8 * p.src + p.key.val) < p.fresh ∧
        dapS.dapMac p.key (pingB.take (16 + p.body.length)) = slice pingB (16 + p.body.length) 8)
    | none => false) = true := by decide +kernel
/-- Segments: the first of a body, the next of an open transaction, and a response with its ACK. -/
def segS : State := dapS.modDap fun d => { d with
  ready := [{ pduT 1 (List.replicate 40 0) with tr := .canFd 0, more := true, txn := 4 }, { pduT 2 [1] with seg := 1 }],
  txns := [⟨9, 1, 0, .udp, 2, 1, [1], false, 0⟩, ⟨9, 2, 0, .udp, 2, 1, [1], true, 0⟩] }
theorem wit_DapAndEnsign_segments : (segS.dap.txns.filter (·.src == 9)).length < 4 ∧ segCap (.canFd 0) = 40 ∧
    (segS.dap.ready.map fun p => (isAnswered p.service, p.seg, p.more)) = [(true, 0, true), (true, 1, false)] ∧
    segS.dap.txns[0]? = some ⟨9, 1, 0, .udp, 2, 1, [1], false, 0⟩ ∧ (segS.dap.txns.map (·.isResp)) = [false, true] := by decide
theorem wit_DapAndEnsign_lease : (dapS.modDap fun d => { d with holder := .remote, node := 9 }).dap.holder = .remote ∧
    (dapS.setE 0xA010 5 100).ev 0xA010 5 ≠ 0 ∧ dapS.dap.holder ≠ .remote ∧ (on 57 dapS).domOn 57 = true ∧ (off 57 dapS).domOn 57 = false ∧
    dapS.readStatus (.dap 9 0) 0xFFFFFF = 1 ∧ dapS.readStatus (.dap 9 0) 0x410001 ≠ 1 := by decide
theorem wit_EnsignClaim : State.reset.asked smcQ (ek 0xA010 4) 5 = some 0 ∧ State.reset.dap.holder ≠ .hazel ∧ State.reset.asked smcQ (ek 0xA010 4) 0xFFFFFFFF ≠ some 0 := by decide
theorem wit_EnsignWindowClose : let s := State.reset.modDap fun d => { d with window := [⟨some 9, 5, ⟨smcQ, none⟩⟩, ⟨none, 4, ⟨smcQ, none⟩⟩] }
    s.ev 0xA010 3 < 5 ∧ (∀ y ∈ s.dap.window, y.epoch ≤ 5) ∧ s.dap.holder ≠ .hazel ∧
    ((State.reset.modDap fun d => { d with holder := .remote }).setE 0xA010 5 1).ev 0xA010 5 ≠ 0 := by decide

/-! ## The Data Mover, the fault banks and GPIO -/

/-- Channel 0 is enabled with a ring of four descriptors, and descriptor 0 is posted: fill 64 bytes at 0x40000. -/
def dmS : State :=
  (((filled.setE 0x9200 1 0x30000).setE 0x9200 2 4).setE 0x9200 3 1).modDm 0 fun d => { d with running := true, tail := 1 }
theorem wit_MoverFaultsGpio_doorbell : dmS.masterSecure .smc = true ∧ dmS.masterSecure (.core 0) = false ∧ (dmS.dmPart 0).isSome = false ∧
    dmS.ev 0x9200 3 ≠ 0 ∧ (1 - (dmS.dm.get 0).head).toNat ≤ dmS.ev 0x9200 2 ∧ 0 ∈ ringIdx (dmS.dm.get 0).head (dmS.dm.get 0).tail ∧
    1 ∉ ringIdx (dmS.dm.get 0).head (dmS.dm.get 0).tail ∧ 0 ∉ (dmS.dm.get 0).done ∧ dmS.asked smcQ (ek 0x9200 3) 0 = some 0 ∧
    dmS.asked smcQ (ek 0x9200 3) 1 = some 0 := by decide
theorem wit_MoverFaultsGpio_start : (dmS.dm.get 0).running = true ∧ (dmS.dm.get 0).cur = none ∧ dmS.dmOpen 0 = [0] ∧
    (match (dmS.dmDesc 0 0).2 with | some d => decide (d.len = 0 ∧ dmS.dmCheck 0 d = none) | none => false) = true ∧
    ((dmS.modDm 0 fun d => { d with cur := some 0 }).dm.get 0).cur = some 0 := by decide +kernel
theorem wit_MoverFaultsGpio_banks : let r : FaultRec := ⟨1, 1, 0, 0, 0, 0, 0, 0⟩
    (State.reset.fb.get 0).recs.length < 16 ∧ (List.replicate 16 r).length = 16 ∧ State.reset.domOn 60 = true ∧ (off 60 State.reset).domOn 60 = false ∧
    State.reset.gpio.in_.getLsbD 31 = false := by decide
/-- The move of channel 0 has begun. -/
def moveS : State := dmS.modDm 0 fun d => { d with cur := some 0 }
theorem wit_MoverFaultsGpio_complete : (moveS.dm.get 0).cur = some 0 ∧ (match moveS.dmDesc 0 0 with
    | (u, some d) => (u.dmMove 0 d d.len).2.err.isNone && (u.dmMove 0 d d.len).2.poisonAt.isNone
    | _ => false) = true := by decide +kernel
theorem wit_MoverFaultsGpio_checks : let d : DmDesc := ⟨0x100000, 0x200000, 64, false, false, true, true⟩
    dmS.dmCheck 0 d = none ∧ dmS.dmCheck 0 { d with zeros := false } = some 7 ∧ dmS.dmCheck 0 { d with dst := 0x100020 } = some 7 ∧
    (off 48 dmS).dmRange 0 (2 ^ 41) = false ∧ dmS.dmRange 0x100000 64 = true := by decide +kernel

end Sys2Proof.Tests
end

section
/-! What one step can do, and that it leaves the tables in canonical form (O7). -/
namespace Sys2Proof.Machine

/-- What a step that answers a next state has done: an idle step has moved the time alone (log entry 1); any other has carried
out the front command on the state with the queue's rest. -/
theorem step_next_cases {s t : State} (h : step s = .next t) :
    (s.pending = [] ∧ t = { s with time := s.time + 1 }) ∨
    ∃ c q, s.pending = c :: q ∧ exec c { s with pending := q } = .next t := by
  unfold step at h
  split at h
  next hq => exact .inl ⟨hq, (Host.Outcome.next.inj h).symm⟩
  next c q hq => exact .inr ⟨c, q, hq, h⟩

/-- A command leaves the tables in canonical form. -/
theorem exec_keeps_canon {c : Instr} {s t : State} (hs : s.canon) (h : exec c s = .next t) : t.canon :=
  have hkeep : State.keep s.pending t := exec_keep ⟨rfl, hs⟩ h
  hkeep.2

/-- The canonical form does not speak of the queue. -/
theorem State.canon_pending {s : State} {q : List Instr} : State.canon { s with pending := q } ↔ s.canon := Iff.rfl

/-- The canonical form does not speak of the time. -/
theorem State.canon_time {s : State} {n : Nat} : State.canon { s with time := n } ↔ s.canon := Iff.rfl

/-- Settles O7: an idle step leaves the tables alone, and no command takes them out of canonical form. -/
theorem stepKeepsCanonicalTables : Obligations.StepKeepsCanonicalTables := by
  intro s t hs h
  obtain ⟨-, rfl⟩ | ⟨c, q, -, hexec⟩ := step_next_cases h
  · exact State.canon_time.mpr hs
  · exact exec_keeps_canon (State.canon_pending.mpr hs) hexec

end Sys2Proof.Machine
end

section
/-! The link between a step and the commands (O4). -/
namespace Sys2Proof.Machine

/-- Settles O4: the queue decides which branch of `step` is taken. -/
theorem stepRunsTheFrontCommand : Obligations.StepRunsTheFrontCommand := by
  refine ⟨fun _ _ _ => rfl, fun s hq => ?_⟩
  unfold step
  rw [hq]

end Sys2Proof.Machine
end

section
/-! What a write of an interrupt source does to the distributor's table (R162, R164). -/
namespace Sys2Proof.Machine

/-! ## One source -/

/-- A source reads as it was written; every other source is unchanged. -/
theorem State.src_putSrc {s : State} (hs : s.canon) (k j : Nat) (x : IrqSrc) :
    (s.putSrc k x).src j = if j = k then x else s.src j := by
  obtain ⟨-, -, -, -, hsrc, -⟩ := hs
  exact kvGet_kvSet hsrc

theorem State.putSrc_canon {s : State} (hs : s.canon) (k : Nat) (x : IrqSrc) : (s.putSrc k x).canon :=
  have h : State.keep s.pending (s.putSrc k x) := State.putSrc_keep ⟨rfl, hs⟩
  h.2

theorem State.virtNotify_canon {s : State} (hs : s.canon) (p : Fin 64) : (s.virtNotify p).canon :=
  have h : State.keep s.pending (s.virtNotify p) := State.virtNotify_keep ⟨rfl, hs⟩
  h.2

/-- Whether a source is edge-triggered depends on its key and its configuration alone. -/
theorem srcEdge_congr {k : Nat} {x y : IrqSrc} (h : y.cfg = x.cfg) : srcEdge k y = srcEdge k x := by
  simp only [srcEdge, h]

/-- What an assertion changes, by the kind of the source. -/
theorem IrqSrc.assert_cases (k : Nat) (x : IrqSrc) :
    (srcEdge k x = true ∧ x.assert k = { x with pend := true }) ∨
    (srcEdge k x = false ∧ (x.active = true ∨ x.line = true) ∧ x.assert k = x) ∨
    (srcEdge k x = false ∧ x.active = false ∧ x.assert k = { x with setp := true }) := by
  unfold IrqSrc.assert
  cases hedge : srcEdge k x
  · cases hactive : x.active <;> cases hline : x.line <;> simp
  · simp

/-- Two assertions of a source are one (R162). -/
theorem IrqSrc.assert_assert (k : Nat) (x : IrqSrc) : (x.assert k).assert k = x.assert k := by
  have hcfg : (x.assert k).cfg = x.cfg := by
    obtain ⟨-, h⟩ | ⟨-, -, h⟩ | ⟨-, -, h⟩ := x.assert_cases k <;> rw [h]
  have hedge := srcEdge_congr (k := k) hcfg
  obtain ⟨he, h⟩ | ⟨-, -, h⟩ | ⟨he, hactive, h⟩ := x.assert_cases k
  · rw [IrqSrc.assert, hedge, he, h]; rfl
  · rw [h, h]
  · rw [IrqSrc.assert, hedge, he, h]; simp [hactive]

/-- An assertion makes a source pending as R162 says. -/
theorem IrqSrc.asserted_assert (k : Nat) (x : IrqSrc) : x.asserted k (x.assert k) := by
  obtain ⟨he, h⟩ | ⟨he, hon, h⟩ | ⟨he, hactive, h⟩ := x.assert_cases k
  · have hy : srcEdge k { x with pend := true } = true := (srcEdge_congr rfl).trans he
    rw [h]
    simp [IrqSrc.asserted, he, hy, srcPend]
  · rw [h]
    refine ⟨rfl, fun hor => ?_, by simp [he], fun _ => rfl, fun _ _ => rfl⟩
    have hactive : x.active = false := by simpa [he] using hor
    have hline : x.line = true := by simpa [hactive] using hon
    simp [srcPend, he, hactive, hline]
  · have hy : srcEdge k { x with setp := true } = false := (srcEdge_congr rfl).trans he
    rw [h]
    refine ⟨rfl, fun _ => ?_, by simp [he], fun _ => rfl, by simp [hactive]⟩
    rw [srcPend, hy]
    simp [hactive]

/-! ## The notice of a virtual interrupt (R164) -/

/-- The source that tells the HOME core of partition p of a virtual interrupt. -/
def State.homeKey (s : State) (p : Fin 64) : Nat := privKey ((s.irq.virqCtl.get p).toNat % 32) 18

/-- `t` is `s` but for the note of which partitions have a virtual interrupt, and for HOME cores that are told of one. -/
def State.notifies (s t : State) : Prop :=
  t = { s with irq := { t.irq with virqCtl := s.irq.virqCtl } } ∧
  ∀ j, t.src j = s.src j ∨ ∃ p, j = s.homeKey p ∧ t.src j = (s.src j).assert j

theorem State.notifies.virqCtl {s t : State} (h : s.notifies t) : t.irq.virqCtl = s.irq.virqCtl := by
  rw [h.1]

theorem State.notifies.refl (s : State) : s.notifies s := ⟨rfl, fun _ => .inl rfl⟩

theorem State.notifies.trans {s t u : State} (hst : s.notifies t) (htu : t.notifies u) : s.notifies u := by
  have hctl := hst.virqCtl
  obtain ⟨hs, hsrc⟩ := hst
  obtain ⟨ht, htsrc⟩ := htu
  refine ⟨?_, fun j => ?_⟩
  · rw [ht, hs]
  · have hkey : ∀ p, t.homeKey p = s.homeKey p := fun p => by simp only [State.homeKey, hctl]
    obtain h | ⟨p, hj, h⟩ := hsrc j <;> obtain h' | ⟨p', hj', h'⟩ := htsrc j
    · exact .inl (h'.trans h)
    · exact .inr ⟨p', hj'.trans (hkey p'), by rw [h', h]⟩
    · exact .inr ⟨p, hj, h'.trans h⟩
    · exact .inr ⟨p, hj, by rw [h', h, IrqSrc.assert_assert]⟩

/-- The notice of a partition tells at most its HOME core. -/
theorem State.notifies_virtNotify {s : State} (hs : s.canon) (p : Fin 64) : s.notifies (s.virtNotify p) := by
  have hnote : ∀ l, s.notifies { s with irq := { s.irq with hadVirt := l } } := fun _ => ⟨rfl, fun _ => .inl rfl⟩
  unfold State.virtNotify
  extract_lets now _ s1 ctl k
  split
  · split
    · refine ⟨rfl, fun j => ?_⟩
      have hget : (s1.putSrc k ((s1.src k).assert k)).src j = if j = k then (s.src k).assert k else s.src j :=
        State.src_putSrc (s := s1) hs k j _
      rw [hget]
      split
      next hj => exact .inr ⟨p, hj, by rw [hj]⟩
      next => exact .inl rfl
    · exact hnote _
  · split
    · exact hnote _
    · exact .refl s

/-! ## Writes of a source -/

/-- A source that is told of virtual interrupts is one of a core alone, and has no KIND. -/
theorem srcKind_homeKey (s : State) (p : Fin 64) (x : IrqSrc) : srcKind (s.homeKey p) x = 0 := by
  have h : 4096 ≤ s.homeKey p := by unfold State.homeKey privKey; omega
  simp [srcKind, h]

/-- A write of a source is a write of the table, and then notices of the partitions that it concerns. -/
theorem State.setSrc_cases {s : State} (hs : s.canon) (k : Nat) (y : IrqSrc) :
    s.setSrc k y = s.putSrc k y ∨
    ((srcKind k (s.src k) = 1 ∨ srcKind k y = 1) ∧ (s.putSrc k y).notifies (s.setSrc k y)) := by
  have hput := State.putSrc_canon hs k y
  unfold State.setSrc
  dsimp only
  by_cases hnew : srcKind k y = 1
  · rw [if_pos hnew]
    have hfst := State.notifies_virtNotify hput (fin 63 y.target)
    split
    · exact .inr ⟨.inr hnew, hfst.trans (State.notifies_virtNotify (State.virtNotify_canon hput _) _)⟩
    · exact .inr ⟨.inr hnew, hfst⟩
  · rw [if_neg hnew]
    split
    next hold => exact .inr ⟨.inl hold.1, State.notifies_virtNotify hput _⟩
    next => exact .inl rfl

/-- A write of a source leaves it as written, and changes others only by the notice of a virtual interrupt. -/
theorem State.srcBecomes_setSrc {s : State} (hs : s.canon) (k : Nat) (y : IrqSrc) : s.srcBecomes (s.setSrc k y) k y := by
  obtain h | ⟨hkind, hframe, hsrc⟩ := State.setSrc_cases hs k y
  · rw [h]
    exact ⟨rfl, by simp [State.src_putSrc hs], fun j hj => .inl (by simp [State.src_putSrc hs, hj])⟩
  · refine ⟨hframe, ?_, fun j hj => ?_⟩
    · obtain h | ⟨p, hk, -⟩ := hsrc k
      · simpa [State.src_putSrc hs] using h
      · rw [hk] at hkind
        simp [srcKind_homeKey] at hkind
    · have hput : (s.putSrc k y).src j = s.src j := by simp [State.src_putSrc hs, hj]
      obtain h | ⟨p, hk, h⟩ := hsrc j
      · exact .inl (h.trans hput)
      · exact .inr ⟨hkind, p, hk, by rw [h, hput]⟩

/-- A pulse at a source that exists asserts it. -/
theorem State.srcBecomes_pulse {s : State} (hs : s.canon) {k : Nat} (hk : srcExists k = true) :
    ∃ y, s.srcBecomes (s.pulse k) k y ∧ (s.src k).asserted k y := by
  refine ⟨(s.src k).assert k, ?_, IrqSrc.asserted_assert k _⟩
  rw [State.pulse, if_pos hk]
  exact State.srcBecomes_setSrc hs k _

/-- A claim of an interrupt source. -/
theorem State.srcBecomes_claim {s : State} (hs : s.canon) (k : Nat) (w : Claimer) :
    s.srcBecomes (s.claim k w) k { s.src k with pend := false, setp := false, active := true, by_ := some w } :=
  State.srcBecomes_setSrc hs k _

/-- The end of an interrupt on the interface that claimed it. -/
theorem State.srcBecomes_irqEnd {s : State} (hs : s.canon) {w : Claimer} {id : Nat} :
    let k := claimKey w id
    (s.src k).active = true → (s.src k).by_ = some w → s.srcBecomes (s.irqEnd w id) k (s.src k).ended := by
  intro k hactive hby
  have hend : s.irqEnd w id = s.setSrc k (s.src k).ended := by
    unfold State.irqEnd
    simp only [k] at hactive hby
    simp [hactive, hby, k]
  rw [hend]
  exact State.srcBecomes_setSrc hs k _

/-- An end on another interface, or of a source that is not active, is ignored. -/
theorem State.irqEnd_ignored {s : State} {w : Claimer} {id : Nat}
    (h : (s.src (claimKey w id)).active = false ∨ (s.src (claimKey w id)).by_ ≠ some w) : s.irqEnd w id = s := by
  unfold State.irqEnd
  obtain h | h := h <;> simp [h]

end Sys2Proof.Machine
end

section
/-! The interrupt unit of an island, its doorbells and its pins (R282, R289, R294, R317, R426, Table 8.10). -/
namespace Sys2Proof.Machine

/-- Bits [hi:lo] of a number, by division. -/
theorem bits_eq_div_mod (v hi lo : Nat) : bits v hi lo = v / 2 ^ lo % 2 ^ (hi + 1 - lo) := by
  rw [bits, Nat.shiftRight_eq_div_pow]

/-! ## The leading core (R282) -/

/-- Of the leading core so far and another, the one with the larger INSTRET. -/
def Island.further (x : Island) (acc : Option (Fin 4)) (k : Fin 4) : Option (Fin 4) :=
  match acc with
  | none => some k
  | some b => if (x.slots.get b).instret.toNat < (x.slots.get k).instret.toNat then some k else acc

theorem Island.leading_eq_foldl (x : Island) : x.leading = x.active.foldl x.further none := rfl

/-- The core that leads a list, after the one that led so far, is one of them and has retired as much as each. -/
theorem Island.foldl_further {x : Island} {l : List (Fin 4)} {acc : Option (Fin 4)} {k : Fin 4}
    (h : l.foldl x.further acc = some k) :
    (acc = some k ∨ k ∈ l) ∧
    ∀ j, (acc = some j ∨ j ∈ l) → (x.slots.get j).instret.toNat ≤ (x.slots.get k).instret.toNat := by
  induction l generalizing acc with
  | nil =>
    have hacc : acc = some k := h
    simp [hacc]
  | cons a r ih =>
    obtain ⟨hk, hmax⟩ := ih h
    have hstep : x.further acc a = some a ∧ (∀ b, acc = some b → (x.slots.get b).instret.toNat ≤ (x.slots.get a).instret.toNat) ∨
        ∃ b, acc = some b ∧ x.further acc a = some b ∧ (x.slots.get a).instret.toNat ≤ (x.slots.get b).instret.toNat := by
      unfold Island.further
      cases acc with
      | none => simp
      | some b =>
        by_cases hlt : (x.slots.get b).instret.toNat < (x.slots.get a).instret.toNat
        · simp [hlt, Nat.le_of_lt hlt]
        · simp [hlt, Nat.le_of_not_lt hlt]
    obtain ⟨hnew, hle⟩ | ⟨b, hacc, hold, hle⟩ := hstep
    · have ha := hmax a (.inl hnew)
      refine ⟨.inr ?_, fun j hj => ?_⟩
      · obtain hk | hk := hk
        · rw [hnew] at hk
          simp [Option.some.inj hk]
        · exact List.mem_cons_of_mem a hk
      · obtain hj | hj := hj
        · exact Nat.le_trans (hle j hj) ha
        · obtain rfl | hj := List.mem_cons.mp hj
          · exact ha
          · exact hmax j (.inr hj)
    · have hb := hmax b (.inl hold)
      refine ⟨?_, fun j hj => ?_⟩
      · obtain hk | hk := hk
        · exact .inl (hacc.trans (hold.symm.trans hk))
        · exact .inr (List.mem_cons_of_mem a hk)
      · obtain hj | hj := hj
        · have hjb : j = b := Option.some.inj (hj.symm.trans hacc)
          exact hjb ▸ hb
        · obtain rfl | hj := List.mem_cons.mp hj
          · exact Nat.le_trans hle hb
          · exact hmax j (.inr hj)

/-- The leading core is active, and no active core has retired more. -/
theorem Island.leading_max {x : Island} {k : Fin 4} (h : x.leading = some k) :
    k ∈ x.active ∧ ∀ j ∈ x.active, (x.slots.get j).instret.toNat ≤ (x.slots.get k).instret.toNat := by
  rw [Island.leading_eq_foldl] at h
  obtain ⟨hk, hmax⟩ := Island.foldl_further h
  exact ⟨by simpa using hk, fun j hj => hmax j (.inr hj)⟩

/-! ## Offers, ends and doorbells -/

/-- What keeps the unit from fixing a boundary for an offered source (R282, R314). -/
def Island.blocks (x : Island) (k : Fin 4) (y : IrqSrc) : Prop :=
  let c := x.slots.get k
  x.sourceStopped = true ∨ y.prio ≤ c.tstat.toNat / 16 % 16 ∨ c.tstat.getLsbD 8 = true ∨ c.run = .stopped ∨
    ∃ b ∈ x.bounds, b.reached.contains k = false

/-- Without a leading core or an offered source the unit does nothing. -/
theorem execIslandInterruptOffer_none {s : State} {i : Fin 4}
    (h : (s.island.get i).leading = none ∨ s.islandOffer i = none) : execIslandInterruptOffer i s = .next s := by
  unfold execIslandInterruptOffer
  dsimp only
  split
  next hk hkey => simp [hk, hkey] at h
  next => rfl

/-- The unit claims the source that it is offered and fixes the boundary, unless something blocks it. -/
theorem execIslandInterruptOffer_some {s : State} {i k : Fin 4} {key : Nat} (hk : (s.island.get i).leading = some k)
    (hkey : s.islandOffer i = some key) :
    let x := s.island.get i
    let c := x.slots.get k
    (x.blocks k (s.src key) → execIslandInterruptOffer i s = .next s) ∧
    (¬ x.blocks k (s.src key) → execIslandInterruptOffer i s = .next ((s.claim key (.island i)).modIsl i fun z => { z with
      claimed := z.claimed ++ [srcId key]
      bounds := z.bounds ++
        [⟨if c.delay.isSome then c.instret + 1 else c.instret, srcId key, (s.src key).vec, (s.src key).prio, []⟩] })) := by
  intro x c
  have hblocks : (x.sourceStopped || (s.src key).prio ≤ bits c.tstat.toNat 7 4 || c.tstat.getLsbD 8 || c.run == .stopped ||
      x.bounds.any (fun b => !b.reached.contains k)) = true ↔ x.blocks k (s.src key) := by
    simp [Island.blocks, bits_eq_div_mod, or_assoc, c]
  unfold execIslandInterruptOffer
  simp only [hk, hkey]
  refine ⟨fun h => ?_, fun h => ?_⟩
  · rw [if_pos (hblocks.mpr h)]
  · rw [if_neg (mt hblocks.mp h)]

/-- Each doorbell but DOORBELL_0 has a source (Table 4.9). -/
theorem srcExists_doorbell (i : Fin 4) (d : Fin 16) : srcExists (512 + 16 * i.val + d.val) = true := by
  have hlt : 512 + 16 * i.val + d.val < 576 := by omega
  have hge : 512 ≤ 512 + 16 * i.val + d.val := by omega
  generalize 512 + 16 * i.val + d.val = k at hlt hge
  have hfree : reservedWired k = false := by
    simp only [reservedWired, decide_eq_false_iff_not]
    omega
  simp [srcExists, hfree, show k < 1024 by omega]

/-! ## Output pins (R317, R426) -/

theorem State.pin_modPin_same (s : State) (i : Fin 4) (n : Fin 16) (f : OutPin → OutPin) :
    (s.modPin i n f).pin i n = f (s.pin i n) := by
  simp [State.modPin, State.pin]

theorem State.pin_modPin_ne (s : State) (i : Fin 4) {n m : Fin 16} (f : OutPin → OutPin) (h : m ≠ n) :
    (s.modPin i n f).pin i m = s.pin i m := by
  simp [State.modPin, State.pin, vmod_get_ne _ _ h]

theorem State.island_modPin_ne (s : State) {i j : Fin 4} (n : Fin 16) (f : OutPin → OutPin) (h : j ≠ i) :
    (s.modPin i n f).island.get j = s.island.get j := vmod_get_ne _ _ h

/-- A notice of a virtual interrupt changes the distributor alone. -/
theorem State.virtNotify_frame (s : State) (p : Fin 64) : s.virtNotify p = { s with irq := (s.virtNotify p).irq } := by
  unfold State.virtNotify
  dsimp only
  split
  · split <;> rfl
  · split <;> rfl

/-- A write of a source changes the distributor alone. -/
theorem State.setSrc_frame (s : State) (k : Nat) (y : IrqSrc) : s.setSrc k y = { s with irq := (s.setSrc k y).irq } := by
  have hnotify : ∀ (v : State) p, v = { s with irq := v.irq } → v.virtNotify p = { s with irq := (v.virtNotify p).irq } :=
    fun v p hv => by rw [State.virtNotify_frame v p, hv]
  have hfst : ∀ (b : Prop) [Decidable b] p, (if b then (s.putSrc k y).virtNotify p else s.putSrc k y) =
      { s with irq := (if b then (s.putSrc k y).virtNotify p else s.putSrc k y).irq } := fun b _ p => by
    split
    · exact hnotify _ p rfl
    · rfl
  unfold State.setSrc
  dsimp only
  split
  · exact hnotify _ _ (hfst _ _)
  · exact hfst _ _

/-- A change of a source's input changes the distributor alone. -/
theorem State.setLine_frame (s : State) (k : Nat) (l : Bool) : s.setLine k l = { s with irq := (s.setLine k l).irq } := by
  unfold State.setLine
  dsimp only
  split
  · exact State.setSrc_frame s _ _
  · rfl

/-- `t` is `s` but for what the envelope keeps of its checks: its report, its counters and source 52. -/
def State.reports (s t : State) : Prop := t = { s with env := t.env, ent := t.ent, irq := t.irq }

theorem State.reports_clip (s : State) (i : Fin 4) (n : Fin 16) (k : Nat) : s.reports (s.clip i n k) := by
  unfold State.reports State.clip State.violation State.envLine
  rw [State.setLine_frame]
  rfl

theorem State.reports_countWrap {s t : State} (h : s.reports t) (idx sub : Nat) : s.reports (t.countWrap idx sub) := by
  unfold State.reports State.countWrap State.setE at *
  rw [h]

/-- A period that starts without a period register drives the safe value. -/
theorem State.pwmPeriod_zero {s : State} {i : Fin 4} {n : Fin 16} (h : (s.pin i n).per = 0) :
    s.pwmPeriod i n = s.pinSafe i n := by
  simp [State.pwmPeriod, h]

/-- The waveform of a new period: a period held within the record's bounds, and a duty at most a step from the last (R426). -/
def OutPin.waveOk (o : OutPin) (lo hi step p v : Nat) : Prop :=
  p ≤ hi ∧ (lo ≤ hi → lo ≤ p) ∧ (lo ≤ o.per.toNat → o.per.toNat ≤ hi → p = o.per.toNat) ∧ v ≤ o.prev + step ∧ o.prev ≤ v + step

/-- A period that starts drives a waveform within the record's bounds. -/
theorem State.pwmPeriod_pos {s : State} {i : Fin 4} {n : Fin 16} (h : (s.pin i n).per ≠ 0) :
    let r := s.outRec i n
    ∃ (u : State) (p v : Nat), s.reports u ∧
      s.pwmPeriod i n = u.modPin i n (fun q => { q with drive := .pwm p (v * p / 1024), prev := v, running := true }) ∧
      (s.pin i n).waveOk (r.2 % 2 ^ 24) (r.2 / 2 ^ 24 % 2 ^ 24) (r.1 / 2 ^ 30 % 2 ^ 11) p v := by
  intro r
  have hper : (s.pin i n).per.toNat ≠ 0 := fun h0 => h (BitVec.eq_of_toNat_eq h0)
  have hrec : s.outRec i n = (r.1, r.2) := rfl
  unfold State.pwmPeriod
  rw [hrec]
  dsimp only
  rw [if_neg hper]
  generalize min 1024 ((s.pin i n).duty.toNat * 1024 / (s.pin i n).per.toNat) = d
  generalize hp : min (max (s.pin i n).per.toNat (bits r.2 23 0)) (bits r.2 47 24) = p
  generalize min (max d (bits r.1 18 8)) (bits r.1 29 19) = c
  generalize hv : min (max c ((s.pin i n).prev - bits r.1 40 30)) ((s.pin i n).prev + bits r.1 40 30) = v
  refine ⟨_, p, v, ?_, rfl, ?_⟩
  · have hclip : s.reports (if c ≠ d ∨ p ≠ (s.pin i n).per.toNat then s.clip i n 5 else s) := by
      split
      · exact State.reports_clip s i n 5
      · rfl
    split
    · exact State.reports_countWrap hclip _ _
    · exact hclip
  · simp only [bits_eq_div_mod] at hp hv
    unfold OutPin.waveOk
    omega

/-- What the start of a period changes (R426). -/
theorem State.pwmPeriod_frame (s : State) (i : Fin 4) (n : Fin 16) :
    let t := s.pwmPeriod i n
    t = { s with island := t.island, env := t.env, ent := t.ent, irq := t.irq } ∧
    (∀ j, j ≠ i → t.island.get j = s.island.get j) ∧ ∀ m, m ≠ n → t.pin i m = s.pin i m := by
  have hmod : ∀ (u : State) f, s.reports u → u.modPin i n f =
      { s with island := (u.modPin i n f).island, env := (u.modPin i n f).env, ent := (u.modPin i n f).ent,
               irq := (u.modPin i n f).irq } ∧
      (∀ j, j ≠ i → (u.modPin i n f).island.get j = s.island.get j) ∧
      ∀ m, m ≠ n → (u.modPin i n f).pin i m = s.pin i m := fun u f hu => by
    rw [hu]
    exact ⟨rfl, fun j hj => State.island_modPin_ne _ n f hj, fun m hm => State.pin_modPin_ne _ i f hm⟩
  by_cases h : (s.pin i n).per = 0
  · rw [State.pwmPeriod_zero h]
    exact hmod s _ rfl
  · obtain ⟨u, p, v, hu, hpwm, -⟩ := State.pwmPeriod_pos h
    rw [hpwm]
    exact hmod u _ hu

/-- The effect of a doorbell (R28, R294). -/
theorem completes_doorbell {s : State} (hs : s.canon) (m : Master) (i : Fin 4) (d : Fin 16) (v : Word) :
    let k := 512 + 16 * i.val + d.val
    (d = 0 → completes (.doorbell m i d v) s fun t => t = { s with reply := .error .decerr }) ∧
    (d ≠ 0 → s.domOn ⟨40 + i.val, by omega⟩ = false →
      completes (.doorbell m i d v) s fun t => t = { s with reply := .error .offerr }) ∧
    (d ≠ 0 → s.domOn ⟨40 + i.val, by omega⟩ = true →
      (v.getLsbD 0 = true → completes (.doorbell m i d v) s fun t => ∃ y, s.srcBecomes t k y ∧ (s.src k).asserted k y) ∧
      (v.getLsbD 0 = false → exec (.doorbell m i d v) s = .next s)) := by
  intro k
  have hexec : exec (.doorbell m i d v) s = execDoorbell m i d v s := rfl
  simp only [completes, hexec]
  refine ⟨fun hd => ⟨_, rfl, by rw [if_pos hd]⟩, fun hd hoff => ⟨_, rfl, by simp [hd, hoff]⟩, fun hd hon => ⟨fun hv => ?_, fun hv => ?_⟩⟩
  · have hd' : d.val ≠ 0 := fun h => hd (Fin.ext h)
    refine ⟨_, rfl, ?_⟩
    rw [if_neg hd, if_pos hon, State.ring, if_pos ⟨hv, hd'⟩]
    exact State.srcBecomes_pulse hs (srcExists_doorbell i d)
  · have hquiet : ¬ (v.getLsbD 0 = true ∧ d.val ≠ 0) := by rw [hv]; simp
    rw [execDoorbell, if_neg hd, if_pos hon, State.ring, if_neg hquiet]

/-- The effect of an end of an island interrupt (R289). -/
theorem completes_islEoi {s : State} (hs : s.canon) (i : Fin 4) (id : BitVec 12) :
    let x := s.island.get i
    let y := s.src id.toNat
    (id.toNat ∉ x.claimed → exec (.islEoi i id) s = .next s) ∧
    (id.toNat ∈ x.claimed → y.active = true → y.by_ = some (.island i) → completes (.islEoi i id) s fun t => ∃ v : State,
      s.srcBecomes v id.toNat y.ended ∧ t = v.modIsl i fun z => { z with claimed := z.claimed.filter (· ≠ id.toNat) }) ∧
    (id.toNat ∈ x.claimed → (y.active = false ∨ y.by_ ≠ some (.island i)) → completes (.islEoi i id) s fun t =>
      t = s.modIsl i fun z => { z with claimed := z.claimed.filter (· ≠ id.toNat) }) := by
  intro x y
  have hexec : exec (.islEoi i id) s = .next (s.islEnd i id.toNat) := rfl
  have hclaimed : id.toNat ∈ x.claimed → s.islEnd i id.toNat =
      (s.irqEnd (.island i) id.toNat).modIsl i fun z => { z with claimed := z.claimed.filter (· ≠ id.toNat) } := fun h => by
    rw [State.islEnd, if_pos (List.contains_iff_mem.mpr h)]
  simp only [completes, hexec]
  refine ⟨fun h => ?_, fun h hactive hby => ⟨_, rfl, _, ?_, hclaimed h⟩, fun h hidle => ⟨_, rfl, ?_⟩⟩
  · rw [State.islEnd, if_neg (mt List.contains_iff_mem.mp h)]
  · exact State.srcBecomes_irqEnd (w := .island i) hs hactive hby
  · rw [hclaimed h, State.irqEnd_ignored hidle]

/-- Settles O44, command by command: the unit's offers and ends and the doorbells by the rules for a source that is written, the
SPI and capture commands by their definitions, and a period start by what it may change and its bounds. -/
theorem islandPinsAndInterrupts : Obligations.IslandPinsAndInterrupts := by
  refine ⟨fun s i hs => ⟨fun k hk => Island.leading_max hk, execIslandInterruptOffer_none, fun k key hk hkey => ?_,
    fun id => completes_islEoi hs i id, fun m d v => completes_doorbell hs m i d v⟩, fun s i k v => ?_, fun s i n l => ?_,
    fun s i n => ?_⟩
  · obtain ⟨hblocked, hfree⟩ := execIslandInterruptOffer_some hk hkey
    exact ⟨hblocked, fun h => ⟨_, hfree h, _, State.srcBecomes_claim hs key _, rfl⟩⟩
  · have hdata : exec (.spiData i k v) s = execSpiData i k v s := rfl
    have hdone : exec (.spiTransferDone i k v) s = execSpiTransferDone i k v s := rfl
    simp only [completes, hdata, hdone]
    refine ⟨fun hbusy => ⟨⟨_, rfl, if_pos hbusy⟩, _, rfl, if_pos hbusy⟩, fun hidle => ?_⟩
    have hidle' : ¬ ((s.island.get i).spi.get k).busy = true := by simp [hidle]
    exact ⟨congrArg _ (if_neg hidle'), _, rfl, if_neg hidle'⟩
  · have hexec : exec (.captureInputEdge i n l) s = execCaptureInputEdge i n l s := rfl
    simp only [completes, hexec]
    refine ⟨fun h => ?_, fun hlevel hon => ⟨_, rfl, ?_⟩⟩
    · obtain h | h := h <;> simp [execCaptureInputEdge, h]
    · have hedge : (s.domOn ⟨40 + i.val, by omega⟩ && ((s.island.get i).caps.get n).level != l) = true := by
        simp [hon, hlevel]
      exact if_pos hedge
  · have hexec : exec (.pwmPeriodStart i n) s = execPwmPeriodStart i n s := rfl
    simp only [completes, hexec]
    refine ⟨fun h => ?_, fun hrun hrel hfree => ⟨s.pwmPeriod i n, by simp [execPwmPeriodStart, hrun, hrel, hfree], ?_⟩⟩
    · obtain h | h | h := h <;> simp [execPwmPeriodStart, h]
    · obtain ⟨hframe, hisland, hpin⟩ := State.pwmPeriod_frame s i n
      refine ⟨hframe, hisland, hpin, fun hper => ?_, fun hper => ?_⟩
      · rw [State.pwmPeriod_zero hper, State.pinSafe, State.pin_modPin_same]
        exact ⟨rfl, rfl, rfl⟩
      · obtain ⟨u, p, v, hu, hpwm, hbounds⟩ := State.pwmPeriod_pos hper
        refine ⟨p, v, ?_, hbounds⟩
        have hpins : u.pin i n = s.pin i n := by rw [hu]; rfl
        rw [hpwm, State.pin_modPin_same, hpins, ← hrun]

end Sys2Proof.Machine
end

section
/-! What does not depend on the mark of a command that waits, and what a command does whose requests are all served. -/
namespace Sys2Proof.Machine

/-! ## The mark of a command that waits (log entry 22) -/

/-- A state with the mark of waiting set or cleared. -/
def State.withHeld (s : State) (b : Bool) : State := { s with held := b }

theorem State.withHeld_ite (c : Prop) [Decidable c] (s t : State) (b : Bool) :
    (if c then s else t).withHeld b = if c then s.withHeld b else t.withHeld b := apply_ite (State.withHeld · b) c s t

theorem State.virtNotify_withHeld (s : State) (b : Bool) (p : Fin 64) :
    (s.withHeld b).virtNotify p = (s.virtNotify p).withHeld b := by
  unfold State.virtNotify
  dsimp only
  simp only [State.withHeld_ite]
  rfl

theorem State.setSrc_withHeld (s : State) (b : Bool) (k : Nat) (y : IrqSrc) :
    (s.withHeld b).setSrc k y = (s.setSrc k y).withHeld b := by
  have hput : (s.withHeld b).putSrc k y = (s.putSrc k y).withHeld b := rfl
  unfold State.setSrc
  dsimp only
  simp only [State.withHeld_ite, hput, ← State.virtNotify_withHeld]
  rfl

theorem State.setLine_withHeld (s : State) (b : Bool) (k : Nat) (l : Bool) :
    (s.withHeld b).setLine k l = (s.setLine k l).withHeld b := by
  unfold State.setLine
  dsimp only
  simp only [State.withHeld_ite, ← State.setSrc_withHeld]
  rfl

theorem State.addE_withHeld (s : State) (b : Bool) (i j w k : Nat) :
    (s.withHeld b).addE i j w k = (s.addE i j w k).withHeld b := by
  unfold State.addE
  dsimp only
  simp only [State.withHeld_ite]
  rfl

theorem State.record_withHeld (s : State) (b : Bool) (bank : Fin 49) (code unit unit2 addr info : Nat) :
    (s.withHeld b).record bank code unit unit2 addr info = (s.record bank code unit unit2 addr info).withHeld b := by
  have hline : ∀ t : State, (t.withHeld b).bankLine bank.val = (t.bankLine bank.val).withHeld b :=
    fun t => State.setLine_withHeld t b _ _
  unfold State.record
  dsimp only
  rw [← hline]
  simp only [State.withHeld_ite, ← State.addE_withHeld]
  rfl

theorem State.postedError_withHeld (s : State) (b : Bool) (m : Master) (a : Nat) (r : Resp) :
    (s.withHeld b).postedError m a r = (s.postedError m a r).withHeld b := State.record_withHeld s b ..

/-- A record of a fault does not touch the mark. -/
theorem State.record_held (s : State) (bank : Fin 49) (code unit unit2 addr info : Nat) :
    (s.record bank code unit unit2 addr info).held = s.held := by
  have h := congrArg State.held (State.record_withHeld s s.held bank code unit unit2 addr info)
  exact h

/-- A command's effect is that of its body, unless a request of it waits. -/
theorem State.served_eq_orWaits (s : State) (f : State → State) : s.served f = s.orWaits (f { s with held := false }) := rfl

/-- The effect of a command in which nothing waits, from its effect where the mark is clear. -/
theorem State.served_eq {s t : State} {f : State → State} (hf : f { s with held := false } = t.withHeld false)
    (ht : t.held = s.held) : s.served f = t := by
  rw [State.served_done (by rw [hf]; rfl), hf, ← ht]
  rfl

end Sys2Proof.Machine
end

section
/-! Writes over the mesh: bytes of memories that no cache holds, the checks of the register space, and inbound PCIe requests (R25 to
R36, R166, R542). -/
namespace Sys2Proof.Machine

/-! ## Bytes -/

theorem toBytes_length (n v : Nat) : (toBytes n v).length = n := by
  induction n generalizing v with
  | zero => rfl
  | succ n ih => rw [toBytes, List.length_cons, ih]

theorem toBytes_getD {n j : Nat} (v : Nat) (hj : j < n) : (toBytes n v).getD j 0 = BitVec.ofNat 8 (v / 2 ^ (8 * j)) := by
  induction n generalizing v j with
  | zero => omega
  | succ n ih =>
    cases j with
    | zero => simp [toBytes]
    | succ j =>
      rw [toBytes, List.getD_cons_succ, ih (v / 256) (by omega), Nat.div_div_eq_div_mul]
      congr 2
      rw [Nat.mul_add, Nat.pow_add, Nat.mul_comm]

/-! ## Memories that no cache holds (R25, R26) -/

/-- A memory that the mesh writes directly: a TCM, the shared SRAM of an island or the secure SRAM. -/
def Region.direct : Region → Bool
  | .tcm _ _ _ _ | .shared _ _ | .secSram => true
  | _ => false

theorem Region.direct_iff (r : Region) :
    r.direct = true ↔ (∃ i k b o, r = .tcm i k b o) ∨ (∃ i o, r = .shared i o) ∨ r = .secSram := by
  cases r <;> simp [Region.direct]

theorem Region.isTcm_iff (r : Region) : r.isTcm = true ↔ ∃ i k b o, r = .tcm i k b o := by
  cases r <;> simp [Region.isTcm]

/-- A write to such a memory: its packets, the words' errors and the granules' tags, and its bytes. -/
theorem State.memWrite_direct {s : State} {m : Master} {a : Nat} {d : List Byte} (h : (s.region a).direct = true) :
    s.memWrite m a d false =
      { ((s.meshWrite m a d.length).eccWrite a d.length).clearTags a d.length with mem := Memory.write s.mem a d } := by
  obtain ⟨i, k, b, o, hr⟩ | ⟨i, o, hr⟩ | hr := (Region.direct_iff _).mp h <;> simp only [State.memWrite, hr]

theorem State.meshWrite_frame (s : State) (m : Master) (a n : Nat) :
    s.meshWrite m a n = { s with sent := (s.meshWrite m a n).sent } := by
  unfold State.meshWrite
  split <;> rfl

/-- A write to such a memory changes its bytes and no other, and clears the tags of the granules that it touches. -/
theorem State.memWrite_direct_effect {s : State} (hs : s.canon) {m : Master} {a : Nat} {d : List Byte}
    (h : (s.region a).direct = true) :
    let t := s.memWrite m a d false
    t = { s with mem := t.mem, tags := t.tags, ecc := t.ecc, sent := t.sent } ∧
    (∀ x, x < a ∨ a + d.length ≤ x → Memory.get t.mem x = Memory.get s.mem x) ∧
    (∀ j, j < d.length → Memory.get t.mem (a + j) = d.getD j 0) ∧
    ∀ g, g ∈ t.tags ↔ g ∈ s.tags ∧ (g + 16 ≤ a ∨ a + d.length ≤ g) := by
  obtain ⟨hmem, -⟩ := hs
  rw [State.memWrite_direct h, State.meshWrite_frame]
  refine ⟨rfl, fun x hx => Memory.get_write_out hmem hx, fun j hj => ?_, fun g => ?_⟩
  · rw [List.getD_eq_getElem d 0 hj]
    exact Memory.get_write_in hmem hj
  · simp only [State.clearTags, State.eccWrite, List.mem_filter]
    grind

/-! ## The checks of a register access (R27 to R35) -/

/-- The checks of a register access in their order. -/
theorem State.regErr_eq (s : State) (x : RegAcc) (wr : Bool) :
    let b := (blockOf x.off).1
    s.regErr x wr =
      if !s.debugMay x.m || (b.isSecure && !s.masterSecure x.m && !normalMay b (blockOf x.off).2 wr) then some .wlderr
      else if !b.target then some .decerr
      else if !s.pageOk x.m b || !s.pageMay x.m b then some .wlderr
      else if !(x.t.map b.permits).getD true then some .typerr
      else if (b.domain.map fun d => !s.domOn d).getD false then some .offerr
      else if !b.sizeOk x.addr x.size then some .sizerr
      else none := rfl

/-- A master of the Secure world reaches every page. -/
theorem State.pageOk_of_secure {s : State} {m : Master} (h : s.masterSecure m = true) (b : Block) : s.pageOk m b = true := by
  unfold State.pageOk
  rw [if_pos h]

/-- A width other than 4 and 8 bytes, or a misaligned access, has a wrong size. -/
theorem Block.sizeOk_false {b : Block} {a n : Nat} (h : (n ≠ 4 ∧ n ≠ 8) ∨ a % n ≠ 0) : b.sizeOk a n = false := by
  obtain ⟨h4, h8⟩ | h := h
  · simp [Block.sizeOk, h4, h8]
  · simp [Block.sizeOk, h]

/-- The checks that follow the world's, for a Secure master that may reach the page. -/
theorem State.regErr_secure {s : State} {x : RegAcc} (wr : Bool) (hdebug : s.debugMay x.m = true)
    (hsec : s.masterSecure x.m = true) :
    let b := (blockOf x.off).1
    (b.target = false → s.regErr x wr = some .decerr) ∧
    (b.target = true → s.pageMay x.m b = true →
      ((∃ ty, x.t = some ty ∧ b.permits ty = false) → s.regErr x wr = some .typerr) ∧
      ((∀ ty, x.t = some ty → b.permits ty = true) →
        (∀ d, b.domain = some d → s.domOn d = false → s.regErr x wr = some .offerr) ∧
        ((∀ d, b.domain = some d → s.domOn d = true) →
          ((x.size ≠ 4 ∧ x.size ≠ 8) ∨ x.addr % x.size ≠ 0) → s.regErr x wr = some .sizerr))) := by
  intro b
  have heq : s.regErr x wr =
      if !b.target then some .decerr
      else if !s.pageMay x.m b then some .wlderr
      else if !(x.t.map b.permits).getD true then some .typerr
      else if (b.domain.map fun d => !s.domOn d).getD false then some .offerr
      else if !b.sizeOk x.addr x.size then some .sizerr
      else none := by
    rw [State.regErr_eq]
    simp [hdebug, hsec, State.pageOk_of_secure hsec, b]
  refine ⟨fun ht => by simp [heq, ht], fun ht hmay => ⟨fun ⟨ty, hty, hp⟩ => by simp [heq, ht, hmay, hty, hp], fun htypes => ?_⟩⟩
  have htype : (x.t.map b.permits).getD true = true := by
    cases hx : x.t with
    | none => rfl
    | some ty => exact htypes ty hx
  refine ⟨fun d hd hoff => by simp [heq, ht, hmay, htype, hd, hoff], fun hon hsize => ?_⟩
  have hdom : (b.domain.map fun d => !s.domOn d).getD false = false := by
    cases hb : b.domain with
    | none => rfl
    | some d => simp [hon d hb]
  simp [heq, ht, hmay, htype, hdom, Block.sizeOk_false hsize]

/-! ## Writes to registers and TCMs -/

/-- Who is told of an error response (R32): the blocks capable of DMA, and a master whose DEV-S store carries its type (R543). -/
theorem toldOf_iff (m : Master) (ty : MemType) : toldOf m ty = true ↔
    (ty = .devS ∧ m ≠ .smc) ∨ (∃ n, m = .dm n) ∨ (∃ n, m = .gateway n) ∨ (∃ n, m = .pcie n) ∨ m = .flowEngine := by
  cases m <;> simp [toldOf, masterDma, typeOfAccess]

/-- What a refused write leaves. -/
theorem State.writeRefused_eq (s : State) (m : Master) (ty : MemType) (a : Nat) (r : Resp) :
    s.writeRefused m ty a r = if toldOf m ty then { s with reply := .error r } else s.postedError m a r := rfl

/-- Where no core has been marked by a destroy, none leaves its husk. -/
theorem State.settleForced_eq {s : State} (h : ∀ c, (s.acore.get c).forced = false) : s.settleForced = s := by
  have hexit : ∀ c, s.forcedExit c = s := fun c => by simp [State.forcedExit, h c]
  unfold State.settleForced
  induction allFin 32 with
  | nil => rfl
  | cons c r ih => rw [List.foldl_cons, hexit c, ih]

/-- What REGISTER_WRITE does, waiting apart. -/
def State.regWriteBy (m : Master) (ty : MemType) (a size : Nat) (v : Word) (s : State) : State :=
  if s.region a ≠ .regs then s
  else match s.regWrite ⟨m, typeOfAccess m ty, a, size⟩ v with
    | .ok s => s.settleForced
    | .error r => s.writeRefused m ty a r

theorem exec_registerWrite (s : State) (m : Master) (ty : MemType) (addr : PA) (size : Nat) (v : Word) :
    exec (.registerWrite m ty addr size v) s = .next (s.served (State.regWriteBy m ty addr.toNat size v)) := rfl

theorem State.regWriteBy_ok {s z : State} {m : Master} {ty : MemType} {a size : Nat} {v : Word} (hr : s.region a = .regs)
    (hz : s.regWrite ⟨m, typeOfAccess m ty, a, size⟩ v = .ok z) (hforced : ∀ c, (z.acore.get c).forced = false) :
    State.regWriteBy m ty a size v s = z := by
  unfold State.regWriteBy
  rw [if_neg (not_not_intro hr), hz]
  exact State.settleForced_eq hforced

theorem State.regWriteBy_error {s : State} {m : Master} {ty : MemType} {a size : Nat} {v : Word} {r : Resp}
    (hr : s.region a = .regs) (hz : s.regWrite ⟨m, typeOfAccess m ty, a, size⟩ v = .error r) :
    State.regWriteBy m ty a size v s = if toldOf m ty then { s with reply := .error r } else s.postedError m a r := by
  unfold State.regWriteBy
  rw [if_neg (not_not_intro hr), hz]
  rfl

/-- A write that the checks refuse gets their response. -/
theorem State.regWrite_of_regErr {s : State} {x : RegAcc} {v : Word} {r : Resp} (h : s.regErr x true = some r) :
    s.regWrite x v = .error r := by
  unfold State.regWrite
  rw [h]

/-- The effect of a register write. -/
theorem completes_registerWrite (s : State) (m : Master) (ty : MemType) (addr : PA) (size : Nat) (v : Word) :
    let cmd : Instr := .registerWrite m ty addr size v
    let u : State := { s with held := false }
    let x : RegAcc := ⟨m, typeOfAccess m ty, addr.toNat, size⟩
    (s.region addr.toNat ≠ .regs → exec cmd s = .next s) ∧
    (s.region addr.toNat = .regs →
      (∀ z, u.regWrite x v = .ok z → (∀ c, (z.acore.get c).forced = false) → completes cmd s fun t => t = s.orWaits z) ∧
      (∀ r, s.regErr x true = some r → u.regWrite x v = .error r) ∧
      ∀ r, u.regWrite x v = .error r →
        (toldOf m ty = true → completes cmd s fun t => t = { s with reply := .error r }) ∧
        (toldOf m ty = false → completes cmd s fun t => t = s.postedError m addr.toNat r)) := by
  intro cmd u x
  have hexec := exec_registerWrite s m ty addr size v
  refine ⟨fun hr => ?_, fun hr => ?_⟩
  · exact hexec.trans (congrArg _ (State.served_eq (if_pos hr) rfl))
  have hu : u.region addr.toNat = .regs := hr
  refine ⟨fun z hz hforced => ⟨_, hexec, congrArg s.orWaits (State.regWriteBy_ok hu hz hforced)⟩,
    fun r hrefused => State.regWrite_of_regErr (s := u) hrefused, fun r hz => ?_⟩
  have hbody := State.regWriteBy_error hu hz
  refine ⟨fun ht => ⟨_, hexec, State.served_eq ?_ rfl⟩, fun ht => ⟨_, hexec, State.served_eq ?_ (State.record_held ..)⟩⟩
  · rw [hbody, if_pos ht]
    rfl
  · rw [hbody, if_neg (by simp [ht])]
    exact State.postedError_withHeld s false m _ r

/-- The effect of a write to a TCM over the mesh. -/
theorem completes_tcmMeshWrite {s : State} (hs : s.canon) (m : Master) (ty : MemType) (addr : PA) (size : Nat) (v : Word) :
    let a := addr.toNat
    let cmd : Instr := .tcmMeshWrite m ty addr size v
    (((∀ i k b o, s.region a ≠ .tcm i k b o) ∨ size = 0 ∨ 8 < size ∨ 64 < a % 64 + size) → exec cmd s = .next s) ∧
    ((∃ i k b o, s.region a = .tcm i k b o) → 0 < size → size ≤ 8 → a % 64 + size ≤ 64 →
      (s.accessErr m (typeOfAccess m ty) a size true = none → completes cmd s fun t =>
        t = { s with mem := t.mem, tags := t.tags, ecc := t.ecc, sent := t.sent } ∧
        (∀ x, x < a ∨ a + size ≤ x → Memory.get t.mem x = Memory.get s.mem x) ∧
        (∀ j, j < size → Memory.get t.mem (a + j) = BitVec.ofNat 8 (v.toNat / 2 ^ (8 * j))) ∧
        ∀ g, g ∈ t.tags ↔ g ∈ s.tags ∧ (g + 16 ≤ a ∨ a + size ≤ g)) ∧
      ∀ r, s.accessErr m (typeOfAccess m ty) a size true = some r → completes cmd s fun t =>
        t = if toldOf m ty then { s with reply := .error r } else s.postedError m a r) := by
  intro a cmd
  have hexec : exec cmd s = execTcmMeshWrite m ty addr size v s := rfl
  simp only [completes, hexec, execTcmMeshWrite]
  refine ⟨fun h => ?_, fun htcm h0 h8 h64 => ?_⟩
  · rw [if_pos]
    obtain h | h := h
    · have hnot : ¬ (s.region a).isTcm = true := fun hin => by
        obtain ⟨i, k, b, o, hr⟩ := (Region.isTcm_iff _).mp hin
        exact h i k b o hr
      simp [a, hnot]
    · simp [a, h]
  have hin : (s.region a).isTcm = true := (Region.isTcm_iff _).mpr htcm
  have hfit : ¬ (size = 0 ∨ 8 < size ∨ 64 < a % 64 + size) := by omega
  rw [if_neg (by simp [a, hin, hfit])]
  refine ⟨fun hok => ⟨_, rfl, ?_⟩, fun r hr => ⟨_, rfl, ?_⟩⟩
  · obtain ⟨hframe, hout, hbytes, htags⟩ :=
      State.memWrite_direct_effect hs (m := m) (d := toBytes size v.toNat) ((Region.direct_iff _).mpr (.inl htcm))
    rw [toBytes_length] at hout hbytes htags
    rw [hok]
    exact ⟨hframe, hout, fun j hj => (hbytes j hj).trans (toBytes_getD _ hj), htags⟩
  · rw [hr]
    rfl

/-! ## Inbound PCIe (R166, R328, R542) -/

/-- What a root port's request does while PCIe is powered, waiting apart. -/
def State.pcieBy (k : Fin 2) (op : PcieOp) (a : Nat) (d : List Byte) (len : Nat) (s : State) : State :=
  match op with
  | .read => s.pcieRead k a len
  | .write => s.pcieWrite k a d
  | .atomic op => s.pcieAtomic k op a d len

theorem exec_pcieInboundRequest_off {s : State} (h : s.domOn 55 = false) (k : Fin 2) (op : PcieOp) (addr : PA) (d : List Byte)
    (len : Nat) : exec (.pcieInboundRequest k op addr d len) s = .next s := by
  have hoff : (!({ s with held := false } : State).domOn 55) = true := by
    rw [Bool.not_eq_true']
    exact h
  exact congrArg Host.Outcome.next (State.served_eq (if_pos hoff) rfl)

theorem exec_pcieInboundRequest_on {s : State} (h : s.domOn 55 = true) (k : Fin 2) (op : PcieOp) (addr : PA) (d : List Byte)
    (len : Nat) : exec (.pcieInboundRequest k op addr d len) s = .next (s.served (State.pcieBy k op addr.toNat d len)) := by
  have hon : ¬ (!({ s with held := false } : State).domOn 55) = true := by
    rw [Bool.not_eq_true', Bool.not_eq_false]
    exact h
  have hbody : (if !({ s with held := false } : State).domOn 55 then { s with held := false }
      else State.pcieBy k op addr.toNat d len { s with held := false }) = State.pcieBy k op addr.toNat d len { s with held := false } :=
    if_neg hon
  exact congrArg (fun t : State => Host.Outcome.next (s.orWaits t)) hbody

section
variable {s : State} {k : Fin 2} {a len : Nat} {d : List Byte}

/-- The first refused part of a read gives the response. -/
theorem State.pcieRead_refused {l r : List (Nat × Nat)} {p : Nat × Nat} {e : Resp} (hr : s.region a ≠ .regs)
    (hparts : partsOf a len = l ++ p :: r) (hl : ∀ x ∈ l, s.dmaErr (.pcie k) x.1 x.2 false = none)
    (hp : s.dmaErr (.pcie k) p.1 p.2 false = some e) : s.pcieRead k a len = { s with reply := .error e } := by
  have hfirst : (partsOf a len).findSome? (fun p => s.dmaErr (.pcie k) p.1 p.2 false) = some e := by
    rw [hparts, List.findSome?_append, List.findSome?_eq_none_iff.mpr hl, List.findSome?_cons, hp]
    rfl
  rw [State.pcieRead, if_neg hr, hfirst]

/-- A read that no part refuses returns the bytes. -/
theorem State.pcieRead_bytes {v : State} {b : List Byte} (hr : s.region a ≠ .regs)
    (hparts : ∀ x ∈ partsOf a len, s.dmaErr (.pcie k) x.1 x.2 false = none)
    (hread : s.dmaRead (.pcie k) a len = (v, some (b, false))) :
    s.pcieRead k a len = { v with reply := .bytes b false } := by
  rw [State.pcieRead, if_neg hr, List.findSome?_eq_none_iff.mpr hparts]
  simp only [hread]
  rfl

/-- A refused read of a register. -/
theorem State.pcieRead_regErr {r : Resp} (hr : s.region a = .regs) (herr : s.regErr ⟨.pcie k, none, a, len⟩ false = some r) :
    s.pcieRead k a len = { s with reply := .error r } := by
  have hread : s.regRead ⟨.pcie k, none, a, len⟩ = (s, .error r) := by
    unfold State.regRead
    rw [herr]
  rw [State.pcieRead, if_pos hr, hread]

/-- A write of an MSI number to the doorbell. -/
theorem State.pcieWrite_doorbell (hlen : d.length = 4) (hd : ofBytes d < 2048) :
    s.pcieWrite k 0xFFF00000 d = s.pulse (1024 + ofBytes d) := by
  have hbits : ofBytes d / 2 ^ 11 = 0 := Nat.div_eq_of_lt hd
  rw [State.pcieWrite, if_pos rfl, if_pos ⟨hlen, hbits⟩]

/-- Any other write to the doorbell is recorded. -/
theorem State.pcieWrite_doorbell_else (h : d.length ≠ 4 ∨ 2048 ≤ ofBytes d) :
    s.pcieWrite k 0xFFF00000 d = s.record bankPcie 0x2D k.val 0 0 (ofBytes (d.take 4)) := by
  have hnot : ¬ (d.length = 4 ∧ ofBytes d / 2 ^ 11 = 0) := by omega
  rw [State.pcieWrite, if_pos rfl, if_neg hnot]

/-- A refused write to a register. -/
theorem State.pcieWrite_regErr {r : Resp} (ha : a ≠ 0xFFF00000) (hr : s.region a = .regs)
    (herr : s.regErr ⟨.pcie k, none, a, d.length⟩ true = some r) : s.pcieWrite k a d = { s with reply := .error r } := by
  rw [State.pcieWrite, if_neg ha, if_pos hr, State.regWrite_of_regErr herr]

/-- A write that no part refuses. -/
theorem State.pcieWrite_parts (ha : a ≠ 0xFFF00000) (hr : s.region a ≠ .regs)
    (hparts : ∀ x ∈ partsOf a d.length, s.dmaErr (.pcie k) x.1 x.2 true = none) :
    s.pcieWrite k a d = (s.dmaWrite (.pcie k) a d).1 := by
  rw [State.pcieWrite, if_neg ha, if_neg hr, List.findSome?_eq_none_iff.mpr hparts]

/-- An atomic of another width, or one that is misaligned, is none (log entry 62). -/
theorem State.pcieAtomic_misfit {op : AmoOp} (h : (len ≠ 4 ∧ len ≠ 8) ∨ a % len ≠ 0) : s.pcieAtomic k op a d len = s := by
  rw [State.pcieAtomic, if_pos h]

/-- An atomic of 4 or 8 aligned bytes: TYPERR in the register space, else the response of the isolation tables, else the old bytes of
the home agent or of the memory. -/
theorem State.pcieAtomic_fit {op : AmoOp} (hlen : len = 4 ∨ len = 8) (halign : a % len = 0) :
    let x := word (ofBytes (slice d 0 len))
    let y := word (ofBytes (slice d len len))
    (s.region a = .regs → s.pcieAtomic k op a d len = { s with reply := .error .typerr }) ∧
    (s.region a ≠ .regs →
      (∀ r, s.dmaErr (.pcie k) a len true = some r → s.pcieAtomic k op a d len = { s with reply := .error r }) ∧
      (s.dmaErr (.pcie k) a len true = none →
        ((s.region a).isHbm = true → ∀ v b, s.homeAtomic a len op x y (.pcie k) = (v, b, false) →
          s.pcieAtomic k op a d len = { v with reply := .bytes b false }) ∧
        ((s.region a).isHbm = false → ∀ v b, s.memRead (.pcie k) a len = (v, b, false) →
          s.pcieAtomic k op a d len = { v.memWrite (.pcie k) a (amoBytes op b x y) false with reply := .bytes b false }))) := by
  intro x y
  have hfit : ¬ ((len ≠ 4 ∧ len ≠ 8) ∨ a % len ≠ 0) := by omega
  unfold State.pcieAtomic
  rw [if_neg hfit]
  refine ⟨fun hr => by rw [if_pos hr], fun hr => ?_⟩
  rw [if_neg hr]
  refine ⟨fun r herr => by rw [herr], fun hok => ?_⟩
  rw [hok]
  refine ⟨fun hhbm v b hv => ?_, fun hhbm v b hv => ?_⟩
  · simp only [hhbm, if_true]
    rw [hv]
    rfl
  · simp only [hhbm, Bool.false_eq_true, if_false]
    rw [hv]
    rfl

end

/-- The effect of a root port's request while PCIe is powered. -/
theorem completes_pcie_on {s t : State} (hon : s.domOn 55 = true) {k : Fin 2} {op : PcieOp} {addr : PA} {d : List Byte} {len : Nat}
    (h : State.pcieBy k op addr.toNat d len { s with held := false } = t.withHeld false) (ht : t.held = s.held) :
    completes (.pcieInboundRequest k op addr d len) s fun u => u = t :=
  ⟨_, exec_pcieInboundRequest_on hon k op addr d len, State.served_eq h ht⟩

/-- The effect of such a request that may have to wait. -/
theorem completes_pcie_orWaits {s t : State} (hon : s.domOn 55 = true) {k : Fin 2} {op : PcieOp} {addr : PA} {d : List Byte}
    {len : Nat} (h : State.pcieBy k op addr.toNat d len { s with held := false } = t) :
    completes (.pcieInboundRequest k op addr d len) s fun u => u = s.orWaits t :=
  ⟨_, exec_pcieInboundRequest_on hon k op addr d len, congrArg s.orWaits h⟩

/-- A source's change does not depend on the mark of waiting. -/
theorem State.srcBecomes_withHeld {s t : State} {b : Bool} {k : Nat} {y : IrqSrc} (h : (s.withHeld b).srcBecomes t k y) :
    s.srcBecomes (t.withHeld s.held) k y := by
  obtain ⟨hframe, hk, helse⟩ := h
  exact ⟨congrArg (State.withHeld · s.held) hframe, hk, helse⟩

/-- An MSI number names a source (Table 4.9). -/
theorem srcExists_msi {n : Nat} (h : n < 2048) : srcExists (1024 + n) = true := by
  simp [srcExists, show 1024 + n < 3072 by omega]

/-- A write to the MSI doorbell asserts its source (R166). -/
theorem completes_pcie_doorbell {s : State} (hs : s.canon) (hon : s.domOn 55 = true) (k : Fin 2) {addr : PA}
    (ha : addr.toNat = 0xFFF00000) {d : List Byte} (hlen : d.length = 4) (hd : ofBytes d < 2048) (len : Nat) :
    completes (.pcieInboundRequest k .write addr d len) s fun t =>
      ∃ y, s.srcBecomes t (1024 + ofBytes d) y ∧ (s.src (1024 + ofBytes d)).asserted (1024 + ofBytes d) y := by
  obtain ⟨y, hy, hassert⟩ := State.srcBecomes_pulse (s := s.withHeld false) hs (srcExists_msi hd)
  have hbody : State.pcieBy k .write addr.toNat d len { s with held := false } = (s.withHeld false).pulse (1024 + ofBytes d) := by
    rw [State.pcieBy, ha]
    exact State.pcieWrite_doorbell hlen hd
  have hheld : ((s.withHeld false).pulse (1024 + ofBytes d)).held = false := by
    rw [hy.1]
    rfl
  refine ⟨_, exec_pcieInboundRequest_on hon .., y, ?_, hassert⟩
  rw [State.served_done (by rw [hbody]; exact hheld), hbody]
  exact State.srcBecomes_withHeld hy

/-- Settles O39, command by command: a refused access is told or recorded, the checks follow their order, a write to a memory that no
cache holds changes its bytes alone, and a PCIe request does what its kind does at the region it names. -/
theorem meshAccesses : Obligations.MeshAccesses := by
  refine ⟨fun s m ty addr size v => ?_, fun s x wr => ⟨fun hd => ?_, fun hsec hm hnot => ?_, State.regErr_secure wr⟩,
    fun s m ty addr size v hs => completes_tcmMeshWrite hs m ty addr size v,
    fun s k op addr d len => ⟨fun hoff => exec_pcieInboundRequest_off hoff .., fun hon => ?_⟩⟩
  · obtain ⟨helse, hregs⟩ := completes_registerWrite s m ty addr size v
    refine ⟨helse, fun hr => ?_⟩
    obtain ⟨hok, herr, hrefused⟩ := hregs hr
    refine ⟨hok, herr, fun r hz => ?_⟩
    obtain ⟨htold, hposted⟩ := hrefused r hz
    rw [← toldOf_iff]
    exact ⟨htold, fun h => hposted (by simpa using h)⟩
  · simp [State.regErr_eq, hd]
  · simp [State.regErr_eq, hsec, hm, hnot]
  · refine ⟨fun r l p hr hparts hl e he => completes_pcie_on hon (State.pcieRead_refused hr hparts hl he) rfl,
      fun v b hr hparts hread => completes_pcie_orWaits hon (State.pcieRead_bytes hr hparts hread),
      fun r hr herr => completes_pcie_on hon (State.pcieRead_regErr hr herr) rfl,
      fun ha => ⟨fun hlen hd hs => completes_pcie_doorbell hs hon k ha hlen hd len, fun hd => ?_⟩,
      fun r ha hr herr => completes_pcie_on hon (State.pcieWrite_regErr ha hr herr) rfl,
      fun ha hr hparts => completes_pcie_orWaits hon (State.pcieWrite_parts ha hr hparts), fun op => ⟨fun hmis => ?_, fun hlen halign => ?_⟩⟩
    · refine completes_pcie_on hon ?_ (State.record_held ..)
      rw [State.pcieBy, ha]
      exact (State.pcieWrite_doorbell_else hd).trans (State.record_withHeld s false ..)
    · have hbody : State.pcieBy k (.atomic op) addr.toNat d len (s.withHeld false) = s.withHeld false := by
        rw [State.pcieBy]
        exact State.pcieAtomic_misfit hmis
      rw [exec_pcieInboundRequest_on hon, State.served_eq hbody rfl]
    · obtain ⟨hregs, hmem⟩ := State.pcieAtomic_fit (s := { s with held := false }) (k := k) (d := d) (op := op) hlen halign
      refine ⟨fun hr => completes_pcie_on hon (hregs hr) rfl, fun hr r herr => completes_pcie_on hon ((hmem hr).1 r herr) rfl,
        fun hr hok => ⟨fun hhbm v b hv => completes_pcie_orWaits hon (((hmem hr).2 hok).1 hhbm v b hv),
          fun hhbm v b hv => completes_pcie_orWaits hon (((hmem hr).2 hok).2 hhbm v b hv)⟩⟩

end Sys2Proof.Machine
end

section
/-! No operation of the memory, of the translation or of the registers asks an A-core for a debug halt or a single step (R347): one
lemma for each operation that a load of an A-core can reach, in the order of the definitions. -/
namespace Sys2Proof.Machine

set_option Elab.async false

/-- Neither a debug halt nor a single step is asked of the core. -/
def ACore.calm (a : ACore) : Prop := a.haltReq = false ∧ a.step1 = false

/-- Neither is asked of core `me`. -/
def State.calm (s : State) (me : Fin 32) : Prop := (s.acore.get me).calm

variable {s : State} {me : Fin 32}

/-! ## Changes of fields -/

/-- The predicate speaks of the A-cores alone. -/
theorem calm_mk {pending time fresh held reply mem poison tags ecc ent entB tlbPend pod home pc hbm sent island safeN irq husk gw env
    mail dap seed hazel dm fb ledger trans retired gpio pcieOut} (h : s.calm me) :
    State.calm ⟨pending, time, fresh, held, reply, mem, poison, tags, ecc, ent, entB, s.acore, tlbPend, pod, home, pc, hbm, sent,
      island, safeN, irq, husk, gw, env, mail, dap, seed, hazel, dm, fb, ledger, trans, retired, gpio, pcieOut⟩ me := h

/-- A change of the A-cores that asks nothing of any of them. -/
theorem calm_acores {cores : Vector ACore 32} (h : s.calm me)
    (hc : ∀ c, (s.acore.get c).calm → (cores.get c).calm) :
    State.calm { s with acore := cores } me := hc me h

theorem ACore.calm_ite {c : Prop} [Decidable c] {a b : ACore} (ha : a.calm) (hb : b.calm) : (if c then a else b).calm := by
  split
  · exact ha
  · exact hb

theorem vmod_calm {v : Vector ACore 32} {c : Fin 32} {f : ACore → ACore} (hf : ∀ a, a.calm → (f a).calm) (i : Fin 32)
    (h : (v.get i).calm) : ((vmod v c f).get i).calm := by
  by_cases hi : i = c
  · subst hi
    rw [vmod_get]
    exact hf _ h
  · rw [vmod_get_ne v f hi]
    exact h

theorem vmap_calm {v : Vector ACore 32} {f : ACore → ACore} (hf : ∀ a, a.calm → (f a).calm) (i : Fin 32)
    (h : (v.get i).calm) : ((v.map f).get i).calm := by
  have hget : (v.map f).get i = f (v.get i) := Vector.getElem_map f i.isLt
  rw [hget]
  exact hf _ h

theorem vofFn_calm {v : Vector ACore 32} {g : Fin 32 → ACore} (hg : ∀ c, (v.get c).calm → (g c).calm) (i : Fin 32)
    (h : (v.get i).calm) : ((Vector.ofFn g).get i).calm := by
  have hget : (Vector.ofFn g).get i = g i := Vector.getElem_ofFn i.isLt
  rw [hget]
  exact hg i h

/-- A change of one A-core that asks nothing of it. -/
theorem calm_vmod {pending time fresh held reply mem poison tags ecc ent entB tlbPend pod home pc hbm sent island safeN irq husk gw env
    mail dap seed hazel dm fb ledger trans retired gpio pcieOut} {c : Fin 32} {f : ACore → ACore} (h : s.calm me)
    (hf : ∀ a, a.calm → (f a).calm) :
    State.calm ⟨pending, time, fresh, held, reply, mem, poison, tags, ecc, ent, entB, vmod s.acore c f, tlbPend, pod, home, pc, hbm,
      sent, island, safeN, irq, husk, gw, env, mail, dap, seed, hazel, dm, fb, ledger, trans, retired, gpio, pcieOut⟩ me :=
  vmod_calm hf me h

theorem State.modA_calm {c f} (h : s.calm me) (hf : ∀ a, a.calm → (f a).calm) : (s.modA c f).calm me :=
  vmod_calm hf me h

/-! ## Folds and choices -/

theorem foldl_calm {α : Type} {f : State → α → State} {l : List α} (hf : ∀ s x, s.calm me → (f s x).calm me) (h : s.calm me) :
    (l.foldl f s).calm me := by
  induction l generalizing s with
  | nil => exact h
  | cons a r ih => exact ih (hf _ _ h)

theorem foldl_calm_fst {α β : Type} {f : State × β → α → State × β} {l : List α} {p : State × β}
    (hf : ∀ s b x, s.calm me → (f (s, b) x).1.calm me) (h : p.1.calm me) : (l.foldl f p).1.calm me := by
  induction l generalizing p with
  | nil => exact h
  | cons a r ih => exact ih (hf p.1 p.2 a h)

theorem ite_calm {c : Prop} [Decidable c] {a b : State} (ha : a.calm me) (hb : b.calm me) : (if c then a else b).calm me := by
  split
  · exact ha
  · exact hb

theorem getD_calm {o : Option State} (ho : ∀ t, o = some t → t.calm me) (h : s.calm me) : (o.getD s).calm me := by
  cases o with
  | none => exact h
  | some t => exact ho t rfl

theorem ite_some_calm {β : Type} {c : Prop} [Decidable c] {o p : Option (State × β)} (ho : ∀ r, o = some r → r.1.calm me)
    (hp : ∀ r, p = some r → r.1.calm me) : ∀ r, (if c then o else p) = some r → r.1.calm me := by
  split
  · exact ho
  · exact hp

theorem some_calm {β : Type} {b : β} (h : s.calm me) : ∀ r, some (s, b) = some r → r.1.calm me :=
  fun _ e => Option.some.inj e ▸ h

/-! ## Free values (Machine/Base.lean) -/

theorem State.draw_calm (h : s.calm me) : s.draw.1.calm me := h

/-! ## Entries (Machine/Catalogue.lean) -/

theorem State.setE_calm {idx sub v} (h : s.calm me) : (s.setE idx sub v).calm me := h

theorem State.addE_calm {idx sub w k} (h : s.calm me) : (s.addE idx sub w k).calm me := by
  grind [State.addE, State.setE_calm, calm_mk]

theorem State.setB_calm {idx sub v} (h : s.calm me) : (s.setB idx sub v).calm me := h

/-! ## Interrupt sources, fault banks and the ledger (Machine/Faults.lean) -/

theorem State.putSrc_calm {k x} (h : s.calm me) : (s.putSrc k x).calm me := h

theorem State.virtNotify_calm {p} (h : s.calm me) : (s.virtNotify p).calm me := by
  grind [State.virtNotify, State.putSrc_calm, calm_mk]

theorem State.setSrc_calm {k x} (h : s.calm me) : (s.setSrc k x).calm me := by
  grind [State.setSrc, State.putSrc_calm, State.virtNotify_calm]

theorem State.pulse_calm {k} (h : s.calm me) : (s.pulse k).calm me := by
  grind [State.pulse, State.setSrc_calm]

theorem State.setLine_calm {k lvl} (h : s.calm me) : (s.setLine k lvl).calm me := by
  grind [State.setLine, State.setSrc_calm]

theorem State.bankLine_calm {b} (h : s.calm me) : (s.bankLine b).calm me := by
  grind [State.bankLine, State.setLine_calm]

theorem State.record_calm {b code unit unit2 addr info} (h : s.calm me) : (s.record b code unit unit2 addr info).calm me := by
  grind [State.record, State.addE_calm, State.bankLine_calm, calm_mk]

theorem State.retireEntry_calm {kind reason id} (h : s.calm me) : (s.retireEntry kind reason id).calm me := by
  grind [State.retireEntry, State.record_calm, calm_mk]

theorem State.transient_calm {kind id} (h : s.calm me) : (s.transient kind id).1.calm me := h

theorem State.ledgerLine_calm (h : s.calm me) : s.ledgerLine.calm me := by
  grind [State.ledgerLine, State.setLine_calm]

theorem State.ledgerRecord_calm {b} (h : s.calm me) : (s.ledgerRecord b).calm me := by
  grind [State.ledgerRecord, State.addE_calm, calm_mk]

theorem State.ledgerEvent_calm {bank addr tag ops} (h : s.calm me) : (s.ledgerEvent bank addr tag ops).calm me := by
  grind [State.ledgerEvent, State.ledgerLine_calm, State.ledgerRecord_calm, calm_mk, foldl_calm]

/-! ## HBM lines and queues (Machine/Hbm.lean) -/

theorem State.modPc_calm {p f} (h : s.calm me) : (s.modPc p f).calm me := h

theorem State.storeLine_calm {line d poison} (h : s.calm me) : (s.storeLine line d poison).calm me := h

theorem State.hardError_calm {a} (h : s.calm me) : (s.hardError a).calm me := h

theorem State.hbmRead_calm {line errs sev scrub wrong} (h : s.calm me) : (s.hbmRead line errs sev scrub wrong).1.calm me := by
  grind (ematch := 20) [State.hbmRead, State.addE_calm, State.hardError_calm, State.record_calm, State.storeLine_calm, calm_mk]

theorem State.enqueue_calm {c} (h : s.calm me) : (s.enqueue c).calm me := by
  grind [State.enqueue, State.addE_calm, calm_mk]

theorem State.hbmWrite_calm {line d poison tc} (h : s.calm me) : (s.hbmWrite line d poison tc).calm me := by
  grind [State.hbmWrite, State.enqueue_calm]

theorem State.nextCmd_calm {p r} (h : s.calm me) (e : State.nextCmd s p = some r) : r.2.calm me := by
  grind [State.nextCmd, calm_mk]

theorem State.ownSlot_calm {p t} (h : s.calm me) (e : State.ownSlot s p = some t) : t.calm me := by
  grind [State.ownSlot, calm_mk]

/-! ## Caches and stops (Machine/Lines.lean) -/

theorem State.send_calm {stop tc n} (h : s.calm me) : (s.send stop tc n).calm me := h

theorem State.modPod_calm {p f} (h : s.calm me) : (s.modPod p f).calm me := h

theorem State.modHome_calm {ix f} (h : s.calm me) : (s.modHome ix f).calm me := h

theorem State.putL2_calm {p line x} (h : s.calm me) : (s.putL2 p line x).calm me := h

theorem State.setFilt_calm {line p st} (h : s.calm me) : (s.setFilt line p st).calm me := h

theorem State.dropL1_calm {p line} (h : s.calm me) : (s.dropL1 p line).calm me :=
  calm_acores h (vofFn_calm fun _ hc => by dsimp only; exact ACore.calm_ite hc hc)

theorem State.dropL2_calm {p line} (h : s.calm me) : (s.dropL2 p line).calm me := by
  grind [State.dropL2, State.modPod_calm, State.dropL1_calm]

/-! ## Virtual interfaces and FATAL events (Machine/Ledger.lean) -/

theorem State.putVi_calm {v x} (h : s.calm me) : (s.putVi v x).calm me := h

theorem State.modQp_calm {v q2 f} (h : s.calm me) : (s.modQp v q2 f).calm me := h

theorem State.startGrace_calm {cause} (h : s.calm me) : (s.startGrace cause).calm me := by
  grind [State.startGrace, calm_mk]

theorem State.fatalEvent_calm {b unit way setNo arr} (h : s.calm me) : (s.fatalEvent b unit way setNo arr).calm me := by
  grind [State.fatalEvent, State.record_calm, State.startGrace_calm, State.ledgerEvent_calm, calm_mk]

/-! ## Home agents (Machine/Coherence.lean) -/

theorem State.pick_calm {α l} (h : s.calm me) : (@State.pick α s l).2.calm me := h

theorem State.slcEvict_calm {ix line} (h : s.calm me) : (s.slcEvict ix line).calm me := by
  grind [State.slcEvict, State.modHome_calm, State.hbmWrite_calm]

theorem State.slcPut_calm {line cls dirty d poison} (h : s.calm me) : (s.slcPut line cls dirty d poison).calm me := by
  grind [State.slcPut, State.modHome_calm, State.pick_calm, State.slcEvict_calm, State.hbmWrite_calm]

theorem State.writeHome_calm {line cls tc d poison} (h : s.calm me) : (s.writeHome line cls tc d poison).calm me := by
  grind [State.writeHome, State.slcPut_calm, State.hbmWrite_calm]

theorem State.absorb_calm {p line d poison type} (h : s.calm me) : (s.absorb p line d poison type).calm me := by
  grind [State.absorb, State.writeHome_calm, State.slcPut_calm, State.hbmWrite_calm]

theorem State.evictNow_calm {p line} (h : s.calm me) : (s.evictNow p line).calm me := by
  grind [State.evictNow, State.setFilt_calm, State.dropL2_calm, State.absorb_calm]

theorem State.l2Install_calm {p line st d poison type} (h : s.calm me) : (s.l2Install p line st d poison type).calm me := by
  unfold State.l2Install
  grind [State.setFilt_calm, State.putL2_calm, State.pick_calm, State.evictNow_calm, State.absorb_calm]

theorem State.coreFail_calm {c} (h : s.calm me) : (s.coreFail c).calm me := by
  exact vmod_calm (fun _ _ => ⟨rfl, rfl⟩) me h

theorem State.retireNow_calm {kind id reason} (h : s.calm me) : (s.retireNow kind id reason).calm me := by
  grind [State.retireNow, State.retireEntry_calm, State.evictNow_calm, State.slcEvict_calm, State.coreFail_calm, foldl_calm]

theorem State.transientAt_calm {kind id reason} (h : s.calm me) : (s.transientAt kind id reason).calm me := by
  grind [State.transientAt, State.transient_calm, State.retireNow_calm]

theorem State.strike_calm {ev} (h : s.calm me) : (s.strike ev).calm me := by
  unfold State.strike
  split
  · refine calm_vmod h fun _ ha => ?_
    exact ACore.calm_ite ha ha
  · exact h

theorem State.arrayRead_calm {ev b unit way line setNo arr kind dirty} (h : s.calm me) :
    (s.arrayRead ev b unit way line setNo arr kind dirty).1.calm me := by
  unfold State.arrayRead
  grind [State.transientAt_calm, State.record_calm, State.fatalEvent_calm]

theorem State.slcRead_calm {line x ev} (h : s.calm me) : (s.slcRead line x ev).1.calm me := by
  grind [State.slcRead, State.arrayRead_calm, State.modHome_calm]

theorem State.putTxn_calm {txn} (h : s.calm me) : (s.putTxn txn).calm me := h

theorem State.ackCrossed_calm {line} (h : s.calm me) : (s.ackCrossed line).calm me := h

theorem State.fillSlc_calm {line cls fromHbm d poison} (h : s.calm me) : (s.fillSlc line cls fromHbm d poison).calm me := by
  grind [State.fillSlc, State.slcPut_calm]

theorem State.sendReply_calm {txn n} (h : s.calm me) : (s.sendReply txn n).calm me := by
  grind [State.sendReply, State.send_calm, foldl_calm]

theorem State.smcPoison_calm {txn poison} (h : s.calm me) : (s.smcPoison txn poison).calm me := by
  grind [State.smcPoison, State.record_calm]

theorem State.finish_calm {txn d poison fromHbm force} (h : s.calm me) : (s.finish txn d poison fromHbm force).calm me := by
  unfold State.finish
  dsimp only
  repeat' split
  all_goals grind (ematch := 20) [State.modHome_calm, State.sendReply_calm, State.fillSlc_calm, State.l2Install_calm,
    State.writeHome_calm, State.smcPoison_calm, State.ackCrossed_calm, calm_mk, foldl_calm, foldl_calm_fst]

theorem State.serveEvict_calm {p line} (h : s.calm me) : (s.serveEvict p line).calm me := by
  grind [State.serveEvict, State.setFilt_calm, State.absorb_calm, State.modPod_calm]

theorem State.proceed_calm {txn ev} (h : s.calm me) : (s.proceed txn ev).calm me := by
  grind [State.proceed, State.finish_calm, State.slcRead_calm, State.enqueue_calm, State.putTxn_calm]

theorem State.begin_calm {txn ev} (h : s.calm me) : (s.begin txn ev).calm me := by
  unfold State.begin
  dsimp only
  repeat' split
  all_goals grind [State.strike_calm, State.serveEvict_calm, State.modHome_calm, State.fatalEvent_calm, State.record_calm,
    State.finish_calm, State.proceed_calm, State.send_calm, State.putTxn_calm, calm_mk, foldl_calm]

theorem State.kick_calm {line ev a} (h : s.calm me) : (State.kick line ev a s).calm me := by
  fun_induction State.kick line ev a s <;> grind [State.begin_calm]

theorem State.kickAll_calm {line ev} (h : s.calm me) : (s.kickAll line ev).calm me := by
  grind [State.kickAll, State.kick_calm]

theorem State.promote_calm {txn} (h : s.calm me) : (s.promote txn).calm me := h

theorem State.takeEntry_calm {txn ev} (h : s.calm me) : (s.takeEntry txn ev).calm me := by
  grind [State.takeEntry, State.kickAll_calm, State.modHome_calm, State.putTxn_calm, State.promote_calm]

theorem State.admitN_calm {h0 a} (h : s.calm me) : (State.admitN h0 a s).calm me := by
  fun_induction State.admitN h0 a s <;> grind [State.takeEntry_calm, State.modHome_calm]

theorem State.admitHome_calm {line} (h : s.calm me) : (s.admitHome line).calm me := by
  grind [State.admitHome, State.admitN_calm]

theorem State.request_calm {line req from_ tc cls ev} (h : s.calm me) : (s.request line req from_ tc cls ev).calm me := by
  grind [State.request, State.send_calm, State.takeEntry_calm, State.modHome_calm]

theorem State.snoopAt_calm {p line k} (h : s.calm me) : (s.snoopAt p line k).1.calm me := by
  grind [State.snoopAt, State.putL2_calm, State.dropL2_calm, State.modPod_calm]

theorem State.serveSnoop_calm {m} (h : s.calm me) : (s.serveSnoop m).calm me := by
  grind [State.serveSnoop, State.snoopAt_calm, State.send_calm, State.modHome_calm]

theorem State.deliverSnoop_calm {p line k} (h : s.calm me) : (s.deliverSnoop p line k).calm me := by
  grind [State.deliverSnoop, State.serveSnoop_calm, foldl_calm]

theorem State.syncFilt_calm {line p} (h : s.calm me) : (s.syncFilt line p).calm me := h

theorem State.poisonTxn_calm {txn} (h : s.calm me) : (s.poisonTxn txn).calm me := by
  grind [State.poisonTxn, State.writeHome_calm, State.admitHome_calm, State.kickAll_calm, State.finish_calm]

theorem State.answered_calm {txn p got} (h : s.calm me) : (s.answered txn p got).calm me := by
  unfold State.answered
  dsimp only
  repeat' split
  all_goals grind [State.putTxn_calm, State.poisonTxn_calm, State.admitHome_calm, State.kickAll_calm, State.proceed_calm]

theorem State.useCrossed_calm {txn p b} (h : s.calm me) : (s.useCrossed txn p b).calm me := by
  grind [State.useCrossed, State.setFilt_calm, State.absorb_calm, State.answered_calm]

theorem State.lateAnswer_calm {ix a} (h : s.calm me) : (s.lateAnswer ix a).calm me := by
  grind [State.lateAnswer, calm_mk]

theorem State.answer_calm {a ev} (h : s.calm me) : (s.answer a ev).calm me := by
  unfold State.answer
  dsimp only
  repeat' split
  all_goals grind [State.strike_calm, State.lateAnswer_calm, State.arrayRead_calm, State.answered_calm, State.syncFilt_calm,
    State.setFilt_calm, State.dropL2_calm, State.putL2_calm, State.modHome_calm, State.useCrossed_calm, State.record_calm]

theorem State.hbmData_calm {line d poison} (h : s.calm me) : (s.hbmData line d poison).calm me := by
  grind [State.hbmData, State.admitHome_calm, State.kickAll_calm, State.finish_calm]

theorem State.hbmServe_calm {p errs sev wrong} (h : s.calm me) : (s.hbmServe p errs sev wrong).calm me := by
  unfold State.hbmServe
  split
  · split
    next => exact h
    next c u hc =>
      have hu : u.calm me := State.nextCmd_calm h hc
      split
      · exact State.storeLine_calm hu
      · exact State.hbmData_calm (State.hbmRead_calm hu)
  · exact h

theorem State.writeBack_calm {p} (h : s.calm me) : (s.writeBack p).calm me := by
  grind [State.writeBack, State.modPc_calm, calm_mk]

theorem State.verifyRead_calm {p errs sev} (h : s.calm me) : (s.verifyRead p errs sev).calm me := by
  unfold State.verifyRead
  dsimp only
  repeat' split
  all_goals grind [State.modPc_calm, State.addE_calm, State.hardError_calm, State.hbmRead_calm, calm_mk]

/-! ## Requests carried through (Machine/Requests.lean) -/

theorem State.evArrive_calm {p line} (h : s.calm me) : (s.evArrive p line).calm me := by
  grind [State.evArrive, State.modPod_calm, State.send_calm, State.serveEvict_calm, State.useCrossed_calm, State.modHome_calm]

theorem State.hbmTurn_calm {line} (h : s.calm me) : (s.hbmTurn line).calm me := by
  grind [State.hbmTurn, State.ownSlot_calm, State.writeBack_calm, State.verifyRead_calm, State.hbmServe_calm, calm_mk]

theorem State.settle1_calm {line} (h : s.calm me) : (s.settle1 line).calm me := by
  unfold State.settle1
  dsimp only
  repeat' split
  all_goals grind [State.admitHome_calm, State.kickAll_calm, State.hbmTurn_calm, State.proceed_calm, State.deliverSnoop_calm,
    State.answer_calm, State.modHome_calm, State.evArrive_calm, State.answered_calm]

theorem State.settleN_calm {line a} (h : s.calm me) : (State.settleN line a s).calm me := by
  fun_induction State.settleN line a s <;> grind [State.settle1_calm]

theorem State.settle_calm {line} (h : s.calm me) : (s.settle line).calm me := by
  grind [State.settle, State.settleN_calm, calm_mk]

theorem State.drainEv_calm {p line} (h : s.calm me) : (s.drainEv p line).calm me := by
  grind [State.drainEv, State.settle_calm, State.evArrive_calm]

theorem State.transact_calm {line req from_ tc cls} (h : s.calm me) : (s.transact line req from_ tc cls).calm me := by
  grind [State.transact, State.settle_calm, State.request_calm, calm_mk]

theorem State.homePeek_calm {line m} (h : s.calm me) : (s.homePeek line m).1.calm me := by
  grind [State.homePeek, State.transact_calm]

theorem State.homePush_calm {line off d m} (h : s.calm me) : (s.homePush line off d m).calm me := by
  grind [State.homePush, State.transact_calm]

theorem State.homePushPoison_calm {line off d m} (h : s.calm me) : (s.homePushPoison line off d m).calm me := by
  grind [State.homePushPoison, State.homePush_calm, State.writeHome_calm]

theorem State.homeAtomic_calm {addr size op v cmp m} (h : s.calm me) : (s.homeAtomic addr size op v cmp m).1.calm me := by
  grind [State.homeAtomic, State.transact_calm]

theorem State.setType_calm {p line type} (h : s.calm me) : (s.setType p line type).calm me := by
  grind [State.setType, State.putL2_calm]

theorem State.l1Fill_calm {c line} (h : s.calm me) : (s.l1Fill c line).calm me := by
  grind [State.l1Fill, State.pick_calm, calm_vmod, ACore.calm]

theorem State.l1CrcError_calm {c instr line} (h : s.calm me) : (s.l1CrcError c instr line).calm me := by
  grind [State.l1CrcError, State.draw_calm, State.transientAt_calm, State.record_calm, calm_vmod, ACore.calm]

theorem State.loadLine_calm {c line type ev} (h : s.calm me) : (s.loadLine c line type ev).1.calm me := by
  have hagain : ∀ (u : State) b, u.calm me → (if b && (u.l2? (podOf c) line).isSome then u.l1Fill c line else u).calm me :=
    fun _ _ hu => ite_calm (State.l1Fill_calm hu) hu
  unfold State.loadLine
  extract_lets p s1 a bad s2 s3 hit r s4 s5 again s6 r6 s7
  have h3 : s3.calm me :=
    State.drainEv_calm (ite_calm (State.l1CrcError_calm (State.strike_calm (State.settle_calm h)))
      (State.strike_calm (State.settle_calm h)))
  clear_value s3
  have h4 : s4.calm me := by
    unfold s4 r
    cases hit with
    | none => exact h3
    | some x => exact State.arrayRead_calm h3
  clear_value s4
  have h5 : s5.calm me := by
    unfold s5
    cases r.2 with
    | keep => exact h4
    | refetch => exact State.evictNow_calm h4
    | poisoned =>
      dsimp only
      split
      · exact State.putL2_calm h4
      · exact h4
  clear_value s5
  split
  · exact hagain _ _ h5
  · split
    · have h6 : s6.calm me := State.transact_calm h5
      clear_value s6
      exact hagain _ _ (State.setType_calm h6)
    · have h7 : s7.calm me := State.transact_calm h5
      clear_value s7
      exact h7

theorem State.coreLine_calm {c line type ev} (h : s.calm me) : (s.coreLine c line type ev).1.calm me := by
  grind [State.coreLine, State.loadLine_calm, State.drainEv_calm, State.homePeek_calm]

theorem State.l2Write_calm {c line off d type st} (h : s.calm me) : (s.l2Write c line off d type st).calm me := by
  unfold State.l2Write
  dsimp only
  split
  · exact h
  · refine State.putL2_calm (calm_acores h (vofFn_calm fun _ hc => ?_))
    exact ACore.calm_ite hc hc

theorem State.ownLine_calm {c line} (h : s.calm me) : (s.ownLine c line).calm me := by
  have hdrained : ((s.settle line).drainEv (podOf c) line).calm me := State.drainEv_calm (State.settle_calm h)
  unfold State.ownLine
  dsimp only
  split
  · exact hdrained
  · exact hdrained
  · exact State.transact_calm hdrained

theorem State.coreWrite_calm {c line off d type} (h : s.calm me) : (s.coreWrite c line off d type).calm me := by
  unfold State.coreWrite
  split <;> grind (ematch := 20) [State.drainEv_calm, State.settle_calm, State.homePush_calm, State.ownLine_calm,
    State.l2Write_calm, State.setFilt_calm, State.writeHome_calm]

/-! ## Memory accesses of masters (Machine/Access.lean) -/

theorem State.huskPut_calm {ix x} (h : s.calm me) : (s.huskPut ix x).calm me := h

theorem State.postedError_calm {m a r} (h : s.calm me) : (s.postedError m a r).calm me := by
  grind [State.postedError, State.record_calm]

theorem State.huskRecord_calm {m a} (h : s.calm me) : (s.huskRecord m a).calm me := by
  grind [State.huskRecord, State.record_calm]

theorem State.eccEvent_calm {p ev} (h : s.calm me) : (s.eccEvent p ev).calm me := by
  unfold State.eccEvent
  split
  · exact ite_calm h h
  all_goals exact h

theorem State.eccWord_calm {i unit a arr w} (h : s.calm me) : (State.eccWord i unit a arr s w).calm me := by
  grind [State.eccWord, State.record_calm, calm_mk]

theorem State.eccFix_calm {i unit a p n arr} (h : s.calm me) : (s.eccFix i unit a p n arr).calm me := by
  grind [State.eccFix, State.eccWord_calm, foldl_calm]

theorem State.eccMesh_calm {a n} (h : s.calm me) : (s.eccMesh a n).calm me := by
  grind [State.eccMesh, State.eccFix_calm]

theorem State.meshRead_calm {m a n} (h : s.calm me) : (s.meshRead m a n).calm me := by
  grind [State.meshRead, State.send_calm]

theorem State.meshWrite_calm {m a n} (h : s.calm me) : (s.meshWrite m a n).calm me := by
  grind [State.meshWrite, State.send_calm]

theorem State.memRead_calm {m a n} (h : s.calm me) : (s.memRead m a n).1.calm me := by
  grind [State.memRead, State.homePeek_calm, State.eccMesh_calm, State.meshRead_calm, calm_mk]

theorem State.eccWrite_calm {a n} (h : s.calm me) : (s.eccWrite a n).calm me := h

theorem State.clearTags_calm {a n} (h : s.calm me) : (s.clearTags a n).calm me := h

theorem State.memWrite_calm {m a d poison} (h : s.calm me) : (s.memWrite m a d poison).calm me := by
  grind [State.memWrite, State.homePushPoison_calm, State.homePush_calm, State.clearTags_calm, State.eccWrite_calm,
    State.meshWrite_calm, calm_mk]

theorem State.dmaRead_calm {m a n} (h : s.calm me) : (s.dmaRead m a n).1.calm me := by
  unfold State.dmaRead
  dsimp only
  split
  · exact h
  · exact foldl_calm_fst (fun _ _ _ hu => State.memRead_calm hu) h

theorem State.dmaWrite_calm {m a d} (h : s.calm me) : (s.dmaWrite m a d).1.calm me := by
  unfold State.dmaWrite
  refine foldl_calm_fst (fun u b p hu => ?_) h
  dsimp only
  split
  · exact hu
  · exact State.memWrite_calm hu

/-! ## The Data Mover and the fault banks' registers (Machine/DataMover.lean) -/

theorem State.modDm_calm {n f} (h : s.calm me) : (s.modDm n f).calm me := h

theorem State.dmLines_calm {n} (h : s.calm me) : (s.dmLines n).calm me := by
  grind [State.dmLines, State.bankLine_calm, State.setLine_calm]

theorem State.dmFinish_calm {n idx code moved crc irq} (h : s.calm me) : (s.dmFinish n idx code moved crc irq).calm me := by
  unfold State.dmFinish
  grind [State.dmaWrite_calm, State.modDm_calm, State.addE_calm, State.dmLines_calm]

theorem State.dmSource_calm {n d off k} (h : s.calm me) : (s.dmSource n d off k).1.calm me := by
  grind [State.dmSource, State.dmaRead_calm]

theorem State.dmMove_calm {n d len} (h : s.calm me) : (s.dmMove n d len).1.calm me := by
  grind [State.dmMove, State.dmSource_calm, State.memWrite_calm, foldl_calm_fst]

theorem State.dmDesc_calm {n idx} (h : s.calm me) : (s.dmDesc n idx).1.calm me := by
  grind [State.dmDesc, State.dmaRead_calm]

theorem State.dmAbortPoint_calm {d} (h : s.calm me) : (s.dmAbortPoint d).1.calm me := h

theorem State.dmAbortOne_calm {n idx} (h : s.calm me) : (s.dmAbortOne n idx).calm me := by
  unfold State.dmAbortOne
  split <;> grind (ematch := 20) [State.dmDesc_calm, State.dmFinish_calm, State.dmAbortPoint_calm, State.dmMove_calm, State.modDm_calm]

theorem State.dmAbortEvery_calm {n} (h : s.calm me) : (s.dmAbortEvery n).calm me := by
  grind [State.dmAbortEvery, State.dmAbortOne_calm, foldl_calm]

theorem State.dmStop_calm {n idx addr word0} (h : s.calm me) : (s.dmStop n idx addr word0).calm me := by
  grind [State.dmStop, State.ledgerEvent_calm, State.modDm_calm, State.dmAbortOne_calm, foldl_calm]

theorem State.dmTailWrite_calm {n v} (h : s.calm me) : (s.dmTailWrite n v).calm me := by
  grind [State.dmTailWrite, State.addE_calm, State.modDm_calm]

theorem State.dmAbortWrite_calm {n i} (h : s.calm me) : (s.dmAbortWrite n i).calm me := by
  grind [State.dmAbortWrite, State.modDm_calm, State.dmAbortOne_calm, State.dmStop_calm]

theorem State.dmCtlWrite_calm {n v} (h : s.calm me) : (s.dmCtlWrite n v).calm me := by
  grind [State.dmCtlWrite, State.dmAbortEvery_calm]

theorem State.dmEnableWrite_calm {n v} (h : s.calm me) : (s.dmEnableWrite n v).calm me := by
  grind [State.dmEnableWrite, State.setE_calm, State.modDm_calm, State.dmAbortEvery_calm]

theorem State.dmRegWrite_calm {n off v t} (h : s.calm me) (e : State.dmRegWrite s n off v = some t) : t.calm me := by
  unfold State.dmRegWrite at e
  grind [State.dmTailWrite_calm, State.dmAbortWrite_calm, State.dmCtlWrite_calm, State.dmLines_calm, State.modDm_calm]

theorem State.fbPop_calm {b v} (h : s.calm me) : (s.fbPop b v).calm me := by
  grind [State.fbPop, State.bankLine_calm, calm_mk]

theorem State.fbWrite_calm {b off v t} (h : s.calm me) (e : State.fbWrite s b off v = some t) : t.calm me := by
  unfold State.fbWrite at e
  grind [State.fbPop_calm, State.bankLine_calm, calm_mk]

theorem State.ledgerTailWrite_calm {v t} (h : s.calm me) (e : State.ledgerTailWrite s v = some t) : t.calm me := by
  grind [State.ledgerTailWrite, State.ledgerLine_calm, calm_mk]

/-! ## The envelope (Machine/Envelope.lean) -/

theorem State.envLine_calm (h : s.calm me) : s.envLine.calm me := by
  grind [State.envLine, State.setLine_calm]

theorem State.violation_calm {k res id} (h : s.calm me) : (s.violation k res id).calm me := by
  grind [State.violation, State.envLine_calm, calm_mk]

theorem State.countWrap_calm {idx sub} (h : s.calm me) : (s.countWrap idx sub).calm me := h

theorem State.modPin_calm {i n f} (h : s.calm me) : (s.modPin i n f).calm me := h

theorem State.pinSafe_calm {i n} (h : s.calm me) : (s.pinSafe i n).calm me := h

theorem State.pinsSafe_calm {i} (h : s.calm me) : (s.pinsSafe i).calm me := by
  grind [State.pinsSafe, State.pinSafe_calm, foldl_calm]

theorem State.clip_calm {i n k} (h : s.calm me) : (s.clip i n k).calm me := by
  grind [State.clip, State.violation_calm, State.countWrap_calm]

theorem State.pwmPeriod_calm {i n} (h : s.calm me) : (s.pwmPeriod i n).calm me := by
  grind [State.pwmPeriod, State.pinSafe_calm, State.clip_calm, State.countWrap_calm, State.modPin_calm]

theorem State.applyPin_calm {i n ctl} (h : s.calm me) : (s.applyPin i n ctl).calm me := by
  grind [State.applyPin, State.clip_calm, State.pinSafe_calm, State.pwmPeriod_calm, State.modPin_calm]

theorem State.envClear_calm {v} (h : s.calm me) : (s.envClear v).calm me := by
  grind [State.envClear, State.envLine_calm, calm_mk]

/-! ## Descriptors of virtual interfaces (Machine/Vi.lean) -/

theorem State.viLine_calm {v} (h : s.calm me) : (s.viLine v).calm me := by
  grind [State.viLine, State.setLine_calm, State.putVi_calm]

theorem State.setViBit_calm {v bitNo md} (h : s.calm me) : (s.setViBit v bitNo md).calm me := by
  grind [State.setViBit, State.viLine_calm, State.putVi_calm]

theorem State.viClear_calm {v val} (h : s.calm me) : (s.viClear v val).calm me := by
  grind [State.viClear, State.viLine_calm, State.putVi_calm]

theorem State.qpStop_calm {v q2 idx addr} (h : s.calm me) : (s.qpStop v q2 idx addr).calm me := by
  grind [State.qpStop, State.setE_calm, State.setViBit_calm, State.record_calm, State.ledgerEvent_calm]

theorem State.descWrite_calm {v q2 idx addr off d} (h : s.calm me) : (s.descWrite v q2 idx addr off d).1.calm me := by
  grind [State.descWrite, State.dmaWrite_calm, State.qpStop_calm]

theorem State.txComplete_calm {v q2 idx code ts} (h : s.calm me) : (s.txComplete v q2 idx code ts).calm me := by
  unfold State.txComplete
  grind [State.descWrite_calm, State.modQp_calm, State.setViBit_calm]

theorem State.txCopyEnd_calm {r code} (h : s.calm me) : (s.txCopyEnd r code).calm me := by
  grind [State.txCopyEnd, State.modQp_calm, State.txComplete_calm]

theorem State.rxComplete_calm {v q2 idx code} (h : s.calm me) : (s.rxComplete v q2 idx code).calm me := by
  grind [State.rxComplete, State.descWrite_calm, State.modQp_calm, State.setViBit_calm]

theorem State.doorbellLost_calm {v} (h : s.calm me) : (s.doorbellLost v).calm me := by
  grind [State.doorbellLost, State.addE_calm, State.setViBit_calm]

theorem State.txTailWrite_calm {v q2 val} (h : s.calm me) : (s.txTailWrite v q2 val).calm me := by
  grind [State.txTailWrite, State.doorbellLost_calm, State.modQp_calm]

theorem State.rxTailWrite_calm {v q2 val} (h : s.calm me) : (s.rxTailWrite v q2 val).calm me := by
  grind [State.rxTailWrite, State.doorbellLost_calm, State.modQp_calm]

/-! ## Bus queues (Machine/Bus.lean) -/

theorem State.modCan_calm {n f} (h : s.calm me) : (s.modCan n f).calm me := h

theorem State.modLin_calm {m f} (h : s.calm me) : (s.modLin m f).calm me := h

theorem State.canDiscard_calm {n txn code} (h : s.calm me) : (s.canDiscard n txn code).calm me := by
  grind [State.canDiscard, State.txCopyEnd_calm, State.addE_calm]

theorem State.canRoute_calm {n f} (h : s.calm me) : (s.canRoute n f).calm me := by
  grind [State.canRoute, State.addE_calm, State.canDiscard_calm, State.modCan_calm]

/-! ## What the DAP agent sends (Machine/DapSend.lean) -/

theorem State.modDap_calm {f} (h : s.calm me) : (s.modDap f).calm me := h

theorem State.seedWrite_calm (h : s.calm me) : s.seedWrite.calm me := by
  grind [State.seedWrite, State.addE_calm]

theorem State.nextFresh_calm {k} (h : s.calm me) : (s.nextFresh k).1.calm me := by
  grind [State.nextFresh, State.modDap_calm, State.seedWrite_calm, calm_mk]

theorem State.dapEmit_calm {tr dst b} (h : s.calm me) : (s.dapEmit tr dst b).calm me := by
  unfold State.dapEmit
  grind [State.modDap_calm, State.canRoute_calm]

theorem State.dapSend_calm {p} (h : s.calm me) : (s.dapSend p).calm me := by
  grind [State.dapSend, State.nextFresh_calm, State.dapEmit_calm]

theorem State.sendBurst_calm {txn k} (h : s.calm me) : (s.sendBurst txn k).calm me := by
  grind [State.sendBurst, State.dapSend_calm, foldl_calm]

theorem State.dapAnswer_calm {p body} (h : s.calm me) : (s.dapAnswer p body).calm me := by
  grind [State.dapAnswer, State.modDap_calm, State.dapSend_calm, State.sendBurst_calm]

theorem State.mailLine_calm (h : s.calm me) : s.mailLine.calm me := by
  grind [State.mailLine, State.setLine_calm]

theorem State.modMail_calm {p f} (h : s.calm me) : (s.modMail p f).calm me := h

theorem State.mailDone_calm {p st} (h : s.calm me) : (s.mailDone p st).calm me := by
  grind [State.mailDone, State.mailLine_calm, State.modMail_calm]

theorem State.winDone_calm {m st} (h : s.calm me) : (s.winDone m st).calm me := by
  grind [State.winDone, State.modMail_calm]

theorem State.dapWritten_calm {p} (h : s.calm me) : (s.dapWritten p).calm me := by
  grind [State.dapWritten, State.pulse_calm, State.setE_calm]

theorem State.complete_calm {a st} (h : s.calm me) : (s.complete a st).calm me := by
  grind [State.complete, State.mailDone_calm, State.winDone_calm, State.dapWritten_calm, State.dapAnswer_calm, calm_mk]

theorem State.completeIf_calm {a st} (h : s.calm me) : (s.completeIf a st).calm me := by
  unfold State.completeIf
  grind [State.complete_calm]

/-! ## The flow engine (Machine/Flow.lean) -/

theorem State.ctxWrite_calm {ix c} (h : s.calm me) : (s.ctxWrite ix c).calm me := by
  grind [State.ctxWrite, State.dmaWrite_calm]

theorem State.flowPut_calm {ix c} (h : s.calm me) : (s.flowPut ix c).calm me := by
  grind [State.flowPut, State.ctxWrite_calm, calm_mk, foldl_calm]

theorem State.flowDel_calm {ix} (h : s.calm me) : (s.flowDel ix).calm me := by
  grind [State.flowDel, State.ctxWrite_calm, calm_mk]

theorem State.countFlow_calm {owner add} (h : s.calm me) : (s.countFlow owner add).calm me := h

theorem State.poisonCtx_calm {ix} (h : s.calm me) : (s.poisonCtx ix).calm me := by
  grind [State.poisonCtx, State.record_calm, State.addE_calm, State.flowDel_calm, State.countFlow_calm]

theorem State.ctxRead_calm {hs bad} (h : s.calm me) : (s.ctxRead hs bad).calm me := by
  grind [State.ctxRead, State.dmaRead_calm, State.poisonCtx_calm, foldl_calm]

theorem State.flowInsert_calm {sl owner key c} (h : s.calm me) : (s.flowInsert sl owner key c).1.calm me := by
  grind [State.flowInsert, State.ctxRead_calm, State.addE_calm, State.countFlow_calm, State.flowPut_calm, State.flowDel_calm]

theorem State.flowAnswer_calm {sl r} (h : s.calm me) : (s.flowAnswer sl r).calm me := by
  grind [State.flowAnswer, State.setE_calm, State.setB_calm, State.setViBit_calm, calm_mk]

theorem State.onHandle_calm {sl h2 f} (h : s.calm me) (hf : ∀ x t, State.calm t me → (f x t).1.calm me) :
    (s.onHandle sl h2 f).calm me := by
  grind [State.onHandle, State.ctxRead_calm, State.flowAnswer_calm]

theorem State.doInsert_calm {sl v key ctx} (h : s.calm me) : (s.doInsert sl v key ctx).calm me := by
  grind [State.doInsert, State.flowInsert_calm, State.flowAnswer_calm]

theorem State.doRemove_calm {sl h2} (h : s.calm me) : (s.doRemove sl h2).calm me := by
  grind [State.doRemove, State.onHandle_calm, State.countFlow_calm, State.flowDel_calm]

theorem State.doRead_calm {sl h2} (h : s.calm me) : (s.doRead sl h2).calm me := by
  grind [State.doRead, State.onHandle_calm, State.flowPut_calm]

theorem State.doFind_calm {sl key} (h : s.calm me) : (s.doFind sl key).calm me := by
  grind [State.doFind, State.ctxRead_calm, State.flowAnswer_calm, State.onHandle_calm, State.flowPut_calm]

theorem State.doUpdate_calm {sl h2 ctx} (h : s.calm me) : (s.doUpdate sl h2 ctx).calm me := by
  grind [State.doUpdate, State.onHandle_calm, State.flowPut_calm]

theorem State.doClear_calm {sl h2} (h : s.calm me) : (s.doClear sl h2).calm me := by
  grind [State.doClear, State.onHandle_calm, State.flowPut_calm]

theorem bulkInsert_calm {v a a2} (h : s.calm me) : (bulkInsert v a a2 s).1.calm me := by
  fun_induction bulkInsert v a a2 s <;> grind [State.flowInsert_calm]

theorem State.doBulk_calm {v recs} (h : s.calm me) : (s.doBulk v recs).calm me := by
  grind [State.doBulk, bulkInsert_calm, State.setE_calm]

/-! ## Gate lists and disabled queue pairs (Machine/Gateway.lean) -/

theorem State.qpSettle_calm (h : s.calm me) : s.qpSettle.calm me := by
  grind [State.qpSettle, State.complete_calm, State.setE_calm, State.modQp_calm, foldl_calm]

theorem State.gclArm_calm {n} (h : s.calm me) : (s.gclArm n).calm me := h

theorem State.sglArm_calm {g} (h : s.calm me) : (s.sglArm g).calm me := h

/-! ## CAN channels (Machine/BusOps.lean) -/

theorem State.pullFrames_calm {v q2 idx} (h : s.calm me) : (s.pullFrames v q2 idx).calm me := h

theorem State.qpDisable_calm {v q2 a} (h : s.calm me) : (s.qpDisable v q2 a).calm me := by
  grind [State.qpDisable, State.modQp_calm, State.txComplete_calm, State.pullFrames_calm, State.qpSettle_calm,
    State.rxComplete_calm, foldl_calm]

theorem State.canState_calm {n st} (h : s.calm me) : (s.canState n st).calm me := by
  grind [State.canState, State.pulse_calm, State.modCan_calm]

theorem State.canFlush_calm {n} (h : s.calm me) : (s.canFlush n).calm me := by
  grind [State.canFlush, State.canDiscard_calm, State.modCan_calm, foldl_calm]

theorem State.canStopNow_calm {n} (h : s.calm me) : (s.canStopNow n).calm me := by
  grind (ematch := 20) [State.canStopNow, State.modCan_calm, State.qpSettle_calm, State.completeIf_calm, State.canFlush_calm,
    State.canState_calm]

theorem State.canStop_calm {n} (h : s.calm me) : (s.canStop n).calm me := by
  grind [State.canStop, State.modCan_calm, State.canStopNow_calm]

theorem State.linStopNow_calm {m} (h : s.calm me) : (s.linStopNow m).calm me := by
  grind [State.linStopNow, State.modLin_calm, State.txCopyEnd_calm, State.qpSettle_calm, State.completeIf_calm, State.pulse_calm,
    foldl_calm]

theorem State.linStop_calm {m} (h : s.calm me) : (s.linStop m).calm me := by
  grind [State.linStop, State.modLin_calm, State.linStopNow_calm]

/-! ## GPIO (Machine/Gpio.lean) -/

theorem State.gpioLine_calm (h : s.calm me) : s.gpioLine.calm me := by
  grind [State.gpioLine, State.setLine_calm]

theorem State.gpioClear_calm {v edges} (h : s.calm me) : (s.gpioClear v edges).calm me := by
  grind [State.gpioClear, State.gpioLine_calm, calm_mk]

theorem State.gpioWrite_calm {off v t} (h : s.calm me) (e : State.gpioWrite s off v = some t) : t.calm me := by
  unfold State.gpioWrite at e
  grind [State.gpioLine_calm, State.gpioClear_calm, calm_mk]

/-! ## The interrupt distributor (Machine/Irq.lean) -/

theorem State.claim_calm {k w} (h : s.calm me) : (s.claim k w).calm me := by
  grind [State.claim, State.setSrc_calm]

theorem State.irqEnd_calm {w id} (h : s.calm me) : (s.irqEnd w id).calm me := by
  grind [State.irqEnd, State.setSrc_calm]

theorem State.ackRead_calm {w offer acc} (h : s.calm me) : (s.ackRead w offer acc).1.calm me := by
  unfold State.ackRead
  grind [State.claim_calm]

theorem State.cfgWrite_calm {m k v t} (h : s.calm me) (e : State.cfgWrite s m k v = some t) : t.calm me := by
  grind [State.cfgWrite, State.putSrc_calm, State.setSrc_calm]

theorem State.stateWrite_calm {m k v t} (h : s.calm me) (e : State.stateWrite s m k v = some t) : t.calm me := by
  grind [State.stateWrite, State.pulse_calm, State.setSrc_calm]

theorem State.injWrite_calm {m p v t} (h : s.calm me) (e : State.injWrite s m p v = some t) : t.calm me := by
  grind [State.injWrite, State.pulse_calm]

theorem State.sgiWrite_calm {m v} (h : s.calm me) : (s.sgiWrite m v).calm me := by
  grind [State.sgiWrite, State.pulse_calm, foldl_calm]

theorem State.irqRegRead_calm {m off acc} (h : s.calm me) : (s.irqRegRead m off acc).1.calm me := by
  unfold State.irqRegRead
  grind (ematch := 30) (splits := 30) (instances := 4000) [State.ackRead_calm]

theorem State.irqRegWrite_calm {m off v mask t} (h : s.calm me) (e : State.irqRegWrite s m off v mask = .ok t) : t.calm me := by
  grind (ematch := 30) (splits := 30) (instances := 4000) [State.irqRegWrite, State.cfgWrite_calm, State.stateWrite_calm,
    State.injWrite_calm, State.irqEnd_calm, State.sgiWrite_calm, calm_mk]

/-! ## Islands (Machine/Island.lean) -/

theorem State.modIsl_calm {i f} (h : s.calm me) : (s.modIsl i f).calm me := h

theorem State.eachTc_calm {i f} (h : s.calm me) : (s.eachTc i f).calm me := h

theorem State.safeNUpdate_calm (h : s.calm me) : s.safeNUpdate.calm me := h

theorem State.setVote_calm {i st} (h : s.calm me) : (s.setVote i st).calm me := by
  grind [State.setVote, State.safeNUpdate_calm, State.pulse_calm, State.modIsl_calm]

theorem State.endClaims_calm {i} (h : s.calm me) : (s.endClaims i).calm me := by
  grind [State.endClaims, State.irqEnd_calm, State.modIsl_calm, foldl_calm]

theorem State.toHeld_calm {i} (h : s.calm me) : (s.toHeld i).calm me := by
  grind (ematch := 20) [State.toHeld, State.pinsSafe_calm, State.modIsl_calm, State.eachTc_calm, State.setVote_calm,
    State.setE_calm, State.endClaims_calm]

theorem State.testsDone_calm {i} (h : s.calm me) : (s.testsDone i).calm me := by
  grind [State.testsDone, State.modIsl_calm]

theorem State.restartHold_calm {i t} (h : s.calm me) (e : State.restartHold s i = some t) : t.calm me := by
  grind [State.restartHold, State.toHeld_calm]

theorem State.releaseIsland_calm {i} (h : s.calm me) : (s.releaseIsland i).calm me := by
  grind [State.releaseIsland, State.eachTc_calm, State.modIsl_calm, State.testsDone_calm, State.setVote_calm]

theorem State.restartRelease_calm {i t} (h : s.calm me) (e : State.restartRelease s i = some t) : t.calm me := by
  grind [State.restartRelease, State.releaseIsland_calm]

theorem State.hsRelease_calm {i v t} (h : s.calm me) (e : State.hsRelease s i v = some t) : t.calm me := by
  grind [State.hsRelease, State.setE_calm, State.applyPin_calm, foldl_calm]

theorem State.spiStart_calm {i k v} (h : s.calm me) : (s.spiStart i k v).calm me := h

theorem State.ring_calm {i d v} (h : s.calm me) : (s.ring i d v).calm me := by
  grind [State.ring, State.pulse_calm]

theorem State.islEnd_calm {i id} (h : s.calm me) : (s.islEnd i id).calm me := by
  grind [State.islEnd, State.modIsl_calm, State.irqEnd_calm]

theorem State.islWrite_calm {i off v mask t} (h : s.calm me) (e : State.islWrite s i off v mask = some t) : t.calm me := by
  grind [State.islWrite, State.applyPin_calm, State.modPin_calm, State.modIsl_calm, State.spiStart_calm, State.islEnd_calm,
    State.ring_calm]

/-! ## Husks (Machine/Husk.lean) -/

theorem State.clearSlot_calm {x c} (h : s.calm me) : (s.clearSlot x c).calm me := by
  grind [State.clearSlot, State.memWrite_calm]

theorem State.huskClaim_calm {m h2} (h : s.calm me) : (s.huskClaim m h2).1.calm me := by
  grind [State.huskClaim, State.huskPut_calm]

theorem State.huskSeal_calm {ix} (h : s.calm me) : (s.huskSeal ix).1.calm me := by
  grind [State.huskSeal, State.huskPut_calm]

theorem State.huskDestroy_calm {ix} (h : s.calm me) : (s.huskDestroy ix).1.calm me := by
  have hmark : ∀ a : ACore, a.calm → (ACore.dropHusk { a with forced := a.forced || a.inHusk == some ix } ix).calm := fun _ ha => ha
  unfold State.huskDestroy
  dsimp only
  split
  · exact State.huskPut_calm h
  · split
    · refine State.huskPut_calm (calm_acores (foldl_calm (fun u c hu => ?_) h) (vmap_calm hmark))
      exact ite_calm (State.clearSlot_calm hu) hu
    · exact h

theorem State.huskControl_calm {m h2 v} (h : s.calm me) : (s.huskControl m h2 v).1.calm me := by
  grind [State.huskControl, State.huskClaim_calm, State.huskSeal_calm, State.huskDestroy_calm]

theorem State.huskWrite_calm {ix f v} (h : s.calm me) : (s.huskWrite ix f v).1.calm me := by
  grind [State.huskWrite, State.huskPut_calm]

/-! ## Store buffers and power domains (Machine/Power.lean) -/

theorem State.storePart_calm {c husk t3 a d} (h : s.calm me) : (s.storePart c husk t3 a d).calm me := by
  grind [State.storePart, State.postedError_calm, State.huskRecord_calm, State.coreWrite_calm, State.memWrite_calm]

theorem State.drainOne_calm {c} (h : s.calm me) : (s.drainOne c).calm me := by
  grind [State.drainOne, State.storePart_calm, calm_vmod, ACore.calm]

theorem State.drainStore_calm {c} (h : s.calm me) : (s.drainStore c).calm me := by
  grind [State.drainStore, State.drainOne_calm, foldl_calm]

theorem State.drainAll_calm {c} (h : s.calm me) : (s.drainAll c).calm me := by
  grind [State.drainAll, State.drainStore_calm, foldl_calm]

theorem State.entReset_calm {p} (h : s.calm me) : (s.entReset p).calm me := h

theorem State.loseMem_calm {lo hi} (h : s.calm me) : (s.loseMem lo hi).calm me := h

theorem State.relines_calm (h : s.calm me) : s.relines.calm me := by
  grind [State.relines, State.gpioLine_calm, State.mailLine_calm, State.ledgerLine_calm, State.envLine_calm, State.bankLine_calm,
    State.viLine_calm, foldl_calm]

theorem State.loseHbm_calm (h : s.calm me) : s.loseHbm.calm me := h

theorem State.loseIsland_calm {i} (h : s.calm me) : (s.loseIsland i).calm me := h

theorem State.lose_calm {d iso} (h : s.calm me) : (s.lose d iso).calm me := by
  unfold State.lose
  dsimp only
  generalize hs : s.entReset _ = s1
  have h1 : s1.calm me := hs ▸ State.entReset_calm h
  clear hs h
  refine ite_calm (calm_vmod h1 fun _ ha => ACore.calm_ite ha ⟨rfl, rfl⟩) (ite_calm (calm_mk (State.modPod_calm h1))
    (ite_calm (State.loseIsland_calm h1)
    (ite_calm (foldl_calm (fun _ _ hu => State.modHome_calm hu) h1) (ite_calm (State.loseHbm_calm h1) ?_))))
  refine ite_calm (calm_mk h1) (ite_calm (calm_mk h1) (ite_calm (calm_mk h1) (ite_calm (calm_mk h1) (ite_calm (calm_mk h1)
    (ite_calm (calm_mk (State.loseMem_calm h1)) (ite_calm ?_ (ite_calm (calm_mk h1) h1)))))))
  exact vmap_calm (f := fun a => { a with posted := [] }) (fun _ ha => ha) me h1

theorem State.modDom_calm {d f} (h : s.calm me) : (s.modDom d f).calm me := h

theorem State.offBegin_calm {d} (h : s.calm me) : (s.offBegin d).calm me := by
  grind [State.offBegin, State.toHeld_calm, State.linStop_calm, State.canStop_calm, foldl_calm]

theorem State.powerOutcome_calm {q1 d o} (h : s.calm me) : (s.powerOutcome q1 d o).calm me := h

theorem State.beginTo_calm {d txn} (h : s.calm me) : (s.beginTo d txn).calm me := by
  grind [State.beginTo, State.modDom_calm, State.offBegin_calm]

theorem State.servePower_calm {a} (h : s.calm me) : (State.servePower a s).calm me := by
  fun_induction State.servePower a s <;> grind [State.complete_calm, State.modDom_calm, State.powerOutcome_calm, State.beginTo_calm,
    calm_mk]

theorem State.powerGo_calm (h : s.calm me) : s.powerGo.calm me := by
  grind [State.powerGo, State.servePower_calm]

theorem State.powerWrite_calm {a d v} (h : s.calm me) : (s.powerWrite a d v).calm me := by
  grind [State.powerWrite, State.powerGo_calm, State.complete_calm, State.powerOutcome_calm, calm_mk]

theorem State.holdWrite_calm {a d v} (h : s.calm me) : (s.holdWrite a d v).calm me := by
  grind [State.holdWrite, State.modDom_calm, State.complete_calm, State.beginTo_calm, State.pulse_calm]

theorem State.pmicSend_calm {b} (h : s.calm me) : (s.pmicSend b).calm me := h

/-! ## Device states and resets (Machine/Device.lean) -/

theorem State.bumpEpoch_calm (h : s.calm me) : s.bumpEpoch.calm me := by
  grind [State.bumpEpoch, State.seedWrite_calm, State.setE_calm]

theorem State.passEnsign_calm {ix node} (h : s.calm me) : (s.passEnsign ix node).calm me := by
  grind [State.passEnsign, State.pulse_calm, State.modDap_calm, State.bumpEpoch_calm]

theorem State.ensignAway_calm (h : s.calm me) : s.ensignAway.calm me := by
  grind [State.ensignAway, State.passEnsign_calm, State.modDap_calm]

theorem State.transitionEnd_calm {from_ to_ res} (h : s.calm me) : (s.transitionEnd from_ to_ res).calm me := by
  grind [State.transitionEnd, State.setE_calm, calm_mk]

theorem State.modHz_calm {f} (h : s.calm me) : (s.modHz f).calm me := h

theorem State.enterBegin_calm {txn} (h : s.calm me) : (s.enterBegin txn).calm me := by
  grind [State.enterBegin, State.pulse_calm, State.modHz_calm]

theorem State.dropAskers_calm (h : s.calm me) : s.dropAskers.calm me := by
  grind [State.dropAskers, State.modDom_calm, calm_mk, foldl_calm]

theorem State.loseAll_calm {ds iso} (h : s.calm me) : (s.loseAll ds iso).calm me := by
  grind [State.loseAll, State.lose_calm, foldl_calm]

theorem State.sleepEntry_calm (h : s.calm me) : s.sleepEntry.calm me :=
  State.transitionEnd_calm (State.pmicSend_calm (State.relines_calm (State.modHz_calm (State.loseAll_calm (State.ensignAway_calm
    (State.dropAskers_calm (foldl_calm (fun _ _ hu => State.toHeld_calm hu) h)))))))

theorem State.bootBegin_calm (h : s.calm me) : s.bootBegin.calm me := h

theorem State.wakeUp_calm (h : s.calm me) : s.wakeUp.calm me := by
  grind [State.wakeUp, State.modHz_calm, State.pmicSend_calm, State.bootBegin_calm, State.setE_calm]

theorem State.wakeEvent_calm {cause} (h : s.calm me) : (s.wakeEvent cause).calm me := by
  grind [State.wakeEvent, State.addE_calm, State.setE_calm, State.wakeUp_calm, State.modHz_calm]

theorem State.deviceReq_calm {v} (h : s.calm me) : (s.deviceReq v).1.calm me := by
  grind [State.deviceReq, State.enterBegin_calm, State.sleepEntry_calm, State.wakeEvent_calm]

theorem State.systemReset_calm {code} (h : s.calm me) : (s.systemReset code).calm me := by
  grind [State.systemReset, State.sleepEntry_calm, State.bootBegin_calm, State.setE_calm, State.modHz_calm]

/-! ## Writes to the dictionary (Machine/Dictionary.lean) -/

theorem State.putEnt_calm {i u v} (h : s.calm me) : (s.putEnt i u v).calm me := by
  unfold State.putEnt
  grind [State.setE_calm, State.setB_calm]

theorem State.flowCommand_calm {sl b} (h : s.calm me) : (s.flowCommand sl b).calm me := by
  grind [State.flowCommand, State.flowAnswer_calm, State.doInsert_calm, State.doRemove_calm, State.doRead_calm, State.doFind_calm,
    State.doUpdate_calm, State.doClear_calm]

theorem State.selfcalStart_calm {n} (h : s.calm me) : (s.selfcalStart n).calm me := by
  grind [State.selfcalStart, State.seedWrite_calm, State.setB_calm, State.setE_calm, calm_mk]

theorem State.claimEnsign_calm {node e2 a} (h : s.calm me) : (s.claimEnsign node e2 a).calm me := h

theorem State.applyLow_calm {a i u n r} (h : s.calm me) (e : State.applyLow s a i u n = some r) : r.1.calm me := by
  have husk : ∀ m ix f, (if f = 2 then s.huskControl m ix n else s.huskWrite ix f n).1.calm me := fun m ix f => by
    split
    · exact State.huskControl_calm h
    · exact State.huskWrite_calm h
  have hrestart : ∀ isl t, (if n = 1 then s.restartHold isl else s.restartRelease isl) = some t → t.calm me := fun isl t ht => by
    split at ht
    · exact State.restartHold_calm h ht
    · exact State.restartRelease_calm h ht
  refine ite_some_calm (some_calm (State.powerWrite_calm h)) (ite_some_calm (some_calm (State.holdWrite_calm h))
    (ite_some_calm (some_calm (State.deviceReq_calm (State.complete_calm h)))
    (ite_some_calm (some_calm (State.systemReset_calm (State.complete_calm h))) (ite_some_calm (some_calm (State.setE_calm h))
    (ite_some_calm (fun r hr => ?_) (ite_some_calm (some_calm (State.setE_calm h))
    (ite_some_calm (some_calm (State.setE_calm (State.setE_calm h)))
    (ite_some_calm (some_calm (getD_calm (fun _ ht => State.hsRelease_calm h ht) h))
    (ite_some_calm (some_calm (getD_calm (hrestart _) h)) fun _ hr => ?_))))))))) r e
  · dsimp only at hr
    split at hr
    · exact some_calm (husk _ _ _) _ hr
    · exact some_calm h _ hr
  · cases hr

theorem State.applyHigh_calm {a i u v r} (h : s.calm me) (e : State.applyHigh s a i u v = some r) : r.1.calm me := by
  refine ite_some_calm (some_calm (ite_calm (State.gclArm_calm h) h)) (ite_some_calm (some_calm (ite_calm (State.sglArm_calm h) h))
    (ite_some_calm (some_calm (State.flowCommand_calm h)) (ite_some_calm (some_calm (State.doBulk_calm h))
    (ite_some_calm (some_calm (State.flowCommand_calm h)) (ite_some_calm (some_calm (State.qpDisable_calm h))
    (ite_some_calm (some_calm (ite_calm (State.modCan_calm h) h)) (ite_some_calm (some_calm (calm_mk h))
    (ite_some_calm (some_calm (State.selfcalStart_calm h))
    (ite_some_calm (some_calm (getD_calm (fun _ ht => State.ledgerTailWrite_calm h ht) h))
    (ite_some_calm (some_calm (State.dmEnableWrite_calm h)) (ite_some_calm (some_calm (State.claimEnsign_calm h))
    fun _ hr => ?_))))))))))) r e
  cases hr

theorem State.applyVol_calm {a key v} (h : s.calm me) : (s.applyVol a key v).calm me := by
  unfold State.applyVol
  extract_lets i u s1
  have h1 : s1.calm me := ite_calm (State.putEnt_calm h) h
  clear_value s1
  have happly : ∀ r, (if i < 0x6000 then s1.applyLow a i u v.num' else s1.applyHigh a i u v) = some r → r.1.calm me :=
    ite_some_calm (fun _ hr => State.applyLow_calm h1 hr) fun _ hr => State.applyHigh_calm h1 hr
  split
  · exact State.complete_calm (happly _ ‹_›)
  · exact happly _ ‹_›
  · exact State.complete_calm (State.putEnt_calm h1)

theorem State.journalWrite_calm {a r key v} (h : s.calm me) : (s.journalWrite a r key v).calm me := by
  grind [State.journalWrite, calm_mk]

theorem State.waitEnt_calm {w} (h : s.calm me) : (s.waitEnt w).calm me := h

theorem State.serveEntWrite_calm {a key w} (h : s.calm me) : (s.serveEntWrite a key w).calm me := by
  grind [State.serveEntWrite, State.complete_calm, State.powerOutcome_calm, State.applyVol_calm, State.journalWrite_calm]

theorem State.dictWrite_calm {a key w} (h : s.calm me) : (s.dictWrite a key w).calm me := by
  grind [State.dictWrite, State.waitEnt_calm, State.serveEntWrite_calm]

theorem State.drawRead_calm {key} (h : s.calm me) : (s.drawRead key).calm me := by
  grind [State.drawRead, calm_mk]

theorem State.dictRead_calm {q1 key} (h : s.calm me) : (s.dictRead q1 key).1.calm me := by
  grind [State.dictRead, State.drawRead_calm]

theorem State.noteWin_calm {m st key write} (h : s.calm me) : (s.noteWin m st key write).calm me := by
  grind [State.noteWin, State.modMail_calm]

theorem State.windowRead_calm {m key} (h : s.calm me) : (s.windowRead m key).1.calm me := by
  grind [State.windowRead, State.dictRead_calm, State.noteWin_calm, calm_mk]

theorem State.windowWrite_calm {m key v} (h : s.calm me) : (s.windowWrite m key v).calm me := by
  grind [State.windowWrite, State.dictWrite_calm, State.noteWin_calm, calm_mk]

theorem State.mailRead_calm {m p} (h : s.calm me) : (s.mailRead m p).calm me := by
  grind [State.mailRead, State.waitEnt_calm, State.modMail_calm, State.dictRead_calm, State.mailDone_calm, calm_mk]

theorem State.mailWrite_calm {m p} (h : s.calm me) : (s.mailWrite m p).calm me := by
  grind [State.mailWrite, State.modMail_calm, State.dictWrite_calm]

theorem State.mailCmd_calm {m p op} (h : s.calm me) : (s.mailCmd m p op).calm me := by
  grind [State.mailCmd, State.mailRead_calm, State.mailWrite_calm]

/-! ## Registers (Machine/Regs.lean) -/

theorem State.mailRegWrite_calm {m p off v mask t} (h : s.calm me) (e : State.mailRegWrite s m p off v mask = some t) : t.calm me := by
  unfold State.mailRegWrite at e
  grind [State.modMail_calm, State.mailCmd_calm, State.mailLine_calm]

theorem State.viRegWrite_calm {v off w mask t} (h : s.calm me) (e : State.viRegWrite s v off w mask = some t) : t.calm me := by
  grind [State.viRegWrite, State.viClear_calm, State.viLine_calm, State.putVi_calm, State.txTailWrite_calm, State.rxTailWrite_calm]

theorem State.envRegWrite_calm {off v mask t} (h : s.calm me) (e : State.envRegWrite s off v mask = some t) : t.calm me := by
  unfold State.envRegWrite at e
  grind [State.envClear_calm, State.envLine_calm, calm_mk]

theorem State.blockRead_calm {x b off} (h : s.calm me) : (s.blockRead x b off).1.calm me := by
  unfold State.blockRead
  dsimp only
  repeat' split
  all_goals grind [State.irqRegRead_calm, State.windowRead_calm, calm_mk]

theorem State.regRead8_calm {x} (h : s.calm me) : (s.regRead8 x).1.calm me := State.blockRead_calm h

theorem State.regRead_calm {x} (h : s.calm me) : (s.regRead x).1.calm me := by
  grind [State.regRead, State.regRead8_calm, State.meshRead_calm]

theorem State.blockWrite_calm {x v mask b off t} (h : s.calm me) (e : State.blockWrite s x v mask b off = .ok t) : t.calm me := by
  unfold State.blockWrite at e
  cases b <;> grind [State.mailRegWrite_calm, State.irqRegWrite_calm, State.fbWrite_calm, State.dmRegWrite_calm,
    State.viRegWrite_calm, State.islWrite_calm, State.envRegWrite_calm, State.gpioWrite_calm, State.windowWrite_calm]

theorem State.regWrite8_calm {x v mask t} (h : s.calm me) (e : State.regWrite8 s x v mask = .ok t) :
    t.calm me := State.blockWrite_calm h e

theorem State.regWrite_calm {x v t} (h : s.calm me) (e : State.regWrite s x v = .ok t) : t.calm me := by
  have hmesh := State.meshWrite_calm (m := x.m) (a := x.addr) (n := x.size) h
  unfold State.regWrite at e
  split at e
  · cases e
  · dsimp only at e
    split at e
    · exact State.regWrite8_calm hmesh e
    · split at e
      · exact State.regWrite8_calm hmesh e
      · split at e
        next t ht =>
          cases e
          exact ite_calm (State.regWrite8_calm hmesh ht) hmesh
        next => cases e

/-! ## Translation (Machine/Translate.lean) -/

theorem State.note_calm {c e2} (h : s.calm me) : (s.note c e2).calm me := by
  grind [State.note, State.modA_calm, ACore.calm]

theorem State.insertFree_calm {α inst n ways l x} (h : s.calm me) : (@State.insertFree α inst s n ways l x).1.calm me := by
  grind [State.insertFree, calm_mk]

theorem State.walkPut_calm {c w} (h : s.calm me) : (s.walkPut c w).calm me := by
  grind [State.walkPut, State.insertFree_calm, State.modA_calm, ACore.calm]

theorem State.tlbPut_calm {c e2} (h : s.calm me) : (s.tlbPut c e2).calm me := by
  grind [State.tlbPut, State.insertFree_calm, State.modA_calm, ACore.calm]

theorem State.walkGo_calm {k stage2 x read flt n base path} (h : s.calm me)
    (hread : ∀ lvl ea t, State.calm t me → (read lvl ea t).1.calm me) : (State.walkGo k stage2 x read flt n base path s).1.calm me := by
  fun_induction State.walkGo k stage2 x read flt n base path s <;> grind

theorem State.walkDone_calm {c l} (h : s.calm me) : (s.walkDone c l).calm me := by
  grind [State.walkDone, State.walkPut_calm, foldl_calm]

theorem State.walkRead_calm {k p t3} (h : s.calm me) : (s.walkRead k p t3).1.calm me := by
  grind [State.walkRead, State.huskRecord_calm, State.homePeek_calm, State.memRead_calm]

theorem State.read2_calm {k ipa lvl ea} (h : s.calm me) : (State.read2 k ipa lvl ea s).1.calm me := by
  grind [State.read2, State.walkRead_calm]

theorem State.walk2_calm {k ipa tbl} (h : s.calm me) : (s.walk2 k ipa tbl).1.calm me := by
  grind [State.walk2, State.walkGo_calm, State.read2_calm]

theorem State.casEntry_calm {c p seen write} (h : s.calm me) : (s.casEntry c p seen write).1.calm me := by
  grind [State.casEntry, State.homeAtomic_calm, State.memRead_calm, State.memWrite_calm]

theorem State.updateAt_calm {k p e3 write} (h : s.calm me) : (s.updateAt k p e3 write).1.calm me := by
  grind [State.updateAt, State.casEntry_calm]

theorem State.tblOnce_calm {k ipa write} (h : s.calm me) : (s.tblOnce k ipa write).1.calm me := by
  grind [State.tblOnce, State.walk2_calm, State.updateAt_calm, State.walkDone_calm, State.tlbPut_calm]

theorem tryWalk_calm {α f n} (h : s.calm me) (hf : ∀ t, State.calm t me → (f t).1.calm me) : (@tryWalk α f n s).1.calm me := by
  fun_induction @tryWalk α f n s <;> grind [calm_mk]

theorem State.tblPage_calm {k ipa write} (h : s.calm me) : (s.tblPage k ipa write).1.calm me := by
  grind [State.tblPage, tryWalk_calm, State.tblOnce_calm]

theorem State.read1_calm {k lvl ea} (h : s.calm me) : (State.read1 k lvl ea s).1.calm me := by
  grind [State.read1, State.tblPage_calm, State.walkRead_calm]

theorem State.walk1_calm {k va} (h : s.calm me) : (s.walk1 k va).1.calm me := by
  grind [State.walk1, State.walkGo_calm, State.read1_calm]

theorem State.stage2_calm {k ipa} (h : s.calm me) : (s.stage2 k ipa).1.calm me := by
  grind [State.stage2, State.walk2_calm]

theorem State.update1_calm {k l} (h : s.calm me) : (s.update1 k l).1.calm me := by
  grind [State.update1, State.tblPage_calm, State.casEntry_calm]

theorem State.tlbServe_calm {k va e3} (h : s.calm me) : (s.tlbServe k va e3).1.calm me := by
  grind [State.tlbServe, State.tlbPut_calm]

theorem State.tlbFill_calm {k e2} (h : s.calm me) : (s.tlbFill k e2).calm me := by
  grind [State.tlbFill, State.tlbPut_calm]

theorem State.directRing0_calm {k va} (h : s.calm me) : (s.directRing0 k va).1.calm me := by
  unfold State.directRing0
  split <;> grind [State.stage2_calm, State.updateAt_calm, State.walkDone_calm]

theorem State.stage2?_calm {k oa} (h : s.calm me) : (s.stage2? k oa).1.calm me := by
  grind [State.stage2?, State.stage2_calm]

theorem State.updateBoth_calm {k l1 l2} (h : s.calm me) : (s.updateBoth k l1 l2).1.calm me := by
  grind [State.updateBoth, State.update1_calm, State.updateAt_calm]

theorem State.walkOnce_calm {k va} (h : s.calm me) : (s.walkOnce k va).1.calm me := by
  unfold State.walkOnce
  dsimp only
  repeat' split
  all_goals grind [State.walk1_calm, State.stage2?_calm, State.updateBoth_calm, State.walkDone_calm, State.tlbFill_calm]

theorem State.walkBoth_calm {k va} (h : s.calm me) : (s.walkBoth k va).1.calm me := by
  grind [State.walkBoth, tryWalk_calm, State.walkOnce_calm]

theorem State.noteTlb_calm {k hits} (h : s.calm me) : (s.noteTlb k hits).calm me := by
  grind [State.noteTlb, State.note_calm]

theorem State.translate_calm {k va} (h : s.calm me) : (s.translate k va).1.calm me := by
  unfold State.translate
  dsimp only
  repeat' split
  all_goals grind [tryWalk_calm, State.directRing0_calm, State.noteTlb_calm, State.walkBoth_calm, State.tlbServe_calm, State.pick_calm]

theorem State.xlate_calm {k va} (h : s.calm me) : (s.xlate k va).1.calm me := by
  grind [State.xlate, State.translate_calm]

/-! ## Loads (Machine/CoreMem.lean) -/

theorem State.typeAt_calm {k va} (h : s.calm me) : (s.typeAt k va).1.calm me := by
  grind [State.typeAt, calm_mk]

theorem State.pagesRule_calm {k rule at_ a} (h : s.calm me) : (State.pagesRule k rule at_ a s).1.calm me := by
  fun_induction State.pagesRule k rule at_ a s <;> grind [State.typeAt_calm]

theorem State.pages_calm {k a} (h : s.calm me) : (State.pages k a s).1.calm me := by
  fun_induction State.pages k a s <;> grind [State.xlate_calm]

theorem State.accsOf_calm {k rule va n} (h : s.calm me) : (s.accsOf k rule va n).1.calm me := by
  grind [State.accsOf, State.pagesRule_calm, State.pages_calm]

theorem State.devWrite_calm {c x b t} (h : s.calm me) (e : State.devWrite s c x b = .ok t) : t.calm me := by
  grind [State.devWrite, State.regWrite_calm, State.coreWrite_calm, State.memWrite_calm]

theorem State.arrive_calm {c p} (h : s.calm me) : (s.arrive c p).calm me := by
  grind [State.arrive, State.devWrite_calm, State.postedError_calm]

theorem State.arriveSome_calm {c must} (h : s.calm me) : (s.arriveSome c must).calm me := by
  refine State.modA_calm (foldl_calm_fst (fun u l p hu => ?_) h) fun _ ha => ha
  dsimp only
  split
  · exact State.arrive_calm hu
  · split
    · exact hu
    · split
      · exact State.arrive_calm hu
      · exact hu

theorem State.arriveAt_calm {c a} (h : s.calm me) : (s.arriveAt c a).calm me := by
  grind [State.arriveAt, State.arriveSome_calm]

theorem State.predPut_calm {c kind addr hist path target taken} (h : s.calm me) :
    (s.predPut c kind addr hist path target taken).calm me := by
  grind [State.predPut, State.insertFree_calm, State.modA_calm, ACore.calm]

theorem State.missFor_calm {c line} (h : s.calm me) : (s.missFor c line).1.calm me := by
  grind [State.missFor, State.note_calm, State.modA_calm, ACore.calm]

theorem State.readAcc_calm {c x ev} (h : s.calm me) : (s.readAcc c x ev).1.calm me := by
  grind [State.readAcc, State.regRead_calm, State.coreLine_calm, State.eccEvent_calm, State.memRead_calm]

theorem State.readAccs_calm {c ev a} (h : s.calm me) : (State.readAccs c ev a s).1.calm me := by
  fun_induction State.readAccs c ev a s <;> grind [State.readAcc_calm]

theorem State.missEach_calm {c a} (h : s.calm me) : (State.missEach c a s).1.calm me := by
  fun_induction State.missEach c a s <;> grind [State.missFor_calm]

theorem State.missAll_calm {c l} (h : s.calm me) : (State.missAll c l s).1.calm me := by
  grind [State.missAll, State.missEach_calm, State.note_calm]

theorem State.depend_calm {c l} (h : s.calm me) : (s.depend c l).calm me := by
  grind [State.depend, State.draw_calm, State.note_calm, State.predPut_calm]

theorem State.readSplit_calm {c ev l} (h : s.calm me) : (s.readSplit c ev l).1.calm me := by
  unfold State.readSplit
  dsimp only
  repeat' split
  all_goals grind [State.readAccs_calm, State.modA_calm, ACore.calm, State.draw_calm]

theorem State.coreLoad_calm {k rule va n ev mr} (h : s.calm me) : (s.coreLoad k rule va n ev mr).1.calm me := by
  unfold State.coreLoad
  dsimp only
  repeat' split
  all_goals grind [State.accsOf_calm, State.arriveAt_calm, State.drainAll_calm, State.modA_calm, ACore.calm, State.note_calm,
    State.depend_calm, State.missAll_calm, State.readSplit_calm, State.readAccs_calm, foldl_calm]
end Sys2Proof.Machine
end

section
/-! What a committed instruction of an A-core changes besides what it computes: INSTRET, CYCLE and the performance counters (R125 to
R128). -/
namespace Sys2Proof.Machine

/-! ## Counting -/

/-- `t` is `v` but for the performance counters of core `c` with their interrupt, and the index of free values; where counting is not
allowed the counters stay. -/
def State.countsOnly (v t : State) (c : Fin 32) (allowed : Bool) : Prop :=
  let a := v.acore.get c
  let b := t.acore.get c
  t = { v with acore := vset v.acore c { a with pmevt := b.pmevt, pmcnt := b.pmcnt }, fresh := t.fresh, irq := t.irq } ∧
  (allowed = false → ∀ n, b.pmcnt.get n = a.pmcnt.get n)

theorem State.countsOnly.refl (v : State) (c : Fin 32) (allowed : Bool) : v.countsOnly v c allowed := by
  refine ⟨?_, fun _ _ => rfl⟩
  rw [vset_self]

theorem State.countsOnly.trans {u v t : State} {c : Fin 32} {allowed : Bool} (huv : u.countsOnly v c allowed)
    (hvt : v.countsOnly t c allowed) : u.countsOnly t c allowed := by
  obtain ⟨hv, hcnt⟩ := huv
  obtain ⟨ht, hcnt'⟩ := hvt
  refine ⟨?_, fun hno n => (hcnt' hno n).trans (hcnt hno n)⟩
  rw [hv] at ht
  simpa using ht

theorem State.countsOnly_fresh (v : State) (c : Fin 32) (allowed : Bool) (n : Nat) :
    v.countsOnly { v with fresh := n } c allowed := by
  refine ⟨?_, fun _ _ => rfl⟩
  rw [vset_self]

theorem State.countsOnly_mispredict (v : State) (c : Fin 32) (allowed : Bool) (evs : List Nat) :
    v.countsOnly (v.mispredict evs).1 c allowed := by
  unfold State.mispredict
  split
  · exact State.countsOnly_fresh v c allowed _
  · exact .refl v c allowed

/-- Where counting is not allowed, no counter counts. -/
theorem CountCtx.counts_of_not_allowed {x : CountCtx} (h : x.allowed = false) (e : Word) : x.counts e = false := by
  simp [CountCtx.counts, h]

theorem State.countsOnly_countIn (v : State) (c : Fin 32) (x : CountCtx) (evs : List Nat) (n : Fin 8) :
    v.countsOnly (State.countIn c x evs v n) c x.allowed := by
  unfold State.countIn
  dsimp only
  split
  · exact .refl v c x.allowed
  next hcounts =>
    have hallowed : x.allowed = true := by
      by_contra hno
      simp [CountCtx.counts_of_not_allowed (Bool.eq_false_iff.mpr hno)] at hcounts
    repeat' split
    all_goals exact ⟨by simp [State.modA, vmod], fun hno => absurd hallowed (by simp [hno])⟩

theorem State.countsOnly_countAll (c : Fin 32) (x : CountCtx) (evs : List Nat) (l : List (Fin 8)) (v : State) :
    v.countsOnly (l.foldl (State.countIn c x evs) v) c x.allowed := by
  induction l generalizing v with
  | nil => exact .refl v c x.allowed
  | cons n r ih => exact (State.countsOnly_countIn v c x evs n).trans (ih _)

theorem State.countsOnly_pmLine (v : State) (c : Fin 32) (allowed : Bool) : v.countsOnly (v.pmLine c) c allowed := by
  unfold State.pmLine
  rw [State.setLine_frame]
  refine ⟨?_, fun _ _ => rfl⟩
  rw [vset_self]

theorem State.countsOnly_count (v : State) (c : Fin 32) (x : CountCtx) (evs : List Nat) :
    v.countsOnly (v.count c x evs) c x.allowed :=
  ((State.countsOnly_mispredict v c x.allowed evs).trans (State.countsOnly_countAll c x _ _ _)).trans
    (State.countsOnly_pmLine _ c x.allowed)

/-! ## Instructions that commit -/

theorem State.haltTry_eq {s : State} {c : Fin 32} (h : (s.acore.get c).haltReq = false) : s.haltTry c = s := by
  simp [State.haltTry, h]

theorem vmod_eq_self {α : Type} {n : Nat} {v : Vector α n} {i : Fin n} {f : α → α} (h : f (v.get i) = v.get i) : vmod v i f = v := by
  rw [vmod, h, vset_self]

theorem State.modA_eq_self {s : State} {c : Fin 32} {f : ACore → ACore} (h : f (s.acore.get c) = s.acore.get c) :
    s.modA c f = s := by
  rw [State.modA, vmod_eq_self h]

theorem State.stepDone_eq {s : State} {c : Fin 32} (h : s.calm c) : s.stepDone c = s := by
  obtain ⟨hhalt, hstep⟩ := h
  have hsame : ∀ a : ACore, a.haltReq = false → a.step1 = false →
      { a with step1 := false, haltReq := a.haltReq || a.step1 } = a := fun a h1 h2 => by
    cases a
    simp_all
  rw [State.stepDone, State.modA_eq_self (hsame _ hhalt hstep), State.haltTry_eq hhalt]

/-- A core after an instruction has committed, before it counts: CYCLE advances by a free number. -/
def ACore.committed (a : ACore) (allowed : Bool) (n : Word) : ACore :=
  { a with instret := if allowed then a.instret + 1 else a.instret, cycle := if allowed then a.cycle + n else a.cycle,
           longOwed := false, evs := [], split := none }

theorem State.countsOnly_commit (v : State) (c : Fin 32) (x : CountCtx) (evs : List Nat) :
    State.countsOnly { v with
      fresh := v.fresh + 1, acore := vmod v.acore c fun a => a.committed x.allowed (Config.freeWord v.fresh) }
      (v.commit c x evs) c x.allowed := State.countsOnly_count _ c x _

theorem ACore.advance_seq (a : ACore) : a.advance .seq = { a with pc := a.seqPc, delay := none } := by
  cases hd : a.delay with
  | none => simp [ACore.advance, ACore.seqPc, hd]
  | some d => simp [ACore.advance, ACore.seqPc, hd]

/-- An instruction of a core that nothing is asked of, which goes on in sequence, commits and nothing follows it. -/
theorem State.aSeq_finishA {u v : State} {c : Fin 32} {x : CountCtx} (evs : List Nat) (hx : x.allowed = u.nonInvasive c)
    (hv : v.calm c) : u.aSeq v (v.finishA c x .seq evs) c ∧ (v.finishA c x .seq evs).held = v.held := by
  obtain ⟨ht, hcnt⟩ := State.countsOnly_commit v c x evs
  rw [vmod_get] at ht hcnt
  rw [vset_vmod] at ht
  have hcore : (v.commit c x evs).acore.get c = { (v.acore.get c).committed x.allowed (Config.freeWord v.fresh) with
      pmevt := ((v.commit c x evs).acore.get c).pmevt, pmcnt := ((v.commit c x evs).acore.get c).pmcnt } := by
    rw [ht]
    simp
  have hcalm : ((v.commit c x evs).modA c fun a => a.advance .seq).calm c := by
    rw [State.calm, State.modA_get, ACore.advance_seq, hcore]
    exact hv
  have hfinish : v.finishA c x .seq evs = (v.commit c x evs).modA c fun a => a.advance .seq := State.stepDone_eq hcalm
  rw [hfinish]
  refine ⟨⟨?_, ?_, ?_⟩, ?_⟩
  · rw [State.modA_get, ACore.advance_seq, hcore, ← hx]
    rfl
  · intro hno
    rw [State.modA_get, ACore.advance_seq]
    rw [hx] at hcnt
    refine ⟨?_, hcnt hno⟩
    dsimp only
    rw [hcore]
    simp [ACore.committed, hx, hno]
  · rw [ht]
    simp [State.modA, vmod]
  · rw [ht]
    rfl

end Sys2Proof.Machine
end

section
/-! What an A-core's memory side does besides instructions (R113 to R124). -/
namespace Sys2Proof.Machine

/-! ## Commands whose requests may have to wait -/

theorem completes_of_served {cmd : Instr} {s : State} {f : State → State} (h : exec cmd s = .next (s.served f)) :
    completes cmd s fun t => t = s.orWaits (f { s with held := false }) := ⟨_, h, rfl⟩

/-- A command whose body changes nothing. -/
theorem exec_of_served_idle {cmd : Instr} {s : State} {f : State → State} (h : exec cmd s = .next (s.served f))
    (hf : f { s with held := false } = { s with held := false }) : exec cmd s = .next s := by
  rw [h, State.served_eq hf rfl]

/-! ## The committed store buffer (R113, R114, R229) -/

/-- What a drain of the store buffer does before the stores on their way arrive. -/
theorem State.drainOne_empty {s : State} {c : Fin 32} (h : (s.acore.get c).sb = []) : s.drainOne c = s := by
  simp [State.drainOne, h]

theorem State.drainOne_done {s : State} {c : Fin 32} {e : StoreEnt} {r : List StoreEnt} (h : (s.acore.get c).sb = e :: r)
    (hp : e.parts = []) : s.drainOne c = { s with acore := vset s.acore c { s.acore.get c with sb := r } } := by
  simp [State.drainOne, h, hp, vmod]

theorem State.drainOne_part {s : State} {c : Fin 32} {e : StoreEnt} {r : List StoreEnt} {p : StorePart} {ps : List StorePart}
    (h : (s.acore.get c).sb = e :: r) (hp : e.parts = p :: ps) :
    s.drainOne c = State.storePart
      { s with acore := vset s.acore c { s.acore.get c with sb := if ps = [] then r else { e with parts := ps } :: r } }
      c e.husk p.type p.addr p.data := by
  simp only [State.drainOne, h, hp, vmod, List.isEmpty_iff]

theorem State.arriveSome_none {s : State} {c : Fin 32} {must : StorePart → Bool} (h : (s.acore.get c).posted = []) :
    s.arriveSome c must = s := by
  have hsame : ∀ a : ACore, a.posted = [] → { a with posted := [] } = a := fun a ha => by
    cases a
    simp_all
  unfold State.arriveSome
  rw [h]
  exact State.modA_eq_self (hsame _ h)

theorem exec_storeBufferDrain (s : State) (c : Fin 32) : exec (.storeBufferDrain c) s =
    .next (s.served fun s => (s.drainOne c).arriveSome c fun _ => false) := rfl

section StorePart
variable {s : State} {c : Fin 32} {husk : Option Nat} {ty : MemType} {a : Nat} {d : List Byte}

theorem State.storePart_error {r : Resp} (h : s.accessErr (.core c) (some ty) a d.length true = some r) :
    s.storePart c husk ty a d = s.postedError (.core c) a r := by
  simp only [State.storePart, h]

theorem State.storePart_husk (h : s.accessErr (.core c) (some ty) a d.length true = none)
    (hh : s.huskRefuses (.core c) husk a = true) :
    s.storePart c husk ty a d = (s.huskRecord (.core c) a).postedError (.core c) a .wlderr := by
  simp only [State.storePart, h, hh, if_true]

theorem State.storePart_hbm (h : s.accessErr (.core c) (some ty) a d.length true = none)
    (hh : s.huskRefuses (.core c) husk a = false) (hr : (s.region a).isHbm = true) :
    s.storePart c husk ty a d = if s.fatalBank (bankSlice (homeIdx (a / 64))) then s.postedError (.core c) a .wlderr
      else s.coreWrite c (a / 64) (a % 64) d ty := by
  simp only [State.storePart, h, hh, hr, if_true, Bool.false_eq_true, if_false]

theorem State.storePart_direct (h : s.accessErr (.core c) (some ty) a d.length true = none)
    (hh : s.huskRefuses (.core c) husk a = false) (hr : (s.region a).direct = true) :
    s.storePart c husk ty a d = s.memWrite (.core c) a d false := by
  have hhbm : (s.region a).isHbm = false := by
    revert hr
    cases s.region a <;> simp [Region.direct, Region.isHbm]
  simp only [State.storePart, h, hh, hhbm, Bool.false_eq_true, if_false]

end StorePart

/-! ## Loads that wait (R115) -/

theorem exec_partialOverlapReissue (s : State) (c : Fin 32) :
    exec (.partialOverlapReissue c) s = .next (s.served fun s => s.reissue c) := rfl

theorem State.reissue_none {s : State} {c : Fin 32} (h : (s.acore.get c).wait = none) : s.reissue c = s := by
  simp [State.reissue, h]

theorem State.aRuns_of_aReady {s : State} {c : Fin 32} (h : s.aReady c) : s.aRuns c = true := by
  obtain ⟨hrun, hdom, hwait, -⟩ := h
  simp [State.aRuns, hrun, hdom, hwait]

theorem State.calm_of_aReady {s : State} {c : Fin 32} (h : s.aReady c) : s.calm c := by
  obtain ⟨-, -, -, -, hhalt, hstep⟩ := h
  exact ⟨hhalt, hstep⟩

section Reissue
variable {s u v : State} {c : Fin 32} {w : IWord} {op : LdOp} {rd r1 : Reg} {imm : BitVec 16}

/-- A waiting load of a core that is ready but for it executes again. -/
theorem State.reissue_load (hw : (s.acore.get c).wait = some w) (hu : u = s.modA c fun a => { a with wait := none })
    (hready : u.aReady c) (hdec : decodeWord w = some (.load op rd r1 imm)) :
    s.reissue c =
      let r := aLoad c w .good (.load op rd r1 imm) u
      r.1.finishA c (u.countCtx c) r.2.1 r.2.2 := by
  have hruns := State.aRuns_of_aReady hready
  obtain ⟨-, -, -, hforced, hhalt, -⟩ := hready
  subst hu
  have hslot : slotForbids (.load op rd r1 imm) = false := rfl
  simp only [State.reissue, hw, State.haltTry_eq hhalt, hforced, hruns, State.aRun, hdec, hslot, Bool.and_false, Bool.not_true,
    Bool.false_eq_true, if_false]

theorem aLoad_value {b : List Byte} {trains : Bool} {ev : ArrayEvent}
    (h : u.coreLoad (u.ctx c .read false) (alignRule (eaI (u.g c r1) imm) (LdOp.size op)) (eaI (u.g c r1) imm) (LdOp.size op) ev true =
      (v, .ok (some (b, trains)))) :
    aLoad c w ev (.load op rd r1 imm) u =
      let v1 := if trains then v.modA c fun a => a.trainStream (eaI (u.g c r1) imm).toNat else v
      (if LdOp.float op then v1.setF c rd (LdOp.value op (ofBytes b)) else v1.setG c rd (LdOp.value op (ofBytes b)), .seq,
        0x05 :: splitEvent (eaI (u.g c r1) imm) (LdOp.size op)) := by
  simp only [aLoad, h]

theorem aLoad_waits {ev : ArrayEvent}
    (h : u.coreLoad (u.ctx c .read false) (alignRule (eaI (u.g c r1) imm) (LdOp.size op)) (eaI (u.g c r1) imm) (LdOp.size op) ev true =
      (v, .ok none)) :
    aLoad c w ev (.load op rd r1 imm) u = (v.modA c fun a => { a with wait := some w }, .stay, []) := by
  simp only [aLoad, h]

theorem aLoad_faults {ev : ArrayEvent} {f : Exn}
    (h : u.coreLoad (u.ctx c .read false) (alignRule (eaI (u.g c r1) imm) (LdOp.size op)) (eaI (u.g c r1) imm) (LdOp.size op) ev true =
      (v, .error f)) :
    aLoad c w ev (.load op rd r1 imm) u = (v, .exn f, []) := by
  simp only [aLoad, h]

theorem State.setG_calm {me : Fin 32} {x : Word} (h : s.calm me) : (s.setG c rd x).calm me := by
  unfold State.setG
  split
  · exact h
  · refine State.modA_calm h fun a ha => ?_
    split <;> exact ha

theorem State.setF_calm {me : Fin 32} {x : Word} (h : s.calm me) : (s.setF c rd x).calm me := State.modA_calm h fun _ ha => ha

theorem State.setG_held (x : Word) : (s.setG c rd x).held = s.held := by
  unfold State.setG
  split <;> rfl

theorem ACore.trainStream_calm {a : ACore} {va : Nat} (h : a.calm) : (a.trainStream va).calm := by
  unfold ACore.trainStream
  split <;> exact h

/-- What a load leaves after it has written its register. -/
def State.loaded (v : State) (c : Fin 32) (op : LdOp) (rd : Reg) (va : Word) (b : List Byte) (trains : Bool) : State :=
  let v1 := if trains then v.modA c fun a => a.trainStream va.toNat else v
  if LdOp.float op then v1.setF c rd (LdOp.value op (ofBytes b)) else v1.setG c rd (LdOp.value op (ofBytes b))

theorem State.loaded_calm {va : Word} {b : List Byte} {trains : Bool} (h : v.calm c) : (v.loaded c op rd va b trains).calm c := by
  have htrained : (if trains then v.modA c fun a => a.trainStream va.toNat else v).calm c :=
    ite_calm (State.modA_calm h fun _ => ACore.trainStream_calm) h
  exact ite_calm (State.setF_calm htrained) (State.setG_calm htrained)

theorem State.loaded_held {va : Word} {b : List Byte} {trains : Bool} : (v.loaded c op rd va b trains).held = v.held := by
  unfold State.loaded
  cases trains <;> cases LdOp.float op <;> simp [State.setG_held, State.setF]

/-- An instruction that commits, in a command that did not have to wait. -/
theorem State.aSeq_orWaits {t : State} (h : u.aSeq v t c) (ht : t.held = false) : u.aSeq v (s.orWaits t) c := by
  obtain ⟨hcore, hcnt, hframe⟩ := h
  have horw : s.orWaits t = { t with held := s.held } := by simp [State.orWaits, ht]
  rw [horw]
  refine ⟨hcore, hcnt, ?_⟩
  exact congrArg (State.withHeld · s.held) hframe

end Reissue

/-! ## Miss registers (R122) -/

theorem mem_setIns {n x : Nat} {l : List Nat} : x ∈ setIns n l ↔ x = n ∨ x ∈ l := by
  induction l with
  | nil => simp [setIns]
  | cons k r ih => grind [setIns]

/-- A core whose L1D takes a line, in the place of another where one is named. -/
def ACore.l1Takes (a : ACore) (line : Nat) (out : Option Nat) : ACore :=
  { a with crc := a.crc.filter (· ≠ (false, line)), l1d := setIns line (match out with
      | some x => setPut x false a.l1d
      | none => a.l1d) }

theorem State.l1Fill_eq (s : State) (c : Fin 32) (line : Nat) :
    let l := (s.acore.get c).l1d
    s.l1Fill c line = if l.contains line then s
      else if l.length < l1Lines then s.modA c fun a => a.l1Takes line none
      else State.modA { s with fresh := s.fresh + 1 } c fun a => a.l1Takes line l[Config.freeNat s.fresh % l.length]? := by
  unfold State.l1Fill
  dsimp only
  split
  · rfl
  · split <;> rfl

/-- A core's L1D gains a line: it takes at most one line's place, and no CRC mismatch is added. -/
def ACore.gains (a b : ACore) (line : Nat) : Prop :=
  line ∈ b.l1d ∧ (∀ x ∈ b.l1d, x = line ∨ x ∈ a.l1d) ∧ (∃ y, ∀ x ∈ a.l1d, x ∈ b.l1d ∨ x = y) ∧ ∀ x ∈ b.crc, x ∈ a.crc

theorem ACore.gains_l1Takes (a : ACore) (line : Nat) (out : Option Nat) : a.gains (a.l1Takes line out) line := by
  have hfilled : ∀ (l : List Nat) (y : Nat), (∀ x ∈ l, x ∈ a.l1d) → (∀ x ∈ a.l1d, x ∈ l ∨ x = y) →
      a.gains { a with crc := a.crc.filter (· ≠ (false, line)), l1d := setIns line l } line := fun l y hsub hlost =>
    ⟨mem_setIns.mpr (.inl rfl), fun x hx => (mem_setIns.mp hx).imp id (hsub x),
      ⟨y, fun x hx => (hlost x hx).imp (fun h => mem_setIns.mpr (.inr h)) id⟩, fun x hx => List.mem_of_mem_filter hx⟩
  cases out with
  | none => exact hfilled _ 0 (fun _ hx => hx) fun _ hx => .inl hx
  | some y =>
    refine hfilled _ y (fun x hx => List.mem_of_mem_filter hx) fun x hx => ?_
    by_cases hxy : x = y
    · exact .inr hxy
    · exact .inl (List.mem_filter.mpr ⟨hx, by simpa using hxy⟩)

theorem State.l1Fill_gains (s : State) (c : Fin 32) (line : Nat) : (s.acore.get c).gains ((s.l1Fill c line).acore.get c) line := by
  rw [State.l1Fill_eq]
  split
  next hin => exact ⟨by simpa using hin, fun x hx => .inr hx, ⟨0, fun x hx => .inl hx⟩, fun _ hx => hx⟩
  next =>
    split <;> rw [State.modA_get]
    · exact ACore.gains_l1Takes _ line none
    · exact ACore.gains_l1Takes _ line _

theorem State.l1Fill_frame (s : State) (c : Fin 32) (line : Nat) : s.l1Fill c line =
    { s with fresh := (s.l1Fill c line).fresh, acore := vset s.acore c { s.acore.get c with
      l1d := ((s.l1Fill c line).acore.get c).l1d, crc := ((s.l1Fill c line).acore.get c).crc } } := by
  rw [State.l1Fill_eq]
  split
  · rw [vset_self]
  · split <;> simp [State.modA, vmod, ACore.l1Takes]

theorem State.l1Fill_withHeld (s : State) (b : Bool) (c : Fin 32) (line : Nat) :
    (s.withHeld b).l1Fill c line = (s.l1Fill c line).withHeld b := by
  rw [State.l1Fill_eq, State.l1Fill_eq]
  simp only [State.withHeld_ite]
  rfl

/-- A miss register that frees, its line entering the L1D where the pod's L2 holds it. -/
def State.missFilled (s : State) (c : Fin 32) (line : Nat) : State :=
  (if (s.l2? (podOf c) line).isSome then s.l1Fill c line else s).modA c fun a => { a with miss := a.miss.filter (·.line != line) }

theorem exec_l1dMissFill (s : State) (c : Fin 32) (pa : PA) : exec (.l1dMissFill c pa) s = .next (s.served fun s =>
    if (s.acore.get c).miss.any (·.line == pa.toNat / 64) then (s.missFilled c (pa.toNat / 64)).reissue c else s) := rfl

theorem State.missFilled_withHeld (s : State) (b : Bool) (c : Fin 32) (line : Nat) :
    (s.withHeld b).missFilled c line = (s.missFilled c line).withHeld b := by
  have hl2 : (s.withHeld b).l2? (podOf c) line = s.l2? (podOf c) line := rfl
  unfold State.missFilled
  rw [hl2]
  split
  · rw [State.l1Fill_withHeld]
    rfl
  · rfl

theorem State.missFilled_frame (s : State) (c : Fin 32) (line : Nat) :
    let b := (s.missFilled c line).acore.get c
    s.missFilled c line = { s with fresh := (s.missFilled c line).fresh, acore := vset s.acore c { s.acore.get c with
      miss := (s.acore.get c).miss.filter (·.line != line), l1d := b.l1d, crc := b.crc } } := by
  unfold State.missFilled
  dsimp only
  split
  · rw [State.l1Fill_frame]
    simp [State.modA, vmod]
  · simp [State.modA, vmod]

/-- Where the pod's L2 holds the line it enters the L1D; elsewhere the L1D is not changed. -/
theorem State.missFilled_l1d (s : State) (c : Fin 32) (line : Nat) :
    let a := s.acore.get c
    let b := (s.missFilled c line).acore.get c
    if (s.l2? (podOf c) line).isSome then a.gains b line else b.l1d = a.l1d ∧ b.crc = a.crc := by
  unfold State.missFilled
  dsimp only
  split
  · rw [State.modA_get]
    exact State.l1Fill_gains s c line
  · rw [State.modA_get]
    exact ⟨rfl, rfl⟩

theorem exec_l1dMissFill_none {s : State} {c : Fin 32} {pa : PA} (h : ∀ m ∈ (s.acore.get c).miss, m.line ≠ pa.toNat / 64) :
    exec (.l1dMissFill c pa) s = .next s := by
  refine exec_of_served_idle (exec_l1dMissFill s c pa) (if_neg ?_)
  simpa using h

theorem exec_l1dMissFill_some {s : State} {c : Fin 32} {pa : PA} (h : ∃ m ∈ (s.acore.get c).miss, m.line = pa.toNat / 64)
    (hw : (s.acore.get c).wait = none) : exec (.l1dMissFill c pa) s = .next (s.missFilled c (pa.toNat / 64)) := by
  have hframe := State.missFilled_frame s c (pa.toNat / 64)
  have hwait : ((s.missFilled c (pa.toNat / 64)).acore.get c).wait = none := by
    rw [hframe]
    simpa using hw
  rw [exec_l1dMissFill, State.served_eq (t := s.missFilled c (pa.toNat / 64)) ?_ (by rw [hframe])]
  rw [if_pos (by simpa using h)]
  refine (congrArg (State.reissue · c) (State.missFilled_withHeld s false c _)).trans (State.reissue_none ?_)
  exact hwait

/-! ## The prefetcher (R124) -/

/-- The prefetcher of a core is off, or has no miss register to take. -/
def State.prefetchOff (s : State) (c : Fin 32) : Prop :=
  let a := s.acore.get c
  s.ev (0x4300 + c.val / 4) 3 ≠ 1 ∨ s.ev (0x4300 + c.val / 4) 4 ≤ a.prefetches ∨ 48 ≤ a.miss.length

/-- A prefetch of the line at a translated address is not made. -/
def State.prefetchRefused (s : State) (c : Fin 32) (va : Word) (x : Xlat) : Prop :=
  let a := s.acore.get c
  (x.type ≠ .wb ∧ x.type ≠ .wbNwa) ∨ (s.region x.pa).isHbm = false ∨ x.pa / 64 ∈ a.l1d ∨
    (∃ m ∈ a.miss, m.line = x.pa / 64) ∨ s.coreErr c ⟨x.pa, x.type, va, 1⟩ false ≠ none

/-- What a prefetch that is made does. -/
def State.prefetched (s : State) (c : Fin 32) (x : Xlat) : State :=
  (s.coreLine c (x.pa / 64) x.type .good).1.modA c fun b => { b with miss := b.miss ++ [⟨x.pa / 64, 0⟩] }

theorem State.prefetchOff_iff (s : State) (c : Fin 32) : s.prefetchOff c ↔
    ¬ (s.ev (0x4300 + c.val / 4) 3 = 1 ∧ (s.acore.get c).prefetches < s.ev (0x4300 + c.val / 4) 4 ∧
      (s.acore.get c).miss.length < 48) := by
  unfold State.prefetchOff
  grind

open Classical in
/-- The conditions of a prefetch in their order. -/
theorem exec_prefetchIssue (s : State) (c : Fin 32) (va : Word) : exec (.prefetchIssue c va) s = .next (s.served fun s =>
    if s.aRuns c = false ∨ s.prefetchOff c ∨ (s.acore.get c).onStream va.toNat = false then s
    else match s.prefetchXlat c va with
      | none => s
      | some x => if s.prefetchRefused c va x then s else s.prefetched c x) := by
  refine congrArg (fun f => Host.Outcome.next (s.served f)) (funext fun u => ?_)
  refine if_congr ?_ rfl ?_
  · rw [State.prefetchOff_iff]
    simp only [Bool.not_eq_true', Bool.and_eq_false_iff, beq_eq_false_iff_ne, decide_eq_false_iff_not]
    tauto
  · cases u.prefetchXlat c va with
    | none => rfl
    | some x =>
      refine if_congr ?_ rfl rfl
      simp [State.prefetchRefused, Option.isSome_iff_ne_none, or_assoc]

/-! ## The statement -/

theorem completes_storeBufferDrain (s : State) (c : Fin 32) :
    let a := s.acore.get c
    let u : State := { s with held := false }
    let rest (v : State) : State := v.arriveSome c fun _ => false
    (a.sb = [] → a.posted = [] → exec (.storeBufferDrain c) s = .next s) ∧
    (a.sb = [] → completes (.storeBufferDrain c) s fun t => t = s.orWaits (rest u)) ∧
    ∀ (e : StoreEnt) r, a.sb = e :: r →
      (e.parts = [] → completes (.storeBufferDrain c) s fun t =>
        t = s.orWaits (rest { u with acore := vset s.acore c { a with sb := r } })) ∧
      ∀ p ps, e.parts = p :: ps → completes (.storeBufferDrain c) s fun t =>
        let x : State := { u with acore := vset s.acore c { a with sb := if ps = [] then r else { e with parts := ps } :: r } }
        t = s.orWaits (rest (x.storePart c e.husk p.type p.addr p.data)) := by
  have hdrain : ∀ x, State.drainOne { s with held := false } c = x →
      completes (.storeBufferDrain c) s fun t => t = s.orWaits (x.arriveSome c fun _ => false) := fun x hx => by
    subst hx
    exact completes_of_served (exec_storeBufferDrain s c)
  refine ⟨fun hsb hposted => exec_of_served_idle (exec_storeBufferDrain s c) ?_, fun hsb => hdrain _ (State.drainOne_empty hsb),
    fun e r hsb => ⟨fun hp => hdrain _ (State.drainOne_done hsb hp), fun p ps hp => hdrain _ (State.drainOne_part hsb hp)⟩⟩
  rw [State.drainOne_empty (s := { s with held := false }) hsb, State.arriveSome_none (s := { s with held := false }) hposted]

theorem State.storePart_cases {s : State} (hs : s.canon) (c : Fin 32) (husk : Option Nat) (ty : MemType) (a : Nat) (d : List Byte) :
    let t := s.storePart c husk ty a d
    (∀ r, s.accessErr (.core c) (some ty) a d.length true = some r → t = s.postedError (.core c) a r) ∧
    (s.accessErr (.core c) (some ty) a d.length true = none →
      (s.huskRefuses (.core c) husk a = true → t = (s.huskRecord (.core c) a).postedError (.core c) a .wlderr) ∧
      (s.huskRefuses (.core c) husk a = false →
        ((s.region a).isHbm = true →
          (s.fatalBank (bankSlice (homeIdx (a / 64))) = true → t = s.postedError (.core c) a .wlderr) ∧
          (s.fatalBank (bankSlice (homeIdx (a / 64))) = false → t = s.coreWrite c (a / 64) (a % 64) d ty)) ∧
        ((∃ i k b o, s.region a = .tcm i k b o) ∨ (∃ i o, s.region a = .shared i o) ∨ s.region a = .secSram →
          t = { s with mem := t.mem, tags := t.tags, ecc := t.ecc, sent := t.sent } ∧
          (∀ x, x < a ∨ a + d.length ≤ x → Memory.get t.mem x = Memory.get s.mem x) ∧
          (∀ j, j < d.length → Memory.get t.mem (a + j) = d.getD j 0) ∧
          ∀ g ∈ t.tags, g ∈ s.tags ∧ (g + 16 ≤ a ∨ a + d.length ≤ g)))) := by
  refine ⟨fun r => State.storePart_error, fun hok => ⟨State.storePart_husk hok, fun hhusk => ⟨fun hhbm => ?_, fun hregion => ?_⟩⟩⟩
  · rw [State.storePart_hbm hok hhusk hhbm]
    exact ⟨fun hf => if_pos hf, fun hf => if_neg (by simp [hf])⟩
  · have hdirect := (Region.direct_iff _).mpr hregion
    rw [State.storePart_direct hok hhusk hdirect]
    obtain ⟨hframe, hout, hin, htags⟩ := State.memWrite_direct_effect hs (m := .core c) (d := d) hdirect
    exact ⟨hframe, hout, hin, fun g => (htags g).mp⟩

theorem completes_reissue {s u : State} (v : State) {c : Fin 32} {w : IWord} {op : LdOp} {rd r1 : Reg} {imm : BitVec 16}
    (hw : (s.acore.get c).wait = some w) (hu : u = State.modA { s with held := false } c fun a => { a with wait := none })
    (hready : u.aReady c) (hdec : decodeWord w = some (.load op rd r1 imm)) :
    let va := u.g c r1 + imm.signExtend 64
    let n := LdOp.size op
    let cmd : Instr := .partialOverlapReissue c
    (∀ b trains, u.coreLoad (u.ctx c .read false) (alignRule va n) va n .good true = (v, .ok (some (b, trains))) → v.held = false →
      completes cmd s fun t => u.aSeq (v.loaded c op rd va b trains) t c) ∧
    (u.coreLoad (u.ctx c .read false) (alignRule va n) va n .good true = (v, .ok none) →
      completes cmd s fun t => t = s.orWaits ((v.modA c fun a => { a with wait := some w }).haltTry c)) ∧
    (∀ f, u.coreLoad (u.ctx c .read false) (alignRule va n) va n .good true = (v, .error f) →
      completes cmd s fun t => t = s.orWaits ((v.raise c f).stepDone c)) := by
  have hexec : exec (.partialOverlapReissue c) s = .next (s.orWaits
      (let r := aLoad c w .good (.load op rd r1 imm) u
       r.1.finishA c (u.countCtx c) r.2.1 r.2.2)) := by
    rw [exec_partialOverlapReissue, State.served_eq_orWaits, State.reissue_load (s := { s with held := false }) hw hu hready hdec]
  refine ⟨fun b trains hload hheld => ?_, fun hload => ?_, fun f hload => ?_⟩
  · have hcalm : v.calm c := by
      have h := State.coreLoad_calm (k := u.ctx c .read false) (rule := alignRule (u.g c r1 + imm.signExtend 64) (LdOp.size op))
        (va := u.g c r1 + imm.signExtend 64) (n := LdOp.size op) (ev := .good) (mr := true) (State.calm_of_aReady hready)
      rwa [hload] at h
    rw [aLoad_value hload] at hexec
    obtain ⟨hseq, hsame⟩ := State.aSeq_finishA (u := u) (x := u.countCtx c) (0x05 :: splitEvent (eaI (u.g c r1) imm) (LdOp.size op)) rfl
      (State.loaded_calm (op := op) (rd := rd) (va := u.g c r1 + imm.signExtend 64) (b := b) (trains := trains) hcalm)
    exact ⟨_, hexec, State.aSeq_orWaits hseq (hsame.trans (State.loaded_held.trans hheld))⟩
  · rw [aLoad_waits hload] at hexec
    exact ⟨_, hexec, rfl⟩
  · rw [aLoad_faults hload] at hexec
    exact ⟨_, hexec, rfl⟩

theorem completes_l1dMissFill (s : State) (c : Fin 32) (pa : PA) :
    let line := pa.toNat / 64
    let a := s.acore.get c
    ((∀ m ∈ a.miss, m.line ≠ line) → exec (.l1dMissFill c pa) s = .next s) ∧
    ((∃ m ∈ a.miss, m.line = line) → a.wait = none → completes (.l1dMissFill c pa) s fun t =>
      let b := t.acore.get c
      t = { s with
        acore := vset s.acore c { a with miss := a.miss.filter (·.line != line), l1d := b.l1d, crc := b.crc }, fresh := t.fresh } ∧
      (∀ x ∈ b.crc, x ∈ a.crc) ∧
      (if (s.l2? (podOf c) line).isSome then line ∈ b.l1d ∧ (∀ x ∈ b.l1d, x = line ∨ x ∈ a.l1d) ∧
          ∃ y, ∀ x ∈ a.l1d, x ∈ b.l1d ∨ x = y
        else b.l1d = a.l1d ∧ b.crc = a.crc)) := by
  refine ⟨exec_l1dMissFill_none, fun hmiss hwait => ⟨_, exec_l1dMissFill_some hmiss hwait, State.missFilled_frame s c _, ?_⟩⟩
  have hl1d := State.missFilled_l1d s c (pa.toNat / 64)
  dsimp only at hl1d ⊢
  split at hl1d
  next hl2 =>
    obtain ⟨hin, hsub, hlost, hcrc⟩ := hl1d
    rw [if_pos hl2]
    exact ⟨hcrc, hin, hsub, hlost⟩
  next hl2 =>
    rw [if_neg hl2]
    exact ⟨fun x hx => hl1d.2 ▸ hx, hl1d⟩

theorem completes_prefetchIssue (s : State) (c : Fin 32) (va : Word) :
    let u : State := { s with held := false }
    ((s.aRuns c = false ∨ s.prefetchOff c ∨ (s.acore.get c).onStream va.toNat = false ∨ u.prefetchXlat c va = none) →
      exec (.prefetchIssue c va) s = .next s) ∧
    ∀ x, u.prefetchXlat c va = some x →
      (s.prefetchRefused c va x → exec (.prefetchIssue c va) s = .next s) ∧
      (¬ s.prefetchRefused c va x → s.aRuns c = true → ¬ s.prefetchOff c → (s.acore.get c).onStream va.toNat = true →
        completes (.prefetchIssue c va) s fun t => t = s.orWaits (u.prefetched c x)) := by
  have hexec := exec_prefetchIssue s c va
  refine ⟨fun hno => exec_of_served_idle hexec ?_, fun x hx => ⟨fun hrefused => exec_of_served_idle hexec ?_,
    fun hmade hruns hon hstream => ?_⟩⟩
  · split
    · rfl
    next hgo =>
      obtain hr | ho | hs | hnone := hno
      · exact absurd (.inl hr) hgo
      · exact absurd (.inr (.inl ho)) hgo
      · exact absurd (.inr (.inr hs)) hgo
      · rw [hnone]
  · split
    · rfl
    · rw [hx]
      exact if_pos hrefused
  · have hgo : ¬ (s.aRuns c = false ∨ s.prefetchOff c ∨ (s.acore.get c).onStream va.toNat = false) := by
      simp [hruns, hon, hstream]
    refine ⟨_, hexec, congrArg s.orWaits ((if_neg hgo).trans ?_)⟩
    rw [hx]
    exact if_neg hmade

/-- Settles O37, one lemma for each command and for the parts of a store. That a load which completes is not followed by a debug halt
rests on `State.coreLoad_calm`: no access of a load asks its core for one. -/
theorem coreMemoryEvents : Obligations.CoreMemoryEvents := by
  unfold Obligations.CoreMemoryEvents
  exact ⟨completes_storeBufferDrain, fun s c husk ty a d hs => State.storePart_cases hs c husk ty a d,
    fun s c hw => exec_of_served_idle (exec_partialOverlapReissue s c) (State.reissue_none hw),
    fun s u v c w op rd r1 imm hw hu hready hdec => completes_reissue v hw hu hready hdec, completes_l1dMissFill,
    completes_prefetchIssue⟩

end Sys2Proof.Machine
end

section
/-! Fields of an instruction word, and words put together from fields (Tables 2.3 to 2.11). -/
namespace Sys2Proof

/-! ## Reading the fields of a word -/

theorem fld_eq (w : IWord) (lo n : Nat) : fld w lo n = w.toNat / 2 ^ lo % 2 ^ n := by
  rw [fld, Nat.shiftRight_eq_div_pow]

theorem fld_lt (w : IWord) (lo n : Nat) : fld w lo n < 2 ^ n := Nat.mod_lt _ (Nat.two_pow_pos n)

/-- A field is two fields side by side. -/
theorem fld_add (w : IWord) (lo m n k : Nat) (hk : lo + m = k) : fld w lo (m + n) = fld w k n * 2 ^ m + fld w lo m := by
  rw [fld_eq, fld_eq, fld_eq, ← hk, Nat.pow_add, Nat.mod_mul, Nat.pow_add, Nat.div_div_eq_div_mul]
  ring

theorem getLsbD_toNat (w : IWord) (k : Nat) : (w.getLsbD k).toNat = fld w k 1 := by
  rw [fld_eq, BitVec.getLsbD, Nat.toNat_testBit, Nat.pow_one]

theorem regF_val (w : IWord) (lo : Nat) : (regF w lo).val = fld w lo 5 := rfl

theorem extract_toNat (w : IWord) (n : Nat) : (w.extractLsb' 0 n).toNat = fld w 0 n := by
  simp [fld]

theorem regF_eq {w : IWord} {lo : Nat} {r : Reg} (h : fld w lo 5 = r) : regF w lo = r := Fin.ext h

theorem capF_eq {w : IWord} {lo : Nat} {c : Fin 16} (h : fld w lo 5 = c) : capF w lo = some c := by
  simp [capF, h]

theorem capF_some {w : IWord} {lo : Nat} {c : Fin 16} (h : capF w lo = some c) : c.val = fld w lo 5 := by
  unfold capF at h
  split at h
  · rw [← Option.some.inj h]
  · cases h

theorem toNat_bool_inj : ∀ {a b : Bool}, a.toNat = b.toNat → a = b := by decide

theorem getLsbD_eq {w : IWord} {k : Nat} {b : Bool} (h : fld w k 1 = b.toNat) : w.getLsbD k = b :=
  toNat_bool_inj ((getLsbD_toNat w k).trans h)

theorem extract_eq {w : IWord} {n : Nat} {x : BitVec n} (h : fld w 0 n = x.toNat) : w.extractLsb' 0 n = x :=
  BitVec.eq_of_toNat_eq ((extract_toNat w n).trans h)

/-- A field that lies within the low bits. -/
theorem fld_low (w : IWord) {lo n m : Nat} (h : lo + n ≤ m) : fld w lo n = fld w 0 m / 2 ^ lo % 2 ^ n := by
  obtain ⟨k, rfl⟩ := Nat.exists_eq_add_of_le h
  rw [fld_eq, fld_eq, Nat.pow_zero, Nat.div_one, Nat.add_assoc, Nat.pow_add, Nat.mod_mul_right_div_self,
    Nat.mod_mod_of_dvd _ (Nat.pow_dvd_pow 2 (Nat.le_add_right n k))]

/-! ## Words put together from fields -/

theorem encR_fields (w : IWord) :
    encR (fld w 26 6) (fld w 21 5) (fld w 16 5) (fld w 11 5) (fld w 0 11) = w := by
  apply BitVec.eq_of_toNat_eq
  have hw := w.isLt
  simp only [encR, BitVec.toNat_ofNat, fld_eq]
  omega

theorem encI_fields (w : IWord) : encI (fld w 26 6) (fld w 21 5) (fld w 16 5) (fld w 0 16) = w := by
  apply BitVec.eq_of_toNat_eq
  have hw := w.isLt
  simp only [encI, BitVec.toNat_ofNat, fld_eq]
  omega

theorem fld_ofNat {N : Nat} (h : N < 2 ^ 32) (lo n : Nat) : fld (BitVec.ofNat 32 N) lo n = N / 2 ^ lo % 2 ^ n := by
  rw [fld_eq, BitVec.toNat_ofNat, Nat.mod_eq_of_lt h]

section
variable {op rd r1 r2 fn imm : Nat}

/-- The fields of a word of the R format; those of its function field are fields of the number. -/
theorem fld_encR (hop : op < 64) (hrd : rd < 32) (h1 : r1 < 32) (h2 : r2 < 32) (hfn : fn < 2048) :
    let w := encR op rd r1 r2 fn
    fld w 26 6 = op ∧ fld w 21 5 = rd ∧ fld w 16 5 = r1 ∧ fld w 11 5 = r2 ∧ fld w 0 11 = fn := by
  simp only [encR, BitVec.toNat_ofNat, fld_eq]
  omega

/-- The fields of a word of the I format. -/
theorem fld_encI (hop : op < 64) (hrd : rd < 32) (h1 : r1 < 32) (himm : imm < 65536) :
    let w := encI op rd r1 imm
    fld w 26 6 = op ∧ fld w 21 5 = rd ∧ fld w 16 5 = r1 ∧ fld w 0 16 = imm := by
  simp only [encI, BitVec.toNat_ofNat, fld_eq]
  omega

end
/-! ## Tables of function values -/

theorem mem_of_look {α : Type} {tab : List (Nat × α)} {n : Nat} {x : α} (h : look tab n = some x) : x ∈ tab.map Prod.snd := by
  induction tab with
  | nil => cases h
  | cons p r ih =>
    obtain ⟨k, v⟩ := p
    unfold look at h
    split at h
    · exact List.mem_cons.mpr (.inl (Option.some.inj h).symm)
    · exact List.mem_cons.mpr (.inr (ih h))

theorem code_of_look {α : Type} [DecidableEq α] {tab : List (Nat × α)} {n : Nat} {x : α} (hn : (tab.map Prod.snd).Nodup)
    (h : look tab n = some x) : code tab x = n := by
  induction tab with
  | nil => cases h
  | cons p r ih =>
    obtain ⟨k, v⟩ := p
    obtain ⟨hv, hr⟩ := List.nodup_cons.mp hn
    unfold look at h
    unfold code
    split at h
    next hk => rw [if_pos (Option.some.inj h).symm, hk]
    next =>
      have hmem : x ∈ r.map Prod.snd := mem_of_look h
      rw [if_neg fun hxv : x = v => hv (hxv ▸ hmem), ih hr h]

end Sys2Proof
end

section
/-! Decoding the word of an instruction (Tables 2.3 to 2.11), group by group. -/
namespace Sys2Proof

/-! ## The groups -/

section
variable {w : IWord}

theorem decodeWord_int (h : fld w 26 6 = 0x01) : decodeWord w = decInt w := by simp [decodeWord, h]
theorem decodeWord_mul (h : fld w 26 6 = 0x02) : decodeWord w = decMul w := by simp [decodeWord, h]
theorem decodeWord_sh (h : fld w 26 6 = 0x07) : decodeWord w = decSh w := by simp [decodeWord, h]
theorem decodeWord_rj (h : fld w 26 6 = 0x28) : decodeWord w = decRj w := by simp [decodeWord, h]
theorem decodeWord_fp (h : fld w 26 6 = 0x29) : decodeWord w = decFp w := by simp [decodeWord, h]
theorem decodeWord_amo (h : fld w 26 6 = 0x2B) : decodeWord w = decAmo w := by simp [decodeWord, h]
theorem decodeWord_blk (h : fld w 26 6 = 0x2C) : decodeWord w = decBlk w := by simp [decodeWord, h]
theorem decodeWord_sys (h : fld w 26 6 = 0x2D) : decodeWord w = decSys w := by simp [decodeWord, h]
theorem decodeWord_maint (h : fld w 26 6 = 0x2F) : decodeWord w = decMaint w := by simp [decodeWord, h]
theorem decodeWord_loop (h : fld w 26 6 = 0x30) : decodeWord w = decLoop w := by simp [decodeWord, h]
theorem decodeWord_cap (h : fld w 26 6 = 0x31) : decodeWord w = decCap w := by simp [decodeWord, h]

/-- The function field of groups 0x01, 0x02 and 0x2F: bit 10, and the function value. -/
theorem fn_bit10 {b : Bool} {k : Nat} (hk : k < 64) (h : fld w 0 11 = b.toNat * 1024 + k) :
    w.getLsbD 10 = b ∧ fld w 6 4 = 0 ∧ fld w 0 6 = k := by
  have hb := Bool.toNat_lt b
  refine ⟨getLsbD_eq ?_, ?_, ?_⟩ <;> rw [fld_low w (m := 11) (by decide), h] <;> omega

end

/-! ## Integer, multiply and divide -/

section
variable {rd r1 r2 : Reg} {W : Bool}

theorem decode_encode_alu2 {op : Alu2} (hW : W = true → op.hasW = true) :
    decodeWord (encodeWord (.alu2 op W rd r1 r2)) = some (.alu2 op W rd r1 r2) := by
  have hlt : code alu2Tab op < 64 := by cases op <;> decide
  have hlook : look alu2Tab (code alu2Tab op) = some op := by cases op <;> rfl
  have hb := Bool.toNat_lt W
  obtain ⟨hop, hrd, h1, h2, hfn⟩ := fld_encR (op := 1) (fn := W.toNat * 1024 + code alu2Tab op) (by decide) rd.isLt r1.isLt r2.isLt
    (by omega)
  obtain ⟨hbit, hzero, hcode⟩ := fn_bit10 hlt hfn
  have hno : ¬ (W && !op.hasW) = true := by simpa using hW
  rw [encodeWord, decodeWord_int hop, decInt, if_neg (by simp [hzero]), hcode, hlook, hbit, regF_eq hrd, regF_eq h1, regF_eq h2]
  exact if_neg hno

theorem decode_encode_alu1 {op : Alu1} (hW : W = true → op.hasW = true) :
    decodeWord (encodeWord (.alu1 op W rd r1)) = some (.alu1 op W rd r1) := by
  have hlt : code alu1Tab op < 64 := by cases op <;> decide
  have hnone : look alu2Tab (code alu1Tab op) = none := by cases op <;> rfl
  have hlook : look alu1Tab (code alu1Tab op) = some op := by cases op <;> rfl
  have hb := Bool.toNat_lt W
  obtain ⟨hop, hrd, h1, h2, hfn⟩ := fld_encR (op := 1) (r2 := 0) (fn := W.toNat * 1024 + code alu1Tab op) (by decide) rd.isLt r1.isLt
    (by decide) (by omega)
  obtain ⟨hbit, hzero, hcode⟩ := fn_bit10 hlt hfn
  have hno : ¬ ((W && !op.hasW) = true ∨ 0 ≠ 0) := by simpa using hW
  rw [encodeWord, decodeWord_int hop, decInt, if_neg (by simp [hzero]), hcode, hnone, hlook, hbit, regF_eq hrd, regF_eq h1, h2]
  simpa using hW

theorem decode_encode_mul {op : MulOp} (hW : W = true → op = .mul) :
    decodeWord (encodeWord (.mul op W rd r1 r2)) = some (.mul op W rd r1 r2) := by
  have hlt : code mulTab op < 64 := by cases op <;> decide
  have hlook : look mulTab (code mulTab op) = some op := by cases op <;> rfl
  have hb := Bool.toNat_lt W
  obtain ⟨hop, hrd, h1, h2, hfn⟩ := fld_encR (op := 2) (fn := W.toNat * 1024 + code mulTab op) (by decide) rd.isLt r1.isLt r2.isLt
    (by omega)
  obtain ⟨hbit, hzero, hcode⟩ := fn_bit10 hlt hfn
  rw [encodeWord, decodeWord_mul hop, decMul, if_neg (by simp [hzero]), hcode, hlook, hbit, regF_eq hrd, regF_eq h1, regF_eq h2]
  simpa using hW

theorem decode_encode_div {op : DivOp} :
    decodeWord (encodeWord (.div op W rd r1 r2)) = some (.div op W rd r1 r2) := by
  have hlt : code divTab op < 64 := by cases op <;> decide
  have hnone : look mulTab (code divTab op) = none := by cases op <;> rfl
  have hlook : look divTab (code divTab op) = some op := by cases op <;> rfl
  have hb := Bool.toNat_lt W
  obtain ⟨hop, hrd, h1, h2, hfn⟩ := fld_encR (op := 2) (fn := W.toNat * 1024 + code divTab op) (by decide) rd.isLt r1.isLt r2.isLt
    (by omega)
  obtain ⟨hbit, hzero, hcode⟩ := fn_bit10 hlt hfn
  rw [encodeWord, decodeWord_mul hop, decMul, if_neg (by simp [hzero]), hcode, hnone, hlook, hbit, regF_eq hrd, regF_eq h1,
    regF_eq h2]
  rfl

theorem decode_encode_shI {op : ShOp} {sh : Fin 64} (hW : W = true → sh.val < 32) :
    decodeWord (encodeWord (.shI op W rd r1 sh)) = some (.shI op W rd r1 sh) := by
  have hlt : code shTab (op, W) % 256 < 4 := by cases op <;> cases W <;> decide
  have hlook : look shTab (W.toNat * 256 + code shTab (op, W) % 256) = some (op, W) := by cases op <;> cases W <;> rfl
  have hb := Bool.toNat_lt W
  have hs := sh.isLt
  obtain ⟨hop, hrd, h1, himm⟩ := fld_encI (op := 7) (imm := sh * 1024 + W.toNat * 256 + code shTab (op, W) % 256) (by decide) rd.isLt
    r1.isLt (by omega)
  have hfn := (fld_low _ (by decide : 0 + 10 ≤ 16)).trans (by rw [himm]; omega : _ = W.toNat * 256 + code shTab (op, W) % 256)
  have hsh := (fld_low _ (by decide : 10 + 6 ≤ 16)).trans (by rw [himm]; omega : _ = sh.val)
  have hbit := getLsbD_eq (b := decide (32 ≤ sh.val)) ((fld_low _ (by decide : 15 + 1 ≤ 16)).trans
    (by rw [himm]; by_cases h : 32 ≤ sh.val <;> simp only [h, decide_true, decide_false, Bool.toNat_true, Bool.toNat_false] <;> omega))
  rw [encodeWord, decodeWord_sh hop, decSh, hfn, hlook, hbit, regF_eq hrd, regF_eq h1]
  simpa [hsh] using hW

theorem decode_encode_lui {imm : BitVec 21} : decodeWord (encodeWord (.lui rd imm)) = some (.lui rd imm) := by
  have hfld := fld_ofNat (N := 0x0A * 2 ^ 26 + rd * 2 ^ 21 + imm.toNat) (by omega)
  have hop := (hfld 26 6).trans (by omega : _ = 0x0A)
  have hrd := (hfld 21 5).trans (by omega : _ = rd.val)
  have himm := (hfld 0 21).trans (by omega : _ = imm.toNat)
  rw [encodeWord]
  unfold decodeWord
  rw [hop, regF_eq hrd, extract_eq himm]
  rfl

theorem decode_encode_auipc {imm : BitVec 21} : decodeWord (encodeWord (.auipc rd imm)) = some (.auipc rd imm) := by
  have hfld := fld_ofNat (N := 0x0B * 2 ^ 26 + rd * 2 ^ 21 + imm.toNat) (by omega)
  have hop := (hfld 26 6).trans (by omega : _ = 0x0B)
  have hrd := (hfld 21 5).trans (by omega : _ = rd.val)
  have himm := (hfld 0 21).trans (by omega : _ = imm.toNat)
  rw [encodeWord]
  unfold decodeWord
  rw [hop, regF_eq hrd, extract_eq himm]
  rfl

/-! ## The I format with a major opcode for each operation -/

theorem decode_encode_aluI {op : AluI} {imm : BitVec 16} : decodeWord (encodeWord (.aluI op rd r1 imm)) = some (.aluI op rd r1 imm) := by
  have hlt : code aluITab op < 64 := by cases op <;> decide
  obtain ⟨hop, hrd, h1, himm⟩ := fld_encI hlt rd.isLt r1.isLt imm.isLt
  rw [encodeWord]
  unfold decodeWord
  rw [hop, regF_eq hrd, regF_eq h1, extract_eq himm]
  cases op <;> rfl

theorem decode_encode_load {op : LdOp} {imm : BitVec 16} : decodeWord (encodeWord (.load op rd r1 imm)) = some (.load op rd r1 imm) := by
  have hlt : code ldTab op < 64 := by cases op <;> decide
  obtain ⟨hop, hrd, h1, himm⟩ := fld_encI hlt rd.isLt r1.isLt imm.isLt
  rw [encodeWord]
  unfold decodeWord
  rw [hop, regF_eq hrd, regF_eq h1, extract_eq himm]
  cases op <;> rfl

theorem decode_encode_store {op : StOp} {imm : BitVec 16} :
    decodeWord (encodeWord (.store op rd r1 imm)) = some (.store op rd r1 imm) := by
  have hlt : code stTab op < 64 := by cases op <;> decide
  obtain ⟨hop, hrd, h1, himm⟩ := fld_encI hlt rd.isLt r1.isLt imm.isLt
  rw [encodeWord]
  unfold decodeWord
  rw [hop, regF_eq hrd, regF_eq h1, extract_eq himm]
  cases op <;> rfl

theorem decode_encode_branch {cond : Cond} {a : Bool} {off : BitVec 15} :
    decodeWord (encodeWord (.branch cond r1 r2 a off)) = some (.branch cond r1 r2 a off) := by
  have hlt : code condTab cond < 64 := by cases cond <;> decide
  have ha := Bool.toNat_lt a
  obtain ⟨hop, h1, h2, himm⟩ := fld_encI (imm := a.toNat * 2 ^ 15 + off.toNat) hlt r1.isLt r2.isLt (by omega)
  have hbit := getLsbD_eq ((fld_low _ (by decide : 15 + 1 ≤ 16)).trans (by rw [himm]; omega : _ = a.toNat))
  have hoff := extract_eq ((fld_low _ (by decide : 0 + 15 ≤ 16)).trans (by rw [himm]; omega : _ = off.toNat))
  rw [encodeWord]
  unfold decodeWord
  rw [hop, regF_eq h1, regF_eq h2, hbit, hoff]
  cases cond <;> rfl

/-! ## Jumps -/

theorem decode_encode_jmp {link a : Bool} {off : BitVec 25} :
    decodeWord (encodeWord (.jmp link a off)) = some (.jmp link a off) := by
  have ha := Bool.toNat_lt a
  have hl := Bool.toNat_lt link
  have hfld := fld_ofNat (N := (0x26 + link.toNat) * 2 ^ 26 + a.toNat * 2 ^ 25 + off.toNat) (by omega)
  have hop := (hfld 26 6).trans (by omega : _ = 0x26 + link.toNat)
  have hbit := getLsbD_eq ((hfld 25 1).trans (by omega : _ = a.toNat))
  have hoff := extract_eq ((hfld 0 25).trans (by omega : _ = off.toNat))
  rw [encodeWord]
  unfold decodeWord
  rw [hop, hbit, hoff]
  cases link <;> rfl

theorem decode_encode_jr {a : Bool} : decodeWord (encodeWord (.jr a r1)) = some (.jr a r1) := by
  have ha := Bool.toNat_lt a
  obtain ⟨hop, hrd, h1, h2, hfn⟩ := fld_encR (op := 0x28) (rd := 0) (r2 := 0) (fn := a.toNat) (by decide) (by decide) r1.isLt
    (by decide) (by omega)
  have hzero := (fld_add _ 2 9 5 11 rfl).trans (by rw [h2, fld_low _ (by decide : 2 + 9 ≤ 11), hfn]; omega : _ = 0)
  have hlink := getLsbD_eq (b := false) ((fld_low _ (by decide : 1 + 1 ≤ 11)).trans (by rw [hfn]; omega : _ = 0))
  have hbit := getLsbD_eq ((fld_low _ (by decide : 0 + 1 ≤ 11)).trans (by rw [hfn]; omega : _ = a.toNat))
  rw [encodeWord, decodeWord_rj hop]
  simp [decRj, -BitVec.getLsbD_eq_getElem, hzero, hlink, hrd, hbit, regF_eq h1]

theorem decode_encode_jalr {a : Bool} : decodeWord (encodeWord (.jalr a rd r1)) = some (.jalr a rd r1) := by
  have ha := Bool.toNat_lt a
  obtain ⟨hop, hrd, h1, h2, hfn⟩ := fld_encR (op := 0x28) (r2 := 0) (fn := 2 + a.toNat) (by decide) rd.isLt r1.isLt
    (by decide) (by omega)
  have hzero := (fld_add _ 2 9 5 11 rfl).trans (by rw [h2, fld_low _ (by decide : 2 + 9 ≤ 11), hfn]; omega : _ = 0)
  have hlink := getLsbD_eq (b := true) ((fld_low _ (by decide : 1 + 1 ≤ 11)).trans (by rw [hfn]; omega : _ = 1))
  have hbit := getLsbD_eq ((fld_low _ (by decide : 0 + 1 ≤ 11)).trans (by rw [hfn]; omega : _ = a.toNat))
  rw [encodeWord, decodeWord_rj hop]
  simp [decRj, -BitVec.getLsbD_eq_getElem, hzero, hlink, hbit, regF_eq hrd, regF_eq h1]

/-! ## Floating point, atomics and block operations -/

theorem decode_encode_fp {op : FpOp} {single : Bool} {rm : Fin 8} (hrm : rm.val ≠ 5 ∧ rm.val ≠ 6)
    (hno : op.noRm = true → rm.val = 0) (hsqrt : op = .sqrt → r2 = 0) :
    decodeWord (encodeWord (.fp op single rm rd r1 r2)) = some (.fp op single rm rd r1 r2) := by
  have hlt : code fpTab op < 128 := by cases op <;> decide
  have hlook : look fpTab (code fpTab op) = some op := by cases op <;> rfl
  have hs := Bool.toNat_lt single
  obtain ⟨hop, hrd, h1, h2, hfn⟩ := fld_encR (op := 0x29) (fn := code fpTab op * 16 + single.toNat * 8 + rm) (by decide) rd.isLt r1.isLt
    r2.isLt (by omega)
  have hcode := (fld_low _ (by decide : 4 + 7 ≤ 11)).trans (by rw [hfn]; omega : _ = code fpTab op)
  have hmode := (fld_low _ (by decide : 0 + 3 ≤ 11)).trans (by rw [hfn]; omega : _ = rm.val)
  have hbit := getLsbD_eq ((fld_low _ (by decide : 3 + 1 ≤ 11)).trans (by rw [hfn]; omega : _ = single.toNat))
  have hguard1 : ¬ (op.noRm && decide (rm.val ≠ 0)) = true := by simpa using hno
  have hguard2 : ¬ (rm.val = 5 ∨ rm.val = 6) := by simpa using hrm
  have hguard3 : ¬ (op = .sqrt ∧ r2.val ≠ 0) := fun ⟨h, hne⟩ => hne (by rw [hsqrt h]; rfl)
  rw [encodeWord, decodeWord_fp hop, decFp, hcode, hlook]
  simp only [hmode, h2, if_neg hguard1, if_neg hguard2, if_neg hguard3, hbit, regF_eq hrd, regF_eq h1, regF_eq h2]

theorem decode_encode_amo {op : AmoOp} {aq rl dbl : Bool} :
    decodeWord (encodeWord (.amo op aq rl dbl rd r1 r2)) = some (.amo op aq rl dbl rd r1 r2) := by
  have hlt : code amoTab op < 16 := by cases op <;> decide
  have hlook : look amoTab (code amoTab op) = some op := by cases op <;> rfl
  have haq := Bool.toNat_lt aq
  have hrl := Bool.toNat_lt rl
  have hdbl := Bool.toNat_lt dbl
  obtain ⟨hop, hrd, h1, h2, hfn⟩ := fld_encR (op := 0x2B) (fn := aq.toNat * 1024 + rl.toNat * 512 + dbl.toNat * 256 + code amoTab op)
    (by decide) rd.isLt r1.isLt r2.isLt (by omega)
  have hcode := (fld_low _ (by decide : 0 + 5 ≤ 11)).trans (by rw [hfn]; omega : _ = code amoTab op)
  have hzero := (fld_low _ (by decide : 5 + 3 ≤ 11)).trans (by rw [hfn]; omega : _ = 0)
  have hb10 := getLsbD_eq ((fld_low _ (by decide : 10 + 1 ≤ 11)).trans (by rw [hfn]; omega : _ = aq.toNat))
  have hb9 := getLsbD_eq ((fld_low _ (by decide : 9 + 1 ≤ 11)).trans (by rw [hfn]; omega : _ = rl.toNat))
  have hb8 := getLsbD_eq ((fld_low _ (by decide : 8 + 1 ≤ 11)).trans (by rw [hfn]; omega : _ = dbl.toNat))
  rw [encodeWord, decodeWord_amo hop, decAmo, if_neg (by simp [hzero]), hcode, if_neg (by omega), if_neg (by omega), hlook, hb10, hb9,
    hb8, regF_eq hrd, regF_eq h1, regF_eq h2]
  rfl

theorem decode_encode_lda {dbl : Bool} : decodeWord (encodeWord (.lda dbl rd r1)) = some (.lda dbl rd r1) := by
  have hdbl := Bool.toNat_lt dbl
  obtain ⟨hop, hrd, h1, h2, hfn⟩ := fld_encR (op := 0x2B) (r2 := 0) (fn := 1024 + dbl.toNat * 256 + 0x10) (by decide) rd.isLt r1.isLt
    (by decide) (by omega)
  have hcode := (fld_low _ (by decide : 0 + 5 ≤ 11)).trans (by rw [hfn]; omega : _ = 0x10)
  have hzero := (fld_low _ (by decide : 5 + 3 ≤ 11)).trans (by rw [hfn]; omega : _ = 0)
  have hkind := (fld_low _ (by decide : 9 + 2 ≤ 11)).trans (by rw [hfn]; omega : _ = 2)
  have hb8 := getLsbD_eq ((fld_low _ (by decide : 8 + 1 ≤ 11)).trans (by rw [hfn]; omega : _ = dbl.toNat))
  rw [encodeWord, decodeWord_amo hop]
  simp [decAmo, -BitVec.getLsbD_eq_getElem, hzero, hcode, hkind, h2, hb8, regF_eq hrd, regF_eq h1]

theorem decode_encode_stl {dbl : Bool} : decodeWord (encodeWord (.stl dbl r1 r2)) = some (.stl dbl r1 r2) := by
  have hdbl := Bool.toNat_lt dbl
  obtain ⟨hop, hrd, h1, h2, hfn⟩ := fld_encR (op := 0x2B) (rd := 0) (fn := 512 + dbl.toNat * 256 + 0x11) (by decide) (by decide) r1.isLt
    r2.isLt (by omega)
  have hcode := (fld_low _ (by decide : 0 + 5 ≤ 11)).trans (by rw [hfn]; omega : _ = 0x11)
  have hzero := (fld_low _ (by decide : 5 + 3 ≤ 11)).trans (by rw [hfn]; omega : _ = 0)
  have hkind := (fld_low _ (by decide : 9 + 2 ≤ 11)).trans (by rw [hfn]; omega : _ = 1)
  have hb8 := getLsbD_eq ((fld_low _ (by decide : 8 + 1 ≤ 11)).trans (by rw [hfn]; omega : _ = dbl.toNat))
  rw [encodeWord, decodeWord_amo hop]
  simp [decAmo, -BitVec.getLsbD_eq_getElem, hzero, hcode, hkind, hrd, hb8, regF_eq h1, regF_eq h2]

theorem decode_encode_block {op : BlkOp} (hrd0 : op = .ldm ∨ op = .stm → rd = 0) :
    decodeWord (encodeWord (.block op rd r1 r2)) = some (.block op rd r1 r2) := by
  have hlt : code blkTab op < 2048 := by cases op <;> decide
  have hlook : look blkTab (code blkTab op) = some op := by cases op <;> rfl
  obtain ⟨hop, hrd, h1, h2, hfn⟩ := fld_encR (op := 0x2C) (by decide) rd.isLt r1.isLt r2.isLt hlt
  have hguard : ¬ ((op = .ldm ∨ op = .stm) ∧ rd.val ≠ 0) := fun ⟨h, hne⟩ => hne (by rw [hrd0 h]; rfl)
  rw [encodeWord, decodeWord_blk hop, decBlk, hfn, hlook]
  simp only [hrd, if_neg hguard, regF_eq hrd, regF_eq h1, regF_eq h2]

/-! ## System and maintenance instructions -/

/-- The word of a system instruction, as group 0x2D reads it. -/
theorem decodeWord_encS {x y sr fn : Nat} (hx : x < 32) (hy : y < 32) (hsr : sr < 2 ^ 12) (hfn : fn < 16) :
    let w := encS x y sr fn
    decodeWord w = decSys w ∧ fld w 0 4 = fn ∧ fld w 4 12 = sr ∧ fld w 16 5 = y ∧ fld w 21 5 = x ∧ fld w 16 10 = x * 32 + y ∧
      fld w 4 1 = sr % 2 := by
  obtain ⟨hop, h21, h16, himm⟩ := fld_encI (op := 0x2D) (imm := sr * 16 + fn) (by decide) hx hy (by omega)
  refine ⟨decodeWord_sys hop, (fld_low (encI _ _ _ _) (by decide : 0 + 4 ≤ 16)).trans (by rw [himm]; omega),
    (fld_low (encI _ _ _ _) (by decide : 4 + 12 ≤ 16)).trans (by rw [himm]; omega), h16, h21, ?_,
    (fld_low (encI _ _ _ _) (by decide : 4 + 1 ≤ 16)).trans (by rw [himm]; omega)⟩
  rw [encS, fld_add _ 16 5 5 21 rfl, h21, h16]
  rfl

theorem decode_encode_mfs {sr : BitVec 12} : decodeWord (encodeWord (.mfs rd sr)) = some (.mfs rd sr) := by
  obtain ⟨hw, hfn, hsr, h16, h21, -⟩ := decodeWord_encS (sr := sr.toNat) (fn := 0) rd.isLt (by decide : 0 < 32) sr.isLt (by decide)
  rw [encodeWord, hw]
  simp [decSys, hfn, hsr, h16, regF_eq h21]

theorem decode_encode_mts {sr : BitVec 12} : decodeWord (encodeWord (.mts sr r1)) = some (.mts sr r1) := by
  obtain ⟨hw, hfn, hsr, h16, h21, -⟩ := decodeWord_encS (sr := sr.toNat) (fn := 1) (by decide : 0 < 32) r1.isLt sr.isLt (by decide)
  rw [encodeWord, hw]
  simp [decSys, hfn, hsr, h21, regF_eq h16]

theorem decode_encode_fence_order {m : BitVec 4} :
    decodeWord (encodeWord (.fence (.order m))) = some (.fence (.order m)) := by
  have hm : m.toNat < 16 := m.isLt
  obtain ⟨hw, hfn, hsr, -, -, hzero, -⟩ := decodeWord_encS (sr := m.toNat) (fn := 4) (by decide : 0 < 32) (by decide : 0 < 32) (by omega)
    (by decide)
  rw [encodeWord, hw]
  simp [decSys, hfn, hsr, hzero, decFence, hm]

/-- PRFLUSH and PRBAR: one bit of operand. -/
theorem decSys_bit {b : Bool} {fn : Nat} (h : fn = 6 ∨ fn = 7) :
    decodeWord (encS 0 0 b.toNat fn) = some (if fn = 6 then .prflush b else .prbar b) := by
  have hb := Bool.toNat_lt b
  obtain ⟨hw, hfn, hsr, -, -, hzero, hbit⟩ := decodeWord_encS (sr := b.toNat) (fn := fn) (by decide : 0 < 32) (by decide : 0 < 32)
    (by omega) (by omega)
  have hb4 := getLsbD_eq (hbit.trans (Nat.mod_eq_of_lt hb))
  rw [hw]
  obtain rfl | rfl := h <;> simp [decSys, -BitVec.getLsbD_eq_getElem, hfn, hsr, hzero, hb, hb4]

theorem decode_encode_brk {k : BitVec 12} : decodeWord (encodeWord (.brk k)) = some (.brk k) := by
  obtain ⟨hw, hfn, hsr, -, -, hzero, -⟩ := decodeWord_encS (sr := k.toNat) (fn := 9) (by decide : 0 < 32) (by decide : 0 < 32) k.isLt
    (by decide)
  rw [encodeWord, hw]
  simp [decSys, hfn, hsr, hzero]

theorem decode_encode_gate {n : BitVec 16} : decodeWord (encodeWord (.gate n)) = some (.gate n) := by
  obtain ⟨hop, h21, h16, himm⟩ := fld_encI (op := 0x2E) (by decide) (by decide : 0 < 32) (by decide : 0 < 32) n.isLt
  have hzero := (fld_add _ 16 5 5 21 rfl).trans (by rw [h21, h16])
  rw [encodeWord]
  simp [decodeWord, hop, hzero, extract_eq himm]

theorem decode_encode_tlbi {op : TlbiOp} {p : Bool} : decodeWord (encodeWord (.tlbi op p r1)) = some (.tlbi op p r1) := by
  have hlt : code tlbiTab op < 64 := by cases op <;> decide
  have hlook : look tlbiTab (code tlbiTab op) = some op := by cases op <;> rfl
  have hp := Bool.toNat_lt p
  obtain ⟨hop, hrd, h1, h2, hfn⟩ := fld_encR (op := 0x2F) (rd := 0) (r2 := 0) (fn := p.toNat * 1024 + code tlbiTab op) (by decide)
    (by decide) r1.isLt (by decide) (by omega)
  obtain ⟨hbit, hzero, hcode⟩ := fn_bit10 hlt hfn
  rw [encodeWord, decodeWord_maint hop, decMaint, if_neg (by simp [hzero, hrd, h2]), hcode, hlook, hbit, regF_eq h1]

theorem decode_encode_cache {op : CacheOp} : decodeWord (encodeWord (.cache op r1)) = some (.cache op r1) := by
  have hlt : code cacheTab op < 64 := by cases op <;> decide
  have hnone : look tlbiTab (code cacheTab op) = none := by cases op <;> rfl
  have hlook : look cacheTab (code cacheTab op) = some op := by cases op <;> rfl
  obtain ⟨hop, hrd, h1, h2, hfn⟩ := fld_encR (op := 0x2F) (rd := 0) (r2 := 0) (fn := code cacheTab op) (by decide) (by decide) r1.isLt
    (by decide) (by omega)
  obtain ⟨hbit, hzero, hcode⟩ := fn_bit10 (b := false) hlt (by simpa using hfn)
  rw [encodeWord, decodeWord_maint hop, decMaint, if_neg (by simp [hzero, hrd, h2]), hcode, hnone, hlook, hbit, regF_eq h1]
  rfl

/-! ## Loops and capabilities -/

theorem decode_encode_loop {l : Fin 2} {i : Bool} {len : BitVec 10} {cnt : BitVec 14} (hlen : len ≠ 0)
    (hcnt : i = false → cnt.toNat % 512 = 0) : decodeWord (encodeWord (.loop l i len cnt)) = some (.loop l i len cnt) := by
  have hi := Bool.toNat_lt i
  have hfld := fld_ofNat (N := 0x30 * 2 ^ 26 + l * 2 ^ 25 + i.toNat * 2 ^ 24 + len.toNat * 2 ^ 14 + cnt.toNat) (by omega)
  have hop := (hfld 26 6).trans (by omega : _ = 0x30)
  have hl := (hfld 25 1).trans (by omega : _ = l.val)
  have hbit := getLsbD_eq ((hfld 24 1).trans (by omega : _ = i.toNat))
  have h14 := (hfld 14 10).trans (by omega : _ = len.toNat)
  have h0 := (hfld 0 14).trans (by omega : _ = cnt.toNat)
  have h9 := (hfld 0 9).trans (by omega : _ = cnt.toNat % 512)
  have hne : len.toNat ≠ 0 := fun h => hlen (BitVec.eq_of_toNat_eq h)
  rw [encodeWord, decodeWord_loop hop]
  simp only [decLoop, hbit, h9, h14, h0, hl, if_neg hne, BitVec.ofNat_toNat, BitVec.setWidth_eq]
  exact if_neg fun ⟨hf, hbad⟩ => hbad (hcnt hf)

end

/-- A word of group 0x31 with its fields. -/
def IsCapWord (w : IWord) (x y z fn : Nat) : Prop :=
  decodeWord w = decCap w ∧ fld w 21 5 = x ∧ fld w 16 5 = y ∧ fld w 11 5 = z ∧ fld w 0 11 = fn

theorem isCapWord_encR {x y z fn : Nat} (hx : x < 32) (hy : y < 32) (hz : z < 32) (hfn : fn < 2048) :
    IsCapWord (encR 0x31 x y z fn) x y z fn := by
  obtain ⟨hop, hfields⟩ := fld_encR (op := 0x31) (by decide) hx hy hz hfn
  exact ⟨decodeWord_cap hop, hfields⟩

section
variable {w : IWord} {rd r2 : Reg} {cd cs ct : Fin 16}

theorem IsCapWord.decode_cmove (h : IsCapWord w cd cs r2 0x00) : decodeWord w = some (.cmove cd cs r2) := by
  obtain ⟨hw, h21, h16, h11, hfn⟩ := h
  simp [hw, decCap, hfn, decCap2, capF_eq h21, capF_eq h16, regF_eq h11]

theorem IsCapWord.decode_cincb (h : IsCapWord w cd cs r2 0x01) : decodeWord w = some (.cincb cd cs r2) := by
  obtain ⟨hw, h21, h16, h11, hfn⟩ := h
  simp [hw, decCap, hfn, decCap2, capF_eq h21, capF_eq h16, regF_eq h11]

theorem IsCapWord.decode_csetl (h : IsCapWord w cd cs r2 0x02) : decodeWord w = some (.csetl cd cs r2) := by
  obtain ⟨hw, h21, h16, h11, hfn⟩ := h
  simp [hw, decCap, hfn, decCap2, capF_eq h21, capF_eq h16, regF_eq h11]

theorem IsCapWord.decode_candp (h : IsCapWord w cd cs r2 0x03) : decodeWord w = some (.candp cd cs r2) := by
  obtain ⟨hw, h21, h16, h11, hfn⟩ := h
  simp [hw, decCap, hfn, decCap2, capF_eq h21, capF_eq h16, regF_eq h11]

theorem IsCapWord.decode_cclrt (h : IsCapWord w cd cs r2 0x06) : decodeWord w = some (.cclrt cd cs r2) := by
  obtain ⟨hw, h21, h16, h11, hfn⟩ := h
  simp [hw, decCap, hfn, decCap2, capF_eq h21, capF_eq h16, regF_eq h11]

theorem IsCapWord.decode_cseal (h : IsCapWord w cd cs ct 0x04) : decodeWord w = some (.cseal cd cs ct) := by
  obtain ⟨hw, h21, h16, h11, hfn⟩ := h
  simp [hw, decCap, hfn, decCap2, capF_eq h21, capF_eq h16, capF_eq h11]

theorem IsCapWord.decode_cunseal (h : IsCapWord w cd cs ct 0x05) : decodeWord w = some (.cunseal cd cs ct) := by
  obtain ⟨hw, h21, h16, h11, hfn⟩ := h
  simp [hw, decCap, hfn, decCap2, capF_eq h21, capF_eq h16, capF_eq h11]

theorem IsCapWord.decode_ccall (h : IsCapWord w 0 cs ct 0x10) : decodeWord w = some (.ccall cs ct) := by
  obtain ⟨hw, h21, h16, h11, hfn⟩ := h
  simp [hw, decCap, hfn, decCap2, h21, capF_eq (c := 0) h21, capF_eq h16, capF_eq h11]

theorem IsCapWord.decode_cret (h : IsCapWord w 0 cs ct 0x11) : decodeWord w = some (.cret cs ct) := by
  obtain ⟨hw, h21, h16, h11, hfn⟩ := h
  simp [hw, decCap, hfn, decCap2, h21, capF_eq (c := 0) h21, capF_eq h16, capF_eq h11]

theorem IsCapWord.decode_cget {f : CapField} (h : IsCapWord w rd cs r2 (code cgetTab f)) :
    decodeWord w = some (.cget f rd cs r2) := by
  obtain ⟨hw, h21, h16, h11, hfn⟩ := h
  cases f <;> simp [hw, decCap, hfn, code, cgetTab, look, regF_eq h21, capF_eq h16, regF_eq h11]

theorem IsCapWord.decode_cmfc {n : Fin 2} (h : IsCapWord w cd 0 n 0x14) : decodeWord w = some (.cmfc cd n) := by
  obtain ⟨hw, h21, h16, h11, hfn⟩ := h
  have hn := n.isLt
  simp [hw, decCap, hfn, decCap2, h16, h11, hn, capF_eq h21, capF_eq (c := 0) h16]

theorem IsCapWord.decode_cmtc (h : IsCapWord w 0 cs 0 0x15) : decodeWord w = some (.cmtc cs) := by
  obtain ⟨hw, h21, h16, h11, hfn⟩ := h
  simp [hw, decCap, hfn, decCap2, h21, h11, capF_eq (c := 0) h21, capF_eq h16]

end

theorem decode_encode_clc {cd : Fin 16} {r1 : Reg} {imm : BitVec 16} :
    decodeWord (encodeWord (.clc cd r1 imm)) = some (.clc cd r1 imm) := by
  obtain ⟨hop, hrd, h1, himm⟩ := fld_encI (op := 0x32) (by decide) (by omega : cd.val < 32) r1.isLt imm.isLt
  rw [encodeWord]
  simp [decodeWord, hop, capF_eq hrd, regF_eq h1, extract_eq himm]

theorem decode_encode_csc {cs : Fin 16} {r1 : Reg} {imm : BitVec 16} :
    decodeWord (encodeWord (.csc cs r1 imm)) = some (.csc cs r1 imm) := by
  obtain ⟨hop, hrd, h1, himm⟩ := fld_encI (op := 0x33) (by decide) (by omega : cs.val < 32) r1.isLt imm.isLt
  rw [encodeWord]
  simp [decodeWord, hop, capF_eq hrd, regF_eq h1, extract_eq himm]

theorem decodeWord_encodeWord {i : Aelxel} (hwf : i.wf = true) : decodeWord (encodeWord i) = some i := by
  cases i with
  | alu2 => exact decode_encode_alu2 (by simpa [Aelxel.wf, ← Bool.not_eq_true, imp_iff_not_or] using hwf)
  | alu1 => exact decode_encode_alu1 (by simpa [Aelxel.wf, ← Bool.not_eq_true, imp_iff_not_or] using hwf)
  | aluI => exact decode_encode_aluI
  | shI => exact decode_encode_shI (by simpa [Aelxel.wf, ← Bool.not_eq_true, imp_iff_not_or] using hwf)
  | lui => exact decode_encode_lui
  | auipc => exact decode_encode_auipc
  | mul => exact decode_encode_mul (by simpa [Aelxel.wf, ← Bool.not_eq_true, imp_iff_not_or] using hwf)
  | div => exact decode_encode_div
  | load => exact decode_encode_load
  | store => exact decode_encode_store
  | branch => exact decode_encode_branch
  | jmp => exact decode_encode_jmp
  | jr => exact decode_encode_jr
  | jalr => exact decode_encode_jalr
  | fp =>
    simp only [Aelxel.wf, Bool.and_eq_true, decide_eq_true_eq, Bool.or_eq_true, Bool.not_eq_true'] at hwf
    obtain ⟨⟨hrm, hno⟩, hsqrt⟩ := hwf
    exact decode_encode_fp hrm (fun h => hno.resolve_left (by simp [h])) hsqrt
  | amo => exact decode_encode_amo
  | lda => exact decode_encode_lda
  | stl => exact decode_encode_stl
  | block => exact decode_encode_block (of_decide_eq_true hwf)
  | mfs => exact decode_encode_mfs
  | mts => exact decode_encode_mts
  | fence k => cases k with
    | order => exact decode_encode_fence_order
    | i => decide
    | d => decide
    | t => decide
  | prflush b => exact decSys_bit (.inl rfl)
  | prbar b => exact decSys_bit (.inr rfl)
  | brk => exact decode_encode_brk
  | gate => exact decode_encode_gate
  | tlbi => exact decode_encode_tlbi
  | cache => exact decode_encode_cache
  | loop =>
    simp only [Aelxel.wf, Bool.and_eq_true, decide_eq_true_eq, Bool.or_eq_true] at hwf
    obtain ⟨hlen, hcnt⟩ := hwf
    exact decode_encode_loop hlen fun h => hcnt.resolve_left (by simp [h])
  | cmove cd cs r2 => exact (isCapWord_encR (by omega) (by omega) r2.isLt (by decide)).decode_cmove
  | cincb cd cs r2 => exact (isCapWord_encR (by omega) (by omega) r2.isLt (by decide)).decode_cincb
  | csetl cd cs r2 => exact (isCapWord_encR (by omega) (by omega) r2.isLt (by decide)).decode_csetl
  | candp cd cs r2 => exact (isCapWord_encR (by omega) (by omega) r2.isLt (by decide)).decode_candp
  | cseal cd cs ct => exact (isCapWord_encR (by omega) (by omega) (by omega) (by decide)).decode_cseal
  | cunseal cd cs ct => exact (isCapWord_encR (by omega) (by omega) (by omega) (by decide)).decode_cunseal
  | cclrt cd cs r2 => exact (isCapWord_encR (by omega) (by omega) r2.isLt (by decide)).decode_cclrt
  | cget f rd cs r2 => exact (isCapWord_encR rd.isLt (by omega) r2.isLt (by cases f <;> decide)).decode_cget
  | ccall cs ct => exact (isCapWord_encR (by decide) (by omega) (by omega) (by decide)).decode_ccall
  | cret cs ct => exact (isCapWord_encR (by decide) (by omega) (by omega) (by decide)).decode_cret
  | cmfc cd n => exact (isCapWord_encR (by omega) (by decide) (by omega) (by decide)).decode_cmfc
  | cmtc cs => exact (isCapWord_encR (by decide) (by omega) (by decide) (by decide)).decode_cmtc
  | clc => exact decode_encode_clc
  | csc => exact decode_encode_csc
  | eret => decide
  | gret => decide
  | spb => decide
  | wfi => decide
  | nop => decide
  | chkpt => decide

end Sys2Proof
end

section
/-! A legal word is the word of what it decodes to (R46, R47), group by group. -/
namespace Sys2Proof

/-! ## Words from their fields -/

section
variable {w : IWord} {op : Nat}

theorem encR_eq {x y z fn : Nat} (hop : fld w 26 6 = op) (hx : fld w 21 5 = x) (hy : fld w 16 5 = y) (hz : fld w 11 5 = z)
    (hfn : fld w 0 11 = fn) : encR op x y z fn = w := by
  rw [← hop, ← hx, ← hy, ← hz, ← hfn, encR_fields]

theorem encI_eq {x y imm : Nat} (hop : fld w 26 6 = op) (hx : fld w 21 5 = x) (hy : fld w 16 5 = y) (himm : fld w 0 16 = imm) :
    encI op x y imm = w := by
  rw [← hop, ← hx, ← hy, ← himm, encI_fields]

/-- The function field of groups 0x01, 0x02 and 0x2F. -/
theorem fn_of_bit10 (hzero : fld w 6 4 = 0) : fld w 0 11 = (w.getLsbD 10).toNat * 1024 + fld w 0 6 := by
  rw [fld_add w 0 10 1 10 rfl, fld_add w 0 6 4 6 rfl, getLsbD_toNat, hzero]
  omega

end

section
variable {w : IWord} {i : Aelxel}

/-! ## Integer, multiply and divide -/

theorem decInt_legal (hop : fld w 26 6 = 0x01) (h : decInt w = some i) : i.wf = true ∧ encodeWord i = w := by
  unfold decInt at h
  split at h
  · cases h
  next hzero =>
  have hfn := fn_of_bit10 (not_not.mp hzero)
  split at h
  next op hlook =>
    have hcode : code alu2Tab op = fld w 0 6 := code_of_look (by decide) hlook
    split at h
    · cases h
    next hW =>
      cases h
      exact ⟨by simpa [Aelxel.wf, imp_iff_not_or] using hW, encR_eq hop rfl rfl rfl (by rw [hfn, hcode])⟩
  next =>
    split at h
    next op hlook =>
      have hcode : code alu1Tab op = fld w 0 6 := code_of_look (by decide) hlook
      split at h
      · cases h
      next hno =>
        rw [Bool.or_eq_true, decide_eq_true_eq, not_or, not_not] at hno
        obtain ⟨hW, h2⟩ := hno
        cases h
        exact ⟨by simpa [Aelxel.wf, imp_iff_not_or] using hW, encR_eq hop rfl rfl h2 (by rw [hfn, hcode])⟩
    · cases h

theorem decMul_legal (hop : fld w 26 6 = 0x02) (h : decMul w = some i) : i.wf = true ∧ encodeWord i = w := by
  unfold decMul at h
  split at h
  · cases h
  next hzero =>
  have hfn := fn_of_bit10 (not_not.mp hzero)
  split at h
  next op hlook =>
    have hcode : code mulTab op = fld w 0 6 := code_of_look (by decide) hlook
    split at h
    · cases h
    next hW =>
      cases h
      exact ⟨by simpa [Aelxel.wf, imp_iff_not_or] using hW, encR_eq hop rfl rfl rfl (by rw [hfn, hcode])⟩
  next =>
    obtain ⟨op, hlook, rfl⟩ := Option.map_eq_some_iff.mp h
    have hcode : code divTab op = fld w 0 6 := code_of_look (by decide) hlook
    exact ⟨rfl, encR_eq hop rfl rfl rfl (by rw [hfn, hcode])⟩

theorem decSh_legal (hop : fld w 26 6 = 0x07) (h : decSh w = some i) : i.wf = true ∧ encodeWord i = w := by
  unfold decSh at h
  split at h
  next op W hlook =>
    have hcode : code shTab (op, W) = fld w 0 10 := code_of_look (by decide) hlook
    have hW : W.toNat * 256 + code shTab (op, W) % 256 = code shTab (op, W) := by cases op <;> cases W <;> decide
    split at h
    · cases h
    next hguard =>
      cases h
      refine ⟨?_, encI_eq hop rfl rfl ?_⟩
      · have hbit := getLsbD_toNat w 15
        have hlt := fld_lt w 10 5
        rw [Bool.and_eq_true, not_and] at hguard
        simp only [Aelxel.wf, Bool.or_eq_true, Bool.not_eq_true', decide_eq_true_eq, fld_add w 10 5 1 15 rfl, ← hbit]
        cases W
        · exact .inl rfl
        · rw [Bool.eq_false_iff.mpr (hguard rfl)]
          exact .inr (by simpa using hlt)
      · rw [Nat.add_assoc, hW, hcode, fld_add w 0 10 6 10 rfl]
        rfl
  · cases h

theorem upper_eq {op : Nat} (hop : fld w 26 6 = op) :
    BitVec.ofNat 32 (op * 2 ^ 26 + regF w 21 * 2 ^ 21 + (w.extractLsb' 0 21).toNat) = w := by
  apply BitVec.eq_of_toNat_eq
  have hw := w.isLt
  rw [← hop, regF_val, extract_toNat]
  simp only [BitVec.toNat_ofNat, fld_eq]
  omega

/-! ## Jumps -/

theorem jmp_eq {op : Nat} (hop : fld w 26 6 = op) :
    BitVec.ofNat 32 (op * 2 ^ 26 + (w.getLsbD 25).toNat * 2 ^ 25 + (w.extractLsb' 0 25).toNat) = w := by
  apply BitVec.eq_of_toNat_eq
  have hw := w.isLt
  rw [← hop, getLsbD_toNat, extract_toNat]
  simp only [BitVec.toNat_ofNat, fld_eq]
  omega

theorem decRj_legal (hop : fld w 26 6 = 0x28) (h : decRj w = some i) : i.wf = true ∧ encodeWord i = w := by
  unfold decRj at h
  split at h
  · cases h
  next hzero =>
  have hzero := not_not.mp hzero
  have hlow : fld w 2 9 = 0 ∧ fld w 11 5 = 0 := by
    rw [fld_add w 2 9 5 11 rfl] at hzero
    omega
  obtain ⟨h9, h2⟩ := hlow
  have hfn : fld w 0 11 = (w.getLsbD 1).toNat * 2 + (w.getLsbD 0).toNat := by
    rw [fld_add w 0 2 9 2 rfl, fld_add w 0 1 1 1 rfl, getLsbD_toNat, getLsbD_toNat]
    omega
  split at h
  next hlink =>
    cases h
    exact ⟨rfl, encR_eq hop rfl rfl h2 (by rw [hfn, hlink]; rfl)⟩
  next hlink =>
    split at h
    · cases h
    next hrd =>
      cases h
      exact ⟨rfl, encR_eq hop (not_not.mp hrd) rfl h2 (by rw [hfn, Bool.eq_false_iff.mpr hlink]; exact Nat.zero_add _)⟩

/-! ## Floating point, atomics and block operations -/

theorem decFp_legal (hop : fld w 26 6 = 0x29) (h : decFp w = some i) : i.wf = true ∧ encodeWord i = w := by
  unfold decFp at h
  split at h
  next op hlook =>
    have hcode : code fpTab op = fld w 4 7 := code_of_look (by decide) hlook
    split at h
    · cases h
    next hno =>
    split at h
    · cases h
    next hrm =>
    split at h
    · cases h
    next hsqrt =>
      cases h
      refine ⟨?_, encR_eq hop rfl rfl rfl ?_⟩
      · have h2 : op = .sqrt → regF w 11 = 0 := fun hs => regF_eq (not_not.mp fun hne => hsqrt ⟨hs, hne⟩)
        simp only [Bool.and_eq_true, decide_eq_true_eq, not_and, not_not] at hno
        simp only [Aelxel.wf, Bool.and_eq_true, decide_eq_true_eq, Bool.or_eq_true, Bool.not_eq_true']
        exact ⟨⟨not_or.mp hrm, (Bool.eq_false_or_eq_true op.noRm).symm.imp_right hno⟩, h2⟩
      · rw [hcode, getLsbD_toNat, fld_add w 0 4 7 4 rfl, fld_add w 0 3 1 3 rfl]
        ring
  · cases h

theorem decAmo_legal (hop : fld w 26 6 = 0x2B) (h : decAmo w = some i) : i.wf = true ∧ encodeWord i = w := by
  have hfn : fld w 0 11 = fld w 9 2 * 512 + (w.getLsbD 8).toNat * 256 + fld w 5 3 * 32 + fld w 0 5 := by
    rw [fld_add w 0 9 2 9 rfl, fld_add w 0 8 1 8 rfl, fld_add w 0 5 3 5 rfl, getLsbD_toNat]
    ring
  have hkind : fld w 9 2 = (w.getLsbD 10).toNat * 2 + (w.getLsbD 9).toNat := by
    rw [getLsbD_toNat, getLsbD_toNat]
    exact fld_add w 9 1 1 10 rfl
  unfold decAmo at h
  split at h
  · cases h
  next hzero =>
  have hzero := not_not.mp hzero
  split at h
  next hlda =>
    split at h
    next hfields =>
      obtain ⟨hk, h2⟩ := hfields
      cases h
      exact ⟨rfl, encR_eq hop rfl rfl h2 (by rw [hfn, hk, hzero, hlda])⟩
    · cases h
  next =>
    split at h
    next hstl =>
      split at h
      next hfields =>
        obtain ⟨hk, hrd⟩ := hfields
        cases h
        exact ⟨rfl, encR_eq hop hrd rfl rfl (by rw [hfn, hk, hzero, hstl])⟩
      · cases h
    next =>
      obtain ⟨op, hlook, rfl⟩ := Option.map_eq_some_iff.mp h
      have hcode : code amoTab op = fld w 0 5 := code_of_look (by decide) hlook
      exact ⟨rfl, encR_eq hop rfl rfl rfl (by rw [hfn, hkind, hzero, hcode]; ring)⟩

theorem decBlk_legal (hop : fld w 26 6 = 0x2C) (h : decBlk w = some i) : i.wf = true ∧ encodeWord i = w := by
  unfold decBlk at h
  split at h
  next op hlook =>
    have hcode : code blkTab op = fld w 0 11 := code_of_look (by decide) hlook
    split at h
    · cases h
    next hguard =>
      cases h
      refine ⟨decide_eq_true fun hm => regF_eq ?_, encR_eq hop rfl rfl rfl hcode.symm⟩
      exact not_not.mp fun hne => hguard ⟨hm, hne⟩
  · cases h

/-! ## System and maintenance instructions -/

theorem encS_eq {x y sr fn : Nat} (hop : fld w 26 6 = 0x2D) (hx : fld w 21 5 = x) (hy : fld w 16 5 = y) (hsr : fld w 4 12 = sr)
    (hfn : fld w 0 4 = fn) : encS x y sr fn = w :=
  encI_eq hop hx hy (by rw [← hsr, ← hfn]; exact fld_add w 0 4 12 4 rfl)

/-- Bits 25 to 16 are zero where both register fields are. -/
theorem regs_zero (hzero : fld w 16 10 = 0) : fld w 21 5 = 0 ∧ fld w 16 5 = 0 := by
  rw [fld_add w 16 5 5 21 rfl] at hzero
  omega

theorem decFence_legal {sr : Nat} (hw : ∀ n, sr = n → encS 0 0 n 4 = w) (h : decFence sr = some i) :
    i.wf = true ∧ encodeWord i = w := by
  unfold decFence at h
  split at h
  next hlt =>
    cases h
    refine ⟨rfl, hw _ ?_⟩
    rw [BitVec.toNat_ofNat, Nat.mod_eq_of_lt hlt]
  next =>
    split at h
    next hi => cases h; exact ⟨rfl, hw _ hi⟩
    next =>
      split at h
      next hd => cases h; exact ⟨rfl, hw _ hd⟩
      next =>
        split at h
        next ht => cases h; exact ⟨rfl, hw _ ht⟩
        · cases h

theorem fld4_bit (h : fld w 4 12 < 2) : fld w 4 12 = (w.getLsbD 4).toNat := by
  rw [getLsbD_toNat]
  rw [fld_add w 4 1 11 5 rfl] at h ⊢
  omega

theorem decSys_legal (hop : fld w 26 6 = 0x2D) (h : decSys w = some i) : i.wf = true ∧ encodeWord i = w := by
  have hsr : (BitVec.ofNat 12 (fld w 4 12)).toNat = fld w 4 12 := by
    rw [BitVec.toNat_ofNat, Nat.mod_eq_of_lt (fld_lt w 4 12)]
  unfold decSys at h
  obtain ⟨hfn, h⟩ | ⟨-, h⟩ := ite_eq_iff.mp h
  · obtain ⟨h16, hi⟩ | ⟨-, h⟩ := ite_eq_iff.mp h
    · cases hi
      exact ⟨rfl, encS_eq hop rfl h16 hsr.symm hfn⟩
    · cases h
  obtain ⟨hfn, h⟩ | ⟨-, h⟩ := ite_eq_iff.mp h
  · obtain ⟨h21, hi⟩ | ⟨-, h⟩ := ite_eq_iff.mp h
    · cases hi
      exact ⟨rfl, encS_eq hop h21 rfl hsr.symm hfn⟩
    · cases h
  obtain ⟨-, h⟩ | ⟨hzero, h⟩ := ite_eq_iff.mp h
  · cases h
  obtain ⟨h21, h16⟩ := regs_zero (not_not.mp hzero)
  have hS {sr fn : Nat} := encS_eq (sr := sr) (fn := fn) hop h21 h16
  obtain ⟨hfn, h⟩ | ⟨-, h⟩ := ite_eq_iff.mp h
  · exact decFence_legal (fun n hn => hS hn hfn) h
  obtain ⟨hfn, h⟩ | ⟨-, h⟩ := ite_eq_iff.mp h
  · obtain ⟨hlt, hi⟩ | ⟨-, h⟩ := ite_eq_iff.mp h
    · cases hi
      exact ⟨rfl, hS (fld4_bit hlt) hfn⟩
    · cases h
  obtain ⟨hfn, h⟩ | ⟨-, h⟩ := ite_eq_iff.mp h
  · obtain ⟨hlt, hi⟩ | ⟨-, h⟩ := ite_eq_iff.mp h
    · cases hi
      exact ⟨rfl, hS (fld4_bit hlt) hfn⟩
    · cases h
  obtain ⟨hfn, hi⟩ | ⟨-, h⟩ := ite_eq_iff.mp h
  · cases hi
    exact ⟨rfl, hS hsr.symm hfn⟩
  obtain ⟨-, h⟩ | ⟨hsr0, h⟩ := ite_eq_iff.mp h
  · cases h
  have hE {fn : Nat} := hS (fn := fn) (not_not.mp hsr0)
  obtain ⟨hfn, hi⟩ | ⟨-, h⟩ := ite_eq_iff.mp h
  · cases hi
    exact ⟨rfl, hE hfn⟩
  obtain ⟨hfn, hi⟩ | ⟨-, h⟩ := ite_eq_iff.mp h
  · cases hi
    exact ⟨rfl, hE hfn⟩
  obtain ⟨hfn, hi⟩ | ⟨-, h⟩ := ite_eq_iff.mp h
  · cases hi
    exact ⟨rfl, hE hfn⟩
  obtain ⟨hfn, hi⟩ | ⟨-, h⟩ := ite_eq_iff.mp h
  · cases hi
    exact ⟨rfl, hE hfn⟩
  obtain ⟨hfn, hi⟩ | ⟨-, h⟩ := ite_eq_iff.mp h
  · cases hi
    exact ⟨rfl, hE hfn⟩
  obtain ⟨hfn, hi⟩ | ⟨-, h⟩ := ite_eq_iff.mp h
  · cases hi
    exact ⟨rfl, hE hfn⟩
  cases h

theorem gate_eq (hop : fld w 26 6 = 0x2E) (hzero : fld w 16 10 = 0) : encI 0x2E 0 0 (w.extractLsb' 0 16).toNat = w := by
  obtain ⟨h21, h16⟩ := regs_zero hzero
  exact encI_eq hop h21 h16 (extract_toNat w 16).symm

theorem decMaint_legal (hop : fld w 26 6 = 0x2F) (h : decMaint w = some i) : i.wf = true ∧ encodeWord i = w := by
  unfold decMaint at h
  split at h
  · cases h
  next hguard =>
  obtain ⟨hzero, hguard⟩ := not_or.mp hguard
  obtain ⟨h21, h11⟩ := not_or.mp hguard
  have hfn := fn_of_bit10 (not_not.mp hzero)
  have hR {fn : Nat} := encR_eq (fn := fn) hop (not_not.mp h21) rfl (not_not.mp h11)
  split at h
  next op hlook =>
    have hcode : code tlbiTab op = fld w 0 6 := code_of_look (by decide) hlook
    cases h
    exact ⟨rfl, hR (by rw [hfn, hcode])⟩
  next =>
    split at h
    next op hlook =>
      have hcode : code cacheTab op = fld w 0 6 := code_of_look (by decide) hlook
      split at h
      · cases h
      next hbit =>
        cases h
        refine ⟨rfl, hR ?_⟩
        rw [hfn, hcode, Bool.eq_false_iff.mpr hbit]
        simp
    · cases h

/-! ## Loops and capabilities -/

theorem decLoop_legal (hop : fld w 26 6 = 0x30) (h : decLoop w = some i) : i.wf = true ∧ encodeWord i = w := by
  have hlen : (BitVec.ofNat 10 (fld w 14 10)).toNat = fld w 14 10 := by
    rw [BitVec.toNat_ofNat, Nat.mod_eq_of_lt (fld_lt w 14 10)]
  have hcnt : (BitVec.ofNat 14 (fld w 0 14)).toNat = fld w 0 14 := by
    rw [BitVec.toNat_ofNat, Nat.mod_eq_of_lt (fld_lt w 0 14)]
  unfold decLoop at h
  split at h
  · cases h
  next himm =>
  split at h
  · cases h
  next hne =>
    cases h
    constructor
    · have hlen0 : BitVec.ofNat 10 (fld w 14 10) ≠ 0 := fun h0 => hne (by rw [← hlen, h0]; rfl)
      simp only [Aelxel.wf, Bool.and_eq_true, decide_eq_true_eq, Bool.or_eq_true]
      refine ⟨hlen0, ?_⟩
      rw [hcnt]
      cases hb : w.getLsbD 24
      · have h9 := not_not.mp fun hne9 => himm ⟨hb, hne9⟩
        rw [fld_add w 0 9 5 9 rfl]
        exact .inr (by omega)
      · exact .inl rfl
    · rw [encodeWord, hlen, hcnt, getLsbD_toNat]
      apply BitVec.eq_of_toNat_eq
      have hw := w.isLt
      simp only [BitVec.toNat_ofNat, fld_eq] at hop ⊢
      omega

theorem decCap2_some {f : Fin 16 → Fin 16 → Option Aelxel} (h : decCap2 w f = some i) :
    ∃ cd cs : Fin 16, cd.val = fld w 21 5 ∧ cs.val = fld w 16 5 ∧ f cd cs = some i := by
  unfold decCap2 at h
  split at h
  next cd cs hd hs => exact ⟨cd, cs, capF_some hd, capF_some hs, h⟩
  · cases h

theorem decCap_legal (hop : fld w 26 6 = 0x31) (h : decCap w = some i) : i.wf = true ∧ encodeWord i = w := by
  have hR {x y z n : Nat} (hx : x = fld w 21 5) (hy : y = fld w 16 5) (hz : z = fld w 11 5) (hn : fld w 0 11 = n) :=
    encR_eq hop hx.symm hy.symm hz.symm hn
  unfold decCap at h
  obtain ⟨hfn, h⟩ | ⟨-, h⟩ := ite_eq_iff.mp h
  · obtain ⟨cd, cs, hd, hs, hi⟩ := decCap2_some h
    cases hi
    exact ⟨rfl, hR hd hs rfl hfn⟩
  obtain ⟨hfn, h⟩ | ⟨-, h⟩ := ite_eq_iff.mp h
  · obtain ⟨cd, cs, hd, hs, hi⟩ := decCap2_some h
    cases hi
    exact ⟨rfl, hR hd hs rfl hfn⟩
  obtain ⟨hfn, h⟩ | ⟨-, h⟩ := ite_eq_iff.mp h
  · obtain ⟨cd, cs, hd, hs, hi⟩ := decCap2_some h
    cases hi
    exact ⟨rfl, hR hd hs rfl hfn⟩
  obtain ⟨hfn, h⟩ | ⟨-, h⟩ := ite_eq_iff.mp h
  · obtain ⟨cd, cs, hd, hs, hi⟩ := decCap2_some h
    cases hi
    exact ⟨rfl, hR hd hs rfl hfn⟩
  obtain ⟨hfn, h⟩ | ⟨-, h⟩ := ite_eq_iff.mp h
  · obtain ⟨cd, cs, hd, hs, h⟩ := decCap2_some h
    obtain ⟨ct, ht, rfl⟩ := Option.map_eq_some_iff.mp h
    exact ⟨rfl, hR hd hs (capF_some ht) hfn⟩
  obtain ⟨hfn, h⟩ | ⟨-, h⟩ := ite_eq_iff.mp h
  · obtain ⟨cd, cs, hd, hs, h⟩ := decCap2_some h
    obtain ⟨ct, ht, rfl⟩ := Option.map_eq_some_iff.mp h
    exact ⟨rfl, hR hd hs (capF_some ht) hfn⟩
  obtain ⟨hfn, h⟩ | ⟨-, h⟩ := ite_eq_iff.mp h
  · obtain ⟨cd, cs, hd, hs, hi⟩ := decCap2_some h
    cases hi
    exact ⟨rfl, hR hd hs rfl hfn⟩
  obtain ⟨hfn, h⟩ | ⟨-, h⟩ := ite_eq_iff.mp h
  · obtain ⟨-, h⟩ | ⟨h21, h⟩ := ite_eq_iff.mp h
    · cases h
    obtain ⟨cd, cs, -, hs, h⟩ := decCap2_some h
    obtain ⟨ct, ht, rfl⟩ := Option.map_eq_some_iff.mp h
    exact ⟨rfl, hR (not_not.mp h21).symm hs (capF_some ht) hfn⟩
  obtain ⟨hfn, h⟩ | ⟨-, h⟩ := ite_eq_iff.mp h
  · obtain ⟨-, h⟩ | ⟨h21, h⟩ := ite_eq_iff.mp h
    · cases h
    obtain ⟨cd, cs, -, hs, h⟩ := decCap2_some h
    obtain ⟨ct, ht, rfl⟩ := Option.map_eq_some_iff.mp h
    exact ⟨rfl, hR (not_not.mp h21).symm hs (capF_some ht) hfn⟩
  obtain ⟨hfn, h⟩ | ⟨-, h⟩ := ite_eq_iff.mp h
  · obtain ⟨-, h⟩ | ⟨h16, h⟩ := ite_eq_iff.mp h
    · cases h
    obtain ⟨cd, cs, hd, -, h⟩ := decCap2_some h
    obtain ⟨hn, hi⟩ | ⟨-, h⟩ := dite_eq_iff.mp h
    · cases hi
      exact ⟨rfl, hR hd (not_not.mp h16).symm rfl hfn⟩
    · cases h
  obtain ⟨hfn, h⟩ | ⟨-, h⟩ := ite_eq_iff.mp h
  · obtain ⟨-, h⟩ | ⟨hguard, h⟩ := ite_eq_iff.mp h
    · cases h
    obtain ⟨h21, h11⟩ := not_or.mp hguard
    obtain ⟨cd, cs, -, hs, hi⟩ := decCap2_some h
    cases hi
    exact ⟨rfl, hR (not_not.mp h21).symm hs (not_not.mp h11).symm hfn⟩
  split at h
  next f hlook =>
    have hcode : code cgetTab f = fld w 0 11 := code_of_look (by decide) hlook
    obtain ⟨cs, hs, rfl⟩ := Option.map_eq_some_iff.mp h
    exact ⟨rfl, hR rfl (capF_some hs) rfl hcode.symm⟩
  · cases h

/-- A major opcode that stands for one operation of the I format. -/
theorem major_legal (h : (match look aluITab (fld w 26 6) with
    | some o => some (.aluI o (regF w 21) (regF w 16) (w.extractLsb' 0 16))
    | none => match look ldTab (fld w 26 6) with
      | some o => some (.load o (regF w 21) (regF w 16) (w.extractLsb' 0 16))
      | none => match look stTab (fld w 26 6) with
        | some o => some (.store o (regF w 21) (regF w 16) (w.extractLsb' 0 16))
        | none => (look condTab (fld w 26 6)).map fun c =>
            Aelxel.branch c (regF w 21) (regF w 16) (w.getLsbD 15) (w.extractLsb' 0 15)) = some i) :
    i.wf = true ∧ encodeWord i = w := by
  have h16 : (w.extractLsb' 0 16).toNat = fld w 0 16 := extract_toNat w 16
  split at h
  next o hlook =>
    have hcode : code aluITab o = fld w 26 6 := code_of_look (by decide) hlook
    cases h
    exact ⟨rfl, encI_eq hcode.symm rfl rfl h16.symm⟩
  next =>
  split at h
  next o hlook =>
    have hcode : code ldTab o = fld w 26 6 := code_of_look (by decide) hlook
    cases h
    exact ⟨rfl, encI_eq hcode.symm rfl rfl h16.symm⟩
  next =>
  split at h
  next o hlook =>
    have hcode : code stTab o = fld w 26 6 := code_of_look (by decide) hlook
    cases h
    exact ⟨rfl, encI_eq hcode.symm rfl rfl h16.symm⟩
  next =>
    obtain ⟨c, hlook, rfl⟩ := Option.map_eq_some_iff.mp h
    have hcode : code condTab c = fld w 26 6 := code_of_look (by decide) hlook
    refine ⟨rfl, encI_eq hcode.symm rfl rfl ?_⟩
    rw [getLsbD_toNat, extract_toNat]
    exact fld_add w 0 15 1 15 rfl

theorem decodeWord_legal (h : decodeWord w = some i) : i.wf = true ∧ encodeWord i = w := by
  unfold decodeWord at h
  obtain ⟨hop, h⟩ | ⟨-, h⟩ := ite_eq_iff.mp h
  · exact decInt_legal hop h
  obtain ⟨hop, h⟩ | ⟨-, h⟩ := ite_eq_iff.mp h
  · exact decMul_legal hop h
  obtain ⟨hop, h⟩ | ⟨-, h⟩ := ite_eq_iff.mp h
  · exact decSh_legal hop h
  obtain ⟨hop, hi⟩ | ⟨-, h⟩ := ite_eq_iff.mp h
  · cases hi
    exact ⟨rfl, upper_eq hop⟩
  obtain ⟨hop, hi⟩ | ⟨-, h⟩ := ite_eq_iff.mp h
  · cases hi
    exact ⟨rfl, upper_eq hop⟩
  obtain ⟨hop, hi⟩ | ⟨-, h⟩ := ite_eq_iff.mp h
  · cases hi
    exact ⟨rfl, jmp_eq hop⟩
  obtain ⟨hop, hi⟩ | ⟨-, h⟩ := ite_eq_iff.mp h
  · cases hi
    exact ⟨rfl, jmp_eq hop⟩
  obtain ⟨hop, h⟩ | ⟨-, h⟩ := ite_eq_iff.mp h
  · exact decRj_legal hop h
  obtain ⟨hop, h⟩ | ⟨-, h⟩ := ite_eq_iff.mp h
  · exact decFp_legal hop h
  obtain ⟨hop, h⟩ | ⟨-, h⟩ := ite_eq_iff.mp h
  · exact decAmo_legal hop h
  obtain ⟨hop, h⟩ | ⟨-, h⟩ := ite_eq_iff.mp h
  · exact decBlk_legal hop h
  obtain ⟨hop, h⟩ | ⟨-, h⟩ := ite_eq_iff.mp h
  · exact decSys_legal hop h
  obtain ⟨hop, h⟩ | ⟨-, h⟩ := ite_eq_iff.mp h
  · obtain ⟨hzero, hi⟩ | ⟨-, h⟩ := ite_eq_iff.mp h
    · cases hi
      exact ⟨rfl, gate_eq hop hzero⟩
    · cases h
  obtain ⟨hop, h⟩ | ⟨-, h⟩ := ite_eq_iff.mp h
  · exact decMaint_legal hop h
  obtain ⟨hop, h⟩ | ⟨-, h⟩ := ite_eq_iff.mp h
  · exact decLoop_legal hop h
  obtain ⟨hop, h⟩ | ⟨-, h⟩ := ite_eq_iff.mp h
  · exact decCap_legal hop h
  obtain ⟨hop, h⟩ | ⟨-, h⟩ := ite_eq_iff.mp h
  · obtain ⟨cd, hd, rfl⟩ := Option.map_eq_some_iff.mp h
    exact ⟨rfl, encI_eq hop (capF_some hd).symm rfl (extract_toNat w 16).symm⟩
  obtain ⟨hop, h⟩ | ⟨-, h⟩ := ite_eq_iff.mp h
  · obtain ⟨cs, hs, rfl⟩ := Option.map_eq_some_iff.mp h
    exact ⟨rfl, encI_eq hop (capF_some hs).symm rfl (extract_toNat w 16).symm⟩
  exact major_legal h

end
/-- Settles O1, one lemma for each group of instructions. -/
theorem decodeOfEncode : Obligations.DecodeOfEncode := fun _ hwf => decodeWord_encodeWord hwf

/-- Settles O2, one lemma for each group of words. -/
theorem encodeOfDecode : Obligations.EncodeOfDecode := fun _ _ h => decodeWord_legal h

/-- Settles O3: each word is decoded. -/
theorem spelledWordsDecode : Obligations.SpelledWordsDecode := by
  unfold Obligations.SpelledWordsDecode
  decide

end Sys2Proof
end

section
/-! How an A-core runs an instruction whose fetch passes: what its body does, then the commit, the exception or the wait (R46, R56,
R125 to R128, R147). -/
namespace Sys2Proof.Machine

/-! ## Fetch -/

section
variable {s u v : State} {me c : Fin 32}

theorem State.l1iFill_calm {line : Nat} (h : s.calm me) : (s.l1iFill c line).calm me := by
  unfold State.l1iFill
  dsimp only
  split
  · exact h
  · refine State.modA_calm ?_ fun _ ha => ha
    split
    · exact h
    · exact State.pick_calm h

theorem State.fetchLine_calm {line : Nat} {ty : MemType} {pc : Word} (h : s.calm me) : (s.fetchLine c line ty pc).1.calm me := by
  grind [State.fetchLine, State.l1CrcError_calm, State.note_calm, State.coreLine_calm, State.l1iFill_calm]

theorem State.fetch_calm (h : s.calm me) : (s.fetch c).1.calm me := by
  grind [State.fetch, State.xlate_calm, State.regRead_calm, State.fetchLine_calm]

variable {w : IWord} {i : Aelxel}

theorem State.aFetches.calm (h : s.aFetches c w i u) : u.calm c := by
  obtain ⟨hready, hfetch, -⟩ := h
  have hu : u = ({ s with held := false }.fetch c).1 := by rw [hfetch]
  rw [hu]
  exact State.fetch_calm (s := { s with held := false }) (State.calm_of_aReady hready)

theorem State.aFetches.held (h : s.aFetches c w i u) : u.held = false := by
  obtain ⟨-, -, hheld, -⟩ := h
  exact hheld

theorem State.aFetches.decode (h : s.aFetches c w i u) : decodeWord w = some i := by
  obtain ⟨-, -, -, hdec, -⟩ := h
  exact hdec

theorem State.aFetches.no_delay (h : s.aFetches c w i u) (hi : slotForbids i = true) : (u.acore.get c).delay = none := by
  obtain ⟨-, -, -, -, hslot⟩ := h
  rw [hi, Bool.and_true] at hslot
  exact Option.isNone_iff_eq_none.mp (by simpa using hslot)

/-- Running the word of an instruction: the body in the state after the fetch, and what follows it. -/
theorem State.aStep_eq (h : s.aFetches c w i u) (body : ABody) :
    s.aStep c w body =
      s.orWaits ((body i u).1.finishA c (u.countCtx c) (body i u).2.1 (body i u).2.2) := by
  obtain ⟨hready, hfetch, -, hdec, hslot⟩ := h
  have hready' : State.aReady { s with held := false } c := hready
  rw [State.aStep, State.served_eq_orWaits]
  congr 1
  generalize { s with held := false } = z at hfetch hready' ⊢
  have hruns := State.aRuns_of_aReady hready'
  obtain ⟨hrun, -, -, hforced, hhalt, -⟩ := hready'
  have hwake : z.wakeWfi c = z := if_neg (by simp [hrun])
  simp [hwake, State.haltTry_eq hhalt, hforced, hruns, hfetch, State.aRun, hdec, hslot]

theorem wordOfRow_of_decode (h : decodeWord w = some i) : wordOfRow w i.row = true := by
  simp [wordOfRow, h]

/-- An instruction on the row of its group runs on the A-core that the command names. -/
theorem runInsn_a (h : s.aFetches c w i u) {row : String} (hrow : i.row = row) (a : Fin 32 → ABody) (t : Fin 4 → Fin 4 → TBody) :
    runInsn row (.a c) w a t s =
      .next (s.orWaits ((a c i u).1.finishA c (u.countCtx c) (a c i u).2.1 (a c i u).2.2)) := by
  rw [runInsn, ← hrow, if_pos (wordOfRow_of_decode h.decode)]
  exact congrArg Host.Outcome.next (State.aStep_eq h _)

/-- What a command of a ready A-core answers, from what the instruction's body does. -/
theorem completes_a {cmd : Instr} {row : String} {a : Fin 32 → ABody} {t : Fin 4 → Fin 4 → TBody} {P : State → Prop}
    {f : Flow} {evs : List Nat} (h : s.aFetches c w i u) (hexec : exec cmd s = runInsn row (.a c) w a t s) (hrow : i.row = row)
    (hbody : a c i u = (v, f, evs)) (hP : P (s.orWaits (v.finishA c (u.countCtx c) f evs))) : completes cmd s P := by
  refine ⟨_, hexec.trans (runInsn_a h hrow a t), ?_⟩
  rw [hbody]
  exact hP

/-- An instruction that commits, in a command that did not have to wait. -/
theorem State.aCommits_orWaits {t : State} {pc : Word} {d : Option Delay} (h : u.aCommits v t c pc d) (ht : t.held = false) :
    u.aCommits v (s.orWaits t) c pc d := by
  obtain ⟨hcore, hcnt, hframe⟩ := h
  have horw : s.orWaits t = { t with held := s.held } := by simp [State.orWaits, ht]
  rw [horw]
  refine ⟨hcore, hcnt, ?_⟩
  exact congrArg (State.withHeld · s.held) hframe

/-- How the flow of control of a committed instruction moves a core that stands as `a` does. -/
def Flow.moves (f : Flow) (a : ACore) (pc : Word) (d : Option Delay) : Prop :=
  ∀ b : ACore, b.pc = a.pc → b.delay = a.delay → b.advance f = { b with pc := pc, delay := d }

theorem Flow.seq_moves (a : ACore) : Flow.seq.moves a a.seqPc none := by
  intro b hpc hd
  rw [ACore.advance_seq, ACore.seqPc, ACore.seqPc, hpc, hd]

theorem Flow.goto_moves (a : ACore) (pc : Word) : (Flow.goto pc).moves a pc none := fun _ _ _ => rfl

theorem Flow.slot_moves (a : ACore) (next : Word) : (Flow.slot next).moves a (a.pc + 4) (some ⟨a.pc, next⟩) := by
  intro b hpc _
  rw [← hpc]
  rfl

theorem Flow.skip_moves {a : ACore} (h : a.delay = none) : Flow.skip.moves a (a.pc + 8) none := by
  intro b hpc hd
  rw [← hpc, ← h, ← hd]
  rfl

/-- The flows after which an instruction commits and the core goes on. -/
def Flow.commits : Flow → Bool
  | .seq | .goto _ | .slot _ | .skip => true
  | _ => false

theorem State.finishA_of_commits {x : CountCtx} {f : Flow} {evs : List Nat} (hf : f.commits = true) :
    v.finishA c x f evs = ((v.commit c x evs).modA c fun a => a.advance f).stepDone c := by
  cases f with
  | seq => rfl
  | goto => rfl
  | slot => rfl
  | skip => rfl
  | eret => cases hf
  | exn => cases hf
  | call => cases hf
  | stay => cases hf

/-- An instruction of a core that nothing is asked of commits, goes on as its flow says, and nothing follows it. -/
theorem State.aCommits_finishA {x : CountCtx} {f : Flow} {pc : Word} {d : Option Delay} (evs : List Nat)
    (hx : x.allowed = u.nonInvasive c) (hf : f.commits = true) (hmoves : f.moves (v.acore.get c) pc d) (hv : v.calm c) :
    u.aCommits v (v.finishA c x f evs) c pc d ∧ (v.finishA c x f evs).held = v.held := by
  obtain ⟨ht, hcnt⟩ := State.countsOnly_commit v c x evs
  rw [vmod_get] at ht hcnt
  rw [vset_vmod] at ht
  have hcore : (v.commit c x evs).acore.get c = { (v.acore.get c).committed x.allowed (Config.freeWord v.fresh) with
      pmevt := ((v.commit c x evs).acore.get c).pmevt, pmcnt := ((v.commit c x evs).acore.get c).pmcnt } := by
    rw [ht]
    simp
  have hadv := hmoves ((v.commit c x evs).acore.get c) (by rw [hcore]; rfl) (by rw [hcore]; rfl)
  have hcalm : ((v.commit c x evs).modA c fun a => a.advance f).calm c := by
    rw [State.calm, State.modA_get, hadv, hcore]
    exact hv
  have hfinish : v.finishA c x f evs = (v.commit c x evs).modA c fun a => a.advance f := by
    rw [State.finishA_of_commits hf, State.stepDone_eq hcalm]
  rw [hfinish]
  refine ⟨⟨?_, ?_, ?_⟩, ?_⟩
  · rw [State.modA_get, hadv, hcore, ← hx]
    rfl
  · intro hno
    rw [State.modA_get, hadv]
    rw [hx] at hcnt
    refine ⟨?_, hcnt hno⟩
    dsimp only
    rw [hcore]
    simp [ACore.committed, hx, hno]
  · rw [ht]
    simp [State.modA, vmod]
  · rw [ht]
    rfl

/-- A command whose instruction commits. -/
theorem completes_commits {cmd : Instr} {row : String} {a : Fin 32 → ABody} {t : Fin 4 → Fin 4 → TBody} {f : Flow} {evs : List Nat}
    {pc : Word} {d : Option Delay} (h : s.aFetches c w i u) (hexec : exec cmd s = runInsn row (.a c) w a t s) (hrow : i.row = row)
    (hbody : a c i u = (v, f, evs)) (hf : f.commits = true) (hmoves : f.moves (v.acore.get c) pc d) (hv : v.calm c)
    (hheld : v.held = false) : completes cmd s fun t => u.aCommits v t c pc d := by
  obtain ⟨hcommits, hkept⟩ := State.aCommits_finishA (u := u) (x := u.countCtx c) evs rfl hf hmoves hv
  exact completes_a h hexec hrow hbody (State.aCommits_orWaits hcommits (hkept.trans hheld))

/-- A command whose instruction commits and goes on in sequence. -/
theorem completes_aSeq {cmd : Instr} {row : String} {a : Fin 32 → ABody} {t : Fin 4 → Fin 4 → TBody} {evs : List Nat}
    (h : s.aFetches c w i u) (hexec : exec cmd s = runInsn row (.a c) w a t s) (hrow : i.row = row)
    (hbody : a c i u = (v, .seq, evs)) (hv : v.calm c) (hheld : v.held = false) : completes cmd s fun t => u.aSeq v t c :=
  completes_commits h hexec hrow hbody rfl (Flow.seq_moves _) hv hheld

/-- A command whose instruction raises an exception. -/
theorem completes_raises {cmd : Instr} {row : String} {a : Fin 32 → ABody} {t : Fin 4 → Fin 4 → TBody} {e : Exn} {evs : List Nat}
    (h : s.aFetches c w i u) (hexec : exec cmd s = runInsn row (.a c) w a t s) (hrow : i.row = row)
    (hbody : a c i u = (v, .exn e, evs)) : completes cmd s fun t => t = s.orWaits ((v.raise c e).stepDone c) :=
  completes_a h hexec hrow hbody rfl

/-- A command whose instruction has to wait, or has work left. -/
theorem completes_stays {cmd : Instr} {row : String} {a : Fin 32 → ABody} {t : Fin 4 → Fin 4 → TBody} {evs : List Nat}
    (h : s.aFetches c w i u) (hexec : exec cmd s = runInsn row (.a c) w a t s) (hrow : i.row = row)
    (hbody : a c i u = (v, .stay, evs)) : completes cmd s fun t => t = s.orWaits (v.haltTry c) :=
  completes_a h hexec hrow hbody rfl

end

/-! ## Integer, multiply and divide (R50) -/

section
variable {s u : State} {c : Fin 32} {w : IWord} {i : Aelxel}

theorem aReg_result {rd : Reg} {v : Word} (h : regResult (u.g c) (u.acore.get c).pc i = some (rd, v)) :
    aReg c i u = (u.setG c rd v, .seq, []) := by
  rw [aReg, h]

/-- An instruction that writes a general register and does nothing else. -/
theorem completes_reg {cmd : Instr} {row : String} {rd : Reg} {v : Word} (h : s.aFetches c w i u)
    (hexec : exec cmd s = runInsn row (.a c) w aReg tReg s) (hrow : i.row = row)
    (hres : regResult (u.g c) (u.acore.get c).pc i = some (rd, v)) : completes cmd s fun t => u.aSeq (u.setG c rd v) t c :=
  completes_aSeq h hexec hrow (aReg_result hres) (State.setG_calm h.calm) ((State.setG_held v).trans h.held)

end

/-- Settles O13: each instruction of the three rows has a result for its destination, and `completes_reg` says the rest. -/
theorem integerOnACores : Obligations.IntegerOnACores := by
  intro s u c w ins h
  refine ⟨?_, ?_, ?_, ?_, ?_, ?_, ?_, ?_⟩
  · rintro op W rd r1 r2 rfl
    exact completes_reg h rfl rfl rfl
  · rintro op W rd r1 rfl
    exact completes_reg h rfl rfl rfl
  · rintro op rd r1 imm rfl
    exact completes_reg h rfl rfl rfl
  · rintro op W rd r1 n rfl
    exact completes_reg h rfl rfl rfl
  · rintro rd imm rfl
    exact completes_reg h rfl rfl rfl
  · rintro rd imm rfl
    exact completes_reg h rfl rfl rfl
  · rintro op W rd r1 r2 rfl
    exact completes_reg h rfl rfl rfl
  · rintro op W rd r1 r2 rfl
    exact completes_reg h rfl rfl rfl

end Sys2Proof.Machine
end

section
/-! How a T-core runs an instruction whose fetch passes: what its body does, then the retirement or the exception (R277, R278, R287,
R296). -/
namespace Sys2Proof.Machine

/-! ## What a read of the ITCM leaves alone (R276) -/

section
variable (s : State)

theorem State.addE_frame (i j w k : Nat) :
    s.addE i j w k = { s with ent := (s.addE i j w k).ent, fresh := (s.addE i j w k).fresh } := by
  unfold State.addE
  dsimp only
  split
  · rfl
  · split <;> rfl

@[simp] theorem State.addE_island (i j w k : Nat) : (s.addE i j w k).island = s.island := by rw [State.addE_frame]

@[simp] theorem State.setLine_island (k : Nat) (l : Bool) : (s.setLine k l).island = s.island := by rw [State.setLine_frame]

@[simp] theorem State.record_island (b : Fin 49) (code unit unit2 addr info : Nat) :
    (s.record b code unit unit2 addr info).island = s.island := by
  unfold State.record State.bankLine
  dsimp only
  rw [State.setLine_island]
  split <;> split <;> simp

theorem State.eccWord_keeps (i : Fin 4) (unit a arr w : Nat) :
    (State.eccWord i unit a arr s w).island = s.island ∧ (State.eccWord i unit a arr s w).held = s.held := by
  unfold State.eccWord
  split
  · exact ⟨State.record_island _ _ _ _ _ _ _, State.record_held _ _ _ _ _ _ _⟩
  · exact ⟨rfl, rfl⟩

theorem State.eccFix_keeps (i : Fin 4) (unit a p n arr : Nat) :
    (s.eccFix i unit a p n arr).island = s.island ∧ (s.eccFix i unit a p n arr).held = s.held := by
  unfold State.eccFix
  induction wordsOf p n generalizing s with
  | nil => exact ⟨rfl, rfl⟩
  | cons w r ih =>
    obtain ⟨hisl, hheld⟩ := State.eccWord_keeps s i unit a arr w
    obtain ⟨hisl', hheld'⟩ := ih (State.eccWord i unit a arr s w)
    exact ⟨hisl'.trans hisl, hheld'.trans hheld⟩

theorem State.tFetchRead_keeps (i k : Fin 4) : (s.tFetchRead i k).island = s.island ∧ (s.tFetchRead i k).held = s.held :=
  State.eccFix_keeps s i k.val _ _ 4 _

end

/-! ## Running -/

/-- Core k of island i takes part, runs, and neither a debug halt nor a single step is asked of it. -/
def State.tGoes (s : State) (i k : Fin 4) : Prop :=
  (s.island.get i).active.contains k = true ∧ (s.tc i k).run = .running ∧ (s.tc i k).haltReq = false ∧ (s.tc i k).step1 = false

section
variable {s u v : State} {i k : Fin 4} {w : IWord} {ins : Aelxel}

theorem State.tGoes_of_tReady (h : s.tReady i k) : s.tGoes i k := by
  obtain ⟨hruns, hhalt, hstep⟩ := h
  simp only [State.tRuns, Bool.and_eq_true, beq_iff_eq] at hruns
  obtain ⟨⟨⟨⟨⟨hactive, hrun⟩, -⟩, -⟩, -⟩, -⟩ := hruns
  exact ⟨hactive, hrun, hhalt, hstep⟩

theorem State.tGoes_of_island (h : u.island = v.island) (hv : v.tGoes i k) : u.tGoes i k := by
  unfold State.tGoes State.tc at *
  rwa [h]

theorem State.tFetches.goes (h : s.tFetches i k w ins u) : u.tGoes i k := by
  obtain ⟨hready, -, rfl, -⟩ := h
  exact State.tGoes_of_island (State.tFetchRead_keeps _ i k).1 (State.tGoes_of_tReady hready)

theorem State.tFetches.held (h : s.tFetches i k w ins u) : u.held = false := by
  obtain ⟨-, -, rfl, -⟩ := h
  exact (State.tFetchRead_keeps _ i k).2

theorem State.tFetches.decode (h : s.tFetches i k w ins u) : decodeWord w = some ins := by
  obtain ⟨-, -, -, hdec, -⟩ := h
  exact hdec

theorem State.tFetches.no_delay (h : s.tFetches i k w ins u) (hi : slotForbids ins = true) : (u.tc i k).delay = none := by
  obtain ⟨-, -, -, -, -, hslot, -⟩ := h
  rw [hi, Bool.and_true] at hslot
  exact Option.isNone_iff_eq_none.mp (by simpa using hslot)

theorem State.tHaltTry_eq (h : (s.tc i k).haltReq = false) : s.tHaltTry i k = s := by
  simp [State.tHaltTry, h]

/-- Running the word of an instruction: the body in the state after the fetch, and what follows it. -/
theorem State.tStep_eq (h : s.tFetches i k w ins u) (body : TBody) :
    s.tStep i k w body = s.orWaits ((body ins u).1.tFinish i k (body ins u).2) := by
  obtain ⟨hready, hfetch, hu, hdec, halign, hslot, hloop⟩ := h
  have hready' : State.tReady { s with held := false } i k := hready
  have hfetch' : State.tFetch { s with held := false } i k = none := hfetch
  rw [State.tStep, State.served_eq_orWaits]
  refine congrArg s.orWaits ?_
  generalize { s with held := false } = z at hu hfetch' hready' ⊢
  obtain ⟨-, hrun, hhalt, -⟩ := State.tGoes_of_tReady hready'
  obtain ⟨hruns, -, -⟩ := hready'
  have hwake : z.tWake i k = z := if_neg (by simp [hrun])
  have hok : ((u.tc i k).delay.isSome && slotForbids ins || (u.tc i k).loopForbids ins) = false := by rw [hslot, hloop]; rfl
  simp only [hwake, State.tHaltTry_eq hhalt, hruns, hfetch', ← hu, hdec, halign, hok, Bool.not_true, Bool.false_eq_true, if_false]

/-- An instruction on the row of its group runs on the T-core that the command names. -/
theorem runInsn_t (h : s.tFetches i k w ins u) {row : String} (hrow : ins.row = row) (a : Fin 32 → ABody)
    (t : Fin 4 → Fin 4 → TBody) :
    runInsn row (.t i k) w a t s = .next (s.orWaits ((t i k ins u).1.tFinish i k (t i k ins u).2)) := by
  rw [runInsn, ← hrow, if_pos (wordOfRow_of_decode h.decode)]
  exact congrArg Host.Outcome.next (State.tStep_eq h _)

/-- What a command of a ready T-core answers, from what the instruction's body does. -/
theorem completes_t {cmd : Instr} {row : String} {a : Fin 32 → ABody} {t : Fin 4 → Fin 4 → TBody} {P : State → Prop} {o : TOut}
    (h : s.tFetches i k w ins u) (hexec : exec cmd s = runInsn row (.t i k) w a t s) (hrow : ins.row = row)
    (hbody : t i k ins u = (v, o)) (hP : P (s.orWaits (v.tFinish i k o))) : completes cmd s P := by
  refine ⟨_, hexec.trans (runInsn_t h hrow a t), ?_⟩
  rw [hbody]
  exact hP

/-! ## Exceptions and retirement -/

theorem State.tFinish_exn (hv : v.tGoes i k) (f : Exn) : v.tFinish i k (tExn f) = ((v.tWaited i k).tRaise i k f).tStepDone i k := by
  obtain ⟨hactive, hrun, -⟩ := hv
  simp [State.tFinish, List.contains_iff_mem.mp hactive, hrun, tExn]

theorem State.tFinish_stay (hv : v.tGoes i k) : v.tFinish i k tStay = v.tStalled i k := by
  obtain ⟨hactive, hrun, hhalt, -⟩ := hv
  have hstill : ((v.tStalled i k).tc i k).haltReq = false := by
    unfold State.tStalled
    split
    · exact hhalt
    · simpa [State.tc, State.modTc] using hhalt
  simp [State.tFinish, List.contains_iff_mem.mp hactive, hrun, tStay, State.tHaltTry_eq hstill]

/-- The flows after which an instruction retires and the core goes on. -/
def TFlow.retires : TFlow → Bool
  | .seq | .goto _ | .eret _ | .jump _ | .slot _ _ | .skip => true
  | .chkpt | .wfi | .exn _ | .stay => false

@[simp] theorem State.modTc_tc (s : State) (i k : Fin 4) (f : TCore → TCore) : (s.modTc i k f).tc i k = f (s.tc i k) := by
  simp [State.tc, State.modTc]

theorem State.tStepDone_eq (hhalt : (s.tc i k).haltReq = false) (hstep : (s.tc i k).step1 = false) : s.tStepDone i k = s := by
  have hsame : ∀ c : TCore, c.haltReq = false → c.step1 = false → { c with step1 := false, haltReq := c.haltReq || c.step1 } = c :=
    fun c h1 h2 => by
      cases c
      simp_all
  have hmod : (s.modTc i k fun c => { c with step1 := false, haltReq := c.haltReq || c.step1 }) = s := by
    unfold State.modTc State.modIsl
    rw [vmod_eq_self]
    rw [vmod_eq_self (hsame _ hhalt hstep)]
  rw [State.tStepDone, hmod, State.tHaltTry_eq hhalt]

theorem State.addE_held (s : State) (i j w k : Nat) : (s.addE i j w k).held = s.held := by rw [State.addE_frame]

/-- A counter entry takes a value, or the table of entries stays. -/
theorem State.addE_ent (s : State) (i j w k : Nat) : (s.addE i j w k).ent = s.ent ∨ ∃ n, (s.addE i j w k).ent = (s.setE i j n).ent := by
  unfold State.addE
  dsimp only
  split
  · exact .inl rfl
  · split
    · exact .inr ⟨_, rfl⟩
    · exact .inr ⟨_, rfl⟩

/-- What the island port drops: of the island its answers alone, and its count of mismatches. -/
theorem State.pruneDone_becomes {s v : State} {i k : Fin 4} {c : TCore} {n : Nat}
    (hs : s = { v with fresh := n, island := vset v.island i { v.island.get i with slots := vset (v.island.get i).slots k c } }) :
    v.tBecomes (s.pruneDone i) i k c ∧ (s.pruneDone i).held = v.held := by
  subst hs
  unfold State.pruneDone State.tBecomes
  dsimp only
  split
  · refine ⟨⟨?_, ?_, .inl rfl⟩, rfl⟩
    · simp [State.modIsl, vmod]
    · simp [State.modIsl, vmod]
  · refine ⟨⟨?_, ?_, State.addE_ent _ _ _ _ _⟩, State.addE_held _ _ _ _ _⟩
    · rw [State.addE_island]
      simp [State.modIsl, vmod]
    · rw [State.addE_frame]
      simp [State.modIsl, vmod]

/-- The cycles of a wait pass: they are free, and none where the core did not wait. -/
theorem State.tWaited_eq (v : State) (i k : Fin 4) : ∃ (x : Word) (n : Nat), ((v.tc i k).waited = false → x = 0) ∧
    v.tWaited i k = { v.modTc i k fun c => { c with waited := false, cycle := c.cycle + x } with fresh := n } := by
  unfold State.tWaited
  split
  next h => exact ⟨_, _, fun hno => absurd h (by simp [hno]), rfl⟩
  next h =>
    have hsame : ∀ c : TCore, c.waited = false → { c with waited := false, cycle := c.cycle + 0 } = c := fun c hc => by
      cases c
      simp_all
    refine ⟨0, v.fresh, fun _ => rfl, ?_⟩
    unfold State.modTc State.modIsl
    rw [vmod_eq_self]
    rw [vmod_eq_self (hsame _ (Bool.eq_false_iff.mpr h))]

theorem TCore.retire_retires (c : TCore) (x : Word) (o : TOut) :
    TCore.retire { c with waited := false, cycle := c.cycle + x } o = c.retires x (o.cyc + o.flow.extra) o.recs := rfl

/-- No flow asks for a debug halt or a single step. -/
theorem TCore.advance_calm (c : TCore) (f : TFlow) : (c.advance f).haltReq = c.haltReq ∧ (c.advance f).step1 = c.step1 := by
  unfold TCore.advance TCore.next TCore.next0 TCore.loopEnd TCore.leaveLoops
  dsimp only
  repeat' split
  all_goals exact ⟨rfl, rfl⟩

/-- A retired instruction, and what the island port drops after it. -/
theorem State.tFinish_retires (hv : v.tGoes i k) {o : TOut} (ho : o.flow.retires = true) :
    v.tFinish i k o = ((v.tWaited i k).modTc i k fun c => (c.retire o).advance o.flow).pruneDone i := by
  obtain ⟨hactive, hrun, hhalt, hstep⟩ := hv
  obtain ⟨x, n, -, hwaited⟩ := State.tWaited_eq v i k
  obtain ⟨hhalt', hstep'⟩ := TCore.advance_calm ((v.tc i k).retires x (o.cyc + o.flow.extra) o.recs) o.flow
  have htc : ((v.tWaited i k).modTc i k fun c => (c.retire o).advance o.flow).tc i k =
      ((v.tc i k).retires x (o.cyc + o.flow.extra) o.recs).advance o.flow := by
    rw [State.modTc_tc, hwaited, ← TCore.retire_retires]
    congr 2
    exact State.modTc_tc v i k _
  have hstay : o.flow ≠ .stay := fun h => by simp [h, TFlow.retires] at ho
  have hdone := State.tStepDone_eq (s := (v.tWaited i k).modTc i k fun c => (c.retire o).advance o.flow) (i := i) (k := k)
    (by rw [htc, hhalt']; exact hhalt) (by rw [htc, hstep']; exact hstep)
  unfold State.tFinish
  rw [hactive, hrun, if_neg (by decide), if_neg hstay]
  dsimp only
  split
  next h => simp [h, TFlow.retires] at ho
  next h => exact absurd h hstay
  next h => simp [h, TFlow.retires] at ho
  next h => simp [h, TFlow.retires] at ho
  next => rw [hdone]

/-- An instruction retires, and `g` says how the core goes on. -/
theorem State.tRetires_pruneDone (v : State) (i k : Fin 4) (o : TOut) (g : TCore → TCore) :
    v.tRetires (((v.tWaited i k).modTc i k fun c => g (c.retire o)).pruneDone i) i k (o.cyc + o.flow.extra) o.recs g ∧
      (((v.tWaited i k).modTc i k fun c => g (c.retire o)).pruneDone i).held = v.held := by
  obtain ⟨x, n, hx, hwaited⟩ := State.tWaited_eq v i k
  refine (State.pruneDone_becomes (n := n) ?_).imp (fun h => ⟨x, hx, h⟩) id
  rw [hwaited]
  simp [State.modTc, State.modIsl, vmod, State.tc, TCore.retire_retires]

/-- An instruction of a core that goes retires, and the core goes on as its flow says. -/
theorem State.tRetires_tFinish (hv : v.tGoes i k) {o : TOut} (ho : o.flow.retires = true) :
    v.tRetires (v.tFinish i k o) i k (o.cyc + o.flow.extra) o.recs (fun c => c.advance o.flow) ∧
      (v.tFinish i k o).held = v.held := by
  rw [State.tFinish_retires hv ho]
  exact State.tRetires_pruneDone v i k o fun c => c.advance o.flow

/-- A retirement in a command that did not have to wait. -/
theorem State.tRetires_orWaits {t : State} {n : Nat} {recs : List Byte} {f : TCore → TCore} (h : v.tRetires t i k n recs f)
    (ht : t.held = false) : v.tRetires (s.orWaits t) i k n recs f := by
  obtain ⟨x, hx, hisl, hframe, hent⟩ := h
  have horw : s.orWaits t = { t with held := s.held } := by simp [State.orWaits, ht]
  rw [horw]
  exact ⟨x, hx, hisl, congrArg (State.withHeld · s.held) hframe, hent⟩

theorem TCore.advance_seq : (fun c : TCore => c.advance .seq) = TCore.goesOn := rfl

/-- A command whose instruction retires. -/
theorem completes_retires {cmd : Instr} {row : String} {a : Fin 32 → ABody} {t : Fin 4 → Fin 4 → TBody} {o : TOut}
    (h : s.tFetches i k w ins u) (hexec : exec cmd s = runInsn row (.t i k) w a t s) (hrow : ins.row = row)
    (hbody : t i k ins u = (v, o)) (ho : o.flow.retires = true) (hv : v.tGoes i k) (hheld : v.held = false) :
    completes cmd s fun t => v.tRetires t i k (o.cyc + o.flow.extra) o.recs fun c => c.advance o.flow := by
  obtain ⟨hret, hkept⟩ := State.tRetires_tFinish hv ho
  exact completes_t h hexec hrow hbody (State.tRetires_orWaits hret (hkept.trans hheld))

/-- A command whose instruction retires and goes on in sequence. -/
theorem completes_tSeqs {cmd : Instr} {row : String} {a : Fin 32 → ABody} {t : Fin 4 → Fin 4 → TBody} {cyc : Nat} {recs : List Byte}
    (h : s.tFetches i k w ins u) (hexec : exec cmd s = runInsn row (.t i k) w a t s) (hrow : ins.row = row)
    (hbody : t i k ins u = (v, tSeq cyc recs)) (hv : v.tGoes i k) (hheld : v.held = false) :
    completes cmd s fun t => v.tSeqs t i k cyc recs :=
  completes_retires h hexec hrow hbody rfl hv hheld

/-- A command whose instruction raises an exception. -/
theorem completes_tRaises {cmd : Instr} {row : String} {a : Fin 32 → ABody} {t : Fin 4 → Fin 4 → TBody} {e : Exn}
    (h : s.tFetches i k w ins u) (hexec : exec cmd s = runInsn row (.t i k) w a t s) (hrow : ins.row = row)
    (hbody : t i k ins u = (v, tExn e)) (hv : v.tGoes i k) :
    completes cmd s fun t => t = s.orWaits (((v.tWaited i k).tRaise i k e).tStepDone i k) :=
  completes_t h hexec hrow hbody (by rw [State.tFinish_exn hv])

/-- A command whose instruction has to wait. -/
theorem completes_tStays {cmd : Instr} {row : String} {a : Fin 32 → ABody} {t : Fin 4 → Fin 4 → TBody}
    (h : s.tFetches i k w ins u) (hexec : exec cmd s = runInsn row (.t i k) w a t s) (hrow : ins.row = row)
    (hbody : t i k ins u = (v, tStay)) (hv : v.tGoes i k) : completes cmd s fun t => t = s.orWaits (v.tStalled i k) :=
  completes_t h hexec hrow hbody (by rw [State.tFinish_stay hv])

/-! ## Registers -/

/-- Which cores of an island take part depends on its state and their roles. -/
theorem Island.active_slots {x : Island} {k : Fin 4} {f : TCore → TCore} (hf : (f (x.slots.get k)).role = (x.slots.get k).role) :
    Island.active { x with slots := vmod x.slots k f } = x.active := by
  have hrole : ∀ j : Fin 4, ((vmod x.slots k f).get j).role = (x.slots.get j).role := fun j => by
    by_cases hj : j = k
    · rw [hj, vmod_get, hf]
    · rw [vmod_get_ne _ _ hj]
  unfold Island.active
  simp only [hrole]

/-- A change of the core that leaves it going. -/
theorem State.tGoes_modTc {f : TCore → TCore} (hv : v.tGoes i k)
    (hf : (f (v.tc i k)).role = (v.tc i k).role ∧ (f (v.tc i k)).run = (v.tc i k).run ∧
      (f (v.tc i k)).haltReq = (v.tc i k).haltReq ∧ (f (v.tc i k)).step1 = (v.tc i k).step1) : (v.modTc i k f).tGoes i k := by
  obtain ⟨hactive, hrun, hhalt, hstep⟩ := hv
  obtain ⟨hfrole, hfrun, hfhalt, hfstep⟩ := hf
  refine ⟨?_, ?_, ?_, ?_⟩
  · rw [State.modTc, State.modIsl_get, Island.active_slots hfrole]
    exact hactive
  · rw [State.modTc_tc, hfrun, hrun]
  · rw [State.modTc_tc, hfhalt, hhalt]
  · rw [State.modTc_tc, hfstep, hstep]

theorem State.tGoes_setTg {rd : Reg} {x : Word} (hv : v.tGoes i k) : (v.setTg i k rd x).tGoes i k := by
  unfold State.setTg
  split
  · exact hv
  · exact State.tGoes_modTc hv ⟨rfl, rfl, rfl, rfl⟩

theorem State.setTg_held (rd : Reg) (x : Word) : (v.setTg i k rd x).held = v.held := by
  unfold State.setTg
  split <;> rfl

theorem recG_eq (rd : Reg) (x : Word) : recG rd x = if rd = 0 then [] else toBytes 8 x.toNat := by
  unfold recG
  simp only [Fin.val_eq_zero_iff]

/-- An instruction that writes a general register and does nothing else. -/
theorem completes_tReg {cmd : Instr} {row : String} {a : Fin 32 → ABody} {t : Fin 4 → Fin 4 → TBody} {rd : Reg} {x : Word} {cyc : Nat}
    (h : s.tFetches i k w ins u) (hexec : exec cmd s = runInsn row (.t i k) w a t s) (hrow : ins.row = row)
    (hbody : t i k ins u = (u.setTg i k rd x, tSeq cyc (recG rd x))) :
    completes cmd s fun t => (u.setTg i k rd x).tSeqs t i k cyc (if rd = 0 then [] else toBytes 8 x.toNat) := by
  rw [← recG_eq]
  exact completes_tSeqs h hexec hrow hbody (State.tGoes_setTg h.goes) ((State.setTg_held rd x).trans h.held)

end

/-- Settles O14: each instruction of the three rows has a result for its destination, and `completes_tReg` says the rest. -/
theorem integerOnTCores : Obligations.IntegerOnTCores := by
  intro s u i k w ins h
  dsimp only
  refine ⟨?_, ?_, ?_, ?_, ?_, ?_, ?_, ?_⟩
  · rintro op W rd r1 r2 rfl
    exact completes_tReg (a := aReg) (t := tReg) h rfl rfl rfl
  · rintro op W rd r1 rfl
    exact completes_tReg (a := aReg) (t := tReg) h rfl rfl rfl
  · rintro op rd r1 imm rfl
    exact completes_tReg (a := aReg) (t := tReg) h rfl rfl rfl
  · rintro op W rd r1 n rfl
    exact completes_tReg (a := aReg) (t := tReg) h rfl rfl rfl
  · rintro rd imm rfl
    exact completes_tReg (a := aReg) (t := tReg) h rfl rfl rfl
  · rintro rd imm rfl
    exact completes_tReg (a := aReg) (t := tReg) h rfl rfl rfl
  · rintro op W rd r1 r2 rfl
    exact completes_tReg (a := aReg) (t := tReg) h rfl rfl rfl
  · rintro op W rd r1 r2 rfl
    exact completes_tReg (a := aReg) (t := tReg) h rfl rfl rfl

end Sys2Proof.Machine
end

section
/-! The general registers of both core types (R40, R41). -/
namespace Sys2Proof.Machine

section
variable (s : State) (c : Fin 32) (r r' : Reg) (v : Word)

theorem State.g_zero : s.g c 0 = 0 := rfl

theorem State.setG_zero : s.setG c 0 v = s := rfl

theorem State.g_31 : s.g c 31 = (s.acore.get c).sp.get ((s.acore.get c).spIdx s.hasH) := rfl

theorem State.g_low {r : Reg} (h0 : r ≠ 0) (hr : r.val < 31) : s.g c r = (s.acore.get c).g.get ⟨r.val, hr⟩ := by
  have hne : r.val ≠ 0 := fun h => h0 (Fin.ext h)
  simp [State.g, hne, hr, Nat.ne_of_lt hr]

theorem State.setG_31 : s.setG c 31 v =
    s.modA c fun a => { a with sp := vset a.sp (a.spIdx s.hasH) v } := rfl

theorem State.setG_low {r : Reg} (h0 : r ≠ 0) (hr : r.val < 31) : s.setG c r v =
    s.modA c fun a => { a with g := vset a.g ⟨r.val, hr⟩ v } := by
  have hne : r.val ≠ 0 := fun h => h0 (Fin.ext h)
  simp [State.setG, hne, hr]

/-- A register is g0, g31, which names a stack pointer, or one of those between them. -/
theorem Reg.cases (r : Reg) : r = 0 ∨ r = 31 ∨ (r ≠ 0 ∧ r.val < 31) := by
  by_cases h0 : r = 0
  · exact .inl h0
  · by_cases hr : r.val < 31
    · exact .inr (.inr ⟨h0, hr⟩)
    · exact .inr (.inl (Fin.ext (by have := r.isLt; change r.val = 31; omega)))

theorem State.setG_g (h : r ≠ 0) : (s.setG c r v).g c r = v := by
  obtain h0 | rfl | ⟨h0, hr⟩ := Reg.cases r
  · exact absurd h0 h
  · rw [State.setG_31, State.g_31]
    have hidx : ((s.modA c fun a => { a with sp := vset a.sp (a.spIdx s.hasH) v }).acore.get c).spIdx
        (s.modA c fun a => { a with sp := vset a.sp (a.spIdx s.hasH) v }).hasH = (s.acore.get c).spIdx s.hasH := by
      rw [State.modA_get]
      rfl
    rw [hidx, State.modA_get, vset_get]
  · rw [State.g_low _ _ h0 hr, State.setG_low _ _ _ h0 hr, State.modA_get, vset_get]

theorem State.setG_g_ne (h : r' ≠ r) : (s.setG c r v).g c r' = s.g c r' := by
  obtain rfl | rfl | ⟨h0, hr⟩ := Reg.cases r
  · rfl
  · obtain rfl | rfl | ⟨h0', hr'⟩ := Reg.cases r'
    · rfl
    · exact absurd rfl h
    · rw [State.setG_31, State.g_low _ _ h0' hr', State.g_low _ _ h0' hr', State.modA_get]
  · rw [State.setG_low _ _ _ h0 hr]
    obtain rfl | rfl | ⟨h0', hr'⟩ := Reg.cases r'
    · rfl
    · rw [State.g_31, State.g_31, State.modA_get]
      rfl
    · have hne : (⟨r'.val, hr'⟩ : Fin 31) ≠ ⟨r.val, hr⟩ := fun e => h (Fin.ext (congrArg (fun q : Fin 31 => q.val) e))
      rw [State.g_low _ _ h0' hr', State.g_low _ _ h0' hr', State.modA_get, vset_get_ne _ _ hne]

/-- What a write of a general register leaves alone. -/
theorem State.setG_frame (h : r ≠ 0) :
    let b := (s.setG c r v).acore.get c
    s.setG c r v = { s with acore := vset s.acore c { s.acore.get c with g := b.g, sp := b.sp } } ∧
    (r ≠ 31 → b.sp = (s.acore.get c).sp) ∧ (r = 31 → b.g = (s.acore.get c).g) ∧
    ∀ p : Fin 5, p ≠ (s.acore.get c).spIdx s.hasH → b.sp.get p = (s.acore.get c).sp.get p := by
  obtain h0 | rfl | ⟨h0, hr⟩ := Reg.cases r
  · exact absurd h0 h
  · rw [State.setG_31, State.modA_get]
    exact ⟨rfl, fun hne => absurd rfl hne, fun _ => rfl, fun p hp => vset_get_ne _ _ hp⟩
  · rw [State.setG_low _ _ _ h0 hr, State.modA_get]
    exact ⟨rfl, fun _ => rfl, fun he => absurd hr (by rw [he]; decide), fun _ _ => rfl⟩

end

section
variable (s : State) (i k : Fin 4) (r r' : Reg) (v : Word)

theorem State.setTg_zero : s.setTg i k 0 v = s := rfl

theorem State.setTg_of_ne {r : Reg} (h : r ≠ 0) : s.setTg i k r v = s.modTc i k fun c => { c with g := vset c.g r v } := by
  have hne : r.val ≠ 0 := fun e => h (Fin.ext e)
  simp [State.setTg, hne]

theorem State.tg_of_ne {r : Reg} (h : r ≠ 0) : s.tg i k r = (s.tc i k).g.get r := by
  have hne : r.val ≠ 0 := fun e => h (Fin.ext e)
  simp [State.tg, hne]

theorem State.setTg_tg {r : Reg} (h : r ≠ 0) : (s.setTg i k r v).tg i k r = v := by
  rw [State.tg_of_ne _ _ _ h, State.setTg_of_ne _ _ _ _ h, State.modTc_tc, vset_get]

theorem State.setTg_tg_ne (h : r' ≠ r) : (s.setTg i k r v).tg i k r' = s.tg i k r' := by
  by_cases hr : r = 0
  · rw [hr, State.setTg_zero]
  · by_cases hr' : r' = 0
    · rw [hr']
      rfl
    · rw [State.tg_of_ne _ _ _ hr', State.tg_of_ne _ _ _ hr', State.setTg_of_ne _ _ _ _ hr, State.modTc_tc, vset_get_ne _ _ h]

theorem State.setTg_frame :
    let x := s.island.get i
    s.setTg i k r v =
      { s with island := vset s.island i { x with slots := vset x.slots k { x.slots.get k with g := ((s.setTg i k r v).tc i k).g } } } := by
  by_cases hr : r = 0
  · rw [hr, State.setTg_zero]
    have hslots := vset_self (s.island.get i).slots k
    have hisland := vset_self s.island i
    change s = State.modIsl s i fun x => { x with slots := vset (s.island.get i).slots k ((s.island.get i).slots.get k) }
    rw [hslots]
    change s = { s with island := vset s.island i (s.island.get i) }
    rw [hisland]
  · rw [State.setTg_of_ne _ _ _ _ hr, State.modTc_tc]
    rfl

end

/-- Settles O11, from the reads of each kind of register after a write of each kind. -/
theorem generalRegisters : Obligations.GeneralRegisters := by
  refine ⟨fun s c v => ⟨rfl, rfl, fun hH hlh => ?_, fun hno => ?_⟩, fun s c r r' v h => ?_, fun s i k r r' v => ?_⟩
  · rw [State.g_31, ACore.spIdx, hH, hlh]
    rfl
  · rw [State.g_31, ACore.spIdx, hno]
    rfl
  · exact ⟨State.setG_g s c r v h, State.setG_g_ne s c r r' v, State.setG_frame s c r v h⟩
  · exact ⟨rfl, rfl, State.setTg_tg s i k v, State.setTg_tg_ne s i k r r' v, State.setTg_frame s i k r v⟩

end Sys2Proof.Machine
end

section
/-! What a branch or a jump leaves of the predictors, the histories and the return stack (R103 to R105). -/
namespace Sys2Proof.Machine

section
variable {u v t : State} {c : Fin 32}

theorem State.aPredicts.refl (v : State) (c : Fin 32) : v.aPredicts v c := by
  unfold State.aPredicts
  dsimp only
  rw [vset_self]

theorem State.aPredicts.trans (huv : u.aPredicts v c) (hvt : v.aPredicts t c) : u.aPredicts t c := by
  unfold State.aPredicts at *
  dsimp only at *
  rw [huv] at hvt
  simpa using hvt

theorem State.aPredicts_fresh (v : State) (c : Fin 32) (n : Nat) : v.aPredicts { v with fresh := n } c := by
  unfold State.aPredicts
  dsimp only
  rw [vset_self]

/-- A change of what the predictors hold. -/
theorem State.aPredicts_modA {f : ACore → ACore} (v : State) (c : Fin 32)
    (hf : ∀ a, f a = { a with pred := (f a).pred, ret := (f a).ret, hist := (f a).hist, path := (f a).path }) :
    v.aPredicts (v.modA c f) c := by
  unfold State.aPredicts
  dsimp only
  rw [State.modA_get, ← hf]
  rfl

theorem State.insertFree_fst {α : Type} [DecidableEq α] (s : State) (n ways : Nat) (l : List α) (x : α) :
    ∃ m, (s.insertFree n ways l x).1 = { s with fresh := m } := by
  unfold State.insertFree
  dsimp only
  split
  · exact ⟨_, rfl⟩
  · split
    · exact ⟨_, rfl⟩
    · split <;> exact ⟨_, rfl⟩

theorem State.aPredicts_predPut (v : State) (c : Fin 32) (kind : PredKind) (addr : Word) (hist : List Bool) (path : List Word)
    (target : Word) (taken : Bool) : v.aPredicts (v.predPut c kind addr hist path target taken) c := by
  unfold State.predPut
  dsimp only
  generalize hr : v.insertFree (α := PredEnt) _ _ _ _ = r
  obtain ⟨m, hm⟩ : ∃ m, r.1 = { v with fresh := m } := hr ▸ State.insertFree_fst v _ _ _ _
  rw [hm]
  exact (State.aPredicts_fresh v c m).trans (State.aPredicts_modA _ c fun _ => rfl)

theorem State.aPredicts_learnBranch (v : State) (c : Fin 32) (taken : Bool) : v.aPredicts (v.learnBranch c taken) c := by
  unfold State.learnBranch
  split
  · exact .refl v c
  · dsimp only [State.draw]
    generalize hp : v.predPut c .direction (v.acore.get c).pc [] [] 0 taken = p
    have hbase : v.aPredicts { p with fresh := p.fresh + 1 } c :=
      (hp ▸ State.aPredicts_predPut v c .direction _ [] [] 0 taken : v.aPredicts p c).trans (State.aPredicts_fresh p c _)
    split
    · exact (hbase.trans (State.aPredicts_predPut _ c _ _ _ _ _ _)).trans (State.aPredicts_modA _ c fun _ => rfl)
    · exact hbase.trans (State.aPredicts_modA _ c fun _ => rfl)

theorem State.aPredicts_learnTarget (v : State) (c : Fin 32) (indirect : Bool) (tgt : Word) :
    v.aPredicts (v.learnTarget c indirect tgt) c := by
  unfold State.learnTarget
  split
  · exact .refl v c
  · dsimp only
    have hbase := State.aPredicts_predPut v c .target (v.acore.get c).pc [] [] tgt true
    split
    · exact (hbase.trans (State.aPredicts_predPut _ c _ _ _ _ _ _)).trans (State.aPredicts_modA _ c fun _ => rfl)
    · exact hbase.trans (State.aPredicts_modA _ c fun _ => rfl)

theorem State.aPredicts_callPush (v : State) (c : Fin 32) : v.aPredicts (v.callPush c) c := by
  unfold State.callPush
  split
  · exact .refl v c
  · exact State.aPredicts_modA v c fun _ => rfl

theorem State.aPredicts_retPop (v : State) (c : Fin 32) : v.aPredicts (v.retPop c) c :=
  State.aPredicts_modA v c fun _ => rfl

/-- What a change of the predictors leaves of the core: where it stands, and whether anything is asked of it. -/
theorem State.aPredicts.core (h : u.aPredicts v c) :
    (v.acore.get c).pc = (u.acore.get c).pc ∧ (v.acore.get c).delay = (u.acore.get c).delay ∧ (u.calm c → v.calm c) ∧
      v.held = u.held := by
  unfold State.aPredicts at h
  dsimp only at h
  refine ⟨?_, ?_, fun hu => ?_, ?_⟩
  · rw [h, vset_get]
  · rw [h, vset_get]
  · rw [State.calm, h, vset_get]
    exact hu
  · rw [h]

end
end Sys2Proof.Machine
end

section
/-! Floating-point operations and the corners of division on both core types (R42 to R45, R51). -/
namespace Sys2Proof.Machine

/-! ## Division (R51) -/

/-- An operation at the width of a form: at 64 bits as it is, at 32 bits on the low halves, sign-extended. -/
theorem wForm_false (f : ∀ {n : Nat}, BitVec n → BitVec n → BitVec n) (x y : Word) : wForm false f x y = f x y := rfl

theorem wForm_true (f : ∀ {n : Nat}, BitVec n → BitVec n → BitVec n) (x y : Word) :
    wForm true f x y = (f (x.setWidth 32) (y.setWidth 32)).signExtend 64 := rfl

theorem divOp_corner_zero (x : Word) :
    divOp .div false x 0 = BitVec.allOnes 64 ∧ divOp .divu false x 0 = BitVec.allOnes 64 ∧
    divOp .rem false x 0 = x ∧ divOp .remu false x 0 = x := by
  refine ⟨?_, ?_, ?_, ?_⟩ <;> rfl

theorem divOp_w_zero {x y : Word} (hy : y.setWidth 32 = (0 : BitVec 32)) :
    divOp .div true x y = BitVec.allOnes 64 ∧ divOp .divu true x y = BitVec.allOnes 64 ∧
    divOp .rem true x y = (x.setWidth 32).signExtend 64 ∧ divOp .remu true x y = (x.setWidth 32).signExtend 64 := by
  simp only [divOp, wForm_true, hy, if_true, true_and]
  exact ⟨rfl, rfl, trivial⟩

theorem divOp_overflow {x y : Word} (hx : x.toInt = -2 ^ 63) (hy : y.toInt = -1) :
    divOp .div false x y = x ∧ divOp .rem false x y = 0 := by
  obtain rfl : x = 0x8000000000000000#64 := BitVec.eq_of_toInt_eq hx
  obtain rfl : y = 0xFFFFFFFFFFFFFFFF#64 := BitVec.eq_of_toInt_eq hy
  decide

theorem divOp_w_overflow {x y : Word} (hx : (x.setWidth 32 : BitVec 32).toInt = -2 ^ 31)
    (hy : (y.setWidth 32 : BitVec 32).toInt = -1) :
    divOp .div true x y = (x.setWidth 32).signExtend 64 ∧ divOp .rem true x y = 0 := by
  have hx' : x.setWidth 32 = 0x80000000#32 := BitVec.eq_of_toInt_eq hx
  have hy' : y.setWidth 32 = 0xFFFFFFFF#32 := BitVec.eq_of_toInt_eq hy
  simp only [divOp, wForm_true, hx', hy']
  decide

/-- Settles O16: the four corners, and a division that retires or commits whatever its operands. -/
theorem divisionCorners : Obligations.DivisionCorners := by
  refine ⟨?_, fun _ _ => divOp_w_zero, fun _ _ => divOp_overflow, fun _ _ => divOp_w_overflow, ?_, ?_⟩
  · rintro x y rfl
    exact divOp_corner_zero x
  · intro s u c w op W rd r1 r2 h
    obtain ⟨t, ht, hseq⟩ := completes_reg (cmd := .divide (.a c) w) h rfl rfl rfl
    exact ⟨t, ht, _, hseq⟩
  · intro s u i k w op W rd r1 r2 h
    obtain ⟨t, ht, hseq⟩ := completes_tReg (cmd := .divide (.t i k) w) (a := aReg) (t := tReg) h rfl rfl rfl
    exact ⟨t, ht, _, _, _, hseq⟩

/-! ## Floating point -/

theorem nanBox_high (n : Nat) : (nanBox n).toNat / 2 ^ 32 = 2 ^ 32 - 1 := by
  rw [nanBox, word, BitVec.toNat_ofNat]
  omega

section
variable {op : FpOp} {m : Nat} {fr : Free} {d x y d' x' y' g v : Word}

/-- A single-precision result in a floating-point register is boxed (R42). -/
theorem fpOp_single_boxed (h : (fpOp op true m fr d x y g).1 = .f v) : ∃ n, v = nanBox n := by
  cases op
  all_goals simp only [fpOp, if_true, FpDest.f.injEq, reduceCtorEq] at h
  all_goals exact ⟨_, h.symm⟩

/-- A single-precision operation looks at the low halves of its sources (R42). -/
theorem fpOp_single_low (h : (fpOp op true m fr d x y g).1 = .f v) (hop : op ≠ .cvtP) (hd : d.setWidth 32 = d'.setWidth 32)
    (hx : x.setWidth 32 = x'.setWidth 32) (hy : y.setWidth 32 = (y'.setWidth 32 : BitVec 32)) :
    fpOp op true m fr d' x' y' g = fpOp op true m fr d x y g := by
  have hlow : ∀ {a b : Word}, a.setWidth 32 = (b.setWidth 32 : BitVec 32) → b.toNat % 2 ^ 32 = a.toNat % 2 ^ 32 := fun e => by
    simpa using (congrArg BitVec.toNat e).symm
  cases op
  case cvtP => exact absurd rfl hop
  case mvFG => cases h
  all_goals simp only [fpOp, if_true, hlow hd, hlow hx, hlow hy]

end

section
variable {s u : State} {w : IWord} {op : FpOp} {single : Bool} {rm : Fin 8} {rd r1 r2 : Reg}

theorem roundingMode_reserved {fsr : BitVec 32} (hrm : rm.val = 7) (h : 5 ≤ bits fsr.toNat 7 5) : roundingMode rm fsr = none := by
  rw [roundingMode, if_pos hrm, fsrRm, if_neg (by omega)]

theorem completes_aFloat {c : Fin 32} (h : s.aFetches c w (.fp op single rm rd r1 r2) u) {m : Nat}
    (hm : roundingMode rm (u.acore.get c).fsr = some m) :
    let r := fpOp op single m (freeFp u.fresh) (u.f c rd) (u.f c r1) (u.f c r2) (u.g c r1)
    let v := { u with fresh := u.fresh + 2 }.modA c fun a => { a with fsr := a.fsr ||| r.2.toBits }
    completes (.floatOp (.a c) w) s fun t => match r.1 with
      | .f x => u.aSeq (v.setF c rd x) t c
      | .g x => u.aSeq (v.setG c rd x) t c := by
  intro r v
  have hv : v.calm c := State.modA_calm (s := { u with fresh := u.fresh + 2 }) h.calm fun _ ha => ha
  have hbody : aFloat c w (.fp op single rm rd r1 r2) u = (match r.1 with
      | .f x => (v.setF c rd x, .seq, [])
      | .g x => (v.setG c rd x, .seq, [])) := by
    simp only [aFloat, hm]
    rfl
  split
  next x hx =>
    rw [hx] at hbody
    exact completes_aSeq (a := fun c => aFloat c w) (t := fun i k => tFloat i k w) h rfl rfl hbody (State.setF_calm hv) h.held
  next x hx =>
    rw [hx] at hbody
    exact completes_aSeq (a := fun c => aFloat c w) (t := fun i k => tFloat i k w) h rfl rfl hbody (State.setG_calm hv) ((State.setG_held x).trans h.held)

theorem completes_aFloat_reserved {c : Fin 32} (h : s.aFetches c w (.fp op single rm rd r1 r2) u)
    (hm : roundingMode rm (u.acore.get c).fsr = none) :
    completes (.floatOp (.a c) w) s fun t => t = s.orWaits ((u.raise c (illegal w)).stepDone c) := by
  refine completes_raises (a := fun c => aFloat c w) (t := fun i k => tFloat i k w) (evs := []) h rfl rfl ?_
  simp only [aFloat, hm]

theorem completes_tFloat {i k : Fin 4} (h : s.tFetches i k w (.fp op single rm rd r1 r2) u) {m : Nat}
    (hm : roundingMode rm (u.tc i k).fsr = some m) :
    let r := fpOp op single m (freeFp u.fresh) (u.tf i k rd) (u.tf i k r1) (u.tf i k r2) (u.tg i k r1)
    let v := { u with fresh := u.fresh + 2 }.modTc i k fun c => { c with fsr := c.fsr ||| r.2.toBits }
    completes (.floatOp (.t i k) w) s fun t => match r.1 with
      | .f x => (v.setTf i k rd x).tSeqs t i k (tCycles (.fp op single rm rd r1 r2)) (toBytes 8 x.toNat)
      | .g x => (v.setTg i k rd x).tSeqs t i k (tCycles (.fp op single rm rd r1 r2)) (if rd = 0 then [] else toBytes 8 x.toNat) := by
  intro r v
  have hv : v.tGoes i k := State.tGoes_modTc (v := { u with fresh := u.fresh + 2 }) h.goes ⟨rfl, rfl, rfl, rfl⟩
  have hbody : tFloat i k w (.fp op single rm rd r1 r2) u = (match r.1 with
      | .f x => (v.setTf i k rd x, tSeq (tCycles (.fp op single rm rd r1 r2)) (recF x))
      | .g x => (v.setTg i k rd x, tSeq (tCycles (.fp op single rm rd r1 r2)) (recG rd x))) := by
    simp only [tFloat, hm]
    rfl
  split
  next x hx =>
    rw [hx] at hbody
    exact completes_tSeqs (a := fun c => aFloat c w) (t := fun i k => tFloat i k w) h rfl rfl hbody
      (State.tGoes_modTc hv ⟨rfl, rfl, rfl, rfl⟩) h.held
  next x hx =>
    rw [hx] at hbody
    rw [← recG_eq]
    exact completes_tSeqs (a := fun c => aFloat c w) (t := fun i k => tFloat i k w) h rfl rfl hbody (State.tGoes_setTg hv)
      ((State.setTg_held rd x).trans h.held)

theorem completes_tFloat_reserved {i k : Fin 4} (h : s.tFetches i k w (.fp op single rm rd r1 r2) u)
    (hm : roundingMode rm (u.tc i k).fsr = none) :
    completes (.floatOp (.t i k) w) s fun t => t = s.orWaits (((u.tWaited i k).tRaise i k (illegal w)).tStepDone i k) := by
  refine completes_tRaises (a := fun c => aFloat c w) (t := fun i k => tFloat i k w) h rfl rfl ?_ h.goes
  simp only [tFloat, hm]

end

/-- Settles O15: the two outcomes on each core type, and what the operations do with single-precision values. -/
theorem floatOperations : Obligations.FloatOperations := by
  refine ⟨fun s u c w op single rm rd r1 r2 h => ⟨fun m hm => completes_aFloat h hm, fun hrm hfsr => ?_⟩,
    fun s u i k w op single rm rd r1 r2 h => ⟨fun m hm => completes_tFloat h hm, fun hrm hfsr => ?_⟩, ?_⟩
  · exact completes_aFloat_reserved h (roundingMode_reserved hrm hfsr)
  · exact completes_tFloat_reserved h (roundingMode_reserved hrm hfsr)
  · intro op m fr d x y d' x' y' g v h
    obtain ⟨n, rfl⟩ := fpOp_single_boxed h
    exact ⟨nanBox_high n, fpOp_single_low h⟩

end Sys2Proof.Machine
end

section
/-! Branches and jumps on an A-core (R55 to R61). -/
namespace Sys2Proof.Machine

theorem completes.imp {cmd : Instr} {s : State} {P Q : State → Prop} (h : completes cmd s P) (hPQ : ∀ t, P t → Q t) :
    completes cmd s Q := by
  obtain ⟨t, ht, hP⟩ := h
  exact ⟨t, ht, hPQ t hP⟩

/-- A write of a register leaves the core where it stands. -/
theorem State.setG_place (v : State) (c : Fin 32) (r : Reg) (x : Word) :
    ((v.setG c r x).acore.get c).pc = (v.acore.get c).pc ∧ ((v.setG c r x).acore.get c).delay = (v.acore.get c).delay := by
  by_cases hr : r = 0
  · rw [hr]
    exact ⟨rfl, rfl⟩
  · obtain ⟨hframe, -⟩ := State.setG_frame v c r x hr
    rw [hframe, vset_get]
    exact ⟨rfl, rfl⟩

section
variable {s u v : State} {c : Fin 32} {w : IWord} {ins : Aelxel} {cmd : Instr} {row : String} {a : Fin 32 → ABody}
  {t : Fin 4 → Fin 4 → TBody} {evs : List Nat} {rd : Reg} {x : Word}

/-- A branch or a jump commits: it has changed the predictors, and written its link (none where `rd` is g0). -/
theorem completes_predicts (h : s.aFetches c w ins u) (hexec : exec cmd s = runInsn row (.a c) w a t s) (hrow : ins.row = row)
    (hv : u.aPredicts v c) {f : Flow} {pc : Word} {d : Option Delay} (hbody : a c ins u = (v.setG c rd x, f, evs))
    (hf : f.commits = true) (hmoves : f.moves (u.acore.get c) pc d) :
    completes cmd s fun t => u.aCommits (v.setG c rd x) t c pc d := by
  obtain ⟨hpc, hdelay, hcalm, hheld⟩ := hv.core
  obtain ⟨hpc', hdelay'⟩ := State.setG_place v c rd x
  refine completes_commits h hexec hrow hbody hf (fun b hb hd => hmoves b ?_ ?_) (State.setG_calm (hcalm h.calm))
    ((State.setG_held x).trans (hheld.trans h.held))
  · rw [hb, hpc', hpc]
  · rw [hd, hdelay', hdelay]

/-- A jump goes to its target, through its delay slot or at once (R56). -/
theorem completes_aJumps (h : s.aFetches c w ins u) (hexec : exec cmd s = runInsn row (.a c) w a t s) (hrow : ins.row = row)
    (hv : u.aPredicts v c) {annul : Bool} {tgt : Word} (hbody : a c ins u = (v.setG c rd x, jumpFlow annul tgt, evs)) :
    let pc := (u.acore.get c).pc
    completes cmd s fun t => if annul then u.aCommits (v.setG c rd x) t c tgt none
      else u.aCommits (v.setG c rd x) t c (pc + 4) (some ⟨pc, tgt⟩) := by
  cases annul with
  | true => exact completes_predicts h hexec hrow hv hbody rfl (Flow.goto_moves _ _)
  | false => exact completes_predicts h hexec hrow hv hbody rfl (Flow.slot_moves _ _)

end

section
variable {s u : State} {c : Fin 32} {w : IWord} {cond : Cond} {r1 r2 rd : Reg} {annul : Bool}

theorem completes_aBranch {off : BitVec 15} (h : s.aFetches c w (.branch cond r1 r2 annul off) u) :
    let pc := (u.acore.get c).pc
    completes (.conditionalBranch (.a c) w) s fun t => ∃ v, u.aPredicts v c ∧
      if condHolds cond (u.g c r1) (u.g c r2) then u.aCommits v t c (pc + 4) (some ⟨pc, pc + off.signExtend 64 * 4⟩)
      else if annul then u.aCommits v t c (pc + 8) none else u.aCommits v t c (pc + 4) (some ⟨pc, pc + 8⟩) := by
  intro pc
  have hlearn := State.aPredicts_learnBranch u c (condHolds cond (u.g c r1) (u.g c r2))
  split
  next htaken =>
    have hv := hlearn.trans (State.aPredicts_learnTarget _ c false (targetOf pc off))
    have hbody : aBranch c (.branch cond r1 r2 annul off) u =
        ((u.learnBranch c (condHolds cond (u.g c r1) (u.g c r2))).learnTarget c false (targetOf pc off), .slot (targetOf pc off),
          u.brEvent c false) := by
      rw [aBranch]
      exact if_pos htaken
    exact (completes_predicts (rd := 0) (x := 0) (a := aBranch) (t := tBranch) h rfl rfl hv hbody rfl (Flow.slot_moves _ _)).imp
      fun t ht => ⟨_, hv, ht⟩
  next hno =>
    cases annul with
    | true =>
      have hbody : aBranch c (.branch cond r1 r2 true off) u =
          (u.learnBranch c (condHolds cond (u.g c r1) (u.g c r2)), .skip, u.brEvent c false) := by
        rw [aBranch]
        exact if_neg hno
      exact (completes_predicts (rd := 0) (x := 0) (a := aBranch) (t := tBranch) h rfl rfl hlearn hbody rfl
        (Flow.skip_moves (h.no_delay rfl))).imp fun t ht => ⟨_, hlearn, ht⟩
    | false =>
      have hbody : aBranch c (.branch cond r1 r2 false off) u =
          (u.learnBranch c (condHolds cond (u.g c r1) (u.g c r2)), .slot (pc + 8), u.brEvent c false) := by
        rw [aBranch]
        exact if_neg hno
      exact (completes_predicts (rd := 0) (x := 0) (a := aBranch) (t := tBranch) h rfl rfl hlearn hbody rfl
        (Flow.slot_moves _ _)).imp fun t ht => ⟨_, hlearn, ht⟩

theorem completes_aJ {off : BitVec 25} (h : s.aFetches c w (.jmp false annul off) u) :
    let pc := (u.acore.get c).pc
    let tgt := pc + off.signExtend 64 * 4
    completes (.jump (.a c) w) s fun t => ∃ v, u.aPredicts v c ∧
      if annul then u.aCommits v t c tgt none else u.aCommits v t c (pc + 4) (some ⟨pc, tgt⟩) := by
  intro pc tgt
  have hv := State.aPredicts_learnTarget u c false tgt
  exact (completes_aJumps (rd := 0) (x := 0) (a := aJump) (t := tJump) h rfl rfl hv rfl).imp fun t ht => ⟨_, hv, ht⟩

theorem completes_aJal {off : BitVec 25} (h : s.aFetches c w (.jmp true annul off) u) :
    let pc := (u.acore.get c).pc
    let tgt := pc + off.signExtend 64 * 4
    completes (.jump (.a c) w) s fun t => ∃ v, u.aPredicts v c ∧
      if annul then u.aCommits (v.setG c 1 (pc + 8)) t c tgt none
      else u.aCommits (v.setG c 1 (pc + 8)) t c (pc + 4) (some ⟨pc, tgt⟩) := by
  intro pc tgt
  have hv := (State.aPredicts_learnTarget u c false tgt).trans (State.aPredicts_callPush _ c)
  exact (completes_aJumps (a := aJump) (t := tJump) h rfl rfl hv rfl).imp fun t ht => ⟨_, hv, ht⟩

/-- The fault of a register jump whose target is no multiple of 4 (R61). -/
theorem completes_aMisaligned {ins : Aelxel} (h : s.aFetches c w ins u) (hrow : ins.row = "REGISTER_JUMP") {tgt : Word}
    (hbody : aRegJump c w ins u = (u, .exn (exn 6 0 0 tgt), [])) :
    completes (.registerJump (.a c) w) s fun t => t = s.orWaits ((u.raise c (exn 6 0 0 tgt)).stepDone c) :=
  completes_raises (a := fun c => aRegJump c w) (t := fun i k => tRegJump i k w) h rfl hrow hbody

theorem completes_aJr (h : s.aFetches c w (.jr annul r1) u) :
    let pc := (u.acore.get c).pc
    completes (.registerJump (.a c) w) s fun t =>
      if (u.g c r1).toNat % 4 = 0 then ∃ v, u.aPredicts v c ∧
        if annul then u.aCommits v t c (u.g c r1) none else u.aCommits v t c (pc + 4) (some ⟨pc, u.g c r1⟩)
      else t = s.orWaits ((u.raise c (exn 6 0 0 (u.g c r1))).stepDone c) := by
  intro pc
  split
  next halign =>
    have hpop : u.aPredicts (if r1 = 1 ∧ u.barred c = false then u.retPop c else u) c := by
      split
      · exact State.aPredicts_retPop u c
      · exact .refl u c
    have hv := hpop.trans (State.aPredicts_learnTarget _ c (r1 ≠ 1) (u.g c r1))
    have hbody : aRegJump c w (.jr annul r1) u =
        ((if r1 = 1 ∧ u.barred c = false then u.retPop c else u).learnTarget c (r1 ≠ 1) (u.g c r1), jumpFlow annul (u.g c r1),
          u.brEvent c true) := by
      rw [aRegJump]
      exact if_neg (not_not.mpr halign)
    exact (completes_aJumps (rd := 0) (x := 0) (a := fun c => aRegJump c w) (t := fun i k => tRegJump i k w) h rfl rfl hv hbody).imp
      fun t ht => ⟨_, hv, ht⟩
  next halign =>
    exact completes_aMisaligned h rfl (by rw [aRegJump]; exact if_pos halign)

theorem completes_aJalr (h : s.aFetches c w (.jalr annul rd r1) u) :
    let pc := (u.acore.get c).pc
    completes (.registerJump (.a c) w) s fun t =>
      if rd = r1 ∧ rd ≠ 0 then t = s.orWaits ((u.raise c (illegal w)).stepDone c)
      else if (u.g c r1).toNat % 4 = 0 then ∃ v, u.aPredicts v c ∧
        if annul then u.aCommits (v.setG c rd (pc + 8)) t c (u.g c r1) none
        else u.aCommits (v.setG c rd (pc + 8)) t c (pc + 4) (some ⟨pc, u.g c r1⟩)
      else t = s.orWaits ((u.raise c (exn 6 0 0 (u.g c r1))).stepDone c) := by
  intro pc
  split
  next hsame =>
    have hbody : aRegJump c w (.jalr annul rd r1) u = (u, .exn (illegal w), []) := by
      rw [aRegJump]
      exact if_pos hsame
    exact completes_raises (a := fun c => aRegJump c w) (t := fun i k => tRegJump i k w) h rfl rfl hbody
  next hsame =>
    split
    next halign =>
      have hv := (State.aPredicts_learnTarget u c true (u.g c r1)).trans (State.aPredicts_callPush _ c)
      have hbody : aRegJump c w (.jalr annul rd r1) u =
          ((State.callPush (u.learnTarget c true (u.g c r1)) c).setG c rd (pc + 8), jumpFlow annul (u.g c r1), u.brEvent c true) := by
        rw [aRegJump]
        exact (if_neg hsame).trans (if_neg (not_not.mpr halign))
      exact (completes_aJumps (a := fun c => aRegJump c w) (t := fun i k => tRegJump i k w) h rfl rfl hv hbody).imp
        fun t ht => ⟨_, hv, ht⟩
    next halign =>
      exact completes_aMisaligned h rfl (by rw [aRegJump]; exact (if_neg hsame).trans (if_pos halign))

end

/-- Settles O17, one lemma for each instruction. -/
theorem branchesOnACores : Obligations.BranchesOnACores := by
  intro s u c w ins h
  refine ⟨?_, ?_, ?_, ?_, ?_⟩
  · rintro cond r1 r2 a off rfl
    exact completes_aBranch h
  · rintro a off rfl
    exact completes_aJ h
  · rintro a off rfl
    exact completes_aJal h
  · rintro a r1 rfl
    exact completes_aJr h
  · rintro a rd r1 rfl
    exact completes_aJalr h

end Sys2Proof.Machine
end

section
/-! Branches and jumps on a T-core (R55 to R61, R88, R291). -/
namespace Sys2Proof.Machine

/-- What a command answers whose instruction goes on at `tgt`: the exception of the target's check against PCC, or `P` (R291). -/
def State.tChecks (s u : State) (i k : Fin 4) (tgt : Word) (t : State) (P : Prop) : Prop :=
  match (u.tc i k).pcc.refuses tgt.toNat 4 permX with
  | some cause => t = s.orWaits (((u.tWaited i k).tRaise i k (exn 24 cause 0x10 tgt)).tStepDone i k)
  | none => P

/-- How a taken branch or a jump moves the core: through its delay slot, or at once, ending the loops that it leaves. -/
def TCore.jumps (pc : Word) (annul : Bool) (tgt : Word) (d : TCore) : TCore :=
  if annul then { d with pc := tgt }.leaveLoops tgt else { d with delay := some ⟨pc, tgt⟩, slotClears := true, pc := pc + 4 }

section
variable {s u v t : State} {i k : Fin 4} {w : IWord} {ins : Aelxel} {cmd : Instr} {row : String} {a : Fin 32 → ABody}
  {tb : Fin 4 → Fin 4 → TBody} {tgt : Word}

theorem State.tRetires.congr {n : Nat} {recs : List Byte} {f g : TCore → TCore} (h : v.tRetires t i k n recs f)
    (hfg : ∀ d : TCore, d.pc = (v.tc i k).pc → f d = g d) : v.tRetires t i k n recs g := by
  obtain ⟨x, hx, hbecomes⟩ := h
  rw [hfg ((v.tc i k).retires x n recs) rfl] at hbecomes
  exact ⟨x, hx, hbecomes⟩

theorem State.tTarget_some {cause : Nat} (h : (u.tc i k).pcc.refuses tgt.toNat 4 permX = some cause) :
    u.tTarget i k tgt = some (exn 24 cause 0x10 tgt) := by
  rw [State.tTarget, h]
  rfl

theorem State.tTarget_none (h : (u.tc i k).pcc.refuses tgt.toNat 4 permX = none) : u.tTarget i k tgt = none := by
  rw [State.tTarget, h]
  rfl

/-- An instruction that goes on at `tgt` where PCC admits it. -/
theorem completes_tChecks {P : State → Prop} {o : State × TOut} (h : s.tFetches i k w ins u)
    (hexec : exec cmd s = runInsn row (.t i k) w a tb s) (hrow : ins.row = row)
    (hbody : tb i k ins u = match u.tTarget i k tgt with
      | some f => (u, tExn f)
      | none => o)
    (hP : tb i k ins u = o → completes cmd s P) : completes cmd s fun t => s.tChecks u i k tgt t (P t) := by
  unfold State.tChecks
  split
  next cause hc =>
    rw [State.tTarget_some hc] at hbody
    exact completes_tRaises h hexec hrow hbody h.goes
  next hc =>
    rw [State.tTarget_none hc] at hbody
    exact hP hbody

theorem State.setTg_pc (v : State) (i k : Fin 4) (rd : Reg) (x : Word) : ((v.setTg i k rd x).tc i k).pc = (v.tc i k).pc := by
  by_cases hr : rd = 0
  · rw [hr, State.setTg_zero]
  · rw [State.setTg_of_ne _ _ _ _ hr, State.modTc_tc]

/-- A jump retires, having written its link (none where `rd` is g0), and goes on at its target. -/
theorem completes_tJumps {rd : Reg} {x : Word} {annul : Bool} {n : Nat} {recs : List Byte} (h : s.tFetches i k w ins u)
    (hexec : exec cmd s = runInsn row (.t i k) w a tb s) (hrow : ins.row = row)
    (hbody : tb i k ins u = (u.setTg i k rd x, ⟨tJumpFlow annul tgt, n, recs⟩)) :
    completes cmd s fun t => (u.setTg i k rd x).tRetires t i k (if annul then n + 1 else n) recs
      (TCore.jumps (u.tc i k).pc annul tgt) := by
  have hgoes : (u.setTg i k rd x).tGoes i k := State.tGoes_setTg h.goes
  have hheld : (u.setTg i k rd x).held = false := (State.setTg_held rd x).trans h.held
  cases annul with
  | true =>
    exact completes_retires h hexec hrow hbody rfl hgoes hheld
  | false =>
    refine (completes_retires h hexec hrow hbody rfl hgoes hheld).imp fun t ht => ht.congr fun d hd => ?_
    rw [State.setTg_pc] at hd
    simp [TCore.advance, tJumpFlow, TCore.jumps, hd]

end

section
variable {s u : State} {i k : Fin 4} {w : IWord} {cond : Cond} {r1 r2 rd : Reg} {annul : Bool}

theorem completes_tBranch {off : BitVec 15} (h : s.tFetches i k w (.branch cond r1 r2 annul off) u) :
    let pc := (u.tc i k).pc
    let tgt := pc + off.signExtend 64 * 4
    completes (.conditionalBranch (.t i k) w) s fun t =>
      if condHolds cond (u.tg i k r1) (u.tg i k r2) then
        s.tChecks u i k tgt t (u.tRetires t i k 3 [] (TCore.jumps pc false tgt))
      else u.tRetires t i k (if annul then 2 else 1) [] fun d =>
        if annul then { d with pc := pc + 8 } else { d with delay := some ⟨pc, pc + 8⟩, slotClears := false, pc := pc + 4 } := by
  intro pc tgt
  split
  next htaken =>
    refine completes_tChecks (a := aBranch) (tb := tBranch) h rfl rfl
      (o := (u.setTg i k 0 0, ⟨tJumpFlow false tgt, 3, []⟩)) ?_ fun hbody => completes_tJumps (a := aBranch) h rfl rfl hbody
    rw [tBranch]
    exact if_pos htaken
  next hno =>
    cases annul with
    | true =>
      have hbody : tBranch i k (.branch cond r1 r2 true off) u = (u, ⟨.skip, 1, []⟩) := by
        rw [tBranch]
        exact if_neg hno
      refine (completes_retires (a := aBranch) (t := tBranch) h rfl rfl hbody rfl h.goes h.held).imp fun t ht =>
        ht.congr fun d hd => ?_
      rw [TCore.advance, hd, if_pos rfl]
    | false =>
      have hbody : tBranch i k (.branch cond r1 r2 false off) u = (u, ⟨.slot (pc + 8) false, 1, []⟩) := by
        rw [tBranch]
        exact if_neg hno
      refine (completes_retires (a := aBranch) (t := tBranch) h rfl rfl hbody rfl h.goes h.held).imp fun t ht =>
        ht.congr fun d hd => ?_
      rw [TCore.advance, hd, if_neg Bool.false_ne_true]

theorem completes_tJ {off : BitVec 25} (h : s.tFetches i k w (.jmp false annul off) u) :
    let pc := (u.tc i k).pc
    let tgt := pc + off.signExtend 64 * 4
    completes (.jump (.t i k) w) s fun t =>
      s.tChecks u i k tgt t (u.tRetires t i k (if annul then 2 else 1) [] (TCore.jumps pc annul tgt)) := by
  intro pc tgt
  exact completes_tChecks (a := aJump) (tb := tJump) (tgt := tgt) h rfl rfl rfl
    fun hbody => completes_tJumps (a := aJump) (tb := tJump) (rd := 0) (x := 0) h rfl rfl hbody

theorem completes_tJal {off : BitVec 25} (h : s.tFetches i k w (.jmp true annul off) u) :
    let pc := (u.tc i k).pc
    let tgt := pc + off.signExtend 64 * 4
    completes (.jump (.t i k) w) s fun t =>
      s.tChecks u i k tgt t ((u.setTg i k 1 (pc + 8)).tRetires t i k (if annul then 2 else 1) (toBytes 8 (pc + 8).toNat)
        (TCore.jumps pc annul tgt)) := by
  intro pc tgt
  exact completes_tChecks (a := aJump) (tb := tJump) (tgt := tgt) h rfl rfl rfl
    fun hbody => completes_tJumps (a := aJump) (tb := tJump) h rfl rfl hbody

theorem completes_tJr (h : s.tFetches i k w (.jr annul r1) u) :
    completes (.registerJump (.t i k) w) s fun t =>
      s.tChecks u i k (u.tg i k r1) t
        (u.tRetires t i k (if annul then 4 else 3) [] (TCore.jumps (u.tc i k).pc annul (u.tg i k r1))) :=
  completes_tChecks (a := fun c => aRegJump c w) (tb := fun i k => tRegJump i k w) (tgt := u.tg i k r1) h rfl rfl rfl
    fun hbody => completes_tJumps (a := fun c => aRegJump c w) (tb := fun i k => tRegJump i k w) (rd := 0) (x := 0) h rfl rfl hbody

theorem completes_tJalr (h : s.tFetches i k w (.jalr annul rd r1) u) :
    let pc := (u.tc i k).pc
    completes (.registerJump (.t i k) w) s fun t =>
      if rd = r1 ∧ rd ≠ 0 then t = s.orWaits (((u.tWaited i k).tRaise i k (illegal w)).tStepDone i k)
      else s.tChecks u i k (u.tg i k r1) t ((u.setTg i k rd (pc + 8)).tRetires t i k (if annul then 4 else 3)
        (if rd = 0 then [] else toBytes 8 (pc + 8).toNat) (TCore.jumps pc annul (u.tg i k r1))) := by
  intro pc
  split
  next hsame =>
    have hbody : tRegJump i k w (.jalr annul rd r1) u = (u, tExn (illegal w)) := by
      rw [tRegJump]
      exact if_pos hsame
    exact completes_tRaises (a := fun c => aRegJump c w) (t := fun i k => tRegJump i k w) h rfl rfl hbody h.goes
  next hsame =>
    rw [← recG_eq]
    refine completes_tChecks (a := fun c => aRegJump c w) (tb := fun i k => tRegJump i k w) (tgt := u.tg i k r1) h rfl rfl
      (o := (u.setTg i k rd (pc + 8), ⟨tJumpFlow annul (u.tg i k r1), 3, recG rd (pc + 8)⟩)) ?_
      fun hbody => completes_tJumps (a := fun c => aRegJump c w) (tb := fun i k => tRegJump i k w) h rfl rfl hbody
    rw [tRegJump]
    exact if_neg hsame

end

/-- Settles O18, one lemma for each instruction. -/
theorem branchesOnTCores : Obligations.BranchesOnTCores := by
  intro s u i k w ins h
  refine ⟨?_, ?_, ?_, ?_, ?_⟩
  · rintro cond r1 r2 a off rfl
    exact completes_tBranch h
  · rintro a off rfl
    exact completes_tJ h
  · rintro a off rfl
    exact completes_tJal h
  · rintro a r1 rfl
    exact completes_tJr h
  · rintro a rd r1 rfl
    exact completes_tJalr h

end Sys2Proof.Machine
end

section
/-! System registers and ERET of a T-core (R79, R281, R286). -/
namespace Sys2Proof.Machine

section
variable {s u v : State} {i k : Fin 4} {w : IWord}

/-- Two changes of one core, of which the second puts a whole core in its place. -/
theorem State.tBecomes_modTc {t : State} {f : TCore → TCore} {c : TCore} :
    (u.modTc i k f).tBecomes t i k c ↔ u.tBecomes t i k c := by
  have hent : ∀ a b n, ((u.modTc i k f).setE a b n).ent = (u.setE a b n).ent := fun _ _ _ => rfl
  simp only [State.tBecomes, hent]
  simp [State.modTc, State.modIsl, vmod]

/-- A retirement after a change of the core, told from the state before the change. -/
theorem State.tRetires_modTc {t : State} {f g h : TCore → TCore} {n : Nat} {recs : List Byte}
    (hret : (u.modTc i k f).tRetires t i k n recs g) (hwaited : (f (u.tc i k)).waited = (u.tc i k).waited)
    (hfg : ∀ x, g ((f (u.tc i k)).retires x n recs) = h ((u.tc i k).retires x n recs)) : u.tRetires t i k n recs h := by
  obtain ⟨x, hx, hbecomes⟩ := hret
  rw [State.tBecomes_modTc, State.modTc_tc, hfg] at hbecomes
  rw [State.modTc_tc, hwaited] at hx
  exact ⟨x, hx, hbecomes⟩

/-- An illegal instruction of a T-core. -/
theorem completes_tIllegal {cmd : Instr} {row : String} {ins : Aelxel} {a : Fin 32 → ABody} {t : Fin 4 → Fin 4 → TBody}
    (h : s.tFetches i k w ins u) (hexec : exec cmd s = runInsn row (.t i k) w a t s) (hrow : ins.row = row)
    (hbody : t i k ins u = (u, tExn (illegal w))) :
    completes cmd s fun t => t = s.orWaits (((u.tWaited i k).tRaise i k (illegal w)).tStepDone i k) :=
  completes_tRaises h hexec hrow hbody h.goes

end

/-- The system registers of a T-core and what they hold (Table 8.5). -/
def tSysTab (c : TCore) (i k : Fin 4) : List (Nat × Word) :=
  [(0x000, c.tstat), (0x001, c.fsr.setWidth 64), (0x013, c.x.xpc), (0x014, c.x.xst), (0x015, c.x.xsy), (0x016, c.x.xva),
   (0x030, c.cycle), (0x031, c.instret), (0x050, word (16 + 4 * i.val + k.val)), (0x060, (c.lc.get 0).setWidth 64),
   (0x061, (c.lc.get 1).setWidth 64), (0x062, c.ls.get 0), (0x063, c.le.get 0), (0x064, c.ls.get 1), (0x065, c.le.get 1),
   (0x068, (c.xlc.get 0).setWidth 64), (0x069, (c.xlc.get 1).setWidth 64), (0x06A, c.xls.get 0), (0x06B, c.xle.get 0),
   (0x06C, c.xls.get 1), (0x06D, c.xle.get 1)]

/-- The bits of a system register that a write changes (R281). -/
def tSysMask (n : Nat) : Word :=
  if n = 0x000 then 0x1F0 else if n = 0x001 then 0xFF else if n = 0x014 then 0x3F0
  else if n = 0x015 then 0x000FFFFF0001FFFF else if n = 0x068 ∨ n = 0x069 then 0xFFFFFFFF
  else if n = 0x013 ∨ n = 0x016 ∨ 0x06A ≤ n then BitVec.allOnes 64 else 0

section
variable (c : TCore) (i k : Fin 4)

/-- The table lists the registers by the read of the model. -/
theorem tSysTab_eq : tSysTab c i k = [0x000, 0x001, 0x013, 0x014, 0x015, 0x016, 0x030, 0x031, 0x050, 0x060, 0x061, 0x062, 0x063,
    0x064, 0x065, 0x068, 0x069, 0x06A, 0x06B, 0x06C, 0x06D].map fun n => (n, c.sysRead i k n) := by
  have hcore : 16 + 4 * i.val + k.val = k.val + 4 * i.val + 16 := by omega
  rw [tSysTab, hcore]
  rfl

variable {c i k}

theorem tSysTab_mem {n : Nat} {x : Word} : (n, x) ∈ tSysTab c i k ↔ tSysKnown n = true ∧ c.sysRead i k n = x := by
  rw [tSysTab_eq, tSysKnown, List.contains_iff_mem, List.mem_map]
  constructor
  · rintro ⟨m, hm, he⟩
    obtain ⟨rfl, rfl⟩ := Prod.mk.injEq .. ▸ he
    exact ⟨hm, rfl⟩
  · rintro ⟨hm, rfl⟩
    exact ⟨n, hm, rfl⟩

theorem tSysTab_absent {n : Nat} (h : ∀ p ∈ tSysTab c i k, p.1 ≠ n) : tSysKnown n = false :=
  Bool.eq_false_iff.mpr fun hn => h (n, _) (tSysTab_mem.mpr ⟨hn, rfl⟩) rfl

/-- A property of the numbers of Table 8.5. -/
theorem tSysKnown_cases {P : Nat → Prop} {n : Nat} (hn : tSysKnown n = true)
    (h : ∀ m ∈ [0x000, 0x001, 0x013, 0x014, 0x015, 0x016, 0x030, 0x031, 0x050, 0x060, 0x061, 0x062, 0x063, 0x064, 0x065, 0x068,
      0x069, 0x06A, 0x06B, 0x06C, 0x06D], P m) : P n :=
  h n (List.contains_iff_mem.mp hn)

theorem fsrWrite_read (v : Word) : (fsrWrite v).setWidth 64 = v &&& 0xFF#64 := by
  apply BitVec.eq_of_toNat_eq
  rw [fsrWrite, BitVec.toNat_setWidth, BitVec.toNat_ofNat, BitVec.toNat_and]
  change _ = v.toNat &&& (2 ^ 8 - 1)
  rw [Nat.and_two_pow_sub_one_eq_mod]
  omega

theorem setWidth_32_read (v : Word) : (v.setWidth 32 : BitVec 32).setWidth 64 = v &&& 0xFFFFFFFF#64 := by
  apply BitVec.eq_of_toNat_eq
  rw [BitVec.toNat_setWidth, BitVec.toNat_setWidth, BitVec.toNat_and]
  change _ = v.toNat &&& (2 ^ 32 - 1)
  rw [Nat.and_two_pow_sub_one_eq_mod]
  omega

/-- A register written reads as the value's bits that hold one, a read-only register as before (R281). -/
theorem TCore.sysRead_sysWrite_same {n : Nat} (hn : tSysKnown n = true) (v : Word) :
    (c.sysWrite n v).sysRead i k n = if tSysMask n = 0 then c.sysRead i k n else v &&& tSysMask n := by
  refine tSysKnown_cases (P := fun n => (c.sysWrite n v).sysRead i k n = if tSysMask n = 0 then c.sysRead i k n else v &&& tSysMask n) hn ?_
  have hall : v &&& 18446744073709551615#64 = v := BitVec.and_allOnes
  simp [TCore.sysRead, TCore.sysWrite, tSysMask, fsrWrite_read, setWidth_32_read, hall]

/-- Every other register reads as before. -/
theorem TCore.sysRead_sysWrite_ne {n m : Nat} (hne : m ≠ n) (v : Word) :
    (c.sysWrite n v).sysRead i k m = c.sysRead i k m := by
  unfold TCore.sysWrite
  split
  all_goals
    unfold TCore.sysRead
    split
    all_goals grind [vset_get_ne]

/-- A write of a system register changes neither what the core is asked nor its other registers. -/
theorem TCore.sysWrite_frame (n : Nat) (v : Word) :
    let b := c.sysWrite n v
    b = { c with tstat := b.tstat, fsr := b.fsr, x := b.x, xlc := b.xlc, xls := b.xls, xle := b.xle } := by
  unfold TCore.sysWrite
  split <;> rfl

/-- A write of a system register leaves the core going. -/
theorem TCore.sysWrite_goes (c : TCore) (n : Nat) (v : Word) :
    (c.sysWrite n v).role = c.role ∧ (c.sysWrite n v).run = c.run ∧ (c.sysWrite n v).haltReq = c.haltReq ∧
      (c.sysWrite n v).step1 = c.step1 := by
  rw [TCore.sysWrite_frame]
  exact ⟨rfl, rfl, rfl, rfl⟩

end

section
variable {s u : State} {i k : Fin 4} {w : IWord} {sr : BitVec 12}

theorem completes_tMfs {rd : Reg} {x : Word} (h : s.tFetches i k w (.mfs rd sr) u) (hx : (sr.toNat, x) ∈ tSysTab (u.tc i k) i k) :
    completes (.mfs (.t i k) w) s fun t => (u.setTg i k rd x).tSeqs t i k 1 (if rd = 0 then [] else toBytes 8 x.toNat) := by
  obtain ⟨hknown, rfl⟩ := tSysTab_mem.mp hx
  refine completes_tReg (a := fun c => aMfs c w) (t := fun i k => tMfs i k w) h rfl rfl ?_
  rw [tMfs]
  exact if_pos hknown

theorem completes_tMfs_unassigned {rd : Reg} (h : s.tFetches i k w (.mfs rd sr) u)
    (hsr : ∀ p ∈ tSysTab (u.tc i k) i k, p.1 ≠ sr.toNat) :
    completes (.mfs (.t i k) w) s fun t => t = s.orWaits (((u.tWaited i k).tRaise i k (illegal w)).tStepDone i k) := by
  refine completes_tIllegal (a := fun c => aMfs c w) (t := fun i k => tMfs i k w) h rfl rfl ?_
  rw [tMfs]
  exact if_neg (by simp [tSysTab_absent hsr])

/-- What a write of an assigned register makes of the core (R281). -/
theorem completes_tMts {r1 : Reg} {n : Nat} {x : Word} (h : s.tFetches i k w (.mts sr r1) u)
    (hx : (n, x) ∈ tSysTab (u.tc i k) i k) (hn : sr.toNat = n) :
    completes (.mts (.t i k) w) s fun t => ∃ b : TCore,
      b.sysRead i k n = (if tSysMask n = 0 then x else u.tg i k r1 &&& tSysMask n) ∧
      (∀ p ∈ tSysTab (u.tc i k) i k, p.1 ≠ n → b.sysRead i k p.1 = p.2) ∧
      b = { u.tc i k with tstat := b.tstat, fsr := b.fsr, x := b.x, xlc := b.xlc, xls := b.xls, xle := b.xle } ∧
      (u.modTc i k fun _ => b).tSeqs t i k (if n = 0 then 2 else 1) [] := by
  obtain ⟨hknown, rfl⟩ := tSysTab_mem.mp hx
  have hcyc : (if sr = 0 then 2 else 1) = if n = 0 then 2 else 1 := by
    simp only [← hn, ← BitVec.toNat_inj]
    rfl
  have hbody : tMts i k w (.mts sr r1) u =
      (u.modTc i k fun _ => (u.tc i k).sysWrite n (u.tg i k r1), tSeq (if n = 0 then 2 else 1) []) := by
    rw [tMts, ← hcyc, hn]
    exact if_pos hknown
  refine (completes_tSeqs (a := fun c => aMts c w) (t := fun i k => tMts i k w) h rfl rfl hbody ?_ h.held).imp fun t ht =>
    ⟨_, TCore.sysRead_sysWrite_same hknown _, fun p hp hne => ?_, TCore.sysWrite_frame _ _, ht⟩
  · exact State.tGoes_modTc h.goes (TCore.sysWrite_goes _ _ _)
  · obtain ⟨-, he⟩ := tSysTab_mem.mp hp
    rw [TCore.sysRead_sysWrite_ne hne, he]

theorem completes_tMts_unassigned {r1 : Reg} (h : s.tFetches i k w (.mts sr r1) u)
    (hsr : ∀ p ∈ tSysTab (u.tc i k) i k, p.1 ≠ sr.toNat) :
    completes (.mts (.t i k) w) s fun t => t = s.orWaits (((u.tWaited i k).tRaise i k (illegal w)).tStepDone i k) := by
  refine completes_tIllegal (a := fun c => aMts c w) (t := fun i k => tMts i k w) h rfl rfl ?_
  rw [tMts]
  exact if_neg (by simp [tSysTab_absent hsr])

theorem completes_tEret (h : s.tFetches i k w .eret u) :
    let c := u.tc i k
    completes (.tEret i k w) s fun t => u.tRetires t i k 6 [] fun r =>
      { r with
        tstat := c.x.xst &&& 0x1F0, pcc := c.xpcc, lc := c.xlc, ls := c.xls, le := c.xle, pc := c.x.xpc,
        delay := none, slotClears := false, parked := c.parked.map fun (p : Parked) => { p with replay := some (c.instret + 1) } } := by
  intro c
  have hgoes : (u.modTc i k TCore.eret).tGoes i k := State.tGoes_modTc h.goes ⟨rfl, rfl, rfl, rfl⟩
  exact (completes_retires (a := fun _ => aLacks w) (t := tEretB) h rfl rfl rfl rfl hgoes h.held).imp fun t ht =>
    State.tRetires_modTc ht rfl fun _ => rfl

end

/-- Settles O24: reads and writes by the table of the registers, and what ERET restores. -/
theorem systemRegistersOfTCores : Obligations.SystemRegistersOfTCores := by
  refine ⟨fun s u i k w rd sr h => ⟨?_, completes_tMfs_unassigned h⟩, fun s u i k w sr r1 h => ⟨?_, completes_tMts_unassigned h⟩,
    fun s u i k w h => completes_tEret h⟩
  · rintro n x hx rfl
    exact completes_tMfs h hx
  · intro n x hx hn
    exact completes_tMts h hx hn

end Sys2Proof.Machine
end

section
/-! Every command completes, but for a word of another row. -/
namespace Sys2Proof.Machine

theorem runInsn_completes {row : String} {w : IWord} (core : CoreId) (a : Fin 32 → ABody) (t : Fin 4 → Fin 4 → TBody) (s : State)
    (h : wordOfRow w row = true) : ∃ x, runInsn row core w a t s = .next x :=
  ⟨_, if_pos h⟩

theorem runInsn_refuses {row : String} {w : IWord} (core : CoreId) (a : Fin 32 → ABody) (t : Fin 4 → Fin 4 → TBody) (s : State)
    (h : wordOfRow w row = false) : runInsn row core w a t s = .refused (.illFormed row) :=
  if_neg (by simp [h])

/-- A command that carries a word runs it on its row. -/
theorem exec_of_word {c : Instr} {w : IWord} {row : String} (s : State) (h : c.word = some (w, row)) :
    ∃ core a t, exec c s = runInsn row core w a t s := by
  cases c
  case eret c w =>
    cases h
    exact ⟨.a c, fun c => aEret c w, fun _ _ => tLacks w, rfl⟩
  case tEret i k w =>
    cases h
    exact ⟨.t i k, fun _ => aLacks w, tEretB, rfl⟩
  all_goals cases h
  all_goals exact ⟨_, _, _, rfl⟩

/-- A command without a word answers a next state. -/
theorem exec_of_no_word {c : Instr} (s : State) (h : c.word = none) : ∃ t, exec c s = .next t := by
  cases c
  case huskSealingDone x =>
    change ∃ t, execHuskSealingDone x s = .next t
    unfold execHuskSealingDone
    dsimp only
    split
    · exact ⟨_, rfl⟩
    · exact ⟨_, rfl⟩
  case huskClearingDone x =>
    change ∃ t, execHuskClearingDone x s = .next t
    unfold execHuskClearingDone
    dsimp only
    split
    · exact ⟨_, rfl⟩
    · exact ⟨_, rfl⟩
  all_goals cases h
  all_goals exact ⟨_, rfl⟩

theorem Instr.wf_of_word {c : Instr} {w : IWord} {row : String} (h : c.word = some (w, row)) : c.wf = wordOfRow w row := by
  rw [Instr.wf, h]

/-- Settles O6: a command carries a word, which is of its row or not, or it carries none. -/
theorem everyCommandCompletes : Obligations.EveryCommandCompletes := by
  intro c s
  cases hword : c.word with
  | none =>
    have hwf : c.wf = true := by rw [Instr.wf, hword]
    exact ⟨fun _ => exec_of_no_word s hword, fun hno => by simp [hwf] at hno⟩
  | some p =>
    obtain ⟨w, row⟩ := p
    obtain ⟨core, a, t, hexec⟩ := exec_of_word s hword
    rw [Instr.wf_of_word hword, hexec]
    exact ⟨runInsn_completes core a t s, fun hno => ⟨w, row, rfl, runInsn_refuses core a t s hno⟩⟩

end Sys2Proof.Machine
end

section
/-! Capability instructions of a T-core (R90, R91, R296, Table 8.9). -/
namespace Sys2Proof.Machine

/-! ## Permissions -/

theorem Cap.may_seal (x : Cap) : x.may permSeal = x.perms.getLsbD 5 := by
  have h : ∀ p : Byte, (p.toNat &&& permSeal == permSeal) = p.getLsbD 5 := by decide
  exact h x.perms

theorem Cap.may_unseal (x : Cap) : x.may permUnseal = x.perms.getLsbD 6 := by
  have h : ∀ p : Byte, (p.toNat &&& permUnseal == permUnseal) = p.getLsbD 6 := by decide
  exact h x.perms

theorem Cap.may_call (x : Cap) : x.may permCall = x.perms.getLsbD 7 := by
  have h : ∀ p : Byte, (p.toNat &&& permCall == permCall) = p.getLsbD 7 := by decide
  exact h x.perms

theorem Cap.may_call_execute (x : Cap) : x.may (permCall + permX) = (x.perms.getLsbD 7 && x.perms.getLsbD 2) := by
  have h : ∀ p : Byte, (p.toNat &&& (permCall + permX) == permCall + permX) = (p.getLsbD 7 && p.getLsbD 2) := by decide
  exact h x.perms

theorem Cap.may_read_execute (x : Cap) : x.may (permR + permX) = (x.perms.getLsbD 0 && x.perms.getLsbD 2) := by
  have h : ∀ p : Byte, (p.toNat &&& (permR + permX) == permR + permX) = (p.getLsbD 0 && p.getLsbD 2) := by decide
  exact h x.perms

theorem recC_eq (v : Cap) : recC v = toBytes 16 v.bits ++ [if v.tag then 1 else 0] := by
  unfold recC
  cases v.tag
  · rfl
  · rfl

/-! ## The instructions -/

section
variable {s u : State} {i k : Fin 4} {w : IWord} {ins : Aelxel} {cmd : Instr} {row : String} {a : Fin 32 → ABody}
  {cd : Fin 16} {v : Cap} {n : Nat}

/-- An instruction that writes a capability register and does nothing else. -/
theorem completes_tCapReg {t : Fin 4 → Fin 4 → TBody} (h : s.tFetches i k w ins u)
    (hexec : exec cmd s = runInsn row (.t i k) w a t s) (hrow : ins.row = row)
    (hbody : t i k ins u = (u.setTcap i k cd v, tSeq n (recC v))) :
    completes cmd s fun t => (u.setTcap i k cd v).tSeqs t i k n (toBytes 16 v.bits ++ [if v.tag then 1 else 0]) := by
  rw [← recC_eq]
  exact completes_tSeqs h hexec hrow hbody (State.tGoes_modTc h.goes ⟨rfl, rfl, rfl, rfl⟩) h.held

/-- What a command answers whose instruction has the result `x` for the capability register `cd`: it retires with it, or the
exception names the cause and the register that is refused. -/
def State.capAnswers (s u : State) (i k : Fin 4) (cmd : Instr) (n : Nat) (cd : Fin 16) (x : Except (Nat × Nat) Cap) : Prop :=
  match x with
  | .ok v => completes cmd s fun t => (u.setTcap i k cd v).tSeqs t i k n (toBytes 16 v.bits ++ [if v.tag then 1 else 0])
  | .error (cause, r) => completes cmd s fun t => t = s.orWaits (((u.tWaited i k).tRaise i k (exn 24 cause r 0)).tStepDone i k)

theorem completes_tCap (h : s.tFetches i k w ins u) (hexec : exec cmd s = runInsn row (.t i k) w a tCap s) (hrow : ins.row = row)
    {x : Except (Nat × Nat) Cap} (hres : capResult (u.tcap i k) (u.tg i k) ins = some (cd, x)) (hn : capCycles ins = n) :
    s.capAnswers u i k cmd n cd x := by
  cases x with
  | ok v => exact completes_tCapReg h hexec hrow (by rw [tCap, hres, ← hn])
  | error e => exact completes_tRaises h hexec hrow (by rw [tCap, hres]; rfl) h.goes

end

/-! ## Results -/

section
variable (cap : Fin 16 → Cap) (g : Reg → Word) (cd cs ct : Fin 16) (r : Reg)

variable {cap g cd cs ct r}

theorem Cap.plain_untagged {x : Cap} (h : x.tag = false) : x.plain = some 1 := by
  simp [Cap.plain, h]

theorem Cap.plain_sealed {x : Cap} (h : ¬ x.tag = false) (ho : x.otype ≠ 0) : x.plain = some 2 := by
  rw [Cap.plain, Bool.of_not_eq_false h]
  exact if_pos ho

theorem Cap.plain_none {x : Cap} (h : ¬ x.tag = false) (ho : ¬ x.otype ≠ 0) : x.plain = none := by
  rw [Cap.plain, Bool.of_not_eq_false h]
  exact if_neg ho

/-- A capability that is tagged and unsealed. -/
theorem Cap.fields_of_plain {x : Cap} (h : ¬ x.tag = false) (ho : ¬ x.otype ≠ 0) : x.tag = true ∧ x.otype = 0 :=
  ⟨Bool.of_not_eq_false h, not_not.mp ho⟩

theorem ofNat_add_toNat (x y : Word) : BitVec.ofNat 64 (x.toNat + y.toNat) = x + y := by
  apply BitVec.eq_of_toNat_eq
  simp

theorem ofNat_sub_toNat {n : Nat} (x : BitVec n) {v : Nat} (h : ¬ x.toNat < v) : BitVec.ofNat n (x.toNat - v) = x - BitVec.ofNat n v := by
  apply BitVec.eq_of_toNat_eq
  have hx := x.isLt
  rw [BitVec.toNat_sub, BitVec.toNat_ofNat, BitVec.toNat_ofNat, Nat.mod_eq_of_lt (by omega : v < 2 ^ n),
    show 2 ^ n - v + x.toNat = x.toNat - v + 2 ^ n by omega, Nat.add_mod_right]

/-- The result of CINCB: the base moves up by as much as the length shrinks. -/
theorem capResult_cincb : capResult cap g (.cincb cd cs r) = some (cd,
    let c := cap cs
    let v := (g r).toNat
    if c.tag = false then .error (1, cs.val) else if c.otype ≠ 0 then .error (2, cs.val)
    else if c.len.toNat < v ∨ 2 ^ 64 ≤ c.base.toNat + v then .error (4, cs.val)
    else .ok ⟨BitVec.ofNat 64 (c.base.toNat + v), BitVec.ofNat 48 (c.len.toNat - v), c.perms, 0, true⟩) := by
  simp only [capResult]
  by_cases htag : (cap cs).tag = false
  · rw [if_pos htag, Cap.plain_untagged htag]
  by_cases ho : (cap cs).otype ≠ 0
  · rw [if_neg htag, if_pos ho, Cap.plain_sealed htag ho]
  rw [if_neg htag, if_neg ho, Cap.plain_none htag ho]
  by_cases hlen : (cap cs).len.toNat < (g r).toNat ∨ 2 ^ 64 ≤ (cap cs).base.toNat + (g r).toNat
  · rw [if_pos hlen, if_pos hlen]
  · obtain ⟨ht, hz⟩ := Cap.fields_of_plain htag ho
    obtain ⟨hle, -⟩ := not_or.mp hlen
    rw [if_neg hlen, if_neg hlen, ofNat_add_toNat, ofNat_sub_toNat _ hle, ht, hz]

theorem capResult_csetl : capResult cap g (.csetl cd cs r) = some (cd,
    let c := cap cs
    let v := (g r).toNat
    if c.tag = false then .error (1, cs.val) else if c.otype ≠ 0 then .error (2, cs.val)
    else if c.len.toNat < v then .error (4, cs.val) else .ok ⟨c.base, BitVec.ofNat 48 v, c.perms, 0, true⟩) := by
  simp only [capResult]
  by_cases htag : (cap cs).tag = false
  · rw [if_pos htag, Cap.plain_untagged htag]
  by_cases ho : (cap cs).otype ≠ 0
  · rw [if_neg htag, if_pos ho, Cap.plain_sealed htag ho]
  rw [if_neg htag, if_neg ho, Cap.plain_none htag ho]
  by_cases hlen : (cap cs).len.toNat < (g r).toNat
  · rw [if_pos hlen, if_pos hlen]
  · obtain ⟨ht, hz⟩ := Cap.fields_of_plain htag ho
    rw [if_neg hlen, if_neg hlen, ht, hz, BitVec.ofNat_toNat]

theorem capResult_candp : capResult cap g (.candp cd cs r) = some (cd,
    let c := cap cs
    if c.tag = false then .error (1, cs.val) else if c.otype ≠ 0 then .error (2, cs.val)
    else .ok ⟨c.base, c.len, c.perms &&& (g r).setWidth 8, 0, true⟩) := by
  simp only [capResult]
  by_cases htag : (cap cs).tag = false
  · rw [if_pos htag, Cap.plain_untagged htag]
  by_cases ho : (cap cs).otype ≠ 0
  · rw [if_neg htag, if_pos ho, Cap.plain_sealed htag ho]
  obtain ⟨ht, hz⟩ := Cap.fields_of_plain htag ho
  rw [if_neg htag, if_neg ho, Cap.plain_none htag ho, ht, hz]

/-- The result of CSEAL: both tags come before both object types, and cs before ct. -/
theorem capResult_cseal : capResult cap g (.cseal cd cs ct) = some (cd,
    let c := cap cs
    let x := cap ct
    if c.tag = false then .error (1, cs.val) else if x.tag = false then .error (1, ct.val)
    else if c.otype ≠ 0 then .error (2, cs.val) else if x.otype ≠ 0 then .error (2, ct.val)
    else if x.perms.getLsbD 5 = false then .error (3, ct.val)
    else if x.base.toNat = 0 ∨ 0xFE < x.base.toNat then .error (5, ct.val)
    else .ok ⟨c.base, c.len, c.perms, x.base.setWidth 8, true⟩) := by
  simp only [capResult, Cap.may_seal]
  by_cases htag : (cap cs).tag = false
  · rw [if_pos htag, Cap.plain_untagged htag]
    rfl
  by_cases htag' : (cap ct).tag = false
  · rw [if_neg htag, if_pos htag', Cap.plain_untagged htag']
    by_cases ho : (cap cs).otype ≠ 0
    · rw [Cap.plain_sealed htag ho]
      rfl
    · rw [Cap.plain_none htag ho]
      rfl
  rw [if_neg htag, if_neg htag']
  by_cases ho : (cap cs).otype ≠ 0
  · rw [if_pos ho, Cap.plain_sealed htag ho]
    by_cases ho' : (cap ct).otype ≠ 0
    · rw [Cap.plain_sealed htag' ho']
      rfl
    · rw [Cap.plain_none htag' ho']
      rfl
  rw [if_neg ho, Cap.plain_none htag ho]
  by_cases ho' : (cap ct).otype ≠ 0
  · rw [if_pos ho', Cap.plain_sealed htag' ho']
    rfl
  rw [if_neg ho', Cap.plain_none htag' ho']
  obtain ⟨ht, -⟩ := Cap.fields_of_plain htag ho
  simp only [Bool.not_eq_true', Nat.lt_one_iff, ht]

theorem capResult_cunseal : capResult cap g (.cunseal cd cs ct) = some (cd,
    let c := cap cs
    let x := cap ct
    if c.tag = false then .error (1, cs.val) else if x.tag = false then .error (1, ct.val)
    else if x.otype ≠ 0 then .error (2, ct.val)
    else if x.perms.getLsbD 6 = false then .error (3, ct.val)
    else if x.base.toNat ≠ c.otype.toNat then .error (5, ct.val)
    else .ok ⟨c.base, c.len, c.perms, 0, true⟩) := by
  have htype : ((cap ct).base ≠ (cap cs).otype.setWidth 64) = ((cap ct).base.toNat ≠ (cap cs).otype.toNat) := by
    rw [ne_eq, ne_eq, ← BitVec.toNat_inj, BitVec.toNat_setWidth, Nat.mod_eq_of_lt (by omega)]
  simp only [capResult, Cap.may_unseal, Bool.not_eq_true', htype]
  by_cases htag : (cap cs).tag = false
  · rw [if_pos htag, if_pos htag]
  rw [if_neg htag, if_neg htag]
  by_cases htag' : (cap ct).tag = false
  · rw [if_pos htag', Cap.plain_untagged htag']
  by_cases ho' : (cap ct).otype ≠ 0
  · rw [if_neg htag', if_pos ho', Cap.plain_sealed htag' ho']
  rw [if_neg htag', if_neg ho', Cap.plain_none htag' ho']
  rw [Bool.of_not_eq_false htag]

/-- A result lies within its source, with no permission that the source lacks (R90). -/
theorem capResult_within {ins : Aelxel} {v : Cap} (h : capResult cap g ins = some (cd, .ok v)) :
    ∃ cs, (v.tag = true → (cap cs).tag = true) ∧ (v.perms &&& (cap cs).perms = v.perms) ∧ (cap cs).base.toNat ≤ v.base.toNat ∧
      v.base.toNat + v.len.toNat ≤ (cap cs).base.toNat + (cap cs).len.toNat := by
  cases ins
  case cmove cd' cs r =>
    cases h
    exact ⟨cs, id, BitVec.and_self, le_rfl, le_rfl⟩
  case cclrt cd' cs r =>
    cases h
    exact ⟨cs, fun hno => absurd hno Bool.false_ne_true, BitVec.and_self, le_rfl, le_rfl⟩
  case cincb cd' cs r =>
    simp only [capResult_cincb, Option.some.injEq, Prod.mk.injEq, ite_eq_iff, reduceCtorEq, and_false, false_or, Except.ok.injEq] at h
    obtain ⟨-, htag, -, hlen, rfl⟩ := h
    obtain ⟨hle, hlt⟩ := not_or.mp hlen
    have hmax := (cap cs).len.isLt
    refine ⟨cs, fun _ => Bool.of_not_eq_false htag, BitVec.and_self, ?_, ?_⟩
    · rw [BitVec.toNat_ofNat]
      omega
    · rw [BitVec.toNat_ofNat, BitVec.toNat_ofNat]
      omega
  case csetl cd' cs r =>
    simp only [capResult_csetl, Option.some.injEq, Prod.mk.injEq, ite_eq_iff, reduceCtorEq, and_false, false_or, Except.ok.injEq] at h
    obtain ⟨-, htag, -, hlen, rfl⟩ := h
    have hmax := (cap cs).len.isLt
    refine ⟨cs, fun _ => Bool.of_not_eq_false htag, BitVec.and_self, le_rfl, ?_⟩
    rw [BitVec.toNat_ofNat]
    dsimp only
    omega
  case candp cd' cs r =>
    simp only [capResult_candp, Option.some.injEq, Prod.mk.injEq, ite_eq_iff, reduceCtorEq, and_false, false_or, Except.ok.injEq] at h
    obtain ⟨-, htag, -, rfl⟩ := h
    refine ⟨cs, fun _ => Bool.of_not_eq_false htag, ?_, le_rfl, le_rfl⟩
    rw [BitVec.and_assoc, BitVec.and_comm _ (cap cs).perms, ← BitVec.and_assoc, BitVec.and_self]
  case cseal cd' cs ct =>
    simp only [capResult_cseal, Option.some.injEq, Prod.mk.injEq, ite_eq_iff, reduceCtorEq, and_false, false_or, Except.ok.injEq] at h
    obtain ⟨-, htag, -, -, -, -, -, rfl⟩ := h
    exact ⟨cs, fun _ => Bool.of_not_eq_false htag, BitVec.and_self, le_rfl, le_rfl⟩
  case cunseal cd' cs ct =>
    simp only [capResult_cunseal, Option.some.injEq, Prod.mk.injEq, ite_eq_iff, reduceCtorEq, and_false, false_or, Except.ok.injEq] at h
    obtain ⟨-, htag, -, -, -, -, rfl⟩ := h
    exact ⟨cs, fun _ => Bool.of_not_eq_false htag, BitVec.and_self, le_rfl, le_rfl⟩
  all_goals cases h

end

theorem completes_tCget {s u : State} {i k : Fin 4} {w : IWord} {fd : CapField} {rd : Reg} {cs : Fin 16} {r : Reg}
    (h : s.tFetches i k w (.cget fd rd cs r) u) {cmd : Instr} {row : String}
    (hexec : exec cmd s = runInsn row (.t i k) w (fun _ => aLacks w) tCget s) (hrow : (Aelxel.cget fd rd cs r).row = row)
    {v : Word} (hv : (u.tcap i k cs).field fd = v) :
    completes cmd s fun t => (u.setTg i k rd v).tSeqs t i k 1 (if rd = 0 then [] else toBytes 8 v.toNat) :=
  completes_tReg h hexec hrow (by rw [← hv]; rfl)

theorem row_of_wordOfRow {w : IWord} {ins : Aelxel} {row : String} (hdec : decodeWord w = some ins) (h : wordOfRow w row = true) :
    ins.row = row := by
  rw [wordOfRow, hdec] at h
  exact eq_of_beq h

/-- An instruction that an A-core lacks is illegal there (R49). -/
theorem completes_aLacks {s u : State} {c : Fin 32} {w : IWord} {ins : Aelxel} {cmd : Instr} {row : String} {t : Fin 4 → Fin 4 → TBody}
    (h : s.aFetches c w ins u) (hexec : exec cmd s = runInsn row (.a c) w (fun _ => aLacks w) t s) (hword : cmd.word = some (w, row))
    (hwf : cmd.wf = true) : completes cmd s fun t => t = s.orWaits ((u.raise c (illegal w)).stepDone c) :=
  completes_raises h hexec (row_of_wordOfRow h.decode (Instr.wf_of_word hword ▸ hwf)) rfl

/-- Settles O31: the answer of each instruction from its result, the range of a result, and the same words on an A-core. -/
theorem capabilities : Obligations.Capabilities := by
  refine ⟨fun s u i k w ins h => ⟨?_, ?_, ?_, ?_, ?_, ?_, ?_, ?_⟩, fun cap g ins cd v => capResult_within, fun s u c w ins h => ?_⟩
  · rintro cd cs r rfl
    exact completes_tCap (x := .ok _) (a := fun _ => aLacks w) h rfl rfl rfl rfl
  · rintro cd cs r rfl
    exact completes_tCap (x := .ok _) (a := fun _ => aLacks w) h rfl rfl rfl rfl
  · rintro cd cs r rfl
    have hcap := completes_tCap (n := 1) (cmd := .cincb (.t i k) w) (a := fun _ => aLacks w) h rfl rfl capResult_cincb rfl
    simp only [apply_ite (s.capAnswers u i k (.cincb (.t i k) w) 1 cd)] at hcap
    exact hcap
  · rintro cd cs r rfl
    have hcap := completes_tCap (n := 1) (cmd := .csetl (.t i k) w) (a := fun _ => aLacks w) h rfl rfl capResult_csetl rfl
    simp only [apply_ite (s.capAnswers u i k (.csetl (.t i k) w) 1 cd)] at hcap
    exact hcap
  · rintro cd cs r rfl
    have hcap := completes_tCap (n := 1) (cmd := .candp (.t i k) w) (a := fun _ => aLacks w) h rfl rfl capResult_candp rfl
    simp only [apply_ite (s.capAnswers u i k (.candp (.t i k) w) 1 cd)] at hcap
    exact hcap
  · rintro cd cs ct rfl
    have hcap := completes_tCap (n := 2) (cmd := .cseal (.t i k) w) (a := fun _ => aLacks w) h rfl rfl capResult_cseal rfl
    simp only [apply_ite (s.capAnswers u i k (.cseal (.t i k) w) 2 cd)] at hcap
    exact hcap
  · rintro cd cs ct rfl
    have hcap := completes_tCap (n := 2) (cmd := .cunseal (.t i k) w) (a := fun _ => aLacks w) h rfl rfl capResult_cunseal rfl
    simp only [apply_ite (s.capAnswers u i k (.cunseal (.t i k) w) 2 cd)] at hcap
    exact hcap
  · rintro fd rd cs r rfl
    cases fd
    case base => exact completes_tCget h rfl rfl rfl
    case len => exact completes_tCget h rfl rfl (BitVec.ofNat_toNat ..).symm
    case perms => exact completes_tCget h rfl rfl (BitVec.ofNat_toNat ..).symm
    case otype => exact completes_tCget h rfl rfl (BitVec.ofNat_toNat ..).symm
    case tag => exact completes_tCget h rfl rfl rfl
  · intro mk hmk
    simp only [List.mem_cons, List.not_mem_nil, or_false] at hmk
    obtain rfl | rfl | rfl | rfl | rfl | rfl | rfl | rfl | rfl | rfl | rfl | rfl | rfl | rfl | rfl | rfl | rfl | rfl | rfl | rfl := hmk
    all_goals exact completes_aLacks (t := fun _ _ => tNop) h rfl rfl

end Sys2Proof.Machine
end

section
/-! Hardware loops and the protected call of a T-core (R84 to R88, R93, R94, R291, R292). -/
namespace Sys2Proof.Machine

/-! ## Refusals -/

/-- What a command answers whose instruction may be refused: the exception names the cause and the register, and where nothing is
refused, `P` holds. -/
def State.capAdmits (s u : State) (i k : Fin 4) (cmd : Instr) (P : Prop) (x : Option (Nat × Nat)) : Prop :=
  match x with
  | some (cause, r) => completes cmd s fun t => t = s.orWaits (((u.tWaited i k).tRaise i k (exn 24 cause r 0)).tStepDone i k)
  | none => P

section
variable {s u v : State} {i k : Fin 4} {w : IWord} {ins : Aelxel} {cmd : Instr} {row : String} {a : Fin 32 → ABody}
  {t : Fin 4 → Fin 4 → TBody}

theorem completes_capAdmits {P : Prop} {x : Option (Nat × Nat)} {o : State × TOut} (h : s.tFetches i k w ins u)
    (hexec : exec cmd s = runInsn row (.t i k) w a t s) (hrow : ins.row = row)
    (hbody : t i k ins u = match x with
      | some (cause, r) => (u, tExn (exn 24 cause r 0))
      | none => o)
    (hP : t i k ins u = o → P) : s.capAdmits u i k cmd P x := by
  cases x with
  | some p => exact completes_tRaises h hexec hrow hbody h.goes
  | none => exact hP hbody

/-- A change of the core, then another. -/
theorem State.modTc_modTc (u : State) (i k : Fin 4) (f g : TCore → TCore) :
    (u.modTc i k f).modTc i k g = u.modTc i k fun c => g (f c) := by
  simp [State.modTc, State.modIsl, vmod]

/-- An instruction that changes its core alone retires. -/
theorem completes_tModTc {f : TCore → TCore} {o : TOut} (h : s.tFetches i k w ins u)
    (hexec : exec cmd s = runInsn row (.t i k) w a t s) (hrow : ins.row = row) (hbody : t i k ins u = (u.modTc i k f, o))
    (ho : o.flow.retires = true) {c : TCore} (hc : c = u.tc i k)
    (hf : (f c).role = c.role ∧ (f c).run = c.run ∧ (f c).haltReq = c.haltReq ∧ (f c).step1 = c.step1 ∧ (f c).waited = c.waited)
    {g : TCore → TCore} (hg : ∀ x, ((f c).retires x (o.cyc + o.flow.extra) o.recs).advance o.flow =
      g (c.retires x (o.cyc + o.flow.extra) o.recs)) :
    completes cmd s fun t => u.tRetires t i k (o.cyc + o.flow.extra) o.recs g := by
  subst hc
  obtain ⟨hrole, hrun, hhalt, hstep, hwaited⟩ := hf
  have hgoes := State.tGoes_modTc h.goes ⟨hrole, hrun, hhalt, hstep⟩
  exact (completes_retires h hexec hrow hbody ho hgoes h.held).imp fun t ht => State.tRetires_modTc ht hwaited hg

end

/-! ## LOOP -/

section
variable {c : TCore} {l : Fin 2} {len : Nat}

/-- Where R84 and R86 allow LOOP. -/
theorem TCore.loopIllegal_eq_false : c.loopIllegal l len = false ↔ len ≠ 0 ∧ c.lc.get l = 0 ∧ (l = 0 → c.lc.get 1 = 0) ∧
    (l = 1 → c.lc.get 0 ≠ 0 →
      (c.ls.get 0).toNat ≤ (c.pc + 4).toNat ∧ (c.pc + word (4 * len)).toNat < (c.le.get 0).toNat) := by
  simp only [TCore.loopIllegal, Bool.or_eq_false_iff, Bool.and_eq_false_iff, beq_eq_false_iff_ne, bne_eq_false_iff_eq,
    Bool.not_eq_false', decide_eq_true_eq, and_assoc, imp_iff_not_or, or_assoc, not_not, ne_eq]

end

section
variable {s u : State} {i k : Fin 4} {w : IWord} {l : Fin 2} {imm : Bool} {len : BitVec 10} {cnt : BitVec 14}

theorem completes_tLoop (h : s.tFetches i k w (.loop l imm len cnt) u) :
    let c := u.tc i k
    let le := c.pc + word (4 * len.toNat)
    let n : BitVec 32 := if imm then cnt.setWidth 32 else (u.tg i k ⟨cnt.toNat / 512, by omega⟩).setWidth 32
    if c.loopIllegal l len.toNat = false then
      completes (.loop (.t i k) w) s fun t => u.tRetires t i k 2 [] fun r =>
        let d := { r with ls := vset c.ls l (c.pc + 4), le := vset c.le l le, lc := vset c.lc l n }
        if n = 0 then { d with pc := le + 4, delay := none, slotClears := false } else d.goesOn
    else completes (.loop (.t i k) w) s fun t => t = s.orWaits (((u.tWaited i k).tRaise i k (illegal w)).tStepDone i k) := by
  intro c le n
  have hreg : (⟨cnt.toNat / 2 ^ 9 % 32, Nat.mod_lt _ (by decide)⟩ : Reg) = ⟨cnt.toNat / 512, by omega⟩ :=
    Fin.ext (Nat.mod_eq_of_lt (by omega))
  split
  next hok =>
    have hbody : tLoop i k w (.loop l imm len cnt) u =
        (u.modTc i k fun c => { c with ls := vset c.ls l (c.pc + 4), le := vset c.le l le, lc := vset c.lc l n },
          ⟨if n = 0 then .goto (le + 4) else .seq, 2, []⟩) := by
      rw [tLoop, hreg]
      exact if_neg (by simp [c, hok])
    by_cases hn : n = 0
    · rw [if_pos hn] at hbody
      exact completes_tModTc (a := fun _ => aLacks w) (t := fun i k => tLoop i k w) h rfl rfl hbody rfl rfl
        ⟨rfl, rfl, rfl, rfl, rfl⟩ fun x => (if_pos hn).symm
    · rw [if_neg hn] at hbody
      exact completes_tModTc (a := fun _ => aLacks w) (t := fun i k => tLoop i k w) h rfl rfl hbody rfl rfl
        ⟨rfl, rfl, rfl, rfl, rfl⟩ fun x => (if_neg hn).symm
  next hno =>
    refine completes_tIllegal (a := fun _ => aLacks w) (t := fun i k => tLoop i k w) h rfl rfl ?_
    rw [tLoop]
    exact if_pos (Bool.of_not_eq_false hno)

end

/-! ## CCALL, CRET, CMFC and CMTC -/

section
variable {cs ct : Cap} {rs rt : Nat}

theorem ccallRefuses_eq : ccallRefuses cs ct rs rt =
    if cs.tag = false then some (1, rs) else if ct.tag = false then some (1, rt)
    else if cs.perms.getLsbD 7 = false ∨ cs.perms.getLsbD 2 = false then some (3, rs)
    else if ct.perms.getLsbD 7 = false then some (3, rt)
    else if cs.otype = 0 ∨ cs.otype = 0xFF ∨ cs.otype ≠ ct.otype then some (6, rs) else none := by
  simp only [ccallRefuses, Cap.may_call_execute, Cap.may_call, Bool.not_eq_true', Bool.and_eq_false_iff]

theorem cretRefuses_eq : cretRefuses cs ct rs rt =
    if cs.tag = false then some (1, rs) else if ct.tag = false then some (1, rt)
    else if cs.otype ≠ 0xFF then some (7, rs) else if ct.otype ≠ 0xFF then some (7, rt) else none := by
  simp only [cretRefuses, Bool.not_eq_true']

theorem tvbRefuses_eq : tvbRefuses cs =
    if cs.tag = false then some 1 else if cs.otype ≠ 0 then some 2
    else if cs.perms.getLsbD 0 = false ∨ cs.perms.getLsbD 2 = false then some 3
    else if cs.base.toNat % 8 ≠ 0 ∨ cs.len.toNat < 0x800 ∨ 0x40000 < cs.base.toNat + cs.len.toNat then some 8 else none := by
  rw [tvbRefuses]
  by_cases htag : cs.tag = false
  · rw [if_pos htag, Cap.plain_untagged htag]
  by_cases ho : cs.otype ≠ 0
  · rw [if_neg htag, if_pos ho, Cap.plain_sealed htag ho]
  rw [if_neg htag, if_neg ho, Cap.plain_none htag ho]
  simp only [Cap.may_read_execute, Bool.not_eq_true', Bool.and_eq_false_iff]

end

section
variable {s u : State} {i k : Fin 4} {w : IWord} {rs rt cd : Fin 16}

/-- What CCALL makes of the core before it goes on at the code capability's base (R93). -/
def TCore.ccall (cs ct : Cap) (c : TCore) : TCore :=
  { c with
    c := vset (vset (vset c.c 14 ((c.c.get 0).sealed 0xFF)) 15 (c.pcc.sealed 0xFF)) 0 (ct.sealed 0), g := vset c.g 1 (c.pc + 4),
    pcc := cs.sealed 0 }

theorem completes_tCcall (h : s.tFetches i k w (.ccall rs rt) u) :
    let c := u.tc i k
    let cs := u.tcap i k rs
    let ct := u.tcap i k rt
    s.capAdmits u i k (.ccall (.t i k) w) (completes (.ccall (.t i k) w) s fun t =>
      u.tRetires t i k 4
        (toBytes 8 (c.pc + 4).toNat ++ recC ((c.c.get 0).sealed 0xFF) ++ recC (c.pcc.sealed 0xFF) ++ recC (ct.sealed 0)) fun r =>
        { r with
          c := vset (vset (vset c.c 14 ((c.c.get 0).sealed 0xFF)) 15 (c.pcc.sealed 0xFF)) 0 (ct.sealed 0),
          g := vset c.g 1 (c.pc + 4), pcc := cs.sealed 0, pc := cs.base, delay := none, slotClears := false })
      (ccallRefuses cs ct rs.val rt.val) := by
  intro c cs ct
  have hstate : (((u.setTcap i k 14 ((c.c.get 0).sealed 0xFF)).setTcap i k 15 (c.pcc.sealed 0xFF)).setTcap i k 0 (ct.sealed 0)
      |>.setTg i k 1 (c.pc + 4)).modTc i k (fun c => { c with pcc := cs.sealed 0 }) = u.modTc i k fun _ => c.ccall cs ct := by
    rw [State.setTg_of_ne _ _ _ _ (by decide)]
    simp only [State.setTcap, State.modTc_modTc]
    rfl
  refine completes_capAdmits (a := fun _ => aLacks w) (t := tCcall) (o := (u.modTc i k fun _ => c.ccall cs ct, ⟨.goto cs.base, 4, toBytes 8 (c.pc + 4).toNat ++
      recC ((c.c.get 0).sealed 0xFF) ++ recC (c.pcc.sealed 0xFF) ++ recC (ct.sealed 0)⟩)) h rfl rfl
    ?_ fun hbody => completes_tModTc (a := fun _ => aLacks w) (t := tCcall) h rfl rfl hbody rfl rfl
      ⟨rfl, rfl, rfl, rfl, rfl⟩ fun x => rfl
  rw [tCcall, ← hstate]
  rfl

theorem completes_tCret (h : s.tFetches i k w (.cret rs rt) u) :
    let c := u.tc i k
    let cs := u.tcap i k rs
    let ct := u.tcap i k rt
    s.capAdmits u i k (.cret (.t i k) w) (completes (.cret (.t i k) w) s fun t =>
      u.tRetires t i k 4 (recC (ct.sealed 0)) fun r =>
        { r with c := vset c.c 0 (ct.sealed 0), pcc := cs.sealed 0, pc := u.tg i k 1, delay := none, slotClears := false })
      (cretRefuses cs ct rs.val rt.val) := by
  intro c cs ct
  refine completes_capAdmits (a := fun _ => aLacks w) (t := tCret)
    (o := (u.modTc i k fun c => { c with c := vset c.c 0 (ct.sealed 0), pcc := cs.sealed 0 },
      ⟨.goto (u.tg i k 1), 4, recC (ct.sealed 0)⟩)) h rfl rfl
    ?_ fun hbody => completes_tModTc (a := fun _ => aLacks w) (t := tCret) h rfl rfl hbody rfl rfl
      ⟨rfl, rfl, rfl, rfl, rfl⟩ fun x => rfl
  rw [tCret, State.setTcap, State.modTc_modTc]
  rfl

theorem completes_tCmtc (h : s.tFetches i k w (.cmtc rs) u) :
    let v := u.tcap i k rs
    s.capAdmits u i k (.cmtc (.t i k) w) (completes (.cmtc (.t i k) w) s fun t =>
      State.tSeqs (u.modTc i k fun c => { c with tvb := v }) t i k 3 []) ((tvbRefuses v).map fun cause => (cause, 0x11)) := by
  intro v
  refine completes_capAdmits (a := fun _ => aLacks w) (t := tCmtc)
    (o := (u.modTc i k fun c => { c with tvb := v }, tSeq 3 [])) h rfl rfl ?_
    fun hbody => completes_tSeqs (a := fun _ => aLacks w) (t := tCmtc) h rfl rfl hbody
      (State.tGoes_modTc h.goes ⟨rfl, rfl, rfl, rfl⟩) h.held
  rw [tCmtc]
  cases tvbRefuses (u.tcap i k rs)
  · rfl
  · rfl

end

/-! ## The ends of loops (R85) -/

section
variable {c : TCore}

theorem TCore.goesOn_of_no_delay (h : c.delay = none) : c.goesOn = c.next := by rw [TCore.goesOn, h]

theorem TCore.loopEnd_eq (l : Fin 2) : c.loopEnd l =
    { c with lc := vset c.lc l (c.lc.get l - 1), pc := if (c.lc.get l).toNat = 1 then c.pc + 4 else c.ls.get l } := by
  have hlast : (c.lc.get l - 1 = 0) = ((c.lc.get l).toNat = 1) := by
    generalize c.lc.get l = n
    exact propext (by constructor <;> intro h <;> bv_omega)
  simp only [TCore.loopEnd, hlast]

/-- The end of a level-1 body comes first; a loop that ends there leaves level 0 to be considered. -/
theorem TCore.next_of_level1 (h : c.lc.get 1 ≠ 0) (hpc : c.pc = c.le.get 1) :
    c.next = if c.lc.get 1 = 1 then TCore.next0 { c with lc := vset c.lc 1 0 } else c.loopEnd 1 :=
  if_pos ⟨h, hpc⟩

theorem TCore.next_of_not_level1 (h : ¬ (c.lc.get 1 ≠ 0 ∧ c.pc = c.le.get 1)) : c.next = c.next0 := if_neg h

theorem TCore.next0_of_level0 (h : c.lc.get 0 ≠ 0) (hpc : c.pc = c.le.get 0) : c.next0 = c.loopEnd 0 := if_pos ⟨h, hpc⟩

theorem TCore.next0_of_not_level0 (h : ¬ (c.lc.get 0 ≠ 0 ∧ c.pc = c.le.get 0)) : c.next0 = { c with pc := c.pc + 4 } := if_neg h

/-- A loop's last pass, where the address does not end an active level-0 body too. -/
theorem TCore.next_of_level1_last (h : c.lc.get 1 = 1) (hpc : c.pc = c.le.get 1) (h0 : c.lc.get 0 ≠ 0 → c.pc ≠ c.le.get 0) :
    c.next = c.loopEnd 1 := by
  have hne : c.lc.get 1 ≠ 0 := by rw [h]; decide
  have hlc : (vset c.lc 1 0).get 0 = c.lc.get 0 := vset_get_ne _ _ (by decide)
  rw [TCore.next_of_level1 hne hpc, if_pos h, TCore.next0_of_not_level0 (by dsimp only; rw [hlc]; exact fun ⟨ha, hb⟩ => h0 ha hb),
    TCore.loopEnd_eq, h]
  rfl

/-- The end of the body of one loop in sequence (R85). -/
theorem TCore.goesOn_loopEnd (hdelay : c.delay = none) {l : Fin 2} (hfirst : l = 0 → ¬ (c.lc.get 1 ≠ 0 ∧ c.pc = c.le.get 1))
    (hactive : c.lc.get l ≠ 0) (hpc : c.pc = c.le.get l) (hlast : l = 1 → c.lc.get 1 = 1 → c.lc.get 0 ≠ 0 → c.pc ≠ c.le.get 0) :
    c.goesOn = c.loopEnd l := by
  rw [TCore.goesOn_of_no_delay hdelay]
  obtain rfl | rfl : l = 0 ∨ l = 1 := by omega
  · rw [TCore.next_of_not_level1 (hfirst rfl), TCore.next0_of_level0 hactive hpc]
  · by_cases h1 : c.lc.get 1 = 1
    · exact TCore.next_of_level1_last h1 hpc (hlast rfl h1)
    · rw [TCore.next_of_level1 hactive hpc, if_neg h1]

/-- The end of both bodies at one address (R85, log entry 36). -/
theorem TCore.goesOn_both (hdelay : c.delay = none) (h1 : c.lc.get 1 = 1) (hpc1 : c.pc = c.le.get 1) (h0 : c.lc.get 0 ≠ 0)
    (hpc0 : c.pc = c.le.get 0) : c.goesOn = { c with
      lc := vset (vset c.lc 1 0) 0 (c.lc.get 0 - 1), pc := if (c.lc.get 0).toNat = 1 then c.pc + 4 else c.ls.get 0 } := by
  have hne : c.lc.get 1 ≠ 0 := by rw [h1]; decide
  have hlc : (vset c.lc 1 0).get 0 = c.lc.get 0 := vset_get_ne _ _ (by decide)
  rw [TCore.goesOn_of_no_delay hdelay, TCore.next_of_level1 hne hpc1, if_pos h1,
    TCore.next0_of_level0 (c := { c with lc := vset c.lc 1 0 }) (by dsimp only; rwa [hlc]) hpc0, TCore.loopEnd_eq]
  dsimp only
  rw [hlc]

theorem TCore.goesOn_seq (hdelay : c.delay = none) (h : ∀ l : Fin 2, c.lc.get l ≠ 0 → c.pc ≠ c.le.get l) :
    c.goesOn = { c with pc := c.pc + 4 } := by
  rw [TCore.goesOn_of_no_delay hdelay, TCore.next_of_not_level1 fun ⟨ha, hb⟩ => h 1 ha hb,
    TCore.next0_of_not_level0 fun ⟨ha, hb⟩ => h 0 ha hb]

theorem TCore.leaveLoops_lc (tgt : Word) (l : Fin 2) : (c.leaveLoops tgt).lc.get l =
    if (c.ls.get l).toNat ≤ tgt.toNat ∧ tgt.toNat ≤ (c.le.get l).toNat then c.lc.get l else 0 := by
  simp [TCore.leaveLoops, Vector.get_ofFn]

/-- Where a core goes on after a delay slot (R56, R88). -/
theorem TCore.goesOn_slot {d : Delay} (hdelay : c.delay = some d) (l : Fin 2) :
    c.goesOn.pc = d.next ∧ c.goesOn.delay = none ∧
    c.goesOn.lc.get l = if c.slotClears = true ∧ ¬ ((c.ls.get l).toNat ≤ d.next.toNat ∧ d.next.toNat ≤ (c.le.get l).toNat) then 0
      else c.lc.get l := by
  rw [TCore.goesOn, hdelay]
  dsimp only
  by_cases hclears : c.slotClears = true
  · rw [if_pos hclears]
    refine ⟨rfl, rfl, ?_⟩
    rw [TCore.leaveLoops_lc]
    simp only [hclears, true_and, ite_not]
  · rw [if_neg hclears]
    exact ⟨rfl, rfl, (if_neg fun h => hclears h.1).symm⟩

end

/-- Settles O32: what R84 and R86 allow, the loop ends, and the calls by the sources they refuse. -/
theorem loopsAndProtectedCalls : Obligations.LoopsAndProtectedCalls := by
  refine ⟨fun s u i k w ins h => ⟨?_, ?_, ?_, ?_, ?_⟩, fun c hdelay => ⟨fun l hfirst hactive hpc hlast => ?_,
    TCore.goesOn_both hdelay, TCore.goesOn_seq hdelay⟩, fun c d hdelay l => TCore.goesOn_slot hdelay l⟩
  · rintro l imm len cnt rfl
    have hlen : (len.toNat ≠ 0) = (len ≠ 0) := by
      rw [ne_eq, ne_eq, ← BitVec.toNat_inj]
      rfl
    have hloop := completes_tLoop h
    simp only [TCore.loopIllegal_eq_false, hlen] at hloop
    exact hloop
  · rintro rs rt rfl
    have hcall := completes_tCcall h
    simp only [ccallRefuses_eq, apply_ite (s.capAdmits u i k (.ccall (.t i k) w) _), recC_eq] at hcall
    exact hcall
  · rintro rs rt rfl
    have hret := completes_tCret h
    simp only [cretRefuses_eq, apply_ite (s.capAdmits u i k (.cret (.t i k) w) _), recC_eq] at hret
    exact hret
  · rintro cd n rfl
    exact completes_tCapReg (a := fun _ => aLacks w) (t := tCmfc) h rfl rfl rfl
  · rintro r rfl
    have htvb := completes_tCmtc h
    simp only [tvbRefuses_eq, apply_ite (Option.map _), apply_ite (s.capAdmits u i k (.cmtc (.t i k) w) _)] at htvb
    exact htvb
  · rw [TCore.goesOn_loopEnd hdelay hfirst hactive hpc hlast, TCore.loopEnd_eq]

end Sys2Proof.Machine
end

section
/-! Annulled slots on both core types (R57). -/
namespace Sys2Proof.Machine

/-! ## What does not depend on the bytes of memory -/

/-- A state with other bytes in memory. -/
def State.withMem (s : State) (m : List Host.Cell) : State := { s with mem := m }

section
variable (s : State) (m : List Host.Cell)

theorem State.withMem_ite (c : Prop) [Decidable c] (s t : State) :
    (if c then s else t).withMem m = if c then s.withMem m else t.withMem m := apply_ite (State.withMem · m) c s t

theorem State.addE_withMem (i j w k : Nat) : (s.withMem m).addE i j w k = (s.addE i j w k).withMem m := by
  unfold State.addE
  dsimp only
  simp only [State.withMem_ite]
  rfl

theorem State.setSrc_withMem (k : Nat) (y : IrqSrc) : (s.withMem m).setSrc k y = (s.setSrc k y).withMem m := by
  have hput : (s.withMem m).putSrc k y = (s.putSrc k y).withMem m := rfl
  have hnotify : ∀ t : State, ∀ p, (t.withMem m).virtNotify p = (t.virtNotify p).withMem m := fun t p => by
    unfold State.virtNotify
    dsimp only
    simp only [State.withMem_ite]
    rfl
  unfold State.setSrc
  dsimp only
  simp only [State.withMem_ite, hput, ← hnotify]
  rfl

theorem State.record_withMem (bank : Fin 49) (code unit unit2 addr info : Nat) :
    (s.withMem m).record bank code unit unit2 addr info = (s.record bank code unit unit2 addr info).withMem m := by
  have hline : ∀ t : State, (t.withMem m).bankLine bank.val = (t.bankLine bank.val).withMem m := fun t => by
    unfold State.bankLine State.setLine
    dsimp only
    simp only [State.withMem_ite, ← State.setSrc_withMem]
    rfl
  unfold State.record
  dsimp only
  rw [← hline]
  simp only [State.withMem_ite, ← State.addE_withMem]
  rfl

theorem State.eccWord_withMem (i : Fin 4) (unit a arr w : Nat) :
    State.eccWord i unit a arr (s.withMem m) w = (State.eccWord i unit a arr s w).withMem m := by
  unfold State.eccWord
  simp only [State.withMem_ite, ← State.record_withMem]
  rfl

theorem State.eccFix_withMem (i : Fin 4) (unit a p n arr : Nat) :
    (s.withMem m).eccFix i unit a p n arr = (s.eccFix i unit a p n arr).withMem m := by
  unfold State.eccFix
  induction wordsOf p n generalizing s with
  | nil => rfl
  | cons w r ih => rw [List.foldl_cons, List.foldl_cons, State.eccWord_withMem, ih]

theorem State.tFetchRead_withMem (i k : Fin 4) : (s.withMem m).tFetchRead i k = (s.tFetchRead i k).withMem m :=
  State.eccFix_withMem s m i k.val _ _ 4 _

theorem State.tFetchRead_mem (i k : Fin 4) : (s.tFetchRead i k).mem = s.mem := by
  have h := congrArg State.mem (State.tFetchRead_withMem s s.mem i k)
  exact h

theorem State.tWaited_withMem (i k : Fin 4) : (s.withMem m).tWaited i k = (s.tWaited i k).withMem m := by
  unfold State.tWaited
  dsimp only
  simp only [State.withMem_ite]
  rfl

theorem State.pruneDone_withMem (i : Fin 4) : (s.withMem m).pruneDone i = (s.pruneDone i).withMem m := by
  unfold State.pruneDone
  dsimp only
  simp only [State.withMem_ite, ← State.addE_withMem]
  rfl

theorem State.orWaits_withMem (t : State) : (s.withMem m).orWaits (t.withMem m) = (s.orWaits t).withMem m := by
  unfold State.orWaits
  simp only [State.withMem_ite]
  rfl

end

section
variable {s u v : State} {i k : Fin 4} {w : IWord} {ins : Aelxel} (m : List Host.Cell)

theorem State.tGoes.withMem (h : v.tGoes i k) : (v.withMem m).tGoes i k := h

theorem State.tFinish_withMem (hv : v.tGoes i k) {o : TOut} (ho : o.flow.retires = true) :
    (v.withMem m).tFinish i k o = (v.tFinish i k o).withMem m := by
  rw [State.tFinish_retires hv ho, State.tFinish_retires (hv.withMem m) ho, State.tWaited_withMem, ← State.pruneDone_withMem]
  rfl

/-- A fetch does not look at the bytes: the word is the command's. -/
theorem State.tFetches.withMem (h : s.tFetches i k w ins u) : (s.withMem m).tFetches i k w ins (u.withMem m) := by
  obtain ⟨hready, hfetch, hu, hdec, halign, hslot, hloop⟩ := h
  refine ⟨hready, hfetch, ?_, hdec, halign, hslot, hloop⟩
  rw [hu]
  exact (State.tFetchRead_withMem { s with held := false } m i k).symm

theorem State.tFetches.mem (h : s.tFetches i k w ins u) : u.mem = s.mem := by
  obtain ⟨-, -, hu, -⟩ := h
  rw [hu]
  exact State.tFetchRead_mem _ i k

theorem State.tRetires.mem {t : State} {n : Nat} {recs : List Byte} {f : TCore → TCore} (h : v.tRetires t i k n recs f) :
    t.mem = v.mem := by
  obtain ⟨x, -, -, hframe, -⟩ := h
  rw [hframe]

theorem State.tRetires.tc {t : State} {n : Nat} {recs : List Byte} {f : TCore → TCore} (h : v.tRetires t i k n recs f) :
    ∃ x, t.tc i k = f ((v.tc i k).retires x n recs) := by
  obtain ⟨x, -, hisl, -⟩ := h
  refine ⟨x, ?_⟩
  rw [State.tc, hisl, vset_get]

theorem State.setTg_withMem (rd : Reg) (x : Word) : (v.withMem m).setTg i k rd x = (v.setTg i k rd x).withMem m := by
  unfold State.setTg
  simp only [State.withMem_ite]
  rfl

theorem State.setTg_mem (rd : Reg) (x : Word) : (v.setTg i k rd x).mem = v.mem := by
  unfold State.setTg
  split <;> rfl

/-- What a write of a register leaves of the core: its delay slot and the count of its entries. -/
theorem State.setTg_slot (rd : Reg) (x : Word) :
    ((v.setTg i k rd x).tc i k).delay = (v.tc i k).delay ∧ ((v.setTg i k rd x).tc i k).entries = (v.tc i k).entries := by
  by_cases hr : rd = 0
  · rw [hr]
    exact ⟨rfl, rfl⟩
  · rw [State.setTg_of_ne _ _ _ _ hr, State.modTc_tc]
    exact ⟨rfl, rfl⟩

/-- A command whose instruction retires, whatever the bytes of memory. -/
theorem completes_whatever {cmd : Instr} {row : String} {a : Fin 32 → ABody} {t : Fin 4 → Fin 4 → TBody} {o : TOut}
    (h : s.tFetches i k w ins u) (hexec : ∀ s, exec cmd s = runInsn row (.t i k) w a t s) (hrow : ins.row = row)
    (hbody : t i k ins u = (v, o)) (hany : ∀ m, t i k ins (u.withMem m) = (v.withMem m, o)) (ho : o.flow.retires = true) (hv : v.tGoes i k) (hheld : v.held = false) :
    completes cmd s fun t => v.tRetires t i k (o.cyc + o.flow.extra) o.recs (fun c => c.advance o.flow) ∧
      ∀ m, exec cmd (s.withMem m) = .next (t.withMem m) := by
  obtain ⟨hret, hkept⟩ := State.tRetires_tFinish hv ho
  refine completes_t h (hexec s) hrow hbody ⟨State.tRetires_orWaits hret (hkept.trans hheld), fun m => ?_⟩
  rw [hexec, runInsn_t (h.withMem m) hrow, hany, State.tFinish_withMem m hv ho, State.orWaits_withMem]

/-- The flow of a branch that is not taken, or of a jump, whose slot is annulled. -/
def TFlow.annuls : TFlow → Bool
  | .skip | .jump _ => true
  | _ => false

/-- Where the instruction goes on. -/
def TFlow.past (f : TFlow) (pc : Word) : Word :=
  match f with
  | .jump tgt => tgt
  | _ => pc + 8

theorem TFlow.annuls_advance {f : TFlow} (hf : f.annuls = true) (c : TCore) :
    (c.advance f).delay = c.delay ∧ (c.advance f).entries = c.entries ∧ (c.advance f).pc = f.past c.pc := by
  cases f
  case skip => exact ⟨rfl, rfl, rfl⟩
  case jump => exact ⟨rfl, rfl, rfl⟩
  all_goals cases hf

theorem TFlow.retires_of_annuls {f : TFlow} (hf : f.annuls = true) : f.retires = true := by
  cases f
  case skip => rfl
  case jump => rfl
  all_goals cases hf

/-- An annulled slot: no slot is open after the instruction, no exception was taken, and what stands at the slot does not matter
(R57). -/
theorem completes_annulled {cmd : Instr} {row : String} {a : Fin 32 → ABody} {t : Fin 4 → Fin 4 → TBody} {o : TOut} {rd : Reg}
    {x : Word} (h : s.tFetches i k w ins u) (hexec : ∀ s, exec cmd s = runInsn row (.t i k) w a t s) (hrow : ins.row = row)
    (hforbids : slotForbids ins = true) (hbody : ∀ m, t i k ins (u.withMem m) = ((u.withMem m).setTg i k rd x, o))
    (ho : o.flow.annuls = true) (b : List Byte) (p : Nat) :
    completes cmd s fun t => (t.tc i k).delay = none ∧ (t.tc i k).entries = (u.tc i k).entries ∧ t.mem = u.mem ∧
      (t.tc i k).pc = o.flow.past (u.tc i k).pc ∧
      exec cmd (s.withMem (Memory.write s.mem p b)) = .next (t.withMem (Memory.write t.mem p b)) := by
  have hcmd := completes_whatever (v := u.setTg i k rd x) h hexec hrow (hbody u.mem) (fun m => (hbody m).trans (by rw [State.setTg_withMem]))
    (TFlow.retires_of_annuls ho) (State.tGoes_setTg h.goes) ((State.setTg_held rd x).trans h.held)
  refine hcmd.imp fun t ⟨hret, hexec'⟩ => ?_
  obtain ⟨y, htc⟩ := hret.tc
  obtain ⟨hdelay, hentries, hpc⟩ := TFlow.annuls_advance ho (((u.setTg i k rd x).tc i k).retires y (o.cyc + o.flow.extra) o.recs)
  obtain ⟨hdelay', hentries'⟩ := State.setTg_slot (v := u) (i := i) (k := k) rd x
  have hmem : t.mem = u.mem := hret.mem.trans (State.setTg_mem rd x)
  refine ⟨?_, ?_, hmem, ?_, ?_⟩
  · rw [htc, hdelay]
    exact hdelay'.trans (h.no_delay hforbids)
  · rw [htc, hentries]
    exact hentries'
  · rw [htc, hpc]
    exact congrArg o.flow.past (State.setTg_pc u i k rd x)
  · rw [hexec', hmem, h.mem]

/-- What PCC admits, whatever the bytes of memory. -/
theorem State.tTarget_withMem {tgt : Word} (h : (u.tc i k).pcc.refuses tgt.toNat 4 permX = none) :
    (u.withMem m).tTarget i k tgt = none := State.tTarget_none h

end

/-- Settles O47: the branches and jumps of O17 and O18 with a = 1, none of which looks at the slot. -/
theorem annulledSlots : Obligations.AnnulledSlots := by
  refine ⟨fun s u c w ins h => ⟨?_, ?_, ?_, ?_⟩, fun s u i k w ins cmd slot _ h _ => ?_⟩
  · rintro cond r1 r2 off rfl hno
    refine (completes_aBranch h).imp fun t ⟨v, hv, ht⟩ => ⟨v, hv, ?_⟩
    rw [hno] at ht
    exact ht
  · rintro l off rfl
    cases l
    · exact completes_aJ h
    · exact completes_aJal h
  · rintro r1 rfl halign
    refine (completes_aJr h).imp fun t ht => ?_
    rw [if_pos halign] at ht
    exact ht
  · rintro rd r1 rfl halign hne
    refine (completes_aJalr h).imp fun t ht => ?_
    rw [if_neg (by tauto), if_pos halign] at ht
    exact ht
  · intro c open_ holding hins
    obtain ⟨cond, r1, r2, off, rfl, hno, rfl⟩ | ⟨l, off, rfl, hopen, rfl⟩ | ⟨r1, rfl, hopen, rfl⟩ | ⟨rd, r1, rfl, hopen, hne, rfl⟩ := hins
    · refine (completes_annulled (rd := 0) (x := 0) (o := ⟨.skip, 1, []⟩) (a := aBranch) (t := tBranch) h (fun _ => rfl) rfl rfl
        (fun m => ?_) rfl slot _).imp fun t ⟨hdelay, hentries, hmem, hpc, hexec⟩ => ⟨hdelay, hentries, hmem, .inl hpc, hexec⟩
      rw [tBranch]
      exact if_neg (by rw [show (u.withMem m).tg = u.tg from rfl, hno]; decide)
    · refine (completes_annulled (rd := if l then 1 else 0) (x := c.pc + 8)
        (o := ⟨.jump (targetOf c.pc off), 1, if l then recG 1 (c.pc + 8) else []⟩) (a := aJump) (t := tJump) h (fun _ => rfl) rfl rfl
        (fun m => ?_) rfl slot _).imp fun t ⟨hdelay, hentries, hmem, hpc, hexec⟩ =>
          ⟨hdelay, hentries, hmem, .inr ⟨l, off, 0, 0, .inl ⟨rfl, hpc⟩⟩, hexec⟩
      have htgt : (u.withMem m).tTarget i k (targetOf ((u.withMem m).tc i k).pc off) = none := State.tTarget_withMem m hopen
      simp only [tJump, htgt]
      cases l
      · rfl
      · rfl
    · refine (completes_annulled (rd := 0) (x := 0) (o := ⟨.jump (u.tg i k r1), 3, []⟩) (a := fun c => aRegJump c w)
        (t := fun i k => tRegJump i k w) h (fun _ => rfl) rfl rfl
        (fun m => ?_) rfl slot _).imp fun t ⟨hdelay, hentries, hmem, hpc, hexec⟩ =>
          ⟨hdelay, hentries, hmem, .inr ⟨true, 0, r1, 0, .inr ⟨.inl rfl, hpc⟩⟩, hexec⟩
      have htgt : (u.withMem m).tTarget i k ((u.withMem m).tg i k r1) = none := State.tTarget_withMem m hopen
      simp only [tRegJump, htgt]
      rfl
    · refine (completes_annulled (rd := rd) (x := c.pc + 8) (o := ⟨.jump (u.tg i k r1), 3, recG rd (c.pc + 8)⟩)
        (a := fun c => aRegJump c w) (t := fun i k => tRegJump i k w) h (fun _ => rfl) rfl rfl
        (fun m => ?_) rfl slot _).imp fun t ⟨hdelay, hentries, hmem, hpc, hexec⟩ =>
          ⟨hdelay, hentries, hmem, .inr ⟨true, 0, r1, rd, .inr ⟨.inr rfl, hpc⟩⟩, hexec⟩
      have htgt : (u.withMem m).tTarget i k ((u.withMem m).tg i k r1) = none := State.tTarget_withMem m hopen
      have hlegal : ¬ (rd = r1 ∧ rd ≠ 0) := by tauto
      simp only [tRegJump, hlegal, if_false, htgt]
      rfl

end Sys2Proof.Machine
end

section
/-! What the stores, the fences and the returns of an A-core leave of what is asked of it: continuing the lemmas of the operations that
a load can reach. -/
namespace Sys2Proof.Machine

variable {s : State} {me : Fin 32}

theorem State.arriveAll_calm {c} (h : s.calm me) : (s.arriveAll c).calm me := State.arriveSome_calm h

theorem State.devStore_calm {c x b} (h : s.calm me) : (s.devStore c x b).1.calm me := by
  unfold State.devStore
  split
  · exact State.arriveSome_calm (State.modA_calm h fun _ ha => ha)
  · split
    next heq => exact State.devWrite_calm (State.arriveAt_calm h) heq
    next => exact State.arriveAt_calm h

theorem State.devStores_calm {c x n b} (h : s.calm me) : (State.devStores c x n b s).1.calm me := by
  fun_induction State.devStores c x n b s <;> grind [State.devStore_calm]

theorem State.sbPush_calm {c e} (h : s.calm me) : (s.sbPush c e).calm me := by
  grind [State.sbPush, State.drainStore_calm, State.modA_calm, ACore.calm]

theorem State.commitStore_calm {k l b} (h : s.calm me) : (s.commitStore k l b).1.calm me := by
  cases l with
  | nil => exact h
  | cons x r => grind [State.commitStore, State.devStores_calm, State.drainAll_calm, State.sbPush_calm]

theorem State.coreStore_calm {k rule va b} (h : s.calm me) : (s.coreStore k rule va b).1.calm me := by
  grind [State.coreStore, State.accsOf_calm, State.commitStore_calm]

theorem State.readNow_calm {k va n} (h : s.calm me) : (s.readNow k va n).1.calm me := by
  grind [State.readNow, State.drainAll_calm, State.coreLoad_calm]

theorem State.tlbEffect_calm {p} (h : s.calm me) : (s.tlbEffect p).calm me := State.modA_calm h fun _ ha => ha

end Sys2Proof.Machine
end

section
/-! Fences, hints and waiting on both core types (R74 to R78, R82, R83, R95, R98, R189, R274). -/
namespace Sys2Proof.Machine

/-! ## FENCE.T and the TLBs (R188, R189) -/

/-- A TLB operation changes the TLB and the walk cache of the core it travels to. -/
theorem State.tlbEffect_frame (s : State) (p : TlbPend) (j : Fin 32) : s.tlbEffect p = { s with acore := (s.tlbEffect p).acore } ∧
    (s.tlbEffect p).acore.get j = { s.acore.get j with
      tlb := ((s.tlbEffect p).acore.get j).tlb, walk := ((s.tlbEffect p).acore.get j).walk } := by
  refine ⟨rfl, ?_⟩
  by_cases hj : j = p.dst
  · rw [hj, State.tlbEffect, State.modA_get]
    rfl
  · have hget : (s.tlbEffect p).acore.get j = s.acore.get j := vmod_get_ne _ _ hj
    rw [hget]

/-- What a TLB operation leaves in a TLB. -/
theorem State.tlbEffect_tlb (s : State) (p : TlbPend) (j : Fin 32) (e : TlbEnt) : e ∈ ((s.tlbEffect p).acore.get j).tlb ↔
    e ∈ (s.acore.get j).tlb ∧ (p.dst = j → p.op.hitsTlb p.world p.part e = false) := by
  by_cases hj : j = p.dst
  · rw [hj, State.tlbEffect, State.modA_get, ACore.tlbi]
    simp
  · have hget : (s.tlbEffect p).acore.get j = s.acore.get j := vmod_get_ne _ _ hj
    rw [hget]
    simp [Ne.symm hj]

/-- TLB operations that take effect in turn. -/
def State.tlbEffects (s : State) (l : List TlbPend) : State := l.foldl (fun s p => s.tlbEffect p) s

theorem State.foldl_tlbEffect (s : State) (l : List TlbPend) : l.foldl (fun s p => s.tlbEffect p) s = s.tlbEffects l := rfl

/-- Every core's stores are written, and its DEV-P stores arrive. -/
def State.drainEvery (s : State) : State := (allFin 32).foldl (fun s j => (s.drainAll j).arriveAll j) s

theorem State.foldl_drainAll (s : State) : (allFin 32).foldl (fun s j => (s.drainAll j).arriveAll j) s = s.drainEvery := rfl

theorem State.tlbEffects_frame (l : List TlbPend) (s : State) (j : Fin 32) :
    s.tlbEffects l = { s with acore := (s.tlbEffects l).acore } ∧
    (s.tlbEffects l).acore.get j = { s.acore.get j with
      tlb := ((s.tlbEffects l).acore.get j).tlb, walk := ((s.tlbEffects l).acore.get j).walk } := by
  induction l generalizing s with
  | nil => exact ⟨rfl, rfl⟩
  | cons p r ih =>
    obtain ⟨hframe, hcore⟩ := ih (s.tlbEffect p)
    obtain ⟨hframe', hcore'⟩ := State.tlbEffect_frame s p j
    rw [hframe'] at hframe
    rw [hcore'] at hcore
    exact ⟨hframe, hcore⟩

theorem State.tlbEffects_tlb (l : List TlbPend) (s : State) (j : Fin 32) (e : TlbEnt) : e ∈ ((s.tlbEffects l).acore.get j).tlb ↔
    e ∈ (s.acore.get j).tlb ∧ ∀ p ∈ l, p.dst = j → p.op.hitsTlb p.world p.part e = false := by
  induction l generalizing s with
  | nil => simp [State.tlbEffects]
  | cons p r ih =>
    rw [State.tlbEffects, List.foldl_cons]
    exact (ih (s.tlbEffect p)).trans (by rw [State.tlbEffect_tlb, List.forall_mem_cons, and_assoc])

theorem State.tlbEffects_calm {s : State} {me : Fin 32} {l : List TlbPend} (h : s.calm me) : (s.tlbEffects l).calm me :=
  foldl_calm (fun _ _ => State.tlbEffect_calm) h

/-! ## A-cores -/

section
variable {s u v : State} {c : Fin 32} {w : IWord} {ins : Aelxel} {cmd : Instr} {row : String} {a : Fin 32 → ABody}
  {t : Fin 4 → Fin 4 → TBody}

/-- What an instruction that may not be executed at the position raises. -/
theorem completes_aRefuses {f : Exn} (h : s.aFetches c w ins u) (hexec : exec cmd s = runInsn row (.a c) w a t s)
    (hrow : ins.row = row) (hbody : a c ins u = (u, .exn f, [])) :
    completes cmd s fun t => t = s.orWaits ((u.raise c f).stepDone c) := completes_raises h hexec hrow hbody

theorem State.outer_eq (s : State) (c : Fin 32) : s.outer c = true ↔ s.atH c = false ∧ (s.acore.get c).ring ≠ 0 := by
  simp [State.outer]

/-- One bit set in a word or cleared in it. -/
theorem putBit_bits {m : Word} {n : Nat} (hm : ∀ j, m.getLsbD j = decide (j = n)) (st : Word) (b : Bool) :
    (∀ j, j ≠ n → (if b then st ||| m else st &&& ~~~m).getLsbD j = st.getLsbD j) ∧
      (if b then st ||| m else st &&& ~~~m).getLsbD n = b := by
  cases b
  · refine ⟨fun j hj => ?_, by simp [hm, -BitVec.getLsbD_eq_getElem]⟩
    have hlt : st.getLsbD j = true → j < 64 := BitVec.lt_of_getLsbD
    simp only [Bool.false_eq_true, if_false, BitVec.getLsbD_and, BitVec.getLsbD_not, hm, hj, decide_false, Bool.not_false, Bool.and_true]
    simpa using hlt
  · refine ⟨fun j hj => by simp [hm, hj, -BitVec.getLsbD_eq_getElem], by simp [hm, -BitVec.getLsbD_eq_getElem]⟩

/-- The bits of STAT after PRBAR. -/
theorem prbar_bits (st : Word) (b : Bool) :
    (∀ j, j ≠ 10 → (if b then st ||| 0x400 else st &&& ~~~(0x400 : Word)).getLsbD j = st.getLsbD j) ∧
      (if b then st ||| 0x400 else st &&& ~~~(0x400 : Word)).getLsbD 10 = b := by
  refine putBit_bits (fun j => ?_) st b
  rw [show (0x400 : Word) = BitVec.twoPow 64 10 from rfl, BitVec.getLsbD_twoPow]
  by_cases hj : j = 10
  · simp [hj]
  · simp [hj, Ne.symm hj]

end

section
variable {s u : State} {c : Fin 32} {w : IWord}

theorem completes_aPrflush {all : Bool} (h : s.aFetches c w (.prflush all) u) :
    let d := u.drainAll c
    let a := d.acore.get c
    let z := d.modA c fun _ => { a with ret := [], pred := a.pred.filter fun e => !all && e.ctx != u.ctxTag c }
    if u.atH c = false ∧ (u.acore.get c).ring ≠ 0 then
      completes (.prflush (.a c) w) s fun t => t = s.orWaits ((u.raise c (exn 2 0 0 (w.setWidth 64))).stepDone c)
    else if all = true ∧ u.atH c = false ∧ u.hasH = true ∧ (u.acore.get c).secure = false then
      completes (.prflush (.a c) w) s fun t =>
        t = s.orWaits ((u.raise c { exn 3 2 0 (w.setWidth 64) with toH := true }).stepDone c)
    else z.held = false → completes (.prflush (.a c) w) s (u.aSeq z · c) := by
  intro d a z
  split
  next hpriv =>
    refine completes_aRefuses (a := fun c => aPrflush c w) (t := fun _ _ => tNop) h rfl rfl ?_
    rw [aPrflush]
    exact if_pos ((State.outer_eq u c).mpr hpriv)
  next hpriv =>
    have houter : ¬ u.outer c = true := fun ho => hpriv ((State.outer_eq u c).mp ho)
    split
    next htrap =>
      refine completes_aRefuses (a := fun c => aPrflush c w) (t := fun _ _ => tNop) h rfl rfl ?_
      rw [aPrflush]
      obtain ⟨hall, hpos, hlevel, hworld⟩ := htrap
      exact (if_neg houter).trans (if_pos (by simp [hall, hpos, hlevel, hworld]))
    next htrap =>
      intro hheld
      have hz : z = d.modA c fun x => { x with ret := [], pred := if all then [] else x.pred.filter fun e => e.ctx != u.ctxTag c } := by
        cases all
        · rfl
        · exact congrArg (fun l => d.modA c fun _ => { a with ret := [], pred := l }) (List.filter_eq_nil_iff.mpr (by simp))
      rw [hz] at hheld ⊢
      refine completes_aSeq (a := fun c => aPrflush c w) (t := fun _ _ => tNop) (evs := []) h rfl rfl ?_
        (State.modA_calm (State.drainAll_calm h.calm) fun _ ha => ha) hheld
      rw [aPrflush]
      exact (if_neg houter).trans (if_neg fun ht => htrap (by simpa [and_assoc] using ht))

/-- The TLB operations of a core, which have taken effect, no longer wait. -/
def State.tlbSettled (s : State) (c : Fin 32) : State := { s with tlbPend := s.tlbPend.filter fun p => p.src != c }

theorem State.tlbSettled_calm {s : State} {me : Fin 32} (c : Fin 32) (h : s.calm me) : (s.tlbSettled c).calm me := h

theorem State.tlbSettled_held (s : State) (c : Fin 32) : (s.tlbSettled c).held = s.held := rfl

theorem aFenceT_eq (c : Fin 32) (u : State) : aFenceT c (.fence .t) u =
    let d := u.drainAll c
    let v := d.tlbEffects (d.tlbPend.filter fun p => p.src == c)
    (v.drainEvery.tlbSettled c, .seq, []) := by
  simp only [aFenceT, State.foldl_drainAll, State.foldl_tlbEffect, State.tlbSettled]

/-- FENCE.T: what the commits of the pending TLB operations of the core leave, then the stores of every core (R74, R189). -/
theorem completes_aFenceT (h : s.aFetches c w (.fence .t) u) :
    let d := u.drainAll c
    let v := d.tlbEffects (d.tlbPend.filter fun p => p.src == c)
    let z := v.drainEvery
    (z.held = false → completes (.fenceT (.a c) w) s (u.aSeq (z.tlbSettled c) · c)) ∧
    v = { d with acore := v.acore } ∧
    (∀ j, v.acore.get j = { d.acore.get j with tlb := (v.acore.get j).tlb, walk := (v.acore.get j).walk }) ∧
    (∀ p ∈ d.tlbPend, p.src = c → ∀ e ∈ (v.acore.get p.dst).tlb, p.op.hitsTlb p.world p.part e = false) ∧
    ∀ j, ∀ e ∈ (d.acore.get j).tlb,
      (∀ p ∈ d.tlbPend, p.src = c → p.dst = j → p.op.hitsTlb p.world p.part e = false) → e ∈ (v.acore.get j).tlb := by
  intro d v z
  have hz : z.calm c := foldl_calm (fun _ _ hs => State.arriveAll_calm (State.drainAll_calm hs))
    (State.tlbEffects_calm (State.drainAll_calm h.calm))
  have hmine : ∀ p, p ∈ d.tlbPend.filter (fun p => p.src == c) ↔ p ∈ d.tlbPend ∧ p.src = c := fun p => by simp
  refine ⟨fun hheld => ?_, (State.tlbEffects_frame _ d 0).1, fun j => (State.tlbEffects_frame _ d j).2, fun p hp hsrc e he => ?_,
    fun j e he hmiss => ?_⟩
  · exact completes_aSeq (a := aFenceT) (t := fun _ _ => tNop) h rfl rfl (aFenceT_eq c u) (State.tlbSettled_calm c hz)
      ((State.tlbSettled_held z c).trans hheld)
  · exact ((State.tlbEffects_tlb _ d p.dst e).mp he).2 p ((hmine p).mpr ⟨hp, hsrc⟩) rfl
  · exact (State.tlbEffects_tlb _ d j e).mpr ⟨he, fun p hp => hmiss p ((hmine p).mp hp).1 ((hmine p).mp hp).2⟩

theorem completes_aWfi (h : s.aFetches c w .wfi u) :
    let d := u.drainAll c
    let z := if d.irqPending c = true ∨ (d.acore.get c).haltReq = true then d else d.modA c fun a => { a with run := .wfi }
    if u.atH c = false ∧ (u.acore.get c).ring ≠ 0 then
      completes (.wfi (.a c) w) s fun t => t = s.orWaits ((u.raise c (exn 2 0 0 (w.setWidth 64))).stepDone c)
    else z.held = false → completes (.wfi (.a c) w) s (u.aSeq z · c) := by
  intro d z
  split
  next hpriv =>
    refine completes_aRefuses (a := fun c => aWfi c w) (t := tWfi) h rfl rfl ?_
    rw [aWfi]
    exact if_pos ((State.outer_eq u c).mpr hpriv)
  next hpriv =>
    intro hheld
    have hd : d.calm c := State.drainAll_calm h.calm
    refine completes_aSeq (a := fun c => aWfi c w) (t := tWfi) (evs := []) h rfl rfl ?_
      (ite_calm hd (State.modA_calm hd fun _ ha => ha)) hheld
    rw [aWfi]
    refine (if_neg fun ho => hpriv ((State.outer_eq u c).mp ho)).trans ?_
    simp only [Bool.or_eq_true]
    rfl

theorem completes_aPrbar {b : Bool} (h : s.aFetches c w (.prbar b) u) (hheld : (u.drainAll c).held = false) :
    completes (.prbar (.a c) w) s fun t => ∃ st : Word,
      (∀ j, j ≠ 10 → st.getLsbD j = ((u.drainAll c).acore.get c).stat.getLsbD j) ∧ st.getLsbD 10 = b ∧
      u.aSeq ((u.drainAll c).modA c fun a => { a with stat := st }) t c := by
  obtain ⟨hkept, hset⟩ := prbar_bits ((u.drainAll c).acore.get c).stat b
  exact (completes_aSeq (a := aPrbar) (t := fun _ _ => tNop) h rfl rfl rfl
    (State.modA_calm (State.drainAll_calm h.calm) fun _ ha => ha) hheld).imp fun t ht => ⟨_, hkept, hset, ht⟩

end

/-! ## T-cores -/

section
variable {s u : State} {i k : Fin 4} {w : IWord}

/-- What older stores a fence finds that has none in the store buffer to wait for. -/
theorem State.tOrder_all (h : (u.tc i k).sb = []) :
    u.tOrder i k 0 0 true = (u, (u.tc i k).outq.any (fun _ => true) || (u.island.get i).rel.any fun _ => true) := by
  simp [State.tOrder, h]

theorem any_true_eq_false {α : Type} {l : List α} : (l.any fun _ => true) = false ↔ l = [] := by
  cases l
  · simp
  · simp

theorem completes_tNop {ins : Aelxel} {cmd : Instr} {row : String} {a : Fin 32 → ABody} {t : Fin 4 → Fin 4 → TBody}
    (h : s.tFetches i k w ins u) (hexec : exec cmd s = runInsn row (.t i k) w a t s) (hrow : ins.row = row)
    (hbody : t i k ins u = (u, tSeq 1 [])) : completes cmd s (u.tSeqs · i k 1 []) :=
  completes_tSeqs h hexec hrow hbody h.goes h.held

theorem completes_tFence {m : BitVec 4} (h : s.tFetches i k w (.fence (.order m)) u) (hno : m.getLsbD 1 = false ∨
    ((u.tc i k).sb = [] ∧ (u.tc i k).outq = [] ∧ (u.island.get i).rel = [])) :
    completes (.fence (.t i k) w) s (u.tSeqs · i k 1 []) := by
  refine completes_tNop (a := aFence) (t := tFence) h rfl rfl ?_
  rw [tFence]
  by_cases hm : m.getLsbD 1 = true
  · obtain hm' | ⟨hsb, houtq, hrel⟩ := hno
    · exact absurd (hm'.symm.trans hm) Bool.false_ne_true
    · refine (if_pos hm).trans ?_
      rw [State.tOrder_all hsb, houtq, hrel]
      rfl
  · exact if_neg hm

/-- A command whose instruction has to wait, and what a halt request makes of it. -/
theorem completes_tWaits {ins : Aelxel} {cmd : Instr} {row : String} {a : Fin 32 → ABody} {t : Fin 4 → Fin 4 → TBody}
    (h : s.tFetches i k w ins u) (hexec : exec cmd s = runInsn row (.t i k) w a t s) (hrow : ins.row = row)
    (hbody : t i k ins u = (u, tStay)) : completes cmd s (· = s.orWaits ((u.tStalled i k).tHaltTry i k)) := by
  obtain ⟨hactive, hrun, -⟩ := h.goes
  refine completes_t h hexec hrow hbody (congrArg s.orWaits ?_)
  simp [State.tFinish, List.contains_iff_mem.mp hactive, hrun, tStay]

theorem completes_tFence_waits {m : BitVec 4} (h : s.tFetches i k w (.fence (.order m)) u) (hm : m.getLsbD 1 = true)
    (hsb : (u.tc i k).sb = []) (hwait : (u.tc i k).outq ≠ [] ∨ (u.island.get i).rel ≠ []) :
    completes (.fence (.t i k) w) s (· = s.orWaits ((u.tStalled i k).tHaltTry i k)) := by
  have hwaits : ((u.tc i k).outq.any (fun _ => true) || (u.island.get i).rel.any fun _ => true) = true := by
    rw [← Bool.not_eq_false, Bool.or_eq_false_iff, any_true_eq_false, any_true_eq_false, not_and_or]
    exact hwait
  refine completes_tWaits (a := aFence) (t := tFence) h rfl rfl ?_
  rw [tFence]
  refine (if_pos hm).trans ?_
  rw [State.tOrder_all hsb, hwaits]

theorem completes_tFenceD (h : s.tFetches i k w (.fence .d) u) (hsb : (u.tc i k).sb = []) (houtq : (u.tc i k).outq = []) :
    completes (.fenceD (.t i k) w) s fun t =>
      if (u.island.get i).rel = [] then State.tSeqs (u.modIsl i fun x => { x with issued := [] }) t i k 1 []
      else t = s.orWaits ((u.tStalled i k).tHaltTry i k) := by
  split
  next hrel =>
    refine completes_tSeqs (a := aFence) (t := tFenceD) h rfl rfl ?_ ?_ h.held
    · rw [tFenceD, State.tOrder_all hsb, houtq, hrel]
      exact if_neg (not_not.mpr hrel)
    · have hgoes := h.goes
      unfold State.tGoes State.tc at *
      rw [State.modIsl_get]
      exact hgoes
  next hrel =>
    refine completes_tWaits (a := aFence) (t := tFenceD) h rfl rfl ?_
    have hwaits : ((u.tc i k).outq.any (fun _ => true) || (u.island.get i).rel.any fun _ => true) = true := by
      rw [← Bool.not_eq_false, Bool.or_eq_false_iff, any_true_eq_false, any_true_eq_false, not_and_or]
      exact .inr hrel
    rw [tFenceD, State.tOrder_all hsb, hwaits]

/-- An instruction that retires with more than its flow: what `tFinish` makes of it is a retirement by `g`. -/
theorem completes_tRetiresBy {ins : Aelxel} {cmd : Instr} {row : String} {a : Fin 32 → ABody} {t : Fin 4 → Fin 4 → TBody}
    {o : TOut} {g : TCore → TCore} (h : s.tFetches i k w ins u) (hexec : exec cmd s = runInsn row (.t i k) w a t s)
    (hrow : ins.row = row) (hbody : t i k ins u = (u, o))
    (hfinish : u.tFinish i k o = ((u.tWaited i k).modTc i k fun c => g (c.retire o)).pruneDone i) :
    completes cmd s fun t => u.tRetires t i k (o.cyc + o.flow.extra) o.recs g := by
  obtain ⟨hret, hkept⟩ := State.tRetires_pruneDone u i k o g
  rw [← hfinish] at hret hkept
  exact completes_t h hexec hrow hbody (State.tRetires_orWaits hret (hkept.trans h.held))

theorem completes_tWfi (h : s.tFetches i k w .wfi u) : completes (.wfi (.t i k) w) s fun t =>
    if u.tPending i k then u.tSeqs t i k 1 [] else u.tRetires t i k 1 [] fun c => { c.goesOn with run := .wfi } := by
  obtain ⟨hactive, hrun, -⟩ := h.goes
  split
  next hpending =>
    refine completes_tNop (a := fun c => aWfi c w) (t := tWfi) h rfl rfl ?_
    rw [tWfi, hpending]
    rfl
  next hpending =>
    refine completes_tRetiresBy (a := fun c => aWfi c w) (t := tWfi) (o := ⟨.wfi, 1, []⟩) h rfl rfl ?_ ?_
    · rw [tWfi, Bool.of_not_eq_true hpending]
      rfl
    · simp [State.tFinish, List.contains_iff_mem.mp hactive, hrun]
      rfl

/-- What the close of its window makes of a core (R298). -/
def TCore.closed (c : TCore) : TCore :=
  { c with uncompared := c.uncompared ++ [⟨c.seq, c.pen⟩], pen := 0xFFFFFFFFFFFFFFFF, winCount := 0, seq := c.seq + 1 }

theorem completes_tChkpt (h : s.tFetches i k w .chkpt u) (hst : (u.island.get i).st ≠ .rejoinWait) :
    completes (.chkpt (.t i k) w) s fun t => u.tRetires t i k 1 [] fun r => r.goesOn.closed := by
  refine completes_tRetiresBy (a := fun _ => aLacks w) (t := fun _ _ => tChkpt) (o := ⟨.chkpt, 1, []⟩) h rfl rfl rfl ?_
  obtain ⟨hactive, hrun, hhalt, hstep⟩ := h.goes
  obtain ⟨x, n, -, hwaited⟩ := State.tWaited_eq u i k
  have hclosed : ((u.tWaited i k).modTc i k fun c => (c.retire ⟨.chkpt, 1, []⟩).advance .chkpt).closeWindow i k =
      (u.tWaited i k).modTc i k fun c => (c.retire ⟨.chkpt, 1, []⟩).goesOn.closed := by
    rw [State.closeWindow, State.modTc_modTc]
    refine if_neg fun ⟨hrejoin, _⟩ => hst ?_
    rw [hwaited] at hrejoin
    simpa [State.modTc] using hrejoin
  have htc : ((u.tWaited i k).modTc i k fun c => (c.retire ⟨.chkpt, 1, []⟩).goesOn.closed).tc i k =
      (((u.tc i k).retires x 1 []).advance .chkpt).closed := by
    have hbefore : (u.tWaited i k).tc i k = { u.tc i k with waited := false, cycle := (u.tc i k).cycle + x } := by
      rw [hwaited]
      exact State.modTc_tc u i k _
    rw [State.modTc_tc, hbefore]
    rfl
  obtain ⟨hhalt', hstep'⟩ := TCore.advance_calm ((u.tc i k).retires x 1 []) .chkpt
  have hdone := State.tStepDone_eq (s := (u.tWaited i k).modTc i k fun c => (c.retire ⟨.chkpt, 1, []⟩).goesOn.closed) (i := i) (k := k)
    (by rw [htc]; exact hhalt'.trans hhalt) (by rw [htc]; exact hstep'.trans hstep)
  unfold State.tFinish
  rw [hactive, hrun, if_neg (by decide), if_neg (by decide)]
  dsimp only
  rw [hclosed, hdone]

end

/-- Settles O28, one lemma for each instruction whose answer depends on the state. -/
theorem fencesAndHints : Obligations.FencesAndHints := by
  refine ⟨fun s u c w ins h => ⟨?_, ?_, ?_, ?_, ?_, ?_, ?_, ?_, ?_, ?_⟩, fun s u i k w ins h => ⟨?_, ?_, ?_, ?_, ?_, ?_, ?_, ?_, ?_, ?_, ?_, ?_⟩⟩
  · rintro m rfl hheld
    have hbody : aFence c (.fence (.order m)) u =
        (if m.getLsbD 1 then (u.drainAll c).arriveAll c else u.drainAll c, .seq, []) := rfl
    have hd := State.drainAll_calm (c := c) h.calm
    exact completes_aSeq (a := aFence) (t := tFence) h rfl rfl hbody (ite_calm (State.arriveAll_calm hd) hd) hheld
  · rintro rfl hheld
    exact completes_aSeq (a := aFence) (t := fun _ _ => tNop) h rfl rfl rfl (State.drainAll_calm h.calm) hheld
  · rintro rfl hheld
    exact completes_aSeq (a := aFence) (t := tFenceD) h rfl rfl rfl (State.arriveAll_calm (State.drainAll_calm h.calm)) hheld
  · rintro rfl hheld
    exact completes_aSeq (a := aSpb) (t := fun _ _ => tNop) h rfl rfl rfl (State.drainAll_calm h.calm) hheld
  · rintro rfl
    exact completes_aSeq (a := fun _ => aNop) (t := fun _ _ => tNop) h rfl rfl rfl h.calm h.held
  · rintro rfl
    exact completes_aRefuses (a := fun _ => aLacks w) (t := fun _ _ => tChkpt) h rfl rfl rfl
  · rintro rfl
    simp only [State.foldl_drainAll, State.foldl_tlbEffect]
    exact completes_aFenceT h
  · rintro all rfl
    exact completes_aPrflush h
  · rintro b rfl hheld
    exact completes_aPrbar h hheld
  · rintro rfl
    exact completes_aWfi h
  · rintro rfl
    exact completes_tNop (a := aFence) (t := fun _ _ => tNop) h rfl rfl rfl
  · rintro rfl
    exact completes_tNop (a := aFenceT) (t := fun _ _ => tNop) h rfl rfl rfl
  · rintro rfl
    exact completes_tNop (a := aSpb) (t := fun _ _ => tNop) h rfl rfl rfl
  · rintro b rfl
    exact completes_tNop (a := fun c => aPrflush c w) (t := fun _ _ => tNop) h rfl rfl rfl
  · rintro b rfl
    exact completes_tNop (a := aPrbar) (t := fun _ _ => tNop) h rfl rfl rfl
  · rintro rfl
    exact completes_tNop (a := fun _ => aNop) (t := fun _ _ => tNop) h rfl rfl rfl
  · rintro m rfl
    exact completes_tFence h
  · rintro m rfl
    exact completes_tFence_waits h
  · rintro rfl
    exact completes_tFenceD h
  · rintro rfl
    exact completes_tWfi h
  · rintro code rfl
    exact completes_tRaises (a := aBrk) (t := fun _ _ => tBrk) h rfl rfl rfl h.goes
  · rintro rfl
    exact completes_tChkpt h

end Sys2Proof.Machine
end

section
/-! Loads and stores of an A-core (R52, R53, R113, R115, R119, R122). -/
namespace Sys2Proof.Machine

theorem LdOp.value_eq (op : LdOp) (n : Nat) : LdOp.value op n = match op with
    | .lb => (BitVec.ofNat 8 n).signExtend 64
    | .lh => (BitVec.ofNat 16 n).signExtend 64
    | .lw => (BitVec.ofNat 32 n).signExtend 64
    | .flw => 0xFFFFFFFF#32 ++ BitVec.ofNat 32 n
    | .ld | .lbu | .lhu | .lwu | .fld => BitVec.ofNat 64 n := by
  cases op
  case flw =>
    apply BitVec.eq_of_toNat_eq
    have hor := Nat.two_pow_add_eq_or_of_lt (i := 32) (b := n % 2 ^ 32) (Nat.mod_lt _ (by decide)) 4294967295
    rw [LdOp.value, nanBox, word, BitVec.toNat_ofNat, BitVec.toNat_append, BitVec.toNat_ofNat, BitVec.toNat_ofNat,
      Nat.shiftLeft_eq, Nat.mul_comm (4294967295 % 2 ^ 32)]
    refine Eq.trans ?_ hor
    omega
  all_goals rfl

theorem LdOp.float_iff (op : LdOp) : LdOp.float op = true ↔ op = .flw ∨ op = .fld := by
  cases op
  all_goals decide

theorem StOp.float_iff (op : StOp) : StOp.float op = true ↔ op = .fsw ∨ op = .fsd := by
  cases op
  all_goals decide

section
variable {s u v : State} {c : Fin 32} {w : IWord} {ev : ArrayEvent} {op : LdOp} {rd r1 : Reg} {imm : BitVec 16}

theorem State.coreLoad_calm_of {k : XCtx} {rule : TypeRule} {va : Word} {n : Nat} {mr : Bool}
    {r : Except Exn (Option (List Byte × Bool))} (hu : u.calm c) (h : u.coreLoad k rule va n ev mr = (v, r)) : v.calm c := by
  have hcalm := State.coreLoad_calm (k := k) (rule := rule) (va := va) (n := n) (ev := ev) (mr := mr) hu
  rw [h] at hcalm
  exact hcalm

/-- A load whose bytes the memory system delivers. -/
theorem completes_aLoad {b : List Byte} {trains : Bool} (h : s.aFetches c w (.load op rd r1 imm) u)
    (hload : u.coreLoad (u.ctx c .read false) (alignRule (eaI (u.g c r1) imm) (LdOp.size op)) (eaI (u.g c r1) imm) (LdOp.size op) ev true =
      (v, .ok (some (b, trains)))) (hheld : v.held = false) :
    completes (.load (.a c) w ev) s fun t => u.aSeq (v.loaded c op rd (eaI (u.g c r1) imm) b trains) t c :=
  completes_aSeq (a := fun c => aLoad c w ev) (t := fun i k => tLoadB i k w ev) h rfl rfl (aLoad_value hload)
    (State.loaded_calm (State.coreLoad_calm_of h.calm hload)) (State.loaded_held.trans hheld)

end

section
variable {s u v : State} {c : Fin 32} {w : IWord} {op : StOp} {rt r1 : Reg} {imm : BitVec 16}

/-- The bytes that a store writes. -/
def State.storeBytes (u : State) (c : Fin 32) (op : StOp) (rt : Reg) : List Byte :=
  toBytes (StOp.size op) (if op = .fsw ∨ op = .fsd then u.f c rt else u.g c rt).toNat

theorem State.accsOf_calm_of {k : XCtx} {rule : TypeRule} {va : Word} {n : Nat} {r : Except Exn (List LineAcc)} (hu : u.calm c)
    (h : u.accsOf k rule va n = (v, r)) : v.calm c := by
  have hcalm := State.accsOf_calm (k := k) (rule := rule) (va := va) (n := n) hu
  rw [h] at hcalm
  exact hcalm

theorem aStore_commits
    (h : u.coreStore (u.ctx c .write false) (alignRule (eaI (u.g c r1) imm) (StOp.size op)) (eaI (u.g c r1) imm)
      (u.storeBytes c op rt) = (v, .ok ())) :
    aStore c (.store op rt r1 imm) u = (v, .seq, 0x06 :: splitEvent (eaI (u.g c r1) imm) (StOp.size op)) := by
  simp only [State.storeBytes, ← StOp.float_iff] at h
  simp only [aStore, h]

theorem aStore_faults {f : Exn}
    (h : u.coreStore (u.ctx c .write false) (alignRule (eaI (u.g c r1) imm) (StOp.size op)) (eaI (u.g c r1) imm)
      (u.storeBytes c op rt) = (v, .error f)) :
    aStore c (.store op rt r1 imm) u = (v, .exn f, []) := by
  simp only [State.storeBytes, ← StOp.float_iff] at h
  simp only [aStore, h]

theorem State.coreStore_translated {k : XCtx} {rule : TypeRule} {va : Word} {b : List Byte} {l : List LineAcc}
    (h : u.accsOf k rule va b.length = (v, .ok l)) : u.coreStore k rule va b = v.commitStore k l b := by
  rw [State.coreStore, h]

theorem State.coreStore_faults {k : XCtx} {rule : TypeRule} {va : Word} {b : List Byte} {f : Exn}
    (h : u.accsOf k rule va b.length = (v, .error f)) : u.coreStore k rule va b = (v, .error f) := by
  rw [State.coreStore, h]

theorem State.commitStore_normal {k : XCtx} {x : LineAcc} {l : List LineAcc} {b : List Byte} (h : isDev x.type = false) :
    v.commitStore k (x :: l) b = (v.sbPush k.c ⟨storeParts (x :: l) b, k.husk, (v.acore.get k.c).pc⟩, .ok ()) :=
  if_neg (by simp [h])

theorem State.commitStore_device {k : XCtx} {x : LineAcc} {l : List LineAcc} {b : List Byte} (h : isDev x.type = true) :
    v.commitStore k (x :: l) b = State.devStores k.c x 8 b (v.drainAll k.c) := if_pos h

theorem State.storeBytes_length : (u.storeBytes c op rt).length = StOp.size op := toBytes_length _ _

/-- A store whose accesses are translated, once it is committed. -/
theorem completes_aStore {x : LineAcc} {l : List LineAcc} {z : State} (h : s.aFetches c w (.store op rt r1 imm) u)
    (haccs : u.accsOf (u.ctx c .write false) (alignRule (eaI (u.g c r1) imm) (StOp.size op)) (eaI (u.g c r1) imm) (StOp.size op) =
      (v, .ok (x :: l)))
    (hcommit : v.commitStore (u.ctx c .write false) (x :: l) (u.storeBytes c op rt) = (z, .ok ())) (hheld : z.held = false) :
    completes (.store (.a c) w) s fun t => u.aSeq z t c := by
  have hz : z.calm c := by
    have hcalm := State.commitStore_calm (k := u.ctx c .write false) (l := x :: l) (b := u.storeBytes c op rt)
      (State.accsOf_calm_of h.calm haccs)
    rw [hcommit] at hcalm
    exact hcalm
  rw [← State.storeBytes_length (u := u) (c := c) (rt := rt)] at haccs
  have hstore := (State.coreStore_translated haccs).trans hcommit
  rw [State.storeBytes_length] at hstore
  exact completes_aSeq (a := aStore) (t := tStoreB) h rfl rfl (aStore_commits hstore) hz hheld

theorem completes_aStore_faults {f : Exn} (h : s.aFetches c w (.store op rt r1 imm) u)
    (haccs : u.accsOf (u.ctx c .write false) (alignRule (eaI (u.g c r1) imm) (StOp.size op)) (eaI (u.g c r1) imm) (StOp.size op) =
      (v, .error f)) :
    completes (.store (.a c) w) s fun t => t = s.orWaits ((v.raise c f).stepDone c) := by
  rw [← State.storeBytes_length (u := u) (c := c) (rt := rt)] at haccs
  have hstore := State.coreStore_faults haccs
  rw [State.storeBytes_length] at hstore
  exact completes_raises (a := aStore) (t := tStoreB) h rfl rfl (aStore_faults hstore)

theorem State.sbPush_of_room {s : State} {c : Fin 32} (e : StoreEnt) (h : (s.acore.get c).sb.length < 48) :
    s.sbPush c e = { s with acore := vset s.acore c { s.acore.get c with sb := (s.acore.get c).sb ++ [e] } } := by
  rw [State.sbPush, if_pos (show (s.acore.get c).sb.length < sbMax from h)]
  rfl

end

/-- Settles O19: what the load finds, and what the accesses of the store are. -/
theorem loadsAndStoresOnACores : Obligations.LoadsAndStoresOnACores := by
  refine ⟨fun s u v c w ev op rd r1 imm h => ⟨fun b trains hload hheld => ?_, fun hload => ?_, fun f hload => ?_⟩,
    fun s u v c w op rt r1 imm h => ⟨fun x l haccs hdev hheld => ?_, fun x l v' haccs hdev hstores hheld => ?_, fun f haccs => ?_⟩,
    fun s c e hroom => State.sbPush_of_room e hroom⟩
  · have hcmd := completes_aLoad h hload hheld
    simp only [State.loaded, LdOp.float_iff, LdOp.value_eq] at hcmd
    exact hcmd
  · exact completes_stays (a := fun c => aLoad c w ev) (t := fun i k => tLoadB i k w ev) h rfl rfl (aLoad_waits hload)
  · exact completes_raises (a := fun c => aLoad c w ev) (t := fun i k => tLoadB i k w ev) h rfl rfl (aLoad_faults hload)
  · exact completes_aStore h haccs (State.commitStore_normal hdev) hheld
  · exact completes_aStore h haccs ((State.commitStore_device hdev).trans hstores) hheld
  · exact completes_aStore_faults h haccs

end Sys2Proof.Machine
end

section
/-! The long instructions (R63 to R70). -/
namespace Sys2Proof.Machine

/-! ## The lowest register of a mask (R68) -/

theorem lowestBit_some {v n k j : Nat} (h : lowestBit v n k = some j) :
    k ≤ j ∧ j < k + n ∧ v.testBit j = true ∧ ∀ i, k ≤ i → i < j → v.testBit i = false := by
  induction n generalizing k with
  | zero => cases h
  | succ n ih =>
    rw [lowestBit] at h
    split at h
    next hbit =>
      obtain rfl := Option.some.inj h
      exact ⟨Nat.le_refl _, by omega, hbit, fun i hk hj => absurd hj (by omega)⟩
    next hbit =>
      obtain ⟨hk, hj, hset, hlow⟩ := ih h
      refine ⟨by omega, by omega, hset, fun i hki hij => ?_⟩
      by_cases hi : i = k
      · rw [hi]
        exact Bool.of_not_eq_true hbit
      · exact hlow i (by omega) hij

theorem lowestBit_none {v n k : Nat} (h : lowestBit v n k = none) : ∀ i, k ≤ i → i < k + n → v.testBit i = false := by
  induction n generalizing k with
  | zero => exact fun i hk hi => absurd hi (by omega)
  | succ n ih =>
    rw [lowestBit] at h
    split at h
    next => cases h
    next hbit =>
      intro i hk hi
      by_cases he : i = k
      · rw [he]
        exact Bool.of_not_eq_true hbit
      · exact ih h i (by omega) (by omega)

theorem firstReg_val (m : Nat) : (firstReg m).val = (lowestBit m 32 0).getD 0 % 32 := rfl

/-- The register of the lowest bit of a mask that is not zero. -/
theorem firstReg_spec {m : Word} (hne : m ≠ 0) (hlt : m.toNat < 2 ^ 32) : m.getLsbD (firstReg m.toNat).val = true ∧
    ∀ q : Reg, q < firstReg m.toNat → m.getLsbD q.val = false := by
  simp only [Fin.lt_def, firstReg_val]
  cases hlow : lowestBit m.toNat 32 0 with
  | none =>
    refine absurd (BitVec.eq_of_toNat_eq (Nat.eq_of_testBit_eq fun i => ?_)) hne
    by_cases hi : i < 32
    · rw [lowestBit_none hlow i (Nat.zero_le i) (by omega)]
      simp
    · rw [Nat.testBit_lt_two_pow (Nat.lt_of_lt_of_le hlt (Nat.pow_le_pow_right (by decide) (by omega)))]
      simp
  | some j =>
    obtain ⟨-, hj, hset, hbelow⟩ := lowestBit_some hlow
    have hmod : j % 32 = j := Nat.mod_eq_of_lt (by omega)
    simp only [Option.getD_some, hmod]
    exact ⟨hset, fun q hq => hbelow q.val (Nat.zero_le _) hq⟩

/-- A mask without one of its registers. -/
theorem mask_sub {m : Word} {r : Reg} (h : m.getLsbD r.val = true) :
    word (m.toNat - 2 ^ r.val) = m &&& ~~~((1 : Word) <<< r.val) := by
  have hbit : ((1 : Word) <<< r.val) = BitVec.twoPow 64 r.val := rfl
  have hdis : (m &&& ~~~BitVec.twoPow 64 r.val) &&& BitVec.twoPow 64 r.val = 0#64 := by
    rw [BitVec.and_assoc, BitVec.and_comm (~~~_), BitVec.and_not_self]
    exact BitVec.and_zero
  have hor : (m &&& ~~~BitVec.twoPow 64 r.val) ||| BitVec.twoPow 64 r.val = m := by
    ext j hj
    simp only [BitVec.getElem_or, BitVec.getElem_and, BitVec.getElem_not, BitVec.getElem_twoPow]
    by_cases hjr : j = r.val
    · subst hjr
      simpa [BitVec.getLsbD_eq_getElem hj] using h
    · simp [hjr]
  have hadd := BitVec.add_eq_or_of_and_eq_zero _ _ hdis
  rw [hor] at hadd
  have hpow : (BitVec.twoPow 64 r.val).toNat = 2 ^ r.val := BitVec.toNat_twoPow_of_lt (by omega)
  rw [hbit]
  apply BitVec.eq_of_toNat_eq
  have hnat := congrArg BitVec.toNat hadd
  rw [BitVec.toNat_add_of_and_eq_zero hdis, hpow] at hnat
  rw [word, BitVec.toNat_ofNat, ← hnat, Nat.add_sub_cancel]
  exact Nat.mod_eq_of_lt (BitVec.isLt _)

/-! ## One unit -/

section
variable {s v : State} {c : Fin 32} {op : BlkOp} {rd r1 r2 : Reg}

theorem State.unitWrite_eq (va : Word) (b : List Byte) : s.unitWrite c va b =
    match s.coreStore (s.ctx c .write false) devRule va b with
    | (s, .error f) => (s, .error (some f))
    | (s, .ok ()) => (s, .ok ()) := rfl

theorem State.unitWrite_ok {va : Word} {b : List Byte} (h : s.unitWrite c va b = (v, .ok ())) :
    s.coreStore (s.ctx c .write false) devRule va b = (v, .ok ()) := by
  unfold State.unitWrite at h
  split at h
  next => cases h
  next heq =>
    obtain ⟨rfl, -⟩ := Prod.mk.inj h
    exact heq

theorem State.unitRead_calm {va : Word} {n : Nat} {r : Except (Option Exn) Nat} (hs : s.calm c) (h : s.unitRead c va n = (v, r)) :
    v.calm c := by
  unfold State.unitRead at h
  split at h
  all_goals
    next heq =>
      obtain ⟨rfl, -⟩ := Prod.mk.inj h
      exact State.coreLoad_calm_of hs heq

theorem State.unitWrite_calm {va : Word} {b : List Byte} {r : Except (Option Exn) Unit} (hs : s.calm c)
    (h : s.unitWrite c va b = (v, r)) : v.calm c := by
  have hstore := State.coreStore_calm (k := s.ctx c .write false) (rule := devRule) (va := va) (b := b) hs
  unfold State.unitWrite at h
  split at h
  all_goals
    next heq =>
      obtain ⟨rfl, -⟩ := Prod.mk.inj h
      rw [heq] at hstore
      exact hstore

theorem toBytes_one (n : Nat) : toBytes 1 n = [BitVec.ofNat 8 n] := rfl

end

/-- What one unit with work left does (R63, R66 to R68). -/
inductive BlkUnit (s : State) (c : Fin 32) (rd r1 r2 : Reg) : BlkOp → State → Prop
  | bcopy {s1 s2 : State} {x : Nat} (hread : s.unitRead c (s.g c r1) 1 = (s1, .ok x))
      (hwrite : s1.unitWrite c (s.g c rd) [BitVec.ofNat 8 x] = (s2, .ok ())) :
      BlkUnit s c rd r1 r2 .bcopy (((s2.setG c rd (s.g c rd + 1)).setG c r1 (s.g c r1 + 1)).setG c r2 (s.g c r2 - 1))
  | bfill {s2 : State} (hwrite : s.unitWrite c (s.g c rd) [(s.g c r1).setWidth 8] = (s2, .ok ())) :
      BlkUnit s c rd r1 r2 .bfill ((s2.setG c rd (s.g c rd + 1)).setG c r2 (s.g c r2 - 1))
  | crc {s1 : State} {x : Nat} {op : BlkOp} (hop : op = .bcrc ∨ op = .bcrcE) (hread : s.unitRead c (s.g c r1) 1 = (s1, .ok x)) :
      BlkUnit s c rd r1 r2 op
        (((s1.setG c rd ((crc32 (if op = .bcrc then polyC else polyE) ((s.g c rd).setWidth 32) [BitVec.ofNat 8 x]).setWidth 64)).setG c r1
          (s.g c r1 + 1)).setG c r2 (s.g c r2 - 1))
  | ldm {s1 : State} {x : Nat} (hread : s.unitRead c (s.g c r1) 8 = (s1, .ok x)) :
      BlkUnit s c rd r1 r2 .ldm (((s1.setG c (firstReg (s.g c r2).toNat) (word x)).setG c r1 (s.g c r1 + 8)).setG c r2
        (word ((s.g c r2).toNat - 2 ^ (firstReg (s.g c r2).toNat).val)))
  | stm {s2 : State}
      (hwrite : s.unitWrite c (s.g c r1) (toBytes 8 (s.g c (firstReg (s.g c r2).toNat)).toNat) = (s2, .ok ())) :
      BlkUnit s c rd r1 r2 .stm ((s2.setG c r1 (s.g c r1 + 8)).setG c r2
        (word ((s.g c r2).toNat - 2 ^ (firstReg (s.g c r2).toNat).val)))

section
variable {s v : State} {c : Fin 32} {op : BlkOp} {rd r1 r2 : Reg}

theorem State.unitA_ok (h : s.unitA c op rd r1 r2 = (v, .ok ())) : BlkUnit s c rd r1 r2 op v := by
  unfold State.unitA blkUnit at h
  dsimp only at h
  split at h
  case h_1 =>
    split at h
    next => cases h
    next hread =>
      split at h
      next => cases h
      next hwrite =>
        obtain ⟨rfl, -⟩ := Prod.mk.inj h
        exact .bcopy hread hwrite
  case h_2 =>
    split at h
    next => cases h
    next hwrite =>
      obtain ⟨rfl, -⟩ := Prod.mk.inj h
      rw [toBytes_one, BitVec.ofNat_toNat] at hwrite
      exact .bfill hwrite
  case h_3 =>
    split at h
    next => cases h
    next hread =>
      obtain ⟨rfl, -⟩ := Prod.mk.inj h
      exact .crc (.inl rfl) hread
  case h_4 =>
    split at h
    next => cases h
    next hread =>
      obtain ⟨rfl, -⟩ := Prod.mk.inj h
      exact .crc (.inr rfl) hread
  case h_5 =>
    split at h
    next => cases h
    next hread =>
      obtain ⟨rfl, -⟩ := Prod.mk.inj h
      exact .ldm hread
  case h_6 =>
    split at h
    next => cases h
    next hwrite =>
      obtain ⟨rfl, -⟩ := Prod.mk.inj h
      exact .stm hwrite

theorem BlkUnit.calm (hs : s.calm c) (h : BlkUnit s c rd r1 r2 op v) : v.calm c := by
  cases h with
  | bcopy hread hwrite =>
    exact State.setG_calm (State.setG_calm (State.setG_calm (State.unitWrite_calm (State.unitRead_calm hs hread) hwrite)))
  | bfill hwrite => exact State.setG_calm (State.setG_calm (State.unitWrite_calm hs hwrite))
  | crc hop hread => exact State.setG_calm (State.setG_calm (State.setG_calm (State.unitRead_calm hs hread)))
  | ldm hread => exact State.setG_calm (State.setG_calm (State.setG_calm (State.unitRead_calm hs hread)))
  | stm hwrite => exact State.setG_calm (State.setG_calm (State.unitWrite_calm hs hwrite))

/-- The mask of a legal LDM or STM names registers alone. -/
theorem blockIllegal_mask {g : Reg → Word} (hop : op = .ldm ∨ op = .stm) (h : blockIllegal g op rd r1 r2 = false) :
    (g r2).toNat < 2 ^ 32 := by
  have hdiv : (g r2).toNat / 2 ^ 32 = 0 := by
    obtain rfl | rfl := hop
    all_goals
      simp only [blockIllegal, Bool.or_eq_false_iff, decide_eq_false_iff_not, not_not] at h
      exact h.2
  omega

end

/-! ## The instruction on an A-core -/

section
variable {u v : State} {c : Fin 32} {w : IWord} {op : BlkOp} {rd r1 r2 : Reg}

/-- What an illegal, a misaligned and every other long instruction do (R64, R65, R68). -/
theorem aBlock_eq (n : Nat) : aBlock c w n (.block op rd r1 r2) u =
    if blockIllegal ((u.drainAll c).g c) op rd r1 r2 then (u.drainAll c, .exn (illegal w), [])
    else if (op = .ldm ∨ op = .stm) ∧ (u.drainAll c).g c r2 ≠ 0 ∧ ((u.drainAll c).g c r1).toNat % 8 ≠ 0 then
      (u.drainAll c, .exn { exn 7 0 0 ((u.drainAll c).g c r1) with wr := op == .stm }, [])
    else ((State.unitsA c op rd r1 r2 (max 1 n) (u.drainAll c)).1, (State.unitsA c op rd r1 r2 (max 1 n) (u.drainAll c)).2, []) := rfl

theorem State.unitsA_done {n : Nat} (h : u.g c r2 = 0) : State.unitsA c op rd r1 r2 n u = (u, .seq) := by
  cases n with
  | zero => rw [State.unitsA, if_pos h]
  | succ n => rw [State.unitsA, if_pos h]

theorem State.unitsA_faults {f : Exn} {n : Nat} (hne : u.g c r2 ≠ 0) (h : u.unitA c op rd r1 r2 = (v, .error (some f))) :
    State.unitsA c op rd r1 r2 (n + 1) u = (v, .exn f) := by
  rw [State.unitsA, if_neg hne, h]

theorem State.unitsA_waits {n : Nat} (hne : u.g c r2 ≠ 0) (h : u.unitA c op rd r1 r2 = (v, .error none)) :
    State.unitsA c op rd r1 r2 (n + 1) u = (v, .stay) := by
  rw [State.unitsA, if_neg hne, h]

theorem State.unitsA_one (hne : u.g c r2 ≠ 0) (h : u.unitA c op rd r1 r2 = (v, .ok ())) :
    State.unitsA c op rd r1 r2 1 u = (v.modA c fun a => { a with longOwed := false },
      if (v.modA c fun a => { a with longOwed := false }).g c r2 = 0 then .seq else .stay) := by
  rw [State.unitsA, if_neg hne, h]
  rfl

end

/-- The command of a long instruction. -/
def blkCmd (op : BlkOp) (c : CoreId) (w : IWord) (n : Nat) : Instr := match op with
  | .bcopy => .bcopy c w n | .bfill => .bfill c w n | .bcrc => .bcrc c w n
  | .bcrcE => .bcrcE c w n | .ldm => .ldm c w n | .stm => .stm c w n

theorem exec_blkCmd (op : BlkOp) (c : CoreId) (w : IWord) (n : Nat) (rd r1 r2 : Reg) (s : State) :
    exec (blkCmd op c w n) s =
      runInsn (Aelxel.block op rd r1 r2).row c w (fun c => aBlock c w n) (fun i k => tBlock i k w n) s := by
  cases op
  all_goals rfl

section
variable {s u v : State} {c : Fin 32} {w : IWord} {op : BlkOp} {rd r1 r2 : Reg} {n : Nat}

theorem completes_aBlock_illegal (h : s.aFetches c w (.block op rd r1 r2) u)
    (hbad : blockIllegal ((u.drainAll c).g c) op rd r1 r2 = true) :
    completes (blkCmd op (.a c) w n) s fun t => t = s.orWaits (((u.drainAll c).raise c (illegal w)).stepDone c) :=
  completes_raises h (exec_blkCmd op (.a c) w n rd r1 r2 s) rfl (by rw [aBlock_eq, if_pos hbad])

theorem completes_aBlock_misaligned (h : s.aFetches c w (.block op rd r1 r2) u)
    (hok : blockIllegal ((u.drainAll c).g c) op rd r1 r2 = false) (hop : op = .ldm ∨ op = .stm)
    (hmask : (u.drainAll c).g c r2 ≠ 0) (hbase : ((u.drainAll c).g c r1).toNat % 8 ≠ 0) :
    completes (blkCmd op (.a c) w n) s fun t => t = s.orWaits
      (((u.drainAll c).raise c { exn 7 0 0 ((u.drainAll c).g c r1) with wr := op == .stm }).stepDone c) :=
  completes_raises h (exec_blkCmd op (.a c) w n rd r1 r2 s) rfl
    (by rw [aBlock_eq, if_neg (by simp [hok]), if_pos ⟨hop, hmask, hbase⟩])

/-- The units of a long instruction that is neither illegal nor misaligned. -/
theorem aBlock_units (hok : blockIllegal ((u.drainAll c).g c) op rd r1 r2 = false)
    (halign : ¬ ((op = .ldm ∨ op = .stm) ∧ (u.drainAll c).g c r2 ≠ 0 ∧ ((u.drainAll c).g c r1).toNat % 8 ≠ 0)) {f : Flow}
    (h : State.unitsA c op rd r1 r2 (max 1 n) (u.drainAll c) = (v, f)) : aBlock c w n (.block op rd r1 r2) u = (v, f, []) := by
  rw [aBlock_eq, if_neg (by simp [hok]), if_neg halign, h]

theorem completes_aBlock_done (h : s.aFetches c w (.block op rd r1 r2) u)
    (hok : blockIllegal ((u.drainAll c).g c) op rd r1 r2 = false) (hzero : (u.drainAll c).g c r2 = 0)
    (hheld : (u.drainAll c).held = false) : completes (blkCmd op (.a c) w n) s fun t => u.aSeq (u.drainAll c) t c :=
  completes_aSeq h (exec_blkCmd op (.a c) w n rd r1 r2 s) rfl
    (aBlock_units hok (fun hbad => hbad.2.1 hzero) (State.unitsA_done hzero)) (State.drainAll_calm h.calm) hheld

/-- One unit of a long instruction with work left: it faults, it waits, or it is done and the rest is still to do. -/
theorem completes_aBlock_unit (h : s.aFetches c w (.block op rd r1 r2) u)
    (hok : blockIllegal ((u.drainAll c).g c) op rd r1 r2 = false)
    (hbase : op = .ldm ∨ op = .stm → ((u.drainAll c).g c r1).toNat % 8 = 0) (hne : (u.drainAll c).g c r2 ≠ 0) :
    (∀ f, (u.drainAll c).unitA c op rd r1 r2 = (v, .error (some f)) →
      completes (blkCmd op (.a c) w 1) s fun t => t = s.orWaits ((v.raise c f).stepDone c)) ∧
    ((u.drainAll c).unitA c op rd r1 r2 = (v, .error none) →
      completes (blkCmd op (.a c) w 1) s fun t => t = s.orWaits (v.haltTry c)) ∧
    ((u.drainAll c).unitA c op rd r1 r2 = (v, .ok ()) → v.held = false →
      let z := v.modA c fun a => { a with longOwed := false }
      completes (blkCmd op (.a c) w 1) s fun t => if z.g c r2 = 0 then u.aSeq z t c else t = s.orWaits (z.haltTry c)) := by
  have halign : ¬ ((op = .ldm ∨ op = .stm) ∧ (u.drainAll c).g c r2 ≠ 0 ∧ ((u.drainAll c).g c r1).toNat % 8 ≠ 0) :=
    fun ⟨hop, _, hbad⟩ => hbad (hbase hop)
  have hexec := exec_blkCmd op (.a c) w 1 rd r1 r2 s
  refine ⟨fun f hunit => ?_, fun hunit => ?_, fun hunit hheld => ?_⟩
  · exact completes_raises h hexec rfl (aBlock_units hok halign (State.unitsA_faults hne hunit))
  · exact completes_stays h hexec rfl (aBlock_units hok halign (State.unitsA_waits hne hunit))
  · intro z
    have hbody := aBlock_units (w := w) (n := 1) hok halign (State.unitsA_one hne hunit)
    by_cases hz : z.g c r2 = 0
    · simp only [if_pos hz]
      rw [if_pos hz] at hbody
      have hcalm := (State.unitA_ok hunit).calm (State.drainAll_calm h.calm)
      exact completes_aSeq h hexec rfl hbody (State.modA_calm hcalm fun _ ha => ha) hheld
    · simp only [if_neg hz]
      rw [if_neg hz] at hbody
      exact completes_stays h hexec rfl hbody

end

/-! ## The instruction on a T-core -/

section
variable {s u : State} {i k : Fin 4} {w : IWord} {op : BlkOp} {rd r1 r2 : Reg} {n : Nat}

theorem blkBase_eq (op : BlkOp) : blkBase op = if op = .ldm ∨ op = .stm then 2 else 3 := by
  cases op
  all_goals rfl

theorem blkRecs_eq (g : Reg → Word) (hop : op ≠ .stm) : blkRecs g op rd r1 r2 =
    (if op = .ldm then [r1, r2] else if op = .bfill then [rd, r2] else [rd, r1, r2]).flatMap fun r => toBytes 8 (g r).toNat := by
  cases op
  case stm => exact absurd rfl hop
  all_goals rfl

theorem State.unitsT_done (h : u.tg i k r2 = 0) : State.unitsT i k op rd r1 r2 n u = (u, .seq) := by
  cases n with
  | zero => rw [State.unitsT, if_pos h]
  | succ n => rw [State.unitsT, if_pos h]

theorem completes_tBlock_illegal (h : s.tFetches i k w (.block op rd r1 r2) u) (hbad : blockIllegal (u.tg i k) op rd r1 r2 = true) :
    completes (blkCmd op (.t i k) w n) s fun t => t = s.orWaits (((u.tWaited i k).tRaise i k (illegal w)).tStepDone i k) :=
  completes_tIllegal h (exec_blkCmd op (.t i k) w n rd r1 r2 s) rfl (if_pos hbad)

theorem tBlock_done (hok : blockIllegal (u.tg i k) op rd r1 r2 = false) (hop : op ≠ .stm) (hzero : u.tg i k r2 = 0) :
    tBlock i k w n (.block op rd r1 r2) u = (u, tSeq (blkBase op) (blkRecs (u.tg i k) op rd r1 r2)) := by
  have hstm : (op == .stm) = false := beq_eq_false_iff_ne.mpr hop
  rw [tBlock]
  simp only [hok, hzero, hop, hstm, State.unitsT_done hzero, ne_eq, not_true_eq_false, false_and, and_false, Bool.false_and,
    Bool.false_eq_true, if_false]
  rfl

theorem completes_tBlock_done (h : s.tFetches i k w (.block op rd r1 r2) u) (hok : blockIllegal (u.tg i k) op rd r1 r2 = false)
    (hop : op ≠ .stm) (hzero : u.tg i k r2 = 0) :
    completes (blkCmd op (.t i k) w n) s fun t => u.tSeqs t i k (if op = .ldm then 2 else 3)
      ((if op = .ldm then [r1, r2] else if op = .bfill then [rd, r2] else [rd, r1, r2]).flatMap fun r => toBytes 8 (u.tg i k r).toNat) := by
  have hcmd := completes_tSeqs h (exec_blkCmd op (.t i k) w n rd r1 r2 s) rfl (tBlock_done hok hop hzero) h.goes h.held
  rw [blkBase_eq, blkRecs_eq _ hop] at hcmd
  simpa only [hop, or_false] using hcmd

end

/-- The check value of CRC-32C (R67). -/
theorem crc32_check :
    crc32 polyC 0xFFFFFFFF#32 ([0x31, 0x32, 0x33, 0x34, 0x35, 0x36, 0x37, 0x38, 0x39] : List Byte) = ~~~0xE3069283#32 := by
  simp [crc32, crc32Byte, crcSteps, polyC]

/-- Settles O22: the four outcomes of a long instruction on an A-core, what one unit does, and the two outcomes on a T-core. -/
theorem longInstructions : Obligations.LongInstructions := by
  refine ⟨fun s u c w op rd r1 r2 h => ⟨fun hbad n => completes_aBlock_illegal h hbad,
      fun hok hzero hheld n => completes_aBlock_done h hok hzero hheld,
      fun hok hop hmask hbase n => completes_aBlock_misaligned h hok hop hmask hbase,
      fun hok hbase hne v => completes_aBlock_unit h hok hbase hne⟩,
    fun s v c op rd r1 r2 hok hne hunit => ?_,
    fun s u i k w op rd r1 r2 h => ⟨fun hbad n => completes_tBlock_illegal h hbad,
      fun hok hop hzero n => completes_tBlock_done h hok hop hzero⟩, crc32_check⟩
  cases State.unitA_ok hunit with
  | bcopy hread hwrite => exact ⟨_, _, _, hread, State.unitWrite_ok hwrite, rfl⟩
  | bfill hwrite => exact ⟨_, State.unitWrite_ok hwrite, rfl⟩
  | crc hop hread =>
    obtain rfl | rfl := hop
    · exact ⟨_, _, hread, rfl⟩
    · exact ⟨_, _, hread, rfl⟩
  | ldm hread =>
    obtain ⟨hset, hlow⟩ := firstReg_spec hne (blockIllegal_mask (.inl rfl) hok)
    refine ⟨_, _, _, hset, hlow, hread, ?_⟩
    rw [mask_sub hset]
  | stm hwrite =>
    obtain ⟨hset, hlow⟩ := firstReg_spec hne (blockIllegal_mask (.inr rfl) hok)
    refine ⟨_, _, hset, hlow, State.unitWrite_ok hwrite, ?_⟩
    rw [mask_sub hset]

end Sys2Proof.Machine
end

section
/-! BRK, ERET, GRET and GATE of an A-core (R83, R141, R144, R154). -/
namespace Sys2Proof.Machine

/-! ## Neither a return nor a gate asks for a debug halt -/

section
variable {s v : State} {me c : Fin 32}

theorem State.readNow_calm_of {k : XCtx} {va : Word} {n : Nat} {r : Except Exn (List Byte)} (hs : s.calm me)
    (h : s.readNow k va n = (v, r)) : v.calm me := by
  have hcalm := State.readNow_calm (k := k) (va := va) (n := n) hs
  rw [h] at hcalm
  exact hcalm

theorem State.argPage_calm {k : XCtx} {p n a : Nat} (h : s.calm me) : (s.argPage k p n a).1.calm me := by
  unfold State.argPage
  split
  · exact h
  · exact h

theorem State.argPages_calm {k : XCtx} {p n : Nat} {l : List Nat} (h : s.calm me) : (State.argPages k p n l s).1.calm me := by
  induction l generalizing s with
  | nil => exact h
  | cons a r ih =>
    have hpage := State.argPage_calm (k := k) (p := p) (n := n) (a := a) h
    rw [State.argPages]
    split
    next heq =>
      rw [heq] at hpage
      exact hpage
    next heq =>
      rw [heq] at hpage
      exact ih hpage

theorem State.argCheck_calm {code p n : Nat} (h : s.calm me) : (s.argCheck c code p n).1.calm me := by
  have hbad : ∀ {s : State} (k : XCtx), s.calm me → (s.argBad k p n).1.calm me := fun _ hs => State.argPages_calm hs
  unfold State.argCheck
  dsimp only
  split
  · split
    · exact hbad _ (hbad _ h)
    · exact hbad _ h
  · split
    · exact hbad _ h
    · exact h

theorem State.gateArgs_calm {n : Nat} {d : Gate} {l : List Nat} (h : s.calm me) : (State.gateArgs c n d l s).1.calm me := by
  induction l generalizing s with
  | nil => exact h
  | cons i r ih =>
    rw [State.gateArgs]
    dsimp only
    split
    · exact ih h
    · split
      · exact h
      · have hcheck := State.argCheck_calm (c := c) (code := bits d.amask (2 * i + 1) (2 * i))
          (p := (s.g c ⟨(10 + i) % 32, by omega⟩).toNat) (n := (s.g c ⟨(16 + i) % 32, by omega⟩).toNat) h
        split
        next heq =>
          rw [heq] at hcheck
          exact hcheck
        next heq =>
          rw [heq] at hcheck
          exact ih hcheck

theorem State.huskGateOk_calm {d : Gate} (h : s.calm me) : (s.huskGateOk c d).1.calm me := by
  have hx := State.translate_calm (k := ⟨c, some d.tring, some d.husk, .exec, false, false, true⟩) (va := d.entry) h
  unfold State.huskGateOk
  dsimp only
  split
  all_goals
    next heq =>
      rw [heq] at hx
      exact hx

theorem State.push_calm {k : XCtx} {sp : Word} {b : List Byte} (h : s.calm me) : (s.push k sp b).1.calm me := by
  unfold State.push
  split
  · exact h
  · exact State.coreStore_calm h

theorem State.push_calm_of {k : XCtx} {sp : Word} {b : List Byte} {r : Except Exn Unit} (hs : s.calm me) (h : s.push k sp b = (v, r)) :
    v.calm me := by
  have hcalm := State.push_calm (k := k) (sp := sp) (b := b) hs
  rw [h] at hcalm
  exact hcalm

theorem ACore.enterHusk_calm {a : ACore} {r : HuskRec} (h : a.calm) : (a.enterHusk r).calm := h

theorem State.huskResume_calm {n : Nat} {d : Gate} {sl : List Byte} (h : s.calm me) : (s.huskResume c n d sl).1.calm me := by
  unfold State.huskResume
  dsimp only
  refine State.clearSlot_calm (State.modA_calm h ?_)
  rintro a ⟨hhalt, hstep⟩
  exact ACore.enterHusk_calm ⟨hhalt, hstep⟩

theorem State.huskGate_calm {n : Nat} {d : Gate} (h : s.calm me) : (s.huskGate c n d).1.calm me := by
  have hok := State.huskGateOk_calm (c := c) (d := d) h
  unfold State.huskGate
  split
  next heq =>
    rw [heq] at hok
    exact hok
  next heq =>
    rw [heq] at hok
    dsimp only
    split
    · exact State.huskResume_calm (State.drainAll_calm hok)
    · split
      next hpush => exact State.push_calm_of (State.drainAll_calm hok) hpush
      next hpush => exact State.modA_calm (State.push_calm_of (State.drainAll_calm hok) hpush) fun _ ha => ha

theorem State.ringGate_calm {n : Nat} {d : Gate} (h : s.calm me) : (s.ringGate c n d).1.calm me := by
  unfold State.ringGate
  dsimp only
  split
  next hpush => exact State.push_calm_of h hpush
  next hpush => exact State.modA_calm (State.push_calm_of h hpush) fun _ ha => ha

theorem State.gate_calm {n : Nat} (h : s.calm me) : (s.gate c n).1.calm me := by
  unfold State.gate
  dsimp only
  split
  · exact h
  · split
    · exact h
    · split
      next hread => exact State.readNow_calm_of h hread
      next v b hread =>
        have hv := State.readNow_calm_of h hread
        have hargs := State.gateArgs_calm (c := c) (n := n) (d := gateOf b) (l := List.range (gateOf b).argc) hv
        repeat' split
        all_goals
          grind [State.huskGate_calm, State.ringGate_calm]

theorem State.gate_calm_of {n : Nat} {o : GateOut} (hs : s.calm me) (h : s.gate c n = (v, o)) : v.calm me := by
  have hcalm := State.gate_calm (c := c) (n := n) hs
  rw [h] at hcalm
  exact hcalm

end

/-! ## An instruction that commits where a long instruction owes a unit (R65) -/

section
variable {s u v : State} {c : Fin 32} {w : IWord} {i : Aelxel}

/-- A long instruction at the core's PC owes a unit. -/
def State.owing (s : State) (c : Fin 32) : State := s.modA c fun a => { a with longOwed := true }

theorem State.commit_calm {x : CountCtx} {evs : List Nat} (hv : v.calm c) : (v.commit c x evs).calm c := by
  obtain ⟨ht, -⟩ := State.countsOnly_commit v c x evs
  rw [vset_vmod] at ht
  rw [State.calm, ht]
  simp only [vset_get, vmod_get]
  exact hv

theorem State.finishA_eret {x : CountCtx} {pc : Word} {evs : List Nat} (hv : v.calm c) :
    v.finishA c x (.eret pc) evs = (v.finishA c x (.goto pc) evs).owing c := by
  have hcommit := State.commit_calm (x := x) (evs := evs) hv
  have hcalm : ∀ f : Flow, ((v.commit c x evs).modA c fun a => a.advance f).calm c := fun f =>
    State.modA_calm hcommit fun a ha => by
      unfold ACore.advance
      repeat' split
      all_goals exact ha
  have hgoto : v.finishA c x (.goto pc) evs = (v.commit c x evs).modA c fun a => a.advance (.goto pc) :=
    State.stepDone_eq (hcalm (.goto pc))
  have heret : v.finishA c x (.eret pc) evs = (v.commit c x evs).modA c fun a => a.advance (.eret pc) :=
    State.stepDone_eq (hcalm (.eret pc))
  rw [hgoto, heret, State.owing]
  simp [State.modA, vmod, ACore.advance]

theorem State.orWaits_owing {t : State} (ht : t.held = false) : s.orWaits (t.owing c) = (s.orWaits t).owing c := by
  simp [State.orWaits, State.owing, State.modA, ht]

/-- A command whose instruction commits and owes a unit to a long instruction where it goes on. -/
theorem completes_aOwes {cmd : Instr} {row : String} {a : Fin 32 → ABody} {t : Fin 4 → Fin 4 → TBody} {pc : Word}
    (h : s.aFetches c w i u) (hexec : exec cmd s = runInsn row (.a c) w a t s) (hrow : i.row = row)
    (hbody : a c i u = (v, .eret pc, [])) (hv : v.calm c) (hheld : v.held = false) :
    completes cmd s fun t => ∃ z, u.aCommits v z c pc none ∧ t = z.owing c ∧ z.held = s.held := by
  obtain ⟨hcommits, hkept⟩ :=
    State.aCommits_finishA (u := u) (x := u.countCtx c) (f := .goto pc) [] rfl rfl (Flow.goto_moves _ pc) hv
  have hnone := hkept.trans hheld
  refine completes_a h hexec hrow hbody ⟨_, State.aCommits_orWaits (s := s) hcommits hnone, ?_, ?_⟩
  · rw [State.finishA_eret hv, State.orWaits_owing hnone]
  · simp [State.orWaits, hnone]

/-- A command whose instruction calls level H by vector 4. -/
theorem completes_aCalls {cmd : Instr} {row : String} {a : Fin 32 → ABody} {t : Fin 4 → Fin 4 → TBody} {f : Exn}
    (h : s.aFetches c w i u) (hexec : exec cmd s = runInsn row (.a c) w a t s) (hrow : i.row = row)
    (hbody : a c i u = (v, .call f, [])) :
    completes cmd s fun t =>
      t = s.orWaits (((v.commit c (u.countCtx c) []).raiseAt c f ((v.acore.get c).pc + 4) false 0 false true).stepDone c) :=
  completes_a h hexec hrow hbody rfl

end

/-! ## ERET (R154) -/

section
variable {s u v : State} {c : Fin 32} {w : IWord} {b : List Byte}

/-- The stack pointers as ERET leaves them: the frame is popped, and the returned-to position's is restored. -/
def eretSps (e : ACore) (idx p : Fin 5) (sp old : Word) : Vector Word 5 :=
  if p = idx then vset e.sp idx old else vset (vset e.sp idx (sp + 32)) p old

theorem eretSps_spec (e : ACore) (idx p : Fin 5) (sp old : Word) :
    (eretSps e idx p sp old).get p = old ∧ (p ≠ idx → (eretSps e idx p sp old).get idx = sp + 32) ∧
      ∀ q, q ≠ p → q ≠ idx → (eretSps e idx p sp old).get q = e.sp.get q := by
  unfold eretSps
  split
  next he =>
    subst he
    exact ⟨vset_get _ _ _, fun hne => absurd rfl hne, fun q hq _ => vset_get_ne _ _ hq⟩
  next hne =>
    refine ⟨vset_get _ _ _, fun _ => ?_, fun q hq hqi => ?_⟩
    · rw [vset_get_ne _ _ (Ne.symm hne), vset_get]
    · rw [vset_get_ne _ _ hq, vset_get_ne _ _ hqi]

theorem State.eret_ok (hread : u.readNow (posCtx c (u.atH c) .read) ((u.acore.get c).sp.get ((u.acore.get c).spIdx u.hasH)) 32 = (v, .ok b))
    (halign : ofBytes (slice b 0 8) % 4 = 0) :
    u.eret c =
      (v.modA c fun e => { e with
        stat := eretStat (u.atH c) (u.acore.get c).stat (word (ofBytes (slice b 8 8))),
        sp := eretSps e ((u.acore.get c).spIdx u.hasH)
          (statSp v.hasH (eretStat (u.atH c) (u.acore.get c).stat (word (ofBytes (slice b 8 8)))))
          ((u.acore.get c).sp.get ((u.acore.get c).spIdx u.hasH)) (word (ofBytes (slice b 16 8))) },
        .ok (word (ofBytes (slice b 0 8)))) := by
  have hpc : ¬ (word (ofBytes (slice b 0 8))).toNat % 4 ≠ 0 := by
    rw [word, BitVec.toNat_ofNat]
    omega
  rw [State.eret]
  simp only [hread, if_neg hpc]
  rfl

theorem completes_aEret (h : s.aFetches c w .eret u) (hpos : u.atH c = true ∨ (u.acore.get c).ring = 0)
    (hread : u.readNow (posCtx c (u.atH c) .read) ((u.acore.get c).sp.get ((u.acore.get c).spIdx u.hasH)) 32 = (v, .ok b))
    (hheld : v.held = false) (halign : ofBytes (slice b 0 8) % 4 = 0) :
    let a := u.acore.get c
    let idx := a.spIdx u.hasH
    let st := eretStat (u.atH c) a.stat (word (ofBytes (slice b 8 8)))
    let p := statSp v.hasH st
    let old := word (ofBytes (slice b 16 8))
    completes (.eret c w) s fun t =>
      let e := v.acore.get c
      let b1 := t.acore.get c
      b1 = { e with
        stat := st, sp := b1.sp, pc := word (ofBytes (slice b 0 8)), delay := none, longOwed := true, evs := [], split := none,
        instret := if u.nonInvasive c then e.instret + 1 else e.instret, cycle := b1.cycle, pmevt := b1.pmevt, pmcnt := b1.pmcnt } ∧
      b1.sp.get p = old ∧ (p ≠ idx → b1.sp.get idx = a.sp.get idx + 32) ∧
      (∀ q, q ≠ p → q ≠ idx → b1.sp.get q = e.sp.get q) ∧
      t = { v with acore := vset v.acore c b1, fresh := t.fresh, irq := t.irq, held := s.held } := by
  intro a idx st p old
  have houter : ¬ u.outer c = true := fun ho => by
    obtain ⟨hlow, hring⟩ := (State.outer_eq u c).mp ho
    obtain hh | hr := hpos
    · simp [hlow] at hh
    · exact hring hr
  have hbody : aEret c w .eret u = (v.modA c fun e => { e with stat := st, sp := eretSps e idx p (a.sp.get idx) old },
      .eret (word (ofBytes (slice b 0 8))), []) := by
    simp only [aEret, if_neg houter, State.eret_ok hread halign]
    rfl
  have hcmd := completes_aOwes (cmd := .eret c w) (a := fun c => aEret c w) (t := fun _ _ => tLacks w) h rfl rfl hbody
    (State.modA_calm (State.readNow_calm_of h.calm hread) fun _ ha => ha) hheld
  refine hcmd.imp ?_
  rintro t ⟨z, ⟨hcore, -, hframe⟩, rfl, hz⟩
  rw [State.modA_get] at hcore
  obtain ⟨hp, hidx, hrest⟩ := eretSps_spec (v.acore.get c) idx p (a.sp.get idx) old
  have hsp : (z.acore.get c).sp = eretSps (v.acore.get c) idx p (a.sp.get idx) old := by rw [hcore]
  simp only [State.owing, State.modA_get, hsp]
  refine ⟨?_, hp, hidx, hrest, ?_⟩
  · rw [hcore]
  · rw [hframe, ← hz]
    simp [State.modA, vmod, hsp]

end

/-! ## GRET outside a husk (R144) -/

section
variable {s u v : State} {c : Fin 32} {w : IWord} {b : List Byte}

/-- GRET restores the position that the frame names, where it is an outer ring of the same world. -/
theorem State.gret_eq (hhusk : (u.acore.get c).inHusk = none)
    (hread : u.readNow (u.ctx c .read false) ((u.acore.get c).sp.get ((u.acore.get c).spIdx u.hasH)) 32 = (v, .ok b)) :
    let a := u.acore.get c
    let idx := a.spIdx u.hasH
    let pc := word (ofBytes (slice b 0 8))
    let st := word (ofBytes (slice b 8 8))
    u.gret c =
      if a.ring < st.toNat % 4 ∧ st.getLsbD 2 = false ∧ st.getLsbD 3 = a.stat.getLsbD 3 ∧ pc.toNat % 4 = 0 then
        (v.modA c fun e => { e with
          stat := (e.stat &&& ~~~0x403) ||| (st &&& 0x403),
          sp := vset (vset e.sp idx (a.sp.get idx + 32)) ⟨st.toNat % 4, by omega⟩ (word (ofBytes (slice b 16 8))) }, .ok pc)
      else (v, .error (exn 15 0x20 (ofBytes (slice b 24 2)) 0)) := by
  intro a idx pc st
  have hfin : fin 4 (st.toNat % 4) = ⟨st.toNat % 4, by omega⟩ := Fin.ext (Nat.mod_eq_of_lt (by omega))
  rw [← hfin]
  rw [State.gret]
  simp only [hhusk, hread]
  by_cases hfits : a.ring < st.toNat % 4 ∧ st.getLsbD 2 = false ∧ st.getLsbD 3 = a.stat.getLsbD 3 ∧ pc.toNat % 4 = 0
  · obtain ⟨hring, hlevel, hworld, halign⟩ := hfits
    refine Eq.trans (if_neg ?_) (if_pos ⟨hring, hlevel, hworld, halign⟩).symm
    rintro (hr | hl | hw | hp)
    · exact absurd hring (Nat.not_lt.mpr hr)
    · exact absurd (hl.symm.trans hlevel) (by decide)
    · exact hw hworld
    · exact hp halign
  · refine Eq.trans (if_pos ?_) (if_neg hfits).symm
    by_contra hno
    simp only [not_or, Nat.not_le, Bool.not_eq_true, ne_eq, not_not] at hno
    exact hfits hno

theorem completes_aGret (h : s.aFetches c w .gret u) (hlow : u.atH c = false) (hhusk : (u.acore.get c).inHusk = none)
    (hread : u.readNow (u.ctx c .read false) ((u.acore.get c).sp.get ((u.acore.get c).spIdx u.hasH)) 32 = (v, .ok b))
    (hheld : v.held = false) :
    let a := u.acore.get c
    let idx := a.spIdx u.hasH
    let pc := word (ofBytes (slice b 0 8))
    let st := word (ofBytes (slice b 8 8))
    if a.ring < st.toNat % 4 ∧ st.getLsbD 2 = false ∧ st.getLsbD 3 = a.stat.getLsbD 3 ∧ pc.toNat % 4 = 0 then
      completes (.gret (.a c) w) s fun t => u.aCommits
        (v.modA c fun e => { e with
          stat := (e.stat &&& ~~~0x403) ||| (st &&& 0x403),
          sp := vset (vset e.sp idx (a.sp.get idx + 32)) ⟨st.toNat % 4, by omega⟩ (word (ofBytes (slice b 16 8))) }) t c pc none
    else completes (.gret (.a c) w) s fun t => t = s.orWaits ((v.raise c (exn 15 0x20 (ofBytes (slice b 24 2)) 0)).stepDone c) := by
  intro a idx pc st
  have hnh : ¬ u.atH c = true := by simp [hlow]
  split
  next hfits =>
    have hgret := (State.gret_eq hhusk hread).trans (if_pos hfits)
    exact completes_commits (a := fun c => aGret c w) (t := fun _ _ => tLacks w) (f := .goto pc) (evs := []) h rfl rfl
      (by simp only [aGret, if_neg hnh, hgret]; rfl) rfl
      (Flow.goto_moves _ _) (State.modA_calm (State.readNow_calm_of h.calm hread) fun _ ha => ha) hheld
  next hbad =>
    have hgret := (State.gret_eq hhusk hread).trans (if_neg hbad)
    exact completes_raises (a := fun c => aGret c w) (t := fun _ _ => tLacks w) (evs := []) h rfl rfl
      (by simp only [aGret, if_neg hnh, hgret])

end

/-! ## GATE (R141) -/

section
variable {s u v : State} {c : Fin 32} {w : IWord} {n : BitVec 16}

theorem completes_aGate (h : s.aFetches c w (.gate n) u) (hlow : u.atH c = false) (v : State) :
    (∀ f, u.gate c n.toNat = (v, .fault f) → completes (.gate (.a c) w) s fun t => t = s.orWaits ((v.raise c f).stepDone c)) ∧
    (∀ pc, u.gate c n.toNat = (v, .go pc) → v.held = false → completes (.gate (.a c) w) s fun t => u.aCommits v t c pc none) ∧
    (∀ pc, u.gate c n.toNat = (v, .resume pc) → v.held = false → completes (.gate (.a c) w) s fun t =>
      ∃ z, u.aCommits v z c pc none ∧ t = z.modA c fun a => { a with longOwed := true }) ∧
    (∀ f, u.gate c n.toNat = (v, .hcall f) →
      completes (.gate (.a c) w) s fun t =>
        t = s.orWaits (((v.commit c (u.countCtx c) []).raiseAt c f ((v.acore.get c).pc + 4) false 0 false true).stepDone c)) := by
  have hnh : ¬ u.atH c = true := by simp [hlow]
  refine ⟨fun f hgate => ?_, fun pc hgate hheld => ?_, fun pc hgate hheld => ?_, fun f hgate => ?_⟩
  · exact completes_raises (a := fun c => aGate c w) (t := fun _ _ => tLacks w) (evs := []) h rfl rfl
      (by simp only [aGate, if_neg hnh, hgate])
  · exact completes_commits (a := fun c => aGate c w) (t := fun _ _ => tLacks w) (f := .goto pc) (evs := []) h rfl rfl
      (by simp only [aGate, if_neg hnh, hgate]) rfl (Flow.goto_moves _ _) (State.gate_calm_of h.calm hgate) hheld
  · refine (completes_aOwes (a := fun c => aGate c w) (t := fun _ _ => tLacks w) (pc := pc) h rfl rfl
      (by simp only [aGate, if_neg hnh, hgate]) (State.gate_calm_of h.calm hgate) hheld).imp ?_
    rintro t ⟨z, hz, ht, -⟩
    exact ⟨z, hz, ht⟩
  · exact completes_aCalls (a := fun c => aGate c w) (t := fun _ _ => tLacks w) h rfl rfl
      (by simp only [aGate, if_neg hnh, hgate])

end

/-- Settles O26: one lemma for each of the three returns and calls, and the positions where each is refused. -/
theorem returnsAndGatesOfACores : Obligations.ReturnsAndGatesOfACores := by
  refine ⟨fun s u c w code h => completes_raises (a := aBrk) (t := fun _ _ => tBrk) h rfl rfl rfl,
    fun s u c w h => ⟨fun hlow hring => ?_, fun hpos v b hread hheld halign => completes_aEret h hpos hread hheld halign⟩,
    fun s u c w h => ⟨fun hhigh => ?_, fun hlow hhusk v b hread hheld => completes_aGret h hlow hhusk hread hheld⟩,
    fun s u c w n h => ⟨fun hhigh => ?_, fun hlow v => completes_aGate h hlow v⟩⟩
  · exact completes_raises (a := fun c => aEret c w) (t := fun _ _ => tLacks w) h rfl rfl
      (if_pos ((State.outer_eq u c).mpr ⟨hlow, hring⟩))
  · exact completes_raises (a := fun c => aGret c w) (t := fun _ _ => tLacks w) h rfl rfl (if_pos hhigh)
  · exact completes_raises (a := fun c => aGate c w) (t := fun _ _ => tLacks w) h rfl rfl (if_pos hhigh)

end Sys2Proof.Machine
end

section
/-! LOAD, STORE, CLC and CSC of a T-core in its own memory, and the drain of its store buffer (R52, R54, R92, R267, R269, R276, R279,
R291, R302). -/
namespace Sys2Proof.Machine

/-! ## What a read of an island's memory leaves alone (R276) -/

section
variable (s : State)

theorem State.record_frame (b : Fin 49) (code unit unit2 addr info : Nat) :
    s.record b code unit unit2 addr info =
      { s with fb := (s.record b code unit unit2 addr info).fb, ent := (s.record b code unit unit2 addr info).ent,
               fresh := (s.record b code unit unit2 addr info).fresh, irq := (s.record b code unit unit2 addr info).irq } := by
  unfold State.record State.bankLine
  dsimp only
  rw [State.setLine_frame]
  split
  · split
    · rw [State.addE_frame, State.addE_frame]
    · rw [State.addE_frame]
  · split
    · rw [State.addE_frame]
    · rfl

/-- Two states with the same bytes, tags and islands, both waiting or neither. -/
def State.readsAs (s t : State) : Prop := t.mem = s.mem ∧ t.tags = s.tags ∧ t.island = s.island ∧ t.held = s.held

theorem State.record_readsAs (b : Fin 49) (code unit unit2 addr info : Nat) : s.readsAs (s.record b code unit unit2 addr info) := by
  rw [State.record_frame]
  exact ⟨rfl, rfl, rfl, rfl⟩

theorem State.record_ecc (b : Fin 49) (code unit unit2 addr info : Nat) : (s.record b code unit unit2 addr info).ecc = s.ecc := by
  rw [State.record_frame]

theorem State.eccWord_readsAs (i : Fin 4) (unit a arr w : Nat) : s.readsAs (State.eccWord i unit a arr s w) := by
  unfold State.eccWord
  split
  · exact State.record_readsAs { s with ecc := kvDel w s.ecc } _ _ _ _ _ _
  · exact ⟨rfl, rfl, rfl, rfl⟩

theorem State.readsAs.trans {s t u : State} (h : s.readsAs t) (h' : t.readsAs u) : s.readsAs u := by
  obtain ⟨hmem, htags, hisl, hheld⟩ := h
  obtain ⟨hmem', htags', hisl', hheld'⟩ := h'
  exact ⟨hmem'.trans hmem, htags'.trans htags, hisl'.trans hisl, hheld'.trans hheld⟩

theorem State.eccWords_readsAs (i : Fin 4) (unit a arr : Nat) (l : List Nat) : s.readsAs (l.foldl (State.eccWord i unit a arr) s) := by
  induction l generalizing s with
  | nil => exact ⟨rfl, rfl, rfl, rfl⟩
  | cons w r ih => exact (State.eccWord_readsAs s i unit a arr w).trans (ih _)

theorem State.eccEvent_frame (p : Nat) (ev : ArrayEvent) : s.eccEvent p ev = { s with ecc := (s.eccEvent p ev).ecc } := by
  unfold State.eccEvent
  cases ev
  case single =>
    dsimp only
    split
    · rfl
    · rfl
  all_goals rfl

theorem State.eccEvent_readsAs (p : Nat) (ev : ArrayEvent) : s.readsAs (s.eccEvent p ev) := by
  rw [State.eccEvent_frame]
  exact ⟨rfl, rfl, rfl, rfl⟩

theorem State.tEcc_readsAs (i k : Fin 4) (kind : TKind) (a n : Nat) (ev : ArrayEvent) : s.readsAs (s.tEcc i k kind a n ev) :=
  (s.eccEvent_readsAs _ ev).trans (State.eccWords_readsAs _ i k.val a _ _)

theorem State.mergeEcc_readsAs (i : Fin 4) (unit a p n arr : Nat) (ev : ArrayEvent) : s.readsAs (s.mergeEcc i unit a p n arr ev) :=
  (s.eccEvent_readsAs p ev).trans (State.eccWords_readsAs _ i unit a arr _)

end

/-! ## Loads from own memory -/

section
variable {s u v : State} {i k : Fin 4} {w : IWord} {a n cyc : Nat} {kind : TKind} {ev : ArrayEvent}

theorem State.tcmRead_eq (hkind : kind = .itcm ∨ kind = .dtcm) : u.tcmRead i k kind a n ev cyc =
    (u.tEcc i k kind a n ev,
      if (u.tEcc i k kind a n ev).eccBad (tcmPa i k a) n then .fault (exn 17 1 0 (word a))
      else .data (ofBytes (Memory.read u.mem (tcmPa i k a) n)) (kind == .dtcm && n == 16 && u.tags.contains (tcmPa i k a / 16 * 16))
        (cyc + crossCycle a n)) := by
  obtain ⟨hmem, htags, -⟩ := State.tEcc_readsAs u i k kind a n ev
  have hpa : localPa i k kind a = tcmPa i k a := by
    obtain rfl | rfl := hkind
    · rfl
    · rfl
  simp only [State.tcmRead, State.tLocal, State.tTag, hpa, hmem, htags]
  split
  · rfl
  · rfl

/-- No buffered store touches the bytes. -/
theorem State.dtcmLoad_none (h : ∀ e ∈ (u.tc i k).sb, e.meets a n = false) : u.dtcmLoad i k a n ev = u.tcmRead i k .dtcm a n ev 3 := by
  have hnone : (u.tc i k).sb.reverse.find? (·.meets a n) = none := by
    rw [List.find?_eq_none]
    intro e he
    simp [h e (List.mem_reverse.mp he)]
  rw [State.dtcmLoad, hnone]

theorem TStore.meets_of_covers {e : TStore} (hn : 0 < n) (h : e.covers a n = true) : e.meets a n = true := by
  simp only [TStore.covers, TStore.meets, decide_eq_true_eq] at *
  omega

/-- The youngest buffered store that touches the bytes covers them. -/
theorem State.dtcmLoad_covered {old young : List TStore} {e : TStore} (hn : 0 < n) (hsb : (u.tc i k).sb = old ++ e :: young)
    (hyoung : ∀ y ∈ young, y.meets a n = false) (he : e.covers a n = true) :
    u.dtcmLoad i k a n ev =
      (u, .data (e.data.toNat / 2 ^ (8 * (a - e.addr)) % 2 ^ (8 * n)) (e.tag && n == 16) (3 + crossCycle a n)) := by
  have hnone : young.reverse.find? (·.meets a n) = none := by
    rw [List.find?_eq_none]
    intro y hy
    simp [hyoung y (List.mem_reverse.mp hy)]
  have hfind : (u.tc i k).sb.reverse.find? (·.meets a n) = some e := by
    rw [hsb, List.reverse_append, List.reverse_cons, List.append_assoc, List.find?_append, hnone]
    simp [TStore.meets_of_covers hn he]
  rw [State.dtcmLoad, hfind]
  simp only [he, if_true]

variable {perm : Nat} {al : Bool} {fk : FarKind} {b : Word}

theorem State.tLoad_refused {f : Exn} (h : u.tCheck i k b n perm al = some f) :
    u.tLoad i k b n perm al fk ev w = (u, .fault f) := by
  rw [State.tLoad, h]

/-- A load from own memory that its checks let pass, with no buffered store on its bytes. -/
theorem State.tLoad_own (hcheck : u.tCheck i k b n perm al = none) (hkind : tKind b.toNat n = kind) (hown : kind = .itcm ∨ kind = .dtcm)
    (hfree : kind = .dtcm → ∀ e ∈ (u.tc i k).sb, e.meets b.toNat n = false) (hfk : fk.paired = false) :
    u.tLoad i k b n perm al fk ev w = u.tcmRead i k kind b.toNat n ev (if kind = .itcm then 4 else 3) := by
  rw [State.tLoad, hcheck]
  simp only [hkind]
  obtain rfl | rfl := hown
  · simp only [hfk, Bool.false_eq_true, if_false, if_true]
  · simp only [reduceCtorEq, if_false]
    exact State.dtcmLoad_none (hfree rfl)

theorem State.tLoad_covered {old young : List TStore} {e : TStore} (hn : 0 < n) (hcheck : u.tCheck i k b n perm al = none)
    (hkind : tKind b.toNat n = .dtcm) (hsb : (u.tc i k).sb = old ++ e :: young) (hyoung : ∀ y ∈ young, y.meets b.toNat n = false)
    (he : e.covers b.toNat n = true) :
    u.tLoad i k b n perm al fk ev w =
      (u, .data (e.data.toNat / 2 ^ (8 * (b.toNat - e.addr)) % 2 ^ (8 * n)) (e.tag && n == 16) (3 + crossCycle b.toNat n)) := by
  rw [State.tLoad, hcheck]
  simp only [hkind]
  exact State.dtcmLoad_covered hn hsb hyoung he

end

/-! ## LOAD -/

section
variable {s u v : State} {i k : Fin 4} {w : IWord} {ev : ArrayEvent} {op : LdOp} {rd r1 : Reg} {imm : BitVec 16}

theorem State.setTf_goes {r : Reg} {x : Word} (hv : v.tGoes i k) : (v.setTf i k r x).tGoes i k :=
  State.tGoes_modTc hv ⟨rfl, rfl, rfl, rfl⟩

/-- The register of a load has its value, and the load retires. -/
def State.tLoaded (z : State) (i k : Fin 4) (op : LdOp) (rd : Reg) (v cyc : Nat) (t : State) : Prop :=
  let x := LdOp.value op v
  if op = .flw ∨ op = .fld then (z.setTf i k rd x).tSeqs t i k cyc (toBytes 8 x.toNat)
  else (z.setTg i k rd x).tSeqs t i k cyc (if rd = 0 then [] else toBytes 8 x.toNat)

theorem completes_tLoads {n cyc : Nat} (h : s.tFetches i k w (.load op rd r1 imm) u) (hv : v.tGoes i k) (hheld : v.held = false)
    (hload : ∃ tag, u.tLoad i k (u.tg i k r1 + imm.signExtend 64) (LdOp.size op) permR false .load ev w = (v, .data n tag cyc)) :
    completes (.load (.t i k) w ev) s (v.tLoaded i k op rd n cyc) := by
  obtain ⟨tag, hload⟩ := hload
  have hbody : tLoadB i k w ev (.load op rd r1 imm) u = v.loadResult i k op rd n cyc := by
    rw [tLoadB]
    simp only [eaI, hload]
  unfold State.tLoaded
  by_cases hf : op = .flw ∨ op = .fld
  · simp only [if_pos hf]
    rw [State.loadResult, if_pos ((LdOp.float_iff op).mpr hf)] at hbody
    exact completes_tSeqs (a := fun c => aLoad c w ev) (t := fun i k => tLoadB i k w ev) h rfl rfl hbody (State.setTf_goes hv) hheld
  · simp only [if_neg hf]
    rw [State.loadResult, if_neg (fun hfl => hf ((LdOp.float_iff op).mp hfl)), recG_eq] at hbody
    exact completes_tSeqs (a := fun c => aLoad c w ev) (t := fun i k => tLoadB i k w ev) h rfl rfl hbody (State.tGoes_setTg hv)
      ((State.setTg_held _ _).trans hheld)

theorem completes_tLoad_faults {f : Exn} (h : s.tFetches i k w (.load op rd r1 imm) u) (hv : v.tGoes i k)
    (hload : u.tLoad i k (u.tg i k r1 + imm.signExtend 64) (LdOp.size op) permR false .load ev w = (v, .fault f)) :
    completes (.load (.t i k) w ev) s fun t => t = s.orWaits (((v.tWaited i k).tRaise i k f).tStepDone i k) := by
  refine completes_tRaises (a := fun c => aLoad c w ev) (t := fun i k => tLoadB i k w ev) h rfl rfl ?_ hv
  rw [tLoadB]
  simp only [eaI, hload]

theorem LdOp.size_spec (op : LdOp) : 0 < LdOp.size op ∧ LdOp.size op ≤ 8 := by
  cases op
  all_goals decide

theorem LdOp.crossCycle_eq (op : LdOp) (a : Nat) : crossCycle a (LdOp.size op) = if 8 < a % 8 + LdOp.size op then 1 else 0 := by
  have hsize := (LdOp.size_spec op).2
  have hne : LdOp.size op ≠ 16 := by omega
  rw [crossCycle]
  by_cases hc : 8 < a % 8 + LdOp.size op
  · rw [if_pos hc]
    simp [hne, hc, b2n]
  · rw [if_neg hc]
    simp [hc, b2n]

theorem word_toNat (a : Word) : word a.toNat = a := BitVec.ofNat_toNat 64 a |>.trans (BitVec.setWidth_eq a)

theorem State.tEcc_goes {kind : TKind} {a n : Nat} (hu : u.tGoes i k) : (u.tEcc i k kind a n ev).tGoes i k := by
  obtain ⟨-, -, hisl, -⟩ := State.tEcc_readsAs u i k kind a n ev
  exact State.tGoes_of_island hisl hu

theorem State.tEcc_held {kind : TKind} {a n : Nat} (hu : u.held = false) : (u.tEcc i k kind a n ev).held = false := by
  obtain ⟨-, -, -, hheld⟩ := State.tEcc_readsAs u i k kind a n ev
  exact hheld.trans hu

end

/-! ## Stores -/

section
variable {s u v : State} {i k : Fin 4} {w : IWord} {b : Word} {n perm : Nat} {al tag : Bool} {data : BitVec 128}

theorem State.modTc_eq_const (f : TCore → TCore) : u.modTc i k f = u.modTc i k fun _ => f (u.tc i k) := rfl

/-- A store enters a store buffer that has a free entry. -/
theorem State.tPush_of_room {a : Nat} (h : (u.tc i k).sb.length < 4) :
    u.tPush i k a n data tag =
      (u.modTc i k fun c => { c with
        sb := c.sb ++ [⟨a, n, data, isDtcm a && tag, if isDtcm a then 0 else c.qpos⟩],
        qpos := if isDtcm a then c.qpos else c.qpos + 1 }, true) := by
  rw [State.tPush]
  simp only [if_pos h, if_neg (Nat.not_le.mpr h)]
  cases hown : isDtcm a with
  | true => simp only [if_true, Bool.true_and]
  | false => simp only [Bool.false_eq_true, if_false, Bool.false_and]

theorem State.tStore_refused {f : Exn} (h : u.tCheck i k b n perm al = some f) :
    u.tStore i k b n perm al data tag = (u, .fault { f with wr := true }) := by
  rw [State.tStore, h]

theorem State.tStore_itcm (h : u.tCheck i k b n perm al = none) (hkind : tKind b.toNat n = .itcm) :
    u.tStore i k b n perm al data tag = (u, .fault { exn 14 3 0 b with wr := true }) := by
  rw [State.tStore, h]
  exact if_pos hkind

theorem State.tStore_of_room (h : u.tCheck i k b n perm al = none) (hkind : tKind b.toNat n ≠ .itcm) (hroom : (u.tc i k).sb.length < 4) :
    u.tStore i k b n perm al data tag =
      (u.modTc i k fun c => { c with
        sb := c.sb ++ [⟨b.toNat, n, data, isDtcm b.toNat && tag, if isDtcm b.toNat then 0 else c.qpos⟩],
        qpos := if isDtcm b.toNat then c.qpos else c.qpos + 1 }, .data 0 false 1) := by
  rw [State.tStore, h]
  simp only [if_neg hkind, State.tPush_of_room hroom]

/-- A capability access whose address is no multiple of 16 (Table 8.8). -/
theorem State.tCheck_misaligned (h : b.toNat % n ≠ 0) : u.tCheck i k b n perm true = some (exn 7 0 0 b) := by
  rw [State.tCheck]
  exact if_pos (by simp [h])

end

/-! ## STORE, CLC and CSC -/

section
variable {s u : State} {i k : Fin 4} {w : IWord} {r1 : Reg} {imm : BitVec 16}

/-- The state with one more entry in the store buffer of a core. -/
def State.tPushed (u : State) (i k : Fin 4) (a n : Nat) (data : BitVec 128) (tag : Bool) : State :=
  u.modTc i k fun c => { c with
    sb := c.sb ++ [⟨a, n, data, isDtcm a && tag, if isDtcm a then 0 else c.qpos⟩],
    qpos := if isDtcm a then c.qpos else c.qpos + 1 }

theorem State.tPushed_untagged (a n : Nat) (data : BitVec 128) : u.tPushed i k a n data false =
    u.modTc i k fun c => { c with
      sb := c.sb ++ [⟨a, n, data, false, if isDtcm a then 0 else (u.tc i k).qpos⟩],
      qpos := if isDtcm a then c.qpos else c.qpos + 1 } := by
  rw [State.tPushed, Bool.and_false]
  exact State.modTc_eq_const _

theorem completes_tStore {op : StOp} {rt : Reg} (h : s.tFetches i k w (.store op rt r1 imm) u) :
    let a := u.tg i k r1 + imm.signExtend 64
    let n := StOp.size op
    let v := (if op = .fsw ∨ op = .fsd then u.tf i k rt else u.tg i k rt).toNat % 2 ^ (8 * n)
    (∀ f, u.tCheck i k a n permW false = some f →
      completes (.store (.t i k) w) s fun t => t = s.orWaits (((u.tWaited i k).tRaise i k { f with wr := true }).tStepDone i k)) ∧
    (u.tCheck i k a n permW false = none → tKind a.toNat n = .itcm →
      completes (.store (.t i k) w) s fun t => t = s.orWaits (((u.tWaited i k).tRaise i k { exn 14 3 0 a with wr := true }).tStepDone i k)) ∧
    (u.tCheck i k a n permW false = none → tKind a.toNat n ≠ .itcm → (u.tc i k).sb.length < 4 →
      completes (.store (.t i k) w) s fun t =>
        State.tSeqs (u.modTc i k fun c => { c with
            sb := c.sb ++ [⟨a.toNat, n, BitVec.ofNat 128 v, false, if isDtcm a.toNat then 0 else (u.tc i k).qpos⟩],
            qpos := if isDtcm a.toNat then c.qpos else c.qpos + 1 }) t i k 1 (toBytes 8 a.toNat ++ toBytes 8 v)) := by
  intro a n v
  have hbody : tStoreB i k (.store op rt r1 imm) u = match u.tStore i k a n permW false (BitVec.ofNat 128 v) false with
      | (s, .fault f) => (s, tExn f)
      | (s, .wait) => (s, tStay)
      | (s, .data _ _ cyc) => (s, tSeq cyc (recS a v)) := by
    rw [tStoreB]
    simp only [StOp.float_iff]
    rfl
  refine ⟨fun f hcheck => ?_, fun hcheck hkind => ?_, fun hcheck hkind hroom => ?_⟩
  · rw [State.tStore_refused hcheck] at hbody
    exact completes_tRaises (a := aStore) (t := tStoreB) h rfl rfl hbody h.goes
  · rw [State.tStore_itcm hcheck hkind] at hbody
    exact completes_tRaises (a := aStore) (t := tStoreB) h rfl rfl hbody h.goes
  · rw [State.tStore_of_room hcheck hkind hroom] at hbody
    rw [← State.tPushed_untagged]
    exact completes_tSeqs (a := aStore) (t := tStoreB) h rfl rfl hbody (State.tGoes_modTc h.goes ⟨rfl, rfl, rfl, rfl⟩) h.held

theorem recC_eq_append (v : Cap) : recC v = toBytes 16 v.bits ++ [if v.tag then 1 else 0] := by
  rw [recC]
  cases v.tag
  all_goals rfl

theorem completes_tClc {cd : Fin 16} (h : s.tFetches i k w (.clc cd r1 imm) u) :
    let a := u.tg i k r1 + imm.signExtend 64
    let p := tcmPa i k a.toNat
    (a.toNat % 16 ≠ 0 → completes (.clc (.t i k) w) s fun t => t = s.orWaits (((u.tWaited i k).tRaise i k (exn 7 0 0 a)).tStepDone i k)) ∧
    (u.tCheck i k a 16 0x09 true = none → ∀ kind, tKind a.toNat 16 = kind → kind = .itcm ∨ kind = .dtcm →
      (kind = .dtcm → ∀ e ∈ (u.tc i k).sb, e.meets a.toNat 16 = false) →
      let z := u.tEcc i k kind a.toNat 16 .good
      z.eccBad p 16 = false → completes (.clc (.t i k) w) s fun t =>
        let v := Cap.ofBits (ofBytes (Memory.read u.mem p 16)) (kind == .dtcm && u.tags.contains (p / 16 * 16))
        (z.setTcap i k cd v).tSeqs t i k (if kind = .itcm then 4 else 3) (toBytes 16 v.bits ++ [if v.tag then 1 else 0])) := by
  intro a p
  have hbody : tClc i k w (.clc cd r1 imm) u = match u.tLoad i k a 16 0x09 true .clc .good w with
      | (s, .fault f) => (s, tExn f)
      | (s, .wait) => (s, tStay)
      | (s, .data v tag cyc) => (s.setTcap i k cd (Cap.ofBits v tag), tSeq cyc (recC (Cap.ofBits v tag))) := rfl
  refine ⟨fun halign => ?_, fun hcheck kind hkind hown hfree => ?_⟩
  · rw [State.tLoad_refused (State.tCheck_misaligned halign)] at hbody
    exact completes_tRaises (a := fun _ => aLacks w) (t := fun i k => tClc i k w) h rfl rfl hbody h.goes
  · intro z hecc
    rw [State.tLoad_own hcheck hkind hown hfree rfl, State.tcmRead_eq hown, hecc] at hbody
    have hcross : crossCycle a.toNat 16 = 0 := rfl
    have htag : ∀ x : Bool, (kind == TKind.dtcm && (16 == 16) && x) = (kind == TKind.dtcm && x) := fun x => by simp
    simp only [Bool.false_eq_true, if_false, hcross, htag, recC_eq_append] at hbody
    exact completes_tSeqs (a := fun _ => aLacks w) (t := fun i k => tClc i k w) h rfl rfl hbody
      (State.tGoes_modTc (State.tEcc_goes h.goes) ⟨rfl, rfl, rfl, rfl⟩) (State.tEcc_held h.held)

theorem completes_tCsc {cs : Fin 16} (h : s.tFetches i k w (.csc cs r1 imm) u) :
    let a := u.tg i k r1 + imm.signExtend 64
    let v := u.tcap i k cs
    (a.toNat % 16 ≠ 0 → completes (.csc (.t i k) w) s fun t => t = s.orWaits (((u.tWaited i k).tRaise i k { exn 7 0 0 a with wr := true }).tStepDone i k)) ∧
    (u.tCheck i k a 16 0x12 true = none → tKind a.toNat 16 ≠ .itcm → (u.tc i k).sb.length < 4 →
      completes (.csc (.t i k) w) s fun t =>
        State.tSeqs (u.tPushed i k a.toNat 16 (BitVec.ofNat 128 v.bits) v.tag) t i k 1 (toBytes 8 a.toNat ++ toBytes 16 v.bits)) := by
  intro a v
  have hbody : tCsc i k (.csc cs r1 imm) u = match u.tStore i k a 16 0x12 true (BitVec.ofNat 128 v.bits) v.tag with
      | (s, .fault f) => (s, tExn f)
      | (s, .wait) => (s, tStay)
      | (s, .data _ _ cyc) => (s, tSeq cyc (toBytes 8 a.toNat ++ toBytes 16 v.bits)) := rfl
  refine ⟨fun halign => ?_, fun hcheck hkind hroom => ?_⟩
  · rw [State.tStore_refused (State.tCheck_misaligned halign)] at hbody
    exact completes_tRaises (a := fun _ => aLacks w) (t := tCsc) h rfl rfl hbody h.goes
  · rw [State.tStore_of_room hcheck hkind hroom] at hbody
    exact completes_tSeqs (a := fun _ => aLacks w) (t := tCsc) h rfl rfl hbody (State.tGoes_modTc h.goes ⟨rfl, rfl, rfl, rfl⟩) h.held

end

end Sys2Proof.Machine
end

section
/-! The drain of a T-core's store buffer, and what a merge into a word with an error leaves of it (R276, R279, R302). -/
namespace Sys2Proof.Machine

/-! ## Words -/

theorem mem_wordsOf {a n w : Nat} : w ∈ wordsOf a n ↔ ∃ j, j < (a % 8 + n + 7) / 8 ∧ w = (a / 8 + j) * 8 := by
  simp only [wordsOf, List.mem_map, List.mem_range, eq_comm]

theorem wordsOf_whole {p n w : Nat} (hp : p % 8 = 0) (hn : n % 8 = 0) (h : w ∈ wordsOf p n) : p ≤ w ∧ w + 8 ≤ p + n := by
  obtain ⟨j, hj, rfl⟩ := mem_wordsOf.mp h
  omega

theorem wordsOf_single {p n : Nat} (hn : 0 < n) (h : p % 8 + n ≤ 8) : wordsOf p n = [p / 8 * 8] := by
  have hcount : (p % 8 + n + 7) / 8 = 1 := by omega
  rw [wordsOf, hcount]
  rfl

theorem first_mem_wordsOf {p n : Nat} (hn : 0 < n) : p / 8 * 8 ∈ wordsOf p n :=
  mem_wordsOf.mpr ⟨0, by omega, by omega⟩

/-- The first word of a store that does not cover it is not written whole. -/
theorem first_not_whole {p n : Nat} (h : ¬ (p % 8 = 0 ∧ 8 ≤ n)) : ¬ (p ≤ p / 8 * 8 ∧ p / 8 * 8 + 8 ≤ p + n) := by
  omega

/-! ## Words with an uncorrectable error -/

/-- A sorted table lists an uncorrectable error at a word. -/
def eccHolds (e : KV Bool) (w : Nat) : Prop := kvSorted e = true ∧ kvGet? e w = some true

section
variable {s : State} {e : KV Bool} {w : Nat}

theorem eccHolds.kvDel {x : Nat} (h : eccHolds e w) (hx : kvGet? e x = some false) : eccHolds (kvDel x e) w := by
  obtain ⟨hs, hw⟩ := h
  refine ⟨kvDel_sorted hs, ?_⟩
  have hne : w ≠ x := fun he => by
    rw [he, hx] at hw
    cases hw
  rw [kvGet?_kvDel hs, if_neg hne, hw]

theorem State.eccWord_ecc (i : Fin 4) (unit a arr x : Nat) :
    (State.eccWord i unit a arr s x).ecc = if kvGet? s.ecc x = some false then kvDel x s.ecc else s.ecc := by
  unfold State.eccWord
  split
  · rw [State.record_ecc]
  · rfl

theorem State.eccWords_holds {i : Fin 4} {unit a arr : Nat} {l : List Nat} (h : eccHolds s.ecc w) :
    eccHolds (l.foldl (State.eccWord i unit a arr) s).ecc w := by
  induction l generalizing s with
  | nil => exact h
  | cons x r ih =>
    refine ih ?_
    rw [State.eccWord_ecc]
    split
    next hx => exact h.kvDel hx
    next => exact h

theorem State.eccEvent_sorted {p : Nat} {ev : ArrayEvent} (h : kvSorted s.ecc = true) : kvSorted (s.eccEvent p ev).ecc = true := by
  unfold State.eccEvent
  cases ev
  case single =>
    dsimp only
    split
    · exact h
    · exact kvPut_sorted h
  case multi => exact kvPut_sorted h
  case upset => exact kvPut_sorted h
  all_goals exact h

/-- A word that holds an uncorrectable error, or meets one, holds it. -/
theorem State.eccEvent_holds {p : Nat} {ev : ArrayEvent} (hs : kvSorted s.ecc = true)
    (h : ev = .multi ∨ kvGet? s.ecc (p / 8 * 8) = some true) : eccHolds (s.eccEvent p ev).ecc (p / 8 * 8) := by
  refine ⟨State.eccEvent_sorted hs, ?_⟩
  by_cases hm : ev = .multi
  · subst hm
    rw [State.eccEvent]
    dsimp only
    rw [kvGet?_kvPut hs, if_pos rfl]
  · have hw : kvGet? s.ecc (p / 8 * 8) = some true := h.resolve_left hm
    unfold State.eccEvent
    cases ev
    case multi => exact absurd rfl hm
    case single =>
      dsimp only
      rw [if_pos (by rw [hw]; rfl)]
      exact hw
    case upset q =>
      dsimp only
      rw [kvGet?_kvPut hs]
      split
      next he => rw [← he, hw]; rfl
      next => exact hw
    all_goals exact hw

/-- What a write of n bytes leaves of the error of one word. -/
def eccPut (a n : Nat) (e : KV Bool) (w : Nat) : KV Bool :=
  if (a ≤ w ∧ w + 8 ≤ a + n) ∨ kvGet? e w = some false then kvDel w e else e

theorem State.eccWrite_ecc (a n : Nat) : (s.eccWrite a n).ecc = (wordsOf a n).foldl (eccPut a n) s.ecc := rfl

theorem eccPuts_holds {a n : Nat} {l : List Nat} (hw : ¬ (a ≤ w ∧ w + 8 ≤ a + n)) (h : eccHolds e w) :
    eccHolds (l.foldl (eccPut a n) e) w := by
  induction l generalizing e with
  | nil => exact h
  | cons x r ih =>
    refine ih ?_
    unfold eccPut
    split
    next hx =>
      by_cases hxw : x = w
      · subst hxw
        rcases hx with hx | hx
        · exact absurd hx hw
        · exact h.kvDel hx
      · exact ⟨kvDel_sorted h.1, by rw [kvGet?_kvDel h.1, if_neg (Ne.symm hxw), h.2]⟩
    next => exact h

/-- Words written whole hold no error any more. -/
theorem eccPuts_clear {a n : Nat} {l : List Nat} (hl : ∀ x ∈ l, a ≤ x ∧ x + 8 ≤ a + n) (hs : kvSorted e = true)
    (hw : w ∈ l ∨ kvGet? e w = none) : kvGet? (l.foldl (eccPut a n) e) w = none := by
  induction l generalizing e with
  | nil => exact hw.resolve_left (by simp)
  | cons x r ih =>
    have hx : eccPut a n e x = kvDel x e := if_pos (.inl (hl x List.mem_cons_self))
    rw [List.foldl_cons, hx]
    refine ih (fun y hy => hl y (List.mem_cons_of_mem _ hy)) (kvDel_sorted hs) ?_
    rw [kvGet?_kvDel hs]
    by_cases hwx : w = x
    · exact .inr (if_pos hwx)
    · rw [if_neg hwx]
      exact hw.imp_left fun hm => (List.mem_cons.mp hm).resolve_left hwx

theorem State.eccBad_of_holds {p n : Nat} (hw : w ∈ wordsOf p n) (h : eccHolds s.ecc w) : s.eccBad p n = true := by
  rw [State.eccBad, List.any_eq_true]
  exact ⟨w, hw, by rw [h.2]; rfl⟩

theorem State.eccBad_of_clear {p n : Nat} (h : ∀ w ∈ wordsOf p n, kvGet? s.ecc w = none) : s.eccBad p n = false := by
  rw [State.eccBad, List.any_eq_false]
  intro w hw
  rw [h w hw]
  decide

end

/-! ## Merges -/

section
variable {s : State} {i : Fin 4} {unit a p n arr : Nat} {ev : ArrayEvent}

/-- The words that a merge of n bytes reads. -/
def mergedWords (p n : Nat) : List Nat := (wordsOf p n).filter fun w => !decide (p ≤ w ∧ w + 8 ≤ p + n)

theorem State.mergeEcc_eq : s.mergeEcc i unit a p n arr ev = (mergedWords p n).foldl (State.eccWord i unit a arr) (s.eccEvent p ev) := rfl

theorem State.mergeEcc_whole (hp : p % 8 = 0) (hn : n % 8 = 0) : s.mergeEcc i unit a p n arr ev = s.eccEvent p ev := by
  have hnone : mergedWords p n = [] := by
    rw [mergedWords, List.filter_eq_nil_iff]
    intro w hw
    simp [wordsOf_whole hp hn hw]
  rw [State.mergeEcc_eq, hnone]
  rfl

/-- A single-bit error of the word that a store merges into is corrected and recorded. -/
theorem State.mergeEcc_single (hs : kvSorted s.ecc = true) (hpart : p % 8 + n ≤ 8) (hmerge : ¬ (p % 8 = 0 ∧ 8 ≤ n)) (hn : 0 < n)
    (hgood : kvGet? s.ecc (p / 8 * 8) ≠ some true) :
    s.mergeEcc i unit a p n arr .single =
      State.record { s with ecc := (s.mergeEcc i unit a p n arr .single).ecc } (bankIsland i) 0x02 unit 0 a arr := by
  have hone : mergedWords p n = [p / 8 * 8] := by
    rw [mergedWords, wordsOf_single hn hpart]
    exact List.filter_cons_of_pos (by rw [decide_eq_false (first_not_whole hmerge)]; rfl)
  have hbit : kvGet? (s.eccEvent p .single).ecc (p / 8 * 8) = some false := by
    rw [State.eccEvent]
    cases hw : kvGet? s.ecc (p / 8 * 8) with
    | none => rw [if_neg (by decide), kvGet?_kvPut hs, if_pos rfl]
    | some b =>
      cases b with
      | true => exact absurd hw hgood
      | false => exact hw
  have hrec : s.mergeEcc i unit a p n arr .single =
      State.record { s with ecc := kvDel (p / 8 * 8) (s.eccEvent p .single).ecc } (bankIsland i) 0x02 unit 0 a arr := by
    rw [State.mergeEcc_eq, hone, List.foldl_cons, List.foldl_nil, State.eccWord, if_pos hbit, State.eccEvent_frame]
  have hecc : (s.mergeEcc i unit a p n arr .single).ecc = kvDel (p / 8 * 8) (s.eccEvent p .single).ecc := by
    rw [hrec, State.record_ecc]
  rw [hecc]
  exact hrec

end

/-! ## The head entry leaves -/

section
variable {s u : State} {i k : Fin 4} {e : TStore} {r : List TStore}

theorem State.dtcmWrite_frame (e : TStore) :
    s.dtcmWrite i k e = { s with mem := Memory.write s.mem (tcmPa i k e.addr) (toBytes e.size e.data.toNat),
                                 tags := (s.dtcmWrite i k e).tags, ecc := (s.eccWrite (tcmPa i k e.addr) e.size).ecc } := rfl

/-- The source of a rejoin is known by the cores' roles. -/
theorem State.mirror_modTc {f : TCore → TCore} (hf : (f (u.tc i k)).role = (u.tc i k).role) :
    (u.modTc i k f).mirror i k = u.mirror i k := by
  have hst : ((u.modTc i k f).island.get i).st = (u.island.get i).st := by rw [State.modTc, State.modIsl_get]
  have hjoining : ((u.modTc i k f).island.get i).joining = (u.island.get i).joining := by rw [State.modTc, State.modIsl_get]
  have hsource : ((u.modTc i k f).island.get i).source = (u.island.get i).source := by
    rw [State.modTc, State.modIsl_get, Island.source, Island.active_slots hf, Island.source]
  simp only [State.mirror, hst, hsource, hjoining]

theorem State.tDrainOne_dtcm (hsb : (u.tc i k).sb = e :: r) (hown : isDtcm e.addr = true) (hmirror : u.mirror i k = none) :
    u.tDrainOne i k = (u.modTc i k fun c => { c with sb := r }).dtcmWrite i k e := by
  have hm : ((u.modTc i k fun c => { c with sb := r }).dtcmWrite i k e).mirror i k = none := (State.mirror_modTc rfl).trans hmirror
  rw [State.tDrainOne]
  simp only [hsb, hown, if_true, hm]

theorem State.tDrainOne_queue (hsb : (u.tc i k).sb = e :: r) (hown : isDtcm e.addr = false) (hroom : (u.tc i k).outq.length < 16) :
    ∃ n, u.tDrainOne i k = { u with island := (u.modTc i k fun c => { c with sb := r, outq := c.outq ++ [e] }).island, ent := n } := by
  rw [State.tDrainOne]
  simp only [hsb, hown, Bool.false_eq_true, if_false, if_pos (show (u.tc i k).outq.length < outMax from hroom)]
  exact ⟨_, rfl⟩

theorem State.tDrainOne_full (hsb : (u.tc i k).sb = e :: r) (hown : isDtcm e.addr = false) (hfull : 16 ≤ (u.tc i k).outq.length) :
    u.tDrainOne i k = u := by
  rw [State.tDrainOne]
  simp only [hsb, hown, Bool.false_eq_true, if_false, if_neg (show ¬ (u.tc i k).outq.length < outMax from Nat.not_lt.mpr hfull)]

/-- What the drain command does. -/
theorem exec_tStoreBufferDrain (ev : ArrayEvent) (hsb : (s.tc i k).sb = e :: r) (hrole : (s.tc i k).role = .active) :
    exec (.tStoreBufferDrain i k ev) s =
      .next ((if isDtcm e.addr then s.mergeEcc i k.val e.addr (tcmPa i k e.addr) e.size 2 ev else s).tDrainOne i k) := by
  change execTStoreBufferDrain i k ev s = _
  rw [execTStoreBufferDrain]
  simp only [hsb, hrole, ne_eq, not_true_eq_false, if_false]

theorem exec_tStoreBufferDrain_idle (ev : ArrayEvent) (h : (s.tc i k).sb = [] ∨ (s.tc i k).role ≠ .active) :
    exec (.tStoreBufferDrain i k ev) s = .next s := by
  change execTStoreBufferDrain i k ev s = _
  rw [execTStoreBufferDrain]
  cases hsb : (s.tc i k).sb with
  | nil => rfl
  | cons w r =>
    have hrole : (s.tc i k).role ≠ .active := h.resolve_left (by simp [hsb])
    simp only [if_pos hrole]

/-- The state after an entry for own DTCM has left. -/
theorem completes_drainDtcm (ev : ArrayEvent) (hsb : (s.tc i k).sb = e :: r) (hrole : (s.tc i k).role = .active)
    (hown : isDtcm e.addr = true) (hmirror : s.mirror i k = none) :
    let p := tcmPa i k e.addr
    let u := s.mergeEcc i k.val e.addr p e.size 2 ev
    completes (.tStoreBufferDrain i k ev) s fun t =>
      t = { u with island := (s.modTc i k fun c => { c with sb := r }).island, mem := t.mem, tags := t.tags, ecc := t.ecc } ∧
      t.mem = Memory.write s.mem p (toBytes e.size e.data.toNat) ∧ t.ecc = (wordsOf p e.size).foldl (eccPut p e.size) u.ecc := by
  intro p u
  obtain ⟨hmem, -, hisl, -⟩ := State.mergeEcc_readsAs s i k.val e.addr p e.size 2 ev
  have hut : u.tc i k = s.tc i k := by rw [State.tc, hisl]; rfl
  have hum : u.mirror i k = none := by
    rw [State.mirror, hisl]
    exact hmirror
  have hdrain := State.tDrainOne_dtcm (u := u) (hut ▸ hsb) hown hum
  have hexec := exec_tStoreBufferDrain ev hsb hrole
  rw [if_pos hown] at hexec
  refine ⟨_, hexec.trans (congrArg _ hdrain), ?_, ?_, ?_⟩
  · rw [State.dtcmWrite_frame]
    simp only [State.modTc, State.modIsl]
    rw [hisl]
  · rw [← hmem]
    rfl
  · rfl

end

/-! ## The two outcomes of the command -/

section
variable {s : State} {i k : Fin 4} {e : TStore} {r : List TStore}

theorem completes_drain_own (ev : ArrayEvent) (hsb : (s.tc i k).sb = e :: r) (hrole : (s.tc i k).role = .active)
    (hown : isDtcm e.addr = true) (hmirror : s.mirror i k = none) (hcanon : s.canon) :
    completes (.tStoreBufferDrain i k ev) s fun t =>
      let p := tcmPa i k e.addr
      let u := s.mergeEcc i k.val e.addr p e.size 2 ev
      t = { u with island := (s.modTc i k fun c => { c with sb := r }).island, mem := t.mem, tags := t.tags, ecc := t.ecc } ∧
      (p % 8 = 0 → e.size % 8 = 0 → u = { s with ecc := u.ecc }) ∧
      (p % 8 + e.size ≤ 8 → ¬ (p % 8 = 0 ∧ 8 ≤ e.size) → 0 < e.size → ev = .single → kvGet? s.ecc (p / 8 * 8) ≠ some true →
        u = { s with ecc := u.ecc }.record (bankIsland i) 0x02 k.val 0 e.addr 2) ∧
      (p % 8 = 0 → e.size % 8 = 0 → t.eccBad p e.size = false) ∧
      (¬ (p % 8 = 0 ∧ 8 ≤ e.size) → 0 < e.size → (ev = .multi ∨ kvGet? s.ecc (p / 8 * 8) = some true) → t.eccBad p e.size = true) ∧
      (∀ x, x < p ∨ p + e.size ≤ x → Memory.get t.mem x = Memory.get s.mem x) ∧
      (∀ j, j < e.size → Memory.get t.mem (p + j) = BitVec.ofNat 8 (e.data.toNat / 2 ^ (8 * j))) := by
  obtain ⟨hwf, -, -, -, -, hecc⟩ := hcanon
  refine (completes_drainDtcm ev hsb hrole hown hmirror).imp ?_
  rintro t ⟨hframe, hmem, herr⟩
  have hlen := toBytes_length e.size e.data.toNat
  refine ⟨hframe, fun hp hn => ?_, fun hpart hmerge hn hev hgood => ?_, fun hp hn => ?_, fun hmerge hn hbad => ?_, fun x hx => ?_,
    fun j hj => ?_⟩
  · rw [State.mergeEcc_whole hp hn]
    exact State.eccEvent_frame _ _ _
  · subst hev
    exact State.mergeEcc_single hecc hpart hmerge hn hgood
  · refine State.eccBad_of_clear fun w hw => ?_
    rw [herr, State.mergeEcc_whole hp hn]
    exact eccPuts_clear (fun x hx => wordsOf_whole hp hn hx) (State.eccEvent_sorted hecc) (.inl hw)
  · refine State.eccBad_of_holds (first_mem_wordsOf hn) ?_
    rw [herr]
    exact eccPuts_holds (first_not_whole hmerge) (State.eccWords_holds (State.eccEvent_holds hecc hbad))
  · rw [hmem]
    exact Memory.get_write_out hwf (by rw [hlen]; exact hx)
  · rw [hmem, ← toBytes_getD _ hj, List.getD_eq_getElem _ 0 (by rw [hlen]; exact hj)]
    exact Memory.get_write_in hwf (by rw [hlen]; exact hj)

theorem completes_drain_queue (ev : ArrayEvent) (hsb : (s.tc i k).sb = e :: r) (hrole : (s.tc i k).role = .active)
    (hown : isDtcm e.addr = false) (hroom : (s.tc i k).outq.length < 16) :
    completes (.tStoreBufferDrain i k ev) s fun t =>
      t = { s with island := (s.modTc i k fun c => { c with sb := r, outq := c.outq ++ [e] }).island, ent := t.ent } := by
  obtain ⟨n, hn⟩ := State.tDrainOne_queue hsb hown hroom
  have hexec := exec_tStoreBufferDrain ev hsb hrole
  rw [if_neg (by simp [hown]), hn] at hexec
  exact ⟨_, hexec, rfl⟩

theorem exec_drain_full (ev : ArrayEvent) (hsb : (s.tc i k).sb = e :: r) (hrole : (s.tc i k).role = .active)
    (hown : isDtcm e.addr = false) (hfull : 16 ≤ (s.tc i k).outq.length) : exec (.tStoreBufferDrain i k ev) s = .next s := by
  rw [exec_tStoreBufferDrain ev hsb hrole, if_neg (by simp [hown]), State.tDrainOne_full hsb hown hfull]

end

/-- Settles O33: what the load finds, whether the store buffer takes the store, and what the head entry meets as it leaves. -/
theorem memoryOfTCores : Obligations.MemoryOfTCores := by
  refine ⟨fun s u i k w op rd r1 imm h => ⟨fun f hcheck ev => ?_, fun hcheck ev kind hkind hown hfree => ⟨fun hecc => ?_, fun hecc => ?_⟩,
      fun old young e hcheck hkind hsb hyoung he ev => ?_⟩,
    fun s u i k w op rt r1 imm h => completes_tStore h, fun s u i k w cd r1 imm h => completes_tClc h,
    fun s u i k w cs r1 imm h => completes_tCsc h, fun s i k ev hidle => exec_tStoreBufferDrain_idle ev hidle,
    fun s i k ev e r hsb hrole => ⟨fun hown hmirror hcanon => completes_drain_own ev hsb hrole hown hmirror hcanon,
      fun hown hroom => completes_drain_queue ev hsb hrole hown hroom, fun hown hfull => exec_drain_full ev hsb hrole hown hfull⟩⟩
  · exact completes_tLoad_faults h h.goes (State.tLoad_refused hcheck)
  · rw [← LdOp.crossCycle_eq]
    refine completes_tLoads h (State.tEcc_goes h.goes) (State.tEcc_held h.held) ?_
    rw [State.tLoad_own hcheck hkind hown hfree rfl, State.tcmRead_eq hown, hecc]
    exact ⟨_, rfl⟩
  · refine completes_tLoad_faults h (State.tEcc_goes h.goes) ?_
    rw [State.tLoad_own hcheck hkind hown hfree rfl, State.tcmRead_eq hown, hecc, word_toNat]
    rfl
  · rw [← LdOp.crossCycle_eq]
    exact completes_tLoads h h.goes h.held ⟨_, State.tLoad_covered (LdOp.size_spec op).1 hcheck hkind hsb hyoung he⟩

end Sys2Proof.Machine
end

section
/-! Table walks, updates of A and D, and the taking of an interrupt on an A-core (R155 to R157, R177 to R182, R193). -/
namespace Sys2Proof.Machine

/-! ## What the three commands do, waiting apart -/

/-- What TABLE_WALK does. -/
def State.walkTable (c : Fin 32) (va : Word) (kind : Acc) (s : State) : State :=
  if !s.aRuns c || !(s.tlbHits (s.ctx c kind false) va).isEmpty then s else s.walkFor c (s.ctx c kind false) va

/-- What AD_UPDATE does. -/
def State.updateAd (c : Fin 32) (va : Word) (st2 : Bool) (ea : PA) (seen : Word) (write : Bool) (s : State) : State :=
  let k := s.ctx c (if write then .write else .read) false
  let e := seen.toNat
  if !s.aRuns c || !bit e 0 || adSet e write == e || ea.toNat % 8 != 0 then s
  else match s.leafPlace k st2 ea.toNat with
    | (s, .error f) => s.raise c f
    | (s, .ok (p, t)) =>
      if isDev t then s
      else match s.walkRead k p t with
        | (s, .error _) => s
        | (s, .ok _) => match s.casEntry c p e write with
          | (s, true) => s
          | (s, false) => s.walkFor c k va

/-- The entry of an interrupt that a core takes (R157). -/
def State.enterIrq (s : State) (c : Fin 32) (k : Nat) (w : Claimer) (h : Bool) : State :=
  (s.claim k w).raiseAt c { exn (s.src k).vec 0 (srcId k) 0 with toH := h } (s.acore.get c).pc false (s.src k).prio (w != .core c) true

/-- What INTERRUPT_TAKE does. -/
def State.takeIrq (c : Fin 32) (s : State) : State :=
  if (s.acore.get c).forced then s.forcedExit c
  else if !s.irqBoundary c then s
  else match s.takes c with
    | none => s
    | some (k, w, h) => s.enterIrq c k w h

theorem exec_tableWalk (s : State) (c : Fin 32) (va : Word) (kind : Acc) :
    exec (.tableWalk c va kind) s = .next (s.served (State.walkTable c va kind)) := rfl

theorem exec_adUpdate (s : State) (c : Fin 32) (va : Word) (st2 : Bool) (ea : PA) (seen : Word) (write : Bool) :
    exec (.adUpdate c va st2 ea seen write) s = .next (s.served (State.updateAd c va st2 ea seen write)) := rfl

theorem exec_interruptTake (s : State) (c : Fin 32) : exec (.interruptTake c) s = .next (s.served (State.takeIrq c)) := rfl

/-- What a command answers, from what its body does. -/
theorem completes_served {cmd : Instr} {s x : State} {f : State → State} (h : exec cmd s = .next (s.served f))
    (hf : f { s with held := false } = x) : completes cmd s fun t => t = s.orWaits x :=
  hf ▸ completes_of_served h

/-! ## TABLE_WALK -/

section
variable {u v : State} {c : Fin 32} {va : Word} {kind : Acc} {k : XCtx}

theorem State.walkTable_idle (h : u.aRuns c = false ∨ u.tlbHits (u.ctx c kind false) va ≠ []) : State.walkTable c va kind u = u := by
  refine if_pos ?_
  obtain h | h := h
  · simp [h]
  · simp [List.isEmpty_eq_false_iff.mpr h]

theorem State.walkTable_walks (hruns : u.aRuns c = true) (hmiss : u.tlbHits (u.ctx c kind false) va = []) :
    State.walkTable c va kind u = u.walkFor c (u.ctx c kind false) va :=
  if_neg (by simp [hruns, hmiss])

theorem State.walkFor_ok {x : Xlat} (h : u.translate k va = (v, .ok x)) :
    u.walkFor c k va = v.modA c fun a => { a with evs := (u.acore.get c).evs } := by
  rw [State.walkFor, h]

theorem State.walkFor_error {f : Exn} (h : u.translate k va = (v, .error f)) : u.walkFor c k va = v.raise c f := by
  rw [State.walkFor, h]

end

theorem completes_tableWalk (s : State) (c : Fin 32) (va : Word) (kind : Acc) :
    let u : State := { s with held := false }
    let k := u.ctx c kind false
    ((s.aRuns c = false ∨ u.tlbHits k va ≠ []) → exec (.tableWalk c va kind) s = .next s) ∧
    (s.aRuns c = true → u.tlbHits k va = [] → ∀ v,
      (∀ x, u.translate k va = (v, .ok x) →
        completes (.tableWalk c va kind) s fun t => t = s.orWaits (v.modA c fun a => { a with evs := (s.acore.get c).evs })) ∧
      ∀ f, u.translate k va = (v, .error f) → completes (.tableWalk c va kind) s fun t => t = s.orWaits (v.raise c f)) := by
  intro u k
  have hexec := exec_tableWalk s c va kind
  refine ⟨fun hidle => exec_of_served_idle hexec (State.walkTable_idle (u := u) hidle), fun hruns hmiss v => ⟨fun x hx => ?_, fun f hf => ?_⟩⟩
  · exact completes_served hexec ((State.walkTable_walks (u := u) hruns hmiss).trans (State.walkFor_ok hx))
  · exact completes_served hexec ((State.walkTable_walks (u := u) hruns hmiss).trans (State.walkFor_error hf))

/-! ## AD_UPDATE -/

/-- A bit that is set stays set. -/
theorem or_two_pow_eq_iff (e n : Nat) : e ||| 2 ^ n = e ↔ e.testBit n = true := by
  constructor
  · intro h
    rw [← h, Nat.testBit_or, Nat.testBit_two_pow_self, Bool.or_true]
  · intro h
    refine Nat.eq_of_testBit_eq fun i => ?_
    rw [Nat.testBit_or, Nat.testBit_two_pow]
    by_cases hi : n = i
    · rw [← hi, h]
      simp
    · simp [hi]

/-- An entry needs no update where it has A, and for a write D (R181). -/
theorem adSet_eq_iff (e : Nat) (write : Bool) : adSet e write = e ↔ e.testBit 6 = true ∧ (write = true → e.testBit 7 = true) := by
  have h6 : e ||| 0x40 = e ↔ e.testBit 6 = true := or_two_pow_eq_iff e 6
  cases write with
  | false => simp [adSet, h6]
  | true =>
    have h7 : e ||| 0x80 = e ↔ e.testBit 7 = true := or_two_pow_eq_iff e 7
    simp only [adSet, if_true, forall_const, ← h6, ← h7]
    constructor
    · intro h
      have hor : ∀ x y, e ||| x ||| y = e → e ||| x = e := fun x y hxy => calc
        e ||| x = e ||| x ||| y ||| x := by rw [hxy]
        _ = e ||| x ||| y := by rw [Nat.or_assoc (e ||| x), Nat.or_comm y x, ← Nat.or_assoc, Nat.or_assoc e x x, Nat.or_self]
        _ = e := hxy
      exact ⟨hor _ _ h, hor 0x80 0x40 (by rw [Nat.or_assoc, Nat.or_comm 0x80, ← Nat.or_assoc, h])⟩
    · rintro ⟨ha, hd⟩
      rw [ha, hd]

section
variable {u v z y : State} {c : Fin 32} {va : Word} {st2 write : Bool} {ea : PA} {seen : Word} {p : Nat} {ty : MemType}

/-- An entry that is not valid or needs no update. -/
def adDone (seen : Word) (write : Bool) : Prop :=
  seen.getLsbD 0 = false ∨ (seen.getLsbD 6 = true ∧ (write = true → seen.getLsbD 7 = true))

theorem adDone_iff : adDone seen write ↔ (!bit seen.toNat 0 || adSet seen.toNat write == seen.toNat) = true := by
  rw [Bool.or_eq_true, beq_iff_eq, adSet_eq_iff, Bool.not_eq_true']
  rfl

theorem State.updateAd_idle (h : u.aRuns c = false ∨ adDone seen write ∨ ea.toNat % 8 ≠ 0) :
    State.updateAd c va st2 ea seen write u = u := by
  refine if_pos ?_
  rw [adDone_iff] at h
  obtain h | h | h := h
  · simp [h]
  · simp only [Bool.or_assoc (!u.aRuns c), h, Bool.or_true, Bool.true_or]
  · simp [h]

variable (hruns : u.aRuns c = true) (hdue : ¬ adDone seen write) (halign : ea.toNat % 8 = 0)

include hruns hdue halign

theorem State.updateAd_due : State.updateAd c va st2 ea seen write u =
    match u.leafPlace (u.ctx c (if write then .write else .read) false) st2 ea.toNat with
    | (s, .error f) => s.raise c f
    | (s, .ok (p, t)) =>
      if isDev t then s
      else match s.walkRead (u.ctx c (if write then .write else .read) false) p t with
        | (s, .error _) => s
        | (s, .ok _) => match s.casEntry c p seen.toNat write with
          | (s, true) => s
          | (s, false) => s.walkFor c (u.ctx c (if write then .write else .read) false) va := by
  rw [adDone_iff, Bool.not_eq_true] at hdue
  refine if_neg ?_
  rw [Bool.or_assoc (!u.aRuns c), hruns, hdue, halign]
  decide

theorem State.updateAd_fault {f : Exn}
    (hplace : u.leafPlace (u.ctx c (if write then .write else .read) false) st2 ea.toNat = (v, .error f)) :
    State.updateAd c va st2 ea seen write u = v.raise c f := by
  rw [State.updateAd_due hruns hdue halign, hplace]

variable (hplace : u.leafPlace (u.ctx c (if write then .write else .read) false) st2 ea.toNat = (v, .ok (p, ty)))

include hplace

theorem State.updateAd_device (hdev : isDev ty = true) : State.updateAd c va st2 ea seen write u = v := by
  rw [State.updateAd_due hruns hdue halign, hplace]
  exact if_pos hdev

variable (hdev : isDev ty = false)

include hdev

theorem State.updateAd_refused {r : Resp}
    (hread : v.walkRead (u.ctx c (if write then .write else .read) false) p ty = (z, .error r)) :
    State.updateAd c va st2 ea seen write u = z := by
  rw [State.updateAd_due hruns hdue halign, hplace]
  simp only [hdev, hread, Bool.false_eq_true, if_false]

variable {x : Nat × Bool} (hread : v.walkRead (u.ctx c (if write then .write else .read) false) p ty = (z, .ok x))

include hread

theorem State.updateAd_swapped (hcas : z.casEntry c p seen.toNat write = (y, true)) :
    State.updateAd c va st2 ea seen write u = y := by
  rw [State.updateAd_due hruns hdue halign, hplace]
  simp only [hdev, hread, hcas, Bool.false_eq_true, if_false]

theorem State.updateAd_walks (hcas : z.casEntry c p seen.toNat write = (y, false)) :
    State.updateAd c va st2 ea seen write u = y.walkFor c (u.ctx c (if write then .write else .read) false) va := by
  rw [State.updateAd_due hruns hdue halign, hplace]
  simp only [hdev, hread, hcas, Bool.false_eq_true, if_false]

end

theorem completes_adUpdate (s : State) (c : Fin 32) (va : Word) (st2 : Bool) (ea : PA) (seen : Word) (write : Bool) :
    let cmd : Instr := .adUpdate c va st2 ea seen write
    let u : State := { s with held := false }
    let k := u.ctx c (if write then .write else .read) false
    ((s.aRuns c = false ∨ adDone seen write ∨ ea.toNat % 8 ≠ 0) → exec cmd s = .next s) ∧
    (s.aRuns c = true → ¬ adDone seen write → ea.toNat % 8 = 0 → ∀ v,
      (∀ f, u.leafPlace k st2 ea.toNat = (v, .error f) → completes cmd s fun t => t = s.orWaits (v.raise c f)) ∧
      ∀ p ty, u.leafPlace k st2 ea.toNat = (v, .ok (p, ty)) →
        (isDev ty = true → completes cmd s fun t => t = s.orWaits v) ∧
        (isDev ty = false → ∀ z,
          (∀ r, v.walkRead k p ty = (z, .error r) → completes cmd s fun t => t = s.orWaits z) ∧
          ∀ x, v.walkRead k p ty = (z, .ok x) → ∀ y,
            (z.casEntry c p seen.toNat write = (y, true) → completes cmd s fun t => t = s.orWaits y) ∧
            (z.casEntry c p seen.toNat write = (y, false) → ∀ d,
              (∀ o, y.translate k va = (d, .ok o) →
                completes cmd s fun t => t = s.orWaits (d.modA c fun a => { a with evs := (y.acore.get c).evs })) ∧
              ∀ f, y.translate k va = (d, .error f) → completes cmd s fun t => t = s.orWaits (d.raise c f)))) := by
  intro cmd u k
  have hexec := exec_adUpdate s c va st2 ea seen write
  refine ⟨fun hidle => exec_of_served_idle hexec (State.updateAd_idle (u := u) hidle), fun hruns hdue halign v => ⟨fun f hplace => ?_,
    fun p ty hplace => ⟨fun hdev => ?_, fun hdev z => ⟨fun r hread => ?_, fun x hread y => ⟨fun hcas => ?_, fun hcas d => ?_⟩⟩⟩⟩⟩
  · exact completes_served hexec (State.updateAd_fault (u := u) hruns hdue halign hplace)
  · exact completes_served hexec (State.updateAd_device (u := u) hruns hdue halign hplace hdev)
  · exact completes_served hexec (State.updateAd_refused (u := u) hruns hdue halign hplace hdev hread)
  · exact completes_served hexec (State.updateAd_swapped (u := u) hruns hdue halign hplace hdev hread hcas)
  · have hwalk := State.updateAd_walks (u := u) (va := va) hruns hdue halign hplace hdev hread hcas
    exact ⟨fun o hx => completes_served hexec (hwalk.trans (State.walkFor_ok hx)),
      fun f hf => completes_served hexec (hwalk.trans (State.walkFor_error hf))⟩

theorem State.leafPlace_direct {s : State} {st2 : Bool} (k : XCtx) (ea : Nat) (h : st2 = true ∨ s.hasH = false) :
    s.leafPlace k st2 ea = (s, .ok (ea, if inHbm ea then .wb else .devS)) := by
  refine if_neg ?_
  obtain h | h := h
  · simp [h]
  · simp [h]

/-! ## INTERRUPT_TAKE -/

section
variable {s : State} {c : Fin 32}

/-- The position of a core admits an interrupt of a priority: at level H, or else at ring 0 (R156). -/
def State.admitsIrq (s : State) (c : Fin 32) (h : Bool) (prio : Nat) : Prop :=
  if h then s.atH c = false ∨ ((s.acore.get c).ml < prio ∧ (s.acore.get c).xm = false)
  else s.atH c = false ∧ ((s.acore.get c).ml < prio ∧ (s.acore.get c).xm = false)

/-- A physical interrupt offered to a core that may take it. -/
def State.physIrq (s : State) (c : Fin 32) (k : Nat) : Prop :=
  s.coreOffer c = some k ∧ s.admitsIrq c s.hasH (s.src k).prio

/-- A virtual interrupt offered to a core that may take it. -/
def State.virtIrq (s : State) (c : Fin 32) (p k : Nat) : Prop :=
  s.corePart c = some p ∧ s.virtOffer (fin 63 p) = some k ∧ s.admitsIrq c false (s.src k).prio

theorem State.mayTake_iff (h : Bool) (prio : Nat) : s.mayTake c h prio = true ↔ s.admitsIrq c h prio := by
  cases h
  all_goals simp [State.mayTake, State.admitsIrq]

theorem State.takes_phys {k : Nat} (h : s.physIrq c k) : s.takes c = some (k, .core c, s.hasH) := by
  obtain ⟨hoffer, hmay⟩ := h
  simp only [State.takes, hoffer, if_pos ((State.mayTake_iff _ _).mpr hmay)]

/-- The virtual interrupt that a core may take. -/
def State.takesVirt (s : State) (c : Fin 32) : Option (Nat × Claimer × Bool) :=
  match s.corePart c with
  | none => none
  | some p => match s.virtOffer (fin 63 p) with
    | some k => if s.mayTake c false (s.src k).prio then some (k, Claimer.virt (fin 63 p), false) else none
    | none => none

/-- Where no physical interrupt is taken, a virtual one may be. -/
theorem State.takes_of_no_phys (h : ∀ k, ¬ s.physIrq c k) : s.takes c = s.takesVirt c := by
  unfold State.takes
  cases hoffer : s.coreOffer c with
  | none => rfl
  | some k =>
    have hno : ¬ s.mayTake c s.hasH (s.src k).prio = true := fun hmay => h k ⟨hoffer, State.mayTake_iff _ _ |>.mp hmay⟩
    simp only [if_neg hno]
    rfl

theorem State.takes_virt {p k : Nat} (hphys : ∀ k, ¬ s.physIrq c k) (h : s.virtIrq c p k) :
    s.takes c = some (k, .virt (fin 63 p), false) := by
  obtain ⟨hpart, hoffer, hmay⟩ := h
  rw [State.takes_of_no_phys hphys, State.takesVirt, hpart]
  simp only [hoffer]
  exact if_pos ((State.mayTake_iff _ _).mpr hmay)

theorem State.takes_none (hphys : ∀ k, ¬ s.physIrq c k) (hvirt : ∀ p k, ¬ s.virtIrq c p k) : s.takes c = none := by
  rw [State.takes_of_no_phys hphys, State.takesVirt]
  cases hpart : s.corePart c with
  | none => rfl
  | some p =>
    cases hoffer : s.virtOffer (fin 63 p) with
    | none => simp only [hoffer]
    | some k =>
      simp only [hoffer]
      exact if_neg fun hmay => hvirt p k ⟨hpart, hoffer, (State.mayTake_iff _ _).mp hmay⟩

theorem State.takeIrq_forced (h : (s.acore.get c).forced = true) : State.takeIrq c s = s.forcedExit c := if_pos h

theorem State.takeIrq_off (hforced : (s.acore.get c).forced = false) (h : s.irqBoundary c = false) : State.takeIrq c s = s := by
  rw [State.takeIrq, hforced, h]
  rfl

theorem State.takeIrq_none (hforced : (s.acore.get c).forced = false) (h : s.takes c = none) : State.takeIrq c s = s := by
  rw [State.takeIrq, hforced, h]
  simp only [Bool.false_eq_true, if_false, ite_self]

theorem State.takeIrq_some (hforced : (s.acore.get c).forced = false) (hat : s.irqBoundary c = true) {k : Nat} {w : Claimer} {h : Bool}
    (htakes : s.takes c = some (k, w, h)) : State.takeIrq c s = s.enterIrq c k w h := by
  rw [State.takeIrq, hforced, hat, htakes]
  rfl

end

theorem completes_interruptTake {s : State} (hcanon : s.canon) (c : Fin 32) :
    let u : State := { s with held := false }
    let a := s.acore.get c
    let cmd : Instr := .interruptTake c
    (a.forced = true → completes cmd s fun t => t = s.orWaits (u.forcedExit c)) ∧
    (a.forced = false → u.irqBoundary c = false → exec cmd s = .next s) ∧
    (a.forced = false → (∀ k, ¬ u.physIrq c k) → (∀ p k, ¬ u.virtIrq c p k) → exec cmd s = .next s) ∧
    (a.forced = false → u.irqBoundary c = true →
      (∀ k, u.physIrq c k → completes cmd s fun t => ∃ v : State,
        u.srcBecomes v k { s.src k with pend := false, setp := false, active := true, by_ := some (.core c) } ∧
        t = s.orWaits (v.raiseAt c { exn (s.src k).vec 0 (srcId k) 0 with toH := s.hasH } a.pc false (s.src k).prio false true)) ∧
      ∀ p k, (∀ j, ¬ u.physIrq c j) → u.virtIrq c p k → completes cmd s fun t => ∃ v : State,
        u.srcBecomes v k { s.src k with pend := false, setp := false, active := true, by_ := some (.virt (fin 63 p)) } ∧
        t = s.orWaits (v.raiseAt c (exn (s.src k).vec 0 (srcId k) 0) a.pc false (s.src k).prio true true)) := by
  intro u a cmd
  have hexec := exec_interruptTake s c
  have hu : u.canon := hcanon
  refine ⟨fun hforced => completes_served hexec (State.takeIrq_forced (s := u) hforced),
    fun hforced hoff => exec_of_served_idle hexec (State.takeIrq_off (s := u) hforced hoff),
    fun hforced hphys hvirt => exec_of_served_idle hexec (State.takeIrq_none (s := u) hforced (State.takes_none hphys hvirt)),
    fun hforced hat => ⟨fun k hphys => ?_, fun p k hphys hvirt => ?_⟩⟩
  · refine (completes_served hexec (State.takeIrq_some (s := u) hforced hat (State.takes_phys hphys))).imp fun t ht =>
      ⟨_, State.srcBecomes_claim hu k (.core c), ht.trans ?_⟩
    rw [State.enterIrq, bne_self_eq_false]
    rfl
  · refine (completes_served hexec (State.takeIrq_some (s := u) hforced hat (State.takes_virt hphys hvirt))).imp fun t ht =>
      ⟨_, State.srcBecomes_claim hu k (.virt (fin 63 p)), ht.trans ?_⟩
    have hvirtual : (Claimer.virt (fin 63 p) != Claimer.core c) = true := by simp
    rw [State.enterIrq, hvirtual]
    rfl

/-- Settles O38: one lemma for each of the three commands, by the outcomes of what its body does. -/
theorem walksAndInterrupts : Obligations.WalksAndInterrupts :=
  ⟨completes_tableWalk, completes_adUpdate, fun _ k _ ea h => State.leafPlace_direct k ea h, fun _ c hcanon => completes_interruptTake hcanon c⟩

end Sys2Proof.Machine
end

section
/-! CLC of a T-core in a state whose table of memory errors is not canonical (R276). -/
namespace Sys2Proof.Machine

/-- Island 0 is powered, and its slot 0 runs. -/
def slotRuns : State := (State.reset.modDom 40 fun x => { x with cur := .on }).modIsl 0 fun x =>
  { x with st := .triplex, slots := vmod x.slots 0 fun c => { c with run := .running } }

/-- Slot 0 with its general register 2 at own DTCM, whose first word is listed twice in the table of errors: with a single-bit error, and
behind it with an uncorrectable one. No step reaches such a table, but the statement admits it. -/
def eccTwice : State := { slotRuns.setTg 0 0 2 0x80000 with ecc := [(tcmPa 0 0 0x80000, false), (tcmPa 0 0 0x80000, true)] }

/-- The word of CLC c1, 0(g2). -/
def clcWord : IWord := encodeWord (.clc 1 2 0)

/-- What the fetch leaves. -/
def eccTwiceFetched : State := State.tFetchRead { eccTwice with held := false } 0 0

theorem eccTwice_fetches : eccTwice.tFetches 0 0 clcWord (.clc 1 2 0) eccTwiceFetched :=
  ⟨by unfold State.tReady; decide, by decide, rfl, by decide, by decide, by decide, by decide⟩

/-- The premises of the clause on CLC hold: as the table is read, no word of the granule has an uncorrectable error. -/
theorem eccTwice_premises :
    eccTwiceFetched.tg 0 0 2 + (0 : BitVec 16).signExtend 64 = 0x80000 ∧ eccTwiceFetched.tCheck 0 0 0x80000 16 0x09 true = none ∧
    tKind 0x80000 16 = .dtcm ∧ (eccTwiceFetched.tc 0 0).sb = [] ∧ eccTwiceFetched.eccBad (tcmPa 0 0 0x80000) 16 = false := by
  decide

/-- The correction of the single-bit error uncovers the other entry, and CLC raises an exception: it does not retire. -/
theorem eccTwice_clc_raises :
    (match exec (.clc (.t 0 0) clcWord) eccTwice with
      | .next t => (t.tc 0 0).instret == (eccTwiceFetched.tc 0 0).instret + 1
      | _ => true) = false := by
  decide +kernel

/-- Refutes O5: its clause on CLC has no premise that the table of errors is canonical. Where the table lists a word twice, the
correction that the read makes uncovers an uncorrectable error, and the instruction takes MCHECK instead of retiring. -/
theorem not_walksTransfersAndSlotsComplete : ¬ Obligations.WalksTransfersAndSlotsComplete := by
  rintro ⟨hclc, -⟩
  obtain ⟨haddr, hcheck, hkind, hsb, hecc⟩ := eccTwice_premises
  obtain ⟨t, hexec, hretired, -⟩ := hclc eccTwice eccTwiceFetched 0 0 clcWord 1 2 0 eccTwice_fetches
    (by rw [haddr]; exact hcheck) (by rw [haddr]; exact hkind) hsb (by rw [haddr]; exact hecc)
  have hraises := eccTwice_clc_raises
  rw [hexec] at hraises
  simp [hretired] at hraises

end Sys2Proof.Machine
end

section
/-! Every operation of the machine leaves the commands that wait as they are: one lemma for each operation, in the order of the
definitions, whatever the tables hold. -/
namespace Sys2Proof.Machine

/-- The commands that wait are q. -/
def State.queued (q : List Instr) (s : State) : Prop := s.pending = q

set_option Elab.async false

variable {q : List Instr}

/-! ## Changes of fields, folds and choices -/

/-- The predicate speaks of the queue alone. -/
theorem queued_mk {s : State} {time fresh held reply mem poison tags ecc ent entB acore tlbPend pod home pc hbm sent island safeN irq husk gw env
    mail dap seed hazel dm fb ledger trans retired gpio pcieOut} (h : State.queued q s) :
    State.queued q ⟨s.pending, time, fresh, held, reply, mem, poison, tags, ecc, ent, entB, acore, tlbPend, pod, home, pc, hbm, sent,
      island, safeN, irq, husk, gw, env, mail, dap, seed, hazel, dm, fb, ledger, trans, retired, gpio, pcieOut⟩ := h

theorem foldl_queued {α : Type} {f : State → α → State} {l : List α} {s : State}
    (hf : ∀ s x, State.queued q s → State.queued q (f s x)) (h : State.queued q s) : State.queued q (l.foldl f s) := by
  induction l generalizing s with
  | nil => exact h
  | cons a r ih => exact ih (hf _ _ h)

theorem foldl_queued_fst {α β : Type} {f : State × β → α → State × β} {l : List α} {p : State × β}
    (hf : ∀ s b x, State.queued q s → State.queued q (f (s, b) x).1) (h : State.queued q p.1) : State.queued q (l.foldl f p).1 := by
  induction l generalizing p with
  | nil => exact h
  | cons a r ih => exact ih (hf p.1 p.2 a h)

theorem getD_queued {o : Option State} {d : State} (ho : ∀ t, o = some t → State.queued q t) (h : State.queued q d) :
    State.queued q (o.getD d) := by
  cases o with
  | none => exact h
  | some t => exact ho t rfl

theorem ite_queued {c : Prop} [Decidable c] {a b : State} (ha : State.queued q a) (hb : State.queued q b) :
    State.queued q (if c then a else b) := by
  split
  · exact ha
  · exact hb

theorem ite_some_queued {β : Type} {c : Prop} [Decidable c] {o p : Option (State × β)}
    (ho : ∀ r, o = some r → State.queued q r.1) (hp : ∀ r, p = some r → State.queued q r.1) :
    ∀ r, (if c then o else p) = some r → State.queued q r.1 := by
  split
  · exact ho
  · exact hp

theorem some_queued {β : Type} {p : State × β} (h : State.queued q p.1) : ∀ r, some p = some r → State.queued q r.1 :=
  fun _ e => Option.some.inj e ▸ h

theorem pair_queued {β : Type} {p : State × β} {b : β} {s : State} (h : State.queued q p.1) (e : p = (s, b)) : State.queued q s := by
  subst e
  exact h

/-! ## Machine/Base.lean -/

theorem State.draw_queued {s} (h : State.queued q s) : State.queued q (State.draw s).1 := by
  grind (ematch := 20) [State.draw, queued_mk]

/-! ## Machine/Catalogue.lean -/

theorem State.setE_queued {s idx sub v} (h : State.queued q s) : State.queued q (State.setE s idx sub v) := queued_mk h

theorem State.addE_queued {s idx sub w k} (h : State.queued q s) : State.queued q (State.addE s idx sub w k) := by
  grind (ematch := 20) [State.addE, State.setE_queued, queued_mk]

theorem State.setB_queued {s idx sub v} (h : State.queued q s) : State.queued q (State.setB s idx sub v) := h

/-! ## Machine/Faults.lean -/

theorem State.putSrc_queued {s k x2} (h : State.queued q s) : State.queued q (State.putSrc s k x2) := h

theorem State.virtNotify_queued {s p} (h : State.queued q s) : State.queued q (State.virtNotify s p) := by
  grind (ematch := 20) [State.virtNotify, State.putSrc_queued, queued_mk]

theorem State.setSrc_queued {s k x2} (h : State.queued q s) : State.queued q (State.setSrc s k x2) := by
  grind (ematch := 20) [State.setSrc, State.putSrc_queued, State.virtNotify_queued]

theorem State.pulse_queued {s k} (h : State.queued q s) : State.queued q (State.pulse s k) := by
  grind (ematch := 20) [State.pulse, State.setSrc_queued]

theorem State.setLine_queued {s k lvl} (h : State.queued q s) : State.queued q (State.setLine s k lvl) := by
  grind (ematch := 20) [State.setLine, State.setSrc_queued]

theorem State.bankLine_queued {s b} (h : State.queued q s) : State.queued q (State.bankLine s b) := by
  grind (ematch := 20) [State.bankLine, State.setLine_queued]

theorem State.record_queued {s b code unit unit2 addr info} (h : State.queued q s) : State.queued q (State.record s b code unit unit2 addr info) := by
  grind (ematch := 20) [State.record, State.addE_queued, State.bankLine_queued, queued_mk]

theorem State.retireEntry_queued {s kind reason id} (h : State.queued q s) : State.queued q (State.retireEntry s kind reason id) := by
  grind (ematch := 20) [State.retireEntry, State.record_queued, queued_mk]

theorem State.transient_queued {s kind id} (h : State.queued q s) : State.queued q (State.transient s kind id).1 := by
  grind (ematch := 20) [State.transient, queued_mk]

theorem State.ledgerLine_queued {s} (h : State.queued q s) : State.queued q (State.ledgerLine s) := by
  grind (ematch := 20) [State.ledgerLine, State.setLine_queued]

theorem State.ledgerRecord_queued {s b} (h : State.queued q s) : State.queued q (State.ledgerRecord s b) := by
  unfold State.ledgerRecord; split
  · exact State.addE_queued h
  · exact h

theorem State.ledgerEvent_queued {s bank addr tag ops} (h : State.queued q s) : State.queued q (State.ledgerEvent s bank addr tag ops) := by
  grind (ematch := 20) [State.ledgerEvent, State.ledgerLine_queued, State.ledgerRecord_queued, queued_mk, foldl_queued]

/-! ## Machine/Hbm.lean -/

theorem State.modPc_queued {s p f} (h : State.queued q s) : State.queued q (State.modPc s p f) := by
  grind (ematch := 20) [State.modPc, queued_mk]

theorem State.storeLine_queued {s line d poison} (h : State.queued q s) : State.queued q (State.storeLine s line d poison) := h

theorem State.hardError_queued {s a} (h : State.queued q s) : State.queued q (State.hardError s a) := by
  grind (ematch := 20) [State.hardError, queued_mk]

theorem State.hbmRead_queued {s line errs sev scrub wrong} (h : State.queued q s) : State.queued q (State.hbmRead s line errs sev scrub wrong).1 := by
  grind (ematch := 20) [State.hbmRead, State.addE_queued, State.hardError_queued, State.record_queued, State.storeLine_queued, queued_mk]

theorem State.enqueue_queued {s c} (h : State.queued q s) : State.queued q (State.enqueue s c) := by
  grind (ematch := 20) [State.enqueue, State.addE_queued, queued_mk]

theorem State.hbmWrite_queued {s line d poison tc} (h : State.queued q s) : State.queued q (State.hbmWrite s line d poison tc) := by
  grind (ematch := 20) [State.hbmWrite, State.enqueue_queued]

theorem State.nextCmd_queued {s p r0} (h : State.queued q s) (e : State.nextCmd s p = some r0) : State.queued q r0.2 := by
  grind (ematch := 20) [State.nextCmd, queued_mk]

theorem State.ownSlot_queued {s p t} (h : State.queued q s) (e : State.ownSlot s p = some t) : State.queued q t := by
  grind (ematch := 20) [State.ownSlot, queued_mk]

theorem State.pcFail_queued {s p reason ops} (h : State.queued q s) : State.queued q (State.pcFail s p reason ops) := by
  grind (ematch := 20) [State.pcFail, State.ledgerEvent_queued, State.retireEntry_queued, State.record_queued, queued_mk]

/-! ## Machine/Lines.lean -/

theorem State.send_queued {s stop tc n} (h : State.queued q s) : State.queued q (State.send s stop tc n) := by
  grind (ematch := 20) [State.send, queued_mk]

theorem State.modPod_queued {s p f} (h : State.queued q s) : State.queued q (State.modPod s p f) := by
  grind (ematch := 20) [State.modPod, queued_mk]

theorem State.modHome_queued {s h1 f} (h : State.queued q s) : State.queued q (State.modHome s h1 f) := by
  grind (ematch := 20) [State.modHome, queued_mk]

theorem State.putL2_queued {s p line x3} (h : State.queued q s) : State.queued q (State.putL2 s p line x3) := by
  grind (ematch := 20) [State.putL2, State.modPod_queued]

theorem State.setFilt_queued {s line p st} (h : State.queued q s) : State.queued q (State.setFilt s line p st) := by
  grind (ematch := 20) [State.setFilt, State.modHome_queued]

theorem State.dropL1_queued {s p line} (h : State.queued q s) : State.queued q (State.dropL1 s p line) := by
  grind (ematch := 20) [State.dropL1, queued_mk]

theorem State.dropL2_queued {s p line} (h : State.queued q s) : State.queued q (State.dropL2 s p line) := by
  grind (ematch := 20) [State.dropL2, State.modPod_queued, State.dropL1_queued]

theorem State.served_queued {s f} (h : State.queued q s) (hf : ∀ y0, State.queued q y0 → State.queued q (f y0)) : State.queued q (State.served s f) := by
  grind (ematch := 20) [State.served, queued_mk]

/-! ## Machine/Ledger.lean -/

theorem State.putVi_queued {s v x2} (h : State.queued q s) : State.queued q (State.putVi s v x2) := by
  grind (ematch := 20) [State.putVi, queued_mk]

theorem State.modQp_queued {s v q2 f} (h : State.queued q s) : State.queued q (State.modQp s v q2 f) := by
  grind (ematch := 20) [State.modQp, State.putVi_queued]

theorem State.startGrace_queued {s cause} (h : State.queued q s) : State.queued q (State.startGrace s cause) := by
  grind (ematch := 20) [State.startGrace, queued_mk]

theorem State.fatalEvent_queued {s b unit way setNo arr} (h : State.queued q s) : State.queued q (State.fatalEvent s b unit way setNo arr) := by
  grind (ematch := 20) [State.fatalEvent, State.record_queued, State.startGrace_queued, State.ledgerEvent_queued, queued_mk]

/-! ## Machine/Coherence.lean -/

theorem State.pick_queued {x0 s l} (h : State.queued q s) : State.queued q (@State.pick x0 s l).2 := by
  grind (ematch := 20) [State.pick, queued_mk]

theorem State.slcEvict_queued {s h1 line} (h : State.queued q s) : State.queued q (State.slcEvict s h1 line) := by
  grind (ematch := 20) [State.slcEvict, State.modHome_queued, State.hbmWrite_queued]

theorem State.slcPut_queued {s line cls dirty d poison} (h : State.queued q s) : State.queued q (State.slcPut s line cls dirty d poison) := by
  grind (ematch := 20) [State.slcPut, State.modHome_queued, State.pick_queued, State.slcEvict_queued, State.hbmWrite_queued]

theorem State.writeHome_queued {s line cls tc d poison} (h : State.queued q s) : State.queued q (State.writeHome s line cls tc d poison) := by
  grind (ematch := 20) [State.writeHome, State.slcPut_queued, State.hbmWrite_queued]

theorem State.absorb_queued {s p line d poison type} (h : State.queued q s) : State.queued q (State.absorb s p line d poison type) := by
  grind (ematch := 20) [State.absorb, State.writeHome_queued, State.slcPut_queued, State.hbmWrite_queued]

theorem State.evictNow_queued {s p line} (h : State.queued q s) : State.queued q (State.evictNow s p line) := by
  grind (ematch := 20) [State.evictNow, State.setFilt_queued, State.dropL2_queued, State.absorb_queued]

theorem State.l2Install_queued {s p line st d poison type} (h : State.queued q s) : State.queued q (State.l2Install s p line st d poison type) := by
  unfold State.l2Install
  grind (ematch := 20) [State.setFilt_queued, State.putL2_queued, State.pick_queued, State.evictNow_queued, State.absorb_queued]

theorem State.coreFail_queued {s c} (h : State.queued q s) : State.queued q (State.coreFail s c) := by
  grind (ematch := 20) [State.coreFail, queued_mk]

theorem State.retireNow_queued {s kind id reason} (h : State.queued q s) : State.queued q (State.retireNow s kind id reason) := by
  grind (ematch := 20) [State.retireNow, State.retireEntry_queued, State.evictNow_queued, State.slcEvict_queued, State.coreFail_queued, foldl_queued]

theorem State.transientAt_queued {s kind id reason} (h : State.queued q s) : State.queued q (State.transientAt s kind id reason) := by
  grind (ematch := 20) [State.transientAt, State.transient_queued, State.retireNow_queued]

theorem State.strike_queued {s ev} (h : State.queued q s) : State.queued q (State.strike s ev) := by
  unfold State.strike
  split <;> grind (ematch := 20) [queued_mk, foldl_queued, foldl_queued_fst]

theorem State.arrayRead_queued {s ev b unit way line setNo arr kind dirty} (h : State.queued q s) : State.queued q (State.arrayRead s ev b unit way line setNo arr kind dirty).1 := by
  unfold State.arrayRead
  grind (ematch := 20) [State.transientAt_queued, State.record_queued, State.fatalEvent_queued]

theorem State.slcRead_queued {s line x2 ev} (h : State.queued q s) : State.queued q (State.slcRead s line x2 ev).1 := by
  grind (ematch := 20) [State.slcRead, State.arrayRead_queued, State.modHome_queued]

theorem State.putTxn_queued {s t1} (h : State.queued q s) : State.queued q (State.putTxn s t1) := by
  grind (ematch := 20) [State.putTxn, State.modHome_queued]

theorem State.ackCrossed_queued {s line} (h : State.queued q s) : State.queued q (State.ackCrossed s line) := by
  grind (ematch := 20) [State.ackCrossed, queued_mk]

theorem State.fillSlc_queued {s line cls fromHbm d poison} (h : State.queued q s) : State.queued q (State.fillSlc s line cls fromHbm d poison) := by
  grind (ematch := 20) [State.fillSlc, State.slcPut_queued]

theorem State.sendReply_queued {s t1 n} (h : State.queued q s) : State.queued q (State.sendReply s t1 n) := by
  grind (ematch := 20) [State.sendReply, State.send_queued, foldl_queued]

theorem State.smcPoison_queued {s t1 poison} (h : State.queued q s) : State.queued q (State.smcPoison s t1 poison) := by
  grind (ematch := 20) [State.smcPoison, State.record_queued]

theorem State.finish_queued {s t1 d poison fromHbm force} (h : State.queued q s) : State.queued q (State.finish s t1 d poison fromHbm force) := by
  unfold State.finish
  dsimp only
  repeat' split
  all_goals grind (ematch := 20) [State.modHome_queued, State.sendReply_queued, State.fillSlc_queued, State.l2Install_queued, State.writeHome_queued, State.smcPoison_queued, State.ackCrossed_queued, queued_mk, foldl_queued, foldl_queued_fst]

theorem State.serveEvict_queued {s p line} (h : State.queued q s) : State.queued q (State.serveEvict s p line) := by
  grind (ematch := 20) [State.serveEvict, State.setFilt_queued, State.absorb_queued, State.modPod_queued]

theorem State.proceed_queued {s t1 ev} (h : State.queued q s) : State.queued q (State.proceed s t1 ev) := by
  grind (ematch := 20) [State.proceed, State.finish_queued, State.slcRead_queued, State.enqueue_queued, State.putTxn_queued]

theorem State.begin_queued {s t1 ev} (h : State.queued q s) : State.queued q (State.begin s t1 ev) := by
  unfold State.begin
  dsimp only
  repeat' split
  all_goals grind (ematch := 20) [State.strike_queued, State.serveEvict_queued, State.modHome_queued, State.fatalEvent_queued, State.record_queued, State.finish_queued, State.proceed_queued, State.send_queued, State.putTxn_queued, queued_mk, foldl_queued, foldl_queued_fst]

theorem State.kick_queued {line ev a a3} (h : State.queued q a3) : State.queued q (State.kick line ev a a3) := by
  fun_induction State.kick line ev a a3 <;> grind (ematch := 20) [State.begin_queued]

theorem State.kickAll_queued {s line ev} (h : State.queued q s) : State.queued q (State.kickAll s line ev) := by
  grind (ematch := 20) [State.kickAll, State.kick_queued]

theorem State.promote_queued {s t1} (h : State.queued q s) : State.queued q (State.promote s t1) := by
  grind (ematch := 20) [State.promote, State.modHome_queued, State.putTxn_queued, queued_mk]

theorem State.takeEntry_queued {s t1 ev} (h : State.queued q s) : State.queued q (State.takeEntry s t1 ev) := by
  grind (ematch := 20) [State.takeEntry, State.kickAll_queued, State.modHome_queued, State.putTxn_queued, State.promote_queued]

theorem State.admitN_queued {h0 a a2} (h : State.queued q a2) : State.queued q (State.admitN h0 a a2) := by
  fun_induction State.admitN h0 a a2 <;> grind (ematch := 20) [State.takeEntry_queued, State.modHome_queued]

theorem State.admitHome_queued {s line} (h : State.queued q s) : State.queued q (State.admitHome s line) := by
  grind (ematch := 20) [State.admitHome, State.admitN_queued]

theorem State.request_queued {s line req from_ tc cls ev} (h : State.queued q s) : State.queued q (State.request s line req from_ tc cls ev) := by
  grind (ematch := 20) [State.request, State.send_queued, State.takeEntry_queued, State.modHome_queued]

theorem State.snoopAt_queued {s p line k} (h : State.queued q s) : State.queued q (State.snoopAt s p line k).1 := by
  grind (ematch := 20) [State.snoopAt, State.putL2_queued, State.dropL2_queued, State.modPod_queued]

theorem State.serveSnoop_queued {s m} (h : State.queued q s) : State.queued q (State.serveSnoop s m) := by
  grind (ematch := 20) [State.serveSnoop, State.snoopAt_queued, State.send_queued, State.modHome_queued]

theorem State.deliverSnoop_queued {s p line k} (h : State.queued q s) : State.queued q (State.deliverSnoop s p line k) := by
  grind (ematch := 20) [State.deliverSnoop, State.serveSnoop_queued, foldl_queued]

theorem State.syncFilt_queued {s line p} (h : State.queued q s) : State.queued q (State.syncFilt s line p) := by
  grind (ematch := 20) [State.syncFilt, State.setFilt_queued]

theorem State.poisonTxn_queued {s t1} (h : State.queued q s) : State.queued q (State.poisonTxn s t1) := by
  grind (ematch := 20) [State.poisonTxn, State.writeHome_queued, State.admitHome_queued, State.kickAll_queued, State.finish_queued]

theorem State.answered_queued {s t1 p got} (h : State.queued q s) : State.queued q (State.answered s t1 p got) := by
  unfold State.answered
  dsimp only
  repeat' split
  all_goals grind (ematch := 20) [State.putTxn_queued, State.poisonTxn_queued, State.admitHome_queued, State.kickAll_queued, State.proceed_queued, queued_mk, foldl_queued, foldl_queued_fst]

theorem State.useCrossed_queued {s t1 p b} (h : State.queued q s) : State.queued q (State.useCrossed s t1 p b) := by
  grind (ematch := 20) [State.useCrossed, State.setFilt_queued, State.absorb_queued, State.answered_queued]

theorem State.lateAnswer_queued {s h1 a} (h : State.queued q s) : State.queued q (State.lateAnswer s h1 a) := by
  grind (ematch := 20) [State.lateAnswer, queued_mk]

theorem State.answer_queued {s a ev} (h : State.queued q s) : State.queued q (State.answer s a ev) := by
  unfold State.answer
  dsimp only
  repeat' split
  all_goals grind (ematch := 20) [State.strike_queued, State.lateAnswer_queued, State.arrayRead_queued, State.answered_queued, State.syncFilt_queued, State.setFilt_queued, State.dropL2_queued, State.putL2_queued, State.modHome_queued, State.useCrossed_queued, State.record_queued, queued_mk, foldl_queued, foldl_queued_fst]

theorem State.hbmData_queued {s line d poison} (h : State.queued q s) : State.queued q (State.hbmData s line d poison) := by
  grind (ematch := 20) [State.hbmData, State.admitHome_queued, State.kickAll_queued, State.finish_queued]

theorem State.hbmServe_queued {s p errs sev wrong} (h : State.queued q s) : State.queued q (State.hbmServe s p errs sev wrong) := by
  unfold State.hbmServe
  split
  · split
    · exact h
    · rename_i c s1 hc
      have h1 : State.queued q s1 := State.nextCmd_queued h hc
      split
      · exact State.storeLine_queued h1
      · exact State.hbmData_queued (State.hbmRead_queued h1)
  · exact h

theorem State.writeBack_queued {s p} (h : State.queued q s) : State.queued q (State.writeBack s p) := by
  grind (ematch := 20) [State.writeBack, State.modPc_queued, queued_mk]

theorem State.verifyRead_queued {s p errs sev} (h : State.queued q s) : State.queued q (State.verifyRead s p errs sev) := by
  unfold State.verifyRead
  dsimp only
  repeat' split
  all_goals grind (ematch := 20) [State.modPc_queued, State.addE_queued, State.hardError_queued, State.hbmRead_queued, queued_mk, foldl_queued, foldl_queued_fst]

/-! ## Machine/Requests.lean -/

theorem State.evArrive_queued {s p line} (h : State.queued q s) : State.queued q (State.evArrive s p line) := by
  grind (ematch := 20) [State.evArrive, State.modPod_queued, State.send_queued, State.serveEvict_queued, State.useCrossed_queued, State.modHome_queued]

theorem State.hbmTurn_queued {s line} (h : State.queued q s) : State.queued q (State.hbmTurn s line) := by
  grind (ematch := 20) [State.hbmTurn, State.ownSlot_queued, State.writeBack_queued, State.verifyRead_queued, State.hbmServe_queued, queued_mk]

theorem State.settle1_queued {s line} (h : State.queued q s) : State.queued q (State.settle1 s line) := by
  unfold State.settle1
  dsimp only
  repeat' split
  all_goals grind (ematch := 20) [State.admitHome_queued, State.kickAll_queued, State.hbmTurn_queued, State.proceed_queued, State.deliverSnoop_queued, State.answer_queued, State.modHome_queued, State.evArrive_queued, State.answered_queued, queued_mk, foldl_queued, foldl_queued_fst]

theorem State.settleN_queued {line a a2} (h : State.queued q a2) : State.queued q (State.settleN line a a2) := by
  fun_induction State.settleN line a a2 <;> grind (ematch := 20) [State.settle1_queued]

theorem State.settle_queued {s line} (h : State.queued q s) : State.queued q (State.settle s line) := by
  grind (ematch := 20) [State.settle, State.settleN_queued, queued_mk]

theorem State.drainEv_queued {s p line} (h : State.queued q s) : State.queued q (State.drainEv s p line) := by
  grind (ematch := 20) [State.drainEv, State.settle_queued, State.evArrive_queued]

theorem State.transact_queued {s line req from_ tc cls} (h : State.queued q s) : State.queued q (State.transact s line req from_ tc cls) := by
  grind (ematch := 20) [State.transact, State.settle_queued, State.request_queued, queued_mk]

theorem State.homePeek_queued {s line m} (h : State.queued q s) : State.queued q (State.homePeek s line m).1 := by
  grind (ematch := 20) [State.homePeek, State.transact_queued]

theorem State.homePush_queued {s line off d m} (h : State.queued q s) : State.queued q (State.homePush s line off d m) := by
  grind (ematch := 20) [State.homePush, State.transact_queued]

theorem State.homePushPoison_queued {s line off d m} (h : State.queued q s) : State.queued q (State.homePushPoison s line off d m) := by
  grind (ematch := 20) [State.homePushPoison, State.homePush_queued, State.writeHome_queued]

theorem State.homeAtomic_queued {s addr size op v cmp m} (h : State.queued q s) : State.queued q (State.homeAtomic s addr size op v cmp m).1 := by
  grind (ematch := 20) [State.homeAtomic, State.transact_queued]

theorem State.setType_queued {s p line type} (h : State.queued q s) : State.queued q (State.setType s p line type) := by
  grind (ematch := 20) [State.setType, State.putL2_queued]

theorem State.l1Fill_queued {s c line} (h : State.queued q s) : State.queued q (State.l1Fill s c line) := by
  grind (ematch := 20) [State.l1Fill, State.pick_queued, queued_mk]

theorem State.l1CrcError_queued {s c instr line} (h : State.queued q s) : State.queued q (State.l1CrcError s c instr line) := by
  grind (ematch := 20) [State.l1CrcError, State.draw_queued, State.transientAt_queued, State.record_queued, queued_mk]

theorem State.loadLine_queued {s c line type ev} (h : State.queued q s) : State.queued q (State.loadLine s c line type ev).1 := by
  unfold State.loadLine
  extract_lets p s1 a bad s2 s3 hit r s4 s5 again s6 r6 s7
  have h1 : State.queued q s1 := State.strike_queued (State.settle_queued h)
  have h2 : State.queued q s2 := ite_queued (State.l1CrcError_queued h1) h1
  have h3 : State.queued q s3 := State.drainEv_queued h2
  clear_value s1 s2 s3 bad
  have h4 : State.queued q s4 := by
    clear_value hit
    cases hit with
    | none => exact h3
    | some x => exact State.arrayRead_queued (ev := ev) (b := bankPod p) (unit := p.val) (way := x.way) (line := line) (setNo := l2Set line) (arr := 0) (kind := 0x07) (dirty := x.st.dirty) h3
  clear_value s4
  have h5 : State.queued q s5 := by
    unfold s5
    clear s5 s6 s7 r6
    generalize r.2 = o
    cases o with
    | keep => exact h4
    | refetch => exact State.evictNow_queued h4
    | poisoned => dsimp only; split; exact State.putL2_queued h4; exact h4
  clear_value s5
  have ha : ∀ u, State.queued q u → State.queued q (again u) := fun u hu => by
    unfold again
    exact ite_queued (State.l1Fill_queued hu) hu
  clear_value again
  have h6 : State.queued q s6 := State.transact_queued h5
  have h7 : State.queued q s7 := State.transact_queued h5
  clear_value s6 s7
  split
  · exact ha _ h5
  · split
    · exact ha _ (State.setType_queued h6)
    · exact h7

theorem State.coreLine_queued {s c line type ev} (h : State.queued q s) : State.queued q (State.coreLine s c line type ev).1 := by
  grind (ematch := 20) [State.coreLine, State.loadLine_queued, State.drainEv_queued, State.homePeek_queued]

theorem State.l2Write_queued {s c line off d type st} (h : State.queued q s) : State.queued q (State.l2Write s c line off d type st) := by
  grind (ematch := 20) [State.l2Write, State.putL2_queued, queued_mk]

theorem State.ownLine_queued {s c line} (h : State.queued q s) : State.queued q (State.ownLine s c line) := by
  unfold State.ownLine
  extract_lets p s1
  have h1 : State.queued q s1 := State.drainEv_queued (State.settle_queued h)
  clear_value s1
  generalize (s1.l2? p line).map (·.st) = o
  split
  · exact h1
  · exact h1
  · exact State.transact_queued h1

theorem State.coreWrite_queued {s c line off d type} (h : State.queued q s) : State.queued q (State.coreWrite s c line off d type) := by
  unfold State.coreWrite
  split <;> grind (ematch := 20) [State.drainEv_queued, State.settle_queued, State.homePush_queued, State.ownLine_queued, State.l2Write_queued, State.setFilt_queued, State.writeHome_queued]

theorem State.invalidate_queued {s line} (h : State.queued q s) : State.queued q (State.invalidate s line) := by
  grind (ematch := 20) [State.invalidate, State.setFilt_queued, State.dropL2_queued, State.modHome_queued, foldl_queued]

theorem State.dcc_queued {s line tc} (h : State.queued q s) : State.queued q (State.dcc s line tc) := by
  unfold State.dcc
  dsimp only
  repeat' split
  all_goals grind (ematch := 20) [State.settle_queued, State.drainEv_queued, State.hbmWrite_queued, State.slcPut_queued, State.setFilt_queued, State.putL2_queued, foldl_queued, foldl_queued_fst]

theorem State.dcci_queued {s line tc} (h : State.queued q s) : State.queued q (State.dcci s line tc) := by
  grind (ematch := 20) [State.dcci, State.invalidate_queued, State.dcc_queued]

theorem State.dci_queued {s line} (h : State.queued q s) : State.queued q (State.dci s line) := by
  grind (ematch := 20) [State.dci, State.settle_queued, State.invalidate_queued, queued_mk]

theorem State.ici_queued {s line} (h : State.queued q s) : State.queued q (State.ici s line) := by
  grind (ematch := 20) [State.ici, queued_mk]

theorem State.zline_queued {s c line type} (h : State.queued q s) : State.queued q (State.zline s c line type) := by
  grind (ematch := 20) [State.zline, State.drainEv_queued, State.settle_queued, State.setFilt_queued, State.dropL2_queued, State.l2Install_queued, State.dropL1_queued, State.homePush_queued, foldl_queued]

theorem State.cleanPod_queued {s p} (h : State.queued q s) : State.queued q (State.cleanPod s p) := by
  grind (ematch := 20) [State.cleanPod, State.drainEv_queued, State.settle_queued, State.evictNow_queued, State.modPod_queued, foldl_queued]

/-! ## Machine/Access.lean -/

theorem State.huskPut_queued {s h1 x2} (h : State.queued q s) : State.queued q (State.huskPut s h1 x2) := h

theorem State.postedError_queued {s m a r} (h : State.queued q s) : State.queued q (State.postedError s m a r) := by
  grind (ematch := 20) [State.postedError, State.record_queued]

theorem State.huskRecord_queued {s m a} (h : State.queued q s) : State.queued q (State.huskRecord s m a) := by
  grind (ematch := 20) [State.huskRecord, State.record_queued]

theorem State.eccEvent_queued {s p ev} (h : State.queued q s) : State.queued q (State.eccEvent s p ev) := by
  unfold State.eccEvent
  dsimp only
  repeat' split
  all_goals exact h

theorem State.eccWord_queued {i unit a arr s w} (h : State.queued q s) : State.queued q (State.eccWord i unit a arr s w) := by
  unfold State.eccWord
  split
  · exact State.record_queued (queued_mk h)
  · exact h

theorem State.eccFix_queued {s i unit a p n arr} (h : State.queued q s) : State.queued q (State.eccFix s i unit a p n arr) := by
  grind (ematch := 20) [State.eccFix, State.eccWord_queued, foldl_queued]

theorem State.eccMesh_queued {s a n} (h : State.queued q s) : State.queued q (State.eccMesh s a n) := by
  grind (ematch := 20) [State.eccMesh, State.eccFix_queued]

theorem State.meshRead_queued {s m a n} (h : State.queued q s) : State.queued q (State.meshRead s m a n) := by
  grind (ematch := 20) [State.meshRead, State.send_queued]

theorem State.meshWrite_queued {s m a n} (h : State.queued q s) : State.queued q (State.meshWrite s m a n) := by
  grind (ematch := 20) [State.meshWrite, State.send_queued]

theorem State.memRead_queued {s m a n} (h : State.queued q s) : State.queued q (State.memRead s m a n).1 := by
  grind (ematch := 20) [State.memRead, State.homePeek_queued, State.eccMesh_queued, State.meshRead_queued, queued_mk]

theorem State.eccWrite_queued {s a n} (h : State.queued q s) : State.queued q (State.eccWrite s a n) := h

theorem State.clearTags_queued {s a n} (h : State.queued q s) : State.queued q (State.clearTags s a n) := by
  grind (ematch := 20) [State.clearTags, queued_mk]

theorem State.memWrite_queued {s m a d poison} (h : State.queued q s) : State.queued q (State.memWrite s m a d poison) := by
  have h1 : State.queued q { s.meshWrite m a d.length with mem := Memory.write s.mem a d } :=
    queued_mk (State.meshWrite_queued h)
  have h2 : State.queued q { ((s.meshWrite m a d.length).eccWrite a d.length).clearTags a d.length with mem := Memory.write s.mem a d } :=
    queued_mk (State.clearTags_queued (State.eccWrite_queued (State.meshWrite_queued h)))
  unfold State.memWrite
  split
  iterate 3 exact ite_queued (State.homePushPoison_queued h) (State.homePush_queued h)
  iterate 4 exact h2
  iterate 2 exact queued_mk (State.meshWrite_queued h)
  exact h

theorem State.dmaRead_queued {s m a n} (h : State.queued q s) : State.queued q (State.dmaRead s m a n).1 := by
  unfold State.dmaRead
  grind (ematch := 20) [State.memRead_queued, foldl_queued, foldl_queued_fst]

theorem State.dmaWrite_queued {s m a d} (h : State.queued q s) : State.queued q (State.dmaWrite s m a d).1 := by
  unfold State.dmaWrite
  grind (ematch := 20) [State.memWrite_queued, foldl_queued, foldl_queued_fst]

/-! ## Machine/DataMover.lean -/

theorem State.modDm_queued {s n f} (h : State.queued q s) : State.queued q (State.modDm s n f) := by
  grind (ematch := 20) [State.modDm, queued_mk]

theorem State.dmLines_queued {s n} (h : State.queued q s) : State.queued q (State.dmLines s n) := by
  grind (ematch := 20) [State.dmLines, State.bankLine_queued, State.setLine_queued]

theorem State.dmFinish_queued {s n idx code moved crc irq} (h : State.queued q s) : State.queued q (State.dmFinish s n idx code moved crc irq) := by
  unfold State.dmFinish
  grind (ematch := 20) [State.dmaWrite_queued, State.modDm_queued, State.addE_queued, State.dmLines_queued]

theorem State.dmSource_queued {s n d off k} (h : State.queued q s) : State.queued q (State.dmSource s n d off k).1 := by
  grind (ematch := 20) [State.dmSource, State.dmaRead_queued]

theorem State.dmMove_queued {s n d len} (h : State.queued q s) : State.queued q (State.dmMove s n d len).1 := by
  unfold State.dmMove
  grind (ematch := 20) [State.dmSource_queued, State.memWrite_queued, foldl_queued, foldl_queued_fst]

theorem State.dmDesc_queued {s n idx} (h : State.queued q s) : State.queued q (State.dmDesc s n idx).1 := by
  grind (ematch := 20) [State.dmDesc, State.dmaRead_queued]

theorem State.dmAbortPoint_queued {s d} (h : State.queued q s) : State.queued q (State.dmAbortPoint s d).1 := by
  grind (ematch := 20) [State.dmAbortPoint, State.draw_queued]

theorem State.dmAbortOne_queued {s n idx} (h : State.queued q s) : State.queued q (State.dmAbortOne s n idx) := by
  unfold State.dmAbortOne
  split <;> grind (ematch := 20) [State.dmDesc_queued, State.dmFinish_queued, State.dmAbortPoint_queued, State.dmMove_queued, State.modDm_queued]

theorem State.dmAbortEvery_queued {s n} (h : State.queued q s) : State.queued q (State.dmAbortEvery s n) := by
  grind (ematch := 20) [State.dmAbortEvery, State.dmAbortOne_queued, foldl_queued]

theorem State.dmStop_queued {s n idx addr word0} (h : State.queued q s) : State.queued q (State.dmStop s n idx addr word0) := by
  grind (ematch := 20) [State.dmStop, State.ledgerEvent_queued, State.modDm_queued, State.dmAbortOne_queued, foldl_queued]

theorem State.dmDescFault_queued {s n idx} (h : State.queued q s) : State.queued q (State.dmDescFault s n idx) := by
  grind (ematch := 20) [State.dmDescFault, State.record_queued, State.dmStop_queued]

theorem State.dmFail_queued {s n idx code moved crc irq} (h : State.queued q s) : State.queued q (State.dmFail s n idx code moved crc irq) := by
  grind (ematch := 20) [State.dmFail, State.dmStop_queued, State.dmFinish_queued]

theorem execDmDescriptorStart_queued {n s t} (h : State.queued q s) (e : execDmDescriptorStart n s = .next t) : State.queued q t := by
  simp only [execDmDescriptorStart, Host.Outcome.next.injEq] at e
  subst e
  refine State.served_queued h fun s h => ?_
  split <;> grind (ematch := 20) [State.dmDesc_queued, State.dmDescFault_queued, State.dmFinish_queued, State.modDm_queued, queued_mk, foldl_queued, foldl_queued_fst]

theorem execDmDescriptorComplete_queued {n s t} (h : State.queued q s) (e : execDmDescriptorComplete n s = .next t) : State.queued q t := by
  simp only [execDmDescriptorComplete, Host.Outcome.next.injEq] at e
  subst e
  refine State.served_queued h fun s h => ?_
  split
  · exact h
  · split
    · rename_i u hu; exact State.dmDescFault_queued (pair_queued (State.dmDesc_queued h) hu)
    · rename_i u d hu
      have h1 := pair_queued (State.dmDesc_queued h) hu
      have h2 := State.dmMove_queued (n := n) (d := d) (len := d.len) h1
      split
      · exact State.dmFail_queued h2
      · split
        · exact State.dmFinish_queued (State.record_queued h2)
        · exact State.dmFinish_queued h2

theorem execDmError_queued {n dst good s t} (h : State.queued q s) (e : execDmError n dst good s = .next t) : State.queued q t := by
  simp only [execDmError, Host.Outcome.next.injEq] at e
  subst e
  refine State.served_queued h fun s h => ?_
  split <;> grind (ematch := 20) [State.dmDescFault_queued, State.dmDesc_queued, State.dmMove_queued, State.dmFail_queued, queued_mk, foldl_queued, foldl_queued_fst]

theorem State.dmPage_queued {s m n f} (h : State.queued q s) (hf : ∀ y0, State.queued q y0 → State.queued q (f y0)) : State.queued q (State.dmPage s m n f) := by
  grind (ematch := 20) [State.dmPage, queued_mk]

theorem State.dmTailWrite_queued {s n v} (h : State.queued q s) : State.queued q (State.dmTailWrite s n v) := by
  grind (ematch := 20) [State.dmTailWrite, State.addE_queued, State.modDm_queued]

theorem execDmTail_queued {m n v s t} (h : State.queued q s) (e : execDmTail m n v s = .next t) : State.queued q t := by
  grind (ematch := 20) [execDmTail, State.dmPage_queued, State.dmTailWrite_queued]

theorem State.dmAbortWrite_queued {s n i} (h : State.queued q s) : State.queued q (State.dmAbortWrite s n i) := by
  grind (ematch := 20) [State.dmAbortWrite, State.modDm_queued, State.dmAbortOne_queued, State.dmStop_queued]

theorem execDmAbort_queued {m n v s t} (h : State.queued q s) (e : execDmAbort m n v s = .next t) : State.queued q t := by
  grind (ematch := 20) [execDmAbort, State.served_queued, State.dmPage_queued, State.dmAbortWrite_queued]

theorem State.dmCtlWrite_queued {s n v} (h : State.queued q s) : State.queued q (State.dmCtlWrite s n v) := by
  grind (ematch := 20) [State.dmCtlWrite, State.dmAbortEvery_queued]

theorem execDmAbortAll_queued {m n v s t} (h : State.queued q s) (e : execDmAbortAll m n v s = .next t) : State.queued q t := by
  grind (ematch := 20) [execDmAbortAll, State.served_queued, State.dmPage_queued, State.dmCtlWrite_queued]

theorem State.dmEnableWrite_queued {s n v} (h : State.queued q s) : State.queued q (State.dmEnableWrite s n v) := by
  grind (ematch := 20) [State.dmEnableWrite, State.setE_queued, State.modDm_queued, State.dmAbortEvery_queued]

theorem State.dmRegWrite_queued {s n off v t} (h : State.queued q s) (e : State.dmRegWrite s n off v = some t) : State.queued q t := by
  unfold State.dmRegWrite at e
  grind (ematch := 20) [State.dmTailWrite_queued, State.dmAbortWrite_queued, State.dmCtlWrite_queued, State.dmLines_queued, State.modDm_queued]

theorem State.fbPop_queued {s b v} (h : State.queued q s) : State.queued q (State.fbPop s b v) := by
  grind (ematch := 20) [State.fbPop, State.bankLine_queued, queued_mk]

theorem execFbPop_queued {m b v s t} (h : State.queued q s) (e : execFbPop m b v s = .next t) : State.queued q t := by
  grind (ematch := 20) [execFbPop, State.fbPop_queued, queued_mk]

theorem State.fbWrite_queued {s b off v t} (h : State.queued q s) (e : State.fbWrite s b off v = some t) : State.queued q t := by
  unfold State.fbWrite at e
  grind (ematch := 20) [State.fbPop_queued, State.bankLine_queued, queued_mk]

theorem State.retireClear_queued {s v t} (h : State.queued q s) (e : State.retireClear s v = some t) : State.queued q t := by
  grind (ematch := 20) [State.retireClear, queued_mk]

theorem State.ledgerTailWrite_queued {s v t} (h : State.queued q s) (e : State.ledgerTailWrite s v = some t) : State.queued q t := by
  grind (ematch := 20) [State.ledgerTailWrite, State.ledgerLine_queued, queued_mk]

/-! ## Machine/HbmOps.lean -/

theorem execHbmCommand_queued {p m wrong s t} (h : State.queued q s) (e : execHbmCommand p m wrong s = .next t) : State.queued q t := by
  simp only [execHbmCommand, Host.Outcome.next.injEq] at e
  subst e
  grind (ematch := 20) [State.hbmServe_queued, queued_mk, foldl_queued, foldl_queued_fst]

theorem execHbmCorrectionWriteback_queued {p s t} (h : State.queued q s) (e : execHbmCorrectionWriteback p s = .next t) : State.queued q t := by
  grind (ematch := 20) [execHbmCorrectionWriteback, State.ownSlot_queued, State.writeBack_queued]

theorem execHbmVerifyRead_queued {p m s t} (h : State.queued q s) (e : execHbmVerifyRead p m s = .next t) : State.queued q t := by
  grind (ematch := 20) [execHbmVerifyRead, State.ownSlot_queued, State.verifyRead_queued]

theorem State.mayRefresh_queued {s p sid bank} (h : State.queued q s) : State.queued q (State.mayRefresh s p sid bank).1 := by
  grind (ematch := 20) [State.mayRefresh, queued_mk]

theorem execHbmRefresh_queued {p sid bank s t} (h : State.queued q s) (e : execHbmRefresh p sid bank s = .next t) : State.queued q t := by
  grind (ematch := 20) [execHbmRefresh, State.mayRefresh_queued, State.modPc_queued]

theorem execHbmRfm_queued {p sid bank s t} (h : State.queued q s) (e : execHbmRfm p sid bank s = .next t) : State.queued q t := by
  grind (ematch := 20) [execHbmRfm, State.mayRefresh_queued, State.modPc_queued]

theorem execPatrolScrubRead_queued {p m s t} (h : State.queued q s) (e : execPatrolScrubRead p m s = .next t) : State.queued q t := by
  grind (ematch := 20) [execPatrolScrubRead, State.ownSlot_queued, State.modPc_queued, State.hbmRead_queued]

theorem execRowRepair_queued {p spareLeft s t} (h : State.queued q s) (e : execRowRepair p spareLeft s = .next t) : State.queued q t := by
  grind (ematch := 20) [execRowRepair, State.modPc_queued, State.addE_queued, State.retireEntry_queued, State.record_queued, State.pcFail_queued, queued_mk]

theorem State.copyErrs_queued {s src chunk} (h : State.queued q s) : State.queued q (State.copyErrs s src chunk) := by
  grind (ematch := 20) [State.copyErrs, State.storeLine_queued, foldl_queued]

theorem State.moveQueue_queued {s src chunk host_} (h : State.queued q s) : State.queued q (State.moveQueue s src chunk host_) := by
  grind (ematch := 20) [State.moveQueue, State.modPc_queued]

theorem execMigrationChunkDone_queued {p s t} (h : State.queued q s) (e : execMigrationChunkDone p s = .next t) : State.queued q t := by
  simp only [execMigrationChunkDone, Host.Outcome.next.injEq] at e
  subst e
  split <;> grind (ematch := 20) [State.moveQueue_queued, State.copyErrs_queued, State.modPc_queued, queued_mk, foldl_queued, foldl_queued_fst]

theorem execHbmRetraining_queued {p s t} (h : State.queued q s) (e : execHbmRetraining p s = .next t) : State.queued q t := by
  grind (ematch := 20) [execHbmRetraining, State.draw_queued, State.record_queued, State.modPc_queued]

theorem execHbmRetrainingDone_queued {p persist s t} (h : State.queued q s) (e : execHbmRetrainingDone p persist s = .next t) : State.queued q t := by
  grind (ematch := 20) [execHbmRetrainingDone, State.modPc_queued, State.pcFail_queued]

/-! ## Machine/Envelope.lean -/

theorem State.envLine_queued {s} (h : State.queued q s) : State.queued q (State.envLine s) := by
  grind (ematch := 20) [State.envLine, State.setLine_queued]

theorem State.violation_queued {s k res id} (h : State.queued q s) : State.queued q (State.violation s k res id) := by
  grind (ematch := 20) [State.violation, State.envLine_queued, queued_mk]

theorem State.countWrap_queued {s idx sub} (h : State.queued q s) : State.queued q (State.countWrap s idx sub) := by
  grind (ematch := 20) [State.countWrap, State.setE_queued]

theorem State.portCheck_queued {s n len} (h : State.queued q s) : State.queued q (State.portCheck s n len).1 := by
  grind (ematch := 20) [State.portCheck, State.violation_queued, State.countWrap_queued, queued_mk]

theorem State.canCheck_queued {s n f longest checked held} (h : State.queued q s) : State.queued q (State.canCheck s n f longest checked held).1 := by
  grind (ematch := 20) [State.canCheck, State.violation_queued, State.countWrap_queued, queued_mk]

theorem State.modPin_queued {s i n f} (h : State.queued q s) : State.queued q (State.modPin s i n f) := by
  grind (ematch := 20) [State.modPin, queued_mk]

theorem State.pinSafe_queued {s i n} (h : State.queued q s) : State.queued q (State.pinSafe s i n) := by
  grind (ematch := 20) [State.pinSafe, State.modPin_queued]

theorem State.pinsSafe_queued {s i} (h : State.queued q s) : State.queued q (State.pinsSafe s i) := by
  grind (ematch := 20) [State.pinsSafe, State.pinSafe_queued, foldl_queued]

theorem State.clip_queued {s i n k} (h : State.queued q s) : State.queued q (State.clip s i n k) := by
  grind (ematch := 20) [State.clip, State.violation_queued, State.countWrap_queued]

theorem State.pwmPeriod_queued {s i n} (h : State.queued q s) : State.queued q (State.pwmPeriod s i n) := by
  grind (ematch := 20) [State.pwmPeriod, State.pinSafe_queued, State.clip_queued, State.countWrap_queued, State.modPin_queued]

theorem State.applyPin_queued {s i n ctl} (h : State.queued q s) : State.queued q (State.applyPin s i n ctl) := by
  grind (ematch := 20) [State.applyPin, State.clip_queued, State.pinSafe_queued, State.pwmPeriod_queued, State.modPin_queued]

theorem execPwmPeriodStart_queued {i n s t} (h : State.queued q s) (e : execPwmPeriodStart i n s = .next t) : State.queued q t := by
  grind (ematch := 20) [execPwmPeriodStart, State.pwmPeriod_queued]

theorem State.envClear_queued {s v} (h : State.queued q s) : State.queued q (State.envClear s v) := by
  grind (ematch := 20) [State.envClear, State.envLine_queued, queued_mk]

theorem execEnvViolStat_queued {m v s t} (h : State.queued q s) (e : execEnvViolStat m v s = .next t) : State.queued q t := by
  grind (ematch := 20) [execEnvViolStat, State.envClear_queued, queued_mk]

/-! ## Machine/Vi.lean -/

theorem State.viLine_queued {s v} (h : State.queued q s) : State.queued q (State.viLine s v) := by
  grind (ematch := 20) [State.viLine, State.setLine_queued, State.putVi_queued]

theorem State.setViBit_queued {s v bitNo md} (h : State.queued q s) : State.queued q (State.setViBit s v bitNo md) := by
  grind (ematch := 20) [State.setViBit, State.viLine_queued, State.putVi_queued]

theorem State.viClear_queued {s v val} (h : State.queued q s) : State.queued q (State.viClear s v val) := by
  grind (ematch := 20) [State.viClear, State.viLine_queued, State.putVi_queued]

theorem State.qpStop_queued {s v q2 idx addr} (h : State.queued q s) : State.queued q (State.qpStop s v q2 idx addr) := by
  grind (ematch := 20) [State.qpStop, State.setE_queued, State.setViBit_queued, State.record_queued, State.ledgerEvent_queued]

theorem State.descWrite_queued {s v q2 idx addr off d} (h : State.queued q s) : State.queued q (State.descWrite s v q2 idx addr off d).1 := by
  grind (ematch := 20) [State.descWrite, State.dmaWrite_queued, State.qpStop_queued]

theorem State.txComplete_queued {s v q2 idx code ts} (h : State.queued q s) : State.queued q (State.txComplete s v q2 idx code ts) := by
  unfold State.txComplete
  grind (ematch := 20) [State.descWrite_queued, State.modQp_queued, State.setViBit_queued]

theorem State.txCopyEnd_queued {s r code} (h : State.queued q s) : State.queued q (State.txCopyEnd s r code) := by
  grind (ematch := 20) [State.txCopyEnd, State.modQp_queued, State.txComplete_queued]

theorem State.txBegun_queued {s r} (h : State.queued q s) : State.queued q (State.txBegun s r) := by
  grind (ematch := 20) [State.txBegun, State.modQp_queued]

theorem State.deliver_queued {s v q2 it} (h : State.queued q s) : State.queued q (State.deliver s v q2 it) := by
  grind (ematch := 20) [State.deliver, State.addE_queued, State.modQp_queued]

theorem State.rxComplete_queued {s v q2 idx code} (h : State.queued q s) : State.queued q (State.rxComplete s v q2 idx code) := by
  grind (ematch := 20) [State.rxComplete, State.descWrite_queued, State.modQp_queued, State.setViBit_queued]

theorem execRxDescriptorFill_queued {v q1 s t} (h : State.queued q s) (e : execRxDescriptorFill v q1 s = .next t) : State.queued q t := by
  simp only [execRxDescriptorFill, Host.Outcome.next.injEq] at e
  subst e
  refine State.served_queued h fun s h => ?_
  split
  · exact h
  · split
    · exact h
    · have h0 {f} := State.modQp_queued (v := v.val) (q2 := q1) (f := f) h
      split
      · rename_i u hu; exact State.qpStop_queued (pair_queued (State.dmaRead_queued h0) hu)
      · rename_i u b hu; exact State.qpStop_queued (State.record_queued (pair_queued (State.dmaRead_queued h0) hu))
      · rename_i u d hu
        have h1 := pair_queued (State.dmaRead_queued h0) hu
        split
        · rename_i w hw; exact State.rxComplete_queued (pair_queued (State.dmaWrite_queued h1) hw)
        · rename_i w hw
          have h2 := pair_queued (State.dmaWrite_queued h1) hw
          split
          · rename_i y hy; exact pair_queued (State.descWrite_queued h2) hy
          · rename_i y hy
            have h3 := pair_queued (State.descWrite_queued h2) hy
            split
            · rename_i z hz; exact pair_queued (State.descWrite_queued h3) hz
            · rename_i z hz; exact State.addE_queued (State.rxComplete_queued (pair_queued (State.descWrite_queued h3) hz))

theorem State.doorbellLost_queued {s v} (h : State.queued q s) : State.queued q (State.doorbellLost s v) := by
  grind (ematch := 20) [State.doorbellLost, State.addE_queued, State.setViBit_queued]

theorem State.txTailWrite_queued {s v q2 val} (h : State.queued q s) : State.queued q (State.txTailWrite s v q2 val) := by
  grind (ematch := 20) [State.txTailWrite, State.doorbellLost_queued, State.modQp_queued]

theorem State.rxTailWrite_queued {s v q2 val} (h : State.queued q s) : State.queued q (State.rxTailWrite s v q2 val) := by
  grind (ematch := 20) [State.rxTailWrite, State.doorbellLost_queued, State.modQp_queued]

theorem State.viPage_queued {s m v f} (h : State.queued q s) (hf : ∀ y0, State.queued q y0 → State.queued q (f y0)) : State.queued q (State.viPage s m v f) := by
  grind (ematch := 20) [State.viPage, queued_mk]

theorem execTxTail_queued {m v q2 val s t} (h : State.queued q s) (e : execTxTail m v q2 val s = .next t) : State.queued q t := by
  grind (ematch := 20) [execTxTail, State.viPage_queued, State.txTailWrite_queued]

theorem execRxTail_queued {m v q2 val s t} (h : State.queued q s) (e : execRxTail m v q2 val s = .next t) : State.queued q t := by
  grind (ematch := 20) [execRxTail, State.viPage_queued, State.rxTailWrite_queued]

theorem execViIrqStat_queued {m v val s t} (h : State.queued q s) (e : execViIrqStat m v val s = .next t) : State.queued q t := by
  grind (ematch := 20) [execViIrqStat, State.viPage_queued, State.viClear_queued]

theorem execIrqModExpiry_queued {v s t} (h : State.queued q s) (e : execIrqModExpiry v s = .next t) : State.queued q t := by
  grind (ematch := 20) [execIrqModExpiry, State.viLine_queued, State.putVi_queued]

/-! ## Machine/Bus.lean -/

theorem State.modCan_queued {s n f} (h : State.queued q s) : State.queued q (State.modCan s n f) := by
  grind (ematch := 20) [State.modCan, queued_mk]

theorem State.modLin_queued {s m f} (h : State.queued q s) : State.queued q (State.modLin s m f) := by
  grind (ematch := 20) [State.modLin, queued_mk]

theorem State.canDiscard_queued {s n t2 code} (h : State.queued q s) : State.queued q (State.canDiscard s n t2 code) := by
  grind (ematch := 20) [State.canDiscard, State.txCopyEnd_queued, State.addE_queued]

theorem State.canRoute_queued {s n f} (h : State.queued q s) : State.queued q (State.canRoute s n f) := by
  grind (ematch := 20) [State.canRoute, State.addE_queued, State.canDiscard_queued, State.modCan_queued]

theorem State.linBuffer_queued {s m id d ref} (h : State.queued q s) : State.queued q (State.linBuffer s m id d ref) := by
  grind (ematch := 20) [State.linBuffer, State.modLin_queued, State.txCopyEnd_queued]

theorem State.convDrop_queued {s} (h : State.queued q s) : State.queued q (State.convDrop s) := by
  grind (ematch := 20) [State.convDrop, State.addE_queued]

theorem State.routeCan_queued {s chans txFmt keep newId f} (h : State.queued q s) : State.queued q (State.routeCan s chans txFmt keep newId f) := by
  grind (ematch := 20) [State.routeCan, State.canRoute_queued, State.convDrop_queued, foldl_queued]

theorem State.routeLin_queued {s m id f} (h : State.queued q s) : State.queued q (State.routeLin s m id f) := by
  grind (ematch := 20) [State.routeLin, State.convDrop_queued, State.linBuffer_queued]

theorem State.modWin_queued {s k f} (h : State.queued q s) : State.queued q (State.modWin s k f) := by
  grind (ematch := 20) [State.modWin, queued_mk]

theorem State.appendMsg_queued {s k msg} (h : State.queued q s) : State.queued q (State.appendMsg s k msg) := by
  grind (ematch := 20) [State.appendMsg, State.addE_queued, State.modWin_queued, foldl_queued]

theorem State.encap_queued {s k b f time copy} (h : State.queued q s) : State.queued q (State.encap s k b f time copy) := by
  grind (ematch := 20) [State.encap, State.convDrop_queued, State.appendMsg_queued, State.routeCan_queued]

theorem execEncapWindowTimeout_queued {k s t} (h : State.queued q s) (e : execEncapWindowTimeout k s = .next t) : State.queued q t := by
  grind (ematch := 20) [execEncapWindowTimeout, State.modWin_queued]

theorem State.convert_queued {s t1 b f time} (h : State.queued q s) : State.queued q (State.convert s t1 b f time) := by
  grind (ematch := 20) [State.convert, State.encap_queued, State.routeCan_queued, State.routeLin_queued]

/-! ## Machine/DapSend.lean -/

theorem State.modDap_queued {s f} (h : State.queued q s) : State.queued q (State.modDap s f) := by
  grind (ematch := 20) [State.modDap, queued_mk]

theorem State.seedWrite_queued {s} (h : State.queued q s) : State.queued q (State.seedWrite s) := by
  grind (ematch := 20) [State.seedWrite, State.addE_queued]

theorem State.nextFresh_queued {s k} (h : State.queued q s) : State.queued q (State.nextFresh s k).1 := by
  grind (ematch := 20) [State.nextFresh, State.modDap_queued, State.seedWrite_queued, queued_mk]

theorem State.dapEmit_queued {s tr dst b} (h : State.queued q s) : State.queued q (State.dapEmit s tr dst b) := by
  unfold State.dapEmit
  grind (ematch := 20) [State.modDap_queued, State.canRoute_queued]

theorem State.dapSend_queued {s p} (h : State.queued q s) : State.queued q (State.dapSend s p) := by
  grind (ematch := 20) [State.dapSend, State.nextFresh_queued, State.dapEmit_queued]

theorem State.sendBurst_queued {s t1 k} (h : State.queued q s) : State.queued q (State.sendBurst s t1 k) := by
  grind (ematch := 20) [State.sendBurst, State.dapSend_queued, foldl_queued]

theorem State.dapAnswer_queued {s p body} (h : State.queued q s) : State.queued q (State.dapAnswer s p body) := by
  grind (ematch := 20) [State.dapAnswer, State.modDap_queued, State.dapSend_queued, State.sendBurst_queued]

theorem State.mailLine_queued {s} (h : State.queued q s) : State.queued q (State.mailLine s) := by
  grind (ematch := 20) [State.mailLine, State.setLine_queued]

theorem State.modMail_queued {s p f} (h : State.queued q s) : State.queued q (State.modMail s p f) := by
  grind (ematch := 20) [State.modMail, queued_mk]

theorem State.mailDone_queued {s p st} (h : State.queued q s) : State.queued q (State.mailDone s p st) := by
  grind (ematch := 20) [State.mailDone, State.mailLine_queued, State.modMail_queued]

theorem State.winDone_queued {s m st} (h : State.queued q s) : State.queued q (State.winDone s m st) := by
  grind (ematch := 20) [State.winDone, State.modMail_queued]

theorem State.dapWritten_queued {s p} (h : State.queued q s) : State.queued q (State.dapWritten s p) := by
  grind (ematch := 20) [State.dapWritten, State.pulse_queued, State.setE_queued]

theorem State.complete_queued {s a st} (h : State.queued q s) : State.queued q (State.complete s a st) := by
  grind (ematch := 20) [State.complete, State.mailDone_queued, State.winDone_queued, State.dapWritten_queued, State.dapAnswer_queued, queued_mk]

theorem State.completeIf_queued {s a st} (h : State.queued q s) : State.queued q (State.completeIf s a st) := by
  unfold State.completeIf
  grind (ematch := 20) [State.complete_queued]

/-! ## Machine/Flow.lean -/

theorem State.ctxWrite_queued {s h1 c} (h : State.queued q s) : State.queued q (State.ctxWrite s h1 c) := by
  grind (ematch := 20) [State.ctxWrite, State.dmaWrite_queued]

theorem State.flowPut_queued {s h1 c} (h : State.queued q s) : State.queued q (State.flowPut s h1 c) := by
  grind (ematch := 20) [State.flowPut, State.ctxWrite_queued, queued_mk, foldl_queued]

theorem State.flowDel_queued {s h1} (h : State.queued q s) : State.queued q (State.flowDel s h1) := by
  grind (ematch := 20) [State.flowDel, State.ctxWrite_queued, queued_mk]

theorem State.countFlow_queued {s owner add} (h : State.queued q s) : State.queued q (State.countFlow s owner add) := by
  grind (ematch := 20) [State.countFlow, State.setE_queued]

theorem State.poisonCtx_queued {s h1} (h : State.queued q s) : State.queued q (State.poisonCtx s h1) := by
  grind (ematch := 20) [State.poisonCtx, State.record_queued, State.addE_queued, State.flowDel_queued, State.countFlow_queued]

theorem State.ctxRead_queued {s hs bad} (h : State.queued q s) : State.queued q (State.ctxRead s hs bad) := by
  grind (ematch := 20) [State.ctxRead, State.dmaRead_queued, State.poisonCtx_queued, foldl_queued]

theorem State.modPort_queued {s n f} (h : State.queued q s) : State.queued q (State.modPort s n f) := by
  grind (ematch := 20) [State.modPort, queued_mk]

theorem State.credits_queued {s n} (h : State.queued q s) : State.queued q (State.credits s n) := by
  grind (ematch := 20) [State.credits, State.modPort_queued]

theorem State.egress_queued {s n e2 vid prio launch ref} (h : State.queued q s) : State.queued q (State.egress s n e2 vid prio launch ref) := by
  grind (ematch := 20) [State.egress, State.modPort_queued, State.credits_queued]

theorem State.busActions_queued {s h1 c b f time} (h : State.queued q s) : State.queued q (State.busActions s h1 c b f time) := by
  grind (ematch := 20) [State.busActions, State.deliver_queued, State.convert_queued]

theorem State.messageLookup_queued {s b f time} (h : State.queued q s) : State.queued q (State.messageLookup s b f time) := by
  unfold State.messageLookup
  dsimp only
  repeat' split
  all_goals grind (ematch := 20) [State.addE_queued, State.ctxRead_queued, State.busActions_queued, State.flowPut_queued, queued_mk, foldl_queued, foldl_queued_fst]

theorem State.decap_queued {s vbase e2 time} (h : State.queued q s) : State.queued q (State.decap s vbase e2 time) := by
  grind (ematch := 20) [State.decap, State.addE_queued, State.messageLookup_queued, foldl_queued]

theorem State.flowActions_queued {s h1 c0 e3 len port ref launch time} (h : State.queued q s) : State.queued q (State.flowActions s h1 c0 e3 len port ref launch time).1 := by
  grind (ematch := 20) [State.flowActions, State.flowPut_queued, State.addE_queued, State.egress_queued, State.draw_queued, State.deliver_queued, State.decap_queued, foldl_queued]

theorem State.missAction_queued {s it time} (h : State.queued q s) : State.queued q (State.missAction s it time) := by
  unfold State.missAction
  grind (ematch := 20) [State.deliver_queued, State.addE_queued]

theorem State.matched_queued {s h1 it time} (h : State.queued q s) : State.queued q (State.matched s h1 it time) := by
  grind (ematch := 20) [State.matched, State.flowActions_queued, State.busActions_queued, State.flowPut_queued]

theorem State.tryKeys_queued {s it time a} (h : State.queued q s) : State.queued q (State.tryKeys s it time a) := by
  unfold State.tryKeys
  grind (ematch := 20) [State.missAction_queued, State.addE_queued, State.matched_queued, queued_mk]

theorem execCarveOutReadDone_queued {poison s t} (h : State.queued q s) (e : execCarveOutReadDone poison s = .next t) : State.queued q t := by
  simp only [execCarveOutReadDone, Host.Outcome.next.injEq] at e
  subst e
  refine State.served_queued h fun s h => ?_
  split <;> grind (ematch := 20) [State.ctxRead_queued, State.flowPut_queued, State.matched_queued, State.tryKeys_queued, queued_mk, foldl_queued, foldl_queued_fst]

theorem State.flowInsert_queued {s sl owner key c} (h : State.queued q s) : State.queued q (State.flowInsert s sl owner key c).1 := by
  grind (ematch := 20) [State.flowInsert, State.ctxRead_queued, State.addE_queued, State.countFlow_queued, State.flowPut_queued, State.flowDel_queued]

theorem State.flowAnswer_queued {s sl r} (h : State.queued q s) : State.queued q (State.flowAnswer s sl r) := by
  grind (ematch := 20) [State.flowAnswer, State.setE_queued, State.setB_queued, State.setViBit_queued, queued_mk]

theorem State.onHandle_queued {s sl h2 f} (h : State.queued q s) (hf : ∀ y0 y1, State.queued q y1 → State.queued q (f y0 y1).1) : State.queued q (State.onHandle s sl h2 f) := by
  grind (ematch := 20) [State.onHandle, State.ctxRead_queued, State.flowAnswer_queued]

theorem State.doInsert_queued {s sl v key ctx} (h : State.queued q s) : State.queued q (State.doInsert s sl v key ctx) := by
  grind (ematch := 20) [State.doInsert, State.flowInsert_queued, State.flowAnswer_queued]

theorem State.doRemove_queued {s sl h2} (h : State.queued q s) : State.queued q (State.doRemove s sl h2) := by
  grind (ematch := 20) [State.doRemove, State.onHandle_queued, State.countFlow_queued, State.flowDel_queued]

theorem State.doRead_queued {s sl h2} (h : State.queued q s) : State.queued q (State.doRead s sl h2) := by
  grind (ematch := 20) [State.doRead, State.onHandle_queued, State.flowPut_queued]

theorem State.doFind_queued {s sl key} (h : State.queued q s) : State.queued q (State.doFind s sl key) := by
  grind (ematch := 20) [State.doFind, State.ctxRead_queued, State.flowAnswer_queued, State.onHandle_queued, State.flowPut_queued]

theorem State.doUpdate_queued {s sl h2 ctx} (h : State.queued q s) : State.queued q (State.doUpdate s sl h2 ctx) := by
  grind (ematch := 20) [State.doUpdate, State.onHandle_queued, State.flowPut_queued]

theorem State.doClear_queued {s sl h2} (h : State.queued q s) : State.queued q (State.doClear s sl h2) := by
  grind (ematch := 20) [State.doClear, State.onHandle_queued, State.flowPut_queued]

theorem bulkInsert_queued {v a a2 a3} (h : State.queued q a3) : State.queued q (bulkInsert v a a2 a3).1 := by
  fun_induction bulkInsert v a a2 a3 <;> grind (ematch := 20) [State.flowInsert_queued]

theorem State.doBulk_queued {s v recs} (h : State.queued q s) : State.queued q (State.doBulk s v recs) := by
  grind (ematch := 20) [State.doBulk, bulkInsert_queued, State.setE_queued]

theorem execFlowInsert_queued {sl v key ctx s t} (h : State.queued q s) (e : execFlowInsert sl v key ctx s = .next t) : State.queued q t := by
  grind (ematch := 20) [execFlowInsert, State.served_queued, State.doInsert_queued]

theorem execFlowRemove_queued {sl h1 s t} (h : State.queued q s) (e : execFlowRemove sl h1 s = .next t) : State.queued q t := by
  grind (ematch := 20) [execFlowRemove, State.served_queued, State.doRemove_queued]

theorem execFlowRead_queued {sl h1 s t} (h : State.queued q s) (e : execFlowRead sl h1 s = .next t) : State.queued q t := by
  grind (ematch := 20) [execFlowRead, State.served_queued, State.doRead_queued]

theorem execFlowFind_queued {sl key s t} (h : State.queued q s) (e : execFlowFind sl key s = .next t) : State.queued q t := by
  grind (ematch := 20) [execFlowFind, State.served_queued, State.doFind_queued]

theorem execFlowUpdate_queued {sl h1 ctx s t} (h : State.queued q s) (e : execFlowUpdate sl h1 ctx s = .next t) : State.queued q t := by
  grind (ematch := 20) [execFlowUpdate, State.served_queued, State.doUpdate_queued]

theorem execFlowClear_queued {sl h1 s t} (h : State.queued q s) (e : execFlowClear sl h1 s = .next t) : State.queued q t := by
  grind (ematch := 20) [execFlowClear, State.served_queued, State.doClear_queued]

theorem execFlowBulk_queued {v recs s t} (h : State.queued q s) (e : execFlowBulk v recs s = .next t) : State.queued q t := by
  grind (ematch := 20) [execFlowBulk, State.served_queued, State.doBulk_queued]

/-! ## Machine/MacSec.lean -/

theorem State.secCount_queued {s n} (h : State.queued q s) : State.queued q (State.secCount s n) := by
  grind (ematch := 20) [State.secCount, State.setE_queued, State.pulse_queued]

theorem State.secCheck_queued {s n f r0} (h : State.queued q s) (e : State.secCheck s n f = some r0) : State.queued q r0.1 := by
  grind (ematch := 20) [State.secCheck, State.setE_queued]

theorem State.secAccept_queued {s n b} (h : State.queued q s) : State.queued q (State.secAccept s n b).1 := by
  unfold State.secAccept
  dsimp only
  split
  · exact h
  · split
    · exact h
    · split
      · exact h
      · split
        · rename_i f u w hc
          exact State.secCheck_queued (r0 := (u, w)) h hc
        · exact h

/-! ## Machine/Gateway.lean -/

theorem State.qpSettle_queued {s} (h : State.queued q s) : State.queued q (State.qpSettle s) := by
  grind (ematch := 20) [State.qpSettle, State.complete_queued, State.setE_queued, State.modQp_queued, foldl_queued]

theorem execPortLinkChange_queued {n up s t} (h : State.queued q s) (e : execPortLinkChange n up s = .next t) : State.queued q t := by
  grind (ematch := 20) [execPortLinkChange, State.modPort_queued]

theorem execFrameReceive_queued {n fr fcsOk rxTime s t} (h : State.queued q s) (e : execFrameReceive n fr fcsOk rxTime s = .next t) : State.queued q t := by
  grind (ematch := 20) [execFrameReceive, State.served_queued, State.addE_queued, State.secAccept_queued, State.tryKeys_queued]

theorem State.txOpen_queued {s v q2 idx copies} (h : State.queued q s) : State.queued q (State.txOpen s v q2 idx copies) := by
  grind (ematch := 20) [State.txOpen, State.modQp_queued]

theorem State.txRefuse_queued {s v q2 idx code} (h : State.queued q s) : State.queued q (State.txRefuse s v q2 idx code) := by
  grind (ematch := 20) [State.txRefuse, State.txComplete_queued, State.modQp_queued]

theorem State.txBus_queued {s v q2 idx d rec} (h : State.queued q s) : State.queued q (State.txBus s v q2 idx d rec) := by
  grind (ematch := 20) [State.txBus, State.txRefuse_queued, State.modCan_queued, State.txOpen_queued, State.linBuffer_queued, State.txCopyEnd_queued, State.modLin_queued]

theorem State.txEth_queued {s v q2 idx d buf} (h : State.queued q s) : State.queued q (State.txEth s v q2 idx d buf) := by
  unfold State.txEth
  dsimp only
  repeat' split
  all_goals grind (ematch := 20) [State.ctxRead_queued, State.txRefuse_queued, State.flowActions_queued, State.txOpen_queued, State.txComplete_queued, State.egress_queued, queued_mk, foldl_queued, foldl_queued_fst]

theorem execTxDescriptorReadDone_queued {v q1 s t} (h : State.queued q s) (e : execTxDescriptorReadDone v q1 s = .next t) : State.queued q t := by
  simp only [execTxDescriptorReadDone, Host.Outcome.next.injEq] at e
  subst e
  refine State.served_queued h fun s h => ?_
  split <;> grind (ematch := 20) [State.dmaRead_queued, State.qpStop_queued, State.record_queued, State.txRefuse_queued, State.txBus_queued, State.txEth_queued, queued_mk, foldl_queued, foldl_queued_fst]

theorem execAcfFrameBuild_queued {k s t} (h : State.queued q s) (e : execAcfFrameBuild k s = .next t) : State.queued q t := by
  simp only [execAcfFrameBuild, Host.Outcome.next.injEq] at e
  subst e
  refine State.served_queued h fun s h => ?_
  split <;> grind (ematch := 20) [State.modWin_queued, State.addE_queued, State.setE_queued, State.ctxRead_queued, State.convDrop_queued, State.flowActions_queued, queued_mk, foldl_queued, foldl_queued_fst]

theorem State.wireBytes_queued {s n f} (h : State.queued q s) : State.queued q (State.wireBytes s n f).1 := by
  grind (ematch := 20) [State.wireBytes, queued_mk]

theorem State.egDrop_queued {s n q2 f code count} (h : State.queued q s) : State.queued q (State.egDrop s n q2 f code count) := by
  grind (ematch := 20) [State.egDrop, State.modPort_queued, State.addE_queued, State.txCopyEnd_queued]

theorem State.creditLoss_queued {s n q2 octets} (h : State.queued q s) : State.queued q (State.creditLoss s n q2 octets) := by
  grind (ematch := 20) [State.creditLoss, State.modPort_queued]

theorem State.txHead_queued {s n q2 cut} (h : State.queued q s) : State.queued q (State.txHead s n q2 cut) := by
  unfold State.txHead
  dsimp only
  repeat' split
  all_goals grind (ematch := 20) [State.egDrop_queued, State.wireBytes_queued, State.portCheck_queued, State.creditLoss_queued, State.modPort_queued, State.secCount_queued, State.txBegun_queued, queued_mk, foldl_queued, foldl_queued_fst]

theorem State.txResume_queued {s n r} (h : State.queued q s) : State.queued q (State.txResume s n r) := by
  grind (ematch := 20) [State.txResume, State.modPort_queued]

theorem execFrameTransmitStart_queued {n q1 s t} (h : State.queued q s) (e : execFrameTransmitStart n q1 s = .next t) : State.queued q t := by
  simp only [execFrameTransmitStart, Host.Outcome.next.injEq] at e
  subst e
  refine State.served_queued h fun s h => ?_
  split <;> grind (ematch := 20) [State.qpSettle_queued, State.credits_queued, State.txHead_queued, State.txResume_queued, queued_mk, foldl_queued, foldl_queued_fst]

theorem execFrameTransmitEnd_queued {n s t} (h : State.queued q s) (e : execFrameTransmitEnd n s = .next t) : State.queued q t := by
  simp only [execFrameTransmitEnd, Host.Outcome.next.injEq] at e
  subst e
  refine State.served_queued h fun s h => ?_
  refine State.qpSettle_queued ?_
  have h1 := State.credits_queued (n := n) h
  split
  · exact h1
  · split
    · exact State.txCopyEnd_queued (State.addE_queued (State.addE_queued (State.addE_queued (State.modPort_queued (State.creditLoss_queued h1)))))
    · exact State.addE_queued (State.addE_queued (State.modPort_queued (State.creditLoss_queued h1)))

theorem execLaunchTimeReached_queued {n q1 s t} (h : State.queued q s) (e : execLaunchTimeReached n q1 s = .next t) : State.queued q t := by
  grind (ematch := 20) [execLaunchTimeReached, State.modPort_queued]

theorem execShaperCreditRecovered_queued {n q1 s t} (h : State.queued q s) (e : execShaperCreditRecovered n q1 s = .next t) : State.queued q t := by
  grind (ematch := 20) [execShaperCreditRecovered, State.credits_queued, State.modPort_queued]

theorem execGateControlIntervalEnd_queued {n s t} (h : State.queued q s) (e : execGateControlIntervalEnd n s = .next t) : State.queued q t := by
  grind (ematch := 20) [execGateControlIntervalEnd, State.modPort_queued, State.credits_queued]

theorem State.gclArm_queued {s n} (h : State.queued q s) : State.queued q (State.gclArm s n) := by
  grind (ematch := 20) [State.gclArm, State.modPort_queued]

theorem execGclSwitch_queued {n s t} (h : State.queued q s) (e : execGclSwitch n s = .next t) : State.queued q t := by
  grind (ematch := 20) [execGclSwitch, State.modPort_queued, State.setB_queued, State.credits_queued]

theorem State.modGate_queued {s g f} (h : State.queued q s) : State.queued q (State.modGate s g f) := by
  grind (ematch := 20) [State.modGate, queued_mk]

theorem State.sglArm_queued {s g} (h : State.queued q s) : State.queued q (State.sglArm s g) := by
  grind (ematch := 20) [State.sglArm, State.modGate_queued, foldl_queued]

theorem execSglSwitch_queued {g s t} (h : State.queued q s) (e : execSglSwitch g s = .next t) : State.queued q t := by
  grind (ematch := 20) [execSglSwitch, State.modGate_queued, State.setB_queued]

theorem execStreamGateIntervalEnd_queued {g s t} (h : State.queued q s) (e : execStreamGateIntervalEnd g s = .next t) : State.queued q t := by
  grind (ematch := 20) [execStreamGateIntervalEnd, State.modGate_queued]

theorem execPreemptVerifyResponse_queued {n ok s t} (h : State.queued q s) (e : execPreemptVerifyResponse n ok s = .next t) : State.queued q t := by
  grind (ematch := 20) [execPreemptVerifyResponse, State.modPort_queued]

theorem State.modGptp_queued {s k f} (h : State.queued q s) : State.queued q (State.modGptp s k f) := by
  grind (ematch := 20) [State.modGptp, queued_mk]

theorem State.sendSync_queued {s n} (h : State.queued q s) : State.queued q (State.sendSync s n) := by
  grind (ematch := 20) [State.sendSync, State.egress_queued, queued_mk]

theorem execGptpMessage_queued {k e1 s t} (h : State.queued q s) (e : execGptpMessage k e1 s = .next t) : State.queued q t := by
  simp only [execGptpMessage, Host.Outcome.next.injEq] at e
  subst e
  split <;> grind (ematch := 20) [State.modGptp_queued, State.setE_queued, queued_mk, foldl_queued, foldl_queued_fst]

theorem execGptpTimer_queued {k e1 s t} (h : State.queued q s) (e : execGptpTimer k e1 s = .next t) : State.queued q t := by
  simp only [execGptpTimer, Host.Outcome.next.injEq] at e
  subst e
  split <;> grind (ematch := 20) [State.sendSync_queued, State.modGptp_queued, queued_mk, foldl_queued, foldl_queued_fst]

theorem execMicrocodeWatchdogExpiry_queued {s t} (h : State.queued q s) (e : execMicrocodeWatchdogExpiry s = .next t) : State.queued q t := by
  grind (ematch := 20) [execMicrocodeWatchdogExpiry, State.pulse_queued, queued_mk]

/-! ## Machine/BusOps.lean -/

theorem State.pullFrames_queued {s v q2 idx} (h : State.queued q s) : State.queued q (State.pullFrames s v q2 idx) := by
  grind (ematch := 20) [State.pullFrames, queued_mk]

theorem State.qpDisable_queued {s v q2 a} (h : State.queued q s) : State.queued q (State.qpDisable s v q2 a) := by
  grind (ematch := 20) [State.qpDisable, State.modQp_queued, State.txComplete_queued, State.pullFrames_queued, State.qpSettle_queued, State.rxComplete_queued, foldl_queued]

theorem State.canState_queued {s n st} (h : State.queued q s) : State.queued q (State.canState s n st) := by
  grind (ematch := 20) [State.canState, State.pulse_queued, State.modCan_queued]

theorem State.canFlush_queued {s n} (h : State.queued q s) : State.queued q (State.canFlush s n) := by
  grind (ematch := 20) [State.canFlush, State.canDiscard_queued, State.modCan_queued, foldl_queued]

theorem State.canStopNow_queued {s n} (h : State.queued q s) : State.queued q (State.canStopNow s n) := by
  grind (ematch := 20) [State.canStopNow, State.modCan_queued, State.qpSettle_queued, State.completeIf_queued, State.canFlush_queued, State.canState_queued]

theorem State.canStop_queued {s n} (h : State.queued q s) : State.queued q (State.canStop s n) := by
  grind (ematch := 20) [State.canStop, State.modCan_queued, State.canStopNow_queued]

theorem State.canStart_queued {s n} (h : State.queued q s) : State.queued q (State.canStart s n) := by
  grind (ematch := 20) [State.canStart, State.canState_queued, State.modCan_queued]

theorem State.canConfine_queued {s n} (h : State.queued q s) : State.queued q (State.canConfine s n) := by
  grind (ematch := 20) [State.canConfine, State.canFlush_queued, State.addE_queued, State.canState_queued]

theorem State.canDrop_queued {s n k t3 code} (h : State.queued q s) : State.queued q (State.canDrop s n k t3 code) := by
  grind (ematch := 20) [State.canDrop, State.modCan_queued, State.txCopyEnd_queued]

theorem execCanArbitrationAttempt_queued {n s t} (h : State.queued q s) (e : execCanArbitrationAttempt n s = .next t) : State.queued q t := by
  simp only [execCanArbitrationAttempt, Host.Outcome.next.injEq] at e
  subst e
  refine State.served_queued h fun s h => ?_
  split <;> grind (ematch := 20) [State.qpSettle_queued, State.canDrop_queued, State.canCheck_queued, State.modCan_queued, State.txBegun_queued, queued_mk, foldl_queued, foldl_queued_fst]

theorem execLoadHoldEnd_queued {n s t} (h : State.queued q s) (e : execLoadHoldEnd n s = .next t) : State.queued q t := by
  grind (ematch := 20) [execLoadHoldEnd, State.modCan_queued]

theorem State.canRequeue_queued {s n t2} (h : State.queued q s) : State.queued q (State.canRequeue s n t2) := by
  grind (ematch := 20) [State.canRequeue, State.modQp_queued, State.modCan_queued]

theorem execCanAttemptEnd_queued {n e1 dur s t} (h : State.queued q s) (e : execCanAttemptEnd n e1 dur s = .next t) : State.queued q t := by
  simp only [execCanAttemptEnd, Host.Outcome.next.injEq] at e
  subst e
  refine State.served_queued h fun s h => ?_
  split <;> grind (ematch := 20) [State.qpSettle_queued, State.modCan_queued, State.addE_queued, State.txCopyEnd_queued, State.canRequeue_queued, State.canDiscard_queued, State.canConfine_queued, State.canStopNow_queued, queued_mk, foldl_queued, foldl_queued_fst]

theorem execCanBusoffRecovery_queued {n s t} (h : State.queued q s) (e : execCanBusoffRecovery n s = .next t) : State.queued q t := by
  grind (ematch := 20) [execCanBusoffRecovery, State.canState_queued, State.modCan_queued]

theorem execCanErrorDetected_queued {n e1 s t} (h : State.queued q s) (e : execCanErrorDetected n e1 s = .next t) : State.queued q t := by
  simp only [execCanErrorDetected, Host.Outcome.next.injEq] at e
  subst e
  refine State.served_queued h fun s h => ?_
  split <;> grind (ematch := 20) [State.canConfine_queued, State.modCan_queued, State.addE_queued, queued_mk, foldl_queued, foldl_queued_fst]

theorem execCanIntegrationEnd_queued {n s t} (h : State.queued q s) (e : execCanIntegrationEnd n s = .next t) : State.queued q t := by
  grind (ematch := 20) [execCanIntegrationEnd, State.canState_queued]

theorem State.canReceive_queued {s n} (h : State.queued q s) : State.queued q (State.canReceive s n) := by
  grind (ematch := 20) [State.canReceive, State.draw_queued, State.canConfine_queued, State.modCan_queued, State.addE_queued]

theorem State.linStopNow_queued {s m} (h : State.queued q s) : State.queued q (State.linStopNow s m) := by
  grind (ematch := 20) [State.linStopNow, State.modLin_queued, State.txCopyEnd_queued, State.qpSettle_queued, State.completeIf_queued, State.pulse_queued, foldl_queued]

theorem State.linStop_queued {s m} (h : State.queued q s) : State.queued q (State.linStop s m) := by
  grind (ematch := 20) [State.linStop, State.modLin_queued, State.linStopNow_queued]

theorem State.linStart_queued {s m} (h : State.queued q s) : State.queued q (State.linStart s m) := by
  grind (ematch := 20) [State.linStart, State.pulse_queued, State.modLin_queued]

theorem State.linHeader_queued {s m id} (h : State.queued q s) : State.queued q (State.linHeader s m id) := by
  unfold State.linHeader
  dsimp only
  repeat' split
  all_goals grind (ematch := 20) [State.addE_queued, State.modLin_queued, State.qpSettle_queued, State.txCopyEnd_queued, State.txBegun_queued, queued_mk, foldl_queued, foldl_queued_fst]

theorem execLinHeader_queued {m id s t} (h : State.queued q s) (e : execLinHeader m id s = .next t) : State.queued q t := by
  grind (ematch := 20) [execLinHeader, State.served_queued, State.linHeader_queued]

theorem execLinScheduleSlot_queued {m s t} (h : State.queued q s) (e : execLinScheduleSlot m s = .next t) : State.queued q t := by
  grind (ematch := 20) [execLinScheduleSlot, State.served_queued, State.linHeader_queued, State.modLin_queued]

theorem State.linDone_queued {s m} (h : State.queued q s) : State.queued q (State.linDone s m) := by
  grind (ematch := 20) [State.linDone, State.modLin_queued, State.linStopNow_queued]

theorem execLinResponseReceive_queued {m data sum s t} (h : State.queued q s) (e : execLinResponseReceive m data sum s = .next t) : State.queued q t := by
  grind (ematch := 20) [execLinResponseReceive, State.served_queued, State.linDone_queued, State.addE_queued, State.tryKeys_queued]

theorem execLinResponseTimeout_queued {m s t} (h : State.queued q s) (e : execLinResponseTimeout m s = .next t) : State.queued q t := by
  grind (ematch := 20) [execLinResponseTimeout, State.served_queued, State.linDone_queued, State.addE_queued]

theorem State.gatewayStop_queued {s} (h : State.queued q s) : State.queued q (State.gatewayStop s) := by
  grind (ematch := 20) [State.gatewayStop, State.qpDisable_queued, State.canStopNow_queued, State.linStopNow_queued, foldl_queued]

/-! ## Machine/Gpio.lean -/

theorem State.gpioLine_queued {s} (h : State.queued q s) : State.queued q (State.gpioLine s) := by
  grind (ematch := 20) [State.gpioLine, State.setLine_queued]

theorem State.gpioEdge_queued {s n level} (h : State.queued q s) : State.queued q (State.gpioEdge s n level) := by
  grind (ematch := 20) [State.gpioEdge, State.gpioLine_queued, queued_mk]

theorem execGpioEdge_queued {n level s t} (h : State.queued q s) (e : execGpioEdge n level s = .next t) : State.queued q t := by
  grind (ematch := 20) [execGpioEdge, State.gpioEdge_queued]

theorem State.gpioClear_queued {s v edges} (h : State.queued q s) : State.queued q (State.gpioClear s v edges) := by
  grind (ematch := 20) [State.gpioClear, State.gpioLine_queued, queued_mk]

theorem execGpioIrqStat_queued {m v edges s t} (h : State.queued q s) (e : execGpioIrqStat m v edges s = .next t) : State.queued q t := by
  grind (ematch := 20) [execGpioIrqStat, State.gpioClear_queued, queued_mk]

theorem State.gpioWrite_queued {s off v t} (h : State.queued q s) (e : State.gpioWrite s off v = some t) : State.queued q t := by
  unfold State.gpioWrite at e
  grind (ematch := 20) [State.gpioLine_queued, State.gpioClear_queued, queued_mk]

/-! ## Machine/Irq.lean -/

theorem State.claim_queued {s k w} (h : State.queued q s) : State.queued q (State.claim s k w) := by
  grind (ematch := 20) [State.claim, State.setSrc_queued]

theorem State.irqEnd_queued {s w id} (h : State.queued q s) : State.queued q (State.irqEnd s w id) := by
  grind (ematch := 20) [State.irqEnd, State.setSrc_queued]

theorem State.ackRead_queued {s w offer acc} (h : State.queued q s) : State.queued q (State.ackRead s w offer acc).1 := by
  unfold State.ackRead
  grind (ematch := 20) [State.claim_queued]

theorem State.wldErr_queued {s} (h : State.queued q s) : State.queued q (State.wldErr s) := by
  grind (ematch := 20) [State.wldErr, queued_mk]

theorem State.cfgWrite_queued {s m k v t} (h : State.queued q s) (e : State.cfgWrite s m k v = some t) : State.queued q t := by
  grind (ematch := 20) [State.cfgWrite, State.putSrc_queued, State.setSrc_queued]

theorem State.stateWrite_queued {s m k v t} (h : State.queued q s) (e : State.stateWrite s m k v = some t) : State.queued q t := by
  grind (ematch := 20) [State.stateWrite, State.pulse_queued, State.setSrc_queued]

theorem State.srcWrite_queued {s m r v} (h : State.queued q s) : State.queued q (State.srcWrite s m r v) := by
  have w {k} : State.queued q ((s.stateWrite m k v).getD s.wldErr) :=
    getD_queued (fun _ e => State.stateWrite_queued h e) (State.wldErr_queued h)
  unfold State.srcWrite
  split
  · split
    · exact h
    · exact w
  · split
    · exact w
    · exact State.wldErr_queued h

theorem State.injWrite_queued {s m p v t} (h : State.queued q s) (e : State.injWrite s m p v = some t) : State.queued q t := by
  grind (ematch := 20) [State.injWrite, State.pulse_queued]

theorem State.sgiWrite_queued {s m v} (h : State.queued q s) : State.queued q (State.sgiWrite s m v) := by
  grind (ematch := 20) [State.sgiWrite, State.pulse_queued, foldl_queued]

theorem State.irqRegRead_queued {s m off acc} (h : State.queued q s) : State.queued q (State.irqRegRead s m off acc).1 := by
  unfold State.irqRegRead
  grind (ematch := 30) (splits := 30) (instances := 4000) [State.ackRead_queued]

theorem State.irqRegWrite_queued {s m off v mask t} (h : State.queued q s) (e : State.irqRegWrite s m off v mask = .ok t) : State.queued q t := by
  grind (ematch := 30) (splits := 30) (instances := 4000) [State.irqRegWrite, State.cfgWrite_queued, State.stateWrite_queued, State.injWrite_queued, State.irqEnd_queued, State.sgiWrite_queued, queued_mk]

theorem execIrqInputAssert_queued {r level s t} (h : State.queued q s) (e : execIrqInputAssert r level s = .next t) : State.queued q t := by
  unfold execIrqInputAssert at e
  grind (ematch := 20) [State.setLine_queued]

theorem execIrqPulse_queued {r s t} (h : State.queued q s) (e : execIrqPulse r s = .next t) : State.queued q t := by
  unfold execIrqPulse at e
  grind (ematch := 20) [State.pulse_queued]

theorem execIrqAck_queued {m c acc s t} (h : State.queued q s) (e : execIrqAck m c acc s = .next t) : State.queued q t := by
  grind (ematch := 20) [execIrqAck, State.wldErr_queued, State.ackRead_queued, queued_mk]

theorem execIrqEoi_queued {m c v s t} (h : State.queued q s) (e : execIrqEoi m c v s = .next t) : State.queued q t := by
  grind (ematch := 20) [execIrqEoi, State.irqEnd_queued, State.wldErr_queued]

theorem execIrqSgi_queued {m c v s t} (h : State.queued q s) (e : execIrqSgi m c v s = .next t) : State.queued q t := by
  grind (ematch := 20) [execIrqSgi, State.sgiWrite_queued, State.wldErr_queued]

theorem execSetpend_queued {m r v s t} (h : State.queued q s) (e : execSetpend m r v s = .next t) : State.queued q t := by
  grind (ematch := 20) [execSetpend, State.srcWrite_queued]

theorem execClrpend_queued {m r v s t} (h : State.queued q s) (e : execClrpend m r v s = .next t) : State.queued q t := by
  grind (ematch := 20) [execClrpend, State.srcWrite_queued]

theorem execVirqInj_queued {m p v s t} (h : State.queued q s) (e : execVirqInj m p v s = .next t) : State.queued q t := by
  grind (ematch := 20) [execVirqInj, State.injWrite_queued, State.wldErr_queued, getD_queued]

theorem execVirqAck_queued {m p acc s t} (h : State.queued q s) (e : execVirqAck m p acc s = .next t) : State.queued q t := by
  grind (ematch := 20) [execVirqAck, State.wldErr_queued, State.ackRead_queued, queued_mk]

theorem execVirqEoi_queued {m p v s t} (h : State.queued q s) (e : execVirqEoi m p v s = .next t) : State.queued q t := by
  grind (ematch := 20) [execVirqEoi, State.irqEnd_queued, State.wldErr_queued]

theorem execMsiDoorbell_queued {k size v s t} (h : State.queued q s) (e : execMsiDoorbell k size v s = .next t) : State.queued q t := by
  grind (ematch := 20) [execMsiDoorbell, State.pulse_queued, State.record_queued]

/-! ## Machine/Island.lean -/

theorem State.modIsl_queued {s i f} (h : State.queued q s) : State.queued q (State.modIsl s i f) := by
  grind (ematch := 20) [State.modIsl, queued_mk]

theorem State.modTc_queued {s i k f} (h : State.queued q s) : State.queued q (State.modTc s i k f) := by
  grind (ematch := 20) [State.modTc, State.modIsl_queued]

theorem State.eachTc_queued {s i f} (h : State.queued q s) : State.queued q (State.eachTc s i f) := by
  grind (ematch := 20) [State.eachTc, State.modIsl_queued]

theorem State.copyMem_queued {s dst src n} (h : State.queued q s) : State.queued q (State.copyMem s dst src n) := by
  exact queued_mk (State.clearTags_queued (State.eccWrite_queued h))

theorem State.copyTcms_queued {s i k j} (h : State.queued q s) : State.queued q (State.copyTcms s i k j) := by
  grind (ematch := 20) [State.copyTcms, State.copyMem_queued, queued_mk, foldl_queued]

theorem State.loadImage_queued {s i k} (h : State.queued q s) : State.queued q (State.loadImage s i k) := by
  grind (ematch := 20) [State.loadImage, State.copyMem_queued]

theorem State.wipeTcms_queued {s i k} (h : State.queued q s) : State.queued q (State.wipeTcms s i k) := by
  have w (s : State) (a : Nat) (h : State.queued q s) : State.queued q
      { (s.eccWrite a 0x40000).clearTags a 0x40000 with
        mem := Memory.write s.mem a (slice (Config.freeBytes s.fresh) 0 0x40000), fresh := s.fresh + 1 } :=
    queued_mk (State.clearTags_queued (State.eccWrite_queued h))
  exact w _ _ (w _ _ h)

theorem State.safeNUpdate_queued {s} (h : State.queued q s) : State.queued q (State.safeNUpdate s) := by
  grind (ematch := 20) [State.safeNUpdate, queued_mk]

theorem State.setVote_queued {s i st} (h : State.queued q s) : State.queued q (State.setVote s i st) := by
  grind (ematch := 20) [State.setVote, State.safeNUpdate_queued, State.pulse_queued, State.modIsl_queued]

theorem State.hardSafe_queued {s i} (h : State.queued q s) : State.queued q (State.hardSafe s i) := by
  grind (ematch := 20) [State.hardSafe, State.setE_queued, State.pinSafe_queued, foldl_queued]

theorem State.applyPins_queued {s i} (h : State.queued q s) : State.queued q (State.applyPins s i) := by
  grind (ematch := 20) [State.applyPins, State.applyPin_queued, foldl_queued]

theorem State.endClaims_queued {s i} (h : State.queued q s) : State.queued q (State.endClaims s i) := by
  grind (ematch := 20) [State.endClaims, State.irqEnd_queued, State.modIsl_queued, foldl_queued]

theorem State.safeEntry_queued {s i cause slots} (h : State.queued q s) : State.queued q (State.safeEntry s i cause slots) := by
  unfold State.safeEntry
  grind (ematch := 20) [State.record_queued, State.ledgerEvent_queued, State.pinsSafe_queued, State.modIsl_queued, State.eachTc_queued, State.setVote_queued, State.endClaims_queued]

theorem State.toHeld_queued {s i} (h : State.queued q s) : State.queued q (State.toHeld s i) := by
  grind (ematch := 20) [State.toHeld, State.pinsSafe_queued, State.modIsl_queued, State.eachTc_queued, State.setVote_queued, State.setE_queued, State.endClaims_queued]

theorem State.fence_queued {s i k} (h : State.queued q s) : State.queued q (State.fence s i k) := by
  grind (ematch := 20) [State.fence, State.modTc_queued, State.modIsl_queued]

theorem State.startTest_queued {s i k spare} (h : State.queued q s) : State.queued q (State.startTest s i k spare) := by
  grind (ematch := 20) [State.startTest, State.modIsl_queued]

theorem State.noMajorityAfter_queued {s i k} (h : State.queued q s) : State.queued q (State.noMajorityAfter s i k) := by
  grind (ematch := 20) [State.noMajorityAfter, State.hardSafe_queued, State.pulse_queued, State.setE_queued, State.modIsl_queued, State.modTc_queued, State.safeEntry_queued, foldl_queued]

theorem State.mismatch_queued {s i out cause} (h : State.queued q s) : State.queued q (State.mismatch s i out cause) := by
  unfold State.mismatch
  dsimp only
  split
  · exact h
  · split
    · exact State.noMajorityAfter_queued h
    · have k {a} := State.hardSafe_queued (i := i) (State.pulse_queued (k := voterSrc i) (State.setE_queued (idx := voteIdx i) (sub := 4) (v := cause)
        (State.setE_queued (idx := voteIdx i) (sub := 2) (v := a) (State.addE_queued (idx := voteIdx i) (sub := 3) (w := 32) (k := 1) h))))
      split
      · exact State.setVote_queued (State.modIsl_queued (State.startTest_queued (State.fence_queued k)))
      · exact State.safeEntry_queued k

theorem State.closeWindow_queued {s i k} (h : State.queued q s) : State.queued q (State.closeWindow s i k) := by
  grind (ematch := 20) [State.closeWindow, State.modTc_queued, State.modIsl_queued]

theorem execPennantWindowClose_queued {i k s t} (h : State.queued q s) (e : execPennantWindowClose i k s = .next t) : State.queued q t := by
  grind (ematch := 20) [execPennantWindowClose, State.closeWindow_queued]

theorem State.dropPen_queued {s i seq} (h : State.queued q s) : State.queued q (State.dropPen s i seq) := by
  grind (ematch := 20) [State.dropPen, State.modIsl_queued, State.setE_queued, State.eachTc_queued]

theorem State.decidePen_queued {s i p late} (h : State.queued q s) : State.queued q (State.decidePen s i p late) := by
  grind (ematch := 20) [State.decidePen, State.dropPen_queued, State.modIsl_queued, State.mismatch_queued]

theorem State.settlePens_queued {s i} (h : State.queued q s) : State.queued q (State.settlePens s i) := by
  grind (ematch := 20) [State.settlePens, State.decidePen_queued, foldl_queued]

theorem State.dropOut_queued {s i k pos} (h : State.queued q s) : State.queued q (State.dropOut s i k pos) := by
  grind (ematch := 20) [State.dropOut, State.modTc_queued]

theorem State.putOut_queued {s i pos p} (h : State.queued q s) : State.queued q (State.putOut s i pos p) := by
  grind (ematch := 20) [State.putOut, State.modIsl_queued]

theorem State.decideOut_queued {s i p late} (h : State.queued q s) : State.queued q (State.decideOut s i p late) := by
  unfold State.decideOut
  dsimp only
  repeat' split
  all_goals grind (ematch := 20) [State.modIsl_queued, State.dropOut_queued, State.mismatch_queued, State.putOut_queued, foldl_queued, foldl_queued_fst]

theorem State.settleOuts_queued {s i} (h : State.queued q s) : State.queued q (State.settleOuts s i) := by
  grind (ematch := 20) [State.settleOuts, State.decideOut_queued, foldl_queued]

theorem State.settlePort_queued {s i} (h : State.queued q s) : State.queued q (State.settlePort s i) := by
  grind (ematch := 20) [State.settlePort, State.mismatch_queued, State.addE_queued]

theorem State.settleVoter_queued {s i before} (h : State.queued q s) : State.queued q (State.settleVoter s i before) := by
  grind (ematch := 20) [State.settleVoter, State.settlePort_queued, State.settleOuts_queued, State.settlePens_queued]

theorem execPennantComparison_queued {i k s t} (h : State.queued q s) (e : execPennantComparison i k s = .next t) : State.queued q t := by
  grind (ematch := 20) [execPennantComparison, State.modTc_queued, State.modIsl_queued, State.setE_queued, State.settleVoter_queued, State.decidePen_queued]

theorem execPennantSkewTimeout_queued {i s t} (h : State.queued q s) (e : execPennantSkewTimeout i s = .next t) : State.queued q t := by
  grind (ematch := 20) [execPennantSkewTimeout, State.settleVoter_queued, State.decidePen_queued]

theorem execOutputQueueComparison_queued {i k s t} (h : State.queued q s) (e : execOutputQueueComparison i k s = .next t) : State.queued q t := by
  grind (ematch := 20) [execOutputQueueComparison, State.settleVoter_queued, State.decideOut_queued, State.putOut_queued]

theorem execOutputSkewTimeout_queued {i s t} (h : State.queued q s) (e : execOutputSkewTimeout i s = .next t) : State.queued q t := by
  grind (ematch := 20) [execOutputSkewTimeout, State.settleVoter_queued, State.decideOut_queued]

theorem State.coreMismatch_queued {s i k cause} (h : State.queued q s) : State.queued q (State.coreMismatch s i k cause) := by
  grind (ematch := 20) [State.coreMismatch, State.settleVoter_queued, State.mismatch_queued]

theorem State.noMajority_queued {s i} (h : State.queued q s) : State.queued q (State.noMajority s i) := by
  grind (ematch := 20) [State.noMajority, State.settleVoter_queued, State.mismatch_queued]

theorem State.retireSlot_queued {s i k counted} (h : State.queued q s) : State.queued q (State.retireSlot s i k counted) := by
  grind (ematch := 20) [State.retireSlot, State.record_queued, State.modTc_queued, State.retireEntry_queued]

theorem State.replaceSlot_queued {s i} (h : State.queued q s) : State.queued q (State.replaceSlot s i) := by
  grind (ematch := 20) [State.replaceSlot, State.startTest_queued, State.modTc_queued, State.setVote_queued, State.modIsl_queued]

theorem State.setGood_queued {s i k pass} (h : State.queued q s) : State.queued q (State.setGood s i k pass) := by
  grind (ematch := 20) [State.setGood, State.modIsl_queued]

theorem State.testsDone_queued {s i} (h : State.queued q s) : State.queued q (State.testsDone s i) := by
  grind (ematch := 20) [State.testsDone, State.modIsl_queued]

theorem execSelfTestDone_queued {i k pass s t} (h : State.queued q s) (e : execSelfTestDone i k pass s = .next t) : State.queued q t := by
  grind (ematch := 20) [execSelfTestDone, State.setGood_queued, State.wipeTcms_queued, State.testsDone_queued, State.retireSlot_queued, State.setVote_queued, State.modIsl_queued, State.replaceSlot_queued, State.record_queued]

theorem execInjectionTestDone_queued {i failed s t} (h : State.queued q s) (e : execInjectionTestDone i failed s = .next t) : State.queued q t := by
  grind (ematch := 20) [execInjectionTestDone, State.modIsl_queued, State.setE_queued, State.setVote_queued, State.record_queued, State.eachTc_queued, State.loadImage_queued, State.applyPins_queued, foldl_queued]

theorem execRejoinCopyDone_queued {i s t} (h : State.queued q s) (e : execRejoinCopyDone i s = .next t) : State.queued q t := by
  grind (ematch := 20) [execRejoinCopyDone, State.setVote_queued, State.copyTcms_queued]

theorem execRejoinCaptureDone_queued {i s t} (h : State.queued q s) (e : execRejoinCaptureDone i s = .next t) : State.queued q t := by
  grind (ematch := 20) [execRejoinCaptureDone, State.modTc_queued, State.modIsl_queued, State.setVote_queued, State.setE_queued]

theorem State.restartHold_queued {s i t} (h : State.queued q s) (e : State.restartHold s i = some t) : State.queued q t := by
  grind (ematch := 20) [State.restartHold, State.toHeld_queued]

theorem State.releaseIsland_queued {s i} (h : State.queued q s) : State.queued q (State.releaseIsland s i) := by
  grind (ematch := 20) [State.releaseIsland, State.eachTc_queued, State.modIsl_queued, State.testsDone_queued, State.setVote_queued]

theorem State.restartRelease_queued {s i t} (h : State.queued q s) (e : State.restartRelease s i = some t) : State.queued q t := by
  grind (ematch := 20) [State.restartRelease, State.releaseIsland_queued]

theorem State.hsRelease_queued {s i v t} (h : State.queued q s) (e : State.hsRelease s i v = some t) : State.queued q t := by
  grind (ematch := 20) [State.hsRelease, State.setE_queued, State.applyPin_queued, foldl_queued]

theorem State.spiStart_queued {s i k v} (h : State.queued q s) : State.queued q (State.spiStart s i k v) := by
  grind (ematch := 20) [State.spiStart, State.modIsl_queued]

theorem State.ring_queued {s i d v} (h : State.queued q s) : State.queued q (State.ring s i d v) := by
  grind (ematch := 20) [State.ring, State.pulse_queued]

theorem State.islEnd_queued {s i id} (h : State.queued q s) : State.queued q (State.islEnd s i id) := by
  grind (ematch := 20) [State.islEnd, State.modIsl_queued, State.irqEnd_queued]

theorem State.islWrite_queued {s i off v mask t} (h : State.queued q s) (e : State.islWrite s i off v mask = some t) : State.queued q t := by
  grind (ematch := 20) [State.islWrite, State.applyPin_queued, State.modPin_queued, State.modIsl_queued, State.spiStart_queued, State.islEnd_queued, State.ring_queued]

theorem execIslEoi_queued {i id s t} (h : State.queued q s) (e : execIslEoi i id s = .next t) : State.queued q t := by
  grind (ematch := 20) [execIslEoi, State.islEnd_queued]

theorem execDoorbell_queued {_m i d v s t} (h : State.queued q s) (e : execDoorbell _m i d v s = .next t) : State.queued q t := by
  grind (ematch := 20) [execDoorbell, State.ring_queued, queued_mk]

theorem execSpiData_queued {i k v s t} (h : State.queued q s) (e : execSpiData i k v s = .next t) : State.queued q t := by
  grind (ematch := 20) [execSpiData, State.modIsl_queued, State.spiStart_queued]

theorem execSpiTransferDone_queued {i k rx s t} (h : State.queued q s) (e : execSpiTransferDone i k rx s = .next t) : State.queued q t := by
  grind (ematch := 20) [execSpiTransferDone, State.modIsl_queued]

theorem execCaptureInputEdge_queued {i n level s t} (h : State.queued q s) (e : execCaptureInputEdge i n level s = .next t) : State.queued q t := by
  grind (ematch := 20) [execCaptureInputEdge, State.modIsl_queued]

theorem execIslandInterruptOffer_queued {i s t} (h : State.queued q s) (e : execIslandInterruptOffer i s = .next t) : State.queued q t := by
  grind (ematch := 20) [execIslandInterruptOffer, State.modIsl_queued, State.claim_queued]

/-! ## Machine/Husk.lean -/

theorem State.clearSlot_queued {s x1 c} (h : State.queued q s) : State.queued q (State.clearSlot s x1 c) := by
  grind (ematch := 20) [State.clearSlot, State.memWrite_queued]

theorem State.huskClaim_queued {s m h2} (h : State.queued q s) : State.queued q (State.huskClaim s m h2).1 := by
  grind (ematch := 20) [State.huskClaim, State.huskPut_queued]

theorem State.huskSeal_queued {s h1} (h : State.queued q s) : State.queued q (State.huskSeal s h1).1 := by
  grind (ematch := 20) [State.huskSeal, State.huskPut_queued]

theorem State.huskDestroy_queued {s h1} (h : State.queued q s) : State.queued q (State.huskDestroy s h1).1 := by
  grind (ematch := 20) [State.huskDestroy, State.huskPut_queued, State.clearSlot_queued, queued_mk, foldl_queued]

theorem State.huskControl_queued {s m h2 v} (h : State.queued q s) : State.queued q (State.huskControl s m h2 v).1 := by
  grind (ematch := 20) [State.huskControl, State.huskClaim_queued, State.huskSeal_queued, State.huskDestroy_queued]

theorem execHuskSealingDone_queued {h0 s t} (h : State.queued q s) (e : execHuskSealingDone h0 s = .next t) : State.queued q t := by
  grind (ematch := 20) [execHuskSealingDone, State.huskPut_queued]

theorem State.zeroLine_queued {s line} (h : State.queued q s) : State.queued q (State.zeroLine s line) := by
  grind (ematch := 20) [State.zeroLine, State.dci_queued, State.storeLine_queued, queued_mk]

theorem State.zeroRange_queued {s r} (h : State.queued q s) : State.queued q (State.zeroRange s r) := by
  grind (ematch := 20) [State.zeroRange, State.zeroLine_queued, foldl_queued]

theorem execHuskClearingDone_queued {h0 s t} (h : State.queued q s) (e : execHuskClearingDone h0 s = .next t) : State.queued q t := by
  grind (ematch := 20) [execHuskClearingDone, State.served_queued, State.huskPut_queued, State.zeroRange_queued, foldl_queued]

theorem State.huskWrite_queued {s h1 f v} (h : State.queued q s) : State.queued q (State.huskWrite s h1 f v).1 := by
  grind (ematch := 20) [State.huskWrite, State.huskPut_queued]

/-! ## Machine/Power.lean -/

theorem State.storePart_queued {s c husk t3 a d} (h : State.queued q s) : State.queued q (State.storePart s c husk t3 a d) := by
  grind (ematch := 20) [State.storePart, State.postedError_queued, State.huskRecord_queued, State.coreWrite_queued, State.memWrite_queued]

theorem State.drainOne_queued {s c} (h : State.queued q s) : State.queued q (State.drainOne s c) := by
  grind (ematch := 20) [State.drainOne, State.storePart_queued, queued_mk]

theorem State.drainStore_queued {s c} (h : State.queued q s) : State.queued q (State.drainStore s c) := by
  grind (ematch := 20) [State.drainStore, State.drainOne_queued, foldl_queued]

theorem State.drainAll_queued {s c} (h : State.queued q s) : State.queued q (State.drainAll s c) := by
  grind (ematch := 20) [State.drainAll, State.drainStore_queued, foldl_queued]

theorem State.entReset_queued {s p} (h : State.queued q s) : State.queued q (State.entReset s p) := h

theorem State.loseMem_queued {s lo hi} (h : State.queued q s) : State.queued q (State.loseMem s lo hi) := h

theorem State.relines_queued {s} (h : State.queued q s) : State.queued q (State.relines s) := by
  grind (ematch := 20) [State.relines, State.gpioLine_queued, State.mailLine_queued, State.ledgerLine_queued, State.envLine_queued, State.bankLine_queued, State.viLine_queued, foldl_queued]

theorem State.loseHbm_queued {s} (h : State.queued q s) : State.queued q (State.loseHbm s) := by
  grind (ematch := 20) [State.loseHbm, State.loseMem_queued, queued_mk]

theorem State.loseIsland_queued {s i} (h : State.queued q s) : State.queued q (State.loseIsland s i) := by
  grind (ematch := 20) [State.loseIsland, State.loseMem_queued, queued_mk]

theorem State.lose_queued {s d iso} (h : State.queued q s) : State.queued q (State.lose s d iso) := by
  unfold State.lose
  dsimp only
  generalize hs : s.entReset _ = s1
  have h1 : State.queued q s1 := hs ▸ State.entReset_queued h
  have hp := State.modPod_queued (p := fin 7 (d - 32)) (f := fun _ => Pod.init) h1
  have hm := State.loseMem_queued (lo := 0x0E800100000) (hi := 0x0E800300000) h1
  refine ite_queued (queued_mk h1) (ite_queued (queued_mk hp) (ite_queued (State.loseIsland_queued h1) (ite_queued ?_ (ite_queued (State.loseHbm_queued h1)
    (ite_queued (queued_mk h1) (ite_queued (queued_mk h1) (ite_queued (queued_mk h1) (ite_queued (queued_mk h1) (ite_queued (queued_mk h1)
    (ite_queued (queued_mk hm) (ite_queued ?_ (ite_queued (queued_mk h1) h1))))))))))))
  · exact foldl_queued (fun _ _ k => State.modHome_queued k) h1
  · exact queued_mk (s := { s1 with irq := Irq.init }) (queued_mk h1)

theorem State.modDom_queued {s d f} (h : State.queued q s) : State.queued q (State.modDom s d f) := by
  grind (ematch := 20) [State.modDom, queued_mk]

theorem State.coreReset_queued {s c} (h : State.queued q s) : State.queued q (State.coreReset s c) := by
  grind (ematch := 20) [State.coreReset, queued_mk]

theorem State.powered_queued {s d} (h : State.queued q s) : State.queued q (State.powered s d) := by
  grind (ematch := 20) [State.powered, State.coreReset_queued, State.canStart_queued, State.linStart_queued, queued_mk, foldl_queued]

theorem State.offBegin_queued {s d} (h : State.queued q s) : State.queued q (State.offBegin s d) := by
  grind (ematch := 20) [State.offBegin, State.toHeld_queued, State.linStop_queued, State.canStop_queued, foldl_queued]

theorem State.offEnd_queued {s d} (h : State.queued q s) : State.queued q (State.offEnd s d) := by
  grind (ematch := 20) [State.offEnd, State.drainAll_queued, State.cleanPod_queued, State.relines_queued, State.lose_queued]

theorem State.powerOutcome_queued {s q1 d o} (h : State.queued q s) : State.queued q (State.powerOutcome s q1 d o) := by
  grind (ematch := 20) [State.powerOutcome, State.modDom_queued]

theorem State.beginTo_queued {s d t2} (h : State.queued q s) : State.queued q (State.beginTo s d t2) := by
  grind (ematch := 20) [State.beginTo, State.modDom_queued, State.offBegin_queued]

theorem State.servePower_queued {a a1} (h : State.queued q a1) : State.queued q (State.servePower a a1) := by
  fun_induction State.servePower a a1 <;> grind (ematch := 20) [State.complete_queued, State.modDom_queued, State.powerOutcome_queued, State.beginTo_queued, queued_mk]

theorem State.powerGo_queued {s} (h : State.queued q s) : State.queued q (State.powerGo s) := by
  grind (ematch := 20) [State.powerGo, State.servePower_queued]

theorem State.powerWrite_queued {s a d v} (h : State.queued q s) : State.queued q (State.powerWrite s a d v) := by
  grind (ematch := 20) [State.powerWrite, State.powerGo_queued, State.complete_queued, State.powerOutcome_queued, queued_mk]

theorem State.holdWrite_queued {s a d v} (h : State.queued q s) : State.queued q (State.holdWrite s a d v) := by
  grind (ematch := 20) [State.holdWrite, State.modDom_queued, State.complete_queued, State.beginTo_queued, State.pulse_queued]

theorem State.reached_queued {s d t2} (h : State.queued q s) : State.queued q (State.reached s d t2) := by
  grind (ematch := 20) [State.reached, State.powerOutcome_queued, State.modDom_queued, State.complete_queued, queued_mk]

theorem State.reach_queued {s d t2} (h : State.queued q s) : State.queued q (State.reach s d t2) := by
  grind (ematch := 20) [State.reach, State.offEnd_queued, State.modDom_queued, State.powered_queued, State.beginTo_queued, State.reached_queued, State.completeIf_queued, State.powerGo_queued]

theorem execDomainTransitionDone_queued {d s t} (h : State.queued q s) (e : execDomainTransitionDone d s = .next t) : State.queued q t := by
  grind (ematch := 20) [execDomainTransitionDone, State.served_queued, State.reach_queued]

theorem State.pmicSend_queued {s b} (h : State.queued q s) : State.queued q (State.pmicSend s b) := by
  grind (ematch := 20) [State.pmicSend, queued_mk]

theorem State.pmicSet_queued {s p f} (h : State.queued q s) : State.queued q (State.pmicSet s p f) := by
  grind (ematch := 20) [State.pmicSet, State.pmicSend_queued]

theorem State.podApply_queued {s a p old f} (h : State.queued q s) : State.queued q (State.podApply s a p old f) := by
  grind (ematch := 20) [State.podApply, State.complete_queued, State.pmicSet_queued, queued_mk]

theorem execPodPllRelockDone_queued {p s t} (h : State.queued q s) (e : execPodPllRelockDone p s = .next t) : State.queued q t := by
  grind (ematch := 20) [execPodPllRelockDone, State.served_queued, State.pmicSet_queued, State.complete_queued, queued_mk]

theorem State.thermal_queued {s} (h : State.queued q s) : State.queued q (State.thermal s) := by
  grind (ematch := 20) [State.thermal, State.pulse_queued, State.addE_queued, queued_mk]

theorem State.sensor_queued {s k raw} (h : State.queued q s) : State.queued q (State.sensor s k raw) := by
  grind (ematch := 20) [State.sensor, State.thermal_queued, queued_mk]

theorem execThermalThrottle_queued {k raw s t} (h : State.queued q s) (e : execThermalThrottle k raw s = .next t) : State.queued q t := by
  grind (ematch := 20) [execThermalThrottle, State.sensor_queued]

theorem execThermalUnthrottle_queued {k raw s t} (h : State.queued q s) (e : execThermalUnthrottle k raw s = .next t) : State.queued q t := by
  grind (ematch := 20) [execThermalUnthrottle, State.sensor_queued]

theorem execPciePerstNRise_queued {k s t} (h : State.queued q s) (e : execPciePerstNRise k s = .next t) : State.queued q t := by
  grind (ematch := 20) [execPciePerstNRise, queued_mk]

theorem execPmicInt_queued {s t} (h : State.queued q s) (e : execPmicInt s = .next t) : State.queued q t := by
  grind (ematch := 20) [execPmicInt, State.pulse_queued]

/-! ## Machine/Device.lean -/

theorem State.bumpEpoch_queued {s} (h : State.queued q s) : State.queued q (State.bumpEpoch s) := by
  grind (ematch := 20) [State.bumpEpoch, State.seedWrite_queued, State.setE_queued]

theorem State.passEnsign_queued {s h1 node} (h : State.queued q s) : State.queued q (State.passEnsign s h1 node) := by
  grind (ematch := 20) [State.passEnsign, State.pulse_queued, State.modDap_queued, State.bumpEpoch_queued]

theorem State.ensignAway_queued {s} (h : State.queued q s) : State.queued q (State.ensignAway s) := by
  grind (ematch := 20) [State.ensignAway, State.passEnsign_queued, State.modDap_queued]

theorem State.ensignBack_queued {s} (h : State.queued q s) : State.queued q (State.ensignBack s) := by
  grind (ematch := 20) [State.ensignBack, State.passEnsign_queued, State.addE_queued]

theorem State.transitionEnd_queued {s from_ to_ res} (h : State.queued q s) : State.queued q (State.transitionEnd s from_ to_ res) := by
  grind (ematch := 20) [State.transitionEnd, State.setE_queued, queued_mk]

theorem State.modHz_queued {s f} (h : State.queued q s) : State.queued q (State.modHz s f) := by
  grind (ematch := 20) [State.modHz, queued_mk]

theorem State.enterBegin_queued {s t1} (h : State.queued q s) : State.queued q (State.enterBegin s t1) := by
  grind (ematch := 20) [State.enterBegin, State.pulse_queued, State.modHz_queued]

theorem State.quiesce_queued {s} (h : State.queued q s) : State.queued q (State.quiesce s) := by
  grind (ematch := 20) [State.quiesce, State.gatewayStop_queued, State.modDm_queued, State.dmAbortEvery_queued, foldl_queued]

theorem State.dropAskers_queued {s} (h : State.queued q s) : State.queued q (State.dropAskers s) := by
  grind (ematch := 20) [State.dropAskers, State.modDom_queued, queued_mk, foldl_queued]

theorem State.loseAll_queued {s ds iso} (h : State.queued q s) : State.queued q (State.loseAll s ds iso) := by
  grind (ematch := 20) [State.loseAll, State.lose_queued, foldl_queued]

theorem State.flushHbm_queued {s} (h : State.queued q s) : State.queued q (State.flushHbm s) := by
  grind (ematch := 20) [State.flushHbm, State.settle_queued, State.storeLine_queued, queued_mk, foldl_queued]

theorem State.flushSlc_queued {s} (h : State.queued q s) : State.queued q (State.flushSlc s) := by
  grind (ematch := 20) [State.flushSlc, State.slcEvict_queued, foldl_queued]

theorem State.setDoms_queued {s f} (h : State.queued q s) : State.queued q (State.setDoms s f) := by
  grind (ematch := 20) [State.setDoms, State.modHz_queued]

theorem State.suspendEntry_queued {s} (h : State.queued q s) : State.queued q (State.suspendEntry s) := by
  unfold State.suspendEntry
  extract_lets s1 s2 s3 s4 s5 s6 _ s7 s8
  have h1 : State.queued q s1 := foldl_queued (fun _ _ k => State.toHeld_queued k) (State.quiesce_queued h)
  have h2 : State.queued q s2 := foldl_queued (fun _ _ k => State.drainAll_queued k) h1
  have h3 : State.queued q s3 := foldl_queued (fun _ _ k => State.cleanPod_queued k) h2
  have h4 : State.queued q s4 := State.ensignAway_queued (State.dropAskers_queued (State.flushHbm_queued (State.flushSlc_queued h3)))
  have h5 : State.queued q s5 := State.loseAll_queued h4
  have h6 : State.queued q s6 := State.setDoms_queued h5
  have h7 : State.queued q s7 := queued_mk h6
  have h8 : State.queued q s8 := State.relines_queued (State.modHz_queued h7)
  exact State.transitionEnd_queued (State.pmicSend_queued h8)

theorem State.sleepEntry_queued {s} (h : State.queued q s) : State.queued q (State.sleepEntry s) := by
  unfold State.sleepEntry
  extract_lets f s1 s2 s3
  have h1 : State.queued q s1 := foldl_queued (fun _ _ k => State.toHeld_queued k) h
  have h2 : State.queued q s2 := State.loseAll_queued (State.ensignAway_queued (State.dropAskers_queued h1))
  have h3 : State.queued q s3 := State.modHz_queued h2
  exact State.transitionEnd_queued (State.pmicSend_queued (State.relines_queued h3))

theorem State.bootBegin_queued {s} (h : State.queued q s) : State.queued q (State.bootBegin s) := by
  grind (ematch := 20) [State.bootBegin, State.pmicSend_queued, State.modHz_queued, State.setE_queued]

theorem State.wakeUp_queued {s} (h : State.queued q s) : State.queued q (State.wakeUp s) := by
  grind (ematch := 20) [State.wakeUp, State.modHz_queued, State.pmicSend_queued, State.bootBegin_queued, State.setE_queued]

theorem State.wakeEvent_queued {s cause} (h : State.queued q s) : State.queued q (State.wakeEvent s cause) := by
  grind (ematch := 20) [State.wakeEvent, State.addE_queued, State.setE_queued, State.wakeUp_queued, State.modHz_queued]

theorem State.heldWake_queued {s} (h : State.queued q s) : State.queued q (State.heldWake s) := by
  grind (ematch := 20) [State.heldWake, State.wakeEvent_queued]

theorem State.deviceReq_queued {s v} (h : State.queued q s) : State.queued q (State.deviceReq s v).1 := by
  grind (ematch := 20) [State.deviceReq, State.enterBegin_queued, State.sleepEntry_queued, State.wakeEvent_queued]

theorem execSuspendWaitExpiry_queued {s t} (h : State.queued q s) (e : execSuspendWaitExpiry s = .next t) : State.queued q t := by
  grind (ematch := 20) [execSuspendWaitExpiry, State.pulse_queued, State.transitionEnd_queued, State.modHz_queued]

theorem execSuspendToSleepExpiry_queued {s t} (h : State.queued q s) (e : execSuspendToSleepExpiry s = .next t) : State.queued q t := by
  grind (ematch := 20) [execSuspendToSleepExpiry, State.sleepEntry_queued]

theorem execWakePatternMatch_queued {ch f s t} (h : State.queued q s) (e : execWakePatternMatch ch f s = .next t) : State.queued q t := by
  grind (ematch := 20) [execWakePatternMatch, State.addE_queued, State.wakeEvent_queued, foldl_queued]

theorem execWakeInDebounceExpiry_queued {n s t} (h : State.queued q s) (e : execWakeInDebounceExpiry n s = .next t) : State.queued q t := by
  grind (ematch := 20) [execWakeInDebounceExpiry, State.wakeEvent_queued]

theorem execWakeTimer_queued {s t} (h : State.queued q s) (e : execWakeTimer s = .next t) : State.queued q t := by
  grind (ematch := 20) [execWakeTimer, State.wakeEvent_queued]

theorem State.activate_queued {s} (h : State.queued q s) : State.queued q (State.activate s) := by
  grind (ematch := 20) [State.activate, State.transitionEnd_queued, State.ensignBack_queued, State.modHz_queued]

theorem State.restoreDoms_queued {s} (h : State.queued q s) : State.queued q (State.restoreDoms s) := by
  grind (ematch := 20) [State.restoreDoms, State.modDom_queued, State.beginTo_queued, foldl_queued]

theorem State.resume_queued {s} (h : State.queued q s) : State.queued q (State.resume s) := by
  grind (ematch := 20) [State.resume, State.setDoms_queued, State.restoreDoms_queued, State.releaseIsland_queued, State.relines_queued, State.activate_queued, State.modHz_queued, queued_mk, foldl_queued]

theorem execPllLock_queued {s t} (h : State.queued q s) (e : execPllLock s = .next t) : State.queued q t := by
  grind (ematch := 20) [execPllLock, State.modHz_queued, State.setE_queued, State.setDoms_queued]

theorem execSramFillDone_queued {s t} (h : State.queued q s) (e : execSramFillDone s = .next t) : State.queued q t := by
  grind (ematch := 20) [execSramFillDone, State.served_queued, State.setE_queued, State.resume_queued]

theorem State.systemReset_queued {s code} (h : State.queued q s) : State.queued q (State.systemReset s code) := by
  grind (ematch := 20) [State.systemReset, State.sleepEntry_queued, State.bootBegin_queued, State.setE_queued, State.modHz_queued]

theorem execSysrstN_queued {s t} (h : State.queued q s) (e : execSysrstN s = .next t) : State.queued q t := by
  grind (ematch := 20) [execSysrstN, State.systemReset_queued]

theorem execFatalGraceExpiry_queued {s t} (h : State.queued q s) (e : execFatalGraceExpiry s = .next t) : State.queued q t := by
  grind (ematch := 20) [execFatalGraceExpiry, State.systemReset_queued]

theorem execSmcWatchdogExpiry_queued {s t} (h : State.queued q s) (e : execSmcWatchdogExpiry s = .next t) : State.queued q t := by
  grind (ematch := 20) [execSmcWatchdogExpiry, State.startGrace_queued, State.ledgerEvent_queued]

theorem State.powerOnReset_queued {s} (h : State.queued q s) : State.queued q (State.powerOnReset s) := by
  unfold State.powerOnReset
  dsimp only
  refine queued_mk (ite_queued (State.setE_queued (queued_mk h)) (queued_mk h))

theorem State.applyRetired_queued {s w} (h : State.queued q s) : State.queued q (State.applyRetired s w) := by
  grind (ematch := 20) [State.applyRetired, State.coreFail_queued, State.modPc_queued, State.modDm_queued, queued_mk, foldl_queued]

theorem State.seedLost_queued {s key} (h : State.queued q s) : State.queued q (State.seedLost s key) := by
  have d : State.queued q { s with ent := kvDel key s.ent, entB := kvDel key s.entB } := queued_mk h
  unfold State.seedLost
  split
  · exact State.record_queued (State.addE_queued d)
  · exact State.setE_queued d
  · exact h

theorem State.readFuses_queued {s b} (h : State.queued q s) : State.queued q (State.readFuses s b) := by
  grind (ematch := 20) [State.readFuses, State.setE_queued, foldl_queued]

theorem State.coldBoot_queued {s b} (h : State.queued q s) : State.queued q (State.coldBoot s b) := by
  unfold State.coldBoot
  dsimp only
  refine State.bootBegin_queued (State.setE_queued (foldl_queued (fun _ _ hs => State.applyRetired_queued hs)
    (State.modHz_queued (queued_mk (State.bumpEpoch_queued (foldl_queued (fun _ _ hs => State.seedLost_queued hs)
      (State.readFuses_queued (State.modHz_queued h))))))))

theorem execPorstN_queued {b s t} (h : State.queued q s) (e : execPorstN b s = .next t) : State.queued q t := by
  grind (ematch := 20) [execPorstN, State.coldBoot_queued, State.modHz_queued, State.powerOnReset_queued]

theorem execPorstNLow_queued {s t} (h : State.queued q s) (e : execPorstNLow s = .next t) : State.queued q t := by
  grind (ematch := 20) [execPorstNLow, State.modHz_queued, State.powerOnReset_queued]

theorem execVoltageMonitorTrip_queued {m s t} (h : State.queued q s) (e : execVoltageMonitorTrip m s = .next t) : State.queued q t := by
  grind (ematch := 20) [execVoltageMonitorTrip, State.coldBoot_queued, State.powerOnReset_queued]

theorem execPmicStatusPoll_queued {st late s t} (h : State.queued q s) (e : execPmicStatusPoll st late s = .next t) : State.queued q t := by
  grind (ematch := 20) [execPmicStatusPoll, State.served_queued, State.modHz_queued, State.complete_queued, State.setE_queued]

theorem execPmicPowerUpRetry_queued {s t} (h : State.queued q s) (e : execPmicPowerUpRetry s = .next t) : State.queued q t := by
  grind (ematch := 20) [execPmicPowerUpRetry, State.pmicSend_queued]

theorem State.bootStop_queued {s type reason} (h : State.queued q s) : State.queued q (State.bootStop s type reason) := by
  grind (ematch := 20) [State.bootStop, State.safeNUpdate_queued, State.modHz_queued, State.setE_queued, State.sleepEntry_queued]

theorem State.seedDerived_queued {s stack ok} (h : State.queued q s) : State.queued q (State.seedDerived s stack ok) := by
  grind (ematch := 20) [State.seedDerived, State.setE_queued, State.setB_queued, queued_mk]

theorem execHbmTrainingDone_queued {k r s t} (h : State.queued q s) (e : execHbmTrainingDone k r s = .next t) : State.queued q t := by
  unfold execHbmTrainingDone at e
  grind (ematch := 20) [State.seedDerived_queued, State.pcFail_queued, State.bootStop_queued, queued_mk, foldl_queued, foldl_queued_fst]

theorem State.stage9_queued {s} (h : State.queued q s) : State.queued q (State.stage9 s) := by
  grind (ematch := 20) [State.stage9, State.setE_queued]

theorem execHbmFillDone_queued {s t} (h : State.queued q s) (e : execHbmFillDone s = .next t) : State.queued q t := by
  grind (ematch := 20) [execHbmFillDone, State.stage9_queued, State.setE_queued, queued_mk]

theorem execIslandImageStage_queued {i s t} (h : State.queued q s) (e : execIslandImageStage i s = .next t) : State.queued q t := by
  simp only [execIslandImageStage, Host.Outcome.next.injEq] at e
  subst e
  have w (a : Nat) (b : List Byte) : State.queued q
      { (s.eccWrite a b.length).clearTags a b.length with mem := Memory.write s.mem a b } :=
    queued_mk (State.clearTags_queued (State.eccWrite_queued h))
  split
  · split
    · apply State.stage9_queued
      split
      · exact State.releaseIsland_queued (w ..)
      · exact w ..
    · exact h
  · exact h

theorem execBootCoreRelease_queued {s t} (h : State.queued q s) (e : execBootCoreRelease s = .next t) : State.queued q t := by
  simp only [execBootCoreRelease, Host.Outcome.next.injEq] at e
  subst e
  refine State.served_queued h fun s h => ?_
  split <;> grind (ematch := 20) [State.setE_queued, State.activate_queued, State.modDom_queued, State.beginTo_queued, queued_mk, foldl_queued, foldl_queued_fst]

/-! ## Machine/Dictionary.lean -/

theorem State.putEnt_queued {s i u v} (h : State.queued q s) : State.queued q (State.putEnt s i u v) := by
  unfold State.putEnt
  grind (ematch := 20) [State.setE_queued, State.setB_queued]

theorem State.flowCommand_queued {s sl b} (h : State.queued q s) : State.queued q (State.flowCommand s sl b) := by
  grind (ematch := 20) [State.flowCommand, State.flowAnswer_queued, State.doInsert_queued, State.doRemove_queued, State.doRead_queued, State.doFind_queued, State.doUpdate_queued, State.doClear_queued]

theorem State.selfcalStart_queued {s n} (h : State.queued q s) : State.queued q (State.selfcalStart s n) := by
  grind (ematch := 20) [State.selfcalStart, State.seedWrite_queued, State.setB_queued, State.setE_queued, queued_mk]

theorem State.claimEnsign_queued {s node e2 a} (h : State.queued q s) : State.queued q (State.claimEnsign s node e2 a) := by
  grind (ematch := 20) [State.claimEnsign, State.modDap_queued]

theorem State.applyLow_queued {s a i u n r0} (h : State.queued q s) (e : State.applyLow s a i u n = some r0) : State.queued q r0.1 := by
  refine ite_some_queued (some_queued (State.powerWrite_queued h)) (ite_some_queued (some_queued (State.holdWrite_queued h))
    (ite_some_queued (some_queued (p := (_, false)) (State.deviceReq_queued (State.complete_queued h)))
    (ite_some_queued (some_queued (State.systemReset_queued (State.complete_queued h))) (ite_some_queued (some_queued h)
    (ite_some_queued ?_ (ite_some_queued (some_queued h) (ite_some_queued (some_queued h)
    (ite_some_queued (some_queued (getD_queued (fun _ e => State.hsRelease_queued h e) h)) (ite_some_queued (some_queued (p := (Option.getD _ s, true)) (getD_queued ?_ h)) ?_))))))))) r0 e
  · intro r e
    dsimp only at e
    split at e
    · refine some_queued ?_ r e
      split
      · exact State.huskControl_queued h
      · exact State.huskWrite_queued h
    · exact some_queued h r e
  · intro t e
    split at e
    · exact State.restartHold_queued h e
    · exact State.restartRelease_queued h e
  · intro r e; cases e

theorem State.applyHigh_queued {s a i u v r0} (h : State.queued q s) (e : State.applyHigh s a i u v = some r0) : State.queued q r0.1 := by
  refine ite_some_queued (some_queued (ite_queued (State.gclArm_queued h) h)) (ite_some_queued (some_queued (ite_queued (State.sglArm_queued h) h))
    (ite_some_queued (some_queued (State.flowCommand_queued h)) (ite_some_queued (some_queued (State.doBulk_queued h)) (ite_some_queued (some_queued (State.flowCommand_queued h))
    (ite_some_queued (some_queued (State.qpDisable_queued h)) (ite_some_queued (some_queued (ite_queued (State.modCan_queued h) h))
    (ite_some_queued (some_queued (queued_mk h)) (ite_some_queued (some_queued (State.selfcalStart_queued h))
    (ite_some_queued (some_queued (getD_queued (fun _ e => State.ledgerTailWrite_queued h e) h))
    (ite_some_queued (some_queued (State.dmEnableWrite_queued h)) (ite_some_queued (some_queued (p := (s.claimEnsign none v.num' a, false)) (State.claimEnsign_queued h)) ?_))))))))))) r0 e
  intro r e; cases e

theorem State.applyVol_queued {s a key v} (h : State.queued q s) : State.queued q (State.applyVol s a key v) := by
  unfold State.applyVol
  extract_lets i u s1
  have h1 : State.queued q s1 := ite_queued (State.putEnt_queued h) h
  clear_value s1
  have w {r0} (e : (if i < 0x6000 then s1.applyLow a i u v.num' else s1.applyHigh a i u v) = some r0) : State.queued q r0.1 := by
    split at e
    · exact State.applyLow_queued h1 e
    · exact State.applyHigh_queued h1 e
  split
  · exact State.complete_queued (w ‹_›)
  · exact w ‹_›
  · exact State.complete_queued (State.putEnt_queued h1)

theorem State.keyWritten_queued {s k} (h : State.queued q s) : State.queued q (State.keyWritten s k) := by
  grind (ematch := 20) [State.keyWritten, State.modDap_queued]

theorem State.calWritten_queued {s i} (h : State.queued q s) : State.queued q (State.calWritten s i) := State.setE_queued h

theorem State.schedule_queued {s m u n} (h : State.queued q s) : State.queued q (State.schedule s m u n) := by
  grind (ematch := 20) [State.schedule, State.modLin_queued]

theorem State.busEnable_queued {s a i n} (h : State.queued q s) : State.queued q (State.busEnable s a i n) := by
  grind (ematch := 20) [State.busEnable, State.complete_queued, State.canStart_queued, State.canStop_queued, State.modCan_queued, State.linStart_queued, State.linStop_queued, State.modLin_queued]

theorem State.applyStored_queued {s a key v} (h : State.queued q s) : State.queued q (State.applyStored s a key v) := by
  grind (ematch := 20) [State.applyStored, State.retireClear_queued, State.complete_queued, State.putEnt_queued, State.credits_queued, State.podApply_queued, State.thermal_queued, State.calWritten_queued, State.safeNUpdate_queued, State.busEnable_queued, State.schedule_queued, State.keyWritten_queued]

theorem State.journalWrite_queued {s a r key v} (h : State.queued q s) : State.queued q (State.journalWrite s a r key v) := by
  grind (ematch := 20) [State.journalWrite, queued_mk]

theorem State.waitEnt_queued {s w} (h : State.queued q s) : State.queued q (State.waitEnt s w) := by
  grind (ematch := 20) [State.waitEnt, queued_mk]

theorem State.serveEntWrite_queued {s a key w} (h : State.queued q s) : State.queued q (State.serveEntWrite s a key w) := by
  grind (ematch := 20) [State.serveEntWrite, State.complete_queued, State.powerOutcome_queued, State.applyVol_queued, State.journalWrite_queued]

theorem State.dictWrite_queued {s a key w} (h : State.queued q s) : State.queued q (State.dictWrite s a key w) := by
  grind (ematch := 20) [State.dictWrite, State.waitEnt_queued, State.serveEntWrite_queued]

theorem State.drawRead_queued {s key} (h : State.queued q s) : State.queued q (State.drawRead s key) := by
  grind (ematch := 20) [State.drawRead, queued_mk]

theorem State.dictRead_queued {s q1 key} (h : State.queued q s) : State.queued q (State.dictRead s q1 key).1 := by
  grind (ematch := 20) [State.dictRead, State.drawRead_queued]

theorem State.noteWin_queued {s m st key write} (h : State.queued q s) : State.queued q (State.noteWin s m st key write) := by
  grind (ematch := 20) [State.noteWin, State.modMail_queued]

theorem State.windowRead_queued {s m key} (h : State.queued q s) : State.queued q (State.windowRead s m key).1 := by
  grind (ematch := 20) [State.windowRead, State.dictRead_queued, State.noteWin_queued, queued_mk]

theorem State.windowWrite_queued {s m key v} (h : State.queued q s) : State.queued q (State.windowWrite s m key v) := by
  grind (ematch := 20) [State.windowWrite, State.dictWrite_queued, State.noteWin_queued, queued_mk]

theorem execDictWindowRead_queued {m index sub s t} (h : State.queued q s) (e : execDictWindowRead m index sub s = .next t) : State.queued q t := by
  grind (ematch := 20) [execDictWindowRead, State.served_queued, State.windowRead_queued, queued_mk]

theorem State.mailRead_queued {s m p} (h : State.queued q s) : State.queued q (State.mailRead s m p) := by
  grind (ematch := 20) [State.mailRead, State.waitEnt_queued, State.modMail_queued, State.dictRead_queued, State.mailDone_queued, queued_mk]

theorem State.mailWrite_queued {s m p} (h : State.queued q s) : State.queued q (State.mailWrite s m p) := by
  grind (ematch := 20) [State.mailWrite, State.modMail_queued, State.dictWrite_queued]

theorem State.mailCmd_queued {s m p op} (h : State.queued q s) : State.queued q (State.mailCmd s m p op) := by
  grind (ematch := 20) [State.mailCmd, State.mailRead_queued, State.mailWrite_queued]

theorem State.mailAccess_queued {s m p f} (h : State.queued q s) (hf : ∀ y0, State.queued q y0 → State.queued q (f y0)) : State.queued q (State.mailAccess s m p f) := by
  grind (ematch := 20) [State.mailAccess, queued_mk]

theorem execMbRead_queued {m p s t} (h : State.queued q s) (e : execMbRead m p s = .next t) : State.queued q t := by
  grind (ematch := 20) [execMbRead, State.served_queued, State.mailAccess_queued, State.mailCmd_queued]

theorem State.reqWrite_queued {s q1 key n} (h : State.queued q s) : State.queued q (State.reqWrite s q1 key n) := by
  unfold State.reqWrite
  split
  · exact ite_queued h (State.windowWrite_queued h)
  · exact State.dictWrite_queued h

theorem execCleanWays_queued {q0 v s t} (h : State.queued q s) (e : execCleanWays q0 v s = .next t) : State.queued q t := by
  grind (ematch := 20) [execCleanWays, State.reqWrite_queued]

theorem execSuspectClear_queued {q0 v s t} (h : State.queued q s) (e : execSuspectClear q0 v s = .next t) : State.queued q t := by
  grind (ematch := 20) [execSuspectClear, State.reqWrite_queued]

theorem execVoterRestartHold_queued {q0 i s t} (h : State.queued q s) (e : execVoterRestartHold q0 i s = .next t) : State.queued q t := by
  grind (ematch := 20) [execVoterRestartHold, State.reqWrite_queued]

theorem execVoterRestartRelease_queued {q0 i s t} (h : State.queued q s) (e : execVoterRestartRelease q0 i s = .next t) : State.queued q t := by
  grind (ematch := 20) [execVoterRestartRelease, State.reqWrite_queued]

theorem execHsRelease_queued {q0 i v s t} (h : State.queued q s) (e : execHsRelease q0 i v s = .next t) : State.queued q t := by
  grind (ematch := 20) [execHsRelease, State.reqWrite_queued]

theorem execHuskClaim_queued {q0 h1 s t} (h : State.queued q s) (e : execHuskClaim q0 h1 s = .next t) : State.queued q t := by
  grind (ematch := 20) [execHuskClaim, State.reqWrite_queued]

theorem execHuskSeal_queued {q0 h1 s t} (h : State.queued q s) (e : execHuskSeal q0 h1 s = .next t) : State.queued q t := by
  grind (ematch := 20) [execHuskSeal, State.reqWrite_queued]

theorem execPowerReq_queued {q0 d v s t} (h : State.queued q s) (e : execPowerReq q0 d v s = .next t) : State.queued q t := by
  simp only [execPowerReq, Host.Outcome.next.injEq] at e
  subst e
  exact State.served_queued h fun s h => State.reqWrite_queued h

theorem execPowerHold_queued {q0 d v s t} (h : State.queued q s) (e : execPowerHold q0 d v s = .next t) : State.queued q t := by
  simp only [execPowerHold, Host.Outcome.next.injEq] at e
  subst e
  exact State.served_queued h fun s h => State.reqWrite_queued h

theorem execDeviceReqSuspend_queued {q0 s t} (h : State.queued q s) (e : execDeviceReqSuspend q0 s = .next t) : State.queued q t := by
  grind (ematch := 20) [execDeviceReqSuspend, State.reqWrite_queued]

theorem execDeviceReqSleep_queued {q0 s t} (h : State.queued q s) (e : execDeviceReqSleep q0 s = .next t) : State.queued q t := by
  grind (ematch := 20) [execDeviceReqSleep, State.reqWrite_queued]

theorem execDeviceReqActive_queued {q0 s t} (h : State.queued q s) (e : execDeviceReqActive q0 s = .next t) : State.queued q t := by
  grind (ematch := 20) [execDeviceReqActive, State.reqWrite_queued]

theorem execPodMhz_queued {q0 p v s t} (h : State.queued q s) (e : execPodMhz q0 p v s = .next t) : State.queued q t := by
  grind (ematch := 20) [execPodMhz, State.reqWrite_queued]

theorem execSysreset_queued {q0 v s t} (h : State.queued q s) (e : execSysreset q0 v s = .next t) : State.queued q t := by
  grind (ematch := 20) [execSysreset, State.reqWrite_queued]

theorem execSmcWdt_queued {q0 v s t} (h : State.queued q s) (e : execSmcWdt q0 v s = .next t) : State.queued q t := by
  grind (ematch := 20) [execSmcWdt, State.reqWrite_queued]

theorem execGclApply_queued {q0 n v s t} (h : State.queued q s) (e : execGclApply q0 n v s = .next t) : State.queued q t := by
  grind (ematch := 20) [execGclApply, State.reqWrite_queued]

theorem execSglApply_queued {q0 g v s t} (h : State.queued q s) (e : execSglApply q0 g v s = .next t) : State.queued q t := by
  grind (ematch := 20) [execSglApply, State.reqWrite_queued]

theorem execQpEnable_queued {q0 v qp val s t} (h : State.queued q s) (e : execQpEnable q0 v qp val s = .next t) : State.queued q t := by
  simp only [execQpEnable, Host.Outcome.next.injEq] at e
  subst e
  exact State.served_queued h fun s h => State.reqWrite_queued h

theorem execCanRestart_queued {q0 n v s t} (h : State.queued q s) (e : execCanRestart q0 n v s = .next t) : State.queued q t := by
  grind (ematch := 20) [execCanRestart, State.reqWrite_queued]

theorem execChannelEnableOff_queued {q0 ch s t} (h : State.queued q s) (e : execChannelEnableOff q0 ch s = .next t) : State.queued q t := by
  grind (ematch := 20) [execChannelEnableOff, State.reqWrite_queued]

theorem execSchedRun_queued {q0 m v s t} (h : State.queued q s) (e : execSchedRun q0 m v s = .next t) : State.queued q t := by
  grind (ematch := 20) [execSchedRun, State.reqWrite_queued]

theorem execEnsignClaim_queued {q0 e1 s t} (h : State.queued q s) (e : execEnsignClaim q0 e1 s = .next t) : State.queued q t := by
  grind (ematch := 20) [execEnsignClaim, State.reqWrite_queued]

theorem execCalUnlock_queued {q0 v s t} (h : State.queued q s) (e : execCalUnlock q0 v s = .next t) : State.queued q t := by
  grind (ematch := 20) [execCalUnlock, State.reqWrite_queued]

theorem execCalEntryWrite_queued {q1 i u v s t} (h : State.queued q s) (e : execCalEntryWrite q1 i u v s = .next t) : State.queued q t := by
  simp only [execCalEntryWrite, Host.Outcome.next.injEq] at e
  subst e
  refine State.served_queued h fun s h => ?_
  split
  · exact State.windowWrite_queued h
  · exact State.dictWrite_queued h

theorem execSelfcalVmon_queued {q0 m s t} (h : State.queued q s) (e : execSelfcalVmon q0 m s = .next t) : State.queued q t := by
  grind (ematch := 20) [execSelfcalVmon, State.reqWrite_queued]

theorem execSelfcalClock_queued {q0 c s t} (h : State.queued q s) (e : execSelfcalClock q0 c s = .next t) : State.queued q t := by
  grind (ematch := 20) [execSelfcalClock, State.reqWrite_queued]

theorem execSelfcalSerdes_queued {q0 n s t} (h : State.queued q s) (e : execSelfcalSerdes q0 n s = .next t) : State.queued q t := by
  grind (ematch := 20) [execSelfcalSerdes, State.reqWrite_queued]

theorem execSelfcalHbmSeed_queued {q0 k s t} (h : State.queued q s) (e : execSelfcalHbmSeed q0 k s = .next t) : State.queued q t := by
  grind (ematch := 20) [execSelfcalHbmSeed, State.reqWrite_queued]

theorem execSelfcalDone_queued {result s t} (h : State.queued q s) (e : execSelfcalDone result s = .next t) : State.queued q t := by
  grind (ematch := 20) [execSelfcalDone, State.seedWrite_queued, State.setE_queued, State.setB_queued, queued_mk]

theorem execKeyRevoke_queued {q0 v s t} (h : State.queued q s) (e : execKeyRevoke q0 v s = .next t) : State.queued q t := by
  grind (ematch := 20) [execKeyRevoke, State.reqWrite_queued]

theorem execRetireClear_queued {q0 v s t} (h : State.queued q s) (e : execRetireClear q0 v s = .next t) : State.queued q t := by
  grind (ematch := 20) [execRetireClear, State.reqWrite_queued]

theorem execLedgerTail_queued {q0 v s t} (h : State.queued q s) (e : execLedgerTail q0 v s = .next t) : State.queued q t := by
  grind (ematch := 20) [execLedgerTail, State.reqWrite_queued]

theorem execDmEnable_queued {q0 n v s t} (h : State.queued q s) (e : execDmEnable q0 n v s = .next t) : State.queued q t := by
  simp only [execDmEnable, Host.Outcome.next.injEq] at e
  subst e
  exact State.served_queued h fun s h => State.reqWrite_queued h

/-! ## Machine/Regs.lean -/

theorem State.mailRegWrite_queued {s m p off v mask t} (h : State.queued q s) (e : State.mailRegWrite s m p off v mask = some t) : State.queued q t := by
  unfold State.mailRegWrite at e
  grind (ematch := 20) [State.modMail_queued, State.mailCmd_queued, State.mailLine_queued]

theorem State.viRegWrite_queued {s v off w mask t} (h : State.queued q s) (e : State.viRegWrite s v off w mask = some t) : State.queued q t := by
  grind (ematch := 20) [State.viRegWrite, State.viClear_queued, State.viLine_queued, State.putVi_queued, State.txTailWrite_queued, State.rxTailWrite_queued]

theorem State.envRegWrite_queued {s off v mask t} (h : State.queued q s) (e : State.envRegWrite s off v mask = some t) : State.queued q t := by
  unfold State.envRegWrite at e
  grind (ematch := 20) [State.envClear_queued, State.envLine_queued, queued_mk]

theorem State.blockRead_queued {s x1 b off} (h : State.queued q s) : State.queued q (State.blockRead s x1 b off).1 := by
  unfold State.blockRead
  dsimp only
  repeat' split
  all_goals grind (ematch := 20) [State.irqRegRead_queued, State.windowRead_queued, queued_mk, foldl_queued, foldl_queued_fst]

theorem State.regRead8_queued {s x} (h : State.queued q s) : State.queued q (State.regRead8 s x).1 := State.blockRead_queued h

theorem State.regRead_queued {s x1} (h : State.queued q s) : State.queued q (State.regRead s x1).1 := by
  unfold State.regRead
  split <;> grind (ematch := 20) [State.regRead8_queued, State.meshRead_queued, queued_mk, foldl_queued, foldl_queued_fst]

theorem State.blockWrite_queued {s x v mask b off t} (h : State.queued q s) (e : State.blockWrite s x v mask b off = .ok t) : State.queued q t := by
  have w {o : Option State} (ho : ∀ t, o = some t → State.queued q t)
      (e : (match o with | some s => Except.ok s | none => Except.error Resp.decerr) = Except.ok t) : State.queued q t := by
    cases o with
    | none => simp at e
    | some u => exact ho t (congrArg some (Except.ok.inj e))
  cases b <;> simp only [State.blockWrite] at e
  case mailbox p => exact w (fun _ => State.mailRegWrite_queued h) e
  case irq => exact State.irqRegWrite_queued h e
  case fault k => exact w (fun _ => State.fbWrite_queued h) e
  case dm n => exact w (fun _ => State.dmRegWrite_queued h) e
  case vi k => exact w (fun _ => State.viRegWrite_queued h) e
  case island i =>
    split at e
    · exact w (fun _ => State.islWrite_queued h) e
    · split at e <;> simp at e
  case envelope =>
    split at e
    · rename_i u hu
      exact Except.ok.inj e ▸ State.envRegWrite_queued h hu
    · simp at e
  case gpio => exact w (fun _ => State.gpioWrite_queued h) e
  case window => exact Except.ok.inj e ▸ State.windowWrite_queued h
  all_goals simp at e

theorem State.regWrite8_queued {s x v mask t} (h : State.queued q s) (e : State.regWrite8 s x v mask = .ok t) : State.queued q t := State.blockWrite_queued h e

theorem State.regWrite_queued {s x v t} (h : State.queued q s) (e : State.regWrite s x v = .ok t) : State.queued q t := by
  unfold State.regWrite at e
  have h1 := State.meshWrite_queued (q := q) (m := x.m) (a := x.addr) (n := x.size) h
  dsimp only at e
  split at e
  · cases e
  · split at e
    · exact State.regWrite8_queued h1 e
    · split at e
      · exact State.regWrite8_queued h1 e
      · split at e
        · rename_i u hu
          exact Except.ok.inj e ▸ ite_queued (State.regWrite8_queued h1 hu) h1
        · cases e

/-! ## Machine/Translate.lean -/

theorem State.modA_queued {s c f} (h : State.queued q s) : State.queued q (State.modA s c f) := by
  grind (ematch := 20) [State.modA, queued_mk]

theorem State.note_queued {s c e2} (h : State.queued q s) : State.queued q (State.note s c e2) := by
  grind (ematch := 20) [State.note, State.modA_queued]

theorem State.insertFree_queued {x0 inst s n ways l x6} (h : State.queued q s) : State.queued q (@State.insertFree x0 inst s n ways l x6).1 := by
  grind (ematch := 20) [State.insertFree, queued_mk]

theorem State.walkPut_queued {s c w} (h : State.queued q s) : State.queued q (State.walkPut s c w) := by
  grind (ematch := 20) [State.walkPut, State.insertFree_queued, State.modA_queued]

theorem State.tlbPut_queued {s c e2} (h : State.queued q s) : State.queued q (State.tlbPut s c e2) := by
  grind (ematch := 20) [State.tlbPut, State.insertFree_queued, State.modA_queued]

theorem State.walkGo_queued {k stage2 x2 read flt a a6 a7 a8} (h : State.queued q a8) (hread : ∀ y0 y1 y2, State.queued q y2 → State.queued q (read y0 y1 y2).1) : State.queued q (State.walkGo k stage2 x2 read flt a a6 a7 a8).1 := by
  fun_induction State.walkGo k stage2 x2 read flt a a6 a7 a8 <;> grind (ematch := 20) []

theorem State.walkDone_queued {s c l} (h : State.queued q s) : State.queued q (State.walkDone s c l) := by
  grind (ematch := 20) [State.walkDone, State.walkPut_queued, foldl_queued]

theorem State.walkRead_queued {s k p t3} (h : State.queued q s) : State.queued q (State.walkRead s k p t3).1 := by
  grind (ematch := 20) [State.walkRead, State.huskRecord_queued, State.homePeek_queued, State.memRead_queued]

theorem State.read2_queued {k ipa lvl ea s} (h : State.queued q s) : State.queued q (State.read2 k ipa lvl ea s).1 := by
  grind (ematch := 20) [State.read2, State.walkRead_queued]

theorem State.walk2_queued {s k ipa tbl} (h : State.queued q s) : State.queued q (State.walk2 s k ipa tbl).1 := by
  grind (ematch := 20) [State.walk2, State.walkGo_queued, State.read2_queued]

theorem State.casEntry_queued {s c p seen write} (h : State.queued q s) : State.queued q (State.casEntry s c p seen write).1 := by
  grind (ematch := 20) [State.casEntry, State.homeAtomic_queued, State.memRead_queued, State.memWrite_queued]

theorem State.updateAt_queued {s k p e3 write} (h : State.queued q s) : State.queued q (State.updateAt s k p e3 write).1 := by
  grind (ematch := 20) [State.updateAt, State.casEntry_queued]

theorem State.tblOnce_queued {s k ipa write} (h : State.queued q s) : State.queued q (State.tblOnce s k ipa write).1 := by
  grind (ematch := 20) [State.tblOnce, State.walk2_queued, State.updateAt_queued, State.walkDone_queued, State.tlbPut_queued]

theorem tryWalk_queued {x0 f a a3} (h : State.queued q a3) (hf : ∀ y0, State.queued q y0 → State.queued q (f y0).1) : State.queued q (@tryWalk x0 f a a3).1 := by
  fun_induction @tryWalk x0 f a a3 <;> grind (ematch := 20) [queued_mk]

theorem State.tblPage_queued {s k ipa write} (h : State.queued q s) : State.queued q (State.tblPage s k ipa write).1 := by
  grind (ematch := 20) [State.tblPage, tryWalk_queued, State.tblOnce_queued]

theorem State.read1_queued {k lvl ea s} (h : State.queued q s) : State.queued q (State.read1 k lvl ea s).1 := by
  grind (ematch := 20) [State.read1, State.tblPage_queued, State.walkRead_queued]

theorem State.walk1_queued {s k va} (h : State.queued q s) : State.queued q (State.walk1 s k va).1 := by
  grind (ematch := 20) [State.walk1, State.walkGo_queued, State.read1_queued]

theorem State.stage2_queued {s k ipa} (h : State.queued q s) : State.queued q (State.stage2 s k ipa).1 := by
  grind (ematch := 20) [State.stage2, State.walk2_queued]

theorem State.update1_queued {s k l} (h : State.queued q s) : State.queued q (State.update1 s k l).1 := by
  grind (ematch := 20) [State.update1, State.tblPage_queued, State.casEntry_queued]

theorem State.tlbServe_queued {s k va e3} (h : State.queued q s) : State.queued q (State.tlbServe s k va e3).1 := by
  grind (ematch := 20) [State.tlbServe, State.tlbPut_queued]

theorem State.tlbFill_queued {s k e2} (h : State.queued q s) : State.queued q (State.tlbFill s k e2) := by
  grind (ematch := 20) [State.tlbFill, State.tlbPut_queued]

theorem State.directRing0_queued {s k va} (h : State.queued q s) : State.queued q (State.directRing0 s k va).1 := by
  unfold State.directRing0
  split <;> grind (ematch := 20) [State.stage2_queued, State.updateAt_queued, State.walkDone_queued, queued_mk, foldl_queued, foldl_queued_fst]

theorem State.stage2?_queued {s k oa} (h : State.queued q s) : State.queued q (State.stage2? s k oa).1 := by
  grind (ematch := 20) [State.stage2?, State.stage2_queued]

theorem State.updateBoth_queued {s k l1 l2} (h : State.queued q s) : State.queued q (State.updateBoth s k l1 l2).1 := by
  grind (ematch := 20) [State.updateBoth, State.update1_queued, State.updateAt_queued]

theorem State.walkOnce_queued {s k va} (h : State.queued q s) : State.queued q (State.walkOnce s k va).1 := by
  unfold State.walkOnce
  dsimp only
  repeat' split
  all_goals grind (ematch := 20) [State.walk1_queued, State.stage2?_queued, State.updateBoth_queued, State.walkDone_queued, State.tlbFill_queued, queued_mk, foldl_queued, foldl_queued_fst]

theorem State.walkBoth_queued {s k va} (h : State.queued q s) : State.queued q (State.walkBoth s k va).1 := by
  unfold State.walkBoth
  grind (ematch := 20) [tryWalk_queued, State.walkOnce_queued, queued_mk, foldl_queued, foldl_queued_fst]

theorem State.noteTlb_queued {s k hits} (h : State.queued q s) : State.queued q (State.noteTlb s k hits) := by
  grind (ematch := 20) [State.noteTlb, State.note_queued]

theorem State.translate_queued {s k va} (h : State.queued q s) : State.queued q (State.translate s k va).1 := by
  unfold State.translate
  dsimp only
  repeat' split
  all_goals grind (ematch := 20) [tryWalk_queued, State.directRing0_queued, State.noteTlb_queued, State.walkBoth_queued, State.tlbServe_queued, State.pick_queued, queued_mk, foldl_queued, foldl_queued_fst]

theorem State.xlate_queued {s k va} (h : State.queued q s) : State.queued q (State.xlate s k va).1 := by
  grind (ematch := 20) [State.xlate, State.translate_queued]

/-! ## Machine/CoreMem.lean -/

theorem State.typeAt_queued {s k va} (h : State.queued q s) : State.queued q (State.typeAt s k va).1 := by
  grind (ematch := 20) [State.typeAt, State.translate_queued, queued_mk]

theorem State.pagesRule_queued {k rule at_ a a4} (h : State.queued q a4) : State.queued q (State.pagesRule k rule at_ a a4).1 := by
  fun_induction State.pagesRule k rule at_ a a4 <;> grind (ematch := 20) [State.typeAt_queued]

theorem State.pages_queued {k a a2} (h : State.queued q a2) : State.queued q (State.pages k a a2).1 := by
  fun_induction State.pages k a a2 <;> grind (ematch := 20) [State.xlate_queued]

theorem State.accsOf_queued {s k rule va n} (h : State.queued q s) : State.queued q (State.accsOf s k rule va n).1 := by
  grind (ematch := 20) [State.accsOf, State.pagesRule_queued, State.pages_queued]

theorem State.devWrite_queued {s c x2 b t} (h : State.queued q s) (e : State.devWrite s c x2 b = .ok t) : State.queued q t := by
  grind (ematch := 20) [State.devWrite, State.regWrite_queued, State.coreWrite_queued, State.memWrite_queued]

theorem State.arrive_queued {s c p} (h : State.queued q s) : State.queued q (State.arrive s c p) := by
  grind (ematch := 20) [State.arrive, State.devWrite_queued, State.postedError_queued]

theorem State.arriveSome_queued {s c must} (h : State.queued q s) : State.queued q (State.arriveSome s c must) := by
  unfold State.arriveSome
  dsimp only
  grind (ematch := 20) [State.arrive_queued, State.draw_queued, State.modA_queued, queued_mk, foldl_queued, foldl_queued_fst]

theorem State.arriveAll_queued {s c} (h : State.queued q s) : State.queued q (State.arriveAll s c) := by
  grind (ematch := 20) [State.arriveAll, State.arriveSome_queued]

theorem State.arriveAt_queued {s c a} (h : State.queued q s) : State.queued q (State.arriveAt s c a) := by
  grind (ematch := 20) [State.arriveAt, State.arriveSome_queued]

theorem State.predPut_queued {s c kind addr hist path target taken} (h : State.queued q s) : State.queued q (State.predPut s c kind addr hist path target taken) := by
  grind (ematch := 20) [State.predPut, State.insertFree_queued, State.modA_queued]

theorem State.missFor_queued {s c line} (h : State.queued q s) : State.queued q (State.missFor s c line).1 := by
  grind (ematch := 20) [State.missFor, State.note_queued, State.modA_queued]

theorem State.readAcc_queued {s c x2 ev} (h : State.queued q s) : State.queued q (State.readAcc s c x2 ev).1 := by
  unfold State.readAcc
  dsimp only
  repeat' split
  all_goals grind (ematch := 20) [State.regRead_queued, State.coreLine_queued, State.eccEvent_queued, State.memRead_queued, queued_mk, foldl_queued, foldl_queued_fst]

theorem State.readAccs_queued {c ev a a3} (h : State.queued q a3) : State.queued q (State.readAccs c ev a a3).1 := by
  fun_induction State.readAccs c ev a a3 <;> grind (ematch := 20) [State.readAcc_queued]

theorem State.missEach_queued {c a a2} (h : State.queued q a2) : State.queued q (State.missEach c a a2).1 := by
  fun_induction State.missEach c a a2 <;> grind (ematch := 20) [State.missFor_queued]

theorem State.missAll_queued {c l s} (h : State.queued q s) : State.queued q (State.missAll c l s).1 := by
  grind (ematch := 20) [State.missAll, State.missEach_queued, State.note_queued]

theorem State.depend_queued {s c l} (h : State.queued q s) : State.queued q (State.depend s c l) := by
  grind (ematch := 20) [State.depend, State.draw_queued, State.note_queued, State.predPut_queued]

theorem State.readSplit_queued {s c ev l} (h : State.queued q s) : State.queued q (State.readSplit s c ev l).1 := by
  unfold State.readSplit
  dsimp only
  repeat' split
  all_goals grind (ematch := 20) [State.readAccs_queued, State.modA_queued, State.draw_queued, queued_mk, foldl_queued, foldl_queued_fst]

theorem State.coreLoad_queued {s k rule va n ev mr} (h : State.queued q s) : State.queued q (State.coreLoad s k rule va n ev mr).1 := by
  unfold State.coreLoad
  dsimp only
  repeat' split
  all_goals grind (ematch := 20) [State.accsOf_queued, State.arriveAt_queued, State.drainAll_queued, State.modA_queued, State.note_queued, State.depend_queued, State.missAll_queued, State.readSplit_queued, State.readAccs_queued, queued_mk, foldl_queued, foldl_queued_fst]

theorem State.readNow_queued {s k va n} (h : State.queued q s) : State.queued q (State.readNow s k va n).1 := by
  grind (ematch := 20) [State.readNow, State.coreLoad_queued, State.drainAll_queued]

theorem State.devStore_queued {s c x b} (h : State.queued q s) : State.queued q (State.devStore s c x b).1 := by
  unfold State.devStore
  split
  · exact State.arriveSome_queued (State.modA_queued h)
  · split
    · rename_i u hu; exact State.devWrite_queued (State.arriveAt_queued h) hu
    · exact State.arriveAt_queued h

theorem State.devStores_queued {c x1 a a3 a4} (h : State.queued q a4) : State.queued q (State.devStores c x1 a a3 a4).1 := by
  fun_induction State.devStores c x1 a a3 a4 <;> grind (ematch := 20) [State.devStore_queued]

theorem State.sbPush_queued {s c e2} (h : State.queued q s) : State.queued q (State.sbPush s c e2) := by
  grind (ematch := 20) [State.sbPush, State.drainStore_queued, State.modA_queued]

theorem State.commitStore_queued {s k l b} (h : State.queued q s) : State.queued q (State.commitStore s k l b).1 := by
  unfold State.commitStore
  grind (ematch := 20) [State.devStores_queued, State.drainAll_queued, State.sbPush_queued]

theorem State.coreStore_queued {s k rule va b} (h : State.queued q s) : State.queued q (State.coreStore s k rule va b).1 := by
  grind (ematch := 20) [State.coreStore, State.accsOf_queued, State.commitStore_queued]

/-! ## Machine/Ops.lean -/

theorem State.setG_queued {s c r v} (h : State.queued q s) : State.queued q (State.setG s c r v) := by
  grind (ematch := 20) [State.setG, State.modA_queued]

theorem State.setF_queued {s c r v} (h : State.queued q s) : State.queued q (State.setF s c r v) := by
  grind (ematch := 20) [State.setF, State.modA_queued]

theorem State.push_queued {s k sp b} (h : State.queued q s) : State.queued q (State.push s k sp b).1 := by
  grind (ematch := 20) [State.push, State.coreStore_queued]

theorem State.hardStop_queued {s c pos vec pc} (h : State.queued q s) : State.queued q (State.hardStop s c pos vec pc) := by
  grind (ematch := 20) [State.hardStop, State.record_queued, State.modA_queued]

theorem State.pushEntry_queued {s c h2 f sv} (h : State.queued q s) : State.queued q (State.pushEntry s c h2 f sv).1 := by
  grind (ematch := 20) [State.pushEntry, State.push_queued, State.modA_queued]

theorem State.enterAt_queued {c n hl f sv s} (h : State.queued q s) : State.queued q (State.enterAt c n hl f sv s) := by
  induction n generalizing hl f sv s with
  | zero => exact State.hardStop_queued h
  | succ n ih =>
    unfold State.enterAt
    extract_lets a here esc
    have hesc (u : State) (v cause : Nat) (f : Exn) (k : State.queued q u) : State.queued q (esc u v cause f) := by
      show State.queued q (if _ then _ else _)
      split
      · exact ih k
      · exact State.hardStop_queued k
    clear_value esc a here
    split
    · exact hesc _ _ _ _ h
    · have k1 := State.pushEntry_queued (c := c) (h2 := hl) (f := f) (sv := sv) h
      generalize s.pushEntry c hl f sv = p at *
      obtain ⟨s1, r⟩ := p
      cases r with
      | error e => exact hesc _ _ _ _ k1
      | ok f' =>
        dsimp only
        split
        · rename_i e2; exact hesc _ _ _ _ (pair_queued (State.readNow_queued (State.modA_queued k1)) e2)
        · rename_i e2
          have k2 := pair_queued (State.readNow_queued (State.modA_queued k1)) e2
          split
          · exact hesc _ _ _ _ k2
          · exact State.modA_queued k2

theorem State.writeSlot_queued {s c r vec pc} (h : State.queued q s) : State.queued q (State.writeSlot s c r vec pc) := by
  grind (ematch := 20) [State.writeSlot, State.drainAll_queued, State.record_queued, State.coreWrite_queued, foldl_queued]

theorem State.asyncExit_queued {s c r vec pc write} (h : State.queued q s) : State.queued q (State.asyncExit s c r vec pc write).1 := by
  grind (ematch := 20) [State.asyncExit, State.writeSlot_queued, State.modA_queued]

theorem State.raiseAt_queued {s c f pc ds prio virt writeSlot} (h : State.queued q s) : State.queued q (State.raiseAt s c f pc ds prio virt writeSlot) := by
  grind (ematch := 20) [State.raiseAt, State.modA_queued, State.asyncExit_queued, State.enterAt_queued]

theorem State.raise_queued {s c f} (h : State.queued q s) : State.queued q (State.raise s c f) := by
  grind (ematch := 20) [State.raise, State.raiseAt_queued]

theorem State.forcedExit_queued {s c} (h : State.queued q s) : State.queued q (State.forcedExit s c) := by
  grind (ematch := 20) [State.forcedExit, State.modA_queued, State.raiseAt_queued]

theorem State.settleForced_queued {s} (h : State.queued q s) : State.queued q (State.settleForced s) := by
  grind (ematch := 20) [State.settleForced, State.forcedExit_queued, foldl_queued]

theorem State.eret_queued {s c} (h : State.queued q s) : State.queued q (State.eret s c).1 := by
  grind (ematch := 20) [State.eret, State.readNow_queued, State.modA_queued]

theorem State.argPage_queued {s k p n a} (h : State.queued q s) : State.queued q (State.argPage s k p n a).1 := by
  grind (ematch := 20) [State.argPage, State.xlate_queued, queued_mk]

theorem State.argPages_queued {k p n a a4} (h : State.queued q a4) : State.queued q (State.argPages k p n a a4).1 := by
  fun_induction State.argPages k p n a a4 <;> grind (ematch := 20) [State.argPage_queued]

theorem State.argBad_queued {s k p n} (h : State.queued q s) : State.queued q (State.argBad s k p n).1 := by
  grind (ematch := 20) [State.argBad, State.argPages_queued]

theorem State.argCheck_queued {s c code p n} (h : State.queued q s) : State.queued q (State.argCheck s c code p n).1 := by
  grind (ematch := 20) [State.argCheck, State.argBad_queued]

theorem State.gateArgs_queued {c n d a a4} (h : State.queued q a4) : State.queued q (State.gateArgs c n d a a4).1 := by
  fun_induction State.gateArgs c n d a a4 <;> grind (ematch := 20) [State.argCheck_queued]

theorem State.huskGateOk_queued {s c d} (h : State.queued q s) : State.queued q (State.huskGateOk s c d).1 := by
  grind (ematch := 20) [State.huskGateOk, State.translate_queued]

theorem State.huskResume_queued {s c n d sl} (h : State.queued q s) : State.queued q (State.huskResume s c n d sl).1 := by
  grind (ematch := 20) [State.huskResume, State.modA_queued, State.clearSlot_queued]

theorem State.huskGate_queued {s c n d} (h : State.queued q s) : State.queued q (State.huskGate s c n d).1 := by
  grind (ematch := 20) [State.huskGate, State.huskGateOk_queued, State.drainAll_queued, State.huskResume_queued, State.push_queued, State.modA_queued]

theorem State.ringGate_queued {s c n d} (h : State.queued q s) : State.queued q (State.ringGate s c n d).1 := by
  grind (ematch := 20) [State.ringGate, State.push_queued, State.modA_queued]

theorem State.gate_queued {s c n} (h : State.queued q s) : State.queued q (State.gate s c n).1 := by
  unfold State.gate
  dsimp only
  repeat' split
  all_goals grind (ematch := 20) [State.readNow_queued, State.gateArgs_queued, State.huskGate_queued, State.ringGate_queued, queued_mk, foldl_queued, foldl_queued_fst]

theorem State.huskGret_queued {s c r} (h : State.queued q s) : State.queued q (State.huskGret s c r).1 := by
  grind (ematch := 20) [State.huskGret, State.drainAll_queued, State.modA_queued]

theorem State.gret_queued {s c} (h : State.queued q s) : State.queued q (State.gret s c).1 := by
  grind (ematch := 20) [State.gret, State.huskGret_queued, State.readNow_queued, State.modA_queued]

/-! ## Machine/AExec.lean -/

theorem State.haltTry_queued {s c} (h : State.queued q s) : State.queued q (State.haltTry s c) := by
  grind (ematch := 20) [State.haltTry, State.modA_queued]

theorem State.pmLine_queued {s c} (h : State.queued q s) : State.queued q (State.pmLine s c) := by
  grind (ematch := 20) [State.pmLine, State.setLine_queued]

theorem State.countIn_queued {c x1 evs s n} (h : State.queued q s) : State.queued q (State.countIn c x1 evs s n) := by
  grind (ematch := 20) [State.countIn, State.modA_queued, queued_mk]

theorem State.mispredict_queued {s evs} (h : State.queued q s) : State.queued q (State.mispredict s evs).1 := by
  grind (ematch := 20) [State.mispredict, State.draw_queued]

theorem State.count_queued {s c x2 evs} (h : State.queued q s) : State.queued q (State.count s c x2 evs) := by
  grind (ematch := 20) [State.count, State.mispredict_queued, State.pmLine_queued, State.countIn_queued, foldl_queued]

theorem State.retPush_queued {s c pc} (h : State.queued q s) : State.queued q (State.retPush s c pc) := by
  grind (ematch := 20) [State.retPush, State.modA_queued]

theorem State.retPop_queued {s c} (h : State.queued q s) : State.queued q (State.retPop s c) := by
  grind (ematch := 20) [State.retPop, State.modA_queued]

theorem State.l1iFill_queued {s c line} (h : State.queued q s) : State.queued q (State.l1iFill s c line) := by
  grind (ematch := 20) [State.l1iFill, State.pick_queued, State.modA_queued]

theorem State.fetchLine_queued {s c line type pc} (h : State.queued q s) : State.queued q (State.fetchLine s c line type pc).1 := by
  grind (ematch := 20) [State.fetchLine, State.l1CrcError_queued, State.note_queued, State.coreLine_queued, State.l1iFill_queued]

theorem State.fetch_queued {s c} (h : State.queued q s) : State.queued q (State.fetch s c).1 := by
  grind (ematch := 20) [State.fetch, State.xlate_queued, State.regRead_queued, State.fetchLine_queued]

theorem State.commit_queued {s c x2 evs} (h : State.queued q s) : State.queued q (State.commit s c x2 evs) := by
  grind (ematch := 20) [State.commit, State.count_queued, State.modA_queued, queued_mk]

theorem State.stepDone_queued {s c} (h : State.queued q s) : State.queued q (State.stepDone s c) := by
  grind (ematch := 20) [State.stepDone, State.haltTry_queued, State.modA_queued]

theorem State.finishA_queued {s c x2 f evs} (h : State.queued q s) : State.queued q (State.finishA s c x2 f evs) := by
  unfold State.finishA
  grind (ematch := 20) [State.stepDone_queued, State.raise_queued, State.raiseAt_queued, State.commit_queued, State.haltTry_queued, State.modA_queued]

theorem State.wakeWfi_queued {s c} (h : State.queued q s) : State.queued q (State.wakeWfi s c) := by
  grind (ematch := 20) [State.wakeWfi, State.modA_queued]

theorem State.aRun_queued {s c w body} (h : State.queued q s) (hbody : ∀ y0 y1, State.queued q y1 → State.queued q (body y0 y1).1) : State.queued q (State.aRun s c w body) := by
  grind (ematch := 20) [State.aRun, State.finishA_queued]

theorem State.aStep_queued {s c w body} (h : State.queued q s) (hbody : ∀ y0 y1, State.queued q y1 → State.queued q (body y0 y1).1) : State.queued q (State.aStep s c w body) := by
  grind (ematch := 20) [State.aStep, State.served_queued, State.haltTry_queued, State.wakeWfi_queued, State.forcedExit_queued, State.fetch_queued, State.finishA_queued, State.aRun_queued]

theorem aLacks_queued {w a a2} (h : State.queued q a2) : State.queued q (aLacks w a a2).1 := by
  grind (ematch := 20) [aLacks]

/-! ## Machine/ABody.lean -/

theorem aReg_queued {c a a2} (h : State.queued q a2) : State.queued q (aReg c a a2).1 := by
  grind (ematch := 20) [aReg, State.setG_queued]

theorem aFloat_queued {c w a a3} (h : State.queued q a3) : State.queued q (aFloat c w a a3).1 := by
  unfold aFloat
  split <;> grind (ematch := 20) [State.modA_queued, State.setF_queued, State.setG_queued, queued_mk]

theorem State.learnBranch_queued {s c taken} (h : State.queued q s) : State.queued q (State.learnBranch s c taken) := by
  grind (ematch := 20) [State.learnBranch, State.draw_queued, State.predPut_queued, State.modA_queued]

theorem State.learnTarget_queued {s c indirect tgt} (h : State.queued q s) : State.queued q (State.learnTarget s c indirect tgt) := by
  grind (ematch := 20) [State.learnTarget, State.predPut_queued, State.modA_queued]

theorem State.callPush_queued {s c} (h : State.queued q s) : State.queued q (State.callPush s c) := by
  grind (ematch := 20) [State.callPush, State.retPush_queued]

theorem aBranch_queued {c a a2} (h : State.queued q a2) : State.queued q (aBranch c a a2).1 := by
  unfold aBranch
  dsimp only
  repeat' split
  all_goals grind (ematch := 20) [State.learnBranch_queued, State.learnTarget_queued, queued_mk, foldl_queued, foldl_queued_fst]

theorem aJump_queued {c a a2} (h : State.queued q a2) : State.queued q (aJump c a a2).1 := by
  unfold aJump
  dsimp only
  repeat' split
  all_goals grind (ematch := 20) [State.learnTarget_queued, State.setG_queued, State.callPush_queued, queued_mk, foldl_queued, foldl_queued_fst]

theorem aRegJump_queued {c w a a3} (h : State.queued q a3) : State.queued q (aRegJump c w a a3).1 := by
  unfold aRegJump
  dsimp only
  repeat' split
  all_goals grind (ematch := 20) [State.learnTarget_queued, State.retPop_queued, State.setG_queued, State.callPush_queued, queued_mk, foldl_queued, foldl_queued_fst]

theorem aLoad_queued {c w ev a a4} (h : State.queued q a4) : State.queued q (aLoad c w ev a a4).1 := by
  unfold aLoad
  grind (ematch := 20) [State.coreLoad_queued, State.modA_queued, State.setF_queued, State.setG_queued]

theorem aStore_queued {c a a2} (h : State.queued q a2) : State.queued q (aStore c a a2).1 := by
  unfold aStore
  grind (ematch := 20) [State.coreStore_queued]

theorem State.amoAt_queued {s c x2 op v cmp} (h : State.queued q s) : State.queued q (State.amoAt s c x2 op v cmp).1 := by
  grind (ematch := 20) [State.amoAt, State.ownLine_queued, State.l2Write_queued, State.homeAtomic_queued, State.memRead_queued, State.memWrite_queued]

theorem State.amoAcc_queued {s k va n} (h : State.queued q s) : State.queued q (State.amoAcc s k va n).1 := by
  grind (ematch := 20) [State.amoAcc, State.accsOf_queued]

theorem aAmo_queued {c a a2} (h : State.queued q a2) : State.queued q (aAmo c a a2).1 := by
  unfold aAmo
  split <;> grind (ematch := 20) [State.drainAll_queued, State.amoAcc_queued, State.amoAt_queued, State.setG_queued]

theorem aLda_queued {c a a2} (h : State.queued q a2) : State.queued q (aLda c a a2).1 := by
  unfold aLda
  dsimp only
  repeat' split
  all_goals grind (ematch := 20) [State.drainAll_queued, State.coreLoad_queued, State.modA_queued, State.setG_queued, queued_mk, foldl_queued, foldl_queued_fst]

theorem aStl_queued {c a a2} (h : State.queued q a2) : State.queued q (aStl c a a2).1 := by
  unfold aStl
  grind (ematch := 20) [State.drainAll_queued, State.coreStore_queued]

theorem State.unitRead_queued {s c va n} (h : State.queued q s) : State.queued q (State.unitRead s c va n).1 := by
  grind (ematch := 20) [State.unitRead, State.coreLoad_queued]

theorem State.unitWrite_queued {s c va b} (h : State.queued q s) : State.queued q (State.unitWrite s c va b).1 := by
  grind (ematch := 20) [State.unitWrite, State.coreStore_queued]

theorem blkUnit_queued {x0 get set rdMem wrMem op rd rs1 rs2 s} (h : State.queued q s) (hset : ∀ y0 y1 y2, State.queued q y0 → State.queued q (set y0 y1 y2)) (hrdMem : ∀ y0 y1 y2, State.queued q y0 → State.queued q (rdMem y0 y1 y2).1) (hwrMem : ∀ y0 y1 y2, State.queued q y0 → State.queued q (wrMem y0 y1 y2).1) : State.queued q (@blkUnit x0 get set rdMem wrMem op rd rs1 rs2 s).1 := by
  unfold blkUnit
  grind (ematch := 20) []

theorem State.unitA_queued {s c op rd rs1 rs2} (h : State.queued q s) : State.queued q (State.unitA s c op rd rs1 rs2).1 := by
  grind (ematch := 20) [State.unitA, blkUnit_queued, State.setG_queued, State.unitRead_queued, State.unitWrite_queued]

theorem State.unitsA_queued {c op rd rs1 rs2 a a6} (h : State.queued q a6) : State.queued q (State.unitsA c op rd rs1 rs2 a a6).1 := by
  fun_induction State.unitsA c op rd rs1 rs2 a a6 <;> grind (ematch := 20) [State.unitA_queued, State.modA_queued]

theorem aBlock_queued {c w units a a4} (h : State.queued q a4) : State.queued q (aBlock c w units a a4).1 := by
  unfold aBlock
  grind (ematch := 20) [State.drainAll_queued, State.unitsA_queued]

theorem aMfs_queued {c w a a3} (h : State.queued q a3) : State.queued q (aMfs c w a a3).1 := by
  unfold aMfs
  grind (ematch := 20) [State.drainAll_queued, State.setG_queued]

theorem aMts_queued {c w a a3} (h : State.queued q a3) : State.queued q (aMts c w a a3).1 := by
  unfold aMts
  grind (ematch := 20) [State.drainAll_queued, State.modA_queued, State.pmLine_queued]

theorem aEret_queued {c w a a3} (h : State.queued q a3) : State.queued q (aEret c w a a3).1 := by
  unfold aEret
  grind (ematch := 20) [State.eret_queued, State.modA_queued]

theorem aGate_queued {c w a a3} (h : State.queued q a3) : State.queued q (aGate c w a a3).1 := by
  unfold aGate
  grind (ematch := 20) [State.gate_queued]

theorem aGret_queued {c w a a3} (h : State.queued q a3) : State.queued q (aGret c w a a3).1 := by
  unfold aGret
  grind (ematch := 20) [State.gret_queued]

theorem aFence_queued {c a a2} (h : State.queued q a2) : State.queued q (aFence c a a2).1 := by
  unfold aFence
  dsimp only
  repeat' split
  all_goals grind (ematch := 20) [State.drainAll_queued, State.arriveAll_queued, queued_mk, foldl_queued, foldl_queued_fst]

theorem State.tlbEffect_queued {s t1} (h : State.queued q s) : State.queued q (State.tlbEffect s t1) := by
  grind (ematch := 20) [State.tlbEffect, State.modA_queued]

theorem aFenceT_queued {c a a2} (h : State.queued q a2) : State.queued q (aFenceT c a a2).1 := by
  grind (ematch := 20) [aFenceT, State.drainAll_queued, State.tlbEffect_queued, State.arriveAll_queued, queued_mk, foldl_queued]

theorem aSpb_queued {c a a2} (h : State.queued q a2) : State.queued q (aSpb c a a2).1 := by
  grind (ematch := 20) [aSpb, State.drainAll_queued]

theorem aPrflush_queued {c w a a3} (h : State.queued q a3) : State.queued q (aPrflush c w a a3).1 := by
  unfold aPrflush
  grind (ematch := 20) [State.drainAll_queued, State.modA_queued]

theorem aPrbar_queued {c a a2} (h : State.queued q a2) : State.queued q (aPrbar c a a2).1 := by
  unfold aPrbar
  grind (ematch := 20) [State.drainAll_queued, State.modA_queued]

theorem aWfi_queued {c w a a3} (h : State.queued q a3) : State.queued q (aWfi c w a a3).1 := by
  grind (ematch := 20) [aWfi, State.drainAll_queued, State.modA_queued]

theorem aBrk_queued {_c a a2} (h : State.queued q a2) : State.queued q (aBrk _c a a2).1 := by
  unfold aBrk
  grind (ematch := 20) []

theorem aNop_queued {a a1} (h : State.queued q a1) : State.queued q (aNop a a1).1 := by
  grind (ematch := 20) [aNop]

theorem aTlbi_queued {c w a a3} (h : State.queued q a3) : State.queued q (aTlbi c w a a3).1 := by
  unfold aTlbi
  grind (ematch := 20) [State.drainAll_queued, State.tlbEffect_queued, queued_mk]

theorem aCache_queued {c w a a3} (h : State.queued q a3) : State.queued q (aCache c w a a3).1 := by
  unfold aCache
  split <;> grind (ematch := 20) [State.drainAll_queued, State.accsOf_queued, State.postedError_queued, State.dcc_queued, State.dcci_queued, State.dci_queued, State.ici_queued, State.zline_queued]

/-! ## Machine/ACoreOps.lean -/

theorem execStoreBufferDrain_queued {c s t} (h : State.queued q s) (e : execStoreBufferDrain c s = .next t) : State.queued q t := by
  grind (ematch := 20) [execStoreBufferDrain, State.served_queued, State.arriveSome_queued, State.drainOne_queued]

theorem State.reissue_queued {s c} (h : State.queued q s) : State.queued q (State.reissue s c) := by
  grind (ematch := 20) [State.reissue, State.haltTry_queued, State.modA_queued, State.forcedExit_queued, State.aRun_queued, aLoad_queued]

theorem execPartialOverlapReissue_queued {c s t} (h : State.queued q s) (e : execPartialOverlapReissue c s = .next t) : State.queued q t := by
  grind (ematch := 20) [execPartialOverlapReissue, State.served_queued, State.reissue_queued]

theorem execL1dMissFill_queued {c pa s t} (h : State.queued q s) (e : execL1dMissFill c pa s = .next t) : State.queued q t := by
  grind (ematch := 20) [execL1dMissFill, State.served_queued, State.l1Fill_queued, State.reissue_queued, State.modA_queued]

theorem execPrefetchIssue_queued {c va s t} (h : State.queued q s) (e : execPrefetchIssue c va s = .next t) : State.queued q t := by
  grind (ematch := 20) [execPrefetchIssue, State.served_queued, State.coreLine_queued, State.modA_queued]

theorem State.walkFor_queued {s c k va} (h : State.queued q s) : State.queued q (State.walkFor s c k va) := by
  grind (ematch := 20) [State.walkFor, State.translate_queued, State.modA_queued, State.raise_queued]

theorem execTableWalk_queued {c va kind s t} (h : State.queued q s) (e : execTableWalk c va kind s = .next t) : State.queued q t := by
  grind (ematch := 20) [execTableWalk, State.served_queued, State.walkFor_queued]

theorem State.leafPlace_queued {s k st2 ea} (h : State.queued q s) : State.queued q (State.leafPlace s k st2 ea).1 := by
  grind (ematch := 20) [State.leafPlace, State.tblPage_queued]

theorem execAdUpdate_queued {c va st2 ea seen write s t} (h : State.queued q s) (e : execAdUpdate c va st2 ea seen write s = .next t) : State.queued q t := by
  simp only [execAdUpdate, Host.Outcome.next.injEq] at e
  subst e
  refine State.served_queued h fun s h => ?_
  split
  · exact h
  · have hl := @State.leafPlace_queued q
    split
    · rename_i u f hu; exact State.raise_queued (pair_queued (State.leafPlace_queued h) hu)
    · rename_i u p t hu
      have h1 := pair_queued (State.leafPlace_queued h) hu
      split
      · exact h1
      · split
        · rename_i w x hw; exact pair_queued (State.walkRead_queued h1) hw
        · rename_i w x hw
          have h2 := pair_queued (State.walkRead_queued h1) hw
          split
          · rename_i y hy; exact pair_queued (State.casEntry_queued h2) hy
          · rename_i y hy; exact State.walkFor_queued (pair_queued (State.casEntry_queued h2) hy)

theorem execInterruptTake_queued {c s t} (h : State.queued q s) (e : execInterruptTake c s = .next t) : State.queued q t := by
  grind (ematch := 20) [execInterruptTake, State.served_queued, State.forcedExit_queued, State.raiseAt_queued, State.claim_queued]

theorem execTlbiRemoteEffect_queued {c s t} (h : State.queued q s) (e : execTlbiRemoteEffect c s = .next t) : State.queued q t := by
  grind (ematch := 20) [execTlbiRemoteEffect, State.tlbEffect_queued, queued_mk]

theorem State.aHalt_queued {s c} (h : State.queued q s) : State.queued q (State.aHalt s c) := by
  grind (ematch := 20) [State.aHalt, State.haltTry_queued, State.wakeWfi_queued, State.modA_queued]

theorem State.aResume_queued {s c single} (h : State.queued q s) : State.queued q (State.aResume s c single) := by
  grind (ematch := 20) [State.aResume, State.modA_queued]

/-! ## Machine/Boot.lean -/

theorem State.lockEnvelope_queued {s h1 body} (h : State.queued q s) : State.queued q (State.lockEnvelope s h1 body) := by
  grind (ematch := 20) [State.lockEnvelope, State.modPort_queued, State.pinsSafe_queued, queued_mk, foldl_queued]

theorem State.recWrite_queued {s key v} (h : State.queued q s) : State.queued q (State.recWrite s key v) := by
  grind (ematch := 20) [State.recWrite, State.seedWrite_queued, State.putEnt_queued, State.keyWritten_queued, State.retireClear_queued, getD_queued]

theorem State.applyRecs_queued {all a a2 t} (h : State.queued q a2) (e : State.applyRecs all a a2 = some t) : State.queued q t := by
  fun_induction State.applyRecs all a a2 <;> grind (ematch := 20) [State.recWrite_queued]

theorem State.applyParams_queued {s x body t} (h : State.queued q s) (e : State.applyParams s x body = some t) : State.queued q t := by
  unfold State.applyParams at e
  split at e
  · cases e
  · dsimp only at e
    split at e
    · cases e
    · rename_i s1 e1
      have h1 : State.queued q s1 := State.applyRecs_queued h e1
      refine Option.some.inj e ▸ State.powered_queued (State.thermal_queued (State.safeNUpdate_queued ?_))
      refine ite_queued (State.modHz_queued ?_) ?_ <;>
        exact ite_queued (State.seedWrite_queued (State.seedWrite_queued (State.seedWrite_queued (State.setB_queued (State.setE_queued (State.setE_queued h1)))))) h1

theorem State.stage_queued {s k} (h : State.queued q s) : State.queued q (State.stage s k) := by
  grind (ematch := 20) [State.stage, State.setE_queued]

theorem State.loadSmc_queued {s load body} (h : State.queued q s) : State.queued q (State.loadSmc s load body) := by
  unfold State.loadSmc
  grind (ematch := 20) [queued_mk]

theorem State.smcImage_queued {s type unit h3 body} (h : State.queued q s) : State.queued q (State.smcImage s type unit h3 body) := by
  grind (ematch := 20) [State.smcImage, State.modHz_queued, State.setE_queued, State.dmaWrite_queued]

theorem State.romImage_queued {s h1 body} (h : State.queued q s) : State.queued q (State.romImage s h1 body) := by
  grind (ematch := 20) [State.romImage, State.bootStop_queued, State.stage_queued, State.setE_queued, State.lockEnvelope_queued, State.applyParams_queued, State.loadSmc_queued]

theorem execBootImageVerify_queued {h0 unit body s t} (h : State.queued q s) (e : execBootImageVerify h0 unit body s = .next t) : State.queued q t := by
  grind (ematch := 20) [execBootImageVerify, State.served_queued, State.stage9_queued, State.bootStop_queued, State.romImage_queued, State.smcImage_queued]

theorem execMicrocodeLoad_queued {s t} (h : State.queued q s) (e : execMicrocodeLoad s = .next t) : State.queued q t := by
  grind (ematch := 20) [execMicrocodeLoad, State.stage9_queued, queued_mk]

/-! ## Machine/Caches.lean -/

theorem State.homeErr_queued {s r a write} (h : State.queued q s) : State.queued q (State.homeErr s r a write).1 := by
  grind (ematch := 20) [State.homeErr, State.huskRecord_queued]

theorem execRdShare_queued {p line tc ev s t} (h : State.queued q s) (e : execRdShare p line tc ev s = .next t) : State.queued q t := by
  grind (ematch := 20) [execRdShare, State.homeErr_queued, State.request_queued, queued_mk]

theorem execRdOwn_queued {p line tc s t} (h : State.queued q s) (e : execRdOwn p line tc s = .next t) : State.queued q t := by
  grind (ematch := 20) [execRdOwn, State.homeErr_queued, State.postedError_queued, State.request_queued, queued_mk]

theorem execRdPeek_queued {r line tc ev s t} (h : State.queued q s) (e : execRdPeek r line tc ev s = .next t) : State.queued q t := by
  grind (ematch := 20) [execRdPeek, State.homeErr_queued, State.request_queued, queued_mk]

theorem execWrPush_queued {r addr data tc s t} (h : State.queued q s) (e : execWrPush r addr data tc s = .next t) : State.queued q t := by
  grind (ematch := 20) [execWrPush, State.homeErr_queued, State.postedError_queued, State.request_queued, queued_mk]

theorem execHaAtomic_queued {r op addr size v cmp tc s t} (h : State.queued q s) (e : execHaAtomic r op addr size v cmp tc s = .next t) : State.queued q t := by
  grind (ematch := 20) [execHaAtomic, State.homeErr_queued, State.request_queued, queued_mk]

theorem State.evict_queued {s p line dirty ph} (h : State.queued q s) : State.queued q (State.evict s p line dirty ph) := by
  unfold State.evict
  grind (ematch := 20) [State.modPod_queued, State.dropL2_queued, State.evArrive_queued]

theorem execEvClean_queued {p line ph s t} (h : State.queued q s) (e : execEvClean p line ph s = .next t) : State.queued q t := by
  grind (ematch := 20) [execEvClean, State.evict_queued]

theorem execEvDirty_queued {p line ph s t} (h : State.queued q s) (e : execEvDirty p line ph s = .next t) : State.queued q t := by
  grind (ematch := 20) [execEvDirty, State.evict_queued]

theorem execSnShare_queued {p line s t} (h : State.queued q s) (e : execSnShare p line s = .next t) : State.queued q t := by
  grind (ematch := 20) [execSnShare, State.deliverSnoop_queued]

theorem execSnTake_queued {p line s t} (h : State.queued q s) (e : execSnTake p line s = .next t) : State.queued q t := by
  grind (ematch := 20) [execSnTake, State.deliverSnoop_queued]

theorem execSnPeek_queued {p line s t} (h : State.queued q s) (e : execSnPeek p line s = .next t) : State.queued q t := by
  grind (ematch := 20) [execSnPeek, State.deliverSnoop_queued]

theorem execSnoopAnswer_queued {p line ev s t} (h : State.queued q s) (e : execSnoopAnswer p line ev s = .next t) : State.queued q t := by
  grind (ematch := 20) [execSnoopAnswer, State.answer_queued, State.modHome_queued]

theorem execEvictionAck_queued {p line s t} (h : State.queued q s) (e : execEvictionAck p line s = .next t) : State.queued q t := by
  grind (ematch := 20) [execEvictionAck, State.modPod_queued]

theorem execSnoopTimeout_queued {line s t} (h : State.queued q s) (e : execSnoopTimeout line s = .next t) : State.queued q t := by
  unfold execSnoopTimeout at e
  grind (ematch := 20) [State.setFilt_queued, State.setE_queued, State.modHome_queued, State.record_queued, State.poisonTxn_queued, foldl_queued, foldl_queued_fst]

theorem execCleanWaysDone_queued {s t} (h : State.queued q s) (e : execCleanWaysDone s = .next t) : State.queued q t := by
  grind (ematch := 20) [execCleanWaysDone, State.served_queued, State.setE_queued, State.dcc_queued, foldl_queued]

/-! ## Machine/Dap.lean -/

theorem State.acceptFresh_queued {s src k v} (h : State.queued q s) : State.queued q (State.acceptFresh s src k v) := by
  grind (ematch := 20) [State.acceptFresh, State.modDap_queued, State.seedWrite_queued]

theorem State.refuse_queued {s p st detail} (h : State.queued q s) : State.queued q (State.refuse s p st detail) := by
  grind (ematch := 20) [State.refuse, State.dapAnswer_queued]

theorem State.dapReceive_queued {s tr b} (h : State.queued q s) : State.queued q (State.dapReceive s tr b) := by
  grind (ematch := 20) [State.dapReceive, State.addE_queued, State.refuse_queued, State.acceptFresh_queued, State.modDap_queued]

theorem execDapPduReceive_queued {tr pdu s t} (h : State.queued q s) (e : execDapPduReceive tr pdu s = .next t) : State.queued q t := by
  grind (ematch := 20) [execDapPduReceive, State.served_queued, State.dapReceive_queued]

theorem State.refuseIf_queued {s p st} (h : State.queued q s) : State.queued q (State.refuseIf s p st) := by
  grind (ematch := 20) [State.refuseIf, State.refuse_queued]

theorem State.serveRead_queued {s p} (h : State.queued q s) : State.queued q (State.serveRead s p) := by
  grind (ematch := 20) [State.serveRead, State.refuseIf_queued, State.waitEnt_queued, State.dictRead_queued, State.dapAnswer_queued]

theorem State.serveWrite_queued {s p} (h : State.queued q s) : State.queued q (State.serveWrite s p) := by
  grind (ematch := 20) [State.serveWrite, State.refuseIf_queued, State.dictWrite_queued]

theorem State.freeSub_queued {s} (h : State.queued q s) : State.queued q (State.freeSub s).1 := by
  grind (ematch := 20) [State.freeSub, queued_mk]

theorem State.serveSubscribe_queued {s p} (h : State.queued q s) : State.queued q (State.serveSubscribe s p) := by
  grind (ematch := 20) [State.serveSubscribe, State.refuseIf_queued, State.freeSub_queued, State.dapAnswer_queued, State.modDap_queued]

theorem State.serveUnsubscribe_queued {s p} (h : State.queued q s) : State.queued q (State.serveUnsubscribe s p) := by
  grind (ematch := 20) [State.serveUnsubscribe, State.refuseIf_queued, State.dapAnswer_queued, State.modDap_queued]

theorem State.servePing_queued {s p} (h : State.queued q s) : State.queued q (State.servePing s p) := by
  grind (ematch := 20) [State.servePing, State.modDap_queued, State.refuseIf_queued, State.dapAnswer_queued]

theorem State.serveClaim_queued {s p} (h : State.queued q s) : State.queued q (State.serveClaim s p) := by
  grind (ematch := 20) [State.serveClaim, State.refuse_queued, State.claimEnsign_queued]

theorem State.serveRelease_queued {s p} (h : State.queued q s) : State.queued q (State.serveRelease s p) := by
  grind (ematch := 20) [State.serveRelease, State.refuse_queued, State.passEnsign_queued]

theorem State.serve_queued {s p} (h : State.queued q s) : State.queued q (State.serve s p) := by
  grind (ematch := 20) [State.serve, State.refuseIf_queued, State.serveRead_queued, State.serveWrite_queued, State.serveSubscribe_queued, State.serveUnsubscribe_queued, State.servePing_queued, State.serveClaim_queued, State.serveRelease_queued]

theorem State.takePdu_queued {s c f} (h : State.queued q s) (hf : ∀ y0 y1, State.queued q y0 → State.queued q (f y0 y1)) : State.queued q (State.takePdu s c f) := by
  grind (ematch := 20) [State.takePdu, State.modDap_queued]

theorem State.serveFirst_queued {s svc} (h : State.queued q s) : State.queued q (State.serveFirst s svc) := by
  grind (ematch := 20) [State.serveFirst, State.takePdu_queued, State.serve_queued, State.modDap_queued]

theorem execDapRead_queued {s t} (h : State.queued q s) (e : execDapRead s = .next t) : State.queued q t := by
  grind (ematch := 20) [execDapRead, State.served_queued, State.serveFirst_queued]

theorem execDapWrite_queued {s t} (h : State.queued q s) (e : execDapWrite s = .next t) : State.queued q t := by
  grind (ematch := 20) [execDapWrite, State.served_queued, State.serveFirst_queued]

theorem execDapSubscribe_queued {s t} (h : State.queued q s) (e : execDapSubscribe s = .next t) : State.queued q t := by
  grind (ematch := 20) [execDapSubscribe, State.served_queued, State.serveFirst_queued]

theorem execDapUnsubscribe_queued {s t} (h : State.queued q s) (e : execDapUnsubscribe s = .next t) : State.queued q t := by
  grind (ematch := 20) [execDapUnsubscribe, State.served_queued, State.serveFirst_queued]

theorem execDapPing_queued {s t} (h : State.queued q s) (e : execDapPing s = .next t) : State.queued q t := by
  grind (ematch := 20) [execDapPing, State.served_queued, State.serveFirst_queued]

theorem execDapEnsignClaim_queued {s t} (h : State.queued q s) (e : execDapEnsignClaim s = .next t) : State.queued q t := by
  grind (ematch := 20) [execDapEnsignClaim, State.served_queued, State.serveFirst_queued]

theorem execDapEnsignRelease_queued {s t} (h : State.queued q s) (e : execDapEnsignRelease s = .next t) : State.queued q t := by
  grind (ematch := 20) [execDapEnsignRelease, State.served_queued, State.serveFirst_queued]

theorem execBroadcastPingDelay_queued {s t} (h : State.queued q s) (e : execBroadcastPingDelay s = .next t) : State.queued q t := by
  grind (ematch := 20) [execBroadcastPingDelay, State.served_queued, State.dapAnswer_queued, State.modDap_queued]

theorem execDapNotify_queued {k s t} (h : State.queued q s) (e : execDapNotify k s = .next t) : State.queued q t := by
  simp only [execDapNotify, Host.Outcome.next.injEq] at e
  subst e
  refine State.served_queued h fun s h => ?_
  split <;> grind (ematch := 20) [State.drawRead_queued, State.draw_queued, State.modDap_queued, State.dapSend_queued, queued_mk, foldl_queued, foldl_queued_fst]

theorem State.serveWait_queued {s a} (h : State.queued q s) : State.queued q (State.serveWait s a) := by
  unfold State.serveWait
  split <;> grind (ematch := 20) [State.dictWrite_queued, State.mailRead_queued, State.serveRead_queued, queued_mk, foldl_queued, foldl_queued_fst]

theorem State.releaseWaits_queued {s} (h : State.queued q s) : State.queued q (State.releaseWaits s) := by
  grind (ematch := 20) [State.releaseWaits, State.serveWait_queued, queued_mk, foldl_queued]

theorem execSeedStoreWriteDone_queued {ok s t} (h : State.queued q s) (e : execSeedStoreWriteDone ok s = .next t) : State.queued q t := by
  grind (ematch := 20) [execSeedStoreWriteDone, State.served_queued, State.releaseWaits_queued, State.applyStored_queued, State.seedWrite_queued, State.complete_queued, queued_mk]

theorem State.sendAck_queued {s p next} (h : State.queued q s) : State.queued q (State.sendAck s p next) := by
  grind (ematch := 20) [State.sendAck, State.dapSend_queued]

theorem State.dropTxn_queued {s src txn} (h : State.queued q s) : State.queued q (State.dropTxn s src txn) := by
  grind (ematch := 20) [State.dropTxn, State.modDap_queued]

theorem State.segment_queued {s p} (h : State.queued q s) : State.queued q (State.segment s p) := by
  grind (ematch := 20) [State.segment, State.dropTxn_queued, State.refuseIf_queued, State.modDap_queued, State.sendAck_queued, State.serve_queued]

theorem execDapSegment_queued {s t} (h : State.queued q s) (e : execDapSegment s = .next t) : State.queued q t := by
  grind (ematch := 20) [execDapSegment, State.served_queued, State.takePdu_queued, State.segment_queued]

theorem execDapAck_queued {s t} (h : State.queued q s) (e : execDapAck s = .next t) : State.queued q t := by
  grind (ematch := 20) [execDapAck, State.served_queued, State.takePdu_queued, State.sendBurst_queued, State.modDap_queued]

theorem execDapAbort_queued {s t} (h : State.queued q s) (e : execDapAbort s = .next t) : State.queued q t := by
  grind (ematch := 20) [execDapAbort, State.takePdu_queued, State.dropTxn_queued]

theorem execDapTransactionTimeout_queued {n s t} (h : State.queued q s) (e : execDapTransactionTimeout n s = .next t) : State.queued q t := by
  grind (ematch := 20) [execDapTransactionTimeout, State.modDap_queued]

theorem State.claimWon_queued {s h1 node e3} (h : State.queued q s) : State.queued q (State.claimWon s h1 node e3) := by
  grind (ematch := 20) [State.claimWon, State.pulse_queued, State.modDap_queued, State.seedWrite_queued, State.setE_queued]

theorem State.tellClaims_queued {s l st} (h : State.queued q s) : State.queued q (State.tellClaims s l st) := by
  grind (ematch := 20) [State.tellClaims, State.complete_queued, foldl_queued]

theorem State.decideClaims_queued {s} (h : State.queued q s) : State.queued q (State.decideClaims s) := by
  unfold State.decideClaims
  grind (ematch := 20) [State.modDap_queued, State.tellClaims_queued, State.claimWon_queued, State.complete_queued, State.setE_queued, State.addE_queued, foldl_queued, foldl_queued_fst]

theorem execEnsignWindowClose_queued {s t} (h : State.queued q s) (e : execEnsignWindowClose s = .next t) : State.queued q t := by
  grind (ematch := 20) [execEnsignWindowClose, State.served_queued, State.decideClaims_queued]

theorem execEnsignLeaseExpiry_queued {s t} (h : State.queued q s) (e : execEnsignLeaseExpiry s = .next t) : State.queued q t := by
  grind (ematch := 20) [execEnsignLeaseExpiry, State.passEnsign_queued]

theorem execCanFrameReceive_queued {n f s t} (h : State.queued q s) (e : execCanFrameReceive n f s = .next t) : State.queued q t := by
  grind (ematch := 20) [execCanFrameReceive, State.served_queued, State.canReceive_queued, State.dapReceive_queued, State.tryKeys_queued]

/-! ## Machine/MeshOps.lean -/

theorem execHuskDestroy_queued {q0 h1 s t} (h : State.queued q s) (e : execHuskDestroy q0 h1 s = .next t) : State.queued q t := by
  grind (ematch := 20) [execHuskDestroy, State.served_queued, State.settleForced_queued, State.reqWrite_queued]

theorem execDictWindowWrite_queued {m index sub v s t} (h : State.queued q s) (e : execDictWindowWrite m index sub v s = .next t) : State.queued q t := by
  grind (ematch := 20) [execDictWindowWrite, State.served_queued, State.settleForced_queued, State.windowWrite_queued, queued_mk]

theorem execMbWrite_queued {m p s t} (h : State.queued q s) (e : execMbWrite m p s = .next t) : State.queued q t := by
  grind (ematch := 20) [execMbWrite, State.served_queued, State.settleForced_queued, State.mailAccess_queued, State.mailCmd_queued]

theorem State.writeRefused_queued {s m t2 a r} (h : State.queued q s) : State.queued q (State.writeRefused s m t2 a r) := by
  grind (ematch := 20) [State.writeRefused, State.postedError_queued, queued_mk]

theorem execRegisterWrite_queued {m t1 addr size v s t} (h : State.queued q s) (e : execRegisterWrite m t1 addr size v s = .next t) : State.queued q t := by
  grind (ematch := 20) [execRegisterWrite, State.served_queued, State.regWrite_queued, State.settleForced_queued, State.writeRefused_queued]

theorem execTcmMeshWrite_queued {m t1 addr size v s t} (h : State.queued q s) (e : execTcmMeshWrite m t1 addr size v s = .next t) : State.queued q t := by
  grind (ematch := 20) [execTcmMeshWrite, State.writeRefused_queued, State.memWrite_queued]

theorem execSuspendCoresIdle_queued {s t} (h : State.queued q s) (e : execSuspendCoresIdle s = .next t) : State.queued q t := by
  simp only [execSuspendCoresIdle, Host.Outcome.next.injEq] at e
  subst e
  refine State.served_queued h fun s h => ?_
  split
  · exact h
  · have h1 := foldl_queued (q := q) (f := fun s (c : Fin 32) => s.arriveAll c) (l := allFin 32) (fun _ _ hs => State.arriveAll_queued hs) h
    split
    · exact State.heldWake_queued (State.suspendEntry_queued h1)
    · exact State.heldWake_queued (State.sleepEntry_queued (State.quiesce_queued h1))
    · exact h

theorem State.pciePoison_queued {s k a poison} (h : State.queued q s) : State.queued q (State.pciePoison s k a poison) := by
  grind (ematch := 20) [State.pciePoison, State.record_queued]

theorem State.pcieRead_queued {s k a len} (h : State.queued q s) : State.queued q (State.pcieRead s k a len) := by
  unfold State.pcieRead
  repeat' split
  all_goals grind (ematch := 20) [State.regRead_queued, State.dmaRead_queued, State.pciePoison_queued, queued_mk]

theorem State.pcieWrite_queued {s k a d} (h : State.queued q s) : State.queued q (State.pcieWrite s k a d) := by
  grind (ematch := 20) [State.pcieWrite, State.pulse_queued, State.record_queued, State.regWrite_queued, State.settleForced_queued, State.dmaWrite_queued, queued_mk]

theorem State.pcieAtomic_queued {s k op a d n} (h : State.queued q s) : State.queued q (State.pcieAtomic s k op a d n) := by
  grind (ematch := 20) [State.pcieAtomic, State.homeAtomic_queued, State.pciePoison_queued, State.memRead_queued, State.memWrite_queued, queued_mk]

theorem execPcieInboundRequest_queued {k op addr d len s t} (h : State.queued q s) (e : execPcieInboundRequest k op addr d len s = .next t) : State.queued q t := by
  simp only [execPcieInboundRequest, Host.Outcome.next.injEq] at e
  subst e
  refine State.served_queued h fun s h => ?_
  split <;> grind (ematch := 20) [State.pcieRead_queued, State.pcieWrite_queued, State.pcieAtomic_queued, queued_mk, foldl_queued, foldl_queued_fst]

/-! ## Machine/TMem.lean -/

theorem State.tEcc_queued {s i k kind a n ev} (h : State.queued q s) : State.queued q (State.tEcc s i k kind a n ev) := by
  unfold State.tEcc
  dsimp only
  repeat' split
  all_goals grind (ematch := 20) [State.eccFix_queued, State.eccEvent_queued, queued_mk, foldl_queued, foldl_queued_fst]

theorem State.dtcmWrite_queued {s i k w} (h : State.queued q s) : State.queued q (State.dtcmWrite s i k w) := by
  unfold State.dtcmWrite
  grind (ematch := 20) [State.clearTags_queued, State.eccWrite_queued, queued_mk]

theorem State.mergeEcc_queued {s i unit a p n arr ev} (h : State.queued q s) : State.queued q (State.mergeEcc s i unit a p n arr ev) := by
  grind (ematch := 20) [State.mergeEcc, State.eccEvent_queued, State.eccWord_queued, foldl_queued]

theorem State.tDrainOne_queued {s i k} (h : State.queued q s) : State.queued q (State.tDrainOne s i k) := by
  grind (ematch := 20) [State.tDrainOne, State.dtcmWrite_queued, State.modTc_queued, State.setE_queued]

theorem State.tDrain_queued {s i k} (h : State.queued q s) : State.queued q (State.tDrain s i k) := by
  grind (ematch := 20) [State.tDrain, State.tDrainOne_queued]

theorem State.tDrainMeets_queued {i k a n a4 a5} (h : State.queued q a5) : State.queued q (State.tDrainMeets i k a n a4 a5) := by
  fun_induction State.tDrainMeets i k a n a4 a5 <;> grind (ematch := 20) [State.tDrainOne_queued]

theorem State.tPush_queued {s i k a n data tag} (h : State.queued q s) : State.queued q (State.tPush s i k a n data tag).1 := by
  grind (ematch := 20) [State.tPush, State.tDrainOne_queued, State.modTc_queued]

theorem State.farPart_queued {s i pa n} (h : State.queued q s) : State.queued q (State.farPart s i pa n).1 := by
  grind (ematch := 20) [State.farPart, State.regRead_queued, State.memRead_queued]

theorem State.farRead_queued {s i pa n} (h : State.queued q s) : State.queued q (State.farRead s i pa n).1 := by
  unfold State.farRead
  dsimp only
  repeat' split
  all_goals grind (ematch := 20) [State.farPart_queued, queued_mk, foldl_queued, foldl_queued_fst]

theorem State.portRead_queued {s i k a n ev} (h : State.queued q s) : State.queued q (State.portRead s i k a n ev).1 := by
  grind (ematch := 20) [State.portRead, State.tEcc_queued, State.farRead_queued]

theorem State.pruneDone_queued {s i} (h : State.queued q s) : State.queued q (State.pruneDone s i) := by
  grind (ematch := 20) [State.pruneDone, State.modIsl_queued, State.addE_queued]

theorem State.portMismatch_queued {s i k} (h : State.queued q s) : State.queued q (State.portMismatch s i k) := by
  grind (ematch := 20) [State.portMismatch, State.coreMismatch_queued, State.addE_queued]

theorem State.takeDone_queued {s i k d} (h : State.queued q s) : State.queued q (State.takeDone s i k d) := by
  grind (ematch := 20) [State.takeDone, State.pruneDone_queued, State.modIsl_queued]

theorem State.keepDone_queued {s i d} (h : State.queued q s) : State.queued q (State.keepDone s i d) := by
  grind (ematch := 20) [State.keepDone, State.pruneDone_queued, State.modIsl_queued]

theorem State.portLoad_queued {s i k a n kind unit_ ev} (h : State.queued q s) : State.queued q (State.portLoad s i k a n kind unit_ ev).1 := by
  grind (ematch := 20) [State.portLoad, State.takeDone_queued, State.portRead_queued, State.addE_queued, State.portMismatch_queued, State.keepDone_queued]

theorem State.tcmRead_queued {s i k kind a n ev cyc} (h : State.queued q s) : State.queued q (State.tcmRead s i k kind a n ev cyc).1 := by
  grind (ematch := 20) [State.tcmRead, State.tEcc_queued]

theorem State.dtcmLoad_queued {s i k a n ev} (h : State.queued q s) : State.queued q (State.dtcmLoad s i k a n ev).1 := by
  grind (ematch := 20) [State.dtcmLoad, State.tcmRead_queued, State.tDrainMeets_queued]

theorem State.tOrder_queued {s i k a n all} (h : State.queued q s) : State.queued q (State.tOrder s i k a n all).1 := by
  grind (ematch := 20) [State.tOrder, State.tDrain_queued, State.modTc_queued]

theorem State.tParked_queued {s i k a n} (h : State.queued q s) : State.queued q (State.tParked s i k a n).1 := by
  grind (ematch := 20) [State.tParked, State.modTc_queued, State.addE_queued]

theorem State.farWait_queued {s i k a n kind w} (h : State.queued q s) : State.queued q (State.farWait s i k a n kind w) := by
  grind (ematch := 20) [State.farWait, State.modTc_queued]

theorem State.farLone_queued {s i k own} (h : State.queued q s) : State.queued q (State.farLone s i k own) := by
  grind (ematch := 20) [State.farLone, State.portMismatch_queued, State.modIsl_queued]

theorem State.reportOdd_queued {s i t2} (h : State.queued q s) : State.queued q (State.reportOdd s i t2) := by
  grind (ematch := 20) [State.reportOdd, State.modIsl_queued, State.portMismatch_queued, foldl_queued]

theorem State.farJoin_queued {s i k a n kind w} (h : State.queued q s) : State.queued q (State.farJoin s i k a n kind w) := by
  grind (ematch := 20) [State.farJoin, State.reportOdd_queued, State.farWait_queued, State.modIsl_queued, State.portMismatch_queued, State.farLone_queued, State.noMajority_queued, State.addE_queued]

theorem State.farGot_queued {s a d} (h : State.queued q s) : State.queued q (State.farGot s a d).1 := by
  grind (ematch := 20) [State.farGot, State.draw_queued]

theorem State.farAccess_queued {s i k a n kind w dev} (h : State.queued q s) : State.queued q (State.farAccess s i k a n kind w dev).1 := by
  grind (ematch := 20) [State.farAccess, State.tParked_queued, State.farGot_queued, State.takeDone_queued, State.farJoin_queued, State.portMismatch_queued, State.farLone_queued]

theorem State.tLoad_queued {s i k a n perm al kind ev w} (h : State.queued q s) : State.queued q (State.tLoad s i k a n perm al kind ev w).1 := by
  grind (ematch := 20) [State.tLoad, State.dtcmLoad_queued, State.farAccess_queued, State.tcmRead_queued, State.tOrder_queued, State.portLoad_queued]

theorem State.tStore_queued {s i k a n perm al data tag} (h : State.queued q s) : State.queued q (State.tStore s i k a n perm al data tag).1 := by
  grind (ematch := 20) [State.tStore, State.tPush_queued]

/-! ## Machine/TExec.lean -/

theorem State.setTg_queued {s i k r v} (h : State.queued q s) : State.queued q (State.setTg s i k r v) := by
  grind (ematch := 20) [State.setTg, State.modTc_queued]

theorem State.setTf_queued {s i k r v} (h : State.queued q s) : State.queued q (State.setTf s i k r v) := by
  grind (ematch := 20) [State.setTf, State.modTc_queued]

theorem State.setTcap_queued {s i k r v} (h : State.queued q s) : State.queued q (State.setTcap s i k r v) := by
  grind (ematch := 20) [State.setTcap, State.modTc_queued]

theorem State.tWaited_queued {s i k} (h : State.queued q s) : State.queued q (State.tWaited s i k) := by
  grind (ematch := 20) [State.tWaited, State.draw_queued, State.modTc_queued]

theorem State.tStop_queued {s i k vec} (h : State.queued q s) : State.queued q (State.tStop s i k vec) := by
  grind (ematch := 20) [State.tStop, State.record_queued, State.coreMismatch_queued, State.modTc_queued]

theorem State.tEnter_queued {s i k f h4 xpc ds prio} (h : State.queued q s) : State.queued q (State.tEnter s i k f h4 xpc ds prio) := by
  grind (ematch := 20) [State.tEnter, State.tEcc_queued, State.tDrain_queued, State.modTc_queued]

theorem State.tRaise_queued {s i k f} (h : State.queued q s) : State.queued q (State.tRaise s i k f) := by
  grind (ematch := 20) [State.tRaise, State.tStop_queued, State.tEnter_queued]

theorem State.tHaltTry_queued {s i k} (h : State.queued q s) : State.queued q (State.tHaltTry s i k) := by
  grind (ematch := 20) [State.tHaltTry, State.modTc_queued]

theorem State.tStepDone_queued {s i k} (h : State.queued q s) : State.queued q (State.tStepDone s i k) := by
  grind (ematch := 20) [State.tStepDone, State.tHaltTry_queued, State.modTc_queued]

theorem State.tWake_queued {s i k} (h : State.queued q s) : State.queued q (State.tWake s i k) := by
  grind (ematch := 20) [State.tWake, State.modTc_queued]

theorem State.tStalled_queued {s i k} (h : State.queued q s) : State.queued q (State.tStalled s i k) := by
  grind (ematch := 20) [State.tStalled, State.modTc_queued]

theorem State.tFinish_queued {s i k o} (h : State.queued q s) : State.queued q (State.tFinish s i k o) := by
  grind (ematch := 20) [State.tFinish, State.tHaltTry_queued, State.tStalled_queued, State.tWaited_queued, State.tStepDone_queued, State.tRaise_queued, State.pruneDone_queued, State.modTc_queued, State.closeWindow_queued]

theorem State.tFetchRead_queued {s i k} (h : State.queued q s) : State.queued q (State.tFetchRead s i k) := by
  grind (ematch := 20) [State.tFetchRead, State.tEcc_queued]

theorem State.tBlocked_queued {s i k} (h : State.queued q s) : State.queued q (State.tBlocked s i k) := by
  grind (ematch := 20) [State.tBlocked, State.modTc_queued]

theorem State.tStep_queued {s i k w body} (h : State.queued q s) (hb : ∀ y0 y1, State.queued q y1 → State.queued q (body y0 y1).1) : State.queued q (State.tStep s i k w body) := by
  unfold State.tStep
  refine State.served_queued h fun s h => ?_
  have h1 := State.tHaltTry_queued (i := i) (k := k) (State.tWake_queued (i := i) (k := k) h)
  dsimp only
  split
  · exact State.tBlocked_queued h1
  · split
    · exact State.tFinish_queued h1
    · have h2 := State.tFetchRead_queued (i := i) (k := k) h1
      split
      · exact State.tFinish_queued h2
      · split
        · exact State.tFinish_queued h2
        · split
          · exact State.tFinish_queued h2
          · exact State.tFinish_queued (hb _ _ h2)

theorem tLacks_queued {w a a2} (h : State.queued q a2) : State.queued q (tLacks w a a2).1 := by
  grind (ematch := 20) [tLacks]

theorem tNop_queued {a a1} (h : State.queued q a1) : State.queued q (tNop a a1).1 := by
  grind (ematch := 20) [tNop]

/-! ## Machine/TBody.lean -/

theorem tReg_queued {i k a a3} (h : State.queued q a3) : State.queued q (tReg i k a a3).1 := by
  grind (ematch := 20) [tReg, State.setTg_queued]

theorem tFloat_queued {i k w a a4} (h : State.queued q a4) : State.queued q (tFloat i k w a a4).1 := by
  unfold tFloat
  split <;> grind (ematch := 20) [State.modTc_queued, State.setTf_queued, State.setTg_queued, queued_mk]

theorem tBranch_queued {i k a a3} (h : State.queued q a3) : State.queued q (tBranch i k a a3).1 := by
  unfold tBranch
  grind (ematch := 20) []

theorem tJump_queued {i k a a3} (h : State.queued q a3) : State.queued q (tJump i k a a3).1 := by
  unfold tJump
  grind (ematch := 20) [State.setTg_queued]

theorem tRegJump_queued {i k w a a4} (h : State.queued q a4) : State.queued q (tRegJump i k w a a4).1 := by
  unfold tRegJump
  grind (ematch := 20) [State.setTg_queued]

theorem State.loadResult_queued {s i k op rd v cyc} (h : State.queued q s) : State.queued q (State.loadResult s i k op rd v cyc).1 := by
  grind (ematch := 20) [State.loadResult, State.setTf_queued, State.setTg_queued]

theorem tLoadB_queued {i k w ev a a5} (h : State.queued q a5) : State.queued q (tLoadB i k w ev a a5).1 := by
  unfold tLoadB
  grind (ematch := 20) [State.tLoad_queued, State.loadResult_queued]

theorem tStoreB_queued {i k a a3} (h : State.queued q a3) : State.queued q (tStoreB i k a a3).1 := by
  unfold tStoreB
  grind (ematch := 20) [State.tStore_queued]

theorem tClc_queued {i k w a a4} (h : State.queued q a4) : State.queued q (tClc i k w a a4).1 := by
  unfold tClc
  grind (ematch := 20) [State.tLoad_queued, State.setTcap_queued]

theorem tCsc_queued {i k a a3} (h : State.queued q a3) : State.queued q (tCsc i k a a3).1 := by
  unfold tCsc
  grind (ematch := 20) [State.tStore_queued]

theorem State.tReleased_queued {s i k rl} (h : State.queued q s) : State.queued q (State.tReleased s i k rl).1 := by
  grind (ematch := 20) [State.tReleased, State.tOrder_queued]

theorem State.dtcmAmo_queued {s i k a n op v cmp} (h : State.queued q s) : State.queued q (State.dtcmAmo s i k a n op v cmp).1 := by
  grind (ematch := 20) [State.dtcmAmo, State.modTc_queued, State.tDrainMeets_queued, State.tEcc_queued, State.dtcmWrite_queued]

theorem tAmo_queued {i k w a a4} (h : State.queued q a4) : State.queued q (tAmo i k w a a4).1 := by
  unfold tAmo
  split <;> grind (ematch := 20) [State.tReleased_queued, State.dtcmAmo_queued, State.tOrder_queued, State.farAccess_queued, State.setTg_queued]

theorem tLda_queued {i k w a a4} (h : State.queued q a4) : State.queued q (tLda i k w a a4).1 := by
  unfold tLda
  grind (ematch := 20) [State.tLoad_queued, State.setTg_queued]

theorem tStl_queued {i k w a a4} (h : State.queued q a4) : State.queued q (tStl i k w a a4).1 := by
  unfold tStl
  grind (ematch := 20) [State.tReleased_queued, State.tStore_queued, State.farAccess_queued]

theorem State.tSpend_queued {s i k n} (h : State.queued q s) : State.queued q (State.tSpend s i k n) := by
  grind (ematch := 20) [State.tSpend, State.modTc_queued]

theorem State.tUnitRead_queued {s i k a n} (h : State.queued q s) : State.queued q (State.tUnitRead s i k a n).1 := by
  unfold State.tUnitRead
  dsimp only
  repeat' split
  all_goals grind (ematch := 20) [State.dtcmLoad_queued, State.tcmRead_queued, State.tOrder_queued, State.portLoad_queued, State.draw_queued, State.tSpend_queued, queued_mk, foldl_queued, foldl_queued_fst]

theorem State.tUnitWrite_queued {s i k a b} (h : State.queued q s) : State.queued q (State.tUnitWrite s i k a b).1 := by
  grind (ematch := 20) [State.tUnitWrite, State.tStore_queued]

theorem State.unitsT_queued {i k op rd rs1 rs2 a a7} (h : State.queued q a7) : State.queued q (State.unitsT i k op rd rs1 rs2 a a7).1 := by
  fun_induction State.unitsT i k op rd rs1 rs2 a a7 <;> grind (ematch := 20) [State.tDrainOne_queued, blkUnit_queued, State.setTg_queued, State.tUnitRead_queued, State.tUnitWrite_queued, State.tSpend_queued]

theorem tBlock_queued {i k w units a a5} (h : State.queued q a5) : State.queued q (tBlock i k w units a a5).1 := by
  unfold tBlock
  dsimp only
  repeat' split
  all_goals grind (ematch := 20) [State.modTc_queued, State.tDrain_queued, State.unitsT_queued, queued_mk, foldl_queued, foldl_queued_fst]

theorem tMfs_queued {i k w a a4} (h : State.queued q a4) : State.queued q (tMfs i k w a a4).1 := by
  unfold tMfs
  grind (ematch := 20) [State.setTg_queued]

theorem tMts_queued {i k w a a4} (h : State.queued q a4) : State.queued q (tMts i k w a a4).1 := by
  unfold tMts
  grind (ematch := 20) [State.modTc_queued]

theorem tEretB_queued {i k a a3} (h : State.queued q a3) : State.queued q (tEretB i k a a3).1 := by
  unfold tEretB
  grind (ematch := 20) [State.modTc_queued]

theorem tFence_queued {i k a a3} (h : State.queued q a3) : State.queued q (tFence i k a a3).1 := by
  unfold tFence
  grind (ematch := 20) [State.tOrder_queued]

theorem tFenceD_queued {i k a a3} (h : State.queued q a3) : State.queued q (tFenceD i k a a3).1 := by
  grind (ematch := 20) [tFenceD, State.tOrder_queued, State.modIsl_queued]

theorem tWfi_queued {i k a a3} (h : State.queued q a3) : State.queued q (tWfi i k a a3).1 := by
  grind (ematch := 20) [tWfi]

theorem tBrk_queued {a a1} (h : State.queued q a1) : State.queued q (tBrk a a1).1 := by
  unfold tBrk
  grind (ematch := 20) []

theorem tChkpt_queued {a a1} (h : State.queued q a1) : State.queued q (tChkpt a a1).1 := by
  grind (ematch := 20) [tChkpt]

theorem tLoop_queued {i k w a a4} (h : State.queued q a4) : State.queued q (tLoop i k w a a4).1 := by
  unfold tLoop
  grind (ematch := 20) [State.modTc_queued]

theorem tCap_queued {i k a a3} (h : State.queued q a3) : State.queued q (tCap i k a a3).1 := by
  grind (ematch := 20) [tCap, State.setTcap_queued]

theorem tCget_queued {i k a a3} (h : State.queued q a3) : State.queued q (tCget i k a a3).1 := by
  unfold tCget
  grind (ematch := 20) [State.setTg_queued]

theorem tCcall_queued {i k a a3} (h : State.queued q a3) : State.queued q (tCcall i k a a3).1 := by
  unfold tCcall
  grind (ematch := 20) [State.setTcap_queued, State.modTc_queued, State.setTg_queued]

theorem tCret_queued {i k a a3} (h : State.queued q a3) : State.queued q (tCret i k a a3).1 := by
  unfold tCret
  grind (ematch := 20) [State.modTc_queued, State.setTcap_queued]

theorem tCmfc_queued {i k a a3} (h : State.queued q a3) : State.queued q (tCmfc i k a a3).1 := by
  unfold tCmfc
  grind (ematch := 20) [State.setTcap_queued]

theorem tCmtc_queued {i k a a3} (h : State.queued q a3) : State.queued q (tCmtc i k a a3).1 := by
  unfold tCmtc
  grind (ematch := 20) [State.modTc_queued]

/-! ## Machine/Insn.lean -/

theorem runInsn_queued {row c w a b s t} (h : State.queued q s) (ha : ∀ c i s, State.queued q s → State.queued q (a c i s).1)
    (hb : ∀ i k x s, State.queued q s → State.queued q (b i k x s).1) (e : runInsn row c w a b s = .next t) : State.queued q t := by
  unfold runInsn at e
  split at e
  · simp only [Host.Outcome.next.injEq] at e
    subst e
    cases c with
    | a c => exact State.aStep_queued h (ha c)
    | t i k => exact State.tStep_queued h (hb i k)
  · simp at e

theorem execIntegerOp_queued {c w s t} (h : State.queued q s) (e : execIntegerOp c w s = .next t) : State.queued q t := by
  exact runInsn_queued h (fun _ _ _ k => aReg_queued k) (fun _ _ _ _ k => tReg_queued k) e

theorem execMultiply_queued {c w s t} (h : State.queued q s) (e : execMultiply c w s = .next t) : State.queued q t := by
  exact runInsn_queued h (fun _ _ _ k => aReg_queued k) (fun _ _ _ _ k => tReg_queued k) e

theorem execDivide_queued {c w s t} (h : State.queued q s) (e : execDivide c w s = .next t) : State.queued q t := by
  exact runInsn_queued h (fun _ _ _ k => aReg_queued k) (fun _ _ _ _ k => tReg_queued k) e

theorem execLoad_queued {c w ev s t} (h : State.queued q s) (e : execLoad c w ev s = .next t) : State.queued q t := by
  exact runInsn_queued h (fun _ _ _ k => aLoad_queued k) (fun _ _ _ _ k => tLoadB_queued k) e

theorem execStore_queued {c w s t} (h : State.queued q s) (e : execStore c w s = .next t) : State.queued q t := by
  exact runInsn_queued h (fun _ _ _ k => aStore_queued k) (fun _ _ _ _ k => tStoreB_queued k) e

theorem execFloatOp_queued {c w s t} (h : State.queued q s) (e : execFloatOp c w s = .next t) : State.queued q t := by
  exact runInsn_queued h (fun _ _ _ k => aFloat_queued k) (fun _ _ _ _ k => tFloat_queued k) e

theorem execConditionalBranch_queued {c w s t} (h : State.queued q s) (e : execConditionalBranch c w s = .next t) : State.queued q t := by
  exact runInsn_queued h (fun _ _ _ k => aBranch_queued k) (fun _ _ _ _ k => tBranch_queued k) e

theorem execJump_queued {c w s t} (h : State.queued q s) (e : execJump c w s = .next t) : State.queued q t := by
  exact runInsn_queued h (fun _ _ _ k => aJump_queued k) (fun _ _ _ _ k => tJump_queued k) e

theorem execRegisterJump_queued {c w s t} (h : State.queued q s) (e : execRegisterJump c w s = .next t) : State.queued q t := by
  exact runInsn_queued h (fun _ _ _ k => aRegJump_queued k) (fun _ _ _ _ k => tRegJump_queued k) e

theorem execAmo_queued {c w s t} (h : State.queued q s) (e : execAmo c w s = .next t) : State.queued q t := by
  exact runInsn_queued h (fun _ _ _ k => aAmo_queued k) (fun _ _ _ _ k => tAmo_queued k) e

theorem execCas_queued {c w s t} (h : State.queued q s) (e : execCas c w s = .next t) : State.queued q t := by
  exact runInsn_queued h (fun _ _ _ k => aAmo_queued k) (fun _ _ _ _ k => tAmo_queued k) e

theorem execLda_queued {c w s t} (h : State.queued q s) (e : execLda c w s = .next t) : State.queued q t := by
  exact runInsn_queued h (fun _ _ _ k => aLda_queued k) (fun _ _ _ _ k => tLda_queued k) e

theorem execStl_queued {c w s t} (h : State.queued q s) (e : execStl c w s = .next t) : State.queued q t := by
  exact runInsn_queued h (fun _ _ _ k => aStl_queued k) (fun _ _ _ _ k => tStl_queued k) e

theorem execBcopy_queued {c w units s t} (h : State.queued q s) (e : execBcopy c w units s = .next t) : State.queued q t := by
  exact runInsn_queued h (fun _ _ _ k => aBlock_queued k) (fun _ _ _ _ k => tBlock_queued k) e

theorem execBfill_queued {c w units s t} (h : State.queued q s) (e : execBfill c w units s = .next t) : State.queued q t := by
  exact runInsn_queued h (fun _ _ _ k => aBlock_queued k) (fun _ _ _ _ k => tBlock_queued k) e

theorem execBcrc_queued {c w units s t} (h : State.queued q s) (e : execBcrc c w units s = .next t) : State.queued q t := by
  exact runInsn_queued h (fun _ _ _ k => aBlock_queued k) (fun _ _ _ _ k => tBlock_queued k) e

theorem execBcrcE_queued {c w units s t} (h : State.queued q s) (e : execBcrcE c w units s = .next t) : State.queued q t := by
  exact runInsn_queued h (fun _ _ _ k => aBlock_queued k) (fun _ _ _ _ k => tBlock_queued k) e

theorem execLdm_queued {c w units s t} (h : State.queued q s) (e : execLdm c w units s = .next t) : State.queued q t := by
  exact runInsn_queued h (fun _ _ _ k => aBlock_queued k) (fun _ _ _ _ k => tBlock_queued k) e

theorem execStm_queued {c w units s t} (h : State.queued q s) (e : execStm c w units s = .next t) : State.queued q t := by
  exact runInsn_queued h (fun _ _ _ k => aBlock_queued k) (fun _ _ _ _ k => tBlock_queued k) e

theorem execMfs_queued {c w s t} (h : State.queued q s) (e : execMfs c w s = .next t) : State.queued q t := by
  exact runInsn_queued h (fun _ _ _ k => aMfs_queued k) (fun _ _ _ _ k => tMfs_queued k) e

theorem execMts_queued {c w s t} (h : State.queued q s) (e : execMts c w s = .next t) : State.queued q t := by
  exact runInsn_queued h (fun _ _ _ k => aMts_queued k) (fun _ _ _ _ k => tMts_queued k) e

theorem execEret_queued {c w s t} (h : State.queued q s) (e : execEret c w s = .next t) : State.queued q t := by
  exact runInsn_queued h (fun _ _ _ k => aEret_queued k) (fun _ _ _ _ k => tLacks_queued k) e

theorem execTEret_queued {i k w s t} (h : State.queued q s) (e : execTEret i k w s = .next t) : State.queued q t := by
  exact runInsn_queued h (fun _ _ _ k => aLacks_queued k) (fun _ _ _ _ k => tEretB_queued k) e

theorem execGate_queued {c w s t} (h : State.queued q s) (e : execGate c w s = .next t) : State.queued q t := by
  exact runInsn_queued h (fun _ _ _ k => aGate_queued k) (fun _ _ _ _ k => tLacks_queued k) e

theorem execGret_queued {c w s t} (h : State.queued q s) (e : execGret c w s = .next t) : State.queued q t := by
  exact runInsn_queued h (fun _ _ _ k => aGret_queued k) (fun _ _ _ _ k => tLacks_queued k) e

theorem execFence_queued {c w s t} (h : State.queued q s) (e : execFence c w s = .next t) : State.queued q t := by
  exact runInsn_queued h (fun _ _ _ k => aFence_queued k) (fun _ _ _ _ k => tFence_queued k) e

theorem execFenceI_queued {c w s t} (h : State.queued q s) (e : execFenceI c w s = .next t) : State.queued q t := by
  exact runInsn_queued h (fun _ _ _ k => aFence_queued k) (fun _ _ _ _ k => tNop_queued k) e

theorem execFenceD_queued {c w s t} (h : State.queued q s) (e : execFenceD c w s = .next t) : State.queued q t := by
  exact runInsn_queued h (fun _ _ _ k => aFence_queued k) (fun _ _ _ _ k => tFenceD_queued k) e

theorem execFenceT_queued {c w s t} (h : State.queued q s) (e : execFenceT c w s = .next t) : State.queued q t := by
  exact runInsn_queued h (fun _ _ _ k => aFenceT_queued k) (fun _ _ _ _ k => tNop_queued k) e

theorem execSpb_queued {c w s t} (h : State.queued q s) (e : execSpb c w s = .next t) : State.queued q t := by
  exact runInsn_queued h (fun _ _ _ k => aSpb_queued k) (fun _ _ _ _ k => tNop_queued k) e

theorem execPrflush_queued {c w s t} (h : State.queued q s) (e : execPrflush c w s = .next t) : State.queued q t := by
  exact runInsn_queued h (fun _ _ _ k => aPrflush_queued k) (fun _ _ _ _ k => tNop_queued k) e

theorem execPrbar_queued {c w s t} (h : State.queued q s) (e : execPrbar c w s = .next t) : State.queued q t := by
  exact runInsn_queued h (fun _ _ _ k => aPrbar_queued k) (fun _ _ _ _ k => tNop_queued k) e

theorem execWfi_queued {c w s t} (h : State.queued q s) (e : execWfi c w s = .next t) : State.queued q t := by
  exact runInsn_queued h (fun _ _ _ k => aWfi_queued k) (fun _ _ _ _ k => tWfi_queued k) e

theorem execBrk_queued {c w s t} (h : State.queued q s) (e : execBrk c w s = .next t) : State.queued q t := by
  exact runInsn_queued h (fun _ _ _ k => aBrk_queued k) (fun _ _ _ _ k => tBrk_queued k) e

theorem execNop_queued {c w s t} (h : State.queued q s) (e : execNop c w s = .next t) : State.queued q t := by
  exact runInsn_queued h (fun _ _ _ k => aNop_queued k) (fun _ _ _ _ k => tNop_queued k) e

theorem execChkpt_queued {c w s t} (h : State.queued q s) (e : execChkpt c w s = .next t) : State.queued q t := by
  exact runInsn_queued h (fun _ _ _ k => aLacks_queued k) (fun _ _ _ _ k => tChkpt_queued k) e

theorem execTlbiva_queued {c w s t} (h : State.queued q s) (e : execTlbiva c w s = .next t) : State.queued q t := by
  exact runInsn_queued h (fun _ _ _ k => aTlbi_queued k) (fun _ _ _ _ k => tLacks_queued k) e

theorem execTlbivaa_queued {c w s t} (h : State.queued q s) (e : execTlbivaa c w s = .next t) : State.queued q t := by
  exact runInsn_queued h (fun _ _ _ k => aTlbi_queued k) (fun _ _ _ _ k => tLacks_queued k) e

theorem execTlbipcid_queued {c w s t} (h : State.queued q s) (e : execTlbipcid c w s = .next t) : State.queued q t := by
  exact runInsn_queued h (fun _ _ _ k => aTlbi_queued k) (fun _ _ _ _ k => tLacks_queued k) e

theorem execTlbipart_queued {c w s t} (h : State.queued q s) (e : execTlbipart c w s = .next t) : State.queued q t := by
  exact runInsn_queued h (fun _ _ _ k => aTlbi_queued k) (fun _ _ _ _ k => tLacks_queued k) e

theorem execTlbiipa_queued {c w s t} (h : State.queued q s) (e : execTlbiipa c w s = .next t) : State.queued q t := by
  exact runInsn_queued h (fun _ _ _ k => aTlbi_queued k) (fun _ _ _ _ k => tLacks_queued k) e

theorem execTlbis2_queued {c w s t} (h : State.queued q s) (e : execTlbis2 c w s = .next t) : State.queued q t := by
  exact runInsn_queued h (fun _ _ _ k => aTlbi_queued k) (fun _ _ _ _ k => tLacks_queued k) e

theorem execTlbiall_queued {c w s t} (h : State.queued q s) (e : execTlbiall c w s = .next t) : State.queued q t := by
  exact runInsn_queued h (fun _ _ _ k => aTlbi_queued k) (fun _ _ _ _ k => tLacks_queued k) e

theorem execDcc_queued {c w s t} (h : State.queued q s) (e : execDcc c w s = .next t) : State.queued q t := by
  exact runInsn_queued h (fun _ _ _ k => aCache_queued k) (fun _ _ _ _ k => tLacks_queued k) e

theorem execDcci_queued {c w s t} (h : State.queued q s) (e : execDcci c w s = .next t) : State.queued q t := by
  exact runInsn_queued h (fun _ _ _ k => aCache_queued k) (fun _ _ _ _ k => tLacks_queued k) e

theorem execDci_queued {c w s t} (h : State.queued q s) (e : execDci c w s = .next t) : State.queued q t := by
  exact runInsn_queued h (fun _ _ _ k => aCache_queued k) (fun _ _ _ _ k => tLacks_queued k) e

theorem execIci_queued {c w s t} (h : State.queued q s) (e : execIci c w s = .next t) : State.queued q t := by
  exact runInsn_queued h (fun _ _ _ k => aCache_queued k) (fun _ _ _ _ k => tLacks_queued k) e

theorem execZline_queued {c w s t} (h : State.queued q s) (e : execZline c w s = .next t) : State.queued q t := by
  exact runInsn_queued h (fun _ _ _ k => aCache_queued k) (fun _ _ _ _ k => tLacks_queued k) e

theorem execLoop_queued {c w s t} (h : State.queued q s) (e : execLoop c w s = .next t) : State.queued q t := by
  exact runInsn_queued h (fun _ _ _ k => aLacks_queued k) (fun _ _ _ _ k => tLoop_queued k) e

theorem execCmove_queued {c w s t} (h : State.queued q s) (e : execCmove c w s = .next t) : State.queued q t := by
  exact runInsn_queued h (fun _ _ _ k => aLacks_queued k) (fun _ _ _ _ k => tCap_queued k) e

theorem execCincb_queued {c w s t} (h : State.queued q s) (e : execCincb c w s = .next t) : State.queued q t := by
  exact runInsn_queued h (fun _ _ _ k => aLacks_queued k) (fun _ _ _ _ k => tCap_queued k) e

theorem execCsetl_queued {c w s t} (h : State.queued q s) (e : execCsetl c w s = .next t) : State.queued q t := by
  exact runInsn_queued h (fun _ _ _ k => aLacks_queued k) (fun _ _ _ _ k => tCap_queued k) e

theorem execCandp_queued {c w s t} (h : State.queued q s) (e : execCandp c w s = .next t) : State.queued q t := by
  exact runInsn_queued h (fun _ _ _ k => aLacks_queued k) (fun _ _ _ _ k => tCap_queued k) e

theorem execCseal_queued {c w s t} (h : State.queued q s) (e : execCseal c w s = .next t) : State.queued q t := by
  exact runInsn_queued h (fun _ _ _ k => aLacks_queued k) (fun _ _ _ _ k => tCap_queued k) e

theorem execCunseal_queued {c w s t} (h : State.queued q s) (e : execCunseal c w s = .next t) : State.queued q t := by
  exact runInsn_queued h (fun _ _ _ k => aLacks_queued k) (fun _ _ _ _ k => tCap_queued k) e

theorem execCclrt_queued {c w s t} (h : State.queued q s) (e : execCclrt c w s = .next t) : State.queued q t := by
  exact runInsn_queued h (fun _ _ _ k => aLacks_queued k) (fun _ _ _ _ k => tCap_queued k) e

theorem execCgetb_queued {c w s t} (h : State.queued q s) (e : execCgetb c w s = .next t) : State.queued q t := by
  exact runInsn_queued h (fun _ _ _ k => aLacks_queued k) (fun _ _ _ _ k => tCget_queued k) e

theorem execCgetl_queued {c w s t} (h : State.queued q s) (e : execCgetl c w s = .next t) : State.queued q t := by
  exact runInsn_queued h (fun _ _ _ k => aLacks_queued k) (fun _ _ _ _ k => tCget_queued k) e

theorem execCgetp_queued {c w s t} (h : State.queued q s) (e : execCgetp c w s = .next t) : State.queued q t := by
  exact runInsn_queued h (fun _ _ _ k => aLacks_queued k) (fun _ _ _ _ k => tCget_queued k) e

theorem execCgett_queued {c w s t} (h : State.queued q s) (e : execCgett c w s = .next t) : State.queued q t := by
  exact runInsn_queued h (fun _ _ _ k => aLacks_queued k) (fun _ _ _ _ k => tCget_queued k) e

theorem execCgetg_queued {c w s t} (h : State.queued q s) (e : execCgetg c w s = .next t) : State.queued q t := by
  exact runInsn_queued h (fun _ _ _ k => aLacks_queued k) (fun _ _ _ _ k => tCget_queued k) e

theorem execCcall_queued {c w s t} (h : State.queued q s) (e : execCcall c w s = .next t) : State.queued q t := by
  exact runInsn_queued h (fun _ _ _ k => aLacks_queued k) (fun _ _ _ _ k => tCcall_queued k) e

theorem execCret_queued {c w s t} (h : State.queued q s) (e : execCret c w s = .next t) : State.queued q t := by
  exact runInsn_queued h (fun _ _ _ k => aLacks_queued k) (fun _ _ _ _ k => tCret_queued k) e

theorem execCmfc_queued {c w s t} (h : State.queued q s) (e : execCmfc c w s = .next t) : State.queued q t := by
  exact runInsn_queued h (fun _ _ _ k => aLacks_queued k) (fun _ _ _ _ k => tCmfc_queued k) e

theorem execCmtc_queued {c w s t} (h : State.queued q s) (e : execCmtc c w s = .next t) : State.queued q t := by
  exact runInsn_queued h (fun _ _ _ k => aLacks_queued k) (fun _ _ _ _ k => tCmtc_queued k) e

theorem execClc_queued {c w s t} (h : State.queued q s) (e : execClc c w s = .next t) : State.queued q t := by
  exact runInsn_queued h (fun _ _ _ k => aLacks_queued k) (fun _ _ _ _ k => tClc_queued k) e

theorem execCsc_queued {c w s t} (h : State.queued q s) (e : execCsc c w s = .next t) : State.queued q t := by
  exact runInsn_queued h (fun _ _ _ k => aLacks_queued k) (fun _ _ _ _ k => tCsc_queued k) e

/-! ## Machine/TOps.lean -/

theorem State.portAmo_queued {s i k a n op v cmp} (h : State.queued q s) : State.queued q (State.portAmo s i k a n op v cmp).1 := by
  grind (ematch := 20) [State.portAmo, State.homeAtomic_queued, State.tEcc_queued, State.memWrite_queued]

theorem State.farWrite_queued {s i pa b} (h : State.queued q s) : State.queued q (State.farWrite s i pa b).1 := by
  unfold State.farWrite
  grind (ematch := 20) [State.postedError_queued, State.memWrite_queued, foldl_queued, foldl_queued_fst]

theorem State.portStl_queued {s i a n v} (h : State.queued q s) : State.queued q (State.portStl s i a n v) := by
  grind (ematch := 20) [State.portStl, State.farWrite_queued, State.memWrite_queued]

theorem State.portPerform_queued {s i k t3} (h : State.queued q s) : State.queued q (State.portPerform s i k t3).1 := by
  grind (ematch := 20) [State.portPerform, State.portRead_queued, State.portAmo_queued, State.portStl_queued]

theorem State.farResult_queued {s i k f d} (h : State.queued q s) : State.queued q (State.farResult s i k f d).1 := by
  grind (ematch := 20) [State.farResult, State.draw_queued, State.loadResult_queued, State.setTg_queued, State.setTcap_queued]

theorem State.farDeliver_queued {s i k t3 d} (h : State.queued q s) : State.queued q (State.farDeliver s i k t3 d) := by
  grind (ematch := 20) [State.farDeliver, State.farResult_queued, State.modTc_queued, State.tFinish_queued]

theorem State.tAbandon_queued {s i k} (h : State.queued q s) : State.queued q (State.tAbandon s i k) := by
  grind (ematch := 20) [State.tAbandon, State.modTc_queued, State.modIsl_queued]

theorem State.portDeliver_queued {i t1 d s k} (h : State.queued q s) : State.queued q (State.portDeliver i t1 d s k) := by
  grind (ematch := 20) [State.portDeliver, State.tAbandon_queued, State.modTc_queued, State.farDeliver_queued]

theorem State.portDone_queued {s i n t3 d} (h : State.queued q s) : State.queued q (State.portDone s i n t3 d) := by
  grind (ematch := 20) [State.portDone, State.modIsl_queued, State.keepDone_queued, State.portDeliver_queued, foldl_queued]

theorem execFarLoadData_queued {i n s t} (h : State.queued q s) (e : execFarLoadData i n s = .next t) : State.queued q t := by
  simp only [execFarLoadData, Host.Outcome.next.injEq] at e
  subst e
  refine State.served_queued h fun s h => ?_
  split <;> grind (ematch := 20) [State.portDone_queued, State.farPart_queued, State.modIsl_queued, State.portPerform_queued, queued_mk, foldl_queued, foldl_queued_fst]

theorem execTStoreBufferDrain_queued {i k ev s t} (h : State.queued q s) (e : execTStoreBufferDrain i k ev s = .next t) : State.queued q t := by
  grind (ematch := 20) [execTStoreBufferDrain, State.tDrainOne_queued, State.mergeEcc_queued]

theorem State.boundReached_queued {s i k b} (h : State.queued q s) : State.queued q (State.boundReached s i k b) := by
  grind (ematch := 20) [State.boundReached, State.modIsl_queued, State.draw_queued, State.setE_queued]

theorem execTInterruptEntry_queued {i k s t} (h : State.queued q s) (e : execTInterruptEntry i k s = .next t) : State.queued q t := by
  unfold execTInterruptEntry at e
  grind (ematch := 20) [State.tWake_queued, State.boundReached_queued, State.coreMismatch_queued, State.tAbandon_queued, State.tStop_queued, State.tEnter_queued]

theorem State.votedRefused_queued {s i r e3} (h : State.queued q s) : State.queued q (State.votedRefused s i r e3) := by
  grind (ematch := 20) [State.votedRefused, State.record_queued]

theorem State.relReg_queued {s i r} (h : State.queued q s) : State.queued q (State.relReg s i r) := by
  grind (ematch := 20) [State.relReg, State.islWrite_queued, State.votedRefused_queued]

theorem State.relFar_queued {s i r pa} (h : State.queued q s) : State.queued q (State.relFar s i r pa) := by
  grind (ematch := 20) [State.relFar, State.farWrite_queued, State.regWrite_queued, State.settleForced_queued, State.votedRefused_queued, State.modIsl_queued]

theorem execWriteRelease_queued {i ev s t} (h : State.queued q s) (e : execWriteRelease i ev s = .next t) : State.queued q t := by
  grind (ematch := 20) [execWriteRelease, State.served_queued, State.modIsl_queued, State.memWrite_queued, State.mergeEcc_queued, State.relReg_queued, State.relFar_queued]

theorem execVotedWriteResponse_queued {i e1 s t} (h : State.queued q s) (e : execVotedWriteResponse i e1 s = .next t) : State.queued q t := by
  grind (ematch := 20) [execVotedWriteResponse, State.votedRefused_queued, State.modIsl_queued]

theorem State.tHalt_queued {s i k} (h : State.queued q s) : State.queued q (State.tHalt s i k) := by
  grind (ematch := 20) [State.tHalt, State.tHaltTry_queued, State.tWake_queued, State.modTc_queued]

theorem State.tResume_queued {s i k single} (h : State.queued q s) : State.queued q (State.tResume s i k single) := by
  grind (ematch := 20) [State.tResume, State.modTc_queued]

theorem execDebugHaltRequest_queued {c s t} (h : State.queued q s) (e : execDebugHaltRequest c s = .next t) : State.queued q t := by
  unfold execDebugHaltRequest at e
  grind (ematch := 20) [State.aHalt_queued, State.tHalt_queued]

theorem execDebugResume_queued {c single s t} (h : State.queued q s) (e : execDebugResume c single s = .next t) : State.queued q t := by
  unfold execDebugResume at e
  grind (ematch := 20) [State.aResume_queued, State.tResume_queued]

/-! ## Machine/Dispatch.lean -/

theorem exec_queued {i s t} (h : State.queued q s) (e : exec i s = .next t) : State.queued q t := by
  cases i with
  | integerOp => exact execIntegerOp_queued h e
  | multiply => exact execMultiply_queued h e
  | divide => exact execDivide_queued h e
  | load => exact execLoad_queued h e
  | store => exact execStore_queued h e
  | floatOp => exact execFloatOp_queued h e
  | conditionalBranch => exact execConditionalBranch_queued h e
  | jump => exact execJump_queued h e
  | registerJump => exact execRegisterJump_queued h e
  | amo => exact execAmo_queued h e
  | cas => exact execCas_queued h e
  | lda => exact execLda_queued h e
  | stl => exact execStl_queued h e
  | bcopy => exact execBcopy_queued h e
  | bfill => exact execBfill_queued h e
  | bcrc => exact execBcrc_queued h e
  | bcrcE => exact execBcrcE_queued h e
  | ldm => exact execLdm_queued h e
  | stm => exact execStm_queued h e
  | mfs => exact execMfs_queued h e
  | mts => exact execMts_queued h e
  | eret => exact execEret_queued h e
  | tEret => exact execTEret_queued h e
  | gate => exact execGate_queued h e
  | gret => exact execGret_queued h e
  | fence => exact execFence_queued h e
  | fenceI => exact execFenceI_queued h e
  | fenceD => exact execFenceD_queued h e
  | fenceT => exact execFenceT_queued h e
  | spb => exact execSpb_queued h e
  | prflush => exact execPrflush_queued h e
  | prbar => exact execPrbar_queued h e
  | wfi => exact execWfi_queued h e
  | brk => exact execBrk_queued h e
  | nop => exact execNop_queued h e
  | chkpt => exact execChkpt_queued h e
  | tlbiva => exact execTlbiva_queued h e
  | tlbivaa => exact execTlbivaa_queued h e
  | tlbipcid => exact execTlbipcid_queued h e
  | tlbipart => exact execTlbipart_queued h e
  | tlbiipa => exact execTlbiipa_queued h e
  | tlbis2 => exact execTlbis2_queued h e
  | tlbiall => exact execTlbiall_queued h e
  | tlbiRemoteEffect => exact execTlbiRemoteEffect_queued h e
  | dcc => exact execDcc_queued h e
  | dcci => exact execDcci_queued h e
  | dci => exact execDci_queued h e
  | ici => exact execIci_queued h e
  | zline => exact execZline_queued h e
  | loop => exact execLoop_queued h e
  | cmove => exact execCmove_queued h e
  | cincb => exact execCincb_queued h e
  | csetl => exact execCsetl_queued h e
  | candp => exact execCandp_queued h e
  | cseal => exact execCseal_queued h e
  | cunseal => exact execCunseal_queued h e
  | cclrt => exact execCclrt_queued h e
  | cgetb => exact execCgetb_queued h e
  | cgetl => exact execCgetl_queued h e
  | cgetp => exact execCgetp_queued h e
  | cgett => exact execCgett_queued h e
  | cgetg => exact execCgetg_queued h e
  | ccall => exact execCcall_queued h e
  | cret => exact execCret_queued h e
  | cmfc => exact execCmfc_queued h e
  | cmtc => exact execCmtc_queued h e
  | clc => exact execClc_queued h e
  | csc => exact execCsc_queued h e
  | storeBufferDrain => exact execStoreBufferDrain_queued h e
  | partialOverlapReissue => exact execPartialOverlapReissue_queued h e
  | l1dMissFill => exact execL1dMissFill_queued h e
  | prefetchIssue => exact execPrefetchIssue_queued h e
  | tableWalk => exact execTableWalk_queued h e
  | adUpdate => exact execAdUpdate_queued h e
  | interruptTake => exact execInterruptTake_queued h e
  | irqInputAssert => exact execIrqInputAssert_queued h e
  | irqPulse => exact execIrqPulse_queued h e
  | irqAck => exact execIrqAck_queued h e
  | irqEoi => exact execIrqEoi_queued h e
  | irqSgi => exact execIrqSgi_queued h e
  | setpend => exact execSetpend_queued h e
  | clrpend => exact execClrpend_queued h e
  | virqInj => exact execVirqInj_queued h e
  | virqAck => exact execVirqAck_queued h e
  | virqEoi => exact execVirqEoi_queued h e
  | msiDoorbell => exact execMsiDoorbell_queued h e
  | registerWrite => exact execRegisterWrite_queued h e
  | tcmMeshWrite => exact execTcmMeshWrite_queued h e
  | pcieInboundRequest => exact execPcieInboundRequest_queued h e
  | rdShare => exact execRdShare_queued h e
  | rdOwn => exact execRdOwn_queued h e
  | rdPeek => exact execRdPeek_queued h e
  | wrPush => exact execWrPush_queued h e
  | haAtomic => exact execHaAtomic_queued h e
  | evClean => exact execEvClean_queued h e
  | evDirty => exact execEvDirty_queued h e
  | snShare => exact execSnShare_queued h e
  | snTake => exact execSnTake_queued h e
  | snPeek => exact execSnPeek_queued h e
  | snoopAnswer => exact execSnoopAnswer_queued h e
  | evictionAck => exact execEvictionAck_queued h e
  | snoopTimeout => exact execSnoopTimeout_queued h e
  | fatalGraceExpiry => exact execFatalGraceExpiry_queued h e
  | cleanWays => exact execCleanWays_queued h e
  | cleanWaysDone => exact execCleanWaysDone_queued h e
  | suspectClear => exact execSuspectClear_queued h e
  | hbmCommand => exact execHbmCommand_queued h e
  | hbmCorrectionWriteback => exact execHbmCorrectionWriteback_queued h e
  | hbmVerifyRead => exact execHbmVerifyRead_queued h e
  | hbmRefresh => exact execHbmRefresh_queued h e
  | hbmRfm => exact execHbmRfm_queued h e
  | patrolScrubRead => exact execPatrolScrubRead_queued h e
  | rowRepair => exact execRowRepair_queued h e
  | migrationChunkDone => exact execMigrationChunkDone_queued h e
  | hbmRetraining => exact execHbmRetraining_queued h e
  | hbmRetrainingDone => exact execHbmRetrainingDone_queued h e
  | hbmTrainingDone => exact execHbmTrainingDone_queued h e
  | hbmFillDone => exact execHbmFillDone_queued h e
  | islandInterruptOffer => exact execIslandInterruptOffer_queued h e
  | tInterruptEntry => exact execTInterruptEntry_queued h e
  | farLoadData => exact execFarLoadData_queued h e
  | tStoreBufferDrain => exact execTStoreBufferDrain_queued h e
  | islEoi => exact execIslEoi_queued h e
  | doorbell y_m yi yd yv => exact execDoorbell_queued (_m := y_m) h e
  | spiData yi yk y_v => exact execSpiData_queued (v := y_v) h e
  | spiTransferDone => exact execSpiTransferDone_queued h e
  | captureInputEdge => exact execCaptureInputEdge_queued h e
  | pennantWindowClose => exact execPennantWindowClose_queued h e
  | pennantComparison => exact execPennantComparison_queued h e
  | pennantSkewTimeout => exact execPennantSkewTimeout_queued h e
  | outputQueueComparison => exact execOutputQueueComparison_queued h e
  | outputSkewTimeout => exact execOutputSkewTimeout_queued h e
  | writeRelease => exact execWriteRelease_queued h e
  | votedWriteResponse => exact execVotedWriteResponse_queued h e
  | selfTestDone => exact execSelfTestDone_queued h e
  | injectionTestDone => exact execInjectionTestDone_queued h e
  | rejoinCopyDone => exact execRejoinCopyDone_queued h e
  | voterRestartHold => exact execVoterRestartHold_queued h e
  | voterRestartRelease => exact execVoterRestartRelease_queued h e
  | hsRelease => exact execHsRelease_queued h e
  | huskClaim => exact execHuskClaim_queued h e
  | huskSeal => exact execHuskSeal_queued h e
  | huskDestroy => exact execHuskDestroy_queued h e
  | huskSealingDone => exact execHuskSealingDone_queued h e
  | huskClearingDone => exact execHuskClearingDone_queued h e
  | debugHaltRequest => exact execDebugHaltRequest_queued h e
  | powerReq => exact execPowerReq_queued h e
  | powerHold => exact execPowerHold_queued h e
  | domainTransitionDone => exact execDomainTransitionDone_queued h e
  | deviceReqSuspend => exact execDeviceReqSuspend_queued h e
  | deviceReqSleep => exact execDeviceReqSleep_queued h e
  | deviceReqActive => exact execDeviceReqActive_queued h e
  | suspendCoresIdle => exact execSuspendCoresIdle_queued h e
  | suspendWaitExpiry => exact execSuspendWaitExpiry_queued h e
  | suspendToSleepExpiry => exact execSuspendToSleepExpiry_queued h e
  | wakePatternMatch => exact execWakePatternMatch_queued h e
  | wakeInDebounceExpiry => exact execWakeInDebounceExpiry_queued h e
  | wakeTimer => exact execWakeTimer_queued h e
  | podMhz => exact execPodMhz_queued h e
  | podPllRelockDone => exact execPodPllRelockDone_queued h e
  | thermalThrottle => exact execThermalThrottle_queued h e
  | thermalUnthrottle => exact execThermalUnthrottle_queued h e
  | porstN => exact execPorstN_queued h e
  | bootImageVerify => exact execBootImageVerify_queued h e
  | islandImageStage => exact execIslandImageStage_queued h e
  | bootCoreRelease => exact execBootCoreRelease_queued h e
  | sysrstN => exact execSysrstN_queued h e
  | sysreset => exact execSysreset_queued h e
  | smcWdt => exact execSmcWdt_queued h e
  | smcWatchdogExpiry => exact execSmcWatchdogExpiry_queued h e
  | voltageMonitorTrip => exact execVoltageMonitorTrip_queued h e
  | pmicStatusPoll => exact execPmicStatusPoll_queued h e
  | pmicPowerUpRetry => exact execPmicPowerUpRetry_queued h e
  | pmicInt => exact execPmicInt_queued h e
  | frameReceive => exact execFrameReceive_queued h e
  | carveOutReadDone => exact execCarveOutReadDone_queued h e
  | rxDescriptorFill => exact execRxDescriptorFill_queued h e
  | txTail => exact execTxTail_queued h e
  | rxTail => exact execRxTail_queued h e
  | txDescriptorReadDone => exact execTxDescriptorReadDone_queued h e
  | frameTransmitStart => exact execFrameTransmitStart_queued h e
  | frameTransmitEnd => exact execFrameTransmitEnd_queued h e
  | launchTimeReached => exact execLaunchTimeReached_queued h e
  | gateControlIntervalEnd => exact execGateControlIntervalEnd_queued h e
  | gclApply => exact execGclApply_queued h e
  | gclSwitch => exact execGclSwitch_queued h e
  | sglApply => exact execSglApply_queued h e
  | sglSwitch => exact execSglSwitch_queued h e
  | streamGateIntervalEnd => exact execStreamGateIntervalEnd_queued h e
  | preemptVerifyResponse => exact execPreemptVerifyResponse_queued h e
  | gptpMessage => exact execGptpMessage_queued h e
  | flowInsert => exact execFlowInsert_queued h e
  | flowRemove => exact execFlowRemove_queued h e
  | flowRead => exact execFlowRead_queued h e
  | flowFind => exact execFlowFind_queued h e
  | flowUpdate => exact execFlowUpdate_queued h e
  | flowClear => exact execFlowClear_queued h e
  | flowBulk => exact execFlowBulk_queued h e
  | viIrqStat => exact execViIrqStat_queued h e
  | irqModExpiry => exact execIrqModExpiry_queued h e
  | qpEnable => exact execQpEnable_queued h e
  | microcodeLoad => exact execMicrocodeLoad_queued h e
  | microcodeWatchdogExpiry => exact execMicrocodeWatchdogExpiry_queued h e
  | canFrameReceive => exact execCanFrameReceive_queued h e
  | encapWindowTimeout => exact execEncapWindowTimeout_queued h e
  | acfFrameBuild => exact execAcfFrameBuild_queued h e
  | canArbitrationAttempt => exact execCanArbitrationAttempt_queued h e
  | canAttemptEnd => exact execCanAttemptEnd_queued h e
  | canBusoffRecovery => exact execCanBusoffRecovery_queued h e
  | canRestart => exact execCanRestart_queued h e
  | channelEnableOff => exact execChannelEnableOff_queued h e
  | loadHoldEnd => exact execLoadHoldEnd_queued h e
  | linHeader => exact execLinHeader_queued h e
  | linResponseReceive => exact execLinResponseReceive_queued h e
  | linResponseTimeout => exact execLinResponseTimeout_queued h e
  | linScheduleSlot => exact execLinScheduleSlot_queued h e
  | schedRun => exact execSchedRun_queued h e
  | pwmPeriodStart => exact execPwmPeriodStart_queued h e
  | envViolStat => exact execEnvViolStat_queued h e
  | dictWindowRead => exact execDictWindowRead_queued h e
  | dictWindowWrite => exact execDictWindowWrite_queued h e
  | mbRead => exact execMbRead_queued h e
  | mbWrite => exact execMbWrite_queued h e
  | seedStoreWriteDone => exact execSeedStoreWriteDone_queued h e
  | dapPduReceive => exact execDapPduReceive_queued h e
  | dapRead => exact execDapRead_queued h e
  | dapWrite => exact execDapWrite_queued h e
  | dapSubscribe => exact execDapSubscribe_queued h e
  | dapUnsubscribe => exact execDapUnsubscribe_queued h e
  | dapNotify => exact execDapNotify_queued h e
  | dapPing => exact execDapPing_queued h e
  | broadcastPingDelay => exact execBroadcastPingDelay_queued h e
  | dapEnsignClaim => exact execDapEnsignClaim_queued h e
  | dapEnsignRelease => exact execDapEnsignRelease_queued h e
  | ensignClaim => exact execEnsignClaim_queued h e
  | ensignWindowClose => exact execEnsignWindowClose_queued h e
  | ensignLeaseExpiry => exact execEnsignLeaseExpiry_queued h e
  | dapAck => exact execDapAck_queued h e
  | dapAbort => exact execDapAbort_queued h e
  | dapSegment => exact execDapSegment_queued h e
  | dapTransactionTimeout => exact execDapTransactionTimeout_queued h e
  | calUnlock => exact execCalUnlock_queued h e
  | calEntryWrite => exact execCalEntryWrite_queued h e
  | selfcalVmon => exact execSelfcalVmon_queued h e
  | selfcalClock => exact execSelfcalClock_queued h e
  | selfcalSerdes => exact execSelfcalSerdes_queued h e
  | selfcalHbmSeed => exact execSelfcalHbmSeed_queued h e
  | selfcalDone => exact execSelfcalDone_queued h e
  | keyRevoke => exact execKeyRevoke_queued h e
  | retireClear => exact execRetireClear_queued h e
  | fbPop => exact execFbPop_queued h e
  | ledgerTail => exact execLedgerTail_queued h e
  | dmTail => exact execDmTail_queued h e
  | dmDescriptorStart => exact execDmDescriptorStart_queued h e
  | dmDescriptorComplete => exact execDmDescriptorComplete_queued h e
  | dmError => exact execDmError_queued h e
  | dmAbort => exact execDmAbort_queued h e
  | dmAbortAll => exact execDmAbortAll_queued h e
  | dmEnable => exact execDmEnable_queued h e
  | gpioEdge => exact execGpioEdge_queued h e
  | gpioIrqStat => exact execGpioIrqStat_queued h e
  | portLinkChange => exact execPortLinkChange_queued h e
  | porstNLow => exact execPorstNLow_queued h e
  | canIntegrationEnd => exact execCanIntegrationEnd_queued h e
  | canErrorDetected => exact execCanErrorDetected_queued h e
  | gptpTimer => exact execGptpTimer_queued h e
  | pllLock => exact execPllLock_queued h e
  | sramFillDone => exact execSramFillDone_queued h e
  | debugResume => exact execDebugResume_queued h e
  | pciePerstNRise => exact execPciePerstNRise_queued h e
  | shaperCreditRecovered => exact execShaperCreditRecovered_queued h e
  | rejoinCaptureDone => exact execRejoinCaptureDone_queued h e

/-- Settles O9: what runs a command is made of the operations above, and none of them touches the queue. -/
theorem commandsLeaveTheQueue : Obligations.CommandsLeaveTheQueue := fun _ _ _ h => exec_queued rfl h

end Sys2Proof.Machine
end

section
/-! Store forwarding on an A-core: the youngest store that overlaps a load decides (R115). -/
namespace Sys2Proof.Machine

/-- The store writes a byte of the load, the test by which `forward` searches the buffer. -/
def StoreEnt.overlaps (l : List LineAcc) (e : StoreEnt) : Bool := (accBytes l).any fun a => (e.byte? a).isSome

section
variable {old young sb : List StoreEnt} {e : StoreEnt} {l : List LineAcc}

theorem StoreEnt.overlaps_iff : e.overlaps l = true ↔ ∃ a ∈ accBytes l, (e.byte? a).isSome = true := List.any_eq_true

theorem StoreEnt.not_overlaps_iff : ¬ e.overlaps l = true ↔ ∀ a ∈ accBytes l, e.byte? a = none := by
  simp [StoreEnt.overlaps_iff]

/-- With no store that overlaps the load nothing is forwarded. -/
theorem forward_of_no_overlap (h : ∀ e ∈ sb, ¬ e.overlaps l = true) : forward sb l = .none := by
  have hfind : sb.reverse.find? (StoreEnt.overlaps l) = none :=
    List.find?_eq_none.mpr fun e he => h e (List.mem_reverse.mp he)
  unfold StoreEnt.overlaps at hfind
  simp only [forward, hfind]

/-- The search from the youngest store passes over those that do not overlap the load and ends at the first that does. -/
theorem find_youngest_overlap (hyoung : ∀ y ∈ young, ¬ y.overlaps l = true) (he : e.overlaps l = true) :
    (old ++ e :: young).reverse.find? (StoreEnt.overlaps l) = some e := by
  have hpast : young.reverse.find? (StoreEnt.overlaps l) = none :=
    List.find?_eq_none.mpr fun y hy => hyoung y (List.mem_reverse.mp hy)
  simp [List.find?_append, hpast, he]

/-- The youngest store that overlaps the load answers alone, by whether it writes every byte of the load. -/
theorem forward_youngest_overlap (hyoung : ∀ y ∈ young, ¬ y.overlaps l = true) (he : e.overlaps l = true) :
    forward (old ++ e :: young) l =
      if ((accBytes l).map e.byte?).all (·.isSome) then .all (((accBytes l).map e.byte?).map fun x => x.getD 0) else .some_ := by
  have hfind := find_youngest_overlap (old := old) hyoung he
  unfold StoreEnt.overlaps at hfind
  simp only [forward, hfind]

theorem forward_of_youngest_covers {b : Nat → Byte} (hyoung : ∀ y ∈ young, ¬ y.overlaps l = true) (hne : accBytes l ≠ [])
    (hb : ∀ a ∈ accBytes l, e.byte? a = some (b a)) : forward (old ++ e :: young) l = .all ((accBytes l).map b) := by
  obtain ⟨a, ha⟩ := List.exists_mem_of_ne_nil _ hne
  have he : e.overlaps l = true := StoreEnt.overlaps_iff.mpr ⟨a, ha, by rw [hb a ha]; rfl⟩
  have hbytes : (accBytes l).map e.byte? = (accBytes l).map fun a => some (b a) := List.map_congr_left hb
  rw [forward_youngest_overlap hyoung he, hbytes]
  simp

theorem forward_of_youngest_partial (hyoung : ∀ y ∈ young, ¬ y.overlaps l = true) (he : e.overlaps l = true)
    (hgap : ∃ a ∈ accBytes l, e.byte? a = none) : forward (old ++ e :: young) l = .some_ := by
  obtain ⟨a, ha, hnone⟩ := hgap
  have hall : ¬ ((accBytes l).map e.byte?).all (·.isSome) = true := fun h => by
    simpa [hnone] using List.all_eq_true.mp h (e.byte? a) (List.mem_map_of_mem ha)
  rw [forward_youngest_overlap hyoung he, if_neg hall]

end

/-- Settles O20: no store overlaps the load, or the youngest that does writes every byte of it, or only some. -/
theorem storeForwarding : Obligations.StoreForwarding := by
  refine fun sb l => ⟨fun h => forward_of_no_overlap fun e he => StoreEnt.not_overlaps_iff.mpr (h e he), ?_⟩
  rintro old young e rfl h
  have hyoung : ∀ y ∈ young, ¬ y.overlaps l = true := fun y hy => StoreEnt.not_overlaps_iff.mpr (h y hy)
  exact ⟨fun b hne hb => forward_of_youngest_covers hyoung hne hb,
    fun hover hgap => forward_of_youngest_partial hyoung (StoreEnt.overlaps_iff.mpr hover) hgap⟩

end Sys2Proof.Machine
end

section
/-! What the spec gives for reset (R134, R290, R359, R421, R458). -/
namespace Sys2Proof.Machine

theorem State.reset_acore (c : Fin 32) : State.reset.acore.get c = ACore.init := Vector.get_replicate ..

theorem State.reset_island (i : Fin 4) : State.reset.island.get i = Island.init := Vector.get_replicate ..

theorem State.reset_port (n : Fin 24) : State.reset.gw.ports.get n = Port.init := Vector.get_replicate ..

theorem State.reset_bank (b : Fin 49) : State.reset.fb.get b = FaultBank.init := Vector.get_replicate ..

/-- Slot 3 of an island is the spare, and the others are active (R290). -/
theorem Island.init_slot (k : Fin 4) : Island.init.slots.get k = TCore.init (if k = 3 then .spare else .active) := by
  have hslots : Island.init.slots = vset (Vector.replicate 4 (TCore.init .active)) 3 (TCore.init .spare) := rfl
  rw [hslots]
  split
  next h => rw [h, vset_get]
  next h => rw [vset_get_ne _ _ h, Vector.get_replicate]

/-- Settles O10: each unit's value at reset. -/
theorem resetValues : Obligations.ResetValues := by
  refine ⟨fun c => ?_, fun i => ?_, fun n => ?_, rfl, rfl, fun b => ?_, rfl⟩
  · rw [State.reset_acore]
    exact ⟨rfl, by decide, by decide, rfl, rfl, rfl, rfl, rfl, rfl, rfl⟩
  · rw [State.reset_island]
    refine ⟨rfl, ?_, fun k => ?_, fun k => ?_⟩
    · rw [Island.init_slot, if_pos rfl]
      rfl
    · have hactive : k.castSucc ≠ 3 := (Fin.castSucc_lt_last k).ne
      rw [Island.init_slot, if_neg hactive]
      rfl
    · rw [Island.init_slot]
      exact ⟨rfl, rfl, rfl, rfl, rfl, rfl, rfl, rfl, rfl⟩
  · rw [State.reset_port]
    exact ⟨rfl, rfl⟩
  · rw [State.reset_bank]
    rfl

end Sys2Proof.Machine
end

section
/-! What makes an interrupt source pending: inputs, pulses, writes of its state register and the MSI doorbell (R160 to R166, R544). -/
namespace Sys2Proof.Machine

/-! ## Inputs and pulses (R162, R544) -/

section
variable {s : State} {k : Nat} {r : SrcRef}

theorem exec_irqPulse (hr : ∀ m, r ≠ .msi m) : exec (.irqPulse r) s = .next (s.pulse (srcRefKey r)) := by
  cases r with
  | wired n => rfl
  | msi m => exact absurd rfl (hr m)
  | priv c j => rfl

theorem exec_irqInputAssert (hr : ∀ m, r ≠ .msi m) (l : Bool) :
    exec (.irqInputAssert r l) s = .next (s.setLine (srcRefKey r) l) := by
  cases r with
  | wired n => rfl
  | msi m => exact absurd rfl (hr m)
  | priv c j => rfl

/-- An input that does not change changes nothing. -/
theorem State.setLine_same {l : Bool} (h : (s.src k).line = l) : s.setLine k l = s := by
  simp [State.setLine, h]

theorem State.setLine_rise (hk : srcExists k = true) (h : (s.src k).line = false) : s.setLine k true =
    s.setSrc k { (if srcEdge k (s.src k) then (s.src k).assert k else s.src k) with line := true } := by
  simp [State.setLine, hk, h]

theorem State.setLine_fall (hk : srcExists k = true) (h : (s.src k).line = true) :
    s.setLine k false = s.setSrc k { s.src k with line := false } := by
  simp [State.setLine, hk, h]

/-- What a rising input makes of a source: it asserts an edge source and drives a level source (R162). -/
theorem IrqSrc.rises {x : IrqSrc} (hline : x.line = false) :
    let y : IrqSrc := { (if srcEdge k x then x.assert k else x) with line := true }
    y.line = true ∧ if srcEdge k x then x.asserted k { y with line := false } else y = { x with line := true } := by
  refine ⟨rfl, ?_⟩
  cases hedge : srcEdge k x
  · rfl
  · have hassert : x.assert k = { x with pend := true } := by simp [IrqSrc.assert, hedge]
    have hlow : { x.assert k with line := false } = x.assert k := by rw [hassert, ← hline]
    simpa [hlow] using x.asserted_assert k

theorem completes_irqInputRise (hs : s.canon) (hr : ∀ m, r ≠ .msi m) (hk : srcExists (srcRefKey r) = true)
    (hline : (s.src (srcRefKey r)).line = false) :
    let k := srcRefKey r
    let x := s.src k
    completes (.irqInputAssert r true) s fun t => ∃ y, y.line = true ∧ s.srcBecomes t k y ∧
      if srcEdge k x then x.asserted k { y with line := false } else y = { x with line := true } := by
  obtain ⟨hhigh, hkind⟩ := IrqSrc.rises (k := srcRefKey r) hline
  refine ⟨_, exec_irqInputAssert hr true, _, hhigh, ?_, hkind⟩
  rw [State.setLine_rise hk hline]
  exact State.srcBecomes_setSrc hs _ _

theorem completes_irqInputFall (hs : s.canon) (hr : ∀ m, r ≠ .msi m) (hk : srcExists (srcRefKey r) = true)
    (hline : (s.src (srcRefKey r)).line = true) :
    completes (.irqInputAssert r false) s fun t =>
      s.srcBecomes t (srcRefKey r) { s.src (srcRefKey r) with line := false } := by
  refine ⟨_, exec_irqInputAssert hr false, ?_⟩
  rw [State.setLine_fall hk hline]
  exact State.srcBecomes_setSrc hs _ _

end

/-! ## Writes of a state register (R159 to R162) -/

section
variable {s : State} {m : Master} {r : SrcRef} {v : Word}

/-- A master reaches the register, and the source is of a world that the master may write (R159, R161). -/
def State.mayState (s : State) (m : Master) (r : SrcRef) : Prop :=
  ((s.src (srcRefKey r)).secure = true → s.masterSecure m = true) ∧
  ∀ c j, r = .priv c j → s.masterSecure m = true ∨ m = .core c

theorem State.mayCore_iff (c : Fin 32) : s.mayCore m c = true ↔ s.masterSecure m = true ∨ m = .core c := by
  simp [State.mayCore]

theorem State.maySrc_iff : s.maySrc m r = true ↔ ∀ c j, r = .priv c j → s.masterSecure m = true ∨ m = .core c := by
  cases r with
  | wired n => simp [State.maySrc]
  | msi n => simp [State.maySrc]
  | priv c j =>
    rw [State.maySrc, State.mayCore_iff]
    exact ⟨fun h _ _ hr => by cases hr; exact h, fun h => h c j rfl⟩

theorem State.srcWrite_reserved {n : Fin 1024} (h : n.val < 32) :
    s.srcWrite m (.wired n) v = { s with reply := .error .decerr } := if_pos h

/-- A write to a register that exists. -/
theorem State.srcWrite_eq (h : ∀ n, r = .wired n → 32 ≤ n.val) : s.srcWrite m r v =
    if s.maySrc m r then (s.stateWrite m (srcRefKey r) v).getD s.wldErr else s.wldErr := by
  cases r with
  | wired n => exact if_neg (Nat.not_lt.mpr (h n rfl))
  | msi n => rfl
  | priv c j => rfl

theorem State.stateWrite_refused {k : Nat} (hsec : (s.src k).secure = true) (hm : s.masterSecure m = false) :
    s.stateWrite m k v = none := by
  simp [State.stateWrite, hsec, hm]

theorem State.stateWrite_admitted {k : Nat} (h : (s.src k).secure = true → s.masterSecure m = true) : s.stateWrite m k v =
    if v.getLsbD 8 then some (s.pulse k)
    else if v.getLsbD 9 && srcEdge k (s.src k) then some (s.setSrc k { s.src k with pend := false })
    else some s := by
  refine if_neg fun hno => ?_
  obtain ⟨hsec, hm⟩ := (Bool.and_eq_true _ _).mp hno
  simp [h hsec] at hm

theorem State.srcWrite_refused (hr : ∀ n, r = .wired n → 32 ≤ n.val) (hmay : ¬ s.mayState m r) : s.srcWrite m r v = s.wldErr := by
  rw [State.srcWrite_eq hr]
  split
  next hreach =>
    have hworld : ¬ ((s.src (srcRefKey r)).secure = true → s.masterSecure m = true) := fun h => hmay ⟨h, State.maySrc_iff.mp hreach⟩
    obtain ⟨hsec, hm⟩ := Classical.not_imp.mp hworld
    rw [State.stateWrite_refused hsec (Bool.of_not_eq_true hm)]
    rfl
  next => rfl

theorem State.srcWrite_admitted (hr : ∀ n, r = .wired n → 32 ≤ n.val) (hmay : s.mayState m r) : s.srcWrite m r v =
    let k := srcRefKey r
    if v.getLsbD 8 then s.pulse k
    else if v.getLsbD 9 && srcEdge k (s.src k) then s.setSrc k { s.src k with pend := false }
    else s := by
  obtain ⟨hworld, hreach⟩ := hmay
  rw [State.srcWrite_eq hr, if_pos (State.maySrc_iff.mpr hreach), State.stateWrite_admitted hworld]
  dsimp only
  rw [apply_ite (Option.getD · s.wldErr), apply_ite (Option.getD · s.wldErr)]
  rfl

/-- SETPEND and CLRPEND are the same write: its value says what it does. -/
theorem exec_stateCmd {cmd : Instr} (h : cmd = .setpend m r v ∨ cmd = .clrpend m r v) : exec cmd s = .next (s.srcWrite m r v) := by
  obtain rfl | rfl := h <;> rfl

theorem completes_stateCmd {cmd : Instr} (hs : s.canon) (hcmd : cmd = .setpend m r v ∨ cmd = .clrpend m r v) :
    let k := srcRefKey r
    let x := s.src k
    ((∃ n, r = .wired n ∧ n.val < 32) → completes cmd s fun t => t = { s with reply := .error .decerr }) ∧
    ((∀ n, r = .wired n → 32 ≤ n.val) →
      (¬ s.mayState m r → completes cmd s fun t => t = { s with reply := .error .wlderr }) ∧
      (s.mayState m r → v.getLsbD 8 = true → srcExists k = true → completes cmd s fun t => ∃ y, s.srcBecomes t k y ∧ x.asserted k y) ∧
      (s.mayState m r → v.getLsbD 8 = false → v.getLsbD 9 = true → srcEdge k x = true →
        completes cmd s fun t => s.srcBecomes t k { x with pend := false }) ∧
      (s.mayState m r → v.getLsbD 8 = false → (v.getLsbD 9 = false ∨ srcEdge k x = false) → completes cmd s fun t => t = s)) := by
  intro k x
  have hexec := exec_stateCmd (s := s) hcmd
  refine ⟨?_, fun hr => ⟨fun hno => ⟨_, hexec, State.srcWrite_refused hr hno⟩, fun hmay hset hk => ⟨_, hexec, ?_⟩,
    fun hmay hset hclr hedge => ⟨_, hexec, ?_⟩, fun hmay hset hidle => ⟨_, hexec, ?_⟩⟩⟩
  · rintro ⟨n, rfl, hn⟩
    exact ⟨_, hexec, State.srcWrite_reserved hn⟩
  · rw [State.srcWrite_admitted hr hmay, if_pos hset]
    exact State.srcBecomes_pulse hs hk
  · have hclears : (v.getLsbD 9 && srcEdge k x) = true := by rw [hclr, hedge]; rfl
    rw [State.srcWrite_admitted hr hmay, hset, if_neg Bool.false_ne_true, if_pos hclears]
    exact State.srcBecomes_setSrc hs k _
  · have hkeeps : ¬ (v.getLsbD 9 && srcEdge k x) = true := by
      rw [Bool.and_eq_true]
      exact fun ⟨hclr, hedge⟩ => hidle.elim (fun h => Bool.false_ne_true (h.symm.trans hclr)) fun h =>
        Bool.false_ne_true (h.symm.trans hedge)
    rw [State.srcWrite_admitted hr hmay, hset, if_neg Bool.false_ne_true, if_neg hkeeps]

end

/-! ## The doorbell of the MSI sources (R166) -/

theorem completes_msiDoorbell {s : State} (hs : s.canon) (k : Fin 2) (size : Nat) (v : BitVec 32) :
    (size = 4 → v.toNat < 2048 → completes (.msiDoorbell k size v) s fun t =>
      ∃ y, s.srcBecomes t (1024 + v.toNat) y ∧ (s.src (1024 + v.toNat)).asserted (1024 + v.toNat) y) ∧
    (size ≠ 4 ∨ 2048 ≤ v.toNat → completes (.msiDoorbell k size v) s fun t => t = s.record bankPcie 0x2D k.val 0 0 v.toNat) := by
  have hexec : exec (.msiDoorbell k size v) s = execMsiDoorbell k size v s := rfl
  have hfits : bits v.toNat 31 11 = 0 ↔ v.toNat < 2048 := by
    have hlt := v.isLt
    rw [bits_eq_div_mod]
    omega
  refine ⟨fun hsize hv => ⟨_, hexec, ?_⟩, fun hno => ⟨_, hexec, ?_⟩⟩
  · rw [if_pos ⟨hsize, hfits.mpr hv⟩]
    exact State.srcBecomes_pulse hs (srcExists_msi hv)
  · refine if_neg fun ⟨hsize, hv⟩ => ?_
    have hlt := hfits.mp hv
    omega

/-- Settles O35: what a pulse and an input do to a source that exists, what a write of its state register does, and the doorbell. -/
theorem interruptSources : Obligations.InterruptSources := by
  refine fun s hs => ⟨fun r hr hk => ⟨⟨_, exec_irqPulse hr, State.srcBecomes_pulse hs hk⟩, completes_irqInputRise hs hr hk,
    completes_irqInputFall hs hr hk, fun l hl => ⟨_, exec_irqInputAssert hr l, State.setLine_same hl⟩⟩,
    fun m r v cmd hcmd => completes_stateCmd hs hcmd, fun k size v => completes_msiDoorbell hs k size v⟩

end Sys2Proof.Machine
end

section
/-! Which interrupt a core is offered, and what claims, ends, injections and software-generated interrupts do (R159 to R165, R545). -/
namespace Sys2Proof.Machine

/-! ## The offered source (R163) -/

section
variable {s : State}

/-- Source b is no worse than source k: of a higher priority, or of an equal one and of no higher ID. -/
def State.outranks (s : State) (b k : Nat) : Prop :=
  (s.src k).prio < (s.src b).prio ∨ ((s.src k).prio = (s.src b).prio ∧ srcId b ≤ srcId k)

theorem State.outranks.refl (k : Nat) : s.outranks k k := .inr ⟨rfl, Nat.le_refl _⟩

theorem State.outranks.trans {a b k : Nat} (hab : s.outranks a b) (hbk : s.outranks b k) : s.outranks a k := by
  unfold State.outranks at *
  omega

/-- Of the best source so far and another, the better. -/
def State.better (s : State) (acc : Option Nat) (k : Nat) : Option Nat :=
  match acc with
  | none => some k
  | some b =>
    if (s.src b).prio < (s.src k).prio ∨ ((s.src k).prio = (s.src b).prio ∧ srcId k < srcId b) then some k else some b

theorem State.best_eq_foldl (l : List Nat) : s.best l = l.foldl s.better none := rfl

/-- The better of two is one of them, and no worse than either. -/
theorem State.better_spec (acc : Option Nat) (k : Nat) :
    ∃ b, s.better acc k = some b ∧ (acc = some b ∨ b = k) ∧ s.outranks b k ∧ ∀ j, acc = some j → s.outranks b j := by
  unfold State.better
  cases acc with
  | none => exact ⟨k, rfl, .inr rfl, .refl k, by simp⟩
  | some a =>
    dsimp only
    split
    next h =>
      have hka : s.outranks k a := h.imp_right fun ⟨he, hid⟩ => ⟨he.symm, hid.le⟩
      exact ⟨k, rfl, .inr rfl, .refl k, fun j hj => Option.some.inj hj ▸ hka⟩
    next h =>
      have hak : s.outranks a k := by unfold State.outranks; omega
      exact ⟨a, rfl, .inl rfl, hak, fun j hj => Option.some.inj hj ▸ .refl a⟩

/-- A fold of `better` begins with the best so far, and ends with one that is no worse than any. -/
theorem State.foldl_better {l : List Nat} {acc : Option Nat} :
    (l.foldl s.better acc = none ↔ acc = none ∧ l = []) ∧
    ∀ k, l.foldl s.better acc = some k → (acc = some k ∨ k ∈ l) ∧ ∀ j, (acc = some j ∨ j ∈ l) → s.outranks k j := by
  induction l generalizing acc with
  | nil =>
    refine ⟨by simp, fun k hk => ⟨.inl hk, fun j hj => ?_⟩⟩
    cases hk.symm.trans (hj.resolve_right List.not_mem_nil)
    exact .refl k
  | cons a r ih =>
    obtain ⟨b, hb, hof, hba, hbacc⟩ := s.better_spec acc a
    obtain ⟨hnone, hsome⟩ := ih (acc := some b)
    rw [List.foldl_cons, hb]
    refine ⟨by simp [hnone], fun k hk => ?_⟩
    obtain ⟨hmem, hmax⟩ := hsome k hk
    have hkb : s.outranks k b := hmax b (.inl rfl)
    refine ⟨?_, fun j hj => ?_⟩
    · obtain hkb | hkr := hmem
      · cases hkb
        exact hof.imp_right fun h => by simp [h]
      · exact .inr (List.mem_cons_of_mem a hkr)
    · obtain hj | hj := hj
      · exact hkb.trans (hbacc j hj)
      · obtain rfl | hjr := List.mem_cons.mp hj
        · exact hkb.trans hba
        · exact hmax j (.inr hjr)

theorem State.best_none {l : List Nat} : s.best l = none ↔ l = [] := by
  rw [State.best_eq_foldl, State.foldl_better.1]
  simp

theorem State.best_some {l : List Nat} {k : Nat} (h : s.best l = some k) : k ∈ l ∧ ∀ j ∈ l, s.outranks k j := by
  obtain ⟨hmem, hmax⟩ := State.foldl_better.2 k h
  exact ⟨by simpa using hmem, fun j hj => hmax j (.inr hj)⟩

theorem mem_keys_of_kvGet? {α : Type} {t : KV α} {n : Nat} {v : α} (h : kvGet? t n = some v) : n ∈ t.map (·.1) := by
  fun_induction kvGet? t n <;> simp_all

/-- A source with a priority is listed: one that is not listed stands as at reset. -/
theorem State.mem_srcKeys {k : Nat} (h : 0 < (s.src k).prio) : k ∈ s.srcKeys := by
  cases hget : kvGet? s.irq.src k with
  | none =>
    have hinit : s.src k = IrqSrc.init := by simp [State.src, hget]
    rw [hinit] at h
    exact absurd h (by decide)
  | some x => exact mem_keys_of_kvGet? hget

/-- A source that core c can be offered (R161 to R163): pending, not active, enabled, of a priority above 0 and of the core's world,
and a source of its own or one that targets it. -/
def State.fitsCore (s : State) (c : Fin 32) (k : Nat) : Prop :=
  let x := s.src k
  srcPend k x = true ∧ x.active = false ∧ x.en = true ∧ 0 < x.prio ∧ x.secure = (s.acore.get c).secure ∧
  if 4096 ≤ k then ∃ j, j < 19 ∧ k = privKey c.val j else srcKind k x = 0 ∧ x.target = c.val

/-- The listed sources among which core c is offered the best. -/
def State.coreSources (s : State) (c : Fin 32) : List Nat :=
  s.srcKeys.filter fun k => s.offered k && (s.src k).secure == (s.acore.get c).secure && s.atCore c k

theorem State.coreOffer_eq_best (c : Fin 32) : s.coreOffer c = s.best (s.coreSources c) := rfl

theorem State.atCore_iff {c : Fin 32} {k : Nat} : s.atCore c k = true ↔
    if 4096 ≤ k then ∃ j, j < 19 ∧ k = privKey c.val j else srcKind k (s.src k) = 0 ∧ (s.src k).target = c.val := by
  unfold State.atCore
  split
  · simp [privKeys, eq_comm]
  · simp

theorem State.mem_coreSources {c : Fin 32} {k : Nat} : k ∈ s.coreSources c ↔ s.fitsCore c k := by
  have hoffered : s.offered k = true ↔
      srcPend k (s.src k) = true ∧ (s.src k).active = false ∧ (s.src k).en = true ∧ 0 < (s.src k).prio := by
    simp [State.offered, and_assoc]
  simp only [State.coreSources, List.mem_filter, Bool.and_eq_true, beq_iff_eq, hoffered, State.atCore_iff, State.fitsCore, and_assoc,
    and_iff_right_iff_imp]
  exact fun ⟨_, _, _, hprio, _⟩ => State.mem_srcKeys hprio

theorem State.coreOffer_spec (c : Fin 32) :
    (s.coreOffer c = none ↔ ∀ k, ¬ s.fitsCore c k) ∧
    ∀ k, s.coreOffer c = some k → s.fitsCore c k ∧ ∀ j, s.fitsCore c j → s.outranks k j := by
  simp only [State.coreOffer_eq_best, ← State.mem_coreSources]
  exact ⟨State.best_none.trans List.eq_nil_iff_forall_not_mem, fun k hk => State.best_some hk⟩

end

/-! ## Claims and ends (R162 to R164, R545) -/

section
variable {s : State} {m : Master} {c : Fin 32} {p : Fin 64} {w : Claimer} {offer : Option Nat} {acc : AckAcc} {v : Word} {cmd : Instr}

/-- The state after a read of an acknowledge register, with the value that it returns. -/
def State.acked (s : State) (w : Claimer) (offer : Option Nat) (acc : AckAcc) : State :=
  { (s.ackRead w offer acc).1 with reply := .value (s.ackRead w offer acc).2 }

theorem State.acked_zero (h : acc = .high ∨ offer = none) : s.acked w offer acc = { s with reply := .value 0 } := by
  cases acc with
  | high => rfl
  | full => rw [h.resolve_left (by simp)]; rfl
  | low => rw [h.resolve_left (by simp)]; rfl

theorem State.acked_claim {k : Nat} (h : acc ≠ .high) :
    s.acked w (some k) acc = { s.claim k w with reply := .value (ackWord k (s.src k)) } := by
  cases acc with
  | high => exact absurd rfl h
  | full => rfl
  | low => rfl

/-- What a read of an acknowledge register answers: it claims the offer where it returns bits [31:0]. -/
theorem completes_acked (hs : s.canon) (hexec : exec cmd s = .next (s.acked w offer acc)) :
    ((acc = .high ∨ offer = none) → completes cmd s fun t => t = { s with reply := .value 0 }) ∧
    ∀ k, acc ≠ .high → offer = some k → completes cmd s fun t =>
      let x := s.src k
      ∃ v : State, s.srcBecomes v k { x with pend := false, setp := false, active := true, by_ := some w } ∧
        t = { v with reply := .value (word (srcId k + x.prio * 2 ^ 16 + x.vec * 2 ^ 20 + 2 ^ 31)) } := by
  refine ⟨fun h => ⟨_, hexec, State.acked_zero h⟩, fun k hacc hk => ⟨_, hexec, s.claim k w, State.srcBecomes_claim hs k w, ?_⟩⟩
  rw [hk, State.acked_claim hacc]
  rfl

/-- What a write of an end answers: it ends the interrupt on the interface that claimed it. -/
theorem completes_irqEnd (hs : s.canon) {id : Nat} (hexec : exec cmd s = .next (s.irqEnd w id)) :
    let k := claimKey w id
    let x := s.src k
    (x.active = true → x.by_ = some w → completes cmd s fun t =>
      s.srcBecomes t k { x with active := false, by_ := none, cfg := x.next.getD x.cfg, next := none }) ∧
    ((x.active = false ∨ x.by_ ≠ some w) → completes cmd s fun t => t = s) :=
  ⟨fun hactive hby => ⟨_, hexec, State.srcBecomes_irqEnd hs hactive hby⟩, fun h => ⟨_, hexec, State.irqEnd_ignored h⟩⟩

theorem bits_low_twelve (v : Word) : bits v.toNat 11 0 = v.toNat % 4096 := by simp [bits_eq_div_mod]

theorem exec_irqAck (h : s.mayCore m c = true) : exec (.irqAck m c acc) s = .next (s.acked (.core c) (s.coreOffer c) acc) :=
  congrArg Host.Outcome.next (if_neg (by simp [h]))

theorem exec_irqAck_refused (h : s.mayCore m c = false) : exec (.irqAck m c acc) s = .next s.wldErr :=
  congrArg Host.Outcome.next (if_pos (by simp [h]))

theorem exec_irqEoi (h : s.mayCore m c = true) : exec (.irqEoi m c v) s = .next (s.irqEnd (.core c) (v.toNat % 4096)) := by
  rw [← bits_low_twelve]
  exact congrArg Host.Outcome.next (if_pos h)

theorem exec_irqEoi_refused (h : s.mayCore m c = false) : exec (.irqEoi m c v) s = .next s.wldErr :=
  congrArg Host.Outcome.next (if_neg (by simp [h]))

theorem exec_irqSgi (h : s.mayCore m c = true) : exec (.irqSgi m c v) s = .next (s.sgiWrite m v) :=
  congrArg Host.Outcome.next (if_pos h)

theorem exec_irqSgi_refused (h : s.mayCore m c = false) : exec (.irqSgi m c v) s = .next s.wldErr :=
  congrArg Host.Outcome.next (if_neg (by simp [h]))

theorem State.mayVirt_iff : s.mayVirt m p = true ↔ s.masterSecure m = true ∨ ∃ c, m = .core c ∧ s.corePart c = some p.val := by
  cases m <;> simp [State.mayVirt]

theorem exec_virqAck (h : s.mayVirt m p = true) : exec (.virqAck m p acc) s = .next (s.acked (.virt p) (s.virtOffer p) acc) :=
  congrArg Host.Outcome.next (if_neg (by simp [h]))

theorem exec_virqAck_refused (h : s.mayVirt m p = false) : exec (.virqAck m p acc) s = .next s.wldErr :=
  congrArg Host.Outcome.next (if_pos (by simp [h]))

theorem exec_virqEoi (h : s.mayVirt m p = true) : exec (.virqEoi m p v) s = .next (s.irqEnd (.virt p) (v.toNat % 4096)) := by
  rw [← bits_low_twelve]
  exact congrArg Host.Outcome.next (if_pos h)

theorem exec_virqEoi_refused (h : s.mayVirt m p = false) : exec (.virqEoi m p v) s = .next s.wldErr :=
  congrArg Host.Outcome.next (if_neg (by simp [h]))

end

/-! ## Injections (R164) -/

section
variable {s : State} {m : Master} {p : Fin 64} {v : Word}

/-- A master may inject the source: it is of the Secure world, or at level H of the partition's world and the source is Normal. -/
def State.mayInject (s : State) (m : Master) (p : Fin 64) (k : Nat) : Prop :=
  s.masterSecure m = true ∨ ((s.src k).secure = false ∧
    ∃ c, m = .core c ∧ s.hasH = true ∧ (s.acore.get c).lh = true ∧ (s.acore.get c).secure = s.partSecure p.val)

theorem State.mayVirqCtl_iff : s.mayVirqCtl m p = true ↔ s.masterSecure m = true ∨
    ∃ c, m = .core c ∧ s.hasH = true ∧ (s.acore.get c).lh = true ∧ (s.acore.get c).secure = s.partSecure p.val := by
  cases m <;> simp [State.mayVirqCtl, and_assoc]

theorem State.mayInject_iff {k : Nat} :
    (!s.mayVirqCtl m p || ((s.src k).secure && !s.masterSecure m)) = false ↔ s.mayInject m p k := by
  simp only [Bool.or_eq_false_iff, Bool.not_eq_false', State.mayVirqCtl_iff, State.mayInject]
  cases s.masterSecure m <;> simp [and_comm]

theorem State.injWrite_refused (h : ¬ s.mayInject m p (v.toNat % 4096)) : s.injWrite m p v = none := by
  rw [← bits_low_twelve, ← State.mayInject_iff, Bool.not_eq_false] at h
  exact if_pos h

theorem State.injWrite_admitted (h : s.mayInject m p (v.toNat % 4096)) : s.injWrite m p v =
    let k := v.toNat % 4096
    if 32 ≤ k ∧ k < 3072 ∧ srcKind k (s.src k) = 1 ∧ (s.src k).target = p.val then some (s.pulse k) else some s := by
  rw [← bits_low_twelve] at h ⊢
  exact if_neg (by rw [State.mayInject_iff.mpr h]; simp)

theorem completes_virqInj (hs : s.canon) (m : Master) (p : Fin 64) (v : Word) :
    let k := v.toNat % 4096
    let x := s.src k
    (¬ s.mayInject m p k → completes (.virqInj m p v) s fun t => t = { s with reply := .error .wlderr }) ∧
    (s.mayInject m p k → 32 ≤ k → k < 3072 → srcExists k = true → srcKind k x = 1 → x.target = p.val →
      completes (.virqInj m p v) s fun t => ∃ y, s.srcBecomes t k y ∧ x.asserted k y) ∧
    (s.mayInject m p k → (k < 32 ∨ 3072 ≤ k ∨ srcKind k x ≠ 1 ∨ x.target ≠ p.val) → completes (.virqInj m p v) s fun t => t = s) := by
  intro k x
  have hexec : exec (.virqInj m p v) s = .next ((s.injWrite m p v).getD s.wldErr) := rfl
  refine ⟨fun hno => ⟨_, hexec, ?_⟩, fun hmay hlow hhigh hk hkind htgt => ⟨_, hexec, ?_⟩, fun hmay hno => ⟨_, hexec, ?_⟩⟩
  · rw [State.injWrite_refused hno]
    rfl
  · rw [State.injWrite_admitted hmay, if_pos ⟨hlow, hhigh, hkind, htgt⟩]
    exact State.srcBecomes_pulse hs hk
  · have hother : ¬ (32 ≤ k ∧ k < 3072 ∧ srcKind k x = 1 ∧ x.target = p.val) := fun ⟨hlow, hhigh, hkind, htgt⟩ => by
      obtain h | h | h | h := hno
      · omega
      · omega
      · exact h hkind
      · exact h htgt
    rw [State.injWrite_admitted hmay, if_neg hother]
    rfl

end

/-! ## Software-generated interrupts (R165) -/

section
variable {s t : State} {m : Master} {v : Word} {n : Nat}

/-- `t` is `s` but for the sources of the distributor. -/
def State.sameButSources (s t : State) : Prop :=
  t = { s with irq := { t.irq with virqCtl := s.irq.virqCtl, hadVirt := s.irq.hadVirt } }

theorem State.sameButSources.trans {u : State} (hst : s.sameButSources t) (htu : t.sameButSources u) : s.sameButSources u := by
  unfold State.sameButSources at *
  rw [htu, hst]

theorem State.sameButSources.masterSecure (h : s.sameButSources t) (m : Master) : t.masterSecure m = s.masterSecure m := by
  rw [h]
  cases m <;> rfl

theorem privKey_ge (c n : Nat) : 4096 ≤ privKey c n := by
  unfold privKey
  omega

theorem srcExists_privKey (d : Fin 32) (hn : n < 19) : srcExists (privKey d.val n) = true := by
  unfold srcExists privKey
  rw [if_neg (by omega), if_neg (by omega), decide_eq_true_eq]
  omega

theorem privKey_inj {d e : Fin 32} (h : privKey d.val n = privKey e.val n) : d = e := by
  unfold privKey at h
  omega

/-- A pulse at a source of one core changes that source alone: it has no KIND. -/
theorem State.pulse_privKey (d : Fin 32) (hn : n < 19) :
    s.pulse (privKey d.val n) = s.putSrc (privKey d.val n) ((s.src (privKey d.val n)).assert (privKey d.val n)) := by
  have hkind : ∀ x, srcKind (privKey d.val n) x ≠ 1 := fun x => by simp [srcKind, privKey_ge]
  rw [State.pulse, if_pos (srcExists_privKey d hn), State.setSrc]
  simp [hkind]

/-- The SGI at one core, where the write targets it and its source is of the writer's world. -/
def State.sgiTo (m : Master) (v : Word) (n : Nat) (s : State) (d : Fin 32) : State :=
  if v.getLsbD d.val && (s.src (privKey d.val n)).secure == s.masterSecure m then s.pulse (privKey d.val n) else s

theorem State.sgiWrite_eq_foldl (s : State) (m : Master) (v : Word) :
    s.sgiWrite m v = (allFin 32).foldl (State.sgiTo m v (bits v.toNat 35 32)) s := rfl

/-- Whether the SGI is raised at a core. -/
def State.sgiRaises (s : State) (m : Master) (v : Word) (n : Nat) (d : Fin 32) : Prop :=
  v.getLsbD d.val = true ∧ (s.src (privKey d.val n)).secure = s.masterSecure m

theorem State.sgiTo_spec (hs : s.canon) (hn : n < 16) (d : Fin 32) :
    let t := State.sgiTo m v n s d
    let k := privKey d.val n
    t.canon ∧ s.sameButSources t ∧ (∀ j, j ≠ k → t.src j = s.src j) ∧
    (s.sgiRaises m v n d → t.src k = (s.src k).assert k) ∧ (¬ s.sgiRaises m v n d → t.src k = s.src k) := by
  intro t k
  have hif : (v.getLsbD d.val && (s.src k).secure == s.masterSecure m) = true ↔ s.sgiRaises m v n d := by
    simp [State.sgiRaises, k]
  by_cases hraises : s.sgiRaises m v n d
  · have ht : t = s.putSrc k ((s.src k).assert k) := by
      rw [← State.pulse_privKey d (by omega)]
      exact if_pos (hif.mpr hraises)
    rw [ht]
    exact ⟨State.putSrc_canon hs k _, rfl, fun j hj => by simp [State.src_putSrc hs, hj], fun _ => by simp [State.src_putSrc hs],
      fun h => absurd hraises h⟩
  · have ht : t = s := if_neg (mt hif.mp hraises)
    rw [ht]
    exact ⟨hs, rfl, fun _ _ => rfl, fun h => absurd h hraises, fun _ => rfl⟩

/-- The SGI at a list of cores. -/
theorem State.foldl_sgiTo (hs : s.canon) (hn : n < 16) {l : List (Fin 32)} (hl : l.Nodup) :
    let t := l.foldl (State.sgiTo m v n) s
    s.sameButSources t ∧ (∀ j, (∀ d ∈ l, j ≠ privKey d.val n) → t.src j = s.src j) ∧
    ∀ d ∈ l, let k := privKey d.val n
      (s.sgiRaises m v n d → t.src k = (s.src k).assert k) ∧ (¬ s.sgiRaises m v n d → t.src k = s.src k) := by
  induction l generalizing s with
  | nil => exact ⟨rfl, fun _ _ => rfl, by simp⟩
  | cons e r ih =>
    obtain ⟨hcanon, hframe, helse, hraised, hkept⟩ := State.sgiTo_spec (m := m) (v := v) hs hn e
    obtain ⟨hfresh, hr⟩ := List.nodup_cons.mp hl
    obtain ⟨hframe', helse', hr'⟩ := ih hcanon hr
    refine ⟨hframe.trans hframe', fun j hj => ?_, fun d hd => ?_⟩
    · obtain ⟨hje, hjr⟩ := List.forall_mem_cons.mp hj
      exact (helse' j hjr).trans (helse j hje)
    · by_cases hde : d = e
      · have hlater : ∀ x ∈ r, privKey d.val n ≠ privKey x.val n := fun x hx heq =>
          hfresh (hde ▸ privKey_inj heq ▸ hx)
        intro k
        rw [List.foldl_cons, helse' k hlater]
        subst hde
        exact ⟨hraised, hkept⟩
      · have hother : privKey d.val n ≠ privKey e.val n := fun heq => hde (privKey_inj heq)
        have hsame := helse _ hother
        have hwho : (State.sgiTo m v n s e).sgiRaises m v n d ↔ s.sgiRaises m v n d := by
          rw [State.sgiRaises, hsame, hframe.masterSecure]
          rfl
        have hdr := hr' d ((List.mem_cons.mp hd).resolve_left hde)
        dsimp only at hdr
        rw [hwho, hsame] at hdr
        exact hdr

theorem completes_irqSgi (hs : s.canon) {c : Fin 32} (hmay : s.mayCore m c = true) (v : Word) :
    completes (.irqSgi m c v) s fun t =>
      let n := v.toNat / 2 ^ 32 % 16
      s.sameButSources t ∧
      (∀ d : Fin 32, let k := privKey d.val n
        if v.getLsbD d.val = true ∧ (s.src k).secure = s.masterSecure m then (s.src k).asserted k (t.src k)
        else t.src k = s.src k) ∧
      ∀ j, (∀ d : Fin 32, j ≠ privKey d.val n) → t.src j = s.src j := by
  have hn : bits v.toNat 35 32 = v.toNat / 2 ^ 32 % 16 := bits_eq_div_mod _ _ _
  obtain ⟨hframe, helse, hcores⟩ := State.foldl_sgiTo (m := m) (v := v) hs (n := v.toNat / 2 ^ 32 % 16) (Nat.mod_lt _ (by decide))
    (List.nodup_finRange 32)
  refine ⟨_, exec_irqSgi hmay, ?_⟩
  rw [State.sgiWrite_eq_foldl, hn]
  refine ⟨hframe, fun d => ?_, fun j hj => helse j fun d _ => hj d⟩
  obtain ⟨hraised, hkept⟩ := hcores d (List.mem_finRange d)
  intro k
  split
  next h =>
    exact hraised h ▸ IrqSrc.asserted_assert k _
  next h => exact hkept h

end

/-- Settles O36: the offer is the best of the sources that fit, and each register's effect is told for the masters that may reach it
and for those that may not. -/
theorem interruptClaims : Obligations.InterruptClaims := by
  refine ⟨fun s c _ => State.coreOffer_spec c, fun s hs => ⟨fun m c acc v => ?_, fun m p acc v => ?_, fun m p v => completes_virqInj hs m p v,
    fun m c v hmay => completes_irqSgi hs ((State.mayCore_iff c).mpr hmay) v⟩⟩
  · split
    next hmay =>
      rw [← State.mayCore_iff] at hmay
      exact ⟨completes_acked hs (exec_irqAck hmay), completes_irqEnd hs (exec_irqEoi hmay)⟩
    next hmay =>
      rw [← State.mayCore_iff, Bool.not_eq_true] at hmay
      exact ⟨⟨_, exec_irqAck_refused hmay, rfl⟩, ⟨_, exec_irqEoi_refused hmay, rfl⟩, ⟨_, exec_irqSgi_refused hmay, rfl⟩⟩
  · split
    next hmay =>
      rw [← State.mayVirt_iff] at hmay
      exact ⟨completes_acked hs (exec_virqAck hmay), completes_irqEnd hs (exec_virqEoi hmay)⟩
    next hmay =>
      rw [← State.mayVirt_iff, Bool.not_eq_true] at hmay
      exact ⟨⟨_, exec_virqAck_refused hmay, rfl⟩, ⟨_, exec_virqEoi_refused hmay, rfl⟩⟩

end Sys2Proof.Machine
end

section
/-! The TLB operations of an A-core, and their effect on the other cores (R137, R188, R189, Tables 2.10 and 5.9). -/
namespace Sys2Proof.Machine

section
variable {s u d : State} {c : Fin 32} {w : IWord} {o : TlbiOp} {p : Bool} {r1 : Reg} {v : Word} {e : TlbEnt}

/-! ## Who may use them (Table 2.10) -/

theorem TlbiOp.needsH_iff : TlbiOp.needsH o = true ↔ o = .ipa ∨ o = .s2 ∨ o = .all := by
  cases o <;> simp [TlbiOp.needsH]

theorem State.tlbiRefuse_none (h : u.atH c = true ∨ ((u.acore.get c).ring = 0 ∧
    (¬ (o = .ipa ∨ o = .s2 ∨ o = .all) ∨ (o = .all ∧ u.hasH = false)))) : u.tlbiRefuse c w o = none := by
  unfold State.tlbiRefuse
  obtain hlevel | ⟨hring, hfree | ⟨rfl, hno⟩⟩ := h
  · exact if_pos hlevel
  · rw [← TlbiOp.needsH_iff] at hfree
    simp [State.outer, hring, hfree]
  · simp [State.outer, hring, hno]

theorem State.tlbiRefuse_outer (hlow : u.atH c = false) (hring : (u.acore.get c).ring ≠ 0) :
    u.tlbiRefuse c w o = some (privExn w) := by
  simp [State.tlbiRefuse, hlow, (State.outer_eq u c).mpr ⟨hlow, hring⟩]

/-- An operation reserved to level H at ring 0. -/
theorem State.tlbiRefuse_reserved (hlow : u.atH c = false) (hring : (u.acore.get c).ring = 0) (hneeds : o = .ipa ∨ o = .s2 ∨ o = .all) :
    u.tlbiRefuse c w o = if u.hasH then some (hypTrap w 2 0) else if o = .all then none else some (privExn w) := by
  rw [← TlbiOp.needsH_iff] at hneeds
  simp [State.tlbiRefuse, State.outer, hlow, hring, hneeds]

/-! ## What they select (Table 5.9) -/

theorem inScope_iff (world w : Bool) (part q : Option Nat) : inScope world part w q = true ↔ w = world ∧ (part = none ∨ q = part) := by
  simp [inScope]

/-- An entry in the scope of a core's operation: of its world, and of its partition where it executes one. -/
def State.tlbScope (d : State) (c : Fin 32) (e : TlbEnt) : Prop :=
  e.world = (d.acore.get c).secure ∧ (d.tagPart c = none ∨ e.part = d.tagPart c)

/-- An entry that holds an address. -/
def TlbEnt.covers (e : TlbEnt) (x : Nat) : Prop := e.va = x / 2 ^ e.bits * 2 ^ e.bits

/-- The entries that an operation of core c on a value selects (Table 5.9). -/
def State.tlbSelects (d : State) (c : Fin 32) (o : TlbiOp) (v : Word) (e : TlbEnt) : Prop :=
  match o with
  | .va => d.tlbScope c e ∧ e.stage2 = false ∧ e.covers (v.toNat % 2 ^ 48) ∧ (e.global = true ∨ e.pcid = (d.acore.get c).pcid)
  | .vaAll => d.tlbScope c e ∧ e.stage2 = false ∧ e.covers (v.toNat % 2 ^ 48)
  | .pcid => d.tlbScope c e ∧ e.stage2 = false ∧ e.global = false ∧ e.pcid = v.setWidth 10
  | .part => d.tlbScope c e ∧ e.stage2 = false
  | .ipa => d.tlbScope c e ∧ if e.stage2 then e.covers v.toNat else e.ipa = some (v.toNat / 2 ^ e.bits * 2 ^ e.bits)
  | .s2 => e.world = (d.acore.get c).secure ∧ e.part = some (v.toNat % 64)
  | .all => e.world = (d.acore.get c).secure

theorem TlbOp.hitsTlb_ipa {world : Bool} {part : Option Nat} : (TlbOp.ipa v).hitsTlb world part e = true ↔
    inScope world part e.world e.part = true ∧
      if e.stage2 then e.covers v.toNat else e.ipa = some (v.toNat / 2 ^ e.bits * 2 ^ e.bits) := by
  unfold TlbOp.hitsTlb TlbEnt.covers
  cases e.stage2 <;> cases e.ipa <;> simp

theorem State.hitsTlb_tlbOpOf : (d.tlbOpOf c o v).hitsTlb (d.acore.get c).secure (d.tagPart c) e = true ↔ d.tlbSelects c o v e := by
  have hva : bits v.toNat 47 0 = v.toNat % 2 ^ 48 := by simp [bits_eq_div_mod]
  cases o with
  | va => simp [State.tlbOpOf, TlbOp.hitsTlb, State.tlbSelects, State.tlbScope, TlbEnt.covers, inScope_iff, hva, and_assoc]
  | vaAll => simp [State.tlbOpOf, TlbOp.hitsTlb, State.tlbSelects, State.tlbScope, TlbEnt.covers, inScope_iff, hva, and_assoc]
  | pcid => simp [State.tlbOpOf, TlbOp.hitsTlb, State.tlbSelects, State.tlbScope, inScope_iff, and_assoc]
  | part => simp [State.tlbOpOf, TlbOp.hitsTlb, State.tlbSelects, State.tlbScope, inScope_iff]
  | ipa => exact TlbOp.hitsTlb_ipa.trans (and_congr_left fun _ => inScope_iff ..)
  | s2 => simp [State.tlbOpOf, TlbOp.hitsTlb, State.tlbSelects]
  | all => simp [State.tlbOpOf, TlbOp.hitsTlb, State.tlbSelects]

/-! ## What they do (R188, R189) -/

/-- The operation that core c performs on itself. -/
def State.tlbOwn (d : State) (c : Fin 32) (o : TlbiOp) (p : Bool) (v : Word) : TlbPend :=
  ⟨c, c, (d.acore.get c).secure, d.tagPart c, d.tlbOpOf c o v, p⟩

/-- The other powered cores, to which an operation of core c travels. -/
def State.tlbOthers (d : State) (c : Fin 32) : List (Fin 32) := (allFin 32).filter fun k => k != c && (d.acore.get k).powered

/-- The operation, performed on core c and on its way to the others. -/
def State.tlbDone (d : State) (c : Fin 32) (o : TlbiOp) (p : Bool) (v : Word) : State :=
  { d.tlbEffect (d.tlbOwn c o p v) with
    tlbPend := d.tlbPend ++ (d.tlbOthers c).map fun k => { d.tlbOwn c o p v with dst := k } }

theorem aTlbi_done (h : u.tlbiRefuse c w o = none) :
    aTlbi c w (.tlbi o p r1) u = ((u.drainAll c).tlbDone c o p ((u.drainAll c).g c r1), .seq, []) := by
  simp only [aTlbi, h]
  rfl

theorem aTlbi_refused {f : Exn} (h : u.tlbiRefuse c w o = some f) : aTlbi c w (.tlbi o p r1) u = (u, .exn f, []) := by
  simp only [aTlbi, h]

theorem State.tlbDone_core : (d.tlbDone c o p v).acore.get c =
    (d.acore.get c).tlbi (d.tlbOpOf c o v) (d.acore.get c).secure (d.tagPart c) p := State.modA_get ..

theorem State.tlbDone_frame : d.tlbDone c o p v = { d with
    acore := vset d.acore c { d.acore.get c with
      tlb := ((d.tlbDone c o p v).acore.get c).tlb, walk := ((d.tlbDone c o p v).acore.get c).walk }
    tlbPend := (d.tlbDone c o p v).tlbPend } := by
  rw [State.tlbDone_core]
  rfl

theorem State.tlbDone_calm {me : Fin 32} (h : d.calm me) : (d.tlbDone c o p v).calm me := State.tlbEffect_calm h

theorem State.mem_tlbDone_tlb : e ∈ ((d.tlbDone c o p v).acore.get c).tlb ↔ e ∈ (d.acore.get c).tlb ∧ ¬ d.tlbSelects c o v e := by
  rw [State.tlbDone_core, ACore.tlbi, ← State.hitsTlb_tlbOpOf]
  simp

/-- The walk cache loses entries with P = 1 alone. -/
theorem State.tlbDone_walk : ((d.tlbDone c o p v).acore.get c).walk = if p then (d.acore.get c).walk.filter fun e =>
    !(d.tlbOpOf c o v).hitsWalk (d.acore.get c).secure (d.tagPart c) e else (d.acore.get c).walk := by
  rw [State.tlbDone_core]
  rfl

theorem State.mem_tlbDone_walk {x : WalkEnt} (h : x ∈ ((d.tlbDone c o p v).acore.get c).walk) : x ∈ (d.acore.get c).walk := by
  rw [State.tlbDone_walk] at h
  split at h
  · exact List.mem_of_mem_filter h
  · exact h

theorem State.tlbDone_walk_all {x : WalkEnt} (h : x ∈ ((d.tlbDone c .all true v).acore.get c).walk) :
    x.world ≠ (d.acore.get c).secure := by
  rw [State.tlbDone_walk] at h
  simpa [State.tlbOpOf, TlbOp.hitsWalk] using (List.mem_filter.mp h).2

/-- One operation travels to every other powered core, behind those on their way. -/
theorem State.tlbDone_pend : ∃ l, (d.tlbDone c o p v).tlbPend = d.tlbPend ++ l ∧
    ∀ j : Fin 32, (∃ x ∈ l, x.dst = j ∧ x.src = c ∧ x.op = d.tlbOpOf c o v ∧ x.world = (d.acore.get c).secure ∧ x.part = d.tagPart c ∧
      x.pbit = p) ↔ j ≠ c ∧ (d.acore.get j).powered = true := by
  have hothers : ∀ j, j ∈ d.tlbOthers c ↔ j ≠ c ∧ (d.acore.get j).powered = true := fun j => by
    simp [State.tlbOthers, allFin, bne_iff_ne]
  refine ⟨_, rfl, fun j => ?_⟩
  rw [← hothers]
  refine ⟨?_, fun hj => ⟨_, List.mem_map_of_mem hj, rfl, rfl, rfl, rfl, rfl, rfl⟩⟩
  rintro ⟨x, hx, rfl, -⟩
  obtain ⟨k, hk, rfl⟩ := List.mem_map.mp hx
  exact hk

/-! ## Their effect on another core (R189) -/

theorem exec_tlbiRemoteEffect_none {j : Fin 32} (h : ∀ q ∈ s.tlbPend, q.dst ≠ j) : exec (.tlbiRemoteEffect j) s = .next s := by
  have hexec : exec (.tlbiRemoteEffect j) s = execTlbiRemoteEffect j s := rfl
  have hfind : s.tlbPend.find? (fun t => t.dst == j) = none := List.find?_eq_none.mpr fun q hq => by simpa using h q hq
  rw [hexec, execTlbiRemoteEffect, hfind]

theorem exec_tlbiRemoteEffect_some {q : TlbPend} {l r : List TlbPend} (hpend : s.tlbPend = l ++ q :: r) (h : ∀ x ∈ l, x.dst ≠ q.dst) :
    exec (.tlbiRemoteEffect q.dst) s = .next { s.tlbEffect q with tlbPend := l ++ r } := by
  have hexec : exec (.tlbiRemoteEffect q.dst) s = execTlbiRemoteEffect q.dst s := rfl
  have hpast : l.find? (fun t => t.dst == q.dst) = none := List.find?_eq_none.mpr fun x hx => by simpa using h x hx
  have hfind : s.tlbPend.find? (fun t => t.dst == q.dst) = some q := by simp [hpend, List.find?_append, hpast]
  have herase : s.tlbPend.erase q = l ++ r := by
    rw [hpend, List.erase_append_right _ fun hq => h q hq rfl, List.erase_cons_head]
  rw [hexec, execTlbiRemoteEffect, hfind, ← herase]

theorem completes_tlbiRemoteEffect {q : TlbPend} {l r : List TlbPend} (hpend : s.tlbPend = l ++ q :: r)
    (h : ∀ x ∈ l, x.dst ≠ q.dst) : completes (.tlbiRemoteEffect q.dst) s fun t =>
      let b := t.acore.get q.dst
      t = { s with acore := vset s.acore q.dst { s.acore.get q.dst with tlb := b.tlb, walk := b.walk }, tlbPend := l ++ r } ∧
      ∀ e, e ∈ b.tlb ↔ e ∈ (s.acore.get q.dst).tlb ∧ q.op.hitsTlb q.world q.part e = false := by
  refine ⟨_, exec_tlbiRemoteEffect_some hpend h, ?_, fun e => ?_⟩
  · have hcore : (s.tlbEffect q).acore.get q.dst = (s.acore.get q.dst).tlbi q.op q.world q.part q.pbit := State.modA_get ..
    dsimp only
    rw [hcore]
    rfl
  · exact (State.tlbEffect_tlb s q q.dst e).trans (by simp)

/-! ## The commands -/

/-- A TLB operation of a ready core whose position may use it. -/
theorem completes_aTlbi {cmd : Instr} {row : String} {t : Fin 4 → Fin 4 → TBody} (h : s.aFetches c w (.tlbi o p r1) u)
    (hexec : exec cmd s = runInsn row (.a c) w (fun c => aTlbi c w) t s) (hrow : (Aelxel.tlbi o p r1).row = row)
    (hmay : u.tlbiRefuse c w o = none) (hheld : (u.drainAll c).held = false) :
    completes cmd s fun t => u.aSeq ((u.drainAll c).tlbDone c o p ((u.drainAll c).g c r1)) t c :=
  completes_aSeq (a := fun c => aTlbi c w) h hexec hrow (aTlbi_done hmay) (State.tlbDone_calm (State.drainAll_calm h.calm)) hheld

end

/-- Settles O29: the operation is done or refused by its position, `tlbDone` says what it does, and the oldest operation on its way to
a core is the one that takes effect. -/
theorem tlbOperations : Obligations.TlbOperations := by
  refine ⟨fun s u c w o p r1 h => ?_, fun s j => ⟨exec_tlbiRemoteEffect_none, ?_⟩⟩
  · intro cmd needsH d a v scope covers hit
    have hexec : exec cmd s = runInsn (Aelxel.tlbi o p r1).row (.a c) w (fun c => aTlbi c w) (fun _ _ => tLacks w) s := by
      cases o <;> rfl
    have hhit : ∀ e, hit e ↔ d.tlbSelects c o v e := fun e => by cases o <;> rfl
    have hrefused : ∀ f, u.tlbiRefuse c w o = some f → completes cmd s fun t => t = s.orWaits ((u.raise c f).stepDone c) :=
      fun f hf => completes_raises (a := fun c => aTlbi c w) h hexec rfl (aTlbi_refused hf)
    refine ⟨fun hmay hheld => ?_, fun hlow hring => hrefused _ (State.tlbiRefuse_outer hlow hring), fun hlow hring hneeds => ?_⟩
    · obtain ⟨t, ht, hseq⟩ := completes_aTlbi h hexec rfl (State.tlbiRefuse_none hmay) hheld
      refine ⟨t, ht, _, hseq, State.tlbDone_frame, fun e => ?_, ?_, fun e => State.mem_tlbDone_walk, ?_, State.tlbDone_pend⟩
      · rw [hhit]
        exact State.mem_tlbDone_tlb
      · rintro rfl
        exact State.tlbDone_walk
      · rintro rfl rfl e
        exact State.tlbDone_walk_all
    · have hreserved := State.tlbiRefuse_reserved (w := w) hlow hring hneeds
      refine ⟨fun hlevel => hrefused _ ?_, fun hno hall => hrefused _ ?_⟩
      · rw [hreserved, if_pos hlevel]
        rfl
      · rw [hreserved, hno, if_neg Bool.false_ne_true, if_neg hall]
        rfl
  · rintro l q r hpend h rfl
    exact completes_tlbiRemoteEffect hpend h

end Sys2Proof.Machine
end

section
/-! GATE outside a husk: the checks of the descriptor in order, and the gate to a ring (R139 to R143, Tables 4.4 to 4.6). -/
namespace Sys2Proof.Machine

section
variable {s v y z : State} {c : Fin 32} {n r : Nat} {d : Gate} {b : List Byte} {f : Exn}

/-! ## The descriptor is read -/

/-- The access that reads the descriptor of gate n: a read at ring 0, outside any husk. -/
def State.gateRead (s : State) (c : Fin 32) (n : Nat) : State × Except Exn (List Byte) :=
  s.readNow ⟨c, some 0, none, .read, false, true, true⟩ (word (bits (s.acore.get c).gtb.toNat 63 16 * 0x10000 + 32 * n)) 32

/-- What follows the checks of the descriptor: the check of the arguments, then the entry (R141). -/
def State.gateEnter (v : State) (c : Fin 32) (n : Nat) (d : Gate) : State × GateOut :=
  match State.gateArgs c n d (List.range d.argc) v with
  | (y, some f) => (y, .fault f)
  | (y, none) =>
    if d.tring = 4 then (y, .hcall { exn 4 0 n 0 with toH := true })
    else if d.hg then y.huskGate c n d
    else y.ringGate c n d

/-- The checks of a descriptor in order, and what the gate does that passes them (R141). -/
def State.gateBy (v : State) (c : Fin 32) (n r : Nat) (d : Gate) : State × GateOut :=
  if !d.v || decide (4 < d.tring) || !d.zeros then (v, .fault (gateFault n 3 0))
  else if d.tring = 4 ∧ v.hasH = false then (v, .fault (gateFault n 3 0))
  else if d.cmax < r then (v, .fault (gateFault n 4 0))
  else if d.tring ≠ 4 ∧ r ≤ d.tring then (v, .fault (gateFault n 5 0))
  else if 6 < d.argc then (v, .fault (gateFault n 3 0))
  else v.gateEnter c n d

theorem State.gate_beyond (hhusk : (s.acore.get c).inHusk = none) (h : bits (s.acore.get c).gtb.toNat 15 0 < n) :
    s.gate c n = (s, .fault (exn 15 1 n 0)) := by
  unfold State.gate
  exact (if_neg (by simp [hhusk])).trans (if_pos h)

theorem State.gate_within (hhusk : (s.acore.get c).inHusk = none) (h : n ≤ bits (s.acore.get c).gtb.toNat 15 0) :
    s.gate c n = match s.gateRead c n with
      | (v, .error f) => (v, .fault (gateFault n 2 f.va))
      | (v, .ok b) => v.gateBy c n (s.acore.get c).ring (gateOf b) := by
  unfold State.gate
  exact (if_neg (by simp [hhusk])).trans (if_neg (Nat.not_lt.mpr h))

theorem State.gate_unread (hhusk : (s.acore.get c).inHusk = none) (h : n ≤ bits (s.acore.get c).gtb.toNat 15 0)
    (hread : s.gateRead c n = (v, .error f)) : s.gate c n = (v, .fault (exn 15 2 n f.va)) := by
  rw [State.gate_within hhusk h, hread]
  rfl

theorem State.gate_read (hhusk : (s.acore.get c).inHusk = none) (h : n ≤ bits (s.acore.get c).gtb.toNat 15 0)
    (hread : s.gateRead c n = (v, .ok b)) : s.gate c n = v.gateBy c n (s.acore.get c).ring (gateOf b) := by
  rw [State.gate_within hhusk h, hread]

/-! ## The checks of the descriptor -/

theorem State.gateBy_malformed (h : d.v = false ∨ 4 < d.tring ∨ d.zeros = false) :
    v.gateBy c n r d = (v, .fault (exn 15 3 n 0)) := if_pos (by simpa [or_assoc] using h)

/-- A descriptor that is well formed goes on to the checks of its level and rings. -/
theorem State.gateBy_formed (hv : d.v = true) (htring : d.tring ≤ 4) (hzeros : d.zeros = true) : v.gateBy c n r d =
    if d.tring = 4 ∧ v.hasH = false then (v, .fault (gateFault n 3 0))
    else if d.cmax < r then (v, .fault (gateFault n 4 0))
    else if d.tring ≠ 4 ∧ r ≤ d.tring then (v, .fault (gateFault n 5 0))
    else if 6 < d.argc then (v, .fault (gateFault n 3 0))
    else v.gateEnter c n d := if_neg (by simp [hv, hzeros, htring])

theorem State.gateBy_levelless (hv : d.v = true) (htring : d.tring = 4) (hzeros : d.zeros = true) (hno : v.hasH = false) :
    v.gateBy c n r d = (v, .fault (exn 15 3 n 0)) := by
  rw [State.gateBy_formed hv htring.le hzeros]
  exact if_pos ⟨htring, hno⟩

section
variable (hv : d.v = true) (htring : d.tring < 4) (hzeros : d.zeros = true)
include hv htring hzeros

/-- A well-formed descriptor of a ring. -/
theorem State.gateBy_ring : v.gateBy c n r d =
    if d.cmax < r then (v, .fault (gateFault n 4 0))
    else if r ≤ d.tring then (v, .fault (gateFault n 5 0))
    else if 6 < d.argc then (v, .fault (gateFault n 3 0))
    else v.gateEnter c n d := by
  have hne : d.tring ≠ 4 := htring.ne
  rw [State.gateBy_formed hv htring.le hzeros, if_neg fun h => hne h.1]
  simp only [hne, ne_eq, not_false_eq_true, true_and]

theorem State.gateBy_caller (h : d.cmax < r) : v.gateBy c n r d = (v, .fault (exn 15 4 n 0)) := by
  rw [State.gateBy_ring hv htring hzeros]
  exact if_pos h

theorem State.gateBy_outward (hcall : r ≤ d.cmax) (h : r ≤ d.tring) : v.gateBy c n r d = (v, .fault (exn 15 5 n 0)) := by
  rw [State.gateBy_ring hv htring hzeros, if_neg (Nat.not_lt.mpr hcall)]
  exact if_pos h

theorem State.gateBy_argc (hcall : r ≤ d.cmax) (hin : d.tring < r) (h : 6 < d.argc) :
    v.gateBy c n r d = (v, .fault (exn 15 3 n 0)) := by
  rw [State.gateBy_ring hv htring hzeros, if_neg (Nat.not_lt.mpr hcall), if_neg (Nat.not_le.mpr hin)]
  exact if_pos h

theorem State.gateBy_passes (hcall : r ≤ d.cmax) (hin : d.tring < r) (hargc : d.argc ≤ 6)
    (hargs : State.gateArgs c n d (List.range d.argc) v = (y, none)) (hhg : d.hg = false) :
    v.gateBy c n r d = y.ringGate c n d := by
  rw [State.gateBy_ring hv htring hzeros, if_neg (Nat.not_lt.mpr hcall), if_neg (Nat.not_le.mpr hin),
    if_neg (Nat.not_lt.mpr hargc), State.gateEnter, hargs]
  exact (if_neg htring.ne).trans (if_neg (by simp [hhg]))

end

/-! ## The gate to a ring (R143) -/

/-- The push of the gate frame on the target ring's stack. -/
def State.gatePush (y : State) (c : Fin 32) (n : Nat) (d : Gate) : State × Except Exn Unit :=
  let e := y.acore.get c
  y.push ⟨c, some d.tring, none, .write, false, true, true⟩ (e.sp.get (fin 4 d.tring))
    (gateFrame e.pc e.stat (e.sp.get (e.spIdx y.hasH)) n)

theorem State.ringGate_pushed (h : y.gatePush c n d = (z, .ok ())) :
    y.ringGate c n d = (z.modA c fun a =>
      { a with sp := vset a.sp (fin 4 d.tring) ((y.acore.get c).sp.get (fin 4 d.tring) - 32),
               stat := word (putBits a.stat.toNat 1 0 d.tring) }, .go d.entry) := by
  unfold State.gatePush at h
  unfold State.ringGate
  dsimp only at h ⊢
  rw [h]

theorem State.ringGate_failed (h : y.gatePush c n d = (z, .error f)) :
    y.ringGate c n d = (z, .fault ⟨16, 2, 0, f.va, true, f.s2, false⟩) := by
  unfold State.gatePush at h
  unfold State.ringGate
  dsimp only at h ⊢
  rw [h]

end

/-- Settles O27: the number against the limit, the read of the descriptor, and then its checks one after the other. -/
theorem gateChecks : Obligations.GateChecks := by
  intro s v c n b a base d hhusk
  refine ⟨State.gate_beyond hhusk, fun hn => ⟨fun f hread => State.gate_unread hhusk hn hread, fun hread => ?_⟩⟩
  have hgate : s.gate c n = v.gateBy c n a.ring d := State.gate_read hhusk hn hread
  rw [hgate]
  refine ⟨State.gateBy_malformed, fun hv htring hzeros hno => State.gateBy_levelless hv htring hzeros hno,
    fun hv htring hzeros => ⟨State.gateBy_caller hv htring hzeros, State.gateBy_outward hv htring hzeros,
      State.gateBy_argc hv htring hzeros, fun hcall hin hargc y hargs hhg => ?_⟩⟩
  rw [State.gateBy_passes hv htring hzeros hcall hin hargc hargs hhg]
  exact fun z => ⟨State.ringGate_pushed, fun f => State.ringGate_failed⟩

end Sys2Proof.Machine
end

section
/-! Frequencies of the pods, their supplies and the power management IC, temperatures, and PCIE_PERST_N (R486, R487, R522, R523,
R533). -/
namespace Sys2Proof.Machine

/-! ## A write of POD_MHZ (R436, R464, R486) -/

section
variable {s : State} {q : Req} {key n st : Nat}

/-- The first status that holds is OK where no condition holds. -/
theorem firstOf_eq_zero {l : List (Bool × Nat)} (hl : ∀ x ∈ l, x.2 ≠ 0) : firstOf l = 0 ↔ ∀ x ∈ l, x.1 = false := by
  induction l with
  | nil => simp [firstOf]
  | cons a r ih =>
    obtain ⟨b, st⟩ := a
    obtain ⟨hst, hr⟩ := List.forall_mem_cons.mp hl
    cases b
    · simpa [firstOf] using ih hr
    · simpa [firstOf] using hst

/-- What the requester's path shows before the checks is a matter of its mailbox page alone. -/
theorem State.begun_frame (s : State) (q : Req) (key : Nat) : s.begun q key = { s with mail := (s.begun q key).mail } := by
  unfold State.begun
  split
  next => unfold State.noteWin; split <;> rfl
  next => rfl

/-- The requester's last window write has no outcome yet (R441). -/
def State.windowWaits (s : State) (q : Req) : Bool :=
  match q with
  | .loc .window m => s.winBusy m
  | _ => false

theorem State.asked_eq : s.asked q key n =
    if s.entBusy key || s.windowWaits q then none
    else some ((s.begun q key).writeStatus ⟨q, none⟩ key (reqVal q key n)).1 := rfl

/-- A write that does not have to wait is served, in the state that the requester's path shows. -/
theorem State.reqWrite_asked (h : s.asked q key n = some st) :
    s.reqWrite q key n = (s.begun q key).serveEntWrite ⟨q, none⟩ key (reqVal q key n) ∧
    ((s.begun q key).writeStatus ⟨q, none⟩ key (reqVal q key n)).1 = st := by
  rw [State.asked_eq] at h
  split at h
  · cases h
  next hnow =>
    refine ⟨?_, Option.some.inj h⟩
    rw [Bool.or_eq_true, not_or] at hnow
    obtain ⟨hent, hwin⟩ := hnow
    have hbusy : ¬ (s.begun q key).entBusy key = true := by
      rw [State.begun_frame]
      exact hent
    have hserve : (s.begun q key).dictWrite ⟨q, none⟩ key (reqVal q key n) =
        (s.begun q key).serveEntWrite ⟨q, none⟩ key (reqVal q key n) := if_neg hbusy
    rw [← hserve]
    obtain ⟨path, m⟩ | ⟨node, k⟩ := q
    · cases path with
      | window => exact (if_neg hwin).trans (if_neg hwin)
      | mailbox page => rfl
    · rfl

/-- An admitted write of a STORED entry enters the journal with the value that its type gives. -/
theorem State.serveEntWrite_stored {a : Asker} {w : WVal} {r : EntRow} {x : DVal} (hrow : catRow key = some r) (hpers : r.pers = .stored)
    (htyped : typed r.ty w = some x) (hok : (s.writeStatus a key w).1 = 0) :
    s.serveEntWrite a key w = { s with seed := { s.seed with journal := s.seed.journal ++ [⟨a, key, x⟩] } } := by
  have hval : (s.writeStatus a key w).2 = x := by
    unfold State.writeStatus
    rw [hrow]
    simp [htyped]
  unfold State.serveEntWrite
  rw [← hval]
  simp [hok, hrow, hpers, State.journalWrite]

/-- What the checks say of an admitted write: its entry's block has nothing against it. -/
theorem State.blockStatus_admits {a : Asker} {w : WVal} {r : EntRow} {x : DVal} (hrow : catRow key = some r)
    (htyped : typed r.ty w = some x) (hok : (s.writeStatus a key w).1 = 0) :
    s.blockStatus a key x ≠ 2 ∧ s.blockStatus a key x ≠ 6 ∧ s.blockStatus a key x ≠ 9 ∧ s.blockStatus a key x ≠ 0xA := by
  unfold State.writeStatus at hok
  simp only [hrow, htyped, Option.getD_some] at hok
  rw [firstOf_eq_zero (by simp)] at hok
  simp only [List.forall_mem_cons, Bool.or_eq_false_iff, beq_eq_false_iff_ne] at hok
  obtain ⟨-, ⟨-, h2⟩, -, -, -, -, ⟨-, h6⟩, ⟨-, h9⟩, hA, -⟩ := hok
  exact ⟨h2, h6, h9, hA⟩

/-- The row of POD_MHZ (Table 16.9). -/
def podMhzRow : EntRow := ⟨0x2100, 1, 0x1, 8, 1, 1, .u16, .rw, .stored, 0x7D0, .any, .pub⟩

theorem catRow_podMhz (p : Fin 8) : catRow (ek 0x2100 (1 + p.val)) = some podMhzRow := by
  revert p
  decide

/-- A number of 16 bits is carried by each path as an entry of its width takes it. -/
theorem typed_reqVal_u16 {r : EntRow} (hrow : catRow key = some r) (hty : r.ty = .u16) (hn : n < 65536) :
    typed .u16 (reqVal q key n) = some (.num n) := by
  cases hq : isWindow q
  · have hval : reqVal q key n = .bytes (toBytes 2 n) := by
      simp [reqVal, hq, hrow, hty, DTy.size, hn]
    have hback : ofBytes (toBytes 2 n) = n := by
      simp [toBytes, ofBytes]
      omega
    have htyped : typed .u16 (.bytes (toBytes 2 n)) = some (.num (ofBytes (toBytes 2 n))) := by
      simp [typed, toBytes_length, DTy.size]
    rw [hval, htyped, hback]
  · have hword : (word n).toNat = n := by
      rw [word, BitVec.toNat_ofNat]
      omega
    have hmod : n % 2 ^ DTy.u16.width = n := Nat.mod_eq_of_lt hn
    rw [reqVal, hq, if_pos rfl]
    simp only [typed, hword, hmod]
    refine if_pos ⟨rfl, ?_⟩
    simp [windowWord, DTy.isSigned, hmod]

/-- What the block of POD_MHZ says of a value. -/
theorem State.blockStatus_podMhz {a : Asker} (p : Fin 8) : s.blockStatus a (ek 0x2100 (1 + p.val)) (.num n) =
    firstOf [(!decide (n % 100 = 0 ∧ 400 ≤ n ∧ n ≤ s.mhzMax), 9), ((s.hazel.podJob.get p).isSome, 0xA)] := by
  have hi : ek 0x2100 (1 + p.val) / 256 = 0x2100 := by unfold ek; omega
  have hu : ek 0x2100 (1 + p.val) % 256 = 1 + p.val := by unfold ek; omega
  have hp : fin 7 (1 + p.val - 1) = p := Fin.ext (by simp [fin])
  have hlow : s.blockStatus a (ek 0x2100 (1 + p.val)) (.num n) = s.blockLow a 0x2100 (1 + p.val) n := by
    unfold State.blockStatus
    simp only [hi, hu]
    exact if_pos (by decide)
  rw [hlow, State.blockLow]
  dsimp only
  rw [if_neg (by decide), if_neg (by omega), if_pos rfl, hp]

theorem State.podMhz_admitted {a : Asker} {p : Fin 8} (h9 : s.blockStatus a (ek 0x2100 (1 + p.val)) (.num n) ≠ 9)
    (hA : s.blockStatus a (ek 0x2100 (1 + p.val)) (.num n) ≠ 0xA) :
    n % 100 = 0 ∧ 400 ≤ n ∧ n ≤ s.mhzMax ∧ s.hazel.podJob.get p = none := by
  rw [State.blockStatus_podMhz] at h9 hA
  by_cases hrange : n % 100 = 0 ∧ 400 ≤ n ∧ n ≤ s.mhzMax
  · cases hjob : s.hazel.podJob.get p with
    | none => exact ⟨hrange.1, hrange.2.1, hrange.2.2, rfl⟩
    | some j => exact absurd (by simp [firstOf, hrange, hjob]) hA
  · exact absurd (by simp [firstOf, hrange]) h9

theorem completes_podMhz {p : Fin 8} {v : BitVec 16} (h : s.asked q (ek 0x2100 (1 + p.val)) v.toNat = some 0) :
    let key := ek 0x2100 (1 + p.val)
    let b := s.begun q key
    v.toNat % 100 = 0 ∧ 400 ≤ v.toNat ∧ v.toNat ≤ s.mhzMax ∧ s.hazel.podJob.get p = none ∧
      completes (.podMhz q p v) s fun t =>
        t = { b with seed := { b.seed with journal := b.seed.journal ++ [⟨⟨q, none⟩, key, .num v.toNat⟩] } } := by
  intro key b
  obtain ⟨hserved, hok⟩ := State.reqWrite_asked h
  have hrow := catRow_podMhz p
  have htyped := typed_reqVal_u16 (q := q) hrow rfl v.isLt
  obtain ⟨-, -, h9, hA⟩ := State.blockStatus_admits hrow htyped hok
  obtain ⟨hstep, hlow, hhigh, hjob⟩ := State.podMhz_admitted h9 hA
  rw [State.begun_frame] at hhigh hjob
  exact ⟨hstep, hlow, hhigh, hjob, _, rfl, hserved.trans (State.serveEntWrite_stored hrow rfl htyped hok)⟩

end

/-! ## The change of a frequency (R486, R523) -/

section
variable {s : State} {a : Asker} {p : Fin 8} {old f : Nat}

/-- Every core of a pod is off and stays so. -/
def State.podAtRest (s : State) (p : Fin 8) : Prop :=
  ∀ k : Fin 32, k.val / 4 = p.val → (s.dom ⟨k.val, by omega⟩).cur = .off ∧ (s.dom ⟨k.val, by omega⟩).changing = none

theorem State.podIdle_iff : s.podIdle p = true ↔ s.podAtRest p := by
  simp [State.podIdle, State.podBusy, State.podAtRest, allFin, podOf, Fin.ext_iff]

/-- The state with a pod's change of frequency. -/
def State.withPodJob (s : State) (p : Fin 8) (o : Option PodJob) : State :=
  { s with hazel := { s.hazel with podJob := vset s.hazel.podJob p o } }

theorem State.podApply_settled (h : s.podAtRest p ∨ s.hazel.podActual.get p = f) : s.podApply a p old f = s.complete a 0 := by
  rw [← State.podIdle_iff] at h
  exact if_pos h

theorem State.podApply_rises (hbusy : ¬ s.podAtRest p) (h : s.hazel.podActual.get p < f) :
    s.podApply a p old f = (s.pmicSend (toBytes 1 p.val ++ toBytes 2 (podMv f))).withPodJob p (some ⟨a, f, old, true⟩) := by
  rw [← State.podIdle_iff] at hbusy
  have hchanges : ¬ (s.podIdle p = true ∨ s.hazel.podActual.get p = f) := not_or.mpr ⟨hbusy, h.ne⟩
  rw [State.podApply, if_neg hchanges, if_pos h, decide_eq_true h]
  rfl

theorem State.podApply_falls (hbusy : ¬ s.podAtRest p) (h : f < s.hazel.podActual.get p) :
    s.podApply a p old f = s.withPodJob p (some ⟨a, f, old, false⟩) := by
  rw [← State.podIdle_iff] at hbusy
  have hchanges : ¬ (s.podIdle p = true ∨ s.hazel.podActual.get p = f) := not_or.mpr ⟨hbusy, h.ne'⟩
  have hno : ¬ s.hazel.podActual.get p < f := h.not_gt
  rw [State.podApply, if_neg hchanges, if_neg hno, decide_eq_false hno]
  rfl

/-- The end of a relock in a state whose requests are not waiting. -/
def State.relocked (p : Fin 8) (s : State) : State :=
  match s.hazel.podJob.get p with
  | some j =>
    if j.supply then s
    else
      let s := if j.target < s.hazel.podActual.get p then s.pmicSet p j.target else s
      { s with hazel := { s.hazel with podActual := vset s.hazel.podActual p j.target,
                                       podJob := vset s.hazel.podJob p none } }.complete j.by_ 0
  | none => s

theorem exec_podPllRelockDone (s : State) (p : Fin 8) : exec (.podPllRelockDone p) s = .next (s.served (State.relocked p)) := rfl

theorem State.relocked_idle (h : (s.hazel.podJob.get p).all (·.supply) = true) : State.relocked p s = s := by
  unfold State.relocked
  split
  next j hj =>
    rw [hj] at h
    exact if_pos h
  next => rfl

theorem State.relocked_done {j : PodJob} (hj : s.hazel.podJob.get p = some j) (hsupply : j.supply = false) :
    State.relocked p s =
      let u := if j.target < s.hazel.podActual.get p then s.pmicSend (toBytes 1 p.val ++ toBytes 2 (podMv j.target)) else s
      State.complete { u with hazel := { u.hazel with
        podActual := vset u.hazel.podActual p j.target
        podJob := vset u.hazel.podJob p none } } j.by_ 0 := by
  unfold State.relocked
  rw [hj]
  exact if_neg (by simp [hsupply])

end

/-! ## The power management IC (R486, R522) -/

section
variable {s : State} {st : Byte} {late : Bool} {p : Fin 8} {j : PodJob}

/-- The change of a pod's frequency waits for its supply. -/
def State.supplyRises (s : State) (p : Fin 8) : Prop := ∃ j, s.hazel.podJob.get p = some j ∧ j.supply = true

/-- The change of a pod's frequency that waits for its supply. -/
def State.rising (s : State) (p : Fin 8) : Option (Fin 8 × PodJob) :=
  match s.hazel.podJob.get p with
  | some j => if j.supply then some (p, j) else none
  | none => none

theorem State.rising_some (hj : s.hazel.podJob.get p = some j) (hup : j.supply = true) : s.rising p = some (p, j) := by
  rw [State.rising, hj]
  exact if_pos hup

theorem State.rising_none (h : ¬ s.supplyRises p) : s.rising p = none := by
  unfold State.rising
  split
  next j hj => exact if_neg fun hup => h ⟨j, hj, hup⟩
  next => rfl

theorem State.supplyWait_eq (s : State) : s.supplyWait = (allFin 8).findSome? s.rising := List.head?_filterMap

theorem State.supplyWait_none (h : ∀ p, ¬ s.supplyRises p) : s.supplyWait = none := by
  rw [State.supplyWait_eq]
  exact List.findSome?_eq_none_iff.mpr fun p _ => State.rising_none (h p)

/-- A search of the indices in order ends at the first that has a value. -/
theorem findSome?_allFin {α : Type} {n : Nat} {f : Fin n → Option α} {i : Fin n} {x : α} (hi : f i = some x)
    (hbefore : ∀ r : Fin n, r.val < i.val → f r = none) : (allFin n).findSome? f = some x := by
  refine List.findSome?_eq_some_iff.mpr ⟨(allFin n).take i, i, (allFin n).drop (i + 1), ?_, hi, fun r hr => hbefore r ?_⟩
  · have hget : (allFin n)[i.val]'(by simp [allFin]) = i := by simp [allFin]
    conv_lhs => rw [← List.take_append_drop i.val (allFin n), List.drop_eq_getElem_cons (by simp [allFin]), hget]
  · obtain ⟨k, hk, rfl⟩ := List.mem_take_iff_getElem.mp hr
    have hlt : k < i.val := (lt_min_iff.mp hk).1
    simpa [allFin] using hlt

theorem State.supplyWait_first (hj : s.hazel.podJob.get p = some j) (hup : j.supply = true)
    (hfirst : ∀ r : Fin 8, r.val < p.val → ¬ s.supplyRises r) : s.supplyWait = some (p, j) := by
  rw [State.supplyWait_eq]
  exact findSome?_allFin (State.rising_some hj hup) fun r hr => State.rising_none (hfirst r hr)

/-- A read of STATUS in a state whose requests are not waiting. -/
def State.polled (st : Byte) (late : Bool) (s : State) : State :=
  if s.hazel.pmicWait then (if st.getLsbD 0 then s.modHz fun h => { h with pmicWait := false } else s)
  else match s.supplyWait with
  | none => s
  | some (p, j) =>
    if st.getLsbD 0 then s.withPodJob p (some { j with supply := false })
    else if late then ((s.setE 0x2100 (1 + p.val) j.old).withPodJob p none).complete j.by_ 0xB
    else s

theorem exec_pmicStatusPoll (s : State) (st : Byte) (late : Bool) :
    exec (.pmicStatusPoll st late) s = .next (s.served (State.polled st late)) := rfl

theorem State.polled_wait (h : s.hazel.pmicWait = true) :
    State.polled st late s = { s with hazel := { s.hazel with pmicWait := !st.getLsbD 0 } } := by
  rw [State.polled, if_pos h]
  cases st.getLsbD 0
  · rw [if_neg Bool.false_ne_true, Bool.not_false, ← h]
  · rfl

theorem State.polled_idle (hwait : s.hazel.pmicWait = false) (h : ∀ p, ¬ s.supplyRises p) : State.polled st late s = s := by
  rw [State.polled, if_neg (by simp [hwait]), State.supplyWait_none h]

/-- A poll while a pod's supply rises. -/
theorem State.polled_rising (hwait : s.hazel.pmicWait = false) (hj : s.hazel.podJob.get p = some j) (hup : j.supply = true)
    (hfirst : ∀ r : Fin 8, r.val < p.val → ¬ s.supplyRises r) : State.polled st late s =
      if st.getLsbD 0 then s.withPodJob p (some { j with supply := false })
      else if late then ((s.setE 0x2100 (1 + p.val) j.old).withPodJob p none).complete j.by_ 0xB
      else s := by
  rw [State.polled, if_neg (by simp [hwait]), State.supplyWait_first hj hup hfirst]

theorem completes_pmicRetry (h : s.hazel.pmicWait = true) (hboot : s.hazel.booting = true) : completes .pmicPowerUpRetry s fun t =>
    t = { s with hazel := { s.hazel with pmicOut := s.hazel.pmicOut ++ [[0x40]] } } := ⟨_, rfl, if_pos ⟨h, hboot⟩⟩

theorem exec_pmicRetry_idle (h : s.hazel.pmicWait = false ∨ s.hazel.booting = false) : exec .pmicPowerUpRetry s = .next s := by
  refine congrArg Host.Outcome.next (if_neg fun ⟨hwait, hboot⟩ => ?_)
  obtain h | h := h
  · exact Bool.false_ne_true (h.symm.trans hwait)
  · exact Bool.false_ne_true (h.symm.trans hboot)

/-- What a poll does outside a power-up and for the first pod whose supply rises. -/
theorem completes_polled_rising (hwait : s.hazel.pmicWait = false) (hj : s.hazel.podJob.get p = some j) (hup : j.supply = true)
    (hfirst : ∀ r : Fin 8, r.val < p.val → ¬ s.supplyRises r) :
    let cmd : Instr := .pmicStatusPoll st late
    (st.getLsbD 0 = true → completes cmd s fun t => t = s.withPodJob p (some { j with supply := false })) ∧
    (st.getLsbD 0 = false → late = true → completes cmd s fun t =>
      t = s.orWaits ((({ s with held := false }.setE 0x2100 (1 + p.val) j.old).withPodJob p none).complete j.by_ 0xB)) ∧
    (st.getLsbD 0 = false → late = false → exec cmd s = .next s) := by
  have hexec := exec_pmicStatusPoll s st late
  have hpoll := State.polled_rising (s := { s with held := false }) (st := st) (late := late) hwait hj hup hfirst
  refine ⟨fun hok => ⟨_, hexec, State.served_eq ?_ rfl⟩, fun hno hlate => completes_served hexec ?_,
    fun hno hearly => exec_of_served_idle hexec ?_⟩
  · rw [hpoll, if_pos hok]
    rfl
  · rw [hpoll, hno, hlate]
    rfl
  · rw [hpoll, hno, hearly]
    rfl

end

/-! ## Temperatures (R487) -/

section
variable {s : State} {k : Fin 16} {raw : Int}

/-- The state in which a sensor has a new reading. -/
def State.sensed (s : State) (k : Fin 16) (raw : Int) : State := { s with hazel := { s.hazel with temps := vset s.hazel.temps k raw } }

/-- The state with the cap applied or lifted. -/
def State.capped (s : State) (b : Bool) : State := { s with hazel := { s.hazel with throttled := b } }

/-- A sensor reads at or above the limit. -/
def State.hot (s : State) : Prop := ∃ j, s.thermalLimit * 64 ≤ s.temp j

/-- Every sensor reads at least 5 °C below the limit. -/
def State.cool (s : State) : Prop := ∀ j, s.temp j ≤ (s.thermalLimit - 5) * 64

theorem State.not_hot_of_cool (h : s.cool) : ¬ s.hot := fun ⟨j, hj⟩ => by
  have hcool := h j
  omega

theorem State.thermal_eq (s : State) [Decidable s.hot] [Decidable s.cool] : s.thermal =
    if s.hot ∧ s.hazel.throttled = false then ((s.capped true).addE 0x2102 2 32 1).pulse 35
    else if s.cool then s.capped false
    else s := by
  have hhot : ((allFin 16).any fun k => decide (s.thermalLimit * 64 ≤ s.temp k)) = decide s.hot := by
    rw [Bool.eq_iff_iff, decide_eq_true_iff]
    simp [State.hot, allFin]
  have hcool : ((allFin 16).all fun k => decide (s.temp k ≤ (s.thermalLimit - 5) * 64)) = decide s.cool := by
    rw [Bool.eq_iff_iff, decide_eq_true_iff]
    simp [State.cool, allFin]
  unfold State.thermal
  simp only [hhot, hcool, Bool.and_eq_true, decide_eq_true_eq, Bool.not_eq_true']
  rfl

theorem State.thermal_throttles (h : s.hot) (hno : s.hazel.throttled = false) :
    s.thermal = ((s.capped true).addE 0x2102 2 32 1).pulse 35 := by
  classical
  rw [State.thermal_eq]
  exact if_pos ⟨h, hno⟩

theorem State.thermal_lifts (h : s.cool) : s.thermal = s.capped false := by
  classical
  rw [State.thermal_eq, if_neg fun hh => State.not_hot_of_cool h hh.1]
  exact if_pos h

theorem State.thermal_keeps (hcool : ¬ s.cool) (h : ¬ s.hot ∨ s.hazel.throttled = true) : s.thermal = s := by
  classical
  have hcap : ¬ (s.hot ∧ s.hazel.throttled = false) := fun ⟨hhot, hoff⟩ =>
    h.elim (absurd hhot) fun hon => Bool.false_ne_true (hoff.symm.trans hon)
  rw [State.thermal_eq, if_neg hcap]
  exact if_neg hcool

theorem exec_thermal {cmd : Instr} (h : cmd = .thermalThrottle k raw ∨ cmd = .thermalUnthrottle k raw) :
    exec cmd s = .next (s.sensed k raw).thermal := by
  obtain rfl | rfl := h <;> rfl

/-- The temperatures after a new reading. -/
theorem State.temp_sensed (j : Fin 16) : (s.sensed k raw).temp j =
    (if j = k then raw else s.hazel.temps.get j) + (BitVec.ofNat 16 (s.ev 0x8001 (1 + j.val))).toInt := by
  have hget : (s.sensed k raw).hazel.temps.get j = if j = k then raw else s.hazel.temps.get j := by
    by_cases hj : j = k
    · rw [hj, if_pos rfl]
      exact vset_get _ _ _
    · rw [if_neg hj]
      exact vset_get_ne _ _ hj
  rw [State.temp, hget]
  rfl

end

/-! ## PCIE_PERST_N (R533) -/

theorem completes_pciePerstNRise (s : State) (k : Fin 2) :
    (s.domOn 55 = true → (k = 0 ∨ s.hazel.bifur = true) → completes (.pciePerstNRise k) s fun t =>
      t = { s with hazel := { s.hazel with perst := vset s.hazel.perst k true } }) ∧
    ((s.domOn 55 = false ∨ (k ≠ 0 ∧ s.hazel.bifur = false)) → exec (.pciePerstNRise k) s = .next s) := by
  refine ⟨fun hon hport => ⟨_, rfl, if_pos ⟨hon, hport⟩⟩, fun h => congrArg Host.Outcome.next (if_neg fun ⟨hon, hport⟩ => ?_)⟩
  obtain hoff | ⟨hk, hbifur⟩ := h
  · exact Bool.false_ne_true (hoff.symm.trans hon)
  · exact hport.elim hk fun hb => Bool.false_ne_true (hbifur.symm.trans hb)

/-- Settles O50, command by command. -/
theorem frequenciesAndSupplies : Obligations.FrequenciesAndSupplies := by
  refine ⟨fun s q p v => completes_podMhz,
    fun s a p old f => ⟨State.podApply_settled, State.podApply_rises, State.podApply_falls⟩,
    fun s p => ⟨fun h => exec_of_served_idle (exec_podPllRelockDone s p) (State.relocked_idle h),
      fun j hj hsupply => completes_served (exec_podPllRelockDone s p) (State.relocked_done hj hsupply)⟩,
    fun s st late => ⟨fun hwait => ⟨_, exec_pmicStatusPoll s st late, State.served_eq (State.polled_wait hwait) rfl⟩,
      fun hwait h => exec_of_served_idle (exec_pmicStatusPoll s st late) (State.polled_idle hwait h),
      fun p j hwait hj hup hfirst => completes_polled_rising hwait hj hup hfirst, completes_pmicRetry, exec_pmicRetry_idle⟩,
    fun s k raw cmd hcmd => ?_, fun s hs => ⟨_, rfl, State.srcBecomes_pulse hs (by decide)⟩, completes_pciePerstNRise⟩
  intro u lim temp hot cool capped
  have hexec := exec_thermal (s := s) hcmd
  have htemp : ∀ j, u.temp j = temp j := fun j => State.temp_sensed j
  have hhot : u.hot ↔ hot := exists_congr fun j => by rw [htemp]; rfl
  have hcool : u.cool ↔ cool := forall_congr' fun j => by rw [htemp]; rfl
  rw [← hhot, ← hcool]
  exact ⟨fun h hno => ⟨_, hexec, State.thermal_throttles h hno⟩, fun h => ⟨_, hexec, State.thermal_lifts h⟩,
    fun hno h => ⟨_, hexec, State.thermal_keeps hno h⟩⟩

end Sys2Proof.Machine
end

section
/-! POWER_REQ of the Normal world for a pod whose cores run in the Normal world while POD_WORLD names the Secure one (R324, R474, R477). -/
set_option Elab.async false
namespace Sys2Proof.Machine

/-- Core 0 runs at ring 3 of partition 0 in the Normal world, the partition holds pod 0, and POD_WORLD names the Secure world for pod 0. The
model comes to this: a write of POD_WORLD is checked when it is asked for, while the pod is off, and takes effect when the seed store
has it (R433, R436), by when the pod may have come on in the Normal world. -/
def podWorldAhead : State :=
  let on (d : Fin 64) (s : State) : State := s.modDom d fun x => { x with cur := .on }
  (on 0 (on 32 ((State.reset.setE 0x3000 2 1).setE 0x3100 3 1))).modA 0 fun a => { a with run := .running, stat := 0xF3 }

/-- Core 0 at its dictionary window. -/
def core0Window : Req := .loc .window (.core 0)

/-- Core 0 may have core 1 switched on: the world that counts is that of the pod's running cores (`State.podWorld`). -/
theorem podWorldAhead_admits : podWorldAhead.asked core0Window (ek 0x2000 2) 2 = some 0 := by decide

theorem podWorldAhead_normal : podWorldAhead.reqSecure core0Window = false := by decide

theorem podWorldAhead_entry : (podWorldAhead.ev 0x3000 2).testBit 0 = true := by decide

/-- Refutes O49: its clause on admitted requests of the Normal world names POD_WORLD, but a pod's world is that of its cores, and
POD_WORLD's only while every one is off. Here the two differ, the request is admitted, and POD_WORLD says Secure. -/
theorem not_powerDomains : ¬ Obligations.PowerDomains := by
  rintro ⟨hreq, -⟩
  obtain ⟨-, -, -, hnormal, -⟩ := hreq podWorldAhead core0Window 1 2 podWorldAhead_admits
  obtain ⟨-, hpods⟩ := hnormal podWorldAhead_normal
  obtain ⟨hworld, -⟩ := hpods 0 rfl
  exact Bool.false_ne_true (hworld.symm.trans podWorldAhead_entry)

end Sys2Proof.Machine
end

section
/-! No store that leaves an A-core's buffer changes the general registers of any A-core, or the position that says which stack pointer g31
names (R41, R113): one lemma for each operation that such a store can reach, in the order of the definitions. What an array or a
row of HBM meets at a store is what its stored state holds, so that no operation here retires a core (R510). -/
set_option Elab.async false
namespace Sys2Proof.Machine

/-- Core `me` has the registers, the stack pointers and the position that it has in `u`, and the device is in `u`'s mode. -/
def State.sameRegs (s u : State) (me : Fin 32) : Prop :=
  (s.acore.get me).g = (u.acore.get me).g ∧ (s.acore.get me).sp = (u.acore.get me).sp ∧
  (s.acore.get me).stat = (u.acore.get me).stat ∧ s.hazel.mode = u.hazel.mode

variable {s u : State} {me : Fin 32}

theorem State.sameRegs_self (s : State) (me : Fin 32) : s.sameRegs s me := ⟨rfl, rfl, rfl, rfl⟩

/-- A general register is read from what the predicate names. -/
theorem State.sameRegs.g_eq (h : s.sameRegs u me) (r : Reg) : s.g me r = u.g me r := by
  obtain ⟨hg, hsp, hstat, hmode⟩ := h
  have hlh : (s.acore.get me).lh = (u.acore.get me).lh := congrArg (BitVec.getLsbD · 2) hstat
  have hring : (s.acore.get me).ring = (u.acore.get me).ring := congrArg (fun x : Word => bits x.toNat 1 0) hstat
  have hH : s.hasH = u.hasH := congrArg (· != 2) hmode
  have hidx : (s.acore.get me).spIdx s.hasH = (u.acore.get me).spIdx u.hasH := by
    rw [ACore.spIdx, ACore.spIdx, hlh, hring, hH]
  unfold State.g
  dsimp only
  rw [hg, hsp, hidx]

/-! ## Changes of fields, folds and choices -/

/-- The predicate speaks of the A-cores and of Hazel alone. -/
theorem sameRegs_mk {pending time fresh held reply mem poison tags ecc ent entB tlbPend pod home pc hbm sent island safeN irq husk gw env
    mail dap seed dm fb ledger trans retired gpio pcieOut} (h : s.sameRegs u me) :
    State.sameRegs ⟨pending, time, fresh, held, reply, mem, poison, tags, ecc, ent, entB, s.acore, tlbPend, pod, home, pc, hbm, sent,
      island, safeN, irq, husk, gw, env, mail, dap, seed, s.hazel, dm, fb, ledger, trans, retired, gpio, pcieOut⟩ u me := h

/-- A change of an A-core that leaves its registers and its position. -/
def keepsRegs (f : ACore → ACore) : Prop := ∀ a, (f a).g = a.g ∧ (f a).sp = a.sp ∧ (f a).stat = a.stat

/-- A change of the A-cores that leaves the registers and the position of each. -/
theorem State.sameRegs_acores {cores : Vector ACore 32} (h : s.sameRegs u me) (hg : (cores.get me).g = (s.acore.get me).g)
    (hsp : (cores.get me).sp = (s.acore.get me).sp) (hstat : (cores.get me).stat = (s.acore.get me).stat) :
    State.sameRegs { s with acore := cores } u me := by
  obtain ⟨hg', hsp', hstat', hmode⟩ := h
  exact ⟨hg.trans hg', hsp.trans hsp', hstat.trans hstat', hmode⟩

theorem State.sameRegs_ofFn {f : Fin 32 → ACore → ACore} (h : s.sameRegs u me) (hf : ∀ c, keepsRegs (f c)) :
    State.sameRegs { s with acore := Vector.ofFn fun c => f c (s.acore.get c) } u me := by
  have hget : (Vector.ofFn fun c => f c (s.acore.get c)).get me = f me (s.acore.get me) := Vector.getElem_ofFn me.isLt
  obtain ⟨hg, hsp, hstat⟩ := hf me (s.acore.get me)
  exact State.sameRegs_acores h (by rw [hget, hg]) (by rw [hget, hsp]) (by rw [hget, hstat])

theorem State.sameRegs_vmod {c : Fin 32} {f : ACore → ACore} (h : s.sameRegs u me) (hf : keepsRegs f) :
    State.sameRegs { s with acore := vmod s.acore c f } u me := by
  by_cases hc : me = c
  · subst hc
    obtain ⟨hg, hsp, hstat⟩ := hf (s.acore.get me)
    exact State.sameRegs_acores h (by rw [vmod_get, hg]) (by rw [vmod_get, hsp]) (by rw [vmod_get, hstat])
  · exact State.sameRegs_acores h (by rw [vmod_get_ne _ _ hc]) (by rw [vmod_get_ne _ _ hc]) (by rw [vmod_get_ne _ _ hc])

theorem foldl_sameRegs {α : Type} {f : State → α → State} {l : List α} (hf : ∀ s x, s.sameRegs u me → (f s x).sameRegs u me)
    (h : s.sameRegs u me) : (l.foldl f s).sameRegs u me := by
  induction l generalizing s with
  | nil => exact h
  | cons a r ih => exact ih (hf _ _ h)

/-! ## Entries, interrupt sources and fault banks -/

theorem State.setE_sameRegs {idx sub v} (h : s.sameRegs u me) : (s.setE idx sub v).sameRegs u me := h

theorem State.addE_sameRegs {idx sub w k} (h : s.sameRegs u me) : (s.addE idx sub w k).sameRegs u me := by
  grind [State.addE, State.setE_sameRegs, sameRegs_mk]

theorem State.putSrc_sameRegs {k x} (h : s.sameRegs u me) : (s.putSrc k x).sameRegs u me := h

theorem State.virtNotify_sameRegs {p} (h : s.sameRegs u me) : (s.virtNotify p).sameRegs u me := by
  grind [State.virtNotify, State.putSrc_sameRegs, sameRegs_mk]

theorem State.setSrc_sameRegs {k x} (h : s.sameRegs u me) : (s.setSrc k x).sameRegs u me := by
  grind [State.setSrc, State.putSrc_sameRegs, State.virtNotify_sameRegs]

theorem State.setLine_sameRegs {k lvl} (h : s.sameRegs u me) : (s.setLine k lvl).sameRegs u me := by
  grind [State.setLine, State.setSrc_sameRegs]

theorem State.bankLine_sameRegs {b} (h : s.sameRegs u me) : (s.bankLine b).sameRegs u me := by
  grind [State.bankLine, State.setLine_sameRegs]

theorem State.record_sameRegs {b code unit unit2 addr info} (h : s.sameRegs u me) :
    (s.record b code unit unit2 addr info).sameRegs u me := by
  grind [State.record, State.addE_sameRegs, State.bankLine_sameRegs, sameRegs_mk]

/-! ## HBM -/

theorem State.modPc_sameRegs {p f} (h : s.sameRegs u me) : (s.modPc p f).sameRegs u me := h

theorem State.storeLine_sameRegs {line d poison} (h : s.sameRegs u me) : (s.storeLine line d poison).sameRegs u me := h

theorem State.hardError_sameRegs {a} (h : s.sameRegs u me) : (s.hardError a).sameRegs u me := h

theorem State.hbmRead_sameRegs {line errs sev scrub wrong} (h : s.sameRegs u me) :
    (s.hbmRead line errs sev scrub wrong).1.sameRegs u me := by
  grind (ematch := 20) [State.hbmRead, State.addE_sameRegs, State.hardError_sameRegs, State.record_sameRegs, State.storeLine_sameRegs,
    sameRegs_mk]

theorem State.enqueue_sameRegs {c} (h : s.sameRegs u me) : (s.enqueue c).sameRegs u me := by
  grind [State.enqueue, State.addE_sameRegs, sameRegs_mk]

theorem State.hbmWrite_sameRegs {line d poison tc} (h : s.sameRegs u me) : (s.hbmWrite line d poison tc).sameRegs u me := by
  grind [State.hbmWrite, State.enqueue_sameRegs]

theorem State.nextCmd_sameRegs {p r} (h : s.sameRegs u me) (e : State.nextCmd s p = some r) : r.2.sameRegs u me := by
  grind [State.nextCmd, sameRegs_mk]

theorem State.ownSlot_sameRegs {p t} (h : s.sameRegs u me) (e : State.ownSlot s p = some t) : t.sameRegs u me := by
  grind [State.ownSlot, sameRegs_mk]

/-! ## Lines, pods and home agents -/

theorem State.send_sameRegs {stop tc n} (h : s.sameRegs u me) : (s.send stop tc n).sameRegs u me := h

theorem State.modPod_sameRegs {p f} (h : s.sameRegs u me) : (s.modPod p f).sameRegs u me := h

theorem State.modHome_sameRegs {ix f} (h : s.sameRegs u me) : (s.modHome ix f).sameRegs u me := h

theorem State.putL2_sameRegs {p line x} (h : s.sameRegs u me) : (s.putL2 p line x).sameRegs u me := h

theorem State.setFilt_sameRegs {line p st} (h : s.sameRegs u me) : (s.setFilt line p st).sameRegs u me := h

theorem State.dropL1_sameRegs {p line} (h : s.sameRegs u me) : (s.dropL1 p line).sameRegs u me :=
  State.sameRegs_ofFn (f := fun c a => if podOf c = p then { a with l1d := setPut line false a.l1d, l1i := setPut line false a.l1i } else a)
    h fun c a => by
      dsimp only
      split <;> exact ⟨rfl, rfl, rfl⟩

theorem State.dropL2_sameRegs {p line} (h : s.sameRegs u me) : (s.dropL2 p line).sameRegs u me := by
  grind [State.dropL2, State.modPod_sameRegs, State.dropL1_sameRegs]

theorem State.slcEvict_sameRegs {ix line} (h : s.sameRegs u me) : (s.slcEvict ix line).sameRegs u me := by
  grind [State.slcEvict, State.modHome_sameRegs, State.hbmWrite_sameRegs]

theorem State.pick_sameRegs {α l} (h : s.sameRegs u me) : (@State.pick α s l).2.sameRegs u me := h

theorem State.slcPut_sameRegs {line cls dirty d poison} (h : s.sameRegs u me) : (s.slcPut line cls dirty d poison).sameRegs u me := by
  grind [State.slcPut, State.modHome_sameRegs, State.pick_sameRegs, State.slcEvict_sameRegs, State.hbmWrite_sameRegs]

theorem State.writeHome_sameRegs {line cls tc d poison} (h : s.sameRegs u me) : (s.writeHome line cls tc d poison).sameRegs u me := by
  grind [State.writeHome, State.slcPut_sameRegs, State.hbmWrite_sameRegs]

theorem State.absorb_sameRegs {p line d poison type} (h : s.sameRegs u me) : (s.absorb p line d poison type).sameRegs u me := by
  grind [State.absorb, State.writeHome_sameRegs, State.slcPut_sameRegs, State.hbmWrite_sameRegs]

theorem State.evictNow_sameRegs {p line} (h : s.sameRegs u me) : (s.evictNow p line).sameRegs u me := by
  grind [State.evictNow, State.setFilt_sameRegs, State.dropL2_sameRegs, State.absorb_sameRegs]

theorem State.l2Install_sameRegs {p line st d poison type} (h : s.sameRegs u me) :
    (s.l2Install p line st d poison type).sameRegs u me := by
  unfold State.l2Install
  grind [State.setFilt_sameRegs, State.putL2_sameRegs, State.pick_sameRegs, State.evictNow_sameRegs, State.absorb_sameRegs]

/-! ## Transactions whose arrays meet nothing -/

/-- A read of the SLC that meets nothing gives the line, and changes nothing. -/
theorem State.slcRead_good {line x} : s.slcRead line x .good = (s, some (x.data, x.poison)) := rfl

theorem State.strike_good : s.strike .good = s := rfl

theorem State.putTxn_sameRegs {txn} (h : s.sameRegs u me) : (s.putTxn txn).sameRegs u me := h

theorem State.ackCrossed_sameRegs {line} (h : s.sameRegs u me) : (s.ackCrossed line).sameRegs u me := h

theorem State.fillSlc_sameRegs {line cls fromHbm d poison} (h : s.sameRegs u me) :
    (s.fillSlc line cls fromHbm d poison).sameRegs u me := by
  grind [State.fillSlc, State.slcPut_sameRegs]

theorem State.sendReply_sameRegs {txn n} (h : s.sameRegs u me) : (s.sendReply txn n).sameRegs u me := by
  grind [State.sendReply, State.send_sameRegs, foldl_sameRegs]

theorem State.smcPoison_sameRegs {txn poison} (h : s.sameRegs u me) : (s.smcPoison txn poison).sameRegs u me := by
  grind [State.smcPoison, State.record_sameRegs]

theorem State.finish_sameRegs {txn d poison fromHbm force} (h : s.sameRegs u me) :
    (s.finish txn d poison fromHbm force).sameRegs u me := by
  unfold State.finish
  dsimp only
  repeat' split
  all_goals grind (ematch := 20) [State.modHome_sameRegs, State.sendReply_sameRegs, State.fillSlc_sameRegs, State.l2Install_sameRegs,
    State.writeHome_sameRegs, State.smcPoison_sameRegs, State.ackCrossed_sameRegs, sameRegs_mk]

theorem State.serveEvict_sameRegs {p line} (h : s.sameRegs u me) : (s.serveEvict p line).sameRegs u me := by
  grind [State.serveEvict, State.setFilt_sameRegs, State.absorb_sameRegs, State.modPod_sameRegs]

theorem State.proceed_sameRegs {txn} (h : s.sameRegs u me) : (s.proceed txn .good).sameRegs u me := by
  grind [State.proceed, State.finish_sameRegs, State.slcRead_good, State.enqueue_sameRegs, State.putTxn_sameRegs]

theorem State.begin_sameRegs {txn} (h : s.sameRegs u me) : (s.begin txn .good).sameRegs u me := by
  unfold State.begin
  dsimp only
  rw [State.strike_good]
  repeat' split
  all_goals grind [State.serveEvict_sameRegs, State.modHome_sameRegs, State.record_sameRegs,
    State.finish_sameRegs, State.proceed_sameRegs, State.send_sameRegs, State.putTxn_sameRegs, sameRegs_mk, foldl_sameRegs]

theorem State.kick_sameRegs {line a} (h : s.sameRegs u me) : (State.kick line .good a s).sameRegs u me := by
  fun_induction State.kick line .good a s <;> grind [State.begin_sameRegs]

theorem State.kickAll_sameRegs {line} (h : s.sameRegs u me) : (s.kickAll line .good).sameRegs u me := by
  grind [State.kickAll, State.kick_sameRegs]

theorem State.promote_sameRegs {txn} (h : s.sameRegs u me) : (s.promote txn).sameRegs u me := h

theorem State.takeEntry_sameRegs {txn} (h : s.sameRegs u me) : (s.takeEntry txn .good).sameRegs u me := by
  grind [State.takeEntry, State.kickAll_sameRegs, State.modHome_sameRegs, State.putTxn_sameRegs, State.promote_sameRegs]

theorem State.admitN_sameRegs {h0 a} (h : s.sameRegs u me) : (State.admitN h0 a s).sameRegs u me := by
  fun_induction State.admitN h0 a s <;> grind [State.takeEntry_sameRegs, State.modHome_sameRegs]

theorem State.admitHome_sameRegs {line} (h : s.sameRegs u me) : (s.admitHome line).sameRegs u me := by
  grind [State.admitHome, State.admitN_sameRegs]

theorem State.request_sameRegs {line req from_ tc cls} (h : s.sameRegs u me) :
    (s.request line req from_ tc cls .good).sameRegs u me := by
  grind [State.request, State.send_sameRegs, State.takeEntry_sameRegs, State.modHome_sameRegs]

/-! ## Snoops and answers -/

theorem State.snoopAt_sameRegs {p line k} (h : s.sameRegs u me) : (s.snoopAt p line k).1.sameRegs u me := by
  grind [State.snoopAt, State.putL2_sameRegs, State.dropL2_sameRegs, State.modPod_sameRegs]

theorem State.serveSnoop_sameRegs {m} (h : s.sameRegs u me) : (s.serveSnoop m).sameRegs u me := by
  grind [State.serveSnoop, State.snoopAt_sameRegs, State.send_sameRegs, State.modHome_sameRegs]

theorem State.deliverSnoop_sameRegs {p line k} (h : s.sameRegs u me) : (s.deliverSnoop p line k).sameRegs u me := by
  grind [State.deliverSnoop, State.serveSnoop_sameRegs, foldl_sameRegs]

theorem State.syncFilt_sameRegs {line p} (h : s.sameRegs u me) : (s.syncFilt line p).sameRegs u me := h

theorem State.poisonTxn_sameRegs {txn} (h : s.sameRegs u me) : (s.poisonTxn txn).sameRegs u me := by
  grind [State.poisonTxn, State.writeHome_sameRegs, State.admitHome_sameRegs, State.kickAll_sameRegs, State.finish_sameRegs]

theorem State.answered_sameRegs {txn p got} (h : s.sameRegs u me) : (s.answered txn p got).sameRegs u me := by
  unfold State.answered
  dsimp only
  repeat' split
  all_goals grind [State.putTxn_sameRegs, State.poisonTxn_sameRegs, State.admitHome_sameRegs, State.kickAll_sameRegs,
    State.proceed_sameRegs]

theorem State.useCrossed_sameRegs {txn p b} (h : s.sameRegs u me) : (s.useCrossed txn p b).sameRegs u me := by
  grind [State.useCrossed, State.setFilt_sameRegs, State.absorb_sameRegs, State.answered_sameRegs]

theorem State.lateAnswer_sameRegs {ix a} (h : s.sameRegs u me) : (s.lateAnswer ix a).sameRegs u me := by
  grind [State.lateAnswer, sameRegs_mk]

/-- An array read that meets nothing keeps its data, and changes nothing. -/
theorem State.arrayRead_good {b unit way line setNo arr kind dirty} :
    s.arrayRead .good b unit way line setNo arr kind dirty = (s, .keep) := rfl

theorem State.answer_sameRegs {a} (h : s.sameRegs u me) : (s.answer a .good).sameRegs u me := by
  unfold State.answer
  dsimp only
  simp only [State.strike_good, State.arrayRead_good]
  repeat' split
  all_goals grind [State.lateAnswer_sameRegs, State.answered_sameRegs, State.syncFilt_sameRegs,
    State.setFilt_sameRegs, State.modHome_sameRegs, State.useCrossed_sameRegs, State.record_sameRegs]

theorem State.hbmData_sameRegs {line d poison} (h : s.sameRegs u me) : (s.hbmData line d poison).sameRegs u me := by
  grind [State.hbmData, State.admitHome_sameRegs, State.kickAll_sameRegs, State.finish_sameRegs]

theorem State.hbmServe_sameRegs {p errs sev wrong} (h : s.sameRegs u me) : (s.hbmServe p errs sev wrong).sameRegs u me := by
  unfold State.hbmServe
  split
  · split
    next => exact h
    next c v hc =>
      have hv : v.sameRegs u me := State.nextCmd_sameRegs h hc
      split
      · exact State.storeLine_sameRegs hv
      · exact State.hbmData_sameRegs (State.hbmRead_sameRegs hv)
  · exact h

theorem State.writeBack_sameRegs {p} (h : s.sameRegs u me) : (s.writeBack p).sameRegs u me := by
  grind [State.writeBack, State.modPc_sameRegs, sameRegs_mk]

theorem State.verifyRead_sameRegs {p errs sev} (h : s.sameRegs u me) : (s.verifyRead p errs sev).sameRegs u me := by
  unfold State.verifyRead
  dsimp only
  repeat' split
  all_goals grind [State.modPc_sameRegs, State.addE_sameRegs, State.hardError_sameRegs, State.hbmRead_sameRegs, sameRegs_mk]

/-! ## Requests carried through, and stores -/

theorem State.evArrive_sameRegs {p line} (h : s.sameRegs u me) : (s.evArrive p line).sameRegs u me := by
  grind [State.evArrive, State.modPod_sameRegs, State.send_sameRegs, State.serveEvict_sameRegs, State.useCrossed_sameRegs,
    State.modHome_sameRegs]

theorem State.hbmTurn_sameRegs {line} (h : s.sameRegs u me) : (s.hbmTurn line).sameRegs u me := by
  grind [State.hbmTurn, State.ownSlot_sameRegs, State.writeBack_sameRegs, State.verifyRead_sameRegs, State.hbmServe_sameRegs, sameRegs_mk]

theorem State.settle1_sameRegs {line} (h : s.sameRegs u me) : (s.settle1 line).sameRegs u me := by
  unfold State.settle1
  dsimp only
  repeat' split
  all_goals grind [State.admitHome_sameRegs, State.kickAll_sameRegs, State.hbmTurn_sameRegs, State.proceed_sameRegs,
    State.deliverSnoop_sameRegs, State.answer_sameRegs, State.modHome_sameRegs, State.evArrive_sameRegs, State.answered_sameRegs]

theorem State.settleN_sameRegs {line a} (h : s.sameRegs u me) : (State.settleN line a s).sameRegs u me := by
  fun_induction State.settleN line a s <;> grind [State.settle1_sameRegs]

theorem State.settle_sameRegs {line} (h : s.sameRegs u me) : (s.settle line).sameRegs u me := by
  grind [State.settle, State.settleN_sameRegs, sameRegs_mk]

theorem State.drainEv_sameRegs {p line} (h : s.sameRegs u me) : (s.drainEv p line).sameRegs u me := by
  grind [State.drainEv, State.settle_sameRegs, State.evArrive_sameRegs]

theorem State.transact_sameRegs {line req from_ tc cls} (h : s.sameRegs u me) : (s.transact line req from_ tc cls).sameRegs u me := by
  grind [State.transact, State.settle_sameRegs, State.request_sameRegs, sameRegs_mk]

theorem State.homePush_sameRegs {line off d m} (h : s.sameRegs u me) : (s.homePush line off d m).sameRegs u me := by
  grind [State.homePush, State.transact_sameRegs]

theorem State.homePushPoison_sameRegs {line off d m} (h : s.sameRegs u me) : (s.homePushPoison line off d m).sameRegs u me := by
  grind [State.homePushPoison, State.homePush_sameRegs, State.writeHome_sameRegs]

theorem State.l2Write_sameRegs {c line off d type st} (h : s.sameRegs u me) : (s.l2Write c line off d type st).sameRegs u me := by
  unfold State.l2Write
  dsimp only
  split
  · exact h
  · refine State.putL2_sameRegs (State.sameRegs_ofFn (f := fun k a => if podOf k = podOf c then
      { a with l1d := if k = c then a.l1d else setPut line false a.l1d, l1i := setPut line false a.l1i } else a) h fun k a => ?_)
    dsimp only
    split <;> exact ⟨rfl, rfl, rfl⟩

theorem State.ownLine_sameRegs {c line} (h : s.sameRegs u me) : (s.ownLine c line).sameRegs u me := by
  have hdrained : ((s.settle line).drainEv (podOf c) line).sameRegs u me := State.drainEv_sameRegs (State.settle_sameRegs h)
  unfold State.ownLine
  dsimp only
  split
  · exact hdrained
  · exact hdrained
  · exact State.transact_sameRegs hdrained

theorem State.coreWrite_sameRegs {c line off d type} (h : s.sameRegs u me) : (s.coreWrite c line off d type).sameRegs u me := by
  unfold State.coreWrite
  split <;> grind (ematch := 20) [State.drainEv_sameRegs, State.settle_sameRegs, State.homePush_sameRegs, State.ownLine_sameRegs,
    State.l2Write_sameRegs, State.setFilt_sameRegs, State.writeHome_sameRegs]

theorem State.postedError_sameRegs {m a r} (h : s.sameRegs u me) : (s.postedError m a r).sameRegs u me := by
  grind [State.postedError, State.record_sameRegs]

theorem State.huskRecord_sameRegs {m a} (h : s.sameRegs u me) : (s.huskRecord m a).sameRegs u me := by
  grind [State.huskRecord, State.record_sameRegs]

theorem State.meshWrite_sameRegs {m a n} (h : s.sameRegs u me) : (s.meshWrite m a n).sameRegs u me := by
  grind [State.meshWrite, State.send_sameRegs]

theorem State.eccWrite_sameRegs {a n} (h : s.sameRegs u me) : (s.eccWrite a n).sameRegs u me := h

theorem State.clearTags_sameRegs {a n} (h : s.sameRegs u me) : (s.clearTags a n).sameRegs u me := h

theorem State.memWrite_sameRegs {m a d poison} (h : s.sameRegs u me) : (s.memWrite m a d poison).sameRegs u me := by
  grind [State.memWrite, State.homePushPoison_sameRegs, State.homePush_sameRegs, State.clearTags_sameRegs, State.eccWrite_sameRegs,
    State.meshWrite_sameRegs, sameRegs_mk]

theorem State.storePart_sameRegs {c husk ty a d} (h : s.sameRegs u me) : (s.storePart c husk ty a d).sameRegs u me := by
  grind [State.storePart, State.postedError_sameRegs, State.huskRecord_sameRegs, State.coreWrite_sameRegs, State.memWrite_sameRegs]

theorem State.drainOne_sameRegs {c} (h : s.sameRegs u me) : (s.drainOne c).sameRegs u me := by
  unfold State.drainOne
  dsimp only
  split
  · exact h
  · split
    · exact State.sameRegs_vmod h fun _ => ⟨rfl, rfl, rfl⟩
    · exact State.storePart_sameRegs (State.sameRegs_vmod h fun _ => ⟨rfl, rfl, rfl⟩)

theorem State.drainStore_sameRegs {c} (h : s.sameRegs u me) : (s.drainStore c).sameRegs u me := by
  grind [State.drainStore, State.drainOne_sameRegs, foldl_sameRegs]

theorem State.drainAll_sameRegs {c} (h : s.sameRegs u me) : (s.drainAll c).sameRegs u me := by
  grind [State.drainAll, State.drainStore_sameRegs, foldl_sameRegs]

/-- The stores of a core's buffer leave the general registers of every core. -/
theorem State.drainAll_g (s : State) (c me : Fin 32) (r : Reg) : (s.drainAll c).g me r = s.g me r :=
  (State.drainAll_sameRegs (State.sameRegs_self s me)).g_eq r

end Sys2Proof.Machine
end

section
/-! The cache operations of an A-core, and the copies that survive them (R222, Table 6.6). -/
set_option Elab.async false
namespace Sys2Proof.Machine

/-! ## Neither asks for a debug halt -/

section
variable {s : State} {me : Fin 32}

theorem State.invalidate_calm {line} (h : s.calm me) : (s.invalidate line).calm me := by
  grind [State.invalidate, State.dropL2_calm, State.setFilt_calm, State.modHome_calm, foldl_calm]

theorem State.dcc_calm {line tc} (h : s.calm me) : (s.dcc line tc).calm me := by
  have hdrained : ((allFin 8).foldl (fun s p => s.drainEv p line) (s.settle line)).calm me :=
    foldl_calm (fun _ _ => State.drainEv_calm) (State.settle_calm h)
  unfold State.dcc
  dsimp only
  repeat' split
  all_goals grind [State.hbmWrite_calm, State.slcPut_calm, State.putL2_calm, State.setFilt_calm]

theorem State.dci_calm {line} (h : s.calm me) : (s.dci line).calm me :=
  State.invalidate_calm (calm_mk (State.settle_calm h))

theorem State.ici_calm {line} (h : s.calm me) : (s.ici line).calm me :=
  vmap_calm (f := fun a => { a with l1i := setPut line false a.l1i }) (fun _ ha => ha) me h

theorem State.zline_calm {c line type} (h : s.calm me) : (s.zline c line type).calm me := by
  have hdrained : ((s.settle line).drainEv (podOf c) line).calm me := State.drainEv_calm (State.settle_calm h)
  unfold State.zline
  refine ite_calm (State.l2Install_calm (State.dropL1_calm (foldl_calm (fun v q hv => ?_) hdrained))) (State.homePush_calm hdrained)
  exact ite_calm hv (State.setFilt_calm (State.dropL2_calm hv))

end

/-! ## The instruction (R222) -/

section
variable {s u v : State} {c : Fin 32} {w : IWord} {o : CacheOp} {r1 : Reg} {va : Word} {x : LineAcc} {l : List LineAcc} {f : Exn}
  {e : Resp}

/-- Whether a cache operation is checked as a write. -/
def CacheOp.writes (o : CacheOp) : Bool := o == .dci || o == .zline

theorem CacheOp.kind_eq (o : CacheOp) : CacheOp.kind o = if CacheOp.writes o then .write else .read := by
  cases o
  all_goals rfl

/-- ZLINE refuses device memory; the other operations take every type. -/
def CacheOp.rule (o : CacheOp) : TypeRule := fun t => if o = .zline ∧ isDev t then some (13, 0) else none

/-- What an operation does to the line that holds its byte (Table 6.6). -/
def CacheOp.acts (o : CacheOp) (c : Fin 32) (x : LineAcc) (v : State) : State :=
  match o with
  | .dcc => v.dcc (x.pa / 64) (v.coreTc c)
  | .dcci => (v.dcc (x.pa / 64) (v.coreTc c)).invalidate (x.pa / 64)
  | .dci => v.dci (x.pa / 64)
  | .ici => v.ici (x.pa / 64)
  | .zline => v.zline c (x.pa / 64) x.type

theorem CacheOp.acts_calm {me : Fin 32} (h : v.calm me) : (CacheOp.acts o c x v).calm me := by
  unfold CacheOp.acts
  split
  case h_1 => exact State.dcc_calm h
  case h_2 => exact State.invalidate_calm (State.dcc_calm h)
  case h_3 => exact State.dci_calm h
  case h_4 => exact State.ici_calm h
  case h_5 => exact State.zline_calm h

/-- What follows the translation of an operation's byte. -/
def CacheOp.goesOn (o : CacheOp) (c : Fin 32) (va : Word) : State × Except Exn (List LineAcc) → State × Flow × List Nat
  | (v, .error f) => (v, .exn f, [])
  | (v, .ok []) => (v, .seq, [])
  | (v, .ok (x :: _)) =>
    if isDev x.type then (v, .seq, [])
    else match v.coreErr c x (CacheOp.writes o) with
      | some r => if o = .zline then (v.postedError (.core c) x.pa r, .seq, [])
        else (v, .exn { exn 14 (respCode r) 0 va with wr := CacheOp.writes o }, [])
      | none => if !(v.region x.pa).isHbm then (v, .seq, []) else (CacheOp.acts o c x v, .seq, [])

/-- Whether the position of a core may use an operation. -/
def State.mayCache (u : State) (c : Fin 32) (o : CacheOp) : Prop := o ≠ .dci ∨ u.atH c = true ∨ (u.acore.get c).ring = 0

theorem aCache_refused (hlow : u.atH c = false) (hring : (u.acore.get c).ring ≠ 0) :
    aCache c w (.cache .dci r1) u = (u, .exn (privExn w), []) :=
  if_pos ⟨rfl, (State.outer_eq u c).mpr ⟨hlow, hring⟩⟩

/-- The stores of the buffer leave the register that holds the address, so that it may be read before they are performed. -/
theorem aCache_eq (hmay : u.mayCache c o) : aCache c w (.cache o r1) u =
    CacheOp.goesOn o c (u.g c r1) ((u.drainAll c).accsOf
      ((u.drainAll c).ctx c (if CacheOp.writes o then .write else .read) false) (CacheOp.rule o) (u.g c r1) 1) := by
  have houter : ¬ (o = .dci ∧ u.outer c = true) := fun ⟨ho, hout⟩ => by
    obtain ⟨hlow, hring⟩ := (State.outer_eq u c).mp hout
    obtain hne | hH | h0 := hmay
    · exact hne ho
    · exact Bool.false_ne_true (hlow.symm.trans hH)
    · exact hring h0
  have hwr : XCtx.wr ((u.drainAll c).ctx c (CacheOp.kind o) false) = CacheOp.writes o := by
    cases o
    all_goals rfl
  rw [aCache, if_neg houter, ← CacheOp.kind_eq]
  dsimp only
  rw [State.drainAll_g, hwr]
  unfold CacheOp.rule
  generalize (u.drainAll c).accsOf ((u.drainAll c).ctx c (CacheOp.kind o) false) _ _ _ = a
  obtain ⟨v, f | _ | ⟨x, l⟩⟩ := a
  · rfl
  · rfl
  · unfold CacheOp.goesOn CacheOp.acts
    cases o
    all_goals rfl

theorem CacheOp.goesOn_dev (h : isDev x.type = true) : CacheOp.goesOn o c va (v, .ok (x :: l)) = (v, .seq, []) := if_pos h

theorem CacheOp.goesOn_err (h : isDev x.type = false) (he : v.coreErr c x (CacheOp.writes o) = some e) :
    CacheOp.goesOn o c va (v, .ok (x :: l)) = if o = .zline then (v.postedError (.core c) x.pa e, .seq, [])
      else (v, .exn { exn 14 (respCode e) 0 va with wr := CacheOp.writes o }, []) := by
  simp [CacheOp.goesOn, h, he]

theorem CacheOp.goesOn_ok (h : isDev x.type = false) (he : v.coreErr c x (CacheOp.writes o) = none) :
    CacheOp.goesOn o c va (v, .ok (x :: l)) = (if (v.region x.pa).isHbm then CacheOp.acts o c x v else v, .seq, []) := by
  cases hhbm : (v.region x.pa).isHbm
  all_goals simp [CacheOp.goesOn, h, he, hhbm]

/-- The command of a cache operation. -/
def cacheCmd (o : CacheOp) (c : Fin 32) (w : IWord) : Instr :=
  match o with
  | .dcc => .dcc (.a c) w | .dcci => .dcci (.a c) w | .dci => .dci (.a c) w | .ici => .ici (.a c) w | .zline => .zline (.a c) w

theorem exec_cacheCmd (o : CacheOp) (c : Fin 32) (w : IWord) (r1 : Reg) (s : State) : exec (cacheCmd o c w) s =
    runInsn (Aelxel.cache o r1).row (.a c) w (fun c => aCache c w) (fun _ _ => tLacks w) s := by
  cases o
  all_goals rfl

/-- A cache operation whose body commits. -/
theorem completes_aCache (h : s.aFetches c w (.cache o r1) u) (hbody : aCache c w (.cache o r1) u = (v, .seq, []))
    (hv : v.calm c) (hheld : v.held = false) : completes (cacheCmd o c w) s (u.aSeq v · c) :=
  completes_aSeq (a := fun c => aCache c w) h (exec_cacheCmd o c w r1 s) rfl hbody hv hheld

/-- A cache operation whose body raises an exception. -/
theorem completes_aCache_raises (h : s.aFetches c w (.cache o r1) u) (hbody : aCache c w (.cache o r1) u = (v, .exn f, [])) :
    completes (cacheCmd o c w) s fun t => t = s.orWaits ((v.raise c f).stepDone c) :=
  completes_raises (a := fun c => aCache c w) h (exec_cacheCmd o c w r1 s) rfl hbody

end

/-! ## What survives -/

section
variable {line : Nat}

theorem mem_setPut_false {n : Nat} {l : List Nat} : n ∈ setPut line false l ↔ n ∈ l ∧ n ≠ line := by
  simp [setPut]

theorem State.dropL1_get (s : State) (p : Fin 8) (line : Nat) (c : Fin 32) : (s.dropL1 p line).acore.get c =
    if podOf c = p then { s.acore.get c with
      l1d := setPut line false (s.acore.get c).l1d, l1i := setPut line false (s.acore.get c).l1i } else s.acore.get c :=
  Vector.getElem_ofFn c.isLt

/-- One pod loses its copies of a line, and its entry in the filter. -/
def State.dropPod (line : Nat) (s : State) (p : Fin 8) : State := (s.dropL2 p line).setFilt line p none

theorem State.invalidate_eq (s : State) (line : Nat) : s.invalidate line =
    ((allFin 8).foldl (State.dropPod line) s).modHome (homeIdx line) fun h => { h with slc := kvDel line h.slc } := rfl

theorem State.dropPod_pod (s : State) (p : Fin 8) :
    (s.dropPod line p).pod = vmod s.pod p fun q => { q with lines := kvDel line q.lines } := by
  simp only [State.dropPod, State.setFilt, State.dropL2, State.dropL1, State.modHome, State.modPod]

theorem State.dropPod_home (s : State) (p : Fin 8) :
    (s.dropPod line p).home = vmod s.home (homeIdx line) fun h => { h with filt := kvDel (filtKey line p) h.filt } := by
  simp only [State.dropPod, State.setFilt, State.dropL2, State.dropL1, State.modHome, State.modPod]

theorem State.dropPod_lines (s : State) (p q : Fin 8) : ((s.dropPod line p).pod.get q).lines =
    if q = p then kvDel line (s.pod.get p).lines else (s.pod.get q).lines := by
  rw [State.dropPod_pod]
  by_cases hq : q = p
  · subst hq
    rw [if_pos rfl, vmod_get]
  · rw [if_neg hq, vmod_get_ne _ _ hq]

theorem State.dropPod_slc (s : State) (p : Fin 8) (h : Fin 16) : ((s.dropPod line p).home.get h).slc = (s.home.get h).slc := by
  rw [State.dropPod_home]
  by_cases hh : h = homeIdx line
  · subst hh
    rw [vmod_get]
  · rw [vmod_get_ne _ _ hh]

theorem State.dropPod_acore (s : State) (p : Fin 8) : (s.dropPod line p).acore = (s.dropL1 p line).acore := rfl

/-- Pods that lose their copies one after the other. -/
theorem State.foldl_dropPod_lines (l : List (Fin 8)) (hl : l.Nodup) (s : State) (q : Fin 8) :
    ((l.foldl (State.dropPod line) s).pod.get q).lines =
      if q ∈ l then kvDel line (s.pod.get q).lines else (s.pod.get q).lines := by
  induction l generalizing s with
  | nil => rfl
  | cons p r ih =>
    obtain ⟨hp, hr⟩ := List.nodup_cons.mp hl
    rw [List.foldl_cons, ih hr, State.dropPod_lines]
    by_cases hq : q = p
    · subst hq
      simp [hp]
    · simp [hq]

theorem State.foldl_dropPod_slc (l : List (Fin 8)) (s : State) (h : Fin 16) :
    ((l.foldl (State.dropPod line) s).home.get h).slc = (s.home.get h).slc := by
  induction l generalizing s with
  | nil => rfl
  | cons p r ih => rw [List.foldl_cons, ih, State.dropPod_slc]

/-- Neither L1 of a core holds a line. -/
def ACore.lacks (a : ACore) (line : Nat) : Prop := line ∉ a.l1d ∧ line ∉ a.l1i

theorem State.dropL1_lacks (s : State) (p : Fin 8) (c : Fin 32) (h : podOf c = p ∨ (s.acore.get c).lacks line) :
    ((s.dropL1 p line).acore.get c).lacks line := by
  rw [State.dropL1_get]
  split
  · exact ⟨fun hm => (mem_setPut_false.mp hm).2 rfl, fun hm => (mem_setPut_false.mp hm).2 rfl⟩
  next hp => exact h.resolve_left hp

theorem State.foldl_dropPod_lacks (l : List (Fin 8)) (s : State) (c : Fin 32) (h : podOf c ∈ l ∨ (s.acore.get c).lacks line) :
    ((l.foldl (State.dropPod line) s).acore.get c).lacks line := by
  induction l generalizing s with
  | nil => exact h.resolve_left List.not_mem_nil
  | cons p r ih =>
    rw [List.foldl_cons]
    rw [List.mem_cons, or_comm (a := podOf c = p), or_assoc] at h
    refine ih (s.dropPod line p) (h.imp_right fun hc => ?_)
    rw [State.dropPod_acore]
    exact State.dropL1_lacks s p c hc

theorem State.invalidate_lines (s : State) (line : Nat) (p : Fin 8) :
    ((s.invalidate line).pod.get p).lines = kvDel line (s.pod.get p).lines := by
  simp only [State.invalidate_eq, State.modHome_else]
  exact (State.foldl_dropPod_lines (allFin 8) (List.nodup_finRange 8) s p).trans (if_pos (List.mem_finRange p))

theorem State.invalidate_slc (s : State) (line : Nat) :
    ((s.invalidate line).home.get (homeIdx line)).slc = kvDel line (s.home.get (homeIdx line)).slc := by
  rw [State.invalidate_eq, State.modHome_get]
  exact congrArg (kvDel line) (State.foldl_dropPod_slc (allFin 8) s _)

theorem State.invalidate_lacks (s : State) (line : Nat) (c : Fin 32) : ((s.invalidate line).acore.get c).lacks line := by
  simp only [State.invalidate_eq, State.modHome_else]
  exact State.foldl_dropPod_lacks (allFin 8) s c (.inl (List.mem_finRange _))

theorem State.ici_get (s : State) (line : Nat) (c : Fin 32) :
    (s.ici line).acore.get c = { s.acore.get c with l1i := setPut line false (s.acore.get c).l1i } :=
  Vector.getElem_map _ c.isLt

theorem State.mem_ici_l1i (s : State) (line n : Nat) (c : Fin 32) :
    n ∈ ((s.ici line).acore.get c).l1i ↔ n ∈ (s.acore.get c).l1i ∧ n ≠ line := by
  rw [State.ici_get]
  exact mem_setPut_false

end

/-- Settles O30: `CacheOp.goesOn` says what follows the translation, and the folds over the pods what is left of a line. -/
theorem cacheOperations : Obligations.CacheOperations := by
  refine ⟨fun s u c w o r1 h => ?_,
    fun s line => ⟨State.invalidate_lines s line, State.invalidate_slc s line, State.invalidate_lacks s line⟩,
    fun s line => ⟨fun c => ⟨fun hm => ((State.mem_ici_l1i s line line c).mp hm).2 rfl, fun l hl => ?_⟩, fun c => ?_, rfl⟩⟩
  · intro cmd d wr k rule va
    refine ⟨?_, fun hmay => ?_⟩
    · rintro rfl hlow hring
      exact completes_aCache_raises h (aCache_refused hlow hring)
    · have hbody := aCache_eq (w := w) (r1 := r1) hmay
      refine ⟨fun v f haccs => completes_aCache_raises h (hbody.trans (congrArg _ haccs)), fun v x l haccs hheld => ?_⟩
      have hcalm : v.calm c := State.accsOf_calm_of (State.drainAll_calm h.calm) haccs
      replace hbody := hbody.trans (congrArg (CacheOp.goesOn o c va) haccs)
      refine ⟨fun hdev => completes_aCache h (hbody.trans (CacheOp.goesOn_dev hdev)) hcalm hheld,
        fun hdev hno hother => ?_, fun hdev hno hhbm hz => ?_, fun e hdev he => ?_⟩
      · rw [CacheOp.goesOn_ok hdev hno, hother] at hbody
        exact completes_aCache h hbody hcalm hheld
      · rw [CacheOp.goesOn_ok hdev hno, if_pos hhbm] at hbody
        exact completes_aCache h hbody (CacheOp.acts_calm hcalm) hz
      · rw [CacheOp.goesOn_err hdev he] at hbody
        by_cases ho : o = .zline
        · simp only [if_pos ho]
          rw [if_pos ho] at hbody
          exact completes_aCache h hbody (State.postedError_calm hcalm) ((State.record_held ..).trans hheld)
        · simp only [if_neg ho]
          rw [if_neg ho] at hbody
          exact completes_aCache_raises h hbody
  · rw [State.mem_ici_l1i]
    exact and_iff_left hl
  · rw [State.ici_get]

end Sys2Proof.Machine
end

section
/-! Evictions, snoops and their answers, snoop timeouts and the cleaning of ways (R194, R211 to R223, Table 6.5). -/
set_option Elab.async false
namespace Sys2Proof.Machine

/-! ## What the operations leave alone -/

section
variable {s : State} {p : Fin 8} {l : Nat}

/-- A value reads as it was listed last, whatever else the table lists. -/
theorem kvGet?_kvPut_self {α : Type} (n : Nat) (v : α) (t : KV α) : kvGet? (kvPut n v t) n = some v := by
  induction t with
  | nil => simp [kvPut, kvGet?]
  | cons e r ih =>
    obtain ⟨k, w⟩ := e
    rw [kvPut]
    split
    · simp [kvGet?]
    · split
      · simp [kvGet?]
      next hne hlt => rw [kvGet?, if_neg hne, if_neg hlt, ih]

theorem State.l2?_putL2 (x : L2Line) : (s.putL2 p l x).l2? p l = some x := by
  rw [State.l2?, State.putL2, State.modPod_get]
  exact kvGet?_kvPut_self ..

theorem State.dropL2_frame (s : State) (p : Fin 8) (l : Nat) :
    s.dropL2 p l = { s with pod := (s.dropL2 p l).pod, acore := (s.dropL1 p l).acore } := by
  simp only [State.dropL2, State.dropL1, State.modPod]

theorem State.dropL2_pod (s : State) (p : Fin 8) (l : Nat) :
    (s.dropL2 p l).pod = vmod s.pod p fun q => { q with lines := kvDel l q.lines } := by
  simp only [State.dropL2, State.dropL1, State.modPod]

theorem State.dropL2_acore (s : State) (p : Fin 8) (l : Nat) : (s.dropL2 p l).acore = (s.dropL1 p l).acore := by
  simp only [State.dropL2, State.modPod]

/-- An upset of an L1 copy changes the A-cores alone. -/
theorem State.strike_frame (s : State) (ev : ArrayEvent) : s.strike ev = { s with acore := (s.strike ev).acore } := by
  cases ev
  all_goals rfl

end

/-! ## Evictions (R194, R211, R217) -/

section
variable {s : State} {p : Fin 8} {a : PA} {l : Nat} {dirty : Bool} {x : L2Line} {b : EvBuf}

/-- The command of an eviction. -/
def evCmd (p : Fin 8) (a : PA) (dirty : Bool) (ph : EvPhase) : Instr := if dirty then .evDirty p a ph else .evClean p a ph

theorem exec_evCmd (s : State) (ph : EvPhase) : exec (evCmd p a dirty ph) s = .next (s.evict p (a.toNat / 64) dirty ph) := by
  cases dirty
  all_goals rfl

theorem L2St.dirty_iff (st : L2St) : L2St.dirty st = true ↔ st = .m ∨ st = .o := by
  cases st
  all_goals decide

/-- A line leaves its L2, and the L1s above it, into an eviction buffer. -/
def State.evicted (s : State) (p : Fin 8) (l : Nat) (dirty : Bool) (x : L2Line) : State :=
  (s.dropL2 p l).modPod p fun q => { q with ev := q.ev ++ [⟨l, dirty, x.data, x.poison, x.type, false, false, false⟩] }

theorem State.evict_leave (hx : s.l2? p l = some x) (hdirty : dirty = true ↔ x.st = .m ∨ x.st = .o)
    (hroom : (s.pod.get p).ev.length < 16) : s.evict p l dirty .leave = s.evicted p l dirty x := by
  rw [← L2St.dirty_iff, ← Bool.eq_iff_iff] at hdirty
  simp only [State.evict, hx]
  exact if_pos ⟨hdirty.symm, hroom⟩

theorem State.evict_leave_none (h : (s.pod.get p).ev.length ≥ 16 ∨ s.l2? p l = none) : s.evict p l dirty .leave = s := by
  simp only [State.evict]
  split
  next x hx =>
    have hfull := h.resolve_right (by simp [hx])
    exact if_neg fun ⟨_, hroom⟩ => absurd hroom (Nat.not_lt.mpr hfull)
  next => rfl

theorem State.evicted_pod : (s.evicted p l dirty x).pod = vset s.pod p { s.pod.get p with
    lines := kvDel l (s.pod.get p).lines
    ev := (s.pod.get p).ev ++ [⟨l, dirty, x.data, x.poison, x.type, false, false, false⟩] } := by
  rw [State.evicted, State.modPod, State.dropL2_pod]
  simp only [vmod, vset_get, vset_vset]

theorem State.evicted_acore : (s.evicted p l dirty x).acore = (s.dropL1 p l).acore := by
  simp only [State.evicted, State.modPod_else, State.dropL2_acore]

theorem State.evicted_frame : s.evicted p l dirty x =
    { s with pod := (s.evicted p l dirty x).pod, acore := (s.evicted p l dirty x).acore } := by
  unfold State.evicted
  rw [State.dropL2_frame]
  rfl

/-- The notice of an eviction has reached the home of its line. -/
def EvBuf.arrive (l : Nat) (b : EvBuf) : EvBuf := if b.line = l then { b with arrived := true } else b

/-- The home has served and acknowledged the eviction of its line. -/
def EvBuf.serve (l : Nat) (b : EvBuf) : EvBuf := if b.line = l then { b with arrived := true, acked := true } else b

theorem EvBuf.serve_arrive (l : Nat) (b : EvBuf) : (b.arrive l).serve l = b.serve l := by
  unfold EvBuf.arrive
  split
  next h => simp [EvBuf.serve, h]
  next => rfl

/-- Whether an eviction buffer holds a line whose home has not acknowledged it. -/
def EvBuf.unserved (l : Nat) (b : EvBuf) : Bool := b.line == l && !b.acked

theorem EvBuf.unserved_arrive (l : Nat) (b : EvBuf) : (b.arrive l).unserved l = b.unserved l := by
  unfold EvBuf.arrive
  split
  all_goals rfl

theorem EvBuf.arrive_dirty (l : Nat) (b : EvBuf) : (b.arrive l).dirty = b.dirty := by
  unfold EvBuf.arrive
  split
  all_goals rfl

/-- A pod's notice reaches the home with n bytes of data. -/
def State.noticed (s : State) (p : Fin 8) (l n : Nat) : State :=
  (s.send (stopPod p) 1 n).modPod p fun q => { q with ev := q.ev.map (EvBuf.arrive l) }

theorem State.evArrive_idle (hb : s.evBuf? p l = some b) (hnew : b.arrived = false) (hidle : s.headTxn l = none) :
    s.evArrive p l = (s.noticed p l (if b.dirty then 64 else 0)).serveEvict p l := by
  have hidle' : (s.noticed p l (if b.dirty then 64 else 0)).headTxn l = none := hidle
  unfold State.evArrive
  rw [hb]
  dsimp only
  rw [if_neg (by simp [hnew])]
  split
  next => rfl
  next t ht => exact absurd (hidle'.symm.trans ht) (by simp)

theorem State.serveEvict_clean (hb : (s.pod.get p).ev.find? (EvBuf.unserved l) = some b) (hclean : b.dirty = false) :
    s.serveEvict p l = (s.setFilt l p none).modPod p fun q => { q with ev := q.ev.map (EvBuf.serve l) } := by
  unfold EvBuf.unserved at hb
  simp only [State.serveEvict, hb, hclean, Bool.false_and, Bool.false_eq_true, if_false]
  rfl

/-- The state after the notice of a clean eviction of a line for which nothing is in progress. -/
def State.evictServed (s : State) (p : Fin 8) (l : Nat) : State :=
  ((s.noticed p l 0).setFilt l p none).modPod p fun q => { q with ev := q.ev.map (EvBuf.serve l) }

theorem State.evict_arrive_clean (hb : s.evBuf? p l = some b) (hclean : b.dirty = false) (hnew : b.arrived = false)
    (hidle : s.headTxn l = none) : s.evict p l false .arrive = s.evictServed p l := by
  have harrives : s.evict p l false .arrive = s.evArrive p l := if_pos (by simp [hb, hclean])
  have hfind : ((s.noticed p l 0).pod.get p).ev.find? (EvBuf.unserved l) = some (b.arrive l) := by
    have hsame : EvBuf.unserved l ∘ EvBuf.arrive l = EvBuf.unserved l := funext (EvBuf.unserved_arrive l)
    have hb' : (s.pod.get p).ev.find? (EvBuf.unserved l) = some b := hb
    rw [State.noticed, State.modPod_get, List.find?_map, hsame]
    exact congrArg (Option.map (EvBuf.arrive l)) hb'
  rw [harrives, State.evArrive_idle hb hnew hidle, hclean, if_neg Bool.false_ne_true,
    State.serveEvict_clean hfind ((b.arrive_dirty l).trans hclean)]
  rfl

theorem State.evict_arrive_none (h : s.evBuf? p l = none) : s.evict p l dirty .arrive = s := if_neg (by simp [h])

theorem State.evictServed_home : (s.evictServed p l).home = (s.setFilt l p none).home := by
  simp only [State.evictServed, State.noticed, State.setFilt, State.modHome, State.modPod, State.send]

theorem State.evictServed_pod : (s.evictServed p l).pod =
    vset s.pod p { s.pod.get p with ev := (s.pod.get p).ev.map (EvBuf.serve l) } := by
  have hserve : EvBuf.serve l ∘ EvBuf.arrive l = EvBuf.serve l := funext (EvBuf.serve_arrive l)
  simp only [State.evictServed, State.noticed, State.setFilt, State.modHome, State.modPod, State.send, vmod, vset_get, vset_vset,
    List.map_map, hserve]

theorem State.evictServed_frame : s.evictServed p l =
    { s with pod := (s.evictServed p l).pod, home := (s.evictServed p l).home, sent := (s.evictServed p l).sent } := by
  simp only [State.evictServed, State.noticed, State.setFilt, State.modHome, State.modPod, State.send]

end

/-! ## Snoops (R214, R219, Table 6.5) -/

section
variable {s : State} {p : Fin 8} {a : PA} {l : Nat} {k : SnoopKind} {m : SnoopMsg} {x : L2Line}

/-- The command of a snoop. -/
def snoopCmd (p : Fin 8) (a : PA) (k : SnoopKind) : Instr :=
  match k with
  | .share => .snShare p a
  | .take => .snTake p a
  | .peek => .snPeek p a

theorem exec_snoopCmd (s : State) : exec (snoopCmd p a k) s = .next (s.deliverSnoop p (a.toNat / 64) k) := by
  cases k
  all_goals rfl

/-- Whether a message is the snoop of a kind for a line at a pod. -/
def SnoopMsg.is (l : Nat) (p : Fin 8) (k : SnoopKind) (m : SnoopMsg) : Bool := m.line == l && m.pod == p && m.kind == k

theorem SnoopMsg.is_iff : m.is l p k = true ↔ m = ⟨l, p, k, m.tc0⟩ := by
  obtain ⟨line, pod, kind, tc0⟩ := m
  simp [SnoopMsg.is, and_assoc]

theorem State.deliverSnoop_none (h : (s.home.get (homeIdx l)).snoops.find? (SnoopMsg.is l p k) = none) : s.deliverSnoop p l k = s := by
  unfold SnoopMsg.is at h
  simp only [State.deliverSnoop, h]

/-- A snoop that no TC0 snoop may pass is served. -/
theorem State.deliverSnoop_some (h : (s.home.get (homeIdx l)).snoops.find? (SnoopMsg.is l p k) = some m)
    (hfirst : m.tc0 = true ∨ s.tc0Snoops p = []) : s.deliverSnoop p l k = s.serveSnoop ⟨l, p, k, m.tc0⟩ := by
  have hm := SnoopMsg.is_iff.mp (List.find?_some h)
  unfold SnoopMsg.is at h
  simp only [State.deliverSnoop, h]
  rw [← hm]
  obtain htc0 | hnone := hfirst
  · exact if_pos htc0
  · rw [hnone, List.foldl_nil, ite_self]

/-- What a snoop leaves of an L2 that holds its line in a state. -/
def State.snoopLeaves (s : State) (p : Fin 8) (l : Nat) (k : SnoopKind) (x : L2Line) : State :=
  match k, x.st with
  | .take, _ => s.dropL2 p l
  | .share, .m => s.putL2 p l { x with st := .o }
  | .share, .e => s.putL2 p l { x with st := .s }
  | _, _ => s

/-- The answer of an L2 that holds the line (Table 6.5). -/
def snoopAnswerOf (k : SnoopKind) (x : L2Line) : Answer :=
  if x.st = .s ∨ (k = .take ∧ x.st = .e) then .ack else .data x.data x.poison x.way

theorem State.snoopAt_held (hx : s.l2? p l = some x) (hbank : s.fatalBank (bankPod p) = false) :
    s.snoopAt p l k = (s.snoopLeaves p l k x, snoopAnswerOf k x) := by
  unfold State.snoopAt State.snoopLeaves snoopAnswerOf
  simp only [hx, hbank, Bool.or_false]
  cases k
  all_goals
    cases x.st
    all_goals rfl

/-- The eviction buffers of a line note that its snoop crossed them. -/
def State.crossing (s : State) (p : Fin 8) (l : Nat) : State :=
  s.modPod p fun q => { q with ev := q.ev.map fun b => if b.line = l then { b with crossed := true } else b }

theorem State.crossing_get : (s.crossing p l).pod.get p =
    { s.pod.get p with ev := (s.pod.get p).ev.map fun b => if b.line = l then { b with crossed := true } else b } := vmod_get _ _ _

theorem State.crossing_get_ne {q : Fin 8} (hq : q ≠ p) : (s.crossing p l).pod.get q = s.pod.get q := vmod_get_ne _ _ hq

theorem State.crossing_acore : (s.crossing p l).acore = s.acore := rfl

theorem State.snoopAt_gone (hx : s.l2? p l = none) : s.snoopAt p l k =
    if (s.evBuf? p l).isSome then (s.crossing p l, .notHeld true) else (s, .notHeld false) := by
  simp only [State.snoopAt, hx]
  cases s.evBuf? p l
  all_goals rfl

theorem State.snoopLeaves_acore (h : k ≠ .take) : (s.snoopLeaves p l k x).acore = s.acore := by
  unfold State.snoopLeaves
  split
  case h_1 => exact absurd rfl h
  all_goals rfl

theorem State.snoopLeaves_core {c : Fin 32} (h : podOf c ≠ p ∨ k ≠ .take) :
    (s.snoopLeaves p l k x).acore.get c = s.acore.get c := by
  by_cases hk : k = .take
  · subst hk
    exact (congrArg (Vector.get · c) (State.dropL2_acore s p l)).trans
      ((State.dropL1_get s p l c).trans (if_neg (h.resolve_right (not_not.mpr rfl))))
  · rw [State.snoopLeaves_acore hk]

theorem State.snoopLeaves_l2 (hx : s.l2? p l = some x) (h : k ≠ .take) : (s.snoopLeaves p l k x).l2? p l =
    some { x with st := if k = .share then (if x.st = .m then .o else if x.st = .e then .s else x.st) else x.st } := by
  obtain ⟨way, st, data, poison, type⟩ := x
  cases k with
  | take => exact absurd rfl h
  | peek => exact hx
  | share =>
    cases st with
    | m => exact State.l2?_putL2 _
    | o => exact hx
    | e => exact State.l2?_putL2 _
    | s => exact hx

/-- A snoop changes its pod and, where it takes the line, the L1s. -/
theorem State.snoopLeaves_frame :
    s.snoopLeaves p l k x = { s with pod := (s.snoopLeaves p l k x).pod, acore := (s.snoopLeaves p l k x).acore } := by
  unfold State.snoopLeaves
  split
  case h_1 => rw [State.dropL2_acore, ← State.dropL2_frame]
  all_goals rfl

/-- A line that a snoop takes leaves the L2 and every L1 of the pod. -/
theorem State.taken_lacks : ((s.snoopLeaves p l .take x).pod.get p).lines = kvDel l (s.pod.get p).lines ∧
    ∀ c, podOf c = p → ((s.snoopLeaves p l .take x).acore.get c).lacks l := by
  have hleft : s.snoopLeaves p l .take x = s.dropL2 p l := rfl
  rw [hleft, State.dropL2_pod, State.dropL2_acore, vmod_get]
  exact ⟨rfl, fun c hc => State.dropL1_lacks s p c (.inl hc)⟩

theorem State.snoopLeaves_pod {q : Fin 8} (hq : q ≠ p) : (s.snoopLeaves p l k x).pod.get q = s.pod.get q := by
  unfold State.snoopLeaves
  split
  case h_1 => rw [State.dropL2_pod, vmod_get_ne _ _ hq]
  case h_4 => rfl
  all_goals exact vmod_get_ne _ _ hq

/-- Bytes of data in an answer. -/
def Answer.bytes (ans : Answer) : Nat := match ans with | .data _ _ _ => 64 | _ => 0

/-- The answer is on its way to the home, and the copies of its snoop are gone. -/
def State.snoopServed (z : State) (m : SnoopMsg) (ans : Answer) : State :=
  (z.send (stopPod m.pod) (if m.tc0 then 0 else 1) ans.bytes).modHome (homeIdx m.line) fun y => { y with
    snoops := y.snoops.filter fun n => !(n.line == m.line && n.pod == m.pod && n.kind == m.kind)
    answers := y.answers ++ [⟨m.line, m.pod, ans, if m.tc0 then 0 else 1⟩] }

section
variable {z : State} {ans : Answer}

theorem State.serveSnoop_eq (h : s.snoopAt m.pod m.line m.kind = (z, ans)) : s.serveSnoop m = z.snoopServed m ans := by
  simp only [State.serveSnoop, h]
  cases ans
  all_goals rfl

theorem State.snoopServed_home (hz : z = { s with pod := z.pod, acore := z.acore }) : (z.snoopServed m ans).home =
    vset s.home (homeIdx m.line) { s.home.get (homeIdx m.line) with
      snoops := (s.home.get (homeIdx m.line)).snoops.filter fun n => !(n.line == m.line && n.pod == m.pod && n.kind == m.kind)
      answers := (s.home.get (homeIdx m.line)).answers ++ [⟨m.line, m.pod, ans, if m.tc0 then 0 else 1⟩] } := by
  generalize z.pod = pods, z.acore = cores at hz
  subst hz
  rfl

theorem State.snoopServed_pod : (z.snoopServed m ans).pod = z.pod := by
  simp only [State.snoopServed, State.modHome, State.send]

theorem State.snoopServed_acore : (z.snoopServed m ans).acore = z.acore := by
  simp only [State.snoopServed, State.modHome, State.send]

theorem State.snoopServed_l2? {q : Fin 8} {n : Nat} : (z.snoopServed m ans).l2? q n = z.l2? q n := by
  rw [State.l2?, State.snoopServed_pod, State.l2?]

/-- What the service of a snoop changes: its pod, the L1s, and the messages at the home. -/
theorem State.snoopServed_frame (hz : z = { s with pod := z.pod, acore := z.acore }) : z.snoopServed m ans =
    { s with pod := z.pod, home := (z.snoopServed m ans).home, acore := z.acore, sent := (z.snoopServed m ans).sent } := by
  generalize z.pod = pods, z.acore = cores at hz
  subst hz
  rfl

/-- A snoop whose answer is known, and that no TC0 snoop may pass. -/
theorem completes_snoop (h : (s.home.get (homeIdx (a.toNat / 64))).snoops.find? (SnoopMsg.is (a.toNat / 64) p k) = some m)
    (hfirst : m.tc0 = true ∨ s.tc0Snoops p = []) (hans : s.snoopAt p (a.toNat / 64) k = (z, ans)) :
    completes (snoopCmd p a k) s (· = z.snoopServed ⟨a.toNat / 64, p, k, m.tc0⟩ ans) :=
  ⟨_, exec_snoopCmd s, (State.deliverSnoop_some h hfirst).trans (State.serveSnoop_eq hans)⟩

end

end

/-! ## Answers (R214 to R218) -/

section
variable {s : State} {p : Fin 8} {a : PA} {l : Nat} {ev : ArrayEvent} {b : AnswerMsg} {x : Txn}

/-- Whether a message is the answer of a pod for a line. -/
def AnswerMsg.is (l : Nat) (p : Fin 8) (b : AnswerMsg) : Bool := b.line == l && b.pod == p

theorem AnswerMsg.is_iff : b.is l p = true ↔ b.line = l ∧ b.pod = p := by
  simp [AnswerMsg.is]

/-- The home has received the first answer of a pod for a line, and what its array read met has upset an L1 copy. -/
def State.answerTaken (s : State) (p : Fin 8) (l : Nat) (ev : ArrayEvent) : State :=
  (s.modHome (homeIdx l) fun y => { y with
    answers := removeFirst (fun b => b.line == l && b.pod == p) (s.home.get (homeIdx l)).answers }).strike ev

theorem State.answerTaken_headTxn : (s.answerTaken p l ev).headTxn l = s.headTxn l := by
  rw [State.answerTaken, State.strike_frame, State.headTxn, State.txnsOf]
  dsimp only
  rw [State.modHome_get]
  rfl

theorem State.answerTaken_l2? : (s.answerTaken p l ev).l2? p l = s.l2? p l := by
  rw [State.answerTaken, State.strike_frame]
  rfl

theorem exec_snoopAnswer_none (h : ∀ b ∈ (s.home.get (homeIdx (a.toNat / 64))).answers, ¬ (b.line = a.toNat / 64 ∧ b.pod = p)) :
    exec (.snoopAnswer p a ev) s = .next s := by
  have hexec : exec (.snoopAnswer p a ev) s = execSnoopAnswer p a ev s := rfl
  have hfind : (s.home.get (homeIdx (a.toNat / 64))).answers.find? (fun b => b.line == a.toNat / 64 && b.pod == p) = none :=
    List.find?_eq_none.mpr fun b hb => by simpa using h b hb
  rw [hexec, execSnoopAnswer]
  simp only [hfind]

/-- What the home does with an answer that a transaction awaits and that neither met an event in the array nor crossed an eviction. -/
def State.uses (v : State) (b : AnswerMsg) (x : Txn) : State :=
  match b.ans with
  | .ack => (v.syncFilt b.line b.pod).answered x b.pod none
  | .data d po _ => (v.syncFilt b.line b.pod).answered x b.pod (some (d, po))
  | .notHeld _ => ((v.setFilt b.line b.pod none).record (bankSlice (homeIdx b.line)) 0x21 (homeIdx b.line).val b.pod.val
      (b.line * 64) 0).answered { x with force := true } b.pod none

/-- An answer that a transaction awaits is used, but for one whose data met an event in the array, or that crossed an eviction. -/
theorem State.answer_awaited {u : State} (hx : (u.strike ev).headTxn b.line = some x) (hphase : x.phase = .snoop)
    (hmem : b.pod ∈ x.awaiting) (hplain : b.ans = .ack ∨ b.ans = .notHeld false ∨ (ev = .good ∧ ∃ d po w, b.ans = .data d po w)) :
    u.answer b ev = (u.strike ev).uses b x := by
  obtain ⟨line, pod, ans, tc⟩ := b
  unfold State.answer State.uses
  simp only [hx, hphase, hmem, and_self, if_true]
  obtain rfl | rfl | ⟨rfl, d, po, w, rfl⟩ := hplain
  all_goals rfl

theorem completes_snoopAnswer (hfind : (s.home.get (homeIdx (a.toNat / 64))).answers.find?
      (fun b => b.line == a.toNat / 64 && b.pod == p) = some b)
    (hx : s.headTxn (a.toNat / 64) = some x) (hphase : x.phase = .snoop) (hmem : p ∈ x.awaiting)
    (hplain : b.ans = .ack ∨ b.ans = .notHeld false ∨ (ev = .good ∧ ∃ d po w, b.ans = .data d po w)) :
    completes (.snoopAnswer p a ev) s (· = (s.answerTaken p (a.toNat / 64) ev).uses ⟨a.toNat / 64, p, b.ans, b.tc⟩ x) := by
  have hexec : exec (.snoopAnswer p a ev) s = execSnoopAnswer p a ev s := rfl
  obtain ⟨line, pod, ans, tc⟩ := b
  obtain ⟨rfl, rfl⟩ := AnswerMsg.is_iff.mp (List.find?_some hfind)
  refine ⟨_, hexec, ?_⟩
  simp only [hfind]
  exact State.answer_awaited (State.answerTaken_headTxn.trans hx) hphase hmem hplain

/-- A transaction that awaits further answers takes note of this one. -/
theorem State.answered_waits {got : Option (Line × Bool)} (h : ∃ q ∈ x.awaiting, q ≠ p) : s.answered x p got =
    s.putTxn { x with awaiting := x.awaiting.filter (· ≠ p), got := got.or x.got } := by
  obtain ⟨q, hq, hne⟩ := h
  have hmore : (x.awaiting.filter (· ≠ p)).isEmpty = false := by
    rw [List.isEmpty_eq_false_iff_exists_mem]
    exact ⟨q, List.mem_filter.mpr ⟨hq, by simpa using hne⟩⟩
  unfold State.answered
  simp only [hmore, Bool.not_false, if_true]
  cases got
  all_goals rfl

/-- A transaction that met a disagreement completes poisoned once it awaits nothing (R218). -/
theorem State.answered_forced (y : Txn) (hy : y = { x with force := true, awaiting := x.awaiting.filter (· ≠ p) }) :
    s.answered { x with force := true } p none = if y.awaiting = [] then (s.putTxn y).poisonTxn y else s.putTxn y := by
  subst hy
  unfold State.answered
  dsimp only
  cases x.awaiting.filter (· ≠ p)
  all_goals rfl

variable {ans : Answer} {tc : Nat}

theorem State.uses_ack (hans : ans = .ack) (hmore : ∃ q ∈ x.awaiting, q ≠ p) :
    (s.answerTaken p l ev).uses ⟨l, p, ans, tc⟩ x =
      ((s.answerTaken p l ev).setFilt l p ((s.l2? p l).map (·.st))).putTxn { x with awaiting := x.awaiting.filter (· ≠ p) } := by
  subst hans
  rw [State.uses]
  dsimp only
  rw [State.syncFilt, State.answerTaken_l2?]
  exact State.answered_waits hmore

theorem State.uses_data {d : Line} {po : Bool} {w : Nat} (hans : ans = .data d po w) (hmore : ∃ q ∈ x.awaiting, q ≠ p) :
    (s.answerTaken p l ev).uses ⟨l, p, ans, tc⟩ x = ((s.answerTaken p l ev).setFilt l p ((s.l2? p l).map (·.st))).putTxn
      { x with awaiting := x.awaiting.filter (· ≠ p), got := some (d, po) } := by
  subst hans
  rw [State.uses]
  dsimp only
  rw [State.syncFilt, State.answerTaken_l2?]
  exact State.answered_waits hmore

theorem State.uses_notHeld {c : Bool} (hans : ans = .notHeld c) :
    let y := { x with force := true, awaiting := x.awaiting.filter (· ≠ p) }
    let z := (((s.answerTaken p l ev).setFilt l p none).record (bankSlice (homeIdx l)) 0x21 (homeIdx l).val p.val (l * 64) 0).putTxn y
    (s.answerTaken p l ev).uses ⟨l, p, ans, tc⟩ x = if y.awaiting = [] then z.poisonTxn y else z := by
  subst hans
  exact State.answered_forced _ rfl

end

/-! ## Snoop timeouts (R221) -/

section
variable {s : State} {p : Fin 8} {a : PA} {x : Txn}

theorem exec_snoopTimeout_idle (h : ∀ x, s.headTxn (a.toNat / 64) = some x → x.phase ≠ .snoop) :
    exec (.snoopTimeout a) s = .next s := by
  have hexec : exec (.snoopTimeout a) s = execSnoopTimeout a s := rfl
  rw [hexec, execSnoopTimeout]
  dsimp only
  split
  next => rfl
  next x hx => exact congrArg Host.Outcome.next (if_neg (h x hx))

/-- The stop of the requester of a transaction. -/
def Txn.asker (x : Txn) : Nat :=
  match x.from_ with
  | .pod q => stopPod q
  | .master m => stopOf m

/-- A silent pod leaves the filter, its stop is suspect, and the timeout is recorded. -/
def State.silenced (s : State) (l asker : Nat) (p : Fin 8) : State :=
  let v := s.setFilt l p none
  let w := v.setE 0x4100 2 (v.ev 0x4100 2 ||| 2 ^ stopPod p)
  (w.modHome (homeIdx l) fun y => { y with lateAns := y.lateAns ++ [(l, p.val)] }).record (bankSlice (homeIdx l)) 0x12 asker
    (stopPod p) (l * 64) 0

theorem completes_snoopTimeout (hx : s.headTxn (a.toNat / 64) = some x) (hphase : x.phase = .snoop) (hone : x.awaiting = [p]) :
    completes (.snoopTimeout a) s (· = (s.silenced (a.toNat / 64) x.asker p).poisonTxn { x with awaiting := [] }) := by
  have hexec : exec (.snoopTimeout a) s = execSnoopTimeout a s := rfl
  refine ⟨_, hexec, ?_⟩
  simp only [hx, hphase, hone, if_true]
  rfl

end

/-! ## The cleaning of ways, SUSPECT and the grace time (R221, R223, R509) -/

section
variable {s : State} {q : Req} {key n : Nat}

/-- An admitted write of a VOL entry takes effect at once. -/
theorem State.serveEntWrite_vol {a : Asker} {w : WVal} {r : EntRow} {x : DVal} (hrow : catRow key = some r) (hpers : r.pers = .vol)
    (htyped : typed r.ty w = some x) (hok : (s.writeStatus a key w).1 = 0) : s.serveEntWrite a key w = s.applyVol a key x := by
  have hval : (s.writeStatus a key w).2 = x := by
    unfold State.writeStatus
    rw [hrow]
    simp [htyped]
  unfold State.serveEntWrite
  rw [← hval]
  simp [hok, hrow, hpers]

/-- A number of 32 bits is carried by each path as an entry of its width takes it. -/
theorem typed_reqVal_u32 {r : EntRow} (hrow : catRow key = some r) (hty : r.ty = .u32) (hn : n < 4294967296) :
    typed .u32 (reqVal q key n) = some (.num n) := by
  cases hq : isWindow q
  · have hval : reqVal q key n = .bytes (toBytes 4 n) := by
      simp [reqVal, hq, hrow, hty, DTy.size, hn]
    have hback : ofBytes (toBytes 4 n) = n := by
      simp only [toBytes, ofBytes, BitVec.toNat_ofNat]
      omega
    have htyped : typed .u32 (.bytes (toBytes 4 n)) = some (.num (ofBytes (toBytes 4 n))) := by
      simp [typed, toBytes_length, DTy.size]
    rw [hval, htyped, hback]
  · have hword : (word n).toNat = n := by
      rw [word, BitVec.toNat_ofNat]
      omega
    have hmod : n % 2 ^ DTy.u32.width = n := Nat.mod_eq_of_lt hn
    rw [reqVal, hq, if_pos rfl]
    simp only [typed, hword, hmod]
    refine if_pos ⟨rfl, ?_⟩
    simp [windowWord, DTy.isSigned, hmod]

/-- The row of CLEAN_WAYS, and that of SUSPECT_CLEAR (Table 6.9). -/
theorem catRow_cleanWays : catRow (ek 0x4100 4) = some ⟨0x4100, 1, 0x4, 1, 1, 1, .u16, .wo, .vol, 0x0, .any, .pub⟩ := by decide

theorem catRow_suspectClear : catRow (ek 0x4100 3) = some ⟨0x4100, 1, 0x3, 1, 1, 1, .u32, .wo, .vol, 0x0, .any, .pub⟩ := by decide

/-- A write that has its effect at once, and is then complete. -/
theorem State.applyVol_done {a : Asker} {v : DVal} {t : State} (hlow : key / 256 < 0x6000)
    (happly : s.applyLow a (key / 256) (key % 256) v.num' = some (t, true)) : s.applyVol a key v = t.complete a 0 := by
  have hkey : key ≠ ek 0x6201 1 := by
    rintro rfl
    exact absurd hlow (by decide)
  simp only [State.applyVol, if_neg hkey, if_pos hlow, happly]

theorem State.applyLow_cleanWays {a : Asker} :
    s.applyLow a 0x4100 4 n = some ((s.setE 0x4100 4 n).setE 0x4100 5 1, true) := by
  simp [State.applyLow]

theorem State.applyLow_suspectClear {a : Asker} :
    s.applyLow a 0x4100 3 n = some (s.setE 0x4100 2 (s.ev 0x4100 2 &&& (2 ^ 32 - 1 - n)), true) := by
  simp [State.applyLow]

theorem completes_cleanWays {n : BitVec 16} (h : s.asked q (ek 0x4100 4) n.toNat = some 0) : completes (.cleanWays q n) s fun t =>
    t = ((((s.begun q (ek 0x4100 4)).setE 0x4100 4 n.toNat).setE 0x4100 5 1).complete ⟨q, none⟩ 0) := by
  obtain ⟨hserved, hok⟩ := State.reqWrite_asked h
  have htyped := typed_reqVal_u16 (q := q) catRow_cleanWays rfl n.isLt
  rw [State.serveEntWrite_vol catRow_cleanWays rfl htyped hok,
    State.applyVol_done (by decide) State.applyLow_cleanWays] at hserved
  exact ⟨_, rfl, hserved⟩

theorem completes_suspectClear {n : BitVec 32} (h : s.asked q (ek 0x4100 3) n.toNat = some 0) : completes (.suspectClear q n) s fun t =>
    let v := s.begun q (ek 0x4100 3)
    t = (v.setE 0x4100 2 (v.ev 0x4100 2 &&& (2 ^ 32 - 1 - n.toNat))).complete ⟨q, none⟩ 0 := by
  obtain ⟨hserved, hok⟩ := State.reqWrite_asked h
  have htyped := typed_reqVal_u32 (q := q) catRow_suspectClear rfl n.isLt
  rw [State.serveEntWrite_vol catRow_suspectClear rfl htyped hok,
    State.applyVol_done (by decide) State.applyLow_suspectClear] at hserved
  exact ⟨_, rfl, hserved⟩

/-- The dirty lines of the SLC in the ways of a mask. -/
def State.dirtyIn (s : State) (mask : Nat) : List Nat :=
  (allFin 16).flatMap fun h => ((s.home.get h).slc.filter fun e => e.2.dirty && bit mask e.2.way).map (·.1)

theorem State.dirtyIn_nil {mask : Nat} (h : ∀ h, ∀ e ∈ (s.home.get h).slc, e.2.dirty = true → mask.testBit e.2.way = false) :
    s.dirtyIn mask = [] := by
  refine List.flatMap_eq_nil_iff.mpr fun i _ => List.map_eq_nil_iff.mpr (List.filter_eq_nil_iff.mpr fun e he hbad => ?_)
  obtain ⟨hdirty, hway⟩ := Bool.and_eq_true_iff.mp hbad
  exact Bool.false_ne_true ((h i e he hdirty).symm.trans hway)

/-- The end of a cleaning in a state whose requests are not waiting. -/
def State.cleaned (s : State) : State :=
  if s.ev 0x4100 5 = 0 then s
  else (((s.dirtyIn (s.ev 0x4100 4)).foldl (fun s l => s.dcc l 3) s).setE 0x4100 5 0).setE 0x4100 4 0

theorem exec_cleanWaysDone (s : State) : exec .cleanWaysDone s = .next (s.served State.cleaned) := rfl

theorem completes_cleanWaysDone (h : s.ev 0x4100 5 ≠ 0)
    (hclean : ∀ h, ∀ e ∈ (s.home.get h).slc, e.2.dirty = true → (s.ev 0x4100 4).testBit e.2.way = false) :
    completes .cleanWaysDone s (· = (s.setE 0x4100 5 0).setE 0x4100 4 0) := by
  refine ⟨_, exec_cleanWaysDone s, State.served_eq ?_ rfl⟩
  have hnil : State.dirtyIn { s with held := false } (s.ev 0x4100 4) = [] := State.dirtyIn_nil hclean
  refine (if_neg h).trans ?_
  exact congrArg (fun l => ((l.foldl (fun s l => State.dcc s l 3) { s with held := false }).setE 0x4100 5 0).setE 0x4100 4 0) hnil

theorem exec_fatalGraceExpiry_none (h : s.hazel.graceAt = none) : exec .fatalGraceExpiry s = .next s :=
  congrArg Host.Outcome.next (if_neg (by simp [h]))

theorem completes_fatalGraceExpiry (h : s.hazel.graceAt ≠ none) : completes .fatalGraceExpiry s (· = s.systemReset s.hazel.resetCode) :=
  ⟨_, rfl, if_pos (Option.isSome_iff_ne_none.mpr h)⟩

end

/-- Settles O41, command by command; a snoop and an answer by what `snoopLeaves` and `uses` say of them. -/
theorem snoopsAndEvictions : Obligations.SnoopsAndEvictions := by
  refine ⟨fun s p a dirty => ?_, fun s p a k => ?_, fun s p a ev => ?_,
    fun s a => ⟨exec_snoopTimeout_idle, fun x p => completes_snoopTimeout⟩, fun s q n => completes_cleanWays, fun s q n => completes_suspectClear,
    fun s => ⟨fun h => exec_of_served_idle (exec_cleanWaysDone s) (if_pos h), completes_cleanWaysDone, exec_fatalGraceExpiry_none,
      completes_fatalGraceExpiry⟩⟩
  · intro l cmd
    refine ⟨fun x hx hdirty hroom => ⟨_, exec_evCmd s .leave, ?_⟩, fun h => ?_, fun b hb hdirty hnew hidle hclean => ?_,
      fun h => ?_, _, rfl, rfl⟩
    · rw [State.evict_leave hx hdirty hroom]
      refine ⟨State.evicted_pod, State.evicted_frame, fun c => ?_⟩
      rw [State.evicted_acore]
      exact State.dropL1_get s p l c
    · exact (exec_evCmd s .leave).trans (congrArg _ (State.evict_leave_none h))
    · subst hclean
      refine ⟨_, exec_evCmd s .arrive, ?_⟩
      rw [State.evict_arrive_clean hb hdirty hnew hidle]
      exact ⟨State.evictServed_frame, State.evictServed_home, State.evictServed_pod⟩
    · exact (exec_evCmd s .arrive).trans (congrArg _ (State.evict_arrive_none h))
  · intro l h cmd find
    refine ⟨fun hnone => (exec_snoopCmd s).trans (congrArg _ (State.deliverSnoop_none hnone)), fun m hsome hfirst hbank => ?_⟩
    cases hx : s.l2? p l with
    | none =>
      by_cases hev : (s.evBuf? p l).isSome = true
      · obtain ⟨t, hexec, rfl⟩ := completes_snoop hsome hfirst ((State.snoopAt_gone hx).trans (if_pos hev))
        refine ⟨_, hexec, .notHeld true, State.snoopServed_home rfl, State.snoopServed_frame rfl, ?_⟩
        simp only [State.snoopServed_pod, State.snoopServed_acore, State.crossing_get, State.crossing_acore, if_pos hev,
          implies_true, and_true]
        exact fun q hq => State.crossing_get_ne hq
      · obtain ⟨t, hexec, rfl⟩ := completes_snoop hsome hfirst ((State.snoopAt_gone hx).trans (if_neg hev))
        refine ⟨_, hexec, .notHeld false, State.snoopServed_home rfl, State.snoopServed_frame rfl, ?_⟩
        simp only [State.snoopServed_pod, State.snoopServed_acore, if_neg hev, implies_true, and_self]
    | some x =>
      obtain ⟨t, hexec, rfl⟩ := completes_snoop hsome hfirst (State.snoopAt_held hx hbank)
      refine ⟨_, hexec, snoopAnswerOf k x, State.snoopServed_home State.snoopLeaves_frame,
        State.snoopServed_frame State.snoopLeaves_frame, ?_⟩
      simp only [State.snoopServed_pod, State.snoopServed_acore, State.snoopServed_l2?]
      refine ⟨fun q => State.snoopLeaves_pod, fun c => State.snoopLeaves_core, rfl, ?_⟩
      split
      next hk =>
        subst hk
        exact State.taken_lacks
      next hk => exact State.snoopLeaves_l2 hx hk
  · intro l h rest v
    refine ⟨exec_snoopAnswer_none, fun b x hfind hx hphase hmem =>
      ⟨fun hmore => ⟨fun hans => ?_, fun d po w hans hev => ?_⟩, fun hans => ?_⟩⟩
    · obtain ⟨t, hexec, rfl⟩ := completes_snoopAnswer hfind hx hphase hmem (.inl hans)
      exact ⟨_, hexec, State.uses_ack hans hmore⟩
    · obtain ⟨t, hexec, rfl⟩ := completes_snoopAnswer hfind hx hphase hmem (.inr (.inr ⟨hev, d, po, w, hans⟩))
      exact ⟨_, hexec, State.uses_data hans hmore⟩
    · obtain ⟨t, hexec, rfl⟩ := completes_snoopAnswer hfind hx hphase hmem (.inr (.inl hans))
      exact ⟨_, hexec, State.uses_notHeld hans⟩

end Sys2Proof.Machine
end

section
/-! The queue of an HBM controller and its slots, and what a line reads as (R240, R248, R249). -/
namespace Sys2Proof.Machine

/-! ## The order of a queue (R240) -/

section
variable {s v : State} {p : Fin 64} {x : PseudoChannel} {c : HbmCmd} {el : List (Nat × Nat)} {k t : Nat}

/-- A command that may be issued next has no older one to its line, and its line waits for no correction. -/
theorem State.mem_eligible (h : (k, t) ∈ s.eligible x) : ∃ c, x.q[k]? = some c ∧
    (∀ j d, j < k → x.q[j]? = some d → d.line ≠ c.line) ∧ c.line ∉ x.corr ∧ c.line ∉ x.verify := by
  obtain ⟨⟨c, i⟩, hc, hsome⟩ := List.mem_filterMap.mp h
  obtain ⟨hold, hfree, rfl, -⟩ : _ ∧ _ ∧ i = k ∧ _ := by
    simpa only [Option.ite_none_left_eq_some, Option.some.injEq, Prod.mk.injEq] using hsome
  refine ⟨c, List.mem_zipIdx_iff_getElem?.mp hc, fun j d hj hd hline => hold ?_, ?_⟩
  · have hmem : (d, j) ∈ x.q.zipIdx.take i := List.mem_iff_getElem?.mpr ⟨j, by simp [hj, hd]⟩
    exact List.any_eq_true.mpr ⟨_, hmem, by simp [hline]⟩
  · simpa using hfree

/-- A slot serves a class of which a command waits. -/
theorem slotClass_waits (h : slotClass x el = some t) : ∃ e ∈ el, e.2 = t := by
  have hany : el.any (fun e => e.2 == t) = true := by
    unfold slotClass at h
    dsimp only at h
    split at h
    next h3 => cases h; exact h3.1
    next =>
      split at h
      next h0 => cases h; exact h0
      next =>
        split at h
        next h1 => cases h; exact h1
        next =>
          split at h
          next h2 => cases h; exact h2
          next =>
            split at h
            next h3 => cases h; exact h3
            next => cases h
  simpa using hany

theorem oneOf_mem {n : Nat} {l : List Nat} (h : l ≠ []) : oneOf n l ∈ l := by
  unfold oneOf
  split
  next => exact List.mem_singleton_self _
  next =>
    have hlt : n % l.length < l.length := Nat.mod_lt _ (List.length_pos_iff.mpr h)
    rw [List.getD_eq_getElem _ _ hlt]
    exact List.getElem_mem hlt

/-- The command that a controller issues next is one that may be, and it leaves the queue; nothing else changes but the counters of
the slots. -/
theorem State.nextCmd_some (h : s.nextCmd p = some (c, v)) : ∃ k t y,
    (k, t) ∈ s.eligible (s.pc.get p) ∧ (s.pc.get p).q[k]? = some c ∧ y.q = (s.pc.get p).q.eraseIdx k ∧ v = { s with fresh := s.fresh + 1, pc := vset s.pc p y } := by
  unfold State.nextCmd at h
  dsimp only at h
  split at h
  next => cases h
  next t hclass =>
    split at h
    next => cases h
    next c' hget =>
      cases h
      obtain ⟨e, he, rfl⟩ := slotClass_waits hclass
      have hcand : ((s.eligible (s.pc.get p)).filter (·.2 == e.2)).map (·.1) ≠ [] :=
        List.ne_nil_of_mem (List.mem_map_of_mem (List.mem_filter.mpr ⟨he, beq_self_eq_true e.2⟩))
      obtain ⟨⟨k, t⟩, hmem, hpick⟩ := List.mem_map.mp (oneOf_mem (n := Config.freeNat s.fresh) hcand)
      obtain ⟨hel, -⟩ := List.mem_filter.mp hmem
      rw [← hpick] at hget ⊢
      exact ⟨k, t, _, hel, hget, rfl, rfl⟩

/-- What the order of a queue gives of the command that is issued next. -/
theorem State.nextCmd_order (h : s.nextCmd p = some (c, v)) :
    (∃ k, (s.pc.get p).q[k]? = some c ∧ (∀ j d, j < k → (s.pc.get p).q[j]? = some d → d.line ≠ c.line) ∧
      (v.pc.get p).q = (s.pc.get p).q.eraseIdx k) ∧
    c.line ∉ (s.pc.get p).corr ∧ c.line ∉ (s.pc.get p).verify ∧
    v = { s with fresh := s.fresh + 1, pc := vset s.pc p (v.pc.get p) } := by
  obtain ⟨k, t, y, hel, hget, hq, rfl⟩ := State.nextCmd_some h
  obtain ⟨c', hget', holder, hcorr, hverify⟩ := State.mem_eligible hel
  obtain rfl : c = c' := Option.some.inj (hget.symm.trans hget')
  refine ⟨⟨k, hget, holder, ?_⟩, hcorr, hverify, ?_⟩ <;> simp only [vset_get]
  exact hq

end

/-! ## Slots of the controller's own commands (R240) -/

section
variable {s z : State} {p : Fin 64}

/-- A pseudo-channel whose controller has had a slot for a command of its own. -/
def PseudoChannel.ownTurn (x : PseudoChannel) : PseudoChannel := { x with slot8 := (x.slot8 + 1) % 8, slot64 := 0 }

theorem State.ownSlot_eq : s.ownSlot p =
    if s.serving p = true ∧ slotClass (s.pc.get p) (s.eligible (s.pc.get p) ++ [((s.pc.get p).q.length, 3)]) = some 3 then
      some (s.modPc p PseudoChannel.ownTurn) else none := by
  simp only [State.ownSlot, Bool.and_eq_true, beq_iff_eq]
  rfl

theorem State.ownSlot_some (h : s.ownSlot p = some z) : s.serving p = true ∧ z = s.modPc p PseudoChannel.ownTurn := by
  rw [State.ownSlot_eq] at h
  obtain ⟨⟨hserving, -⟩, hz⟩ := Option.ite_none_right_eq_some.mp h
  exact ⟨hserving, (Option.some.inj hz).symm⟩

theorem State.ownSlot_out (h : s.serving p = false) : s.ownSlot p = none := by
  rw [State.ownSlot_eq]
  exact if_neg fun ⟨hserving, _⟩ => Bool.false_ne_true (h.symm.trans hserving)

/-- Where no command waits, the slot is the controller's. -/
theorem State.ownSlot_empty (h : s.serving p = true) (hq : (s.pc.get p).q = []) : s.ownSlot p ≠ none := by
  have hel : s.eligible (s.pc.get p) = [] := by simp [State.eligible, hq]
  have hclass : ∀ (x : PseudoChannel) n, slotClass x [(n, 3)] = some 3 := fun x n => by simp [slotClass]
  rw [State.ownSlot_eq, hel, List.nil_append, if_pos ⟨h, hclass _ _⟩]
  exact Option.some_ne_none _

end

/-! ## Lines (R248, R249) -/

section
variable {s : State} {line : Nat}

theorem mem_setPut {n : Nat} {b : Bool} {l : List Nat} : n ∈ setPut n b l ↔ b = true := by
  cases b
  · simp [mem_setPut_false]
  · simp [setPut, mem_setIns]

/-- A line that is written has its 64 bytes, and no other byte is changed. -/
theorem State.storeLine_effect (hs : s.canon) (d : Line) (po : Bool) :
    let t := s.storeLine line d po
    (∀ j, j < 64 → Memory.get t.mem (line * 64 + j) = BitVec.ofNat 8 (d.toNat / 2 ^ (8 * j))) ∧
    (∀ a, a / 64 ≠ line → Memory.get t.mem a = Memory.get s.mem a) ∧ (line ∈ t.poison ↔ po = true) ∧
    t.hbm.errs = kvDel line s.hbm.errs := by
  obtain ⟨hmem, -⟩ := hs
  have hlen : (lineBytesOf d).length = 64 := toBytes_length 64 d.toNat
  refine ⟨fun j hj => ?_, fun a ha => ?_, mem_setPut, rfl⟩
  · rw [← toBytes_getD d.toNat hj, List.getD_eq_getElem _ 0 (by rwa [toBytes_length])]
    exact Memory.get_write_in hmem (hlen.symm ▸ hj)
  · refine Memory.get_write_out hmem ?_
    rw [hlen]
    omega

theorem rsClassify_clean : rsClassify [] = .clean := by decide

theorem rsClassify_poison : rsClassify rsPoison = .poisoned := by decide

theorem State.readErrs_nil (h : kvGet? s.hbm.errs line = none) : s.readErrs line [] none = [] := by
  simp [State.readErrs, h]

/-- A word without errors is clean, or in poison form. -/
theorem rsClassify_errless (po : Bool) :
    rsClassify ((if po then rsPoison else []) ++ []) = if po then .poisoned else .clean := by
  cases po
  · exact rsClassify_clean
  · exact rsClassify_poison

theorem State.classify_stored (h : kvGet? s.hbm.errs line = none) :
    rsClassify ((if s.storedPoison line then rsPoison else []) ++ s.readErrs line [] none) =
      if s.storedPoison line then .poisoned else .clean := by
  rw [State.readErrs_nil h, rsClassify_errless]

/-- A read of a line without errors returns what is stored, and changes nothing. -/
theorem State.hbmRead_stored (h : kvGet? s.hbm.errs line = none) (n : Nat) :
    s.hbmRead line [] .none n none = (s, s.stored line, s.storedPoison line) := by
  unfold State.hbmRead
  simp only [State.readErrs_nil h, List.isEmpty_nil, Bool.true_or, if_true, Option.getD_none]
  have hpo : ∀ u : State, u.poison = s.poison → u.storedPoison line = s.storedPoison line := fun u hu =>
    congrArg (List.contains · line) hu
  rw [hpo _ rfl, rsClassify_errless]
  cases s.storedPoison line <;> rfl

end

/-! ## HBM_COMMAND (R240) -/

section
variable {s : State} {p : Fin 64} {m : ReadMeets} {wrong : Option PA}

theorem exec_hbmCommand (s : State) : exec (.hbmCommand p m wrong) s =
    .next (s.hbmServe p m.errs m.sev (wrong.map fun (a : PA) => a.toNat / 64)) := rfl

theorem exec_hbmCommand_idle (h : s.serving p = false ∨ s.nextCmd p = none) : exec (.hbmCommand p m wrong) s = .next s := by
  rw [exec_hbmCommand, State.hbmServe]
  obtain h | h := h
  · rw [if_neg (Bool.not_eq_true _ ▸ h)]
  · rw [h, ite_self]

variable {c : HbmCmd} {v z : State} {d : Line} {po : Bool}

theorem completes_hbmCommand_write (h : s.nextCmd p = some (c, v)) (hserving : s.serving p = true) (hw : c.write = true) :
    completes (.hbmCommand p m wrong) s (· = v.storeLine c.line c.data c.poison) :=
  ⟨_, exec_hbmCommand s, by rw [State.hbmServe, if_pos hserving, h]; exact if_pos hw⟩

theorem completes_hbmCommand_read (h : s.nextCmd p = some (c, v)) (hserving : s.serving p = true) (hw : c.write = false)
    (hread : v.hbmRead c.line m.errs m.sev 0 (wrong.map fun (a : PA) => a.toNat / 64) = (z, d, po)) :
    completes (.hbmCommand p m wrong) s (· = z.hbmData c.line d po) :=
  ⟨_, exec_hbmCommand s, by rw [State.hbmServe, if_pos hserving, h]; simp [hw, hread]⟩

end

end Sys2Proof.Machine
end

section
/-! What an HBM controller does besides the commands of its queue: correction, refresh, scrub and the repair of rows (R241, R250 to
R255). -/
namespace Sys2Proof.Machine

/-! ## Corrections (R250, R252) -/

section
variable {s z : State} {p : Fin 64} {m : ReadMeets} {line : Nat} {r : List Nat} {sev : Severity}

theorem exec_writeback_idle (h : (s.pc.get p).corr = [] ∨ s.ownSlot p = none) : exec (.hbmCorrectionWriteback p) s = .next s := by
  refine congrArg Host.Outcome.next ?_
  obtain h | h := h
  · exact if_pos (List.isEmpty_iff.mpr h)
  · rw [h, ite_self]

theorem completes_writeback (h : (s.pc.get p).corr = line :: r) (hz : s.ownSlot p = some z) :
    completes (.hbmCorrectionWriteback p) s fun t =>
      t = { z.modPc p fun x => { x with corr := r, verify := x.verify ++ [line] } with
        hbm := { s.hbm with errs := kvDel line s.hbm.errs } } := by
  refine ⟨_, rfl, ?_⟩
  obtain ⟨-, rfl⟩ := State.ownSlot_some hz
  simp [h, hz, State.writeBack, PseudoChannel.ownTurn]

theorem exec_verifyRead_idle (h : (s.pc.get p).verify = [] ∨ s.ownSlot p = none) : exec (.hbmVerifyRead p m) s = .next s := by
  refine congrArg Host.Outcome.next ?_
  obtain h | h := h
  · exact if_pos (List.isEmpty_iff.mpr h)
  · rw [h, ite_self]

/-- A verify read that meets no error counts a transient, and the severity where one is reported. -/
theorem State.verifyRead_clean (h : (s.pc.get p).verify = line :: r) (herr : kvGet? s.hbm.errs line = none) :
    s.verifyRead p [] sev =
      let v := s.modPc p fun x => { x with verify := r }
      (if sev = .none then v else v.addE 0x4004 (1 + p.val) 32 1).addE 0x4002 (1 + p.val) 32 1 := by
  have hclass := fun f => State.classify_stored (s := s.modPc p f) herr
  unfold State.verifyRead
  rw [h]
  dsimp only
  rw [hclass]
  cases State.storedPoison _ line <;> rfl

theorem completes_verifyRead (h : (s.pc.get p).verify = line :: r) (hz : s.ownSlot p = some z) (herr : kvGet? s.hbm.errs line = none) :
    completes (.hbmVerifyRead p ⟨[], sev⟩) s fun t =>
      let v := z.modPc p fun x => { x with verify := r }
      t = (if sev = .none then v else v.addE 0x4004 (1 + p.val) 32 1).addE 0x4002 (1 + p.val) 32 1 := by
  refine ⟨_, rfl, ?_⟩
  rw [h, hz, if_neg (by simp)]
  obtain ⟨-, rfl⟩ := State.ownSlot_some hz
  exact State.verifyRead_clean (by simpa [PseudoChannel.ownTurn] using h) herr

end

/-! ## Refresh (R241) -/

section
variable {s : State} {p : Fin 64} {sid : Fin 3} {bank : Fin 16} {cmd : Instr} {f : PseudoChannel → PseudoChannel}

theorem State.tc0Waits_iff : s.tc0Waits p sid.val bank.val = true ↔
    ∃ c ∈ (s.pc.get p).q, c.tc = 0 ∧ (s.place c.line).sid = sid.val ∧ (s.place c.line).bank = bank.val := by
  simp [State.tc0Waits, and_assoc]

variable (h : (cmd = .hbmRefresh p sid bank ∧ f = fun x => { x with refreshes := x.refreshes + 1 }) ∨
  (cmd = .hbmRfm p sid bank ∧ f = fun x => { x with rfms := x.rfms + 1 }))
include h

/-- A refresh or RFM command. -/
theorem exec_refresh (s : State) :
    exec cmd s = .next (if (s.mayRefresh p sid.val bank.val).2 then (s.mayRefresh p sid.val bank.val).1.modPc p f
      else (s.mayRefresh p sid.val bank.val).1) := by
  obtain ⟨rfl, rfl⟩ | ⟨rfl, rfl⟩ := h <;> rfl

theorem completes_refresh :
    if ∃ c ∈ (s.pc.get p).q, c.tc = 0 ∧ (s.place c.line).sid = sid.val ∧ (s.place c.line).bank = bank.val then
      completes cmd s fun t => t = { s with fresh := s.fresh + 1 } ∨ t = State.modPc { s with fresh := s.fresh + 1 } p f
    else completes cmd s fun t => t = s.modPc p f := by
  have hexec := exec_refresh h s
  split
  next hwaits =>
    rw [State.mayRefresh, if_pos (State.tc0Waits_iff.mpr hwaits)] at hexec
    refine ⟨_, hexec, ?_⟩
    split
    · exact .inr rfl
    · exact .inl rfl
  next hfree =>
    rw [State.mayRefresh, if_neg (mt State.tc0Waits_iff.mp hfree)] at hexec
    exact ⟨_, hexec, rfl⟩

end

/-! ## The patrol (R253) -/

section
variable {s z : State} {p : Fin 64} {m : ReadMeets} {line : Nat}

theorem exec_patrol_idle (hline : line = s.scrubLine p.val ((s.pc.get p).scrub % 0xC00000 * 64))
    (h : line ∈ (s.pc.get p).corr ∨ line ∈ (s.pc.get p).verify ∨ s.ownSlot p = none) : exec (.patrolScrubRead p m) s = .next s := by
  subst hline
  refine congrArg Host.Outcome.next ?_
  obtain h | h | h := h
  · exact if_pos (by simp [pcLines, h])
  · exact if_pos (by simp [pcLines, h])
  · simp only [h, ite_self]

theorem completes_patrol (hline : line = s.scrubLine p.val ((s.pc.get p).scrub % 0xC00000 * 64)) (hz : s.ownSlot p = some z)
    (hcorr : line ∉ (s.pc.get p).corr) (hverify : line ∉ (s.pc.get p).verify) (herr : kvGet? s.hbm.errs line = none) :
    completes (.patrolScrubRead p ⟨[], .none⟩) s fun t => t = z.modPc p fun x => { x with scrub := x.scrub + 1 } := by
  subst hline
  refine ⟨_, rfl, ?_⟩
  rw [if_neg (by simp [pcLines, hcorr, hverify]), hz]
  obtain ⟨-, rfl⟩ := State.ownSlot_some hz
  dsimp only
  split
  next => rfl
  next => exact congrArg Prod.fst (State.hbmRead_stored (by exact herr) 1)

end

/-! ## Rows (R254, R255) -/

section
variable {s : State} {p : Fin 64} {r : Nat} {rest : List Nat}

theorem exec_rowRepair_idle {b : Bool} (h : (s.pc.get p).repair = []) : exec (.rowRepair p b) s = .next s :=
  congrArg Host.Outcome.next (by rw [h])

/-- The address that a repair's record names. -/
def rowAddr (p : Fin 64) (row : Nat) : Nat :=
  unlocate p.val (bits row 7 6 * 2 ^ 28 + bits row 25 12 * 2 ^ 14 + (bits row 11 8 ^^^ bits row 15 12) * 2 ^ 10)

/-- The bank and the row in a row's key (Table 17.8). -/
theorem bits_bank (row : Nat) : bits row 11 8 = row / 2 ^ 8 % 16 := bits_eq_div_mod row 11 8

theorem bits_row (row : Nat) : bits row 25 12 = row / 2 ^ 12 % 2 ^ 14 := bits_eq_div_mod row 25 12

theorem completes_rowRepair (h : (s.pc.get p).repair = r :: rest) :
    let row := r % 2 ^ 26
    let reason := if r.testBit 26 then 0x11 else 0x06
    let v := (s.modPc p fun x => { x with repair := rest, hard := kvDel row x.hard }).addE 0x4003 (1 + p.val) 16 1
    completes (.rowRepair p true) s (fun t => ∃ addr z, z = { v with hbm := { v.hbm with
        errs := v.hbm.errs.filter fun e => !((v.place e.1).p == p.val && (v.place e.1).rowKey == row) } } ∧
      t = (z.record (bankHbm p) 0x06 p.val (row / 2 ^ 8 % 16) addr (row / 2 ^ 12 % 2 ^ 14)).retireEntry 0x05 reason (p.val + row)) ∧
    completes (.rowRepair p false) s fun t =>
      let z := (v.modPc p fun x => { x with unrepairable := x.unrepairable + 1 }).retireEntry 0x06 reason (p.val + row)
      t = if z.ev 0x4000 0x13 ≤ (z.pc.get p).unrepairable then z.pcFail p reason (z.dmOpsOn p) else z := by
  refine ⟨⟨_, rfl, ?_⟩, ⟨_, rfl, ?_⟩⟩ <;> rw [h]
  · refine ⟨rowAddr p (r % 2 ^ 26), _, rfl, ?_⟩
    rw [← bits_bank, ← bits_row]
    rfl
  · rfl

end

end Sys2Proof.Machine
end

section
/-! The migration of a pseudo-channel, chunk by chunk (R256, R258). -/
namespace Sys2Proof.Machine

section
variable {s : State} {p host : Fin 64} {r : Retirement} {m : Move} {a b : List Move}

theorem State.modPc_pc (s : State) (p : Fin 64) (f : PseudoChannel → PseudoChannel) (j : Fin 64) :
    (s.modPc p f).pc.get j = if j = p then f (s.pc.get j) else s.pc.get j := by
  split
  next h => exact h ▸ State.modPc_get s p f
  next h => exact vmod_get_ne _ _ h

theorem exec_migration_idle (h : ∀ r ∈ s.hbm.ret, r.pc = p.val → ∀ m ∈ r.moves, m.done = true) :
    exec (.migrationChunkDone p) s = .next s := by
  have hnone : (s.hbm.ret.find? fun r => r.pc == p.val && r.moves.any (!·.done)) = none :=
    List.find?_eq_none.mpr fun r hr => by
      simpa using h r hr
  exact congrArg Host.Outcome.next (by rw [hnone])

theorem markFirst_append (ha : ∀ x ∈ a, x.done = true) (hm : m.done = false) :
    markFirst (a ++ m :: b) = a ++ { m with done := true } :: b := by
  induction a with
  | nil => simp [markFirst, hm]
  | cons x a ih =>
    obtain ⟨hx, ha⟩ := List.forall_mem_cons.mp ha
    simp [markFirst, hx, ih ha]

theorem State.copyErrs_nil (h : s.hbm.errs = []) (src chunk : Nat) : s.copyErrs src chunk = s := by
  simp [State.copyErrs, h]

/-- The pseudo-channel that serves a chunk before it is migrated. -/
def State.servesChunk (s : State) (src chunk : Nat) : Fin 64 := s.pcOf (unlocate src (chunk * 0x1800000) / 64)

/-- A pseudo-channel without what waits there for lines of a chunk. -/
def PseudoChannel.without (src chunk : Nat) (x : PseudoChannel) : PseudoChannel := { x with
  q := x.q.filter fun c => !inChunk src chunk c.line
  corr := x.corr.filter fun l => !inChunk src chunk l
  verify := x.verify.filter fun l => !inChunk src chunk l }

/-- A pseudo-channel with what waits at another for lines of a chunk, behind what waits here. -/
def PseudoChannel.takesOver (src chunk : Nat) (x o : PseudoChannel) : PseudoChannel := { x with
  q := x.q ++ o.q.filter fun c => inChunk src chunk c.line
  corr := x.corr ++ o.corr.filter (inChunk src chunk)
  verify := x.verify ++ o.verify.filter (inChunk src chunk) }

theorem State.moveQueue_eq (src chunk : Nat) : s.moveQueue src chunk host =
    (s.modPc (s.servesChunk src chunk) (·.without src chunk)).modPc host
      (·.takesOver src chunk (s.pc.get (s.servesChunk src chunk))) := rfl

/-- What waits for lines of a chunk follows it to another host. -/
theorem State.moveQueue_pc_of_ne {src chunk : Nat} (h : s.servesChunk src chunk ≠ host) (j : Fin 64) :
    (s.moveQueue src chunk host).pc.get j =
      if j = s.servesChunk src chunk then (s.pc.get (s.servesChunk src chunk)).without src chunk
      else if j = host then (s.pc.get j).takesOver src chunk (s.pc.get (s.servesChunk src chunk)) else s.pc.get j := by
  rw [State.moveQueue_eq, State.modPc_pc, State.modPc_pc]
  by_cases hj : j = s.servesChunk src chunk
  · rw [if_pos hj, if_pos hj, if_neg (hj ▸ h), hj]
  · rw [if_neg hj, if_neg hj]

/-- A move of what waits changes nothing else of a pseudo-channel. -/
theorem State.moveQueue_pc (src chunk : Nat) (j : Fin 64) : ∃ q corr verify, (s.moveQueue src chunk host).pc.get j =
    { s.pc.get j with q := q, corr := corr, verify := verify } := by
  rw [State.moveQueue_eq, State.modPc_pc, State.modPc_pc]
  split <;> split <;> exact ⟨_, _, _, rfl⟩

/-- The host of a chunk from the moment it serves it. -/
def PseudoChannel.hosts (x : PseudoChannel) : PseudoChannel := if x.st = .normal then { x with st := .hosting } else x

/-- The state in which a chunk has been switched to its host. -/
def State.switched (s : State) (host : Fin 64) (r : Retirement) (m : Move) (a b : List Move) : State :=
  State.modPc { s.moveQueue m.src m.chunk host with
    hbm := { s.hbm with ret := [{ r with moves := a ++ { m with done := true } :: b }] } } host PseudoChannel.hosts

/-- That state; after the last move the pseudo-channel is retired in it. -/
def State.migrated (s : State) (p host : Fin 64) (r : Retirement) (m : Move) (a b : List Move) : State :=
  if ∀ x ∈ b, x.done = true then (s.switched host r m a b).modPc p fun x => { x with st := .retired } else s.switched host r m a b

theorem exec_migration (hret : s.hbm.ret = [r]) (hpc : r.pc = p.val) (hmoves : r.moves = a ++ m :: b) (ha : ∀ x ∈ a, x.done = true)
    (hm : m.done = false) (herrs : s.hbm.errs = []) : exec (.migrationChunkDone p) s = .next (s.migrated p (fin 63 m.host) r m a b) := by
  have hopen : r.moves.find? (!·.done) = some m :=
    List.find?_eq_some_iff_append.mpr ⟨by simp [hm], a, b, hmoves, fun x hx => by simp [ha x hx]⟩
  have hfind : (s.hbm.ret.find? fun r => r.pc == p.val && r.moves.any (!·.done)) = some r := by
    rw [hret]
    exact List.find?_cons_of_pos (by simp [hpc, hmoves, hm])
  have hall : ((a ++ { m with done := true } :: b).all (·.done)) = true ↔ ∀ x ∈ b, x.done = true := by
    simpa using fun _ => ha
  have hret' : (s.moveQueue m.src m.chunk (fin 63 m.host)).hbm.ret = [r] := hret
  refine congrArg Host.Outcome.next ?_
  rw [hfind]
  dsimp only
  rw [hopen]
  dsimp only
  rw [State.copyErrs_nil herrs, hmoves, markFirst_append ha hm, hret', List.map_cons, List.map_nil, if_pos hpc, State.migrated]
  simp only [hall]
  rfl

/-- What a switched chunk changes: its move, the states of its host and, after the last move, of the retired pseudo-channel, and where
commands wait. -/
theorem State.migrated_frame : s.migrated p host r m a b = { s with
    hbm := { s.hbm with ret := [{ r with moves := a ++ { m with done := true } :: b }] }, pc := (s.migrated p host r m a b).pc } := by
  unfold State.migrated
  split <;> rfl

theorem State.switched_pc (j : Fin 64) : (s.switched host r m a b).pc.get j = { (s.moveQueue m.src m.chunk host).pc.get j with
    st := if j = host ∧ (s.pc.get j).st = .normal then .hosting else (s.pc.get j).st } := by
  have hst : ((s.moveQueue m.src m.chunk host).pc.get j).st = (s.pc.get j).st := by
    obtain ⟨q, corr, verify, hmoved⟩ := State.moveQueue_pc (s := s) (host := host) m.src m.chunk j
    rw [hmoved]
  rw [State.switched, State.modPc_pc, ← hst]
  by_cases hj : j = host
  · rw [if_pos hj, PseudoChannel.hosts]
    simp only [hj, true_and]
    split <;> rfl
  · simp only [hj, false_and, if_false]

/-- A pseudo-channel after a chunk has been switched to a host other than the one that is retired. -/
theorem State.migrated_pc (hne : host ≠ p) (j : Fin 64) : (s.migrated p host r m a b).pc.get j =
    { (s.moveQueue m.src m.chunk host).pc.get j with
      st := if j = p then (if ∀ x ∈ b, x.done = true then .retired else (s.pc.get p).st)
        else if j = host ∧ (s.pc.get j).st = .normal then .hosting else (s.pc.get j).st } := by
  unfold State.migrated
  by_cases hdone : ∀ x ∈ b, x.done = true
  · simp only [if_pos hdone, State.modPc_pc, State.switched_pc]
    split <;> rfl
  · simp only [if_neg hdone, State.switched_pc]
    by_cases hj : j = p
    · simp only [hj, hne.symm, false_and, if_false, if_true]
    · simp only [hj, if_false]

theorem completes_migration (hret : s.hbm.ret = [r]) (hpc : r.pc = p.val) (hmoves : r.moves = a ++ m :: b) (hlt : m.host < 64)
    (hne : m.host ≠ p.val) (ha : ∀ x ∈ a, x.done = true) (hm : m.done = false) (herrs : s.hbm.errs = []) :
    completes (.migrationChunkDone p) s fun t =>
      t.hbm = { s.hbm with ret := [{ r with moves := a ++ { m with done := true } :: b }] } ∧
      t = { s with hbm := t.hbm, pc := t.pc } ∧
      let o := s.pcOf (unlocate m.src (m.chunk * 0x1800000) / 64)
      let moved (l : Nat) : Bool := inChunk m.src m.chunk l
      (∀ j : Fin 64, t.pc.get j = { s.pc.get j with
        q := (t.pc.get j).q, corr := (t.pc.get j).corr, verify := (t.pc.get j).verify,
        st := if j = p then (if ∀ x ∈ b, x.done = true then .retired else (s.pc.get p).st)
          else if j.val = m.host ∧ (s.pc.get j).st = .normal then .hosting else (s.pc.get j).st }) ∧
      (o.val ≠ m.host → ∀ j : Fin 64,
        (t.pc.get j).q = (if j = o then (s.pc.get o).q.filter fun c => !moved c.line
          else if j.val = m.host then (s.pc.get j).q ++ (s.pc.get o).q.filter fun c => moved c.line else (s.pc.get j).q) ∧
        (t.pc.get j).corr = (if j = o then (s.pc.get o).corr.filter fun l => !moved l
          else if j.val = m.host then (s.pc.get j).corr ++ (s.pc.get o).corr.filter moved else (s.pc.get j).corr) ∧
        (t.pc.get j).verify = (if j = o then (s.pc.get o).verify.filter fun l => !moved l
          else if j.val = m.host then (s.pc.get j).verify ++ (s.pc.get o).verify.filter moved else (s.pc.get j).verify)) := by
  have hhost : (fin 63 m.host).val = m.host := Nat.mod_eq_of_lt hlt
  have hother : fin 63 m.host ≠ p := fun h => hne (hhost.symm.trans (congrArg Fin.val h))
  refine ⟨_, exec_migration hret hpc hmoves ha hm herrs, ?_, ?_, fun j => ?_, fun ho j => ?_⟩
  · rw [State.migrated_frame]
  · rw [State.migrated_frame]
  · obtain ⟨q, corr, verify, hmoved⟩ := State.moveQueue_pc (s := s) (host := fin 63 m.host) m.src m.chunk j
    rw [State.migrated_pc hother, hmoved]
    simp only [Fin.ext_iff (b := fin 63 m.host), hhost]
  · have hmoved := State.moveQueue_pc_of_ne (fun h => ho ((congrArg Fin.val h).trans hhost)) j
    rw [State.migrated_pc hother, hmoved]
    simp only [Fin.ext_iff (b := fin 63 m.host), hhost, State.servesChunk]
    split
    · exact ⟨rfl, rfl, rfl⟩
    · split <;> exact ⟨rfl, rfl, rfl⟩

end

end Sys2Proof.Machine
end

section
/-! Retraining, training and the fill of the HBM (R255 to R261, R496), and the statement on the commands of its controllers. -/
namespace Sys2Proof.Machine

/-! ## Retraining (R255, R261) -/

section
variable {s : State} {p : Fin 64} {b : Bool}

theorem exec_retraining_idle (h : (s.pc.get p).retraining = true) : exec (.hbmRetraining p) s = .next s :=
  congrArg Host.Outcome.next (if_pos h)

/-- More than 16 commands met parity errors. -/
theorem completes_retraining (h : (s.pc.get p).retraining = false) : completes (.hbmRetraining p) s fun t => ∃ n, 16 < n ∧
    t = (State.modPc { s with fresh := s.fresh + 1 } p fun x => { x with retraining := true }).record (bankHbm p) 0x05 p.val 0 0 n :=
  ⟨_, rfl, 17 + Config.freeNat s.fresh, by omega, if_neg (by simp [h])⟩

theorem exec_retrainingDone_idle (h : (s.pc.get p).retraining = false) : exec (.hbmRetrainingDone p b) s = .next s :=
  congrArg Host.Outcome.next (if_neg (by simp [h]))

theorem completes_retrainingDone (h : (s.pc.get p).retraining = true) : completes (.hbmRetrainingDone p b) s fun t =>
    let v := s.modPc p fun x => { x with retraining := false, retrained := true }
    t = if b then v.pcFail p 0x05 (v.dmOpsOn p) else v :=
  ⟨_, rfl, if_pos h⟩

end

/-! ## A failed pseudo-channel leaves training and Hazel alone (R255 to R257) -/

/-- `t` has the training states and the Hazel of `s`. -/
def State.trainsAs (s t : State) : Prop := t.hbm.train = s.hbm.train ∧ t.hazel = s.hazel

section
variable {s t u : State}

theorem State.trainsAs.trans (h : s.trainsAs t) (h' : t.trainsAs u) : s.trainsAs u := by
  obtain ⟨ht, hz⟩ := h
  obtain ⟨ht', hz'⟩ := h'
  exact ⟨ht'.trans ht, hz'.trans hz⟩

/-- What follows a change of other fields. -/
theorem State.trainsAs.after (h : t.trainsAs u) (ht : t.hbm.train = s.hbm.train) (hz : t.hazel = s.hazel) : s.trainsAs u :=
  State.trainsAs.trans ⟨ht, hz⟩ h

theorem State.record_trainsAs (s : State) (b : Fin 49) (code unit unit2 addr info : Nat) :
    s.trainsAs (s.record b code unit unit2 addr info) := by
  rw [State.record_frame]
  exact ⟨rfl, rfl⟩

theorem State.retireEntry_trainsAs (s : State) (kind reason id : Nat) : s.trainsAs (s.retireEntry kind reason id) := by
  unfold State.retireEntry
  dsimp only
  split <;> exact (State.record_trainsAs _ _ _ _ _ _ _).after rfl rfl

theorem State.foldl_trainsAs {α : Type} {f : State → α → State} (hf : ∀ u x, State.trainsAs u (f u x)) (l : List α) (s : State) :
    s.trainsAs (l.foldl f s) := by
  induction l generalizing s with
  | nil => exact ⟨rfl, rfl⟩
  | cons x l ih => exact (hf s x).trans (ih (f s x))

theorem State.ledgerRecord_trainsAs (s : State) (l : List Byte) : s.trainsAs (s.ledgerRecord l) := by
  unfold State.ledgerRecord
  split
  · rw [State.addE_frame]
    exact ⟨rfl, rfl⟩
  · exact ⟨rfl, rfl⟩

theorem State.ledgerEvent_trainsAs (s : State) (bank addr tag : Nat) (ops : List LedgerOp) :
    s.trainsAs (s.ledgerEvent bank addr tag ops) := by
  unfold State.ledgerEvent State.ledgerLine
  dsimp only
  rw [State.setLine_frame]
  exact (State.foldl_trainsAs (fun u o => State.ledgerRecord_trainsAs u _) _ _).after rfl rfl

theorem State.pcFail_trainsAs (s : State) (p : Fin 64) (reason : Nat) (ops : List LedgerOp) : s.trainsAs (s.pcFail p reason ops) := by
  unfold State.pcFail
  dsimp only
  split
  next => exact ⟨rfl, rfl⟩
  next =>
    split
    next => exact ((State.retireEntry_trainsAs _ _ _ _).trans (State.ledgerEvent_trainsAs _ _ _ _ _)).after rfl rfl
    next =>
      exact (((State.retireEntry_trainsAs _ _ _ _).trans (State.record_trainsAs _ _ _ _ _ _ _)).trans
        (State.ledgerEvent_trainsAs _ _ _ _ _)).after rfl rfl

end

/-! ## Training and fill (R259, R260, R496) -/

section
variable {s : State} {k : Fin 2} {r : TrainResult}

theorem exec_trainingDone_idle (h : s.hbm.train.get k ≠ .untrained ∨ s.hazel.pllOk = false) : exec (.hbmTrainingDone k r) s = .next s :=
  congrArg Host.Outcome.next (if_pos h)

theorem State.training_open (hun : s.hbm.train.get k = .untrained) (hpll : s.hazel.pllOk = true) :
    ¬ (s.hbm.train.get k ≠ .untrained ∨ s.hazel.pllOk = false) := by
  simp [hun, hpll]

/-- Without full training armed for a seed, none is derived. -/
theorem State.seedDerived_idle {ok : Bool} (h : s.ev 0x8006 2 ≠ 4) : s.seedDerived k ok = s :=
  if_neg fun ⟨h4, _⟩ => h h4

theorem all_trained_iff {z : Vector Train 2} : z.toList.all (fun t => t != .untrained) = true ↔ ∀ j, z.get j ≠ .untrained := by
  simp only [List.all_eq_true, bne_iff_ne, Vector.mem_toList_iff, Vector.mem_iff_getElem]
  exact ⟨fun h j => h _ ⟨j.val, j.isLt, rfl⟩, fun h t ⟨i, hi, ht⟩ => ht ▸ h ⟨i, hi⟩⟩

/-- The state in which a stack's training has ended. -/
def State.withTrain (s : State) (k : Fin 2) (t : Train) : State := { s with hbm := { s.hbm with train := vset s.hbm.train k t } }

/-- The fill starts once both stacks are trained (R259). -/
theorem State.withTrain_fill (t : Train) :
    let u := s.withTrain k t
    let z := vset s.hbm.train k t
    let go := (∀ j, z.get j ≠ .untrained) ∧ s.hbm.fill = .notStarted
    (if u.hbm.train.toList.all (fun t => t != .untrained) && u.hbm.fill == .notStarted then
      { u with hbm := { u.hbm with fill := .running, fillStart := u.time } } else u) =
    { s with hbm := { s.hbm with
      train := z, fill := if go then .running else s.hbm.fill, fillStart := if go then s.time else s.hbm.fillStart } } := by
  intro u z go
  have hgo : (z.toList.all (fun t => t != .untrained) && s.hbm.fill == .notStarted) = true ↔ go := by
    rw [Bool.and_eq_true, all_trained_iff, beq_iff_eq]
  by_cases h : go
  · simp only [if_pos h]
    exact if_pos (hgo.mpr h)
  · simp only [if_neg h]
    exact if_neg (mt hgo.mp h)

theorem completes_trainingDone (hun : s.hbm.train.get k = .untrained) (hpll : s.hazel.pllOk = true) (hseed : s.ev 0x8006 2 ≠ 4)
    (hr : r ≠ .failed) : completes (.hbmTrainingDone k r) s fun t =>
      let z := vset s.hbm.train k (if r = .full then .full else .seeded)
      let go := (∀ j, z.get j ≠ .untrained) ∧ s.hbm.fill = .notStarted
      t = { s with hbm := { s.hbm with
        train := z, fill := if go then .running else s.hbm.fill, fillStart := if go then s.time else s.hbm.fillStart } } := by
  refine ⟨_, rfl, ?_⟩
  rw [if_neg (State.training_open hun hpll)]
  dsimp only
  rw [State.seedDerived_idle (by exact hseed), if_neg hr]
  cases r with
  | seeded => exact State.withTrain_fill (s := s) (k := k) .seeded
  | full => exact State.withTrain_fill (s := s) (k := k) .full
  | failed => exact absurd rfl hr

theorem completes_trainingFailed (hun : s.hbm.train.get k = .untrained) (hpll : s.hazel.pllOk = true) (hseed : s.ev 0x8006 2 ≠ 4)
    (hboot : s.hazel.booting = true) : completes (.hbmTrainingDone k .failed) s fun t => ∃ v : State,
      v.hbm.train = vset s.hbm.train k .failed ∧ t = v.bootStop 0 6 := by
  have hfold := State.foldl_trainsAs (fun u p => State.pcFail_trainsAs u p 0x24 [])
    ((allFin 64).filter fun p => p.val / 32 == k.val) (s.withTrain k .failed)
  obtain ⟨htrain, hhazel⟩ := hfold
  refine ⟨_, rfl, _, htrain, ?_⟩
  rw [if_neg (State.training_open hun hpll)]
  dsimp only
  rw [State.seedDerived_idle (by exact hseed), if_pos rfl]
  exact if_pos ((congrArg Hazel.booting hhazel).trans hboot)

theorem exec_fillDone_idle (h : s.hbm.fill ≠ .running) : exec .hbmFillDone s = .next s :=
  congrArg Host.Outcome.next (if_neg h)

theorem completes_fillDone (h : s.hbm.fill = .running) : completes .hbmFillDone s fun t =>
    t = (State.setE { s with hbm := { s.hbm with fill := .done, errs := [] } } 0x4000 5
      ((s.time - s.hbm.fillStart) / 1000 % 2 ^ 32)).stage9 :=
  ⟨_, rfl, if_pos h⟩

end

/-- Settles O42, command by command. -/
theorem hbmCommands : Obligations.HbmCommands := by
  refine ⟨fun s p m wrong => ⟨exec_hbmCommand_idle, fun c v hc => ?_⟩, fun s line d po hs => State.storeLine_effect hs d po,
    fun s line n h => State.hbmRead_stored h n, fun s p => ⟨State.ownSlot_out, State.ownSlot_empty, fun z => State.ownSlot_some⟩,
    fun s p => ⟨exec_writeback_idle, fun line r z => completes_writeback, fun m => exec_verifyRead_idle,
      fun line r z sev => completes_verifyRead, fun sid bank cmd f => completes_refresh,
      fun line hline => ⟨fun m => exec_patrol_idle hline, fun z => completes_patrol hline⟩,
      fun b => exec_rowRepair_idle, fun r rest => completes_rowRepair, exec_migration_idle, fun r a b m => completes_migration,
      exec_retraining_idle, completes_retraining, fun b => exec_retrainingDone_idle, fun b => completes_retrainingDone⟩,
    fun s k r => ⟨exec_trainingDone_idle, fun hun hpll hseed => ⟨completes_trainingDone hun hpll hseed, ?_⟩⟩,
    fun s => ⟨exec_fillDone_idle, completes_fillDone⟩⟩
  · obtain ⟨hold, hcorr, hverify, hframe⟩ := State.nextCmd_order hc
    exact ⟨hold, hcorr, hverify, hframe, completes_hbmCommand_write hc,
      fun hserving hw z d po => completes_hbmCommand_read hc hserving hw⟩
  · rintro rfl hboot
    exact completes_trainingFailed hun hpll hseed hboot

end Sys2Proof.Machine
end

section
/-! Entry of a T-core into a handler, its stop, and the interrupt that it takes at an agreed boundary (R282 to R284, R287, R288,
Table 8.7). -/
namespace Sys2Proof.Machine

/-! ## What an entry saves and sets (Table 8.7) -/

/-- A T-core after an entry whose ML field of TSTAT is `ml`. -/
def TCore.entered (c : TCore) (f : Exn) (h xpc : Word) (ds : Bool) (ml : Word) (prio : Nat) : TCore := { c with
  x := ⟨xpc, (c.tstat &&& ~~~0x200) ||| (if ds then 0x200 else 0),
    word (f.vec % 256 + f.cause % 256 * 2 ^ 8 + b2n f.wr * 2 ^ 16 + f.info % 2 ^ 16 * 2 ^ 32 + prio % 16 * 2 ^ 48), f.va⟩
  xpcc := c.pcc, xlc := c.lc, xls := c.ls, xle := c.le, tstat := ml ||| 0x100, lc := Vector.replicate 2 0, pc := h, pcc := c.tvb
  delay := none, slotClears := false, entries := c.entries + 1, cycle := c.cycle + 16 }

section
variable {c : TCore} {f : Exn} {h xpc : Word} {ds : Bool} {prio : Nat}

/-- A synchronous exception leaves ML as it is (R287). -/
theorem TCore.enter_exception (hvec : f.vec < 32) : c.enter f h xpc ds prio = c.entered f h xpc ds (c.tstat &&& 0xF0) prio := by
  rw [TCore.enter, if_neg (Nat.not_le.mpr hvec)]
  rfl

/-- An interrupt sets ML to its priority (R283). -/
theorem TCore.enter_interrupt (hvec : 32 ≤ f.vec) : c.enter f h xpc ds prio = c.entered f h xpc ds (word (prio * 16)) prio := by
  rw [TCore.enter, if_pos hvec]
  rfl

end

/-! ## The handler of a vector (R288) -/

theorem ofBytes_lt (l : List Byte) : ofBytes l < 256 ^ l.length := by
  induction l with
  | nil => exact Nat.one_pos
  | cons b r ih =>
    have hb : b.toNat < 256 := b.isLt
    rw [ofBytes, List.length_cons, Nat.pow_succ]
    omega

theorem Memory.read_length (m : List Host.Cell) (a n : Nat) : (Memory.read m a n).length = n := by
  induction n generalizing a with
  | zero => rfl
  | succ n ih => rw [Memory.read, List.length_cons, ih]

/-- Eight bytes of memory make a word without loss. -/
theorem word_toNat_read (m : List Host.Cell) (a : Nat) :
    (word (ofBytes (Memory.read m a 8))).toNat = ofBytes (Memory.read m a 8) := by
  have hlt := ofBytes_lt (Memory.read m a 8)
  rw [Memory.read_length] at hlt
  exact Nat.mod_eq_of_lt hlt

section
variable {s : State} {i k : Fin 4} {f : Exn} {h xpc : Word} {ds : Bool} {prio vec : Nat}

/-- A handler is the word that the vector's place in the ITCM holds, a multiple of 4 within a tagged TVB. -/
theorem State.tHandler_some (hh : s.tHandler i k vec = some h) :
    let t := (s.tc i k).tvb
    t.tag = true ∧ h.toNat % 4 = 0 ∧ t.base.toNat ≤ h.toNat ∧ h.toNat < t.base.toNat + t.len.toNat ∧
      h = word (ofBytes (Memory.read s.mem (tcmPa i k (t.base.toNat + 8 * vec)) 8)) := by
  intro t
  unfold State.tHandler at hh
  dsimp only [State.tLocal, localPa] at hh
  split at hh
  next hgood =>
    obtain rfl := Option.some.inj hh
    simp only [Bool.and_eq_true, decide_eq_true_eq] at hgood
    obtain ⟨⟨htag, -⟩, halign, hlow, hhigh⟩ := hgood
    rw [word_toNat_read]
    exact ⟨htag, halign, hlow, hhigh, rfl⟩
  next => exact absurd hh.symm (Option.some_ne_none h)

/-! ## Synchronous exceptions (R287, R288) -/

/-- Correcting words that are read leaves the cores alone. -/
theorem State.tEcc_tc {kind : TKind} {a n : Nat} {ev : ArrayEvent} : (s.tEcc i k kind a n ev).tc i k = s.tc i k := by
  obtain ⟨-, -, hisl, -⟩ := State.tEcc_readsAs s i k kind a n ev
  rw [State.tc, hisl, State.tc]

theorem State.modTc_congr {u v : TCore → TCore} (huv : u (s.tc i k) = v (s.tc i k)) : s.modTc i k u = s.modTc i k v := by
  rw [State.modTc_eq_const, huv, ← State.modTc_eq_const]

theorem State.tDrain_empty (hsb : (s.tc i k).sb = []) : s.tDrain i k = s := by
  have hone : s.tDrainOne i k = s := by simp only [State.tDrainOne, hsb]
  simp only [State.tDrain, hone]

/-- The address that an exception saves is the branch's, with DS, in a delay slot. -/
theorem State.tRaise_eq_tEnter (hxm : (s.tc i k).tstat.getLsbD 8 = false) (hh : s.tHandler i k f.vec = some h) :
    s.tRaise i k f = s.tEnter i k f h (((s.tc i k).delay.map (·.branch)).getD (s.tc i k).pc) (s.tc i k).delay.isSome 0 := by
  simp only [State.tRaise, hxm, hh, Bool.false_eq_true, if_false]
  cases (s.tc i k).delay <;> rfl

theorem State.tRaise_enters (hvec : f.vec < 32) (hxm : (s.tc i k).tstat.getLsbD 8 = false) (hh : s.tHandler i k f.vec = some h) :
    s.tRaise i k f = ((s.tEcc i k .itcm ((s.tc i k).tvb.base.toNat + 8 * f.vec) 8 .good).modTc i k fun c =>
      c.entered f h ((c.delay.map (·.branch)).getD c.pc) c.delay.isSome (c.tstat &&& 0xF0) 0).tDrain i k := by
  rw [State.tRaise_eq_tEnter hxm hh, State.tEnter]
  refine congrArg (State.tDrain · i k) (State.modTc_congr ?_)
  rw [State.tEcc_tc, TCore.enter_exception hvec]

/-- With XM set or without a good handler the core stops. -/
theorem State.tRaise_stops (h : (s.tc i k).tstat.getLsbD 8 = true ∨ s.tHandler i k f.vec = none) :
    s.tRaise i k f = s.tStop i k f.vec := by
  unfold State.tRaise
  dsimp only
  split
  next => rfl
  next hxm =>
    obtain hset | hnone := h
    · exact absurd hset hxm
    · rw [hnone]

/-! ## Interrupts at an agreed boundary (R282 to R284) -/

theorem State.tEnter_interrupt (hvec : 32 ≤ f.vec) :
    s.tEnter i k f h xpc ds prio = ((s.tEcc i k .itcm ((s.tc i k).tvb.base.toNat + 8 * f.vec) 8 .good).modTc i k fun c =>
      c.entered f h xpc ds (word (prio * 16)) prio).tDrain i k :=
  congrArg (State.tDrain · i k) (State.modTc_congr (TCore.enter_interrupt hvec))

/-- A boundary is due at a core that has not taken it and has retired up to it, outside a delay slot. -/
theorem State.due_some {b : Bound} (hdue : s.due i k = some b) :
    b.reached.contains k = false ∧ b.pos.toNat ≤ (s.tc i k).instret.toNat ∧ b ∈ (s.island.get i).bounds ∧
      (s.tc i k).delay = none := by
  unfold State.due at hdue
  dsimp only at hdue
  split at hdue
  next => exact absurd hdue.symm (Option.some_ne_none b)
  next hdelay =>
    split at hdue
    next b' hfind =>
      split at hdue
      next hpos =>
        obtain rfl := Option.some.inj hdue
        have hopen := List.find?_some hfind
        exact ⟨by simpa using hopen, hpos, List.mem_of_find?_eq_some hfind, by simpa using hdelay⟩
      next => exact absurd hdue.symm (Option.some_ne_none b)
    next => exact absurd hdue.symm (Option.some_ne_none b)

theorem State.tWake_awake (hrun : (s.tc i k).run ≠ .wfi) : s.tWake i k = s :=
  if_neg fun ⟨hwfi, _⟩ => hrun hwfi

theorem exec_tInterruptEntry_notDue (hrun : (s.tc i k).run ≠ .wfi) (hdue : s.due i k = none) :
    exec (.tInterruptEntry i k) s = .next s := by
  change execTInterruptEntry i k s = .next s
  simp only [execTInterruptEntry, State.tWake_awake hrun, hdue]

theorem exec_tInterruptEntry_idle (hrun : (s.tc i k).run ≠ .running) (hwfi : (s.tc i k).run ≠ .wfi) :
    exec (.tInterruptEntry i k) s = .next s := by
  cases hdue : s.due i k with
  | none => exact exec_tInterruptEntry_notDue hwfi hdue
  | some b =>
    change execTInterruptEntry i k s = .next s
    simp [execTInterruptEntry, State.tWake_awake hwfi, hdue, hrun]

/-- Priority and XM that keep a core from taking the interrupt of a boundary. -/
def TCore.masks (c : TCore) (b : Bound) : Prop := b.prio ≤ c.tstat.toNat / 16 % 16 ∨ c.tstat.getLsbD 8 = true

/-- At a due boundary an active running core is a mismatch where it masks the interrupt; else it abandons its load, and enters
where the vector has a handler or stops. -/
theorem exec_tInterruptEntry_due {b : Bound} (hrun : (s.tc i k).run = .running) (hdue : s.due i k = some b)
    (hactive : (s.island.get i).active.contains k = true) :
    let c := s.tc i k
    let r := s.boundReached i k b
    let u := r.tAbandon i k
    (c.masks b → exec (.tInterruptEntry i k) s = .next (r.coreMismatch i k 6)) ∧
    (∀ h, ¬ c.masks b → u.tHandler i k b.vec = some h →
      exec (.tInterruptEntry i k) s = .next (u.tEnter i k (exn b.vec 0 b.id 0) h c.pc false b.prio)) ∧
    (¬ c.masks b → u.tHandler i k b.vec = none → exec (.tInterruptEntry i k) s = .next (u.tStop i k b.vec)) := by
  intro c r u
  have hgoes : (!((s.island.get i).active.contains k && (s.tc i k).run == .running)) = false := by rw [hactive, hrun]; rfl
  have hmasks : (b.prio ≤ bits c.tstat.toNat 7 4 ∨ c.tstat.getLsbD 8 = true) ↔ c.masks b := by
    rw [bits_eq_div_mod]
    exact Iff.rfl
  have hexec : exec (.tInterruptEntry i k) s = execTInterruptEntry i k s := rfl
  rw [hexec, execTInterruptEntry]
  simp only [State.tWake_awake (hrun ▸ nofun : (s.tc i k).run ≠ .wfi), hdue, hgoes, Bool.false_eq_true, if_false]
  refine ⟨fun h => ?_, fun h hclear hh => ?_, fun hclear hh => ?_⟩
  · rw [if_pos (hmasks.mpr h)]
  · rw [if_neg (mt hmasks.mp hclear), hh]
  · rw [if_neg (mt hmasks.mp hclear), hh]

end

/-- Settles O43: an exception enters or stops by XM and the handler, and an interrupt by the core, the boundary and its mask. -/
theorem exceptionEntryOfTCores : Obligations.ExceptionEntryOfTCores := by
  refine ⟨fun s i k f hvec => ⟨fun h => State.tRaise_enters hvec, State.tRaise_stops, fun h => State.tHandler_some, State.tDrain_empty⟩,
    fun s i k => ⟨exec_tInterruptEntry_idle, fun hrun => exec_tInterruptEntry_notDue (hrun ▸ nofun), fun b => State.due_some,
      fun b hrun hdue hactive => ?_⟩⟩
  obtain ⟨hmasked, henters, hstops⟩ := exec_tInterruptEntry_due hrun hdue hactive
  exact ⟨fun h => ⟨_, hmasked h, rfl⟩, fun h hclear hvec hh => ⟨_, henters h hclear hh, State.tEnter_interrupt hvec⟩,
    fun hclear hh => ⟨_, hstops hclear hh, rfl⟩⟩

end Sys2Proof.Machine
end

section
/-! What stops the queues, the channels and the stores of the device leaves its husks, its power domains, a held wake event, the
training of the stacks and the voters as they are (R481): one lemma for each operation that an entry to SUSPEND or SLEEP can
reach, in the order of the definitions. -/
set_option Elab.async false
namespace Sys2Proof.Machine

/-- `s` has the husks, the power domains, the held wake event, the training states and the voter states of `u`. -/
def State.restsAs (s u : State) : Prop :=
  s.husk = u.husk ∧ s.hazel.doms = u.hazel.doms ∧ s.hazel.wakeHeld = u.hazel.wakeHeld ∧ s.hbm.train = u.hbm.train ∧
  ∀ i : Fin 4, (s.island.get i).st = (u.island.get i).st

variable {s u : State}

theorem State.restsAs_self (s : State) : s.restsAs s := ⟨rfl, rfl, rfl, rfl, fun _ => rfl⟩

/-- The predicate speaks of the husks, of Hazel, of the HBM and of the islands alone. -/
theorem restsAs_mk {pending time fresh held reply mem poison tags ecc ent entB acore tlbPend pod home pc sent safeN irq gw env
    mail dap seed dm fb ledger trans retired gpio pcieOut} (h : s.restsAs u) :
    State.restsAs ⟨pending, time, fresh, held, reply, mem, poison, tags, ecc, ent, entB, acore, tlbPend, pod, home, pc, s.hbm, sent,
      s.island, safeN, irq, s.husk, gw, env, mail, dap, seed, s.hazel, dm, fb, ledger, trans, retired, gpio, pcieOut⟩ u := h

/-- Nor of the HBM but its training. -/
theorem restsAs_hbm {pending time fresh held reply mem poison tags ecc ent entB acore tlbPend pod home pc sent safeN irq gw env
    mail dap seed dm fb ledger trans retired gpio pcieOut spare fill fillStart keptTrain ret errs} (h : s.restsAs u) :
    State.restsAs ⟨pending, time, fresh, held, reply, mem, poison, tags, ecc, ent, entB, acore, tlbPend, pod, home, pc,
      ⟨spare, fill, fillStart, s.hbm.train, keptTrain, ret, errs⟩, sent, s.island, safeN, irq, s.husk, gw, env, mail, dap, seed,
      s.hazel, dm, fb, ledger, trans, retired, gpio, pcieOut⟩ u := h

theorem foldl_restsAs {α : Type} {f : State → α → State} {l : List α} (hf : ∀ s x, s.restsAs u → (f s x).restsAs u)
    (h : s.restsAs u) : (l.foldl f s).restsAs u := by
  induction l generalizing s with
  | nil => exact h
  | cons a r ih => exact ih (hf _ _ h)

theorem foldl_restsAs_fst {α β : Type} {f : State × β → α → State × β} {l : List α} {p : State × β}
    (hf : ∀ s b x, s.restsAs u → (f (s, b) x).1.restsAs u) (h : p.1.restsAs u) : (l.foldl f p).1.restsAs u := by
  induction l generalizing p with
  | nil => exact h
  | cons a r ih => exact ih (hf p.1 p.2 a h)

/-! ## Entries, interrupt sources, fault banks and the ledger -/

theorem State.setE_restsAs {idx sub v} (h : s.restsAs u) : (s.setE idx sub v).restsAs u := h

theorem State.addE_restsAs {idx sub w k} (h : s.restsAs u) : (s.addE idx sub w k).restsAs u := by
  grind [State.addE, State.setE_restsAs, restsAs_mk]

theorem State.putSrc_restsAs {k x} (h : s.restsAs u) : (s.putSrc k x).restsAs u := h

theorem State.virtNotify_restsAs {p} (h : s.restsAs u) : (s.virtNotify p).restsAs u := by
  grind [State.virtNotify, State.putSrc_restsAs, restsAs_mk]

theorem State.setSrc_restsAs {k x} (h : s.restsAs u) : (s.setSrc k x).restsAs u := by
  grind [State.setSrc, State.putSrc_restsAs, State.virtNotify_restsAs]

theorem State.pulse_restsAs {k} (h : s.restsAs u) : (s.pulse k).restsAs u := by
  grind [State.pulse, State.setSrc_restsAs]

theorem State.setLine_restsAs {k lvl} (h : s.restsAs u) : (s.setLine k lvl).restsAs u := by
  grind [State.setLine, State.setSrc_restsAs]

theorem State.bankLine_restsAs {b} (h : s.restsAs u) : (s.bankLine b).restsAs u := by
  grind [State.bankLine, State.setLine_restsAs]

theorem State.record_restsAs {b code unit unit2 addr info} (h : s.restsAs u) :
    (s.record b code unit unit2 addr info).restsAs u := by
  grind [State.record, State.addE_restsAs, State.bankLine_restsAs, restsAs_mk]

theorem State.ledgerLine_restsAs (h : s.restsAs u) : s.ledgerLine.restsAs u := by
  grind [State.ledgerLine, State.setLine_restsAs]

theorem State.ledgerRecord_restsAs {b} (h : s.restsAs u) : (s.ledgerRecord b).restsAs u := by
  grind [State.ledgerRecord, State.addE_restsAs, restsAs_mk]

theorem State.ledgerEvent_restsAs {bank addr tag ops} (h : s.restsAs u) : (s.ledgerEvent bank addr tag ops).restsAs u := by
  grind [State.ledgerEvent, State.ledgerLine_restsAs, State.ledgerRecord_restsAs, restsAs_mk, foldl_restsAs]

/-! ## HBM -/

theorem State.modPc_restsAs {p f} (h : s.restsAs u) : (s.modPc p f).restsAs u := h

theorem State.storeLine_restsAs {line d poison} (h : s.restsAs u) : (s.storeLine line d poison).restsAs u := h

theorem State.hardError_restsAs {a} (h : s.restsAs u) : (s.hardError a).restsAs u := h

theorem State.hbmRead_restsAs {line errs sev scrub wrong} (h : s.restsAs u) :
    (s.hbmRead line errs sev scrub wrong).1.restsAs u := by
  grind (ematch := 20) [State.hbmRead, State.addE_restsAs, State.hardError_restsAs, State.record_restsAs, State.storeLine_restsAs,
    restsAs_mk, restsAs_hbm]

theorem State.enqueue_restsAs {c} (h : s.restsAs u) : (s.enqueue c).restsAs u := by
  grind [State.enqueue, State.addE_restsAs, restsAs_mk]

theorem State.hbmWrite_restsAs {line d poison tc} (h : s.restsAs u) : (s.hbmWrite line d poison tc).restsAs u := by
  grind [State.hbmWrite, State.enqueue_restsAs]

theorem State.nextCmd_restsAs {p r} (h : s.restsAs u) (e : State.nextCmd s p = some r) : r.2.restsAs u := by
  grind [State.nextCmd, restsAs_mk]

theorem State.ownSlot_restsAs {p t} (h : s.restsAs u) (e : State.ownSlot s p = some t) : t.restsAs u := by
  grind [State.ownSlot, restsAs_mk]

/-! ## Lines, pods and home agents -/

theorem State.send_restsAs {stop tc n} (h : s.restsAs u) : (s.send stop tc n).restsAs u := h

theorem State.modPod_restsAs {p f} (h : s.restsAs u) : (s.modPod p f).restsAs u := h

theorem State.modHome_restsAs {ix f} (h : s.restsAs u) : (s.modHome ix f).restsAs u := h

theorem State.putL2_restsAs {p line x} (h : s.restsAs u) : (s.putL2 p line x).restsAs u := h

theorem State.setFilt_restsAs {line p st} (h : s.restsAs u) : (s.setFilt line p st).restsAs u := h

theorem State.dropL1_restsAs {p line} (h : s.restsAs u) : (s.dropL1 p line).restsAs u := restsAs_mk h

theorem State.dropL2_restsAs {p line} (h : s.restsAs u) : (s.dropL2 p line).restsAs u := by
  grind [State.dropL2, State.modPod_restsAs, State.dropL1_restsAs]

theorem State.slcEvict_restsAs {ix line} (h : s.restsAs u) : (s.slcEvict ix line).restsAs u := by
  grind [State.slcEvict, State.modHome_restsAs, State.hbmWrite_restsAs]

theorem State.pick_restsAs {α l} (h : s.restsAs u) : (@State.pick α s l).2.restsAs u := h

theorem State.slcPut_restsAs {line cls dirty d poison} (h : s.restsAs u) : (s.slcPut line cls dirty d poison).restsAs u := by
  grind [State.slcPut, State.modHome_restsAs, State.pick_restsAs, State.slcEvict_restsAs, State.hbmWrite_restsAs]

theorem State.writeHome_restsAs {line cls tc d poison} (h : s.restsAs u) : (s.writeHome line cls tc d poison).restsAs u := by
  grind [State.writeHome, State.slcPut_restsAs, State.hbmWrite_restsAs]

theorem State.absorb_restsAs {p line d poison type} (h : s.restsAs u) : (s.absorb p line d poison type).restsAs u := by
  grind [State.absorb, State.writeHome_restsAs, State.slcPut_restsAs, State.hbmWrite_restsAs]

theorem State.evictNow_restsAs {p line} (h : s.restsAs u) : (s.evictNow p line).restsAs u := by
  grind [State.evictNow, State.setFilt_restsAs, State.dropL2_restsAs, State.absorb_restsAs]

theorem State.l2Install_restsAs {p line st d poison type} (h : s.restsAs u) :
    (s.l2Install p line st d poison type).restsAs u := by
  unfold State.l2Install
  grind [State.setFilt_restsAs, State.putL2_restsAs, State.pick_restsAs, State.evictNow_restsAs, State.absorb_restsAs]

/-! ## Transactions whose arrays meet nothing -/

theorem State.putTxn_restsAs {txn} (h : s.restsAs u) : (s.putTxn txn).restsAs u := h

theorem State.ackCrossed_restsAs {line} (h : s.restsAs u) : (s.ackCrossed line).restsAs u := h

theorem State.fillSlc_restsAs {line cls fromHbm d poison} (h : s.restsAs u) :
    (s.fillSlc line cls fromHbm d poison).restsAs u := by
  grind [State.fillSlc, State.slcPut_restsAs]

theorem State.sendReply_restsAs {txn n} (h : s.restsAs u) : (s.sendReply txn n).restsAs u := by
  grind [State.sendReply, State.send_restsAs, foldl_restsAs]

theorem State.smcPoison_restsAs {txn poison} (h : s.restsAs u) : (s.smcPoison txn poison).restsAs u := by
  grind [State.smcPoison, State.record_restsAs]

theorem State.finish_restsAs {txn d poison fromHbm force} (h : s.restsAs u) :
    (s.finish txn d poison fromHbm force).restsAs u := by
  unfold State.finish
  dsimp only
  repeat' split
  all_goals grind (ematch := 20) [State.modHome_restsAs, State.sendReply_restsAs, State.fillSlc_restsAs, State.l2Install_restsAs,
    State.writeHome_restsAs, State.smcPoison_restsAs, State.ackCrossed_restsAs, restsAs_mk]

theorem State.serveEvict_restsAs {p line} (h : s.restsAs u) : (s.serveEvict p line).restsAs u := by
  grind [State.serveEvict, State.setFilt_restsAs, State.absorb_restsAs, State.modPod_restsAs]

theorem State.proceed_restsAs {txn} (h : s.restsAs u) : (s.proceed txn .good).restsAs u := by
  grind [State.proceed, State.finish_restsAs, State.slcRead_good, State.enqueue_restsAs, State.putTxn_restsAs]

theorem State.begin_restsAs {txn} (h : s.restsAs u) : (s.begin txn .good).restsAs u := by
  unfold State.begin
  dsimp only
  rw [State.strike_good]
  repeat' split
  all_goals grind [State.serveEvict_restsAs, State.modHome_restsAs, State.record_restsAs,
    State.finish_restsAs, State.proceed_restsAs, State.send_restsAs, State.putTxn_restsAs, restsAs_mk, foldl_restsAs]

theorem State.kick_restsAs {line a} (h : s.restsAs u) : (State.kick line .good a s).restsAs u := by
  fun_induction State.kick line .good a s <;> grind [State.begin_restsAs]

theorem State.kickAll_restsAs {line} (h : s.restsAs u) : (s.kickAll line .good).restsAs u := by
  grind [State.kickAll, State.kick_restsAs]

theorem State.promote_restsAs {txn} (h : s.restsAs u) : (s.promote txn).restsAs u := h

theorem State.takeEntry_restsAs {txn} (h : s.restsAs u) : (s.takeEntry txn .good).restsAs u := by
  grind [State.takeEntry, State.kickAll_restsAs, State.modHome_restsAs, State.putTxn_restsAs, State.promote_restsAs]

theorem State.admitN_restsAs {h0 a} (h : s.restsAs u) : (State.admitN h0 a s).restsAs u := by
  fun_induction State.admitN h0 a s <;> grind [State.takeEntry_restsAs, State.modHome_restsAs]

theorem State.admitHome_restsAs {line} (h : s.restsAs u) : (s.admitHome line).restsAs u := by
  grind [State.admitHome, State.admitN_restsAs]

theorem State.request_restsAs {line req from_ tc cls} (h : s.restsAs u) :
    (s.request line req from_ tc cls .good).restsAs u := by
  grind [State.request, State.send_restsAs, State.takeEntry_restsAs, State.modHome_restsAs]

/-! ## Snoops and answers -/

theorem State.snoopAt_restsAs {p line k} (h : s.restsAs u) : (s.snoopAt p line k).1.restsAs u := by
  grind [State.snoopAt, State.putL2_restsAs, State.dropL2_restsAs, State.modPod_restsAs]

theorem State.serveSnoop_restsAs {m} (h : s.restsAs u) : (s.serveSnoop m).restsAs u := by
  grind [State.serveSnoop, State.snoopAt_restsAs, State.send_restsAs, State.modHome_restsAs]

theorem State.deliverSnoop_restsAs {p line k} (h : s.restsAs u) : (s.deliverSnoop p line k).restsAs u := by
  grind [State.deliverSnoop, State.serveSnoop_restsAs, foldl_restsAs]

theorem State.syncFilt_restsAs {line p} (h : s.restsAs u) : (s.syncFilt line p).restsAs u := h

theorem State.poisonTxn_restsAs {txn} (h : s.restsAs u) : (s.poisonTxn txn).restsAs u := by
  grind [State.poisonTxn, State.writeHome_restsAs, State.admitHome_restsAs, State.kickAll_restsAs, State.finish_restsAs]

theorem State.answered_restsAs {txn p got} (h : s.restsAs u) : (s.answered txn p got).restsAs u := by
  unfold State.answered
  dsimp only
  repeat' split
  all_goals grind [State.putTxn_restsAs, State.poisonTxn_restsAs, State.admitHome_restsAs, State.kickAll_restsAs,
    State.proceed_restsAs]

theorem State.useCrossed_restsAs {txn p b} (h : s.restsAs u) : (s.useCrossed txn p b).restsAs u := by
  grind [State.useCrossed, State.setFilt_restsAs, State.absorb_restsAs, State.answered_restsAs]

theorem State.lateAnswer_restsAs {ix a} (h : s.restsAs u) : (s.lateAnswer ix a).restsAs u := by
  grind [State.lateAnswer, restsAs_mk]

theorem State.answer_restsAs {a} (h : s.restsAs u) : (s.answer a .good).restsAs u := by
  unfold State.answer
  dsimp only
  simp only [State.strike_good, State.arrayRead_good]
  repeat' split
  all_goals grind [State.lateAnswer_restsAs, State.answered_restsAs, State.syncFilt_restsAs,
    State.setFilt_restsAs, State.modHome_restsAs, State.useCrossed_restsAs, State.record_restsAs]

theorem State.hbmData_restsAs {line d poison} (h : s.restsAs u) : (s.hbmData line d poison).restsAs u := by
  grind [State.hbmData, State.admitHome_restsAs, State.kickAll_restsAs, State.finish_restsAs]

theorem State.hbmServe_restsAs {p errs sev wrong} (h : s.restsAs u) : (s.hbmServe p errs sev wrong).restsAs u := by
  unfold State.hbmServe
  split
  · split
    next => exact h
    next c v hc =>
      have hv : v.restsAs u := State.nextCmd_restsAs h hc
      split
      · exact State.storeLine_restsAs hv
      · exact State.hbmData_restsAs (State.hbmRead_restsAs hv)
  · exact h

theorem State.writeBack_restsAs {p} (h : s.restsAs u) : (s.writeBack p).restsAs u := by
  unfold State.writeBack
  split
  · exact h
  · exact restsAs_hbm h

theorem State.verifyRead_restsAs {p errs sev} (h : s.restsAs u) : (s.verifyRead p errs sev).restsAs u := by
  unfold State.verifyRead
  split
  next => exact h
  next =>
    extract_lets v all counted
    have hv : v.restsAs u := State.modPc_restsAs h
    have hcounted : (counted v).restsAs u := by grind [State.addE_restsAs]
    have ⟨hhusk, hdoms, hwake, _, hisl⟩ := hcounted
    have ⟨_, _, _, htrain, _⟩ := hv
    split
    iterate 2 exact State.addE_restsAs hcounted
    iterate 2 exact State.hardError_restsAs ⟨hhusk, hdoms, hwake, htrain, hisl⟩
    iterate 2 exact State.hbmRead_restsAs hv

/-! ## Requests carried through -/

theorem State.evArrive_restsAs {p line} (h : s.restsAs u) : (s.evArrive p line).restsAs u := by
  grind [State.evArrive, State.modPod_restsAs, State.send_restsAs, State.serveEvict_restsAs, State.useCrossed_restsAs,
    State.modHome_restsAs]

theorem State.hbmTurn_restsAs {line} (h : s.restsAs u) : (s.hbmTurn line).restsAs u := by
  grind [State.hbmTurn, State.ownSlot_restsAs, State.writeBack_restsAs, State.verifyRead_restsAs, State.hbmServe_restsAs, restsAs_mk]

theorem State.settle1_restsAs {line} (h : s.restsAs u) : (s.settle1 line).restsAs u := by
  unfold State.settle1
  dsimp only
  repeat' split
  all_goals grind [State.admitHome_restsAs, State.kickAll_restsAs, State.hbmTurn_restsAs, State.proceed_restsAs,
    State.deliverSnoop_restsAs, State.answer_restsAs, State.modHome_restsAs, State.evArrive_restsAs, State.answered_restsAs]

theorem State.settleN_restsAs {line a} (h : s.restsAs u) : (State.settleN line a s).restsAs u := by
  fun_induction State.settleN line a s <;> grind [State.settle1_restsAs]

theorem State.settle_restsAs {line} (h : s.restsAs u) : (s.settle line).restsAs u := by
  grind [State.settle, State.settleN_restsAs, restsAs_mk]

theorem State.drainEv_restsAs {p line} (h : s.restsAs u) : (s.drainEv p line).restsAs u := by
  grind [State.drainEv, State.settle_restsAs, State.evArrive_restsAs]

theorem State.transact_restsAs {line req from_ tc cls} (h : s.restsAs u) : (s.transact line req from_ tc cls).restsAs u := by
  grind [State.transact, State.settle_restsAs, State.request_restsAs, restsAs_mk]

theorem State.homePeek_restsAs {line m} (h : s.restsAs u) : (s.homePeek line m).1.restsAs u := by
  grind [State.homePeek, State.transact_restsAs]

theorem State.homePush_restsAs {line off d m} (h : s.restsAs u) : (s.homePush line off d m).restsAs u := by
  grind [State.homePush, State.transact_restsAs]

theorem State.homePushPoison_restsAs {line off d m} (h : s.restsAs u) : (s.homePushPoison line off d m).restsAs u := by
  grind [State.homePushPoison, State.homePush_restsAs, State.writeHome_restsAs]

theorem State.l2Write_restsAs {c line off d type st} (h : s.restsAs u) : (s.l2Write c line off d type st).restsAs u := by
  unfold State.l2Write
  dsimp only
  split
  · exact h
  · exact State.putL2_restsAs (restsAs_mk h)

theorem State.ownLine_restsAs {c line} (h : s.restsAs u) : (s.ownLine c line).restsAs u := by
  have hdrained : ((s.settle line).drainEv (podOf c) line).restsAs u := State.drainEv_restsAs (State.settle_restsAs h)
  unfold State.ownLine
  dsimp only
  split
  · exact hdrained
  · exact hdrained
  · exact State.transact_restsAs hdrained

theorem State.coreWrite_restsAs {c line off d type} (h : s.restsAs u) : (s.coreWrite c line off d type).restsAs u := by
  unfold State.coreWrite
  split <;> grind (ematch := 20) [State.drainEv_restsAs, State.settle_restsAs, State.homePush_restsAs, State.ownLine_restsAs,
    State.l2Write_restsAs, State.setFilt_restsAs, State.writeHome_restsAs]

/-! ## Memory accesses of masters -/

theorem State.postedError_restsAs {m a r} (h : s.restsAs u) : (s.postedError m a r).restsAs u := by
  grind [State.postedError, State.record_restsAs]

theorem State.huskRecord_restsAs {m a} (h : s.restsAs u) : (s.huskRecord m a).restsAs u := by
  grind [State.huskRecord, State.record_restsAs]

theorem State.eccWord_restsAs {i unit a arr w} (h : s.restsAs u) : (State.eccWord i unit a arr s w).restsAs u := by
  grind [State.eccWord, State.record_restsAs, restsAs_mk]

theorem State.eccFix_restsAs {i unit a p n arr} (h : s.restsAs u) : (s.eccFix i unit a p n arr).restsAs u := by
  grind [State.eccFix, State.eccWord_restsAs, foldl_restsAs]

theorem State.eccMesh_restsAs {a n} (h : s.restsAs u) : (s.eccMesh a n).restsAs u := by
  grind [State.eccMesh, State.eccFix_restsAs]

theorem State.meshRead_restsAs {m a n} (h : s.restsAs u) : (s.meshRead m a n).restsAs u := by
  grind [State.meshRead, State.send_restsAs]

theorem State.meshWrite_restsAs {m a n} (h : s.restsAs u) : (s.meshWrite m a n).restsAs u := by
  grind [State.meshWrite, State.send_restsAs]

theorem State.memRead_restsAs {m a n} (h : s.restsAs u) : (s.memRead m a n).1.restsAs u := by
  grind [State.memRead, State.homePeek_restsAs, State.eccMesh_restsAs, State.meshRead_restsAs, restsAs_mk]

theorem State.eccWrite_restsAs {a n} (h : s.restsAs u) : (s.eccWrite a n).restsAs u := h

theorem State.clearTags_restsAs {a n} (h : s.restsAs u) : (s.clearTags a n).restsAs u := h

theorem State.memWrite_restsAs {m a d poison} (h : s.restsAs u) : (s.memWrite m a d poison).restsAs u := by
  grind [State.memWrite, State.homePushPoison_restsAs, State.homePush_restsAs, State.clearTags_restsAs, State.eccWrite_restsAs,
    State.meshWrite_restsAs, restsAs_mk]

theorem State.dmaRead_restsAs {m a n} (h : s.restsAs u) : (s.dmaRead m a n).1.restsAs u := by
  unfold State.dmaRead
  dsimp only
  split
  · exact h
  · exact foldl_restsAs_fst (fun _ _ _ hu => State.memRead_restsAs hu) h

theorem State.dmaWrite_restsAs {m a d} (h : s.restsAs u) : (s.dmaWrite m a d).1.restsAs u := by
  unfold State.dmaWrite
  refine foldl_restsAs_fst (fun u b p hu => ?_) h
  dsimp only
  split
  · exact hu
  · exact State.memWrite_restsAs hu

/-! ## The Data Mover -/

theorem State.modDm_restsAs {n f} (h : s.restsAs u) : (s.modDm n f).restsAs u := h

theorem State.dmLines_restsAs {n} (h : s.restsAs u) : (s.dmLines n).restsAs u := by
  grind [State.dmLines, State.bankLine_restsAs, State.setLine_restsAs]

theorem State.dmFinish_restsAs {n idx code moved crc irq} (h : s.restsAs u) : (s.dmFinish n idx code moved crc irq).restsAs u := by
  unfold State.dmFinish
  grind [State.dmaWrite_restsAs, State.modDm_restsAs, State.addE_restsAs, State.dmLines_restsAs]

theorem State.dmSource_restsAs {n d off k} (h : s.restsAs u) : (s.dmSource n d off k).1.restsAs u := by
  grind [State.dmSource, State.dmaRead_restsAs]

theorem State.dmMove_restsAs {n d len} (h : s.restsAs u) : (s.dmMove n d len).1.restsAs u := by
  grind [State.dmMove, State.dmSource_restsAs, State.memWrite_restsAs, foldl_restsAs_fst]

theorem State.dmDesc_restsAs {n idx} (h : s.restsAs u) : (s.dmDesc n idx).1.restsAs u := by
  grind [State.dmDesc, State.dmaRead_restsAs]

theorem State.dmAbortPoint_restsAs {d} (h : s.restsAs u) : (s.dmAbortPoint d).1.restsAs u := h

theorem State.dmAbortOne_restsAs {n idx} (h : s.restsAs u) : (s.dmAbortOne n idx).restsAs u := by
  unfold State.dmAbortOne
  split <;> grind (ematch := 20) [State.dmDesc_restsAs, State.dmFinish_restsAs, State.dmAbortPoint_restsAs, State.dmMove_restsAs, State.modDm_restsAs]

theorem State.dmAbortEvery_restsAs {n} (h : s.restsAs u) : (s.dmAbortEvery n).restsAs u := by
  grind [State.dmAbortEvery, State.dmAbortOne_restsAs, foldl_restsAs]

/-! ## Virtual interfaces and bus queues -/

theorem State.putVi_restsAs {v x} (h : s.restsAs u) : (s.putVi v x).restsAs u := h

theorem State.modQp_restsAs {v q2 f} (h : s.restsAs u) : (s.modQp v q2 f).restsAs u := h

theorem State.viLine_restsAs {v} (h : s.restsAs u) : (s.viLine v).restsAs u := by
  grind [State.viLine, State.setLine_restsAs, State.putVi_restsAs]

theorem State.setViBit_restsAs {v bitNo md} (h : s.restsAs u) : (s.setViBit v bitNo md).restsAs u := by
  grind [State.setViBit, State.viLine_restsAs, State.putVi_restsAs]

theorem State.qpStop_restsAs {v q2 idx addr} (h : s.restsAs u) : (s.qpStop v q2 idx addr).restsAs u := by
  grind [State.qpStop, State.setE_restsAs, State.setViBit_restsAs, State.record_restsAs, State.ledgerEvent_restsAs]

theorem State.descWrite_restsAs {v q2 idx addr off d} (h : s.restsAs u) : (s.descWrite v q2 idx addr off d).1.restsAs u := by
  grind [State.descWrite, State.dmaWrite_restsAs, State.qpStop_restsAs]

theorem State.txComplete_restsAs {v q2 idx code ts} (h : s.restsAs u) : (s.txComplete v q2 idx code ts).restsAs u := by
  unfold State.txComplete
  grind [State.descWrite_restsAs, State.modQp_restsAs, State.setViBit_restsAs]

theorem State.txCopyEnd_restsAs {r code} (h : s.restsAs u) : (s.txCopyEnd r code).restsAs u := by
  grind [State.txCopyEnd, State.modQp_restsAs, State.txComplete_restsAs]

theorem State.rxComplete_restsAs {v q2 idx code} (h : s.restsAs u) : (s.rxComplete v q2 idx code).restsAs u := by
  grind [State.rxComplete, State.descWrite_restsAs, State.modQp_restsAs, State.setViBit_restsAs]

theorem State.modCan_restsAs {n f} (h : s.restsAs u) : (s.modCan n f).restsAs u := h

theorem State.modLin_restsAs {m f} (h : s.restsAs u) : (s.modLin m f).restsAs u := h

theorem State.canDiscard_restsAs {n txn code} (h : s.restsAs u) : (s.canDiscard n txn code).restsAs u := by
  grind [State.canDiscard, State.txCopyEnd_restsAs, State.addE_restsAs]

theorem State.canRoute_restsAs {n f} (h : s.restsAs u) : (s.canRoute n f).restsAs u := by
  grind [State.canRoute, State.addE_restsAs, State.canDiscard_restsAs, State.modCan_restsAs]

/-! ## What the DAP agent sends -/

theorem State.modDap_restsAs {f} (h : s.restsAs u) : (s.modDap f).restsAs u := h

theorem State.seedWrite_restsAs (h : s.restsAs u) : s.seedWrite.restsAs u := by
  grind [State.seedWrite, State.addE_restsAs]

theorem State.nextFresh_restsAs {k} (h : s.restsAs u) : (s.nextFresh k).1.restsAs u := by
  grind [State.nextFresh, State.modDap_restsAs, State.seedWrite_restsAs, restsAs_mk]

theorem State.dapEmit_restsAs {tr dst b} (h : s.restsAs u) : (s.dapEmit tr dst b).restsAs u := by
  unfold State.dapEmit
  grind [State.modDap_restsAs, State.canRoute_restsAs]

theorem State.dapSend_restsAs {p} (h : s.restsAs u) : (s.dapSend p).restsAs u := by
  grind [State.dapSend, State.nextFresh_restsAs, State.dapEmit_restsAs]

theorem State.sendBurst_restsAs {txn k} (h : s.restsAs u) : (s.sendBurst txn k).restsAs u := by
  grind [State.sendBurst, State.dapSend_restsAs, foldl_restsAs]

theorem State.dapAnswer_restsAs {p body} (h : s.restsAs u) : (s.dapAnswer p body).restsAs u := by
  grind [State.dapAnswer, State.modDap_restsAs, State.dapSend_restsAs, State.sendBurst_restsAs]

theorem State.mailLine_restsAs (h : s.restsAs u) : s.mailLine.restsAs u := by
  grind [State.mailLine, State.setLine_restsAs]

theorem State.modMail_restsAs {p f} (h : s.restsAs u) : (s.modMail p f).restsAs u := h

theorem State.mailDone_restsAs {p st} (h : s.restsAs u) : (s.mailDone p st).restsAs u := by
  grind [State.mailDone, State.mailLine_restsAs, State.modMail_restsAs]

theorem State.winDone_restsAs {m st} (h : s.restsAs u) : (s.winDone m st).restsAs u := by
  grind [State.winDone, State.modMail_restsAs]

theorem State.dapWritten_restsAs {p} (h : s.restsAs u) : (s.dapWritten p).restsAs u := by
  grind [State.dapWritten, State.pulse_restsAs, State.setE_restsAs]

theorem State.complete_restsAs {a st} (h : s.restsAs u) : (s.complete a st).restsAs u := by
  grind [State.complete, State.mailDone_restsAs, State.winDone_restsAs, State.dapWritten_restsAs, State.dapAnswer_restsAs, restsAs_mk]

theorem State.completeIf_restsAs {a st} (h : s.restsAs u) : (s.completeIf a st).restsAs u := by
  unfold State.completeIf
  grind [State.complete_restsAs]

/-! ## Queue pairs and bus channels -/

theorem State.qpSettle_restsAs (h : s.restsAs u) : s.qpSettle.restsAs u := by
  grind [State.qpSettle, State.complete_restsAs, State.setE_restsAs, State.modQp_restsAs, foldl_restsAs]

theorem State.pullFrames_restsAs {v q2 idx} (h : s.restsAs u) : (s.pullFrames v q2 idx).restsAs u := h

theorem State.qpDisable_restsAs {v q2 a} (h : s.restsAs u) : (s.qpDisable v q2 a).restsAs u := by
  grind [State.qpDisable, State.modQp_restsAs, State.txComplete_restsAs, State.pullFrames_restsAs, State.qpSettle_restsAs,
    State.rxComplete_restsAs, foldl_restsAs]

theorem State.canState_restsAs {n st} (h : s.restsAs u) : (s.canState n st).restsAs u := by
  grind [State.canState, State.pulse_restsAs, State.modCan_restsAs]

theorem State.canFlush_restsAs {n} (h : s.restsAs u) : (s.canFlush n).restsAs u := by
  grind [State.canFlush, State.canDiscard_restsAs, State.modCan_restsAs, foldl_restsAs]

theorem State.canStopNow_restsAs {n} (h : s.restsAs u) : (s.canStopNow n).restsAs u := by
  grind (ematch := 20) [State.canStopNow, State.modCan_restsAs, State.qpSettle_restsAs, State.completeIf_restsAs, State.canFlush_restsAs,
    State.canState_restsAs]

theorem State.canStop_restsAs {n} (h : s.restsAs u) : (s.canStop n).restsAs u := by
  grind [State.canStop, State.modCan_restsAs, State.canStopNow_restsAs]

theorem State.linStopNow_restsAs {m} (h : s.restsAs u) : (s.linStopNow m).restsAs u := by
  grind [State.linStopNow, State.modLin_restsAs, State.txCopyEnd_restsAs, State.qpSettle_restsAs, State.completeIf_restsAs, State.pulse_restsAs,
    foldl_restsAs]

theorem State.linStop_restsAs {m} (h : s.restsAs u) : (s.linStop m).restsAs u := by
  grind [State.linStop, State.modLin_restsAs, State.linStopNow_restsAs]

/-! ## Store buffers -/

theorem State.storePart_restsAs {c husk ty a d} (h : s.restsAs u) : (s.storePart c husk ty a d).restsAs u := by
  grind [State.storePart, State.postedError_restsAs, State.huskRecord_restsAs, State.coreWrite_restsAs, State.memWrite_restsAs]

theorem State.drainOne_restsAs {c} (h : s.restsAs u) : (s.drainOne c).restsAs u := by
  unfold State.drainOne
  dsimp only
  split
  · exact h
  · split
    · exact restsAs_mk h
    · exact State.storePart_restsAs (restsAs_mk h)

theorem State.drainStore_restsAs {c} (h : s.restsAs u) : (s.drainStore c).restsAs u := by
  grind [State.drainStore, State.drainOne_restsAs, foldl_restsAs]

theorem State.drainAll_restsAs {c} (h : s.restsAs u) : (s.drainAll c).restsAs u := by
  grind [State.drainAll, State.drainStore_restsAs, foldl_restsAs]

/-! ## Steps of an entry (R481) -/

theorem State.gatewayStop_restsAs (h : s.restsAs u) : s.gatewayStop.restsAs u := by
  grind [State.gatewayStop, State.qpDisable_restsAs, State.canStopNow_restsAs, State.linStopNow_restsAs, foldl_restsAs]

theorem State.quiesce_restsAs (h : s.restsAs u) : s.quiesce.restsAs u := by
  grind [State.quiesce, State.gatewayStop_restsAs, State.dmAbortEvery_restsAs, State.modDm_restsAs, foldl_restsAs]

theorem State.cleanPod_restsAs {p} (h : s.restsAs u) : (s.cleanPod p).restsAs u := by
  grind [State.cleanPod, State.settle_restsAs, State.drainEv_restsAs, State.evictNow_restsAs, State.modPod_restsAs, foldl_restsAs]

theorem State.flushSlc_restsAs (h : s.restsAs u) : s.flushSlc.restsAs u := by
  grind [State.flushSlc, State.slcEvict_restsAs, foldl_restsAs]

theorem State.flushHbm_restsAs (h : s.restsAs u) : s.flushHbm.restsAs u := by
  grind [State.flushHbm, State.settle_restsAs, State.storeLine_restsAs, restsAs_mk, foldl_restsAs]

end Sys2Proof.Machine
end

section
/-! What the parts of a change of the device state alter: the level inputs that are driven again, the ensign, the islands, and the
contents of domains (R432, R451, R456, R458, R476, R478). -/
namespace Sys2Proof.Machine

/-! ## Interrupt inputs and virtual interfaces -/

section
variable {s t u : State}

theorem State.pulse_frame (s : State) (k : Nat) : s.pulse k = { s with irq := (s.pulse k).irq } := by
  unfold State.pulse
  split
  · exact State.setSrc_frame ..
  · rfl

/-- `t` is `s` but for the inputs of the distributor and the notes of the virtual interfaces on theirs. -/
def State.relined (s t : State) : Prop := t = { s with irq := t.irq, gw := t.gw }

theorem State.relined.trans (h : s.relined t) (h' : t.relined u) : s.relined u := by
  unfold State.relined at *
  rw [h', h]

theorem State.relined.fields (h : s.relined t) : t.husk = s.husk ∧ t.dap = s.dap ∧ t.hazel = s.hazel ∧ t.pod = s.pod ∧
    t.island = s.island ∧ t.hbm = s.hbm := by
  rw [h]
  exact ⟨rfl, rfl, rfl, rfl, rfl, rfl⟩

theorem State.setLine_relined (s : State) (k : Nat) (l : Bool) : s.relined (s.setLine k l) := by
  unfold State.relined
  rw [State.setLine_frame]

theorem State.viLine_relined (s : State) (v : Nat) : s.relined (s.viLine v) :=
  State.relined.trans (t := s.putVi v _) rfl (State.setLine_relined ..)

theorem foldl_relined {α : Type} {f : State → α → State} (hf : ∀ u x, State.relined u (f u x)) (l : List α) (s : State) :
    s.relined (l.foldl f s) := by
  induction l generalizing s with
  | nil => rfl
  | cons x l ih => exact (hf s x).trans (ih (f s x))

theorem State.relines_relined (s : State) : s.relined s.relines :=
  ((((State.setLine_relined s _ _).trans (State.setLine_relined _ _ _)).trans (State.setLine_relined _ _ _)).trans
    (State.setLine_relined _ _ _)).trans ((foldl_relined (fun u _ => State.setLine_relined u _ _) _ _).trans
    (foldl_relined (fun u v => State.viLine_relined u v) _ _))

end

/-! ## The ensign (R456, R458) -/

section
variable {s t u : State}

/-- `t` is `s` but for entries, free values, the DAP agent and the inputs of the distributor. -/
def State.ensignMoved (s t : State) : Prop := t = { s with ent := t.ent, fresh := t.fresh, dap := t.dap, irq := t.irq }

theorem State.ensignMoved.fields (h : s.ensignMoved t) : t.husk = s.husk ∧ t.island = s.island ∧ t.hazel = s.hazel ∧ t.hbm = s.hbm := by
  rw [h]
  exact ⟨rfl, rfl, rfl, rfl⟩

theorem State.passEnsign_moved (s : State) (h : Holder) (node : Nat) : s.ensignMoved (s.passEnsign h node) := by
  unfold State.ensignMoved State.passEnsign State.bumpEpoch State.seedWrite
  rw [State.pulse_frame, State.addE_frame]
  rfl

theorem State.passEnsign_holder (s : State) (h : Holder) (node : Nat) : (s.passEnsign h node).dap.holder = h := by
  unfold State.passEnsign
  rw [State.pulse_frame]
  rfl

theorem State.ensignAway_moved (s : State) : s.ensignMoved s.ensignAway := by
  unfold State.ensignAway
  dsimp only
  split
  · rfl
  · unfold State.ensignMoved State.modDap
    rw [State.passEnsign_moved]

/-- Where the device leaves ACTIVE, HAZEL holds the ensign without subscriptions. -/
theorem State.ensignAway_dap (s : State) : s.ensignAway.dap.holder = .hazel ∧ s.ensignAway.dap.subs = [] := by
  unfold State.ensignAway
  dsimp only
  refine ⟨?_, rfl⟩
  split
  next h => exact h
  next => exact State.passEnsign_holder ..

theorem State.ensignBack_moved (s : State) : s.ensignMoved s.ensignBack := by
  unfold State.ensignBack State.ensignMoved
  dsimp only
  split
  · rw [State.addE_frame, State.passEnsign_moved]
  · rw [State.addE_frame]

theorem State.transitionEnd_frame (s : State) (a z : DevSt) (res : Nat) :
    s.transitionEnd a z res = { s with ent := (s.transitionEnd a z res).ent, fresh := (s.transitionEnd a z res).fresh } := by
  unfold State.transitionEnd
  by_cases h : a = .unpowered
  · simp only [if_pos h]
    rfl
  · simp only [if_neg h]
    rfl

theorem State.transitionEnd_fields {a z : DevSt} {res : Nat} (h : s.transitionEnd a z res = t) :
    t.hazel = s.hazel ∧ t.husk = s.husk ∧ t.dap = s.dap ∧ t.pod = s.pod ∧ t.island = s.island ∧ t.hbm = s.hbm := by
  rw [← h, State.transitionEnd_frame]
  exact ⟨rfl, rfl, rfl, rfl, rfl, rfl⟩


end

/-! ## Islands (R307, R316, R318) -/

section
variable {s t u : State} {i j : Fin 4}

/-- `t` is `s` but for island i, its entries, SAFE_N and the inputs of the distributor. -/
def State.islandMoved (s t : State) (i : Fin 4) : Prop :=
  t = { s with island := t.island, ent := t.ent, safeN := t.safeN, irq := t.irq } ∧
  ∀ j, j ≠ i → t.island.get j = s.island.get j

theorem State.islandMoved.trans (h : s.islandMoved t i) (h' : t.islandMoved u i) : s.islandMoved u i := by
  obtain ⟨ht, hisl⟩ := h
  obtain ⟨hu, hisl'⟩ := h'
  exact ⟨by rw [hu, ht], fun j hj => (hisl' j hj).trans (hisl j hj)⟩

theorem State.modIsl_moved (s : State) (i : Fin 4) (f : Island → Island) : s.islandMoved (s.modIsl i f) i :=
  ⟨rfl, fun _ hj => vmod_get_ne _ _ hj⟩

theorem foldl_islandMoved {α : Type} {f : State → α → State} (hf : ∀ u x, State.islandMoved u (f u x) i) (l : List α) (s : State) :
    s.islandMoved (l.foldl f s) i := by
  induction l generalizing s with
  | nil => exact ⟨rfl, fun _ _ => rfl⟩
  | cons x l ih => exact (hf s x).trans (ih (f s x))

theorem State.pinsSafe_moved (s : State) (i : Fin 4) : s.islandMoved (s.pinsSafe i) i :=
  foldl_islandMoved (fun u _ => State.modIsl_moved u i _) _ s

theorem State.irqEnd_frame (s : State) (w : Claimer) (id : Nat) : s.irqEnd w id = { s with irq := (s.irqEnd w id).irq } := by
  unfold State.irqEnd
  dsimp only
  split
  · exact State.setSrc_frame ..
  · rfl

theorem State.endClaims_moved (s : State) (i : Fin 4) : s.islandMoved (s.endClaims i) i :=
  (foldl_islandMoved (fun u id => by rw [State.irqEnd_frame]; exact ⟨rfl, fun _ _ => rfl⟩) _ s).trans (State.modIsl_moved _ i _)

theorem State.setVote_moved (s : State) (i : Fin 4) (st : VState) : s.islandMoved (s.setVote i st) i := by
  unfold State.setVote
  split
  · exact ⟨rfl, fun _ _ => rfl⟩
  · rw [State.pulse_frame]
    exact ⟨rfl, (State.modIsl_moved s i _).2⟩

theorem State.setVote_st (s : State) (i : Fin 4) (st : VState) : ((s.setVote i st).island.get i).st = st := by
  unfold State.setVote
  split
  next h => exact h
  next =>
    rw [State.pulse_frame]
    exact congrArg Island.st (vmod_get ..)

theorem State.setE_moved (s : State) (i : Fin 4) (idx sub v : Nat) : s.islandMoved (s.setE idx sub v) i := ⟨rfl, fun _ _ => rfl⟩

theorem State.toHeld_moved (s : State) (i : Fin 4) : s.islandMoved (s.toHeld i) i := by
  unfold State.toHeld
  extract_lets s1 s2
  have h1 : s.islandMoved s1 i := (State.modIsl_moved s i _).trans (State.pinsSafe_moved _ i)
  have h2 : s1.islandMoved s2 i := State.modIsl_moved s1 i _
  clear_value s1 s2
  exact (((h1.trans h2).trans (State.endClaims_moved s2 i)).trans (State.setE_moved _ i _ _ _)).trans (State.setVote_moved _ i .held)

theorem State.toHeld_st (s : State) (i : Fin 4) : ((s.toHeld i).island.get i).st = .held := State.setVote_st ..

theorem State.releaseIsland_moved (s : State) (i : Fin 4) : s.islandMoved (s.releaseIsland i) i := by
  have htests : ∀ v : State, v.islandMoved (v.testsDone i) i := fun v => by
    unfold State.testsDone
    dsimp only
    split
    · exact State.modIsl_moved v i _
    · exact ⟨rfl, fun _ _ => rfl⟩
  exact (((State.modIsl_moved s i _).trans (State.modIsl_moved _ i _)).trans (State.setVote_moved _ i _)).trans (htests _)

theorem State.releaseIsland_st (s : State) (i : Fin 4) : ((s.releaseIsland i).island.get i).st = .test := by
  have htests : ∀ v : State, ((v.testsDone i).island.get i).st = (v.island.get i).st := fun v => by
    unfold State.testsDone
    dsimp only
    split
    · rw [State.modIsl_get]
    · rfl
  exact (htests _).trans (State.setVote_st ..)

end

/-! ## Domains that lose their contents (R476) -/

section
variable {s t u : State}

/-- What holds after one step of a fold, and after every later step, holds at its end. -/
theorem foldl_reaches {α β : Type} {f : β → α → β} {P : β → Prop} {a : α} (hset : ∀ s, P (f s a)) (hkeep : ∀ s x, P s → P (f s x))
    {l : List α} (ha : a ∈ l) (s : β) : P (l.foldl f s) := by
  obtain ⟨l₁, l₂, rfl⟩ := List.append_of_mem ha
  rw [List.foldl_append, List.foldl_cons]
  exact List.foldlRecOn l₂ f (hset _) fun s hs x _ => hkeep s x hs

/-- What every loss of contents leaves alone; `iso` says that the isolation tables are kept. -/
def State.losesTo (iso : Bool) (s t : State) : Prop :=
  t.dap = s.dap ∧ t.hazel.doms = s.hazel.doms ∧ t.hazel.wakeHeld = s.hazel.wakeHeld ∧
  (t.husk = s.husk ∨ iso = false ∧ t.husk = []) ∧
  (∀ p, t.pod.get p = s.pod.get p ∨ t.pod.get p = Pod.init) ∧
  ∀ i : Fin 4, (t.island.get i).st = (s.island.get i).st ∨ (t.island.get i).st = .held

theorem State.losesTo.trans {iso : Bool} (h : State.losesTo iso s t) (h' : State.losesTo iso t u) : State.losesTo iso s u := by
  grind [State.losesTo]

theorem State.losesTo_self (iso : Bool) (s : State) : State.losesTo iso s s :=
  ⟨rfl, rfl, rfl, .inl rfl, fun _ => .inl rfl, fun _ => .inl rfl⟩

theorem ite_losesTo {iso : Bool} {c : Prop} [Decidable c] (ht : State.losesTo iso s t) (hu : State.losesTo iso s u) :
    State.losesTo iso s (if c then t else u) := by
  split
  · exact ht
  · exact hu

theorem State.loseIsland_losesTo (s : State) (i : Fin 4) (iso : Bool) : State.losesTo iso s (s.loseIsland i) := by
  refine ⟨rfl, rfl, rfl, .inl rfl, fun _ => .inl rfl, fun j => ?_⟩
  by_cases hj : j = i
  · subst hj
    exact .inr (congrArg Island.st (vset_get ..))
  · exact .inl (congrArg Island.st (vset_get_ne _ _ hj))

theorem State.modPod_losesTo (s : State) (p : Fin 8) (iso : Bool) : State.losesTo iso s (s.modPod p fun _ => Pod.init) := by
  refine ⟨rfl, rfl, rfl, .inl rfl, fun q => ?_, fun _ => .inl rfl⟩
  by_cases hq : q = p
  · subst hq
    exact .inr (State.modPod_get ..)
  · exact .inl (vmod_get_ne _ _ hq)

theorem foldl_losesTo {α : Type} {iso : Bool} {f : State → α → State} (hf : ∀ u x, State.losesTo iso u (f u x)) (l : List α)
    (s : State) : State.losesTo iso s (l.foldl f s) := by
  induction l generalizing s with
  | nil => exact State.losesTo_self iso s
  | cons x l ih => exact (hf s x).trans (ih (f s x))

/-- Other fields, and other fields of Hazel, may change. -/
theorem losesTo_mk {iso : Bool} {pending time fresh held reply mem poison tags ecc ent entB acore tlbPend home pc hbm sent safeN irq gw
    env mail seed hazel dm fb ledger trans retired gpio pcieOut} (h : State.losesTo iso s t) (hdoms : hazel.doms = t.hazel.doms)
    (hwake : hazel.wakeHeld = t.hazel.wakeHeld) :
    State.losesTo iso s ⟨pending, time, fresh, held, reply, mem, poison, tags, ecc, ent, entB, acore, tlbPend, t.pod, home, pc, hbm, sent,
      t.island, safeN, irq, t.husk, gw, env, mail, t.dap, seed, hazel, dm, fb, ledger, trans, retired, gpio, pcieOut⟩ := by
  obtain ⟨hdap, hd, hw, hrest⟩ := h
  exact ⟨hdap, hdoms.trans hd, hwake.trans hw, hrest⟩

/-- The mesh domain holds the husks, and of the islands what the voters keep. -/
theorem losesTo_mesh {iso : Bool} {pending time fresh held reply mem poison tags ecc ent entB acore tlbPend home pc hbm sent safeN irq gw
    env mail seed dm fb ledger trans retired gpio pcieOut} (h : State.losesTo iso s t) :
    State.losesTo iso s ⟨pending, time, fresh, held, reply, mem, poison, tags, ecc, ent, entB, acore, tlbPend, t.pod, home, pc, hbm, sent,
      t.island.map Island.voterInit, safeN, irq, if iso then t.husk else [], gw, env, mail, t.dap, seed, t.hazel, dm, fb, ledger, trans,
      retired, gpio, pcieOut⟩ := by
  obtain ⟨hdap, hdoms, hwake, hhusk, hpod, hisl⟩ := h
  refine ⟨hdap, hdoms, hwake, ?_, hpod, fun i => ?_⟩
  · cases iso
    · exact .inr ⟨rfl, rfl⟩
    · exact hhusk
  · have hvoter : (t.island.map Island.voterInit).get i = (t.island.get i).voterInit := Vector.getElem_map Island.voterInit i.isLt
    rw [hvoter]
    exact hisl i

theorem State.lose_losesTo (s : State) (d : Nat) (iso : Bool) : State.losesTo iso s (s.lose d iso) := by
  unfold State.lose
  extract_lets v
  have hv : State.losesTo iso s v := State.losesTo_self iso s
  clear_value v
  have hpod : State.losesTo iso s (v.modPod (fin 7 (d - 32)) fun _ => Pod.init) := hv.trans (State.modPod_losesTo v _ iso)
  have hhomes := foldl_losesTo (fun (u : State) (k : Fin 4) => State.losesTo_self iso (u.modHome (fin 15 (4 * (d - 44) + k.val)) fun _ => Home.init))
    (allFin 4) v
  refine ite_losesTo (losesTo_mk hv rfl rfl) (ite_losesTo (losesTo_mk hpod rfl rfl) (ite_losesTo (hv.trans (State.loseIsland_losesTo v _ iso))
    (ite_losesTo (hv.trans hhomes) (ite_losesTo (losesTo_mk hv rfl rfl) (ite_losesTo (losesTo_mk hv rfl rfl) ?_)))))
  exact ite_losesTo (losesTo_mk hv rfl rfl) (ite_losesTo (losesTo_mk hv rfl rfl) (ite_losesTo (losesTo_mk hv rfl rfl)
    (ite_losesTo (losesTo_mk hv rfl rfl) (ite_losesTo (losesTo_mk hv rfl rfl) (ite_losesTo (losesTo_mesh hv)
    (ite_losesTo (losesTo_mk hv rfl rfl) hv))))))

theorem State.loseAll_losesTo (s : State) (l : List Nat) (iso : Bool) : State.losesTo iso s (s.loseAll l iso) :=
  foldl_losesTo (fun u d => State.lose_losesTo u d iso) l s

/-- The L2s of a list of domains hold no line (R476). -/
theorem State.loseAll_pod (s : State) {l : List Nat} (iso : Bool) (p : Fin 8) (hp : 32 + p.val ∈ l) :
    (s.loseAll l iso).pod.get p = Pod.init := by
  refine foldl_reaches (P := fun u : State => u.pod.get p = Pod.init) (f := fun s d => s.lose d iso) (fun u => ?_) (fun u d hu => ?_) hp s
  · have hfin : fin 7 (32 + p.val - 32) = p := Fin.ext (by simp [fin])
    unfold State.lose
    dsimp only
    rw [if_neg (by omega), if_pos (by omega), hfin]
    exact State.modPod_get ..
  · obtain ⟨-, -, -, -, hpod, -⟩ := State.lose_losesTo u d iso
    exact (hpod p).elim (fun h => h.trans hu) id

/-- With the mesh domain every husk is lost, where the isolation tables are not kept. -/
theorem State.loseAll_husk (s : State) {l : List Nat} (hl : 59 ∈ l) : (s.loseAll l false).husk = [] := by
  refine foldl_reaches (P := fun u : State => u.husk = []) (f := fun s d => s.lose d false) (fun u => ?_) (fun u d hu => ?_) hl s
  · rfl
  · obtain ⟨-, -, -, hhusk, -⟩ := State.lose_losesTo u d false
    exact hhusk.elim (fun h => h.trans hu) And.right

end

end Sys2Proof.Machine
end

section
/-! The entries to SUSPEND and SLEEP (R336, R451, R456, R481, R482, Tables 16.2 and 16.3). -/
namespace Sys2Proof.Machine

/-! ## Steps that both share -/

section
variable (s : State)

/-- With every island in HELD, the husks and Hazel are as before. -/
theorem State.allHeld {s t : State} (ht : (allFin 4).foldl (fun s i => s.toHeld i) s = t) :
    t.husk = s.husk ∧ t.hazel = s.hazel ∧ ∀ i : Fin 4, (t.island.get i).st = .held := by
  subst ht
  have hkeep : ∀ (u : State) (i : Fin 4), (u.toHeld i).husk = u.husk ∧ (u.toHeld i).hazel = u.hazel := fun u i => by
    rw [(State.toHeld_moved u i).1]
    exact ⟨rfl, rfl⟩
  have hheld : ∀ i : Fin 4, (((allFin 4).foldl (fun s i => s.toHeld i) s).island.get i).st = .held := fun i => by
    refine foldl_reaches (P := fun t : State => (t.island.get i).st = .held) (a := i) (fun u => State.toHeld_st u i) (fun u j hu => ?_)
      (List.mem_finRange i) s
    by_cases hj : i = j
    · subst hj
      exact State.toHeld_st u i
    · rw [(State.toHeld_moved u j).2 i hj]
      exact hu
  obtain ⟨hhusk, hhazel⟩ := List.foldlRecOn (motive := fun t : State => t.husk = s.husk ∧ t.hazel = s.hazel) (allFin 4)
    (fun s i => s.toHeld i) ⟨rfl, rfl⟩ fun u ⟨hu, hz⟩ i _ => ⟨(hkeep u i).1.trans hu, (hkeep u i).2.trans hz⟩
  exact ⟨hhusk, hhazel, hheld⟩

/-- Requests that wait are recorded, and change no state and no hold of a domain. -/
theorem State.dropAskers_eq : s.dropAskers = { s with hazel := s.dropAskers.hazel, seed := s.dropAskers.seed } ∧
    s.dropAskers.hazel.wakeHeld = s.hazel.wakeHeld ∧
    ∀ d, (s.dropAskers.dom d).cur = (s.dom d).cur ∧ (s.dropAskers.dom d).hold = (s.dom d).hold := by
  have hfold : let t := s.hazel.powerQ.foldl (fun (s : State) j => s.modDom j.dom fun d => { d with req := j.target }) s
      t = { s with hazel := t.hazel } ∧ t.hazel.wakeHeld = s.hazel.wakeHeld ∧
        ∀ d, (t.dom d).cur = (s.dom d).cur ∧ (t.dom d).hold = (s.dom d).hold := by
    refine List.foldlRecOn (motive := fun t : State => t = { s with hazel := t.hazel } ∧ t.hazel.wakeHeld = s.hazel.wakeHeld ∧
      ∀ d, (t.dom d).cur = (s.dom d).cur ∧ (t.dom d).hold = (s.dom d).hold) s.hazel.powerQ _ ⟨rfl, rfl, fun _ => ⟨rfl, rfl⟩⟩
      fun u ⟨hu, hwake, hdom⟩ j _ => ⟨?_, hwake, fun d => ?_⟩
    · rw [hu]
      rfl
    · by_cases hd : d = j.dom
      · subst hd
        have hget : (u.modDom j.dom fun d => { d with req := j.target }).dom j.dom = { u.dom j.dom with req := j.target } :=
          State.modDom_get ..
        rw [hget]
        exact hdom _
      · have hget : (u.modDom j.dom fun d => { d with req := j.target }).dom d = u.dom d := vmod_get_ne _ _ hd
        rw [hget]
        exact hdom d
  obtain ⟨heq, hwake, hdom⟩ := hfold
  refine ⟨?_, hwake, hdom⟩
  unfold State.dropAskers
  dsimp only
  rw [heq]

/-- The device has told everyone that it leaves ACTIVE: nobody waits, and the ensign is HAZEL's. -/
theorem State.leftActive {s t : State} (ht : s.dropAskers.ensignAway = t) :
    t.dap.holder = .hazel ∧ t.dap.subs = [] ∧ t.husk = s.husk ∧ t.island = s.island ∧ t.hazel.wakeHeld = s.hazel.wakeHeld ∧
    ∀ d, (t.dom d).cur = (s.dom d).cur ∧ (t.dom d).hold = (s.dom d).hold := by
  subst ht
  obtain ⟨heq, hwake, hdom⟩ := s.dropAskers_eq
  obtain ⟨hholder, hsubs⟩ := s.dropAskers.ensignAway_dap
  obtain ⟨hhusk, hisl, hhazel, -⟩ := s.dropAskers.ensignAway_moved.fields
  have hhusk' : s.dropAskers.husk = s.husk := by rw [heq]
  have hisl' : s.dropAskers.island = s.island := by rw [heq]
  refine ⟨hholder, hsubs, hhusk.trans hhusk', hisl.trans hisl', (congrArg Hazel.wakeHeld hhazel).trans hwake, fun d => ?_⟩
  have hd : s.dropAskers.ensignAway.dom d = s.dropAskers.dom d := congrArg (fun h : Hazel => h.doms.get d) hhazel
  rw [hd]
  exact hdom d

theorem State.setDoms_dom (f : Nat → Domain → Domain) (d : Fin 64) :
    (s.setDoms f).dom d = { f d.val (s.dom d) with changing := none, holdBy := none } := Vector.getElem_ofFn d.isLt

theorem State.setDoms_else (f : Nat → Domain → Domain) : (s.setDoms f).husk = s.husk ∧ (s.setDoms f).dap = s.dap ∧
    (s.setDoms f).hazel.wakeHeld = s.hazel.wakeHeld ∧ (s.setDoms f).island = s.island ∧ (s.setDoms f).pod = s.pod := by
  unfold State.setDoms State.modHz
  simp only [and_self]

end

/-! ## SUSPEND (R481) -/

section
variable (s : State)

/-- The end of an entry to SUSPEND, in which the domains are switched as Table 16.2 says. -/
def State.suspended (s : State) : State :=
  let s := s.setDoms fun d x => { x with cur := if suspendOff d then .off else if suspendGated d then .gated else x.cur }
  let s := { s with hbm := { s.hbm with keptTrain := s.hbm.train, train := Vector.replicate 2 .selfRefresh } }
  let s := (s.modHz fun h => { h with dev := .suspend, pllOk := false, throttled := false }).relines
  (s.pmicSend [0x41]).transitionEnd .active .suspend 0

theorem State.suspended_spec {t : State} (ht : s.suspended = t) :
    t.hazel.dev = .suspend ∧ t.husk = s.husk ∧ t.dap = s.dap ∧ t.hazel.wakeHeld = s.hazel.wakeHeld ∧ t.island = s.island ∧
    t.pod = s.pod ∧ (∀ k : Fin 2, t.hbm.train.get k = .selfRefresh) ∧
    ∀ d : Fin 64, (t.dom d).hold = (s.dom d).hold ∧ (t.dom d).cur =
      if suspendOff d.val then .off else if suspendGated d.val then .gated else (s.dom d).cur := by
  unfold State.suspended at ht
  extract_lets +onlyGivenNames s6 _ s7 at ht
  have hrest6 := State.setDoms_else s fun d x => { x with cur := if suspendOff d then .off else if suspendGated d then .gated else x.cur }
  have hdom6 := State.setDoms_dom s fun d x => { x with cur := if suspendOff d then .off else if suspendGated d then .gated else x.cur }
  change s6.husk = _ ∧ s6.dap = _ ∧ s6.hazel.wakeHeld = _ ∧ s6.island = _ ∧ s6.pod = _ at hrest6
  change ∀ d, s6.dom d = _ at hdom6
  clear_value s6
  obtain ⟨hhusk6, hdap6, hwake6, hisl6, hpod6⟩ := hrest6
  have h8 := (State.relines_relined (s7.modHz fun h => { h with dev := .suspend, pllOk := false, throttled := false })).fields
  generalize State.relines _ = s8 at ht h8
  obtain ⟨hhusk8, hdap8, hhazel8, hpod8, hisl8, hhbm8⟩ := h8
  obtain ⟨hhazel, hhusk, hdap, hpod, hisl, hhbm⟩ := State.transitionEnd_fields ht
  have hz : t.hazel = { s6.hazel with
      dev := .suspend, pllOk := false, throttled := false, pmicOut := s6.hazel.pmicOut ++ [[0x41]] } := by
    rw [hhazel, State.pmicSend, hhazel8]
    rfl
  have hdom : ∀ d, t.dom d = s6.dom d := fun d => by rw [State.dom, hz, State.dom]
  refine ⟨by rw [hz], (hhusk.trans hhusk8).trans hhusk6, (hdap.trans hdap8).trans hdap6, ?_, (hisl.trans hisl8).trans hisl6,
    (hpod.trans hpod8).trans hpod6, fun k => ?_, fun d => ?_⟩
  · rw [hz]
    exact hwake6
  · rw [hhbm, State.pmicSend, hhbm8]
    exact Vector.getElem_replicate k.isLt
  · rw [hdom, hdom6]
    exact ⟨rfl, rfl⟩

/-- The domains that are off in SUSPEND but the mesh, in which the isolation tables are kept (Table 16.2). -/
def suspendLost : List Nat := (List.range 64).filter fun d => suspendOff d && d != 61

theorem l2_mem_suspendLost (p : Fin 8) : 32 + p.val ∈ suspendLost := by
  simp only [suspendLost, List.mem_filter, List.mem_range, suspendOff, Bool.and_eq_true, decide_eq_true_eq, bne_iff_ne]
  omega

theorem State.suspendEntry_spec {t : State} (ht : s.suspendEntry = t) :
    t.hazel.dev = .suspend ∧ t.husk = s.husk ∧ t.dap.holder = .hazel ∧ t.dap.subs = [] ∧ t.hazel.wakeHeld = s.hazel.wakeHeld ∧
    (∀ i : Fin 4, (t.island.get i).st = .held) ∧ (∀ p : Fin 8, t.pod.get p = Pod.init) ∧
    (∀ k : Fin 2, t.hbm.train.get k = .selfRefresh) ∧
    ∀ d : Fin 64, (t.dom d).hold = (s.dom d).hold ∧ (t.dom d).cur =
      if suspendOff d.val then .off else if suspendGated d.val then .gated else (s.dom d).cur := by
  unfold State.suspendEntry at ht
  extract_lets +onlyGivenNames s1 s2 s3 s4 s5 at ht
  have hquiet := State.quiesce_restsAs s.restsAs_self
  obtain ⟨hhuskq, hdomsq, hwakeq, -, -⟩ := hquiet
  obtain ⟨hhusk1, hhazel1, hheld1⟩ := State.allHeld (t := s1) rfl
  have hclean : s3.flushSlc.flushHbm.restsAs s1 :=
    State.flushHbm_restsAs (State.flushSlc_restsAs (foldl_restsAs (fun _ _ h => State.cleanPod_restsAs h)
      (foldl_restsAs (fun _ _ h => State.drainAll_restsAs h) s1.restsAs_self)))
  obtain ⟨hhusk3, hdoms3, hwake3, -, hst3⟩ := hclean
  obtain ⟨hholder4, hsubs4, hhusk4, hisl4, hwake4, hdom4⟩ := State.leftActive (t := s4) rfl
  obtain ⟨hdap5, hdoms5, hwake5, hhusk5, -, hst5⟩ := s4.loseAll_losesTo suspendLost true
  have hpod5 := fun p => s4.loseAll_pod true p (l2_mem_suspendLost p)
  change s5.dap = _ at hdap5
  change s5.hazel.doms = _ at hdoms5
  change s5.hazel.wakeHeld = _ at hwake5
  change s5.husk = _ ∨ _ ∧ s5.husk = _ at hhusk5
  change ∀ i, (s5.island.get i).st = _ ∨ (s5.island.get i).st = _ at hst5
  change ∀ p, s5.pod.get p = _ at hpod5
  clear_value s5
  obtain ⟨hdev, hhusk, hdap, hwake, hisl, hpod, htrain, hdom⟩ := State.suspended_spec s5 ht
  have hdoms1 : ∀ d, s3.flushSlc.flushHbm.dom d = s.dom d := fun d => by
    rw [State.dom, hdoms3, hhazel1, hdomsq, State.dom]
  have hdom5 : ∀ d, s5.dom d = s4.dom d := fun d => by rw [State.dom, hdoms5, State.dom]
  refine ⟨hdev, ?_, by rw [hdap, hdap5, hholder4], by rw [hdap, hdap5, hsubs4], ?_, fun i => ?_, fun p => by rw [hpod, hpod5], htrain,
    fun d => ?_⟩
  · rw [hhusk, hhusk5.resolve_right (fun h => nomatch h.1), hhusk4, hhusk3, hhusk1, hhuskq]
  · rw [hwake, hwake5, hwake4, hwake3, hhazel1, hwakeq]
  · have hst4 : (s4.island.get i).st = .held := by rw [hisl4, hst3, hheld1]
    rw [hisl]
    exact (hst5 i).elim (fun h => h.trans hst4) id
  · obtain ⟨hcur4, hhold4⟩ := hdom4 d
    obtain ⟨hhold, hcur⟩ := hdom d
    constructor
    · rw [hhold, hdom5, hhold4, hdoms1]
    · rw [hcur, hdom5, hcur4, hdoms1]

end

/-! ## SLEEP (R482) -/

section
variable (s : State)

/-- The end of an entry to SLEEP, in which the domains take their boot requests (Table 16.3). -/
def State.slept (s : State) (from_ : DevSt) : State :=
  let s := s.modHz fun h => { h with
    doms := Vector.ofFn fun d => (sleepDom d.val (h.doms.get d)),
    dev := .sleep, pllOk := false, throttled := false, images := [], graceAt := none, booting := false, pmicWait := false,
    coresOn := 0, islandsOn := 0 }
  ((s.relines).pmicSend [0x42]).transitionEnd from_ .sleep 0

theorem State.slept_spec {t : State} {from_ : DevSt} (ht : s.slept from_ = t) :
    t.hazel.dev = .sleep ∧ t.husk = s.husk ∧ t.dap = s.dap ∧ t.island = s.island ∧
    ∀ d : Fin 64, t.dom d = sleepDom d.val (s.dom d) := by
  unfold State.slept at ht
  extract_lets +onlyGivenNames s6 at ht
  have hdom6 : ∀ d, s6.dom d = sleepDom d.val (s.dom d) := fun d => Vector.getElem_ofFn d.isLt
  have hrest6 : s6.hazel.dev = .sleep ∧ s6.husk = s.husk ∧ s6.dap = s.dap ∧ s6.island = s.island := ⟨rfl, rfl, rfl, rfl⟩
  clear_value s6
  obtain ⟨hdev6, hhusk6, hdap6, hisl6⟩ := hrest6
  have h8 := (State.relines_relined s6).fields
  generalize State.relines _ = s8 at ht h8
  obtain ⟨hhusk8, hdap8, hhazel8, -, hisl8, -⟩ := h8
  obtain ⟨hhazel, hhusk, hdap, -, hisl, -⟩ := State.transitionEnd_fields ht
  have hz : t.hazel = { s6.hazel with pmicOut := s6.hazel.pmicOut ++ [[0x42]] } := by
    rw [hhazel, State.pmicSend, hhazel8]
  refine ⟨by rw [hz, ← hdev6], (hhusk.trans hhusk8).trans hhusk6, (hdap.trans hdap8).trans hdap6, (hisl.trans hisl8).trans hisl6,
    fun d => ?_⟩
  rw [← hdom6 d, State.dom, hz, State.dom]

/-- The domains that lose their contents in SLEEP. -/
def sleepLost : List Nat := (List.range 62).filter (· ≠ 61)

theorem mesh_mem_sleepLost : 59 ∈ sleepLost := by
  decide

/-- The boot value of a domain, as Table 16.2 gives it. -/
theorem sleepDom_eq (d : Fin 64) (x : Domain) : (sleepDom d.val x).cur = (if d.val < 62 then .off else .on) ∧ (sleepDom d.val x).hold = false ∧
    (sleepDom d.val x).req = if d.val < 40 ∨ d.val = 55 ∨ d.val = 58 then .off else .on := by
  refine ⟨rfl, rfl, ?_⟩
  simp only [sleepDom, Domain.boot, bootValue]

theorem State.sleepEntry_spec {t : State} (ht : s.sleepEntry = t) :
    t.hazel.dev = .sleep ∧ t.husk = [] ∧ t.dap.holder = .hazel ∧ t.dap.subs = [] ∧ (∀ i : Fin 4, (t.island.get i).st = .held) ∧
    ∀ d : Fin 64, ∃ x, t.dom d = sleepDom d.val x := by
  unfold State.sleepEntry at ht
  extract_lets +onlyGivenNames from_ s1 s5 at ht
  obtain ⟨-, -, hheld1⟩ := State.allHeld (t := s1) rfl
  clear_value s1
  obtain ⟨hholder4, hsubs4, -, hisl4, -⟩ := State.leftActive (s := s1) rfl
  obtain ⟨hdap5, -, -, -, -, hst5⟩ := s1.dropAskers.ensignAway.loseAll_losesTo sleepLost false
  have hhusk5 := s1.dropAskers.ensignAway.loseAll_husk mesh_mem_sleepLost
  change s5.dap = _ at hdap5
  change s5.husk = _ at hhusk5
  change ∀ i, (s5.island.get i).st = _ ∨ (s5.island.get i).st = _ at hst5
  clear_value s5
  obtain ⟨hdev, hhusk, hdap, hisl, hdom⟩ := State.slept_spec s5 ht
  refine ⟨hdev, hhusk.trans hhusk5, by rw [hdap, hdap5, hholder4], by rw [hdap, hdap5, hsubs4], fun i => ?_, fun d => ⟨_, hdom d⟩⟩
  rw [hisl]
  exact (hst5 i).elim (fun h => h.trans (by rw [hisl4, hheld1])) id

end

end Sys2Proof.Machine
end

section
/-! A write of DEVICE_REQ (R480, R496, Table 16.3). -/
namespace Sys2Proof.Machine

/-! ## Masks of cores and islands -/

/-- A number that is put together from bits has those bits. -/
theorem testBit_sum_b2n {n : Nat} (f : Fin n → Bool) (c : Fin n) : ((allFin n).map fun c => b2n (f c) * 2 ^ c.val).sum.testBit c.val = f c := by
  induction n with
  | zero => exact c.elim0
  | succ n ih =>
    have hdouble : ((allFin n).map fun c => b2n (f c.succ) * 2 ^ (c.val + 1)).sum =
        2 * ((allFin n).map fun c => b2n (f c.succ) * 2 ^ c.val).sum := by
      rw [← List.sum_map_mul_left]
      exact congrArg List.sum (List.map_congr_left fun c _ => by ring)
    have hsum : ((allFin (n + 1)).map fun c => b2n (f c) * 2 ^ c.val).sum =
        b2n (f 0) + 2 * ((allFin n).map fun c => b2n (f c.succ) * 2 ^ c.val).sum := by
      rw [← hdouble]
      simp [allFin, List.finRange_succ, Function.comp_def]
    rw [hsum]
    cases c using Fin.cases with
    | zero => cases f 0 <;> simp [b2n, Nat.testBit_zero, Nat.add_mod]
    | succ c =>
      have hhalf : (b2n (f 0) + 2 * ((allFin n).map fun c => b2n (f c.succ) * 2 ^ c.val).sum) / 2 =
          ((allFin n).map fun c => b2n (f c.succ) * 2 ^ c.val).sum := by
        have hbit : b2n (f 0) < 2 := by cases f 0 <;> decide
        omega
      rw [Fin.val_succ, Nat.testBit_succ, hhalf]
      exact ih (fun c => f c.succ) c

section
variable {s : State} {q : Req} {n : Nat}

theorem State.coresOnMask_getLsbD (c : Fin 32) : s.coresOnMask.getLsbD c.val = s.domOn ⟨c.val, by omega⟩ := by
  rw [State.coresOnMask, BitVec.getLsbD_ofNat, testBit_sum_b2n fun c : Fin 32 => s.domOn ⟨c.val, by omega⟩]
  simp

theorem State.islandsOnMask_getLsbD (i : Fin 4) :
    s.islandsOnMask.getLsbD i.val = (s.domOn ⟨40 + i.val, by omega⟩ && (s.island.get i).st != .held) := by
  rw [State.islandsOnMask, BitVec.getLsbD_ofNat,
    testBit_sum_b2n fun i : Fin 4 => s.domOn ⟨40 + i.val, by omega⟩ && (s.island.get i).st != .held]
  simp

/-! ## What each device state answers -/

/-- A request that is neither out of place nor busy finds one of the transitions of Table 16.3. -/
theorem State.deviceReq_admits (h6 : (s.deviceReq n).2 ≠ 6) (hA : (s.deviceReq n).2 ≠ 0xA) :
    (s.hazel.dev = .active ∧ n = 2 ∧ (s.deviceReq n).1 = s.enterBegin .toSuspend) ∨
    (s.hazel.dev = .active ∧ n = 3 ∧ (s.deviceReq n).1 = s.enterBegin .toSleep) ∨
    (s.hazel.dev = .suspend ∧ n = 3 ∧ (s.deviceReq n).1 = s.sleepEntry) ∨
    ((s.hazel.dev = .suspend ∨ s.hazel.dev = .sleep) ∧ n = 1 ∧ (s.deviceReq n).1 = if s.wakeEn 25 then s.wakeEvent 0x40 else s) := by
  unfold State.deviceReq at h6 hA ⊢
  dsimp only at h6 hA ⊢
  split at h6
  · exact absurd rfl h6
  next hgo =>
    rw [if_neg hgo] at hA ⊢
    split at hA
    · exact absurd rfl hA
    next hstill =>
      rw [if_neg hstill] at h6 ⊢
      split at h6
      next h => exact .inl ⟨h.1, h.2, if_pos h ▸ rfl⟩
      next hn2 =>
        rw [if_neg hn2]
        split at h6
        next h => exact .inr (.inl ⟨h.1, h.2, if_pos h ▸ rfl⟩)
        next hn3 =>
          rw [if_neg hn3]
          split at h6
          next h => exact .inr (.inr (.inl ⟨h.1, h.2, if_pos h ▸ rfl⟩))
          next hns =>
            rw [if_neg hns]
            split at h6
            next h => exact .inr (.inr (.inr ⟨h.1, h.2, if_pos h ▸ rfl⟩))
            next => exact absurd rfl h6

/-! ## The write (R436, R480) -/

/-- The row of DEVICE_REQ (Table 16.8). -/
theorem catRow_deviceReq : catRow (ek 0x2004 2) = some ⟨0x2004, 1, 0x2, 1, 1, 1, .enum8, .wo, .vol, 0x0, .btw 1 3, .pub⟩ := by decide

/-- A number of 8 bits is carried by each path as an enumeration takes it. -/
theorem typed_reqVal_enum8 {key : Nat} {r : EntRow} (hrow : catRow key = some r) (hty : r.ty = .enum8) (hn : n < 256) :
    typed .enum8 (reqVal q key n) = some (.num n) := by
  cases hq : isWindow q
  · have hval : reqVal q key n = .bytes (toBytes 1 n) := by
      simp [reqVal, hq, hrow, hty, DTy.size, hn]
    have hback : ofBytes (toBytes 1 n) = n := by
      simp only [toBytes, ofBytes, BitVec.toNat_ofNat]
      omega
    have htyped : typed .enum8 (.bytes (toBytes 1 n)) = some (.num (ofBytes (toBytes 1 n))) := by
      simp [typed, toBytes_length, DTy.size]
    rw [hval, htyped, hback]
  · have hword : (word n).toNat = n := by
      rw [word, BitVec.toNat_ofNat]
      omega
    have hmod : n % 2 ^ DTy.enum8.width = n := Nat.mod_eq_of_lt hn
    rw [reqVal, hq, if_pos rfl]
    simp only [typed, hword, hmod]
    refine if_pos ⟨rfl, ?_⟩
    simp [windowWord, DTy.isSigned, hmod]

theorem State.blockStatus_deviceReq {a : Asker} : s.blockStatus a (ek 0x2004 2) (.num n) = (s.deviceReq n).2 := rfl

theorem State.applyVol_deviceReq {a : Asker} : s.applyVol a (ek 0x2004 2) (.num n) = ((s.complete a 0).deviceReq n).1 := rfl

/-- The status of a request is a matter of Hazel's registers alone. -/
theorem State.deviceReq_status_congr {t : State} (h : t.hazel = s.hazel) : (t.deviceReq n).2 = (s.deviceReq n).2 := by
  simp only [State.deviceReq, apply_ite Prod.snd, h]

/-- What tells a requester of its own that its write is complete changes its mailbox page and the interrupt of the mailboxes alone. -/
theorem State.complete_frame (st : Nat) : s.complete ⟨q, none⟩ st =
    { s with reply := (s.complete ⟨q, none⟩ st).reply, mail := (s.complete ⟨q, none⟩ st).mail, irq := (s.complete ⟨q, none⟩ st).irq } := by
  obtain ⟨_ | _, m⟩ | ⟨node, k⟩ := q
  · unfold State.complete State.winDone
    dsimp only
    split <;> rfl
  · unfold State.complete State.mailDone State.mailLine
    dsimp only
    rw [State.setLine_frame]
    rfl
  · rfl

/-- The requester of an admitted write of DEVICE_REQ has been told. -/
def State.told (s : State) (q : Req) : State := (s.begun q (ek 0x2004 2)).complete ⟨q, none⟩ 0

theorem State.told_frame (s : State) (q : Req) :
    s.told q = { s with reply := (s.told q).reply, mail := (s.told q).mail, irq := (s.told q).irq } :=
  (State.complete_frame 0).trans (congrArg (fun b : State =>
    { b with reply := (s.told q).reply, mail := (s.told q).mail, irq := (s.told q).irq }) (State.begun_frame s q _))

theorem State.told_hazel (s : State) (q : Req) : (s.told q).hazel = s.hazel := by rw [State.told_frame]

theorem State.told_ev (s : State) (q : Req) (i u : Nat) : (s.told q).ev i u = s.ev i u := by
  rw [State.told_frame]
  rfl

theorem State.told_domOn (s : State) (q : Req) (d : Fin 64) : (s.told q).domOn d = s.domOn d := by
  rw [State.told_frame]
  rfl

theorem State.told_island (s : State) (q : Req) : (s.told q).island = s.island := by rw [State.told_frame]

/-- An admitted request finds one of the transitions of Table 16.3, which the device makes once the requester has been told. -/
theorem State.reqWrite_deviceReq (hn : n < 256) (h : s.asked q (ek 0x2004 2) n = some 0) :
    s.reqWrite q (ek 0x2004 2) n = ((s.told q).deviceReq n).1 ∧
    ((s.told q).deviceReq n).2 ≠ 6 ∧ ((s.told q).deviceReq n).2 ≠ 0xA := by
  obtain ⟨hserved, hok⟩ := State.reqWrite_asked h
  have htyped := typed_reqVal_enum8 (q := q) catRow_deviceReq rfl hn
  obtain ⟨-, h6, -, hA⟩ := State.blockStatus_admits catRow_deviceReq htyped hok
  rw [State.serveEntWrite_vol catRow_deviceReq rfl htyped hok, State.applyVol_deviceReq] at hserved
  rw [State.blockStatus_deviceReq] at h6 hA
  have hstatus : ((s.told q).deviceReq n).2 = ((s.begun q (ek 0x2004 2)).deviceReq n).2 :=
    State.deviceReq_status_congr (by rw [State.told_hazel, State.begun_frame])
  exact ⟨hserved, hstatus ▸ h6, hstatus ▸ hA⟩

/-- The state at the start of an entry: what is to come back is recorded, and the change of state is signalled. -/
def State.enters (s b t : State) (d : DevSt) : Prop := ∃ cores islands, t = (b.modHz fun h =>
    { h with dev := d, from_ := .active, coresOn := cores, islandsOn := islands, wakeHeld := none }).pulse 35 ∧
  (∀ c : Fin 32, cores.getLsbD c.val = s.domOn ⟨c.val, by omega⟩) ∧
  ∀ i : Fin 4, islands.getLsbD i.val = (s.domOn ⟨40 + i.val, by omega⟩ && (s.island.get i).st != .held)

theorem State.enterBegin_enters (d : DevSt) : s.enters (s.told q) ((s.told q).enterBegin d) d := by
  refine ⟨_, _, rfl, fun c => ?_, fun i => ?_⟩
  · rw [State.coresOnMask_getLsbD, State.told_domOn]
  · rw [State.islandsOnMask_getLsbD, State.told_domOn, State.told_island]

theorem completes_deviceReqSuspend (h : s.asked q (ek 0x2004 2) 2 = some 0) :
    s.hazel.dev = .active ∧ completes (.deviceReqSuspend q) s fun t => s.enters (s.told q) t .toSuspend := by
  obtain ⟨hserved, h6, hA⟩ := State.reqWrite_deviceReq (by decide) h
  have hcases := State.deviceReq_admits h6 hA
  rw [State.told_hazel] at hcases
  obtain ⟨hdev, -, hnext⟩ | ⟨-, hn, -⟩ | ⟨-, hn, -⟩ | ⟨-, hn, -⟩ := hcases
  · exact ⟨hdev, _, rfl, by rw [hserved, hnext]; exact State.enterBegin_enters _⟩
  all_goals exact absurd hn (by decide)

theorem completes_deviceReqSleep (h : s.asked q (ek 0x2004 2) 3 = some 0) :
    (s.hazel.dev = .active ∧ completes (.deviceReqSleep q) s fun t => s.enters (s.told q) t .toSleep) ∨
    (s.hazel.dev = .suspend ∧ completes (.deviceReqSleep q) s fun t => t = (s.told q).sleepEntry) := by
  obtain ⟨hserved, h6, hA⟩ := State.reqWrite_deviceReq (by decide) h
  have hcases := State.deviceReq_admits h6 hA
  rw [State.told_hazel] at hcases
  obtain ⟨-, hn, -⟩ | ⟨hdev, -, hnext⟩ | ⟨hdev, -, hnext⟩ | ⟨-, hn, -⟩ := hcases
  · exact absurd hn (by decide)
  · exact .inl ⟨hdev, _, rfl, by rw [hserved, hnext]; exact State.enterBegin_enters _⟩
  · exact .inr ⟨hdev, _, rfl, hserved.trans hnext⟩
  · exact absurd hn (by decide)

theorem completes_deviceReqActive (h : s.asked q (ek 0x2004 2) 1 = some 0) :
    (s.hazel.dev = .suspend ∨ s.hazel.dev = .sleep) ∧ completes (.deviceReqActive q) s fun t =>
      t = if (s.ev 0x2200 1).testBit 25 then (s.told q).wakeEvent 0x40 else s.told q := by
  obtain ⟨hserved, h6, hA⟩ := State.reqWrite_deviceReq (by decide) h
  have hcases := State.deviceReq_admits h6 hA
  rw [State.told_hazel] at hcases
  obtain ⟨-, hn, -⟩ | ⟨-, hn, -⟩ | ⟨-, hn, -⟩ | ⟨hdev, -, hnext⟩ := hcases
  · exact absurd hn (by decide)
  · exact absurd hn (by decide)
  · exact absurd hn (by decide)
  · rw [State.wakeEn, State.told_ev] at hnext
    exact ⟨hdev, _, rfl, hserved.trans hnext⟩

end

end Sys2Proof.Machine
end

section
/-! The end of an entry to SUSPEND or SLEEP, its abandonment, and what wakes the device (R481, R482, R484, R488 to R490). -/
namespace Sys2Proof.Machine

section
variable {s : State}

/-! ## Entries of the dictionary that are written -/

/-- An entry reads as it was written; every other entry is unchanged. -/
theorem State.ev_setE (hs : s.canon) (i u v j e : Nat) : (s.setE i u v).ev j e = if ek j e = ek i u then v else s.ev j e := by
  obtain ⟨-, hent, -⟩ := hs
  by_cases hkey : ek j e = ek i u
  · have hdflt : (s.setE i u v).ev j e = kvGet (s.dflt (ek i u)) (kvSet (s.dflt (ek i u)) (ek i u) v s.ent) (ek i u) := by
      rw [← hkey, State.ev, State.setE, hkey]
      rfl
    rw [hdflt, kvGet_kvSet hent, if_pos rfl, if_pos hkey]
  · rw [if_neg hkey]
    have hget : kvGet? (kvSet (s.dflt (ek i u)) (ek i u) v s.ent) (ek j e) = kvGet? s.ent (ek j e) := by
      unfold kvSet
      split
      · rw [kvGet?_kvDel hent, if_neg hkey]
      · rw [kvGet?_kvPut hent, if_neg hkey]
    exact congrArg (Option.getD · _) hget

theorem State.setE_canon (hs : s.canon) (i u v : Nat) : (s.setE i u v).canon :=
  (State.setE_keep (q := s.pending) ⟨rfl, hs⟩).2

theorem State.addE_canon (hs : s.canon) (i u w k : Nat) : (s.addE i u w k).canon :=
  (State.addE_keep (q := s.pending) ⟨rfl, hs⟩).2

/-- A counter that is not at its end counts. -/
theorem State.ev_addE (hs : s.canon) {i u w : Nat} (h : s.ev i u + 1 < 2 ^ w) : (s.addE i u w 1).ev i u = s.ev i u + 1 := by
  have hset : s.addE i u w 1 = s.setE i u (s.ev i u + 1) := by simp [State.addE, h]
  rw [hset, State.ev_setE hs, if_pos rfl]

/-- A counter's step changes no other entry. -/
theorem State.ev_addE_ne (hs : s.canon) {i u w k j e : Nat} (h : ek j e ≠ ek i u) : (s.addE i u w k).ev j e = s.ev j e := by
  unfold State.addE
  dsimp only
  split
  · rfl
  · split
    · rw [State.ev_setE hs, if_neg h]
    · exact (State.ev_setE (s := { s with fresh := s.fresh + 1 }) hs ..).trans (if_neg h)

/-! ## The end of an entry, and its abandonment -/

/-- Every A-core that is on waits in WFI or is halted. -/
def State.idle (s : State) : Prop :=
  ∀ c : Fin 32, s.domOn ⟨c.val, by omega⟩ = true → (s.acore.get c).run = .wfi ∨ (s.acore.get c).run = .halted

/-- No attempt and no header is in progress. -/
def State.quiet (s : State) : Prop :=
  (∀ n : Fin 24, (s.gw.can.get n).attempt = none) ∧ ∀ m : Fin 12, (s.gw.lin.get m).header = none

theorem State.coresIdle_iff : s.coresIdle = true ↔ s.idle := by
  simp only [State.coresIdle, State.idle, allFin, List.all_eq_true, List.mem_finRange, forall_const, Bool.or_eq_true, Bool.not_eq_true',
    beq_iff_eq, or_assoc]
  exact forall_congr' fun c => ⟨fun h hon => h.resolve_left (by simp [hon]), fun h => by
    cases hon : s.domOn ⟨c.val, by omega⟩
    · exact .inl rfl
    · exact .inr (h hon)⟩

theorem all_toList_iff {α : Type} {n : Nat} {v : Vector α n} {p : α → Bool} : v.toList.all p = true ↔ ∀ i : Fin n, p (v.get i) = true := by
  rw [List.all_eq_true]
  refine ⟨fun h i => h _ (by simp [Vector.get]), fun h x hx => ?_⟩
  obtain ⟨i, hi, rfl⟩ := List.mem_iff_getElem.mp hx
  exact h ⟨i, by simpa using hi⟩

theorem State.busIdle_iff : s.busIdle = true ↔ s.quiet := by
  simp only [State.busIdle, State.offReady, State.quiet, Bool.or_eq_true, Bool.and_eq_true, all_toList_iff, Option.isNone_iff_eq_none]
  simp

/-- What an entry does once the cores and the buses are at rest: what is on its way arrives, and the last steps follow. -/
def State.entryEnds (s : State) : State :=
  if !s.coresIdle || !s.busIdle then s
  else
    let z := (allFin 32).foldl (fun s c => s.arriveAll c) s
    match s.hazel.dev with
    | .toSuspend => z.suspendEntry.heldWake
    | .toSleep => (z.quiesce.sleepEntry).heldWake
    | _ => s

theorem exec_suspendCoresIdle : exec .suspendCoresIdle s = .next (s.orWaits (State.entryEnds { s with held := false })) := rfl

theorem State.entryEnds_rest (hidle : s.idle) (hquiet : s.quiet) : s.entryEnds =
    let z := (allFin 32).foldl (fun s c => s.arriveAll c) s
    match s.hazel.dev with
    | .toSuspend => z.suspendEntry.heldWake
    | .toSleep => (z.quiesce.sleepEntry).heldWake
    | _ => s := by
  rw [← State.coresIdle_iff] at hidle
  rw [← State.busIdle_iff] at hquiet
  exact if_neg (by simp [hidle, hquiet])

theorem exec_suspendCoresIdle_busy (h : ¬ (s.idle ∧ s.quiet) ∨ (s.hazel.dev ≠ .toSuspend ∧ s.hazel.dev ≠ .toSleep)) :
    exec .suspendCoresIdle s = .next s := by
  refine exec_of_served_idle (f := State.entryEnds) rfl ?_
  by_cases hrest : State.idle { s with held := false } ∧ State.quiet { s with held := false }
  · obtain ⟨hns, hnl⟩ := h.resolve_left fun h => h hrest
    rw [State.entryEnds_rest hrest.1 hrest.2]
    dsimp only
    split
    next hdev => exact absurd hdev hns
    next hdev => exact absurd hdev hnl
    next => rfl
  · refine if_pos ?_
    rw [← State.coresIdle_iff, ← State.busIdle_iff] at hrest
    simpa [imp_iff_not_or] using hrest

theorem completes_suspendCoresIdle (hidle : s.idle) (hquiet : s.quiet) :
    let z := (allFin 32).foldl (fun s c => s.arriveAll c) { s with held := false }
    (s.hazel.dev = .toSuspend → completes .suspendCoresIdle s fun t => t = s.orWaits z.suspendEntry.heldWake) ∧
    (s.hazel.dev = .toSleep → completes .suspendCoresIdle s fun t => t = s.orWaits (z.quiesce.sleepEntry).heldWake) := by
  have hends := State.entryEnds_rest (s := { s with held := false }) hidle hquiet
  refine ⟨fun hdev => ⟨_, exec_suspendCoresIdle, ?_⟩, fun hdev => ⟨_, exec_suspendCoresIdle, ?_⟩⟩
  all_goals
    rw [hends]
    dsimp only
    rw [hdev]

/-- The record of a transition that does not begin unpowered. -/
theorem State.transitionEnd_of_ne {a : DevSt} (h : a ≠ .unpowered) (z : DevSt) (res : Nat) : s.transitionEnd a z res =
    (s.setE 0x2004 5 (a.code + z.code * 256 + res * 65536)).setE 0x2004 6 (s.time % 2 ^ 64) := by
  unfold State.transitionEnd
  rw [if_neg h]

/-- The wait for the cores is over, and the device stays in ACTIVE. -/
def State.abandoned (s : State) : State :=
  ((((s.modHz fun h => { h with dev := .active, wakeHeld := none, coresOn := 0, islandsOn := 0 }).setE 0x2004 5
    (1 + (if s.hazel.dev = .toSuspend then 2 else 3) * 256 + 65536)).setE 0x2004 6 (s.time % 2 ^ 64)).pulse 35)

theorem exec_suspendWaitExpiry_else (h : s.idle ∨ (s.hazel.dev ≠ .toSuspend ∧ s.hazel.dev ≠ .toSleep)) :
    exec .suspendWaitExpiry s = .next s := by
  refine congrArg Host.Outcome.next (if_neg ?_)
  rintro ⟨hdev, hbusy⟩
  obtain hidle | ⟨hns, hnl⟩ := h
  · rw [State.coresIdle_iff.mpr hidle] at hbusy
    cases hbusy
  · exact hdev.elim hns hnl

theorem completes_suspendWaitExpiry (hbusy : ¬ s.idle) (hdev : s.hazel.dev = .toSuspend ∨ s.hazel.dev = .toSleep) :
    completes .suspendWaitExpiry s fun t => t = s.abandoned := by
  rw [← State.coresIdle_iff, Bool.not_eq_true] at hbusy
  refine ⟨_, rfl, (if_pos ⟨hdev, hbusy⟩).trans ?_⟩
  rw [State.transitionEnd_of_ne (by decide)]
  unfold State.abandoned
  split <;> rfl

theorem exec_suspendToSleepExpiry_else (h : s.hazel.dev ≠ .suspend ∨ s.ev 0x2004 4 = 0) : exec .suspendToSleepExpiry s = .next s :=
  congrArg Host.Outcome.next (if_neg fun hgo => h.elim (fun h => h hgo.1) hgo.2)

theorem completes_suspendToSleepExpiry (hdev : s.hazel.dev = .suspend) (htime : s.ev 0x2004 4 ≠ 0) :
    completes .suspendToSleepExpiry s fun t => t = s.sleepEntry :=
  ⟨_, rfl, if_pos ⟨hdev, htime⟩⟩

/-! ## Wake events (R484, R490) -/

/-- WAKE_CAUSE is set, and the event counts. -/
def State.wakeNoted (s : State) (cause : Nat) : State := (s.setE 0x2200 5 cause).addE 0x2200 6 32 1

theorem State.wakeNoted_frame (s : State) (cause : Nat) :
    s.wakeNoted cause = { s with ent := (s.wakeNoted cause).ent, fresh := (s.wakeNoted cause).fresh } := by
  unfold State.wakeNoted
  rw [State.addE_frame]
  rfl

theorem State.heldWake_none (h : s.hazel.wakeHeld = none) : s.heldWake = s := by
  unfold State.heldWake
  rw [h]

theorem State.heldWake_some {c : Nat} (h : s.hazel.wakeHeld = some c) : s.heldWake = s.wakeEvent c := by
  unfold State.heldWake
  rw [h]

/-- A wake event has no effect after a stopped boot, nor where the device neither sleeps nor is about to. -/
theorem State.wakeEvent_else {cause : Nat}
    (h : s.hazel.stopped = true ∨ s.hazel.dev = .active ∨ s.hazel.dev = .waking ∨ s.hazel.dev = .unpowered) : s.wakeEvent cause = s := by
  unfold State.wakeEvent
  dsimp only
  split
  · rfl
  next hgo =>
    obtain hdev | hdev | hdev := h.resolve_left hgo
    all_goals rw [hdev]

theorem State.wakeEvent_asleep {cause : Nat} (hgo : s.hazel.stopped = false) (hdev : s.hazel.dev = .suspend ∨ s.hazel.dev = .sleep) :
    s.wakeEvent cause = (s.wakeNoted cause).wakeUp := by
  unfold State.wakeEvent
  dsimp only
  rw [if_neg (by simp [hgo])]
  obtain hdev | hdev := hdev
  all_goals
    rw [hdev]
    rfl

theorem State.wakeEvent_suspend {cause : Nat} (hgo : s.hazel.stopped = false) (hdev : s.hazel.dev = .suspend) :
    s.wakeEvent cause = ((s.wakeNoted cause).modHz fun h =>
      { h with from_ := .suspend, wakeHeld := none, dev := .waking, pmicWait := true, pllOk := false }).pmicSend [0x40] := by
  have hold : (s.wakeNoted cause).hazel.dev = .suspend := by rw [State.wakeNoted_frame, hdev]
  rw [State.wakeEvent_asleep hgo (.inl hdev), State.wakeUp, hold, if_pos rfl]
  rfl

theorem State.wakeEvent_sleep {cause : Nat} (hgo : s.hazel.stopped = false) (hdev : s.hazel.dev = .sleep) :
    s.wakeEvent cause = (((((s.wakeNoted cause).modHz fun h => { h with from_ := .sleep, wakeHeld := none }).setE
      0x2300 1 6).setE 0x2300 3 2).modHz fun h =>
        { h with dev := .waking, booting := true, bootAt := s.time, pllOk := false, pmicWait := true }).pmicSend [0x40] := by
  have hold : (s.wakeNoted cause).hazel.dev = .sleep := by rw [State.wakeNoted_frame, hdev]
  have htime : (s.wakeNoted cause).time = s.time := by rw [State.wakeNoted_frame]
  rw [State.wakeEvent_asleep hgo (.inr hdev), State.wakeUp, hold, if_neg (by decide), ← htime]
  rfl

theorem State.wakeEvent_entering {cause : Nat} (hgo : s.hazel.stopped = false) (hdev : s.hazel.dev = .toSuspend ∨ s.hazel.dev = .toSleep) :
    s.wakeEvent cause = s.modHz fun h => { h with wakeHeld := some (h.wakeHeld.getD cause) } := by
  have hfirst : s.wakeEvent cause = if s.hazel.wakeHeld.isSome then s else s.modHz fun h => { h with wakeHeld := some cause } := by
    unfold State.wakeEvent
    dsimp only
    rw [if_neg (by simp [hgo])]
    obtain hdev | hdev := hdev
    all_goals rw [hdev]
  rw [hfirst]
  cases hheld : s.hazel.wakeHeld with
  | none => simp [State.modHz, hheld]
  | some c =>
    have hsame : { s.hazel with wakeHeld := some c } = s.hazel := by rw [← hheld]
    simp [State.modHz, hheld, hsame]

/-! ## Frames that match patterns (R489) -/

/-- A frame matches pattern k: its channel is one of the pattern's, and its identifier and its data agree where they are compared. -/
def State.meetsPattern (s : State) (ch : Fin 8) (f : BusFrame) (k : Nat) : Prop :=
  let i := 0x2210 + k
  (s.ev i 1).testBit ch.val = true ∧ ((f.id.toNat + if f.ext then 2 ^ 29 else 0) ^^^ s.ev i 2) &&& s.ev i 3 = 0 ∧
  (ofBytes (slice (if f.rtr then [] else f.data) 0 8) ^^^ s.ev i 4) &&& s.ev i 5 = 0

theorem State.patternMatch_iff {ch : Fin 8} {f : BusFrame} {k : Nat} : s.patternMatch k ch f = true ↔ s.meetsPattern ch f k := by
  simp only [State.patternMatch, State.meetsPattern, bit, Bool.and_eq_true, beq_iff_eq, and_assoc]

/-- Every pattern of a list counts a hit. -/
def State.hits (s : State) (l : List Nat) : State := l.foldl (fun s k => s.addE (0x2210 + k) 6 32 1) s

/-- Hits change their counters alone. -/
theorem State.hits_spec (hs : s.canon) (l : List Nat) :
    (s.hits l).canon ∧ s.hits l = { s with ent := (s.hits l).ent, fresh := (s.hits l).fresh } ∧
    ∀ i e, (∀ k ∈ l, ek i e ≠ ek (0x2210 + k) 6) → (s.hits l).ev i e = s.ev i e := by
  induction l generalizing s with
  | nil => exact ⟨hs, rfl, fun _ _ _ => rfl⟩
  | cons k l ih =>
    obtain ⟨hcanon, hframe, hev⟩ := ih (State.addE_canon hs (0x2210 + k) 6 32 1)
    refine ⟨hcanon, hframe.trans (congrArg (fun t : State =>
      { t with ent := (s.hits (k :: l)).ent, fresh := (s.hits (k :: l)).fresh }) (s.addE_frame (0x2210 + k) 6 32 1)), fun i e hne => ?_⟩
    · obtain ⟨hk, hl⟩ := List.forall_mem_cons.mp hne
      exact (hev i e hl).trans (State.ev_addE_ne hs hk)

theorem pattern_ek_inj {i e k : Nat} (he : e < 256) (h : ek i e = ek (0x2210 + k) 6) : i = 0x2210 + k ∧ e = 6 := by
  unfold ek at h
  omega

/-- Each pattern of a list without repetition counts one hit. -/
theorem State.hits_counts (hs : s.canon) {l : List Nat} (hl : l.Nodup) {k : Nat} (hk : k ∈ l) (hend : s.ev (0x2210 + k) 6 + 1 < 2 ^ 32) :
    (s.hits l).ev (0x2210 + k) 6 = s.ev (0x2210 + k) 6 + 1 := by
  induction l generalizing s with
  | nil => cases hk
  | cons j l ih =>
    obtain ⟨hj, hl⟩ := List.nodup_cons.mp hl
    have hs' := State.addE_canon hs (0x2210 + j) 6 32 1
    by_cases hkj : k = j
    · subst hkj
      obtain ⟨-, -, hev⟩ := State.hits_spec hs' l
      have hother : ∀ m ∈ l, ek (0x2210 + k) 6 ≠ ek (0x2210 + m) 6 := fun m hm h => by
        obtain ⟨hkm, -⟩ := pattern_ek_inj (by decide) h
        obtain rfl : k = m := by omega
        exact hj hm
      exact (hev _ _ hother).trans (State.ev_addE hs hend)
    · have hne : ek (0x2210 + k) 6 ≠ ek (0x2210 + j) 6 := fun h => hkj (by
        obtain ⟨hkj, -⟩ := pattern_ek_inj (by decide) h
        omega)
      have hsame : (s.addE (0x2210 + j) 6 32 1).ev (0x2210 + k) 6 = s.ev (0x2210 + k) 6 := State.ev_addE_ne hs hne
      have hrest := ih hs' hl ((List.mem_cons.mp hk).resolve_left hkj) (by rw [hsame]; exact hend)
      exact hrest.trans (by rw [hsame])

/-- The patterns that a frame matches. -/
def State.patternsMet (s : State) (ch : Fin 8) (f : BusFrame) : List Nat := (List.range 16).filter fun k => s.patternMatch k ch f

theorem State.mem_patternsMet {ch : Fin 8} {f : BusFrame} {k : Nat} : k ∈ s.patternsMet ch f ↔ k < 16 ∧ s.meetsPattern ch f k := by
  rw [State.patternsMet, List.mem_filter, List.mem_range, State.patternMatch_iff]

/-- The lowest pattern of a list that may wake wakes. -/
def State.wakeFirst (s : State) (l : List Nat) : State :=
  match l.filter fun k => s.wakeEn k with
  | k :: _ => s.wakeEvent (0x10 + k)
  | [] => s

theorem State.wakeFirst_none {l : List Nat} (h : ∀ k ∈ l, s.wakeEn k = false) : s.wakeFirst l = s := by
  have hnil : l.filter (fun k => s.wakeEn k) = [] := List.filter_eq_nil_iff.mpr fun k hk => by simp [h k hk]
  rw [State.wakeFirst, hnil]

theorem State.wakeFirst_some {l : List Nat} {k : Nat} (h : (l.filter fun k => s.wakeEn k).head? = some k) :
    s.wakeFirst l = s.wakeEvent (0x10 + k) := by
  obtain ⟨r, hr⟩ := List.head?_eq_some_iff.mp h
  rw [State.wakeFirst, hr]

/-- The device hears a frame. -/
def State.hears (s : State) (f : BusFrame) : Prop :=
  (s.hazel.dev ≠ .active ∧ s.hazel.dev ≠ .waking ∧ s.hazel.dev ≠ .unpowered) ∧ (f.fmt = .cc ∨ f.fmt = .fd)

theorem exec_wakePatternMatch_deaf {ch : Fin 8} {f : BusFrame}
    (h : s.hazel.dev = .active ∨ s.hazel.dev = .waking ∨ s.hazel.dev = .unpowered ∨ f.fmt = .xl ∨ f.fmt = .lin) :
    exec (.wakePatternMatch ch f) s = .next s := by
  refine congrArg Host.Outcome.next (if_pos ?_)
  obtain h | h | h | h | h := h
  all_goals simp [h]

theorem exec_wakePatternMatch_hears {ch : Fin 8} {f : BusFrame} (h : s.hears f) :
    exec (.wakePatternMatch ch f) s = .next ((s.hits (s.patternsMet ch f)).wakeFirst (s.patternsMet ch f)) := by
  obtain ⟨⟨hactive, hwaking, hunpowered⟩, hfmt⟩ := h
  refine congrArg Host.Outcome.next ((if_neg ?_).trans rfl)
  have hears : s.hazel.dev = .suspend ∨ s.hazel.dev = .sleep ∨ s.hazel.dev = .toSuspend ∨ s.hazel.dev = .toSleep := by
    cases hdev : s.hazel.dev <;> simp_all
  simp only [Bool.or_eq_true, Bool.not_eq_true', Bool.or_eq_false_iff, beq_eq_false_iff_ne]
  rintro (hdeaf | hother)
  · obtain ⟨⟨⟨h1, h2⟩, h3⟩, h4⟩ := hdeaf
    exact hears.elim h1 fun h => h.elim h2 fun h => h.elim h3 h4
  · exact hfmt.elim hother.1 hother.2

/-- What the machine is once a frame has been compared with every pattern. -/
theorem State.hits_patternsMet (hs : s.canon) (ch : Fin 8) (f : BusFrame) :
    let u := s.hits (s.patternsMet ch f)
    (∀ i e, (i < 0x2210 ∨ 0x2220 ≤ i ∨ e ≠ 6) → e < 256 → u.ev i e = s.ev i e) ∧
    ∀ k, k < 16 → (¬ s.meetsPattern ch f k → u.ev (0x2210 + k) 6 = s.ev (0x2210 + k) 6) ∧
      (s.meetsPattern ch f k → s.ev (0x2210 + k) 6 + 1 < 2 ^ 32 → u.ev (0x2210 + k) 6 = s.ev (0x2210 + k) 6 + 1) := by
  obtain ⟨-, -, hev⟩ := State.hits_spec hs (s.patternsMet ch f)
  refine ⟨fun i e hother he => hev i e fun k hk h => ?_, fun k hk => ⟨fun hno => hev _ _ fun m hm h => ?_, fun hyes hend => ?_⟩⟩
  · obtain ⟨hk16, -⟩ := State.mem_patternsMet.mp hk
    obtain ⟨hi, he6⟩ := pattern_ek_inj he h
    omega
  · obtain ⟨-, hmatch⟩ := State.mem_patternsMet.mp hm
    obtain ⟨hkm, -⟩ := pattern_ek_inj (by decide) h
    obtain rfl : k = m := by omega
    exact hno hmatch
  · exact State.hits_counts hs (List.nodup_range.filter _) (State.mem_patternsMet.mpr ⟨hk, hyes⟩) hend

/-- The first of the patterns that a frame matches and that may wake. -/
theorem State.patternsMet_head {ch : Fin 8} {f : BusFrame} {en : Nat → Bool} {k : Nat} (hk : k < 16) (hmatch : s.meetsPattern ch f k)
    (hen : en k = true) (hlow : ∀ j, j < k → s.meetsPattern ch f j → en j = false) : ((s.patternsMet ch f).filter en).head? = some k := by
  rw [State.patternsMet, List.filter_filter, List.head?_filter, List.find?_range_eq_some]
  refine ⟨by rw [hen, State.patternMatch_iff.mpr hmatch]; rfl, List.mem_range.mpr hk, fun j hj => ?_⟩
  cases hm : s.patternMatch j ch f
  · simp
  · simp [hlow j hj (State.patternMatch_iff.mp hm)]

theorem completes_wakePatternMatch {ch : Fin 8} {f : BusFrame} (hs : s.canon) (h : s.hears f) : completes (.wakePatternMatch ch f) s fun t =>
    ∃ u : State, u = { s with ent := u.ent, fresh := u.fresh } ∧
      (∀ i e, (i < 0x2210 ∨ 0x2220 ≤ i ∨ e ≠ 6) → e < 256 → u.ev i e = s.ev i e) ∧
      (∀ k, k < 16 → (¬ s.meetsPattern ch f k → u.ev (0x2210 + k) 6 = s.ev (0x2210 + k) 6) ∧
        (s.meetsPattern ch f k → s.ev (0x2210 + k) 6 + 1 < 2 ^ 32 → u.ev (0x2210 + k) 6 = s.ev (0x2210 + k) 6 + 1)) ∧
      ((∀ k, k < 16 → s.meetsPattern ch f k → s.wakeEn k = false) → t = u) ∧
      (∀ k, k < 16 → s.meetsPattern ch f k → s.wakeEn k = true → (∀ j, j < k → s.meetsPattern ch f j → s.wakeEn j = false) →
        t = u.wakeEvent (0x10 + k)) := by
  obtain ⟨-, hframe, -⟩ := State.hits_spec hs (s.patternsMet ch f)
  obtain ⟨hev, hcounts⟩ := State.hits_patternsMet hs ch f
  have hen : (s.hits (s.patternsMet ch f)).wakeEn = s.wakeEn := funext fun k => by
    rw [State.wakeEn, hev 0x2200 1 (by omega) (by decide), State.wakeEn]
  refine ⟨_, exec_wakePatternMatch_hears h, _, hframe, hev, hcounts, fun hno => ?_, fun k hk hmatch hk1 hlow => ?_⟩
  · refine State.wakeFirst_none fun k hk => ?_
    obtain ⟨hk16, hmatch⟩ := State.mem_patternsMet.mp hk
    rw [hen]
    exact hno k hk16 hmatch
  · refine State.wakeFirst_some ?_
    rw [hen]
    exact State.patternsMet_head hk hmatch hk1 hlow

end

/-! ## The obligation -/

/-- Settles O51: a request by the transition that it finds, an entry to SUSPEND or SLEEP by what its steps leave alone, and a frame by
the patterns that it matches. -/
theorem deviceStates : Obligations.DeviceStates := by
  refine ⟨fun s q => ⟨completes_deviceReqSuspend, completes_deviceReqSleep, completes_deviceReqActive⟩,
    fun s => ⟨exec_suspendCoresIdle_busy, fun hidle hquiet => (completes_suspendCoresIdle hidle hquiet).1,
      fun hidle hquiet => (completes_suspendCoresIdle hidle hquiet).2, exec_suspendWaitExpiry_else, completes_suspendWaitExpiry,
      completes_suspendToSleepExpiry, exec_suspendToSleepExpiry_else⟩,
    fun s => ?_,
    fun s cause => ⟨State.heldWake_none, fun c => State.heldWake_some, State.wakeEvent_else, State.wakeEvent_suspend, State.wakeEvent_sleep,
      State.wakeEvent_entering⟩,
    fun s => ⟨fun n => ⟨_, rfl, rfl⟩, ⟨_, rfl, rfl⟩, fun ch f => ⟨exec_wakePatternMatch_deaf, fun hdev hfmt hs =>
      completes_wakePatternMatch hs ⟨hdev, hfmt⟩⟩⟩⟩
  obtain ⟨hdev, hhusk, hholder, hsubs, hwake, hheld, hpod, htrain, hdom⟩ := State.suspendEntry_spec s rfl
  obtain ⟨hdev', hhusk', hholder', hsubs', hheld', hdom'⟩ := State.sleepEntry_spec s rfl
  refine ⟨hdev, hhusk, hholder, hsubs, hwake, hheld, hpod, htrain, fun d => ?_, hdev', hhusk', hholder', hsubs', hheld', fun d => ?_⟩
  · obtain ⟨hhold, hcur⟩ := hdom d
    simp only [suspendOff, suspendGated, decide_eq_true_eq] at hcur
    exact ⟨hhold, hcur⟩
  · obtain ⟨x, hx⟩ := hdom' d
    rw [hx]
    exact sleepDom_eq d x

end Sys2Proof.Machine
end

section
/-! PLL_LOCK and SRAM_FILL_DONE: the first stages of the boot, and the end of a wake from SUSPEND (R490, R494). -/
namespace Sys2Proof.Machine

/-! ## PLL_LOCK -/

section
variable {s : State}

/-- The PLLs have locked, and every domain has the state that `f` gives it. -/
def State.locksPlls (s : State) (f : Fin 64 → Domain → PState) : State := { s with hazel := { s.hazel with
  pllOk := true
  doms := Vector.ofFn fun d => { s.hazel.doms.get d with cur := f d (s.hazel.doms.get d), changing := none, holdBy := none } } }

theorem exec_pllLock_else (h : s.hazel.dev ≠ .waking ∨ s.hazel.pmicWait = true ∨ s.hazel.pllOk = true) : exec .pllLock s = .next s :=
  congrArg Host.Outcome.next (if_pos h)

/-- What the lock of the PLLs does in a wake whose supplies are up. -/
theorem exec_pllLock_wakes (hdev : s.hazel.dev = .waking) (hwait : s.hazel.pmicWait = false) (hpll : s.hazel.pllOk = false) :
    exec .pllLock s = .next (
      let u := s.modHz fun h => { h with pllOk := true }
      if u.hazel.booting then (u.setDoms fun d x => { x with cur := bootValue d }).setE 0x2300 3 3
      else u.setDoms fun d x => { x with cur := if (44 ≤ d ∧ d < 48) ∨ (59 ≤ d ∧ d ≤ 61) then .on else x.cur }) :=
  congrArg Host.Outcome.next (if_neg (by simp [hdev, hwait, hpll]))

theorem completes_pllLock (hdev : s.hazel.dev = .waking) (hwait : s.hazel.pmicWait = false) (hpll : s.hazel.pllOk = false) :
    (s.hazel.booting = true → completes .pllLock s fun t =>
      t = (s.locksPlls fun d _ => if d.val < 40 ∨ d.val = 55 ∨ d.val = 58 then .off else .on).setE 0x2300 3 3) ∧
    (s.hazel.booting = false → completes .pllLock s fun t =>
      t = s.locksPlls fun d x => if (44 ≤ d.val ∧ d.val < 48) ∨ (59 ≤ d.val ∧ d.val ≤ 61) then .on else x.cur) := by
  refine ⟨fun hboot => ⟨_, exec_pllLock_wakes hdev hwait hpll, ?_⟩, fun hboot => ⟨_, exec_pllLock_wakes hdev hwait hpll, ?_⟩⟩
  · exact if_pos hboot
  · exact if_neg (by simp [State.modHz, hboot])

end

/-! ## The way back to ACTIVE (R451, R456, R483) -/

section
variable {s t u : State}

/-- ACTIVE is entered: the ensign and the record of the transition apart, Hazel alone is changed. -/
theorem State.activate_fields (h : s.activate = t) :
    t.hazel = { s.hazel with dev := .active, booting := false } ∧ t.island = s.island ∧ t.hbm = s.hbm := by
  unfold State.activate at h
  extract_lets +onlyGivenNames from_ at h
  obtain ⟨-, hisl, hhazel, hhbm⟩ := (State.ensignBack_moved (s.modHz fun h => { h with dev := .active, booting := false })).fields
  obtain ⟨hhazel', -, -, -, hisl', hhbm'⟩ := State.transitionEnd_fields h
  exact ⟨hhazel'.trans hhazel, hisl'.trans hisl, hhbm'.trans hhbm⟩

/-- What the return of the domains to their requested states leaves alone; a domain that it switches comes on. -/
def State.restores (s t : State) : Prop :=
  t.hbm.train = s.hbm.train ∧ (∀ i : Fin 4, (t.island.get i).st = (s.island.get i).st) ∧
  ∀ d, (t.dom d).cur = (s.dom d).cur ∨ (t.dom d).cur = .on

theorem State.restores_self (s : State) : s.restores s := ⟨rfl, fun _ => rfl, fun _ => .inl rfl⟩

theorem State.restores.trans (h : s.restores t) (h' : t.restores u) : s.restores u := by
  obtain ⟨htrain, hst, hcur⟩ := h
  obtain ⟨htrain', hst', hcur'⟩ := h'
  refine ⟨htrain'.trans htrain, fun i => (hst' i).trans (hst i), fun d => ?_⟩
  obtain hd | hd := hcur' d
  · rw [hd]
    exact hcur d
  · exact .inr hd

theorem State.modDom_cur {d : Fin 64} {f : Domain → Domain} (hf : (f (s.dom d)).cur = (s.dom d).cur ∨ (f (s.dom d)).cur = .on) :
    s.restores (s.modDom d f) := by
  refine ⟨rfl, fun _ => rfl, fun e => ?_⟩
  by_cases he : e = d
  · subst he
    rw [State.dom, State.modDom_get]
    exact hf
  · exact .inl (congrArg Domain.cur (vmod_get_ne _ _ he))

/-- A transition that begins leaves the states of the domains; only one of an island passes it to HELD. -/
theorem State.beginTo_restores (d : Fin 64) (p : PState) (hd : ¬ (40 ≤ d.val ∧ d.val < 44)) : s.restores (s.beginTo d p) := by
  have hmark : s.restores (s.modDom d fun x => { x with changing := some p }) := State.modDom_cur (.inl rfl)
  have hbegin : ∀ v : State, v.restores (v.offBegin d.val) := fun v => by
    have hrests : (v.offBegin d.val).restsAs v := by
      unfold State.offBegin
      rw [if_neg hd]
      split
      · exact foldl_restsAs (fun _ _ h => State.linStop_restsAs h) (foldl_restsAs (fun _ _ h => State.canStop_restsAs h) v.restsAs_self)
      · exact v.restsAs_self
    obtain ⟨-, hdoms, -, htrain, hst⟩ := hrests
    exact ⟨htrain, hst, fun e => .inl (by rw [State.dom, hdoms, State.dom])⟩
  unfold State.beginTo
  dsimp only
  split
  · exact hmark.trans (hbegin _)
  · exact hmark

/-- A domain that is no system domain returns to a state; an island comes on at once. -/
def State.restoreDom (s : State) (want : Fin 64 → PState) (d : Fin 64) : State :=
  if systemDomain d.val ∨ (s.dom d).cur = want d ∨ (domCore d).any (fun c => s.coreRetired c.val) then s
  else if 40 ≤ d.val ∧ d.val < 44 then s.modDom d fun x => { x with cur := .on }
  else s.beginTo d (want d)

/-- The state to which a domain returns: an L2 comes on for a core of its pod (R477). -/
def State.restored (s : State) (d : Fin 64) : PState :=
  let r := (s.dom d).req
  if 32 ≤ d.val ∧ d.val < 40 ∧ (allFin 32).any (fun c =>
    podOf c == fin 7 (d.val - 32) && (s.dom ⟨c.val, by omega⟩).req != .off) then .on else r

theorem State.restoreDoms_eq : s.restoreDoms = (allFin 64).foldl (fun u d => u.restoreDom s.restored d) s := rfl

theorem State.restoreDom_restores (want : Fin 64 → PState) (d : Fin 64) : s.restores (s.restoreDom want d) := by
  unfold State.restoreDom
  split
  · exact s.restores_self
  · split
    · exact State.modDom_cur (.inr rfl)
    next hd => exact State.beginTo_restores d _ hd

theorem State.restoreDoms_restores : s.restores s.restoreDoms := by
  rw [State.restoreDoms_eq]
  exact List.foldlRecOn (motive := fun u => s.restores u) _ _ s.restores_self fun u hu d _ => hu.trans (State.restoreDom_restores _ d)

/-- An island that is to be on is on at once. -/
theorem State.restoreDoms_island (i : Fin 4) (hreq : (s.dom ⟨40 + i.val, by omega⟩).req = .on) :
    (s.restoreDoms.dom ⟨40 + i.val, by omega⟩).cur = .on := by
  have hwant : s.restored ⟨40 + i.val, by omega⟩ = .on := by
    unfold State.restored
    rw [if_neg (by simp)]
    exact hreq
  have hsystem : systemDomain (40 + i.val) = false := by
    unfold systemDomain
    exact decide_eq_false (by omega)
  have hcore : domCore ⟨40 + i.val, by omega⟩ = none := dif_neg (by dsimp only; omega)
  rw [State.restoreDoms_eq]
  refine foldl_reaches (P := fun u : State => (u.dom ⟨40 + i.val, by omega⟩).cur = .on) (a := ⟨40 + i.val, by omega⟩) (fun u => ?_)
    (fun u d hu => ?_) (List.mem_finRange _) s
  · unfold State.restoreDom
    rw [hwant, hsystem, hcore]
    by_cases hon : (u.dom ⟨40 + i.val, by omega⟩).cur = .on
    · rw [if_pos (.inr (.inl hon))]
      exact hon
    · rw [if_neg (by simp [hon]), if_pos (by dsimp only; omega), State.dom, State.modDom_get]
  · obtain ⟨-, -, hcur⟩ := State.restoreDom_restores (s := u) s.restored d
    exact (hcur _).elim (fun h => h.trans hu) id

/-! ## The islands that come back (R262, R490) -/

/-- The islands of a mask that are on are released. -/
def State.releaseOn (s : State) (was : BitVec 4) : State :=
  (allFin 4).foldl (fun s i => if was.getLsbD i.val && s.domOn ⟨40 + i.val, by omega⟩ then s.releaseIsland i else s) s

theorem State.releaseIsland_fields (i : Fin 4) : (s.releaseIsland i).hazel = s.hazel ∧ (s.releaseIsland i).hbm = s.hbm ∧
    ∀ j, j ≠ i → (s.releaseIsland i).island.get j = s.island.get j := by
  obtain ⟨hframe, hisl⟩ := State.releaseIsland_moved s i
  refine ⟨?_, ?_, hisl⟩
  all_goals rw [hframe]

/-- What the release of islands leaves alone, and which islands it releases. -/
theorem State.releaseOn_spec (was : BitVec 4) : (s.releaseOn was).hazel = s.hazel ∧ (s.releaseOn was).hbm = s.hbm ∧
    ∀ i : Fin 4, ((s.releaseOn was).island.get i).st =
      if was.getLsbD i.val && s.domOn ⟨40 + i.val, by omega⟩ then .test else (s.island.get i).st := by
  have hfold : ∀ (l : List (Fin 4)) (u : State), l.Nodup → u.hazel = s.hazel → u.hbm = s.hbm →
      let t := l.foldl (fun s i => if was.getLsbD i.val && s.domOn ⟨40 + i.val, by omega⟩ then s.releaseIsland i else s) u
      t.hazel = s.hazel ∧ t.hbm = s.hbm ∧ ∀ i : Fin 4, (t.island.get i).st =
        if i ∈ l ∧ (was.getLsbD i.val && s.domOn ⟨40 + i.val, by omega⟩) = true then .test else (u.island.get i).st := by
    intro l
    induction l with
    | nil => exact fun u _ hz hb => ⟨hz, hb, fun i => by simp⟩
    | cons j l ih =>
      intro u hl hz hb
      obtain ⟨hj, hl⟩ := List.nodup_cons.mp hl
      have hon : u.domOn ⟨40 + j.val, by omega⟩ = s.domOn ⟨40 + j.val, by omega⟩ := congrArg (fun h : Hazel => (h.doms.get _).cur == .on) hz
      rw [List.foldl_cons]
      split
      next hrel =>
        obtain ⟨hz', hb', hother⟩ := State.releaseIsland_fields (s := u) j
        obtain ⟨hz2, hb2, hst⟩ := ih (u.releaseIsland j) hl (hz'.trans hz) (hb'.trans hb)
        refine ⟨hz2, hb2, fun i => ?_⟩
        rw [hst]
        by_cases hij : i = j
        · subst hij
          rw [hon] at hrel
          rw [if_neg (by simp [hj]), if_pos ⟨List.mem_cons_self, hrel⟩, State.releaseIsland_st]
        · rw [hother i hij]
          simp [hij]
      next hkeep =>
        obtain ⟨hz2, hb2, hst⟩ := ih u hl hz hb
        refine ⟨hz2, hb2, fun i => ?_⟩
        rw [hst]
        by_cases hij : i = j
        · subst hij
          rw [hon] at hkeep
          rw [if_neg (by simp [hj]), if_neg (fun h => hkeep h.2)]
        · simp [hij]
  obtain ⟨hz, hb, hst⟩ := hfold (allFin 4) s (List.nodup_finRange 4) rfl rfl
  refine ⟨hz, hb, fun i => (hst i).trans ?_⟩
  simp [allFin]

/-! ## SRAM_FILL_DONE -/

/-- The device resumes: the stacks leave self-refresh, the gated domains come on, and islands that were not HELD are tested. -/
theorem State.resume_spec {y : State} (hy : s.resume = y) : y.hazel.dev = .active ∧ y.hbm.train = s.hbm.keptTrain ∧
    (∀ d, suspendGated d.val = true → (y.dom d).cur = .on) ∧
    ∀ i : Fin 4,
      (s.hazel.islandsOn.getLsbD i.val = true → (s.dom ⟨40 + i.val, by omega⟩).req = .on → (y.island.get i).st = .test) ∧
      (s.hazel.islandsOn.getLsbD i.val = false → (y.island.get i).st = (s.island.get i).st) := by
  unfold State.resume at hy
  extract_lets +onlyGivenNames was _ s1 s2 s3 s4 at hy
  have hdom2 : ∀ d, s2.dom d = { s1.dom d with cur := if suspendGated d.val then .on else (s1.dom d).cur, changing := none, holdBy := none } :=
    fun d => State.setDoms_dom s1 _ d
  obtain ⟨-, -, -, hisl2, -⟩ := State.setDoms_else s1 fun d x => { x with cur := if suspendGated d then .on else x.cur }
  have htrain2 : s2.hbm.train = s.hbm.keptTrain := rfl
  have hreq2 : ∀ d, (s2.dom d).req = (s.dom d).req := fun d => by
    rw [hdom2]
    rfl
  have hgated2 : ∀ d, suspendGated d.val = true → (s2.dom d).cur = .on := fun d hd => by
    rw [hdom2]
    exact if_pos hd
  change s2.island = s.island at hisl2
  clear_value s2
  have heq3 : s3 = s2.restoreDoms := rfl
  clear_value s3
  have heq4 : s4 = s3.releaseOn was := rfl
  clear_value s4
  obtain ⟨htrain3, hst3, hcur3⟩ := State.restoreDoms_restores (s := s2)
  have hisl3 := fun i => State.restoreDoms_island (s := s2) i
  rw [← heq3] at htrain3 hst3 hcur3 hisl3
  obtain ⟨hhazel4, hhbm4, hst4⟩ := State.releaseOn_spec (s := s3) was
  rw [← heq4] at hhazel4 hhbm4 hst4
  obtain ⟨-, -, hhazel6, -, hisl6, hhbm6⟩ := (State.relines_relined (s4.modHz fun h => { h with islandsOn := 0 }).activate).fields
  obtain ⟨hhazel5, hisl5, hhbm5⟩ := State.activate_fields (s := s4.modHz fun h => { h with islandsOn := 0 }) rfl
  rw [hy] at hhazel6 hisl6 hhbm6
  have hhazel := hhazel6.trans hhazel5
  have hisl : y.island = s4.island := hisl6.trans hisl5
  have hhbm : y.hbm = s4.hbm := hhbm6.trans hhbm5
  have hdom : ∀ d, y.dom d = s3.dom d := fun d => by
    rw [State.dom, hhazel, State.dom, ← hhazel4]
    rfl
  refine ⟨by rw [hhazel], by rw [hhbm, hhbm4, htrain3, htrain2], fun d hd => ?_, fun i => ⟨fun hwas hreq => ?_, fun hwas => ?_⟩⟩
  · rw [hdom]
    exact (hcur3 d).elim (fun h => h.trans (hgated2 d hd)) id
  · have hon : s3.domOn ⟨40 + i.val, by omega⟩ = true := beq_iff_eq.mpr (hisl3 i ((hreq2 _).trans hreq))
    rw [hisl, hst4, hon, if_pos (by rw [Bool.and_true]; exact hwas)]
  · rw [hisl, hst4, if_neg (by rw [show was.getLsbD i.val = false from hwas]; simp), hst3, hisl2]

/-- What the end of the SRAM fill does. -/
def State.filled (s : State) : State :=
  if s.hazel.dev ≠ .waking ∨ s.hazel.pllOk = false then s
  else if s.hazel.booting then (if s.ev 0x2300 3 = 3 then s.setE 0x2300 3 4 else s)
  else s.resume

theorem exec_sramFillDone_else (h : s.hazel.dev ≠ .waking ∨ s.hazel.pllOk = false) : exec .sramFillDone s = .next s :=
  exec_of_served_idle (f := State.filled) rfl (if_pos h)

theorem State.filled_wakes (hdev : s.hazel.dev = .waking) (hpll : s.hazel.pllOk = true) :
    s.filled = if s.hazel.booting then (if s.ev 0x2300 3 = 3 then s.setE 0x2300 3 4 else s) else s.resume :=
  if_neg (by simp [hdev, hpll])

theorem completes_sramFillDone_boot (hdev : s.hazel.dev = .waking) (hpll : s.hazel.pllOk = true) (hboot : s.hazel.booting = true) :
    completes .sramFillDone s fun t => t = if s.ev 0x2300 3 = 3 then s.setE 0x2300 3 4 else s := by
  have hfilled := State.filled_wakes (s := { s with held := false }) hdev hpll
  refine ⟨s.served State.filled, rfl, State.served_eq (hfilled.trans ((if_pos hboot).trans ?_)) ?_⟩
  · by_cases h3 : s.ev 0x2300 3 = 3
    · rw [if_pos h3]
      exact if_pos h3
    · rw [if_neg h3]
      exact if_neg h3
  · split <;> rfl

theorem completes_sramFillDone_resume (hdev : s.hazel.dev = .waking) (hpll : s.hazel.pllOk = true) (hboot : s.hazel.booting = false) :
    completes .sramFillDone s fun t => t = s.orWaits (State.resume { s with held := false }) := by
  have hfilled := State.filled_wakes (s := { s with held := false }) hdev hpll
  have hresume := hfilled.trans (if_neg (by simp [hboot]))
  exact ⟨_, rfl, congrArg s.orWaits hresume⟩

end

end Sys2Proof.Machine
end

section
/-! Images: what R349 checks, what the boot ROM and the SMC firmware do with one, and the stop of a boot (R349, R350, R419 to R421,
R470, R493 to R496). -/
namespace Sys2Proof.Machine

/-! ## R349 -/

section
variable {s : State}

theorem State.fusedDigest_eq_some {slot : Nat} {d : BitVec 384} :
    s.fusedDigest slot = some d ↔ ∃ b, s.hazel.board = some b ∧ b.keyDigest.get (fin 3 slot) = d := Option.map_eq_some_iff

/-- An image passes exactly where each check passes. -/
theorem State.verifies_iff {ty : Nat} {h : ImageHeader} {body : List Byte} :
    let part (off n : Nat) := slice h.bytes off n
    let f (off n : Nat) := ofBytes (part off n)
    s.verifies ty h body = true ↔
    f 0 4 = 0x4B52444E ∧ f 4 2 = 1 ∧ f 6 1 = ty ∧ f 0xC 4 = 0 ∧ f 0xB1 15 = 0 ∧ f 0x15AD 83 = 0 ∧
    f 7 1 < 4 ∧ s.ev 0x3000 (0x20 + f 7 1) = 1 ∧
    (∃ b, s.hazel.board = some b ∧ b.keyDigest.get (fin 3 (f 7 1)) = BitVec.ofNat 384 (ofBytes (sha384 (part 0x50 0x810)))) ∧
    s.ev 0x3000 (0x30 + ty) ≤ f 8 4 ∧
    Config.ecdsaVerify (part 0x50 97) (sha384 (part 0 0x860)) (part 0x860 96) = true ∧
    Config.mldsaVerify (part 0xC0 1952) (sha384 (part 0 0x860)) (part 0x8C0 3309) = true ∧
    body.length = f 0x10 8 ∧ BitVec.ofNat 384 (ofBytes (sha384 body)) = BitVec.ofNat 384 (f 0x20 48) := by
  intro part f
  simp only [State.verifies, imgForm, Bool.and_eq_true, decide_eq_true_eq, beq_iff_eq, and_assoc, State.fusedDigest_eq_some]
  rfl

/-! ## The boot ROM: stages 0x04 to 0x07 -/

/-- The type of the image that a stage of the boot ROM verifies. -/
def romType (st : Nat) : Nat := if st = 4 then 4 else if st = 5 then 2 else if st = 6 then 3 else 1

theorem romType_eq {st : Nat} (hlow : 4 ≤ st) (hhigh : st ≤ 7) : [4, 2, 3, 1].getD (st - 4) 0 = romType st := by
  obtain rfl | rfl | rfl | rfl : st = 4 ∨ st = 5 ∨ st = 6 ∨ st = 7 := by omega
  all_goals rfl

section
variable {h : ImageHeader} {unit : Nat} {body : List Byte}

theorem State.romImage_unread (hlow : 4 ≤ s.ev 0x2300 3) (hhigh : s.ev 0x2300 3 ≤ 7) (hread : h.readOk = false) :
    s.romImage h body = s.bootStop (romType (s.ev 0x2300 3)) 2 := by
  unfold State.romImage
  dsimp only
  rw [romType_eq hlow hhigh, if_pos (by simp [hread])]

theorem State.romImage_refused (hlow : 4 ≤ s.ev 0x2300 3) (hhigh : s.ev 0x2300 3 ≤ 7) (hread : h.readOk = true)
    (hver : s.verifies (romType (s.ev 0x2300 3)) h body = false) : s.romImage h body = s.bootStop (romType (s.ev 0x2300 3)) 3 := by
  unfold State.romImage
  dsimp only
  rw [romType_eq hlow hhigh, if_neg (by simp [hread]), if_pos (by simp [hver])]

/-- What each stage does with an image that passes. -/
def State.romTakes (s : State) (ty : Nat) (h : ImageHeader) (body : List Byte) : State :=
  if s.ev 0x2300 3 = 4 then (s.setE 0x1000 0xA (imgVersion h)).stage (if s.env.locked then 6 else 5)
  else if s.ev 0x2300 3 = 5 then (if envOk (imgLength h) body then (s.lockEnvelope h body).stage 6 else s.bootStop ty 4)
  else if s.ev 0x2300 3 = 6 then
    match s.applyParams h body with
    | some s => s.stage 7
    | none => s.bootStop ty 5
  else ((s.setE 0x1000 9 (imgVersion h)).loadSmc (imgLoad h) body).stage 8

theorem State.romImage_passes (hlow : 4 ≤ s.ev 0x2300 3) (hhigh : s.ev 0x2300 3 ≤ 7) (hread : h.readOk = true)
    (hver : s.verifies (romType (s.ev 0x2300 3)) h body = true) : s.romImage h body = s.romTakes (romType (s.ev 0x2300 3)) h body := by
  unfold State.romImage
  dsimp only
  rw [romType_eq hlow hhigh, if_neg (by simp [hread]), if_neg (by simp [hver])]
  rfl

section
variable {ty : Nat}

theorem State.romTakes_firmware (hst : s.ev 0x2300 3 = 4) :
    s.romTakes ty h body = (s.setE 0x1000 0xA (imgVersion h)).stage (if s.env.locked then 6 else 5) := if_pos hst

theorem State.romTakes_envelope (hst : s.ev 0x2300 3 = 5) :
    s.romTakes ty h body = if envOk (imgLength h) body then (s.lockEnvelope h body).stage 6 else s.bootStop ty 4 :=
  (if_neg (by omega)).trans (if_pos hst)

theorem State.romTakes_params (hst : s.ev 0x2300 3 = 6) : (∃ v, s.applyParams h body = some v ∧ s.romTakes ty h body = v.stage 7) ∨
    (s.applyParams h body = none ∧ s.romTakes ty h body = s.bootStop ty 5) := by
  unfold State.romTakes
  rw [if_neg (by omega), if_neg (by omega), if_pos hst]
  cases happly : s.applyParams h body with
  | none => exact .inr ⟨rfl, rfl⟩
  | some v => exact .inl ⟨v, rfl, rfl⟩

theorem State.romTakes_smc (hst : s.ev 0x2300 3 = 7) :
    s.romTakes ty h body = ((s.setE 0x1000 9 (imgVersion h)).loadSmc (imgLoad h) body).stage 8 := by
  unfold State.romTakes
  rw [if_neg (by omega), if_neg (by omega), if_neg (by omega)]

end

/-! ## BOOT_IMAGE_VERIFY -/

/-- The directory can be read. -/
def State.dirRead (s : State) : Prop := ∃ b, s.hazel.board = some b ∧ b.dir.readOk = true

/-- The directory meets R493. -/
def State.dirGood (s : State) : Prop := ∃ b, s.hazel.board = some b ∧ bootDirOk b.dir = true

theorem getD_map_eq_true_iff {α : Type} {o : Option α} {p : α → Bool} : (o.map p).getD false = true ↔ ∃ a, o = some a ∧ p a = true := by
  cases o <;> simp

/-- What the end of the verification of an image does, once stage 0x09 has begun where it is due. -/
def State.imageDone (s : State) (h : ImageHeader) (unit : Nat) (body : List Byte) : State :=
  let st := s.ev 0x2300 3
  let dirOk := (s.hazel.board.map (fun b => bootDirOk b.dir)).getD false
  let readOk := (s.hazel.board.map (·.dir.readOk)).getD false
  if s.hazel.booting ∧ 4 ≤ st ∧ st ≤ 7 then
    if st = 4 ∧ readOk = false then s.bootStop 0 2
    else if st = 4 ∧ dirOk = false then s.bootStop 0 1
    else s.romImage h body
  else if 8 ≤ st ∧ st ≤ 10 ∧ s.domOn 57 ∧ 5 ≤ (imgType h) ∧ (imgType h) ≤ 7 ∧ ((imgType h) = 7 → 9 ≤ st ∧ s.hbmReady) then
    if h.readOk ∧ s.verifies (imgType h) h body then s.smcImage (imgType h) unit h body
    else if s.hazel.booting then s.bootStop (imgType h) (if h.readOk then 3 else 2)
    else s
  else s

theorem completes_bootImageVerify {x : State} (hx : (State.stage9 { s with held := false }).imageDone h unit body = x) :
    completes (.bootImageVerify h unit body) s fun t => t = s.orWaits x := by
  subst hx
  exact ⟨_, rfl, rfl⟩

theorem State.imageDone_unread (hboot : s.hazel.booting = true) (h4 : s.ev 0x2300 3 = 4) (hdir : ¬ s.dirRead) :
    s.imageDone h unit body = s.bootStop 0 2 := by
  rw [State.dirRead, ← getD_map_eq_true_iff, Bool.not_eq_true] at hdir
  unfold State.imageDone
  dsimp only
  rw [if_pos ⟨hboot, by omega, by omega⟩, if_pos ⟨h4, hdir⟩]

theorem State.imageDone_malformed (hboot : s.hazel.booting = true) (h4 : s.ev 0x2300 3 = 4) (hdir : s.dirRead) (hgood : ¬ s.dirGood) :
    s.imageDone h unit body = s.bootStop 0 1 := by
  rw [State.dirRead, ← getD_map_eq_true_iff] at hdir
  rw [State.dirGood, ← getD_map_eq_true_iff, Bool.not_eq_true] at hgood
  unfold State.imageDone
  dsimp only
  rw [if_pos ⟨hboot, by omega, by omega⟩, if_neg (by simp [hdir]), if_pos ⟨h4, hgood⟩]

theorem State.imageDone_rom (hboot : s.hazel.booting = true) (hlow : 4 ≤ s.ev 0x2300 3) (hhigh : s.ev 0x2300 3 ≤ 7)
    (hdir : s.ev 0x2300 3 = 4 → s.dirRead ∧ s.dirGood) : s.imageDone h unit body = s.romImage h body := by
  rw [State.dirRead, ← getD_map_eq_true_iff, State.dirGood, ← getD_map_eq_true_iff] at hdir
  unfold State.imageDone
  dsimp only
  rw [if_pos ⟨hboot, hlow, hhigh⟩, if_neg fun hbad => by simp [(hdir hbad.1).1] at hbad, if_neg fun hbad => by simp [(hdir hbad.1).2] at hbad]

/-- The SMC firmware takes an image: its type is one of 5 to 7, an A-core image once the fill has ended. -/
def State.smcTakes (s : State) (h : ImageHeader) : Prop :=
  8 ≤ s.ev 0x2300 3 ∧ s.ev 0x2300 3 ≤ 10 ∧ s.domOn 57 = true ∧ 5 ≤ imgType h ∧ imgType h ≤ 7 ∧
  (imgType h = 7 → 9 ≤ s.ev 0x2300 3 ∧ s.hbmReady = true)

theorem State.imageDone_smc (htakes : s.smcTakes h) : s.imageDone h unit body =
    if h.readOk ∧ s.verifies (imgType h) h body then s.smcImage (imgType h) unit h body
    else if s.hazel.booting then s.bootStop (imgType h) (if h.readOk then 3 else 2)
    else s := by
  have hlow := htakes.1
  unfold State.imageDone
  dsimp only
  rw [if_neg (by omega)]
  exact if_pos htakes

theorem State.imageDone_smc_refused (htakes : s.smcTakes h) (hbad : h.readOk = false ∨ s.verifies (imgType h) h body = false) :
    s.imageDone h unit body = if s.hazel.booting then s.bootStop (imgType h) (if h.readOk then 3 else 2) else s := by
  rw [State.imageDone_smc htakes, if_neg]
  rintro ⟨hread, hver⟩
  exact hbad.elim (fun h => by simp [hread] at h) fun h => by simp [hver] at h

theorem State.imageDone_smc_passes (htakes : s.smcTakes h) (hread : h.readOk = true) (hver : s.verifies (imgType h) h body = true) :
    s.imageDone h unit body = s.smcImage (imgType h) unit h body := by
  rw [State.imageDone_smc htakes, if_pos ⟨hread, hver⟩]

theorem State.imageDone_else (hrom : s.hazel.booting = false ∨ s.ev 0x2300 3 < 4 ∨ 7 < s.ev 0x2300 3)
    (hsmc : s.ev 0x2300 3 < 8 ∨ 10 < s.ev 0x2300 3 ∨ s.domOn 57 = false ∨ imgType h < 5 ∨ 7 < imgType h ∨
      (imgType h = 7 ∧ (s.ev 0x2300 3 < 9 ∨ s.hbmReady = false))) : s.imageDone h unit body = s := by
  unfold State.imageDone
  dsimp only
  rw [if_neg, if_neg]
  · rintro ⟨hlow, hhigh, hon, h5, h7, hready⟩
    obtain h | h | h | h | h | ⟨h, hh⟩ := hsmc
    · omega
    · omega
    · simp [hon] at h
    · omega
    · omega
    · obtain ⟨h9, hhbm⟩ := hready h
      exact hh.elim (by omega) fun h => by simp [hhbm] at h
  · rintro ⟨hboot, hlow, hhigh⟩
    obtain h | h | h := hrom
    · simp [hboot] at h
    · omega
    · omega

/-- The SMC firmware holds an image. -/
def State.holds (s : State) (k unit : Nat) (body : List Byte) : State :=
  s.modHz fun z => { z with images := kvPut (k + 256 * unit) body z.images }

theorem State.smcImage_ucode : s.smcImage 5 unit h body = (s.holds 5 unit body).setE 0x6018 2 (imgVersion h) := rfl

theorem State.smcImage_island {i : Fin 4} (hunit : unit = i.val) (hload : imgLoad h = sharedPa i 0x800000) (hlen : body.length = 0x80000) :
    s.smcImage 6 unit h body = s.holds 6 unit body := by
  subst hunit
  have hfin : fin 3 i.val = i := Fin.ext (Nat.mod_eq_of_lt i.isLt)
  unfold State.smcImage
  dsimp only
  rw [if_neg (by decide), if_pos rfl, if_pos ⟨i.isLt, by rw [hfin]; exact hload, hlen⟩]
  rfl

theorem State.smcImage_core : s.smcImage 7 unit h body =
    let v := ((s.holds 7 unit body).dmaWrite .smc (imgLoad h) body).1
    if unit = 0 then v.setE 0x2300 5 (imgLoad h) else v := rfl

end

/-- Stage 0x09 begins where it is due, and nothing else changes. -/
theorem State.stage9_cases : s.stage9 = s ∨ (s.ev 0x2300 3 = 8 ∧ s.hbm.fill = .done ∧ s.gw.ucode = .running ∧
    (∀ r ∈ s.dirRecs 6, (s.island.get (fin 3 r.unit)).st ≠ .held) ∧ s.stage9 = s.setE 0x2300 3 9) := by
  unfold State.stage9
  split
  next h =>
    obtain ⟨h8, hfill, hucode, hisl⟩ := h
    exact .inr ⟨h8, hfill, hucode, fun r hr => by simpa using List.all_eq_true.mp hisl r hr, rfl⟩
  next => exact .inl rfl

end

/-! ## The envelope (R419 to R421) -/

section
variable {s : State} {h : ImageHeader} {body : List Byte}

/-- The envelope block as a body's records give it. -/
def State.envOf (s : State) (h : ImageHeader) (body : List Byte) : Env := { s.env with
  locked := true,
  id := BitVec.ofNat 32 (envWord body 0),
  secVersion := imgVersion h,
  digest := imgDigest h,
  ports := Vector.ofFn fun n => word ((envPorts body).getD n.val 0),
  can := Vector.ofFn fun n => word ((envCans body).getD n.val 0),
  outs := Vector.ofFn fun k => let r := (envOuts body).getD k.val (0, 0); (word r.1, word r.2),
  allow := (envAllow body).map word }

/-- A port's bucket is full at its record's rate. -/
def State.fillBucket (s : State) (e : Env) (at_ : Nat) (n : Fin 24) : State := s.modPort n fun p =>
  { p with bucket := bits (e.ports.get n).toNat 55 32 * 8000000, bucketAt := at_ }

/-- Every port's bucket is full. -/
def State.bucketsFull (s : State) (e : Env) (at_ : Nat) : State := (allFin 24).foldl (fun s n => s.fillBucket e at_ n) s

theorem State.bucketsFull_spec {e : Env} {at_ : Nat} {t : State} (ht : s.bucketsFull e at_ = t) : t.env = s.env ∧
    ∀ n : Fin 24, (t.gw.ports.get n).bucket = bits (e.ports.get n).toNat 55 32 * 8000000 := by
  have hkeep : ∀ (u : State) (m n : Fin 24), (u.gw.ports.get n).bucket = bits (e.ports.get n).toNat 55 32 * 8000000 →
      ((u.fillBucket e at_ m).gw.ports.get n).bucket = bits (e.ports.get n).toNat 55 32 * 8000000 := fun u m n hu => by
    by_cases hm : n = m
    · subst hm
      rw [State.fillBucket, State.modPort_get]
    · exact (congrArg Port.bucket (vmod_get_ne _ _ hm)).trans hu
  have henv : ((allFin 24).foldl (fun s n => State.fillBucket s e at_ n) s).env = s.env :=
    List.foldlRecOn (motive := fun t : State => t.env = s.env) (allFin 24) (fun s n => s.fillBucket e at_ n) rfl fun u hu n _ => hu
  have hfull : ∀ n : Fin 24, (((allFin 24).foldl (fun s n => State.fillBucket s e at_ n) s).gw.ports.get n).bucket =
      bits (e.ports.get n).toNat 55 32 * 8000000 := fun n => by
    have hmem : n ∈ allFin 24 := List.mem_finRange n
    refine foldl_reaches (P := fun t : State => (t.gw.ports.get n).bucket = bits (e.ports.get n).toNat 55 32 * 8000000)
      (fun u => ?_) (fun u m hu => hkeep u m n hu) hmem s
    rw [State.fillBucket, State.modPort_get]
  subst ht
  exact ⟨henv, hfull⟩

/-- The outputs of every island take their safe values. -/
def State.allSafe (s : State) : State := (allFin 4).foldl (fun s i => s.pinsSafe i) s

theorem State.allSafe_fields {t : State} (ht : s.allSafe = t) : t.env = s.env ∧ t.gw = s.gw := by
  have hkeep : ∀ (u : State) (i : Fin 4), (u.pinsSafe i).env = u.env ∧ (u.pinsSafe i).gw = u.gw := fun u i => by
    rw [(State.pinsSafe_moved u i).1]
    exact ⟨rfl, rfl⟩
  have hfold := List.foldlRecOn (motive := fun t : State => t.env = s.env ∧ t.gw = s.gw) (allFin 4) (fun s i => s.pinsSafe i)
    (⟨rfl, rfl⟩ : s.env = s.env ∧ s.gw = s.gw) fun u ⟨henv, hgw⟩ i _ => ⟨(hkeep u i).1.trans henv, (hkeep u i).2.trans hgw⟩
  subst ht
  exact hfold

theorem State.lockEnvelope_eq :
    s.lockEnvelope h body = (State.bucketsFull { s with env := s.envOf h body } (s.envOf h body) s.time).allSafe := by
  unfold State.lockEnvelope State.bucketsFull State.allSafe
  rfl

theorem State.lockEnvelope_fields {t : State} (ht : s.lockEnvelope h body = t) : t.env = s.envOf h body ∧
    ∀ n : Fin 24, (t.gw.ports.get n).bucket = bits ((s.envOf h body).ports.get n).toNat 55 32 * 8000000 := by
  rw [State.lockEnvelope_eq] at ht
  generalize hv : State.bucketsFull { s with env := s.envOf h body } (s.envOf h body) s.time = v at ht
  obtain ⟨henv, hbucket⟩ := State.bucketsFull_spec hv
  obtain ⟨henv', hgw⟩ := State.allSafe_fields ht
  exact ⟨henv'.trans henv, fun n => by rw [hgw]; exact hbucket n⟩

/-- A record of a list that is computed from its place. -/
theorem getD_map_range {α : Type} {f : Nat → α} {n k : Nat} {d : α} (hk : k < n) : ((List.range n).map f).getD k d = f k := by
  simp [List.getD, hk]

/-- The rate of a port record, where the word that holds it keeps 64 bits. -/
theorem bits_word (x : Nat) : bits (word x).toNat 55 32 = x / 2 ^ 32 % 2 ^ 24 := by
  rw [bits, word, BitVec.toNat_ofNat, Nat.shiftRight_eq_div_pow]
  omega

theorem State.lockEnvelope_spec :
    let t := s.lockEnvelope h body
    t.env.locked = true ∧ t.env.secVersion = imgVersion h ∧ t.env.digest = imgDigest h ∧
    (∀ n : Fin 24, t.env.ports.get n = word (ofBytes (slice body (0x10 + 8 * n.val) 8)) ∧
      t.env.can.get n = word (ofBytes (slice body (0xD0 + 8 * n.val) 8)) ∧
      (t.gw.ports.get n).bucket = ofBytes (slice body (0x10 + 8 * n.val) 8) / 2 ^ 32 % 2 ^ 24 * 8000000) ∧
    (∀ k : Fin 64, t.env.outs.get k = (word (ofBytes (slice body (0x190 + 16 * k.val) 8)), word (ofBytes (slice body (0x198 + 16 * k.val) 8)))) ∧
    ∀ k, k < (body.length - 0x590) / 8 → t.env.allow[k]? = some (word (ofBytes (slice body (0x590 + 8 * k) 8))) := by
  intro t
  obtain ⟨henv, hbucket⟩ := State.lockEnvelope_fields (t := t) rfl
  clear_value t
  have hport : ∀ n : Fin 24, (s.envOf h body).ports.get n = word (ofBytes (slice body (0x10 + 8 * n.val) 8)) := fun n => by
    refine (Vector.getElem_ofFn n.isLt).trans (congrArg word ?_)
    exact getD_map_range n.isLt
  refine ⟨by rw [henv]; rfl, by rw [henv]; rfl, by rw [henv]; rfl, fun n => ⟨by rw [henv, hport], ?_, by rw [hbucket, hport, bits_word]⟩,
    fun k => ?_, fun k hk => ?_⟩
  · rw [henv]
    refine (Vector.getElem_ofFn n.isLt).trans (congrArg word ?_)
    exact getD_map_range n.isLt
  · rw [henv]
    refine (Vector.getElem_ofFn k.isLt).trans ?_
    exact congrArg (fun r : Nat × Nat => (word r.1, word r.2)) (getD_map_range (n := 64) k.isLt)
  · rw [henv]
    simp [State.envOf, envAllow, envWord, hk]

end

/-! ## The stop of a boot (R496) -/

section
variable {s : State}

theorem State.bootStop_spec (hs : s.canon) {ty reason : Nat} {t : State} (ht : s.bootStop ty reason = t) :
    t.ev 0x2300 3 = 0xFF ∧ t.ev 0x2300 4 = s.ev 0x2300 3 + ty * 256 + reason * 65536 ∧ t.hazel.dev = .sleep ∧
    (∀ i : Fin 4, (t.island.get i).st = .held) ∧ t.hazel.stopped = true := by
  have hcanon : s.sleepEntry.canon := (State.sleepEntry_keep (q := s.pending) ⟨rfl, hs⟩).2
  obtain ⟨hdev, -, -, -, hheld, -⟩ := State.sleepEntry_spec s rfl
  unfold State.bootStop at ht
  dsimp only at ht
  generalize s.sleepEntry = v at *
  subst ht
  have hcanon3 := State.setE_canon hcanon 0x2300 3 0xFF
  refine ⟨?_, ?_, hdev, hheld, rfl⟩
  · refine (State.ev_setE hcanon3 0x2300 4 _ 0x2300 3).trans ((if_neg (by decide)).trans ?_)
    rw [State.ev_setE hcanon, if_pos rfl]
  · exact (State.ev_setE hcanon3 0x2300 4 _ 0x2300 4).trans (if_pos rfl)

end

end Sys2Proof.Machine
end

section
/-! Islands, microcode and BOOT_CORE: the last stages of the boot (R387, R494, R495). -/
namespace Sys2Proof.Machine

section
variable {s : State}

/-! ## ISLAND_IMAGE_STAGE -/

/-- An island is on, and its image may be staged. -/
def State.stageable (s : State) (i : Fin 4) : Prop :=
  s.domOn ⟨40 + i.val, by omega⟩ = true ∧ ((s.island.get i).st = .held ∨ (s.island.get i).st = .test)

/-- The image of an island is in its shared SRAM. -/
def State.staged (s : State) (i : Fin 4) (body : List Byte) : State :=
  let a := sharedPa i 0x800000
  let b := body.take 0x80000
  { (s.eccWrite a b.length).clearTags a b.length with mem := Memory.write s.mem a b }

theorem exec_islandImageStage_none {i : Fin 4} (h : kvGet? s.hazel.images (6 + 256 * i.val) = none) :
    exec (.islandImageStage i) s = .next s := by
  have hnone : s.image? 6 i.val = none := h
  refine congrArg Host.Outcome.next ?_
  rw [hnone]

theorem exec_islandImageStage_some {i : Fin 4} {body : List Byte} (h : kvGet? s.hazel.images (6 + 256 * i.val) = some body) :
    exec (.islandImageStage i) s = .next (if s.domOn ⟨40 + i.val, by omega⟩ ∧ ((s.island.get i).st = .held ∨ (s.island.get i).st = .test) then
      (if (s.island.get i).st = .held then (s.staged i body).releaseIsland i else s.staged i body).stage9 else s) := by
  have hsome : s.image? 6 i.val = some body := h
  refine congrArg Host.Outcome.next ?_
  rw [hsome]
  rfl

theorem exec_islandImageStage_else {i : Fin 4} (h : ¬ s.stageable i ∨ kvGet? s.hazel.images (6 + 256 * i.val) = none) :
    exec (.islandImageStage i) s = .next s := by
  cases himage : kvGet? s.hazel.images (6 + 256 * i.val) with
  | none => exact exec_islandImageStage_none himage
  | some body =>
    rw [exec_islandImageStage_some himage]
    exact congrArg Host.Outcome.next (if_neg (h.resolve_right (by simp [himage])))

theorem completes_islandImageStage {i : Fin 4} {body : List Byte} (hready : s.stageable i)
    (himage : kvGet? s.hazel.images (6 + 256 * i.val) = some body) : completes (.islandImageStage i) s fun t =>
      t = if (s.island.get i).st = .held then ((s.staged i body).releaseIsland i).stage9 else (s.staged i body).stage9 := by
  refine ⟨_, exec_islandImageStage_some himage, (if_pos hready).trans ?_⟩
  split <;> rfl

/-! ## MICROCODE_LOAD -/

theorem completes_microcodeLoad (himage : (kvGet? s.hazel.images 5).isSome = true) (hon : s.domOn 50 = true) :
    completes .microcodeLoad s fun t => t = State.stage9 { s with gw := { s.gw with ucode := .running } } :=
  ⟨_, rfl, if_pos ⟨himage, hon⟩⟩

theorem exec_microcodeLoad_else (h : ¬ (kvGet? s.hazel.images 5).isSome = true ∨ s.domOn 50 = false) : exec .microcodeLoad s = .next s := by
  refine congrArg Host.Outcome.next (if_neg ?_)
  rintro ⟨himage, hon⟩
  obtain h | h := h
  · exact h himage
  · exact Bool.false_ne_true (h.symm.trans hon)

/-! ## BOOT_CORE_RELEASE -/

/-- The SMC firmware holds every A-core image of the directory. -/
def State.coresLoaded (s : State) : Prop := ∀ k, k < (s.dirRecs 7).length → (kvGet? s.hazel.images (7 + 256 * k)).isSome = true

theorem State.coresLoaded_iff : ((List.range (s.dirRecs 7).length).all fun k => (s.image? 7 k).isSome) = true ↔ s.coresLoaded := by
  simp only [List.all_eq_true, List.mem_range]
  rfl

/-- BOOT_CORE's domain and that of its L2 are to be on, and begin to come on. -/
def State.bootCoreOn (s : State) (c : Fin 32) : State :=
  let core : Fin 64 := ⟨c.val, by omega⟩
  let l2 := l2Dom (podOf c)
  let s := (s.modDom core fun x => { x with req := .on }).modDom l2 fun x => { x with req := .on }
  (s.beginTo l2 .on).beginTo core .on

theorem State.beginTo_on (d : Fin 64) : s.beginTo d .on = s.modDom d fun x => { x with changing := some .on } := by
  unfold State.beginTo
  exact if_neg (by decide)

/-- Two domains of a list are to be on, and begin to come on. -/
def bothOn (v : Vector Domain 64) (c l : Fin 64) : Vector Domain 64 :=
  let req (x : Domain) : Domain := { x with req := .on }
  let go (x : Domain) : Domain := { x with changing := some .on }
  vmod (vmod (vmod (vmod v c req) l req) l go) c go

theorem bothOn_get {v : Vector Domain 64} {c l : Fin 64} (hne : c ≠ l) (d : Fin 64) : (bothOn v c l).get d =
    if d = l ∨ d = c then { v.get d with req := .on, changing := some .on } else v.get d := by
  unfold bothOn
  by_cases hc : d = c
  · subst hc
    rw [if_pos (.inr rfl), vmod_get, vmod_get_ne _ _ hne, vmod_get_ne _ _ hne, vmod_get]
  · rw [vmod_get_ne _ _ hc]
    by_cases hl : d = l
    · subst hl
      rw [if_pos (.inl rfl), vmod_get, vmod_get, vmod_get_ne _ _ hc]
    · rw [if_neg (by simp [hc, hl]), vmod_get_ne _ _ hl, vmod_get_ne _ _ hl, vmod_get_ne _ _ hc]

theorem State.bootCoreOn_bothOn (c : Fin 32) : s.bootCoreOn c =
    s.modHz fun z => { z with doms := bothOn z.doms ⟨c.val, by omega⟩ (l2Dom (podOf c)) } := by
  simp only [State.bootCoreOn, State.beginTo_on, State.modDom, State.modHz, bothOn]

/-- The two domains that come on with BOOT_CORE. -/
theorem State.bootCoreOn_eq (c : Fin 32) (l : Fin 64) (hl : l.val = 32 + c.val / 4) : s.bootCoreOn c =
    s.modHz fun z => { z with doms := Vector.ofFn fun d =>
      if d = l ∨ d.val = c.val then { z.doms.get d with req := .on, changing := some .on } else z.doms.get d } := by
  obtain rfl : l = l2Dom (podOf c) := Fin.ext hl
  have hne : (⟨c.val, by omega⟩ : Fin 64) ≠ l2Dom (podOf c) := fun h => by
    have hval := congrArg Fin.val h
    rw [hl] at hval
    dsimp only at hval
    omega
  have hdoms : bothOn s.hazel.doms ⟨c.val, by omega⟩ (l2Dom (podOf c)) = Vector.ofFn fun d =>
      if d = l2Dom (podOf c) ∨ d.val = c.val then { s.hazel.doms.get d with req := .on, changing := some .on } else s.hazel.doms.get d := by
    refine Vector.ext fun k hk => ?_
    rw [Vector.getElem_ofFn]
    refine (bothOn_get hne ⟨k, hk⟩).trans ?_
    simp only [Fin.ext_iff]
  rw [State.bootCoreOn_bothOn, State.modHz, hdoms]
  rfl

/-- What the release of BOOT_CORE does at stage 0x09. -/
def State.bootReleased (s : State) : State :=
  let v := ((s.setE 0x2300 3 0xA).setE 0x2300 9 ((s.time - s.hazel.bootAt) / 1000 % 2 ^ 32)).activate
  if v.coreRetired (fin 31 (s.ev 0x2300 6)).val then v else v.bootCoreOn (fin 31 (s.ev 0x2300 6))

/-- What BOOT_CORE_RELEASE does. -/
def State.bootRelease (s : State) : State :=
  let loaded := (List.range (s.dirRecs 7).length).all fun k => (s.image? 7 k).isSome
  if s.ev 0x2300 3 ≠ 9 ∨ loaded = false then s else s.bootReleased

theorem exec_bootCoreRelease : exec .bootCoreRelease s = .next (s.served State.bootRelease) := rfl

theorem exec_bootCoreRelease_else (h : s.ev 0x2300 3 ≠ 9 ∨ ¬ s.coresLoaded) : exec .bootCoreRelease s = .next s := by
  refine exec_of_served_idle exec_bootCoreRelease (if_pos ?_)
  refine h.imp id fun h => ?_
  rw [← State.coresLoaded_iff, Bool.not_eq_true] at h
  exact h

theorem completes_bootCoreRelease (h9 : s.ev 0x2300 3 = 9) (hloaded : s.coresLoaded) :
    completes .bootCoreRelease s fun t => t = s.orWaits (State.bootReleased { s with held := false }) := by
  rw [← State.coresLoaded_iff] at hloaded
  have hgo : State.bootRelease { s with held := false } = State.bootReleased { s with held := false } :=
    if_neg (not_or.mpr ⟨fun h => h h9, fun h => Bool.false_ne_true (h.symm.trans hloaded)⟩)
  exact ⟨_, exec_bootCoreRelease, congrArg s.orWaits hgo⟩

theorem State.bootCoreOn_dev (c : Fin 32) : (s.bootCoreOn c).hazel.dev = s.hazel.dev := by
  rw [State.bootCoreOn_bothOn, State.modHz]

theorem State.bootReleased_spec :
    let v := ((s.setE 0x2300 3 0xA).setE 0x2300 9 ((s.time - s.hazel.bootAt) / 1000 % 2 ^ 32)).activate
    s.bootReleased.hazel.dev = .active ∧ ∀ c : Fin 32, c.val = s.ev 0x2300 6 % 32 →
      (v.coreRetired c.val = true → s.bootReleased = v) ∧ (v.coreRetired c.val = false → s.bootReleased = v.bootCoreOn c) := by
  intro v
  have hdev : v.hazel.dev = .active := by
    obtain ⟨hhazel, -⟩ := State.activate_fields (t := v) rfl
    rw [hhazel]
  have heq : s.bootReleased = if v.coreRetired (fin 31 (s.ev 0x2300 6)).val then v else v.bootCoreOn (fin 31 (s.ev 0x2300 6)) := rfl
  clear_value v
  refine ⟨?_, fun c hc => ?_⟩
  · rw [heq]
    split
    · exact hdev
    · rw [State.bootCoreOn_dev, hdev]
  · obtain rfl : c = fin 31 (s.ev 0x2300 6) := Fin.ext hc
    exact ⟨fun hret => heq.trans (if_pos hret), fun hret => heq.trans (if_neg (by simp [hret]))⟩

end

/-! ## BOOT_IMAGE_VERIFY, by stage -/

section
variable {s : State} {h : ImageHeader} {unit : Nat} {body : List Byte}

/-- The state in which the verification of an image ends. -/
def State.dueStage9 (s : State) : State := State.stage9 { s with held := false }

/-- In stages 0x04 to 0x07 the boot ROM takes the image. -/
theorem completes_bootImageVerify_rom (hboot : s.dueStage9.hazel.booting = true) (hlow : 4 ≤ s.dueStage9.ev 0x2300 3)
    (hhigh : s.dueStage9.ev 0x2300 3 ≤ 7) (hdir : s.dueStage9.ev 0x2300 3 = 4 → s.dueStage9.dirRead ∧ s.dueStage9.dirGood) :
    let u := s.dueStage9
    let st := u.ev 0x2300 3
    (h.readOk = false → completes (.bootImageVerify h unit body) s fun t => t = s.orWaits (u.bootStop (romType st) 2)) ∧
    (h.readOk = true → u.verifies (romType st) h body = false →
      completes (.bootImageVerify h unit body) s fun t => t = s.orWaits (u.bootStop (romType st) 3)) ∧
    (h.readOk = true → u.verifies (romType st) h body = true →
      (st = 4 → completes (.bootImageVerify h unit body) s fun t =>
        t = s.orWaits ((u.setE 0x1000 0xA (imgVersion h)).stage (if u.env.locked then 6 else 5))) ∧
      (st = 5 → completes (.bootImageVerify h unit body) s fun t =>
        t = s.orWaits (if envOk (imgLength h) body then (u.lockEnvelope h body).stage 6 else u.bootStop 2 4)) ∧
      (st = 6 → completes (.bootImageVerify h unit body) s fun t =>
        (∃ v, u.applyParams h body = some v ∧ t = s.orWaits (v.stage 7)) ∨ (u.applyParams h body = none ∧ t = s.orWaits (u.bootStop 3 5))) ∧
      (st = 7 → completes (.bootImageVerify h unit body) s fun t =>
        t = s.orWaits (((u.setE 0x1000 9 (imgVersion h)).loadSmc (imgLoad h) body).stage 8))) := by
  intro u st
  have hrom : u.imageDone h unit body = u.romImage h body := State.imageDone_rom hboot hlow hhigh hdir
  refine ⟨fun hread => completes_bootImageVerify (hrom.trans (State.romImage_unread hlow hhigh hread)),
    fun hread hver => completes_bootImageVerify (hrom.trans (State.romImage_refused hlow hhigh hread hver)), fun hread hver => ?_⟩
  have htakes : u.imageDone h unit body = u.romTakes (romType st) h body := hrom.trans (State.romImage_passes hlow hhigh hread hver)
  refine ⟨fun hst => completes_bootImageVerify (htakes.trans (State.romTakes_firmware hst)), fun hst => ?_, fun hst => ?_,
    fun hst => completes_bootImageVerify (htakes.trans (State.romTakes_smc hst))⟩
  · rw [hst] at htakes
    exact completes_bootImageVerify (htakes.trans (State.romTakes_envelope hst))
  · rw [hst] at htakes
    obtain ⟨v, happly, hstage⟩ | ⟨happly, hstop⟩ := State.romTakes_params (ty := romType 6) (h := h) (body := body) hst
    · obtain ⟨t, hexec, ht⟩ := completes_bootImageVerify (htakes.trans hstage)
      exact ⟨t, hexec, .inl ⟨v, happly, ht⟩⟩
    · obtain ⟨t, hexec, ht⟩ := completes_bootImageVerify (htakes.trans hstop)
      exact ⟨t, hexec, .inr ⟨happly, ht⟩⟩

/-- From stage 0x08 on the SMC firmware takes the image. -/
theorem completes_bootImageVerify_smc (htakes : s.dueStage9.smcTakes h) :
    let u := s.dueStage9
    ((h.readOk = false ∨ u.verifies (imgType h) h body = false) → completes (.bootImageVerify h unit body) s fun t =>
      t = s.orWaits (if u.hazel.booting then u.bootStop (imgType h) (if h.readOk then 3 else 2) else u)) ∧
    (h.readOk = true → u.verifies (imgType h) h body = true →
      (imgType h = 5 → completes (.bootImageVerify h unit body) s fun t =>
        t = s.orWaits ((u.holds 5 unit body).setE 0x6018 2 (imgVersion h))) ∧
      (∀ i : Fin 4, imgType h = 6 → unit = i.val → imgLoad h = sharedPa i 0x800000 → body.length = 0x80000 →
        completes (.bootImageVerify h unit body) s fun t => t = s.orWaits (u.holds 6 unit body)) ∧
      (imgType h = 7 → completes (.bootImageVerify h unit body) s fun t =>
        let v := ((u.holds 7 unit body).dmaWrite .smc (imgLoad h) body).1
        t = s.orWaits (if unit = 0 then v.setE 0x2300 5 (imgLoad h) else v))) := by
  intro u
  refine ⟨fun hbad => completes_bootImageVerify (State.imageDone_smc_refused htakes hbad), fun hread hver => ?_⟩
  have hpass : u.imageDone h unit body = u.smcImage (imgType h) unit h body := State.imageDone_smc_passes htakes hread hver
  refine ⟨fun hty => ?_, fun i hty hunit hload hlen => ?_, fun hty => ?_⟩
  all_goals rw [hty] at hpass
  · exact completes_bootImageVerify (hpass.trans State.smcImage_ucode)
  · exact completes_bootImageVerify (hpass.trans (State.smcImage_island hunit hload hlen))
  · exact completes_bootImageVerify (hpass.trans State.smcImage_core)

end

/-! ## The obligation -/

/-- Settles O52, command by command: the images by the stage in which they are verified, and the stop of a boot by what an entry to
SLEEP leaves. -/
theorem boot : Obligations.Boot := by
  refine ⟨fun s => ⟨exec_pllLock_else, completes_pllLock, exec_sramFillDone_else, fun hdev hpll =>
      ⟨completes_sramFillDone_boot hdev hpll, fun hboot => ?_⟩⟩,
    fun s ty h body => State.verifies_iff, fun s h unit body => ?_, fun s h body => State.lockEnvelope_spec, fun s ty reason cause hs => ?_,
    fun s i => ⟨exec_islandImageStage_else, fun body => completes_islandImageStage⟩,
    fun s => ⟨completes_microcodeLoad, exec_microcodeLoad_else, exec_bootCoreRelease_else, fun h9 hloaded => ?_⟩⟩
  · obtain ⟨t, hexec, ht⟩ := completes_sramFillDone_resume hdev hpll hboot
    obtain ⟨hact, htrain, hgated, hisl⟩ := State.resume_spec (s := { s with held := false }) rfl
    refine ⟨t, hexec, ht, hact, htrain, ?_, fun i => ⟨fun hwas _ hreq => (hisl i).1 hwas hreq, (hisl i).2⟩⟩
    have hmem : ∀ d ∈ [(48 : Fin 64), 49, 57], suspendGated d.val = true := by decide
    exact fun d hd _ => hgated d (hmem d hd)
  · exact ⟨fun hboot h4 hdir => completes_bootImageVerify (State.imageDone_unread hboot h4 hdir),
      fun hboot h4 hdir hgood => completes_bootImageVerify (State.imageDone_malformed hboot h4 hdir hgood),
      fun hboot hlow hhigh hdir => completes_bootImageVerify_rom hboot hlow hhigh hdir,
      fun hlow hhigh hon h5 h7 hready => completes_bootImageVerify_smc ⟨hlow, hhigh, hon, h5, h7, hready⟩,
      fun hrom hsmc => completes_bootImageVerify (State.imageDone_else hrom hsmc), State.stage9_cases⟩
  · obtain ⟨h3, h4, hdev, hheld, hstopped⟩ := State.bootStop_spec hs rfl
    exact ⟨h3, h4, hdev, hheld, State.wakeEvent_else (.inl hstopped)⟩
  · obtain ⟨t, hexec, ht⟩ := completes_bootCoreRelease h9 hloaded
    obtain ⟨hdev, hcore⟩ := State.bootReleased_spec (s := { s with held := false })
    refine ⟨t, hexec, _, ht, hdev, fun c hc => ⟨(hcore c hc).1, fun hret l hl => ?_⟩⟩
    rw [(hcore c hc).2 hret, State.bootCoreOn_eq c l hl]

end Sys2Proof.Machine
end

section
/-! What a master's access to memory changes (R25, R352): nothing but the memory side, its arrays, its records, entries that count and
free values; one lemma for each operation that an access can reach, in the order of the definitions. -/
set_option Elab.async false
namespace Sys2Proof.Machine

/-- `s` has of `u` everything that no access to memory changes. -/
def State.offMem (s u : State) : Prop :=
  s.pending = u.pending ∧ s.time = u.time ∧ s.entB = u.entB ∧ s.tlbPend = u.tlbPend ∧ s.island = u.island ∧ s.safeN = u.safeN ∧
  s.husk = u.husk ∧ s.gw = u.gw ∧ s.env = u.env ∧ s.mail = u.mail ∧ s.dap = u.dap ∧ s.seed = u.seed ∧ s.hazel = u.hazel ∧
  s.dm = u.dm ∧ s.ledger = u.ledger ∧ s.retired = u.retired ∧ s.gpio = u.gpio

variable {s u : State}

theorem State.offMem_self (s : State) : s.offMem s := by and_intros <;> rfl

theorem State.offMem.gw_eq (h : s.offMem u) : s.gw = u.gw := by
  obtain ⟨-, -, -, -, -, -, -, hgw, -⟩ := h
  exact hgw

theorem State.offMem.hazel_eq (h : s.offMem u) : s.hazel = u.hazel := by
  obtain ⟨-, -, -, -, -, -, -, -, -, -, -, -, hhazel, -⟩ := h
  exact hhazel

/-- The other fields may be anything. -/
theorem offMem_mk {fresh held reply mem poison tags ecc ent acore pod home pc hbm sent irq fb trans pcieOut} (h : s.offMem u) :
    State.offMem ⟨s.pending, s.time, fresh, held, reply, mem, poison, tags, ecc, ent, s.entB, acore, s.tlbPend, pod, home, pc, hbm, sent,
      s.island, s.safeN, irq, s.husk, s.gw, s.env, s.mail, s.dap, s.seed, s.hazel, s.dm, fb, s.ledger, trans, s.retired, s.gpio,
      pcieOut⟩ u := h

theorem foldl_offMem {α : Type} {f : State → α → State} {l : List α} (hf : ∀ s x, s.offMem u → (f s x).offMem u)
    (h : s.offMem u) : (l.foldl f s).offMem u := by
  induction l generalizing s with
  | nil => exact h
  | cons a r ih => exact ih (hf _ _ h)

theorem foldl_offMem_fst {α β : Type} {f : State × β → α → State × β} {l : List α} {p : State × β}
    (hf : ∀ s b x, s.offMem u → (f (s, b) x).1.offMem u) (h : p.1.offMem u) : (l.foldl f p).1.offMem u := by
  induction l generalizing p with
  | nil => exact h
  | cons a r ih => exact ih (hf p.1 p.2 a h)

/-! ## Entries, interrupt sources, and fault banks -/

theorem State.setE_offMem {idx sub v} (h : s.offMem u) : (s.setE idx sub v).offMem u := h

theorem State.addE_offMem {idx sub w k} (h : s.offMem u) : (s.addE idx sub w k).offMem u := by
  grind [State.addE, State.setE_offMem, offMem_mk]

theorem State.putSrc_offMem {k x} (h : s.offMem u) : (s.putSrc k x).offMem u := h

theorem State.virtNotify_offMem {p} (h : s.offMem u) : (s.virtNotify p).offMem u := by
  grind [State.virtNotify, State.putSrc_offMem, offMem_mk]

theorem State.setSrc_offMem {k x} (h : s.offMem u) : (s.setSrc k x).offMem u := by
  grind [State.setSrc, State.putSrc_offMem, State.virtNotify_offMem]

theorem State.setLine_offMem {k lvl} (h : s.offMem u) : (s.setLine k lvl).offMem u := by
  grind [State.setLine, State.setSrc_offMem]

theorem State.bankLine_offMem {b} (h : s.offMem u) : (s.bankLine b).offMem u := by
  grind [State.bankLine, State.setLine_offMem]

theorem State.record_offMem {b code unit unit2 addr info} (h : s.offMem u) :
    (s.record b code unit unit2 addr info).offMem u := by
  grind [State.record, State.addE_offMem, State.bankLine_offMem, offMem_mk]

/-! ## HBM -/

theorem State.modPc_offMem {p f} (h : s.offMem u) : (s.modPc p f).offMem u := h

theorem State.storeLine_offMem {line d poison} (h : s.offMem u) : (s.storeLine line d poison).offMem u := h

theorem State.hardError_offMem {a} (h : s.offMem u) : (s.hardError a).offMem u := h

theorem State.hbmRead_offMem {line errs sev scrub wrong} (h : s.offMem u) :
    (s.hbmRead line errs sev scrub wrong).1.offMem u := by
  grind (ematch := 20) [State.hbmRead, State.addE_offMem, State.hardError_offMem, State.record_offMem, State.storeLine_offMem,
    offMem_mk]

theorem State.enqueue_offMem {c} (h : s.offMem u) : (s.enqueue c).offMem u := by
  grind [State.enqueue, State.addE_offMem, offMem_mk]

theorem State.hbmWrite_offMem {line d poison tc} (h : s.offMem u) : (s.hbmWrite line d poison tc).offMem u := by
  grind [State.hbmWrite, State.enqueue_offMem]

theorem State.nextCmd_offMem {p r} (h : s.offMem u) (e : State.nextCmd s p = some r) : r.2.offMem u := by
  grind [State.nextCmd, offMem_mk]

theorem State.ownSlot_offMem {p t} (h : s.offMem u) (e : State.ownSlot s p = some t) : t.offMem u := by
  grind [State.ownSlot, offMem_mk]

/-! ## Lines, pods and home agents -/

theorem State.send_offMem {stop tc n} (h : s.offMem u) : (s.send stop tc n).offMem u := h

theorem State.modPod_offMem {p f} (h : s.offMem u) : (s.modPod p f).offMem u := h

theorem State.modHome_offMem {ix f} (h : s.offMem u) : (s.modHome ix f).offMem u := h

theorem State.putL2_offMem {p line x} (h : s.offMem u) : (s.putL2 p line x).offMem u := h

theorem State.setFilt_offMem {line p st} (h : s.offMem u) : (s.setFilt line p st).offMem u := h

theorem State.dropL1_offMem {p line} (h : s.offMem u) : (s.dropL1 p line).offMem u := offMem_mk h

theorem State.dropL2_offMem {p line} (h : s.offMem u) : (s.dropL2 p line).offMem u := by
  grind [State.dropL2, State.modPod_offMem, State.dropL1_offMem]

theorem State.slcEvict_offMem {ix line} (h : s.offMem u) : (s.slcEvict ix line).offMem u := by
  grind [State.slcEvict, State.modHome_offMem, State.hbmWrite_offMem]

theorem State.pick_offMem {α l} (h : s.offMem u) : (@State.pick α s l).2.offMem u := h

theorem State.slcPut_offMem {line cls dirty d poison} (h : s.offMem u) : (s.slcPut line cls dirty d poison).offMem u := by
  grind [State.slcPut, State.modHome_offMem, State.pick_offMem, State.slcEvict_offMem, State.hbmWrite_offMem]

theorem State.writeHome_offMem {line cls tc d poison} (h : s.offMem u) : (s.writeHome line cls tc d poison).offMem u := by
  grind [State.writeHome, State.slcPut_offMem, State.hbmWrite_offMem]

theorem State.absorb_offMem {p line d poison type} (h : s.offMem u) : (s.absorb p line d poison type).offMem u := by
  grind [State.absorb, State.writeHome_offMem, State.slcPut_offMem, State.hbmWrite_offMem]

theorem State.evictNow_offMem {p line} (h : s.offMem u) : (s.evictNow p line).offMem u := by
  grind [State.evictNow, State.setFilt_offMem, State.dropL2_offMem, State.absorb_offMem]

theorem State.l2Install_offMem {p line st d poison type} (h : s.offMem u) :
    (s.l2Install p line st d poison type).offMem u := by
  unfold State.l2Install
  grind [State.setFilt_offMem, State.putL2_offMem, State.pick_offMem, State.evictNow_offMem, State.absorb_offMem]

/-! ## Transactions whose arrays meet nothing -/

theorem State.putTxn_offMem {txn} (h : s.offMem u) : (s.putTxn txn).offMem u := h

theorem State.ackCrossed_offMem {line} (h : s.offMem u) : (s.ackCrossed line).offMem u := h

theorem State.fillSlc_offMem {line cls fromHbm d poison} (h : s.offMem u) :
    (s.fillSlc line cls fromHbm d poison).offMem u := by
  grind [State.fillSlc, State.slcPut_offMem]

theorem State.sendReply_offMem {txn n} (h : s.offMem u) : (s.sendReply txn n).offMem u := by
  grind [State.sendReply, State.send_offMem, foldl_offMem]

theorem State.smcPoison_offMem {txn poison} (h : s.offMem u) : (s.smcPoison txn poison).offMem u := by
  grind [State.smcPoison, State.record_offMem]

theorem State.finish_offMem {txn d poison fromHbm force} (h : s.offMem u) :
    (s.finish txn d poison fromHbm force).offMem u := by
  unfold State.finish
  dsimp only
  repeat' split
  all_goals grind (ematch := 20) [State.modHome_offMem, State.sendReply_offMem, State.fillSlc_offMem, State.l2Install_offMem,
    State.writeHome_offMem, State.smcPoison_offMem, State.ackCrossed_offMem, offMem_mk]

theorem State.serveEvict_offMem {p line} (h : s.offMem u) : (s.serveEvict p line).offMem u := by
  grind [State.serveEvict, State.setFilt_offMem, State.absorb_offMem, State.modPod_offMem]

theorem State.proceed_offMem {txn} (h : s.offMem u) : (s.proceed txn .good).offMem u := by
  grind [State.proceed, State.finish_offMem, State.slcRead_good, State.enqueue_offMem, State.putTxn_offMem]

theorem State.begin_offMem {txn} (h : s.offMem u) : (s.begin txn .good).offMem u := by
  unfold State.begin
  dsimp only
  rw [State.strike_good]
  repeat' split
  all_goals grind [State.serveEvict_offMem, State.modHome_offMem, State.record_offMem,
    State.finish_offMem, State.proceed_offMem, State.send_offMem, State.putTxn_offMem, offMem_mk, foldl_offMem]

theorem State.kick_offMem {line a} (h : s.offMem u) : (State.kick line .good a s).offMem u := by
  fun_induction State.kick line .good a s <;> grind [State.begin_offMem]

theorem State.kickAll_offMem {line} (h : s.offMem u) : (s.kickAll line .good).offMem u := by
  grind [State.kickAll, State.kick_offMem]

theorem State.promote_offMem {txn} (h : s.offMem u) : (s.promote txn).offMem u := h

theorem State.takeEntry_offMem {txn} (h : s.offMem u) : (s.takeEntry txn .good).offMem u := by
  grind [State.takeEntry, State.kickAll_offMem, State.modHome_offMem, State.putTxn_offMem, State.promote_offMem]

theorem State.admitN_offMem {h0 a} (h : s.offMem u) : (State.admitN h0 a s).offMem u := by
  fun_induction State.admitN h0 a s <;> grind [State.takeEntry_offMem, State.modHome_offMem]

theorem State.admitHome_offMem {line} (h : s.offMem u) : (s.admitHome line).offMem u := by
  grind [State.admitHome, State.admitN_offMem]

theorem State.request_offMem {line req from_ tc cls} (h : s.offMem u) :
    (s.request line req from_ tc cls .good).offMem u := by
  grind [State.request, State.send_offMem, State.takeEntry_offMem, State.modHome_offMem]

/-! ## Snoops and answers -/

theorem State.snoopAt_offMem {p line k} (h : s.offMem u) : (s.snoopAt p line k).1.offMem u := by
  grind [State.snoopAt, State.putL2_offMem, State.dropL2_offMem, State.modPod_offMem]

theorem State.serveSnoop_offMem {m} (h : s.offMem u) : (s.serveSnoop m).offMem u := by
  grind [State.serveSnoop, State.snoopAt_offMem, State.send_offMem, State.modHome_offMem]

theorem State.deliverSnoop_offMem {p line k} (h : s.offMem u) : (s.deliverSnoop p line k).offMem u := by
  grind [State.deliverSnoop, State.serveSnoop_offMem, foldl_offMem]

theorem State.syncFilt_offMem {line p} (h : s.offMem u) : (s.syncFilt line p).offMem u := h

theorem State.poisonTxn_offMem {txn} (h : s.offMem u) : (s.poisonTxn txn).offMem u := by
  grind [State.poisonTxn, State.writeHome_offMem, State.admitHome_offMem, State.kickAll_offMem, State.finish_offMem]

theorem State.answered_offMem {txn p got} (h : s.offMem u) : (s.answered txn p got).offMem u := by
  unfold State.answered
  dsimp only
  repeat' split
  all_goals grind [State.putTxn_offMem, State.poisonTxn_offMem, State.admitHome_offMem, State.kickAll_offMem,
    State.proceed_offMem]

theorem State.useCrossed_offMem {txn p b} (h : s.offMem u) : (s.useCrossed txn p b).offMem u := by
  grind [State.useCrossed, State.setFilt_offMem, State.absorb_offMem, State.answered_offMem]

theorem State.lateAnswer_offMem {ix a} (h : s.offMem u) : (s.lateAnswer ix a).offMem u := by
  grind [State.lateAnswer, offMem_mk]

theorem State.answer_offMem {a} (h : s.offMem u) : (s.answer a .good).offMem u := by
  unfold State.answer
  dsimp only
  simp only [State.strike_good, State.arrayRead_good]
  repeat' split
  all_goals grind [State.lateAnswer_offMem, State.answered_offMem, State.syncFilt_offMem,
    State.setFilt_offMem, State.modHome_offMem, State.useCrossed_offMem, State.record_offMem]

theorem State.hbmData_offMem {line d poison} (h : s.offMem u) : (s.hbmData line d poison).offMem u := by
  grind [State.hbmData, State.admitHome_offMem, State.kickAll_offMem, State.finish_offMem]

theorem State.hbmServe_offMem {p errs sev wrong} (h : s.offMem u) : (s.hbmServe p errs sev wrong).offMem u := by
  unfold State.hbmServe
  split
  · split
    next => exact h
    next c v hc =>
      have hv : v.offMem u := State.nextCmd_offMem h hc
      split
      · exact State.storeLine_offMem hv
      · exact State.hbmData_offMem (State.hbmRead_offMem hv)
  · exact h

theorem State.writeBack_offMem {p} (h : s.offMem u) : (s.writeBack p).offMem u := by
  unfold State.writeBack
  split
  · exact h
  · exact offMem_mk h

theorem State.verifyRead_offMem {p errs sev} (h : s.offMem u) : (s.verifyRead p errs sev).offMem u := by
  unfold State.verifyRead
  split
  next => exact h
  next =>
    extract_lets v all counted
    have hv : v.offMem u := State.modPc_offMem h
    have hcounted : (counted v).offMem u := by grind [State.addE_offMem]
    split
    iterate 2 exact State.addE_offMem hcounted
    iterate 2 exact State.hardError_offMem hcounted
    iterate 2 exact State.hbmRead_offMem hv

/-! ## Requests carried through -/

theorem State.evArrive_offMem {p line} (h : s.offMem u) : (s.evArrive p line).offMem u := by
  grind [State.evArrive, State.modPod_offMem, State.send_offMem, State.serveEvict_offMem, State.useCrossed_offMem,
    State.modHome_offMem]

theorem State.hbmTurn_offMem {line} (h : s.offMem u) : (s.hbmTurn line).offMem u := by
  grind [State.hbmTurn, State.ownSlot_offMem, State.writeBack_offMem, State.verifyRead_offMem, State.hbmServe_offMem, offMem_mk]

theorem State.settle1_offMem {line} (h : s.offMem u) : (s.settle1 line).offMem u := by
  unfold State.settle1
  dsimp only
  repeat' split
  all_goals grind [State.admitHome_offMem, State.kickAll_offMem, State.hbmTurn_offMem, State.proceed_offMem,
    State.deliverSnoop_offMem, State.answer_offMem, State.modHome_offMem, State.evArrive_offMem, State.answered_offMem]

theorem State.settleN_offMem {line a} (h : s.offMem u) : (State.settleN line a s).offMem u := by
  fun_induction State.settleN line a s <;> grind [State.settle1_offMem]

theorem State.settle_offMem {line} (h : s.offMem u) : (s.settle line).offMem u := by
  grind [State.settle, State.settleN_offMem, offMem_mk]

theorem State.transact_offMem {line req from_ tc cls} (h : s.offMem u) : (s.transact line req from_ tc cls).offMem u := by
  grind [State.transact, State.settle_offMem, State.request_offMem, offMem_mk]

theorem State.homePeek_offMem {line m} (h : s.offMem u) : (s.homePeek line m).1.offMem u := by
  grind [State.homePeek, State.transact_offMem]

theorem State.homePush_offMem {line off d m} (h : s.offMem u) : (s.homePush line off d m).offMem u := by
  grind [State.homePush, State.transact_offMem]

theorem State.homePushPoison_offMem {line off d m} (h : s.offMem u) : (s.homePushPoison line off d m).offMem u := by
  grind [State.homePushPoison, State.homePush_offMem, State.writeHome_offMem]

/-! ## Memory accesses of masters -/

theorem State.eccWord_offMem {i unit a arr w} (h : s.offMem u) : (State.eccWord i unit a arr s w).offMem u := by
  grind [State.eccWord, State.record_offMem, offMem_mk]

theorem State.eccFix_offMem {i unit a p n arr} (h : s.offMem u) : (s.eccFix i unit a p n arr).offMem u := by
  grind [State.eccFix, State.eccWord_offMem, foldl_offMem]

theorem State.eccMesh_offMem {a n} (h : s.offMem u) : (s.eccMesh a n).offMem u := by
  grind [State.eccMesh, State.eccFix_offMem]

theorem State.meshRead_offMem {m a n} (h : s.offMem u) : (s.meshRead m a n).offMem u := by
  grind [State.meshRead, State.send_offMem]

theorem State.meshWrite_offMem {m a n} (h : s.offMem u) : (s.meshWrite m a n).offMem u := by
  grind [State.meshWrite, State.send_offMem]

theorem State.memRead_offMem {m a n} (h : s.offMem u) : (s.memRead m a n).1.offMem u := by
  grind [State.memRead, State.homePeek_offMem, State.eccMesh_offMem, State.meshRead_offMem, offMem_mk]

theorem State.eccWrite_offMem {a n} (h : s.offMem u) : (s.eccWrite a n).offMem u := h

theorem State.clearTags_offMem {a n} (h : s.offMem u) : (s.clearTags a n).offMem u := h

theorem State.memWrite_offMem {m a d poison} (h : s.offMem u) : (s.memWrite m a d poison).offMem u := by
  grind [State.memWrite, State.homePushPoison_offMem, State.homePush_offMem, State.clearTags_offMem, State.eccWrite_offMem,
    State.meshWrite_offMem, offMem_mk]

theorem State.dmaRead_offMem {m a n} (h : s.offMem u) : (s.dmaRead m a n).1.offMem u := by
  unfold State.dmaRead
  dsimp only
  split
  · exact h
  · exact foldl_offMem_fst (fun _ _ _ hu => State.memRead_offMem hu) h

theorem State.dmaWrite_offMem {m a d} (h : s.offMem u) : (s.dmaWrite m a d).1.offMem u := by
  unfold State.dmaWrite
  refine foldl_offMem_fst (fun u b p hu => ?_) h
  dsimp only
  split
  · exact hu
  · exact State.memWrite_offMem hu

end Sys2Proof.Machine
end

section
/-! The fields of a number (R7): what a replaced field and the bits beside it read as. -/
namespace Sys2Proof.Machine

variable {v x hi lo h l i n : Nat}

theorem testBit_bits : (bits v hi lo).testBit i = (decide (i < hi + 1 - lo) && v.testBit (lo + i)) := by
  rw [bits, Nat.testBit_mod_two_pow, Nat.testBit_shiftRight]

theorem putBits_eq (hle : lo ≤ hi + 1) :
    putBits v hi lo x = 2 ^ lo * (2 ^ (hi + 1 - lo) * (v / 2 ^ (hi + 1)) + x % 2 ^ (hi + 1 - lo)) + v % 2 ^ lo := by
  have hpow : 2 ^ lo * 2 ^ (hi + 1 - lo) = 2 ^ (hi + 1) := by rw [← Nat.pow_add]; congr 1; omega
  have hfield : v = 2 ^ lo * (2 ^ (hi + 1 - lo) * (v / 2 ^ (hi + 1)) + bits v hi lo) + v % 2 ^ lo := by
    have hdiv : v / 2 ^ (hi + 1) = v / 2 ^ lo / 2 ^ (hi + 1 - lo) := by rw [Nat.div_div_eq_div_mul, hpow]
    rw [bits_eq_div_mod, hdiv, Nat.div_add_mod, Nat.div_add_mod]
  rw [putBits]
  nth_rewrite 1 [hfield]
  rw [Nat.mul_add, Nat.mul_add, Nat.mul_comm (bits v hi lo), Nat.mul_comm (x % _)]
  omega

/-- A bit of a replaced field is the new one's; every other bit stays. -/
theorem testBit_putBits (hle : lo ≤ hi + 1) :
    (putBits v hi lo x).testBit i = if lo ≤ i ∧ i ≤ hi then x.testBit (i - lo) else v.testBit i := by
  rw [putBits_eq hle, Nat.testBit_two_pow_mul_add _ (Nat.mod_lt _ (Nat.two_pow_pos _)),
    Nat.testBit_two_pow_mul_add _ (Nat.mod_lt _ (Nat.two_pow_pos _))]
  rw [Nat.testBit_mod_two_pow, Nat.testBit_mod_two_pow, Nat.testBit_div_two_pow]
  by_cases hlow : i < lo
  · simp [hlow, Nat.not_le_of_lt hlow]
  · by_cases hin : i - lo < hi + 1 - lo
    · simp [hlow, hin, show lo ≤ i ∧ i ≤ hi by omega]
    · have hback : i - lo - (hi + 1 - lo) + (hi + 1) = i := by omega
      simp [hlow, hin, hback, show ¬ (lo ≤ i ∧ i ≤ hi) by omega]

/-- A replaced field reads as the low bits of what it was given. -/
theorem bits_putBits_same (hle : lo ≤ hi + 1) : bits (putBits v hi lo x) hi lo = x % 2 ^ (hi + 1 - lo) := by
  refine Nat.eq_of_testBit_eq fun i => ?_
  rw [testBit_bits, testBit_putBits hle, Nat.testBit_mod_two_pow]
  by_cases hin : i < hi + 1 - lo
  · simp [hin, show lo + i ≤ hi by omega]
  · simp [hin]

/-- A field that no replaced bit lies in reads as before. -/
theorem bits_putBits_apart (hle : lo ≤ hi + 1) (hapart : h < lo ∨ hi < l) : bits (putBits v hi lo x) h l = bits v h l := by
  refine Nat.eq_of_testBit_eq fun i => ?_
  rw [testBit_bits, testBit_bits, testBit_putBits hle]
  by_cases hin : i < h + 1 - l
  · rw [if_neg (by omega)]
  · simp [hin]

/-- A field of a word is that of the number that it was made from. -/
theorem bits_toNat_word (hh : h < 64) : bits (word v).toNat h l = bits v h l := by
  refine Nat.eq_of_testBit_eq fun i => ?_
  rw [testBit_bits, testBit_bits, word, BitVec.toNat_ofNat, Nat.testBit_mod_two_pow]
  by_cases hin : i < h + 1 - l
  · simp [hin, show l + i < 64 by omega]
  · simp [hin]

theorem bits_lt : bits v hi lo < 2 ^ (hi + 1 - lo) := Nat.mod_lt _ (Nat.two_pow_pos _)

end Sys2Proof.Machine
end

section
/-! The rules of the flow engine's operations: contexts and their fields (Tables 11.3, 11.5), keys and handles (R371), the cache (R372) and
the reads of the carve-out (R373). -/
namespace Sys2Proof.Machine

/-! ## Contexts -/

section
variable {old new : FlowCtx} {h l : Nat}

@[simp] theorem mergeCtx_key : (mergeCtx old new).key = old.key := rfl
@[simp] theorem mergeCtx_action : (mergeCtx old new).action = new.action ||| 1 := rfl
@[simp] theorem mergeCtx_template : (mergeCtx old new).template = new.template := rfl

theorem mergeCtx_seqs_taken : bits (mergeCtx old new).seqs.toNat 52 48 = bits new.seqs.toNat 52 48 := by
  rw [mergeCtx, bits_toNat_word (by decide), bits_putBits_same (by decide), Nat.mod_eq_of_lt bits_lt]

theorem mergeCtx_seqs_kept (hh : h < 64) (hapart : h < 48 ∨ 52 < l) :
    bits (mergeCtx old new).seqs.toNat h l = bits old.seqs.toNat h l := by
  rw [mergeCtx, bits_toNat_word hh, bits_putBits_apart (by decide) hapart]

theorem mergeCtx_meter_taken : bits (mergeCtx old new).meter.toNat 62 56 = bits new.meter.toNat 62 56 := by
  rw [mergeCtx, bits_toNat_word (by decide), bits_putBits_same (by decide), Nat.mod_eq_of_lt bits_lt]

theorem mergeCtx_meter_kept (hh : h < 64) (hapart : h < 56 ∨ 62 < l) :
    bits (mergeCtx old new).meter.toNat h l = bits old.meter.toNat h l := by
  rw [mergeCtx, bits_toNat_word hh, bits_putBits_apart (by decide) hapart]

theorem mergeCtx_counts_taken : bits (mergeCtx old new).counts.toNat 53 48 = bits new.counts.toNat 53 48 := by
  rw [mergeCtx, bits_toNat_word (by decide), bits_putBits_same (by decide), Nat.mod_eq_of_lt bits_lt]

theorem mergeCtx_counts_kept (hh : h < 64) (hapart : h < 48 ∨ 53 < l) :
    bits (mergeCtx old new).counts.toNat h l = bits old.counts.toNat h l := by
  rw [mergeCtx, bits_toNat_word hh, bits_putBits_apart (by decide) hapart]

theorem mergeCtx_owner : (mergeCtx old new).owner = old.owner := mergeCtx_counts_kept (by decide) (.inr (by decide))

end

section
variable (s : State) (k : List Byte) (v : Nat) (c : FlowCtx)

/-- What INSERT starts from: no sequence number is recovered yet, and the context belongs to its owner (Table 11.5). -/
def blankCtx (k : List Byte) (v : Nat) : FlowCtx := ⟨k, 0, word (2 ^ 53), 0, 0, word (v % 256 * 2 ^ 56)⟩

theorem State.newCtx_eq : s.newCtx k v c = { mergeCtx (blankCtx k v) c with
    meter := word (putBits (putBits (mergeCtx (blankCtx k v) c).meter.toNat 23 0
      (s.ev 0x6121 (1 + bits (mergeCtx (blankCtx k v) c).meter.toNat 62 56))) 55 24 (stampOf s.time)) } := rfl

@[simp] theorem State.newCtx_key : (s.newCtx k v c).key = k := rfl
@[simp] theorem State.newCtx_action : (s.newCtx k v c).action = c.action ||| 1 := rfl
@[simp] theorem State.newCtx_template : (s.newCtx k v c).template = c.template := rfl
theorem State.newCtx_seqs : (s.newCtx k v c).seqs = (mergeCtx (blankCtx k v) c).seqs := rfl
theorem State.newCtx_counts : (s.newCtx k v c).counts = (mergeCtx (blankCtx k v) c).counts := rfl

theorem State.newCtx_valid : (s.newCtx k v c).valid = true := by simp [FlowCtx.valid]

theorem State.newCtx_sequences : bits (s.newCtx k v c).seqs.toNat 47 0 = 0 := by
  rw [State.newCtx_seqs, mergeCtx_seqs_kept (by decide) (.inl (by decide))]
  exact show bits (word (2 ^ 53)).toNat 47 0 = 0 by decide

theorem State.newCtx_resetState : bit (s.newCtx k v c).seqs.toNat 53 = true := by
  have hset : bits (s.newCtx k v c).seqs.toNat 53 53 = 1 := by
    rw [State.newCtx_seqs, mergeCtx_seqs_kept (by decide) (.inr (by decide))]
    exact show bits (word (2 ^ 53)).toNat 53 53 = 1 by decide
  rw [bits_eq_div_mod] at hset
  rw [bit, Nat.testBit_eq_decide_div_mod_eq, decide_eq_true_eq]
  exact hset

theorem State.newCtx_profile : bits (s.newCtx k v c).meter.toNat 62 56 = bits c.meter.toNat 62 56 := by
  rw [State.newCtx_eq, bits_toNat_word (by decide), bits_putBits_apart (by decide) (.inr (by decide)),
    bits_putBits_apart (by decide) (.inr (by decide)), mergeCtx_meter_taken]

theorem State.newCtx_tokens :
    bits (s.newCtx k v c).meter.toNat 23 0 = s.ev 0x6121 (1 + bits c.meter.toNat 62 56) % 2 ^ 24 := by
  rw [State.newCtx_eq, bits_toNat_word (by decide), bits_putBits_apart (by decide) (.inl (by decide)),
    bits_putBits_same (by decide), mergeCtx_meter_taken]

theorem State.newCtx_stamp : bits (s.newCtx k v c).meter.toNat 55 24 = s.time / 1024 % 2 ^ 32 := by
  rw [State.newCtx_eq, bits_toNat_word (by decide), bits_putBits_same (by decide), stampOf, Nat.mod_mod]

theorem State.newCtx_counters : bits (s.newCtx k v c).counts.toNat 47 0 = 0 := by
  rw [State.newCtx_counts, mergeCtx_counts_kept (by decide) (.inl (by decide)), blankCtx, bits_toNat_word (by decide),
    bits_eq_div_mod]
  omega

theorem State.newCtx_owner : (s.newCtx k v c).owner = v % 256 := by
  rw [FlowCtx.owner, State.newCtx_counts, ← FlowCtx.owner, mergeCtx_owner, FlowCtx.owner, blankCtx, bits_toNat_word (by decide),
    bits_eq_div_mod]
  omega

end

/-! ## Keys and handles (R371) -/

section
variable {s : State} {k : List Byte} {h : Nat} {c : FlowCtx}

theorem flowHandles_eq (k : List Byte) :
    let b1 := flowH1 k % 2 ^ 18
    let b2 := if flowH2 k % 2 ^ 18 = b1 then b1 ^^^ 1 else flowH2 k % 2 ^ 18
    flowHandles k = [4 * b1, 4 * b1 + 1, 4 * b1 + 2, 4 * b1 + 3, 4 * b2, 4 * b2 + 1, 4 * b2 + 2, 4 * b2 + 3] := by
  intro b1 b2
  have hb2 : (flowBuckets k).2 = b2 := by
    simp only [flowBuckets, b2, b1]
    split
    next h => rw [if_pos h.symm, h]
    next h => rw [if_neg (Ne.symm h)]
  rw [← hb2]
  rfl

/-- The two buckets of a key differ. -/
theorem flowBuckets_ne (b x : Nat) : b ≠ if x = b then b ^^^ 1 else x := by
  split
  · intro h
    have hbit := congrArg (Nat.testBit · 0) h
    simp at hbit
    omega
  next h => exact Ne.symm h

theorem State.flowFind_some (hfind : s.flowFind k = some h) : h ∈ flowHandles k ∧ ∃ c, s.ctx? h = some c ∧ c.key = k := by
  refine ⟨List.mem_of_find?_eq_some hfind, ?_⟩
  have hkey := List.find?_some hfind
  cases hctx : s.ctx? h with
  | none => simp [hctx] at hkey
  | some c => exact ⟨c, rfl, by simpa [hctx] using hkey⟩

theorem State.flowFind_none (hfind : s.flowFind k = none) : ∀ h ∈ flowHandles k, ∀ c, s.ctx? h = some c → c.key ≠ k := by
  intro h hmem c hctx hkey
  have hno := List.find?_eq_none.mp hfind h hmem
  simp [hctx, hkey] at hno

end

/-! ## The cache (R372) -/

section
variable {s u : State} {h : Nat} {c : FlowCtx}

theorem State.ctxWrite_offMem (hs : s.offMem u) : (s.ctxWrite h c).offMem u := State.dmaWrite_offMem hs

/-- A context that leaves the cache leaves every set. -/
theorem State.flowDel_cache :
    (s.flowDel h).gw.cache = (s.gw.cache.map fun e => (e.1, e.2.filter (·.1 ≠ h))).filter fun e => !e.2.isEmpty := by
  unfold State.flowDel
  exact congrArg Gateway.cache (State.ctxWrite_offMem (State.offMem_self _)).gw_eq

theorem State.flowDel_uncached : ∀ e ∈ (s.flowDel h).gw.cache, ∀ a ∈ e.2, a.1 ≠ h := by
  intro e he a ha
  rw [State.flowDel_cache] at he
  obtain ⟨e', -, rfl⟩ := List.mem_map.mp (List.mem_of_mem_filter he)
  exact of_decide_eq_true (List.mem_filter.mp ha).2

/-- The contexts of a set with one of them made its most recently used. -/
def State.cacheSet (s : State) (h : Nat) (c : FlowCtx) : List (Nat × FlowCtx) :=
  (h, c) :: (kvGet [] s.gw.cache (flowSet c.key)).filter (·.1 ≠ h)

theorem State.flowPut_cache : (s.flowPut h c).gw.cache = kvPut (flowSet c.key) ((s.cacheSet h c).take 8) s.gw.cache := by
  unfold State.flowPut
  exact congrArg Gateway.cache (foldl_offMem (fun _ _ => State.ctxWrite_offMem) (State.offMem_self _)).gw_eq

theorem State.setViBit_cache (v b md : Nat) : (s.setViBit v b md).gw.cache = s.gw.cache := by
  unfold State.setViBit State.viLine
  rw [State.setLine_frame]
  rfl

theorem State.countFlow_cache (v : Nat) (add : Bool) : (s.countFlow v add).gw.cache = s.gw.cache := rfl

theorem State.flowAnswer_cache (sl : FlowSlot) (r : FlowRes) : (s.flowAnswer sl r).gw.cache = s.gw.cache := by
  cases sl with
  | vi v => exact State.setViBit_cache ..
  | secure => rfl

/-- The first of a list of contexts is found by its handle where no other set holds that handle. -/
theorem find?_kvPut {t : KV (List (Nat × FlowCtx))} (n : Nat) (l : List (Nat × FlowCtx)) (hno : ∀ e ∈ t, ∀ a ∈ e.2, a.1 ≠ h) :
    ((kvPut n ((h, c) :: l) t).flatMap (·.2)).find? (·.1 == h) = some (h, c) := by
  have hfirst : ∀ r : KV (List (Nat × FlowCtx)), (((n, (h, c) :: l) :: r).flatMap (·.2)).find? (·.1 == h) = some (h, c) := by
    simp
  induction t with
  | nil => exact hfirst []
  | cons e t ih =>
    obtain ⟨k, x⟩ := e
    obtain ⟨hx, ht⟩ := List.forall_mem_cons.mp hno
    unfold kvPut
    split
    · exact hfirst _
    · split
      · exact hfirst _
      · have hskip : x.find? (·.1 == h) = none := by simpa [List.find?_eq_none] using hx
        rw [List.flatMap_cons, List.find?_append, hskip, ih ht]
        rfl

/-- A valid context that the cache holds is the one at its handle. -/
theorem State.ctx?_of_cached (hfind : (s.gw.cache.flatMap (·.2)).find? (·.1 == h) = some (h, c)) (hvalid : c.valid = true) :
    s.ctx? h = some c := by
  have hat : s.flowAt h = c := by rw [State.flowAt, hfind]
  rw [State.ctx?, hat]
  exact if_pos hvalid

/-- A context placed at a handle that no set holds is found there. -/
theorem State.cached_flowPut (hno : ∀ e ∈ s.gw.cache, ∀ a ∈ e.2, a.1 ≠ h) :
    ((s.flowPut h c).gw.cache.flatMap (·.2)).find? (·.1 == h) = some (h, c) := by
  rw [State.flowPut_cache]
  exact find?_kvPut _ _ hno

/-! ## The reads of the carve-out (R373) -/

theorem State.poisonCtx_hazel : (s.poisonCtx h).hazel = s.hazel := by
  have hdel : ∀ v : State, (((v.flowDel h).addE 0x6200 5 32 1).record bankGw 0x13 4 0 (ctxPa h) 0).hazel = v.hazel := fun v =>
    (State.record_offMem (State.addE_offMem (State.offMem_self _))).hazel_eq.trans
      (State.ctxWrite_offMem (State.offMem_self _)).hazel_eq
  unfold State.poisonCtx
  rw [hdel]
  split <;> rfl

theorem State.ctxRead_hazel (hs bad : List Nat) : (s.ctxRead hs bad).hazel = s.hazel := by
  unfold State.ctxRead
  refine List.foldlRecOn (motive := fun t : State => t.hazel = s.hazel) hs _ rfl fun u hu h _ => ?_
  have hread : (u.dmaRead .flowEngine (ctxPa h) 64).1.hazel = s.hazel := (State.dmaRead_offMem (State.offMem_self u)).hazel_eq.trans hu
  dsimp only
  split
  · exact hu
  · split
    next heq =>
      rw [heq] at hread
      exact State.poisonCtx_hazel.trans hread
    next heq =>
      rw [heq] at hread
      split
      · exact State.poisonCtx_hazel.trans hread
      · exact hread

/-- No read of contexts changes a power domain. -/
theorem State.ctxRead_domOn (hs bad : List Nat) (d : Fin 64) : (s.ctxRead hs bad).domOn d = s.domOn d := by
  rw [State.domOn, State.ctxRead_hazel, State.domOn]

end

end Sys2Proof.Machine
end

section
/-! Flow commands (R378 to R380): what each one does in each case. -/
set_option Elab.async false
namespace Sys2Proof.Machine

/-! ## Slots -/

section
variable {sl : FlowSlot} {p : Nat → Bool}

theorem slotVi_any : (slotVi sl).any p = true ↔ ∃ x : Fin 256, sl = .vi x ∧ p x.val = true := by
  cases sl <;> simp [slotVi]

/-- A context is foreign to a slot of a VI that does not own it. -/
def slotForeign (sl : FlowSlot) (c : FlowCtx) : Prop := ∃ x : Fin 256, sl = .vi x ∧ x.val ≠ c.owner

theorem slotForeign_iff {c : FlowCtx} : (slotVi sl).any (· != c.owner) = true ↔ slotForeign sl c := by
  simp [slotVi_any, slotForeign]

/-- A slot may not make a context where it is that of a VI without the permission (R379). -/
def State.flowRefused (s : State) (sl : FlowSlot) (c : FlowCtx) : Prop := ∃ x : Fin 256, sl = .vi x ∧ s.flowPermit x.val c = false

theorem State.flowRefused_iff {s : State} {c : FlowCtx} : (slotVi sl).any (fun v => !s.flowPermit v c) = true ↔ s.flowRefused sl c := by
  simp [slotVi_any, State.flowRefused]

end

/-! ## INSERT -/

section
variable {s : State} {sl : FlowSlot} {v : Nat} {k : List Byte} {c : FlowCtx}

theorem State.flowInsert_malformed (hbad : badContext { c with key := k } = true) : s.flowInsert sl v k c = (s, ⟨6, 0, []⟩) :=
  if_pos hbad

theorem State.flowInsert_refused (hbad : badContext { c with key := k } = false) (href : s.flowRefused sl { c with key := k }) :
    s.flowInsert sl v k c = (s, ⟨5, 0, []⟩) := by
  simp [State.flowInsert, hbad, State.flowRefused_iff.mpr href]

/-- INSERT of a context that may be made reads the handles of its key, and goes on in the state after that. -/
theorem State.flowInsert_reads (hbad : badContext { c with key := k } = false) (href : ¬ s.flowRefused sl { c with key := k }) :
    let u := s.ctxRead (flowHandles k) []
    (∀ h, u.flowFind k = some h → s.flowInsert sl v k c = (u, ⟨1, h, []⟩)) ∧
    (u.flowFind k = none →
      (u.ev (0x6300 + v) 3 ≤ u.ev (0x6300 + v) 4 → s.flowInsert sl v k c = (u, ⟨3, 0, []⟩)) ∧
      (¬ u.ev (0x6300 + v) 3 ≤ u.ev (0x6300 + v) 4 →
        ((∀ h ∈ flowHandles k, (u.ctx? h).isSome = true) → s.flowInsert sl v k c = (u.addE 0x6200 6 32 1, ⟨2, 0, []⟩)) ∧
        (∀ pre h post, flowHandles k = pre ++ h :: post → (∀ x ∈ pre, (u.ctx? x).isSome = true) → u.ctx? h = none →
          let n := u.newCtx k v { c with key := k }
          s.flowInsert sl v k c = (((u.flowDel h).flowPut h n).countFlow v true, ⟨0, h, n.bytes⟩)))) := by
  intro u
  have hany := Bool.eq_false_iff.mpr (State.flowRefused_iff.not.mpr href)
  refine ⟨fun h hfind => ?_, fun hfind => ⟨fun hquota => ?_,
    fun hquota => ⟨fun hfull => ?_, fun pre h post hsplit hpre hfree => ?_⟩⟩⟩
  · simp [State.flowInsert, hbad, hany, hfind, u]
  · simp [State.flowInsert, hbad, hany, hfind, hquota, u]
  · have hnone : (flowHandles k).find? (fun h => (u.ctx? h).isNone) = none := by
      simpa [List.find?_eq_none, Option.isSome_iff_ne_none] using hfull
    simp [State.flowInsert, hbad, hany, hfind, hquota, hnone, u]
  · have hplace : (flowHandles k).find? (fun h => (u.ctx? h).isNone) = some h :=
      List.find?_eq_some_iff_append.mpr ⟨by simp [hfree], pre, post, hsplit, by simpa using hpre⟩
    simp [State.flowInsert, hbad, hany, hfind, hquota, hplace, u]

/-- The context that INSERT has placed is the one at its handle. -/
theorem State.ctx?_inserted {u : State} {h : Nat} {n : FlowCtx} (hvalid : n.valid = true) (r : FlowRes) :
    ((((u.flowDel h).flowPut h n).countFlow v true).flowAnswer sl r).ctx? h = some n := by
  refine State.ctx?_of_cached ?_ hvalid
  rw [State.flowAnswer_cache, State.countFlow_cache]
  exact State.cached_flowPut State.flowDel_uncached

/-! ## Commands on a handle (R379) -/

theorem State.onHandle_off {h : Nat} {f : FlowCtx → State → State × FlowRes} (hoff : s.domOn 52 = false) : s.onHandle sl h f = s := by
  simp [State.onHandle, State.flowOn, hoff]

/-- A command on a handle reads its context, and goes on in the state after that. -/
theorem State.onHandle_reads {h : Nat} {f : FlowCtx → State → State × FlowRes} (hon : s.domOn 52 = true) :
    let u := s.ctxRead [h] []
    (u.ctx? h = none → s.onHandle sl h f = u.flowAnswer sl ⟨4, h, []⟩) ∧
    (∀ c, u.ctx? h = some c → slotForeign sl c → s.onHandle sl h f = u.flowAnswer sl ⟨5, h, []⟩) ∧
    (∀ c w r, u.ctx? h = some c → ¬ slotForeign sl c → f c u = (w, r) → s.onHandle sl h f = w.flowAnswer sl r) := by
  intro u
  refine ⟨fun hctx => ?_, fun c hctx hforeign => ?_, fun c w r hctx hforeign hf => ?_⟩
  · simp [State.onHandle, State.flowOn, hon, hctx, u]
  · simp [State.onHandle, State.flowOn, hon, hctx, slotForeign_iff.mpr hforeign, u]
  · have hown := Bool.eq_false_iff.mpr (slotForeign_iff.not.mpr hforeign)
    simp [State.onHandle, State.flowOn, hon, hctx, hown, hf, u]

end

end Sys2Proof.Machine
end

section
/-! What the flow commands answer (R378 to R380). -/
set_option Elab.async false
namespace Sys2Proof.Machine

/-! ## INSERT -/

section
variable {s u : State} {sl : FlowSlot} {o : Fin 256} {kb ctx : List Byte} {r : FlowRes}

theorem exec_flowInsert (s : State) (sl : FlowSlot) (o : Fin 256) (kb ctx : List Byte) :
    exec (.flowInsert sl o kb ctx) s = .next (s.served fun z => z.doInsert sl o kb ctx) := rfl

theorem State.doInsert_off (hoff : s.domOn 52 = false) : s.doInsert sl o kb ctx = s := by
  simp [State.doInsert, State.flowOn, hoff]

theorem State.doInsert_on (hon : s.domOn 52 = true)
    (hr : s.flowInsert sl ((slotVi sl).getD o.val) (key24 kb) (flowOfBytes (slice ctx 0 64)) = (u, r)) :
    s.doInsert sl o kb ctx = u.flowAnswer sl r := by
  simp [State.doInsert, State.flowOn, hon, hr]

theorem completes_flowInsert (hon : s.domOn 52 = true)
    (hr : State.flowInsert { s with held := false } sl ((slotVi sl).getD o.val) (key24 kb) (flowOfBytes (slice ctx 0 64)) = (u, r)) :
    completes (.flowInsert sl o kb ctx) s fun t => t = s.orWaits (u.flowAnswer sl r) :=
  completes_served (exec_flowInsert s sl o kb ctx) (State.doInsert_on hon hr)

end

/-! ## Commands on a handle -/

section
variable {s : State} {sl : FlowSlot} {h : Fin 1048576} {kb ctx : List Byte} {cmd : Instr} {f : FlowCtx → State → State × FlowRes}
  {c : FlowCtx}

/-- REMOVE, READ, UPDATE and CLEAR are commands on a handle. -/
theorem exec_onHandle (s : State)
    (hcmd : cmd = .flowRemove sl h ∨ cmd = .flowRead sl h ∨ cmd = .flowUpdate sl h ctx ∨ cmd = .flowClear sl h) :
    ∃ f, exec cmd s = .next (s.served fun z => z.onHandle sl h.val f) := by
  obtain rfl | rfl | rfl | rfl := hcmd <;> exact ⟨_, rfl⟩

theorem completes_onHandle {w : State} {r : FlowRes} (hexec : exec cmd s = .next (s.served fun z => z.onHandle sl h.val f))
    (hon : s.domOn 52 = true) (hctx : (State.ctxRead { s with held := false } [h.val] []).ctx? h.val = some c)
    (hown : ¬ slotForeign sl c) (hf : f c (State.ctxRead { s with held := false } [h.val] []) = (w, r)) :
    completes cmd s fun t => t = s.orWaits (w.flowAnswer sl r) := by
  obtain ⟨-, -, hacts⟩ := State.onHandle_reads (s := { s with held := false }) (sl := sl) (h := h.val) (f := f) hon
  exact completes_served hexec (hacts c w r hctx hown hf)

theorem exec_flowFind (s : State) (sl : FlowSlot) (kb : List Byte) :
    exec (.flowFind sl kb) s = .next (s.served fun z => z.doFind sl kb) := rfl

theorem State.doFind_off (hoff : s.domOn 52 = false) : s.doFind sl kb = s := by simp [State.doFind, State.flowOn, hoff]

theorem State.doFind_absent (hon : s.domOn 52 = true) (hfind : (s.ctxRead (flowHandles (key24 kb)) []).flowFind (key24 kb) = none) :
    s.doFind sl kb = (s.ctxRead (flowHandles (key24 kb)) []).flowAnswer sl ⟨4, 0, []⟩ := by
  simp [State.doFind, State.flowOn, hon, hfind]

theorem State.doFind_found {g : Nat} (hon : s.domOn 52 = true)
    (hfind : (s.ctxRead (flowHandles (key24 kb)) []).flowFind (key24 kb) = some g) :
    let w := (s.ctxRead (flowHandles (key24 kb)) []).ctxRead [g] []
    (w.ctx? g = none → s.doFind sl kb = w.flowAnswer sl ⟨4, g, []⟩) ∧
    (∀ c, w.ctx? g = some c →
      (slotForeign sl c → s.doFind sl kb = w.flowAnswer sl ⟨5, g, []⟩) ∧
      (¬ slotForeign sl c → s.doFind sl kb = (w.flowPut g c).flowAnswer sl ⟨0, g, c.bytes⟩)) := by
  intro w
  have hfound : s.doFind sl kb =
      (s.ctxRead (flowHandles (key24 kb)) []).onHandle sl g fun c u => (u.flowPut g c, ⟨0, g, c.bytes⟩) := by
    simp [State.doFind, State.flowOn, hon, hfind]
  rw [hfound]
  obtain ⟨habsent, hforeign, hacts⟩ := State.onHandle_reads (sl := sl) (h := g) (f := fun c u => (u.flowPut g c, ⟨0, g, c.bytes⟩))
    ((State.ctxRead_domOn ..).trans hon)
  exact ⟨habsent, fun c hctx => ⟨hforeign c hctx, fun hown => hacts c _ _ hctx hown rfl⟩⟩

end

/-! ## The answer -/

theorem State.flowAnswer_secure (s : State) (r : FlowRes) :
    let b := toBytes 8 (r.status + r.handle % 2 ^ 20 * 2 ^ 8) ++ slice r.ctx 0 64
    s.flowAnswer .secure r = { (s.setB 0x6201 2 b).setE 0x6201 3 0 with reply := .bytes b false } := rfl

theorem State.flowAnswer_vi (s : State) (v : Fin 256) (r : FlowRes) :
    let b := toBytes 8 (r.status + r.handle % 2 ^ 20 * 2 ^ 8) ++ slice r.ctx 0 64
    s.flowAnswer (.vi v) r =
      State.setViBit { (s.setB (0x6300 + v.val) 7 b).setE (0x6300 + v.val) 8 0 with reply := .bytes b false } v.val 34 0 := rfl

/-! ## BULK (R380) -/

section
variable {s u w : State} {v k st h : Nat} {b : List Byte} {r : List Byte × List Byte} {recs rest : List (List Byte × List Byte)}

/-- One record of a BULK, through the Secure slot. -/
def State.putRecord (s : State) (v : Nat) (r : List Byte × List Byte) : State × FlowRes :=
  s.flowInsert .secure v (key24 r.1) (flowOfBytes (slice r.2 0 64))

theorem bulkInsert_inserted (hput : s.putRecord v r = (w, ⟨0, h, b⟩)) :
    bulkInsert v k (r :: rest) s = bulkInsert v (k + 1) rest w := by
  rw [bulkInsert]
  rw [State.putRecord] at hput
  rw [hput]
  rfl

theorem bulkInsert_refused (hput : s.putRecord v r = (w, ⟨st, h, b⟩)) (hst : st ≠ 0) :
    bulkInsert v k (r :: rest) s = (w, k, st, k) := by
  rw [bulkInsert]
  rw [State.putRecord] at hput
  rw [hput]
  split
  next heq => simp_all
  next heq => simp_all

/-- `us` are the states between records that are each inserted. -/
def insertedThrough (v : Nat) (recs : List (List Byte × List Byte)) (us : List State) : Prop :=
  ∀ (k : Nat) r u w, recs[k]? = some r → us[k]? = some u → us[k + 1]? = some w → ∃ h b, u.putRecord v r = (w, ⟨0, h, b⟩)

/-- Records that are each inserted are passed, up to the state after the last of them. -/
theorem bulkInsert_passes {us : List State} (hlen : us.length = recs.length + 1) (hfirst : us.head? = some s) (hlast : us.getLast? = some w)
    (hall : insertedThrough v recs us) : bulkInsert v k (recs ++ rest) s = bulkInsert v (k + recs.length) rest w := by
  induction recs generalizing s us k with
  | nil =>
    obtain ⟨x, rfl⟩ := List.length_eq_one_iff.mp hlen
    obtain rfl := Option.some.inj hfirst
    obtain rfl := Option.some.inj hlast
    rfl
  | cons r recs ih =>
    obtain _ | ⟨x, _ | ⟨y, us⟩⟩ := us
    · simp at hlen
    · simp at hlen
    · obtain rfl := Option.some.inj hfirst
      obtain ⟨h, b, hput⟩ := hall 0 r x y rfl rfl rfl
      have hnext : insertedThrough v recs (y :: us) := fun j r u w hr hu hw => hall (j + 1) r u w hr hu hw
      rw [List.cons_append, bulkInsert_inserted hput, ih (Nat.succ.inj hlen) rfl (by simpa using hlast) hnext,
        List.length_cons, Nat.add_right_comm, Nat.add_assoc]

theorem exec_flowBulk (s : State) (o : Fin 256) (recs : List (List Byte × List Byte)) :
    exec (.flowBulk o recs) s = .next (s.served fun z => z.doBulk o recs) := rfl

theorem State.doBulk_off {o : Fin 256} (hoff : s.domOn 52 = false) : s.doBulk o recs = s := by
  simp [State.doBulk, State.flowOn, hoff]

theorem State.doBulk_on {o : Fin 256} {i : Nat} (hon : s.domOn 52 = true) (hr : bulkInsert o.val 0 recs s = (u, k, st, i)) :
    s.doBulk o recs = u.setE 0x6201 5 (k % 2 ^ 32 + st * 2 ^ 32 + i % 2 ^ 20 * 2 ^ 40) := by
  simp [State.doBulk, State.flowOn, hon, hr]

end

/-! ## The statement -/

section
variable {s : State} {sl : FlowSlot} {o : Fin 256} {kb ctx : List Byte}

/-- What INSERT answers where the slot may make the context. -/
theorem completes_flowInsert_reads (hon : s.domOn 52 = true)
    (hbad : badContext { flowOfBytes (slice ctx 0 64) with key := key24 kb } = false)
    (href : ¬ s.flowRefused sl { flowOfBytes (slice ctx 0 64) with key := key24 kb }) :
    let k := key24 kb
    let c := { flowOfBytes (slice ctx 0 64) with key := k }
    let v := (slotVi sl).getD o.val
    let u := State.ctxRead { s with held := false } (flowHandles k) []
    let answers (u : State) (st h : Nat) : Prop :=
      completes (.flowInsert sl o kb ctx) s fun t => t = s.orWaits (u.flowAnswer sl ⟨st, h, []⟩)
    let atQuota := u.ev (0x6300 + v) 3 ≤ u.ev (0x6300 + v) 4
    (∀ h, u.flowFind k = some h → answers u 1 h) ∧
    (u.flowFind k = none →
      (atQuota → answers u 3 0) ∧
      (¬ atQuota →
        ((∀ h ∈ flowHandles k, (u.ctx? h).isSome = true) → answers (u.addE 0x6200 6 32 1) 2 0) ∧
        (∀ pre h post, flowHandles k = pre ++ h :: post → (∀ x ∈ pre, (u.ctx? x).isSome = true) → u.ctx? h = none →
          completes (.flowInsert sl o kb ctx) s fun t =>
            let n := u.newCtx k v c
            let y := (((u.flowDel h).flowPut h n).countFlow v true).flowAnswer sl ⟨0, h, n.bytes⟩
            t = s.orWaits y ∧ y.ctx? h = some n))) := by
  intro k c v u answers atQuota
  obtain ⟨hexists, hnew⟩ := State.flowInsert_reads (s := { s with held := false }) (sl := sl) (v := v) hbad href
  refine ⟨fun h hfind => completes_flowInsert hon (hexists h hfind), fun hfind => ?_⟩
  obtain ⟨hquota, hmore⟩ := hnew hfind
  refine ⟨fun hq => completes_flowInsert hon (hquota hq), fun hq => ?_⟩
  obtain ⟨hfull, hplaced⟩ := hmore hq
  refine ⟨fun h => completes_flowInsert hon (hfull h), fun pre h post hsplit hpre hfree => ?_⟩
  exact (completes_flowInsert hon (hplaced pre h post hsplit hpre hfree)).imp
    fun t ht => ⟨ht, State.ctx?_inserted (State.newCtx_valid ..) _⟩

/-- What FIND answers. -/
theorem completes_flowFind (hon : s.domOn 52 = true) :
    let k := key24 kb
    let f := State.ctxRead { s with held := false } (flowHandles k) []
    let answers (u : State) (r : FlowRes) : Prop := completes (.flowFind sl kb) s fun t => t = s.orWaits (u.flowAnswer sl r)
    (f.flowFind k = none → answers f ⟨4, 0, []⟩) ∧
    (∀ g, f.flowFind k = some g →
      let w := f.ctxRead [g] []
      (w.ctx? g = none → answers w ⟨4, g, []⟩) ∧
      (∀ c, w.ctx? g = some c →
        (slotForeign sl c → answers w ⟨5, g, []⟩) ∧
        (¬ slotForeign sl c → answers (w.flowPut g c) ⟨0, g, c.bytes⟩))) := by
  intro k f answers
  have hexec := exec_flowFind s sl kb
  refine ⟨fun hfind => completes_served hexec (State.doFind_absent hon hfind), fun g hfind => ?_⟩
  obtain ⟨habsent, hvalid⟩ := State.doFind_found (s := { s with held := false }) (sl := sl) hon hfind
  refine ⟨fun hctx => completes_served hexec (habsent hctx), fun c hctx => ?_⟩
  obtain ⟨hforeign, hown⟩ := hvalid c hctx
  exact ⟨fun h => completes_served hexec (hforeign h), fun h => completes_served hexec (hown h)⟩

/-- The commands on a handle whose context is valid and not foreign to the slot. -/
theorem completes_ownHandle {h : Fin 1048576} {c : FlowCtx} (hon : s.domOn 52 = true)
    (hctx : (State.ctxRead { s with held := false } [h.val] []).ctx? h.val = some c) (hown : ¬ slotForeign sl c) :
    let u := State.ctxRead { s with held := false } [h.val] []
    let answers (cmd : Instr) (u : State) (r : FlowRes) : Prop := completes cmd s fun t => t = s.orWaits (u.flowAnswer sl r)
    let m := { c with counts := word (putBits c.counts.toNat 47 0 0) }
    let x := { flowOfBytes (slice ctx 0 64) with key := c.key }
    let y := mergeCtx c x
    answers (.flowRemove sl h) ((u.flowDel h.val).countFlow c.owner false) ⟨0, h.val, []⟩ ∧
    answers (.flowRead sl h) (u.flowPut h.val c) ⟨0, h.val, c.bytes⟩ ∧
    answers (.flowClear sl h) (u.flowPut h.val m) ⟨0, h.val, m.bytes⟩ ∧
    (badContext x = true → answers (.flowUpdate sl h ctx) u ⟨6, h.val, []⟩) ∧
    (badContext x = false → u.flowRefused sl x → answers (.flowUpdate sl h ctx) u ⟨5, h.val, []⟩) ∧
    (badContext x = false → ¬ u.flowRefused sl x → answers (.flowUpdate sl h ctx) (u.flowPut h.val y) ⟨0, h.val, y.bytes⟩) := by
  intro u answers m x y
  refine ⟨completes_onHandle rfl hon hctx hown rfl, completes_onHandle rfl hon hctx hown rfl, completes_onHandle rfl hon hctx hown rfl,
    fun hbad => completes_onHandle rfl hon hctx hown (if_pos hbad),
    fun hbad href => completes_onHandle rfl hon hctx hown ?_, fun hbad href => completes_onHandle rfl hon hctx hown ?_⟩
  · exact (if_neg (by rw [Bool.not_eq_true]; exact hbad)).trans (if_pos (State.flowRefused_iff.mpr href))
  · exact (if_neg (by rw [Bool.not_eq_true]; exact hbad)).trans (if_neg (State.flowRefused_iff.not.mpr href))

/-- What UPDATE takes and what it keeps (Table 11.5). -/
theorem mergeCtx_fields (c x : FlowCtx) :
    let y := mergeCtx c x
    y.key = c.key ∧ y.action = x.action ||| 1 ∧ y.template = x.template ∧ y.owner = c.owner ∧
    bits y.seqs.toNat 47 0 = bits c.seqs.toNat 47 0 ∧ bits y.seqs.toNat 52 48 = bits x.seqs.toNat 52 48 ∧
    bits y.meter.toNat 55 0 = bits c.meter.toNat 55 0 ∧ bits y.meter.toNat 62 56 = bits x.meter.toNat 62 56 ∧
    bits y.counts.toNat 47 0 = bits c.counts.toNat 47 0 ∧ bits y.counts.toNat 53 48 = bits x.counts.toNat 53 48 :=
  ⟨mergeCtx_key, mergeCtx_action, mergeCtx_template, mergeCtx_owner,
    mergeCtx_seqs_kept (by decide) (.inl (by decide)), mergeCtx_seqs_taken,
    mergeCtx_meter_kept (by decide) (.inl (by decide)), mergeCtx_meter_taken,
    mergeCtx_counts_kept (by decide) (.inl (by decide)), mergeCtx_counts_taken⟩

/-- What INSERT gives a context (Table 11.5). -/
theorem State.newCtx_fields (s : State) (k : List Byte) (v : Nat) (c : FlowCtx) :
    let n := s.newCtx k v c
    n.key = k ∧ n.action = c.action ||| 1 ∧ n.template = c.template ∧
    bits n.seqs.toNat 47 0 = 0 ∧ bit n.seqs.toNat 53 = true ∧ bits n.seqs.toNat 52 48 = bits c.seqs.toNat 52 48 ∧
    bits n.meter.toNat 23 0 = s.ev 0x6121 (1 + bits c.meter.toNat 62 56) % 2 ^ 24 ∧
    bits n.meter.toNat 55 24 = s.time / 1024 % 2 ^ 32 ∧ bits n.meter.toNat 62 56 = bits c.meter.toNat 62 56 ∧
    bits n.counts.toNat 47 0 = 0 ∧ bits n.counts.toNat 53 48 = bits c.counts.toNat 53 48 ∧ n.owner = v % 256 :=
  ⟨State.newCtx_key .., State.newCtx_action .., State.newCtx_template .., State.newCtx_sequences ..,
    State.newCtx_resetState .., mergeCtx_seqs_taken, State.newCtx_tokens ..,
    State.newCtx_stamp .., State.newCtx_profile .., State.newCtx_counters .., mergeCtx_counts_taken, State.newCtx_owner ..⟩

/-- BULK inserts every record that it is given. -/
theorem completes_flowBulk_all {recs : List (List Byte × List Byte)} {us : List State} (hon : s.domOn 52 = true)
    (hlen : us.length = recs.length + 1) (hfirst : us.head? = some { s with held := false }) (hall : insertedThrough o.val recs us) :
    completes (.flowBulk o recs) s fun t => ∀ w, us.getLast? = some w → t = s.orWaits (w.setE 0x6201 5 (recs.length % 2 ^ 32)) := by
  refine ⟨_, exec_flowBulk s o recs, fun w hlast => ?_⟩
  have hr := bulkInsert_passes (k := 0) (rest := []) hlen hfirst hlast hall
  rw [List.append_nil, bulkInsert, Nat.zero_add] at hr
  rw [State.served_eq_orWaits, State.doBulk_on (s := { s with held := false }) hon hr]
  simp

/-- BULK stops at the first record that is refused. -/
theorem completes_flowBulk_refused {recs : List (List Byte × List Byte)} {us : List State} {st h : Nat} {b : List Byte}
    {r : List Byte × List Byte} {u w : State} (hon : s.domOn 52 = true) (hfirst : us.head? = some { s with held := false })
    (hlast : us.getLast? = some u) (hall : insertedThrough o.val (recs.take (us.length - 1)) us)
    (hrec : recs[us.length - 1]? = some r) (hput : u.putRecord o.val r = (w, ⟨st, h, b⟩)) (hst : st ≠ 0) :
    let k := us.length - 1
    completes (.flowBulk o recs) s fun t => t = s.orWaits (w.setE 0x6201 5 (k % 2 ^ 32 + st * 2 ^ 32 + k % 2 ^ 20 * 2 ^ 40)) := by
  intro k
  obtain ⟨hk, hget⟩ := List.getElem?_eq_some_iff.mp hrec
  have hpos : 0 < us.length := List.length_pos_iff.mpr fun hnil => by simp [hnil] at hfirst
  have hcount : (recs.take k).length = k := List.length_take_of_le (Nat.le_of_lt hk)
  have hsplit : recs = recs.take k ++ r :: recs.drop (k + 1) := by
    rw [← hget, List.getElem_cons_drop, List.take_append_drop]
  have hr : bulkInsert o.val 0 recs { s with held := false } = (w, k, st, k) := by
    rw [hsplit, bulkInsert_passes (by rw [hcount]; omega) hfirst hlast hall, bulkInsert_refused hput hst, hcount, Nat.zero_add]
  exact completes_served (exec_flowBulk s o recs) (State.doBulk_on hon hr)

end

/-- Settles O56: each command's answer case by case, the lookup by the search of both buckets, and BULK by induction on the records before
the first that is refused. -/
theorem flowCommands : Obligations.FlowCommands := by
  refine ⟨fun s sl o kb ctx => ?_, State.newCtx_fields, fun s k => ?_, fun s sl h kb ctx => ?_,
    fun s v r => ⟨State.flowAnswer_secure s r, State.flowAnswer_vi s v r⟩, fun s o recs => ?_⟩
  · intro cmd k c v z u answers refused atQuota
    refine ⟨fun hoff => exec_of_served_idle (exec_flowInsert s sl o kb ctx) (State.doInsert_off hoff),
      fun hon hbad => completes_flowInsert hon (State.flowInsert_malformed hbad), fun hon hbad => ⟨fun href => ?_, fun href => ?_⟩⟩
    · exact completes_flowInsert hon (State.flowInsert_refused hbad href)
    · exact completes_flowInsert_reads hon hbad href
  · exact ⟨flowHandles_eq k, flowBuckets_ne _ _, fun h => State.flowFind_some, State.flowFind_none⟩
  · intro k foreign z u answers
    refine ⟨fun cmd hcmd => ?_, fun hoff => exec_of_served_idle (exec_flowFind s sl kb) (State.doFind_off hoff),
      completes_flowFind, fun c hon hctx hown => ?_⟩
    · obtain ⟨f, hexec⟩ := exec_onHandle s hcmd
      refine ⟨fun hoff => exec_of_served_idle hexec (State.onHandle_off hoff), fun hon => ?_, fun c hon => ?_⟩
      all_goals obtain ⟨habsent, hforeign, -⟩ := State.onHandle_reads (s := z) (sl := sl) (h := h.val) (f := f) hon
      · exact fun hctx => completes_served hexec (habsent hctx)
      · exact fun hctx hf => completes_served hexec (hforeign c hctx hf)
    · intro m x y unpermitted
      obtain ⟨hremove, hread, hclear, hbad, hrefused, hupdate⟩ := completes_ownHandle (ctx := ctx) hon hctx hown
      exact ⟨hremove, State.flowDel_uncached, hread, hclear, hbad, hrefused,
        fun hok hmay => ⟨hupdate hok hmay, mergeCtx_fields c x⟩⟩
  · intro put
    refine ⟨fun hoff => exec_of_served_idle (exec_flowBulk s o recs) (State.doBulk_off hoff),
      fun us hon hlen hfirst hall => completes_flowBulk_all hon hlen hfirst hall,
      fun us st h b r u w hon hfirst hlast hall hrec hput hst => completes_flowBulk_refused hon hfirst hlast ?_ hrec hput hst⟩
    intro j r u w hr
    obtain ⟨hr, hj⟩ : recs[j]? = some r ∧ j < us.length - 1 := by
      rw [List.getElem?_take] at hr
      split at hr
      next hj => exact ⟨hr, hj⟩
      next => cases hr
    exact hall j r u w (by omega) hr

end Sys2Proof.Machine
end

section
/-! A poisoned read of a context that holds a flow (R373, R508). -/
namespace Sys2Proof.Machine

theorem eq_some_of_isSome_snd {α β : Type} {x : α × Option β} (h : x.2.isSome = true) : ∃ b, x = (x.1, some b) := by
  obtain ⟨b, hb⟩ := Option.isSome_iff_exists.mp h
  exact ⟨b, Prod.ext rfl hb⟩

/-- The HBM is trained and filled; handle 5 holds a valid context of VI 0 in the carve-out, the only flow of the device, and the cache holds
none. -/
def flowInCarveOut : State :=
  let trained : State := { State.reset with hbm := { State.reset.hbm with fill := .done, train := Vector.replicate 2 .full } }
  ((trained.setE 0x6200 1 1).setE 0x6300 4 1).ctxWrite 5 { flowOfBytes [] with action := 1 }

theorem flowInCarveOut_uncached : flowInCarveOut.gw.cache = [] := by decide +kernel

/-- The carve-out answers a read of the context. -/
theorem flowInCarveOut_answers : (flowInCarveOut.dmaRead .flowEngine (ctxPa 5) 64).2.isSome = true := by decide +kernel

/-- The poisoned read ends the flow: FLOWS, the number of valid contexts, goes from 1 to 0. -/
theorem flowInCarveOut_poisoned :
    (flowInCarveOut.ctx? 5).isSome = true ∧ flowInCarveOut.ev 0x6200 1 = 1 ∧ (flowInCarveOut.ctxRead [5] [5]).ev 0x6200 1 = 0 := by
  decide +kernel

/-- The statement's effect of the read frees the context and leaves FLOWS. -/
theorem flowInCarveOut_stated : let r := (flowInCarveOut.dmaRead .flowEngine (ctxPa 5) 64).1
    (((r.flowDel 5).addE 0x6200 5 32 1).record bankGw 0x13 4 0 (ctxPa 5) 0).ev 0x6200 1 = 1 := by
  decide +kernel

/-- Refutes O54: its clause on a read of one context has a poisoned read clear V, count in MISS_DROPS and make a record, without the counts
of flows. Where the context is valid its flow ends, so that FLOWS and FLOWS_OWNED go down with it (R508, Table 11.13): here the
read takes FLOWS to 0, and the clause leaves it 1. -/
theorem not_framesOfVis : ¬ Obligations.FramesOfVis := by
  rintro ⟨-, -, -, -, -, -, hread, -⟩
  obtain ⟨-, hmiss⟩ := hread flowInCarveOut 5 [5]
  have huncached : ¬ ∃ e ∈ flowInCarveOut.gw.cache, ∃ x ∈ e.2, x.1 = 5 := by simp [flowInCarveOut_uncached]
  obtain ⟨⟨d, po⟩, hdata⟩ := eq_some_of_isSome_snd flowInCarveOut_answers
  have hstated := hmiss huncached _ d po hdata
  rw [if_pos (.inr (List.mem_singleton.mpr rfl))] at hstated
  obtain ⟨-, -, hpoisoned⟩ := flowInCarveOut_poisoned
  rw [hstated] at hpoisoned
  exact absurd (flowInCarveOut_stated.symm.trans hpoisoned) (by decide)

end Sys2Proof.Machine
end
